-- ==== Sys2Proof/Word.lean ====
section
/-! DEFINITION. Words of the LA7192: the word types every file uses (R3, R4). -/

namespace Sys2Proof

abbrev Byte := BitVec 8
abbrev Word16 := BitVec 16
abbrev Word32 := BitVec 32
abbrev Word64 := BitVec 64
/-- A string of bytes, lowest address or first sent first. -/
abbrev Bytes := List Byte

/-- A sparse table by number, keys strictly rising; an absent key stands for the object's default. -/
abbrev Tab (α : Type) := List (Nat × α)

end Sys2Proof
end

