-- ==== Sys2Proof/Syntax.lean ====
section
/-! DEFINITION. The commands of the LA7192: one constructor of `Instr` for each row of
spec/opcode_table.json, with the operands that the row's event or access carries.

A leading `t` is the instant of the command: nanoseconds on the device clock (log 1). -/

namespace Sys2Proof

/-- The image slots of the boot flash (R365). -/
inductive Slot where
  | a | b
  deriving DecidableEq, Repr, Inhabited

/-- What the strap balls and TEST_EN read at the end of a reset (R443, R444). -/
structure Straps where
  p0Mode : BitVec 2
  p1Mode : BitVec 2
  mbxAddr : BitVec 2
  testEn : Bool
  deriving DecidableEq, Repr

/-- Which reference inputs run (R395, R399). -/
structure Refs where
  eth0 : Bool
  eth1 : Bool
  pcie : Bool
  deriving DecidableEq, Repr

/-- What the parts outside the logic answer while stage 1 is fetched and the device is set up
(R364, R388, R397, R411): a `false` names the failing part. -/
structure StartFacts where
  flashAnswers : Bool
  flashMiB : Nat
  fusesReadable : Bool
  memoriesGood : Bool
  pllsLocked : Bool
  vddReached : Bool
  deriving DecidableEq, Repr

/-- The answers of the signature engine for the signatures of one slot (ML-DSA-65, R301; log 6). -/
structure SlotSigs where
  slot : Bool
  patch : Bool
  owner : Bool
  deriving DecidableEq, Repr

/-- A logical port whose lanes align, and the speed in Gbit/s that its link partner offers in auto-negotiation, none where it
runs none (R51). -/
structure LinkEnd where
  port : Fin 16
  offer : Option Nat
  deriving DecidableEq, Repr

/-- A sequencer whose frame meets the cap, and the words that SECDED corrected in the frame's parse (R76, R81; log 55). -/
structure CapEnd where
  seq : Fin 6
  corrected : Nat
  deriving DecidableEq, Repr

/-- A byte written to SB_DATA, behind an SB_PTR that the same transfer has written before, where it has (R335; log 77). -/
structure SbByte where
  ptr : Option Word32
  value : Byte
  deriving DecidableEq, Repr

/-- A read of one byte of SB_DATA: its instant, and the SB_PTR that the same transfer has written before, where it has (R335; log
77). -/
structure SbRead where
  instant : Nat
  ptr : Option Word32
  deriving DecidableEq, Repr

/-- What a VENDOR_REVOKE meets: whether the statement's signature verifies (log 6), and whether the flash takes the new copy (log
36). -/
structure StatementFound where
  verifies : Bool
  flashOk : Bool
  deriving DecidableEq, Repr

/-- A frame that completes at a MAC: its bytes on the wire, SecTAG, ICV and FCS included, whether it overlaps an uncorrectable
codeword (R52), and the codewords that the decoder of the physical port found uncorrectable and corrected since the frame
before (R52, R66; log 63). -/
structure WireFrame where
  lp : Fin 16
  bytes : Bytes
  fecBad : Bool
  uncorr : Nat := 0
  corr : Nat := 0
  deriving DecidableEq, Repr

/-- An EHT packet at the engine: the EHT header and payload as on the wire, with what the outer
headers gave (R151). `udpGood` is false for a bad UDP checksum and `frag` for an IPv4 fragment; `tIn` is the frame's T_in
(R61), ns. -/
structure EhtRx where
  lp : Fin 16
  srcIp : BitVec 128
  srcMac : BitVec 48
  spoofOk : Bool
  udpGood : Bool
  frag : Bool
  local_ : Bool
  bytes : Bytes
  tIn : Nat := 0
  deriving DecidableEq, Repr

/-- The mailbox transports (R331). -/
inductive Via where
  | inband | sideband
  deriving DecidableEq, Repr, Inhabited

/-- Where a request came from, and so where its response goes (R334). -/
structure Peer where
  via : Via
  srcEid : Word32
  srcGen : Word16
  srcIp : BitVec 128
  srcMac : BitVec 48
  lp : Fin 16
  deriving DecidableEq, Repr, Inhabited

/-- A mailbox request whose header has been read (R336). -/
structure Req where
  peer : Peer
  code : Word16
  tag : Word32
  cursor : Word64
  body : Bytes
  deriving DecidableEq, Repr, Inhabited

/-- A thread `s.c.tn` (R3). -/
structure Tid where
  stall : Fin 12
  role : Fin 16
  thread : Fin 8
  deriving DecidableEq, Repr, Inhabited

/-- A general register number of a thread (R277). -/
abbrev Reg := BitVec 5

/-- An object that a quiesce drains (R26, R360). -/
inductive QObj where
  | tf (n : Nat)
  | storageQueue (tf q : Nat)
  | tmQueue (q : Nat)
  | logicalPort (n : Fin 16)
  | stall (s : Fin 12)
  | endpoint (eid : Word32)
  deriving DecidableEq, Repr

/-- A token bucket (R132). -/
inductive BucketId where
  | port (lp : Fin 16)
  | group (g : Fin 8192)
  | queue (q : Fin 65536)
  | policer (p : Fin 32768)
  deriving DecidableEq, Repr

/-- Identity of an inbound EHT message (R163). -/
structure MsgKey where
  srcEid : Word32
  srcGen : Word16
  msgId : Word64
  deriving DecidableEq, Repr, Inhabited

/-- How a drive fails (R215). -/
inductive DriveLoss where
  | removed | linkLost | aerFatal | cfs
  deriving DecidableEq, Repr

/-- What a drive answers to an NVMe I/O command or an Abort of it (R203, R214). -/
structure NvmeDone where
  cid : Nat
  status : Word16
  media : Bool
  aborted : Bool
  /-- the Abort of the command has completed, and the command itself has not (R214) -/
  abortOnly : Bool
  failLba : Word64
  data : Bytes
  deriving DecidableEq, Repr

/-- What a drive answers to a command of its bring-up (R213, steps 3 to 6): Identify Controller gives the serial number, Identify
Namespace the size and whether its blocks are 4,096 bytes without metadata. -/
structure AdminDone where
  ok : Bool
  serial : Word64
  blocksOk : Bool
  nsBlocks : Word64
  deriving DecidableEq, Repr

/-- The memories that carry SECDED (R325). -/
inductive MemKind where
  | scratch | stall | market | hbm
  deriving DecidableEq, Repr, Inhabited

/-- What a read by the scrubber finds (R325, R326). -/
inductive EccFinding where
  | clean | corrected | uncorrectable
  /-- in both copies of a region descriptor (R326); elsewhere as `uncorrectable` -/
  | uncorrectableBoth
  deriving DecidableEq, Repr

/-- The commands: one constructor per row of spec/opcode_table.json. -/
inductive Instr where
  -- resets and start (15, 16)
  | powerOnReset (t : Nat)
  | resetNLow (t : Nat)
  | resetRelease (t : Nat) (straps : Straps)
  | watchdog (t : Nat)
  | thermalTrip (t : Nat) (tj : Int)
  | thermalWarn (t : Nat) (tj : Int)
  | xtalStable (t : Nat) (refs : Refs)
  | xtalTimeout (t : Nat)
  | bootVerdict (t : Nat) (sigs : SlotSigs)
  | hbmTrainingDone (t : Nat) (ok0 ok1 : Bool)
  | coreImagesReady (t : Nat)
  | storedConfigDecision (t : Nat) (imageSig : Bool)
  | replayDone (t : Nat) (j : Fin 16)
  | trialReverted (t : Nat)
  | clkRefLost (t : Nat) (input : Fin 3)
  | clkRefRestored (t : Nat) (input : Fin 3)
  | clkFail (t : Nat) (input : Fin 9)
  | avsAdjust (t : Nat) (want measured : Nat) (answered : Bool) (regStatus : Nat)
  | devResetExecute (t : Nat)
  | lockstepMismatch (t : Nat) (pc : Nat)
  | clerkRestartDone (t : Nat)
  | autoWake (t : Nat) (block : Fin 33)
  | autoGateStop (t : Nat) (block : Fin 33)
  | clkoutSettingApply (t : Nat)
  | slewEnd (t : Nat)
  | ppsInEdge (t : Nat)
  | ppsOutRise (t : Nat)
  | ppsOutFall (t : Nat)
  -- boundary scan (18)
  | tapReset
  | idcode
  | samplePreload (bits : BitVec 104)
  | extest
  | clamp
  | highz
  | bypass (opcode : Byte)
  -- ports and parser (03, 04)
  | frameReceive (t : Nat) (f : WireFrame)
  | linkUp (t : Nat) (l : LinkEnd)
  | linkDown (t : Nat) (lp : Fin 16)
  | linkSetupFallback (t : Nat) (port : Fin 2)
  | fecDegrade (t : Nat) (port : Fin 2) (lane : Fin 8) (symbols : Nat)
  | mgmtFrameRelease (t : Nat) (port : Fin 2)
  | saActivated (t : Nat) (port : Fin 2)
  | dispatch (t : Nat) (pipe : Fin 4) (avail : Nat)
  | parseStallResume (t : Nat) (pipe : Fin 4) (seq : Fin 6) (avail clocks : Nat)
  | parseEnd (t : Nat) (pipe : Fin 4) (seq : Fin 6) (corrected : Nat) (bad : Option (BitVec 15))
  | chcXCap (t : Nat) (pipe : Fin 4) (c : CapEnd)
  | robRelease (t : Nat) (buf : Fin 20)
  | robTimeout (t : Nat) (buf : Fin 20)
  | versionSlotFree (t : Nat) (slot : Fin 8)
  | csRewrite (t : Nat) (seq : Fin 24) (addr : BitVec 15)
  -- traffic manager (06)
  | tmDecision (t : Nat) (lp : Fin 16)
  | transmitSelect (t : Nat) (lp : Fin 16)
  | transmitEnd (t : Nat) (lp : Fin 16)
  | quiesceTimeout (t : Nat) (obj : QObj)
  | gateEvent (t : Nat) (lp : Fin 16)
  | bellChange (t : Nat) (lp : Fin 16)
  | tokenRefill (t : Nat) (bucket : BucketId)
  -- tables (05)
  | learn (t : Nat) (tbl : Fin 16)
  | refresh (t : Nat) (tbl : Fin 16)
  | ageTick (t : Nat) (tbl : Fin 16)
  | agerRequest (t : Nat) (tbl : Fin 16)
  | notifyDeliver (t : Nat) (tbl : Fin 16)
  | dumpStep (t : Nat) (tbl : Fin 16)
  | flushDone (t : Nat) (tbl : Fin 16)
  | bucketClear (t : Nat) (tbl : Fin 16)
  | tableRecompute (t : Nat) (tbl : Fin 16)
  -- EHT (07)
  | data (t : Nat) (p : EhtRx)
  | ack (t : Nat) (p : EhtRx)
  | creditReq (t : Nat) (p : EhtRx)
  | creditGrant (t : Nat) (p : EhtRx)
  | tally (t : Nat) (p : EhtRx)
  | moved (t : Nat) (p : EhtRx)
  | contextExpiry (t : Nat) (m : MsgKey)
  | epochAdvance (t : Nat)
  | grantExpiry (t : Nat) (g : Word16)
  | senderGrantStop (t : Nat) (book : Word16)
  | rtoExpiry (t : Nat) (m : Nat)
  | retryWaitEnd (t : Nat) (m : Nat)
  | sendWindowEnd (t : Nat) (m : Nat)
  | ehtTimeout (t : Nat) (m : Nat)
  | revokeDone (t : Nat) (idx : BitVec 20)
  | restoredRegionFree (t : Nat) (idx : BitVec 20)
  -- tenant-function completions (09)
  | graceEnd (t : Nat) (tf : BitVec 12)
  | tfSaved (t : Nat) (tf : BitVec 12)
  | tfRestored (t : Nat) (tf : BitVec 12)
  -- storage (08)
  | stoFlush (t : Nat) (tf : BitVec 12) (q : Fin 64)
  | stoWrite (t : Nat) (tf : BitVec 12) (q : Fin 64)
  | stoRead (t : Nat) (tf : BitVec 12) (q : Fin 64)
  | stoWriteZeroes (t : Nat) (tf : BitVec 12) (q : Fin 64)
  | stoDeallocate (t : Nat) (tf : BitVec 12) (q : Fin 64)
  | stoLog (t : Nat) (tf : BitVec 12) (q : Fin 64)
  | stoRestartResume (t : Nat) (tf : BitVec 12) (q : Fin 64)
  | stoRestartDiscard (t : Nat) (tf : BitVec 12) (q : Fin 64)
  | stoDispatch (t : Nat)
  | nvmeCompletion (t : Nat) (rp : Fin 16) (done : NvmeDone)
  | coalesceTimeout (t : Nat) (tf : BitVec 12) (q : Fin 64)
  | journalCheckpoint (t : Nat) (j : Fin 16)
  | driveTimeout (t : Nat) (rp : Fin 16) (cid : Nat)
  | abortTimeout (t : Nat) (rp : Fin 16)
  | driveFailure (t : Nat) (rp : Fin 16) (how : DriveLoss)
  | driveLinkUp (t : Nat) (rp : Fin 16)
  | driveLinkRetry (t : Nat) (rp : Fin 16)
  | driveAdminCompletion (t : Nat) (rp : Fin 16) (done : AdminDone)
  | selftestIdleStart (t : Nat) (rp : Fin 16)
  | selftestTimeout (t : Nat) (rp : Fin 16)
  | selftestResult (t : Nat) (rp : Fin 16) (result : Nat)
  | driveFwDone (t : Nat) (rp : Fin 16) (accepted : Bool)
  -- Idori instructions (11)
  | add (i : Tid) (rd ra rb : Reg)
  | sub (i : Tid) (rd ra rb : Reg)
  | and (i : Tid) (rd ra rb : Reg)
  | or (i : Tid) (rd ra rb : Reg)
  | xor (i : Tid) (rd ra rb : Reg)
  | sll (i : Tid) (rd ra rb : Reg)
  | srl (i : Tid) (rd ra rb : Reg)
  | sra (i : Tid) (rd ra rb : Reg)
  | slt (i : Tid) (rd ra rb : Reg)
  | sltu (i : Tid) (rd ra rb : Reg)
  | mul (i : Tid) (rd ra rb : Reg)
  | mulhu (i : Tid) (rd ra rb : Reg)
  | divu (i : Tid) (rd ra rb : Reg)
  | remu (i : Tid) (rd ra rb : Reg)
  | addi (i : Tid) (rd ra : Reg) (imm : Word16)
  | andi (i : Tid) (rd ra : Reg) (imm : Word16)
  | ori (i : Tid) (rd ra : Reg) (imm : Word16)
  | xori (i : Tid) (rd ra : Reg) (imm : Word16)
  | shi (i : Tid) (rd ra : Reg) (kind : BitVec 2) (n : BitVec 6)
  | slti (i : Tid) (rd ra : Reg) (imm : Word16)
  | sltiu (i : Tid) (rd ra : Reg) (imm : Word16)
  | movk (i : Tid) (rd : Reg) (k : BitVec 2) (imm : Word16)
  | movz (i : Tid) (rd : Reg) (k : BitVec 2) (imm : Word16)
  | ld (i : Tid) (rd ra : Reg) (imm : Word16)
  | lw (i : Tid) (rd ra : Reg) (imm : Word16)
  | lh (i : Tid) (rd ra : Reg) (imm : Word16)
  | lb (i : Tid) (rd ra : Reg) (imm : Word16)
  | sd (i : Tid) (rs ra : Reg) (imm : Word16)
  | sw (i : Tid) (rs ra : Reg) (imm : Word16)
  | sh (i : Tid) (rs ra : Reg) (imm : Word16)
  | sb (i : Tid) (rs ra : Reg) (imm : Word16)
  | beq (i : Tid) (ra rb : Reg) (off : Word16)
  | bne (i : Tid) (ra rb : Reg) (off : Word16)
  | blt (i : Tid) (ra rb : Reg) (off : Word16)
  | bge (i : Tid) (ra rb : Reg) (off : Word16)
  | bltu (i : Tid) (ra rb : Reg) (off : Word16)
  | bgeu (i : Tid) (ra rb : Reg) (off : Word16)
  | j (i : Tid) (off : BitVec 26)
  | jal (i : Tid) (off : BitVec 26)
  | jalr (i : Tid) (rd ra : Reg) (imm : Word16)
  | extu (i : Tid) (rd ra : Reg) (pos len1 : BitVec 6)
  | exts (i : Tid) (rd ra : Reg) (pos len1 : BitVec 6)
  | ins (i : Tid) (rd ra : Reg) (pos len1 : BitVec 6)
  | clz (i : Tid) (rd ra : Reg)
  | popc (i : Tid) (rd ra : Reg)
  | bswap (i : Tid) (rd ra : Reg)
  | crcc (i : Tid) (rd ra rb : Reg) (ww : BitVec 2)
  | crce (i : Tid) (rd ra rb : Reg) (ww : BitVec 2)
  | hmix (i : Tid) (rd ra rb : Reg)
  | aadd (i : Tid) (rd ra rb : Reg)
  | aswp (i : Tid) (rd ra rb : Reg)
  | acas (i : Tid) (rd ra rb : Reg)
  | aand (i : Tid) (rd ra rb : Reg)
  | aor (i : Tid) (rd ra rb : Reg)
  | fence (i : Tid)
  | ifence (i : Tid)
  | chw (i : Tid) (rd ra : Reg) (ep : BitVec 6)
  | chwe (i : Tid) (rd ra : Reg) (ep : BitVec 6)
  | chr (i : Tid) (rd : Reg) (ep : BitVec 6)
  | chskip (i : Tid) (ep : BitVec 6)
  | chpush (i : Tid) (rd : Reg) (ep : BitVec 6)
  | chdrop (i : Tid) (ep : BitVec 6)
  | chpoll (i : Tid) (rd : Reg) (ep : BitVec 6)
  | wtime (i : Tid) (rd : Reg)
  | wsel (i : Tid) (rd : Reg)
  | wspace (i : Tid) (rd : Reg) (ep : BitVec 6)
  | mfs (i : Tid) (rd : Reg) (sr : BitVec 4)
  | mts (i : Tid) (ra : Reg) (sr : BitVec 4)
  | trestart (i : Tid) (rd ra rb : Reg)
  | tstate (i : Tid) (rd ra : Reg)
  | ehtsub (i : Tid) (rd ra : Reg)
  | slotret (i : Tid) (rd ra rb : Reg)
  | finj (i : Tid) (rd ra : Reg)
  | frel (i : Tid) (ra : Reg)
  -- Idori events (10)
  | blockedReadReturn (t : Nat) (i : Tid)
  | timerPortExpiry (t : Nat) (i : Tid)
  | quietDetector (t : Nat) (stall : Fin 12) (role : Fin 16)
  | spareStart (t : Nat) (stall : Fin 12) (role : Fin 16)
  | rehomeStart (t : Nat) (stall : Fin 12) (role : Fin 16)
  -- security jobs (12)
  | jobRingNotice (t : Nat) (tf : BitVec 12) (base count : Nat)
  | gcmEncrypt (t : Nat) (tf : BitVec 12)
  | gcmDecrypt (t : Nat) (tf : BitVec 12)
  | xtsEncrypt (t : Nat) (tf : BitVec 12)
  | xtsDecrypt (t : Nat) (tf : BitVec 12)
  | shake256 (t : Nat) (tf : BitVec 12)
  -- memory (13)
  | patrolScrub (t : Nat) (kind : MemKind) (unit role : Byte) (addr : Word64) (found : EccFinding) (passDone : Bool)
  | fixedAreaRewrite (t : Nat) (addr : Word64)
  -- Teasel (17)
  | sweepStart (t : Nat)
  | testStart (t : Nat) (unit : Word16)
  | bankCopyDone (t : Nat)
  | testRunEnd (t : Nat) (pass : Bool) (signature : Nat)
  | sweepPeriodEnd (t : Nat)
  | deadListBurn (t : Nat) (unit : Word16)
  -- mailbox transport (14)
  | mbxRequest (t : Nat) (peer : Peer) (bytes : Bytes)
  | replay (t : Nat) (r : Req)
  | resultPart (t : Nat) (r : Req)
  | cmdTimeout (t : Nat)
  | captureRelease (t : Nat) (id : Nat)
  | stagingExpiry (t : Nat)
  | cfgStoreDone (t : Nat) (programmed : Bool)
  | tallyInterval (t : Nat)
  | eventMessageDone (t : Nat) (sub : Fin 8) (status : Byte)
  | eventRetry (t : Nat) (sub : Fin 8)
  | go (t : Nat)
  | cancel (t : Nat)
  | rspAck (t : Nat)
  | evtAck (t : Nat)
  | sbDataWrite (t : Nat) (b : SbByte)
  | sbDataRead (r : SbRead)
  | entdaa (t : Nat) (addr : BitVec 7)
  | setdasa (t : Nat) (addr : BitVec 7)
  -- mailbox commands, groups 0x01 to 0x0F (14)
  | devInfo (t : Nat) (r : Req)
  | regRead (t : Nat) (r : Req)
  | regWrite (t : Nat) (r : Req)
  | devReset (t : Nat) (r : Req)
  | cfgOpen (t : Nat) (r : Req)
  | cfgWrite (t : Nat) (r : Req)
  | cfgRead (t : Nat) (r : Req)
  | cfgDiscard (t : Nat) (r : Req)
  | cfgCommit (t : Nat) (r : Req)
  | cfgStatus (t : Nat) (r : Req)
  | cfgRecall (t : Nat) (r : Req) (imageSig : Bool)
  | tallyPeers (t : Nat) (r : Req)
  | evtSubscribe (t : Nat) (r : Req)
  | evtUnsubscribe (t : Nat) (r : Req)
  | evtRead (t : Nat) (r : Req)
  | msSaInstall (t : Nat) (r : Req)
  | msSaActivate (t : Nat) (r : Req)
  | msSaDelete (t : Nat) (r : Req)
  | msStatus (t : Nat) (r : Req)
  | lpQuiesce (t : Nat) (r : Req)
  | lpEnable (t : Nat) (r : Req)
  | tsRead (t : Nat) (r : Req)
  | ppsRead (t : Nat) (r : Req)
  | chcPatchLoad (t : Nat) (r : Req) (sig : Bool)
  | chcExtLoad (t : Nat) (r : Req) (sig : Bool)
  | tblInsert (t : Nat) (r : Req)
  | tblDelete (t : Nat) (r : Req)
  | tblRead (t : Nat) (r : Req)
  | tblBatch (t : Nat) (r : Req)
  | tblFlush (t : Nat) (r : Req)
  | tblDump (t : Nat) (r : Req)
  | tmQstats (t : Nat) (r : Req)
  | tmPolstats (t : Nat) (r : Req)
  | tmQquiesce (t : Nat) (r : Req)
  | tmQenable (t : Nat) (r : Req)
  | ehtRegCreate (t : Nat) (r : Req)
  | ehtRegRevoke (t : Nat) (r : Req)
  | ehtRegQuery (t : Nat) (r : Req)
  | ehtBookWrite (t : Nat) (r : Req)
  | ehtBookRead (t : Nat) (r : Req)
  | ehtEpQuiesce (t : Nat) (r : Req)
  | stoQueueQuiesce (t : Nat) (r : Req)
  | stoQueueStats (t : Nat) (r : Req)
  | stoDriveStatus (t : Nat) (r : Req)
  | stoSelftest (t : Nat) (r : Req)
  | stoDriveFw (t : Nat) (r : Req)
  | stoNsOnline (t : Nat) (r : Req)
  | tfEnable (t : Nat) (r : Req)
  | tfDisable (t : Nat) (r : Req)
  | tfFreeze (t : Nat) (r : Req)
  | tfThaw (t : Nat) (r : Req)
  | tfSave (t : Nat) (r : Req)
  | tfRestore (t : Nat) (r : Req)
  | tfMoved (t : Nat) (r : Req)
  | tfQuery (t : Nat) (r : Req)
  | tfStats (t : Nat) (r : Req)
  | tfEpCreate (t : Nat) (r : Req)
  | tfEpDestroy (t : Nat) (r : Req)
  | tfSqCreate (t : Nat) (r : Req)
  | tfSqResize (t : Nat) (r : Req)
  | tfSqEnable (t : Nat) (r : Req)
  | tfSqDestroy (t : Nat) (r : Req)
  | stallStart (t : Nat) (r : Req)
  | stallQuiesce (t : Nat) (r : Req)
  | coreRestart (t : Nat) (r : Req)
  | dbgStop (t : Nat) (r : Req)
  | dbgResume (t : Nat) (r : Req)
  | dbgStep (t : Nat) (r : Req)
  | dbgKill (t : Nat) (r : Req)
  | dbgBreak (t : Nat) (r : Req)
  | dbgRead (t : Nat) (r : Req)
  | dbgWrite (t : Nat) (r : Req)
  | keyGenerate (t : Nat) (r : Req)
  | keyImport (t : Nat) (r : Req)
  | keyExport (t : Nat) (r : Req)
  | keyRootImport (t : Nat) (r : Req) (sig : Bool)
  | keyDestroy (t : Nat) (r : Req)
  | keyQuery (t : Nat) (r : Req)
  | attCert (t : Nat) (r : Req)
  | attLog (t : Nat) (r : Req)
  | attExtend (t : Nat) (r : Req)
  | attQuote (t : Nat) (r : Req)
  | bootStatus (t : Nat) (r : Req)
  | fwWrite (t : Nat) (r : Req) (flashOk : Bool)
  | fwVerify (t : Nat) (r : Req) (sigs : SlotSigs)
  | fwActivate (t : Nat) (r : Req) (sig flashOk : Bool)
  | fwConfirm (t : Nat) (r : Req) (flashOk : Bool)
  | bootMinverRaise (t : Nat) (r : Req) (sig flashOk : Bool)
  | vendorRevoke (t : Nat) (r : Req) (sig : Bool) (statement : StatementFound) (slotA slotB : SlotSigs)
  | ownerKey (t : Nat) (r : Req) (sig flashOk : Bool)
  | ownerPolicy (t : Nat) (r : Req) (sig flashOk : Bool)
  | teaselStatus (t : Nat) (r : Req)
  | teaselTest (t : Nat) (r : Req)
  | teaselDeclare (t : Nat) (r : Req)
  | teaselReinstate (t : Nat) (r : Req)
  | teaselDeadlist (t : Nat) (r : Req)
  | tbRead (t : Nat) (r : Req)
  | tbSet (t : Nat) (r : Req)
  | tbRate (t : Nat) (r : Req)
  | tbSlew (t : Nat) (r : Req)
  | clkGate (t : Nat) (r : Req)
  | pwrStatus (t : Nat) (r : Req)
  -- register writes with a row of their own: the value written
  | exlatSnap (lp : Fin 16) (v : Word32)
  | exlatCtlClear (lp : Fin 16) (v : Word32)
  | exlatValidRearm (lp : Fin 16) (v : Word32)
  | portSnap (port : Fin 2) (v : Word32)
  | portClear (port : Fin 2) (v : Word32)
  | parseSnap (v : Word32)
  | parseClear (v : Word32)
  | tblSnap (tbl : Fin 16) (v : Word32)
  | tblClear (tbl : Fin 16) (v : Word32)
  | tmSnap (lp : Fin 16) (v : Word32)
  | tmClear (lp : Fin 16) (v : Word32)
  | tmGsnap (v : Word32)
  | tmGclear (v : Word32)
  | ehtSnap (v : Word32)
  | ehtClear (v : Word32)
  | stoSnap (v : Word32)
  | stoClear (v : Word32)
  | stallSnap (stall : Fin 12) (v : Word32)
  | stallClear (stall : Fin 12) (v : Word32)
  | secSnap (v : Word32)
  | secClear (v : Word32)
  | memSnap (v : Word32)
  | memClear (v : Word32)
  | memValidRearm (v : Word32)
  | clkSnap (v : Word32)
  | clkClear (v : Word32)
  | cprSnap (v : Word32)
  | cprClear (v : Word32)
  | tslSnap (v : Word32)
  | tslClear (v : Word32)
  | registerWrite (addr : Nat) (v : Word32)
  -- late rows
  | stage1Start (t : Nat) (facts : StartFacts)
  | alignmentLoss (t : Nat) (lp : Fin 16)
  | thermalWarnRearm (t : Nat) (tj : Int)
  | selftestOverdue (t : Nat) (rp : Fin 16)
  deriving DecidableEq, Repr

end Sys2Proof
end

