-- ==== Sys2Proof/Decode.lean ====
section
/-! DEFINITION. The table of this block gives none of its rows bits: a command is a pin's event, a
packet, a register access or a mailbox request, and no word of the table spells one. -/

namespace Sys2Proof

/-- The command that a word spells by the table's bits: no row gives bits, so none. -/
def decodeTableWord (_nbits _w : Nat) : Option Instr := none

end Sys2Proof
end

