-- ==== Sys2Proof/Machine/Basic.lean ====
section
/-! DEFINITION. Shared helpers: serial numbers (R12), byte strings (R4), sparse tables, byte
memories in canonical form, and the two CRCs (R102, R288). -/

namespace Sys2Proof.Machine

/-- Nanoseconds in a second (R13). -/
def nsPerSec : Nat := 1000000000

/-- R12: the distance `d = (a − b) mod 2^n` of two serial numbers of `n` bits. -/
def serialDist (n a b : Nat) : Nat := (a % 2 ^ n + (2 ^ n - b % 2 ^ n)) % 2 ^ n

/-- R12: `a` is later than `b`: `1 ≤ d ≤ 2^(n−1) − 1`. -/
def serialLater (n a b : Nat) : Bool := decide (1 ≤ serialDist n a b ∧ serialDist n a b < 2 ^ (n - 1))

/-- R12: `a` is earlier than `b`: every case that is neither equal nor later. -/
def serialEarlier (n a b : Nat) : Bool := decide (serialDist n a b ≠ 0) && !serialLater n a b

/-- The SEQ of event records (R359), 64 bits compared under R12: `a` is not earlier than `b`. -/
def seqFrom (a b : Nat) : Bool := !serialEarlier 64 a b

/-- The SEQ after `a`. -/
def seqNext (a : Nat) : Nat := (a + 1) % 2 ^ 64

/-! ### Byte strings (R4) -/

/-- The `n` bytes of a number, least significant first. -/
def leBytes : Nat → Nat → Bytes
  | 0, _ => []
  | n + 1, v => BitVec.ofNat 8 v :: leBytes n (v / 256)

/-- The number that bytes spell, least significant first. -/
def ofLe : Bytes → Nat
  | [] => 0
  | b :: bs => b.toNat + 256 * ofLe bs

/-- The `n` bytes of a number, most significant first (network byte order). -/
def beBytes (n v : Nat) : Bytes := (leBytes n v).reverse

/-- The number that bytes spell, most significant first. -/
def ofBe (bs : Bytes) : Nat := ofLe bs.reverse

/-- `n` bytes from offset `off`, zeros past the end. -/
def slice (bs : Bytes) (off n : Nat) : Bytes :=
  let x := (bs.drop off).take n
  x ++ List.replicate (n - x.length) 0

/-- A little-endian field at a byte offset. -/
def leAt (bs : Bytes) (off n : Nat) : Nat := ofLe (slice bs off n)

/-- A network-order field at a byte offset. -/
def beAt (bs : Bytes) (off n : Nat) : Nat := ofBe (slice bs off n)

/-- The byte at an offset, zero past the end. -/
def byteAt (bs : Bytes) (off : Nat) : Byte := bs.getD off 0

/-- Every byte of a stretch is zero. -/
def zeroAt (bs : Bytes) (off n : Nat) : Bool := (slice bs off n).all (· == 0)

/-- `v` written over the bytes from offset `off` (the string keeps its length). -/
def patch (bs : Bytes) (off : Nat) (v : Bytes) : Bytes :=
  bs.take off ++ v.take (bs.length - off) ++ bs.drop (off + v.length)

/-- A string cut or zero-padded on the right to `n` bytes. -/
def padTo (n : Nat) (bs : Bytes) : Bytes := slice bs 0 n

/-- Bytewise exclusive or. -/
def xorBytes (a b : Bytes) : Bytes := List.zipWith (· ^^^ ·) a b

/-! ### Sparse tables -/

/-- The row of key `k`. -/
def tget? {α : Type} (t : Tab α) (k : Nat) : Option α := (t.find? (fun p => p.1 == k)).map Prod.snd

/-- The row of key `k`, or the default `d`. -/
def tget {α : Type} (t : Tab α) (k : Nat) (d : α) : α := (tget? t k).getD d

/-- The table with key `k` at `v`, keys kept rising. -/
def tset {α : Type} : Tab α → Nat → α → Tab α
  | [], k, v => [(k, v)]
  | p :: ps, k, v =>
    if p.1 < k then p :: tset ps k v
    else if p.1 = k then (k, v) :: ps
    else (k, v) :: p :: ps

/-- The table without key `k`. -/
def tdel {α : Type} (t : Tab α) (k : Nat) : Tab α := t.filter (fun p => p.1 != k)

/-- The table with the row of `k` changed by `f` from the default `d`. -/
def tmod {α : Type} (t : Tab α) (k : Nat) (d : α) (f : α → α) : Tab α := tset t k (f (tget t k d))

/-- Keys strictly rising. -/
def twf {α : Type} : Tab α → Bool
  | [] => true
  | [_] => true
  | p :: q :: r => decide (p.1 < q.1) && twf (q :: r)

/-! ### Byte memories

A memory is a list of (address, byte) pairs, addresses strictly rising, with no entry equal to
the filler byte that an unlisted address reads as (log 4). -/

abbrev Memory := List (Nat × Byte)

/-- The byte at an address of a memory with filler `d`. -/
def mread (d : Byte) (m : Memory) (a : Nat) : Byte := tget m a d

/-- One byte written; writing the filler removes the entry. -/
def mwrite (d : Byte) (m : Memory) (a : Nat) (v : Byte) : Memory :=
  if v = d then tdel m a else tset m a v

/-- `n` bytes from an address upwards. -/
def mreads (d : Byte) (m : Memory) (a : Nat) : Nat → Bytes
  | 0 => []
  | n + 1 => mread d m a :: mreads d m (a + 1) n

/-- Bytes written from an address upwards. -/
def mwrites (d : Byte) : Memory → Nat → Bytes → Memory
  | m, _, [] => m
  | m, a, b :: bs => mwrites d (mwrite d m a b) (a + 1) bs

/-- The canonical form of a memory with filler `d`. -/
def Memory.wf (d : Byte) (m : Memory) : Bool := twf m && m.all (fun p => p.2 != d)

/-- Entries of the address range `[a, a + n)` removed: they read as the filler. -/
def mclear (m : Memory) (a n : Nat) : Memory := m.filter (fun p => !(decide (a ≤ p.1) && decide (p.1 < a + n)))

/-! ### The CRCs of R102 and R288 -/

/-- One bit of a reflected CRC. -/
def crcBit (p : Word32) (c : Word32) : Word32 :=
  if c.getLsbD 0 then (c >>> 1) ^^^ p else c >>> 1

/-- One byte of a reflected CRC (R288). -/
def crcByte (p : Word32) (c : Word32) (b : Byte) : Word32 :=
  let x := c ^^^ (b.setWidth 32)
  crcBit p (crcBit p (crcBit p (crcBit p (crcBit p (crcBit p (crcBit p (crcBit p x)))))))

/-- CRC-32C polynomial, reflected. -/
def polyC : Word32 := 0x82F63B78#32
/-- Ethernet CRC-32 polynomial, reflected. -/
def polyE : Word32 := 0xEDB88320#32

/-- CRC over a string with initial value and final inversion all ones (R102). -/
def crc (p : Word32) (bs : Bytes) : Word32 := ~~~ (bs.foldl (crcByte p) 0xFFFFFFFF#32)

/-- CRC-32C (R102, H1). -/
def crc32c (bs : Bytes) : Word32 := crc polyC bs
/-- CRC-32 of the Ethernet FCS (R102, H2). -/
def crc32 (bs : Bytes) : Word32 := crc polyE bs

end Sys2Proof.Machine
end

