-- ==== Sys2Proof/Machine/Crypto.lean ====
section
/-! DEFINITION. The published algorithms that the security engines run (R301): SHAKE256, AES-256-GCM
and XTS-AES-256. The spec names them and does not hold their text: PRESUMED from FIPS 202, FIPS 197,
SP 800-38D and IEEE 1619 (log 7). Words are natural numbers here so that the kernel evaluates them. -/

namespace Sys2Proof.Machine.Crypto

/-! ### SHAKE256 -/

/-- A 64-bit lane rotated left. -/
def rotl (x n : Nat) : Nat := ((x <<< n) ||| (x >>> (64 - n))) % 2 ^ 64

/-- Round constants. -/
def rc : List Nat :=
  [0x0000000000000001, 0x0000000000008082, 0x800000000000808A, 0x8000000080008000, 0x000000000000808B,
   0x0000000080000001, 0x8000000080008081, 0x8000000000008009, 0x000000000000008A, 0x0000000000000088,
   0x0000000080008009, 0x000000008000000A] ++
  [0x000000008000808B, 0x800000000000008B, 0x8000000000008089, 0x8000000000008003, 0x8000000000008002,
   0x8000000000000080, 0x000000000000800A, 0x800000008000000A, 0x8000000080008081, 0x8000000000008080,
   0x0000000080000001, 0x8000000080008008]

/-- One round of Keccak-f[1600] on 25 lanes in index order `x + 5y`, written out lane by lane so that the kernel evaluates it
quickly: theta (the column parities `c`, the differences `d`), rho and pi (`b`: lane (x, y) rotated by its offset and moved to
(y, 2x + 3y)), chi, and iota with the round constant `k`. -/
def keccakRound (a : List Nat) (k : Nat) : List Nat :=
  match a with
  | [a0, a1, a2, a3, a4, a5, a6, a7, a8, a9, a10, a11, a12, a13, a14,
     a15, a16, a17, a18, a19, a20, a21, a22, a23, a24] =>
    let c0 := a0 ^^^ a5 ^^^ a10 ^^^ a15 ^^^ a20
    let c1 := a1 ^^^ a6 ^^^ a11 ^^^ a16 ^^^ a21
    let c2 := a2 ^^^ a7 ^^^ a12 ^^^ a17 ^^^ a22
    let c3 := a3 ^^^ a8 ^^^ a13 ^^^ a18 ^^^ a23
    let c4 := a4 ^^^ a9 ^^^ a14 ^^^ a19 ^^^ a24
    let d0 := c4 ^^^ rotl c1 1
    let d1 := c0 ^^^ rotl c2 1
    let d2 := c1 ^^^ rotl c3 1
    let d3 := c2 ^^^ rotl c4 1
    let d4 := c3 ^^^ rotl c0 1
    let b0 := rotl (a0 ^^^ d0) 0
    let b1 := rotl (a6 ^^^ d1) 44
    let b2 := rotl (a12 ^^^ d2) 43
    let b3 := rotl (a18 ^^^ d3) 21
    let b4 := rotl (a24 ^^^ d4) 14
    let b5 := rotl (a3 ^^^ d3) 28
    let b6 := rotl (a9 ^^^ d4) 20
    let b7 := rotl (a10 ^^^ d0) 3
    let b8 := rotl (a16 ^^^ d1) 45
    let b9 := rotl (a22 ^^^ d2) 61
    let b10 := rotl (a1 ^^^ d1) 1
    let b11 := rotl (a7 ^^^ d2) 6
    let b12 := rotl (a13 ^^^ d3) 25
    let b13 := rotl (a19 ^^^ d4) 8
    let b14 := rotl (a20 ^^^ d0) 18
    let b15 := rotl (a4 ^^^ d4) 27
    let b16 := rotl (a5 ^^^ d0) 36
    let b17 := rotl (a11 ^^^ d1) 10
    let b18 := rotl (a17 ^^^ d2) 15
    let b19 := rotl (a23 ^^^ d3) 56
    let b20 := rotl (a2 ^^^ d2) 62
    let b21 := rotl (a8 ^^^ d3) 55
    let b22 := rotl (a14 ^^^ d4) 39
    let b23 := rotl (a15 ^^^ d0) 41
    let b24 := rotl (a21 ^^^ d1) 2
    let chi (x y z : Nat) : Nat := x ^^^ ((y ^^^ 0xFFFFFFFFFFFFFFFF) &&& z)
    [chi b0 b1 b2 ^^^ k, chi b1 b2 b3, chi b2 b3 b4, chi b3 b4 b0, chi b4 b0 b1,
     chi b5 b6 b7, chi b6 b7 b8, chi b7 b8 b9, chi b8 b9 b5, chi b9 b5 b6,
     chi b10 b11 b12, chi b11 b12 b13, chi b12 b13 b14, chi b13 b14 b10, chi b14 b10 b11,
     chi b15 b16 b17, chi b16 b17 b18, chi b17 b18 b19, chi b18 b19 b15, chi b19 b15 b16,
     chi b20 b21 b22, chi b21 b22 b23, chi b22 b23 b24, chi b23 b24 b20, chi b24 b20 b21]
  | _ => []

/-- Keccak-f[1600]. -/
def keccakF (a : List Nat) : List Nat := rc.foldl keccakRound a

/-- A rate block (136 bytes) as 17 lanes. -/
def lanes : Nat → Bytes → List Nat
  | 0, _ => []
  | n + 1, bs => ofLe (bs.take 8) :: lanes n (bs.drop 8)

/-- One block absorbed. -/
def absorb (a : List Nat) (block : Bytes) : List Nat :=
  keccakF (List.zipWith (· ^^^ ·) a (lanes 17 block ++ List.replicate 8 0))

/-- Blocks absorbed; `fuel` bounds the number of blocks. -/
def absorbAll : Nat → List Nat → Bytes → List Nat
  | 0, a, _ => a
  | fuel + 1, a, bs =>
    if bs.length < 136 then
      let last := bs ++ [0x1F#8] ++ List.replicate (135 - bs.length) 0
      absorb a (patch last 135 [byteAt last 135 ||| 0x80#8])
    else absorbAll fuel (absorb a (bs.take 136)) (bs.drop 136)

/-- SHAKE256 with a 256-bit output (32 bytes). -/
def shake256 (bs : Bytes) : Bytes :=
  let a := absorbAll (bs.length / 136 + 1) (List.replicate 25 0) bs
  ((a.take 4).map (leBytes 8)).flatten

/-! ### AES-256 -/

/-- Multiplication by x in GF(2^8). -/
def xtime (b : Nat) : Nat := if b < 128 then 2 * b else (2 * b) % 256 ^^^ 0x1B

/-- Multiplication in GF(2^8). -/
def gmul8 : Nat → Nat → Nat → Nat
  | 0, _, _ => 0
  | n + 1, a, b => (if b % 2 = 1 then a else 0) ^^^ gmul8 n (xtime a) (b / 2)

/-- A power in GF(2^8). -/
def gpow (a : Nat) : Nat → Nat
  | 0 => 1
  | n + 1 => gmul8 8 a (gpow a n)

/-- An 8-bit rotation. -/
def rotl8 (x n : Nat) : Nat := ((x <<< n) ||| (x >>> (8 - n))) % 256

/-- The S-box value of a byte: the inverse `a^254` and the affine map. -/
def sboxOf (a : Nat) : Nat :=
  let sq := fun x => gmul8 8 x x
  let a2 := sq a
  let a3 := gmul8 8 a2 a
  let a6 := sq a3
  let a7 := gmul8 8 a6 a
  let a14 := sq a7
  let a15 := gmul8 8 a14 a
  let a30 := sq a15
  let a31 := gmul8 8 a30 a
  let a62 := sq a31
  let a63 := gmul8 8 a62 a
  let a126 := sq a63
  let a127 := gmul8 8 a126 a
  let i := sq a127
  i ^^^ rotl8 i 1 ^^^ rotl8 i 2 ^^^ rotl8 i 3 ^^^ rotl8 i 4 ^^^ 0x63

/-- The S-box, 32 bytes to a number, the first the least significant; `sboxOf` says what they are. -/
def sboxRows : List Nat :=
  [0xC072A49CAFA2D4ADF04759FA7DC982CA76ABD7FE2B670130C56F6BF27B777C63,
   0x75B227EBE28012079A059618C323C7041531D871F1E5A534CCF73F362693FDB7,
   0xCF584C4A39BECB6A5BB1FC20ED00D153842FE329B3D63B52A05A6E1B1A2C8309,
   0xD2F3FF1021DAB6BCF5389D928F40A351A89F3C507F02F94585334D43FBAAEFD0,
   0xDB0B5EDE14B8EE4688902A22DC4F816073195D643D7EA7C41744975FEC130CCD,
   0x08AE7A65EAF4566CA94ED58D6D37C8E779E4959162ACD3C25C2406490A3A32E0,
   0x9E1DC186B95735610EF6034866B53E708A8BBD4B1F74DDE8C6B4A61C2E2578BA,
   0x16BB54B00F2D99416842E6BF0D89A18CDF2855CEE9871E9B948ED9691198F8E1]

/-- The S-box value of a byte, from the table. -/
def sbox (a : Nat) : Nat := (sboxRows.getD (a / 32) 0 >>> (8 * (a % 32))) % 256

/-- Round constants of the key schedule. -/
def rconOf (i : Nat) : Nat := gpow 2 (i - 1)

/-- The 60 words of the AES-256 key schedule, newest first. -/
def schedule : Nat → List (List Nat) → List (List Nat)
  | 0, ws => ws
  | n + 1, ws =>
    let i := ws.length
    let t := ws.getD 0 []
    let t' :=
      if i % 8 = 0 then
        match t with
        | [a, b, c, d] => [sbox b ^^^ rconOf (i / 8), sbox c, sbox d, sbox a]
        | x => x
      else if i % 8 = 4 then t.map sbox else t
    schedule n (List.zipWith (· ^^^ ·) (ws.getD 7 []) t' :: ws)

/-- A list cut into pieces of four. -/
def fours : Nat → List Nat → List (List Nat)
  | 0, _ => []
  | n + 1, l => l.take 4 :: fours n (l.drop 4)

/-- The 15 round keys of 16 bytes. -/
def roundKeys (key : List Nat) : List (List Nat) :=
  let ws := (schedule 52 (fours 8 key).reverse).reverse
  (List.range 15).map fun r => ((ws.drop (4 * r)).take 4).flatten

/-- ShiftRows on the column-major state. -/
def shiftRows (s : List Nat) : List Nat :=
  (List.range 16).map fun i => s.getD ((i + 4 * (i % 4)) % 16) 0

/-- MixColumns. -/
def mixColumns (s : List Nat) : List Nat :=
  (List.range 16).map fun i =>
    let c := i / 4 * 4
    let g := fun k => s.getD (c + (i + k) % 4) 0
    xtime (g 0) ^^^ (xtime (g 1) ^^^ g 1) ^^^ g 2 ^^^ g 3

/-- AES-256 encryption of one block under a key schedule. -/
def aesEnc (rk : List (List Nat)) (blk : List Nat) : List Nat :=
  let s0 := List.zipWith (· ^^^ ·) blk (rk.getD 0 [])
  let s := (List.range 13).foldl (fun s r =>
    List.zipWith (· ^^^ ·) (mixColumns (shiftRows (s.map sbox))) (rk.getD (r + 1) [])) s0
  List.zipWith (· ^^^ ·) (shiftRows (s.map sbox)) (rk.getD 14 [])

/-- The inverse S-box, laid out as `sboxRows`. -/
def invSboxRows : List Nat :=
  [0xCBE9DEC444438E3487FF2F9B8239E37CFBD7F3819EA340BF38A53630D56A0952,
   0x25D18B6D49A25B76B224D92866A12E084EC3FA420B954CEE3D23C2A632947B54,
   0x849D8DA75746155EDAB9EDFD5048706C92B6655DCC5CA4D41698688664F6F872,
   0x6B8A130103BDAFC1020F3FCA8F1E2CD00645B3B80558E4F70AD3BC8C00ABD890,
   0x6EDF751CE837F9E28535ADE72274AC9673E6B4F0CECFF297EADC674F4111913A,
   0xF45ACD78FEC0DB9A2079D2C64B3E56FC1BBE18AA0E62B76F89C5291D711AF147,
   0xEF9CC9939F7AE52D0D4AB519A97F51605FEC8027591012B131C7078833A8DD1F,
   0x7D0C2155631469E126D677BA7E042B17619953833CBBEBC8B0F52AAE4D3BE0A0]

/-- The inverse S-box value of a byte. -/
def invSbox (b : Nat) : Nat := (invSboxRows.getD (b / 32) 0 >>> (8 * (b % 32))) % 256

/-- Inverse ShiftRows. -/
def invShiftRows (s : List Nat) : List Nat :=
  (List.range 16).map fun i => s.getD ((i + 16 - 4 * (i % 4)) % 16) 0

/-- Inverse MixColumns. -/
def invMixColumns (s : List Nat) : List Nat :=
  (List.range 16).map fun i =>
    let c := i / 4 * 4
    let g := fun k => s.getD (c + (i + k) % 4) 0
    gmul8 8 (g 0) 14 ^^^ gmul8 8 (g 1) 11 ^^^ gmul8 8 (g 2) 13 ^^^ gmul8 8 (g 3) 9

/-- AES-256 decryption of one block. -/
def aesDec (rk : List (List Nat)) (blk : List Nat) : List Nat :=
  let s0 := List.zipWith (· ^^^ ·) blk (rk.getD 14 [])
  let s := (List.range 13).foldl (fun s r =>
    invMixColumns (List.zipWith (· ^^^ ·) ((invShiftRows s).map invSbox) (rk.getD (13 - r) []))) s0
  List.zipWith (· ^^^ ·) ((invShiftRows s).map invSbox) (rk.getD 0 [])

/-- Bytes as numbers. -/
def nats (bs : Bytes) : List Nat := bs.map BitVec.toNat
/-- Numbers as bytes. -/
def toBytes (l : List Nat) : Bytes := l.map (BitVec.ofNat 8)

/-! ### GCM -/

/-- Multiplication in GF(2^128) in GCM's bit order: `x`, `y` with the first bit most significant. -/
def gmul128 : Nat → Nat → Nat → Nat → Nat
  | 0, _, _, z => z
  | n + 1, x, v, z =>
    let z' := if x.testBit n then z ^^^ v else z
    let v' := if v % 2 = 1 then (v / 2) ^^^ (0xE1 <<< 120) else v / 2
    gmul128 n x v' z'

/-- Bytes cut into blocks of 16, the last zero-padded; `fuel` bounds the number of blocks. -/
def blocks : Nat → Bytes → List Bytes
  | 0, _ => []
  | n + 1, bs => if bs.isEmpty then [] else padTo 16 bs :: blocks n (bs.drop 16)

/-- GHASH over blocks. -/
def ghash (h : Nat) (bl : List Bytes) : Nat :=
  bl.foldl (fun y b => gmul128 128 (y ^^^ ofBe b) h 0) 0

/-- Counter-mode keystream over a string from a counter value. -/
def gctr (rk : List (List Nat)) (iv : Bytes) : Nat → Nat → Bytes → Bytes
  | 0, _, _ => []
  | fuel + 1, ctr, bs =>
    if bs.isEmpty then []
    else
      let ks := toBytes (aesEnc rk (nats (iv ++ beBytes 4 ctr)))
      xorBytes (bs.take 16) ks ++ gctr rk iv fuel (ctr + 1) (bs.drop 16)

/-- The GCM tag of AAD and ciphertext. -/
def gcmTag (rk : List (List Nat)) (iv aad ct : Bytes) : Bytes :=
  let h := ofBe (toBytes (aesEnc rk (List.replicate 16 0)))
  let bl := blocks (aad.length / 16 + 1) aad ++ blocks (ct.length / 16 + 1) ct ++
    [beBytes 8 (8 * aad.length) ++ beBytes 8 (8 * ct.length)]
  xorBytes (beBytes 16 (ghash h bl)) (toBytes (aesEnc rk (nats (iv ++ beBytes 4 1))))

/-- AES-256-GCM encryption: ciphertext and 16-byte tag, 12-byte IV. -/
def gcmEncrypt (key iv aad pt : Bytes) : Bytes × Bytes :=
  let rk := roundKeys (nats key)
  let ct := gctr rk iv (pt.length / 16 + 1) 2 pt
  (ct, gcmTag rk iv aad ct)

/-- AES-256-GCM decryption: the plaintext, or nothing when the tag does not match. -/
def gcmDecrypt (key iv aad ct tag : Bytes) : Option Bytes :=
  let rk := roundKeys (nats key)
  if gcmTag rk iv aad ct = tag then some (gctr rk iv (ct.length / 16 + 1) 2 ct) else none

/-- AES-256-GCM decryption of what may not be authentic: the plaintext, and whether the tag matches. -/
def gcmOpen (key iv aad ct tag : Bytes) : Bytes × Bool :=
  let rk := roundKeys (nats key)
  (gctr rk iv (ct.length / 16 + 1) 2 ct, gcmTag rk iv aad ct == tag)

/-! ### XTS -/

/-- The next tweak: multiplication by x in XTS's byte order. -/
def xtsNext (t : Nat) : Nat := if t < 2 ^ 127 then 2 * t else (2 * t) % 2 ^ 128 ^^^ 0x87

/-- One XTS block with a tweak. -/
def xtsBlock (f : List Nat → List Nat) (tw : Nat) (blk : Bytes) : Bytes :=
  let t := leBytes 16 tw
  xorBytes (toBytes (f (nats (xorBytes blk t)))) t

/-- Whole blocks and the stolen tail; for decryption the last two tweaks swap. -/
def xtsRun (f : List Nat → List Nat) (dec : Bool) : Nat → Nat → Bytes → Bytes
  | 0, _, _ => []
  | fuel + 1, tw, bs =>
    if bs.length < 16 then []
    else if bs.length = 16 then xtsBlock f tw bs
    else if bs.length < 32 then
      let t1 := if dec then xtsNext tw else tw
      let t2 := if dec then tw else xtsNext tw
      let cc := xtsBlock f t1 (bs.take 16)
      let tail := bs.drop 16
      xtsBlock f t2 (tail ++ cc.drop tail.length) ++ cc.take tail.length
    else xtsBlock f tw (bs.take 16) ++ xtsRun f dec fuel (xtsNext tw) (bs.drop 16)

/-- XTS-AES-256 over one data unit; the key pair is 64 bytes, the data key first. -/
def xts (dec : Bool) (key tweak bs : Bytes) : Bytes :=
  let k1 := roundKeys (nats (key.take 32))
  let k2 := roundKeys (nats (key.drop 32))
  let t0 := ofLe (toBytes (aesEnc k2 (nats tweak)))
  xtsRun (if dec then aesDec k1 else aesEnc k1) dec (bs.length / 16 + 1) t0 bs

end Sys2Proof.Machine.Crypto
end

