-- ==== Sys2Proof/Config.lean ====
section
/-! DEFINITION. What the spec leaves to an implementation and does not state: constants with no
body, so no proof sees a value of them. Each is named in the assumption log. -/

namespace Sys2Proof.Config

/-- The free values (log 5): the k-th value that the part draws or leaves undefined. A use reduces
it to the width it needs. -/
opaque freeValue : Nat → Nat

/-- Whether the time base's increment for a rate is rounded up when 32 fraction bits do not hold it
exactly (R401; log 9). -/
opaque rateRoundsUp : Int → Bool

/-- ML-DSA-65 public key derived from a private key (R301, R312; log 6). -/
opaque mldsaPublic : Bytes → Bytes

/-- ML-DSA-65 signature by a private key over a message (R314; log 6). -/
opaque mldsaSign : Bytes → Bytes → Bytes

/-- What the modifier makes of a frame under a template and its USER field; the template format is
not in the spec (R94, R101; log 10). -/
opaque modify : Nat → Nat → Bytes → Bytes

/-- Whether a template returns the frame to the recirculation input (R68; log 10). -/
opaque recirculates : Nat → Bool

/-- The tag of the transmit stamp that the originator of a frame requests, by its template, USER field and bytes; the
form of the request is not in the spec (R61; log 45). -/
opaque stampTag : Nat → Nat → Bytes → Option Nat

/-- One-step Sync and the transparent clock enabled on a logical port (R62; no item of the configuration enables them,
log 46). -/
opaque ptpOneStep : Nat → Bool
opaque ptpTransparent : Nat → Bool

/-- Which confidentiality offset the associations of a logical port use, as an index into 0, 30 and 50 bytes (R56 supports the
three and no item or parameter names one; log 8). -/
opaque msecOffset : Nat → Nat

/-- The DER-encoded certificates of ATT_CERT (R312; log 11). -/
opaque certificates : Bytes

/-- The firmware version that DEV_INFO returns (R341; log 11). -/
opaque firmwareVersion : Word32

/-- Identity that a drive reports, by its serial number, and its SMART summary at a time (R219; log 11). -/
opaque driveIdentity : Nat → Bytes
opaque driveSmart : Nat → Nat → Bytes

/-- The wait that a NAK_NO_CREDIT suggests, in µs (R157 names the field and gives no value; log 12). -/
opaque noCreditRetryUs : Word32

/-- The wait that a NAK_FROZEN suggests, in µs (R157 names the field and gives no value; log 12). -/
opaque frozenRetryUs : Word32

/-- The IPv4 address that the device's own packets carry as source (the spec names none; log 15). -/
opaque ownIpv4 : Word32

/-- The control-store ROM (R80): the spec gives what the ROM program does, not its words (log 17). -/
opaque romWord : Nat → Nat

/-- The ROM address at which the ROM program takes up each header that has no re-entry point of R82; the spec does not
give them (log 17). -/
opaque romAddr : Nat → Nat

end Sys2Proof.Config
end

