-- ==== Sys2Proof/Machine/Objects.lean ====
section
/-! DEFINITION. The objects that the State holds: plain records, one group per chapter. A default
value of a field is its value right after reset; a value the spec does not give is named in the
log entry that INVENTORY.md lists for it. -/

namespace Sys2Proof.Machine

/-! ### Counters (R9, R10, R14) -/

/-- A counter with its sticky bit (wrap bit or overflow flag) and the shadow copy of both. -/
structure Ctr where
  v : Nat := 0
  flag : Bool := false
  sv : Nat := 0
  sflag : Bool := false
  deriving DecidableEq, Repr, Inhabited

/-! ### Clocks, power and reset (16) -/

/-- What the device as a whole is doing (R367, R387, R400, R413, R444). -/
inductive Phase where
  /-- a power-on or device reset has begun and not ended -/
  | inReset
  /-- TEST_EN was 1 at the end of the reset -/
  | testHold
  /-- the chain of R367 runs, up to the decision of step 8 -/
  | starting
  | running
  /-- halted with a code of R388 -/
  | halted (code : Nat)
  /-- the clock-fail hold of R400, with the lost input -/
  | clockFail (input : Nat)
  /-- the thermal hold of R413 -/
  | thermalHold
  deriving DecidableEq, Repr, Inhabited

/-- Gating state of a block (R404, R405). -/
inductive Gate where
  | run | sleep | deepSleep
  deriving DecidableEq, Repr, Inhabited

structure Clk where
  /-- nanoseconds of the device clock (log 1) -/
  up : Nat := 0
  /-- R401: running, and the time in units of 2^-32 ns -/
  tbRunning : Bool := false
  tb : Nat := 0
  /-- R402: rate term in parts per 10^12 -/
  rate : Int := 0
  /-- R402: slew still to be added, in 10^-6 ns, and its rate in ppm with the sign of the offset -/
  slewLeft : Nat := 0
  slewRate : Int := 0
  tbSet : Bool := false
  /-- the instant of the device clock at which the time base was last stepped (R44, R403) -/
  stepAt : Option Nat := none
  /-- when the reset ended (R367) -/
  releasedAt : Nat := 0
  xtalOk : Bool := false
  pllsLocked : Bool := false
  eth0Ok : Bool := false
  eth1Ok : Bool := false
  pcieOk : Bool := false
  avsAtLimit : Bool := false
  avsLimitAt : Option Nat := none
  /-- requested, last reached and measured VDD_CORE, mV -/
  vddWant : Nat := 800
  vddReached : Nat := 800
  vddMeas : Nat := 800
  avsFaulted : Bool := false
  avsMoved : Nat := 0
  tj : Int := 0
  warnArmed : Bool := true
  /-- RST_CAUSE (R418) -/
  rstCause : Word32 := 1#32
  /-- gating state of the explicit blocks that are not in run -/
  gates : Tab Gate := []
  /-- auto blocks whose clock is stopped (R407) -/
  stopped : List Nat := []
  /-- CLKOUT setting in effect: source 0 is off (R408) -/
  clkSrc : Nat := 0
  clkDiv : Nat := 1
  /-- DEV_RESET waiting for the final state of its response: message number and latest instant -/
  resetPend : Option (Option Nat × Nat) := none
  watchdogAt : Nat := 0
  /-- PPS_OUT high, and what the last step set the time base to, in ns: its second is held low, and counting goes on from there
  (R63, R403) -/
  ppsHigh : Bool := false
  ppsFallAt : Nat := 0
  ppsHold : Option Nat := none
  /-- the instant of the last rise, in ns of the time base, since it was stepped -/
  ppsLastRise : Option Nat := none
  deriving DecidableEq, Repr

/-! ### Pins (18) -/

/-- The boundary-scan instruction in effect (R446). -/
inductive Scan where
  | idcode | samplePreload | extest | clamp | highz | bypass
  deriving DecidableEq, Repr, Inhabited

structure Pins where
  errc : BitVec 6 := 0
  errstb : Bool := false
  /-- THERMTRIP_N driven low -/
  thermtrip : Bool := false
  perst : BitVec 16 := 0
  straps : Straps := { p0Mode := 0, p1Mode := 0, mbxAddr := 0, testEn := false }
  jtagIr : Byte := 0x01#8
  scan : Scan := .idcode
  boundary : BitVec 104 := 0
  /-- outputs lost to a scan instruction, until a device reset that ends without one in effect (R448) -/
  scanLost : Bool := false
  /-- XSPI interface driven (not high impedance) -/
  flashOn : Bool := false
  deriving DecidableEq, Repr

/-! ### Secure start (15) -/

structure Fuses where
  serial : Word64 := 0
  mac : BitVec 48 := 0
  roots : List Bytes := [List.replicate 32 0, List.replicate 32 0, List.replicate 32 0, List.replicate 32 0]
  revoked : BitVec 4 := 0
  /-- steps of the fuse counter burnt, 0 to 256 (R378) -/
  count : Nat := 0
  /-- dead-unit list of R428, at most 96 units -/
  dead : List Nat := []
  vddMv : Nat := 750
  /-- the wrapping key of slot 1 and the device key of slot 0 (R303) -/
  key0 : Bytes := List.replicate 32 0
  key1 : Bytes := List.replicate 32 0
  key2 : Bytes := List.replicate 32 0
  deriving DecidableEq, Repr

structure Boot where
  /-- the gate of R368 -/
  gate : Bool := false
  stage1 : Bool := false
  hbmTrained : Bool := false
  /-- the in-band mailbox endpoint is ready (R367 step 7) -/
  inband : Bool := false
  decided : Bool := false
  trying : Option Slot := none
  tried : List Slot := []
  booted : Option Slot := none
  /-- last R371 reason of each slot (R392), a BOOT_ code -/
  reasonA : Nat := 0
  reasonB : Nat := 0
  /-- the anti-rollback record in use, empty before it is read (R378), and whether stage 1 owes the
  missing fuse step or a first copy -/
  ar : Bytes := []
  arOwed : Bool := false
  /-- the owner record in use (R382) -/
  owner : Bytes := []
  /-- the owner policy in force: a change takes effect at the next start (R385) -/
  policy : Nat := 0
  /-- the trial that runs: end instant (R376) -/
  trialEnd : Option Nat := none
  verified : Bool := false
  /-- the Clerk's copies: core image sections (vendor first), and the vendor patch section -/
  coreImages : List Bytes := []
  patchImage : Bytes := []
  deriving DecidableEq, Repr

/-! ### Configuration (14) -/

structure Staging where
  id : Nat
  base : Nat
  recs : Tab Bytes
  /-- last command on it -/
  at_ : Nat
  deriving DecidableEq, Repr

inductive CfgState where
  | empty | committed
  | refused (reason : Nat)
  deriving DecidableEq, Repr, Inhabited

structure Cfg where
  state : CfgState := .empty
  /-- committed records that differ from their default, keyed by `cfgKey` -/
  recs : Tab Bytes := []
  counter : Nat := 0
  time : Nat := 0
  digest : Bytes := List.replicate 32 0
  stored : Bool := false
  staging : Option Staging := none
  /-- a store under way: area and the trailer still to be written (R348) -/
  store : Option (Nat × Bytes) := none
  /-- extension images loaded, in load order (R348) -/
  images : List Bytes := []
  deriving DecidableEq, Repr

/-! ### Events (14) -/

structure Event where
  seq : Nat
  code : Nat
  gap : Bool
  object : Nat
  time : Nat
  data : Bytes
  deriving DecidableEq, Repr

/-- A subscriber (R362): where its messages go, the next SEQ it needs, the open message, failures. -/
structure Subscriber where
  ip : BitVec 128
  eid : Word32
  gen : Word16
  lp : Fin 16
  mac : BitVec 48
  mask : Word32
  next : Nat
  /-- records of the open message: up to this SEQ, and its outbound message number -/
  open_ : Option (Nat × Nat) := none
  /-- waiting to resend until this instant -/
  retryAt : Option Nat := none
  fails : Nat := 0
  gap : Bool := false
  deriving DecidableEq, Repr

/-! ### Mailbox (14) -/

structure QReq where
  req : Req
  arrived : Nat
  /-- FLAGS.REPLAY, and the receive-ring slot it holds -/
  replay : Bool := false
  slot : Option Nat := none
  deriving DecidableEq, Repr

/-- A stored response (R334). -/
structure Rsp where
  peer : Peer
  code : Word16
  tag : Word32
  status : Nat
  detail : Nat
  arg : Nat
  more : Bool
  cursor : Nat
  body : Bytes
  deriving DecidableEq, Repr

/-- A result capture (R338). -/
structure Capture where
  code : Word16
  bytes : Bytes
  used : Nat
  deriving DecidableEq, Repr

/-- An entry of the TALLY sender table (R358). -/
structure TallyPeer where
  counter : Nat
  digest : Bytes
  time : Nat
  ip : BitVec 128
  /-- when it was last heard: the device clock, and the 80-bit time -/
  heard : Nat
  heardTime : Nat
  streak : Nat
  raised : Bool
  deriving DecidableEq, Repr

structure Mbx where
  /-- generation drawn at the start (R332) -/
  gen : Word16 := 1
  queue : List QReq := []
  rsps : List Rsp := []
  captures : Tab Capture := []
  nextCapture : Nat := 1
  /-- sideband window (R335) -/
  sbReq : Bytes := []
  sbRsp : Option Bytes := none
  sbPtr : Nat := 0
  sbErr : Bool := false
  dynAddr : Option (BitVec 7) := none
  sbEvt : Nat := 0
  sbGap : Bool := false
  log : List Event := []
  nextSeq : Nat := 0
  subs : Tab Subscriber := []
  tally : Tab TallyPeer := []
  /-- when the last periodic TALLY was sent -/
  tallyAt : Nat := 0
  /-- the table after the last one whose FIFO the Clerk took a record from (R121) -/
  tblTurn : Nat := 0
  deriving DecidableEq, Repr

/-! ### Quiescing and fencing (01) -/

/-- A quiesce (R26): running or completed, and what R29 reports. -/
structure QRec where
  done : Bool := false
  abort : Bool := false
  start : Nat := 0
  deadline : Nat := 0
  drained : Nat := 0
  aborted : Nat := 0
  kind : Nat := 0
  linkDown : Bool := false
  destroy : Bool := false
  deriving DecidableEq, Repr, Inhabited

/-- A role that carries a fencing generation, endpoints apart (R32). -/
inductive Role where
  | core (stall role : Nat)
  | seq (n : Nat)
  | bank (n : Nat)
  /-- an EHT endpoint: its generation stands with the endpoint (R147) -/
  | endpoint (eid : Nat)
  deriving DecidableEq, Repr

structure Fence where
  /-- generation of each role -/
  gens : List (Role × Nat) := []
  /-- generation that the physical unit of R419's number holds -/
  held : Tab Nat := []
  /-- roles whose first discard since the last increment has been reported -/
  told : List Role := []
  deriving DecidableEq, Repr

/-! ### EHT (07) -/

/-- A local endpoint (R147). Keyed by EID. -/
structure Endpoint where
  gen : Nat
  tf : Nat
  /-- channel of the owner; none: a storage queue or the Clerk -/
  channel : Option Nat
  /-- storage queue number within the TF -/
  sq : Option Nat
  ringKey : Nat
  slotSize : Nat
  slotCount : Nat
  slotsUsed : List Nat := []
  counter : Nat := 0
  /-- its endpoint slot, whose generation outlives it (R227) -/
  slotNo : Nat := 0
  deriving DecidableEq, Repr, Inhabited

/-- The credit that a book entry holds (R177). -/
structure BookGrant where
  token : Nat
  units : Nat
  stop : Nat
  deriving DecidableEq, Repr

/-- An address-book entry (R148). -/
structure Book where
  eid : Nat
  ip : Nat
  gen : Nat
  qset : Nat
  mac : Nat
  paths : Nat
  seg : Nat
  follow : Bool
  tf : Nat
  grant : Option BookGrant := none
  deriving DecidableEq, Repr, Inhabited

/-- A deduplication entry (R166). -/
structure Dedup where
  key : MsgKey
  express : Bool
  dst : Nat
  /-- none while in reassembly -/
  status : Option Nat
  result : Nat
  epoch : Nat
  deriving DecidableEq, Repr

/-- A reassembly context (R167). -/
structure Ctx where
  key : MsgKey
  express : Bool
  dst : Nat
  op : Nat
  seg : Nat
  rkey : Nat
  addr : Nat
  total : Option Nat
  count : Nat
  bitmap : List Nat
  made : Nat
  /-- receive-ring slot of a SEND -/
  slot : Option Nat
  /-- payload of a SEND that the Clerk or the storage engine takes, by offset -/
  parts : Tab Bytes
  /-- highest packet index seen, for the rule on TOTAL_LEN -/
  maxIdx : Nat
  /-- where the answer goes -/
  lp : Nat
  ip : Nat
  mac : Nat
  deriving DecidableEq, Repr

/-- A live grant (R176). -/
structure Grant where
  src : Nat
  ep : Nat
  express : Bool
  tf : Nat
  left : Nat
  expires : Nat
  uses : Nat
  deriving DecidableEq, Repr

/-- A region descriptor (R179). -/
structure Region where
  base : Nat
  len : Nat
  target : Nat
  gen : Nat
  tf : Nat
  rights : Nat
  /-- 0 FREE, 1 VALID, 2 REVOKED -/
  state : Nat
  flags : Nat
  filter : Nat
  channel : Nat
  /-- restored REVOKED (R242): freed at this instant after the thaw -/
  freeAt : Option Nat := none
  deriving DecidableEq, Repr, Inhabited

/-- Who submitted an outbound message, and so who hears of its end. -/
inductive MsgOwner where
  /-- a thread's channel, with the tag of its submission (R296) -/
  | channel (ch tag : Nat)
  | response (peer : Peer) (tag : Word32)
  | event (sub : Nat)
  /-- a storage completion message: TF, queue, its number (R193) -/
  | storage (tf q seq : Nat)
  /-- the READ_RESP of a READ served here (R184) -/
  | readResp
  /-- a storage command's data transfer: TF, queue, command number (R194) -/
  | transfer (tf q no : Nat)
  /-- a WRITE of a migration blob or key map (R238, R242) -/
  | save (tf : Nat)
  | keyMap (tf : Nat)
  /-- a READ of part of a migration blob (R241) -/
  | restore (tf part : Nat)
  deriving DecidableEq, Repr

/-- State of an outbound message (R170). -/
inductive OutState where
  | credit (retryAt : Option Nat)
  | sending
  | wait (rtoAt : Nat) (retryAt : Option Nat)
  | drain
  deriving DecidableEq, Repr

/-- An outbound message (R170). -/
structure OutMsg where
  ep : Nat
  srcGen : Nat
  msgId : Nat
  book : Option Nat
  dstEid : Nat
  dstGen : Nat
  dstIp : Nat
  dstMac : Nat
  /-- egress port of a message sent without a book entry; with one, the entry's queue set routes -/
  lp : Nat
  op : Nat
  seg : Nat
  rkey : Nat
  addr : Nat
  payload : Bytes
  express : Bool
  cls : Nat
  owner : MsgOwner
  state : OutState
  /-- next packet to send in this round -/
  next : Nat := 0
  round : Nat := 0
  t0 : Option Nat := none
  /-- READ: where its response goes, and whether the READ itself was acknowledged -/
  retKey : Nat := 0
  retAddr : Nat := 0
  readLen : Nat := 0
  /-- device address of the payload, read at every transmission (R295) -/
  data : Option Nat := none
  acked : Bool := false
  /-- a NAK_NO_CREDIT has come: it is sent under credit from now on -/
  needCredit : Bool := false
  /-- outstanding CREDIT_REQ tag -/
  reqTag : Option Nat := none
  deriving DecidableEq, Repr

/-- A moved-table record (R244). -/
structure MovedRec where
  tf : Nat
  af : Nat
  ip : Nat
  eid : Nat
  gen : Nat
  endsAt : Nat
  deriving DecidableEq, Repr

structure Eht where
  eps : Tab Endpoint := []
  /-- fencing generation of each endpoint slot (R32, R227) -/
  epGens : Tab Nat := []
  book : Tab Book := []
  dedup : List Dedup := []
  ctxs : List Ctx := []
  epoch : Nat := 0
  epochAt : Nat := 0
  grants : Tab Grant := []
  grantUses : Tab Nat := []
  regions : Tab Region := []
  /-- indices in the order they were freed, the least recent first; indices never used come first -/
  freeOrder : List Nat := []
  cache : List Nat := []
  out : Tab OutMsg := []
  nextOut : Nat := 0
  moved : Tab MovedRec := []
  /-- when the last NAK_NO_CREDIT, RETRY_LATER or FROZEN went to a message (R162) -/
  nakAt : List (MsgKey × Nat) := []
  /-- messages that wait for room among the open ones (R170), with their numbers -/
  waiting : List (Nat × OutMsg) := []
  /-- packets delivered to the engine and not yet taken -/
  rx : List EhtRx := []
  revoking : Tab Nat := []
  deriving DecidableEq, Repr

/-! ### Frames, ports, traffic manager (03, 06) -/

/-- A frame inside the device. Bytes include the FCS and exclude MACsec. -/
structure Frame where
  bytes : Bytes
  cls : Nat
  /-- ingress logical port; none for a frame of the device's own -/
  inLp : Option Nat
  /-- T_in: time base in ns, and the instant of the device clock at which it was taken -/
  tIn : Nat
  tInUp : Nat
  /-- R39: a check failed after cut-through -/
  bad : Bool := false
  /-- cause bits of R45 seen so far -/
  causes : Nat := 0
  tf : Nat := 0
  qset : Nat := 0
  template : Nat := 0
  user : Nat := 0
  /-- tag of a requested transmit stamp (R61) -/
  stamp : Option Nat := none
  /-- deferred once at the selector (R131) -/
  deferred : Bool := false
  deriving DecidableEq, Repr

/-- A MACsec association (R56). -/
structure Sa where
  keySlot : Nat
  ssci : Nat
  salt : Bytes
  firstPn : Nat
  nextPn : Nat
  /-- largest PN accepted, for the replay window -/
  topPn : Nat := 0
  deriving DecidableEq, Repr, Inhabited

/-- A secure channel (R56, R59). -/
structure SChan where
  sci : Nat
  sas : Tab Sa := []
  active : Option Nat := none
  told : Bool := false
  exhausted : Bool := false
  deriving DecidableEq, Repr, Inhabited

/-- A frame on the MAC, its bytes on the wire (R56), and when it began. -/
structure OnMac where
  frame : Frame
  wire : Bytes
  start : Nat
  /-- wire time in ps (R128) -/
  wirePs : Nat
  deriving DecidableEq, Repr

/-- Express latency monitor (R43 to R46). -/
structure Exlat where
  en : Bool := false
  scope : Bool := true
  thresh : Nat := 850
  max : Nat := 0
  smax : Nat := 0
  bklg : Nat := 0
  sbklg : Nat := 0
  tin : Nat := 0
  d : Nat := 0
  cause : Nat := 0
  valid : Bool := false
  deriving DecidableEq, Repr, Inhabited

/-- A Bell-list entry (R138). -/
structure BellEntry where
  interval : Nat
  gates : Nat
  deriving DecidableEq, Repr, Inhabited

/-- An enabled Bell list: cycle, base time in ns, entries. -/
structure Bell where
  cycle : Nat
  base : Nat
  entries : List BellEntry
  deriving DecidableEq, Repr, Inhabited

/-- A shaper bucket (R132 to R135): parameters in force, tokens in 1/64 byte, refills done. -/
structure Bucket where
  rate : Nat := 0
  burst : Nat := 0
  tokens : Nat := 0
  refills : Nat := 0
  /-- a change waits for the next refill -/
  waiting : Bool := false
  deriving DecidableEq, Repr, Inhabited

structure LPort where
  up : Bool := false
  aligned : Bool := false
  lostAt : Option Nat := none
  /-- remote fault is signalled to the link partner (R53) -/
  remoteFault : Bool := false
  /-- what the last link-up settled (R51): the speed that auto-negotiation agreed on, Gbit/s, and whether the lanes were trained -/
  negotiated : Option Nat := none
  trained : Bool := false
  /-- the offsets from the MAC to the balls, ns, calibrated at every link-up (R43) -/
  rxCal : Nat := 0
  txCal : Nat := 0
  /-- link set-up of management-only mode (R64): C2M defaults are tried, and since when -/
  c2m : Bool := false
  setupAt : Nat := 0
  /-- the link was taken down by a quiesce (R65) -/
  held : Bool := false
  tx : SChan := { sci := 0 }
  rx : Tab SChan := []
  stamps : List (Nat × Nat) := []
  exlat : Exlat := {}
  mac : Option OnMac := none
  express : List Frame := []
  /-- the pitch of R129: class, order of commit, frame -/
  pitch : List (Nat × Nat × Frame) := []
  /-- the express order of R130: queue and frame, in order of admission -/
  order : List (Nat × Frame) := []
  curGroup : Nat := 0
  commits : Nat := 0
  bell : Option Bell := none
  bellPend : Option (Option Bell × Nat) := none
  curEntry : Nat := 0
  gates : Nat := 255
  portBucket : Bucket := {}
  /-- a frame took more than 64 parser-stage clocks at this instant (C7) -/
  overAt : Option Nat := none
  deriving DecidableEq, Repr, Inhabited

/-- A rekey in progress (R58): port, direction, association, when accepted. -/
structure Rekey where
  lp : Nat
  dir : Nat
  sci : Nat
  an : Nat
  start : Nat
  deriving DecidableEq, Repr

/-- A received frame held in the receive buffer of its physical port during a receive activation (R58), with its T_in. -/
structure HeldRx where
  frame : WireFrame
  tIn : Nat
  tInUp : Nat
  deriving DecidableEq, Repr

structure PPort where
  mode : Nat := 0
  fecLock : Nat := 0
  rxHeld : List HeldRx := []
  rekey : Option Rekey := none
  rekeyEnd : Option Nat := none
  /-- corrected symbols of each lane in the running second, and its start (R52) -/
  symStart : Nat := 0
  syms : Tab Nat := []
  degradeTold : Bool := false
  /-- frames that a 1x800G port has dealt to its two pipelines in turn (R21) -/
  deal : Nat := 0
  /-- frames of TF0 waiting under the limits of R64, with their logical port, and the budget used -/
  mgmt : List (Nat × Bytes) := []
  mgmtAt : Nat := 0
  deriving DecidableEq, Repr, Inhabited

structure Ports where
  mgmtOnly : Bool := true
  lps : Tab LPort := []
  pps : Tab PPort := []
  /-- EAPOL frames delivered to TF0, with their logical port, oldest first (R57) -/
  eapol : List (Nat × Bytes) := []
  ppsFifo : List Nat := []
  deriving DecidableEq, Repr

/-- An egress queue of class 0 to 6, or the shaper of a class 7 queue. -/
structure TmQueue where
  frames : List Frame := []
  deficit : Nat := 0
  bucket : Bucket := {}
  deriving DecidableEq, Repr, Inhabited

/-- A queue set: group deficit, shaper, class pointer of its round robin. -/
structure TmGroup where
  deficit : Nat := 0
  bucket : Bucket := {}
  cls : Nat := 6
  deriving DecidableEq, Repr, Inhabited

/-- A policer's buckets (R137). -/
structure Policer where
  c : Bucket := {}
  p : Bucket := {}
  deriving DecidableEq, Repr, Inhabited

structure Tm where
  queues : Tab TmQueue := []
  groups : Tab TmGroup := []
  policers : Tab Policer := []
  deriving DecidableEq, Repr

/-! ### Parser (04) -/

/-- A frame at the parser: with its source and where it goes in the reorder buffers. -/
structure PFrame where
  frame : Frame
  /-- w14 source bits: logical port, recirculated, core-injected (R70) -/
  src : Nat
  /-- packet buffer to release after dispatch (R297) -/
  release : Option Nat := none
  /-- version slot stamped, and the instant, when its first beat entered the parser block (R88, R96) -/
  ver : Nat := 0
  at_ : Nat := 0
  /-- number of arrival on a 1x800G port, whose frames are dealt to two pipelines (R21, R22) -/
  no : Nat := 0
  deriving DecidableEq, Repr

/-- A frame in a sequencer slot (R68). -/
structure SlotFrame where
  pf : PFrame
  /-- reorder buffer 0-15 of the logical ports, 16-19 of the pipelines -/
  buf : Nat
  tag : Nat
  /-- bytes received at dispatch; then each stall's end: bytes received, and its clocks -/
  avail : Nat
  resumes : List (Nat × Nat) := []
  /-- fencing generation the sequencer holds -/
  gen : Nat
  at_ : Nat
  deriving DecidableEq, Repr

/-- What a parse leaves (R70): profile, result code, key vector, metadata, flags, header stack. -/
structure ParseRes where
  profile : Nat
  code : Nat
  key : Bytes
  meta_ : List Nat
  flags : Nat
  stack : List (Nat × Nat × Nat)
  csumBad : Bool
  clocks : Nat
  deriving DecidableEq, Repr

/-- An entry of a reorder buffer (R92): the pipeline that parses it, and when it was last dispatched. -/
structure RobEntry where
  tag : Nat
  pf : PFrame
  pipe : Nat
  at_ : Nat
  again : Bool
  res : Option ParseRes
  deriving DecidableEq, Repr

structure Rob where
  next : Nat := 0
  entries : List RobEntry := []
  deriving DecidableEq, Repr, Inhabited

inductive VerState where
  | free | building | current | retiring
  deriving DecidableEq, Repr, Inhabited

/-- A version slot (R87): its state, in-flight count and versioned records. -/
structure VerSlot where
  state : VerState := .free
  inflight : Nat := 0
  recs : Tab Bytes := []
  deriving DecidableEq, Repr, Inhabited

structure Parse where
  /-- frames in the crossing queues, per pipeline -/
  cross : Tab (List PFrame) := []
  recirc : Tab (List PFrame) := []
  inject : Tab (List PFrame) := []
  rr : Tab Nat := []
  slots : Tab (List SlotFrame) := []
  /-- sequencers out of rotation for a test, and dead ones -/
  out : List Nat := []
  dead : List Nat := []
  robs : Tab Rob := []
  /-- control-store words of patch RAM and extension RAM by address (24 bytes each), the traps -/
  store : Tab Bytes := []
  traps : List (Nat × Nat) := []
  poison : List Nat := []
  patchDone : Bool := false
  dispatched : Bool := false
  vers : Tab VerSlot := [(0, { state := .current })]
  current : Nat := 0
  deriving DecidableEq, Repr

/-! ### Forwarding tables (05) -/

/-- An entry (R100). The key is its key-length bytes. -/
structure TEntry where
  key : Bytes
  result : Nat
  age : Nat
  port : Nat
  /-- bits 1 to 4 of FLAGS; bit 0 VALID is being present -/
  flags : Nat
  tf : Nat
  deriving DecidableEq, Repr, Inhabited

/-- A hold record (R113). Times are signed nanoseconds of the time base. -/
structure Hold where
  key : Bytes
  owner : Nat
  learnt : Int
  cand : Option (Nat × Int) := none
  deriving DecidableEq, Repr

structure LearnReq where
  key : Bytes
  lp : Nat
  tf : Nat
  tIn : Int
  deriving DecidableEq, Repr

/-- A notification record (R121). -/
structure Notif where
  typ : Nat
  port : Nat
  old : Nat
  tf : Nat
  age : Nat
  seq : Nat
  key : Bytes
  deriving DecidableEq, Repr

/-- A running flush (R122). -/
structure Flush where
  filter : Nat
  value : Nat
  static : Bool
  deriving DecidableEq, Repr

structure Table where
  /-- slots by position: level * 2^40 + bucket * 4 + slot -/
  slots : Tab TEntry := []
  toggle : Tab Nat := []
  ptr : Tab Nat := []
  lfsr : Nat := 0
  tick : Nat := 0
  tickAt : Nat := 0
  hold : List Hold := []
  learnQ : List LearnReq := []
  refreshQ : List Bytes := []
  agerQ : List Bytes := []
  notif : List Notif := []
  seq : Nat := 0
  resync : Bool := false
  flush : Option Flush := none
  /-- next bucket of a running dump: level and bucket -/
  dump : Option (Nat × Nat) := none
  sdigest : Bytes := List.replicate 32 0
  digest : Bytes := List.replicate 32 0
  /-- buckets with an uncorrectable error, not yet cleared, and whether a recompute is owed -/
  lost : List (Nat × Nat) := []
  recompute : Bool := false
  deriving DecidableEq, Repr, Inhabited

/-! ### Memories (13) -/

/-- A packet buffer held by a TF, keyed by its device address (R322). -/
structure PktBuf where
  tf : Nat
  stall : Nat
  cap : Nat
  deriving DecidableEq, Repr, Inhabited

structure Mem where
  /-- Market memory, HBM, core scratch and Stall memory at the addresses of `devAddr` -/
  ram : Memory := []
  /-- the boot flash, erased bytes 0xFF unlisted -/
  flash : Memory := []
  /-- poisoned 8-byte words -/
  poison : List Nat := []
  trained0 : Bool := false
  trained1 : Bool := false
  lastxAddr : Nat := 0
  lastxInfo : Nat := 0
  lastxValid : Bool := false
  bufs : Tab PktBuf := []
  /-- HBM rows recorded for repair, rows without a spare row, corrected errors of each row in 24 h -/
  rowsBad : List Nat := []
  rowErr : Tab (List Nat) := []
  rowsKept : List Nat := []
  deriving DecidableEq, Repr

end Sys2Proof.Machine
end

