-- ==== Sys2Proof/Machine/Engines.lean ====
section
/-! DEFINITION. The objects of the engines: Idori Stalls (10, 11), tenant functions (09), storage (08),
security (12), Teasel (17). A default value of a field is its value right after reset. -/

namespace Sys2Proof.Machine

/-! ### Idori (10, 11) -/

/-- The states of R253. -/
inductive TState where
  | disabled | ready | blocked | stopped | faulted | killed
  deriving DecidableEq, Repr, Inhabited

/-- What a blocking read waits for (R260). -/
inductive Wait where
  | chan (ep : Nat)
  | timer
  | select
  | space (ep : Nat)
  deriving DecidableEq, Repr

/-- A thread: its table entry in force (R250), its state and its registers (R277). -/
structure Thread where
  enable : Bool := false
  high : Bool := false
  pinned : Bool := false
  tf : Nat := 0
  entry : Word64 := 0
  arg : Word64 := 0
  st : TState := .disabled
  /-- the state it was stopped from (R253) -/
  prev : TState := .ready
  g : Vector Word64 32 := Vector.replicate 32 0
  pc : Word64 := 0
  /-- s0.CS -/
  cs : Nat := 0
  /-- s1 and s2 -/
  len : Nat := 0
  left : Nat := 0
  src : Nat := 0
  srcEp : Nat := 0
  /-- s4, s5, s8 -/
  sel : Word64 := 0
  timer : Word64 := 0
  lastId : Word64 := 0
  /-- the blocked read and its destination register -/
  wait : Option (Wait × Nat) := none
  /-- what a fetch still finds where the thread has stored since its last IFENCE (R283): device address and byte -/
  unfenced : Tab Byte := []
  deriving DecidableEq, Repr, Inhabited

/-- An endpoint entry in force (R251): mode 1 read, 2 write. -/
structure EpBind where
  mode : Nat := 0
  thread : Nat := 0
  chan : Nat := 0
  deriving DecidableEq, Repr, Inhabited

/-- A staging slot (R257, R291). -/
structure Stage where
  words : List Word64 := []
  closed : Bool := false
  deriving DecidableEq, Repr, Inhabited

/-- A message of the fault endpoint (R263). -/
structure FaultMsg where
  kind : Nat
  thread : Nat := 0
  words : List Word64
  deriving DecidableEq, Repr

/-- A core role s.r (R247): the physical core that fills it, its threads and endpoints. -/
structure CoreRole where
  /-- ROLE_MAP byte; none: absent (R274) -/
  phys : Option Nat := none
  threads : Tab Thread := []
  eps : Tab EpBind := []
  stages : Tab Stage := []
  faults : List FaultMsg := []
  /-- words of the head fault message already read -/
  faultPos : Nat := 0
  /-- core start, for CYCLES (s6) -/
  started : Nat := 0
  /-- quiet detector (R266): clocks counted before `quietFrom`, when it last ran from, whether it fired -/
  quietAcc : Nat := 0
  quietFrom : Nat := 0
  quietFired : Bool := false
  /-- breakpoints 0 to 3 -/
  bps : Tab Word64 := []
  /-- submission queue (R295) -/
  subq : List OutMsg := []
  deriving DecidableEq, Repr, Inhabited

/-- A message in a ring: its source identity, its words, the packet buffer it delivers. -/
structure ChMsg where
  src : Nat
  words : List Word64
  buf : Option Nat := none
  deriving DecidableEq, Repr

/-- A channel ring (R256): messages, words reserved for completions (R261), words of the head
message already read, messages read since the Stall's quiesce began. -/
structure Chan where
  msgs : List ChMsg := []
  reserved : Nat := 0
  pos : Nat := 0
  deriving DecidableEq, Repr, Inhabited

inductive StallState where
  | stopped | running | quiescing
  deriving DecidableEq, Repr, Inhabited

structure Stall where
  st : StallState := .stopped
  spareUsed : Bool := false
  degraded : Bool := false
  /-- physical cores declared dead -/
  dead : List Nat := []
  /-- unused spare cores (R247, R430) -/
  spares : List Nat := [16]
  quietTold : Bool := false
  /-- roles whose core is dead and whose hand-over the Clerk owes (R248, R274) -/
  owed : List Nat := []
  cores : Tab CoreRole := (List.range 16).map (fun r => (r, { phys := some r }))
  deriving DecidableEq, Repr

structure Ido where
  stalls : Tab Stall := []
  chans : Tab Chan := []
  /-- the Clerk's queue (R261): buffers of tenant functions' stocks that wait for their channels, channel and tenant function -/
  clerkQ : List (Nat × Nat) := []
  deriving DecidableEq, Repr

/-! ### Tenant functions (09) -/

/-- The states of R233. -/
inductive TfState where
  | disabled | enabled | disabling | freezing | frozen | saving | saved | restoring | moved
  deriving DecidableEq, Repr, Inhabited

/-- A save that runs (R238): key slot, messages still open, blob length and digest, first bad status. -/
structure SaveOp where
  slot : Nat
  left : Nat
  len : Nat
  digest : Bytes
  bad : Option Nat := none
  nospace : Bool := false
  deriving DecidableEq, Repr

/-- A restore that runs (R241): key slot, book entry and host region for the key map; READs still open,
the parts of the blob read so far, the first bad status. -/
structure RestoreOp where
  slot : Nat
  book : Nat
  mapKey : Nat
  mapAddr : Nat
  mapLen : Nat
  left : Nat
  parts : Tab Bytes := []
  bad : Option Nat := none
  deriving DecidableEq, Repr

structure Tf where
  st : TfState := .disabled
  /-- placed Market and HBM allocations: device address and length (R222, R320, R323) -/
  mkt : Nat × Nat := (0, 0)
  hbm : Nat × Nat := (0, 0)
  graceAt : Option Nat := none
  save : Option SaveOp := none
  restore : Option RestoreOp := none
  /-- it was restored and not thawed since: carried entries and contexts are kept for L after the thaw (R241) -/
  restored : Bool := false
  /-- when its freeze completed: the age of a captured context stands still from then to the thaw (R236, R243) -/
  frozenAt : Nat := 0
  deriving DecidableEq, Repr, Inhabited

/-! ### Storage (08) -/

inductive SqState where
  | active | error | quiescing | disabled
  deriving DecidableEq, Repr, Inhabited

/-- An error-log entry (R199). -/
structure LogEnt where
  seq : Nat
  cmdId : Nat
  op : Nat
  flags : Nat
  status : Nat
  nvme : Nat
  rp : Nat
  vns : Nat
  blocks : Nat
  lba : Nat
  info : Nat
  at_ : Nat
  deriving DecidableEq, Repr

/-- Where an accepted command stands. -/
inductive CmdPhase where
  /-- accepted, not dispatched: waiting or held -/
  | waiting
  /-- write data being fetched by EHT READ -/
  | fetching
  /-- atomic WRITE waiting for journal space (R208) -/
  | journalWait
  /-- journal record being written -/
  | journal
  /-- drive commands outstanding -/
  | drives
  /-- read data being placed at the host by EHT WRITE -/
  | toHost
  /-- its completion is on its way -/
  | done
  deriving DecidableEq, Repr, Inhabited

/-- What one drive command of a command came to: extent number, status, drive status, root port, LBA. -/
structure PartDone where
  ext : Nat
  status : Nat
  nvme : Nat
  rp : Nat
  info : Nat
  data : Bytes
  deriving DecidableEq, Repr

/-- An accepted submission (R194). -/
structure StoCmd where
  no : Nat
  slot : Nat
  op : Nat
  flags : Nat
  cmdId : Nat
  vns : Nat
  lba : Nat
  blocks : Nat
  key : Nat
  addr : Nat
  arg : Nat
  data : Bytes
  ph : CmdPhase := .waiting
  left : Nat := 0
  parts : List PartDone := []
  /-- aborted by its queue's quiesce (R217) -/
  abort : Bool := false
  deriving DecidableEq, Repr

/-- A completion entry waiting to be sent (R195): its command, its 32 bytes, since when; the drive's status and root port of the
completion; whether the submission was refused at the acceptance point (R27). -/
structure CoEnt where
  cmd : StoCmd
  bytes : Bytes
  at_ : Nat
  nvme : Nat := 0
  rp : Nat := 0xFF
  refused : Bool := false
  deriving DecidableEq, Repr

structure StoQueue where
  st : SqState := .disabled
  eid : Nat
  depth : Nat
  /-- 0 URGENT, 1 HIGH, 2 MEDIUM, 3 LOW -/
  cls : Nat
  book : Nat
  inline : Bool
  coCount : Nat
  coTime : Nat
  /-- submissions in their slots, not yet accepted: slot and message -/
  inbox : List (Nat × Bytes) := []
  cmds : List StoCmd := []
  nextNo : Nat := 0
  log : List LogEnt := []
  logSeq : Nat := 0
  /-- it was in ERROR when its quiesce began: held commands stay held (R217) -/
  heldBack : Bool := false
  coal : List CoEnt := []
  /-- completion messages open: number and entries -/
  sent : Tab (List CoEnt) := []
  nextSent : Nat := 0
  deriving DecidableEq, Repr, Inhabited

/-- What a drive command is for. -/
inductive NvmeFor where
  | cmd (tf q no ext : Nat)
  | record (j seq : Nat)
  | home (j seq ext : Nat)
  | checkpoint (j : Nat)
  /-- blocks of a journal read for its replay (R209) -/
  | replay (j : Nat)
  deriving DecidableEq, Repr

/-- An NVMe I/O command outstanding at a drive. Opcodes: 0 Flush, 1 Write, 2 Read, 8 Write Zeroes, 9
Dataset Management. -/
structure NvmeCmd where
  op : Nat
  nsid : Nat
  lba : Nat
  blocks : Nat
  data : Bytes
  fua : Bool
  for_ : NvmeFor
  start : Nat
  /-- an Abort is out, since this instant -/
  abortAt : Option Nat := none
  /-- it passed the drive command timeout: when its Abort was issued (R214) -/
  timedOut : Option Nat := none
  deriving DecidableEq, Repr

/-- An admin command of a drive's bring-up (R213, steps 3, 4 and 6). -/
inductive AdminCmd where
  /-- configuration reads and BAR assignment -/
  | configure
  /-- the controller enabled -/
  | enable
  | identifyController
  | identifyNamespace (nsid : Nat)
  | activeNamespaces
  /-- Set Features, Number of Queues -/
  | setQueues (n : Nat)
  | createCq (id : Nat)
  | createSq (id : Nat)
  deriving DecidableEq, Repr

/-- R214 and R220. -/
inductive DrvState where
  | absent | init | online | resetting | failed
  deriving DecidableEq, Repr, Inhabited

/-- A self-test that runs (R216). -/
structure SelfTest where
  ext : Bool
  start : Nat
  aborting : Bool := false
  deriving DecidableEq, Repr

structure Drive where
  st : DrvState := .absent
  /-- step of R213 under way, and its admin commands that have not completed, in order -/
  step : Nat := 0
  admin : List AdminCmd := []
  /-- an Asynchronous Event Request is posted -/
  aer : Bool := false
  /-- what Identify Namespace gave: blocks of each namespace, and that one has the wrong format -/
  nsSizes : Tab Nat := []
  badNs : Bool := false
  released : Bool := false
  linkTry : Nat := 0
  cmds : Tab NvmeCmd := []
  nextCid : Nat := 0
  resets : List Nat := []
  serial : Nat := 0
  lastHost : Nat := 0
  test : Option SelfTest := none
  /-- when the next short and extended test falls due, 0: never -/
  shortDue : Nat := 0
  extDue : Nat := 0
  /-- an aborted test to be started again, and whether it is the extended one -/
  again : Option Bool := none
  lastResult : Nat := 0
  /-- aborts in a row of the short and of the extended test -/
  aborts : Nat := 0
  abortsExt : Nat := 0
  overdueShort : Bool := false
  overdueExt : Bool := false
  fw : Bool := false
  deriving DecidableEq, Repr, Inhabited

/-- A live journal record (R206). -/
structure JRec where
  seq : Nat
  tf : Nat
  q : Nat
  no : Nat
  vns : Nat
  lba : Nat
  blocks : Nat
  data : Bytes
  /-- its first block in the journal -/
  pos : Nat
  /-- the drive has completed the record (step 3 passed) -/
  written : Bool := false
  /-- home writes outstanding, and whether one failed -/
  left : Nat := 0
  failed : Bool := false
  issued : Bool := false
  /-- its drive came back ONLINE with the record live: the namespace waits for its home writes (R215) -/
  behind : Bool := false
  deriving DecidableEq, Repr

/-- The replay of a journal that has begun (R209): the newer checkpoint's nonce, count and OLDEST, once it is read; the blocks read
so far behind the pair; the number of valid records, once the scan has ended. -/
structure JScan where
  ck : Option (Bytes × Nat × Nat) := none
  got : Bytes := []
  found : Option Nat := none
  deriving DecidableEq, Repr

structure Journal where
  usable : Bool := false
  replay : Bool := false
  scan : Option JScan := none
  nonce : Bytes := List.replicate 16 0
  next : Nat := 0
  /-- blocks from the first one after the checkpoint pair: the write pointer, and how many up to it hold records that were live at the
  last checkpoint or have been written since -/
  wptr : Nat := 0
  used : Nat := 0
  recs : List JRec := []
  /-- atomic WRITEs that wait for space: queue key and command number -/
  waiters : List (Nat × Nat) := []
  retired : Bool := false
  ckAt : Nat := 0
  ckCount : Nat := 0
  deriving DecidableEq, Repr, Inhabited

/-- Arbitration state of a TF (R201): class 0 HIGH, 1 MEDIUM, 2 LOW. -/
structure StoArb where
  deficit : Nat := 0
  cls : Nat := 0
  taken : List Nat := [0, 0, 0]
  last : List Nat := [63, 63, 63]
  lastUrgent : Nat := 63
  deriving DecidableEq, Repr, Inhabited

structure Sto where
  /-- queues keyed TF * 64 + number -/
  queues : Tab StoQueue := []
  arb : Tab StoArb := []
  curTf : Nat := 0
  lastUrgentTf : Nat := 4095
  drives : Tab Drive := []
  journals : Tab Journal := []
  /-- storage cache: namespace, block, data, most recently used first (R204) -/
  cache : List (Nat × Nat × Bytes) := []
  resetHeld : Bool := true
  deriving DecidableEq, Repr

/-! ### Security (12) -/

/-- A key slot (R303, R304). -/
structure KeySlot where
  typ : Nat := 0
  origin : Nat := 0
  usage : Nat := 0
  owner : Nat := 0
  flags : Nat := 0
  id : Bytes := List.replicate 32 0
  uses : Nat := 0
  key : Bytes := []
  deriving DecidableEq, Repr, Inhabited

/-- A job ring (R311) and the PROD value the engine has noticed. -/
structure JobRing where
  base : Nat
  count : Nat
  prod : Nat := 0
  deriving DecidableEq, Repr, Inhabited

structure Sec where
  slots : Tab KeySlot := []
  mrs : List Bytes := List.replicate 16 (List.replicate 32 0)
  mlog : List (Nat × Bytes × Nat) := []
  mlogOvf : Bool := false
  rings : Tab JobRing := []
  /-- tenant function whose ring the shared cipher and the hash engine served last (R302) -/
  lastCipher : Nat := 4095
  lastHash : Nat := 4095
  deriving DecidableEq, Repr

/-! ### Teasel (17) -/

/-- The unit under test (R420 to R423). -/
structure UnitTest where
  unit : Nat
  start : Nat
  /-- start of the copy that runs -/
  at_ : Nat
  run : Nat := 1
  /-- a bank copy runs: 1 into the spare, 2 back (R328) -/
  copy : Nat := 0
  /-- the spare bank that stands in -/
  spare : Option Nat := none
  retest : Bool := false
  /-- signature of a failed first run -/
  failed1 : Option Nat := none
  deriving DecidableEq, Repr

/-- A dead unit: its role, the reason, consecutive retest passes. -/
structure DeadUnit where
  role : Nat
  passes : Nat := 0
  deriving DecidableEq, Repr, Inhabited

structure Tsl where
  sweep : Nat := 0
  running : Bool := false
  startAt : Nat := 0
  /-- units still to be tested in this sweep, in order -/
  todo : List Nat := []
  tested : Nat := 0
  lastMs : Nat := 0
  periodAt : Nat := 0
  forward : List Nat := []
  asked : List Nat := []
  overdue : Bool := false
  firstCommit : Option Nat := none
  cur : Option UnitTest := none
  dead : Tab DeadUnit := []
  /-- declarations whose fuse entry is still to be burnt -/
  burn : List Nat := []
  /-- lockstep (R431): last mismatch, and the Clerk restart under way with the PC -/
  mismatchAt : Option Nat := none
  restart : Option (Nat × Nat) := none
  /-- the spare bank that fills a bank's role, keyed by the role: its own bank's unit identifier (R328) -/
  bankMap : Tab Nat := []
  deriving DecidableEq, Repr

end Sys2Proof.Machine
end

