-- ==== Sys2Proof/Machine/State.lean ====
section
/-! DEFINITION. The State, the two ways a step can stop, and the state right after a power-on
reset. Every field is plain data. -/

namespace Sys2Proof.Machine

/-- No command of the table is without an effect in the spec, so no meaning faults; the type names the one stop that
the address map leaves room for. -/
inductive Fault where
  /-- For an access to a device address that no memory answers (R318). Raised by no meaning: every address an engine
  forms is checked against a memory first. Safe. -/
  | noSuchMemory (addr : Nat)
  deriving DecidableEq, Repr

inductive Refusal where
  /-- For a command whose meaning is not written, named by its mnemonic. Raised by no arm: every command has one. Safe. -/
  | notModelled (mnemonic : String)
  deriving DecidableEq, Repr

/-- Everything the spec gives the block, and the queue of waiting commands. -/
structure State where
  phase : Phase := .inReset
  clk : Clk := {}
  pins : Pins := {}
  fuses : Fuses := {}
  boot : Boot := {}
  cfg : Cfg := {}
  mbx : Mbx := {}
  /-- every counter of the register blocks and objects, by register address -/
  ctrs : Tab Ctr := []
  /-- the instant at which an event last set the sticky bit of a counter or of an RW1C register, by address (R6): the model's
  own field -/
  flagSet : Tab Nat := []
  /-- running and completed quiesces by object -/
  qs : List (QObj × QRec) := []
  fence : Fence := {}
  port : Ports := {}
  parse : Parse := {}
  tm : Tm := {}
  tables : Tab Table := []
  eht : Eht := {}
  mem : Mem := {}
  ido : Ido := {}
  /-- tenant functions; TF0 is there and ENABLED from reset (R221; log 3) -/
  tfs : Tab Tf := [(0, { st := .enabled })]
  sto : Sto := {}
  sec : Sec := {}
  tsl : Tsl := {}
  /-- free values drawn so far (log 5): the model's own field -/
  free : Nat := 0
  pending : List Instr := []
  deriving DecidableEq, Repr

/-- The state right after a power-on reset of a new device, with the reset still held. -/
def State.reset : State := {}

end Sys2Proof.Machine
end

