-- ==== Sys2Proof/Machine/Blocks.lean ====
section
/-! DEFINITION. The register blocks (R342): where each counter, its sticky bit and the block's snapshot
and clear triggers stand; counting (R9, R10), snapshots and clears (R14). -/

namespace Sys2Proof.Machine

/-- A run of counters: statistics (64 bits, 8 bytes apart) or error counters (32 bits, 4 apart). -/
structure CtrGroup where
  stat : Bool
  off : Nat
  n : Nat
  /-- the register with their sticky bits, and the bit of the first -/
  flagOff : Nat
  bit : Nat
  deriving DecidableEq, Repr

/-- Distance of two counters of a group. -/
def CtrGroup.stride (g : CtrGroup) : Nat := if g.stat then 8 else 4

/-- The kinds of register block. -/
inductive BlockKind where
  | clerk | port | lport | exlat | parser | table | tmLp | tmGlobal | eht | storage | stall
  | security | memory | cpr | teasel
  /-- the per-object counters of R463, which no register address reaches -/
  | object
  deriving DecidableEq, Repr

/-- A register block: its kind, base address and the number of the object it belongs to. -/
structure Block where
  kind : BlockKind
  base : Nat
  obj : Nat
  deriving DecidableEq, Repr

/-- Statistics counters at 0x100 + 8k and error counters at 0x040 + 4k with their registers. -/
def plainGroups (nstat nerr wrapOff ovfOff : Nat) : List CtrGroup :=
  [{ stat := true, off := 0x100, n := nstat, flagOff := wrapOff, bit := 0 },
   { stat := false, off := 0x40, n := nerr, flagOff := ovfOff, bit := 0 }]

/-- The counters of a block (R46, R66, R96, R123, R145, R190, R220, R276, R316, R330, R363, R418, R435). -/
def BlockKind.groups : BlockKind → List CtrGroup
  | .clerk => plainGroups 3 6 0xC 0x10
  | .port => [{ stat := true, off := 0x100, n := 9, flagOff := 0xC, bit := 0 },
              { stat := false, off := 0x20, n := 3, flagOff := 0x10, bit := 0 }]
  | .lport => plainGroups 8 12 0x0 0x4
  | .exlat => [{ stat := true, off := 0x10, n := 3, flagOff := 0xC, bit := 0 },
               { stat := true, off := 0x40, n := 8, flagOff := 0xC, bit := 3 },
               { stat := false, off := 0x30, n := 1, flagOff := 0xC, bit := 11 }]
  | .parser => [{ stat := true, off := 0x200, n := 6, flagOff := 0x10, bit := 0 },
                { stat := false, off := 0x100, n := 32, flagOff := 0x14, bit := 0 },
                { stat := false, off := 0x180, n := 10, flagOff := 0x18, bit := 0 }]
  | .table => plainGroups 9 9 0xC 0x10
  | .tmLp => plainGroups 4 3 0xC 0x10
  | .tmGlobal => [{ stat := false, off := 0x40, n := 1, flagOff := 0x8, bit := 0 }]
  | .eht => plainGroups 13 13 0xC 0x10
  | .storage => plainGroups 6 7 0xC 0x10
  | .stall => [{ stat := true, off := 0x100, n := 18, flagOff := 0xC, bit := 0 },
               { stat := false, off := 0x40, n := 6, flagOff := 0x10, bit := 0 },
               { stat := false, off := 0x80, n := 16, flagOff := 0x10, bit := 16 }]
  | .security => plainGroups 1 2 0xC 0x10
  | .memory => plainGroups 2 9 0xC 0x10
  | .cpr => plainGroups 2 2 0xC 0x10
  | .teasel => plainGroups 3 8 0xC 0x10
  | .object => plainGroups 4 4 0xC 0x10

/-- Block bases (R66, R96, R123, R145, R342, R363, R418, R435). -/
def clerkBase : Nat := 0x00100000
def portBase (p : Nat) : Nat := 0x00400000 + p * 0x80000
def lportBase (lp : Nat) : Nat := portBase (lp / 8) + 0x10000 + (lp % 8) * 0x1000
def exlatBase (lp : Nat) : Nat := lportBase lp + 0x800
def parserBase : Nat := 0x00500000
def tableBase (t : Nat) : Nat := 0x00580000 + t * 0x1000
def tmBase (lp : Nat) : Nat := 0x00600000 + lp * 0x1000
def tmGlobalBase : Nat := 0x00610000
def ehtBase : Nat := 0x00680000
def stoBase : Nat := 0x00700000
def stallBase (s : Nat) : Nat := 0x00780000 + s * 0x1000
def secBase : Nat := 0x00880000
def memBase : Nat := 0x00900000
def cprBase : Nat := 0x00980000
def tslBase : Nat := 0x00A00000

/-- Model addresses of the per-object counters: kind 1 queue, 2 policer, 3 TF, 4 storage queue (R463). -/
def objBase (kind n : Nat) : Nat := kind * 2 ^ 44 + n * 0x1000

/-- The kind and number of a per-object counter block. -/
def objOf (a : Nat) : Nat × Nat := (a / 2 ^ 44, (a % 2 ^ 44) / 0x1000)

/-- The register block that holds an address (R342). -/
def blockAt (a : Nat) : Option Block :=
  if 2 ^ 44 ≤ a then some ⟨.object, a / 0x1000 * 0x1000, (objOf a).2⟩
  else if clerkBase ≤ a ∧ a < clerkBase + 0x1000 then some ⟨.clerk, clerkBase, 0⟩
  else if 0x00400000 ≤ a ∧ a < 0x00500000 then
    let p := (a - 0x00400000) / 0x80000
    let r := (a - 0x00400000) % 0x80000
    if r < 0x1000 then some ⟨.port, portBase p, p⟩
    else if 0x10000 ≤ r ∧ r < 0x18000 then
      let i := (r - 0x10000) / 0x1000
      let lp := p * 8 + i
      if r % 0x1000 < 0x800 then some ⟨.lport, lportBase lp, lp⟩ else some ⟨.exlat, exlatBase lp, lp⟩
    else none
  else if parserBase ≤ a ∧ a < parserBase + 0x1000 then some ⟨.parser, parserBase, 0⟩
  else if 0x00580000 ≤ a ∧ a < 0x00590000 then
    let t := (a - 0x00580000) / 0x1000
    some ⟨.table, tableBase t, t⟩
  else if 0x00600000 ≤ a ∧ a < 0x00610000 then
    let n := (a - 0x00600000) / 0x1000
    some ⟨.tmLp, tmBase n, n⟩
  else if tmGlobalBase ≤ a ∧ a < tmGlobalBase + 0x1000 then some ⟨.tmGlobal, tmGlobalBase, 0⟩
  else if ehtBase ≤ a ∧ a < ehtBase + 0x1000 then some ⟨.eht, ehtBase, 0⟩
  else if stoBase ≤ a ∧ a < stoBase + 0x1000 then some ⟨.storage, stoBase, 0⟩
  else if 0x00780000 ≤ a ∧ a < 0x0078C000 then
    let n := (a - 0x00780000) / 0x1000
    some ⟨.stall, stallBase n, n⟩
  else if secBase ≤ a ∧ a < secBase + 0x1000 then some ⟨.security, secBase, 0⟩
  else if memBase ≤ a ∧ a < memBase + 0x1000 then some ⟨.memory, memBase, 0⟩
  else if cprBase ≤ a ∧ a < cprBase + 0x1000 then some ⟨.cpr, cprBase, 0⟩
  else if tslBase ≤ a ∧ a < tslBase + 0x1000 then some ⟨.teasel, tslBase, 0⟩
  else none

/-- The end of a block's addresses. -/
def Block.size (b : Block) : Nat :=
  match b.kind with
  | .lport => 0x800
  | .exlat => 0x800
  | _ => 0x1000

/-- The group and index of the counter whose register stands at offset `o` (either half of a 64-bit one). -/
def findCtr (gs : List CtrGroup) (o : Nat) : Option (CtrGroup × Nat) :=
  match gs with
  | [] => none
  | g :: rest =>
    if g.off ≤ o ∧ o < g.off + g.n * g.stride then some (g, (o - g.off) / g.stride)
    else findCtr rest o

/-- A counter's record, absent: never counted. -/
def State.ctr (s : State) (a : Nat) : Ctr := tget s.ctrs a {}

/-- One statistics increment (R9): the new record, and whether it wrapped. -/
def Ctr.addStat (c : Ctr) (n : Nat) : Ctr × Bool :=
  let v := c.v + n
  if v < 2 ^ 64 then ({ c with v := v }, false)
  else ({ c with v := v % 2 ^ 64, flag := true }, true)

/-- Errors counted one by one (R10): the counter stops at its top, and the first error past it
sets the flag. -/
def Ctr.addErr (c : Ctr) (n : Nat) : Ctr :=
  if c.v + n ≤ 0xFFFFFFFF then { c with v := c.v + n }
  else { c with v := 0xFFFFFFFF, flag := true }

/-- R6: an event has set the sticky bit at address `a` now, where `b` says so. -/
def State.noteFlag (s : State) (a : Nat) (b : Bool) : State :=
  if b then { s with flagSet := tset s.flagSet a s.clk.up } else s

/-- An event set the sticky bit at address `a` in this very cycle, one nanosecond of the device clock (R6; log 1). -/
def State.flagNow (s : State) (a : Nat) : Bool := tget? s.flagSet a == some s.clk.up

/-- Error counter at a register address. -/
def countErrs (s : State) (a n : Nat) : State :=
  if n = 0 then s
  else { s.noteFlag a (decide (0xFFFFFFFF < (s.ctr a).v + n)) with ctrs := tmod s.ctrs a {} (·.addErr n) }

/-- One error. -/
def countErr (s : State) (a : Nat) : State := countErrs s a 1

/-- Counter records of an address range changed. -/
def ctrRange (t : Tab Ctr) (a n : Nat) (f : Ctr → Ctr) : Tab Ctr :=
  t.map (fun p => if a ≤ p.1 ∧ p.1 < a + n then (p.1, f p.2) else p)

/-- R14: live values and sticky bits copied to the shadow. -/
def Ctr.snap (c : Ctr) : Ctr := { c with sv := c.v, sflag := c.flag }

/-- Snapshot of every counter of `n` addresses from `a`. -/
def snapRange (s : State) (a n : Nat) : State := { s with ctrs := ctrRange s.ctrs a n Ctr.snap }

/-- The clear action: live registers and shadow to 0. -/
def clearRange (s : State) (a n : Nat) : State :=
  { s with ctrs := s.ctrs.filter (fun p => !(decide (a ≤ p.1) && decide (p.1 < a + n))) }

/-- The word of sticky bits of a flag register: bit of counter k of a group from its shadow copy. -/
def flagWord (s : State) (base : Nat) : List CtrGroup → Nat → Nat
  | [], _ => 0
  | g :: rest, o =>
    (if g.flagOff = o then
      (List.range g.n).foldl
        (fun acc k => if (s.ctr (base + g.off + k * g.stride)).sflag then acc + 2 ^ (g.bit + k) else acc) 0
     else 0) + flagWord s base rest o

/-- RW1C of one sticky bit, live and shadow (R14). -/
def Ctr.clearFlag (c : Ctr) : Ctr := { c with flag := false, sflag := false }

/-- The same in the cycle in which an event sets the bit: the live bit stays set (R6, R14). -/
def Ctr.clearShadow (c : Ctr) : Ctr := { c with sflag := false }

/-- A write of 1 to the sticky bit of the counter at an address. -/
def clearFlagAt (s : State) (a : Nat) : State :=
  { s with ctrs := tmod s.ctrs a {} (if s.flagNow a then Ctr.clearShadow else Ctr.clearFlag) }

/-- RW1C write to a flag register: each 1 clears its bit. -/
def clearFlags (s : State) (base o v : Nat) : List CtrGroup → State
  | [] => s
  | g :: rest =>
    let s := if g.flagOff = o then
        (List.range g.n).foldl
          (fun s k => if v.testBit (g.bit + k) then clearFlagAt s (base + g.off + k * g.stride) else s) s
      else s
    clearFlags s base o v rest

end Sys2Proof.Machine
end

