-- ==== Sys2Proof/Machine/Ops.lean ====
section
/-! DEFINITION. The shared operations of every chapter: the clock and the time base, free values,
committed configuration, event records, statistics with their wrap events, fencing. -/

namespace Sys2Proof.Machine

/-! ### Free values (log 5) -/

/-- The next free value, reduced below `bound`. -/
def State.draw (s : State) (bound : Nat) : Nat × State :=
  (Config.freeValue s.free % bound, { s with free := s.free + 1 })

/-- A free value that is not zero: 1 to bound - 1. -/
def State.drawNz (s : State) (bound : Nat) : Nat × State :=
  (1 + Config.freeValue s.free % (bound - 1), { s with free := s.free + 1 })

/-- A string of `n` free bytes. -/
def State.drawBytes (s : State) (n : Nat) : Bytes × State :=
  (leBytes n (Config.freeValue s.free % 256 ^ n), { s with free := s.free + 1 })

/-! ### The time base (R401, R402) -/

/-- What one clock adds, in 2^-32 ns, under a sum of terms `r` in parts per 10^12 (R401, log 9). -/
def tbIncrement (r : Int) : Nat :=
  let f := (2 ^ 32 * r) / 1000000000000
  let exact := (2 ^ 32 * r) % 1000000000000 = 0
  ((2 ^ 32 : Int) + f + (if exact then 0 else if Config.rateRoundsUp r then 1 else 0)).toNat

/-- Clocks for which a slew still runs (R402). -/
def Clk.slewClocks (c : Clk) : Nat :=
  if c.slewRate = 0 then 0 else (c.slewLeft + c.slewRate.natAbs - 1) / c.slewRate.natAbs

/-- The clock `n` nanoseconds later. -/
def Clk.run (c : Clk) (n : Nat) : Clk :=
  if c.tbRunning then
    let k := min n c.slewClocks
    { c with
      up := c.up + n
      tb := c.tb + k * tbIncrement (c.rate + c.slewRate * 1000000) + (n - k) * tbIncrement c.rate
      slewLeft := c.slewLeft - k * c.slewRate.natAbs }
  else { c with up := c.up + n }

/-- The device clock brought to the instant of a command (log 1): never backwards. -/
def State.advance (s : State) (t : Nat) : State :=
  if s.clk.up < t then { s with clk := s.clk.run (t - s.clk.up) } else s

/-- The time base in whole nanoseconds (R401: the fraction is dropped). -/
def State.ns (s : State) : Nat := s.clk.tb / 2 ^ 32

/-- The 80-bit time of a number of nanoseconds (R13). -/
def time80 (ns : Nat) : Nat := (ns / nsPerSec % 2 ^ 48) * 2 ^ 32 + ns % nsPerSec

/-- Nanoseconds of an 80-bit time. -/
def nsOf80 (t : Nat) : Nat := t / 2 ^ 32 * nsPerSec + t % 2 ^ 32

/-! ### Value encoding (R355) -/

/-- A Number or Choice: 8 bytes, two's complement, little-endian. -/
def encNum (v : Int) : Bytes := leBytes 8 (v % 2 ^ 64).toNat

/-- A Number from an unsigned value. -/
def encN (v : Nat) : Bytes := leBytes 8 (v % 2 ^ 64)

/-- The signed value of an 8-byte Number. -/
def toSigned (v : Nat) : Int := if v < 2 ^ 63 then v else (v : Int) - 2 ^ 64

/-- An 80-bit time as a value (DEDUCED: 10 bytes, little-endian as in R359; log 14). -/
def encTime (ns : Nat) : Bytes := leBytes 10 (time80 ns)

/-! ### Committed configuration (R343 to R356) -/

/-- The key of a record: ITEM_ID, INDEX, SUBINDEX. -/
def cfgKey (item index sub : Nat) : Nat := item * 2 ^ 64 + index * 2 ^ 32 + sub

def keyItem (k : Nat) : Nat := k / 2 ^ 64
def keyIndex (k : Nat) : Nat := k / 2 ^ 32 % 2 ^ 32
def keySub (k : Nat) : Nat := k % 2 ^ 32

/-- ITEM_ID of a row of a group's table (R353). -/
def itemId (group table row : Nat) : Nat := group * 2 ^ 24 + table * 2 ^ 16 + row

/-- The committed value of an item, or nothing: it holds its default. -/
def State.cfgRec? (s : State) (item index sub : Nat) : Option Bytes := tget? s.cfg.recs (cfgKey item index sub)

/-- The first number of a committed value, or the default `d`. -/
def State.cfgN (s : State) (item index sub d : Nat) : Nat :=
  match s.cfgRec? item index sub with
  | some v => leAt v 0 8
  | none => d

/-- Number `k` of a committed composite, or the default `d`. -/
def State.cfgPart (s : State) (item index sub k d : Nat) : Nat :=
  match s.cfgRec? item index sub with
  | some v => leAt v (8 * k) 8
  | none => d

/-- A configuration is in force. -/
def State.committed (s : State) : Bool := s.cfg.state == .committed

/-- CFG_STATUS (R363). -/
def State.cfgStatus (s : State) : Nat :=
  (match s.cfg.state with
   | .empty => 0
   | .committed => 1
   | .refused r => 2 + r * 2 ^ 16)
  + (if s.cfg.staging.isSome then 4 else 0) + (if s.cfg.stored then 8 else 0)

/-! ### Logical ports (R20, R66) -/

/-- Port mode of a physical port: 0 1x800G to 3 8x100G. -/
def State.portMode (s : State) (p : Nat) : Nat := (tget s.port.pps p {}).mode

/-- Logical ports of a mode. -/
def modePorts (m : Nat) : Nat := 2 ^ m

/-- The logical port exists in the mode in force (R20). In management-only mode, only LP0 and LP8 (R64). -/
def State.lpPresent (s : State) (lp : Nat) : Bool :=
  decide (lp < 16) && decide (lp % 8 < modePorts (s.portMode (lp / 8)))

/-- Rate of a logical port in Mbit/s. -/
def State.lpRate (s : State) (lp : Nat) : Nat := 800000 / modePorts (s.portMode (lp / 8))

def State.lp (s : State) (n : Nat) : LPort := tget s.port.lps n {}
def State.pp (s : State) (n : Nat) : PPort := tget s.port.pps n {}
def State.onLp (s : State) (n : Nat) (f : LPort → LPort) : State :=
  { s with port.lps := tmod s.port.lps n {} f }
def State.onPp (s : State) (n : Nat) (f : PPort → PPort) : State :=
  { s with port.pps := tmod s.port.pps n {} f }

/-- Maximum frame size of a logical port (R55). -/
def State.maxFrame (s : State) (lp : Nat) : Nat := s.cfgN (itemId 4 1 6) lp 0 9216

/-! ### Queue-set ranges (R124, R125) -/

/-- Base and count of a logical port's queue-set range. -/
def State.qsetRange (s : State) (lp : Nat) : Nat × Nat :=
  (s.cfgPart (itemId 7 1 1) lp 0 0 (lp * 512), s.cfgPart (itemId 7 1 1) lp 0 1 512)

/-- The present logical port whose range holds a queue set (R124). -/
def State.qsetPort (s : State) (q : Nat) : Option Nat :=
  (List.range 16).find? (fun lp =>
    s.lpPresent lp && decide ((s.qsetRange lp).1 ≤ q) && decide (q < (s.qsetRange lp).1 + (s.qsetRange lp).2))

/-! ### Event records (R359 to R362) -/

/-- Group of an event code, for the mask of R362. -/
def evGroup (code : Nat) : Nat := code / 256

/-- A subscriber after the record `e` has left the log: R362 counts what it never received. -/
def Subscriber.drop (u : Subscriber) (e : Event) : Subscriber × Nat :=
  if seqFrom e.seq u.next then
    ({ u with next := seqNext e.seq, gap := true }, if u.mask.getLsbD (evGroup e.code) then 1 else 0)
  else (u, 0)

/-- The oldest record dropped from a log of 4,096 (R361), counted as lost where R362 says so. -/
def trimLog (s : State) : State :=
  match s.mbx.log with
  | [] => s
  | e :: rest =>
    if s.mbx.log.length ≤ 4096 then s
    else
      let us := s.mbx.subs.map (fun p => (p.1, p.2.drop e))
      let lost := us.foldl (fun n p => n + p.2.2) 0
      let sbLost := seqFrom e.seq s.mbx.sbEvt
      let s := { s with
        mbx.log := rest
        mbx.subs := us.map (fun p => (p.1, p.2.1))
        mbx.sbEvt := if sbLost then seqNext e.seq else s.mbx.sbEvt
        mbx.sbGap := s.mbx.sbGap || sbLost }
      countErrs s (clerkBase + 0x4C) (lost + if sbLost then 1 else 0)

/-- A record appended to the log (R359). -/
def rawEvent (s : State) (code object : Nat) (data : Bytes) : State :=
  let e : Event := { seq := s.mbx.nextSeq, code := code, gap := false, object := object,
                     time := time80 s.ns, data := padTo 64 data }
  trimLog { s with mbx.log := s.mbx.log ++ [e], mbx.nextSeq := seqNext s.mbx.nextSeq }

/-- Block whose wrap-events setting governs a counter (R343, R463), as base / 0x1000. -/
def wrapBlock (s : State) (a : Nat) : Nat :=
  match blockAt a with
  | some b =>
    match b.kind with
    | .object =>
      match (objOf a).1 with
      | 1 => match s.qsetPort (b.obj / 8) with
             | some lp => tmBase lp
             | none => tmGlobalBase
      | 2 => tmGlobalBase
      | 3 => clerkBase
      | _ => stoBase
    | .lport => b.base
    | .exlat => b.base - 0x800
    | _ => b.base
  | none => 0

/-- The COUNTER_WRAP record of a counter (R9, R463): the item of a storage queue starts with two numbers, every other with
one. -/
def wrapRecord (s : State) (a : Nat) : State :=
  if a < 2 ^ 44 then rawEvent s 0x0101 a []
  else rawEvent s 0x0101 (wrapBlock s a)
    (encN (objOf a).1 ++ encN (objOf a).2 ++ encN ((a % 0x1000 - 0x100) / 8 + if (objOf a).1 = 4 then 2 else 1))

/-- The wrap events of a counter's block are enabled (R343). -/
def wrapOn (s : State) (a : Nat) : Bool := s.cfgN (itemId 2 1 5) (wrapBlock s a / 0x1000) 0 0 == 1

/-- A statistics counter moved by `n`, and whether it wrapped. -/
def bumpStat (s : State) (a n : Nat) : State × Bool :=
  let r := (s.ctr a).addStat n
  ({ s.noteFlag a r.2 with ctrs := tset s.ctrs a r.1 }, r.2)

/-- COUNTER_WRAP of a counter, counted in EVENTS (R363); EVENTS itself may wrap by that, once. -/
def wrapEvent (s : State) (a : Nat) : State :=
  let r := bumpStat (wrapRecord s a) (clerkBase + 0x110) 1
  if r.2 && wrapOn r.1 (clerkBase + 0x110) then
    (bumpStat (wrapRecord r.1 (clerkBase + 0x110)) (clerkBase + 0x110) 1).1
  else r.1

/-- Statistics counter (R9) at a register address: `n` added, with the wrap event where enabled. -/
def countStat (s : State) (a n : Nat) : State :=
  let r := bumpStat s a n
  if r.2 && wrapOn r.1 a then wrapEvent r.1 a else r.1

/-- An event raised (R359): the record, and EVENTS (R363). -/
def raise (s : State) (code object : Nat) (data : Bytes) : State :=
  countStat (rawEvent s code object data) (clerkBase + 0x110) 1

/-! ### Quiesces (R26 to R30) -/

/-- The quiesce record of an object: none when it is enabled. -/
def State.q? (s : State) (o : QObj) : Option QRec := (s.qs.find? (fun p => p.1 = o)).map Prod.snd

def State.qSet (s : State) (o : QObj) (r : QRec) : State :=
  { s with qs := (o, r) :: s.qs.filter (fun p => p.1 ≠ o) }

def State.qDel (s : State) (o : QObj) : State := { s with qs := s.qs.filter (fun p => p.1 ≠ o) }

/-- Its quiesce runs. -/
def State.quiescing (s : State) (o : QObj) : Bool :=
  match s.q? o with
  | some r => !r.done
  | none => false

/-- Its quiesce has completed and it has not been re-enabled (R29: disabled). -/
def State.disabled (s : State) (o : QObj) : Bool :=
  match s.q? o with
  | some r => r.done
  | none => false

/-- It no longer accepts work. -/
def State.stopped (s : State) (o : QObj) : Bool := (s.q? o).isSome

/-- Items drained or aborted counted against a running quiesce. -/
def State.qCount (s : State) (o : QObj) (drained aborted : Nat) : State :=
  { s with qs := s.qs.map (fun p =>
      if p.1 = o ∧ !p.2.done then
        (p.1, { p.2 with drained := p.2.drained + drained, aborted := p.2.aborted + aborted })
      else p) }

/-- Items of a tenant function counted against its freeze (R236); a disable counts its children's (R234). -/
def State.qCountTf (s : State) (tf drained aborted : Nat) : State :=
  { s with qs := s.qs.map (fun p =>
      if p.1 = .tf tf ∧ !p.2.done ∧ p.2.kind = 2 then
        (p.1, { p.2 with drained := p.2.drained + drained, aborted := p.2.aborted + aborted })
      else p) }

/-! ### Fencing (R32 to R35) -/

/-- Generation of a role in the fence table. -/
def State.fenceGen (s : State) (r : Role) : Nat :=
  match s.fence.gens.find? (fun p => p.1 = r) with
  | some p => p.2
  | none => 0

/-- The generation a physical unit holds. -/
def State.heldGen (s : State) (unit : Nat) : Nat := tget s.fence.held unit 0

/-- R33: a role's generation incremented. -/
def State.fenceBump (s : State) (r : Role) : State :=
  let g := (s.fenceGen r + 1) % 65536
  { s with
    fence.gens := (r, g) :: s.fence.gens.filter (fun p => p.1 ≠ r)
    fence.told := s.fence.told.filter (· ≠ r) }

/-- A unit takes up a role under its current generation. -/
def State.fenceTake (s : State) (unit : Nat) (r : Role) : State :=
  { s with fence.held := tset s.fence.held unit (s.fenceGen r) }

/-- Unit identifiers (R419). -/
def unitCore (stall phys : Nat) : Nat := 1 * 4096 + stall * 17 + phys
def unitSeq (n : Nat) : Nat := 2 * 4096 + n
def unitStallBank (stall bank : Nat) : Nat := 3 * 4096 + stall * 17 + bank
def unitMktBank (bank : Nat) : Nat := 4 * 4096 + bank

/-- The fenced-traffic counter of a role (R276, R435). -/
def fencedCtr : Role → Nat
  | .core st r => stallBase st + 0x80 + 4 * r
  | .seq _ => tslBase + 0x54
  | .bank _ => tslBase + 0x58
  | .endpoint _ => ehtBase + 0x68

/-- The unit identifier of a role, for the event of its first discard (R34). -/
def roleUnit : Role → Nat
  | .core st r => st * 16 + r
  | .seq n => unitSeq n
  | .bank n => n
  | .endpoint e => e

/-- A stale or impossible stamp met at a check (R34, R35): counted, and reported once. -/
def fencedDiscard (s : State) (r : Role) (stamp : Nat) : State :=
  let s := countErr s (fencedCtr r)
  let s := if serialLater 16 stamp (s.fenceGen r) then countErr s (tslBase + 0x50) else s
  if s.fence.told.contains r then s
  else raise { s with fence.told := r :: s.fence.told } 0x0103 (roleUnit r) []

/-- Whether a unit's stamp is current for a role (R32). -/
def State.fenceOk (s : State) (unit : Nat) (r : Role) : Bool :=
  s.heldGen unit % 65536 == s.fenceGen r % 65536

/-! ### Device addresses (R280, R318) -/

def marketBase : Nat := 0x100000000
def marketSize : Nat := 0x6000000
def hbmBase : Nat := 0x10000000000
def hbmSize : Nat := 48000000000
/-- Model addresses of core scratch (128 KiB a role) and Stall memory (4 MiB a Stall). -/
def scratchBase (stall role : Nat) : Nat := 0x20000000000 + (stall * 16 + role) * 0x20000
def stallMemBase (stall : Nat) : Nat := 0x21000000000 + stall * 0x400000

/-- The address lies in a memory. -/
def inMarket (a n : Nat) : Bool := decide (marketBase ≤ a) && decide (a + n ≤ marketBase + marketSize)
def inHbm (a n : Nat) : Bool := decide (hbmBase ≤ a) && decide (a + n ≤ hbmBase + hbmSize)
def inScratch (a n : Nat) : Bool := decide (scratchBase 0 0 ≤ a) && decide (a + n ≤ scratchBase 12 0)
def inStallMem (a n : Nat) : Bool := decide (stallMemBase 0 ≤ a) && decide (a + n ≤ stallMemBase 12)
def devAddr (a n : Nat) : Bool := inMarket a n || inHbm a n || inScratch a n || inStallMem a n

/-- Bytes of the device memories (log 4: unlisted bytes read 0). -/
def State.peek (s : State) (a n : Nat) : Bytes := mreads 0#8 s.mem.ram a n

/-- Bytes written; a full write of a poisoned word clears its poison (R326). -/
def State.poke (s : State) (a : Nat) (v : Bytes) : State :=
  { s with
    mem.ram := mwrites 0#8 s.mem.ram a v
    mem.poison := s.mem.poison.filter (fun w => !(decide (a ≤ w * 8) && decide (w * 8 + 8 ≤ a + v.length))) }

/-- A poisoned word lies in the range. -/
def State.poisoned (s : State) (a n : Nat) : Bool :=
  s.mem.poison.any (fun w => decide (w * 8 < a + n) && decide (a < w * 8 + 8))

end Sys2Proof.Machine
end

