-- ==== Sys2Proof/Machine/Tm.lean ====
section
/-! DEFINITION. Traffic manager (06): lengths, buckets, admission, the scheduling decision, Bell lists,
aborts. Times are instants of the device clock in ns; gate times are time-base ns. -/

namespace Sys2Proof.Machine

def State.tq (s : State) (q : Nat) : TmQueue := tget s.tm.queues q {}
def State.tg (s : State) (g : Nat) : TmGroup := tget s.tm.groups g {}
def State.onTq (s : State) (q : Nat) (f : TmQueue → TmQueue) : State :=
  { s with tm.queues := tmod s.tm.queues q {} f }
def State.onTg (s : State) (g : Nat) (f : TmGroup → TmGroup) : State :=
  { s with tm.groups := tmod s.tm.groups g {} f }

/-! ### Lengths (R128) -/

def Frame.len (f : Frame) : Nat := f.bytes.length

/-- Length overhead O of a logical port (R125). -/
def State.overhead (s : State) (lp : Nat) : Int := toSigned (s.cfgN (itemId 7 1 2) lp 0 20)

/-- L′ = max(L + O, 1). -/
def effLen (len : Nat) (o : Int) : Nat := (max ((len : Int) + o) 1).toNat

def State.effLenOn (s : State) (lp : Nat) (f : Frame) : Nat := effLen f.len (s.overhead lp)

/-- A port is secured (R57). -/
def State.secured (s : State) (lp : Nat) : Bool := !s.port.mgmtOnly && s.cfgN (itemId 4 2 1) lp 0 0 == 1

/-- Wire time W in ps (R128), the SecTAG and ICV of a secured port included (R54). -/
def State.wirePs (s : State) (lp : Nat) (f : Frame) : Nat :=
  (f.len + (if s.secured lp then 32 else 0) + 20) * 8 * 1000000 / s.lpRate lp

/-! ### Buckets (R132 to R135) -/

/-- Refill instants of a period that have passed. -/
def refillsBy (up period : Nat) : Nat := up / period

/-- A bucket brought up to the refills of `up`: `inc` a refill, capped at the burst. -/
def Bucket.refill (b : Bucket) (up period inc : Nat) : Bucket :=
  let n := refillsBy up period
  { b with tokens := min (b.burst * 64) (b.tokens + (n - b.refills) * inc), refills := max n b.refills }

/-- A shaper that is on admits a frame of length L′ when its tokens reach it (R133). -/
def Bucket.admits (b : Bucket) (l : Nat) : Bool := b.rate == 0 || decide (l * 64 ≤ b.tokens)

/-- The charge of a frame (R133); R11: a charge below zero is refused whole. -/
def Bucket.charge (b : Bucket) (l : Nat) : Bucket :=
  if b.rate = 0 then b else if l * 64 ≤ b.tokens then { b with tokens := b.tokens - l * 64 } else b

/-! ### The schedule in force (R139, R141) -/

/-- The entry in force `pos` ns into a cycle, with its number (R139). -/
def entryAt : List BellEntry → Nat → Nat → Nat × Nat
  | [], _, k => (k, 255)
  | [e], _, k => (k, e.gates)
  | e :: rest, pos, k => if pos < e.interval then (k, e.gates) else entryAt rest (pos - e.interval) (k + 1)

/-- Position of a time-base instant in the cycle of a list. -/
def Bell.pos (b : Bell) (ns : Nat) : Nat := (((ns : Int) - b.base) % b.cycle).toNat

/-- Entry number and gates of a list at an instant; a disabled list holds every gate open. -/
def bellAt (b : Option Bell) (ns : Nat) : Nat × Nat :=
  match b with
  | none => (0, 255)
  | some b => entryAt b.entries (b.pos ns) 0

/-- The effective schedule of R141: the pending list from T_c on. -/
def gatesAt (p : LPort) (ns : Nat) : Nat × Nat :=
  match p.bellPend with
  | some (nb, tc) => if tc ≤ ns then bellAt nb ns else bellAt p.bell ns
  | none => bellAt p.bell ns

/-! ### Admission (R124, R126, R127) -/

def expressReserve (s : State) (lp : Nat) : Nat := s.cfgN (itemId 7 1 3) lp 0 65536

/-- Cells of 256 bytes (R322). -/
def cells (n : Nat) : Nat := (n + 255) / 256

/-- Pool cells in use: frames of classes 0 to 6 and buffers held by tenant functions (R320, R322). -/
def poolCellsUsed (s : State) : Nat :=
  s.tm.queues.foldl (fun n p => n + p.2.frames.foldl (fun m f => m + cells f.len) 0) 0
  + s.port.lps.foldl (fun n p => n + p.2.pitch.foldl (fun m x => m + cells x.2.2.len) 0) 0
  + s.mem.bufs.foldl (fun n p => n + cells p.2.cap) 0

def poolSize (s : State) : Nat := s.cfgN (itemId 0x10 1 1) 0 0 (16 * 2 ^ 20)

/-- Free bytes of the pool, the express reserves of the present ports taken off (R320). -/
def poolFree (s : State) : Nat :=
  poolSize s
    - ((List.range 16).filter s.lpPresent).foldl (fun n lp => n + expressReserve s lp) 0
    - 256 * poolCellsUsed s

/-- Class 7 frames that hold the express reserve of a port (R127). -/
def expressHeld (p : LPort) : List Frame :=
  p.order.map Prod.snd ++ p.express
    ++ (match p.mac with
        | some m => if m.frame.cls = 7 then [m.frame] else []
        | none => [])

def sumLen (fs : List Frame) : Nat := fs.foldl (fun n f => n + f.len) 0

/-- Free bytes of the express reserve. -/
def expressFree (s : State) (lp : Nat) : Nat := expressReserve s lp - sumLen (expressHeld (s.lp lp))

/-- Backlog of R36 C6: class 7 bytes ahead and the frame's own, 20 bytes of overhead each. The express queue is the express order
and the express path to the MAC; a class 7 frame that the MAC already transmits is not counted as ahead (DESIGN CHOICE, log 65). -/
def expressBacklog (s : State) (lp : Nat) (f : Frame) : Nat :=
  ((s.lp lp).order.map Prod.snd ++ (s.lp lp).express).foldl (fun n x => n + x.len + 20) (f.len + 20)

/-- Cause bits of EXLAT_LASTX_CAUSE. -/
def causeRekey : Nat := 1
def causeBacklog : Nat := 2
def causeParse : Nat := 4
def causeHbm : Nat := 8
def causeGate : Nat := 16
def causeShaper : Nat := 32

def Frame.blame (f : Frame) (c : Nat) : Frame := { f with causes := f.causes ||| c }

/-- Counters of a queue (R463). -/
def qCtr (q k : Nat) : Nat := objBase 1 q + 0x100 + 8 * k
def qErr (q k : Nat) : Nat := objBase 1 q + 0x40 + 4 * k

/-- A frame refused at the enqueue: TAIL_DROP and TM_ENQ_DROP (R126, R143). -/
def refuseFrame (s : State) (lp q : Nat) : State := countErr (countErr s (qErr q 0)) (tmBase lp + 0x40)

/-- ENQ_FRAMES and ENQ_OCTETS of an accepted frame. -/
def countEnq (s : State) (q : Nat) (f : Frame) : State := countStat (countStat s (qCtr q 0) 1) (qCtr q 1) f.len

/-- Enqueue of a class 7 frame (R127, R130), with the monitor's backlog (R46). -/
def enqueueExpress (s : State) (lp q : Nat) (f : Frame) : State :=
  if s.maxFrame lp ≤ expressFree s lp then
    let b := expressBacklog s lp f
    let f := if 16544 < b then f.blame causeBacklog else f
    let f := if (gatesAt (s.lp lp) s.ns).2.testBit 7 then f else f.blame causeGate
    let s := s.onLp lp (fun p =>
      { p with
        order := p.order ++ [(q, f)]
        exlat := if p.exlat.en then { p.exlat with bklg := max p.exlat.bklg b } else p.exlat })
    countEnq s q f
  else countErr s (tmBase lp + 0x44)

/-- Queue limit: 0 leaves only the pool (R126). -/
def queueLimit (s : State) (q : Nat) : Nat := s.cfgN (itemId 7 1 11) q 0 262144

/-- The enqueue (R124, R126, R127, R143): the frame's queue set and class name the queue. -/
def enqueue (s : State) (f : Frame) : State :=
  match s.qsetPort f.qset with
  | none => countErr s (tmGlobalBase + 0x40)
  | some lp =>
    let q := 8 * f.qset + f.cls
    if s.stopped (.tmQueue q) then refuseFrame s lp q
    else if f.cls = 7 then enqueueExpress s lp q f
    else
      let limit := queueLimit s q
      if (limit = 0 ∨ sumLen (s.tq q).frames + f.len ≤ limit) ∧ cells f.len * 256 ≤ poolFree s then
        countEnq (s.onTq q (fun x => { x with frames := x.frames ++ [f] })) q f
      else refuseFrame s lp q

/-! ### The decision (R129, R130) -/

/-- The queue shaper of a queue, off when no record stands (R125). -/
def qShaperOn (s : State) (q : Nat) : Bool := (s.cfgRec? (itemId 7 1 10) q 0).isSome

def qAdmits (s : State) (q l : Nat) : Bool := !qShaperOn s q || decide (l * 64 ≤ (s.tq q).bucket.tokens)

def chargeQueue (s : State) (q l : Nat) : State :=
  if qShaperOn s q then
    s.onTq q (fun x => if l * 64 ≤ x.bucket.tokens then
      { x with bucket := { x.bucket with tokens := x.bucket.tokens - l * 64 } } else x)
  else s

/-- SCHED_FRAMES, SCHED_OCTETS of a committed frame (R145). -/
def countSched (s : State) (lp : Nat) (f : Frame) : State :=
  countStat (countStat s (tmBase lp + 0x100) 1) (tmBase lp + 0x108) f.len

/-- The express order split at the first frame that its queue shaper admits; the frames before it
are held by their shapers (R130, C9). -/
def splitOrder (s : State) (lp : Nat) : List (Nat × Frame) → Option (List (Nat × Frame) × (Nat × Frame) × List (Nat × Frame))
  | [] => none
  | x :: rest =>
    if qAdmits s x.1 (s.effLenOn lp x.2) then some ([], x, rest)
    else match splitOrder s lp rest with
      | some (a, y, b) => some ((x.1, x.2.blame causeShaper) :: a, y, b)
      | none => none

/-- A class is taken in the pitch. -/
def placeTaken (p : LPort) (c : Nat) : Bool := p.pitch.any (fun x => x.1 == c)

/-- The head of class `c` of a group may be picked: it exists, its place is free, its shaper admits it. -/
def headOk (s : State) (lp g c : Nat) : Option Frame :=
  match (s.tq (8 * g + c)).frames with
  | [] => none
  | f :: _ =>
    if !placeTaken (s.lp lp) c && qAdmits s (8 * g + c) (s.effLenOn lp f) then some f else none

def classStrict (s : State) (q : Nat) : Bool := s.cfgN (itemId 7 1 8) q 0 1 == 0
def classWeight (s : State) (q : Nat) : Nat := s.cfgN (itemId 7 1 9) q 0 1

/-- A weighted class whose head may be picked. -/
def weightedOk (s : State) (lp g c : Nat) : Bool := !classStrict s (8 * g + c) && (headOk s lp g c).isSome

/-- The next weighted class after `c` in round-robin order, `c` itself last. -/
def nextClass (s : State) (lp g c : Nat) : Option Nat :=
  (([6, 5, 4, 3, 2, 1, 0].filter (fun x => decide (x < c))) ++ ([6, 5, 4, 3, 2, 1, 0].filter (fun x => decide (c ≤ x)))).find?
    (weightedOk s lp g)

/-- Deficit-weighted round robin among the weighted classes of a group, from class `c` on: the class
picked, with the round-robin state it leaves. Fuel bounds the rounds of quantum. -/
def weightedPick (lp g : Nat) : Nat → State → Nat → Option (Nat × Frame × State)
  | 0, _, _ => none
  | fuel + 1, s, c =>
    let next : Option (Nat × Frame × State) :=
      match nextClass s lp g c with
      | none => none
      | some c' => weightedPick lp g fuel
          (s.onTq (8 * g + c') (fun x => { x with deficit := x.deficit + 64 * classWeight s (8 * g + c') })) c'
    if classStrict s (8 * g + c) then next
    else match headOk s lp g c with
      | none => next
      | some f =>
        if s.effLenOn lp f ≤ (s.tq (8 * g + c)).deficit then some (c, f, s.onTg g (fun x => { x with cls := c }))
        else next

/-- class_pick of R129: the class, its head frame, and the state that a commit of it leaves. -/
def classPick (s : State) (lp g : Nat) : Option (Nat × Frame × State) :=
  match [6, 5, 4, 3, 2, 1, 0].find? (fun c => classStrict s (8 * g + c) && (headOk s lp g c).isSome) with
  | some c =>
    match headOk s lp g c with
    | some f => some (c, f, s)
    | none => none
  | none =>
    weightedPick lp g 1200 s (s.tg g).cls

/-- A group holds a frame of classes 0 to 6. -/
def groupBusy (s : State) (g : Nat) : Bool :=
  [0, 1, 2, 3, 4, 5, 6].any (fun c => !(s.tq (8 * g + c)).frames.isEmpty)

/-- The pick of a group that its shaper and the port shaper admit. -/
def groupPick (s : State) (lp g : Nat) : Option (Nat × Frame × State) :=
  match classPick s lp g with
  | some (c, f, s1) =>
    let l := s.effLenOn lp f
    if (s.tg g).bucket.admits l && (s.lp lp).portBucket.admits l then some (c, f, s1) else none
  | none => none

/-- Groups of a port that hold frames, in round-robin order after `g`, `g` itself last. -/
def groupsAfter (s : State) (lp g : Nat) : List Nat :=
  let base := (s.qsetRange lp).1
  let n := (s.qsetRange lp).2
  let gs := ((s.tm.queues.filter (fun p => !p.2.frames.isEmpty)).map (fun p => p.1 / 8)).filter
    (fun x => decide (base ≤ x) && decide (x < base + n))
  gs.filter (fun x => decide (g < x)) ++ gs.filter (fun x => decide (x ≤ g))

/-- A pick committed: the frame leaves its queue for the place of its class, and deficits and
shapers are charged (R129). -/
def commitPick (s : State) (lp g c : Nat) (f : Frame) : State :=
  let q := 8 * g + c
  let l := s.effLenOn lp f
  let strict := classStrict s q
  let s := chargeQueue s q l
  let s := s.onTq q (fun x =>
    let rest := x.frames.drop 1
    { x with frames := rest
             deficit := if rest.isEmpty then 0 else if strict then x.deficit else x.deficit - l })
  let s := s.onTg g (fun x => { x with deficit := x.deficit - l, bucket := x.bucket.charge l })
  let s := s.onLp lp (fun p =>
    { p with pitch := p.pitch ++ [(c, p.commits, f)], commits := p.commits + 1
             portBucket := p.portBucket.charge l })
  countSched s lp f

/-- The loop of R129 over the groups. -/
def decideLoop (lp : Nat) : Nat → State → Nat → State
  | 0, s, _ => s
  | fuel + 1, s, g =>
    let next (s : State) : State :=
      let s := if groupBusy s g then s else s.onTg g (fun x => { x with deficit := 0 })
      match (groupsAfter s lp g).find? (fun x => (groupPick s lp x).isSome) with
      | none => s
      | some g' =>
        let s := s.onTg g' (fun x => { x with deficit := x.deficit + 64 * s.cfgN (itemId 7 1 5) g' 0 1 })
        decideLoop lp fuel (s.onLp lp (fun p => { p with curGroup := g' })) g'
    match groupPick s lp g with
    | some (c, f, s1) => if s.effLenOn lp f ≤ (s.tg g).deficit then commitPick s1 lp g c f else next s
    | none => next s

/-- The current group of a port; at reset, and when the range has moved away from it, the first of its range (R124). -/
def startGroup (s : State) (lp : Nat) : Nat :=
  let r := s.qsetRange lp
  let g := (s.lp lp).curGroup
  if r.1 ≤ g ∧ g < r.1 + r.2 then g else r.1

/-- One decision of the traffic manager for a port (R129). -/
def tmDecide (s : State) (lp : Nat) : State :=
  match splitOrder s lp (s.lp lp).order with
  | some (held, x, rest) =>
    let s := chargeQueue s x.1 (s.effLenOn lp x.2)
    let s := s.onLp lp (fun p => { p with order := held ++ rest, express := p.express ++ [x.2] })
    countStat (countSched s lp x.2) (tmBase lp + 0x110) 1
  | none =>
    let s := s.onLp lp (fun p => { p with order := p.order.map (fun x => (x.1, x.2.blame causeShaper)) })
    let n := (groupsAfter s lp 0).length
    decideLoop lp (200 * (n + 2)) s (startGroup s lp)

/-! ### Bell lists (R138 to R142) -/

/-- Gate of class `c` open from `ns` for `n` ns: gate events fall on whole ns (R139). -/
def gateOpen (p : LPort) (c ns n : Nat) : Bool :=
  (List.range n).all (fun k => (gatesAt p (ns + k)).2.testBit c)

/-- The gate rule of R140: open now and until W + 4 ns later. -/
def mayStart (s : State) (lp : Nat) (f : Frame) : Bool :=
  gateOpen (s.lp lp) f.cls s.ns ((s.wirePs lp f + 999) / 1000 + 4)

/-- The first cycle start of a list, for any integer n (R139), at least 10 µs after an instant. -/
def nextCycle (b : Bell) (ns : Nat) : Nat :=
  let t := ns + 10000
  t + (((b.base : Int) - t) % b.cycle).toNat

/-- The first cycle start with n ≥ 0 (R141). -/
def firstCycle (b : Bell) (ns : Nat) : Nat := if ns + 10000 ≤ b.base then b.base else nextCycle b ns

/-- Gate states of a port refreshed from its schedule, and class 7 frames that a closed gate holds
marked (C2). -/
def refreshGates (s : State) (lp : Nat) : State :=
  let g := gatesAt (s.lp lp) s.ns
  s.onLp lp (fun p =>
    let mark (f : Frame) : Frame := if g.2.testBit 7 then f else f.blame causeGate
    { p with curEntry := g.1, gates := g.2
             order := p.order.map (fun x => (x.1, mark x.2))
             express := p.express.map mark })

/-- A pending list taken over once the time base has reached T_c (R141, R142). -/
def takeBell (s : State) (lp : Nat) : State :=
  match (s.lp lp).bellPend with
  | some (nb, tc) =>
    if tc ≤ s.ns then refreshGates (s.onLp lp (fun p => { p with bell := nb, bellPend := none })) lp else s
  | none => s

/-! ### Aborts (R65, R143) -/

/-- Frames of queue `q` in the queue, the pitch, the express order and the express path. -/
def queueFrames (s : State) (lp q : Nat) : Nat :=
  (s.tq q).frames.length
  + ((s.lp lp).pitch.filter (fun x => 8 * x.2.2.qset + x.2.2.cls == q)).length
  + ((s.lp lp).order.filter (fun x => x.1 == q)).length
  + ((s.lp lp).express.filter (fun f => 8 * f.qset + f.cls == q)).length

/-- Frames of a queue that have not begun transmission discarded; the number of them. -/
def dropQueue (s : State) (lp q : Nat) : State × Nat :=
  let n := queueFrames s lp q
  let s := s.onTq q (fun x => { x with frames := [], deficit := 0 })
  (s.onLp lp (fun p =>
    { p with pitch := p.pitch.filter (fun x => 8 * x.2.2.qset + x.2.2.cls != q)
             order := p.order.filter (fun x => x.1 != q)
             express := p.express.filter (fun f => 8 * f.qset + f.cls != q) }), n)

/-- R143: every frame of a queue aborted, counted in ABORT_DROP and TM_QABORT. -/
def abortQueue (s : State) (q : Nat) : State × Nat :=
  match s.qsetPort (q / 8) with
  | none => (s, 0)
  | some lp =>
    let r := dropQueue s lp q
    (countErrs (countErrs r.1 (qErr q 1) r.2) (tmBase lp + 0x48) r.2, r.2)

/-- A frame of queue `q` is still to be sent or is on the MAC. -/
def queueInFlight (s : State) (q : Nat) : Nat :=
  match s.qsetPort (q / 8) with
  | none => (s.tq q).frames.length
  | some lp =>
    queueFrames s lp q
    + (match (s.lp lp).mac with
       | some m => if 8 * m.frame.qset + m.frame.cls = q then 1 else 0
       | none => 0)

/-- Queues that hold frames of a port. -/
def portQueues (s : State) (lp : Nat) : List Nat :=
  (s.tm.queues.map Prod.fst).filter (fun q => s.qsetPort (q / 8) == some lp)

/-- Frames queued for a port or on its MAC (R65). -/
def portInFlight (s : State) (lp : Nat) : Nat :=
  (portQueues s lp).foldl (fun n q => n + (s.tq q).frames.length) 0
  + (s.lp lp).pitch.length + (s.lp lp).order.length + (s.lp lp).express.length
  + (if (s.lp lp).mac.isSome then 1 else 0)

/-- Every frame of a port that has not begun transmission discarded, counted in `ctr` (R65: TX_DISCARD). -/
def dropPort (s : State) (lp : Nat) : State × Nat :=
  let n := portInFlight s lp - (if (s.lp lp).mac.isSome then 1 else 0)
  let s := (portQueues s lp).foldl (fun s q => s.onTq q (fun x => { x with frames := [], deficit := 0 })) s
  (s.onLp lp (fun p => { p with pitch := [], order := [], express := [] }), n)

end Sys2Proof.Machine
end

