-- ==== Sys2Proof/Machine/Packets.lean ====
section
/-! DEFINITION. EHT packets on the wire (R151 to R160), the frames that carry them, and the sending of
outbound messages (R168 to R171, R177). -/

namespace Sys2Proof.Machine

/-! ### Entry into the parser block (R88, R89) -/

def State.ver (s : State) (v : Nat) : VerSlot := tget s.parse.vers v {}

/-- A slot's in-flight count changed (R89). -/
def verInflight (s : State) (v : Nat) (f : Nat → Nat) : State :=
  { s with parse.vers := tmod s.parse.vers v {} (fun x => { x with inflight := f x.inflight }) }

/-- A frame enters the parser block: it is stamped with the CURRENT slot, whose in-flight count rises. A frame that waits for a
sequencer has entered (R77). -/
def PFrame.enter (pf : PFrame) (s : State) : PFrame := { pf with ver := s.parse.current, at_ := s.clk.up }
def countEntry (s : State) : State := verInflight s s.parse.current (· + 1)

/-! ### Frames of the device's own -/

/-- Ones'-complement sum of 16-bit words. -/
def onesSum : Bytes → Nat
  | [] => 0
  | [a] => a.toNat * 256
  | a :: b :: rest => a.toNat * 256 + b.toNat + onesSum rest

def fold16 (n : Nat) : Nat :=
  let x := n % 65536 + n / 65536
  let y := x % 65536 + x / 65536
  y % 65536 + y / 65536

/-- Internet checksum of a string. -/
def inetCsum (b : Bytes) : Nat := 65535 - fold16 (onesSum b)

/-- IPv6 link-local address by modified EUI-64 of the base MAC address (R64). -/
def linkLocal (mac : Nat) : Nat :=
  0xFE80 * 2 ^ 112 + ((mac / 2 ^ 24) ^^^ 0x020000) * 2 ^ 40 + 0xFFFE * 2 ^ 24 + mac % 2 ^ 24

/-- The DSCP of a class (R150). -/
def dscpOf (s : State) (c : Nat) : Nat := s.cfgN (itemId 8 1 9) 0 c (if c = 7 then 46 else 8 * c)

/-- The EHT UDP port (R150). -/
def ehtPort (s : State) : Nat := s.cfgN (itemId 8 1 1) 0 0 47075

/-- The frame of a UDP datagram from the device (R151), FCS included; the hop limits and the source
addresses are log 15. -/
def udpFrame (s : State) (dstMac ip cls sport : Nat) (payload : Bytes) : Bytes :=
  let v4 := decide (ip < 2 ^ 32)
  let n := payload.length + 8
  let src := if v4 then Config.ownIpv4.toNat else linkLocal s.fuses.mac.toNat
  let addr (a : Nat) : Bytes := if v4 then beBytes 4 a else beBytes 16 a
  let pseudo := addr src ++ addr ip ++ beBytes 4 n ++ beBytes 4 17
  let udp0 := beBytes 2 sport ++ beBytes 2 (ehtPort s) ++ beBytes 2 n
  let c := inetCsum (pseudo ++ udp0 ++ payload)
  let udp := udp0 ++ beBytes 2 (if c = 0 then 65535 else c) ++ payload
  let ip4h (c : Nat) : Bytes := [0x45#8, BitVec.ofNat 8 (dscpOf s cls * 4)] ++ beBytes 2 (n + 20) ++ beBytes 2 0
    ++ beBytes 2 0x4000 ++ [64#8, 17#8] ++ beBytes 2 c ++ addr src ++ addr ip
  let l3 := if v4 then beBytes 2 0x0800 ++ ip4h (inetCsum (ip4h 0)) ++ udp
    else beBytes 2 0x86DD ++ beBytes 4 (6 * 2 ^ 28 + dscpOf s cls * 2 ^ 22) ++ beBytes 2 n ++ [17#8, 64#8]
      ++ addr src ++ addr ip ++ udp
  let f := beBytes 6 dstMac ++ beBytes 6 s.fuses.mac.toNat ++ l3
  f ++ leBytes 4 (crc32 f).toNat

/-- A frame of the device's own sent out of a port: through the Clerk's queue in management-only mode
(R64), otherwise through a queue set of the traffic manager. -/
def emit (s : State) (lp qset cls : Nat) (bytes : Bytes) : State :=
  if s.port.mgmtOnly then s.onPp (lp / 8) (fun p => { p with mgmt := p.mgmt ++ [(lp, bytes)] })
  else enqueue s { bytes := bytes, cls := cls, inLp := none, tIn := s.ns, tInUp := s.clk.up,
                   qset := qset }

/-! ### Packets -/

/-- The common header of R152. -/
def ehtCommon (typ : Nat) (flags len dst src dgen sgen : Nat) : Bytes :=
  [BitVec.ofNat 8 (16 + typ), BitVec.ofNat 8 flags] ++ beBytes 2 len ++ beBytes 4 dst ++ beBytes 4 src
    ++ beBytes 2 dgen ++ beBytes 2 sgen

/-- A header without its last field, E2E_CRC appended (R156), then the payload. -/
def sealPkt (hdr payload : Bytes) : Bytes :=
  hdr ++ beBytes 4 (crc32c (hdr ++ [0, 0, 0, 0] ++ payload)).toNat ++ payload

def flagLast : Nat := 128
def flagExpress : Nat := 64
def flagRetx : Nat := 32

/-- Class of a control packet (R160). -/
def controlClass (s : State) (express : Bool) : Nat := if express then 7 else s.cfgN (itemId 8 1 8) 0 0 6

/-- The mailbox endpoint's own EIDs (R332). -/
def wellKnownEid : Nat := 0xFFFFFFFE
def mailboxEid (s : State) : Nat := s.cfgN (itemId 2 1 1) 0 0 wellKnownEid
def isMailbox (s : State) (eid : Nat) : Bool := eid == wellKnownEid || eid == mailboxEid s

/-- A local endpoint: the mailbox endpoint answers at both its EIDs. -/
def State.ep? (s : State) (eid : Nat) : Option Endpoint :=
  if isMailbox s eid then tget? s.eht.eps wellKnownEid else tget? s.eht.eps eid

/-- An EHT packet given to its way out (R149): a local destination is delivered inside the device. -/
def sendPkt (s : State) (lp qset cls mac ip sport dst : Nat) (pkt : Bytes) : State :=
  if (s.ep? dst).isSome then
    { s with eht.rx := s.eht.rx ++ [{ lp := Fin.ofNat 16 lp, srcIp := BitVec.ofNat 128 ip, srcMac := BitVec.ofNat 48 mac,
                                      spoofOk := true, udpGood := true, frag := false, local_ := true, bytes := pkt }] }
  else emit s lp qset cls (udpFrame s mac ip cls sport pkt)

/-- The entropy base port (R150). -/
def entropyBase (s : State) : Nat := s.cfgN (itemId 8 1 7) 0 0 49152

/-- A packet that answers a received one (R148): to its source, out of its ingress port; the queue set
is the first of that port (log 15). -/
def sendAnswer (s : State) (p : EhtRx) (express : Bool) (dst : Nat) (pkt : Bytes) : State :=
  sendPkt s p.lp.val (s.qsetRange p.lp.val).1 (controlClass s express) p.srcMac.toNat p.srcIp.toNat (entropyBase s) dst pkt

/-- An ACK packet (R157). -/
def ackPkt (express retx : Bool) (dst dgen src sgen msgId status retryUs result bytes : Nat) : Bytes :=
  sealPkt (ehtCommon 2 ((if express then flagExpress else 0) + (if retx then flagRetx else 0)) 0 dst src dgen sgen
    ++ beBytes 8 msgId ++ [BitVec.ofNat 8 status, 0, 0, 0] ++ beBytes 4 retryUs ++ beBytes 8 result ++ beBytes 4 bytes) []

/-! ### Configuration of EHT (R150), ns -/

def ehtL (s : State) : Nat := s.cfgN (itemId 8 1 2) 0 0 4000000
def ehtW (s : State) : Nat := s.cfgN (itemId 8 1 3) 0 0 3750000
def ackWait (s : State) : Nat := s.cfgN (itemId 8 1 4) 0 0 100000
def rtoBase (s : State) : Nat := s.cfgN (itemId 8 1 5) 0 0 50000
def rtoMax (s : State) : Nat := s.cfgN (itemId 8 1 6) 0 0 1000000
def grantMax (s : State) : Nat := s.cfgN (itemId 8 1 10) 0 0 64
def grantLife (s : State) : Nat := s.cfgN (itemId 8 1 11) 0 0 100000
def expressPool (s : State) : Nat := s.cfgN (itemId 8 1 12) 0 0 1024
def bulkPool (s : State) (tf : Nat) : Nat := s.cfgN (itemId 8 1 13) tf 0 4096
def uncreditedMax (s : State) : Nat := s.cfgN (itemId 8 1 14) 0 0 2
def uncreditedFloor (s : State) : Nat := s.cfgN (itemId 8 1 15) 0 0 25
def class7Ok (s : State) (tf : Nat) : Bool := s.cfgN (itemId 8 1 16) tf 0 0 == 1

/-! ### Outbound messages (R154, R168 to R171) -/

def OutMsg.segSize (m : OutMsg) : Nat := 1024 * 2 ^ m.seg

/-- N = max(1, ⌈TOTAL_LEN / S⌉). -/
def OutMsg.packets (m : OutMsg) : Nat := max 1 ((m.payload.length + m.segSize - 1) / m.segSize)

/-- Packet `i` of a message (R153, R154). -/
def OutMsg.packet (m : OutMsg) (i grant : Nat) (retx : Bool) : Bytes :=
  let last := decide (i + 1 = m.packets)
  let body := (m.payload.drop (i * m.segSize)).take m.segSize
  sealPkt
    (ehtCommon 1 ((if last then flagLast else 0) + (if m.express then flagExpress else 0) + (if retx then flagRetx else 0))
      body.length m.dstEid m.ep m.dstGen m.srcGen
      ++ beBytes 8 m.msgId ++ beBytes 4 (i * m.segSize) ++ beBytes 4 (if last then m.payload.length else 0)
      ++ [BitVec.ofNat 8 m.op, BitVec.ofNat 8 m.seg, 0, 0] ++ beBytes 4 m.rkey ++ beBytes 8 m.addr ++ beBytes 4 grant)
    body

/-- RTO of a round (R171). -/
def rtoOf (s : State) (m : OutMsg) : Nat :=
  min (rtoMax s) (rtoBase s * 2 ^ m.round) + 10 * ((m.payload.length + 1023) / 1024)

def State.onOut (s : State) (k : Nat) (m : OutMsg) : State := { s with eht.out := tset s.eht.out k m }
def State.onBook (s : State) (b : Nat) (f : Book → Book) : State :=
  match tget? s.eht.book b with
  | some e => { s with eht.book := tset s.eht.book b (f e) }
  | none => s

/-- Path, queue set and egress of a message's packets (R148, R169). -/
def OutMsg.route (s : State) (m : OutMsg) (i : Nat) : Nat × Nat × Nat :=
  match m.book with
  | some b =>
    match tget? s.eht.book b with
    | some e => (e.qset, (s.qsetPort e.qset).getD 0, (i + m.msgId + m.round) % (max e.paths 1))
    | none => ((s.qsetRange m.lp).1, m.lp, 0)
  | none => ((s.qsetRange m.lp).1, m.lp, 0)

/-- A message that is sent uncredited, with GRANT 0 (R177); so are the messages of the Clerk (R334). -/
def OutMsg.uncredited (s : State) (m : OutMsg) : Bool :=
  m.book.isNone || m.op == 4 || (!m.needCredit && decide (m.packets ≤ uncreditedMax s))

/-- The grant token for the next packet, if the book entry's credit covers it (R177). -/
def bookCredit (s : State) (m : OutMsg) : Option Nat :=
  match m.book with
  | some b =>
    match tget? s.eht.book b with
    | some e =>
      match e.grant with
      | some g => if 0 < g.units ∧ s.clk.up < g.stop then some g.token else none
      | none => none
    | none => none
  | none => none

/-- The payload as its memory holds it now (R295). -/
def OutMsg.refresh (s : State) (m : OutMsg) : OutMsg :=
  match m.data with
  | some a => { m with payload := s.peek a m.payload.length }
  | none => m

/-- One packet of a message sent under a token, 0 for none. -/
def sendOne (s : State) (k : Nat) (m : OutMsg) (token : Nat) : State × OutMsg :=
  let m := m.refresh s
  let retx := decide (0 < m.round)
  let r := m.route s m.next
  let s := sendPkt s r.2.1 r.1 m.cls m.dstMac m.dstIp (entropyBase s + r.2.2) m.dstEid (m.packet m.next token retx)
  let s := countStat s (ehtBase + 0x120) 1
  let s := if retx then countStat s (ehtBase + 0x130) 1 else s
  let s := if token = 0 then s else match m.book with
    | some b => s.onBook b (fun e => { e with grant := e.grant.map (fun g => { g with units := g.units - 1 }) })
    | none => s
  let m := { m with next := m.next + 1, t0 := match m.t0 with
                                              | some t => some t
                                              | none => some s.clk.up }
  (s.onOut k m, m)

/-- CREDIT_REQ for what is left (R158, R170). -/
def requestCredit (s : State) (k : Nat) (m : OutMsg) : State :=
  let r := m.route s m.next
  let tag := k % 2 ^ 32
  let pkt := sealPkt (ehtCommon 3 (if m.express then flagExpress else 0) 0 m.dstEid m.ep m.dstGen m.srcGen
      ++ beBytes 2 (min 4096 (m.packets - m.next)) ++ beBytes 2 0 ++ beBytes 4 tag ++ beBytes 4 0) []
  let s := sendPkt s r.2.1 r.1 (controlClass s m.express) m.dstMac m.dstIp (entropyBase s) m.dstEid pkt
  s.onOut k { m with state := .credit none, reqTag := some tag }

/-- Packets of a message sent while credit lasts (R170, SEND): then WAIT with its RTO, or CREDIT. -/
def sendLoop (k : Nat) : Nat → State → OutMsg → State
  | 0, s, m => s.onOut k { m with state := .wait (s.clk.up + rtoOf s m) none }
  | fuel + 1, s, m =>
    if m.packets ≤ m.next then s.onOut k { m with state := .wait (s.clk.up + rtoOf s m) none }
    else if m.uncredited s then let r := sendOne s k m 0; sendLoop k fuel r.1 r.2
    else match bookCredit s m with
      | some t => let r := sendOne s k m t; sendLoop k fuel r.1 r.2
      | none => requestCredit s k m

/-- SEND entered (R170). -/
def sendFrom (s : State) (k : Nat) (m : OutMsg) : State :=
  sendLoop k (m.packets - m.next) s { m with state := .sending }

/-- Every packet of a message resent with RETX in the next round (R170). -/
def resendAll (s : State) (k : Nat) (m : OutMsg) : State := sendFrom s k { m with next := 0, round := m.round + 1 }

/-- The key of a local endpoint: the mailbox endpoint is one under both its EIDs. -/
def epKey (s : State) (eid : Nat) : Nat := if isMailbox s eid then wellKnownEid else eid

/-- Open outbound messages of a tenant function. -/
def tfOpen (s : State) (tf : Nat) : Nat :=
  (s.eht.out.filter (fun p => (tget s.eht.eps (epKey s p.2.ep) default).tf == tf)).length

/-- A further message of a tenant function may open (R170, R221; TF0 keeps its own cap). -/
def outRoom (s : State) (tf : Nat) : Bool :=
  decide (s.eht.out.length < 65536) && decide (tfOpen s tf < s.cfgN (itemId 0xA 1 11) tf 0 4096)

/-- The next MSG_ID of a local endpoint (R168; the first is 1, log 16). -/
def nextMsgId (s : State) (ep : Nat) : Nat × State :=
  let e := tget s.eht.eps (epKey s ep) default
  let id := (e.counter + 1) % 2 ^ 64
  (id, { s with eht.eps := if (tget? s.eht.eps (epKey s ep)).isSome then tset s.eht.eps (epKey s ep) { e with counter := id }
                           else s.eht.eps })

/-- A message submitted by its owner (R168, R170, NEW): it opens, or waits for room. -/
def submit (s : State) (m : OutMsg) : State × Nat :=
  let e := tget s.eht.eps (epKey s m.ep) default
  let r := nextMsgId s m.ep
  let k := s.eht.nextOut
  let m := { m with msgId := r.1, srcGen := e.gen }
  let s := { r.2 with eht.nextOut := k + 1 }
  if outRoom s e.tf then (sendFrom s k m, k) else ({ s with eht.waiting := s.eht.waiting ++ [(k, m)] }, k)

end Sys2Proof.Machine
end

