-- ==== Sys2Proof/Machine/Tables.lean ====
section
/-! DEFINITION. Forwarding tables (05): hashing, lookup, the serialiser's operations, learning,
ageing, notifications, digests. -/

namespace Sys2Proof.Machine

def State.tbl (s : State) (t : Nat) : Table := tget s.tables t {}
def State.onTbl (s : State) (t : Nat) (f : Table → Table) : State := { s with tables := tmod s.tables t {} f }

/-! ### Definition of a table (R97) -/

/-- 0 disabled, 1 SYNC, 2 LOCAL. -/
def tblMode (s : State) (t : Nat) : Nat := s.cfgN (itemId 6 1 1) t 0 0
def tblKeyLen (s : State) (t : Nat) : Nat := s.cfgN (itemId 6 1 2) t 0 0
/-- Buckets of a level: 0 on-chip, 1 extension. -/
def tblBuckets (s : State) (t level : Nat) : Nat :=
  if level = 0 then s.cfgN (itemId 6 1 3) t 0 0 else s.cfgN (itemId 6 1 4) t 0 0
def tblSeed (s : State) (t k : Nat) : Nat := s.cfgPart (itemId 6 1 5) t 0 k k
def tblDepth (s : State) (t : Nat) : Nat := s.cfgN (itemId 6 1 6) t 0 4
/-- 0 random, 1 oldest. -/
def tblOldest (s : State) (t : Nat) : Bool := s.cfgN (itemId 6 1 7) t 0 1 == 1
def tblTickNs (s : State) (t : Nat) : Nat := s.cfgN (itemId 6 1 8) t 0 64000000
def tblAgeMax (s : State) (t : Nat) : Nat := s.cfgN (itemId 6 1 9) t 0 4688
def tblRemoveSync (s : State) (t : Nat) : Bool := s.cfgN (itemId 6 1 10) t 0 0 == 1
def tblRefreshA (s : State) (t : Nat) : Bool := s.cfgN (itemId 6 1 11) t 0 0 == 1
def tblHoldDown (s : State) (t : Nat) : Nat := s.cfgN (itemId 6 1 12) t 0 1000000
def tblMissDefault (s : State) (t : Nat) : Bool := s.cfgN (itemId 6 1 13) t 0 0 == 1
def tblDefault (s : State) (t : Nat) : Nat := s.cfgN (itemId 6 1 14) t 0 0
def tblLearnQset (s : State) (t lp : Nat) : Nat := s.cfgN (itemId 6 1 15) t lp 0
def tblTarget (s : State) (t : Nat) : Nat := s.cfgN (itemId 6 1 16) t 0 0xFFFF

/-- Width of the KEY field and units of an entry (R98). -/
def tblWidth (s : State) (t : Nat) : Nat := if tblKeyLen s t ≤ 16 then 16 else 48
def tblUnits (s : State) (t : Nat) : Nat := if tblKeyLen s t ≤ 16 then 1 else 2

/-! ### FLAGS of R100 -/
def fStatic : Nat := 2
def fLearned : Nat := 4
def fOnchip : Nat := 8
def fReported : Nat := 16
def TEntry.has (e : TEntry) (f : Nat) : Bool := (e.flags &&& f) != 0

/-- The fields of RESULT (R101). -/
def resQset (r : Nat) : Nat := r % 8192
def resClass (r : Nat) : Nat := r / 2 ^ 13 % 8
def resTf (r : Nat) : Nat := r / 2 ^ 16 % 4096
def resTemplate (r : Nat) : Nat := r / 2 ^ 28 % 65536
def resUser (r : Nat) : Nat := r / 2 ^ 44 % 2 ^ 20

/-! ### Positions and hashes (R100, R102) -/

/-- Position of a slot: level, bucket, slot. -/
def tPos (level bucket slot : Nat) : Nat := level * 2 ^ 40 + bucket * 4 + slot
def posLevel (p : Nat) : Nat := p / 2 ^ 40
def posBucket (p : Nat) : Nat := p % 2 ^ 40 / 4
def posSlot (p : Nat) : Nat := p % 4

/-- Candidate buckets of a key at a level. -/
def candidates (s : State) (t level : Nat) (key : Bytes) : Nat × Nat :=
  let n := tblBuckets s t level
  let k := padTo (tblWidth s t) key
  let c0 := (crc32c (leBytes 4 (tblSeed s t 0) ++ k)).toNat % n
  let c1 := (crc32 (leBytes 4 (tblSeed s t 1) ++ k)).toNat % n
  (c0, if c1 = c0 then c0 ^^^ 1 else c1)

/-- The levels a table has. -/
def tblLevels (s : State) (t : Nat) : List Nat := if tblBuckets s t 1 = 0 then [0] else [0, 1]

/-- A bucket has an uncorrectable error and is not yet cleared (R120). -/
def bucketLost (s : State) (t level b : Nat) : Bool := (s.tbl t).lost.contains (level, b)

/-- The entry of a slot; a lost bucket holds none. -/
def slotOf (s : State) (t level b i : Nat) : Option TEntry :=
  if bucketLost s t level b then none else tget? (s.tbl t).slots (tPos level b i)

/-- Where a key is held at a level, a lost bucket holding no match (R103, R120). -/
def findAt (s : State) (t level : Nat) (key : Bytes) : Option (Nat × TEntry) :=
  let c := candidates s t level key
  ([c.1, c.2].flatMap (fun b => [0, 1, 2, 3].map (fun i => (level, b, i)))).findSome? (fun x =>
    match slotOf s t x.1 x.2.1 x.2.2 with
    | some e => if e.key = key then some (tPos x.1 x.2.1 x.2.2, e) else none
    | none => none)

/-- A key at either level (R103: at most one entry). -/
def findKey (s : State) (t : Nat) (key : Bytes) : Option (Nat × TEntry) :=
  (tblLevels s t).findSome? (fun l => findAt s t l key)

/-! ### Digest (R119) -/

/-- The 62 bytes of an entry, hashed. -/
def entryHash (s : State) (t : Nat) (e : TEntry) : Bytes :=
  Crypto.shake256 ([BitVec.ofNat 8 t, BitVec.ofNat 8 (tblKeyLen s t)] ++ padTo 48 e.key ++ leBytes 8 e.result
    ++ [BitVec.ofNat 8 ((if e.has fStatic then 1 else 0) + (if e.has fOnchip then 2 else 0)), BitVec.ofNat 8 e.port]
    ++ leBytes 2 e.tf)

/-- The digest of a table's entries. -/
def tableDigest (s : State) (t : Nat) : Bytes :=
  (s.tbl t).slots.foldl (fun d p => xorBytes d (entryHash s t p.2)) (List.replicate 32 0)

/-! ### Writes of one slot (R106) -/

/-- An entry written at a position: the digest follows. -/
def putEntry (s : State) (t pos : Nat) (e : TEntry) : State :=
  let old := match tget? (s.tbl t).slots pos with
    | some o => entryHash s t o
    | none => List.replicate 32 0
  let d := xorBytes (xorBytes (s.tbl t).digest old) (entryHash s t e)
  s.onTbl t (fun tb => { tb with slots := tset tb.slots pos e, digest := d })

/-- An entry deleted. -/
def delEntry (s : State) (t pos : Nat) : State :=
  match tget? (s.tbl t).slots pos with
  | some o =>
    let d := xorBytes (s.tbl t).digest (entryHash s t o)
    s.onTbl t (fun tb => { tb with slots := tdel tb.slots pos, digest := d })
  | none => s

/-! ### Counters (R123) -/
def tErr (t k : Nat) : Nat := tableBase t + 0x40 + 4 * k
def tStat (t k : Nat) : Nat := tableBase t + 0x100 + 8 * k

/-! ### Notifications (R121) -/

/-- A record posted; a full FIFO drops it, and its SEQ is spent. -/
def post (s : State) (t typ port old tf age : Nat) (key : Bytes) : State :=
  let tb := s.tbl t
  if tb.notif.length < 1024 then
    s.onTbl t (fun tb => { tb with
      notif := tb.notif ++ [{ typ := typ, port := port, old := old, tf := tf, age := age, seq := tb.seq, key := padTo 48 key }]
      seq := (tb.seq + 1) % 2 ^ 64 })
  else countErr ((s.noteFlag (tableBase t + 8) true).onTbl t (fun tb => { tb with seq := (tb.seq + 1) % 2 ^ 64, resync := true })) (tErr t 4)

/-- The 64 bytes of a record. -/
def Notif.bytes (n : Notif) (t : Nat) : Bytes :=
  [BitVec.ofNat 8 n.typ, BitVec.ofNat 8 t, BitVec.ofNat 8 n.port, BitVec.ofNat 8 n.old] ++ leBytes 2 n.tf
    ++ leBytes 2 n.age ++ leBytes 8 n.seq ++ padTo 48 n.key

/-- The two DUMP records of an entry. -/
def postDump (s : State) (t : Nat) (e : TEntry) : State :=
  let s := post s t 8 e.port 0xFF e.tf e.age e.key
  post s t 8 e.port 0xFF e.tf e.age (leBytes 8 e.result)

/-! ### Insertion (R107 to R109) -/

/-- The lowest free slot of a bucket; a lost bucket has none until it is cleared. -/
def freeSlot (s : State) (t level b : Nat) : Option Nat :=
  if bucketLost s t level b then none else ([0, 1, 2, 3].map (fun i => tPos level b i)).find? (fun p => (tget? (s.tbl t).slots p).isNone)

/-- A walk from bucket `cur` (R107): the steps so far, last first, as sources; on success the moves
(source, target), last first, with the pointer. -/
def walkLoop (s : State) (t level : Nat) : Nat → Nat → Nat → List Nat → Option (List (Nat × Nat)) × Nat
  | 0, _, ptr, _ => (none, ptr)
  | n + 1, cur, ptr, srcs =>
    let src := tPos level cur ptr
    let ptr' := (ptr + 1) % 4
    match slotOf s t level cur ptr with
    | none => (none, ptr')
    | some e =>
      let c := candidates s t level e.key
      let alt := if c.1 = cur then c.2 else c.1
      match freeSlot s t level alt with
      | some f => (some ((src :: srcs).zip (f :: src :: srcs)), ptr')
      | none => walkLoop s t level n alt ptr' (src :: srcs)

/-- The bucket of a position has been passed by a running dump (R462). -/
def dumpPassed (tb : Table) (pos : Nat) : Bool :=
  match tb.dump with
  | some d => decide (posLevel pos < d.1 ∨ (posLevel pos = d.1 ∧ posBucket pos < d.2))
  | none => false

/-- The moves of a walk, last step first; an entry that a dump would miss is posted (R108, R462). -/
def runMoves (t : Nat) : State → List (Nat × Nat) → State
  | s, [] => s
  | s, (src, dst) :: rest =>
    match tget? (s.tbl t).slots src with
    | some e =>
      let s := s.onTbl t (fun tb => { tb with slots := tdel (tset tb.slots dst e) src })
      let s := if (s.tbl t).dump.isSome && !dumpPassed (s.tbl t) src && dumpPassed (s.tbl t) dst then postDump s t e else s
      runMoves t s rest
    | none => runMoves t s rest

/-- The eligible slots of R109, in order. -/
def victimSlots (s : State) (t level : Nat) (key : Bytes) : List (Nat × TEntry) :=
  let c := candidates s t level key
  ([c.1, c.2].flatMap (fun b => [0, 1, 2, 3].map (fun i => (b, i)))).filterMap (fun p =>
    match slotOf s t level p.1 p.2 with
    | some e => if e.has fStatic then none else some (tPos level p.1 p.2, e)
    | none => none)

/-- One step of the Galois register of R109. -/
def lfsrStep (x : Nat) : Nat := if x % 2 = 1 then (x / 2) ^^^ 0x80200003 else x / 2

/-- Age of an entry in ticks. -/
def ageOf (tick age : Nat) : Nat := (tick % 65536 + (65536 - age % 65536)) % 65536

/-- The first entry of largest age. -/
def oldest (tick : Nat) : List (Nat × TEntry) → Option (Nat × TEntry)
  | [] => none
  | x :: rest =>
    match oldest tick rest with
    | none => some x
    | some y => if ageOf tick y.2.age ≤ ageOf tick x.2.age then some x else some y

/-- The victim (R109), with the LFSR stepped under random. -/
def victim (s : State) (t level : Nat) (key : Bytes) : State × Option (Nat × TEntry) :=
  let vs := victimSlots s t level key
  if tblOldest s t then (s, oldest (s.tbl t).tick vs)
  else if vs.isEmpty then (s, none)
  else
    let x := lfsrStep (s.tbl t).lfsr
    (s.onTbl t (fun tb => { tb with lfsr := x }), vs[x * vs.length / 2 ^ 32]?)

inductive InsRes where
  | inserted | updated
  | evicted (e : TEntry)
  | nospace
  deriving DecidableEq, Repr

/-- One level of the insert: none when the level has no room. -/
def insertLevel (s : State) (t level : Nat) (e : TEntry) : State × Bool :=
  let c := candidates s t level e.key
  match (freeSlot s t level c.1).or (freeSlot s t level c.2) with
  | some p => (putEntry s t p e, true)
  | none =>
    let tb := s.tbl t
    let tog := tget tb.toggle level 0
    let start := if tog = 0 then c.1 else c.2
    let r := walkLoop s t level (tblDepth s t) start (tget tb.ptr level 0) []
    let s := s.onTbl t (fun tb => { tb with toggle := tset tb.toggle level (1 - tog), ptr := tset tb.ptr level r.2 })
    match r.1 with
    | some moves =>
      let s := runMoves t s moves
      let s := countStat s (tStat t 4) moves.length
      match moves.getLast? with
      | some m => (putEntry s t m.1 e, true)
      | none => (s, false)
    | none => (s, false)

/-- insert of R107, with its counters. -/
def insert (s : State) (t : Nat) (e : TEntry) (evict : Bool) : State × InsRes :=
  match findKey s t e.key with
  | some (pos, _) => (putEntry s t pos e, .updated)
  | none =>
    let r0 := insertLevel s t 0 e
    if r0.2 then (countStat r0.1 (tStat t 3) 1, .inserted)
    else
      let two := tblBuckets s t 1 ≠ 0 ∧ ¬ e.has fOnchip
      let r1 := if two then insertLevel r0.1 t 1 e else (r0.1, false)
      if r1.2 then (countStat r1.1 (tStat t 3) 1, .inserted)
      else if !evict then (countErr r1.1 (tErr t 0), .nospace)
      else
        let v := victim r1.1 t (if two then 1 else 0) e.key
        match v.2 with
        | none => (countErr v.1 (tErr t 0), .nospace)
        | some (pos, old) =>
          let s := post v.1 t 6 old.port 0xFF old.tf old.age old.key
          let s := putEntry s t pos e
          (countStat (countStat s (tStat t 3) 1) (tStat t 5) 1, .evicted old)

/-! ### Quotas (R112, R224) -/

/-- Units of a tenant function in a table, and its quota. -/
def tfUnits (s : State) (t tf : Nat) : Nat :=
  ((s.tbl t).slots.filter (fun p => p.2.tf == tf)).length * tblUnits s t
def tfQuota (s : State) (t tf : Nat) : Nat := s.cfgN (itemId 0xA 1 6) tf t 0

/-- A further entry of the tenant function stays inside its quota. -/
def quotaOk (s : State) (t tf : Nat) : Bool := decide (tfUnits s t tf + tblUnits s t ≤ tfQuota s t tf)

/-! ### Learning (R111 to R118) -/

/-- A learn request made by a frame (R111). -/
def learnRequest (s : State) (t : Nat) (r : LearnReq) : State :=
  if (s.tbl t).learnQ.length < 4096 then s.onTbl t (fun tb => { tb with learnQ := tb.learnQ ++ [r] })
  else countErr s (tErr t 1)

/-- A refresh request (R105), made only when the stamp differs from the tick. -/
def refreshRequest (s : State) (t : Nat) (e : TEntry) : State :=
  if e.age = (s.tbl t).tick then s
  else if (s.tbl t).refreshQ.length < 1024 then s.onTbl t (fun tb => { tb with refreshQ := tb.refreshQ ++ [e.key] })
  else countErr s (tErr t 8)

def holdOf (s : State) (t : Nat) (key : Bytes) : Option Hold := (s.tbl t).hold.find? (fun h => h.key = key)

/-- Records past their hold-down without a candidate are freed (R113). -/
def purgeHold (s : State) (t : Nat) (now : Int) : State :=
  let hd := tblHoldDown s t
  s.onTbl t (fun tb => { tb with hold := tb.hold.filter (fun h => h.cand.isSome || decide (now - h.learnt < hd)) })

/-- A record set for a key; a full hold table takes none (R114). -/
def setHold (s : State) (t : Nat) (h : Hold) : State :=
  if tblHoldDown s t = 0 then s
  else
    let rest := (s.tbl t).hold.filter (fun x => x.key ≠ h.key)
    if rest.length < 4096 then s.onTbl t (fun tb => { tb with hold := rest ++ [h] })
    else countErr s (tErr t 5)

/-- The RESULT of a learned key (R112). -/
def learnResult (s : State) (t lp tf : Nat) : Nat :=
  tblLearnQset s t lp + tf * 2 ^ 16 + 0xFFFF * 2 ^ 28

/-- A new key learned in LOCAL mode (R112). -/
def learnNew (s : State) (t : Nat) (r : LearnReq) : State :=
  if !quotaOk s t r.tf then countErr s (tErr t 3)
  else
    let e : TEntry := { key := r.key, result := learnResult s t r.lp r.tf, age := (s.tbl t).tick,
                        port := r.lp, flags := fLearned, tf := r.tf }
    let x := insert s t e true
    match x.2 with
    | .nospace => x.1
    | _ =>
      let s := setHold x.1 t { key := r.key, owner := r.lp, learnt := r.tIn }
      let s := post s t 2 r.lp 0xFF r.tf e.age r.key
      countStat s (tStat t 8) 1

/-- The entry of a key moved to the requesting port (R113). -/
def learnMove (s : State) (t pos : Nat) (e : TEntry) (r : LearnReq) : State :=
  if e.tf ≠ r.tf ∧ !quotaOk s t r.tf then countErr s (tErr t 3)
  else
    let e' := { e with port := r.lp, tf := r.tf
                       result := e.result / 8192 * 8192 + tblLearnQset s t r.lp }
    let s := putEntry s t pos e'
    let s := setHold s t { key := r.key, owner := r.lp, learnt := r.tIn }
    let s := post s t 3 r.lp e.port r.tf e'.age r.key
    countStat s (tStat t 7) 1

/-- A contended request counted, and the candidate set with its CONTEND, which gives the AGE of the entry (R113, R121). -/
def contend (s : State) (t : Nat) (h : Hold) (e : TEntry) (r : LearnReq) (announce : Bool) : State :=
  let s := countErr s (tErr t 2)
  if announce then
    let s := s.onTbl t (fun tb => { tb with hold := tb.hold.map (fun x =>
      if x.key = r.key then { x with cand := some (r.lp, r.tIn) } else x) })
    post s t 4 r.lp h.owner r.tf e.age r.key
  else s

/-- The refresh of an entry (R105). -/
def refreshEntry (s : State) (t pos : Nat) (e : TEntry) : State :=
  putEntry s t pos { e with age := (s.tbl t).tick, flags := e.flags - (e.flags &&& fReported) }

/-- A learn request taken in LOCAL mode for a key already held (R113); a hold-down of 0 leaves the hold table out (R114). -/
def learnHeld (s : State) (t pos : Nat) (e : TEntry) (r : LearnReq) : State :=
  let hd : Int := tblHoldDown s t
  if e.port = r.lp then
    let s := refreshEntry s t pos e
    s.onTbl t (fun tb => { tb with hold := tb.hold.map (fun x => if x.key = r.key then { x with cand := none } else x) })
  else if e.has fStatic then countErr s (tErr t 2)
  else if hd = 0 then learnMove s t pos e r
  else match holdOf s t r.key with
    | none => learnMove s t pos e r
    | some h =>
      match h.cand with
      | none => if hd ≤ r.tIn - h.learnt then learnMove s t pos e r else contend s t h e r true
      | some (c, first) =>
        if c ≠ r.lp then contend s t h e r true
        else if hd ≤ r.tIn - first then learnMove s t pos e r
        else contend s t h e r false

/-- A learn request in SYNC mode (R117): one LEARN_REQ for each key and port per hold-down; `age` is that of the entry which
holds the key, 0 where none does. -/
def learnSync (s : State) (t : Nat) (r : LearnReq) (age : Nat) : State :=
  let hd : Int := tblHoldDown s t
  if hd = 0 then post s t 1 r.lp 0xFF r.tf age r.key
  else match (s.tbl t).hold.find? (fun h => h.key = r.key ∧ h.owner = r.lp) with
  | some h =>
    if r.tIn - h.learnt < hd then countErr s (tErr t 2)
    else
      let s := s.onTbl t (fun tb => { tb with hold := tb.hold.map (fun x =>
        if x.key = r.key ∧ x.owner = r.lp then { x with learnt := r.tIn } else x) })
      post s t 1 r.lp 0xFF r.tf age r.key
  | none =>
    let s := if (s.tbl t).hold.length < 4096 then
        s.onTbl t (fun tb => { tb with hold := tb.hold ++ [{ key := r.key, owner := r.lp, learnt := r.tIn }] })
      else countErr s (tErr t 5)
    post s t 1 r.lp 0xFF r.tf age r.key

/-- The serialiser takes the oldest learn request. -/
def takeLearn (s : State) (t : Nat) : State :=
  match (s.tbl t).learnQ with
  | [] => s
  | r :: rest =>
    let s := s.onTbl t (fun tb => { tb with learnQ := rest })
    let s := purgeHold s t r.tIn
    if tblMode s t = 1 then
      match findKey s t r.key with
      | some (pos, e) => if e.port = r.lp then refreshEntry s t pos e else learnSync s t r e.age
      | none => learnSync s t r 0
    else match findKey s t r.key with
      | some (pos, e) => learnHeld s t pos e r
      | none => learnNew s t r

/-- The serialiser takes the oldest refresh request (R106: after every learn request). -/
def takeRefresh (s : State) (t : Nat) : State :=
  match (s.tbl t).refreshQ with
  | [] => s
  | k :: rest =>
    let s := s.onTbl t (fun tb => { tb with refreshQ := rest })
    match findKey s t k with
    | some (pos, e) => refreshEntry s t pos e
    | none => s

/-! ### Ageing (R115, R116) -/

/-- What the ager asks for an entry under a tick: deletion or report, or the stamp moved up. -/
def agerWants (s : State) (t : Nat) (e : TEntry) : Bool :=
  let a := ageOf (s.tbl t).tick e.age
  let aged := tblAgeMax s t ≠ 0 ∧ tblAgeMax s t ≤ a
  !e.has fStatic &&
    ((decide aged && (tblMode s t == 2 || tblRemoveSync s t || !e.has fReported)) || decide (16384 < a))

/-- The tick advances and the ager visits its buckets. -/
def ageTick (s : State) (t : Nat) : State :=
  let s := s.onTbl t (fun tb => { tb with tick := (tb.tick + 1) % 65536, tickAt := tb.tickAt + tblTickNs s t })
  let tick := (s.tbl t).tick
  let keys := ((s.tbl t).slots.filter (fun p => posBucket p.1 % 16 == tick % 16 && agerWants s t p.2)).map (fun p => p.2.key)
  s.onTbl t (fun tb => { tb with agerQ := tb.agerQ ++ keys.filter (fun k => !tb.agerQ.contains k) })

/-- The serialiser takes a request of the ager. -/
def takeAger (s : State) (t : Nat) : State :=
  match (s.tbl t).agerQ with
  | [] => s
  | k :: rest =>
    let s := s.onTbl t (fun tb => { tb with agerQ := rest })
    match findKey s t k with
    | none => s
    | some (pos, e) =>
      if !agerWants s t e then s
      else
        let tick := (s.tbl t).tick
        let a := ageOf tick e.age
        let aged := tblAgeMax s t ≠ 0 ∧ tblAgeMax s t ≤ a
        if aged ∧ (tblMode s t = 2 ∨ tblRemoveSync s t) then
          let s := delEntry s t pos
          countStat (post s t 5 e.port 0xFF e.tf e.age e.key) (tStat t 6) 1
        else
          let e' := if 16384 < a then { e with age := (tick + 65536 - 16384) % 65536 } else e
          if aged ∧ ¬ e.has fReported then
            post (putEntry s t pos { e' with flags := e'.flags + fReported }) t 5 e.port 0xFF e.tf e.age e.key
          else putEntry s t pos e'

/-! ### Flush and dump (R122, R462) -/

def Flush.hits (f : Flush) (e : TEntry) : Bool :=
  (f.static || !e.has fStatic) &&
    (match f.filter with
     | 0 => true
     | 1 => e.has fLearned
     | 2 => e.tf == f.value
     | _ => e.port == f.value)

/-- Every entry that matches a filter deleted. -/
def flushEntries (s : State) (t : Nat) (f : Flush) : State :=
  ((s.tbl t).slots.filter (fun p => f.hits p.2)).foldl (fun s p => delEntry s t p.1) s

/-- One bucket of a dump passed, and DUMP_END after the last. -/
def dumpStep (s : State) (t : Nat) : State :=
  match (s.tbl t).dump with
  | none => s
  | some (level, b) =>
    if 512 < (s.tbl t).notif.length then s
    else
      let es := ([0, 1, 2, 3].filterMap (fun i => slotOf s t level b i))
      let s := es.foldl (fun s e => postDump s t e) s
      if b + 1 < tblBuckets s t level then s.onTbl t (fun tb => { tb with dump := some (level, b + 1) })
      else if level = 0 ∧ tblBuckets s t 1 ≠ 0 then s.onTbl t (fun tb => { tb with dump := some (1, 0) })
      else post (s.onTbl t (fun tb => { tb with dump := none })) t 9 0xFF 0xFF 0 0 []

end Sys2Proof.Machine
end

