-- ==== Sys2Proof/Machine/Chicory.lean ====
section
/-! DEFINITION. The Chicory sequencers (R70 to R76, R82, R460): the state of a program, the microword,
the ROM program by header, and a whole parse. -/

namespace Sys2Proof.Machine

/-! ### A version's items (R75, R87) -/

/-- A number of a version's own items, or its default. -/
def verN (recs : Tab Bytes) (item index sub d : Nat) : Nat :=
  match tget? recs (cfgKey item index sub) with
  | some x => leAt x 0 8
  | none => d

/-- What a parse reads of its surroundings. -/
structure PEnv where
  /-- the frame without its FCS -/
  win : Bytes
  /-- bytes received -/
  avail : Nat
  recs : Tab Bytes
  store : Tab Bytes
  traps : List (Nat × Nat)
  poison : List Nat

def PEnv.cap (e : PEnv) : Nat := verN e.recs (itemId 5 1 1) 0 0 40
def PEnv.depth (e : PEnv) : Nat := verN e.recs (itemId 5 1 2) 0 0 512
def PEnv.hdrLimit (e : PEnv) : Nat := verN e.recs (itemId 5 1 3) 0 0 16
def PEnv.tunLimit (e : PEnv) : Nat := verN e.recs (itemId 5 1 4) 0 0 4
def PEnv.vxlan (e : PEnv) : Nat := verN e.recs (itemId 5 1 5) 0 0 4789
def PEnv.geneve (e : PEnv) : Nat := verN e.recs (itemId 5 1 6) 0 0 6081
def PEnv.ehtPort (e : PEnv) : Nat := verN e.recs (itemId 8 1 1) 0 0 47075
def PEnv.hook (e : PEnv) (h : Nat) : Nat := verN e.recs (itemId 5 1 9) 0 h 0

/-- Program state (R70). -/
structure PSt where
  cur : Nat
  w : List Nat
  key : Bytes
  meta_ : List Nat
  flags : Nat
  stack : List (Nat × Nat × Nat)
  csumBad : Bool
  level : Nat
  clocks : Nat
  tags : Nat

def PSt.reg (p : PSt) (i : Nat) : Nat := p.w.getD i 0
def PSt.setReg (p : PSt) (i v : Nat) : PSt := { p with w := p.w.set i (v % 2 ^ 32) }

/-- Where a program stands: a header of the ROM program, its end, or a control-store word. -/
inductive Point where
  | start | eth | tag | ip4 | ip6 | ip6x (nh : Nat) | udp | tcp | icmp | icmp6 | gre | vxlan | geneve
  | eht | ptp | eapol | arp | done
  | word (a : Nat)
  deriving DecidableEq, Repr

/-- How a step of a program comes out. -/
inductive POut where
  | go (at_ : Point) (p : PSt)
  | fin (code profile : Nat) (p : PSt)
  | exc (code addr : Nat) (p : PSt)
  | stall

def xDepth : Nat := 1
def xTrunc : Nat := 2
def xStack : Nat := 3
def xTunnel : Nat := 4
def xCap : Nat := 5
def xEcc : Nat := 6
def xAddr : Nat := 7
def xFence : Nat := 8

/-- An access to `n` bytes at `off` (R70): none when it may be read, or the exception, or a stall (0). -/
def PEnv.access (e : PEnv) (off n : Nat) : Option Nat :=
  if n = 0 then none
  else if e.depth < off + n then some xDepth
  else if e.win.length < off + n then some xTrunc
  else if e.avail < off + n then some 0
  else none

/-- Outcome of a failed access. -/
def accessFail (x : Nat) (p : PSt) : POut := if x = 0 then .stall else .exc x 0 p

/-- Key bytes written. -/
def PSt.putKey (p : PSt) (pos : Nat) (b : Bytes) : PSt := { p with key := patch p.key pos b }

/-- A header push (R72, R76); `none` with the exception when a limit stands in the way. -/
def pushHdr (e : PEnv) (p : PSt) (typ : Nat) (tun : Bool) : PSt × Option Nat :=
  if tun && decide (e.tunLimit ≤ p.level + 1) then (p, some xTunnel)
  else if e.hdrLimit ≤ p.stack.length then (p, some xStack)
  else
    let l := if tun then p.level + 1 else p.level
    ({ p with level := l, stack := p.stack ++ [(typ, p.cur, l)] }, none)

/-- The checksum over `n` bytes at the cursor fails (R72). -/
def csumFails (e : PEnv) (off n : Nat) : Bool := fold16 (onesSum (slice e.win off n)) != 65535

/-- The checksum-bad flag and frame flag 0. -/
def PSt.badCsum (p : PSt) : PSt := { p with csumBad := true, flags := p.flags ||| 1 }

/-- END of the ROM program, hook 5 first (R82). -/
def romEnd (e : PEnv) (p : PSt) (profile : Nat) : POut :=
  let p := p.setReg 15 profile
  if e.hook 5 ≠ 0 then .go (.word (e.hook 5)) p else .fin 0 profile p

/-- A hook point with w1, or the end on w15. -/
def romHook (e : PEnv) (p : PSt) (h v : Nat) : POut :=
  if e.hook h ≠ 0 then .go (.word (e.hook h)) (p.setReg 1 v) else romEnd e p (p.reg 15 % 4096)

/-- Next header by EtherType; hook 1 for one that is unknown. -/
def byEtherType (e : PEnv) (p : PSt) (t : Nat) : POut :=
  if t = 0x0800 then .go .ip4 p
  else if t = 0x86DD then .go .ip6 p
  else if t = 0x0806 then .go .arp p
  else if t = 0x88F7 then .go .ptp p
  else if t = 0x888E then .go .eapol p
  else romHook e p 1 t

/-- Next header inside a tunnel by its protocol type: the next header opens a level. -/
def byTunnel (e : PEnv) (p : PSt) (t : Nat) : POut :=
  if t = 0x6558 then .go .eth { p with tags := 100 }
  else if t = 0x0800 then .go .ip4 { p with tags := 100 }
  else if t = 0x86DD then .go .ip6 { p with tags := 100 }
  else romHook e p 1 t

/-- Next header by IP protocol (R82). That IPv4 and IPv6 in IP (4 and 41) open a tunnel level like the other tunnels is the
model's choice (DESIGN CHOICE, log 74). -/
def byProto (e : PEnv) (p : PSt) (v6 : Bool) (n : Nat) : POut :=
  if n = 17 then .go .udp p
  else if n = 6 then .go .tcp p
  else if n = 1 then .go .icmp p
  else if n = 58 then .go .icmp6 p
  else if n = 47 then .go .gre p
  else if n = 4 then .go .ip4 { p with tags := 100 }
  else if n = 41 then .go .ip6 { p with tags := 100 }
  else if v6 && (n == 0 || n == 43 || n == 44 || n == 60) then .go (.ip6x n) p
  else romHook e p 2 n

/-- A header step of the ROM program: access of `n` bytes, push, then `f`. The field `tags` at 100
marks a header that opens a tunnel level. -/
def romHdr (e : PEnv) (p : PSt) (n typ : Nat) (f : PSt → POut) : POut :=
  match e.access p.cur n with
  | some x => accessFail x p
  | none =>
    let tun := p.tags == 100
    let r := pushHdr e { p with tags := 0 } typ tun
    match r.2 with
    | some x =>
      let q := match f { p with tags := 0, level := if tun then p.level + 1 else p.level } with
        | .go _ q => q
        | .fin _ _ q => q
        | .exc _ _ q => q
        | .stall => p
      .exc x 0 { p with key := q.key }
    | none => f r.1

/-- Clocks of a ROM header (R460). -/
def romClocks : Point → Nat
  | .start => 0
  | .done => 0
  | .ip4 => 2
  | .ip6 => 2
  | .gre => 2
  | .geneve => 2
  | .word _ => 0
  | _ => 1

/-- Big-endian field at the cursor. -/
def PEnv.be (e : PEnv) (p : PSt) (off n : Nat) : Nat := beAt e.win (p.cur + off) n

/-- The cursor moved `n` bytes on, not beyond the depth limit (R70), then `f`. -/
def romAdvance (e : PEnv) (p : PSt) (n : Nat) (f : PSt → POut) : POut :=
  if e.depth < p.cur + n then .exc xDepth 0 p else f { p with cur := p.cur + n }

/-- One header of the ROM program (R82, with the key layout of its table). Where several hooks could be reached behind a UDP header,
a known port goes to hook 4 before its own header, and an unknown one to hook 3 before hook 4 (DESIGN CHOICE, log 74). -/
def romStep (e : PEnv) (pt : Point) (p : PSt) : POut :=
  match pt with
  | .start => if e.hook 0 ≠ 0 then .go (.word (e.hook 0)) p else .go .eth p
  | .eth =>
    romHdr e p 14 1 (fun p =>
      let macs := slice e.win p.cur 12
      let t := e.be p 12 2
      let p := if p.level = 0 then p.putKey 0 macs else p.putKey 64 macs
      let p := { (p.putKey 14 (beBytes 2 t)) with cur := p.cur + 14 }
      if t = 0x8100 ∨ t = 0x88A8 then .go .tag (p.setReg 1 t) else byEtherType e p t)
  | .tag =>
    let n := p.tags
    romHdr e p 4 (if p.reg 1 = 0x8100 then 2 else 3) (fun p =>
      let t := e.be p 2 2
      let p := if p.level = 0 ∧ n = 0 then p.putKey 12 (slice e.win p.cur 2) else p
      let p := { (p.putKey 14 (beBytes 2 t)) with cur := p.cur + 4 }
      if (t = 0x8100 ∨ t = 0x88A8) ∧ n = 0 then .go .tag ({ p with tags := 1 }.setReg 1 t)
      else byEtherType e p t)
  | .ip4 =>
    romHdr e p 20 5 (fun p =>
      let ihl := (byteAt e.win p.cur).toNat % 16
      let proto := e.be p 9 1
      let p := ((p.putKey 16 (List.replicate 12 0 ++ slice e.win (p.cur + 12) 4)).putKey 32
        (List.replicate 12 0 ++ slice e.win (p.cur + 16) 4)).putKey 48 (beBytes 1 proto)
      if ihl < 5 then romEnd e p.badCsum (p.reg 15 % 4096)
      else match e.access p.cur (ihl * 4) with
        | some x => accessFail x p
        | none =>
          let p := if csumFails e p.cur (ihl * 4) then p.badCsum else p
          byProto e { p with cur := p.cur + ihl * 4 } false proto)
  | .ip6 =>
    romHdr e p 40 6 (fun p =>
      let nh := e.be p 6 1
      let p := (p.putKey 16 (slice e.win (p.cur + 8) 32)).putKey 48 (beBytes 1 nh)
      byProto e { p with cur := p.cur + 40 } true nh)
  | .ip6x n =>
    romHdr e p 2 7 (fun p =>
      let nh := e.be p 0 1
      let len := if n = 44 then 8 else (e.be p 1 1 + 1) * 8
      romAdvance e (p.putKey 48 (beBytes 1 nh)) len (fun p => byProto e p true nh))
  | .udp =>
    romHdr e p 4 8 (fun p =>
      let dp := e.be p 2 2
      romAdvance e (p.putKey 50 (slice e.win p.cur 4)) 8 (fun p =>
        let known := dp = e.ehtPort ∨ dp = e.vxlan ∨ dp = e.geneve ∨ dp = 319 ∨ dp = 320
        if known ∧ e.hook 4 ≠ 0 then .go (.word (e.hook 4)) p
        else if dp = e.ehtPort then .go .eht p
        else if dp = e.vxlan then .go .vxlan p
        else if dp = e.geneve then .go .geneve p
        else if dp = 319 ∨ dp = 320 then .go .ptp p
        else if e.hook 3 ≠ 0 then .go (.word (e.hook 3)) (p.setReg 1 dp)
        else romHook e p 4 (p.reg 1)))
  | .tcp =>
    romHdr e p 4 9 (fun p => romHook e ((p.putKey 50 (slice e.win p.cur 4)).putKey 48 [6]) 4 (p.reg 1))
  | .icmp => romHdr e p 1 0xA (fun p => romHook e p 4 (p.reg 1))
  | .icmp6 =>
    romHdr e p 1 0xB (fun p =>
      let t := e.be p 0 1
      if e.hook 4 ≠ 0 then .go (.word (e.hook 4)) p
      else if 133 ≤ t ∧ t ≤ 137 then romEnd e p 4075 else romEnd e p (p.reg 15 % 4096))
  | .gre =>
    romHdr e p 4 0xE (fun p =>
      let fl := e.be p 0 2
      let t := e.be p 2 2
      let c := if fl.testBit 15 then 4 else 0
      let k := if fl.testBit 13 then 4 else 0
      let q := if fl.testBit 12 then 4 else 0
      let p := p.putKey 48 [47]
      match e.access p.cur (4 + c + k + q) with
      | some x => accessFail x p
      | none =>
        let p := if k = 0 then p else p.putKey 54 (slice e.win (p.cur + 4 + c) 4)
        byTunnel e { p with cur := p.cur + 4 + c + k + q } t)
  | .vxlan =>
    romHdr e p 8 0xC (fun p =>
      .go .eth { (p.putKey 55 (slice e.win (p.cur + 4) 3)) with cur := p.cur + 8, tags := 100 })
  | .geneve =>
    romHdr e p 8 0xD (fun p =>
      let opt := (byteAt e.win p.cur).toNat % 64 * 4
      let t := e.be p 2 2
      romAdvance e (p.putKey 55 (slice e.win (p.cur + 4) 3)) (8 + opt) (fun p => byTunnel e p t))
  | .eht => romHdr e p 1 0xF (fun p => romEnd e p 4072)
  | .ptp =>
    romHdr e p 1 0x10 (fun p =>
      if (byteAt e.win p.cur).toNat % 16 < 4 then romEnd e p 4073 else romEnd e p (p.reg 15 % 4096))
  | .eapol => romHdr e p 1 0x11 (fun p => romEnd e p 4074)
  | .arp => romHdr e p 1 4 (fun p => romEnd e p 4075)
  | .done => .fin 0 (p.reg 15 % 4096) p
  | .word _ => .stall

/-! ### The microword (R71 to R73) -/

/-- A field of a word: lowest bit and size. -/
def fld (w off size : Nat) : Nat := w / 2 ^ off % 2 ^ size

/-- A bit field of the window, most significant bit first (R71: FLD). -/
def winBits (win : Bytes) (bitOff width : Nat) : Nat :=
  let n := (bitOff % 8 + width + 7) / 8
  beAt win (bitOff / 8) n / 2 ^ (n * 8 - bitOff % 8 - width) % 2 ^ width

/-- A field read, when enabled: the outcome of its access, or the registers after it. -/
def fieldRead (e : PEnv) (cur : Nat) (p : PSt) (en byte bit width dst : Nat) : Nat ⊕ PSt :=
  if en = 0 then .inr p
  else match e.access (cur + byte) ((bit + width + 1 + 7) / 8) with
    | some x => .inl x
    | none => .inr (p.setReg dst (winBits e.win ((cur + byte) * 8 + bit) (width + 1)))

/-- An extraction, when enabled. -/
def extract (e : PEnv) (cur : Nat) (p : PSt) (en off len dst pad : Nat) : Nat ⊕ PSt :=
  if en = 0 then .inr p
  else match e.access (cur + off) len with
    | some x => .inl x
    | none =>
      let b := slice e.win (cur + off) len
      .inr (p.putKey dst (if pad = 1 then List.replicate (16 - len) 0 ++ b else b))

/-- The match lists: 0 to 7 are the ROM program's own (their contents are ROM, log 17). -/
def matchPos (e : PEnv) (list v : Nat) : Nat :=
  if list < 8 then Config.romWord (0x100000 + list * 0x10000 + v) % 16
  else ((List.range 15).find? (fun i =>
    match tget? e.recs (cfgKey (itemId 5 1 10) 0 (list * 16 + i)) with
    | some x => leAt x 0 8 == v
    | none => false)).getD 15

/-- The ALU (R73). -/
def chcAlu (e : PEnv) (p : PSt) (op dst src imm cur : Nat) : PSt :=
  match op with
  | 1 => p.setReg dst imm
  | 2 => p.setReg dst (p.reg src + imm)
  | 3 => p.setReg dst (p.reg src &&& imm)
  | 4 => p.setReg dst (p.reg src ||| imm)
  | 5 => p.setReg dst (p.reg src / 2 ^ (imm % 32))
  | 6 => p.setReg dst (p.reg src * 2 ^ (imm % 32))
  | 7 => p.setReg dst (p.reg src + p.reg (imm % 16))
  | 8 => p.setReg dst (p.reg src + 2 ^ 32 - p.reg (imm % 16))
  | 9 => p.setReg dst (p.reg src)
  | 10 => p.setReg dst (matchPos e (imm % 16) (p.reg src % 65536))
  | 11 => p.setReg dst cur
  | 12 => p.setReg dst (p.level + p.stack.length * 256)
  | 13 => p.putKey (imm / 256 % 128) [BitVec.ofNat 8 (imm % 256)]
  | 14 => p.putKey (imm % 128) (beBytes 2 (p.reg src % 65536))
  | 15 => { p with meta_ := p.meta_.set (imm % 8) (p.reg src % 65536) }
  | _ => p

/-- The branch (R73): next point, or END. -/
def chcBranch (e : PEnv) (p : PSt) (w a : Nat) : Point ⊕ (Nat × Nat) :=
  let target := fld w 172 15
  let r := p.reg (fld w 168 4)
  let imm := fld w 152 16
  match fld w 187 3 with
  | 0 => .inl (.word (a + 1))
  | 1 => .inl (.word target)
  | 2 => .inl (.word (if r = imm then target else a + 1))
  | 3 => .inl (.word (if r ≠ imm then target else a + 1))
  | 4 => .inl (.word (if r < imm then target else a + 1))
  | 5 => .inl (.word (target + r % 16))
  | 6 => .inl (.word (if e.hook (imm % 16) ≠ 0 then e.hook (imm % 16) else target))
  | _ => .inr (target % 256, if imm.testBit 12 then r % 4096 else imm % 4096)

/-- The cursor advance (R71: ADV). -/
def chcAdvance (p : PSt) (w cur : Nat) : Nat :=
  let imm := fld w 140 10
  match fld w 150 2 with
  | 0 => cur
  | 1 => cur + imm
  | 2 => cur + p.reg (fld w 136 4) * 2 ^ fld w 134 2 + imm
  | _ => imm

/-- One word executed in the order of R72. A failed checksum sets flag 0 before the word's own flag write, so a word that clears
flag 0 leaves it clear; and where several exceptions meet in one word, an access comes first, in the order of step 1, then the
advance, then the push, a tunnel level before the stack (DESIGN CHOICE, log 74). -/
def wordStep (e : PEnv) (w a : Nat) (p : PSt) : POut :=
  let cur := p.cur
  match fieldRead e cur p (fld w 133 1) (fld w 127 6) (fld w 124 3) (fld w 119 5) (fld w 115 4) with
  | .inl x => accessFail x p
  | .inr p1 =>
    match fieldRead e cur p1 (fld w 23 1) (fld w 17 6) (fld w 14 3) (fld w 9 5) (fld w 5 4) with
    | .inl x => accessFail x p1
    | .inr p2 =>
      match extract e cur p2 (fld w 114 1) (fld w 108 6) (fld w 101 7) (fld w 94 7) (fld w 4 1) with
      | .inl x => accessFail x p2
      | .inr p3 =>
        match extract e cur p3 (fld w 44 1) (fld w 38 6) (fld w 31 7) (fld w 24 7) (fld w 3 1) with
        | .inl x => accessFail x p3
        | .inr p4 =>
          let n := p4.reg (fld w 51 4) * 4
          match (if fld w 55 1 = 1 then e.access cur n else none) with
          | some x => accessFail x p4
          | none =>
            let p5 := if fld w 55 1 = 1 && csumFails e cur n then p4.badCsum else p4
            let p6 := if fld w 45 1 = 1 then
                { p5 with flags := if fld w 46 1 = 1 then p5.flags ||| 2 ^ fld w 47 4
                                   else p5.flags - (p5.flags &&& 2 ^ fld w 47 4) } else p5
            let p7 := chcAlu e p6 (fld w 90 4) (fld w 86 4) (fld w 82 4) (fld w 66 16) cur
            let br := chcBranch e p7 w a
            let cur' := chcAdvance p4 w cur
            if e.depth < cur' then .exc xDepth 0 p7
            else
              let pushed := if fld w 65 1 = 1 then pushHdr e p7 (fld w 57 8) (fld w 56 1 = 1) else (p7, none)
              match pushed.2 with
              | some x => .exc x 0 p7
              | none =>
                let p8 := { pushed.1 with cur := cur' }
                match br with
                | .inl pt => .go pt p8
                | .inr (c, pr) => .fin c pr p8

/-! ### A whole parse -/

/-- The ROM entry points of R82. -/
def romPoint (a : Nat) : Option Point :=
  if a = 0 then some .start
  else if a = 0x0100 then some .eth
  else if a = 0x0140 then some .ip4
  else if a = 0x0180 then some .ip6
  else if a = 0x01C0 then some .udp
  else if a = 0x0200 then some .tcp
  else if a = 0x0240 then some .done
  else none

/-- The ROM address at which the ROM program takes up a header: its re-entry point, or one that the spec does not give. Each
header is one word of the program (log 17). -/
def pointRom : Point → Nat
  | .start => 0
  | .eth => 0x0100
  | .ip4 => 0x0140
  | .ip6 => 0x0180
  | .udp => 0x01C0
  | .tcp => 0x0200
  | .done => 0x0240
  | .tag => Config.romAddr 0 % 0x4000
  | .ip6x _ => Config.romAddr 1 % 0x4000
  | .icmp => Config.romAddr 2 % 0x4000
  | .icmp6 => Config.romAddr 3 % 0x4000
  | .gre => Config.romAddr 4 % 0x4000
  | .vxlan => Config.romAddr 5 % 0x4000
  | .geneve => Config.romAddr 6 % 0x4000
  | .eht => Config.romAddr 7 % 0x4000
  | .ptp => Config.romAddr 8 % 0x4000
  | .eapol => Config.romAddr 9 % 0x4000
  | .arp => Config.romAddr 10 % 0x4000
  | .word a => a

/-- The trap of a ROM address (R82). -/
def trapOf (e : PEnv) (a : Nat) : Option Nat := (e.traps.find? (fun t => t.1 == a)).map Prod.snd

/-- What stands at a point once traps are applied, entry points of the ROM program recognised. -/
def resolve (e : PEnv) (pt : Point) : Point :=
  match pt with
  | .word a =>
    if a < 0x4000 then
      match trapOf e a with
      | some t => .word t
      | none => (romPoint a).getD (.word a)
    else .word a
  | p =>
    match trapOf e (pointRom p) with
    | some t => .word t
    | none => p

/-- The word at a control-store address, or the exception of fetching it (R76, R81). -/
def fetchWord (e : PEnv) (a : Nat) : Nat ⊕ Nat :=
  if 0x5400 ≤ a then .inr xAddr
  else if e.poison.contains a then .inr xEcc
  else if a < 0x4000 then .inl (Config.romWord a % 2 ^ 192)
  else match tget? e.store a with
    | some b => .inl (ofLe b)
    | none => .inr xAddr

/-- Clocks of a word that cannot be fetched: those of its contents where it is loaded, 1 where there is none (log 74). -/
def lostClocks (e : PEnv) (a : Nat) : Nat :=
  match tget? e.store a with
  | some b => fld (ofLe b) 190 2 + 1
  | none => 1

/-- How a parse ends. -/
inductive PEnd where
  | ends (r : ParseRes) (addr : Nat)
  | capped (r : ParseRes)
  /-- at a byte not received, with what stands at that word's start -/
  | stalled (p : PSt)

/-- The result of a parse that ended with a code and a profile. -/
def PSt.result (p : PSt) (code profile : Nat) : ParseRes :=
  { profile := profile, code := code, key := p.key, meta_ := p.meta_, flags := p.flags, stack := p.stack,
    csumBad := p.csumBad, clocks := p.clocks }

/-- The end by an exception: profile 4,080 + code (R76). -/
def PSt.except (p : PSt) (code : Nat) : ParseRes := p.result code (4080 + code)

/-- The end at the cycle cap. -/
def PSt.capEnd (p : PSt) (e : PEnv) : ParseRes := { p with clocks := e.cap }.except xCap

/-- A step that cost `c` clocks accounted against the cap (R76): it ends, goes on, or reaches the cap. An exception raised in the very
clock in which the count reaches the cap is CHC_X_CAP (DESIGN CHOICE, log 74). -/
def account (e : PEnv) (p0 : PSt) (c : Nat) (o : POut) : POut ⊕ PEnd :=
  let n := p0.clocks + c
  match o with
  | .stall => .inr (.stalled p0)
  | .fin code pr p =>
    if e.cap < n then .inr (.capped (p.capEnd e)) else .inr (.ends ({ p with clocks := n }.result code pr) 0)
  | .exc x a p =>
    if e.cap ≤ n then .inr (.capped (p.capEnd e)) else .inr (.ends ({ p with clocks := n }.except x) a)
  | .go pt p =>
    if e.cap ≤ n then .inr (.capped (p.capEnd e)) else .inl (.go pt { p with clocks := n })

/-- What stands at a point executed, with its clocks: a word, a header of the ROM program, or an uncorrectable error in its word. -/
def pointStep (e : PEnv) (pt : Point) (p : PSt) : Nat × POut :=
  match pt with
  | .word a =>
    match fetchWord e a with
    | .inr x => (lostClocks e a, .exc x a p)
    | .inl w => (fld w 190 2 + 1, wordStep e w a p)
  | q => if e.poison.contains (pointRom q) then (romClocks q, .exc xEcc (pointRom q) p) else (romClocks q, romStep e q p)

/-- The program run from a point. `more`: how each stall ended, its bytes and clocks, which count towards the cap (R70). The fuel
exceeds every cycle cap of R75, the free entry points and the stalls. -/
def runParse : Nat → PEnv → List (Nat × Nat) → Point → PSt → PEnd
  | 0, e, _, _, p => .capped (p.capEnd e)
  | fuel + 1, e, more, pt, p =>
    let q := resolve e pt
    let x := pointStep e q p
    match (if x.1 = 0 then
        (match x.2 with
         | .fin c pr p' => .inr (.ends (p'.result c pr) 0)
         | .exc y a p' => .inr (.ends (p'.except y) a)
         | o => .inl o)
      else account e p x.1 x.2) with
    | .inl (.go pt' p') => runParse fuel e more pt' p'
    | .inr (.stalled p) =>
      match more with
      | [] => .stalled p
      | (n, c) :: rest =>
        if e.cap ≤ p.clocks + c then .capped (p.capEnd e)
        else runParse fuel { e with avail := max e.avail n } rest q { p with clocks := p.clocks + c }
    | .inr r => r
    | .inl _ => .stalled p

/-- Program state at dispatch (R70). -/
def PSt.init (src dflt : Nat) : PSt :=
  { cur := 0, w := List.replicate 14 0 ++ [src, dflt], key := List.replicate 128 0, meta_ := List.replicate 8 0
    flags := 0, stack := [], csumBad := false, level := 0, clocks := 0, tags := 0 }

/-- What the parse of a frame in a slot of sequencer `n` reads. Words that an uncorrectable error holds are kept by sequencer and
address (R81). -/
def slotEnv (s : State) (n : Nat) (x : SlotFrame) : PEnv :=
  { win := x.pf.frame.bytes.take (x.pf.frame.len - 4), avail := x.avail, recs := (s.ver x.pf.ver).recs
    store := s.parse.store, traps := s.parse.traps
    poison := (s.parse.poison.filter (fun w => w / 32768 == n)).map (· % 32768) }

/-- A frame in a slot of sequencer `n` parsed as far as its bytes let it (R70, R76). -/
def parseSlot (s : State) (n : Nat) (x : SlotFrame) : PEnd :=
  let e := slotEnv s n x
  runParse (600 + x.resumes.length) e x.resumes .start (PSt.init x.pf.src (verN e.recs (itemId 5 1 8) 0 (x.pf.src % 16) 0))

end Sys2Proof.Machine
end

