-- ==== Sys2Proof/Machine/Settle.lean ====
section
/-! DEFINITION. What follows a command inside its own step: quiesces whose work is done complete (R29,
R30), and the Clerk opens a message for each subscriber with a pending record (R362). -/

namespace Sys2Proof.Machine

/-! ### Quiesces -/

/-- Number of an object in QUIESCE_DONE (R360). -/
def qObjNumber : QObj → Nat
  | .tf n => n
  | .storageQueue tf q => tf * 64 + q
  | .tmQueue q => q
  | .logicalPort n => n.val
  | .stall n => n.val
  | .endpoint e => e.toNat

/-- Endpoints of a tenant function. -/
def tfEndpoints (s : State) (tf : Nat) : List Nat := (s.eht.eps.filter (fun p => p.2.tf == tf)).map Prod.fst

/-- Submissions of an endpoint that wait in core queues (R295). -/
def coreQueued (s : State) (eid : Nat) : Nat :=
  s.ido.stalls.foldl (fun n x => x.2.cores.foldl (fun n c => n + (c.2.subq.filter (fun m => epKey s m.ep == eid)).length) n) 0

/-- Items of an endpoint in flight: contexts, and outbound messages open or submitted (R186). -/
def epInFlight (s : State) (eid : Nat) : Nat :=
  (s.eht.ctxs.filter (fun c => c.dst == eid)).length
  + (s.eht.out.filter (fun p => epKey s p.2.ep == eid)).length
  + (s.eht.waiting.filter (fun p => epKey s p.2.ep == eid)).length
  + coreQueued s eid

/-- Owner of a queue set (R125). -/
def qsetOwner (s : State) (g : Nat) : Nat := s.cfgN (itemId 7 1 7) g 0 0

/-- An object is a child of a tenant function (R234). -/
def tfChild (s : State) (n : Nat) : QObj → Bool
  | .endpoint e => match tget? s.eht.eps e.toNat with
    | some x => x.tf == n
    | none => false
  | .storageQueue f _ => f == n
  | .tmQueue q => qsetOwner s (q / 8) == n
  | _ => false

/-- Quiesces that still run among the objects that satisfy `p`. -/
def runningBelow (s : State) (p : QObj → Bool) : Nat := (s.qs.filter (fun x => !x.2.done && p x.1)).length

/-- Messages in the rings of a Stall. -/
def stallMsgs (s : State) (st : Nat) : Nat :=
  s.ido.chans.foldl (fun n p => if p.1 / 1024 = st then n + p.2.msgs.length else n) 0

/-- A thread that keeps a Stall's drain from ending (R273). -/
def Thread.busy (t : Thread) : Bool :=
  t.enable && (t.st == .ready || t.st == .stopped)

/-- Threads of a Stall's filled roles that are neither BLOCKED, FAULTED nor KILLED. -/
def stallThreads (s : State) (st : Nat) : Nat :=
  (tget s.ido.stalls st {}).cores.foldl (fun n c => if c.2.phys.isNone then n else n + (c.2.threads.filter (fun t => t.2.busy)).length) 0

/-- Accepted commands of a storage queue whose completion has not been issued (R27, R217); a submission refused after the stop was
never accepted. -/
def sqInFlight (q : StoQueue) : Nat := q.cmds.length + (q.coal.filter (fun e => !e.refused)).length

/-- Commands of a storage queue that a freeze finishes (R236): dispatched, or waiting to be coalesced. -/
def sqDispatched (q : StoQueue) : Nat :=
  (q.cmds.filter (fun c => c.ph != .waiting)).length + q.coal.length + q.sent.length

def tfQueues (s : State) (tf : Nat) : Tab StoQueue := s.sto.queues.filter (fun p => p.1 / 64 == tf)

/-- The rights of a tenant function on a namespace: none when not attached, true for read-write (R202). -/
def nsAttach (s : State) (v tf : Nat) : Option Bool :=
  (List.range 16).findSome? (fun i => (s.cfgRec? (itemId 9 1 5) v i).bind (fun b =>
    if leAt b 0 8 = tf then some (leAt b 8 8 == 1) else none))

/-- Live journal records of the namespaces of a tenant function: every one, its home write failed or not (R218, R236). -/
def tfRecords (s : State) (tf : Nat) : Nat :=
  s.sto.journals.foldl (fun n j => n + (j.2.recs.filter (fun r => (nsAttach s r.vns tf).isSome)).length) 0

/-- Items of a frozen tenant function that are captured: contexts, and commands not dispatched (R236, R237). -/
def captured (s : State) (tf : Nat) : Nat :=
  ((tfEndpoints s tf).map (fun e => (s.eht.ctxs.filter (fun c => c.dst == e)).length)).sum
    + (tfQueues s tf).foldl (fun n p => n + (p.2.cmds.filter (fun c => c.ph == .waiting)).length) 0

/-- The in-flight count of an object whose quiesce runs (R27). -/
def inFlight (s : State) (r : QRec) : QObj → Nat
  | .tf n =>
    if r.kind = 2 then
      (if r.abort then 0 else ((tfEndpoints s n).map (epInFlight s)).sum)
        + (tfQueues s n).foldl (fun a p => a + sqDispatched p.2) 0
        + runningBelow s (tfChild s n)
        + tfRecords s n
    else runningBelow s (tfChild s n)
  | .storageQueue f q => match tget? s.sto.queues (f * 64 + q) with
    | some x => sqInFlight x
    | none => 0
  | .tmQueue q => queueInFlight s q
  | .logicalPort n => portInFlight s n.val + runningBelow s (fun o => match o with
      | .tmQueue q => s.qsetPort (q / 8) == some n.val
      | _ => false)
  | .stall n => stallMsgs s n.val + (if r.abort then 0 else stallThreads s n.val)
  | .endpoint e => epInFlight s e.toNat

/-- Lanes of a logical port as bits (R47). -/
def laneMask (s : State) (lp : Nat) : Nat :=
  let n := 8 / modePorts (s.portMode (lp / 8))
  (2 ^ n - 1) * 2 ^ ((lp % 8) * n)

/-- A link goes down: the FEC lock of its lanes goes with it. -/
def dropLink (s : State) (lp : Nat) : State :=
  let s := s.onLp lp (fun p => { p with up := false, aligned := false, lostAt := none })
  s.onPp (lp / 8) (fun p => { p with fecLock := p.fecLock - (p.fecLock &&& laneMask s lp) })

/-- What the end of a quiesce does to the object itself. -/
def quiesceEffect (s : State) (o : QObj) (r : QRec) : State :=
  match o with
  | .logicalPort n => if r.linkDown then (dropLink s n.val).onLp n.val (fun p => { p with held := true }) else s
  | .storageQueue f q => { s with sto.queues := tset s.sto.queues (f * 64 + q)
                                    { (tget s.sto.queues (f * 64 + q) default) with st := .disabled } }
  | .stall n => { s with ido.stalls := tmod s.ido.stalls n.val {} (fun x => { x with st := .stopped }) }
  | .tf n => { s with tfs := tmod s.tfs n {} (fun x => { x with st := if r.kind = 2 then .frozen else .disabled, frozenAt := s.clk.up }) }
  | _ => s

/-- An endpoint destroyed: its slot freed, its generation incremented (R186, R227). -/
def freeEndpoint (s : State) (eid : Nat) : State :=
  match tget? s.eht.eps eid with
  | some e => { s with eht.eps := tdel s.eht.eps eid
                       eht.epGens := tset s.eht.epGens e.slotNo ((tget s.eht.epGens e.slotNo 0 + 1) % 65536) }
  | none => s

/-- The items of a child counted against the disable of its tenant function (R30, R234). -/
def countChild (s : State) (o : QObj) (r : QRec) : State :=
  { s with qs := s.qs.map (fun p => match p.1 with
      | .tf n => if p.2.kind = 1 ∧ !p.2.done ∧ tfChild s n o then
          (p.1, { p.2 with drained := p.2.drained + r.drained, aborted := p.2.aborted + r.aborted }) else p
      | _ => p) }

/-- The end of a completed quiesce: the object's chapter, then the event of R29. -/
def finishQuiesce (s : State) (o : QObj) (r : QRec) : State :=
  let r := match o with
    | .tf n => if r.kind = 2 then { r with aborted := r.aborted + captured s n } else r
    | _ => r
  let s := quiesceEffect (countChild s o r) o r
  let s := match o with
    | .tf _ => s.qDel o
    | .endpoint e => if r.destroy then freeEndpoint (s.qDel o) e.toNat else s.qSet o { r with done := true }
    | _ => s.qSet o { r with done := true }
  raise s 0x0102 (qObjNumber o)
    (encN r.kind ++ encN (qObjNumber o) ++ encN r.drained ++ encN r.aborted ++ encN (s.clk.up - r.start))

/-- A running quiesce completes when its in-flight count is zero (R26). -/
def tryFinish (s : State) (o : QObj) : State :=
  match s.q? o with
  | some r => if !r.done && inFlight s r o == 0 then finishQuiesce s o r else s
  | none => s

/-- An object whose quiesce may wait for that of another (R30). -/
def isParent : QObj → Bool
  | .tf _ => true
  | .logicalPort _ => true
  | _ => false

/-- Every running quiesce whose work is done completes, children first. -/
def completeQuiesces (s : State) : State :=
  let s := (s.qs.map Prod.fst).foldl (fun s o => if isParent o then s else tryFinish s o) s
  (s.qs.map Prod.fst).foldl (fun s o => if isParent o then tryFinish s o else s) s

/-! ### Event messages -/

/-- The 96 bytes of a record (R359). -/
def Event.bytes (e : Event) (gap : Bool) : Bytes :=
  leBytes 8 e.seq ++ leBytes 2 e.code ++ leBytes 2 (if gap || e.gap then 1 else 0) ++ leBytes 4 e.object
    ++ leBytes 10 e.time ++ List.replicate 6 0 ++ padTo 64 e.data

/-- The records a subscriber waits for, at most 42. -/
def pendingFor (s : State) (u : Subscriber) : List Event :=
  (s.mbx.log.filter (fun e => seqFrom e.seq u.next && u.mask.getLsbD (evGroup e.code))).take 42

/-- The bytes of a list of records, GAP in the first where records were lost. -/
def recordBytes : Bool → List Event → Bytes
  | _, [] => []
  | g, e :: es => e.bytes g ++ recordBytes false es

/-- A message of the mailbox endpoint to a peer: an uncredited SEND in the control class (R334). -/
def mailboxMsg (s : State) (eid gen ip mac lp : Nat) (payload : Bytes) (owner : MsgOwner) : OutMsg :=
  { ep := mailboxEid s, srcGen := 0, msgId := 0, book := none, dstEid := eid, dstGen := gen, dstIp := ip, dstMac := mac
    lp := lp, op := 1, seg := 2, rkey := 0, addr := 0, payload := payload, express := false
    cls := controlClass s false, owner := owner, state := .sending }

/-- The Clerk's message to one subscriber, when none is open and none waits to be resent. -/
def pumpSub (s : State) (n : Nat) : State :=
  match tget? s.mbx.subs n with
  | none => s
  | some u =>
    if u.open_.isSome || u.retryAt.isSome then s
    else match (pendingFor s u).getLast? with
      | none => s
      | some last =>
        let m := mailboxMsg s u.eid.toNat u.gen.toNat u.ip.toNat u.mac.toNat u.lp.val (recordBytes u.gap (pendingFor s u)) (.event n)
        let r := submit s m
        { r.1 with mbx.subs := tset r.1.mbx.subs n { u with open_ := some (last.seq, r.2) } }

def pumpEvents (s : State) : State := if s.tsl.restart.isSome then s else s.mbx.subs.foldl (fun s p => pumpSub s p.1) s

/-! ### The end of a command -/

/-- What follows every command that may raise an event or end a quiesce. -/
def settle (s : State) : State := pumpEvents (completeQuiesces s)

/-- A command at an instant: the clock is brought there, the effect follows, then what it lets happen. -/
def act (t : Nat) (s : State) (f : State → State) : Host.Outcome State Fault Refusal :=
  .next (settle (f (s.advance t)))

end Sys2Proof.Machine
end

