-- ==== Sys2Proof/Machine/Mbx.lean ====
section
/-! DEFINITION. The mailbox transports (14, R331 to R340): arrival of requests, the command queue, stored
responses, captures, the sideband window. -/

namespace Sys2Proof.Machine

/-! ### Status codes (R339) -/
def mbxOk : Nat := 0
def mbxBusy : Nat := 1
def mbxInvalid : Nat := 2
def mbxState : Nat := 3
def mbxAuth : Nat := 4
def mbxNospace : Nat := 5
def mbxTimeout : Nat := 6
def mbxVerify : Nat := 7

/-- The Clerk executes commands: stage 1 has passed the verdict and no Clerk restart runs (R367, R400, R431). -/
def clerkUp (s : State) : Bool :=
  s.tsl.restart.isNone && (match s.phase with
    | .starting => s.boot.gate
    | .running => s.boot.gate
    | .clockFail _ => s.boot.booted.isSome
    | _ => false)

/-- It serves a transport: the sideband from step 5 of R367, in band from step 7. -/
def clerkServes (s : State) (p : Peer) : Bool := clerkUp s && (p.via == .sideband || s.boot.inband)

/-- Commands of each group (R340; groups 0x0D to 0x0F by their own tables). -/
def groupSize (g : Nat) : Nat := [0, 4, 8, 3, 8, 2, 6, 4, 6, 6, 15, 10, 10, 9, 5, 6].getD g 0

/-- An assigned command code. -/
def knownCode (c : Nat) : Bool := decide (1 ≤ c % 256) && decide (c % 256 ≤ groupSize (c / 256))

/-- The sender list admits a request (R333): an empty list, management-only mode and the sideband do. -/
def senderOk (s : State) (p : Peer) : Bool :=
  let ranges := s.cfg.recs.filter (fun r => keyItem r.1 == itemId 2 1 2)
  p.via == .sideband || s.port.mgmtOnly || ranges.isEmpty
    || ranges.any (fun r => decide (leAt r.2 0 8 ≤ p.srcEid.toNat) && decide (p.srcEid.toNat < leAt r.2 0 8 + leAt r.2 8 8))

/-! ### Responses (R334, R336, R338) -/

/-- The bytes of a response. -/
def Rsp.bytes (r : Rsp) (replayed : Bool) : Bytes :=
  beBytes 2 0x4D52 ++ beBytes 2 0x0302 ++ beBytes 2 r.code.toNat
    ++ beBytes 2 ((if r.more then 1 else 0) + (if replayed then 2 else 0)) ++ beBytes 4 r.tag.toNat ++ beBytes 4 r.body.length
    ++ beBytes 8 r.cursor ++ beBytes 2 r.status ++ beBytes 2 r.detail ++ beBytes 4 r.arg ++ r.body

/-- The key under which a response is stored (R334). -/
def sameKey (p q : Peer) (tag tag' : Word32) : Bool :=
  p.via == q.via && tag == tag' && (p.via == .sideband || p.srcEid == q.srcEid)

/-- A response on its way to a peer; the number of its message in band. -/
def sendRsp (s : State) (p : Peer) (r : Rsp) (replayed : Bool) : State × Option Nat :=
  match p.via with
  | .sideband => ({ s with mbx.sbRsp := some (r.bytes replayed) }, none)
  | .inband =>
    let x := submit s (mailboxMsg s p.srcEid.toNat p.srcGen.toNat p.srcIp.toNat p.srcMac.toNat p.lp.val (r.bytes replayed) (.response p r.tag))
    (x.1, some x.2)

/-- A response stored, the last 256 kept, and sent. -/
def respond (s : State) (r : Rsp) : State × Option Nat :=
  let old := s.mbx.rsps.filter (fun x => !sameKey x.peer r.peer x.tag r.tag)
  sendRsp { s with mbx.rsps := (old ++ [r]).drop (old.length + 1 - 256) } r.peer r false

/-- A response of a status alone. -/
def answerStatus (s : State) (p : Peer) (code : Word16) (tag : Word32) (status : Nat) : State :=
  (respond s { peer := p, code := code, tag := tag, status := status, detail := 0, arg := 0, more := false, cursor := 0, body := [] }).1

/-- The capture least recently used dropped when 16 stand (R338). -/
def dropCapture (s : State) : State :=
  if s.mbx.captures.length < 16 then s
  else
    match s.mbx.captures.foldl (fun (b : Option (Nat × Nat)) c => match b with
        | none => some (c.1, c.2.used)
        | some (k, u) => if c.2.used < u then some (c.1, c.2.used) else some (k, u)) none with
    | some (k, _) => { s with mbx.captures := tdel s.mbx.captures k }
    | none => s

/-- A whole result answered: at once, or its first part with a capture (R338; the cursor is the capture's
number and the offset, log 21). -/
def answerBody (s : State) (r : Req) (out : Bytes) : State × Option Nat :=
  let base : Rsp := { peer := r.peer, code := r.code, tag := r.tag, status := 0, detail := 0, arg := 0, more := false, cursor := 0, body := out }
  if out.length ≤ 4064 then respond s base
  else
    let s := dropCapture s
    let k := s.mbx.nextCapture
    let s := { s with mbx.nextCapture := k + 1
                      mbx.captures := tset s.mbx.captures k { code := r.code, bytes := out, used := s.clk.up } }
    respond s { base with more := true, cursor := k * 2 ^ 32 + 4064, body := out.take 4064 }

/-! ### Arrival (R333, R336, R337) -/

/-- A mailbox receive-ring slot freed (R332). -/
def freeMbxSlot (s : State) (slot : Option Nat) : State :=
  match slot, tget? s.eht.eps wellKnownEid with
  | some n, some e => { s with eht.eps := tset s.eht.eps wellKnownEid { e with slotsUsed := e.slotsUsed.filter (· != n) } }
  | _, _ => s

/-- Header faults that are answered with MBX_E_INVALID (R336). -/
def headerFault (b : Bytes) : Bool :=
  !zeroAt b 0x18 8 || decide (1 < beAt b 6 2) || beAt b 2 1 != 3 || beAt b 0x0C 4 != b.length - 32

/-- The request that a header and its body spell. -/
def parseReq (p : Peer) (b : Bytes) : Req :=
  { peer := p, code := BitVec.ofNat 16 (beAt b 4 2), tag := BitVec.ofNat 32 (beAt b 8 4)
    cursor := BitVec.ofNat 64 (beAt b 0x10 8), body := b.drop 32 }

/-- A request of good header joins the queue, or is answered: a sender out of the list, an unassigned code. -/
def queueReq (s : State) (r : Req) (replay : Bool) (slot : Option Nat) : State :=
  if !senderOk s r.peer then
    freeMbxSlot (answerStatus (countErr s (clerkBase + 0x44)) r.peer r.code r.tag mbxAuth) slot
  else if !replay && r.cursor == 0 && !knownCode r.code.toNat then freeMbxSlot (answerStatus s r.peer r.code r.tag mbxInvalid) slot
  else { s with mbx.queue := s.mbx.queue ++ [{ req := r, arrived := s.clk.up, replay := replay, slot := slot }] }

/-- An in-band request has arrived whole. -/
def mbxArrive (s : State) (p : Peer) (b : Bytes) (slot : Option Nat) : State :=
  if b.length < 32 ∨ beAt b 0 2 ≠ 0x4D51 then freeMbxSlot (countErr s (clerkBase + 0x54)) slot
  else
    let r := parseReq p b
    if headerFault b then freeMbxSlot (answerStatus s p r.code r.tag mbxInvalid) slot
    else queueReq s r (beAt b 6 2 == 1) slot

/-! ### Serving -/

/-- What a command returns. -/
structure Res where
  st : State
  status : Nat := 0
  detail : Nat := 0
  arg : Nat := 0
  out : Bytes := []

def fails (s : State) (status : Nat) : Res := { st := s, status := status }
def failsAt (s : State) (status arg : Nat) : Res := { st := s, status := status, arg := arg }
def done (s : State) : Res := { st := s }
def gives (s : State) (out : Bytes) : Res := { st := s, out := out }

/-- The request taken from the queue: at its head, or with the queue empty on its own; the slot it holds. -/
def takeReq (s : State) (r : Req) (replay : Bool) : Option (State × Option Nat) :=
  match s.mbx.queue with
  | [] => if senderOk s r.peer then some (s, none) else none
  | x :: rest => if x.req = r ∧ x.replay = replay then some ({ s with mbx.queue := rest }, x.slot) else none

/-- The response to a command. -/
def answer (r : Req) (x : Res) : State × Option Nat :=
  if x.status = 0 ∧ x.out ≠ [] then answerBody x.st r x.out
  else respond x.st { peer := r.peer, code := r.code, tag := r.tag, status := x.status, detail := x.detail, arg := x.arg
                      more := false, cursor := 0, body := x.out }

/-- The command at the head of the queue was not started within 1 s of its arrival (R337). -/
def headLate (s : State) : Bool :=
  match s.mbx.queue with
  | x :: _ => decide (x.arrived + nsPerSec < s.clk.up)
  | [] => false

/-- The head of the queue completed with MBX_E_TIMEOUT, without effect and counted (R337). -/
def timeOutHead (s : State) : State :=
  match s.mbx.queue with
  | x :: rest =>
    freeMbxSlot (answerStatus (countErr { s with mbx.queue := rest } (clerkBase + 0x50)) x.req.peer x.req.code x.req.tag mbxTimeout) x.slot
  | [] => s

/-- Command `code` executed for a request: its effect, CMDS, its response, its slot freed. One that waited over 1 s has timed
out instead (R337). -/
def serveCmd (r : Req) (code : Nat) (h : State → Req → Res) (after : State → Option Nat → State) (s : State) : State :=
  if !clerkServes s r.peer || r.code.toNat != code || r.cursor != 0 then s
  else if headLate s then timeOutHead s
  else match takeReq s r false with
    | none => s
    | some (s, slot) =>
      let x := h s r
      let y := answer r { x with st := countStat x.st (clerkBase + 0x100) 1 }
      after (freeMbxSlot y.1 slot) y.2

/-- A mailbox command at an instant. -/
def serve (t : Nat) (r : Req) (code : Nat) (h : State → Req → Res) (s : State) : Host.Outcome State Fault Refusal :=
  act t s (serveCmd r code h (fun s _ => s))

/-! ### Parameters (R338, R355): numbers of 8 bytes in order -/

/-- Parameter number `i` of a body of numbers. -/
def num (r : Req) (i : Nat) : Nat := leAt r.body (8 * i) 8

/-- The body is exactly `n` bytes. -/
def bodyIs (r : Req) (n : Nat) : Bool := r.body.length == n

/-- A command whose body is `n` bytes, and malformed otherwise. -/
def sized (n : Nat) (h : State → Req → Res) (s : State) (r : Req) : Res :=
  if bodyIs r n then h s r else fails s mbxInvalid

/-! ### The commands of the transport -/

/-- MBX_REQUEST: an in-band request arrives whole; the ring's lowest free slot holds it (R332, R336). -/
def execMbxRequest (t : Nat) (p : Peer) (b : Bytes) (s : State) :=
  act t s (fun s => if clerkServes s p ∧ p.via = .inband then
    match tget? s.eht.eps wellKnownEid with
    | some e =>
      match (List.range 16).find? (fun n => !e.slotsUsed.contains n) with
      | some n => mbxArrive { s with eht.eps := tset s.eht.eps wellKnownEid { e with slotsUsed := n :: e.slotsUsed } } p b (some n)
      | none => s
    | none => s
  else s)

/-- REPLAY (R334). -/
def execReplay (t : Nat) (r : Req) (s : State) :=
  act t s (fun s =>
    if !clerkServes s r.peer then s
    else if headLate s then timeOutHead s
    else match takeReq s r true with
      | none => s
      | some (s, slot) =>
        let s := match s.mbx.rsps.find? (fun x => sameKey x.peer r.peer x.tag r.tag) with
          | some x => (sendRsp s r.peer x true).1
          | none => answerStatus s r.peer r.code r.tag mbxState
        freeMbxSlot s slot)

/-- The part of a capture that a cursor names (R338). -/
def resultPart (s : State) (r : Req) : State :=
  let k := r.cursor.toNat / 2 ^ 32
  let off := r.cursor.toNat % 2 ^ 32
  match tget? s.mbx.captures k with
  | none => answerStatus s r.peer r.code r.tag mbxState
  | some c =>
    if c.bytes.length ≤ off ∨ c.code ≠ r.code then answerStatus s r.peer r.code r.tag mbxState
    else
      let part := (c.bytes.drop off).take 4064
      let more := decide (off + 4064 < c.bytes.length)
      let s := { s with mbx.captures := if more then tset s.mbx.captures k { c with used := s.clk.up } else tdel s.mbx.captures k }
      (respond s { peer := r.peer, code := r.code, tag := r.tag, status := 0, detail := 0, arg := 0, more := more
                   cursor := if more then k * 2 ^ 32 + off + 4064 else 0, body := part }).1

def execResultPart (t : Nat) (r : Req) (s : State) :=
  act t s (fun s =>
    if !clerkServes s r.peer || r.cursor == 0 then s
    else if headLate s then timeOutHead s
    else match takeReq s r false with
      | none => s
      | some (s, slot) => freeMbxSlot (resultPart s r) slot)

/-- CMD_TIMEOUT (R337). -/
def execCmdTimeout (t : Nat) (s : State) :=
  act t s (fun s =>
    match s.mbx.queue with
    | x :: _ => if x.arrived + nsPerSec ≤ s.clk.up then timeOutHead s else s
    | [] => s)

/-- CAPTURE_RELEASE (R338). -/
def execCaptureRelease (t : Nat) (id : Nat) (s : State) :=
  act t s (fun s =>
    match tget? s.mbx.captures id with
    | some c => if c.used + 60 * nsPerSec ≤ s.clk.up then { s with mbx.captures := tdel s.mbx.captures id } else s
    | none => s)

/-! ### The sideband window (R335) -/

/-- The sideband's peer. -/
def sbPeer : Peer := { via := .sideband, srcEid := 0, srcGen := 0, srcIp := 0, srcMac := 0, lp := 0 }

/-- A sideband request is queued. -/
def sbBusy (s : State) : Bool := s.mbx.queue.any (fun x => x.req.peer.via == .sideband)

/-- The record SB_EVT shows. -/
def sbEvent (s : State) : Option Event := s.mbx.log.find? (fun e => seqFrom e.seq s.mbx.sbEvt)

/-- The 96 bytes of SB_EVT. -/
def sbEvtBytes (s : State) : Bytes :=
  match sbEvent s with
  | some e => e.bytes s.mbx.sbGap
  | none => List.replicate 96 0

/-- SB_STATUS. -/
def sbStatus (s : State) : Nat :=
  (if sbBusy s then 1 else 0) + (if s.mbx.sbRsp.isSome then 2 else 0) + (if (sbEvent s).isSome then 4 else 0)
    + (if s.mbx.sbErr then 8 else 0) + (if s.mbx.dynAddr.isSome then 16 else 0)

/-- SMB_ALERT_N is held low: SMBus mode with an event or a response pending. -/
def smbAlert (s : State) : Bool := clerkUp s && s.mbx.dynAddr.isNone && (s.mbx.sbRsp.isSome || (sbEvent s).isSome)

/-- GO. -/
def execGo (t : Nat) (s : State) :=
  act t s (fun s =>
    if !clerkUp s then s
    else
      let b := s.mbx.sbReq
      if sbBusy s || s.mbx.sbRsp.isSome || decide (b.length < 32) || beAt b 0 2 != 0x4D51 || headerFault b then
        { s with mbx.sbErr := true }
      else queueReq { s with mbx.sbErr := false, mbx.sbReq := [] } (parseReq sbPeer b) (beAt b 6 2 == 1) none)

def execCancel (t : Nat) (s : State) := act t s (fun s => { s with mbx.sbReq := [] })
def execRspAck (t : Nat) (s : State) := act t s (fun s => { s with mbx.sbRsp := none })

def execEvtAck (t : Nat) (s : State) :=
  act t s (fun s =>
    match sbEvent s with
    | some e => { s with mbx.sbEvt := seqNext e.seq, mbx.sbGap := false }
    | none => s)

/-- SB_PTR before a byte of SB_DATA moves: what the transfer wrote at offset 0x08 since the byte before, or where it stood. -/
def sbPtrAt (s : State) (ptr : Option Word32) : Nat := (ptr.map BitVec.toNat).getD s.mbx.sbPtr

/-- SB_DATA written: a byte stored at SB_PTR; the buffer holds 65,536. -/
def execSbDataWrite (t : Nat) (b : SbByte) (s : State) :=
  act t s (fun s =>
    let p := sbPtrAt s b.ptr
    let q := if p < 65536 then patch (padTo (max s.mbx.sbReq.length (p + 1)) s.mbx.sbReq) p [b.value] else s.mbx.sbReq
    { s with mbx.sbReq := q, mbx.sbPtr := (p + 1) % 2 ^ 32 })

/-- SB_DATA read: SB_PTR advances. -/
def execSbDataRead (r : SbRead) (s : State) :=
  act r.instant s (fun s => { s with mbx.sbPtr := (sbPtrAt s r.ptr + 1) % 2 ^ 32 })

/-- The byte that a read of SB_DATA returns. -/
def sbDataByte (s : State) : Byte := byteAt (s.mbx.sbRsp.getD []) s.mbx.sbPtr

def execEntdaa (t : Nat) (a : BitVec 7) (s : State) := act t s (fun s => { s with mbx.dynAddr := some a })
def execSetdasa (t : Nat) (a : BitVec 7) (s : State) := act t s (fun s => { s with mbx.dynAddr := some a })

end Sys2Proof.Machine
end

