-- ==== Sys2Proof/Machine/Idori.lean ====
section
/-! DEFINITION. Idori Stalls (10): threads, memory windows, channels, ports, the fault endpoint, the
quiet detector, the start of cores. -/

namespace Sys2Proof.Machine

/-! ### Accessors -/

def State.stall (s : State) (n : Nat) : Stall := tget s.ido.stalls n {}
def State.onStall (s : State) (n : Nat) (f : Stall → Stall) : State :=
  { s with ido.stalls := tmod s.ido.stalls n {} f }
def State.role (s : State) (st r : Nat) : CoreRole := tget (s.stall st).cores r {}
def State.onRole (s : State) (st r : Nat) (f : CoreRole → CoreRole) : State :=
  s.onStall st (fun x => { x with cores := tmod x.cores r {} f })
def State.thrAt (s : State) (st r t : Nat) : Thread := tget (s.role st r).threads t {}
def State.onThrAt (s : State) (st r t : Nat) (f : Thread → Thread) : State :=
  s.onRole st r (fun c => { c with threads := tmod c.threads t {} f })
def State.thr (s : State) (i : Tid) : Thread := s.thrAt i.stall.val i.role.val i.thread.val
def State.onThr (s : State) (i : Tid) (f : Thread → Thread) : State := s.onThrAt i.stall.val i.role.val i.thread.val f
def State.chan (s : State) (c : Nat) : Chan := tget s.ido.chans c {}
def State.onChan (s : State) (c : Nat) (f : Chan → Chan) : State := { s with ido.chans := tmod s.ido.chans c {} f }

/-- Source identity of a thread (R259). -/
def srcId (i : Tid) : Nat := i.stall.val * 128 + i.role.val * 8 + i.thread.val

/-- OBJECT of a core's events (R359): Stall × 16 + role. -/
def coreObj (st r : Nat) : Nat := st * 16 + r

/-- General register `r`: g0 reads 0 (R278). -/
def Thread.reg (t : Thread) (r : Reg) : Word64 := if r = 0#5 then 0 else t.g[r.toNat]

/-- A write to general register `r`: g0 discards it (R278). -/
def Thread.setReg (t : Thread) (r : Reg) (v : Word64) : Thread :=
  if r = 0#5 then t else { t with g := t.g.set r.toNat v }

def State.greg (s : State) (i : Tid) (r : Reg) : Word64 := (s.thr i).reg r
def State.setReg (s : State) (i : Tid) (r : Reg) (v : Word64) : State := s.onThr i (·.setReg r v)

/-- s0.CS (R279, R299). -/
def State.setCs (s : State) (i : Tid) (c : Nat) : State := s.onThr i (fun t => { t with cs := c })

def csOk : Nat := 0
def csFull : Nat := 1
def csWake : Nat := 2
def csBlocked : Nat := 3
def csState : Nat := 4
def csInvalid : Nat := 5
def csEmpty : Nat := 6

/-- Core clocks of a number of nanoseconds: 2.4 GHz (R317). -/
def coreClocks (ns : Nat) : Nat := ns * 12 / 5

/-! ### Configuration (R249) -/

def chanCap (s : State) (c : Nat) : Nat := s.cfgN (itemId 0xB 1 5) c 0 0
def chanOwner (s : State) (c : Nat) : Nat := s.cfgN (itemId 0xB 1 6) c 0 0
def quietThreshold (s : State) (st : Nat) : Nat := s.cfgN (itemId 0xB 1 2) st 0 65536
def autostart (s : State) (st : Nat) : Bool := s.cfgN (itemId 0xB 1 1) st 0 1 == 1

/-! ### Counters of a Stall (R276) -/
def stErr (st k : Nat) : Nat := stallBase st + 0x40 + 4 * k
def stStat (st k : Nat) : Nat := stallBase st + 0x100 + 8 * k

/-! ### The quiet detector (R266) -/

def CoreRole.anyStopped (c : CoreRole) : Bool := c.threads.any (fun t => t.2.enable && t.2.st == .stopped)

/-- Clocks counted at an instant: the detector holds while a thread is STOPPED. -/
def CoreRole.quietCount (c : CoreRole) (up : Nat) : Nat :=
  if c.anyStopped then c.quietAcc else c.quietAcc + coreClocks (up - c.quietFrom)

/-- The count so far kept, before a thread enters or leaves STOPPED. -/
def quietKeep (s : State) (st r : Nat) : State :=
  s.onRole st r (fun c => { c with quietAcc := c.quietCount s.clk.up, quietFrom := s.clk.up })

/-- The detector reset; the Stall may report again once a bit has cleared (R267). -/
def quietReset (s : State) (st r : Nat) : State :=
  let was := (s.role st r).quietFired
  let s := s.onRole st r (fun c => { c with quietAcc := 0, quietFrom := s.clk.up, quietFired := false })
  if was then s.onStall st (fun x => { x with quietTold := false }) else s

/-! ### Memory windows (R280, R320, R323) -/

def roundUp (n m : Nat) : Nat := (n + m - 1) / m * m

/-- The table area of Market memory (R320), with R98's units of 32 bytes. -/
def tableArea (s : State) : Nat :=
  roundUp ((List.range 16).foldl (fun n t =>
    n + if tblMode s t = 0 then 0 else tblBuckets s t 0 * 4 * tblUnits s t * 32) 0) 65536

def poolBase (s : State) : Nat := marketBase + tableArea s

/-- The tenant share of Market memory: first address and the one after the last. -/
def marketShare (s : State) : Nat × Nat := (poolBase s + poolSize s, marketBase + 0x3600000)

/-- HBM after the device area (R323): queue slots, at 4 KiB for each command of the depth quotas (log 19). -/
def sqSlotsBase : Nat := hbmBase + 0x80000000
def sqSlotsSize (s : State) : Nat :=
  roundUp ((s.cfg.recs.filter (fun p => keyItem p.1 == itemId 0xA 1 5)).foldl (fun n p => n + leAt p.2 0 8 * 4096) 0) 0x200000
def cacheSize (s : State) : Nat := s.cfgN (itemId 9 2 6) 0 0 (8 * 2 ^ 30)
def hbmShare (s : State) : Nat × Nat :=
  (sqSlotsBase + sqSlotsSize s + roundUp (cacheSize s) 0x200000, hbmBase + 22888 * 0x200000)

def inRange (r : Nat × Nat) (a n : Nat) : Bool := decide (r.1 ≤ a) && decide (a + n ≤ r.2)

def State.tf (s : State) (n : Nat) : Tf := tget s.tfs n {}
def State.onTf (s : State) (n : Nat) (f : Tf → Tf) : State := { s with tfs := tmod s.tfs n {} f }

/-- A range lies in a packet buffer that a tenant function holds (R322). -/
def inHeldBuf (s : State) (tf a n : Nat) : Bool :=
  s.mem.bufs.any (fun p => p.2.tf == tf && decide (p.1 ≤ a) && decide (a + n ≤ p.1 + cells p.2.cap * 256))

/-- Market and HBM memory that a tenant function may use (R280). -/
def tfMarket (s : State) (tf a n : Nat) : Bool :=
  if tf = 0 then inRange (marketShare s) a n else inRange ((s.tf tf).mkt.1, (s.tf tf).mkt.1 + (s.tf tf).mkt.2) a n
def tfHbm (s : State) (tf a n : Nat) : Bool :=
  if tf = 0 then inRange (hbmShare s) a n else inRange ((s.tf tf).hbm.1, (s.tf tf).hbm.1 + (s.tf tf).hbm.2) a n

/-- The scratch and Stall-memory windows, where a thread may fetch. -/
def localWindow (i : Tid) (a n : Nat) : Option Nat :=
  if a + n ≤ 0x20000 then some (scratchBase i.stall.val i.role.val + a)
  else if 0x10000000 ≤ a ∧ a + n ≤ 0x10300000 then some (stallMemBase i.stall.val + (a - 0x10000000))
  else none

/-- Where `n` bytes at a thread address stand, if the thread may load and store there (R280). -/
def window (s : State) (i : Tid) (a n : Nat) : Option Nat :=
  match localWindow i a n with
  | some x => some x
  | none =>
    let tf := (s.thr i).tf
    if inMarket a n then (if tfMarket s tf a n || inHeldBuf s tf a n then some a else none)
    else if inHbm a n then (if tfHbm s tf a n then some a else none)
    else none

/-! ### The fault endpoint (R263 to R265) -/

/-- Words of a string, the lowest offset in bits [7:0] (R292). -/
def wordsOf : Nat → Bytes → List Word64
  | 0, _ => []
  | n + 1, b => BitVec.ofNat 64 (leAt b 0 8) :: wordsOf n (b.drop 8)

/-- The 40 bytes of a fault-endpoint message. -/
def faultBytes (s : State) (kind thread code pc info : Nat) : Bytes :=
  leBytes 1 kind ++ leBytes 1 thread ++ leBytes 2 code ++ leBytes 4 0 ++ leBytes 8 pc ++ leBytes 8 info
    ++ leBytes 10 (time80 s.ns) ++ List.replicate 6 0

/-- The pc moved on, and what a thread that reaches a breakpoint does (R268). -/
def reach (s : State) (i : Tid) : State :=
  let t := s.thr i
  if t.st == .ready && (s.role i.stall.val i.role.val).bps.any (fun b => b.2 == t.pc) then
    let s := quietKeep s i.stall.val i.role.val
    pumpEvents (raise (s.onThr i (fun t => { t with st := .stopped, prev := .ready })) 0x0B05
      (coreObj i.stall.val i.role.val) (encN i.thread.val ++ encN t.pc.toNat))
  else s

def State.setPc (s : State) (i : Tid) (pc : Word64) : State := reach (s.onThr i (fun t => { t with pc := pc })) i

/-- An instruction that falls through. -/
def retire (s : State) (i : Tid) : State := s.setPc i ((s.thr i).pc + 4)

/-- A blocked read that ends with a value and a status. -/
def endRead (s : State) (i : Tid) (v : Word64) (cs : Nat) : State :=
  match (s.thr i).wait with
  | none => s
  | some (_, rd) =>
    let s := s.onThr i (fun t => { (t.setReg (BitVec.ofNat 5 rd) v) with cs := cs, st := .ready, wait := none })
    retire s i

/-- R265: t0's blocked read of anything but the fault endpoint ends. -/
def wakeSupervisor (s : State) (st r : Nat) : State :=
  let i : Tid := { stall := Fin.ofNat 12 st, role := Fin.ofNat 16 r, thread := 0 }
  match (s.thr i).st, (s.thr i).wait with
  | .blocked, some (w, _) => if w = .chan 63 then s else endRead s i 0 csWake
  | _, _ => s

/-- The messages of a fault endpoint that a new one leaves unread: a thread has one FAULT or KILLED there at a time (R263; log 76). -/
def CoreRole.faultsBut (c : CoreRole) (kind thread : Nat) : List FaultMsg :=
  let n := if c.faultPos = 0 then 0 else 1
  c.faults.take n ++ (c.faults.drop n).filter (fun m => !(kind % 2 == 1 && m.kind % 2 == 1 && m.thread == thread))

/-- A message for the fault endpoint of a role (R263, R264). -/
def postFault (s : State) (st r kind thread code pc info : Nat) : State :=
  let b := faultBytes s kind thread code pc info
  let t0 := (s.thrAt st r 0).st
  if t0 = .faulted ∨ t0 = .killed then raise s 0x0B03 (coreObj st r) b
  else if kind = 2 ∧ (s.role st r).faults.any (fun m => m.kind == 2) then s
  else
    let s := s.onRole st r (fun c => { c with faults := c.faultsBut kind thread ++ [{ kind := kind, thread := thread, words := wordsOf 5 b }] })
    let s := if kind = 2 then s else quietReset s st r
    wakeSupervisor s st r

/-- A faulting instruction (R264, R300). -/
def faultThread (s : State) (i : Tid) (code info : Nat) : State :=
  let pc := (s.thr i).pc.toNat
  let s := if (s.thr i).st == .stopped then quietKeep s i.stall.val i.role.val else s
  let s := countErr (s.onThr i (fun t => { t with st := .faulted })) (stErr i.stall.val 0)
  settle (if i.thread = 0 then
      raise s 0x0B03 (coreObj i.stall.val i.role.val) (faultBytes s 1 0 code pc info)
    else postFault s i.stall.val i.role.val 1 i.thread.val code pc info)

def idoIllegal : Nat := 0x0A01
def idoPriv : Nat := 0x0A02
def idoFetch : Nat := 0x0A03
def idoAddr : Nat := 0x0A04
def idoAlign : Nat := 0x0A05
def idoEcc : Nat := 0x0A06
def idoAtomic : Nat := 0x0A07
def idoEp : Nat := 0x0A08
def idoMsgLong : Nat := 0x0A09
def idoChanStopped : Nat := 0x0A0A
def idoBuf : Nat := 0x0A0B

/-! ### Channels (R256 to R261) -/

/-- The reader of a channel: role, endpoint, thread. -/
def readerOf (s : State) (c : Nat) : Option (Nat × Nat × Nat) :=
  (s.stall (c / 1024)).cores.findSome? (fun r =>
    if r.2.phys.isNone then none
    else (r.2.eps.find? (fun e => e.2.mode == 1 && e.2.chan == c)).map (fun e => (r.1, e.1, e.2.thread)))

def Chan.used (c : Chan) : Nat := c.msgs.foldl (fun n m => n + m.words.length) c.reserved

/-- Free words of a ring. -/
def chanRoom (s : State) (c : Nat) : Nat := chanCap s c - (s.chan c).used

/-- A message appended to a ring: counted, and its reader's core hears of it. -/
def appendMsg (s : State) (c : Nat) (m : ChMsg) : State :=
  let st := c / 1024
  let s := s.onChan c (fun x => { x with msgs := x.msgs ++ [m] })
  let s := countStat (countStat s (stStat st 16) 1) (stStat st 17) m.words.length
  match readerOf s c with
  | some (r, _, _) => quietReset s st r
  | none => s

/-- A device block delivers to a channel (R261): none when the ring has no room, the Stall takes none
(R273), or the reader is gone (R274). -/
def deliver (s : State) (c src : Nat) (words : List Word64) (buf : Option Nat) : Option State :=
  if (s.stall (c / 1024)).st == .running && (readerOf s c).isSome && decide (words.length ≤ chanRoom s c) then
    some (appendMsg s c { src := src, words := words, buf := buf })
  else none

/-- A delivery that its channel cannot take (R261). -/
def chanDrop (s : State) (c : Nat) : State := countErr s (stErr (c / 1024) 2)

/-! ### Packet buffers delivered to channels -/

/-- The lowest free run of the pool for `cap` bytes, among the buffers that tenant functions hold (log 19). -/
def placeBuf (s : State) (cap : Nat) : Nat :=
  s.mem.bufs.foldl (fun a b => if a + cells cap * 256 ≤ b.1 then a else max a (b.1 + cells b.2.cap * 256)) (poolBase s)

/-- The six words of a frame delivery (R262). -/
def frameWords (len src cls tf result buf : Nat) (metas : List Nat) (tIn : Nat) : List Word64 :=
  wordsOf 6 (leBytes 2 len ++ [BitVec.ofNat 8 src, BitVec.ofNat 8 cls] ++ leBytes 2 tf ++ [BitVec.ofNat 8 result, 0] ++ leBytes 8 buf
    ++ padTo 16 (metas.flatMap (leBytes 2)) ++ leBytes 10 tIn ++ List.replicate 6 0)

def bufCap (s : State) (tf : Nat) : Nat := s.cfgN (itemId 0x10 1 4) tf 0 4096

/-- A buffer of `cap` bytes delivered by a writer to a channel under its tenant function's cap; CHAN_DROP without room. -/
def deliverBuf (s : State) (writer c src cls tf result cap len : Nat) (bytes : Bytes) (metas : List Nat) (tIn : Nat) : State :=
  let held := (s.mem.bufs.filter (fun b => b.2.tf == tf)).length
  if bufCap s tf ≤ held ∨ poolFree s < cells cap * 256 then chanDrop s c
  else
    let a := placeBuf s cap
    match deliver s c writer (frameWords len src cls tf result a metas tIn) (some a) with
    | none => chanDrop s c
    | some s =>
      let s := { s with mem.bufs := tset s.mem.bufs a { tf := tf, stall := c / 1024, cap := cap } }
      countStat (s.poke a bytes) (memBase + 0x108) 1

/-- One delivery of the Clerk's queue (R261): none while the ring has no room for it, or its Stall takes none; a channel that has lost
its reader drops it (R274). -/
def clerkDeliver (s : State) (c tf : Nat) : Option State :=
  if (readerOf s c).isNone then some (chanDrop s c)
  else if (s.stall (c / 1024)).st ≠ .running ∨ chanRoom s c < 6 then none
  else some (deliverBuf s 0x8003 c 0 0 tf 0 9216 0 [] [] 0)

/-- The Clerk's queue in order: the machine, and what waits on. -/
def clerkLoop : List (Nat × Nat) → State → State × List (Nat × Nat)
  | [], s => (s, [])
  | x :: rest, s =>
    match clerkDeliver s x.1 x.2 with
    | some s => clerkLoop rest s
    | none => let r := clerkLoop rest s; (r.1, x :: r.2)

def pumpClerk (s : State) : State :=
  if s.ido.clerkQ = [] then s
  else
    let r := clerkLoop s.ido.clerkQ s
    { r.1 with ido.clerkQ := r.2 }

/-- The message at the head leaves the ring; a Stall that quiesces counts it (R273). Its room may serve the Clerk's queue. -/
def popMsg (s : State) (c : Nat) : State :=
  pumpClerk ((s.onChan c (fun x => { x with msgs := x.msgs.drop 1, pos := 0 })).qCount (.stall (Fin.ofNat 12 (c / 1024))) 1 0)

/-- An endpoint bound to a thread in a mode (R290), endpoint 63 apart. -/
def boundEp (s : State) (i : Tid) (ep mode : Nat) : Option Nat :=
  match tget? (s.role i.stall.val i.role.val).eps ep with
  | some e => if e.mode = mode ∧ e.thread = i.thread.val then some e.chan else none
  | none => none

/-- The next word of a fault-endpoint read. -/
def readFaultWord (s : State) (i : Tid) : Option (Word64 × State) :=
  let c := s.role i.stall.val i.role.val
  match c.faults with
  | [] => none
  | m :: rest =>
    let p := c.faultPos
    let s := s.onRole i.stall.val i.role.val (fun c =>
      if p + 1 < 5 then { c with faultPos := p + 1 } else { c with faults := rest, faultPos := 0 })
    let s := s.onThr i (fun t =>
      if p = 0 then { t with len := 5, left := 4, src := 0x8004, srcEp := 63 }
      else if t.srcEp = 63 then { t with left := 5 - (p + 1) } else t)
    some (m.words.getD p 0, s)

/-- The next word of a channel read (R259, R292). -/
def readChanWord (s : State) (i : Tid) (ep c : Nat) : Option (Word64 × State) :=
  match (s.chan c).msgs with
  | [] => none
  | m :: _ =>
    let p := (s.chan c).pos
    let n := m.words.length
    let s := if p + 1 < n then s.onChan c (fun x => { x with pos := p + 1 }) else popMsg s c
    let s := s.onThr i (fun t =>
      if p = 0 then { t with len := n, left := n - 1, src := m.src, srcEp := ep }
      else if t.srcEp = ep then { t with left := n - (p + 1) } else t)
    some (m.words.getD p 0, s)

/-- A read endpoint of the thread, with its channel; 63 is t0's fault endpoint. -/
def readWord (s : State) (i : Tid) (ep : Nat) : Option (Word64 × State) :=
  if ep = 63 then readFaultWord s i
  else match boundEp s i ep 1 with
    | some c => readChanWord s i ep c
    | none => none

/-- A read endpoint holds a message, partly read or complete. -/
def holdsMsg (s : State) (i : Tid) (ep : Nat) : Bool :=
  if ep = 63 then i.thread == 0 && !(s.role i.stall.val i.role.val).faults.isEmpty
  else match boundEp s i ep 1 with
    | some c => !(s.chan c).msgs.isEmpty
    | none => false

/-- Endpoints that may stand in s4: read endpoints of the thread. -/
def mayRead (s : State) (i : Tid) (ep : Nat) : Bool :=
  if ep = 63 then i.thread == 0 else (boundEp s i ep 1).isSome

/-- A mask of the endpoints 0 to 63 that satisfy `p`. -/
def epMask (p : Nat → Bool) : Word64 :=
  BitVec.ofNat 64 ((List.range 64).foldl (fun n e => if p e then n + 2 ^ e else n) 0)

def State.stage (s : State) (i : Tid) (ep : Nat) : Stage := tget (s.role i.stall.val i.role.val).stages ep {}
def State.onStage (s : State) (i : Tid) (ep : Nat) (x : Stage) : State :=
  s.onRole i.stall.val i.role.val (fun c =>
    { c with stages := if x = {} then tdel c.stages ep else tset c.stages ep x })

/-- The time base as s5 and s7 show it. -/
def timeWord (ns : Nat) : Word64 := BitVec.ofNat 64 (ns / nsPerSec % 2 ^ 32 * 2 ^ 32 + ns % nsPerSec)

/-- The deadline of s5 has been reached (R293). -/
def timerReached (s : State) (d : Word64) : Bool :=
  let now := timeWord s.ns
  let a := now.toNat / 2 ^ 32
  let b := d.toNat / 2 ^ 32
  serialLater 32 a b || (a == b && decide (d.toNat % 2 ^ 32 ≤ now.toNat % 2 ^ 32))

/-- What a blocking read would return now (R260, R292, R293). -/
def tryRead (s : State) (i : Tid) : Wait → Option (Word64 × State)
  | .chan ep => readWord s i ep
  | .timer => if timerReached s (s.thr i).timer then some (BitVec.ofNat 64 (s.ns % nsPerSec), s) else none
  | .select =>
    let m := epMask (fun e => (s.thr i).sel.getLsbD e && holdsMsg s i e)
    if m = 0 then none else some (m, s)
  | .space ep =>
    match boundEp s i ep 2 with
    | none => none
    | some c =>
      let x := s.stage i ep
      if x.closed ∧ (chanRoom s c < x.words.length ∨ (readerOf s c).isNone) then none
      else some (BitVec.ofNat 64 (chanRoom s c), s)

/-- A blocking read issued: it returns, blocks, or, stepped, reports that it would (R271). -/
def blockRead (i : Tid) (w : Wait) (rd : Reg) (s : State) : State :=
  match tryRead s i w with
  | some (v, s) => settle (retire ((s.setReg i rd v).setCs i csOk) i)
  | none =>
    if (s.thr i).st = .stopped then s.setCs i csBlocked
    else settle (s.onThr i (fun t => { t with st := .blocked, wait := some (w, rd.toNat) }))

/-! ### Issue -/

/-- Teasel holds the role's core (R423). -/
def heldForTest (s : State) (st r : Nat) : Bool :=
  match s.tsl.cur, (s.role st r).phys with
  | some u, some p => u.unit == unitCore st p
  | _, _ => false

/-- Thread `i` may issue: the part runs, its Stall's clock does (R407), its core fills the role, and the thread is READY (R253). Which thread of a core issues in a
clock rests on R298's latencies: the rows give it (R254; log 13). -/
def canIssue (s : State) (i : Tid) : Bool :=
  s.phase == .running && !s.clk.stopped.contains i.stall.val && (s.stall i.stall.val).st != .stopped && (s.role i.stall.val i.role.val).phys.isSome
    && !(s.stall i.stall.val).owed.contains i.role.val && !heldForTest s i.stall.val i.role.val && (s.thr i).enable && (s.thr i).st == .ready

/-- ISSUED, and the quiet detector's reset. -/
def noteIssue (s : State) (i : Tid) : State :=
  quietReset (countStat s (stStat i.stall.val i.role.val) 1) i.stall.val i.role.val

/-- A read of a poisoned word counted (R326). -/
def poisonHit (s : State) : State := countErr s (memBase + 0x60)

/-- What the fetch at the pc faults with (R280, R282; log 76 for a pc that is not a multiple of 4). -/
def fetchFault (s : State) (i : Tid) : Option (Nat × State) :=
  match localWindow i (s.thr i).pc.toNat 4 with
  | none => some (idoFetch, s)
  | some a =>
    if (s.thr i).pc.toNat % 4 ≠ 0 then some (idoAlign, s)
    else if s.poisoned a 4 then some (idoEcc, poisonHit s) else none

/-- The word that a fetch at the pc finds: the thread's own stores are in it only from an IFENCE on (R283). -/
def State.fetched (s : State) (i : Tid) : Nat :=
  match localWindow i (s.thr i).pc.toNat 4 with
  | some a => ofLe ((List.range 4).map (fun k => (tget? (s.thr i).unfenced (a + k)).getD ((s.peek (a + k) 1).headD 0)))
  | none => 0

/-- An instruction word has a row in the instruction table, and its unused fields are 0 (R285, R286). -/
def legalWord (w : Nat) : Bool :=
  let rd := w / 2 ^ 21 % 32
  let ra := w / 2 ^ 16 % 32
  let rb := w / 2 ^ 11 % 32
  let func := w % 2 ^ 11
  let imm := w % 2 ^ 16
  let ep := w / 2 ^ 10 % 64
  let cf := w % 2 ^ 10
  match w / 2 ^ 26 with
  | 0x00 => decide (func < 14)
  | 0x05 => decide (imm < 192)
  | 0x08 => decide (ra < 4)
  | 0x09 => decide (ra < 4)
  | 0x30 => decide (w % 16 < 3) || (decide (w % 16 < 6) && ep == 0 && w / 16 % 64 == 0)
  | 0x31 => decide (func < 9)
  | 0x32 => decide (func < 5)
  | 0x33 => rd == 0 && ra == 0 && rb == 0 && decide (func < 2)
  | 0x38 => decide (cf < 2) || (ra == 0 && (cf == 2 || cf == 4 || cf == 6)) || (rd == 0 && ra == 0 && (cf == 3 || cf == 5))
  | 0x39 => ra == 0 && ((decide (cf < 2) && ep == 0) || cf == 2)
  | 0x3A => ra == 0 && decide (imm < 16)
  | 0x3B => rd == 0 && decide (imm < 16)
  | 0x3C => func == 0 || (func == 1 && rb == 0)
  | 0x3D => func == 1 || (rb == 0 && (func == 0 || func == 2 || (func == 3 && rd == 0)))
  | op => (decide (1 ≤ op) && decide (op ≤ 4)) || op == 6 || op == 7 || (decide (0x10 ≤ op) && decide (op ≤ 0x13))
      || (decide (0x18 ≤ op) && decide (op ≤ 0x1B)) || (decide (0x20 ≤ op) && decide (op ≤ 0x28))

/-- One instruction of a thread, fetched from its pc: a fetch that faults, a word that is no instruction, or its effect. -/
def runOne (i : Tid) (f : State → State) (s : State) : State :=
  match fetchFault s i with
  | some (code, s) => faultThread s i code (s.thr i).pc.toNat
  | none => if legalWord (s.fetched i) then f s else faultThread s i idoIllegal (s.fetched i)

/-- Thread `i` issues an instruction of effect `f`, when it may. -/
def issue (i : Tid) (f : State → State) (s : State) : Host.Outcome State Fault Refusal :=
  .next (if canIssue s i then runOne i f (noteIssue s i) else s)

/-- A core declared dead whose role is not yet handed over still goes on (R429). -/
def goesOn (s : State) (i : Tid) : Bool :=
  s.phase == .running && (s.stall i.stall.val).st != .stopped && (s.role i.stall.val i.role.val).phys.isSome
    && (s.stall i.stall.val).owed.contains i.role.val && (s.thr i).enable && (s.thr i).st == .ready

/-- As `issue`, for an instruction that sends something out of its core; `g`: what becomes of it when the core is dead (R34, R429). -/
def issueOut (i : Tid) (f g : State → State) (s : State) : Host.Outcome State Fault Refusal :=
  if goesOn s i then .next (g s) else issue i f s

/-- A write or message under the stamp of a dead core: discarded and counted (R34). -/
def staleOut (i : Tid) (s : State) : State :=
  let st := i.stall.val
  pumpEvents (fencedDiscard s (.core st i.role.val) (s.heldGen (unitCore st ((s.role st i.role.val).phys.getD 0))))

/-! ### The start of threads and cores (R255, R272, R294, R373) -/

/-- A thread at its start: general registers 0 but g1, status registers at their reset values. -/
def Thread.start (t : Thread) (pc g1 : Word64) : Thread :=
  { t with st := .ready, pc := pc, g := (Vector.replicate 32 0).set 1 g1, cs := 0, len := 0, left := 0, src := 0, srcEp := 0
           sel := 0, timer := 0, lastId := 0, wait := none, unfenced := [] }

/-- A message partly read by a thread stays at the head, to be read again whole (R259). -/
def unread (s : State) (st r t : Nat) : State :=
  let s := (s.role st r).eps.foldl (fun s e =>
    if e.2.mode = 1 ∧ e.2.thread = t then s.onChan e.2.chan (fun x => { x with pos := 0 }) else s) s
  if t = 0 then s.onRole st r (fun c => { c with faultPos := 0 }) else s

/-- Words held in the staging slots of a thread. -/
def stagedWords (c : CoreRole) (t : Nat) : Nat :=
  c.stages.foldl (fun n x => match tget? c.eps x.1 with
    | some e => if e.thread = t then n + x.2.words.length else n
    | none => n) 0

/-- The staging slots of a thread emptied. -/
def dropStages (s : State) (st r t : Nat) : State :=
  s.onRole st r (fun c => { c with stages := c.stages.filter (fun x => match tget? c.eps x.1 with
    | some e => e.thread != t
    | none => true) })

/-- A load record of a core image section (R373): masks, window, address, data. -/
structure LoadRec where
  stalls : Nat
  roles : Nat
  win : Nat
  addr : Nat
  data : Bytes
  deriving DecidableEq, Repr

/-- The load records of a section; the fuel is its length. -/
def loadRecs : Nat → Bytes → List LoadRec
  | 0, _ => []
  | n + 1, b =>
    if b.length < 24 then []
    else
      let len := leAt b 16 8
      { stalls := leAt b 0 2, roles := leAt b 2 2, win := leAt b 4 1, addr := leAt b 8 8, data := slice b 24 len }
        :: loadRecs n (b.drop (24 + roundUp len 8))

/-- Every load record the Clerk holds, vendor first (R373). -/
def imageRecs (s : State) : List LoadRec := s.boot.coreImages.flatMap (fun b => loadRecs b.length b)

/-- The scratch records of a role written (R373). -/
def loadScratch (s : State) (st r : Nat) : State :=
  (imageRecs s).foldl (fun s x =>
    if x.win = 0 ∧ x.stalls.testBit st ∧ x.roles.testBit r then s.poke (scratchBase st r + x.addr) x.data else s) s

/-- The Stall-memory records of a Stall written (R373). -/
def loadStallMem (s : State) (st : Nat) : State :=
  (imageRecs s).foldl (fun s x =>
    if x.win = 1 ∧ x.stalls.testBit st then s.poke (stallMemBase st + (x.addr - 0x10000000)) x.data else s) s

/-- A thread started at its entry, when enabled. -/
def startThread (s : State) (st r t : Nat) : State :=
  let th := s.thrAt st r t
  if !th.enable then s.onThrAt st r t (fun x => { x with st := .disabled })
  else
    let s := unread s st r t
    reach (s.onThrAt st r t (fun x => x.start x.entry x.arg))
      { stall := Fin.ofNat 12 st, role := Fin.ofNat 16 r, thread := Fin.ofNat 8 t }

/-- A core started under R255. -/
def startCore (s : State) (st r : Nat) : State :=
  let s := loadScratch s st r
  let s := s.onRole st r (fun c => { c with stages := [], started := s.clk.up })
  let s := quietReset s st r
  (List.range 8).foldl (fun s t => startThread s st r t) s

/-- The tables of a Stall taken from the committed configuration (R250, R251). -/
def loadTables (s : State) (st : Nat) : State :=
  s.onStall st (fun x => { x with cores := (List.range 16).map (fun r =>
    let c := tget x.cores r {}
    (r, { c with
      threads := (List.range 8).map (fun t =>
        let b := (s.cfgRec? (itemId 0xB 1 3) st (r * 8 + t)).getD []
        let f := leAt b 0 1
        (t, { (tget c.threads t {}) with
                enable := f.testBit 0, high := f.testBit 1, pinned := f.testBit 2, tf := leAt b 2 2 % 4096
                entry := BitVec.ofNat 64 (leAt b 8 8), arg := BitVec.ofNat 64 (leAt b 16 8)
                st := if f.testBit 0 then (tget c.threads t {}).st else .disabled }))
      eps := (List.range 63).filterMap (fun e =>
        match s.cfgRec? (itemId 0xB 1 4) st (r * 64 + e) with
        | some b => if leAt b 0 1 = 0 then none
            else some (e, { mode := leAt b 0 1, thread := leAt b 1 1, chan := leAt b 2 2 % 16384 })
        | none => none) })) })

/-! ### Re-homing (R274) -/

/-- A role that may take a moved thread: present, its t0 enabled, with a disabled entry among t1 to t7. -/
def hostEntry (s : State) (st r : Nat) : Option Nat :=
  let c := s.role st r
  if c.phys.isNone || (s.stall st).owed.contains r || !(tget c.threads 0 {}).enable then none
  else [1, 2, 3, 4, 5, 6, 7].find? (fun t => !(tget c.threads t {}).enable)

/-- The place of a moved thread: the first role in cyclic order with a free entry. -/
def hostOf (s : State) (st failed : Nat) : Option (Nat × Nat) :=
  ((List.range 15).map (fun k => (failed + 1 + k) % 16)).findSome? (fun r => (hostEntry s st r).map (fun t => (r, t)))

/-- The lowest unused endpoint numbers of a role taken by the endpoints of a moved thread. -/
def moveEps (s : State) (st r t : Nat) : List (Nat × EpBind) → State
  | [] => s
  | (_, e) :: rest =>
    match (List.range 63).find? (fun n => (tget? (s.role st r).eps n).isNone) with
    | some n => moveEps (s.onRole st r (fun c => { c with eps := tset c.eps n { e with thread := t } })) st r t rest
    | none => moveEps s st r t rest

/-- One thread of a failed role placed; the move made, or none. -/
def moveThread (s : State) (st failed t : Nat) : State × Option (Nat × Nat) :=
  let th := s.thrAt st failed t
  if !th.enable || th.pinned || t == 0 then (s, none)
  else match hostOf s st failed with
    | none => (s, none)
    | some (r, n) =>
      let mine := (s.role st failed).eps.filter (fun e => e.2.thread == t)
      let s := unread s st failed t
      let s := s.onRole st failed (fun c =>
        { c with eps := c.eps.filter (fun e => e.2.thread != t), threads := tset c.threads t { th with enable := false, st := .disabled } })
      let s := s.onThrAt st r n (fun _ => { enable := true, high := th.high, pinned := th.pinned, tf := th.tf
                                            entry := th.entry, arg := th.arg })
      let s := moveEps s st r n mine
      (s, some (r, n))

/-- Threads t1 to t7 of a failed role placed: the moves (from, role, thread). -/
def placeThreads (st failed : Nat) : State → List Nat → List (Nat × Nat × Nat) → State × List (Nat × Nat × Nat)
  | s, [], acc => (s, acc)
  | s, t :: rest, acc =>
    match moveThread s st failed t with
    | (s, some (r, n)) => placeThreads st failed s rest (acc ++ [(t, r, n)])
    | (s, none) => placeThreads st failed s rest acc

/-- The role re-homed: absent from now on, its threads placed (R274). The threads are started apart. -/
def rehome (s : State) (st failed : Nat) : State × List (Nat × Nat × Nat) :=
  let s := quietReset s st failed
  let s := s.onRole st failed (fun c => { c with phys := none, stages := [], faults := [], faultPos := 0 })
  let s := s.onStall st (fun x => { x with degraded := true, owed := x.owed.filter (· != failed) })
  placeThreads st failed s [1, 2, 3, 4, 5, 6, 7] []

/-- Every absent role re-homed in turn: each with its moves (R274, R428). -/
def rehomeAll (s : State) (st : Nat) : State × List (Nat × List (Nat × Nat × Nat)) :=
  ((s.stall st).cores.filter (fun c => c.2.phys.isNone)).foldl
    (fun x c => let y := rehome x.1 st c.1; (y.1, x.2 ++ [(c.1, y.2)])) (s, [])

end Sys2Proof.Machine
end

