-- ==== Sys2Proof/Machine/Storage.lean ====
section
/-! DEFINITION. The storage engine (08): submissions, completions, the error log, arbitration, drive
commands, the storage cache, the atomic-write journal. -/

namespace Sys2Proof.Machine

/-! ### Accessors and configuration -/

def sqKey (tf q : Nat) : Nat := tf * 64 + q
def State.sq? (s : State) (k : Nat) : Option StoQueue := tget? s.sto.queues k
def State.onSq (s : State) (k : Nat) (f : StoQueue → StoQueue) : State :=
  match s.sq? k with
  | some q => { s with sto.queues := tset s.sto.queues k (f q) }
  | none => s
def State.drive (s : State) (rp : Nat) : Drive := tget s.sto.drives rp {}
def State.onDrive (s : State) (rp : Nat) (f : Drive → Drive) : State := { s with sto.drives := tmod s.sto.drives rp {} f }
def State.journal (s : State) (j : Nat) : Journal := tget s.sto.journals j {}
def State.onJournal (s : State) (j : Nat) (f : Journal → Journal) : State :=
  { s with sto.journals := tmod s.sto.journals j {} f }

/-- The quiesce object of a queue. -/
def sqObj (k : Nat) : QObj := .storageQueue (k / 64) (k % 64)

def stoErr (k : Nat) : Nat := stoBase + 0x40 + 4 * k
def stoStat (k : Nat) : Nat := stoBase + 0x100 + 8 * k
def sqStat (q k : Nat) : Nat := objBase 4 q + 0x100 + 8 * k
def sqErr (q k : Nat) : Nat := objBase 4 q + 0x40 + 4 * k

/-- An extent: root port, drive namespace, first drive LBA, block count (R202). -/
structure Extent where
  rp : Nat
  nsid : Nat
  lba : Nat
  count : Nat
  deriving DecidableEq, Repr

/-- The extents of a namespace in order. -/
def nsExtents (s : State) (v : Nat) : List Extent :=
  (List.range 16).filterMap (fun i => (s.cfgRec? (itemId 9 1 2) v i).map (fun b =>
    { rp := leAt b 0 8, nsid := leAt b 8 8, lba := leAt b 16 8, count := leAt b 24 8 }))

def nsSize (s : State) (v : Nat) : Nat := ((nsExtents s v).map Extent.count).sum
def nsJournal (s : State) (v : Nat) : Option Nat := (s.cfgRec? (itemId 9 1 3) v 0).map (fun b => leAt b 0 8)
def nsCached (s : State) (v : Nat) : Bool := s.cfgN (itemId 9 1 4) v 0 1 == 1

/-- Root ports of the split in force, and lanes of each (R211). -/
def rootPorts (s : State) : Nat := 4 * 2 ^ s.cfgN (itemId 9 2 5) 0 0 0
def driveLanes (s : State) : Nat := 32 / rootPorts s

/-- Journal `j`: root port, drive namespace, first LBA, blocks (R205). -/
def journalCfg (s : State) (j : Nat) : Option Extent :=
  (s.cfgRec? (itemId 9 2 1) j 0).map (fun b =>
    { rp := leAt b 0 8, nsid := leAt b 8 8, lba := leAt b 16 8, count := leAt b 24 8 / 4096 })

def driveTimeout (s : State) (rp : Nat) : Nat := s.cfgN (itemId 9 2 3) rp 0 8000000000
def selftestItem (s : State) (rp k d : Nat) : Nat := s.cfgPart (itemId 9 2 4) rp 0 k d
def stoWeight (s : State) (tf k d : Nat) : Nat := s.cfgPart (itemId 9 2 7) tf 0 k d

/-- The first drive of a namespace's extents that is not ONLINE (R197). -/
def nsLostDrive (s : State) (v : Nat) : Option Nat :=
  ((nsExtents s v).find? (fun e => (s.drive e.rp).st != .online)).map Extent.rp

/-- A namespace is offline: a drive of an extent is not ONLINE, its journal is not usable (R209), or records are being written home
to a drive that came back (R215). -/
def nsOffline (s : State) (v : Nat) : Bool :=
  (nsLostDrive s v).isSome
    || (match nsJournal s v with
        | some j => !(s.journal j).usable || (s.journal j).recs.any (fun r => r.behind && r.vns == v)
        | none => false)

/-- Some journal is being replayed: no receive ring of a storage endpoint offers a slot (R209). -/
def replaying (s : State) : Bool := s.sto.journals.any (fun j => j.2.replay)

/-! ### Status codes (R197) -/

def stoOk : Nat := 0
def stoFormat : Nat := 0x0801
def stoNs : Nat := 0x0802
def stoRange : Nat := 0x0803
def stoRights : Nat := 0x0804
def stoXfer : Nat := 0x0805
def stoMedia : Nat := 0x0806
def stoDrive : Nat := 0x0807
def stoTimeout : Nat := 0x0808
def stoOffline : Nat := 0x0809
def stoCqLost : Nat := 0x080A
def stoInternal : Nat := 0x080B
def stoFrozen : Nat := 0x0880
def stoStopped : Nat := 0x0881
def stoAborted : Nat := 0x0882

/-- A freezing status. -/
def stoFreezes (st : Nat) : Bool := decide (0x0801 ≤ st) && decide (st ≤ 0x080B)

/-! ### Messages of a storage endpoint (R193) -/

/-- The address-book entry of a tenant function, when it holds one there. -/
def bookOf (s : State) (b tf : Nat) : Option Book :=
  match tget? s.eht.book b with
  | some e => if e.tf = tf then some e else none
  | none => none

/-- A message through the address book, in the control class unless express (log 20). -/
def bookMsg (s : State) (ep b : Nat) (e : Book) (op key addr : Nat) (payload : Bytes) (express : Bool) (owner : MsgOwner) : OutMsg :=
  { ep := ep, srcGen := 0, msgId := 0, book := some b, dstEid := e.eid, dstGen := e.gen, dstIp := e.ip, dstMac := e.mac
    lp := 0, op := op, seg := e.seg, rkey := key, addr := addr, payload := payload, express := express
    cls := controlClass s express, owner := owner, state := .sending }

/-- A message of queue `k` to its host; none when the book entry cannot be used. -/
def sqSend (s : State) (k op key addr : Nat) (payload : Bytes) (readLen : Nat) (owner : MsgOwner) : Option (State × Nat) :=
  match s.sq? k with
  | none => none
  | some q =>
    match bookOf s q.book (k / 64) with
    | none => none
    | some b => some (submit s { bookMsg s q.eid q.book b op key addr payload false owner with readLen := readLen })

/-! ### The error log and completions (R195, R196, R199) -/

/-- Receive-ring slots of a storage queue returned. -/
def freeSlots (s : State) (eid : Nat) (slots : List Nat) : State :=
  match tget? s.eht.eps eid with
  | some e => { s with eht.eps := tset s.eht.eps eid { e with slotsUsed := e.slotsUsed.filter (fun x => !slots.contains x) } }
  | none => s

/-- An entry written to the error log of 16. -/
def logError (s : State) (k : Nat) (c : StoCmd) (status nvme rp info : Nat) (lost : Bool) : State :=
  s.onSq k (fun q =>
    let e : LogEnt := { seq := q.logSeq, cmdId := c.cmdId, op := c.op, flags := if lost then 2 else 0, status := status
                        nvme := nvme, rp := rp, vns := c.vns, blocks := c.blocks, lba := c.lba, info := info
                        at_ := time80 s.ns }
    let l := if q.log.length < 16 then q.log else match q.log.drop 1 with
      | [] => []
      | x :: rest => { x with flags := x.flags ||| 1 } :: rest
    { q with log := l ++ [e], logSeq := (q.logSeq + 1) % 2 ^ 32 })

/-- The 64 bytes of an entry. -/
def LogEnt.bytes (e : LogEnt) : Bytes :=
  beBytes 4 e.seq ++ beBytes 2 e.cmdId ++ [BitVec.ofNat 8 e.op, BitVec.ofNat 8 e.flags] ++ beBytes 2 e.status ++ beBytes 2 e.nvme
    ++ [BitVec.ofNat 8 e.rp, 0, 0, 0] ++ beBytes 4 e.vns ++ beBytes 4 e.blocks ++ beBytes 8 e.lba ++ beBytes 8 e.info
    ++ beBytes 10 e.at_ ++ List.replicate 14 0

/-- The queue enters ERROR. -/
def sqError (s : State) (k : Nat) : State := s.onSq k (fun q => { q with st := if q.st = .active then .error else q.st })

/-- Completions that could not be delivered (R196): the commands stand; their slots return. INFO is as in the completion (R199). -/
def loseEntries (s : State) (k : Nat) (es : List CoEnt) : State :=
  let s := es.foldl (fun s e => countErr (logError s k e.cmd stoCqLost e.nvme e.rp (beAt e.bytes 8 8) true) (stoErr 3)) s
  let s := sqError s k
  match s.sq? k with
  | some q => freeSlots s q.eid (es.map (fun e => e.cmd.slot))
  | none => s

/-- A completion message sent, with what follows its entries. -/
def sendEntries (s : State) (k : Nat) (es : List CoEnt) (tail : Bytes) : State :=
  match s.sq? k with
  | none => s
  | some q =>
    let n := q.nextSent
    let s1 := s.onSq k (fun q => { q with nextSent := n + 1, sent := tset q.sent n es })
    match sqSend s1 k 1 0 0 (es.flatMap CoEnt.bytes ++ tail) 0 (.storage (k / 64) (k % 64) n) with
    | some r => r.1
    | none => loseEntries (s1.onSq k (fun q => { q with sent := tdel q.sent n })) k es

/-- The waiting completions sent, at most 64 in a message. -/
def sendCoal (s : State) (k : Nat) : State :=
  match s.sq? k with
  | none => s
  | some q =>
    if q.coal.isEmpty then s
    else sendEntries (s.onSq k (fun q => { q with coal := q.coal.drop 64 })) k (q.coal.take 64) []

/-- Completions of a tenant function that freezes are sent at once (R236). -/
def sendsAtOnce (s : State) (k : Nat) (q : StoQueue) : Bool :=
  q.coTime == 0 || decide (q.coCount ≤ q.coal.length) || (s.tf (k / 64)).st == .freezing

/-- The 32 bytes of a completion entry (R195). -/
def completionBytes (s : State) (q cmdId status held info : Nat) : Bytes :=
  beBytes 2 cmdId ++ beBytes 2 status ++ [BitVec.ofNat 8 q, 0] ++ beBytes 2 held ++ beBytes 8 info
    ++ beBytes 10 (time80 s.ns) ++ List.replicate 6 0

/-- A completion entry joins those that wait, or goes alone with its tail (R195). -/
def postEntry (s : State) (k : Nat) (c : StoCmd) (status nvme rp info held : Nat) (tail : Bytes) (refused : Bool) : State :=
  let e : CoEnt := { cmd := { c with data := [], parts := [] }, bytes := completionBytes s (k % 64) c.cmdId status held info, at_ := s.clk.up
                     nvme := nvme, rp := rp, refused := refused }
  if c.op = 0xC0 ∧ !refused then sendEntries s k [e] tail
  else
    let s := s.onSq k (fun q => { q with coal := q.coal ++ [e] })
    match s.sq? k with
    | some q => if sendsAtOnce s k q then sendCoal s k else s
    | none => s

/-- A submission that is not accepted completes at once (R198): it is no work of the queue (R27). -/
def refuseSub (s : State) (k : Nat) (c : StoCmd) (status : Nat) : State :=
  postEntry (countStat s (sqStat k 1) 1) k c status 0 0xFF 0 0 [] true

/-- A command completed with a status: log and state (R197, R199), counters, and its completion. -/
def completeCmd (s : State) (k : Nat) (c : StoCmd) (status nvme rp info held : Nat) (tail : Bytes) : State :=
  let s := s.onSq k (fun q => { q with cmds := q.cmds.filter (fun x => x.no != c.no) })
  let s := countStat s (sqStat k 1) 1
  let s := if stoFreezes status then
      sqError (countErr (countErr (logError s k c status nvme rp info false) (stoErr 0)) (sqErr k 0)) k
    else s
  let s := if status = stoAborted then countErr s (sqErr k 1) else s
  let s := s.qCount (sqObj k) (if status = stoAborted then 0 else 1) (if status = stoAborted then 1 else 0)
  let s := s.qCountTf (k / 64) (if status = stoAborted then 0 else 1) (if status = stoAborted then 1 else 0)
  postEntry s k c status nvme rp info held tail false

/-- A completion with nothing but a status. -/
def finishCmd (s : State) (k : Nat) (c : StoCmd) (status info : Nat) : State := completeCmd s k c status 0 0xFF info 0 []

/-- STO_E_NS_OFFLINE, with the drive that is lost. -/
def finishOffline (s : State) (k : Nat) (c : StoCmd) : State :=
  completeCmd s k c stoOffline 0 ((nsLostDrive s c.vns).getD 0xFF) 0 0 []

/-! ### Submissions (R194, R198, R200) -/

/-- A submission entry read. -/
def parseSub (no slot : Nat) (m : Bytes) : StoCmd :=
  { no := no, slot := slot, op := beAt m 0 1, flags := beAt m 1 1, cmdId := beAt m 2 2, vns := beAt m 4 4, lba := beAt m 8 8
    blocks := beAt m 0x10 4, key := beAt m 0x14 4, addr := beAt m 0x18 8, arg := beAt m 0x20 4, data := m.drop 64 }

/-- The opcode transfers or covers blocks. -/
def hasBlocks (op : Nat) : Bool := op == 1 || op == 2 || op == 8 || op == 9
def isLogOp (op : Nat) : Bool := op == 0xC0 || op == 0xC1
def knownOp (op : Nat) : Bool := op == 0 || hasBlocks op || isLogOp op
def StoCmd.inline (c : StoCmd) : Bool := c.flags.testBit 1

/-- The entry keeps its format (R194). -/
def subFormat (c : StoCmd) (m : Bytes) : Bool :=
  knownOp c.op && decide (64 ≤ m.length)
    && decide (c.flags < 8)
    && (c.op == 1 || c.flags &&& 3 == 0) && (c.op == 0xC0 || !c.flags.testBit 2)
    && decide (c.vns < 16384) && (!isLogOp c.op || c.vns == 0)
    && (if hasBlocks c.op then decide (1 ≤ c.blocks) && decide (c.blocks ≤ 256) else c.blocks == 0)
    && (c.op == 2 || (c.op == 1 && !c.inline) || c.key == 0) && (c.key != 0 || c.addr == 0)
    && (if c.op = 0xC1 then decide (c.arg < 2) else c.arg == 0) && zeroAt m 0x24 28
    && c.data.length == (if c.op == 1 && c.inline then c.blocks * 4096 else 0)

/-- The status a submission meets at its mapping: STO_OK when it may go on (R197, R203). -/
def mapStatus (s : State) (tf : Nat) (c : StoCmd) (m : Bytes) : Nat :=
  if !subFormat c m then stoFormat
  else if isLogOp c.op then stoOk
  else match nsAttach s c.vns tf with
    | none => stoNs
    | some rw =>
      if nsExtents s c.vns = [] then stoNs
      else if hasBlocks c.op ∧ nsSize s c.vns < c.lba + c.blocks then stoRange
      else if (c.op = 1 ∨ c.op = 8 ∨ c.op = 9) ∧ ¬ rw then stoRights
      else if nsOffline s c.vns then stoOffline
      else stoOk

/-- LOG served (R200): CLEAR is ignored while the TF is frozen for migration (R191). -/
def serveLog (s : State) (k : Nat) (c : StoCmd) : State :=
  match s.sq? k with
  | none => s
  | some q =>
    let l := q.log
    let s := if c.flags.testBit 2 ∧ (s.tf (k / 64)).st = .enabled then s.onSq k (fun q => { q with log := [] }) else s
    completeCmd s k c stoOk 0 0xFF 0 l.length (l.flatMap LogEnt.bytes)

/-- RESTART served (R200). -/
def serveRestart (s : State) (k : Nat) (c : StoCmd) : State :=
  match s.sq? k with
  | none => s
  | some q =>
    if q.st ≠ .error then finishCmd s k c stoFormat 0
    else
      let held := q.cmds.filter (fun x => x.ph == .waiting)
      let s := s.onSq k (fun q => { q with st := .active })
      let s := if c.arg = 1 then held.foldl (fun s x => finishCmd s k x stoAborted 0) s else s
      completeCmd s k c stoOk 0 0xFF 0 held.length []

/-- A submission that the engine takes from the ring (R198). -/
def acceptSub (s : State) (k slot : Nat) (m : Bytes) : State :=
  match s.sq? k with
  | none => s
  | some q =>
    let c := parseSub q.nextNo slot m
    let s := s.onSq k (fun q => { q with nextNo := q.nextNo + 1 })
    if q.st = .quiescing ∨ q.st = .disabled then refuseSub s k c stoStopped
    else if q.st = .error ∧ ¬ isLogOp c.op then refuseSub s k c stoFrozen
    else
      let s := countStat (countStat s (stoStat 0) 1) (sqStat k 0) 1
      let st := mapStatus s (k / 64) c m
      if st = stoOffline then finishOffline s k c
      else if st ≠ stoOk then finishCmd s k c st 0
      else if c.op = 0xC0 then serveLog s k c
      else if c.op = 0xC1 then serveRestart s k c
      else s.onSq k (fun q => { q with cmds := q.cmds ++ [c] })

/-- Submissions of no known opcode at the head of the ring taken: they have no command of their own. -/
def takeUnknown (k : Nat) : Nat → State → State
  | 0, s => s
  | n + 1, s =>
    match s.sq? k with
    | none => s
    | some q =>
      match q.inbox with
      | [] => s
      | (slot, m) :: rest =>
        if knownOp (beAt m 0 1) then s
        else takeUnknown k n (acceptSub (s.onSq k (fun q => { q with inbox := rest })) k slot m)

def sweepUnknown (s : State) (k : Nat) : State :=
  match s.sq? k with
  | some q => takeUnknown k (q.inbox.length + 1) s
  | none => s

/-- A message placed in a receive-ring slot of a storage queue. -/
def arriveSub (s : State) (k slot : Nat) (m : Bytes) : State :=
  sweepUnknown (s.onSq k (fun q => { q with inbox := q.inbox ++ [(slot, m)] })) k

/-- The submission at the head of the ring taken, when `p` fits it. -/
def takeSub (s : State) (k : Nat) (p : Bytes → Bool) : State :=
  match s.sq? k with
  | none => s
  | some q =>
    match q.inbox with
    | [] => s
    | (slot, m) :: rest =>
      if p m then sweepUnknown (acceptSub (s.onSq k (fun q => { q with inbox := rest })) k slot m) k else s

/-! ### Drive commands (R203, R213) -/

/-- A piece of a block range on one extent: extent number, its drive namespace, drive LBA, blocks, and
its offset in the range. -/
structure Piece where
  ext : Nat
  rp : Nat
  nsid : Nat
  lba : Nat
  blocks : Nat
  off : Nat
  deriving DecidableEq, Repr

/-- The pieces of `n` blocks from `lba` of a list of extents, the first of number `i`. -/
def piecesOf : List Extent → Nat → Nat → Nat → Nat → List Piece
  | [], _, _, _, _ => []
  | e :: rest, i, lba, n, off =>
    if e.count ≤ lba then piecesOf rest (i + 1) (lba - e.count) n off
    else
      let k := min n (e.count - lba)
      if k = 0 then []
      else { ext := i, rp := e.rp, nsid := e.nsid, lba := e.lba + lba, blocks := k, off := off }
        :: piecesOf rest (i + 1) 0 (n - k) (off + k)

def piecesFor (s : State) (v lba n : Nat) : List Piece := piecesOf (nsExtents s v) 0 lba n 0

/-- The drive namespaces of a namespace, each once: the pieces of a FLUSH. -/
def flushPieces : List Extent → Nat → List (Nat × Nat) → List Piece
  | [], _, _ => []
  | e :: rest, i, seen =>
    if seen.contains (e.rp, e.nsid) then flushPieces rest (i + 1) seen
    else { ext := i, rp := e.rp, nsid := e.nsid, lba := 0, blocks := 0, off := 0 } :: flushPieces rest (i + 1) ((e.rp, e.nsid) :: seen)

/-- A self-test gives way to a host command (R216). -/
def yieldTest (s : State) (rp : Nat) : State :=
  match (s.drive rp).test with
  | some t =>
    if t.aborting then s
    else countErr (s.onDrive rp (fun d => { d with test := some { t with aborting := true } })) (stoErr 6)
  | none => s

/-- An NVMe command submitted to a drive, with its command identifier. -/
def nvmeIssue (s : State) (rp op nsid lba blocks : Nat) (data : Bytes) (fua : Bool) (f : NvmeFor) : State :=
  let host := match f with
    | .cmd _ _ _ _ => true
    | _ => false
  let s := if host then yieldTest (s.onDrive rp (fun d => { d with lastHost := s.clk.up })) rp else s
  let cid := ((List.range 65536).find? (fun i => (tget? (s.drive rp).cmds (((s.drive rp).nextCid + i) % 65536)).isNone)).getD 0
  let cid := ((s.drive rp).nextCid + cid) % 65536
  countStat (s.onDrive rp (fun d => { d with
      cmds := tset d.cmds cid { op := op, nsid := nsid, lba := lba, blocks := blocks, data := data, fua := fua, for_ := f, start := s.clk.up }
      nextCid := (cid + 1) % 65536 })) (stoStat 5) 1

/-- Free submission slots of a drive: its pairs of 1,024 entries less the commands outstanding (R213). -/
def nvmeRoom (s : State) (rp : Nat) : Nat := 1024 * (driveLanes s / 2) - (s.drive rp).cmds.length

/-- A command changed in place. -/
def onCmd (s : State) (k no : Nat) (f : StoCmd → StoCmd) : State :=
  s.onSq k (fun q => { q with cmds := q.cmds.map (fun c => if c.no = no then f c else c) })

/-- The drive commands of a command issued, one for each piece. -/
def issuePieces (s : State) (k : Nat) (c : StoCmd) (ps : List Piece) : State :=
  let s := onCmd s k c.no (fun c => { c with ph := .drives, left := ps.length, parts := [] })
  ps.foldl (fun s p => nvmeIssue s p.rp c.op p.nsid p.lba p.blocks
    (if c.op = 1 then slice c.data (p.off * 4096) (p.blocks * 4096) else []) (c.op == 1 && c.flags.testBit 0)
    (.cmd (k / 64) (k % 64) c.no p.ext)) s

/-! ### The storage cache and records kept in HBM (R204, R206) -/

/-- Lines of a range dropped. -/
def cacheDrop (s : State) (v lba n : Nat) : State :=
  { s with sto.cache := s.sto.cache.filter (fun x => !(x.1 == v && decide (lba ≤ x.2.1) && decide (x.2.1 < lba + n))) }

/-- Blocks of a range put in the cache, the most recent first. -/
def cachePut (s : State) (v lba : Nat) (data : Bytes) : State :=
  if !nsCached s v then s
  else
    let n := data.length / 4096
    let s := cacheDrop s v lba n
    let lines := (List.range n).map (fun i => (v, lba + i, slice data (i * 4096) 4096))
    { s with sto.cache := (lines ++ s.sto.cache).take (cacheSize s / 4096) }

/-- The lines that a write covers updated (R204): it brings no block into the cache. -/
def cacheUpdate (s : State) (v lba : Nat) (data : Bytes) : State :=
  { s with sto.cache := s.sto.cache.map (fun x =>
      if x.1 = v ∧ lba ≤ x.2.1 ∧ x.2.1 < lba + data.length / 4096 then (v, x.2.1, slice data ((x.2.1 - lba) * 4096) 4096) else x) }

/-- A line of the cache. -/
def cacheLine (s : State) (v b : Nat) : Option Bytes := (s.sto.cache.find? (fun x => x.1 == v && x.2.1 == b)).map (fun x => x.2.2)

/-- The cache holds every block of a range. -/
def cacheHolds (s : State) (v lba n : Nat) : Bool := nsCached s v && (List.range n).all (fun i => (cacheLine s v (lba + i)).isSome)

/-- A block in a live record past step 3, the latest first. -/
def recordBlock (s : State) (v b : Nat) : Option Bytes :=
  match nsJournal s v with
  | none => none
  | some j => ((s.journal j).recs.reverse.find? (fun r => r.written && r.vns == v && decide (r.lba ≤ b) && decide (b < r.lba + r.blocks))).map
      (fun r => slice r.data ((b - r.lba) * 4096) 4096)

/-- A block in HBM: a record's data, or a cached line. -/
def hbmBlock (s : State) (v b : Nat) : Option Bytes :=
  match recordBlock s v b with
  | some x => some x
  | none => if nsCached s v then cacheLine s v b else none

/-- A whole range in HBM. -/
def hbmRange (s : State) (v lba : Nat) : Nat → Option Bytes
  | 0 => some []
  | n + 1 => match hbmRange s v lba n, hbmBlock s v (lba + n) with
    | some a, some b => some (a ++ b)
    | _, _ => none

/-- Blocks of a range that records hold, over what the drives gave. -/
def overRecords (s : State) (v lba : Nat) (data : Bytes) : Bytes :=
  (List.range (data.length / 4096)).flatMap (fun i => (recordBlock s v (lba + i)).getD (slice data (i * 4096) 4096))

/-- Lines used moved to the front. -/
def cacheTouch (s : State) (v lba n : Nat) : State :=
  let hit (x : Nat × Nat × Bytes) : Bool := x.1 == v && decide (lba ≤ x.2.1) && decide (x.2.1 < lba + n)
  { s with sto.cache := s.sto.cache.filter hit ++ s.sto.cache.filter (fun x => !hit x) }

/-! ### The journal (R205 to R208) -/

/-- Blocks of a journal past the checkpoint pair. -/
def journalBlocks (s : State) (j : Nat) : Nat :=
  match journalCfg s j with
  | some e => e.count - 2
  | none => 0

/-- Blocks from the oldest live record to the write pointer: all of them when the two meet. -/
def liveUsed (s : State) (j : Nat) : Nat :=
  match (s.journal j).recs with
  | r :: _ =>
    let n := journalBlocks s j
    let d := ((s.journal j).wptr + n - r.pos) % max n 1
    if d = 0 then n else d
  | [] => 0

/-- The number of the oldest live record: OLDEST of a checkpoint. -/
def journalOldest (s : State) (j : Nat) : Nat :=
  match (s.journal j).recs with
  | r :: _ => r.seq
  | [] => (s.journal j).next

def journalMagic : Nat := 0x4C414E52554F4A53

/-- A checkpoint block written (R207). -/
def checkpoint (s : State) (j : Nat) : State :=
  match journalCfg s j with
  | none => s
  | some e =>
    let x := s.journal j
    let used := liveUsed s j
    let f := leBytes 8 journalMagic ++ x.nonce ++ leBytes 8 (x.ckCount + 1) ++ leBytes 8 (journalOldest s j)
    let s := nvmeIssue s e.rp 1 e.nsid (e.lba + x.ckCount % 2) 1 (padTo 4096 (f ++ Crypto.shake256 f)) true (.checkpoint j)
    s.onJournal j (fun x => { x with ckCount := x.ckCount + 1, used := used, ckAt := s.clk.up, retired := false })

/-- The header block of a record (R207). -/
def recordHeader (nonce : Bytes) (seq : Nat) (c : StoCmd) : Bytes :=
  let h := leBytes 8 journalMagic ++ leBytes 8 seq ++ leBytes 4 c.vns ++ leBytes 4 c.blocks ++ leBytes 8 c.lba
    ++ Crypto.shake256 c.data
  padTo 4096 (h ++ Crypto.shake256 (nonce ++ h))

/-- A record written at the write pointer: two drive commands where it wraps. -/
def writeRecord (s : State) (j k : Nat) (c : StoCmd) : State :=
  match journalCfg s j with
  | none => s
  | some e =>
    let x := s.journal j
    let n := journalBlocks s j
    let all := recordHeader x.nonce x.next c ++ c.data
    let first := min (c.blocks + 1) (n - x.wptr)
    let two := decide (first < c.blocks + 1)
    let r : JRec := { seq := x.next, tf := k / 64, q := k % 64, no := c.no, vns := c.vns, lba := c.lba, blocks := c.blocks
                      data := c.data, pos := x.wptr, left := if two then 2 else 1 }
    let s := s.onJournal j (fun y =>
      { y with
        next := (y.next + 1) % 2 ^ 64, wptr := (y.wptr + c.blocks + 1) % max n 1
        used := y.used + c.blocks + 1, recs := y.recs ++ [r] })
    let s := onCmd s k c.no (fun c => { c with ph := .journal })
    let s := nvmeIssue s e.rp 1 e.nsid (e.lba + 2 + x.wptr) first (all.take (first * 4096)) true (.record j x.next)
    if two then nvmeIssue s e.rp 1 e.nsid (e.lba + 2) (c.blocks + 1 - first) (all.drop (first * 4096)) true (.record j x.next) else s

/-- The root port of a journal's drive, while that is not ONLINE. -/
def journalLost (s : State) (j : Nat) : Option Nat :=
  match journalCfg s j with
  | some e => if (s.drive e.rp).st = .online then none else some e.rp
  | none => none

/-- Step 2 of R206, or the wait for space of R208; a journal whose drive is not ONLINE fails the step. -/
def tryRecord (s : State) (j k : Nat) (c : StoCmd) : State × Bool :=
  let n := journalBlocks s j
  match journalLost s j with
  | some rp => (completeCmd s k c stoDrive 0 rp 0 0 [], true)
  | none =>
    if (s.journal j).used + c.blocks + 1 ≤ n then (writeRecord s j k c, true)
    else if liveUsed s j + c.blocks + 1 ≤ n then (writeRecord (checkpoint s j) j k c, true)
    else (s, false)

def cmdOf (s : State) (k no : Nat) : Option StoCmd :=
  match s.sq? k with
  | some q => q.cmds.find? (fun c => c.no == no)
  | none => none

/-- Waiting atomic WRITEs taken up in order while there is space. -/
def pumpWaiters (j : Nat) : Nat → State → State
  | 0, s => s
  | fuel + 1, s =>
    match (s.journal j).waiters with
    | [] => s
    | (k, no) :: rest =>
      match cmdOf s k no with
      | none => pumpWaiters j fuel (s.onJournal j (fun x => { x with waiters := rest }))
      | some c =>
        let r := tryRecord s j k c
        if r.2 then pumpWaiters j fuel (r.1.onJournal j (fun x => { x with waiters := rest })) else s

/-- Two records overlap. -/
def JRec.overlaps (a b : JRec) : Bool := a.vns == b.vns && decide (a.lba < b.lba + b.blocks) && decide (b.lba < a.lba + a.blocks)

/-- Home writes of a record issued (step 4). -/
def issueHome (s : State) (j : Nat) (r : JRec) : State :=
  let ps := piecesFor s r.vns r.lba r.blocks
  let s := s.onJournal j (fun x => { x with recs := x.recs.map (fun y => if y.seq = r.seq then { y with issued := true, left := ps.length } else y) })
  ps.foldl (fun s p => nvmeIssue s p.rp 1 p.nsid p.lba p.blocks (slice r.data (p.off * 4096) (p.blocks * 4096)) false
    (.home j r.seq p.ext)) s

/-- Every record whose home writes may go: acknowledged, its drives ONLINE, no earlier one overlapping. -/
def issueHomes (j : Nat) : State → List JRec → List JRec → State
  | s, _, [] => s
  | s, before, r :: rest =>
    let go := r.written && !r.issued && !before.any (fun b => b.overlaps r)
      && (piecesFor s r.vns r.lba r.blocks).all (fun p => (s.drive p.rp).st == .online)
    issueHomes j (if go then issueHome s j r else s) (before ++ [r]) rest

/-- The next record that a replay writes home, in sequence order, when none is on its way (R209): its drives are ONLINE, and no earlier
record left over overlaps it. -/
def replayTurn (s : State) (j : Nat) : List JRec → List JRec → Option JRec
  | _, [] => none
  | before, r :: rest =>
    if !r.issued && !before.any (fun b => b.overlaps r) && (piecesFor s r.vns r.lba r.blocks).all (fun p => (s.drive p.rp).st == .online)
    then some r else replayTurn s j (before ++ [r]) rest

/-- A record of a journal is being written home. -/
def homeGoing (s : State) (j : Nat) : Bool := (s.journal j).recs.any (fun r => r.issued && decide (0 < r.left))

/-- The home writes of a journal that may go: one record at a time while it is replayed. -/
def pumpHomes (s : State) (j : Nat) : State :=
  if (s.journal j).replay then
    if homeGoing s j then s
    else match replayTurn s j [] (s.journal j).recs with
      | some r => issueHome s j r
      | none => s
  else issueHomes j s [] (s.journal j).recs

/-! ### The course of a command -/

/-- Data of a WRITE in hand: the journal or the drives. -/
def writeData (s : State) (k : Nat) (c : StoCmd) : State :=
  match (if c.blocks ≤ 64 then nsJournal s c.vns else none) with
  | some j =>
    if (s.journal j).waiters.isEmpty ∧ (tryRecord s j k c).2 then (tryRecord s j k c).1
    else
      let s := onCmd s k c.no (fun x => { c with ph := .journalWait, slot := x.slot })
      countErr (s.onJournal j (fun x => { x with waiters := x.waiters ++ [(k, c.no)] })) (stoErr 5)
  | none => issuePieces s k c (piecesFor s c.vns c.lba c.blocks)

/-- Read data on its way to the host by EHT WRITE (R194). -/
def sendReadData (s : State) (k : Nat) (c : StoCmd) (data : Bytes) : State :=
  let s := onCmd s k c.no (fun c => { c with ph := .toHost })
  match sqSend s k 2 c.key c.addr data 0 (.transfer (k / 64) (k % 64) c.no) with
  | some r => r.1
  | none => finishCmd s k c stoXfer 0x82

/-- A command leaves its queue (R201, R203). -/
def issueCmd (s : State) (k : Nat) (c : StoCmd) : State :=
  if nsOffline s c.vns then finishOffline s k c
  else if c.op = 2 then
    match hbmRange s c.vns c.lba c.blocks with
    | some d =>
      let hit := cacheHolds s c.vns c.lba c.blocks
      let s := cacheTouch s c.vns c.lba c.blocks
      sendReadData (if hit then countStat s (stoStat 3) 1 else s) k c d
    | none => issuePieces s k c (piecesFor s c.vns c.lba c.blocks)
  else if c.op = 1 then
    if c.inline then writeData s k c
    else
      let s := onCmd s k c.no (fun c => { c with ph := .fetching })
      let seg := match (s.sq? k).bind (fun q => bookOf s q.book (k / 64)) with
        | some b => b.seg
        | none => 2
      match sqSend s k 3 c.key c.addr (beBytes 4 (c.blocks * 4096) ++ [BitVec.ofNat 8 seg, 0, 0, 0]) (c.blocks * 4096)
          (.transfer (k / 64) (k % 64) c.no) with
      | some r => r.1
      | none => finishCmd s k c stoXfer 0x82
  else if c.op = 0 then issuePieces s k c (flushPieces (nsExtents s c.vns) 0 [])
  else issuePieces s k c (piecesFor s c.vns c.lba c.blocks)

/-- Parts in extent order. -/
def insertPart (p : PartDone) : List PartDone → List PartDone
  | [] => [p]
  | q :: rest => if p.ext < q.ext then p :: q :: rest else q :: insertPart p rest

/-- Blocks written by a host counted. -/
def countWritten (s : State) (k n : Nat) : State := countStat (countStat s (stoStat 2) n) (sqStat k 3) n

/-- All drive commands of a command have completed (R203). -/
def drivesDone (s : State) (k : Nat) (c : StoCmd) : State :=
  let bad := (c.parts.find? (fun p => stoFreezes p.status)).or (c.parts.find? (fun p => p.status != stoOk))
  let writes := c.op = 1 ∨ c.op = 8 ∨ c.op = 9
  let s := if c.op = 1 ∧ bad.isNone then cacheUpdate s c.vns c.lba c.data else if writes then cacheDrop s c.vns c.lba c.blocks else s
  match bad with
  | some p => completeCmd s k c p.status p.nvme p.rp p.info 0 []
  | none =>
    if c.op = 2 then
      let d := overRecords s c.vns c.lba (c.parts.flatMap PartDone.data)
      sendReadData (cachePut s c.vns c.lba d) k c d
    else if c.op = 1 then finishCmd (countWritten s k c.blocks) k c stoOk 0
    else finishCmd s k c stoOk 0

/-- One drive command of a command has come to its end. -/
def partDone (s : State) (k no : Nat) (p : PartDone) : State :=
  match cmdOf s k no with
  | none => s
  | some c =>
    let c := { c with parts := insertPart p c.parts, left := c.left - 1 }
    let s := onCmd s k no (fun _ => c)
    if c.left = 0 then drivesDone s k c else s

/-- A data transfer of a command has ended (R194): its EHT status, and the data of a READ. -/
def transferEnd (s : State) (k no status : Nat) (data : Bytes) : State :=
  match cmdOf s k no with
  | none => s
  | some c =>
    if c.ph = .fetching then
      if status = 0 then writeData s k { c with data := data } else finishCmd s k c stoXfer status
    else if c.ph = .toHost then
      if status = 0 then finishCmd (countStat (countStat s (stoStat 1) c.blocks) (sqStat k 2) c.blocks) k c stoOk 0
      else finishCmd s k c stoXfer status
    else s

/-- A completion message has reached its final state (R193, R196). -/
def sentEnd (s : State) (k n status : Nat) : State :=
  match s.sq? k with
  | none => s
  | some q =>
    match tget? q.sent n with
    | none => s
    | some es =>
      let s := s.onSq k (fun q => { q with sent := tdel q.sent n })
      if status = 0 then freeSlots s q.eid (es.map (fun e => e.cmd.slot)) else loseEntries s k es

/-- What a drive command came to: STO status, drive status field, INFO, data. -/
structure DriveEnd where
  status : Nat
  nvme : Nat
  info : Nat
  data : Bytes
  deriving DecidableEq, Repr

def onRec (s : State) (j seq : Nat) (f : JRec → JRec) : State :=
  s.onJournal j (fun x => { x with recs := x.recs.map (fun r => if r.seq = seq then f r else r) })

/-- A write of a journal record has ended (R206, steps 2 and 3). -/
def recordEnd (s : State) (j seq rp : Nat) (d : DriveEnd) : State :=
  match (s.journal j).recs.find? (fun r => r.seq == seq) with
  | none => s
  | some r =>
    let k := sqKey r.tf r.q
    let failed := r.failed || d.status != stoOk
    let s := onRec s j seq (fun r => { r with left := r.left - 1, failed := failed })
    let s := if d.status ≠ stoOk ∧ ¬ r.failed then
        match cmdOf s k r.no with
        | some c => completeCmd s k c d.status d.nvme rp d.info 0 []
        | none => s
      else s
    if r.left ≠ 1 then s
    else if failed then pumpWaiters j 65536 (s.onJournal j (fun x => { x with recs := x.recs.filter (fun y => y.seq != seq) }))
    else
      let s := countStat (onRec s j seq (fun r => { r with written := true })) (stoStat 4) 1
      let s := cacheUpdate s r.vns r.lba r.data
      let s := match cmdOf s k r.no with
        | some c => finishCmd (countWritten s k r.blocks) k c stoOk 0
        | none => s
      pumpHomes s j

/-- A home write has ended (R206, steps 4 and 5). -/
def homeEnd (s : State) (j seq : Nat) (d : DriveEnd) : State :=
  match (s.journal j).recs.find? (fun r => r.seq == seq) with
  | none => s
  | some r =>
    let failed := r.failed || d.status != stoOk
    let s := onRec s j seq (fun r => { r with left := r.left - 1, failed := failed, behind := r.behind && (r.left != 1 || !failed) })
    if r.left ≠ 1 then s
    else if failed then pumpHomes s j
    else
      let s := s.onJournal j (fun x => { x with recs := x.recs.filter (fun y => y.seq != seq), retired := true })
      pumpWaiters j 65536 (pumpHomes s j)

/-! ### Replay (R207, R209) -/

/-- What a checkpoint block holds: nonce, count, OLDEST; none when it is not valid. -/
def ckOf (b : Bytes) : Option (Bytes × Nat × Nat) :=
  if leAt b 0 8 = journalMagic ∧ slice b 40 32 = Crypto.shake256 (b.take 40) then some (slice b 8 16, leAt b 24 8, leAt b 32 8) else none

/-- The valid one of the pair with the larger count. -/
def ckPick (b : Bytes) : Option (Bytes × Nat × Nat) :=
  match ckOf (b.take 4096), ckOf (b.drop 4096) with
  | some x, some y => some (if x.2.1 < y.2.1 then y else x)
  | some x, none => some x
  | none, y => y

/-- `n` bytes of the blocks behind the pair from a block on, wrapping at their end. -/
def wrapSlice (b : Bytes) (block n : Nat) : Bytes := ((b.drop (block * 4096)) ++ b).take n

/-- The record whose header is block `p`, when it is valid. -/
def recordAt (ck : Bytes × Nat × Nat) (b : Bytes) (p : Nat) : Option JRec :=
  let h := slice b (p * 4096) 4096
  let n := leAt h 0x14 4
  let d := wrapSlice (b.drop (p * 4096 + 4096) ++ b) 0 (n * 4096)
  if leAt h 0 8 = journalMagic ∧ slice h 0x40 32 = Crypto.shake256 (ck.1 ++ h.take 0x40) ∧ ¬ serialEarlier 64 (leAt h 8 8) ck.2.2
      ∧ 1 ≤ n ∧ n ≤ 64 ∧ slice h 0x20 32 = Crypto.shake256 d then
    some { seq := leAt h 8 8, tf := 0, q := 0, no := 0, vns := leAt h 0x10 4, lba := leAt h 0x18 8, blocks := n, data := d, pos := p, written := true }
  else none

/-- A record set in its place in sequence order, counted from OLDEST. -/
def insertRec (oldest : Nat) (r : JRec) : List JRec → List JRec
  | [] => [r]
  | x :: rest => if (r.seq + 2 ^ 64 - oldest) % 2 ^ 64 < (x.seq + 2 ^ 64 - oldest) % 2 ^ 64 then r :: x :: rest else x :: insertRec oldest r rest

/-- The valid records of the blocks behind the pair, in sequence order. -/
def scanRecords (ck : Bytes × Nat × Nat) (b : Bytes) : List JRec :=
  ((List.range (b.length / 4096)).filterMap (recordAt ck b)).foldl (fun l r => insertRec ck.2.2 r l) []

/-- Blocks that a replay reads with one command (log 43). -/
def scanBlocks : Nat := 256

/-- The next blocks of a replay read from the journal's drive. -/
def scanRead (s : State) (j : Nat) (e : Extent) (x : JScan) : State :=
  let at_ := if x.ck.isNone then 0 else 2 + x.got.length / 4096
  nvmeIssue s e.rp 2 e.nsid (e.lba + at_) (if x.ck.isNone then 2 else min scanBlocks (e.count - at_)) [] false (.replay j)

/-- The scan of a journal has ended: its records go home, the earliest first. Writing goes on behind the last of them (log 43). -/
def scanEnd (s : State) (j : Nat) (ck : Bytes × Nat × Nat) (b : Bytes) : State :=
  let rs := scanRecords ck b
  let n := journalBlocks s j
  let s := s.onJournal j (fun x => { x with
    nonce := ck.1, ckCount := ck.2.1, recs := rs, scan := some { ck := some ck, found := some rs.length }
    next := match rs.getLast? with
      | some r => (r.seq + 1) % 2 ^ 64
      | none => ck.2.2
    wptr := match rs.getLast? with
      | some r => (r.pos + r.blocks + 1) % max n 1
      | none => 0 })
  pumpHomes s j

/-- A replay begins, or begins again, when its journal's drive is ONLINE. -/
def scanStart (s : State) (j : Nat) : State :=
  match journalCfg s j with
  | some e => if (s.journal j).replay && (s.journal j).scan.isNone && (s.drive e.rp).st == .online then
      scanRead (s.onJournal j (fun x => { x with scan := some {} })) j e {} else s
  | none => s

/-- Blocks that a replay asked for have come: `none` where the read failed, so that no record stands there. A drive that is lost ends
the attempt. Without a valid checkpoint the journal is unusable. -/
def scanGot (s : State) (j : Nat) (c : NvmeCmd) (data : Option Bytes) : State :=
  match (s.journal j).scan, journalCfg s j with
  | some x, some e =>
    if (s.drive e.rp).st ≠ .online then s.onJournal j (fun y => { y with scan := none })
    else
      let b := data.getD (List.replicate (c.blocks * 4096) 0)
      match x.ck with
      | none => match ckPick b with
        | none => raise (s.onJournal j (fun y => { y with replay := false, scan := none })) 0x0902 j []
        | some ck =>
          let x' : JScan := { ck := some ck }
          scanRead (s.onJournal j (fun y => { y with scan := some x' })) j e x'
      | some ck =>
        let got := x.got ++ b
        if journalBlocks s j ≤ got.length / 4096 then scanEnd s j ck got
        else
          let x' : JScan := { ck := some ck, got := got }
          scanRead (s.onJournal j (fun y => { y with scan := some x' })) j e x'
  | _, _ => s

/-- Nothing of a replay is left to do: every valid record is home, or waits for a drive that is not ONLINE. -/
def replayOver (s : State) (j : Nat) : Option Nat :=
  match (s.journal j).scan with
  | some x => if homeGoing s j || (replayTurn s j [] (s.journal j).recs).isSome then none else x.found
  | none => none

/-- R209, the end of a replay: a checkpoint, and the event with the number of records. -/
def replayEnd (s : State) (j n : Nat) : State :=
  raise (checkpoint (s.onJournal j (fun x => { x with usable := true, replay := false, scan := none })) j) 0x0901 j (encN n)

/-- A drive command has come to its end. -/
def nvmeEnd (s : State) (rp : Nat) (c : NvmeCmd) (d : DriveEnd) : State :=
  match c.for_ with
  | .cmd tf q no ext =>
    partDone s (sqKey tf q) no { ext := ext, status := d.status, nvme := d.nvme, rp := rp, info := d.info, data := d.data }
  | .record j seq => recordEnd s j seq rp d
  | .home j seq _ => homeEnd s j seq d
  | .checkpoint _ => s
  | .replay j => scanGot s j c (if d.status = stoOk then some d.data else none)

/-- Every command outstanding at a drive ended with a status. -/
def failDrive (s : State) (rp status : Nat) : State :=
  let cs := (s.drive rp).cmds
  let s := s.onDrive rp (fun d => { d with cmds := [] })
  cs.foldl (fun s c => nvmeEnd s rp c.2 { status := status, nvme := 0, info := 0, data := [] }) s

/-- The namespace LBA of a drive LBA under a command. -/
def failingLba (s : State) (c : NvmeCmd) (rp lba : Nat) : Nat :=
  match c.for_ with
  | .cmd tf q no ext =>
    match cmdOf s (sqKey tf q) no with
    | some x => match (piecesFor s x.vns x.lba x.blocks).find? (fun p => p.ext == ext && p.rp == rp) with
      | some p => x.lba + p.off + (lba - p.lba)
      | none => lba
    | none => lba
  | _ => lba

/-- A drive answers a command (NVME_COMPLETION). -/
def nvmeComplete (s : State) (rp : Nat) (d : NvmeDone) : State :=
  match tget? (s.drive rp).cmds d.cid with
  | none => s
  | some c => if d.abortOnly then s.onDrive rp (fun x => { x with cmds := tset x.cmds d.cid { c with abortAt := none } }) else
    let st := if d.aborted then stoAborted else if d.status = 0 then stoOk else if d.media then stoMedia else stoDrive
    let s := s.onDrive rp (fun x => { x with cmds := tdel x.cmds d.cid })
    nvmeEnd s rp c { status := st, nvme := if st = stoOk then 0 else d.status.toNat
                     info := if st = stoMedia then failingLba s c rp d.failLba.toNat else 0
                     data := if st = stoOk ∧ c.op = 2 then padTo (c.blocks * 4096) d.data else [] }

/-! ### Arbitration (R201) -/

/-- A queue whose head may be dispatched: ACTIVE, or draining with its commands not held. -/
def sqServes (s : State) (k : Nat) (q : StoQueue) : Bool :=
  (q.st == .active && (s.tf (k / 64)).st == .enabled) || (q.st == .quiescing && !q.heldBack)

def sqHead (q : StoQueue) : Option StoCmd := q.cmds.find? (fun c => c.ph == .waiting)

/-- The journal that a command goes through: that of its namespace, for a WRITE of up to 64 blocks (R206). -/
def atomicJournal (s : State) (c : StoCmd) : Option Nat := if c.op = 1 ∧ c.blocks ≤ 64 then nsJournal s c.vns else none

/-- The root ports of the drives that a command needs, its journal's among them. -/
def drivesOf (s : State) (c : StoCmd) : List Nat :=
  (if c.op = 0 then flushPieces (nsExtents s c.vns) 0 [] else piecesFor s c.vns c.lba c.blocks).map Piece.rp
    ++ (((atomicJournal s c).bind (journalCfg s)).map Extent.rp).toList

/-- Drives that the head of a queue needs have room; a command served without them needs none. -/
def headRoom (s : State) (c : StoCmd) : Bool :=
  nsOffline s c.vns || (c.op == 2 && (hbmRange s c.vns c.lba c.blocks).isSome)
    || (drivesOf s c).all (fun rp => decide (0 < nvmeRoom s rp))

def sqReady (s : State) (k : Nat) (q : StoQueue) : Bool :=
  sqServes s k q && (match sqHead q with
    | some c => headRoom s c
    | none => false)

def urgentOk (s : State) (tf : Nat) : Bool := stoWeight s tf 4 0 == 1

/-- The class a queue is arbitrated in: 0 URGENT, 1 HIGH, 2 MEDIUM, 3 LOW. -/
def effClass (s : State) (k : Nat) (q : StoQueue) : Nat := if q.cls = 0 ∧ ¬ urgentOk s (k / 64) then 1 else q.cls

/-- Ready queues of a tenant function in a class, by queue number. -/
def readyQueues (s : State) (tf cls : Nat) : List Nat :=
  ((tfQueues s tf).filter (fun p => effClass s p.1 p.2 == cls && sqReady s p.1 p.2)).map (fun p => p.1 % 64)

/-- The next of a rising list after `x`, cyclically. -/
def nextAfter (l : List Nat) (x : Nat) : Option Nat := (l.find? (fun y => decide (x < y))).or l.head?

/-- Tenant functions with a ready queue of the classes that satisfy `p`. -/
def readyTfs (s : State) (p : Nat → Bool) : List Nat :=
  ((s.sto.queues.filter (fun x => p (effClass s x.1 x.2) && sqReady s x.1 x.2)).map (fun x => x.1 / 64)).eraseDups

def State.arb (s : State) (tf : Nat) : StoArb := tget s.sto.arb tf {}
def State.onArb (s : State) (tf : Nat) (f : StoArb → StoArb) : State := { s with sto.arb := tmod s.sto.arb tf {} f }

/-- The weight of class `c` (0 HIGH, 1 MEDIUM, 2 LOW). -/
def stoClassWeight (s : State) (tf c : Nat) : Nat := stoWeight s tf (c + 1) ([16, 4, 1].getD c 1)

/-- class_pick: the queue, with the arbitration state it leaves. The fuel covers every class twice. -/
def stoClassPick (tf : Nat) : Nat → State → Option (Nat × State)
  | 0, _ => none
  | fuel + 1, s =>
    let a := s.arb tf
    let rs := readyQueues s tf (a.cls + 1)
    if rs = [] ∨ a.taken.getD a.cls 0 = stoClassWeight s tf a.cls then
      stoClassPick tf fuel (s.onArb tf (fun a => { a with taken := a.taken.set a.cls 0, cls := (a.cls + 1) % 3 }))
    else match nextAfter rs (a.last.getD a.cls 63) with
      | some q => some (q, s.onArb tf (fun a => { a with taken := a.taken.set a.cls (a.taken.getD a.cls 0 + 1), last := a.last.set a.cls q }))
      | none => none

/-- The head of a queue issued. -/
def issueHead (s : State) (k : Nat) : State :=
  match (s.sq? k).bind sqHead with
  | some c => issueCmd s k c
  | none => s

/-- One pass over the tenant functions; the first is current and gets no new quantum (log 20). -/
def dispatchLoop : State → List (Nat × Bool) → State
  | s, [] => s
  | s, (t, fresh) :: rest =>
    if readyQueues s t 1 ++ readyQueues s t 2 ++ readyQueues s t 3 = [] then dispatchLoop (s.onArb t (fun a => { a with deficit := 0 })) rest
    else
      let s := if fresh then { (s.onArb t (fun a => { a with deficit := a.deficit + stoWeight s t 0 1 })) with sto.curTf := t } else s
      if (s.arb t).deficit = 0 then dispatchLoop s rest
      else match stoClassPick t 7 s with
        | some (q, s) => issueHead (s.onArb t (fun a => { a with deficit := a.deficit - 1 })) (sqKey t q)
        | none => s

/-- One dispatch slot (R201). -/
def stoDispatch (s : State) : State :=
  match nextAfter (readyTfs s (· == 0)) s.sto.lastUrgentTf with
  | some t =>
    match nextAfter (readyQueues s t 0) (s.arb t).lastUrgent with
    | some q => issueHead { (s.onArb t (fun a => { a with lastUrgent := q })) with sto.lastUrgentTf := t } (sqKey t q)
    | none => s
  | none =>
    let tfs := (s.sto.queues.map (fun p => p.1 / 64)).eraseDups
    let cur := s.sto.curTf
    dispatchLoop s ((cur, false) :: (tfs.filter (fun t => decide (cur < t)) ++ tfs.filter (fun t => decide (t ≤ cur))).map (fun t => (t, true)))

/-! ### Quiescing a queue (R217) -/

/-- What remains of a queue aborted: commands at drives get an NVMe Abort, the others complete. -/
def abortSq (s : State) (k : Nat) : State :=
  match s.sq? k with
  | none => s
  | some q =>
    let s := (q.cmds.filter (fun c => c.ph != .drives && c.ph != .journal)).foldl (fun s c => finishCmd s k c stoAborted 0) s
    let mine (c : NvmeCmd) : Bool := match c.for_ with
      | .cmd tf n _ _ => sqKey tf n == k
      | .record j seq => (s.journal j).recs.any (fun r => r.seq == seq && sqKey r.tf r.q == k)
      | _ => false
    let s := { s with sto.drives := s.sto.drives.map (fun d =>
      (d.1, { d.2 with cmds := d.2.cmds.map (fun c => (c.1, if mine c.2 && c.2.abortAt.isNone then { c.2 with abortAt := some s.clk.up } else c.2)) })) }
    sendCoal s k

/-! ### Drives (R213 to R216) -/

def minute : Nat := 60 * nsPerSec

/-- When a test next falls due: an interval from now, 0 for one that is disabled (R216). -/
def testDue (s : State) (rp k d : Nat) : Nat := if selftestItem s rp k d = 0 then 0 else s.clk.up + selftestItem s rp k d
def shortDefault : Nat := 24 * 60 * minute
def extDefault : Nat := 30 * 24 * 60 * minute

/-- A record has a home range on a drive. -/
def JRec.on (s : State) (r : JRec) (rp : Nat) : Bool := (piecesFor s r.vns r.lba r.blocks).any (fun p => p.rp == rp)

/-- The records of a journal that a drive's return lets be written home again; their namespaces wait for it (R215). -/
def wakeRecords (s : State) (j rp : Nat) : State :=
  s.onJournal j (fun x => { x with recs := x.recs.map (fun r =>
    if r.written && r.left == 0 && r.failed then { r with failed := false, issued := false, behind := r.on s rp }
    else if r.written && !r.issued && r.on s rp then { r with behind := true } else r) })

/-- A drive enters ONLINE (R213, step 7): its tests are scheduled, journals on it are replayed, the home writes that wait for it go
out. -/
def driveOnline (s : State) (rp : Nat) : State :=
  let s := s.onDrive rp (fun d => { d with
    st := .online, step := 7, lastHost := s.clk.up
    shortDue := if d.shortDue = 0 then testDue s rp 0 shortDefault else d.shortDue
    extDue := if d.extDue = 0 then testDue s rp 1 extDefault else d.extDue })
  (s.sto.journals.map Prod.fst).foldl (fun s j => scanStart (pumpHomes (wakeRecords s j rp) j) j) s

def driveFailed (s : State) (rp : Nat) : State := raise (s.onDrive rp (fun d => { d with st := .failed, admin := [] })) 0x0904 rp []

/-- The serial number declared for a root port, none when none is set. -/
def declaredSerial (s : State) (rp : Nat) : Option Nat :=
  match s.cfgRec? (itemId 9 2 2) rp 0 with
  | some b => if zeroAt b 0 8 then none else some (beAt b 0 8)
  | none => none

/-- The drive namespaces declared on a root port: those of extents and of journals. -/
def declaredNs (s : State) (rp : Nat) : List Nat :=
  ((s.cfg.recs.filter (fun p => (keyItem p.1 == itemId 9 1 2 || keyItem p.1 == itemId 9 2 1) && leAt p.2 0 8 == rp)).map
    (fun p => leAt p.2 8 8)).eraseDups

/-- The admin commands of a step of R213: one queue pair per 2 lanes in step 6. -/
def stepAdmin (s : State) (rp : Nat) : Nat → List AdminCmd
  | 3 => [.configure]
  | 4 => [.enable, .identifyController] ++ (declaredNs s rp).map .identifyNamespace ++ [.activeNamespaces]
  | _ => .setQueues (driveLanes s / 2) :: (List.range (driveLanes s / 2)).flatMap (fun i => [.createCq (i + 1), .createSq (i + 1)])

/-- A step of R213 begins. Step 4 asks the drive anew what it is; step 6 posts the Asynchronous Event Request. -/
def startStep (s : State) (rp k : Nat) : State :=
  s.onDrive rp (fun d => { d with
    step := k, admin := stepAdmin s rp k, aer := k == 6
    nsSizes := if k = 4 then [] else d.nsSizes, badNs := if k = 4 then false else d.badNs })

/-- What the answer to an admin command tells of a drive. -/
def noteAdmin (c : AdminCmd) (a : AdminDone) (d : Drive) : Drive :=
  match c with
  | .identifyController => { d with serial := a.serial.toNat }
  | .identifyNamespace n => { d with nsSizes := tset d.nsSizes n a.nsBlocks.toNat, badNs := d.badNs || !a.blocksOk }
  | _ => d

/-- The drive of a root port has the declared serial number, if one is set. -/
def serialOk (s : State) (rp : Nat) : Bool := declaredSerial s rp == none || declaredSerial s rp == some (s.drive rp).serial

/-- Step 5 of R213: the declared serial number, and 4,096-byte blocks without metadata. -/
def driveChecks (s : State) (rp : Nat) : Bool := !(s.drive rp).badNs && serialOk s rp

/-- The admin commands of a step have all completed: the next step. -/
def stepDone (s : State) (rp : Nat) : State :=
  if (s.drive rp).step = 3 then startStep s rp 4
  else if (s.drive rp).step = 4 then (if driveChecks s rp then startStep s rp 6 else driveFailed s rp)
  else driveOnline s rp

/-- The admin command of a drive's bring-up that has waited longest completes (R213). -/
def driveAdmin (s : State) (rp : Nat) (a : AdminDone) : State :=
  let d := s.drive rp
  if d.st ≠ .init ∧ d.st ≠ .resetting then s
  else match d.admin with
    | [] => s
    | c :: rest =>
      if !a.ok then driveFailed s rp
      else
        let s := s.onDrive rp (fun d => { noteAdmin c a d with admin := rest })
        if rest.isEmpty then stepDone s rp else s

/-- Namespaces with an extent on a root port. -/
def nsOn (s : State) (rp : Nat) : List Nat :=
  ((s.cfg.recs.filter (fun p => keyItem p.1 == itemId 9 1 2 && leAt p.2 0 8 == rp)).map (fun p => keyIndex p.1)).eraseDups

/-- DRIVE_FAILURE (R215). -/
def driveFails (s : State) (rp : Nat) (how : DriveLoss) : State :=
  let fatal := how == .aerFatal || how == .cfs
  let s := s.onDrive rp (fun d => { d with
    st := if fatal then .resetting else .absent, step := 0, admin := [], aer := false, test := none, linkTry := s.clk.up })
  let s := failDrive (if fatal then startStep s rp 4 else s) rp stoDrive
  let s := if fatal then countErr s (stoErr 2) else s
  (nsOn s rp).foldl (fun s v => raise s 0x0905 v []) (raise s 0x0904 rp [])

/-- ABORT_TIMEOUT: the controller is reset (R214). -/
def resetDrive (s : State) (rp : Nat) : State :=
  let now := s.clk.up
  let s := s.onDrive rp (fun d => { d with
    resets := now :: d.resets.filter (fun t => decide (now < t + 10 * minute)), test := none, st := .resetting })
  let s := startStep s rp 4
  let s := countErr (failDrive s rp stoTimeout) (stoErr 2)
  let s := raise s 0x0903 rp []
  if 3 ≤ (s.drive rp).resets.length then driveFailed s rp else s

/-- A self-test started. -/
def startTest (s : State) (rp : Nat) (ext : Bool) : State :=
  s.onDrive rp (fun d => { d with test := some { ext := ext, start := s.clk.up }, again := none })

/-- The test that is due on a drive, an aborted one first. -/
def dueTest (s : State) (rp : Nat) : Option Bool :=
  let d := s.drive rp
  match d.again with
  | some e => some e
  | none =>
    if d.shortDue ≠ 0 ∧ d.shortDue ≤ s.clk.up then some false
    else if d.extDue ≠ 0 ∧ d.extDue ≤ s.clk.up then some true
    else none

/-- Aborts in a row of one of a drive's two tests. -/
def Drive.abortsOf (d : Drive) (ext : Bool) : Nat := if ext then d.abortsExt else d.aborts
def Drive.setAborts (d : Drive) (ext : Bool) (n : Nat) : Drive := if ext then { d with abortsExt := n } else { d with aborts := n }

/-- An aborted test counted, and reported after 16 in a row (R216). -/
def testAborted (s : State) (rp : Nat) (ext : Bool) : State :=
  let s := s.onDrive rp (fun d => { d with test := none, again := some ext }.setAborts ext (d.abortsOf ext + 1))
  if (s.drive rp).abortsOf ext = 16 then raise (s.onDrive rp (fun d => d.setAborts ext 0)) 0x0907 rp [] else s

/-- A self-test has ended: its result reported, and the next one due (R216). -/
def testEnds (s : State) (rp result : Nat) : State :=
  match (s.drive rp).test with
  | none => s
  | some t =>
    let s := raise (s.onDrive rp (fun d => { d with lastResult := result })) 0x0906 rp (encN result)
    if t.aborting then testAborted s rp t.ext
    else
      s.onDrive rp (fun d => { d.setAborts t.ext 0 with
        test := none
        shortDue := if t.ext then d.shortDue else testDue s rp 0 shortDefault
        extDue := if t.ext then testDue s rp 1 extDefault else d.extDue
        overdueShort := if t.ext then d.overdueShort else false
        overdueExt := if t.ext then false else d.overdueExt })

/-- The value kept for a test that was not completed: NVMe's entry of no result (log 20). -/
def testNotCompleted : Nat := 0xF

/-! ### The commands -/

/-- Storage commands run once the part is configured. -/
def stoOn (s : State) : Bool := s.phase == .running && s.committed

/-- A row that takes a submission of an opcode. -/
def takeRow (t : Nat) (tf : BitVec 12) (q : Fin 64) (p : Bytes → Bool) (s : State) : Host.Outcome State Fault Refusal :=
  act t s (fun s => if stoOn s then takeSub s (sqKey tf.toNat q.val) p else s)

def opIs (n : Nat) (m : Bytes) : Bool := beAt m 0 1 == n

def execStoFlush (t : Nat) (tf : BitVec 12) (q : Fin 64) (s : State) := takeRow t tf q (opIs 0) s
def execStoWrite (t : Nat) (tf : BitVec 12) (q : Fin 64) (s : State) := takeRow t tf q (opIs 1) s
def execStoRead (t : Nat) (tf : BitVec 12) (q : Fin 64) (s : State) := takeRow t tf q (opIs 2) s
def execStoWriteZeroes (t : Nat) (tf : BitVec 12) (q : Fin 64) (s : State) := takeRow t tf q (opIs 8) s
def execStoDeallocate (t : Nat) (tf : BitVec 12) (q : Fin 64) (s : State) := takeRow t tf q (opIs 9) s
def execStoLog (t : Nat) (tf : BitVec 12) (q : Fin 64) (s : State) := takeRow t tf q (opIs 0xC0) s
def execStoRestartResume (t : Nat) (tf : BitVec 12) (q : Fin 64) (s : State) :=
  takeRow t tf q (fun m => opIs 0xC1 m && beAt m 0x20 4 != 1) s
def execStoRestartDiscard (t : Nat) (tf : BitVec 12) (q : Fin 64) (s : State) :=
  takeRow t tf q (fun m => opIs 0xC1 m && beAt m 0x20 4 == 1) s

def execStoDispatch (t : Nat) (s : State) := act t s (fun s => if stoOn s then stoDispatch s else s)

def execNvmeCompletion (t : Nat) (rp : Fin 16) (d : NvmeDone) (s : State) := act t s (fun s => nvmeComplete s rp.val d)

/-- COALESCE_TIMEOUT (R195). -/
def execCoalesceTimeout (t : Nat) (tf : BitVec 12) (q : Fin 64) (s : State) :=
  act t s (fun s =>
    match s.sq? (sqKey tf.toNat q.val) with
    | some x => match x.coal with
      | e :: _ => if e.at_ + x.coTime ≤ s.clk.up then sendCoal s (sqKey tf.toNat q.val) else s
      | [] => s
    | none => s)

/-- JOURNAL_CHECKPOINT (R207). -/
def execJournalCheckpoint (t : Nat) (j : Fin 16) (s : State) :=
  act t s (fun s =>
    let x := s.journal j.val
    if x.usable ∧ x.retired ∧ x.ckAt + 1000000 ≤ s.clk.up then pumpWaiters j.val 65536 (checkpoint s j.val) else s)

/-- DRIVE_TIMEOUT (R214). -/
def execDriveTimeout (t : Nat) (rp : Fin 16) (cid : Nat) (s : State) :=
  act t s (fun s =>
    match tget? (s.drive rp.val).cmds cid with
    | some c =>
      if c.timedOut.isNone ∧ c.start + driveTimeout s rp.val ≤ s.clk.up then
        countErr (s.onDrive rp.val (fun d => { d with cmds := tset d.cmds cid { c with abortAt := some s.clk.up, timedOut := some s.clk.up } }))
          (stoErr 1)
      else s
    | none => s)

/-- The Abort of a command that timed out has not completed within 1 s (R214). -/
def NvmeCmd.abortLate (c : NvmeCmd) (now : Nat) : Bool :=
  c.abortAt.isSome && (match c.timedOut with
    | some a => decide (a + nsPerSec ≤ now)
    | none => false)

/-- ABORT_TIMEOUT (R214). -/
def execAbortTimeout (t : Nat) (rp : Fin 16) (s : State) :=
  act t s (fun s => if (s.drive rp.val).cmds.any (fun c => c.2.abortLate s.clk.up) then resetDrive s rp.val else s)

/-- DRIVE_FAILURE (R215). A FAILED drive leaves that state when it is removed or its link is lost. -/
def execDriveFailure (t : Nat) (rp : Fin 16) (how : DriveLoss) (s : State) :=
  act t s (fun s =>
    let d := (s.drive rp.val).st
    if d = .online ∨ d = .init ∨ d = .resetting ∨ (d = .failed ∧ (how = .removed ∨ how = .linkLost)) then driveFails s rp.val how else s)

/-- DRIVE_LINK_UP (R213, steps 2 and 3). -/
def execDriveLinkUp (t : Nat) (rp : Fin 16) (s : State) :=
  act t s (fun s => if (s.drive rp.val).released ∧ (s.drive rp.val).st = .absent ∧ s.clk.pcieOk then
    startStep (s.onDrive rp.val (fun d => { d with st := .init })) rp.val 3 else s)

/-- DRIVE_LINK_RETRY: training is tried again every 1 s (R213). -/
def execDriveLinkRetry (t : Nat) (rp : Fin 16) (s : State) :=
  act t s (fun s => if (s.drive rp.val).released ∧ (s.drive rp.val).st = .absent ∧ (s.drive rp.val).linkTry + nsPerSec ≤ s.clk.up then
    s.onDrive rp.val (fun d => { d with linkTry := s.clk.up }) else s)

def execDriveAdminCompletion (t : Nat) (rp : Fin 16) (done : AdminDone) (s : State) := act t s (fun s => driveAdmin s rp.val done)

/-- SELFTEST_IDLE_START (R216). -/
def execSelftestIdleStart (t : Nat) (rp : Fin 16) (s : State) :=
  act t s (fun s =>
    let d := s.drive rp.val
    if d.st = .online ∧ d.test = none ∧ d.lastHost + selftestItem s rp.val 2 100000000 ≤ s.clk.up then
      match dueTest s rp.val with
      | some e => startTest s rp.val e
      | none => s
    else s)

/-- SELFTEST_TIMEOUT: a short test past 2 minutes is aborted and reported as not completed (R216). -/
def execSelftestTimeout (t : Nat) (rp : Fin 16) (s : State) :=
  act t s (fun s =>
    match (s.drive rp.val).test with
    | some x => if x.ext = false ∧ x.start + 2 * minute ≤ s.clk.up then
        testAborted (raise (s.onDrive rp.val (fun d => { d with lastResult := testNotCompleted })) 0x0906 rp.val (encN testNotCompleted)) rp.val false
      else s
    | none => s)

def execSelftestResult (t : Nat) (rp : Fin 16) (result : Nat) (s : State) := act t s (fun s => testEnds s rp.val (result % 16))

/-- SELFTEST_OVERDUE (R216): once for each test that has not completed within its interval. -/
def execSelftestOverdue (t : Nat) (rp : Fin 16) (s : State) :=
  act t s (fun s =>
    let d := s.drive rp.val
    let late (due k dflt : Nat) : Bool := due != 0 && decide (due + selftestItem s rp.val k dflt ≤ s.clk.up)
    if !d.overdueShort && late d.shortDue 0 (24 * 60 * minute) then
      raise (s.onDrive rp.val (fun d => { d with overdueShort := true })) 0x0907 rp.val []
    else if !d.overdueExt && late d.extDue 1 (30 * 24 * 60 * minute) then
      raise (s.onDrive rp.val (fun d => { d with overdueExt := true })) 0x0907 rp.val []
    else s)

/-- DRIVE_FW_DONE (R219): the event's data is the result, MBX_OK or MBX_E_VERIFY. -/
def execDriveFwDone (t : Nat) (rp : Fin 16) (accepted : Bool) (s : State) :=
  act t s (fun s => if (s.drive rp.val).fw then
    raise (s.onDrive rp.val (fun d => { d with fw := false })) 0x0908 rp.val (encN (if accepted then 0 else 0x0007)) else s)

/-- REPLAY_DONE (R209). -/
def execReplayDone (t : Nat) (j : Fin 16) (s : State) :=
  act t s (fun s =>
    match replayOver s j.val with
    | some n => if (s.journal j.val).replay ∧ journalLost s j.val = none then replayEnd s j.val n else s
    | none => s)

end Sys2Proof.Machine
end

