-- ==== Sys2Proof/Machine/Ends.lean ====
section
/-! DEFINITION. The end of an outbound EHT message (R170): what its owner hears, and the submissions that
its room lets start. -/

namespace Sys2Proof.Machine

def ehtErr (k : Nat) : Nat := ehtBase + 0x40 + 4 * k
def ehtStat (k : Nat) : Nat := ehtBase + 0x100 + 8 * k
def tfStat (tf k : Nat) : Nat := objBase 3 tf + 0x100 + 8 * k
def tfErr (tf k : Nat) : Nat := objBase 3 tf + 0x40 + 4 * k

/-- Statuses of R161. -/
def ehtAck : Nat := 0
def nakNoCredit : Nat := 0x10
def nakRetry : Nat := 0x11
def nakKey : Nat := 0x20
def nakRevoked : Nat := 0x21
def nakBounds : Nat := 0x22
def nakRights : Nat := 0x23
def nakMoved : Nat := 0x30
def nakFrozen : Nat := 0x31
def nakTfDisabled : Nat := 0x32
def nakFenced : Nat := 0x50
def ehtTimeoutSt : Nat := 0x80
def ehtAborted : Nat := 0x81
def ehtUnreachable : Nat := 0x82

/-- The words of an EHT completion (R262). -/
def ehtWords (kind status eid msgId peer len ref : Nat) : List Word64 :=
  wordsOf 4 ([BitVec.ofNat 8 kind, BitVec.ofNat 8 status, 0, 0] ++ leBytes 4 eid ++ leBytes 8 msgId ++ leBytes 4 peer
    ++ leBytes 4 len ++ leBytes 4 ref ++ [0, 0, 0, 0])

/-- Words promised to a completion (R261). -/
def reserveChan (s : State) (c n : Nat) : State := s.onChan c (fun x => { x with reserved := x.reserved + n })
def releaseChan (s : State) (c n : Nat) : State := s.onChan c (fun x => { x with reserved := x.reserved - n })

/-- The completion of an outbound message on its channel (KIND 3). -/
def completeOn (s : State) (c status : Nat) (m : OutMsg) (len : Nat) : State :=
  let s := releaseChan s c 4
  match deliver s c 0x8001 (ehtWords 3 status m.ep m.msgId m.dstEid len 0) none with
  | some s' => s'
  | none => chanDrop s c

/-- The end of an event message (R362). -/
def eventEnd (s : State) (n status : Nat) : State :=
  match tget? s.mbx.subs n with
  | none => s
  | some u =>
    match u.open_ with
    | none => s
    | some (last, k) =>
      if status = ehtAck then
        { s with mbx.subs := tset s.mbx.subs n { u with open_ := none, retryAt := none, fails := 0, gap := false, next := if seqFrom (seqNext last) u.next then seqNext last else u.next } }
      else if 3 ≤ u.fails + 1 then raise { s with mbx.subs := tdel s.mbx.subs n } 0x0207 n []
      else { s with mbx.subs := tset s.mbx.subs n { u with open_ := some (last, k), retryAt := some (s.clk.up + 10000000), fails := u.fails + 1 } }

/-- The end of a response (R334), and of the one that a DEV_RESET waits for (R413). -/
def responseEnd (s : State) (k status : Nat) : State :=
  let s := if status = ehtAck then s else countErr s (clerkBase + 0x48)
  match s.clk.resetPend with
  | some (some j, _) => if j = k then { s with clk.resetPend := some (none, s.clk.up) } else s
  | _ => s

/-- The end of a WRITE of a migration blob (R238). -/
def saveEnd (s : State) (tf status : Nat) : State :=
  s.onTf tf (fun x => { x with save := x.save.map (fun o =>
    { o with left := o.left - 1, bad := if status = ehtAck ∨ o.bad.isSome then o.bad else some status }) })

/-- The end of a READ of a migration blob (R241). -/
def restoreEnd (s : State) (tf part status : Nat) (data : Bytes) : State :=
  s.onTf tf (fun x => { x with restore := x.restore.map (fun o =>
    { o with left := o.left - 1, parts := tset o.parts part data
             bad := if status = ehtAck ∨ o.bad.isSome then o.bad else some status }) })

/-- A restore is over: the tenant function is FROZEN and the event is raised (R241, R242). -/
def restoreOver (s : State) (tf status : Nat) : State :=
  raise (s.onTf tf (fun x => { x with st := .frozen, restore := none, frozenAt := s.clk.up })) 0x0A02 tf (encN status)

/-- The end of a WRITE of a key map; the last ends the restore, with the status of the first that failed (log 29). -/
def keyMapEnd (s : State) (tf status : Nat) : State :=
  match (s.tf tf).restore with
  | some o =>
    let o := { o with left := o.left - 1, bad := if o.bad.isNone && status != 0 then some status else o.bad }
    if (s.tf tf).st ≠ .restoring then s
    else if o.left = 0 then restoreOver s tf (o.bad.getD 0)
    else s.onTf tf (fun x => { x with restore := some o })
  | none => s

/-- What the owner of a message hears of its end: status, the answer's BYTES, the data of a READ. -/
def ownerEnd (s : State) (k : Nat) (m : OutMsg) (status bytes : Nat) (data : Bytes) : State :=
  match m.owner with
  | .channel c _ => completeOn s c status m bytes
  | .response _ _ => responseEnd s k status
  | .event n => eventEnd s n status
  | .storage tf q n => sentEnd s (sqKey tf q) n status
  | .readResp => s
  | .transfer tf q no => transferEnd s (sqKey tf q) no status data
  | .save tf => saveEnd s tf status
  | .keyMap tf => keyMapEnd s tf status
  | .restore tf part => restoreEnd s tf part status data

/-- Waiting messages of the engine's own units opened, in order, while there is room (R170, R221). -/
def launchOwn : Nat → State → State
  | 0, s => s
  | n + 1, s =>
    match s.eht.waiting.find? (fun x => outRoom s (tget s.eht.eps (epKey s x.2.ep) default).tf) with
    | some x => launchOwn n (sendFrom { s with eht.waiting := s.eht.waiting.filter (fun y => y.1 != x.1) } x.1 x.2)
    | none => s

/-- The submissions at the head of one core's queue opened while there is room (R295). -/
def launchCore (st r : Nat) : Nat → State → State
  | 0, s => s
  | n + 1, s =>
    match (s.role st r).subq with
    | [] => s
    | m :: rest =>
      if outRoom s (tget s.eht.eps (epKey s m.ep) default).tf then
        let k := s.eht.nextOut
        let s := s.onRole st r (fun c => { c with subq := rest })
        launchCore st r n (sendFrom { s with eht.nextOut := k + 1 } k m)
      else s

/-- Every submission that has room now. -/
def launch (s : State) : State :=
  let s := launchOwn s.eht.waiting.length s
  s.ido.stalls.foldl (fun s x => x.2.cores.foldl (fun s c =>
    if c.2.subq.isEmpty then s else launchCore x.1 c.1 c.2.subq.length s) s) s

/-- A drained or aborted item of an endpoint counted against its quiesce and its tenant function's. -/
def countItem (s : State) (eid : Nat) (aborted : Bool) : State :=
  let tf := (tget s.eht.eps (epKey s eid) default).tf
  let s := s.qCount (.endpoint (BitVec.ofNat 32 (epKey s eid))) (if aborted then 0 else 1) (if aborted then 1 else 0)
  s.qCountTf tf (if aborted then 0 else 1) (if aborted then 1 else 0)

/-- An outbound message closed with a final status (R170). -/
def finishMsg (s : State) (k status bytes : Nat) (data : Bytes) : State :=
  match tget? s.eht.out k with
  | none => s
  | some m =>
    let s := countItem { s with eht.out := tdel s.eht.out k } m.ep (status == ehtAborted)
    let s := if status = ehtAck then
        countStat (countStat s (ehtStat 5) 1) (tfStat (tget s.eht.eps (epKey s m.ep) default).tf 3) 1
      else if status = ehtTimeoutSt then countErr s (ehtErr 9) else s
    launch (ownerEnd s k m status bytes data)

end Sys2Proof.Machine
end

