-- ==== Sys2Proof/Machine/Eht.lean ====
section
/-! DEFINITION. Ehronaolo Transport (07): receiving in the order of R162 and R163, credits (R176), region
checks (R178 to R185), the answers to what was sent (R170), and the engine's timers. -/

namespace Sys2Proof.Machine

/-! ### Packets read -/

/-- The common header (R152). -/
structure Pkt where
  typ : Nat
  flags : Nat
  len : Nat
  dst : Nat
  src : Nat
  dgen : Nat
  sgen : Nat
  b : Bytes

def parsePkt (b : Bytes) : Pkt :=
  { typ := beAt b 0 1 % 16, flags := beAt b 1 1, len := beAt b 2 2, dst := beAt b 4 4, src := beAt b 8 4
    dgen := beAt b 12 2, sgen := beAt b 14 2, b := b }

/-- Header bytes of a type (R153, R157 to R160). -/
def hdrBytes (typ : Nat) : Nat := [0, 56, 48, 32, 40, 80, 56].getD typ 0

def Pkt.express (p : Pkt) : Bool := p.flags.testBit 6
def Pkt.retx (p : Pkt) : Bool := p.flags.testBit 5
def Pkt.last (p : Pkt) : Bool := p.flags.testBit 7
def Pkt.msgId (p : Pkt) : Nat := beAt p.b 0x10 8
def Pkt.offset (p : Pkt) : Nat := beAt p.b 0x18 4
def Pkt.total (p : Pkt) : Nat := beAt p.b 0x1C 4
def Pkt.op (p : Pkt) : Nat := beAt p.b 0x20 1
def Pkt.seg (p : Pkt) : Nat := beAt p.b 0x21 1
def Pkt.rkey (p : Pkt) : Nat := beAt p.b 0x24 4
def Pkt.addr (p : Pkt) : Nat := beAt p.b 0x28 8
def Pkt.grant (p : Pkt) : Nat := beAt p.b 0x30 4
def Pkt.payload (p : Pkt) : Bytes := p.b.drop 56
def Pkt.index (p : Pkt) : Nat := p.offset / (1024 * 2 ^ p.seg)
def Pkt.key (p : Pkt) : MsgKey :=
  { srcEid := BitVec.ofNat 32 p.src, srcGen := BitVec.ofNat 16 p.sgen, msgId := BitVec.ofNat 64 p.msgId }

/-- A type that exists, with its header and payload whole (R152). -/
def pktWhole (p : Pkt) : Bool :=
  beAt p.b 0 1 / 16 == 1 && decide (1 ≤ p.typ) && decide (p.typ ≤ 6) && p.b.length == hdrBytes p.typ + p.len

/-- E2E_CRC (R156). -/
def crcOk (p : Pkt) : Bool :=
  let n := hdrBytes p.typ
  beAt p.b (n - 4) 4 == (crc32c (p.b.take (n - 4) ++ [0, 0, 0, 0] ++ p.b.drop n)).toNat

/-- The packet rules of a message (R154, R155). -/
def dataFormat (p : Pkt) : Bool :=
  let sz := 1024 * 2 ^ p.seg
  let pl := p.payload
  decide (p.seg ≤ 2) && decide (1 ≤ p.op) && decide (p.op ≤ 6) && zeroAt p.b 0x22 2 && decide (p.len ≤ 4096)
    && p.offset % sz == 0 && decide (p.index < 4096)
    && (if p.last then
          decide (p.total ≤ 16777216) && decide (p.offset ≤ p.total) && p.len == p.total - p.offset && decide (p.len ≤ sz)
            && (decide (0 < p.len) || p.offset == 0)
        else p.len == sz && p.total == 0)
    && (p.op != 1 || (p.rkey == 0 && p.addr == 0)) && (p.op != 4 || p.rkey == 0)
    && (p.op != 3 || (p.last && p.total == 8 && decide (beAt pl 0 4 ≤ 16777216) && decide (beAt pl 4 1 ≤ 2) && zeroAt pl 5 3))
    && (p.op != 5 || (p.last && p.total == 24 && decide (beAt pl 0 1 ≤ 2) && zeroAt pl 1 7))
    && (p.op != 6 || (p.last && p.total == 0 && p.addr == 0))

/-- Format of every type (R152 to R160). -/
def pktFormat (p : Pkt) : Bool :=
  p.flags % 32 == 0 && (p.typ == 1 || (!p.last && p.len == 0))
    && (match p.typ with
        | 1 => dataFormat p
        | 2 => zeroAt p.b 0x19 3
        | 3 => decide (1 ≤ beAt p.b 0x10 2) && decide (beAt p.b 0x10 2 ≤ 4096) && zeroAt p.b 0x12 2 && zeroAt p.b 0x18 4
        | 4 => decide (beAt p.b 0x10 2 ≤ 4096) && zeroAt p.b 0x20 4
        | 6 => beAt p.b 0x18 1 == 0x30 && (beAt p.b 0x19 1 == 4 || beAt p.b 0x19 1 == 6) && zeroAt p.b 0x32 2
        | _ => true)

def ctxOf (s : State) (k : MsgKey) : Option Ctx := s.eht.ctxs.find? (fun c => c.key = k)
def dedupOf (s : State) (k : MsgKey) : Option Dedup := s.eht.dedup.find? (fun d => d.key = k)

/-- A packet that disagrees with what its context has recorded (R154). -/
def disagrees (c : Ctx) (p : Pkt) : Bool :=
  (p.op != c.op || p.seg != c.seg || p.rkey != c.rkey || p.addr != c.addr)
    || (if p.last then (match c.total with
          | some t => t != p.total
          | none => decide (p.index ≤ c.maxIdx) && !c.bitmap.isEmpty)
        else match c.total with
          | some t => decide (t ≤ p.offset + p.len)
          | none => false)

/-- Check 1 of R162: the counter of the failure, none for a good packet. -/
def check1 (s : State) (x : EhtRx) (p : Pkt) : Option Nat :=
  if x.frag then some 1
  else if !x.udpGood then some 0
  else if !pktWhole p then some 1
  else if !crcOk p then some 0
  else if !pktFormat p then some 1
  else if p.typ ≠ 1 then none
  else match ctxOf s p.key with
    | some c => if disagrees c p then some 1 else none
    | none => none

/-! ### Answers (R148, R157, R160, R161) -/

/-- Time to the next epoch advance, in µs (R166). -/
def epochWaitUs (s : State) : Nat := (s.eht.epochAt + ehtL s / 16 - s.clk.up + 999) / 1000

/-- An answer that R162 allows: at most one retry status for a message in any 10 µs. -/
def nakAllowed (s : State) (k : MsgKey) : Bool :=
  !s.eht.nakAt.any (fun x => x.1 = k && decide (s.clk.up < x.2 + 10000))

/-- The counters of an answer's status. -/
def countAnswer (s : State) (tf status : Nat) : State :=
  if status = ehtAck then s
  else
    let s := countStat s (ehtStat 7) 1
    if status = nakNoCredit then countErr s (ehtErr 7)
    else if status = nakFenced then countErr s (ehtErr 10)
    else if status = nakFrozen then countErr s (tfErr tf 3)
    else s

/-- The RETRY_US of a status. -/
def retryUs (s : State) (status : Nat) : Nat :=
  if status = nakRetry then epochWaitUs s
  else if status = nakNoCredit then Config.noCreditRetryUs.toNat
  else if status = nakFrozen then Config.frozenRetryUs.toNat
  else 0

/-- An ACK packet that answers a DATA packet. -/
def answerData (s : State) (x : EhtRx) (p : Pkt) (e : Endpoint) (status result bytes : Nat) (retx : Bool) : State :=
  let limited := status = nakNoCredit ∨ status = nakRetry ∨ status = nakFrozen
  if limited ∧ ¬ nakAllowed s p.key then s
  else
    let s := if limited then { s with eht.nakAt := (p.key, s.clk.up) :: s.eht.nakAt.filter (fun y => decide (s.clk.up < y.2 + 10000)) } else s
    let s := countAnswer s e.tf status
    sendAnswer s x p.express p.src (ackPkt p.express retx p.src p.sgen p.dst e.gen p.msgId status (retryUs s status) result (if retx then 0 else bytes))

/-- MOVED (R160); SRC_GEN is the generation that the endpoint had here. -/
def answerMoved (s : State) (x : EhtRx) (p : Pkt) (m : MovedRec) : State :=
  let hdr := ehtCommon 6 (if p.express then flagExpress else 0) 0 p.src p.dst p.sgen ((m.gen + 65535) % 65536) ++ beBytes 8 p.msgId
    ++ [0x30#8, BitVec.ofNat 8 m.af] ++ beBytes 2 ((m.endsAt - s.clk.up) / 1000000) ++ beBytes 4 m.eid ++ beBytes 16 m.ip
    ++ beBytes 2 m.gen ++ [0, 0]
  sendAnswer (countStat s (ehtStat 7) 1) x p.express p.src (sealPkt hdr [])

/-! ### Checks 5 to 7 -/

/-- A storage endpoint's LOG while its TF is frozen (R191, R237). -/
def frozenLog (s : State) (e : Endpoint) (p : Pkt) : Bool :=
  match e.sq with
  | none => false
  | some q =>
    match s.sq? (sqKey e.tf q) with
    | some x => x.st == .error && p.typ == 1 && p.op == 1 && p.last && p.offset == 0 && beAt p.payload 0 1 == 0xC0
    | none => false

/-- A quiesce of the endpoint or its TF drains, and the packet belongs to work in flight (R162). -/
def drainPass (s : State) (e : Endpoint) (p : Pkt) : Bool :=
  p.typ == 1 && ((ctxOf s p.key).isSome || (dedupOf s p.key).isSome)
    && (s.quiescing (.endpoint (BitVec.ofNat 32 (epKey s p.dst))) || (s.tf e.tf).st == .disabling || (s.tf e.tf).st == .freezing
        || (match e.channel with
            | some c => (s.stall (c / 1024)).st == .quiescing
            | none => false))

/-- Check 5: the TF-state answer, none when the TF serves (R233). A MOVED function's own endpoints answer under check 3; one made
since finds its function not enabled (log 75). -/
def check5 (s : State) (e : Endpoint) (p : Pkt) : Option Nat :=
  if drainPass s e p then none
  else match (s.tf e.tf).st with
    | .enabled => none
    | .disabled => some nakTfDisabled
    | .disabling => some nakTfDisabled
    | .restoring => some nakFrozen
    | .moved => some nakTfDisabled
    | _ => if frozenLog s e p then none else some nakFrozen

/-- DST_GEN 0 at the mailbox endpoint: a single-packet DEV_INFO request, or a TALLY (R332). -/
def genFree (s : State) (p : Pkt) : Bool :=
  (isMailbox s p.dst || p.dst == 0xFFFFFFFF) && p.dgen == 0
    && (p.typ == 5 || (p.typ == 1 && p.op == 1 && p.last && p.offset == 0 && beAt p.payload 4 2 == 0x0101))

/-- The endpoint takes no new work: it is QUIESCING or disabled, or its Stall does not run (R186, R273). -/
def epClosed (s : State) (eid : Nat) (e : Endpoint) : Bool :=
  s.stopped (.endpoint (BitVec.ofNat 32 eid))
    || (match e.channel with
        | some c => (s.stall (c / 1024)).st != .running
        | none => false)

/-- The first stale packet for an endpoint since its generation rose is reported (R34). -/
def toldFenced (s : State) (eid : Nat) : State :=
  if s.fence.told.contains (.endpoint eid) then s
  else raise { s with fence.told := .endpoint eid :: s.fence.told } 0x0103 eid []

/-- The generation tests of checks 6 and 7: whether one fails, with what they count. The discard of a packet that carries no
message, and so gets no NAK, counts in FENCED as its NAK would (R34). -/
def genStale (s : State) (eid : Nat) (e : Endpoint) (p : Pkt) : State × Bool :=
  let stale := p.dgen != e.gen % 65536 && !genFree s p
  let s := if stale then
      toldFenced (if serialLater 16 p.dgen e.gen then countErr s (ehtErr 11) else s) eid
    else s
  let old := s.eht.book.any (fun b => b.2.eid == p.src && serialEarlier 16 p.sgen b.2.gen)
  (if (stale || old) && p.typ != 1 then countErr s (ehtErr 10) else s, stale || old)

/-- Checks 6 and 7: NAK_FENCED or none, with what they count. -/
def check67 (s : State) (eid : Nat) (e : Endpoint) (p : Pkt) : State × Bool :=
  let r := genStale s eid e p
  (r.1, r.2 || (epClosed s eid e && !drainPass s e p))

/-! ### Room and credit (R166, R167, R176, R221) -/

def ctxTf (s : State) (tf : Nat) : Nat :=
  (s.eht.ctxs.filter (fun c => (tget s.eht.eps c.dst default).tf == tf)).length

/-- A bulk entry and a bulk context that may still be taken. -/
def bulkDedupRoom (s : State) : Bool :=
  decide (s.eht.dedup.length < 1048576) && decide ((s.eht.dedup.filter (fun d => !d.express)).length < 1015808)
def bulkCtxRoom (s : State) : Bool :=
  decide (s.eht.ctxs.length < 65536) && decide ((s.eht.ctxs.filter (fun d => !d.express)).length < 64512)

/-- Check 9: the counter of what is lacking. -/
def check9 (s : State) (e : Endpoint) (express : Bool) : Option Nat :=
  if !(if express then decide (s.eht.dedup.length < 1048576) else bulkDedupRoom s) then some (ehtErr 5)
  else if !(if express then decide (s.eht.ctxs.length < 65536) else bulkCtxRoom s) then some (ehtErr 6)
  else if s.cfgN (itemId 0xA 1 10) e.tf 0 4096 ≤ ctxTf s e.tf then some (tfErr e.tf 2)
  else none

/-- The pool of an endpoint for a packet: the express pool, or the TF's bulk pool. -/
def poolExpress (s : State) (e : Endpoint) (express : Bool) : Bool := express && class7Ok s e.tf
def creditSize (s : State) (e : Endpoint) (x : Bool) : Nat := if x then expressPool s else bulkPool s e.tf
/-- Units promised by live grants of a pool. -/
def promised (s : State) (e : Endpoint) (x : Bool) : Nat :=
  s.eht.grants.foldl (fun n g => if g.2.express = x ∧ (x ∨ g.2.tf = e.tf) then n + g.2.left else n) 0
def creditFree (s : State) (e : Endpoint) (x : Bool) : Nat := creditSize s e x - promised s e x

/-- Check 10: the state after the unit, none for NAK_NO_CREDIT. -/
def check10 (s : State) (e : Endpoint) (p : Pkt) : Option State :=
  if p.op = 4 then some s
  else if p.grant = 0 then
    let x := poolExpress s e p.express
    if uncreditedMax s ≤ p.index ∨ creditFree s e x * 100 < creditSize s e x * uncreditedFloor s then none else some s
  else
    match tget? s.eht.grants (p.grant / 65536) with
    | none => none
    | some g =>
      if g.uses % 65536 ≠ p.grant % 65536 ∨ g.expires ≤ s.clk.up ∨ g.src ≠ p.src ∨ g.ep ≠ epKey s p.dst ∨ g.left = 0 then none
      else some { s with eht.grants := tset s.eht.grants (p.grant / 65536) { g with left := g.left - 1 } }

/-! ### Regions (R178 to R182) -/

def rgRead : Nat := 1
def rgWrite : Nat := 2
def rgAtomic : Nat := 4
def rgInvalidate : Nat := 8

/-- The cached descriptors that stay: those with PIN, up to 4,096, the most recently used of them (R181, log 75). -/
def pinnedDescs (s : State) (l : List Nat) : List Nat :=
  (l.filter (fun i => (tget s.eht.regions i default).flags.testBit 0)).take 4096

/-- The descriptor cache (R181): a miss is counted; pinned descriptors stay. -/
def touchDesc (s : State) (idx : Nat) : State :=
  let s := if s.eht.cache.contains idx then s else countStat s (ehtStat 12) 1
  let l := idx :: s.eht.cache.filter (· != idx)
  { s with eht.cache := if l.length ≤ 32768 then l else
      match (l.reverse.find? (fun i => !(pinnedDescs s l).contains i)) with
      | some v => l.filter (· != v)
      | none => l.dropLast }

/-- Distance from the region descriptors to their mirror (R323). -/
def mirrorOff : Nat := 0x66000000

/-- Both copies of a region's descriptor hold a poisoned word (R326). -/
def descLost (s : State) (idx : Nat) : Bool :=
  let a := hbmBase + 64 * idx
  s.mem.poison.any (fun w => w / 8 == a / 64) && s.mem.poison.any (fun w => w / 8 == (a + mirrorOff) / 64)

/-- A descriptor written whole: both copies are good again. -/
def descWritten (s : State) (idx : Nat) : State :=
  let a := hbmBase + 64 * idx
  { s with mem.poison := s.mem.poison.filter (fun w => w / 8 != a / 64 && w / 8 != (a + mirrorOff) / 64) }

/-- A key checked against its descriptor (R178): the region, or the NAK. -/
def lookupKey (s : State) (key : Nat) : Region ⊕ Nat :=
  match tget? s.eht.regions (key / 4096) with
  | none => .inr nakKey
  | some r =>
    if descLost s (key / 4096) then .inr nakKey
    else if r.state = 1 ∧ r.gen = key % 4096 then .inl r
    else if r.state = 2 ∧ key % 4096 = (r.gen + 4095) % 4096 then .inr nakRevoked
    else .inr nakKey

/-- The right is given, and the source passes the filter (R179, R180). -/
def Region.may (r : Region) (right src : Nat) : Bool :=
  r.rights &&& right != 0 && (r.filter == 0xFFFFFFFF || r.filter == src)

/-- Bounds, then rights and filter (R180): the device address of `a`, or the NAK. -/
def regionAccess (s : State) (key a n right src : Nat) : Nat ⊕ Nat :=
  match lookupKey s key with
  | .inr x => .inr x
  | .inl r =>
    if ¬ (r.base ≤ a ∧ a + n ≤ r.base + r.len) then .inr nakBounds
    else if r.may right src then .inl (r.target + (a - r.base))
    else .inr nakRights

/-- A region revoked (R31, R182): generation and state in one cycle. -/
def revokeRegion (s : State) (idx : Nat) : State :=
  match tget? s.eht.regions idx with
  | some r => { s with eht.regions := tset s.eht.regions idx { r with gen := (r.gen + 1) % 4096, state := 2 }
                       eht.revoking := tset s.eht.revoking idx s.clk.up }
  | none => s

/-- A descriptor becomes FREE; its index joins the free order. -/
def freeRegion (s : State) (idx : Nat) : State :=
  match tget? s.eht.regions idx with
  | some r => { s with eht.regions := tset s.eht.regions idx { r with state := 0, freeAt := none }
                       eht.freeOrder := s.eht.freeOrder ++ [idx], eht.revoking := tdel s.eht.revoking idx }
  | none => s

/-! ### Check 11 (R163, R165, R180) -/

/-- The receive ring of an endpoint offers no slot: a storage ring while a journal is replayed (R209), a ring
whose region is not VALID. -/
def ringShut (s : State) (e : Endpoint) : Bool :=
  if e.sq.isSome then replaying s
  else if e.channel.isSome then (match lookupKey s e.ringKey with
    | .inl _ => false
    | .inr _ => true)
  else false

/-- The lowest free slot of a receive ring (R165). -/
def lowestSlot (s : State) (e : Endpoint) : Option Nat :=
  if ringShut s e then none
  else (List.range (e.slotsUsed.length + 1)).find? (fun n => decide (n < e.slotCount) && !e.slotsUsed.contains n)

/-- Where a packet's payload goes. -/
inductive Place where
  /-- a device address -/
  | mem (a : Nat)
  /-- kept by the engine for its own unit -/
  | parts
  /-- nowhere: READ, ATOMIC and INVALIDATE, with the address of their access -/
  | none (a : Nat)

/-- The open READ that a READ_RESP answers (R184). -/
def openRead (s : State) (p : Pkt) : Option (Nat × OutMsg) :=
  s.eht.out.find? (fun x => x.2.op == 3 && epKey s x.2.ep == epKey s p.dst && x.2.msgId == p.addr && x.2.dstEid == p.src)

/-- Where the payload of a SEND goes, in slot `n`; a ring whose region was revoked since fails the message (R31, R182). -/
def sendPlace (s : State) (e : Endpoint) (n : Nat) (p : Pkt) : Place ⊕ Nat :=
  match e.channel with
  | none => .inl .parts
  | some _ => match lookupKey s e.ringKey with
    | .inl r => .inl (.mem (r.target + n * e.slotSize + p.offset))
    | .inr x => .inr x

/-- The key that check 11 compares: the packet's, the ring's for a SEND to a channel, the requester's own for a READ_RESP. -/
def keyChecked (s : State) (e : Endpoint) (p : Pkt) : Option Nat :=
  match p.op with
  | 1 => if e.channel.isSome then some e.ringKey else none
  | 4 => match openRead s p with
    | some (_, m) => match m.owner with
      | .transfer _ _ _ => none
      | .restore _ _ => none
      | _ => some m.retKey
    | none => none
  | _ => some p.rkey

/-- Check 11: the place, or the NAK (NAK_RETRY_LATER: no receive slot). -/
def check11 (s : State) (e : Endpoint) (c : Option Ctx) (p : Pkt) : Place ⊕ Nat :=
  let key := p.rkey
  match p.op with
  | 1 =>
    match (match c with
           | some c => c.slot
           | none => lowestSlot s e) with
    | none => .inr nakRetry
    | some n => if e.slotSize < p.offset + p.len ∨ (p.last ∧ e.slotSize < p.total) then .inr nakBounds else sendPlace s e n p
  | 2 =>
    match (if p.last then regionAccess s key p.addr p.total rgWrite p.src else .inl 0) with
    | .inr x => .inr x
    | .inl _ => match regionAccess s key (p.addr + p.offset) p.len rgWrite p.src with
      | .inl a => .inl (.mem a)
      | .inr x => .inr x
  | 3 => match regionAccess s key p.addr (beAt p.payload 0 4) rgRead p.src with
    | .inl a => .inl (.none a)
    | .inr x => .inr x
  | 4 =>
    match openRead s p with
    | none => .inr nakKey
    | some (_, m) => match m.owner with
      | .transfer _ _ _ => if m.readLen < p.offset + p.len then .inr nakBounds else .inl .parts
      | .restore _ _ => if m.readLen < p.offset + p.len then .inr nakBounds else .inl .parts
      | _ => match regionAccess s m.retKey (m.retAddr + p.offset) p.len rgWrite p.src with
        | .inl a => .inl (.mem a)
        | .inr x => .inr x
  | 5 => if p.addr % 8 ≠ 0 then (match lookupKey s key with
      | .inl _ => .inr nakBounds
      | .inr x => .inr x)
    else match regionAccess s key p.addr 8 rgAtomic p.src with
      | .inl a => .inl (.none a)
      | .inr x => .inr x
  | _ => match lookupKey s key with
    | .inl r => if r.may rgInvalidate p.src then .inl (.none r.target) else .inr nakRights
    | .inr x => .inr x

/-! ### The message state machine (R163 to R167) -/

def dropCtx (s : State) (k : MsgKey) : State := { s with eht.ctxs := s.eht.ctxs.filter (fun c => c.key ≠ k) }

/-- The status of a message recorded in its entry; an entry made when none stands (R163). -/
def recordStatus (s : State) (k : MsgKey) (express : Bool) (dst status result : Nat) : State :=
  let d : Dedup := { key := k, express := express, dst := dst, status := some status, result := result, epoch := s.eht.epoch }
  if (dedupOf s k).isSome then { s with eht.dedup := s.eht.dedup.map (fun x => if x.key = k then { d with express := x.express } else x) }
  else { s with eht.dedup := s.eht.dedup ++ [d] }

/-- A receive-ring slot given back by the engine. -/
def dropSlot (s : State) (eid : Nat) (slot : Option Nat) : State :=
  match slot, tget? s.eht.eps eid with
  | some n, some e => { s with eht.eps := tset s.eht.eps eid { e with slotsUsed := e.slotsUsed.filter (· != n) } }
  | _, _ => s

/-- The context of a new message, with its entry and its slot (R163, R165). -/
def openCtx (s : State) (x : EhtRx) (p : Pkt) (eid : Nat) (e : Endpoint) : State × Ctx :=
  let slot := if p.op = 1 then lowestSlot s e else none
  let c : Ctx := { key := p.key, express := p.express, dst := eid, op := p.op, seg := p.seg, rkey := p.rkey, addr := p.addr
                   total := none, count := 0, bitmap := [], made := s.clk.up, slot := slot, parts := [], maxIdx := 0
                   lp := x.lp.val, ip := x.srcIp.toNat, mac := x.srcMac.toNat }
  let s := match slot with
    | some n => { s with eht.eps := tset s.eht.eps eid { e with slotsUsed := n :: e.slotsUsed } }
    | none => s
  ({ s with
      eht.ctxs := s.eht.ctxs ++ [c]
      eht.dedup := s.eht.dedup ++ [{ key := p.key, express := p.express, dst := eid, status := none, result := 0, epoch := s.eht.epoch }] }, c)

/-- The bytes of the parts of a message, in order. -/
def partsBytes (c : Ctx) (total : Nat) : Bytes :=
  c.parts.foldl (fun b p => patch b p.1 p.2) (List.replicate total 0)

/-- The new value of an ATOMIC (R185). -/
def atomicNew (func old a b : Nat) : Nat :=
  if func = 0 then (old + a) % 2 ^ 64 else if func = 1 then (if old = a then b else old) else a

/-- An ATOMIC executed at a device address: the old value. -/
def doAtomic (s : State) (a : Nat) (pl : Bytes) : State × Nat :=
  let old := ofLe (s.peek a 8)
  (s.poke a (leBytes 8 (atomicNew (beAt pl 0 1) old (beAt pl 8 8) (beAt pl 16 8))), old)

/-- The READ_RESP of a READ (R184): a message of the responding endpoint, always uncredited. -/
def startReadResp (s : State) (x : EhtRx) (p : Pkt) (e : Endpoint) (a : Nat) : State :=
  let n := beAt p.payload 0 4
  let seg := beAt p.payload 4 1
  let m : OutMsg := { ep := p.dst, srcGen := e.gen, msgId := 0, book := none, dstEid := p.src, dstGen := p.sgen
                      dstIp := x.srcIp.toNat, dstMac := x.srcMac.toNat, lp := x.lp.val, op := 4, seg := seg, rkey := 0
                      addr := p.msgId, payload := s.peek a n, express := p.express, cls := controlClass s p.express
                      owner := .readResp, state := .sending, data := some a }
  if 4096 < m.packets then s else (submit s m).1

/-- What the completion of a message does besides its ACK (R164, R183 to R185); the RESULT. -/
def completeOp (s : State) (x : EhtRx) (p : Pkt) (e : Endpoint) (c : Ctx) (a total : Nat) : State × Nat :=
  match c.op with
  | 1 =>
    match e.channel, e.sq with
    | some ch, _ =>
      (match deliver s ch 0x8001 (ehtWords 1 0 p.dst p.msgId p.src total (c.slot.getD 0)) none with
       | some s' => s'
       | none => chanDrop s ch, 0)
    | none, some q => (arriveSub s (sqKey e.tf q) (c.slot.getD 0) (partsBytes c total), 0)
    | none, none =>
      (mbxArrive s { via := .inband, srcEid := BitVec.ofNat 32 p.src, srcGen := BitVec.ofNat 16 p.sgen, srcIp := x.srcIp
                     srcMac := x.srcMac, lp := x.lp } (partsBytes c total) c.slot, 0)
  | 2 =>
    match tget? s.eht.regions (c.rkey / 4096) with
    | some r =>
      if r.flags.testBit 1 then
        (match deliver s r.channel 0x8001 (ehtWords 2 0 p.dst p.msgId p.src total c.rkey) none with
         | some s' => s'
         | none => chanDrop s r.channel, 0)
      else (s, 0)
    | none => (s, 0)
  | 3 => (startReadResp s x p e a, 0)
  | 4 =>
    match openRead s p with
    | some (k, _) => (finishMsg s k ehtAck total (partsBytes c total), 0)
    | none => (s, 0)
  | 5 => doAtomic s a p.payload
  | _ => (raise (revokeRegion s (c.rkey / 4096)) 0x0801 (tget s.eht.regions (c.rkey / 4096) default).tf (encN c.rkey), 0)

/-- DONE: the entry records ACK, the context is freed, the answer goes and the owner hears (R163, R164). -/
def messageDone (s : State) (x : EhtRx) (p : Pkt) (eid : Nat) (e : Endpoint) (c : Ctx) (a total : Nat) : State :=
  let s := countItem (dropCtx s c.key) eid false
  let s := countStat (countStat s (ehtStat 2) 1) (tfStat e.tf 2) 1
  let r := if c.op = 5 then completeOp s x p e c a total else (s, 0)
  let s := recordStatus r.1 c.key c.express eid ehtAck r.2
  let s := answerData s x p e ehtAck r.2 total false
  if c.op = 5 then s else (completeOp s x p e c a total).1

/-- A packet placed in its message (R163). -/
def placePacket (s : State) (x : EhtRx) (p : Pkt) (eid : Nat) (e : Endpoint) (c : Ctx) (pl : Place) : State :=
  let s := match pl with
    | .mem a => s.poke a p.payload
    | _ => s
  let c := { c with
    bitmap := p.index :: c.bitmap, count := c.count + p.len, maxIdx := max c.maxIdx p.index
    total := if p.last then some p.total else c.total
    parts := match pl with
      | .parts => tset c.parts p.offset p.payload
      | _ => c.parts }
  let s := { s with eht.ctxs := s.eht.ctxs.map (fun y => if y.key = c.key then c else y) }
  let s := countStat s (ehtStat 1) p.len
  let a := match pl with
    | .none a => a
    | _ => 0
  match c.total with
  | some t => if c.count = t then messageDone s x p eid e c a t else s
  | none => s

/-- Bytes of a message placed so far: BYTES of a first answer (R157). -/
def placedBytes (s : State) (k : MsgKey) : Nat :=
  match ctxOf s k with
  | some c => c.count
  | none => 0

/-- A packet's message ended by a NAK of check 11: the context is freed, the entry records it, the NAK goes (R163). -/
def failMsg (s : State) (x : EhtRx) (p : Pkt) (eid : Nat) (e : Endpoint) (st : Nat) : State :=
  let n := placedBytes s p.key
  let s := match ctxOf s p.key with
    | some c => dropSlot (dropCtx s c.key) eid c.slot
    | none => s
  answerData (recordStatus s p.key p.express eid st 0) x p e st 0 n false

/-- Checks 8 to 11 of a DATA packet, and its place (R162, R163). -/
def receiveMsg (s : State) (x : EhtRx) (p : Pkt) (eid : Nat) (e : Endpoint) : State :=
  match ctxOf s p.key, dedupOf s p.key with
  | none, some d =>
    let s := countStat s (ehtStat 3) 1
    if p.last then answerData s x p e (d.status.getD ehtAck) d.result 0 true else s
  | c, _ =>
    if (match c with
        | some c => c.bitmap.contains p.index
        | none => false) then countStat s (ehtStat 3) 1
    else match (if c.isNone then check9 s e p.express else none) with
      | some k => answerData (countErr s k) x p e nakRetry 0 (placedBytes s p.key) false
      | none =>
        match check10 s e p with
        | none => answerData s x p e nakNoCredit 0 (placedBytes s p.key) false
        | some s =>
          let s := match keyChecked s e p with
            | some key => touchDesc s (key / 4096)
            | none => s
          match check11 s e c p with
          | .inr st => if st = nakRetry then answerData s x p e st 0 (placedBytes s p.key) false else failMsg s x p eid e st
          | .inl pl =>
            match c with
            | some c => placePacket s x p eid e c pl
            | none => let r := openCtx s x p eid e; placePacket r.1 x p eid e r.2 pl

/-! ### Reception of a packet -/

/-- A packet that waits at the engine must be its first (R149). -/
def takeRx (s : State) (x : EhtRx) : Option State :=
  match s.eht.rx with
  | [] => some s
  | y :: rest => if y = x then some { s with eht.rx := rest } else none

/-- Checks 1 to 3 of R162; `f` goes on with the endpoint. -/
def screen (x : EhtRx) (typOk : Nat → Bool) (f : State → Pkt → Nat → Endpoint → State) (s : State) : State :=
  let p := parsePkt x.bytes
  if !(s.boot.inband && (s.phase == .running || s.phase == .starting)) || !typOk (if pktWhole p then p.typ else 1) then s
  else match takeRx s x with
    | none => s
    | some s =>
      match check1 s x p with
      | some k => countErr s (ehtErr k)
      | none =>
        let s := if p.typ = 1 then countStat s (ehtStat 0) 1 else s
        if !x.local_ && !s.port.mgmtOnly && !x.spoofOk then countErr s (ehtErr 2)
        else
          let any := p.dst = 0xFFFFFFFF
          match (if any then (if p.typ = 5 then tget? s.eht.eps wellKnownEid else none) else s.ep? p.dst) with
          | some e => f s p (if any then wellKnownEid else epKey s p.dst) e
          | none =>
            match tget? s.eht.moved p.dst with
            | some m => if p.typ = 1 then answerMoved s x p m else countErr s (ehtErr 3)
            | none => countErr s (ehtErr 3)

/-- A packet of the operations that pass checks 5 to 7 (R162); those without a message get no NAK. -/
def checked (x : EhtRx) (f : State → Pkt → Nat → Endpoint → State) (s : State) (p : Pkt) (eid : Nat) (e : Endpoint) : State :=
  match check5 s e p with
  | some st => if p.typ = 1 then answerData s x p e st 0 (placedBytes s p.key) false else s
  | none =>
    let r := check67 s eid e p
    if r.2 then (if p.typ = 1 then answerData r.1 x p e nakFenced 0 (placedBytes s p.key) false else r.1) else f r.1 p eid e

/-- DATA: a packet that is none of the other types is one (R162, check 1). -/
def receiveData (s : State) (x : EhtRx) : State :=
  screen x (· == 1) (checked x (fun s p eid e => receiveMsg s x p eid e)) s

/-! ### Credit requests (R176) -/

/-- The lowest free grant index. -/
def freeGrant (s : State) : Option Nat :=
  if 65535 ≤ s.eht.grants.length then none
  else (List.range (s.eht.grants.length + 1)).findSome? (fun i => if (tget? s.eht.grants (i + 1)).isNone then some (i + 1) else none)

/-- CREDIT_GRANT sent. -/
def sendGrant (s : State) (x : EhtRx) (p : Pkt) (e : Endpoint) (units token life retry : Nat) : State :=
  let hdr := ehtCommon 4 (if p.express then flagExpress else 0) 0 p.src p.dst p.sgen e.gen ++ beBytes 2 units ++ beBytes 2 life
    ++ slice p.b 0x14 4 ++ beBytes 4 token ++ beBytes 4 retry ++ [0, 0, 0, 0]
  sendAnswer s x p.express p.src (sealPkt hdr [])

/-- credit_req of R176. -/
def serveCreditReq (s : State) (x : EhtRx) (p : Pkt) (eid : Nat) (e : Endpoint) : State :=
  let s := countStat s (ehtStat 10) 1
  let ex := poolExpress s e p.express
  let free := creditFree s e ex
  let give := min (beAt p.b 0x10 2) (min (grantMax s) (max (free / 4) (min free 1)))
  let life := grantLife s / 1000
  match freeGrant s with
  | none => sendGrant (countErr s (ehtErr 12)) x p e 0 0 0 life
  | some g =>
    if give = 0 then sendGrant s x p e 0 0 0 life
    else
      let uses := (tget s.eht.grantUses g 0 + 1) % 65536
      let s := { s with
        eht.grantUses := tset s.eht.grantUses g uses
        eht.grants := tset s.eht.grants g { src := p.src, ep := eid, express := ex, tf := e.tf, left := give
                                            expires := s.clk.up + grantLife s, uses := uses } }
      sendGrant (countStat s (ehtStat 11) 1) x p e give (g * 65536 + uses) life 0

/-! ### TALLY (R358) -/

/-- The least recently heard sender. -/
def stalest : Tab TallyPeer → Option (Nat × Nat)
  | [] => none
  | p :: rest => match stalest rest with
    | none => some (p.1, p.2.heard)
    | some x => if p.2.heard ≤ x.2 then some (p.1, p.2.heard) else some x

/-- A TALLY recorded by the Clerk. -/
def hearTally (s : State) (x : EhtRx) (p : Pkt) : State :=
  let serial := beAt p.b 0x44 8
  let dig := slice p.b 0x18 32
  let old := tget? s.mbx.tally serial
  let table := match old with
    | some _ => s.mbx.tally
    | none => if s.mbx.tally.length < 256 then s.mbx.tally else match stalest s.mbx.tally with
      | some v => tdel s.mbx.tally v.1
      | none => s.mbx.tally
  let differs := dig != s.cfg.digest
  let streak0 := match old with
    | some o => o.streak
    | none => 0
  let raised0 := match old with
    | some o => o.raised
    | none => false
  let streak := if !s.committed then streak0 else if differs then streak0 + 1 else 0
  let tell := s.committed && differs && decide (3 ≤ streak) && !raised0
  let e : TallyPeer := { counter := beAt p.b 0x10 8, digest := dig, time := beAt p.b 0x38 10, ip := x.srcIp, heard := s.clk.up, heardTime := time80 s.ns
                         streak := streak, raised := if s.committed && !differs then false else raised0 || tell }
  let s := { s with mbx.tally := tset table serial e }
  if tell then raise s 0x0206 0 [] else s

/-! ### Answers received (R170) -/

/-- Check 4: the open message that an answer names. -/
def openMsg (s : State) (p : Pkt) : Option (Nat × OutMsg) :=
  s.eht.out.find? (fun x => epKey s x.2.ep == epKey s p.dst && x.2.msgId == p.msgId && x.2.dstEid == p.src)

/-- An answer that matches nothing. -/
def unmatched (s : State) (p : Pkt) : State := if p.retx then countStat s (ehtStat 9) 1 else countErr s (ehtErr 4)

/-- Check 4, then the generation tests of checks 6 and 7: an answer of another generation is discarded. The state tests are for new
work: an open message of an endpoint or tenant function that drains runs R170 to its end (R186, log 75). -/
def answered (found : State → Pkt → Bool) (f : State → Pkt → State) (s : State) (p : Pkt) (eid : Nat) (e : Endpoint) : State :=
  if !found s p then unmatched s p
  else
    let r := genStale s eid e p
    if r.2 then r.1 else f r.1 p

/-- The message sends no more: it is past t0 + W. -/
def OutMsg.draining (m : OutMsg) : Bool := m.state == .drain

/-- What an ACK carries back to the owner of an ATOMIC (R157). -/
def ackResult (m : OutMsg) (p : Pkt) : Bytes := if m.op = 5 then slice p.b 0x20 8 else []

/-- The book entry's grant cleared (R170). -/
def clearGrant (s : State) (m : OutMsg) : State :=
  match m.book with
  | some b => s.onBook b (fun e => { e with grant := none })
  | none => s

/-- ACK in an open message (R170, WAIT and DRAIN): a retry status closes a message that drains. -/
def takeAck (s : State) (p : Pkt) : State :=
  match openMsg s p with
  | none => unmatched s p
  | some (k, m) =>
    let st := beAt p.b 0x18 1
    let retry := beAt p.b 0x1C 4 * 1000
    let s := if st = ehtAck then s else countStat s (ehtStat 8) 1
    if st = ehtAck ∧ m.op = 3 then s.onOut k { m with acked := true }
    else if st = nakNoCredit then
      match m.state with
      | .wait _ _ =>
        if m.book.isNone ∨ m.op = 4 then s
        else requestCredit (clearGrant s m) k { m with next := 0, round := m.round + 1, needCredit := true }
      | .drain => finishMsg (clearGrant s m) k st (beAt p.b 0x28 4) []
      | _ => s
    else if st = nakRetry ∨ st = nakFrozen then
      match m.state with
      | .wait rto _ => s.onOut k { m with state := .wait rto (some (min rto (s.clk.up + retry))) }
      | .drain => finishMsg s k st (beAt p.b 0x28 4) []
      | _ => s
    else finishMsg s k st (beAt p.b 0x28 4) (ackResult m p)

/-- The message whose credit request a grant answers. -/
def grantedMsg (s : State) (p : Pkt) : Option (Nat × OutMsg) :=
  s.eht.out.find? (fun x => epKey s x.2.ep == epKey s p.dst && x.2.dstEid == p.src && x.2.reqTag == some (beAt p.b 0x14 4))

/-- CREDIT_GRANT (R170, R177). -/
def takeGrant (s : State) (p : Pkt) : State :=
  match grantedMsg s p with
  | none => unmatched s p
  | some (k, m) =>
    let m := { m with reqTag := none }
    let s := s.onOut k m
    let units := beAt p.b 0x10 2
    if 0 < units then
      let g : BookGrant := { token := beAt p.b 0x18 4, units := units, stop := s.clk.up + beAt p.b 0x12 2 * 1000 - 2000 }
      let s := match m.book with
        | some b => s.onBook b (fun e => { e with grant := some g })
        | none => s
      match m.state with
      | .credit _ => sendFrom s k m
      | _ => s
    else match m.state with
      | .credit _ => s.onOut k { m with state := .credit (some (s.clk.up + beAt p.b 0x1C 4 * 1000)) }
      | _ => s

/-- MOVED (R170): followed when the entry allows it and the packet comes from its current address; a message that drains is
closed by it. -/
def takeMoved (s : State) (x : EhtRx) (p : Pkt) : State :=
  match openMsg s p with
  | none => unmatched s p
  | some (k, m) =>
    let s := countStat s (ehtStat 8) 1
    match m.book.bind (fun b => (tget? s.eht.book b).map (fun e => (b, e))) with
    | none => finishMsg s k nakMoved 0 []
    | some (b, e) =>
      if e.follow ∧ x.srcIp.toNat = e.ip then
        let ip := beAt p.b 0x20 16
        let s := s.onBook b (fun e => { e with ip := ip, eid := beAt p.b 0x1C 4, gen := beAt p.b 0x30 2 })
        let s := raise s 0x0802 e.tf []
        let m := { m with dstEid := beAt p.b 0x1C 4, dstGen := beAt p.b 0x30 2, dstIp := ip }
        match m.state with
        | .wait _ _ => resendAll s k m
        | .drain => finishMsg s k nakMoved 0 []
        | _ => s.onOut k m
      else finishMsg s k nakMoved 0 []

/-! ### Aborts (R186) -/

/-- The contexts of an endpoint freed; their entries record NAK_FENCED. -/
def abortContexts (s : State) (eid : Nat) : State :=
  (s.eht.ctxs.filter (fun c => c.dst == eid)).foldl (fun s c =>
    countItem (recordStatus (dropSlot (dropCtx s c.key) eid c.slot) c.key c.express eid nakFenced 0) eid true) s

/-- A message that waits for room, or in a core's queue, ended where it stands. -/
def endWaiting (s : State) (k : Nat) (m : OutMsg) (status : Nat) : State :=
  ownerEnd (countItem s m.ep true) k m status 0 []

/-- The outbound messages that satisfy `p`, wherever they stand, completed with EHT_ABORTED. -/
def abortWhere (s : State) (p : OutMsg → Bool) : State :=
  let ks := (s.eht.out.filter (fun x => p x.2)).map Prod.fst
  let ws := s.eht.waiting.filter (fun x => p x.2)
  let s := { s with eht.waiting := s.eht.waiting.filter (fun x => !p x.2) }
  let qs := s.ido.stalls.flatMap (fun x => x.2.cores.flatMap (fun c => c.2.subq.filter p))
  let s := { s with ido.stalls := s.ido.stalls.map (fun x => (x.1, { x.2 with cores := x.2.cores.map (fun c =>
    (c.1, { c.2 with subq := c.2.subq.filter (fun m => !p m) })) })) }
  let s := ks.foldl (fun s k => finishMsg s k ehtAborted 0 []) s
  let s := ws.foldl (fun s w => endWaiting s w.1 w.2 ehtAborted) s
  qs.foldl (fun s m => endWaiting s 0 m ehtAborted) s

/-- Every outbound message of an endpoint completed with EHT_ABORTED. -/
def abortMessages (s : State) (eid : Nat) : State := abortWhere s (fun m => epKey s m.ep == eid)

/-- The bytes under a message's DATA are no longer its tenant function's to read, and it may still transmit them (R296; log 75). -/
def OutMsg.unreadable (s : State) (m : OutMsg) : Bool :=
  let tf := (tget s.eht.eps (epKey s m.ep) default).tf
  let n := m.payload.length
  match m.data with
  | some a => m.state != .drain && ((inMarket a n && !tfMarket s tf a n && !inHeldBuf s tf a n) || (inHbm a n && !tfHbm s tf a n))
  | none => false

def abortUnreadable (s : State) : State := abortWhere s (fun m => m.unreadable s)

/-- Every item of an endpoint aborted. -/
def abortEndpoint (s : State) (eid : Nat) : State := abortMessages (abortContexts s eid) eid

/-! ### The commands -/

def execData (t : Nat) (p : EhtRx) (s : State) := act t s (fun s => receiveData s p)
def execAck (t : Nat) (p : EhtRx) (s : State) := act t s (screen p (· == 2) (answered (fun s q => (openMsg s q).isSome) takeAck))
def execCreditReq (t : Nat) (p : EhtRx) (s : State) :=
  act t s (screen p (· == 3) (checked p (fun s q eid e => serveCreditReq s p q eid e)))
def execCreditGrant (t : Nat) (p : EhtRx) (s : State) := 
  act t s (screen p (· == 4) (answered (fun s q => (grantedMsg s q).isSome) takeGrant))
def execTally (t : Nat) (p : EhtRx) (s : State) :=
  act t s (screen p (· == 5) (checked p (fun s q eid _ => if eid = wellKnownEid then hearTally s p q else s)))
def execMoved (t : Nat) (p : EhtRx) (s : State) := 
  act t s (screen p (· == 6) (answered (fun s q => (openMsg s q).isSome) (fun s q => takeMoved s p q)))

/-- Contexts of a TF that is frozen are captured, and those that a restore carries stand until its thaw: they do not expire
(R236, R241). -/
def ctxHeld (s : State) (eid : Nat) : Bool :=
  match (s.tf (tget s.eht.eps eid default).tf).st with
  | .frozen => true
  | .restoring => true
  | .saving => true
  | .saved => true
  | _ => false

/-- CONTEXT_EXPIRY (R163). -/
def execContextExpiry (t : Nat) (m : MsgKey) (s : State) :=
  act t s (fun s =>
    match ctxOf s m with
    | some c =>
      if c.made + ehtL s ≤ s.clk.up ∧ ¬ ctxHeld s c.dst then
        let s := dropSlot (dropCtx s m) c.dst c.slot
        countErr { s with eht.dedup := s.eht.dedup.filter (fun d => d.key ≠ m) } (ehtErr 8)
      else s
    | none => s)

/-- Entries past their retention freed (R166): 17 epochs after their message ended. -/
def entryDone (s : State) (d : Dedup) : Bool :=
  d.status.isSome && decide (17 ≤ serialDist 8 s.eht.epoch d.epoch)
    && !(s.tf (tget s.eht.eps d.dst default).tf).restored

/-- EPOCH_ADVANCE (R166). -/
def execEpochAdvance (t : Nat) (s : State) :=
  act t s (fun s =>
    if s.eht.epochAt + ehtL s / 16 ≤ s.clk.up then
      let s := { s with eht.epoch := (s.eht.epoch + 1) % 256, eht.epochAt := s.eht.epochAt + ehtL s / 16 }
      { s with eht.dedup := s.eht.dedup.filter (fun d => !entryDone s d) }
    else s)

/-- GRANT_EXPIRY (R176). -/
def execGrantExpiry (t : Nat) (g : Word16) (s : State) :=
  act t s (fun s =>
    match tget? s.eht.grants g.toNat with
    | some x => if x.expires ≤ s.clk.up then { s with eht.grants := tdel s.eht.grants g.toNat } else s
    | none => s)

/-- SENDER_GRANT_STOP (R177). -/
def execSenderGrantStop (t : Nat) (book : Word16) (s : State) :=
  act t s (fun s => s.onBook book.toNat (fun e =>
    match e.grant with
    | some g => if g.stop ≤ s.clk.up then { e with grant := none } else e
    | none => e))

/-- RTO_EXPIRY (R170, R171). -/
def execRtoExpiry (t : Nat) (m : Nat) (s : State) :=
  act t s (fun s =>
    match tget? s.eht.out m with
    | some x => match x.state with
      | .wait rto _ => if rto ≤ s.clk.up ∧ ¬ x.acked then resendAll s m x else s
      | _ => s
    | none => s)

/-- RETRY_WAIT_END (R170). -/
def execRetryWaitEnd (t : Nat) (m : Nat) (s : State) :=
  act t s (fun s =>
    match tget? s.eht.out m with
    | some x => match x.state with
      | .wait _ (some r) => if r ≤ s.clk.up then resendAll s m x else s
      | .credit (some r) => if r ≤ s.clk.up then requestCredit s m x else s
      | _ => s
    | none => s)

/-- SEND_WINDOW_END (R170): DRAIN. -/
def execSendWindowEnd (t : Nat) (m : Nat) (s : State) :=
  act t s (fun s =>
    match tget? s.eht.out m with
    | some x => match x.t0 with
      | some t0 => if t0 + ehtW s ≤ s.clk.up then s.onOut m { x with state := .drain } else s
      | none => s
    | none => s)

/-- EHT_TIMEOUT (R170, R184). -/
def execEhtTimeout (t : Nat) (m : Nat) (s : State) :=
  act t s (fun s =>
    match tget? s.eht.out m with
    | some x => match x.t0 with
      | some t0 => if t0 + ehtW s + ackWait s ≤ s.clk.up then finishMsg s m ehtTimeoutSt 0 [] else s
      | none => s
    | none => s)

/-- REVOKE_DONE (R182): the event, and the descriptor FREE. -/
def execRevokeDone (t : Nat) (idx : BitVec 20) (s : State) :=
  act t s (fun s =>
    match tget? s.eht.revoking idx.toNat with
    | some start =>
      raise (freeRegion s idx.toNat) 0x0102 idx.toNat (encN 8 ++ encN idx.toNat ++ encN 0 ++ encN 0 ++ encN (s.clk.up - start))
    | none => s)

/-- RESTORED_REGION_FREE (R182). -/
def execRestoredRegionFree (t : Nat) (idx : BitVec 20) (s : State) :=
  act t s (fun s =>
    match tget? s.eht.regions idx.toNat with
    | some r => match r.freeAt with
      | some x => if x ≤ s.clk.up ∧ r.state = 2 then freeRegion s idx.toNat else s
      | none => s
    | none => s)

end Sys2Proof.Machine
end

