-- ==== Sys2Proof/Machine/IdoriAlu.lean ====
section
/-! DEFINITION. Idori instructions of registers alone (R286 to R288): arithmetic, shifts, bit fields,
checksums, moves, branches and jumps. -/

namespace Sys2Proof.Machine

/-! ### Instruction words (R284), for the INFO of a fault -/

def encR (op : Nat) (rd ra rb : Reg) (func : Nat) : Nat :=
  op * 2 ^ 26 + rd.toNat * 2 ^ 21 + ra.toNat * 2 ^ 16 + rb.toNat * 2 ^ 11 + func
def encI (op : Nat) (rd ra : Reg) (imm : Nat) : Nat := op * 2 ^ 26 + rd.toNat * 2 ^ 21 + ra.toNat * 2 ^ 16 + imm
def encF (rd ra : Reg) (pos len1 : BitVec 6) (func : Nat) : Nat :=
  0x30 * 2 ^ 26 + rd.toNat * 2 ^ 21 + ra.toNat * 2 ^ 16 + pos.toNat * 2 ^ 10 + len1.toNat * 2 ^ 4 + func

/-! ### Shapes -/

/-- rd = f(ra, rb). -/
def opR (f : Word64 → Word64 → Word64) (i : Tid) (rd ra rb : Reg) (s : State) : State :=
  retire (s.setReg i rd (f (s.greg i ra) (s.greg i rb))) i

/-- rd = f(ra). -/
def op1 (f : Word64 → Word64) (i : Tid) (rd ra : Reg) (s : State) : State :=
  retire (s.setReg i rd (f (s.greg i ra))) i

def sext (imm : Word16) : Word64 := imm.signExtend 64
def zext (imm : Word16) : Word64 := imm.setWidth 64

/-- A condition as a register value. -/
def bit (b : Bool) : Word64 := if b then 1 else 0

/-- The value of a shift by bits [5:0] (R287). -/
def shl (a b : Word64) : Word64 := a <<< (b.toNat % 64)
def shrl (a b : Word64) : Word64 := a >>> (b.toNat % 64)
def shra (a b : Word64) : Word64 := a.sshiftRight (b.toNat % 64)

def divu (a b : Word64) : Word64 := if b = 0 then 0xFFFFFFFFFFFFFFFF#64 else a / b
def remu (a b : Word64) : Word64 := if b = 0 then a else a % b
def mulhu (a b : Word64) : Word64 := BitVec.ofNat 64 (a.toNat * b.toNat / 2 ^ 64)

/-- SHI (R286): kind 3 is illegal. -/
def opShi (i : Tid) (rd ra : Reg) (kind : BitVec 2) (n : BitVec 6) (s : State) : State :=
  match kind.toNat with
  | 0 => op1 (fun a => a <<< n.toNat) i rd ra s
  | 1 => op1 (fun a => a >>> n.toNat) i rd ra s
  | 2 => op1 (fun a => a.sshiftRight n.toNat) i rd ra s
  | _ => faultThread s i idoIllegal (encI 5 rd ra (kind.toNat * 64 + n.toNat))

/-- The bits of a field: `len` ones from `pos` up. -/
def fieldMask (pos len : Nat) : Word64 := BitVec.ofNat 64 ((2 ^ len - 1) * 2 ^ pos)

/-- MOVK and MOVZ. -/
def movk (old : Word64) (k : BitVec 2) (imm : Word16) : Word64 :=
  (old &&& ~~~ (fieldMask (16 * k.toNat) 16)) ||| (zext imm <<< (16 * k.toNat))
def movz (k : BitVec 2) (imm : Word16) : Word64 := zext imm <<< (16 * k.toNat)

/-! ### F format (R286, R287) -/

/-- An F-format instruction whose field lies within 64 bits; otherwise IDO_ILLEGAL. -/
def opF (func : Nat) (f : Nat → Nat → Word64 → Word64 → Word64) (i : Tid) (rd ra : Reg) (pos len1 : BitVec 6)
    (s : State) : State :=
  if 64 < pos.toNat + len1.toNat + 1 then faultThread s i idoIllegal (encF rd ra pos len1 func)
  else retire (s.setReg i rd (f pos.toNat (len1.toNat + 1) (s.greg i rd) (s.greg i ra))) i

def extu (pos len : Nat) (_ a : Word64) : Word64 := (a >>> pos) &&& fieldMask 0 len
def exts (pos len : Nat) (_ a : Word64) : Word64 := (a <<< (64 - pos - len)).sshiftRight (64 - len)
def ins (pos len : Nat) (d a : Word64) : Word64 :=
  (d &&& ~~~ (fieldMask pos len)) ||| ((a &&& fieldMask 0 len) <<< pos)

/-- Leading zero bits of the `n` low bits. -/
def leadingZeros (a : Word64) : Nat → Nat
  | 0 => 0
  | n + 1 => if a.getLsbD n then 0 else 1 + leadingZeros a n

/-- One bits among the `n` low bits. -/
def onesCount (a : Word64) : Nat → Nat
  | 0 => 0
  | n + 1 => (if a.getLsbD n then 1 else 0) + onesCount a n

def clz (a : Word64) : Word64 := BitVec.ofNat 64 (leadingZeros a 64)
def popc (a : Word64) : Word64 := BitVec.ofNat 64 (onesCount a 64)
def bswap (a : Word64) : Word64 := BitVec.ofNat 64 (ofBe (leBytes 8 a.toNat))

/-! ### Checksums and mixing (R288) -/

/-- A CRC step over the 2^ww low bytes of rb. -/
def crcStep (p : Word32) (ww : BitVec 2) (a b : Word64) : Word64 :=
  (((leBytes (2 ^ ww.toNat) b.toNat).foldl (crcByte p) (a.setWidth 32)) : Word32).setWidth 64

def hmix (a b : Word64) : Word64 :=
  let x := a ^^^ b.rotateLeft 17
  let x := (x ^^^ (x >>> 31)) * 0x8E3B5C17A4D269F1#64
  let x := (x ^^^ (x >>> 29)) * 0xB7C42A95D06E3B1D#64
  x ^^^ (x >>> 32)

/-! ### Branches and jumps -/

/-- The target of a signed word offset. -/
def target {w : Nat} (pc : Word64) (off : BitVec w) : Word64 := pc + (off.signExtend 64 <<< 2)

def opB (c : Word64 → Word64 → Bool) (i : Tid) (ra rb : Reg) (off : Word16) (s : State) : State :=
  if c (s.greg i ra) (s.greg i rb) then s.setPc i (target (s.thr i).pc off) else retire s i

def opJ (i : Tid) (off : BitVec 26) (s : State) : State := s.setPc i (target (s.thr i).pc off)

def opJal (i : Tid) (off : BitVec 26) (s : State) : State :=
  let pc := (s.thr i).pc
  (s.setReg i 31 (pc + 4)).setPc i (target pc off)

def opJalr (i : Tid) (rd ra : Reg) (imm : Word16) (s : State) : State :=
  let pc := (s.thr i).pc
  let dest := (s.greg i ra + sext imm) &&& ~~~ 3#64
  (s.setReg i rd (pc + 4)).setPc i dest

/-! ### The commands -/

def execAdd (i : Tid) (rd ra rb : Reg) (s : State) := issue i (opR (· + ·) i rd ra rb) s
def execSub (i : Tid) (rd ra rb : Reg) (s : State) := issue i (opR (· - ·) i rd ra rb) s
def execAnd (i : Tid) (rd ra rb : Reg) (s : State) := issue i (opR (· &&& ·) i rd ra rb) s
def execOr (i : Tid) (rd ra rb : Reg) (s : State) := issue i (opR (· ||| ·) i rd ra rb) s
def execXor (i : Tid) (rd ra rb : Reg) (s : State) := issue i (opR (· ^^^ ·) i rd ra rb) s
def execSll (i : Tid) (rd ra rb : Reg) (s : State) := issue i (opR shl i rd ra rb) s
def execSrl (i : Tid) (rd ra rb : Reg) (s : State) := issue i (opR shrl i rd ra rb) s
def execSra (i : Tid) (rd ra rb : Reg) (s : State) := issue i (opR shra i rd ra rb) s
def execSlt (i : Tid) (rd ra rb : Reg) (s : State) := issue i (opR (fun a b => bit (a.slt b)) i rd ra rb) s
def execSltu (i : Tid) (rd ra rb : Reg) (s : State) := issue i (opR (fun a b => bit (a.ult b)) i rd ra rb) s
def execMul (i : Tid) (rd ra rb : Reg) (s : State) := issue i (opR (· * ·) i rd ra rb) s
def execMulhu (i : Tid) (rd ra rb : Reg) (s : State) := issue i (opR mulhu i rd ra rb) s
def execDivu (i : Tid) (rd ra rb : Reg) (s : State) := issue i (opR divu i rd ra rb) s
def execRemu (i : Tid) (rd ra rb : Reg) (s : State) := issue i (opR remu i rd ra rb) s
def execAddi (i : Tid) (rd ra : Reg) (imm : Word16) (s : State) := issue i (op1 (· + sext imm) i rd ra) s
def execAndi (i : Tid) (rd ra : Reg) (imm : Word16) (s : State) := issue i (op1 (· &&& zext imm) i rd ra) s
def execOri (i : Tid) (rd ra : Reg) (imm : Word16) (s : State) := issue i (op1 (· ||| zext imm) i rd ra) s
def execXori (i : Tid) (rd ra : Reg) (imm : Word16) (s : State) := issue i (op1 (· ^^^ zext imm) i rd ra) s
def execShi (i : Tid) (rd ra : Reg) (kind : BitVec 2) (n : BitVec 6) (s : State) := issue i (opShi i rd ra kind n) s
def execSlti (i : Tid) (rd ra : Reg) (imm : Word16) (s : State) :=
  issue i (op1 (fun a => bit (a.slt (sext imm))) i rd ra) s
def execSltiu (i : Tid) (rd ra : Reg) (imm : Word16) (s : State) :=
  issue i (op1 (fun a => bit (a.ult (sext imm))) i rd ra) s
def execMovk (i : Tid) (rd : Reg) (k : BitVec 2) (imm : Word16) (s : State) := issue i (op1 (fun d => movk d k imm) i rd rd) s
def execMovz (i : Tid) (rd : Reg) (k : BitVec 2) (imm : Word16) (s : State) := issue i (op1 (fun _ => movz k imm) i rd rd) s
def execBeq (i : Tid) (ra rb : Reg) (off : Word16) (s : State) := issue i (opB (· == ·) i ra rb off) s
def execBne (i : Tid) (ra rb : Reg) (off : Word16) (s : State) := issue i (opB (· != ·) i ra rb off) s
def execBlt (i : Tid) (ra rb : Reg) (off : Word16) (s : State) := issue i (opB BitVec.slt i ra rb off) s
def execBge (i : Tid) (ra rb : Reg) (off : Word16) (s : State) := issue i (opB (fun a b => !a.slt b) i ra rb off) s
def execBltu (i : Tid) (ra rb : Reg) (off : Word16) (s : State) := issue i (opB BitVec.ult i ra rb off) s
def execBgeu (i : Tid) (ra rb : Reg) (off : Word16) (s : State) := issue i (opB (fun a b => !a.ult b) i ra rb off) s
def execJ (i : Tid) (off : BitVec 26) (s : State) := issue i (opJ i off) s
def execJal (i : Tid) (off : BitVec 26) (s : State) := issue i (opJal i off) s
def execJalr (i : Tid) (rd ra : Reg) (imm : Word16) (s : State) := issue i (opJalr i rd ra imm) s
def execExtu (i : Tid) (rd ra : Reg) (pos len1 : BitVec 6) (s : State) := issue i (opF 0 extu i rd ra pos len1) s
def execExts (i : Tid) (rd ra : Reg) (pos len1 : BitVec 6) (s : State) := issue i (opF 1 exts i rd ra pos len1) s
def execIns (i : Tid) (rd ra : Reg) (pos len1 : BitVec 6) (s : State) := issue i (opF 2 ins i rd ra pos len1) s
def execClz (i : Tid) (rd ra : Reg) (s : State) := issue i (op1 clz i rd ra) s
def execPopc (i : Tid) (rd ra : Reg) (s : State) := issue i (op1 popc i rd ra) s
def execBswap (i : Tid) (rd ra : Reg) (s : State) := issue i (op1 bswap i rd ra) s
def execCrcc (i : Tid) (rd ra rb : Reg) (ww : BitVec 2) (s : State) := issue i (opR (crcStep polyC ww) i rd ra rb) s
def execCrce (i : Tid) (rd ra rb : Reg) (ww : BitVec 2) (s : State) := issue i (opR (crcStep polyE ww) i rd ra rb) s
def execHmix (i : Tid) (rd ra rb : Reg) (s : State) := issue i (opR hmix i rd ra rb) s

end Sys2Proof.Machine
end

