-- ==== Sys2Proof/Machine/IdoriMem.lean ====
section
/-! DEFINITION. Idori loads, stores, atomics and fences (R280 to R283, R286, R289), and the instructions of
channels, ports, status registers and supervision (R290 to R294). -/

namespace Sys2Proof.Machine

/-! ### Loads and stores -/

/-- The address of an access: ra + sext(imm). -/
def effAddr (s : State) (i : Tid) (ra : Reg) (imm : Word16) : Nat := (s.greg i ra + sext imm).toNat

/-- A load of `n` bytes, zero-extended. -/
def opLoad (n : Nat) (i : Tid) (rd ra : Reg) (imm : Word16) (s : State) : State :=
  let a := effAddr s i ra imm
  if a % n ≠ 0 then faultThread s i idoAlign a
  else match window s i a n with
    | none => faultThread s i idoAddr a
    | some x =>
      if s.poisoned x n then faultThread (poisonHit s) i idoEcc a
      else retire (s.setReg i rd (BitVec.ofNat 64 (ofLe (s.peek x n)))) i

/-- What the thread's fetches still find under `n` bytes that it is about to store (R283). -/
def keepFetched (s : State) (i : Tid) (x n : Nat) : State :=
  s.onThr i (fun t => { t with unfenced := (List.range n).foldl (fun l k =>
    if (tget? l (x + k)).isSome then l else tset l (x + k) ((s.peek (x + k) 1).headD 0)) t.unfenced })

/-- A write of the thread's core: a stale fencing generation discards it (R34). -/
def coreWrite (s : State) (i : Tid) (x : Nat) (v : Bytes) : State :=
  match (s.role i.stall.val i.role.val).phys with
  | none => s
  | some p =>
    let u := unitCore i.stall.val p
    let r : Role := .core i.stall.val i.role.val
    if s.fenceOk u r then (keepFetched s i x v.length).poke x v else fencedDiscard s r (s.heldGen u)

/-- A store of the low `n` bytes of rs. -/
def opStore (n : Nat) (i : Tid) (rs ra : Reg) (imm : Word16) (s : State) : State :=
  let a := effAddr s i ra imm
  if a % n ≠ 0 then faultThread s i idoAlign a
  else match window s i a n with
    | none => faultThread s i idoAddr a
    | some x => retire (coreWrite s i x (leBytes n (s.greg i rs).toNat)) i

/-! ### Atomics (R289) -/

/-- An atomic of new value `f old`; none: nothing is written. -/
def opAtomic (f : Word64 → Option Word64) (i : Tid) (rd ra : Reg) (s : State) : State :=
  let a := (s.greg i ra).toNat
  if a % 8 ≠ 0 then faultThread s i idoAlign a
  else if !inMarket a 8 then faultThread s i idoAtomic a
  else match window s i a 8 with
    | none => faultThread s i idoAddr a
    | some x =>
      if s.poisoned x 8 then faultThread (poisonHit s) i idoEcc a
      else
        let old : Word64 := BitVec.ofNat 64 (ofLe (s.peek x 8))
        let s := match f old with
          | some v => coreWrite s i x (leBytes 8 v.toNat)
          | none => s
        retire (s.setReg i rd old) i

/-! ### Channels (R290 to R292) -/

/-- IDO_EP. -/
def epFault (s : State) (i : Tid) (ep : Nat) : State := faultThread s i idoEp ep

/-- A writer outside a Stall that takes no work is refused (R273). -/
def chanRefuses (s : State) (i : Tid) (c : Nat) : Bool :=
  c / 1024 != i.stall.val && (s.stall (c / 1024)).st != .running

/-- The staged message appended, refused, or kept in its closed slot (R257, R273, R291). -/
def appendStage (s : State) (i : Tid) (rd : Reg) (ep c : Nat) (words : List Word64) : State :=
  let s := s.onStage i ep { words := words, closed := true }
  if chanRefuses s i c then
    faultThread (countErr s (stErr (c / 1024) 3)) i idoChanStopped c
  else
    let u := unitCore i.stall.val ((s.role i.stall.val i.role.val).phys.getD 0)
    let r : Role := .core i.stall.val i.role.val
    let ok (s : State) : State := retire ((s.onStage i ep {}).setReg i rd 0 |>.setCs i csOk) i
    if !s.fenceOk u r then pumpEvents (ok (fencedDiscard s r (s.heldGen u)))
    else if words.length ≤ chanRoom s c then ok (appendMsg s c { src := srcId i, words := words })
    else retire ((s.setReg i rd (BitVec.ofNat 64 csFull)).setCs i csFull) i

/-- CHW and CHWE. -/
def opChw (eom : Bool) (i : Tid) (rd ra : Reg) (ep : BitVec 6) (s : State) : State :=
  match boundEp s i ep.toNat 2 with
  | none => epFault s i ep.toNat
  | some c =>
    let x := s.stage i ep.toNat
    if x.closed then retire ((s.setReg i rd (BitVec.ofNat 64 csFull)).setCs i csFull) i
    else if 64 ≤ x.words.length then faultThread (s.onStage i ep.toNat {}) i idoMsgLong ep.toNat
    else
      let words := x.words ++ [s.greg i ra]
      if eom then appendStage s i rd ep.toNat c words
      else retire (((s.onStage i ep.toNat { words := words }).setReg i rd 0).setCs i csOk) i

/-- A CHWE of a core that has been declared dead: the message that it would append is discarded (R34). -/
def staleChwe (i : Tid) (ep : BitVec 6) (s : State) : State := if (boundEp s i ep.toNat 2).isSome then staleOut i s else s

/-- CHPUSH. -/
def opChpush (i : Tid) (rd : Reg) (ep : BitVec 6) (s : State) : State :=
  match boundEp s i ep.toNat 2 with
  | none => epFault s i ep.toNat
  | some c =>
    let x := s.stage i ep.toNat
    if x.closed then appendStage s i rd ep.toNat c x.words
    else retire ((s.setReg i rd (BitVec.ofNat 64 csEmpty)).setCs i csEmpty) i

/-- CHDROP. -/
def opChdrop (i : Tid) (ep : BitVec 6) (s : State) : State :=
  match boundEp s i ep.toNat 2 with
  | none => epFault s i ep.toNat
  | some _ => retire ((s.onStage i ep.toNat {}).setCs i csOk) i

/-- CHR. -/
def opChr (i : Tid) (rd : Reg) (ep : BitVec 6) (s : State) : State :=
  if mayRead s i ep.toNat then blockRead i (.chan ep.toNat) rd s else epFault s i ep.toNat

/-- The message being read at an endpoint ends (R292). -/
def skipMsg (s : State) (i : Tid) (ep : Nat) : Option State :=
  if ep = 63 then
    if (s.role i.stall.val i.role.val).faultPos = 0 then none
    else some (s.onRole i.stall.val i.role.val (fun c => { c with faults := c.faults.drop 1, faultPos := 0 }))
  else match boundEp s i ep 1 with
    | some c => if (s.chan c).pos = 0 then none else some (popMsg s c)
    | none => none

/-- CHSKIP. -/
def opChskip (i : Tid) (ep : BitVec 6) (s : State) : State :=
  if mayRead s i ep.toNat then
    match skipMsg s i ep.toNat with
    | some s' => settle (retire ((s'.onThr i (fun t => if t.srcEp = ep.toNat then { t with left := 0 } else t)).setCs i csOk) i)
    | none => retire (s.setCs i csEmpty) i
  else epFault s i ep.toNat

/-- CHPOLL. -/
def opChpoll (i : Tid) (rd : Reg) (ep : BitVec 6) (s : State) : State :=
  if mayRead s i ep.toNat then retire ((s.setReg i rd (bit (holdsMsg s i ep.toNat))).setCs i csOk) i
  else epFault s i ep.toNat

/-! ### Ports (R293) -/

def opWtime (i : Tid) (rd : Reg) (s : State) : State := blockRead i .timer rd s

def opWsel (i : Tid) (rd : Reg) (s : State) : State :=
  if (s.thr i).sel = 0 then retire ((s.setReg i rd 0).setCs i csInvalid) i else blockRead i .select rd s

def opWspace (i : Tid) (rd : Reg) (ep : BitVec 6) (s : State) : State :=
  match boundEp s i ep.toNat 2 with
  | none => epFault s i ep.toNat
  | some _ => blockRead i (.space ep.toNat) rd s

/-! ### Status registers (R279) -/

/-- s3, TID. -/
def tidWord (i : Tid) (t : Thread) : Word64 :=
  BitVec.ofNat 64 ((if i.thread = 0 then 2 ^ 31 else 0) + (if t.high then 2 ^ 30 else 0) + t.tf * 2 ^ 16 + srcId i)

/-- The value of a status register; reserved ones read 0. -/
def readSr (s : State) (i : Tid) (n : Nat) : Word64 :=
  let t := s.thr i
  match n with
  | 0 => BitVec.ofNat 64 t.cs
  | 1 => BitVec.ofNat 64 (t.len + t.left * 256)
  | 2 => BitVec.ofNat 64 (t.src + t.srcEp * 2 ^ 16)
  | 3 => tidWord i t
  | 4 => t.sel
  | 5 => t.timer
  | 6 => BitVec.ofNat 64 (coreClocks (s.clk.up - (s.role i.stall.val i.role.val).started))
  | 7 => timeWord s.ns
  | 8 => t.lastId
  | _ => 0

/-- A write to a writable status register: none for one marked RO or RSV. -/
def writeSr (s : State) (i : Tid) (n : Nat) (v : Word64) : Option State :=
  match n with
  | 0 => some (s.setCs i (v.toNat % 16))
  | 4 => some (s.onThr i (fun t => { t with sel := v &&& epMask (mayRead s i) }))
  | 5 => some (s.onThr i (fun t => { t with timer := v }))
  | _ => none

def opMfs (i : Tid) (rd : Reg) (sr : BitVec 4) (s : State) : State := retire (s.setReg i rd (readSr s i sr.toNat)) i

def opMts (i : Tid) (ra : Reg) (sr : BitVec 4) (s : State) : State :=
  match writeSr s i sr.toNat (s.greg i ra) with
  | some s' => retire s' i
  | none => faultThread s i idoIllegal (encI 0x3B 0 ra sr.toNat)

/-! ### Supervision (R294) -/

/-- TRESTART: rd names the argument register. -/
def opTrestart (i : Tid) (rd ra rb : Reg) (s : State) : State :=
  if i.thread ≠ 0 then faultThread s i idoPriv (encR 0x3C rd ra rb 0)
  else
    let n := (s.greg i ra).toNat % 8
    let st := i.stall.val
    let r := i.role.val
    let t := s.thrAt st r n
    if n ≠ 0 ∧ (t.st = .faulted ∨ t.st = .killed) then
      let pc := s.greg i rb
      let a := s.greg i rd
      let s := dropStages (unread s st r n) st r n
      let s := s.onThrAt st r n (fun t => if pc = 0 then t.start t.entry t.arg else t.start pc a)
      let s := reach s { i with thread := Fin.ofNat 8 n }
      retire (s.setCs i csOk) i
    else retire (s.setCs i csState) i

/-- The code of TSTATE. -/
def TState.code : TState → Nat
  | .disabled => 0
  | .ready => 1
  | .blocked => 2
  | .stopped => 3
  | .faulted => 4
  | .killed => 5

def opTstate (i : Tid) (rd ra : Reg) (s : State) : State :=
  if i.thread ≠ 0 then faultThread s i idoPriv (encR 0x3C rd ra 0 1)
  else
    let t := s.thrAt i.stall.val i.role.val ((s.greg i ra).toNat % 8)
    retire ((s.setReg i rd (BitVec.ofNat 64 t.st.code)).setCs i csOk) i

/-! ### The commands -/

def execLd (i : Tid) (rd ra : Reg) (imm : Word16) (s : State) := issue i (opLoad 8 i rd ra imm) s
def execLw (i : Tid) (rd ra : Reg) (imm : Word16) (s : State) := issue i (opLoad 4 i rd ra imm) s
def execLh (i : Tid) (rd ra : Reg) (imm : Word16) (s : State) := issue i (opLoad 2 i rd ra imm) s
def execLb (i : Tid) (rd ra : Reg) (imm : Word16) (s : State) := issue i (opLoad 1 i rd ra imm) s
def execSd (i : Tid) (rs ra : Reg) (imm : Word16) (s : State) := issueOut i (opStore 8 i rs ra imm) (staleOut i) s
def execSw (i : Tid) (rs ra : Reg) (imm : Word16) (s : State) := issueOut i (opStore 4 i rs ra imm) (staleOut i) s
def execSh (i : Tid) (rs ra : Reg) (imm : Word16) (s : State) := issueOut i (opStore 2 i rs ra imm) (staleOut i) s
def execSb (i : Tid) (rs ra : Reg) (imm : Word16) (s : State) := issueOut i (opStore 1 i rs ra imm) (staleOut i) s
def execAadd (i : Tid) (rd ra rb : Reg) (s : State) := issueOut i (fun s => opAtomic (fun o => some (o + s.greg i rb)) i rd ra s) (staleOut i) s
def execAswp (i : Tid) (rd ra rb : Reg) (s : State) := issueOut i (fun s => opAtomic (fun _ => some (s.greg i rb)) i rd ra s) (staleOut i) s
def execAcas (i : Tid) (rd ra rb : Reg) (s : State) :=
  issueOut i (fun s => opAtomic (fun o => if o = s.greg i rd then some (s.greg i rb) else none) i rd ra s) (staleOut i) s
def execAand (i : Tid) (rd ra rb : Reg) (s : State) := issueOut i (fun s => opAtomic (fun o => some (o &&& s.greg i rb)) i rd ra s) (staleOut i) s
def execAor (i : Tid) (rd ra rb : Reg) (s : State) := issueOut i (fun s => opAtomic (fun o => some (o ||| s.greg i rb)) i rd ra s) (staleOut i) s
/-- FENCE: memory takes effect in program order here, so it only retires (R283). -/
def execFence (i : Tid) (s : State) := issue i (fun s => retire s i) s
/-- IFENCE: from here on a fetch sees the thread's own stores (R283). -/
def opIfence (i : Tid) (s : State) : State := retire (s.onThr i (fun t => { t with unfenced := [] })) i
def execIfence (i : Tid) (s : State) := issue i (opIfence i) s
def execChw (i : Tid) (rd ra : Reg) (ep : BitVec 6) (s : State) := issue i (opChw false i rd ra ep) s
def execChwe (i : Tid) (rd ra : Reg) (ep : BitVec 6) (s : State) := issueOut i (opChw true i rd ra ep) (staleChwe i ep) s
def execChr (i : Tid) (rd : Reg) (ep : BitVec 6) (s : State) := issue i (opChr i rd ep) s
def execChskip (i : Tid) (ep : BitVec 6) (s : State) := issue i (opChskip i ep) s
def execChpush (i : Tid) (rd : Reg) (ep : BitVec 6) (s : State) := issue i (opChpush i rd ep) s
def execChdrop (i : Tid) (ep : BitVec 6) (s : State) := issue i (opChdrop i ep) s
def execChpoll (i : Tid) (rd : Reg) (ep : BitVec 6) (s : State) := issue i (opChpoll i rd ep) s
def execWtime (i : Tid) (rd : Reg) (s : State) := issue i (opWtime i rd) s
def execWsel (i : Tid) (rd : Reg) (s : State) := issue i (opWsel i rd) s
def execWspace (i : Tid) (rd : Reg) (ep : BitVec 6) (s : State) := issue i (opWspace i rd ep) s
def execMfs (i : Tid) (rd : Reg) (sr : BitVec 4) (s : State) := issue i (opMfs i rd sr) s
def execMts (i : Tid) (ra : Reg) (sr : BitVec 4) (s : State) := issue i (opMts i ra sr) s
def execTrestart (i : Tid) (rd ra rb : Reg) (s : State) := issue i (opTrestart i rd ra rb) s
def execTstate (i : Tid) (rd ra : Reg) (s : State) := issue i (opTstate i rd ra) s

end Sys2Proof.Machine
end

