-- ==== Sys2Proof/Machine/IdoriDev.lean ====
section
/-! DEFINITION. The Idori device instructions (R295 to R297): EHT submission, receive-ring slots, frame
injection, packet buffers; and the instruction that a word of memory spells (R284 to R286). -/

namespace Sys2Proof.Machine

/-! ### EHTSUB (R295, R296) -/

/-- The 64-byte descriptor. -/
structure SubDesc where
  eid : Nat
  book : Nat
  op : Nat
  flags : Nat
  chan : Nat
  key : Nat
  addr : Nat
  data : Nat
  len : Nat
  retKey : Nat
  retAddr : Nat
  spare : Bool
  deriving DecidableEq, Repr

def parseDesc (b : Bytes) : SubDesc :=
  { eid := leAt b 0 4, book := leAt b 4 4, op := leAt b 8 1, flags := leAt b 9 1, chan := leAt b 0xA 2, key := leAt b 0xC 4
    addr := leAt b 0x10 8, data := leAt b 0x18 8, len := leAt b 0x20 4, retKey := leAt b 0x24 4, retAddr := leAt b 0x28 8
    spare := zeroAt b 0x30 16 }

/-- The operation carries a payload of the thread. -/
def SubDesc.sends (d : SubDesc) : Bool := d.op == 1 || d.op == 2 || d.op == 5

/-- LENGTH within R153 to R155; a READ's is what it reads (log 23). -/
def SubDesc.lenOk (d : SubDesc) : Bool :=
  match d.op with
  | 5 => d.len == 24
  | 6 => d.len == 0
  | _ => decide (d.len ≤ 16777216)

/-- The owner of a local endpoint is a channel of tenant function `tf`. -/
def ownsEndpoint (s : State) (tf eid : Nat) : Option Endpoint :=
  match tget? s.eht.eps eid with
  | some e => match e.channel with
    | some c => if chanOwner s c = tf then some e else none
    | none => none
  | none => none

/-- Segment size of the book entry named, where the tenant function has one. -/
def descSeg (s : State) (tf book : Nat) : Nat :=
  match bookOf s book tf with
  | some b => b.seg
  | none => 2

/-- Every field keeps the table of R295. -/
def SubDesc.ok (d : SubDesc) (s : State) (i : Tid) : Bool :=
  let tf := (s.thr i).tf
  (ownsEndpoint s tf d.eid).isSome && decide (d.book < 65536) && (d.sends || d.op == 3 || d.op == 6) && decide (d.flags ≤ 1)
    && decide (d.chan < 12288) && chanOwner s d.chan == tf && d.lenOk && d.spare
    && (if d.sends then (window s i d.data d.len).isSome && decide (d.len ≤ 4096 * 1024 * 2 ^ descSeg s tf d.book) else d.data == 0)
    && (d.op == 3 || (d.retKey == 0 && d.retAddr == 0))

/-- The message of a descriptor (R153, R155), without what its book entry gives. -/
def SubDesc.msg (d : SubDesc) (s : State) (i : Tid) (id gen : Nat) : OutMsg :=
  let tf := (s.thr i).tf
  let x := d.flags == 1
  let data := if d.sends then window s i d.data d.len else none
  let seg := descSeg s tf d.book
  let payload := if d.op = 3 then beBytes 4 d.len ++ [BitVec.ofNat 8 seg, 0, 0, 0]
    else match data with
      | some a => s.peek a d.len
      | none => []
  let b := bookOf s d.book tf
  { ep := d.eid, srcGen := gen, msgId := id, book := some d.book
    dstEid := (b.map Book.eid).getD 0, dstGen := (b.map Book.gen).getD 0, dstIp := (b.map Book.ip).getD 0
    dstMac := (b.map Book.mac).getD 0, lp := 0, op := d.op, seg := seg, rkey := if d.op = 1 then 0 else d.key
    addr := if d.op = 1 ∨ d.op = 6 then 0 else d.addr, payload := payload, express := x
    cls := controlClass s x, owner := .channel d.chan 0, state := .sending
    retKey := d.retKey, retAddr := d.retAddr, readLen := if d.op = 3 then d.len else 0, data := data }

/-- The status with which a submission is completed where it stands (R148, R186, R189, R234, R236). -/
def submitFails (s : State) (i : Tid) (d : SubDesc) (e : Endpoint) : Option Nat :=
  match (s.tf e.tf).st with
  | .enabled =>
    if s.stopped (.endpoint (BitVec.ofNat 32 d.eid)) then some nakFenced
    else if (bookOf s d.book (s.thr i).tf).isNone then some ehtUnreachable
    else none
  | .disabled => some nakTfDisabled
  | .disabling => some nakTfDisabled
  | .moved => some nakTfDisabled
  | _ => some nakFrozen

/-- An accepted submission: s8, the reserved words, the core's queue or the local completion. -/
def submitDesc (s : State) (i : Tid) (d : SubDesc) (e : Endpoint) : State :=
  let st := i.stall.val
  let r := i.role.val
  let id := nextMsgId s d.eid
  let s := reserveChan id.2 d.chan 4
  let s := s.onThr i (fun t => { t with lastId := BitVec.ofNat 64 id.1 })
  let m := d.msg s i id.1 e.gen
  let u := unitCore st ((s.role st r).phys.getD 0)
  if !s.fenceOk u (.core st r) then
    completeOn (fencedDiscard (countErr s (ehtErr 10)) (.core st r) (s.heldGen u)) d.chan nakFenced m 0
  else match submitFails s i d e with
    | some x => completeOn (if x = nakFenced then countErr s (ehtErr 10) else s) d.chan x m 0
    | none => launch (s.onRole st r (fun c => { c with subq := c.subq ++ [m] }))

/-- rd and s0.CS take a status; the instruction retires. -/
def endStatus (s : State) (i : Tid) (rd : Reg) (c : Nat) : State := retire ((s.setReg i rd (BitVec.ofNat 64 c)).setCs i c) i

def opEhtsub (i : Tid) (rd ra : Reg) (s : State) : State :=
  let a := (s.greg i ra).toNat
  if a % 64 ≠ 0 then faultThread s i idoAlign a
  else match localWindow i a 64 with
    | none => faultThread s i idoAddr a
    | some x =>
      if s.poisoned x 64 then faultThread (poisonHit s) i idoEcc a
      else
        let d := parseDesc (s.peek x 64)
        match ownsEndpoint s (s.thr i).tf d.eid with
        | none => endStatus s i rd csInvalid
        | some e =>
          if !d.ok s i then endStatus s i rd csInvalid
          else if chanRoom s d.chan < 4 ∨ 64 ≤ (s.role i.stall.val i.role.val).subq.length then endStatus s i rd csFull
          else settle (endStatus (submitDesc s i d e) i rd csOk)

/-- An EHTSUB of a core that has been declared dead: a descriptor that would be accepted completes with NAK_FENCED (R189, R429). -/
def staleSubmit (i : Tid) (ra : Reg) (s : State) : State :=
  let a := (s.greg i ra).toNat
  match localWindow i a 64 with
  | none => s
  | some x =>
    let d := parseDesc (s.peek x 64)
    match ownsEndpoint s (s.thr i).tf d.eid with
    | none => s
    | some e => if a % 64 ≠ 0 ∨ !d.ok s i ∨ chanRoom s d.chan < 4 then s else settle (submitDesc s i d e)

/-! ### SLOTRET, FINJ, FREL (R297) -/

/-- A receive-ring slot that its owner holds: taken, and no message still arrives in it. -/
def slotHeld (s : State) (eid n : Nat) (e : Endpoint) : Bool :=
  e.slotsUsed.contains n && !s.eht.ctxs.any (fun c => c.dst == eid && c.slot == some n)

def opSlotret (i : Tid) (rd ra rb : Reg) (s : State) : State :=
  let eid := (s.greg i ra).toNat
  let n := (s.greg i rb).toNat
  match ownsEndpoint s (s.thr i).tf eid with
  | none => endStatus s i rd csInvalid
  | some e => if slotHeld s eid n e then endStatus (freeSlots s eid [n]) i rd csOk else endStatus s i rd csInvalid

/-- The tenant function of the thread holds the buffer at an address. -/
def holdsBuf (s : State) (i : Tid) (a : Nat) : Bool :=
  match tget? s.mem.bufs a with
  | some b => b.tf == (s.thr i).tf
  | none => false

/-- A packet buffer returned to the pool. -/
def freeBuf (s : State) (a : Nat) : State := abortUnreadable { s with mem.bufs := tdel s.mem.bufs a }

/-- The frame of an injection (R297): it carries the tenant function of its thread for the spoof check (R231). -/
def injected (s : State) (i : Tid) (buf len : Nat) (keep : Bool) : PFrame :=
  { frame := { bytes := s.peek buf len, cls := 0, inLp := none, tIn := s.ns, tInUp := s.clk.up
               tf := (s.thr i).tf }
    src := 32, release := if keep then none else some buf }

/-- FINJ. The descriptor is naturally aligned, 16 bytes (log 24). -/
def opFinj (i : Tid) (rd ra : Reg) (s : State) : State :=
  let a := (s.greg i ra).toNat
  if a % 16 ≠ 0 then faultThread s i idoAlign a
  else match window s i a 16 with
    | none => faultThread s i idoAddr a
    | some x =>
      if s.poisoned x 16 then faultThread (poisonHit s) i idoEcc a
      else
        let b := s.peek x 16
        let buf := leAt b 0 8
        let len := leAt b 8 2
        let pipe := leAt b 10 1
        let flags := leAt b 11 1
        if !holdsBuf s i buf then faultThread s i idoBuf buf
        else if !(decide (64 ≤ len) && decide (len ≤ 9216) && decide (pipe ≤ 3) && decide (flags ≤ 1) && zeroAt b 12 4)
            || decide ((tget s.mem.bufs buf default).cap < len) then endStatus s i rd csInvalid
        else
          let q := tget s.parse.inject pipe []
          if 32 ≤ q.length then endStatus s i rd csFull
          else
            let u := unitCore i.stall.val ((s.role i.stall.val i.role.val).phys.getD 0)
            let r : Role := .core i.stall.val i.role.val
            if !s.fenceOk u r then settle (endStatus (fencedDiscard s r (s.heldGen u)) i rd csOk)
            else endStatus { countEntry s with parse.inject := tset s.parse.inject pipe (q ++ [(injected s i buf len (flags == 1)).enter s]) } i rd csOk

def opFrel (i : Tid) (ra : Reg) (s : State) : State :=
  let a := (s.greg i ra).toNat
  if holdsBuf s i a then retire (freeBuf s a) i else faultThread s i idoBuf a

def execEhtsub (i : Tid) (rd ra : Reg) (s : State) := issueOut i (opEhtsub i rd ra) (staleSubmit i ra) s
def execSlotret (i : Tid) (rd ra rb : Reg) (s : State) := issue i (opSlotret i rd ra rb) s
def execFinj (i : Tid) (rd ra : Reg) (s : State) := issue i (opFinj i rd ra) s
def execFrel (i : Tid) (ra : Reg) (s : State) := issue i (opFrel i ra) s

/-! ### The word at the pc (R284 to R286), for DBG_STEP -/

/-- Opcode 0x00. -/
def isaAlu (i : Tid) (rd ra rb : Reg) (func : Nat) : Option (State → State) :=
  match func with
  | 0 => some (opR (· + ·) i rd ra rb)
  | 1 => some (opR (· - ·) i rd ra rb)
  | 2 => some (opR (· &&& ·) i rd ra rb)
  | 3 => some (opR (· ||| ·) i rd ra rb)
  | 4 => some (opR (· ^^^ ·) i rd ra rb)
  | 5 => some (opR shl i rd ra rb)
  | 6 => some (opR shrl i rd ra rb)
  | 7 => some (opR shra i rd ra rb)
  | 8 => some (opR (fun a b => bit (a.slt b)) i rd ra rb)
  | 9 => some (opR (fun a b => bit (a.ult b)) i rd ra rb)
  | 0xA => some (opR (· * ·) i rd ra rb)
  | 0xB => some (opR mulhu i rd ra rb)
  | 0xC => some (opR divu i rd ra rb)
  | 0xD => some (opR remu i rd ra rb)
  | _ => none

/-- Opcode 0x30. -/
def isaField (i : Tid) (rd ra : Reg) (pos len1 : BitVec 6) (func : Nat) : Option (State → State) :=
  let one (f : Word64 → Word64) : Option (State → State) := if pos = 0 ∧ len1 = 0 then some (op1 f i rd ra) else none
  match func with
  | 0 => some (opF 0 extu i rd ra pos len1)
  | 1 => some (opF 1 exts i rd ra pos len1)
  | 2 => some (opF 2 ins i rd ra pos len1)
  | 3 => one clz
  | 4 => one popc
  | 5 => one bswap
  | _ => none

/-- Opcode 0x31. -/
def isaCrc (i : Tid) (rd ra rb : Reg) (func : Nat) : Option (State → State) :=
  let ww := BitVec.ofNat 2 func
  if func < 4 then some (opR (crcStep polyC ww) i rd ra rb)
  else if func < 8 then some (opR (crcStep polyE ww) i rd ra rb)
  else if func = 8 then some (opR hmix i rd ra rb)
  else none

/-- Opcode 0x32. -/
def isaAtomic (i : Tid) (rd ra rb : Reg) (func : Nat) : Option (State → State) :=
  match func with
  | 0 => some (fun s => opAtomic (fun o => some (o + s.greg i rb)) i rd ra s)
  | 1 => some (fun s => opAtomic (fun _ => some (s.greg i rb)) i rd ra s)
  | 2 => some (fun s => opAtomic (fun o => if o = s.greg i rd then some (s.greg i rb) else none) i rd ra s)
  | 3 => some (fun s => opAtomic (fun o => some (o &&& s.greg i rb)) i rd ra s)
  | 4 => some (fun s => opAtomic (fun o => some (o ||| s.greg i rb)) i rd ra s)
  | _ => none

/-- Opcodes 0x38 and 0x39: unused fields are 0. -/
def isaChan (i : Tid) (rd ra : Reg) (ep : BitVec 6) (func : Nat) : Option (State → State) :=
  match func with
  | 0 => some (opChw false i rd ra ep)
  | 1 => some (opChw true i rd ra ep)
  | 2 => if ra = 0 then some (opChr i rd ep) else none
  | 3 => if rd = 0 ∧ ra = 0 then some (opChskip i ep) else none
  | 4 => if ra = 0 then some (opChpush i rd ep) else none
  | 5 => if rd = 0 ∧ ra = 0 then some (opChdrop i ep) else none
  | 6 => if ra = 0 then some (opChpoll i rd ep) else none
  | _ => none

def isaPort (i : Tid) (rd ra : Reg) (ep : BitVec 6) (func : Nat) : Option (State → State) :=
  if ra ≠ 0 then none
  else match func with
    | 0 => if ep = 0 then some (opWtime i rd) else none
    | 1 => if ep = 0 then some (opWsel i rd) else none
    | 2 => some (opWspace i rd ep)
    | _ => none

/-- Opcode 0x3D. -/
def isaDev (i : Tid) (rd ra rb : Reg) (func : Nat) : Option (State → State) :=
  match func with
  | 0 => if rb = 0 then some (opEhtsub i rd ra) else none
  | 1 => some (opSlotret i rd ra rb)
  | 2 => if rb = 0 then some (opFinj i rd ra) else none
  | 3 => if rd = 0 ∧ rb = 0 then some (opFrel i ra) else none
  | _ => none

/-- The effect of an instruction word; none: IDO_ILLEGAL (R285). -/
def isaOp (i : Tid) (w : Nat) : Option (State → State) :=
  let rd : Reg := BitVec.ofNat 5 (w / 2 ^ 21)
  let ra : Reg := BitVec.ofNat 5 (w / 2 ^ 16)
  let rb : Reg := BitVec.ofNat 5 (w / 2 ^ 11)
  let func := w % 2 ^ 11
  let imm : Word16 := BitVec.ofNat 16 w
  let ep : BitVec 6 := BitVec.ofNat 6 (w / 2 ^ 10)
  let k : BitVec 2 := BitVec.ofNat 2 (w / 2 ^ 16)
  let hasK := ra.toNat < 4
  match w / 2 ^ 26 with
  | 0x00 => isaAlu i rd ra rb func
  | 0x01 => some (op1 (· + sext imm) i rd ra)
  | 0x02 => some (op1 (· &&& zext imm) i rd ra)
  | 0x03 => some (op1 (· ||| zext imm) i rd ra)
  | 0x04 => some (op1 (· ^^^ zext imm) i rd ra)
  | 0x05 => if imm.toNat / 256 = 0 ∧ imm.toNat / 64 ≠ 3 then some (opShi i rd ra (BitVec.ofNat 2 (w / 64)) (BitVec.ofNat 6 w)) else none
  | 0x06 => some (op1 (fun a => bit (a.slt (sext imm))) i rd ra)
  | 0x07 => some (op1 (fun a => bit (a.ult (sext imm))) i rd ra)
  | 0x08 => if hasK then some (op1 (fun d => movk d k imm) i rd rd) else none
  | 0x09 => if hasK then some (op1 (fun _ => movz k imm) i rd rd) else none
  | 0x10 => some (opLoad 8 i rd ra imm)
  | 0x11 => some (opLoad 4 i rd ra imm)
  | 0x12 => some (opLoad 2 i rd ra imm)
  | 0x13 => some (opLoad 1 i rd ra imm)
  | 0x18 => some (opStore 8 i rd ra imm)
  | 0x19 => some (opStore 4 i rd ra imm)
  | 0x1A => some (opStore 2 i rd ra imm)
  | 0x1B => some (opStore 1 i rd ra imm)
  | 0x20 => some (opB (· == ·) i rd ra imm)
  | 0x21 => some (opB (· != ·) i rd ra imm)
  | 0x22 => some (opB BitVec.slt i rd ra imm)
  | 0x23 => some (opB (fun a b => !a.slt b) i rd ra imm)
  | 0x24 => some (opB BitVec.ult i rd ra imm)
  | 0x25 => some (opB (fun a b => !a.ult b) i rd ra imm)
  | 0x26 => some (opJ i (BitVec.ofNat 26 w))
  | 0x27 => some (opJal i (BitVec.ofNat 26 w))
  | 0x28 => some (opJalr i rd ra imm)
  | 0x30 => isaField i rd ra ep (BitVec.ofNat 6 (w / 16)) (w % 16)
  | 0x31 => isaCrc i rd ra rb func
  | 0x32 => isaAtomic i rd ra rb func
  | 0x33 => if rd = 0 ∧ ra = 0 ∧ rb = 0 ∧ func < 2 then some (if func = 0 then fun s => retire s i else opIfence i) else none
  | 0x38 => isaChan i rd ra ep (w % 2 ^ 10)
  | 0x39 => isaPort i rd ra ep (w % 2 ^ 10)
  | 0x3A => if ra = 0 ∧ imm.toNat < 16 then some (opMfs i rd (BitVec.ofNat 4 w)) else none
  | 0x3B => if rd = 0 ∧ imm.toNat < 16 then some (opMts i ra (BitVec.ofNat 4 w)) else none
  | 0x3C => if func = 0 then some (opTrestart i rd ra rb) else if func = 1 ∧ rb = 0 then some (opTstate i rd ra) else none
  | 0x3D => isaDev i rd ra rb func
  | _ => none

/-- One instruction of a STOPPED thread, fetched from its memory (R271, R280, R282, R285). -/
def stepWord (s : State) (i : Tid) : State :=
  match fetchFault s i with
  | some (code, s) => faultThread s i code (s.thr i).pc.toNat
  | none => match isaOp i (s.fetched i) with
    | some f => f s
    | none => faultThread s i idoIllegal (s.fetched i)

end Sys2Proof.Machine
end

