-- ==== Sys2Proof/Machine/PortOps.lean ====
section
/-! DEFINITION. Ethernet ports (03) and the express latency monitor (02): reception, links, MACsec
state, transmission at the MAC, management-only mode. -/

namespace Sys2Proof.Machine

/-! ### Reading a frame -/

/-- Offset of the EtherType behind up to two VLAN tags. -/
def etherOff (b : Bytes) : Nat :=
  let tag (o : Nat) : Bool := beAt b o 2 == 0x8100 || beAt b o 2 == 0x88A8
  if tag 12 then (if tag 16 then 20 else 16) else 12

def etherType (b : Bytes) : Nat := beAt b (etherOff b) 2

/-- Outer VLAN ID, none when untagged. -/
def outerVid (b : Bytes) : Option Nat :=
  if beAt b 12 2 = 0x8100 ∨ beAt b 12 2 = 0x88A8 then some (beAt b 14 2 % 4096) else none

/-- Offset of the header behind IPv4 or IPv6 with its protocol, where there is one. -/
def l4Of (b : Bytes) : Option (Nat × Nat) :=
  let o := etherOff b + 2
  if etherType b = 0x0800 then some (o + (byteAt b o).toNat % 16 * 4, (byteAt b (o + 9)).toNat)
  else if etherType b = 0x86DD then some (o + 40, (byteAt b (o + 6)).toNat)
  else none

/-- A neighbour-discovery message (R64). -/
def isNd (b : Bytes) : Bool :=
  match l4Of b with
  | some (o, 58) => decide (133 ≤ (byteAt b o).toNat) && decide ((byteAt b o).toNat ≤ 137)
  | _ => false

/-- An EHT datagram for the mailbox endpoint (R64). -/
def isMailboxEht (s : State) (b : Bytes) : Bool :=
  match l4Of b with
  | some (o, 17) => beAt b (o + 2) 2 == ehtPort s && (isMailbox s (beAt b (o + 12) 4) || beAt b (o + 12) 4 == 0xFFFFFFFF)
  | _ => false

/-- The neighbour-discovery multicast addresses of R64: all nodes, and the solicited-node address of the link-local address
(RFC 4861; PRESUMED, log 66). -/
def ndMulticast (s : State) (dst : Nat) : Bool :=
  dst == 0x333300000001 || dst == 0x3333FF000000 + s.fuses.mac.toNat % 2 ^ 24

/-- The Receive row of R64. -/
def mgmtAccepts (s : State) (b : Bytes) : Bool :=
  let dst := beAt b 0 6
  (dst == s.fuses.mac.toNat || dst == 0xFFFFFFFFFFFF || ndMulticast s dst)
    && (etherType b == 0x0806 || isNd b || isMailboxEht s b)

/-- The FCS is good (R54). -/
def fcsGood (b : Bytes) : Bool :=
  leAt b (b.length - 4) 4 == (crc32 (b.take (b.length - 4))).toNat

/-! ### Counters of a logical port (R66) -/
def lErr (lp k : Nat) : Nat := lportBase lp + 0x40 + 4 * k
def lStat (lp k : Nat) : Nat := lportBase lp + 0x100 + 8 * k

/-- The FCS written anew. -/
def refcs (b : Bytes) : Bytes :=
  let d := b.take (b.length - 4)
  d ++ leBytes 4 (crc32 d).toNat

/-- R39: the frame ended with an inverted FCS. -/
def invertFcs (b : Bytes) : Bytes := b.take (b.length - 4) ++ (b.drop (b.length - 4)).map (~~~ ·)

/-! ### MACsec (R56 to R60): IEEE 802.1AE with GCM-AES-XPN-256 (log 8) -/

/-- What the MACsec unit of the port finds on a received frame. -/
inductive MsecIn where
  | untagged
  | tagged (sci : Word64) (an : BitVec 2) (pn : Word64) (icvGood : Bool)
  deriving DecidableEq, Repr

/-- EtherType of a SecTAG. -/
def msecType : Nat := 0x88E5

/-- The confidentiality offset of a port's associations. -/
def msecOffset (lp : Nat) : Nat := [0, 30, 50].getD (Config.msecOffset lp % 3) 0

/-- The IV of GCM-AES-XPN: SSCI and 64-bit packet number under the salt. -/
def xpnIv (sa : Sa) (pn : Nat) : Bytes := xorBytes (beBytes 4 sa.ssci ++ beBytes 8 pn) sa.salt

/-- The 64-bit packet number behind its 32 low bits: the nearest at or above the lowest acceptable one, by the rule of the
standard on the top bits of the halves. -/
def xpnRecover (lowest low : Nat) : Nat :=
  let up := lowest / 2 ^ 32
  if low < 2 ^ 31 ∧ 2 ^ 31 ≤ lowest % 2 ^ 32 then (up + 1) % 2 ^ 32 * 2 ^ 32 + low else up * 2 ^ 32 + low

/-- The SecTAG of a sent frame: explicit SCI, encrypted and changed text; the short length of user data below 48 bytes. -/
def secTag (an sci pn n : Nat) : Bytes :=
  beBytes 2 msecType ++ beBytes 1 (0x2C + an) ++ beBytes 1 (if n < 48 then n else 0) ++ beBytes 4 (pn % 2 ^ 32) ++ beBytes 8 sci

/-- A frame as a secured port sends it under an association (R56): addresses, SecTAG, user data encrypted behind the offset,
ICV, FCS. -/
def protect (s : State) (lp an : Nat) (sa : Sa) (b : Bytes) : Bytes :=
  let user := (b.drop 12).take (b.length - 16)
  let o := msecOffset lp
  let clear := b.take 12 ++ secTag an (s.lp lp).tx.sci sa.nextPn user.length ++ user.take o
  let x := Crypto.gcmEncrypt (tget s.sec.slots sa.keySlot {}).key (xpnIv sa sa.nextPn) clear (user.drop o)
  refcs (clear ++ x.1 ++ x.2 ++ [0, 0, 0, 0])

/-- A frame on the wire of a secured port opened: what is found, and the frame without MACsec under an FCS of its own.
A frame of an association that is not installed keeps its protected text. -/
def msecOpen (s : State) (lp : Nat) (b : Bytes) : MsecIn × Bytes :=
  if beAt b 12 2 ≠ msecType then (.untagged, b)
  else
    let tci := (byteAt b 14).toNat
    let tagLen := if tci.testBit 5 then 16 else 8
    let an := tci % 4
    let sci := if tci.testBit 5 then beAt b 20 8 else beAt b 6 6 * 65536 + 1
    let body := (b.drop (12 + tagLen)).take (b.length - 4 - 12 - tagLen)
    let ct := body.take (body.length - 16)
    let icv := body.drop (body.length - 16)
    let bare (user : Bytes) : Bytes := refcs (b.take 12 ++ user ++ [0, 0, 0, 0])
    match (tget? (s.lp lp).rx sci).bind (fun c => tget? c.sas an) with
    | none => (.tagged (BitVec.ofNat 64 sci) (BitVec.ofNat 2 an) (BitVec.ofNat 64 (beAt b 16 4)) false, bare ct)
    | some sa =>
      let pn := xpnRecover (sa.topPn + 1) (beAt b 16 4)
      let o := if tci.testBit 3 then msecOffset lp else ct.length
      let x := Crypto.gcmOpen (tget s.sec.slots sa.keySlot {}).key (xpnIv sa pn) (b.take (12 + tagLen) ++ ct.take o) (ct.drop o) icv
      (.tagged (BitVec.ofNat 64 sci) (BitVec.ofNat 2 an) (BitVec.ofNat 64 pn) x.2, bare (ct.take o ++ x.1))

/-- 0 strict, 1 check, 2 disabled (R57). -/
def validateMode (s : State) (lp : Nat) : Nat := s.cfgN (itemId 4 2 2) lp 0 0

/-- Index of a receive channel, for its replay-window record (R354): its place among the installed channels in rising order of their
SCI, which moves when another is installed or deleted (DESIGN CHOICE, log 69). -/
def chanIndex (p : LPort) (sci : Nat) : Nat := (p.rx.findIdx? (fun x => x.1 == sci)).getD 0

/-- What validation finds: the counter of a failed check, none for a good frame (R60). -/
def msecCheck (s : State) (lp : Nat) : MsecIn → Option Nat
  | .untagged => some 9
  | .tagged sci an pn icv =>
    let p := s.lp lp
    match tget? p.rx sci.toNat with
    | none => some 8
    | some ch =>
      match tget? ch.sas an.toNat with
      | none => some 8
      | some sa =>
        if pn.toNat + s.cfgN (itemId 4 2 3) lp (chanIndex p sci.toNat) 0 < sa.topPn + (if sa.topPn = 0 then 0 else 1) then some 7
        else if !icv then some 6
        else none

/-- The highest packet number of a good frame kept. -/
def msecSeen (s : State) (lp : Nat) : MsecIn → State
  | .untagged => s
  | .tagged sci an pn _ =>
    s.onLp lp (fun p => { p with rx := tmod p.rx sci.toNat { sci := sci.toNat } (fun ch =>
      match tget? ch.sas an.toNat with
      | some sa => { ch with sas := tset ch.sas an.toNat { sa with topPn := max sa.topPn pn.toNat } }
      | none => ch) })

/-! ### Reception (R39, R50 to R54, R60, R61, R64, R65, R85) -/

/-- The pipeline of a port frame (R21) and its number among those dealt, counted on on a 1x800G port. -/
def pipeOf (s : State) (lp : Nat) : Nat × Nat × State :=
  let p := lp / 8
  if s.portMode p = 0 then
    (2 * p + (s.pp p).deal % 2, (s.pp p).deal, s.onPp p (fun x => { x with deal := x.deal + 1 }))
  else (2 * p + lp % 2, 0, s)

def crossing (s : State) (pipe : Nat) : List PFrame := tget s.parse.cross pipe []

/-- Good-frame counters (R66). -/
def countRx (s : State) (lp : Nat) (b : Bytes) : State :=
  let s := countStat (countStat s (lStat lp 0) b.length) (lStat lp 1) 1
  if beAt b 0 6 = 0xFFFFFFFFFFFF then countStat s (lStat lp 3) 1
  else if (byteAt b 0).getLsbD 0 then countStat s (lStat lp 2) 1
  else s

/-- A frame past the MAC goes to its pipeline's crossing queue, with its T_in, and enters the parser block. -/
def toPipeline (s : State) (lp : Nat) (b : Bytes) (bad : Bool) (tIn tInUp : Nat) : State :=
  let r := pipeOf s lp
  let f : Frame := { bytes := b, cls := 0, inLp := some lp, tIn := tIn, tInUp := tInUp, bad := bad }
  let x : PFrame := { frame := f, src := lp, no := r.2.1 }
  { countEntry r.2.2 with parse.cross := tset r.2.2.parse.cross r.1 (crossing r.2.2 r.1 ++ [x.enter s]) }

/-- The frame `b` without MACsec once validation has let it pass; `fcsBad`: its FCS is bad; `icvBad`: a failed ICV that a class 7
frame outruns, and no good frame (R39, R66). -/
def receiveChecked (s : State) (lp : Nat) (b : Bytes) (fcsBad icvBad : Bool) (tIn tInUp : Nat) : State :=
  if b.length < 64 then countErr s (lErr lp 1)
  else if s.maxFrame lp < b.length then countErr s (lErr lp 2)
  else if !fcsBad && etherType b == 0x8808 then countErr s (lErr lp 3)
  else
    let s := if fcsBad || icvBad then s else countRx s lp b
    if !s.parse.patchDone then countErr s (lErr lp 5)
    else if s.port.mgmtOnly then
      if fcsBad then s
      else if mgmtAccepts s b then toPipeline s lp b false tIn tInUp
      else countErr s (lErr lp 5)
    else toPipeline s lp b (fcsBad || icvBad) tIn tInUp

/-- MACsec does not validate the frame (R50, R57, R60): the port is not secured or does not validate, the frame's FCS is bad (R39),
or it is untagged and an EAPOL or a MAC control frame. -/
def msecExempt (s : State) (lp : Nat) (b : Bytes) (fcsBad : Bool) : Bool :=
  !s.secured lp || validateMode s lp == 2 || fcsBad || etherType b == 0x888E || etherType b == 0x8808

/-- A frame on the receive data path. A bad FCS is counted in RX_FCS_ERR where the frame is of a length that the port takes or
overlaps an uncorrectable codeword (R52). -/
def receiveNow (s : State) (f : WireFrame) (tIn tInUp : Nat) : State :=
  let lp := f.lp.val
  let x := if s.secured lp then msecOpen s lp f.bytes else (.untagged, f.bytes)
  let bad := f.fecBad || !fcsGood f.bytes
  let s := if f.fecBad || (bad && decide (64 ≤ x.2.length) && decide (x.2.length ≤ s.maxFrame lp)) then countErr s (lErr lp 0) else s
  if msecExempt s lp f.bytes bad then receiveChecked s lp x.2 bad false tIn tInUp
  else match msecCheck s lp x.1 with
    | none => receiveChecked (countStat (msecSeen s lp x.1) (lStat lp 6) 1) lp x.2 false false tIn tInUp
    | some k =>
      let s := countErr s (lErr lp k)
      if validateMode s lp = 1 then receiveChecked s lp x.2 false false tIn tInUp
      else if k = 6 then receiveChecked s lp x.2 false true tIn tInUp
      else s

/-- A receive activation holds the receive data path of the physical port (R58). -/
def rxHolds (s : State) (p : Nat) : Bool :=
  match (s.pp p).rekey with
  | some r => r.dir == 1
  | none => false

/-- The codewords of a frame counted (R52, R66). -/
def countCodewords (s : State) (p : Nat) (f : WireFrame) : State :=
  let s := countErrs s (portBase p + 0x20) f.uncorr
  if f.corr = 0 then s else countStat s (portBase p + 0x100) f.corr

/-- T_in at the balls (R43): the time at the MAC less the calibrated offset. -/
def tInOf (s : State) (lp : Nat) : Nat := s.ns - (s.lp lp).rxCal

/-- T_out at the balls. -/
def tOutOf (s : State) (lp : Nat) : Nat := s.ns + (s.lp lp).txCal

/-- FRAME_RECEIVE: a frame completes at the MAC of a port whose link is up. -/
def receive (s : State) (f : WireFrame) : State :=
  let lp := f.lp.val
  if !(s.boot.gate && s.lpPresent lp && (s.lp lp).up) then s
  else
    let s := countCodewords s (lp / 8) f
    if s.stopped (.logicalPort f.lp) then
      countErr (if f.fecBad then countErr s (lErr lp 0) else s) (lErr lp 3)
    else if rxHolds s (lp / 8) then
      s.onPp (lp / 8) (fun p => { p with rxHeld := p.rxHeld ++ [{ frame := f, tIn := tInOf s lp, tInUp := s.clk.up }] })
    else receiveNow s f (tInOf s lp) s.clk.up

/-- The frames that the receive buffer held, in their order (R58: none is lost). -/
def releaseHeld (s : State) (p : Nat) : State :=
  let hs := (s.pp p).rxHeld
  hs.foldl (fun s h => receiveNow s h.frame h.tIn h.tInUp) (s.onPp p (fun x => { x with rxHeld := [] }))

/-! ### Links (R51, R53, R64) -/

/-- The reference of the physical port runs (R399) and its block is not gated (R405). -/
def portClocked (s : State) (p : Nat) : Bool :=
  (if p = 0 then s.clk.eth0Ok else s.clk.eth1Ok) && (tget s.clk.gates (12 + p) .run == .run)

/-- ICMPv6 neighbour advertisement for the link-local address, to a destination (R64, R367 step 9). -/
def ndAdvert (s : State) (dstMac dstIp flags : Nat) : Bytes :=
  let own := linkLocal s.fuses.mac.toNat
  let icmp (c : Nat) : Bytes := [136#8, 0#8] ++ beBytes 2 c ++ beBytes 4 (flags * 2 ^ 29) ++ beBytes 16 own
    ++ [2#8, 1#8] ++ beBytes 6 s.fuses.mac.toNat
  let pseudo := beBytes 16 own ++ beBytes 16 dstIp ++ beBytes 4 32 ++ beBytes 4 58
  let f := beBytes 6 dstMac ++ beBytes 6 s.fuses.mac.toNat ++ beBytes 2 0x86DD ++ beBytes 4 (6 * 2 ^ 28) ++ beBytes 2 32
    ++ [58#8, 255#8] ++ beBytes 16 own ++ beBytes 16 dstIp ++ icmp (inetCsum (pseudo ++ icmp 0))
  f ++ leBytes 4 (crc32 f).toNat

/-- The all-nodes address and its MAC. -/
def allNodesIp : Nat := 0xFF02 * 2 ^ 112 + 1
def allNodesMac : Nat := 0x333300000001

/-- The interface type of a port (R49): 0 CR, 1 KR, 2 C2M; management-only mode tries CR and C2M in turn (R64). -/
def ifaceOf (s : State) (lp : Nat) : Nat :=
  if s.port.mgmtOnly then (if (s.lp lp).c2m then 2 else 0) else s.cfgN (itemId 4 1 2) lp 0 0

/-- Auto-negotiation runs on the port: never on a C2M interface (R51). -/
def anOn (s : State) (lp : Nat) : Bool :=
  ifaceOf s lp != 2 && (s.port.mgmtOnly || s.cfgN (itemId 4 1 3) lp 0 1 == 1)

/-- The one speed that the port's auto-negotiation advertises, Gbit/s, and the lane that it runs on (R47, R51). -/
def anSpeed (s : State) (lp : Nat) : Nat := s.lpRate lp / 1000
def anLane (s : State) (lp : Nat) : Nat := lp % 8 * (8 / modePorts (s.portMode (lp / 8)))

/-- A partner with which the port can link: where auto-negotiation runs, one that offers its speed (R51). -/
def partnerFits (s : State) (lp : Nat) (offer : Option Nat) : Bool := !anOn s lp || offer == some (anSpeed s lp)

/-- What a link-up settles: negotiation, training (R49, R51) and the calibrated offsets (R43), which the spec gives no value: free
values up to the worst case of steps 1 to 5 and 19 to 20 of R40 (log 67). -/
def settleLink (s : State) (lp : Nat) : State :=
  let r := s.draw 201
  let t := r.2.draw 71
  t.2.onLp lp (fun p => { p with rxCal := r.1, txCal := t.1, trained := ifaceOf s lp != 2
                                 negotiated := if anOn s lp then some (anSpeed s lp) else none })

/-- LINK_UP: lanes aligned, FEC locked, no local fault (R53), with a partner that auto-negotiation accepts (R51). -/
def linkUp (s : State) (lp : Nat) (offer : Option Nat) : State :=
  if !(s.boot.gate && s.lpPresent lp && portClocked s (lp / 8)) || (s.port.mgmtOnly && lp % 8 != 0) || (s.lp lp).held then s
  else if (s.lp lp).up then s.onLp lp (fun p => { p with aligned := true, lostAt := none })
  else if !partnerFits s lp offer then s
  else
    let s := settleLink s lp
    let s := s.onLp lp (fun p => { p with up := true, aligned := true, lostAt := none, remoteFault := false })
    let s := s.onPp (lp / 8) (fun p => { p with fecLock := p.fecLock ||| laneMask s lp })
    if s.port.mgmtOnly && s.boot.inband then
      emit s lp 0 (controlClass s false) (ndAdvert s allNodesMac allNodesIp 1)
    else s

/-- A logical port's link declared down (R53): remote fault is signalled, the port retrains; counted, reported. -/
def declareDown (s : State) (lp : Nat) : State :=
  let s := dropLink s lp
  let s := s.onLp lp (fun p => { p with remoteFault := true, setupAt := s.clk.up })
  raise (countErr s (portBase (lp / 8) + 0x24)) 0x0401 lp []

/-- ALIGNMENT_LOSS: the hold time starts. -/
def alignmentLost (s : State) (lp : Nat) : State :=
  if (s.lp lp).up && (s.lp lp).aligned then s.onLp lp (fun p => { p with aligned := false, lostAt := some s.clk.up }) else s

/-- LINK_DOWN: alignment lost for longer than the hold time (R53). -/
def linkDown (s : State) (lp : Nat) : State :=
  match (s.lp lp).lostAt with
  | some t => if (s.lp lp).up && decide (t + s.cfgN (itemId 4 1 7) lp 0 0 < s.clk.up) then declareDown s lp else s
  | none => s

/-- The fallback of link set-up in management-only mode, 3 s after the attempt before it began (R64). -/
def setupFallback (s : State) (p : Nat) : State :=
  let lp := p * 8
  if s.port.mgmtOnly && s.boot.gate && !(s.lp lp).up && decide ((s.lp lp).setupAt + 3 * nsPerSec ≤ s.clk.up) then
    s.onLp lp (fun x => { x with c2m := !x.c2m, setupAt := s.clk.up })
  else s

/-- FEC_DEGRADE: corrected symbols of a lane counted; the threshold of R52 within one second. The seconds are windows one after the
other, each begun by the first row past the end of the one before, and a window raises one event for the physical port
(DESIGN CHOICE, log 63). -/
def fecSymbols (s : State) (p lane n : Nat) : State :=
  let s := countStat s (portBase p + 0x108 + 8 * lane) n
  let s := if (s.pp p).symStart + nsPerSec ≤ s.clk.up then
      s.onPp p (fun x => { x with symStart := s.clk.up, syms := [], degradeTold := false }) else s
  let s := s.onPp p (fun x => { x with syms := tmod x.syms lane 0 (· + n) })
  if s.cfgN (itemId 4 1 8) p 0 1000000 < tget (s.pp p).syms lane 0 ∧ ¬ (s.pp p).degradeTold then
    raise (s.onPp p (fun x => { x with degradeTold := true })) 0x0402 p []
  else s

/-- One frame of the Clerk's queue sent under the limits of R64; after management-only mode it goes
through the traffic manager. -/
def mgmtRelease (s : State) (p : Nat) : State :=
  match (s.pp p).mgmt with
  | [] => s
  | (lp, b) :: rest =>
    if !s.port.mgmtOnly then emit (s.onPp p (fun x => { x with mgmt := rest })) lp (s.qsetRange lp).1 (controlClass s false) b
    else if !((s.lp lp).up && decide ((s.pp p).mgmtAt ≤ s.clk.up)) then s
    else
      let s := s.onPp p (fun x => { x with mgmt := rest, mgmtAt := s.clk.up + max 50000 (b.length * 80) })
      countStat (countStat s (lStat lp 4) b.length) (lStat lp 5) 1

/-! ### Rekey (R58) -/

/-- What the transmit channel's next packet number brings (R59): the event of the PN threshold once it is passed, and at
2^64 - 1 the end of transmission on the channel, each once. -/
def pnCheck (s : State) (lp : Nat) : State :=
  match (s.lp lp).tx.active with
  | none => s
  | some an =>
    let pn := (tget (s.lp lp).tx.sas an default).nextPn
    let s := if s.cfgN (itemId 4 2 4) lp 0 0xC000000000000000 < pn ∧ ¬ (s.lp lp).tx.told then
        raise (s.onLp lp (fun p => { p with tx := { p.tx with told := true } })) 0x0404 lp [] else s
    if 2 ^ 64 - 1 ≤ pn ∧ ¬ (s.lp lp).tx.exhausted then
      raise (s.onLp lp (fun p => { p with tx := { p.tx with exhausted := true } })) 0x0405 lp []
    else s

/-- A channel under an activated association: a transmit one starts at the packet number given at install (R58). -/
def SChan.activate (ch : SChan) (an : Nat) (tx : Bool) : SChan :=
  let sa := tget ch.sas an default
  { ch with active := some an, told := false, exhausted := false
            sas := if tx then tset ch.sas an { sa with nextPn := sa.firstPn } else ch.sas }

/-- SA_ACTIVATED: the association takes over once the frame in transmission has ended, and the receive buffer is released. -/
def saActivated (s : State) (p : Nat) : State :=
  match (s.pp p).rekey with
  | none => s
  | some r =>
    if r.dir = 0 ∧ (List.range 8).any (fun i => (s.lp (p * 8 + i)).mac.isSome) then s
    else
      let s := s.onLp r.lp (fun x =>
        if r.dir = 0 then { x with tx := x.tx.activate r.an true }
        else { x with rx := tmod x.rx r.sci { sci := r.sci } (·.activate r.an false) })
      let s := s.onPp p (fun x => { x with rekey := none, rekeyEnd := some s.clk.up })
      let s := raise s 0x0403 r.lp []
      if r.dir = 0 then pnCheck s r.lp else releaseHeld s p

/-! ### PTP on transmission (R62) -/

/-- Offset of a PTP event message in a frame, and of its IPv4 UDP checksum. -/
def ptpAt (b : Bytes) : Option (Nat × Option Nat) :=
  if etherType b = 0x88F7 then some (etherOff b + 2, none)
  else match l4Of b with
    | some (o, 17) => if beAt b (o + 2) 2 = 319 then some (o + 8, some (o + 6)) else none
    | _ => none

/-- A field changed under an incremental checksum update; a UDP checksum that comes to zero is sent as 0xFFFF. -/
def patchCsum (b : Bytes) (csum : Option Nat) (off : Nat) (v : Bytes) : Bytes :=
  let nb := patch b off v
  match csum with
  | none => nb
  | some c =>
    let old := beAt b c 2
    if old = 0 then nb
    else
      let x := (65535 - old) + onesSum v + (65535 * v.length - onesSum (slice b off v.length))
      let new := 65535 - fold16 (fold16 x)
      patch nb c (beBytes 2 (if new = 0 then 0xFFFF else new))

/-- One-step Sync and the transparent clock, for an egress instant (R62). -/
def ptpRewrite (lp : Nat) (f : Frame) (outNs : Nat) : Frame :=
  match ptpAt f.bytes with
  | none => f
  | some (o, c) =>
    let typ := (byteAt f.bytes o).toNat % 16
    if Config.ptpOneStep lp && f.inLp.isNone && typ == 0 && etherType f.bytes != 0x86DD then
      let b := patch f.bytes (o + 34) (beBytes 10 (time80 outNs))
      let b := match c with
        | some x => patch b x [0, 0]
        | none => b
      { f with bytes := refcs b }
    else if Config.ptpTransparent lp && f.inLp.isSome && decide (f.cls < 7) && decide (typ < 4) then
      let corr := ((beAt f.bytes (o + 8) 8 : Int) + ((outNs : Int) - f.tIn) * 65536) % 2 ^ 64
      { f with bytes := refcs (patchCsum f.bytes c (o + 8) (beBytes 8 corr.toNat)) }
    else f

/-! ### Transmission (R38, R53, R54, R59, R131, R140) -/

/-- A frame put on the MAC: on a secured port it takes the next packet number and is protected (R38, R56, R59); one whose check
failed after cut-through ends with an inverted FCS (R39). -/
def startFrame (s : State) (lp : Nat) (f : Frame) : State :=
  let w := s.wirePs lp f
  let f := ptpRewrite lp f (tOutOf s lp + (w + 999) / 1000)
  let fcs (b : Bytes) : Bytes := if f.bad then invertFcs (refcs b) else b
  let put (s : State) (b : Bytes) : State :=
    s.onLp lp (fun p => { p with mac := some { frame := f, wire := fcs b, start := s.clk.up, wirePs := w } })
  if !s.secured lp then put s f.bytes
  else match (s.lp lp).tx.active with
    | none => put s f.bytes
    | some an =>
      let sa := tget (s.lp lp).tx.sas an default
      let s := put s (protect s lp an sa f.bytes)
      let s := s.onLp lp (fun p => { p with tx := { p.tx with sas := tset p.tx.sas an { sa with nextPn := sa.nextPn + 1 } } })
      pnCheck (countStat s (lStat lp 7) 1) lp

/-- A frame that reached the selector sent, or discarded where R53, R54 or R59 says so. -/
def sendSelected (s : State) (lp : Nat) (f : Frame) : State :=
  if !(s.lp lp).up || decide (s.maxFrame lp < f.len) then countErr s (lErr lp 4)
  else if s.secured lp && (s.lp lp).tx.exhausted then countErr s (lErr lp 10)
  else startFrame s lp f

/-- The pitch frame committed earliest among those that may start. -/
def pitchPick (s : State) (lp : Nat) : List (Nat × Nat × Frame) → Option (Nat × Nat × Frame)
  | [] => none
  | x :: rest =>
    match pitchPick s lp rest with
    | none => if mayStart s lp x.2.2 then some x else none
    | some y => if mayStart s lp x.2.2 && decide (x.2.1 < y.2.1) then some x else some y

/-- Frames that wait at the selector because their window has too little time left marked, each counted once (R131):
the express head, and the pitch frames committed before number `bound`, all of them when it is none. Every class 7 frame that
waits while its gate is closed is marked (R45). -/
def deferGate (s : State) (lp : Nat) (bound : Option Nat) : State :=
  let short (f : Frame) : Bool := !f.deferred && !mayStart s lp f && (gatesAt (s.lp lp) s.ns).2.testBit f.cls
  let seen (k : Nat) : Bool := match bound with
    | some b => decide (k < b)
    | none => true
  let shut := !(gatesAt (s.lp lp) s.ns).2.testBit 7
  let p := s.lp lp
  let n := (p.pitch.filter (fun x => seen x.2.1 && short x.2.2)).length + ((p.express.take 1).filter short).length
  let mark (f : Frame) : Frame :=
    if mayStart s lp f then f else { (if f.cls = 7 then f.blame causeGate else f) with deferred := f.deferred || short f }
  let s := s.onLp lp (fun p =>
    { p with pitch := p.pitch.map (fun x => if seen x.2.1 then (x.1, x.2.1, mark x.2.2) else x)
             order := if shut then p.order.map (fun x => (x.1, x.2.blame causeGate)) else p.order
             express := match p.express with
               | [] => []
               | f :: r => mark f :: (if shut then r.map (·.blame causeGate) else r) })
  if n = 0 then s else countStat s (tmBase lp + 0x118) n

/-- Transmission of a physical port is held: a transmit rekey in progress (R58), or a secured port
without an active association (log 18). -/
def txHeld (s : State) (lp : Nat) : Bool :=
  (match (s.pp (lp / 8)).rekey with
   | some r => r.dir == 0
   | none => false)
  || (s.secured lp && (s.lp lp).tx.active.isNone)

/-- A logical port that is disabled and whose link is up sends idles: its frames wait for LP_ENABLE (R48, R65; DEDUCED, log 68). -/
def txIdle (s : State) (lp : Nat) : Bool := s.disabled (.logicalPort (Fin.ofNat 16 lp))

/-- TRANSMIT_SELECT: the selector of R131 at an idle MAC. -/
def transmitSelect (s : State) (lp : Nat) : State :=
  if !(s.boot.gate && s.lpPresent lp) || (s.lp lp).mac.isSome || ((txHeld s lp || txIdle s lp) && (s.lp lp).up) then s
  else
    let pick (s : State) : State :=
      match pitchPick s lp (s.lp lp).pitch with
      | some x =>
        let s := deferGate s lp (some x.2.1)
        sendSelected (s.onLp lp (fun p => { p with pitch := p.pitch.filter (fun y => y.2.1 != x.2.1) })) lp x.2.2
      | none => deferGate s lp none
    match (s.lp lp).express with
    | f :: rest =>
      if mayStart s lp f then sendSelected (s.onLp lp (fun p => { p with express := rest })) lp f
      else pick s
    | [] => pick s

/-! ### The express latency monitor (R43 to R46) -/

def exlatCtr (lp o : Nat) : Nat := exlatBase lp + o

/-- The histogram bin of D. -/
def exlatBin (d : Nat) : Nat :=
  if d < 500 then 0 else if d < 600 then 1 else if d < 700 then 2 else if d < 750 then 3
  else if d < 800 then 4 else if d < 850 then 5 else if d < 1000 then 6 else 7

/-- Both ports stand in R36's scope (R44, C4, C5). -/
def inScope (s : State) (a b len : Nat) : Bool :=
  decide (64 ≤ len) && decide (len ≤ 2048) && s.portMode (a / 8) == 0 && s.portMode (b / 8) == 0
    && (s.lp a).up && (s.lp b).up && s.cfgN (itemId 4 1 4) a 0 0 == 0 && s.cfgN (itemId 4 1 4) b 0 0 == 0

/-- A rekey touched the frame's interval on a physical port (C3). -/
def rekeyDuring (s : State) (p from_ : Nat) : Bool :=
  (s.pp p).rekey.isSome || (match (s.pp p).rekeyEnd with
    | some e => decide (from_ ≤ e)
    | none => false)

/-- A frame of the ingress port exceeded 64 parser-stage clocks in the interval (C7). -/
def overDuring (s : State) (lp from_ : Nat) : Bool :=
  match (s.lp lp).overAt with
  | some t => decide (from_ ≤ t)
  | none => false

/-- A sampled frame: counters, maxima, and the capture of an exceed (R45). -/
def exlatSample (s : State) (lp : Nat) (f : Frame) (d causes : Nat) : State :=
  let s := countStat (countStat (countStat s (exlatCtr lp 0x10) 1) (exlatCtr lp 0x18) d) (exlatCtr lp (0x40 + 8 * exlatBin d)) 1
  let s := s.onLp lp (fun p => { p with exlat := { p.exlat with max := max p.exlat.max d } })
  if d ≤ (s.lp lp).exlat.thresh then s
  else
    let s := countErr s (exlatCtr lp 0x30)
    if (s.lp lp).exlat.valid then s
    else raise ((s.noteFlag (exlatCtr lp 0x94) true).onLp lp (fun p => { p with exlat := { p.exlat with tin := time80 f.tIn, d := d, cause := causes, valid := true } }))
      0x0407 lp []

/-- A step of the time base took effect at or after the instant at which T_in was taken (R44). A step that is queued behind the
row that takes T_out takes effect in the clock after it (log 1). -/
def steppedSince (s : State) (from_ : Nat) : Bool :=
  match s.clk.stepAt with
  | some t => decide (from_ ≤ t)
  | none => false

/-- The monitor at the end of a frame (R44). The length that SCOPE holds to 64 to 2,048 bytes is that at egress (DESIGN CHOICE,
log 65). -/
def exlatEnd (s : State) (lp : Nat) (f : Frame) : State :=
  match f.inLp with
  | none => s
  | some a =>
    let x := (s.lp lp).exlat
    if !(x.en && f.cls == 7 && !f.bad && (!x.scope || inScope s a lp f.len)) then s
    else if steppedSince s f.tInUp then countStat s (exlatCtr lp 0x20) 1
    else exlatSample s lp f (tOutOf s lp - f.tIn)
      (f.causes ||| (if rekeyDuring s (a / 8) f.tInUp || rekeyDuring s (lp / 8) f.tInUp then causeRekey else 0)
        ||| (if overDuring s a f.tInUp then causeParse else 0))

/-- A transmit stamp into the port's FIFO (R61). -/
def pushStamp (s : State) (lp tag : Nat) : State :=
  if (s.lp lp).stamps.length < 64 then s.onLp lp (fun p => { p with stamps := p.stamps ++ [(time80 (tOutOf s lp), tag)] })
  else raise (countErr s (lErr lp 11)) 0x0406 lp []

/-- TRANSMIT_END: the last bit leaves the MAC; the frame must have been on it for its wire time. -/
def transmitEnd (s : State) (lp : Nat) : State :=
  match (s.lp lp).mac with
  | none => s
  | some m =>
    if s.clk.up * 1000 + 999 < m.start * 1000 + m.wirePs then s
    else
      let f := m.frame
      let q := 8 * f.qset + f.cls
      let s := s.onLp lp (fun p => { p with mac := none })
      let s := countStat (countStat s (lStat lp 4) f.len) (lStat lp 5) 1
      let s := countStat (countStat s (qCtr q 2) 1) (qCtr q 3) f.len
      let s := match f.stamp with
        | some tag => pushStamp s lp tag
        | none => s
      let s := exlatEnd s lp f
      let s := s.qCount (.tmQueue q) 1 0
      s.qCount (.logicalPort (Fin.ofNat 16 lp)) 1 0

end Sys2Proof.Machine
end

