-- ==== Sys2Proof/Machine/Quiesce.lean ====
section
/-! DEFINITION. Quiescing (R26 to R30, R459): the commands that start one, its abort and its timeout, and
the re-enabling of ports and queues. -/

namespace Sys2Proof.Machine

/-! ### Aborting what remains (R28) -/

/-- A Stall's abort (R273): its rings and staging slots emptied, buffers of the messages returned (R322). -/
def abortStall (s : State) (st : Nat) : State :=
  let n := stallMsgs s st
  let mine := s.ido.chans.filter (fun p => p.1 / 1024 == st)
  let bufs := mine.flatMap (fun p => p.2.msgs.filterMap ChMsg.buf)
  let s := bufs.foldl freeBuf s
  let s := { s with ido.chans := s.ido.chans.map (fun (p : Nat × Chan) => if p.1 / 1024 = st then (p.1, { p.2 with msgs := [], pos := 0 }) else p) }
  let s := s.onStall st (fun x => { x with cores := x.cores.map (fun (c : Nat × CoreRole) => (c.1, { c.2 with stages := [] })) })
  (countErrs s (stErr st 2) n).qCount (.stall (Fin.ofNat 12 st)) 0 n

/-- The rest of an object's work aborted; children of a parent with it (R30). -/
def abortOne (s : State) : QObj → State
  | .storageQueue tf q => abortSq s (sqKey tf q)
  | .tmQueue q =>
    let r := abortQueue s q
    r.1.qCount (.tmQueue q) 0 r.2
  | .stall n => abortStall s n.val
  | .endpoint e => abortEndpoint s e.toNat
  | _ => s

/-- A running quiesce marked as aborting. -/
def markAbort (s : State) (o : QObj) : State :=
  { s with qs := s.qs.map (fun p => if p.1 = o ∧ !p.2.done then (p.1, { p.2 with abort := true }) else p) }

/-- Children of an object whose quiesce runs. -/
def runningChildren (s : State) (p : QObj → Bool) : List QObj := ((s.qs.filter (fun x => !x.2.done && p x.1)).map Prod.fst)

def abortChildren (s : State) (p : QObj → Bool) : State :=
  (runningChildren s p).foldl (fun s o => abortOne (markAbort s o) o) s

/-- Commands of a queue that are dispatched: what a freeze aborts at its timeout (R236). -/
def abortDispatched (s : State) (k : Nat) : State :=
  match s.sq? k with
  | none => s
  | some q =>
    let waiting := q.cmds.filter (fun c => c.ph == .waiting)
    let s := abortSq (s.onSq k (fun q => { q with cmds := q.cmds.filter (fun c => c.ph != .waiting) })) k
    s.onSq k (fun q => { q with cmds := q.cmds ++ waiting })

/-- The abort of an object, parents included. -/
def abortObj (s : State) (o : QObj) : State :=
  match s.q? o with
  | none => s
  | some r =>
    let s := markAbort s o
    match o with
    | .tf n =>
      if r.kind = 2 then
        let s := (tfEndpoints s n).foldl abortMessages s
        let s := abortChildren s (tfChild s n)
        (tfQueues s n).foldl (fun s p => abortDispatched s p.1) s
      else abortChildren s (tfChild s n)
    | .logicalPort n =>
      let s := abortChildren s (fun o => match o with
        | .tmQueue q => s.qsetPort (q / 8) == some n.val
        | _ => false)
      let x := dropPort s n.val
      (countErrs x.1 (lErr n.val 4) x.2).qCount o 0 x.2
    | _ => abortOne s o

/-- QUIESCE_TIMEOUT (R28). -/
def execQuiesceTimeout (t : Nat) (obj : QObj) (s : State) :=
  act t s (fun s =>
    match s.q? obj with
    | some r => if !r.done && !r.abort && decide (r.deadline ≤ s.clk.up) then abortObj s obj else s
    | none => s)

/-! ### Teasel gives way (R424) -/

/-- Kind and index of a unit identifier (R419). -/
def unitKind (u : Nat) : Nat := u / 4096
def unitIdx (u : Nat) : Nat := u % 4096

/-- A core or Stall bank of a Stall. -/
def unitOfStall (st u : Nat) : Bool := (unitKind u == 1 || unitKind u == 3) && unitIdx u / 17 == st

/-- The bank `b` takes back the role that the spare `sp` holds. -/
def bankBack (s : State) (b sp : Nat) : State :=
  { s with tsl.bankMap := s.tsl.bankMap.filterMap (fun p => if p.2 = sp then (if p.1 = b then none else some (p.1, b)) else some p) }

/-- The hold of a unit ends: its time is counted, its detector runs on, its sequencer is in rotation (R423, R435). -/
def endHold (s : State) (u : UnitTest) : State :=
  let s := countStat { s with tsl.cur := none } (tslBase + 0x110) (s.clk.up - u.start)
  if unitKind u.unit = 1 then
    let st := unitIdx u.unit / 17
    s.onStall st (fun x => { x with cores := x.cores.map (fun c =>
      if c.2.phys = some (unitIdx u.unit % 17) then (c.1, { c.2 with quietFrom := s.clk.up }) else c) })
  else if unitKind u.unit = 2 then
    { s with parse.out := s.parse.out.filter (· != unitIdx u.unit)
             parse.poison := s.parse.poison.filter (fun w => w / 32768 != unitIdx u.unit || decide (w % 32768 < 0x4000)) }
  else s

/-- The test of a unit that satisfies `p` abandoned: it is back in service, to be tried again later in the sweep. -/
def abandonTest (s : State) (p : Nat → Bool) : State :=
  match s.tsl.cur with
  | some u =>
    if p u.unit then
      let s := match u.spare with
        | some sp => bankBack s u.unit sp
        | none => s
      let s := countErr (endHold s u) (tslBase + 0x5C)
      { s with tsl.todo := s.tsl.todo.filter (· != u.unit) ++ s.tsl.todo.filter (· == u.unit) }
    else s
  | none => s

/-! ### Starting one -/

/-- The kinds of R360. -/
def qKindTfDisable : Nat := 1
def qKindTfFreeze : Nat := 2
def qKindSq : Nat := 3
def qKindTm : Nat := 4
def qKindLp : Nat := 5
def qKindStall : Nat := 6
def qKindEp : Nat := 7
def qKindRegion : Nat := 8

/-- Default timeouts of R30, ns. -/
def qDefault (kind : Nat) : Nat :=
  match kind with
  | 1 => 100000000
  | 2 => 100000000
  | 3 => nsPerSec
  | 4 => 10000000
  | 5 => 10000000
  | 6 => 100000000
  | _ => 4000000

/-- Step 1 of R26 for one object: policy 1 aborts at once. -/
def qStart (s : State) (o : QObj) (kind policy timeout : Nat) (linkDown destroy : Bool) : State :=
  let s := s.qSet o { start := s.clk.up, deadline := s.clk.up + (if timeout = 0 then qDefault kind else timeout)
                      kind := kind, linkDown := linkDown, destroy := destroy }
  let s := match o with
    | .storageQueue tf q => s.onSq (sqKey tf q) (fun x => { x with st := .quiescing, heldBack := x.st == .error })
    | .stall n => s.onStall n.val (fun x => { x with st := .quiescing })
    | _ => s
  if policy = 1 then abortObj s o else s

/-- The parameters after the object (R459): the failing parameter, or policy, timeout and link down. -/
def qArgs (r : Req) (n : Nat) (link : Bool) : Nat ⊕ (Nat × Nat × Bool) :=
  let p := num r n
  let t := num r (n + 1)
  let l := num r (n + 2)
  if !bodyIs r (8 * (n + 2) + (if link then 8 else 0)) then .inl 0
  else if 2 < p then .inl (n + 1)
  else if ¬ (t = 0 ∨ (1000000 ≤ t ∧ t ≤ 60 * nsPerSec)) then .inl (n + 2)
  else if link ∧ 1 < l then .inl (n + 3)
  else .inr (p, t, link && l == 1)

/-- A quiesce of an object that R29 lets start. -/
def qBegin (s : State) (o : QObj) (kind : Nat) (a : Nat × Nat × Bool) : Res :=
  if s.quiescing o then fails s mbxBusy
  else if s.disabled o then fails s mbxState
  else done (qStart s o kind a.1 a.2.1 a.2.2 false)

/-- A quiesce command of an object of `n` numbers: the object, or the failing parameter. -/
def qCommand (n kind : Nat) (link : Bool) (obj : State → Req → Nat ⊕ QObj) (s : State) (r : Req) : Res :=
  match qArgs r n link with
  | .inl a => failsAt s mbxInvalid a
  | .inr a => match obj s r with
    | .inl k => failsAt s mbxInvalid k
    | .inr o => qBegin s o kind a

/-- The logical port that parameter 1 names, present in the mode in force. -/
def lpParam (s : State) (r : Req) : Nat ⊕ QObj :=
  if num r 0 < 16 ∧ s.lpPresent (num r 0) then .inr (.logicalPort (Fin.ofNat 16 (num r 0))) else .inl 1

/-- The queue that parameter 1 names, of a present port (R146). -/
def queueParam (s : State) (r : Req) : Nat ⊕ QObj :=
  if num r 0 < 65536 ∧ (s.qsetPort (num r 0 / 8)).isSome then .inr (.tmQueue (num r 0)) else .inl 1

def epParam (s : State) (r : Req) : Nat ⊕ QObj :=
  if num r 0 < 2 ^ 32 ∧ (s.ep? (num r 0)).isSome then .inr (.endpoint (BitVec.ofNat 32 (epKey s (num r 0)))) else .inl 1

def execLpQuiesce (t : Nat) (r : Req) (s : State) := serve t r 0x0405 (qCommand 1 qKindLp true lpParam) s
def execTmQquiesce (t : Nat) (r : Req) (s : State) := serve t r 0x0703 (qCommand 1 qKindTm false queueParam) s
def execEhtEpQuiesce (t : Nat) (r : Req) (s : State) := serve t r 0x0806 (qCommand 1 qKindEp false epParam) s

/-- STO_QUEUE_QUIESCE: the queue's own state decides (R198). -/
def sqQuiesce (s : State) (r : Req) : Res :=
  match qArgs r 2 false with
  | .inl a => failsAt s mbxInvalid a
  | .inr a =>
    if 4096 ≤ num r 0 then failsAt s mbxInvalid 1
    else if 64 ≤ num r 1 then failsAt s mbxInvalid 2
    else match s.sq? (sqKey (num r 0) (num r 1)) with
      | none => failsAt s mbxInvalid 2
      | some q =>
        match q.st with
        | .quiescing => fails s mbxBusy
        | .disabled => fails s mbxState
        | _ => done (qStart s (.storageQueue (num r 0) (num r 1)) qKindSq a.1 a.2.1 false false)

def execStoQueueQuiesce (t : Nat) (r : Req) (s : State) := serve t r 0x0901 sqQuiesce s

/-- STALL_QUIESCE (R273). -/
def stallQuiesceCmd (s : State) (r : Req) : Res :=
  match qArgs r 1 false with
  | .inl a => failsAt s mbxInvalid a
  | .inr a =>
    if 12 ≤ num r 0 then failsAt s mbxInvalid 1
    else
      let o : QObj := .stall (Fin.ofNat 12 (num r 0))
      match (s.stall (num r 0)).st with
      | .quiescing => fails s mbxBusy
      | .stopped => fails s mbxState
      | .running => done (qStart (abandonTest s (unitOfStall (num r 0))) o qKindStall a.1 a.2.1 false false)

def execStallQuiesce (t : Nat) (r : Req) (s : State) := serve t r 0x0B02 stallQuiesceCmd s

/-! ### Re-enabling (R29) -/

/-- LP_ENABLE: a disabled port is enabled; its link trains again (R65). A gated physical port refuses it (R405). -/
def lpEnableCmd (s : State) (r : Req) : Res :=
  if !bodyIs r 8 then fails s mbxInvalid
  else match lpParam s r with
    | .inl k => failsAt s mbxInvalid k
    | .inr o =>
      if s.disabled o && tget s.clk.gates (12 + num r 0 / 8) .run == .run then
        done ((s.qDel o).onLp (num r 0) (fun p => { p with held := false }))
      else fails s mbxState

def execLpEnable (t : Nat) (r : Req) (s : State) := serve t r 0x0406 lpEnableCmd s

/-- TM_QENABLE. -/
def tmQenableCmd (s : State) (r : Req) : Res :=
  if !bodyIs r 8 then fails s mbxInvalid
  else match queueParam s r with
    | .inl k => failsAt s mbxInvalid k
    | .inr o => if s.disabled o then done (s.qDel o) else fails s mbxState

def execTmQenable (t : Nat) (r : Req) (s : State) := serve t r 0x0704 tmQenableCmd s

/-! ### Tenant functions (R234 to R236) -/

/-- A tenant function of the committed configuration (R223); TF0 is always there (log 3). -/
def tfExists (s : State) (n : Nat) : Bool := (tget? s.tfs n).isSome

/-- Queues of the queue sets that a tenant function owns, on the present ports (R125). -/
def tfTmQueues (s : State) (n : Nat) : List Nat :=
  ((List.range 8192).filter (fun g => qsetOwner s g == n && (s.qsetPort g).isSome)).flatMap
    (fun g => (List.range 8).map (fun c => 8 * g + c))

/-- Children of a tenant function that a disable quiesces (R234). -/
def tfChildren (s : State) (n : Nat) : List (QObj × Nat) :=
  (tfEndpoints s n).map (fun e => (.endpoint (BitVec.ofNat 32 e), qKindEp))
    ++ ((tfQueues s n).filter (fun q => q.2.st == .active || q.2.st == .error)).map (fun q => (.storageQueue n (q.1 % 64), qKindSq))
    ++ (tfTmQueues s n).map (fun q => (.tmQueue q, qKindTm))

/-- R233: the answer to a quiesce of a tenant function that cannot start; none when it can. -/
def tfQuiesceFails (s : State) (n : Nat) : Option Nat :=
  match (s.tf n).st with
  | .enabled => none
  | .disabling => some mbxBusy
  | .freezing => some mbxBusy
  | _ => some mbxState

/-- TF_DISABLE (R234). -/
def tfDisableCmd (s : State) (r : Req) : Res :=
  match qArgs r 1 false with
  | .inl a => failsAt s mbxInvalid a
  | .inr a =>
    let n := num r 0
    if !tfExists s n then failsAt s mbxInvalid 1
    else match tfQuiesceFails s n with
      | some x => fails s x
      | none =>
        let lim := if a.2.1 = 0 then qDefault qKindTfDisable else a.2.1
        let s := s.onTf n (fun x => { x with st := .disabling })
        let s := (tfChildren s n).foldl (fun s o => if s.stopped o.1 then s else qStart s o.1 o.2 a.1 lim false false) s
        done (qStart s (.tf n) qKindTfDisable a.1 lim false false)

def execTfDisable (t : Nat) (r : Req) (s : State) := serve t r 0x0A02 tfDisableCmd s

/-- Submissions that wait in core queues completed where they stand (R236). -/
def endSubmissions (s : State) (tf status : Nat) : State :=
  let mine (m : OutMsg) : Bool := (tget s.eht.eps (epKey s m.ep) default).tf == tf
  let qs := s.ido.stalls.flatMap (fun x => x.2.cores.flatMap (fun c => c.2.subq.filter mine))
  let s := { s with ido.stalls := s.ido.stalls.map (fun x => (x.1, { x.2 with cores := x.2.cores.map (fun c =>
    (c.1, { c.2 with subq := c.2.subq.filter (fun m => !mine m) })) })) }
  qs.foldl (fun s m => endWaiting s 0 m status) s

/-- TF_FREEZE (R236): always drain. -/
def tfFreezeCmd (s : State) (r : Req) : Res :=
  let n := num r 0
  let lim := num r 1
  if !bodyIs r 16 then fails s mbxInvalid
  else if !tfExists s n then failsAt s mbxInvalid 1
  else if ¬ (lim = 0 ∨ (1000000 ≤ lim ∧ lim ≤ 60 * nsPerSec)) then failsAt s mbxInvalid 2
  else match tfQuiesceFails s n with
    | some x => fails s x
    | none =>
      let s := s.onTf n (fun x => { x with st := .freezing })
      let s := qStart s (.tf n) qKindTfFreeze 0 lim false false
      let s := endSubmissions s n nakFrozen
      done ((tfQueues s n).foldl (fun s q => sendCoal s q.1) s)

def execTfFreeze (t : Nat) (r : Req) (s : State) := serve t r 0x0A03 tfFreezeCmd s

/-- Completed quiesces of a tenant function's endpoints and traffic-manager queues lifted (R235). -/
def liftChildren (s : State) (n : Nat) : State :=
  { s with qs := s.qs.filter (fun p => !(p.2.done && (match p.1 with
      | .storageQueue _ _ => false
      | o => tfChild s n o))) }

/-- TF_ENABLE (R235). -/
def tfEnableCmd (s : State) (r : Req) : Res :=
  let n := num r 0
  if !bodyIs r 8 then fails s mbxInvalid
  else if !tfExists s n then failsAt s mbxInvalid 1
  else if (s.tf n).st ≠ .disabled then fails s mbxState
  else done ((liftChildren s n).onTf n (fun x => { x with st := .enabled }))

def execTfEnable (t : Nat) (r : Req) (s : State) := serve t r 0x0A01 tfEnableCmd s

end Sys2Proof.Machine
end

