-- ==== Sys2Proof/Machine/Security.lean ====
section
/-! DEFINITION. Security engines (12): key slots, wrapped keys, job rings, measurement and quotes. -/

namespace Sys2Proof.Machine

open Crypto

/-! ### Key slots (R303 to R306) -/

def State.keySlot (s : State) (n : Nat) : KeySlot := tget s.sec.slots n {}
def State.setSlot (s : State) (n : Nat) (k : KeySlot) : State := { s with sec.slots := tset s.sec.slots n k }

def useGcmEnc : Nat := 0
def useGcmDec : Nat := 1
def useXts : Nat := 2
def useWrap : Nat := 3
def useUnwrap : Nat := 4
def useMacsec : Nat := 5
def useMigrate : Nat := 6
def useVerify : Nat := 8
def useJob : Nat := 9

/-- A slot that a command may name (R315, R303). -/
def slotNameable (n : Nat) : Bool := n == 0 || n == 2 || n == 3 || (decide (64 ≤ n) && decide (n ≤ 8191))

/-- A general slot. -/
def slotGeneral (n : Nat) : Bool := decide (64 ≤ n) && decide (n ≤ 8191)

def KeySlot.may (k : KeySlot) (u : Nat) : Bool := k.usage.testBit u

/-- KEY_DENIED (R306). -/
def keyDenied (s : State) : State := countErr s (secBase + 0x40)

/-- A refused mailbox command. -/
def denies (s : State) : Res := fails (keyDenied s) mbxAuth

/-- One operation with a slot's key (USES). -/
def noteUse (s : State) (n : Nat) : State := s.setSlot n { s.keySlot n with uses := (s.keySlot n).uses + 1 }

/-- KEY_ID (R305). -/
def keyId (typ : Nat) (key : Bytes) : Bytes :=
  if typ = 3 then shake256 (Config.mldsaPublic key)
  else if typ = 4 then shake256 key
  else shake256 ([0x4C#8, 0x41#8, 0x4B#8, 0x45#8, 0x59#8, 0x31#8, BitVec.ofNat 8 typ] ++ key)

/-- Bytes of key material of a type (R304, R308). -/
def keyLen (typ : Nat) : Nat := [0, 32, 64, 4032, 1952].getD typ 0

def KeySlot.bytes (k : KeySlot) : Bytes :=
  leBytes 1 k.typ ++ leBytes 1 k.origin ++ leBytes 2 k.usage ++ leBytes 2 k.owner ++ leBytes 2 k.flags ++ padTo 32 k.id ++ leBytes 8 k.uses

/-- A slot filled (R304). -/
def newKey (typ origin usage owner flags : Nat) (key : Bytes) : KeySlot :=
  { typ := typ, origin := origin, usage := usage, owner := owner, flags := flags, id := keyId typ key, uses := 0, key := key }

/-- KEY_GENERATE: slot, TYPE, USAGE, OWNER_TF, FLAGS. -/
def keyGenerateCmd (s : State) (r : Req) : Res :=
  let n := num r 0
  if !bodyIs r 40 then fails s mbxInvalid
  else if !slotNameable n then failsAt s mbxInvalid 1
  else if !(decide (1 ≤ num r 1) && decide (num r 1 ≤ 3)) then failsAt s mbxInvalid 2
  else if 1024 ≤ num r 2 then failsAt s mbxInvalid 3
  else if 4096 ≤ num r 3 then failsAt s mbxInvalid 4
  else if 2 ≤ num r 4 then failsAt s mbxInvalid 5
  else if !slotGeneral n || (s.keySlot n).typ != 0 then fails s mbxState
  else
    let k := s.drawBytes (keyLen (num r 1))
    done (k.2.setSlot n (newKey (num r 1) 2 (num r 2) (num r 3) (num r 4) k.1))

def execKeyGenerate (t : Nat) (r : Req) (s : State) := serve t r 0x0C01 keyGenerateCmd s

/-- A type 4 key imported in the clear (R309). -/
def importPublic (s : State) (n : Nat) (w : Bytes) : Res :=
  let key := w.drop 0x68
  if key.length ≠ keyLen 4 ∨ leAt w 6 2 ≠ 2 ^ useVerify then failsAt s mbxInvalid 3
  else if keyId 4 key ≠ slice w 0x38 32 then fails s mbxVerify
  else done (s.setSlot n (newKey 4 3 (leAt w 6 2) 0 (leAt w 8 2) key))

/-- KEY_IMPORT: slot, KEK slot, wrapped key. -/
def keyImportCmd (s : State) (r : Req) : Res :=
  let n := num r 0
  let kn := num r 1
  let w := r.body.drop 16
  let typ := leAt w 4 1
  let kek := s.keySlot kn
  if w.length < 0x68 then fails s mbxInvalid
  else if !slotNameable n then failsAt s mbxInvalid 1
  else if typ ≠ 4 ∧ ¬ slotNameable kn then failsAt s mbxInvalid 2
  else if leAt w 0 4 ≠ 0x4B574C41 ∨ typ = 0 ∨ 4 < typ ∨ !zeroAt w 5 1 ∨ 1024 ≤ leAt w 6 2 ∨ 2 ≤ leAt w 8 2 ∨ !zeroAt w 0xA 2 then
    failsAt s mbxInvalid 3
  else if !slotGeneral n || (s.keySlot n).typ != 0 then fails s mbxState
  else if typ = 4 ∧ zeroAt w 0x18 32 then importPublic s n w
  else if w.length ≠ 0x68 + keyLen typ then failsAt s mbxInvalid 3
  else if kek.typ ≠ 1 ∨ !kek.may useUnwrap then denies s
  else if kek.id ≠ slice w 0x18 32 then fails s mbxVerify
  else
    let s := noteUse s kn
    match gcmDecrypt kek.key (slice w 0xC 12) (slice w 0 0x58) (w.drop 0x68) (slice w 0x58 16) with
    | none => fails s mbxVerify
    | some key =>
      if keyId typ key ≠ slice w 0x38 32 then fails s mbxVerify
      else done (s.setSlot n (newKey typ 3 (leAt w 6 2) 0 (leAt w 8 2) key))

def execKeyImport (t : Nat) (r : Req) (s : State) := serve t r 0x0C02 keyImportCmd s

/-- A key wrapped under a KEK (R308). -/
def wrapKey (k kek : KeySlot) (iv : Bytes) : Bytes :=
  let hdr := leBytes 4 0x4B574C41 ++ leBytes 1 k.typ ++ [0] ++ leBytes 2 k.usage ++ leBytes 2 k.flags ++ [0, 0] ++ iv ++ kek.id ++ k.id
  let e := gcmEncrypt kek.key iv hdr k.key
  hdr ++ e.2 ++ e.1

/-- KEY_EXPORT: slot, KEK slot. -/
def keyExportCmd (s : State) (r : Req) : Res :=
  let n := num r 0
  let k := s.keySlot n
  let kek := s.keySlot (num r 1)
  if !bodyIs r 16 then fails s mbxInvalid
  else if !slotNameable n then failsAt s mbxInvalid 1
  else if !slotNameable (num r 1) then failsAt s mbxInvalid 2
  else if k.typ = 0 then fails s mbxState
  else if !k.flags.testBit 0 || kek.typ != 1 || !kek.may useWrap then denies s
  else
    let iv := s.drawBytes 12
    gives (noteUse iv.2 (num r 1)) (wrapKey k kek iv.1)

def execKeyExport (t : Nat) (r : Req) (s : State) := serve t r 0x0C03 keyExportCmd s

/-- An installed MACsec association uses the slot (R307). -/
def slotInPort (s : State) (n : Nat) : Bool :=
  s.port.lps.any (fun p => p.2.tx.sas.any (fun a => a.2.keySlot == n) || p.2.rx.any (fun c => c.2.sas.any (fun a => a.2.keySlot == n)))

/-- A running save or restore names the slot. -/
def slotInMove (s : State) (n : Nat) : Bool :=
  s.tfs.any (fun t => (match t.2.save with
    | some o => o.slot == n
    | none => false) || (match t.2.restore with
    | some o => o.slot == n
    | none => false))

def keyDestroyCmd (s : State) (r : Req) : Res :=
  let n := num r 0
  if !bodyIs r 8 then fails s mbxInvalid
  else if !slotNameable n then failsAt s mbxInvalid 1
  else if slotInPort s n || slotInMove s n then fails s mbxState
  else done { s with sec.slots := tdel s.sec.slots n }

def execKeyDestroy (t : Nat) (r : Req) (s : State) := serve t r 0x0C05 keyDestroyCmd s

/-- The numbers of a list of `n` parameters from parameter `i` on. -/
def numsFrom (r : Req) (i n : Nat) : List Nat := (List.range n).map (fun k => num r (i + k))

/-- The position, from `i + 1`, of the first of a list that fails. -/
def firstBad (i : Nat) (p : Nat → Bool) : List Nat → Option Nat
  | [] => none
  | x :: xs => if p x then firstBad (i + 1) p xs else some (i + 1)

/-- KEY_QUERY: a count of 1 to 64, then slots. -/
def keyQueryCmd (s : State) (r : Req) : Res :=
  let n := num r 0
  if n = 0 ∨ 64 < n then failsAt s mbxInvalid 1
  else if !bodyIs r (8 * (n + 1)) then fails s mbxInvalid
  else match firstBad 1 slotNameable (numsFrom r 1 n) with
    | some k => failsAt s mbxInvalid k
    | none => gives s ((numsFrom r 1 n).flatMap (fun k => (s.keySlot k).bytes))

def execKeyQuery (t : Nat) (r : Req) (s : State) := serve t r 0x0C06 keyQueryCmd s

/-! ### Measurement and quotes (R312 to R314) -/

/-- A measurement register extended by a digest, and the extension logged. -/
def extendMr (s : State) (i : Nat) (d : Bytes) : State :=
  let s := { s with sec.mrs := s.sec.mrs.set i (shake256 (s.sec.mrs.getD i [] ++ d)) }
  if s.sec.mlog.length < 4096 then { s with sec.mlog := s.sec.mlog ++ [(i, d, time80 s.ns)] } else { s with sec.mlogOvf := true }

/-- ATT_EXTEND: register 8 to 15, digest. -/
def attExtendCmd (s : State) (r : Req) : Res :=
  if !bodyIs r 40 then fails s mbxInvalid
  else if num r 0 < 8 ∨ 16 ≤ num r 0 then failsAt s mbxInvalid 1
  else done (extendMr s (num r 0) (r.body.drop 8))

def execAttExtend (t : Nat) (r : Req) (s : State) := serve t r 0x0C09 attExtendCmd s

def attCertCmd (s : State) (r : Req) : Res := if bodyIs r 0 then gives s Config.certificates else fails s mbxInvalid
def execAttCert (t : Nat) (r : Req) (s : State) := serve t r 0x0C07 attCertCmd s

/-- ATT_LOG: the overflow flag, then each entry's index, digest and time (log 25). -/
def attLogCmd (s : State) (r : Req) : Res :=
  if bodyIs r 0 then
    gives s (encN (if s.sec.mlogOvf then 1 else 0) ++ s.sec.mlog.flatMap (fun e => encN e.1 ++ padTo 32 e.2.1 ++ leBytes 10 e.2.2))
  else fails s mbxInvalid

def execAttLog (t : Nat) (r : Req) (s : State) := serve t r 0x0C08 attLogCmd s

/-- The quote of R314 without its signature. -/
def quoteBody (s : State) (nonce : Bytes) (mask : Nat) : Bytes :=
  let k := s.keySlot 2
  leBytes 4 0x51544C41 ++ leBytes 2 1 ++ leBytes 2 mask ++ beBytes 8 s.fuses.serial.toNat ++ nonce ++ padTo 32 k.id
    ++ leBytes 8 s.cfg.counter ++ padTo 32 s.cfg.digest ++ leBytes 10 (time80 s.ns) ++ leBytes 2 0x0302
    ++ leBytes 4 (s.sec.mlog.length + if s.sec.mlogOvf then 2 ^ 31 else 0) ++ List.replicate 8 0
    ++ ((List.range 16).filter (fun i => mask.testBit i)).flatMap (fun i => s.sec.mrs.getD i [])

/-- ATT_QUOTE: nonce, mask. -/
def attQuoteCmd (s : State) (r : Req) : Res :=
  let mask := leAt r.body 32 8
  if !bodyIs r 40 then fails s mbxInvalid
  else if 65536 ≤ mask then failsAt s mbxInvalid 2
  else
    let b := quoteBody s (r.body.take 32) mask
    gives (noteUse s 2) (b ++ padTo 3309 (Config.mldsaSign (s.keySlot 2).key b))

def execAttQuote (t : Nat) (r : Req) (s : State) := serve t r 0x0C0A attQuoteCmd s

/-! ### Job rings (R311) -/

/-- A range of one TF's Market or HBM memory. -/
def tfRange (s : State) (tf a n : Nat) : Bool := tfMarket s tf a n || tfHbm s tf a n

/-- A job ring keeps R311: 16 to 4,096 descriptors, a power of two, within the Market allocation. -/
def ringIn (s : State) (tf base count : Nat) : Bool :=
  [16, 32, 64, 128, 256, 512, 1024, 2048, 4096].contains count && tfMarket s tf base (64 + 64 * count)

/-- What a job comes to: its status and what it writes. -/
structure JobEnd where
  status : Nat
  writes : Option (Nat × Bytes) := none

/-- The key a job names, or its failure (R306, R307, R311). -/
def jobKey (s : State) (tf slot check typ use : Nat) : KeySlot ⊕ Nat :=
  let k := s.keySlot slot
  if !slotNameable slot then .inr mbxInvalid
  else if k.typ = 0 ∨ leAt k.id 0 4 ≠ check then .inr mbxState
  else if k.typ ≠ typ ∨ k.owner ≠ tf ∨ !k.may use ∨ !k.may useJob then .inr mbxAuth
  else .inl k

/-- The fields of a descriptor keep R311. -/
def jobFields (s : State) (tf : Nat) (d : Bytes) : Bool :=
  let op := leAt d 0 1
  let len := leAt d 0x18 4
  let aad := leAt d 0x1C 4
  let src := leAt d 8 8
  let dst := leAt d 0x10 8
  let gcm := op == 1 || op == 2
  let inLen := aad + len + (if op = 2 then 16 else 0)
  let outLen := if op = 5 then 32 else len + (if op = 1 then 16 else 0)
  zeroAt d 1 1 && zeroAt d 0x32 14 && decide (1 ≤ op) && decide (op ≤ 5) && decide (len ≤ 16777216)
    && (if gcm then decide (aad ≤ 65535) && zeroAt d 0x2C 4 else aad == 0)
    && ((op != 3 && op != 4) || (decide (16 ≤ len) && decide (len ≤ 1048576)))
    && (op != 5 || leAt d 2 2 == 0)
    && (inLen == 0 || tfRange s tf src inLen) && (outLen == 0 || tfRange s tf dst outLen)

/-- A descriptor performed. -/
def runJob (s : State) (tf : Nat) (d : Bytes) : JobEnd :=
  let op := leAt d 0 1
  let len := leAt d 0x18 4
  let aad := leAt d 0x1C 4
  let src := leAt d 8 8
  let dst := leAt d 0x10 8
  let iv := slice d 0x20 12
  let slot := leAt d 2 2
  let check := leAt d 4 4
  if !jobFields s tf d then { status := mbxInvalid }
  else match op with
    | 1 => match jobKey s tf slot check 1 useGcmEnc with
      | .inr x => { status := x }
      | .inl k =>
        let e := gcmEncrypt k.key iv (s.peek src aad) (s.peek (src + aad) len)
        { status := mbxOk, writes := some (dst, e.1 ++ e.2) }
    | 2 => match jobKey s tf slot check 1 useGcmDec with
      | .inr x => { status := x }
      | .inl k => match gcmDecrypt k.key iv (s.peek src aad) (s.peek (src + aad) len) (s.peek (src + aad + len) 16) with
        | some p => { status := mbxOk, writes := some (dst, p) }
        | none => { status := mbxVerify }
    | 5 => { status := mbxOk, writes := some (dst, shake256 (s.peek src len)) }
    | _ => match jobKey s tf slot check 2 useXts with
      | .inr x => { status := x }
      | .inl k => { status := mbxOk, writes := some (dst, xts (op == 4) k.key (slice d 0x20 16) (s.peek src len)) }

/-- CONS of a ring, and where its next descriptor stands. -/
def JobRing.cons (g : JobRing) (s : State) : Nat := leAt (s.peek (g.base + 8) 8) 0 8
def JobRing.head (g : JobRing) (s : State) : Nat := g.base + 64 + 64 * (g.cons s % g.count)

/-- A ring waits for the hash engine (`hash`) or the shared cipher; a descriptor of no operation is for either. A ring that has lost
its allocation is served no more. -/
def jobWaits (s : State) (tf : Nat) (g : JobRing) (hash : Bool) : Bool :=
  let o := leAt (s.peek (g.head s) 1) 0 1
  g.cons s != g.prod && ringIn s tf g.base g.count && (o == 0 || decide (5 < o) || (o == 5) == hash)

/-- The tenant function whose ring an engine serves next: one descriptor of each in turn (R302). -/
def jobTurn (s : State) (hash : Bool) : Option Nat :=
  let l := (s.sec.rings.filter (fun r => jobWaits s r.1 r.2 hash)).map Prod.fst
  let last := if hash then s.sec.lastHash else s.sec.lastCipher
  (l.find? (fun t => decide (last < t))).or l.head?

/-- The next descriptor of a ring performed in its turn, when it is of operation `op` or of none: STATUS, then CONS. -/
def jobStep (s : State) (tf op : Nat) : State :=
  match tget? s.sec.rings tf with
  | none => s
  | some g =>
    let cons := g.cons s
    let a := g.head s
    let d := s.peek a 64
    let o := leAt d 0 1
    let hash := op == 5
    if jobTurn s hash ≠ some tf ∨ ¬ (o = op ∨ o = 0 ∨ 5 < o) then s
    else
      let s := if hash then { s with sec.lastHash := tf } else { s with sec.lastCipher := tf }
      let e := runJob s tf d
      let s := match e.writes with
        | some (x, b) => s.poke x b
        | none => s
      let s := if e.status = mbxOk then (if o = 5 then s else noteUse s (leAt d 2 2)) else countErr s (secBase + 0x44)
      let s := if e.status = mbxAuth then keyDenied s else s
      let s := countStat s (secBase + 0x100) 1
      (s.poke (a + 0x30) (leBytes 2 e.status)).poke (g.base + 8) (leBytes 8 (cons + 1))

/-- JOB_RING_NOTICE: the engine notices PROD of the ring that the tenant function configures, which no command of
the table carries (log 44). A ring outside R311's limits is none. -/
def execJobRingNotice (t : Nat) (tf : BitVec 12) (base count : Nat) (s : State) :=
  act t s (fun s =>
    if ringIn s tf.toNat base count then
      { s with sec.rings := tset s.sec.rings tf.toNat { base := base, count := count, prod := leAt (s.peek base 8) 0 8 } }
    else s)

def execGcmEncrypt (t : Nat) (tf : BitVec 12) (s : State) := act t s (fun s => jobStep s tf.toNat 1)
def execGcmDecrypt (t : Nat) (tf : BitVec 12) (s : State) := act t s (fun s => jobStep s tf.toNat 2)
def execXtsEncrypt (t : Nat) (tf : BitVec 12) (s : State) := act t s (fun s => jobStep s tf.toNat 3)
def execXtsDecrypt (t : Nat) (tf : BitVec 12) (s : State) := act t s (fun s => jobStep s tf.toNat 4)
def execShake256 (t : Nat) (tf : BitVec 12) (s : State) := act t s (fun s => jobStep s tf.toNat 5)

end Sys2Proof.Machine
end

