-- ==== Sys2Proof/Machine/ChcLoad.lean ====
section
/-! DEFINITION. Patch and extension images (R74, R80, R83 to R86): their checks and their load. -/

namespace Sys2Proof.Machine

open Crypto

/-! ### The boot records that a check reads (R377, R380, R382) -/

def bootMin (s : State) : Nat := leAt s.boot.ar 8 4
def patchMin (s : State) : Nat := leAt s.boot.ar 0xC 4
def ownerMin (s : State) : Nat := leAt s.boot.ar 0x10 4
def controlCount (s : State) : Nat := leAt s.boot.ar 0x20 8

/-- An owner position is enrolled; its public key. -/
def ownerEnrolled (s : State) (k : Nat) : Bool := (leAt s.boot.owner 6 2).testBit k
def ownerPub (s : State) (k : Nat) : Bytes := slice s.boot.owner (0x10 + 1952 * k) 1952
def anyOwner (s : State) : Bool := [0, 1, 2, 3].any (ownerEnrolled s)

/-- The KEY_ID of an owner position, zero when it is empty. -/
def ownerKeyId (s : State) (k : Nat) : Bytes := if ownerEnrolled s k then shake256 (ownerPub s k) else List.replicate 32 0

/-- A KEY_ID names an enrolled owner key. -/
def ownerKnows (s : State) (id : Bytes) : Bool := [0, 1, 2, 3].any (fun k => ownerEnrolled s k && ownerKeyId s k == id)

/-- The vendor root position that holds a key hash. -/
def rootAt (s : State) (id : Bytes) : Option Nat :=
  if id = List.replicate 32 0 then none else [0, 1, 2, 3].find? (fun k => s.fuses.roots.getD k [] == id)

/-- The position that holds it is not revoked. -/
def rootLive (s : State) (id : Bytes) : Bool :=
  match rootAt s id with
  | some k => !s.fuses.revoked.getLsbD k
  | none => false

/-! ### Words (R74) -/

/-- Bytes that an extraction writes: enabled, length, padded. -/
def extBytes (w en len pad : Nat) : Nat :=
  if fld w en 1 = 0 then 0 else if fld w pad 1 = 1 then 16 else fld w len 7

/-- An extraction stays inside the key vector, and a padded one inside its 16 bytes. -/
def extOk (w en len dst pad : Nat) : Bool :=
  fld w en 1 == 0 || (decide (fld w dst 7 + extBytes w en len pad ≤ 128) && (fld w pad 1 == 0 || decide (fld w len 7 ≤ 16)))

/-- The clocks that a word needs (R73). -/
def needClocks (w : Nat) : Nat :=
  max (max 1 ((extBytes w 114 101 4 + extBytes w 44 31 3 + 31) / 32)) (if fld w 55 1 = 1 then 2 else 1)

/-- An image word keeps every rule of R74. -/
def wordOk (w : Nat) : Bool :=
  let mode := fld w 187 3
  let tgt := fld w 172 15
  let fa := fld w 133 1 == 1
  let fb := fld w 23 1 == 1
  let alu := fld w 90 4 != 0
  decide (needClocks w ≤ fld w 190 2 + 1)
    && fld w 0 3 == 0
    && !(fa && fb && fld w 115 4 == fld w 5 4)
    && !(fa && alu && fld w 115 4 == fld w 86 4)
    && !(fb && alu && fld w 5 4 == fld w 86 4)
    && extOk w 114 101 94 4 && extOk w 44 31 24 3
    && !(fld w 65 1 == 1 && (fld w 57 8 == 0 || fld w 57 8 == 0xFF))
    && !(mode == 7 && decide (1 ≤ tgt % 256) && decide (tgt % 256 ≤ 15))
    && (mode == 0 || mode == 7 || decide (tgt + (if mode = 5 then 15 else 0) < 0x5400))

/-! ### Images (R83, R84) -/

/-- What a check comes to: status, detail and ARG; or the words and traps to be written. -/
abbrev Checked := (Nat × Nat × Nat) ⊕ (List Bytes × List (Nat × Nat))

def imgWords (b : Bytes) : Nat := leAt b 0x12 2
def imgTraps (b : Bytes) : Nat := leAt b 0x14 2
def imgLoad (b : Bytes) : Nat := leAt b 0x10 2

/-- The body as stored. -/
def imgBody (b : Bytes) : Bytes := slice b 0x80 (4 * imgTraps b + 24 * imgWords b)

/-- Step 1: header fields, reserved fields and length. -/
def imgFormatOk (typ : Nat) (b : Bytes) : Bool :=
  decide (0x80 ≤ b.length) && leAt b 0 4 == 0x49434843 && leAt b 4 2 == typ && leAt b 6 2 == 1 && leAt b 8 4 == 0xB0
    && leAt b 0x16 2 == (if typ = 1 then 1 else 0) && (typ == 1 || zeroAt b 0x38 28) && zeroAt b 0x74 12
    && b.length == 0x80 + 4 * imgTraps b + 24 * imgWords b + 3309

/-- The plaintext body: a patch is decrypted under slot 0, with no additional data (log 33). -/
def imgPlain (s : State) (typ : Nat) (b : Bytes) : Option Bytes :=
  if typ = 1 then
    (if (s.keySlot 0).key.length ≠ 32 then none else gcmDecrypt (s.keySlot 0).key (slice b 0x38 12) [] (imgBody b) (slice b 0x44 16))
  else some (imgBody b)

/-- The traps and words of a plaintext body. -/
def bodyTraps (body : Bytes) (n : Nat) : List (Nat × Nat) := (List.range n).map (fun i => (leAt body (4 * i) 2, leAt body (4 * i + 2) 2))
def bodyWords (body : Bytes) (t n : Nat) : List Bytes := (List.range n).map (fun i => slice body (4 * t + 24 * i) 24)

/-- Step 7, the counts of R83 with it. -/
def imgRangeOk (typ : Nat) (b : Bytes) (traps : List (Nat × Nat)) : Bool :=
  let lo := if typ = 1 then 0x4000 else 0x4400
  let hi := if typ = 1 then 0x4400 else 0x5400
  decide (1 ≤ imgWords b) && decide (imgTraps b ≤ (if typ = 1 then 32 else 0)) && decide (lo ≤ imgLoad b) && decide (imgLoad b + imgWords b ≤ hi)
    && traps.all (fun x => decide (x.1 < 0x4000) && decide (0x4000 ≤ x.2) && decide (x.2 < 0x4400))

/-- Step 9: a word of the image lies in a range of a version that is not FREE. -/
def imgInUse (s : State) (b : Bytes) : Bool :=
  s.parse.vers.any (fun v => v.2.state != .free && v.2.recs.any (fun r => keyItem r.1 == itemId 5 1 11
    && decide (imgLoad b < leAt r.2 0 8 + leAt r.2 8 8) && decide (leAt r.2 0 8 < imgLoad b + imgWords b)))

/-- The checks of R84 in their order. -/
def checkImage (s : State) (typ : Nat) (b : Bytes) (sig : Bool) : Checked :=
  let keyOk := if typ = 1 then rootLive s (slice b 0x18 32) else ownerKnows s (slice b 0x18 32)
  if !imgFormatOk typ b then .inl (mbxInvalid, 0x0101, 0)
  else if !keyOk then .inl (mbxVerify, 0x0102, 0)
  else if !sig then .inl (mbxVerify, 0x0103, 0)
  else if leAt b 0xC 4 < (if typ = 1 then patchMin s else ownerMin s) then .inl (mbxVerify, 0x0104, 0)
  else match imgPlain s typ b with
    | none => .inl (mbxVerify, 0x0105, 0)
    | some body =>
      let traps := bodyTraps body (imgTraps b)
      let words := bodyWords body (imgTraps b) (imgWords b)
      if shake256 body ≠ slice b 0x54 32 then .inl (mbxVerify, 0x0106, 0)
      else if !imgRangeOk typ b traps then .inl (mbxInvalid, 0x0107, 0)
      else match words.findIdx? (fun w => !wordOk (ofLe w)) with
        | some i => .inl (mbxInvalid, 0x0108, i + 1)
        | none => if typ = 2 ∧ imgInUse s b then .inl (mbxState, 0x0109, 0) else .inr (words, traps)

/-- The words of an image in all 24 control stores (R80, R84). -/
def writeWords (t : Tab Bytes) : Nat → List Bytes → Tab Bytes
  | _, [] => t
  | a, w :: ws => writeWords (tset t a w) (a + 1) ws

/-- An image that passed written, and its measurement (R84, R313). -/
def loadImage (s : State) (typ : Nat) (b : Bytes) (x : List Bytes × List (Nat × Nat)) : State :=
  let a := imgLoad b
  let s := { s with
    parse.store := writeWords s.parse.store a x.1
    parse.traps := if typ = 1 then x.2 else s.parse.traps
    parse.poison := s.parse.poison.filter (fun p => !(decide (a ≤ p % 32768) && decide (p % 32768 < a + imgWords b))) }
  extendMr s (if typ = 1 then 3 else 4) (shake256 b)

def failsDetail (s : State) (x : Nat × Nat × Nat) : Res := { st := s, status := x.1, detail := x.2.1, arg := x.2.2 }

/-- CHC_PATCH_LOAD (R85): only before the first frame is dispatched. -/
def patchLoadCmd (sig : Bool) (s : State) (r : Req) : Res :=
  if s.parse.dispatched then fails s mbxState
  else match checkImage s 1 r.body sig with
    | .inl e => failsDetail s e
    | .inr x => let s := loadImage s 1 r.body x; done { s with parse.patchDone := true, boot.patchImage := r.body }

def execChcPatchLoad (t : Nat) (r : Req) (sig : Bool) (s : State) := serve t r 0x0501 (patchLoadCmd sig) s

/-- An extension image kept in load order (R348). -/
def keepImage (s : State) (b : Bytes) : State := { s with cfg.images := s.cfg.images.filter (· ≠ b) ++ [b] }

/-- CHC_EXT_LOAD (R84, R89). -/
def extLoadCmd (sig : Bool) (s : State) (r : Req) : Res :=
  match checkImage s 2 r.body sig with
  | .inl e => failsDetail s e
  | .inr x => done (keepImage (loadImage s 2 r.body x) r.body)

def execChcExtLoad (t : Nat) (r : Req) (sig : Bool) (s : State) := serve t r 0x0502 (extLoadCmd sig) s

/-- The extension images of a stored configuration reloaded in order (R86), up to the first that fails; one already loaded stands.
Whether all passed. -/
def reloadImages (sig : Bool) : List Bytes → State → State × Bool
  | [], s => (s, true)
  | b :: bs, s =>
    if s.cfg.images.contains b then reloadImages sig bs s
    else match checkImage s 2 b sig with
      | .inl _ => (s, false)
      | .inr x => reloadImages sig bs (keepImage (loadImage s 2 b x) b)

end Sys2Proof.Machine
end

