-- ==== Sys2Proof/Machine/EhtCmds.lean ====
section
/-! DEFINITION. Commands of EHT regions and the address book (R148, R179, R182, R187), and of a tenant
function's endpoints and storage queues (R227, R228, R245). -/

namespace Sys2Proof.Machine

/-! ### Regions -/

/-- A thread of the tenant function runs on the core role whose scratch holds the range (log 27). -/
def tfScratch (s : State) (tf a n : Nat) : Bool :=
  (List.range 12).any (fun st => (s.stall st).cores.any (fun c =>
    decide (scratchBase st c.1 ≤ a) && decide (a + n ≤ scratchBase st c.1 + 0x20000) && c.2.threads.any (fun t => t.2.enable && t.2.tf == tf)))

/-- Region index range of a tenant function: base and count (R221). -/
def regionRange (s : State) (tf : Nat) : Nat × Nat := (s.cfgPart (itemId 0xA 1 2) tf 0 0 0, s.cfgPart (itemId 0xA 1 2) tf 0 1 0)

/-- The index for a new region (R178): never used first, then the one freed least recently. -/
def freeIndex (s : State) (tf : Nat) : Option Nat :=
  let r := regionRange s tf
  ((List.range r.2).find? (fun i => (tget? s.eht.regions (r.1 + i)).isNone)).map (r.1 + ·)
    |>.or (s.eht.freeOrder.find? (fun i => decide (r.1 ≤ i) && decide (i < r.1 + r.2)))

/-- The first parameter of EHT_REG_CREATE that breaks R179. -/
def regionBad (s : State) (r : Req) : Option Nat :=
  let base := num r 0
  let len := num r 1
  let tf := num r 3
  if ¬ (1 ≤ len ∧ len ≤ 2 ^ 48 ∧ base + len ≤ 2 ^ 64) then some 2
  else if ¬ (tfExists s tf) then some 4
  else if !(tfMarket s tf (num r 2) len || tfHbm s tf (num r 2) len || tfScratch s tf (num r 2) len) then some 3
  else if 16 ≤ num r 4 then some 5
  else if 4 ≤ num r 5 then some 6
  else if 2 ^ 32 ≤ num r 6 then some 7
  else if 2 ^ 32 ≤ num r 7 ∨ ((num r 5).testBit 1 ∧ ¬ (num r 7 < 12288 ∧ chanOwner s (num r 7) = tf)) then some 8
  else none

/-- EHT_REG_CREATE: BASE, LENGTH, TARGET, OWNER_TF, RIGHTS, FLAGS, SRC_FILTER, CHANNEL. -/
def regCreateCmd (s : State) (r : Req) : Res :=
  if !bodyIs r 64 then fails s mbxInvalid
  else match regionBad s r with
    | some k => failsAt s mbxInvalid k
    | none => match freeIndex s (num r 3) with
      | none => fails s mbxNospace
      | some i =>
        let gen := match tget? s.eht.regions i with
          | some d => d.gen
          | none => 0
        let d : Region := { base := num r 0, len := num r 1, target := num r 2, gen := gen, tf := num r 3, rights := num r 4
                            state := 1, flags := num r 5, filter := num r 6, channel := num r 7 }
        gives { descWritten s i with eht.regions := tset s.eht.regions i d, eht.freeOrder := s.eht.freeOrder.filter (· != i) } (encN (i * 4096 + gen))

def execEhtRegCreate (t : Nat) (r : Req) (s : State) := serve t r 0x0801 regCreateCmd s

/-- EHT_REG_REVOKE. -/
def regRevokeCmd (s : State) (r : Req) : Res :=
  if !bodyIs r 8 then fails s mbxInvalid
  else match tget? s.eht.regions (num r 0 / 4096) with
    | some d => if d.state = 1 ∧ d.gen = num r 0 % 4096 then done (revokeRegion s (num r 0 / 4096)) else failsAt s mbxInvalid 1
    | none => failsAt s mbxInvalid 1

def execEhtRegRevoke (t : Nat) (r : Req) (s : State) := serve t r 0x0802 regRevokeCmd s

/-- The 64 bytes of a descriptor (R179). -/
def Region.bytes (d : Region) : Bytes :=
  leBytes 8 d.base ++ leBytes 8 d.len ++ leBytes 8 d.target ++ leBytes 2 d.gen ++ leBytes 2 d.tf ++ leBytes 1 d.rights
    ++ leBytes 1 d.state ++ leBytes 2 d.flags ++ leBytes 4 d.filter ++ leBytes 4 d.channel ++ List.replicate 24 0

/-- EHT_REG_QUERY: the descriptor of a key's index. -/
def regQueryCmd (s : State) (r : Req) : Res :=
  if !bodyIs r 8 then fails s mbxInvalid
  else if 2 ^ 32 ≤ num r 0 then failsAt s mbxInvalid 1
  else gives s (match tget? s.eht.regions (num r 0 / 4096) with
    | some d => d.bytes
    | none => List.replicate 64 0)

def execEhtRegQuery (t : Nat) (r : Req) (s : State) := serve t r 0x0803 regQueryCmd s

/-! ### The address book -/

/-- Bytes of an entry in EHT_BOOK_WRITE: operation (0 write, 1 clear), index, EID, address, generation, queue set,
MAC, paths, segment, follow, TF (log 25). -/
def bookItem : Nat := 102

/-- The default of an item whose parameter the command leaves out: it is written as all ones (log 25). -/
def orDefault (n d : Nat) : Nat := if n = 2 ^ 64 - 1 then d else n

/-- The entry that an item spells: path count and follow-moved flag have the defaults of R148. -/
def bookOfItem (b : Bytes) : Book :=
  { eid := leAt b 16 8, ip := beAt b 24 16, gen := leAt b 40 8, qset := leAt b 48 8, mac := beAt b 56 6, paths := orDefault (leAt b 62 8) 4
    seg := leAt b 70 8, follow := orDefault (leAt b 78 8) 1 == 1, tf := leAt b 86 8 }

/-- An item of EHT_BOOK_WRITE is in range. -/
def bookItemOk (s : State) (b : Bytes) : Bool :=
  let e := bookOfItem b
  decide (leAt b 8 8 < 65536) && (leAt b 0 8 == 1 || (leAt b 0 8 == 0 && decide (e.eid < 0xFFFFFFFF) && decide (e.gen < 65536)
    && decide (e.qset < 8192) && decide (1 ≤ e.paths) && decide (e.paths ≤ 256) && decide (e.seg ≤ 2) && decide (orDefault (leAt b 78 8) 1 ≤ 1)
    && tfExists s e.tf))

def bookItems (r : Req) (n : Nat) : List Bytes := (List.range n).map (fun k => slice r.body (8 + bookItem * k) bookItem)

/-- One item applied. -/
def putBook (t : Tab Book) (b : Bytes) : Tab Book :=
  if leAt b 0 8 = 1 then tdel t (leAt b 8 8) else tset t (leAt b 8 8) (bookOfItem b)

/-- Entries of a tenant function in a book. -/
def bookUse (t : Tab Book) (tf : Nat) : Nat := (t.filter (fun p => p.2.tf == tf)).length
def bookQuota (s : State) (tf : Nat) : Nat := s.cfgN (itemId 0xA 1 3) tf 0 0

/-- EHT_BOOK_WRITE: a count of 1 to 64, then the items; whole or not at all. -/
def bookWriteCmd (s : State) (r : Req) : Res :=
  let n := num r 0
  if n = 0 ∨ 64 < n then failsAt s mbxInvalid 1
  else if !bodyIs r (8 + bookItem * n) then fails s mbxInvalid
  else
    let items := bookItems r n
    match items.findIdx? (fun b => !bookItemOk s b) with
    | some k => failsAt s mbxInvalid (k + 2)
    | none =>
      let t := items.foldl putBook s.eht.book
      if items.any (fun b => leAt b 0 8 == 0 && decide (bookQuota s (leAt b 86 8) < bookUse t (leAt b 86 8))
          && decide (bookUse s.eht.book (leAt b 86 8) < bookUse t (leAt b 86 8))) then fails s mbxNospace
      else done { s with eht.book := t }

def execEhtBookWrite (t : Nat) (r : Req) (s : State) := serve t r 0x0804 bookWriteCmd s

/-- An entry as EHT_BOOK_READ returns it: index, presence, its items, its grant (log 25). -/
def bookRow (s : State) (i : Nat) : Bytes :=
  match tget? s.eht.book i with
  | none => encN i ++ List.replicate 110 0
  | some e =>
    let g := e.grant.getD { token := 0, units := 0, stop := 0 }
    encN i ++ encN 1 ++ encN e.eid ++ beBytes 16 e.ip ++ encN e.gen ++ encN e.qset ++ beBytes 6 e.mac ++ encN e.paths ++ encN e.seg
      ++ encN (if e.follow then 1 else 0) ++ encN e.tf ++ encN g.token ++ encN g.units ++ encN (g.stop - s.clk.up)

/-- EHT_BOOK_READ: first index, count of 1 to 64. -/
def bookReadCmd (s : State) (r : Req) : Res :=
  if !bodyIs r 16 then fails s mbxInvalid
  else if 65536 ≤ num r 0 then failsAt s mbxInvalid 1
  else if num r 1 = 0 ∨ 64 < num r 1 ∨ 65536 < num r 0 + num r 1 then failsAt s mbxInvalid 2
  else gives s ((List.range (num r 1)).flatMap (fun k => bookRow s (num r 0 + k)))

def execEhtBookRead (t : Nat) (r : Req) (s : State) := serve t r 0x0805 bookReadCmd s

/-! ### Endpoints of a tenant function (R227) -/

def epQuota (s : State) (tf : Nat) : Nat := s.cfgN (itemId 0xA 1 1) tf 0 (if tf = 0 then 1 else 0)

/-- The EID cannot name a new endpoint: reserved, local or moved. -/
def eidTaken (s : State) (e : Nat) : Bool :=
  decide (0xFFFFFFFE ≤ e) || (s.ep? e).isSome || isMailbox s e || (tget? s.eht.moved e).isSome

/-- The lowest free endpoint slot. -/
def freeEpSlot (s : State) : Option Nat := (List.range 16384).find? (fun n => !s.eht.eps.any (fun p => p.2.slotNo == n))

/-- An endpoint made in a free slot, whose generation rises and names it (R227); none without a slot. -/
def makeEndpoint (s : State) (eid : Nat) (e : Endpoint) : Option (State × Nat) :=
  match freeEpSlot s with
  | none => none
  | some n =>
    let g := (tget s.eht.epGens n 0 + 1) % 65536
    some ({ s with eht.eps := tset s.eht.eps eid { e with gen := g, slotNo := n }
                   eht.epGens := tset s.eht.epGens n g
                   fence.told := s.fence.told.filter (· ≠ .endpoint eid) }, g)

/-- A power of two of the slot sizes of R147. -/
def slotSizeOk (n : Nat) : Bool := (List.range 13).any (fun k => n == 4096 * 2 ^ k)

/-- The receive ring is a VALID region of the tenant function that holds it (R227). -/
def ringOk (s : State) (tf key n : Nat) : Bool :=
  match lookupKey s key with
  | .inl d => d.tf == tf && decide (n ≤ d.len)
  | .inr _ => false

/-- TF_EP_CREATE: TF, EID, channel, ring key, slot size, slot count. -/
def epCreateCmd (s : State) (r : Req) : Res :=
  let tf := num r 0
  let n := num r 5
  if !bodyIs r 48 then fails s mbxInvalid
  else if !tfExists s tf then failsAt s mbxInvalid 1
  else if eidTaken s (num r 1) then failsAt s mbxInvalid 2
  else if ¬ (num r 2 < 12288 ∧ chanOwner s (num r 2) = tf ∧ 4 * n ≤ chanCap s (num r 2)) then failsAt s mbxInvalid 3
  else if !slotSizeOk (num r 4) then failsAt s mbxInvalid 5
  else if n = 0 ∨ 65536 < n then failsAt s mbxInvalid 6
  else if !ringOk s tf (num r 3) (num r 4 * n) then failsAt s mbxInvalid 4
  else if epQuota s tf ≤ (tfEndpoints s tf).length then fails s mbxNospace
  else match makeEndpoint s (num r 1) { gen := 0, tf := tf, channel := some (num r 2), sq := none, ringKey := num r 3
                                        slotSize := num r 4, slotCount := n } with
    | some (s, g) => gives s (encN g)
    | none => fails s mbxNospace

def execTfEpCreate (t : Nat) (r : Req) (s : State) := serve t r 0x0A0A epCreateCmd s

/-- TF_EP_DESTROY: TF, EID: the quiesce of R186, then the slot is freed. An endpoint whose quiesce runs is not destroyed (R29). -/
def epDestroyCmd (s : State) (r : Req) : Res :=
  let o : QObj := .endpoint (BitVec.ofNat 32 (num r 1))
  if !bodyIs r 16 then fails s mbxInvalid
  else if !tfExists s (num r 0) then failsAt s mbxInvalid 1
  else match tget? s.eht.eps (num r 1) with
    | none => failsAt s mbxInvalid 2
    | some e =>
      if e.tf ≠ num r 0 ∨ e.channel = none then failsAt s mbxInvalid 2
      else if s.quiescing o then fails s mbxState
      else done (qStart s o qKindEp 0 0 false true)

def execTfEpDestroy (t : Nat) (r : Req) (s : State) := serve t r 0x0A0B epDestroyCmd s

/-! ### Storage queues of a tenant function (R192, R228) -/

def sqQuota (s : State) (tf : Nat) : Nat := s.cfgN (itemId 0xA 1 4) tf 0 0
def depthQuota (s : State) (tf : Nat) : Nat := s.cfgN (itemId 0xA 1 5) tf 0 0

/-- Depths of a tenant function's queues, one left out. -/
def depthUse (s : State) (tf skip : Nat) : Nat := ((tfQueues s tf).filter (fun p => p.1 % 64 != skip)).foldl (fun n p => n + p.2.depth) 0

/-- The items of R192, which a command carries from some parameter on. -/
structure SqItems where
  depth : Nat
  cls : Nat
  book : Nat
  inline : Nat
  coCount : Nat
  coTime : Nat
  deriving DecidableEq, Repr

/-- The items from parameter `i` on, each left out at its default. The book index has none. -/
def sqItems (r : Req) (i : Nat) : SqItems :=
  { depth := orDefault (num r i) 1024, cls := orDefault (num r (i + 1)) 2, book := num r (i + 2), inline := orDefault (num r (i + 3)) 0
    coCount := orDefault (num r (i + 4)) 1, coTime := orDefault (num r (i + 5)) 0 }

/-- The first item out of range, by its parameter; the items start at parameter `i`. -/
def sqItemsBad (s : State) (tf : Nat) (x : SqItems) (i : Nat) : Option Nat :=
  if x.depth = 0 ∨ 65536 < x.depth then some (i + 1)
  else if 4 ≤ x.cls then some (i + 2)
  else if (bookOf s x.book tf).isNone then some (i + 3)
  else if 2 ≤ x.inline then some (i + 4)
  else if x.coCount = 0 ∨ 64 < x.coCount then some (i + 5)
  else if 100000 < x.coTime then some (i + 6)
  else none

/-- Slot size of a storage queue's ring (R193). -/
def sqSlotSize (inline : Bool) : Nat := if inline then 8192 else 4096

/-- TF_SQ_CREATE: TF, queue, EID, then the items of R192. -/
def sqCreateCmd (s : State) (r : Req) : Res :=
  let tf := num r 0
  let q := num r 1
  let x := sqItems r 3
  if !bodyIs r 72 then fails s mbxInvalid
  else if !tfExists s tf then failsAt s mbxInvalid 1
  else if 64 ≤ q then failsAt s mbxInvalid 2
  else if eidTaken s (num r 2) then failsAt s mbxInvalid 3
  else match sqItemsBad s tf x 3 with
    | some k => failsAt s mbxInvalid k
    | none =>
      if (s.sq? (sqKey tf q)).isSome then fails s mbxState
      else if sqQuota s tf ≤ (tfQueues s tf).length ∨ depthQuota s tf < depthUse s tf 64 + x.depth
          ∨ epQuota s tf ≤ (tfEndpoints s tf).length then fails s mbxNospace
      else match makeEndpoint s (num r 2) { gen := 0, tf := tf, channel := none, sq := some q, ringKey := 0
                                            slotSize := sqSlotSize (x.inline == 1), slotCount := x.depth } with
        | none => fails s mbxNospace
        | some (s, g) =>
          let sq : StoQueue := { eid := num r 2, depth := x.depth, cls := x.cls, book := x.book, inline := x.inline == 1
                                 coCount := x.coCount, coTime := x.coTime }
          gives { s with sto.queues := tset s.sto.queues (sqKey tf q) sq } (encN g)

def execTfSqCreate (t : Nat) (r : Req) (s : State) := serve t r 0x0A0C sqCreateCmd s

/-- The queue that parameters 1 and 2 name. -/
def sqNamed (s : State) (r : Req) : Nat ⊕ StoQueue :=
  if !tfExists s (num r 0) then .inl 1
  else if 64 ≤ num r 1 then .inl 2
  else match s.sq? (sqKey (num r 0) (num r 1)) with
    | some q => .inr q
    | none => .inl 2

/-- TF_SQ_RESIZE: TF, queue, the items of R192. -/
def sqResizeCmd (s : State) (r : Req) : Res :=
  if !bodyIs r 64 then fails s mbxInvalid
  else match sqNamed s r with
    | .inl k => failsAt s mbxInvalid k
    | .inr q =>
      let x := sqItems r 2
      match sqItemsBad s (num r 0) x 2 with
      | some k => failsAt s mbxInvalid k
      | none =>
        let inline := x.inline == 1
        if q.st = .quiescing ∨ (q.st ≠ .disabled ∧ (x.depth < q.depth ∨ inline ≠ q.inline ∨ x.book ≠ q.book)) then fails s mbxState
        else if depthQuota s (num r 0) < depthUse s (num r 0) (num r 1) + x.depth then fails s mbxNospace
        else
          let s := s.onSq (sqKey (num r 0) (num r 1)) (fun q =>
            { q with depth := x.depth, cls := x.cls, book := x.book, inline := inline, coCount := x.coCount, coTime := x.coTime })
          done (match tget? s.eht.eps q.eid with
            | some e => { s with eht.eps := tset s.eht.eps q.eid { e with slotCount := x.depth, slotSize := sqSlotSize inline } }
            | none => s)

def execTfSqResize (t : Nat) (r : Req) (s : State) := serve t r 0x0A0D sqResizeCmd s

/-- A queue that must be DISABLED, with the further condition `ok`, and what is done with it. -/
def sqDisabledCmd (ok : State → StoQueue → Bool) (f : State → Nat → StoQueue → State) (s : State) (r : Req) : Res :=
  if !bodyIs r 16 then fails s mbxInvalid
  else match sqNamed s r with
    | .inl k => failsAt s mbxInvalid k
    | .inr q => if q.st = .disabled && ok s q then done (f s (sqKey (num r 0) (num r 1)) q) else fails s mbxState

/-- TF_SQ_ENABLE: DISABLED to ACTIVE (R198). -/
def enableSq (s : State) (k : Nat) (_ : StoQueue) : State := (s.onSq k (fun q => { q with st := .active, heldBack := false })).qDel (sqObj k)

/-- The endpoint of a queue, as an object of R26. -/
def sqEpObj (q : StoQueue) : QObj := .endpoint (BitVec.ofNat 32 q.eid)

/-- TF_SQ_DESTROY: the queue and its endpoint, whose own quiesce does not run (R29). -/
def destroySq (s : State) (k : Nat) (q : StoQueue) : State :=
  freeEndpoint (({ s with sto.queues := tdel s.sto.queues k }.qDel (sqObj k)).qDel (sqEpObj q)) q.eid

/-- No journal is replayed: until then no queue becomes ACTIVE (R209). -/
def mayEnable (s : State) (_ : StoQueue) : Bool := !replaying s
def mayDestroy (s : State) (q : StoQueue) : Bool := !s.quiescing (sqEpObj q)

def execTfSqEnable (t : Nat) (r : Req) (s : State) := serve t r 0x0A0E (sqDisabledCmd mayEnable enableSq) s
def execTfSqDestroy (t : Nat) (r : Req) (s : State) := serve t r 0x0A0F (sqDisabledCmd mayDestroy destroySq) s

/-! ### Use, quotas and counters (R245, R246, R463) -/

/-- Threads of the committed thread tables that a tenant function owns. -/
def threadUse (s : State) (tf : Nat) : Nat :=
  s.ido.stalls.foldl (fun n x => n + x.2.cores.foldl (fun n c => n + (c.2.threads.filter (fun t => t.2.enable && t.2.tf == tf)).length) 0) 0

/-- Bindings of a tenant function (R229). -/
def bindingsOf (s : State) (tf : Nat) : List Bytes :=
  (s.cfg.recs.filter (fun r => keyItem r.1 == itemId 0xA 1 12 && keyIndex r.1 == tf)).map Prod.snd

/-- Use of each resource of R221, in its rows' order, table units by table. -/
def tfUse (s : State) (tf : Nat) : List Nat :=
  let r := regionRange s tf
  [(tfEndpoints s tf).length,
   (s.eht.regions.filter (fun d => decide (r.1 ≤ d.1) && decide (d.1 < r.1 + r.2) && d.2.state != 0)).length,
   bookUse s.eht.book tf, (tfQueues s tf).length, depthUse s tf 64]
  ++ (List.range 16).map (fun t => tfUnits s t tf)
  ++ [(s.tf tf).mkt.2, (s.tf tf).hbm.2, threadUse s tf, ctxTf s tf, tfOpen s tf, (bindingsOf s tf).length]

/-- The quotas in the same order. -/
def tfQuotas (s : State) (tf : Nat) : List Nat :=
  [epQuota s tf, (regionRange s tf).2, bookQuota s tf, sqQuota s tf, depthQuota s tf]
  ++ (List.range 16).map (fun t => tfQuota s t tf)
  ++ [s.cfgN (itemId 0xA 1 7) tf 0 0, s.cfgN (itemId 0xA 1 8) tf 0 0, s.cfgN (itemId 0xA 1 9) tf 0 0,
      s.cfgN (itemId 0xA 1 10) tf 0 4096, s.cfgN (itemId 0xA 1 11) tf 0 4096, 64]

/-- Position of a state in R233's table. -/
def TfState.code : TfState → Nat
  | .disabled => 0
  | .enabled => 1
  | .disabling => 2
  | .freezing => 3
  | .frozen => 4
  | .saving => 5
  | .saved => 6
  | .restoring => 7
  | .moved => 8

def encNs (l : List Nat) : Bytes := l.flatMap encN

/-- TF_QUERY: state, use, quotas, then the pending quiesce: kind, drained, aborted, time left (log 25). -/
def tfQueryCmd (s : State) (r : Req) : Res :=
  if !bodyIs r 8 then fails s mbxInvalid
  else if !tfExists s (num r 0) then failsAt s mbxInvalid 1
  else
    let q := match s.q? (.tf (num r 0)) with
      | some q => [q.kind, q.drained, q.aborted, q.deadline - s.clk.up]
      | none => [0, 0, 0, 0]
    gives s (encNs ([(s.tf (num r 0)).st.code] ++ tfUse s (num r 0) ++ tfQuotas s (num r 0) ++ q))

def execTfQuery (t : Nat) (r : Req) (s : State) := serve t r 0x0A08 tfQueryCmd s

/-- A statistics command (R463): clear flag, count, then objects of `w` numbers: those that exist, the base of each
one's counters, and its item. -/
def statsCmd (w : Nat) (obj : State → List Nat → Option Nat) (item : State → List Nat → List Nat) (s : State) (r : Req) : Res :=
  let n := num r 1
  let objs := (List.range n).map (fun k => numsFrom r (2 + w * k) w)
  if 2 ≤ num r 0 then failsAt s mbxInvalid 1
  else if n = 0 ∨ 64 < n then failsAt s mbxInvalid 2
  else if !bodyIs r (8 * (2 + w * n)) then fails s mbxInvalid
  else match objs.findIdx? (fun o => (obj s o).isNone) with
    | some k => failsAt s mbxInvalid (3 + w * k)
    | none =>
      let out := objs.flatMap (fun o => encNs (item s o))
      gives (if num r 0 = 1 then (objs.filterMap (obj s)).foldl (fun s b => clearRange s b 0x1000) s else s) out

/-- Live values of the first `n` statistics counters of an object, then of `e` error counters. -/
def objStats (s : State) (b n : Nat) : List Nat := (List.range n).map (fun k => (s.ctr (b + 0x100 + 8 * k)).v)
def objErrs (s : State) (b n : Nat) : List Nat := (List.range n).map (fun k => (s.ctr (b + 0x40 + 4 * k)).v)
def objWraps (s : State) (b n : Nat) : Nat := (List.range n).foldl (fun a k => if (s.ctr (b + 0x100 + 8 * k)).flag then a + 2 ^ k else a) 0
def objOvfs (s : State) (b n : Nat) : Nat := (List.range n).foldl (fun a k => if (s.ctr (b + 0x40 + 4 * k)).flag then a + 2 ^ k else a) 0

/-- The counters of an object, its wrap bits and its overflow flags. -/
def objItem (s : State) (b n e : Nat) : List Nat := objStats s b n ++ objErrs s b e ++ [objWraps s b n, objOvfs s b e]

def fst (l : List Nat) : Nat := l.getD 0 0
def snd (l : List Nat) : Nat := l.getD 1 0

/-- TM_QSTATS. -/
def qStatsObj (s : State) (o : List Nat) : Option Nat :=
  if fst o < 65536 ∧ (s.qsetPort (fst o / 8)).isSome then some (objBase 1 (fst o)) else none
def qDepth (s : State) (q : Nat) : Nat :=
  sumLen (s.tq q).frames + (match s.qsetPort (q / 8) with
    | some lp => sumLen (((s.lp lp).order.filter (fun x => x.1 == q)).map Prod.snd)
    | none => 0)
def qStatsItem (s : State) (o : List Nat) : List Nat := [fst o] ++ objItem s (objBase 1 (fst o)) 4 2 ++ [qDepth s (fst o)]
def execTmQstats (t : Nat) (r : Req) (s : State) := serve t r 0x0701 (statsCmd 1 qStatsObj qStatsItem) s

/-- TM_POLSTATS: tokens of the buckets that the mode uses. -/
def polMode (s : State) (p : Nat) : Nat := s.cfgPart (itemId 7 1 15) p 0 0 0
def polStatsObj (_ : State) (o : List Nat) : Option Nat := if fst o < 32768 then some (objBase 2 (fst o)) else none
def polStatsItem (s : State) (o : List Nat) : List Nat :=
  let p := tget s.tm.policers (fst o) {}
  let m := polMode s (fst o)
  [fst o] ++ objStats s (objBase 2 (fst o)) 3
    ++ [objWraps s (objBase 2 (fst o)) 3, if m = 0 then 0 else p.c.tokens, if m = 2 then p.p.tokens else 0]
def execTmPolstats (t : Nat) (r : Req) (s : State) := serve t r 0x0702 (statsCmd 1 polStatsObj polStatsItem) s

/-- TF_STATS. -/
def tfStatsObj (s : State) (o : List Nat) : Option Nat := if tfExists s (fst o) then some (objBase 3 (fst o)) else none
def tfStatsItem (s : State) (o : List Nat) : List Nat := [fst o] ++ objItem s (objBase 3 (fst o)) 4 4
def execTfStats (t : Nat) (r : Req) (s : State) := serve t r 0x0A09 (statsCmd 1 tfStatsObj tfStatsItem) s

/-- STO_QUEUE_STATS. -/
def sqStatsObj (s : State) (o : List Nat) : Option Nat :=
  if snd o < 64 ∧ (s.sq? (sqKey (fst o) (snd o))).isSome then some (objBase 4 (sqKey (fst o) (snd o))) else none
def SqState.code : SqState → Nat
  | .active => 0
  | .error => 1
  | .quiescing => 2
  | .disabled => 3
/-- Commands that an ERROR queue holds (R198). -/
def sqHeld (q : StoQueue) : Nat := if q.st = .error then (q.cmds.filter (fun c => c.ph == .waiting)).length else 0
def sqStatsItem (s : State) (o : List Nat) : List Nat :=
  let k := sqKey (fst o) (snd o)
  [fst o, snd o] ++ objItem s (objBase 4 k) 4 2 ++ (match s.sq? k with
    | some q => [q.st.code, sqHeld q]
    | none => [3, 0])
def execStoQueueStats (t : Nat) (r : Req) (s : State) := serve t r 0x0902 (statsCmd 2 sqStatsObj sqStatsItem) s

end Sys2Proof.Machine
end

