-- ==== Sys2Proof/Machine/Stalls.lean ====
section
/-! DEFINITION. Stalls as a whole (R248, R252 to R277): their start and restart, spares and re-homing, blocked
reads, the quiet detector, the debug commands, and the delivery of packet buffers (R262, R322). -/

namespace Sys2Proof.Machine

/-! ### The buffer stock (R322) -/

/-- The buffer stock of every tenant function whose stock channel is on the Stall (R322): the Clerk queues a delivery for each
buffer (R261). -/
def stockStall (s : State) (st : Nat) : State :=
  let due := (s.cfg.recs.filter (fun r => keyItem r.1 == itemId 0x10 1 2)).flatMap (fun r =>
    match s.cfgRec? (itemId 0x10 1 3) (keyIndex r.1) 0 with
    | some v => if leAt v 0 8 / 1024 = st then List.replicate (leAt r.2 0 8) (leAt v 0 8, keyIndex r.1) else []
    | none => [])
  pumpClerk { s with ido.clerkQ := s.ido.clerkQ ++ due }

/-! ### Re-homing (R274) -/

/-- DATA of REHOMED (log 26): for t0 to t7 the place role × 8 + thread, 0x100 for one not moved, 0x200 for one that
was disabled. -/
def rehomeData (s : State) (st failed : Nat) (moves : List (Nat × Nat × Nat)) : Bytes :=
  (List.range 8).flatMap (fun t =>
    match moves.find? (fun m => m.1 == t) with
    | some m => encN (m.2.1 * 8 + m.2.2)
    | none => if (s.thrAt st failed t).enable then encN 0x100 else encN 0x200)

/-- Threads t1 to t7 left behind. -/
def rehomeLost (s : State) (st failed : Nat) : Nat :=
  ([1, 2, 3, 4, 5, 6, 7].filter (fun t => (s.thrAt st failed t).enable)).length

/-- What t0 of each host, the counters and the subscribers hear of the moves of a failed role. -/
def tellMoves (s : State) (st failed : Nat) (moves : List (Nat × Nat × Nat)) : State :=
  let s := moves.foldl (fun s m => postFault s st m.2.1 4 m.2.2 0x0A22 0 (failed * 256 + m.1)) s
  let s := countErrs s (stErr st 5) (rehomeLost s st failed)
  raise s 0x0B06 (coreObj st failed) (rehomeData s st failed moves)

/-! ### The quiet Stall (R267) -/

def Thread.countsBlocked (t : Thread) : Bool := t.enable && (t.st == .blocked || t.st == .faulted || t.st == .killed)

/-- A role that counts as quiet. -/
def CoreRole.quiet (c : CoreRole) : Bool := c.quietFired || !c.threads.any (fun t => t.2.enable)

/-- STALL_QUIET, once every filled role is quiet. -/
def tellQuiet (s : State) (st : Nat) : State :=
  let x := s.stall st
  if !x.quietTold && (x.cores.filter (fun c => c.2.phys.isSome)).all (fun c => c.2.quiet) then
    raise (s.onStall st (fun x => { x with quietTold := true })) 0x0B04 (coreObj st 0) []
  else s

/-- The Stall runs: RUNNING or QUIESCING. -/
def stallRuns (s : State) (st : Nat) : Bool := (s.stall st).st != .stopped

/-- REHOME_START: the Clerk re-homes a role whose core is dead, no spare being left. -/
def rehomeStart (s : State) (st r : Nat) : State :=
  if !((s.stall st).owed.contains r && (s.stall st).spares.isEmpty) then s
  else
    let x := rehome s st r
    let s := if stallRuns x.1 st then x.2.foldl (fun s m => startThread s st m.2.1 m.2.2) x.1 else x.1
    let s := tellMoves s st r x.2
    if stallRuns s st then tellQuiet s st else s

/-- SPARE_START: the spare takes a role whose core is dead (R248). -/
def spareStart (s : State) (st r : Nat) : State :=
  match (s.stall st).owed.contains r, (s.stall st).spares with
  | true, p :: rest =>
    let old := ((s.role st r).phys).getD 0x1F
    let s := s.onStall st (fun x => { x with spares := rest, spareUsed := true, owed := x.owed.filter (· != r) })
    let s := (s.onRole st r (fun c => { c with phys := some p })).fenceTake (unitCore st p) (.core st r)
    let s := if stallRuns s st then startCore (s.onRole st r (fun c => { c with faults := [], faultPos := 0 })) st r else s
    raise s 0x0B01 (coreObj st r) (encN r ++ encN old ++ encN p)
  | _, _ => s

def execRehomeStart (t : Nat) (stall : Fin 12) (role : Fin 16) (s : State) := act t s (fun s => rehomeStart s stall.val role.val)
def execSpareStart (t : Nat) (stall : Fin 12) (role : Fin 16) (s : State) := act t s (fun s => spareStart s stall.val role.val)

/-! ### Starting a Stall (R272, R322) -/

/-- Rings, buffers and fault endpoints of a Stall emptied. -/
def emptyStall (s : State) (st : Nat) : State :=
  let s := { s with mem.bufs := s.mem.bufs.filter (fun b => b.2.stall != st)
                    ido.clerkQ := s.ido.clerkQ.filter (fun x => x.1 / 1024 != st)
                    ido.chans := s.ido.chans.map (fun (p : Nat × Chan) => if p.1 / 1024 = st then (p.1, { p.2 with msgs := [], pos := 0 }) else p) }
  s.onStall st (fun x => { x with cores := x.cores.map (fun (c : Nat × CoreRole) => (c.1, { c.2 with faults := [], faultPos := 0 })) })

/-- Absent roles filled by unused spares, lowest first (R430). -/
def fillAbsent (s : State) (st : Nat) : State :=
  let s := ((s.stall st).cores.filter (fun c => c.2.phys.isNone)).foldl (fun s c =>
    match (s.stall st).spares with
    | [] => s
    | p :: rest =>
      ((s.onStall st (fun x => { x with spares := rest, spareUsed := true })).onRole st c.1
        (fun y => { y with phys := some p })).fenceTake (unitCore st p) (.core st c.1)) s
  s.onStall st (fun x => { x with degraded := x.cores.any (fun c => c.2.phys.isNone) })

/-- A hand-over that the Clerk still owes, before a Stall starts (R248, R274): the spare takes the role, or it is absent. -/
def settleOwed (s : State) (st : Nat) : State :=
  (s.stall st).owed.foldl (fun s r =>
    if (s.stall st).spares.isEmpty then
      (quietReset s st r).onStall st (fun x => { x with
        owed := x.owed.filter (· != r), cores := tmod x.cores r {} (fun c => { c with phys := none }) })
    else spareStart s st r) s

def startStall (s : State) (st : Nat) : State :=
  let s := fillAbsent (settleOwed s st) st
  let s := (abortUnreadable (emptyStall s st)).qDel (.stall (Fin.ofNat 12 st))
  let s := loadStallMem (loadTables s st) st
  let x := rehomeAll s st
  let s := x.1.onStall st (fun x => { x with st := .running })
  let s := (((s.stall st).cores.filter (fun c => c.2.phys.isSome)).map Prod.fst).foldl (fun s r => startCore s st r) s
  let s := x.2.foldl (fun s m => tellMoves s st m.1 m.2) s
  stockStall s st

/-! ### Blocked reads (R260, R292, R293) -/

/-- The core of a blocked thread serves it. -/
def serves (s : State) (i : Tid) : Bool :=
  s.phase == .running && stallRuns s i.stall.val && (s.role i.stall.val i.role.val).phys.isSome
    && !(s.stall i.stall.val).owed.contains i.role.val && !heldForTest s i.stall.val i.role.val && (s.thr i).st == .blocked

/-- A timer or space port: what it waits for is an event of its own. A message's arrival has reset the detector already, but for
DEADLOCK's (R266). -/
def Wait.isPort : Wait → Bool
  | .timer => true
  | .space _ => true
  | _ => false

/-- A blocked read that has something to return returns it. -/
def unblock (s : State) (i : Tid) (p : Wait → Bool) : State :=
  match (s.thr i).wait with
  | some (w, _) =>
    if serves s i && p w then
      match tryRead s i w with
      | some (v, s) => endRead (if w.isPort then quietReset s i.stall.val i.role.val else s) i v csOk
      | none => s
    else s
  | none => s

def execBlockedReadReturn (t : Nat) (i : Tid) (s : State) := act t s (fun s => unblock s i (· != .timer))
def execTimerPortExpiry (t : Nat) (i : Tid) (s : State) := act t s (fun s => unblock s i (· == .timer))

/-! ### The quiet detector (R266, R267) -/

def quietFires (s : State) (st r : Nat) : State :=
  let c := s.role st r
  let on := c.threads.filter (fun t => t.2.enable)
  if stallRuns s st && c.phys.isSome && !(s.stall st).owed.contains r && !heldForTest s st r && !c.quietFired && !on.isEmpty
      && on.all (fun t => t.2.countsBlocked) && decide (quietThreshold s st ≤ c.quietCount s.clk.up) then
    let m := on.foldl (fun n t => n + 2 ^ t.1) 0
    let s := countErr (s.onRole st r (fun c => { c with quietFired := true })) (stErr st 1)
    tellQuiet (postFault s st r 2 0xFF 0x0A20 0 m) st
  else s

def execQuietDetector (t : Nat) (stall : Fin 12) (role : Fin 16) (s : State) := act t s (fun s => quietFires s stall.val role.val)

/-! ### Commands of a Stall (R272, R275) -/

def stallStartCmd (s : State) (r : Req) : Res :=
  if !bodyIs r 8 then fails s mbxInvalid
  else if 12 ≤ num r 0 then failsAt s mbxInvalid 1
  else if (s.stall (num r 0)).st ≠ .stopped then fails s mbxState
  else done (startStall s (num r 0))

def execStallStart (t : Nat) (r : Req) (s : State) := serve t r 0x0B01 stallStartCmd s

/-- The Stall and role that parameters 1 and 2 name. -/
def roleParam (s : State) (r : Req) : Option Res :=
  if 12 ≤ num r 0 then some (failsAt s mbxInvalid 1)
  else if 16 ≤ num r 1 then some (failsAt s mbxInvalid 2)
  else if (s.role (num r 0) (num r 1)).phys.isNone then some (fails s mbxState)
  else none

/-- A test of the core that fills a role abandoned (R424). -/
def abandonRole (s : State) (st r : Nat) : State :=
  abandonTest s (fun u => match (s.role st r).phys with
    | some p => u == unitCore st p
    | none => false)

def coreRestartCmd (s : State) (r : Req) : Res :=
  if !bodyIs r 16 then fails s mbxInvalid
  else match roleParam s r with
    | some x => x
    | none => if (s.stall (num r 0)).st ≠ .running then fails s mbxState
      else done (startCore (abandonRole s (num r 0) (num r 1)) (num r 0) (num r 1))

def execCoreRestart (t : Nat) (r : Req) (s : State) := serve t r 0x0B03 coreRestartCmd s

/-! ### Debug (R268 to R271, R277); the order of the parameters is log 25 -/

/-- CORE_DEBUG of the owner policy in force (R385). -/
def coreDebug (s : State) : Bool := s.boot.policy.testBit 0

/-- A debug command of Stall, role and more. -/
def dbg (h : State → Req → Res) (s : State) (r : Req) : Res :=
  if !coreDebug s then fails s mbxAuth
  else match roleParam s r with
    | some x => x
    | none => h (abandonRole s (num r 0) (num r 1)) r

/-- The thread that the first three parameters name. -/
def dbgTid (r : Req) : Tid := { stall := Fin.ofNat 12 (num r 0), role := Fin.ofNat 16 (num r 1), thread := Fin.ofNat 8 (num r 2) }

/-- Threads that parameter 3 names: one, or 8 for every thread of the role. -/
def dbgThreads (r : Req) : List Tid :=
  if num r 2 < 8 then [dbgTid r] else (List.range 8).map (fun n => { dbgTid r with thread := Fin.ofNat 8 n })

/-- STOP of one thread. -/
def stopThread (s : State) (i : Tid) : State :=
  let s := quietKeep s i.stall.val i.role.val
  s.onThr i (fun t => { t with st := .stopped, prev := t.st })

/-- RESUME of one thread. -/
def resumeThread (s : State) (i : Tid) : State :=
  let s := quietKeep s i.stall.val i.role.val
  s.onThr i (fun t => { t with st := t.prev })

/-- A command for the threads that are in a state it leaves. -/
def dbgMove (can : Thread → Bool) (f : State → Tid → State) (s : State) (r : Req) : Res :=
  if !bodyIs r 24 then fails s mbxInvalid
  else if 8 < num r 2 then failsAt s mbxInvalid 3
  else match (dbgThreads r).filter (fun i => can (s.thr i)) with
    | [] => fails s mbxState
    | l => done (l.foldl f s)

def execDbgStop (t : Nat) (r : Req) (s : State) :=
  serve t r 0x0B04 (dbg (dbgMove (fun x => x.enable && (x.st == .ready || x.st == .blocked)) stopThread)) s

def execDbgResume (t : Nat) (r : Req) (s : State) :=
  serve t r 0x0B05 (dbg (dbgMove (fun x => x.enable && x.st == .stopped) resumeThread)) s

/-- One instruction of a STOPPED thread (R271); a read that it was stopped in is issued again. -/
def stepThread (s : State) (i : Tid) : State :=
  let t := s.thr i
  let s := noteIssue (s.onThr i (fun t => { t with prev := .ready, wait := none })) i
  let s := stepWord s i
  if (s.thr i).st = .stopped ∧ (s.thr i).cs = csBlocked ∧ (s.thr i).pc = t.pc then
    s.onThr i (fun x => { x with prev := t.prev, wait := t.wait })
  else s

/-- A command for one STOPPED thread. -/
def dbgStopped (h : State → Req → Tid → Res) (s : State) (r : Req) : Res :=
  if 8 ≤ num r 2 then failsAt s mbxInvalid 3
  else if (s.thr (dbgTid r)).st ≠ .stopped then fails s mbxState
  else h s r (dbgTid r)

/-- DBG_STEP: returns s0.CS after the step. -/
def dbgStepCmd (s : State) (r : Req) (i : Tid) : Res :=
  if !bodyIs r 24 then fails s mbxInvalid
  else
    let s := stepThread s i
    gives s (encN (s.thr i).cs)

def execDbgStep (t : Nat) (r : Req) (s : State) := serve t r 0x0B06 (dbg (dbgStopped dbgStepCmd)) s

/-- KILLED (R270). -/
def killThread (s : State) (i : Tid) : State :=
  let st := i.stall.val
  let r := i.role.val
  let n := i.thread.val
  let pc := (s.thr i).pc.toNat
  let words := stagedWords (s.role st r) n
  let s := quietKeep s st r
  let s := dropStages (unread s st r n) st r n
  let s := countErr (s.onThr i (fun t => { t with st := .killed, wait := none })) (stErr st 4)
  if n = 0 then raise s 0x0B03 (coreObj st r) (faultBytes s 3 0 0x0A21 pc words)
  else postFault s st r 3 n 0x0A21 pc words

def dbgKillCmd (s : State) (r : Req) : Res :=
  if !bodyIs r 24 then fails s mbxInvalid
  else if 8 ≤ num r 2 ∨ (s.thr (dbgTid r)).st = .disabled then failsAt s mbxInvalid 3
  else done (killThread s (dbgTid r))

def execDbgKill (t : Nat) (r : Req) (s : State) := serve t r 0x0B07 (dbg dbgKillCmd) s

/-- DBG_BREAK: breakpoint 0 to 3, off or on, address. -/
def dbgBreakCmd (s : State) (r : Req) : Res :=
  if !bodyIs r 40 then fails s mbxInvalid
  else if 4 ≤ num r 2 then failsAt s mbxInvalid 3
  else if 2 ≤ num r 3 then failsAt s mbxInvalid 4
  else if num r 4 % 4 ≠ 0 then failsAt s mbxInvalid 5
  else
    let st := num r 0
    let k := num r 1
    let s := s.onRole st k (fun c => { c with bps := if num r 3 = 1 then tset c.bps (num r 2) (BitVec.ofNat 64 (num r 4)) else tdel c.bps (num r 2) })
    done ((List.range 8).foldl (fun s n => reach s { stall := Fin.ofNat 12 st, role := Fin.ofNat 16 k, thread := Fin.ofNat 8 n }) s)

def execDbgBreak (t : Nat) (r : Req) (s : State) := serve t r 0x0B08 (dbg dbgBreakCmd) s

/-- State number `n` of R277. -/
def dbgReg (s : State) (i : Tid) (n : Nat) : Word64 :=
  if n < 32 then s.greg i (BitVec.ofNat 5 n) else if n < 48 then readSr s i (n - 32) else (s.thr i).pc

/-- DBG_READ: registers (0) or memory (1), from a number or address, so many. -/
def dbgReadCmd (s : State) (r : Req) (i : Tid) : Res :=
  let a := num r 4
  let n := num r 5
  if !bodyIs r 48 then fails s mbxInvalid
  else if 2 ≤ num r 3 then failsAt s mbxInvalid 4
  else if num r 3 = 0 then
    if n = 0 ∨ 49 < a + n then failsAt s mbxInvalid 6
    else gives s ((List.range n).flatMap (fun k => leBytes 8 (dbgReg s i (a + k)).toNat))
  else if n = 0 ∨ 4096 < n then failsAt s mbxInvalid 6
  else match window s i a n with
    | some x => gives s (s.peek x n)
    | none => failsAt s mbxInvalid 5

def execDbgRead (t : Nat) (r : Req) (s : State) := serve t r 0x0B09 (dbg (dbgStopped dbgReadCmd)) s

/-- One register written; none where R277 refuses it. -/
def dbgWriteReg (s : State) (i : Tid) (n : Nat) (v : Word64) : Option State :=
  if n = 0 ∨ 48 < n then none
  else if n < 32 then some (s.setReg i (BitVec.ofNat 5 n) v)
  else if n < 48 then writeSr s i (n - 32) v
  else if v.toNat % 4 = 0 then some (s.onThr i (fun t => { t with pc := v }))
  else none

/-- Registers from number `n` upwards written with words of a string. -/
def dbgWriteRegs (i : Tid) : State → Nat → Nat → Bytes → Option State
  | s, _, 0, _ => some s
  | s, n, k + 1, b =>
    match dbgWriteReg s i n (BitVec.ofNat 64 (leAt b 0 8)) with
    | some s => dbgWriteRegs i s (n + 1) k (b.drop 8)
    | none => none

/-- DBG_WRITE: registers (0) or memory (1), from a number or address, then the values. -/
def dbgWriteCmd (s : State) (r : Req) (i : Tid) : Res :=
  let a := num r 4
  let v := r.body.drop 40
  if r.body.length ≤ 40 then fails s mbxInvalid
  else if 2 ≤ num r 3 then failsAt s mbxInvalid 4
  else if num r 3 = 0 then
    if v.length % 8 ≠ 0 then fails s mbxInvalid
    else match dbgWriteRegs i s a (v.length / 8) v with
      | some s' => done s'
      | none => failsAt s mbxInvalid 5
  else if 4096 < v.length then fails s mbxInvalid
  else match window s i a v.length with
    | some x => done (s.poke x v)
    | none => failsAt s mbxInvalid 5

def execDbgWrite (t : Nat) (r : Req) (s : State) := serve t r 0x0B0A (dbg (dbgStopped dbgWriteCmd)) s

end Sys2Proof.Machine
end

