-- ==== Sys2Proof/Machine/Classify.lean ====
section
/-! DEFINITION. The classifier and what follows it (R93 to R95, R104, R111, R136, R137, R231 to R233): profile,
lookups, tenant function, spoof checks, policer, modifier, destination. -/

namespace Sys2Proof.Machine

/-! ### Profiles (R94, R95) -/

/-- The default of a profile: discard, but for the two of the management-only destinations. -/
def profileDefault (p : Nat) : Bytes :=
  let mk (dest tfMode : Byte) : Bytes := [dest, 0, 0, tfMode, 0, 0, 0xFF, 0, 0, 0xFF, 0, 0, 0xFF, 0xFF, 0xFF, 0xFF, 0xFF, 0xFF] ++ List.replicate 14 0
  if p = 4072 then mk 2 2 else if p = 4075 then mk 3 2 else mk 0 0

/-- A profile of a version; the reserved ones discard. -/
def profileOf (recs : Tab Bytes) (p : Nat) : Bytes :=
  if (4076 ≤ p ∧ p ≤ 4080) ∨ 4089 ≤ p then profileDefault 0
  else (tget? recs (cfgKey (itemId 5 2 1) p 0)).getD (profileDefault p)

/-! ### Tenant function of a frame (R94, R230) -/

def bindLp (b : Bytes) : Nat := leAt b 0 1
def bindFlag (b : Bytes) (k : Nat) : Bool := (leAt b 1 1).testBit k

/-- A binding names a pair of logical port and outer VLAN, or untagged. -/
def bindsPair (b : Bytes) (lp : Nat) (vid : Option Nat) : Bool :=
  bindLp b == lp && (match vid with
    | none => bindFlag b 0
    | some v => !bindFlag b 0 && leAt b 2 2 == v)

/-- The tenant function that a pair maps to; TF0 without a binding. -/
def mapTf (s : State) (lp : Nat) (vid : Option Nat) : Nat :=
  match s.cfg.recs.find? (fun r => keyItem r.1 == itemId 0xA 1 12 && bindsPair r.2 lp vid) with
  | some r => keyIndex r.1
  | none => 0

/-! ### Spoof checks (R231) -/

/-- An address lies in a prefix of `n` of `w` bits. -/
def inPrefix (w addr pre n : Nat) : Bool := addr / 2 ^ (w - n) == pre / 2 ^ (w - n)

/-- IPv4 and IPv6 source fields of a frame: header source, ARP sender. -/
def v4Sources (b : Bytes) : List Nat :=
  let o := etherOff b + 2
  if etherType b = 0x0800 then [beAt b (o + 12) 4] else if etherType b = 0x0806 then [beAt b (o + 14) 4] else []
/-- The source link-local or global address that a neighbour-discovery message speaks for: the target of an advertisement, else the
header's source (R231; DEDUCED, log 30). -/
def ndSources (b : Bytes) : List Nat :=
  match l4Of b with
  | some (o, 58) => if (byteAt b o).toNat = 136 then [beAt b (o + 8) 16] else []
  | _ => []
def v6Sources (b : Bytes) : List Nat :=
  if etherType b = 0x86DD then beAt b (etherOff b + 10) 16 :: ndSources b else []

/-- The checks that a mask enables against one binding, for a frame and its EHT source identity. A check whose field
the frame does not carry passes; with bit 0 off, no pair is compared (log 30). -/
def bindingOk (mask : Nat) (b : Bytes) (f : Frame) (lp : Option Nat) (eht : Option (Nat × Nat)) : Bool :=
  (!mask.testBit 0 || (match lp with
    | some n => bindsPair b n (outerVid f.bytes)
    | none => true))
  && (!mask.testBit 1 || bindFlag b 1 || beAt f.bytes 6 6 == beAt b 4 6)
  && (!mask.testBit 2 || bindFlag b 2 || (v4Sources f.bytes).all (fun a => inPrefix 32 a (beAt b 0xC 4) (leAt b 0xA 1)))
  && (!mask.testBit 3 || bindFlag b 3 || (v6Sources f.bytes).all (fun a => inPrefix 128 a (beAt b 0x10 16) (leAt b 0xB 1)))
  && (match eht with
    | none => true
    | some (eid, gen) =>
      (!mask.testBit 4 || (decide (leAt b 0x20 4 ≤ eid) && decide (eid < leAt b 0x20 4 + leAt b 0x24 4)))
      && (!mask.testBit 5 || !serialEarlier 16 gen (leAt b 0x28 2)))

/-- The frame passes the spoof checks of a tenant function; with every check off it needs no binding (log 30). -/
def spoofPasses (s : State) (tf : Nat) (f : Frame) (lp : Option Nat) (eht : Option (Nat × Nat)) : Bool :=
  let mask := s.cfgN (itemId 0xA 1 13) tf 0 63
  mask == 0 || (bindingsOf s tf).any (fun b => bindingOk mask b f lp eht)

/-! ### Policers (R137) -/

/-- Overhead of a frame's ingress port; 0 for a core-injected one (R128). -/
def inOverhead (s : State) (f : Frame) : Int :=
  match f.inLp with
  | some lp => s.overhead lp
  | none => 0

/-- Number `k` of a policer's item: mode, CIR, CBS, PIR, PBS, yellow action, yellow class. -/
def polItem (s : State) (p k : Nat) : Nat := s.cfgPart (itemId 7 1 15) p 0 k 0

/-- The colour of a frame of length `l` (0 green, 1 yellow, 2 red) and its policer afterwards. -/
def polColour (mode : Nat) (p : Policer) (l : Nat) : Nat × Policer :=
  let u := l * 64
  match mode with
  | 0 => (0, p)
  | 1 => if u ≤ p.c.tokens then (0, { p with c := { p.c with tokens := p.c.tokens - u } }) else (2, p)
  | _ =>
    if p.p.tokens < u then (2, p)
    else if p.c.tokens < u then (1, { p with p := { p.p with tokens := p.p.tokens - u } })
    else (0, { c := { p.c with tokens := p.c.tokens - u }, p := { p.p with tokens := p.p.tokens - u } })

/-- A frame at its policer: counted by colour; none when red, else its class. -/
def police (s : State) (n cls len : Nat) : State × Option Nat :=
  if 32768 ≤ n then (s, some cls)
  else
    let r := polColour (polItem s n 0) (tget s.tm.policers n {}) len
    let s := if polItem s n 0 = 0 then s else { s with tm.policers := tset s.tm.policers n r.2 }
    let s := countStat s (objBase 2 n + 0x100 + 8 * r.1) 1
    if r.1 = 2 then (s, none)
    else (s, some (if r.1 = 1 ∧ polItem s n 5 = 1 then polItem s n 6 else cls))

/-! ### Lookups (R103 to R105, R111) -/

/-- A lookup counted; the entry found, and whether the extension was read (R103). -/
def lookup (s : State) (t : Nat) (key : Bytes) : State × Option TEntry × Bool :=
  let s := countStat s (tStat t 0) 1
  match findKey s t key with
  | some (pos, e) => (countStat s (tStat t (if posLevel pos = 0 then 1 else 2)) 1, some e, posLevel pos != 0)
  | none => (s, none, tblBuckets s t 1 != 0)

/-- A key of a profile's lookup: table, offset and length at byte `o`. -/
def lookupKeyOf (prof : Bytes) (o : Nat) (key : Bytes) : Nat × Bytes := (leAt prof o 1, slice key (leAt prof (o + 1) 1) (leAt prof (o + 2) 1))

/-- Lookup A: the result in force, none on a miss that discards; the HBM cause. -/
def lookupA (s : State) (prof key : Bytes) : State × Option (Option Nat) × Bool :=
  let k := lookupKeyOf prof 6 key
  if 16 ≤ k.1 then (s, some none, false)
  else
    let r := lookup s k.1 k.2
    match r.2.1 with
    | some e => (if tblRefreshA r.1 k.1 then refreshRequest r.1 k.1 e else r.1, some (some e.result), r.2.2)
    | none => (r.1, if tblMissDefault r.1 k.1 then some (some (tblDefault r.1 k.1)) else none, r.2.2)

/-- Lookup B: refresh, against the ingress port that the frame keeps, and learning, for a port frame only (R105, R111). A frame of bad
FCS makes neither (log 30). -/
def lookupB (s : State) (prof key : Bytes) (f : Frame) (port : Option Nat) (tf : Nat) : State × Bool :=
  let k := lookupKeyOf prof 9 key
  if 16 ≤ k.1 ∨ f.bad then (s, false)
  else
    let r := lookup s k.1 k.2
    let learn (s : State) : State := match port with
      | some lp => learnRequest s k.1 { key := k.2, lp := lp, tf := tf, tIn := f.tIn }
      | none => s
    (match r.2.1 with
     | none => learn r.1
     | some e => if e.port = 0xFF ∨ some e.port = f.inLp then refreshRequest r.1 k.1 e else learn r.1, r.2.2)

/-! ### Destinations (R23) -/

/-- The EHT header of a stack: its offset. -/
def ehtAt (stack : List (Nat × Nat × Nat)) : Option Nat := (stack.find? (fun h => h.1 == 0xF)).map (fun h => h.2.1)

/-- The UDP checksum and fragment findings of a datagram (R151): checksum good, fragment. -/
def udpFindings (b : Bytes) (stack : List (Nat × Nat × Nat)) (eht : Nat) : Bool × Bool :=
  let udp := eht - 8
  match (stack.filter (fun h => (h.1 == 5 || h.1 == 6) && decide (h.2.1 < udp))).getLast? with
  | none => (true, false)
  | some h =>
    let ip := h.2.1
    let len := beAt b (udp + 4) 2
    let c := beAt b (udp + 6) 2
    let addrs := if h.1 = 5 then slice b (ip + 12) 8 else slice b (ip + 8) 32
    let sum := fold16 (onesSum (addrs ++ beBytes 4 17 ++ beBytes 4 len ++ slice b udp len))
    if h.1 = 5 then (c == 0 || sum == 65535, beAt b (ip + 6) 2 % 0x4000 != 0)
    else (c != 0 && sum == 65535, stack.any (fun x => x.1 == 7 && decide (ip < x.2.1) && decide (x.2.1 < udp) && (byteAt b (ip + 6)).toNat == 44))

/-- A frame handed to the EHT engine. -/
def toEht (s : State) (f : Frame) (r : ParseRes) (eht : Nat) (spoofOk : Bool) : State :=
  let b := f.bytes.take (f.len - 4)
  let u := udpFindings b r.stack eht
  let n := beAt b (eht - 4) 2 - 8
  let x : EhtRx := { lp := Fin.ofNat 16 (f.inLp.getD 0), srcIp := BitVec.ofNat 128 (beAt r.key 16 16), srcMac := BitVec.ofNat 48 (beAt b 6 6)
                     spoofOk := spoofOk, udpGood := u.1, frag := u.2, local_ := false, tIn := f.tIn, bytes := (b.drop eht).take n }
  { s with eht.rx := s.eht.rx ++ [x] }

/-- What the Clerk does with a frame of TF0: it keeps an EAPOL frame (R57), and answers a neighbour solicitation for the link-local
address (R64). -/
def clerkTakes (s : State) (f : Frame) : State :=
  if etherType f.bytes = 0x888E then { s with port.eapol := s.port.eapol ++ [((f.inLp.getD 0), f.bytes)] }
  else match f.inLp, l4Of f.bytes with
  | some lp, some (o, 58) =>
    if (byteAt f.bytes o).toNat = 135 ∧ beAt f.bytes (o + 8) 16 = linkLocal s.fuses.mac.toNat ∧ s.boot.inband then
      emit s lp (s.qsetRange lp).1 (controlClass s false) (ndAdvert s (beAt f.bytes 6 6) (beAt f.bytes (etherOff f.bytes + 10) 16) 3)
    else s
  | _, _ => s

/-- The recirculation input of a pipeline (R68); the frame is stamped again (R88). -/
def recirculate (s : State) (pipe : Nat) (pf : PFrame) (f : Frame) : State :=
  let x : PFrame := { frame := f, src := pf.src % 16 + 16 }
  { countEntry s with parse.recirc := tset s.parse.recirc pipe (tget s.parse.recirc pipe [] ++ [x.enter s]) }

/-- The modifier (log 45): its bytes, and the stamp that the originator may request (R61). -/
def modified (f : Frame) : Frame :=
  let f := { f with stamp := (Config.stampTag f.template f.user f.bytes).map (· % 65536) }
  if f.template = 0xFFFF then f else { f with bytes := Config.modify f.template f.user f.bytes }

/-- The frame's template sends it round again (R68). -/
def goesRound (f : Frame) : Bool := f.template != 0xFFFF && Config.recirculates f.template

/-- Modifier and destination of a frame that has passed every check. -/
def deliverFrame (s : State) (pipe : Nat) (pf : PFrame) (r : ParseRes) (dest channel : Nat) (f : Frame) (spoofOk : Bool) : State :=
  let f := modified f
  if goesRound f then recirculate s pipe pf f
  else match dest with
    | 1 => enqueue s f
    | 2 => match ehtAt r.stack with
      | some o => toEht s f r o spoofOk
      | none => s
    | _ =>
      if channel = 0xFFFF then clerkTakes s f
      else deliverBuf s 0x8000 channel pf.src f.cls f.tf r.code f.len f.len f.bytes r.meta_ (time80 f.tIn)

/-! ### The chain (R23, R39, R94, R95, R104, R231 to R233, R136) -/

/-- A class 7 frame whose check failed after it entered the pipeline is counted in RX_DISCARD, whatever its destination (R39); a
frame of another class has only its own counter. -/
def countBad (s : State) (cls : Nat) (f : Frame) : State :=
  match f.inLp with
  | some lp => if cls = 7 then countErr s (lErr lp 3) else s
  | none => s

/-- What becomes of a frame whose check failed: whether it goes on. Only a class 7 frame for the traffic manager can have begun to
leave; whether it had when the check failed is the wire's timing, a free value (R39; log 70). A recirculated one goes on. -/
def badGoesOn (s : State) (pf : PFrame) (dest cls : Nat) : State × Bool :=
  if pf.src.testBit 4 then (s, true)
  else
    let s := countBad s cls pf.frame
    if dest = 1 ∧ cls = 7 then
      let r := s.draw 2
      (r.2, r.1 == 1)
    else (s, false)

/-- Priority of the outermost tag, where there is one. -/
def pcpOf (b : Bytes) : Option Nat := if (outerVid b).isSome then some (beAt b 14 2 / 2 ^ 13) else none

/-- The spoof stage: recirculated frames are not checked again, and management-only mode checks none. -/
def spoofStage (s : State) (pf : PFrame) (tf : Nat) (f : Frame) (eht : Option (Nat × Nat)) : State × Bool :=
  if s.port.mgmtOnly ∨ pf.src.testBit 4 then (s, true)
  else
    let injected := pf.src.testBit 5
    if spoofPasses s (if injected then pf.frame.tf else tf) f (if injected then none else f.inLp) eht then
      (countStat (countStat s (tfStat tf 0) 1) (tfStat tf 1) f.len, true)
    else (countErr s (tfErr tf 0), false)

/-- The class that a profile gives a frame (R94). -/
def classOf (prof : Bytes) (f : Frame) (res : Option Nat) : Nat :=
  match leAt prof 1 1, res with
  | 1, _ => (pcpOf f.bytes).getD (leAt prof 2 1)
  | 2, some x => resClass x
  | _, _ => leAt prof 2 1

/-- The tenant function that a profile gives a frame (R94, R230). -/
def tfOf (s : State) (prof : Bytes) (f : Frame) (res : Option Nat) : Nat :=
  match leAt prof 3 1, res with
  | 1, some x => resTf x
  | 2, _ => (match f.inLp with
    | some lp => mapTf s lp (outerVid f.bytes)
    | none => 0)
  | _, _ => leAt prof 4 2

/-- Source EID and generation of the EHT header that a stack holds (R231). -/
def ehtSource (b : Bytes) (stack : List (Nat × Nat × Nat)) : Option (Nat × Nat) :=
  (ehtAt stack).map (fun o => (beAt b (o + 8) 4, beAt b (o + 14) 2))

/-- A classified frame behind the policer: modifier fields, spoof checks, tenant function, destination. EHT packets meet their
endpoint's tenant function in the engine, so R233's discard is for the other destinations (log 30). A frame that fails a spoof
check is discarded, an EHT packet counted in RX_SPOOF too (R232): one bound for the engine there (R162, check 2), any other here. -/
def classifyOn (s : State) (pipe : Nat) (pf : PFrame) (r : ParseRes) (prof : Bytes) (res : Option Nat) (tf cls causes : Nat) : State :=
  let f := pf.frame
  let dest := leAt prof 0 1
  let template := match res with
    | some x => if resTemplate x = 0xFFFF then leAt prof 0xE 2 else resTemplate x
    | none => leAt prof 0xE 2
  let f := { f with cls := cls, tf := tf, template := template, user := (res.map resUser).getD 0, qset := (res.map resQset).getD 65535
                    causes := f.causes ||| causes }
  let eht := ehtSource f.bytes r.stack
  let sp := spoofStage s pf tf f eht
  if !sp.2 && (dest != 2 || goesRound f) then (if eht.isSome then countErr sp.1 (ehtErr 2) else sp.1)
  else if dest ≠ 2 ∧ (sp.1.tf tf).st ≠ .enabled then countErr sp.1 (tfErr tf 1)
  else deliverFrame sp.1 pipe pf r dest (leAt prof 0x10 2) f sp.2

/-- A released parse result classified and carried to its destination. -/
def classify (s : State) (pipe : Nat) (pf : PFrame) (r : ParseRes) : State :=
  let f := pf.frame
  let prof := profileOf (s.ver pf.ver).recs r.profile
  let dest := leAt prof 0 1
  if dest = 0 ∨ 4 ≤ dest ∨ (dest = 2 ∧ (ehtAt r.stack).isNone) then
    let cls := classOf prof f none
    if !f.bad then countErr s (parserBase + 0x1A4)
    else if cls = 7 then countBad (countErr s (parserBase + 0x1A4)) cls f
    else s
  else
    let a := lookupA s prof r.key
    let res := a.2.1.getD none
    let tf := tfOf s prof f res
    let b := lookupB a.1 prof r.key f (if pf.src < 16 then some pf.src else none) tf
    let s := b.1
    let cls := classOf prof f res
    if a.2.1.isNone then
      let s := if f.bad ∧ ¬ (dest = 1 ∧ cls = 7) then s else countErr s (tErr (lookupKeyOf prof 6 r.key).1 7)
      if f.bad then countBad s cls f else s
    else
      let g := if f.bad then badGoesOn s pf dest cls else (s, true)
      if !g.2 then g.1
      else
        let p := police g.1 (leAt prof 0xC 2) cls (effLen f.len (inOverhead g.1 f))
        match p.2 with
        | none => p.1
        | some cls => classifyOn p.1 pipe pf r prof res tf cls (if a.2.2 || b.2 then causeHbm else 0)

end Sys2Proof.Machine
end

