-- ==== Sys2Proof/Machine/PortRows.lean ====
section
/-! DEFINITION. The rows of the ports (03), the traffic manager's clock (06) and the tables (05). -/

namespace Sys2Proof.Machine

/-! ### Ports -/

def execFrameReceive (t : Nat) (f : WireFrame) (s : State) := act t s (fun s => receive s f)
def execLinkUp (t : Nat) (l : LinkEnd) (s : State) := act t s (fun s => linkUp s l.port.val l.offer)
def execLinkDown (t : Nat) (lp : Fin 16) (s : State) := act t s (fun s => linkDown s lp.val)
def execAlignmentLoss (t : Nat) (lp : Fin 16) (s : State) := act t s (fun s => alignmentLost s lp.val)
def execLinkSetupFallback (t : Nat) (port : Fin 2) (s : State) := act t s (fun s => setupFallback s port.val)
def execFecDegrade (t : Nat) (port : Fin 2) (lane : Fin 8) (symbols : Nat) (s : State) :=
  act t s (fun s => fecSymbols s port.val lane.val symbols)
def execMgmtFrameRelease (t : Nat) (port : Fin 2) (s : State) := act t s (fun s => mgmtRelease s port.val)
def execSaActivated (t : Nat) (port : Fin 2) (s : State) := act t s (fun s => saActivated s port.val)

/-! ### Traffic manager -/

def execTmDecision (t : Nat) (lp : Fin 16) (s : State) :=
  act t s (fun s => if s.boot.gate && s.lpPresent lp.val then tmDecide s lp.val else s)
def execTransmitSelect (t : Nat) (lp : Fin 16) (s : State) := act t s (fun s => transmitSelect s lp.val)
def execTransmitEnd (t : Nat) (lp : Fin 16) (s : State) := act t s (fun s => transmitEnd s lp.val)
def execGateEvent (t : Nat) (lp : Fin 16) (s : State) := act t s (fun s => refreshGates s lp.val)
def execBellChange (t : Nat) (lp : Fin 16) (s : State) := act t s (fun s => takeBell s lp.val)

/-- A bucket at its refills (R132), with a waiting change applied at the first of them (R135): `rate` and `burst`
are the committed ones, 0 when off; `per` is what a refill adds for each Mbit/s. -/
def Bucket.tick (b : Bucket) (up period per rate burst : Nat) : Bucket :=
  if !b.waiting then b.refill up period (per * b.rate)
  else if refillsBy up period ≤ b.refills then b
  else if rate = 0 then { rate := 0, burst := 0, tokens := 0, refills := refillsBy up period }
  else if b.rate = 0 then { rate := rate, burst := burst, tokens := burst * 64, refills := refillsBy up period }
  else Bucket.refill { b with rate := rate, burst := burst, waiting := false } up period (per * rate)

/-- Rate and burst of a committed shaper record. -/
def shaperOf (s : State) (item index : Nat) : Nat × Nat := (s.cfgPart item index 0 0 0, s.cfgPart item index 0 1 0)

/-- TOKEN_REFILL. -/
def tokenRefill (s : State) : BucketId → State
  | .port lp =>
    let c := shaperOf s (itemId 7 1 4) lp.val
    s.onLp lp.val (fun p => { p with portBucket := p.portBucket.tick s.clk.up 125 1 c.1 c.2 })
  | .group g =>
    let c := shaperOf s (itemId 7 1 6) g.val
    s.onTg g.val (fun x => { x with bucket := x.bucket.tick s.clk.up 250 2 c.1 c.2 })
  | .queue q => s.onTq q.val (fun x => { x with bucket := x.bucket.tick s.clk.up 1000 8 x.bucket.rate x.bucket.burst })
  | .policer n => { s with tm.policers := tmod s.tm.policers n.val {} (fun x =>
      { c := x.c.tick s.clk.up 250 2 x.c.rate x.c.burst, p := x.p.tick s.clk.up 250 2 x.p.rate x.p.burst }) }

def execTokenRefill (t : Nat) (bucket : BucketId) (s : State) := act t s (fun s => tokenRefill s bucket)

/-! ### Tables -/

/-- The serialiser takes a refresh when no learn request waits (R106). -/
def refreshRow (s : State) (t : Nat) : State := if (s.tbl t).learnQ.isEmpty then takeRefresh s t else s
/-- It takes a request of the ager when neither waits. -/
def agerRow (s : State) (t : Nat) : State := if (s.tbl t).learnQ.isEmpty && (s.tbl t).refreshQ.isEmpty then takeAger s t else s
/-- It passes a bucket of a dump when nothing else waits (R462). -/
def dumpRow (s : State) (t : Nat) : State :=
  if (s.tbl t).learnQ.isEmpty && (s.tbl t).refreshQ.isEmpty && (s.tbl t).agerQ.isEmpty then dumpStep s t else s

def execLearn (t : Nat) (tbl : Fin 16) (s : State) := act t s (fun s => takeLearn s tbl.val)
def execRefresh (t : Nat) (tbl : Fin 16) (s : State) := act t s (fun s => refreshRow s tbl.val)
def execAgerRequest (t : Nat) (tbl : Fin 16) (s : State) := act t s (fun s => agerRow s tbl.val)
def execDumpStep (t : Nat) (tbl : Fin 16) (s : State) := act t s (fun s => dumpRow s tbl.val)

/-- AGE_TICK at the end of the table's tick period (R115). -/
def ageRow (s : State) (t : Nat) : State :=
  if tblMode s t ≠ 0 ∧ (s.tbl t).tickAt + tblTickNs s t ≤ s.clk.up then ageTick s t else s

def execAgeTick (t : Nat) (tbl : Fin 16) (s : State) := act t s (fun s => ageRow s tbl.val)

/-- The table from whose FIFO the Clerk takes its next record: the first in table order, from the one after the last, that has a
record and the Clerk as its target (R121). -/
def clerkTurn (s : State) : Option Nat :=
  ((List.range 16).map (fun i => (s.mbx.tblTurn + i) % 16)).find? (fun t => !(s.tbl t).notif.isEmpty && tblTarget s t == 0xFFFF)

/-- NOTIFY_DELIVER (R121): the oldest record goes to the Clerk's event in the table's turn, or to the channel, which must have room;
a channel that has lost its reader drops it (R274). -/
def notifyDeliver (s : State) (t : Nat) : State :=
  match (s.tbl t).notif with
  | [] => s
  | n :: rest =>
    let s1 := s.onTbl t (fun tb => { tb with notif := rest })
    if tblTarget s t = 0xFFFF then
      if clerkTurn s = some t then raise { s1 with mbx.tblTurn := (t + 1) % 16 } 0x0601 t (n.bytes t) else s
    else if (readerOf s (tblTarget s t)).isNone then chanDrop s1 (tblTarget s t)
    else match deliver s1 (tblTarget s t) 0x8002 (wordsOf 8 (n.bytes t)) none with
      | some s2 => s2
      | none => s

def execNotifyDeliver (t : Nat) (tbl : Fin 16) (s : State) := act t s (fun s => notifyDeliver s tbl.val)

/-- FLUSH_DONE (R122). -/
def flushDone (s : State) (t : Nat) : State :=
  match (s.tbl t).flush with
  | some f => raise ((flushEntries s t f).onTbl t (fun tb => { tb with flush := none })) 0x0603 t []
  | none => s

def execFlushDone (t : Nat) (tbl : Fin 16) (s : State) := act t s (fun s => flushDone s tbl.val)

/-- BUCKET_CLEAR (R120): every slot of the lost buckets. -/
def bucketClear (s : State) (t : Nat) : State :=
  if (s.tbl t).lost.isEmpty then s
  else s.onTbl t (fun tb => { tb with
    slots := tb.slots.filter (fun p => !tb.lost.contains (posLevel p.1, posBucket p.1)), lost := [], recompute := true })

def execBucketClear (t : Nat) (tbl : Fin 16) (s : State) := act t s (fun s => bucketClear s tbl.val)

/-- TABLE_RECOMPUTE (R120). -/
def tableRecompute (s : State) (t : Nat) : State :=
  if (s.tbl t).recompute then s.onTbl t (fun tb => { tb with digest := tableDigest s t, recompute := false }) else s

def execTableRecompute (t : Nat) (tbl : Fin 16) (s : State) := act t s (fun s => tableRecompute s tbl.val)

/-! ### Table commands (R122, R461) -/

/-- A key of 56 bytes: its length and 48 bytes. -/
def keyLenAt (b : Bytes) (o : Nat) : Nat := leAt b o 8
def keyAt (b : Bytes) (o n : Nat) : Bytes := slice b (o + 8) n
def encKey (k : Bytes) : Bytes := encN k.length ++ padTo 48 k

/-- The parameter that R122 refuses, 0 for none: table, key (parameter 2, 3 with its 48 bytes), PORT. -/
def keyFault (s : State) (t : Nat) (b : Bytes) (o : Nat) : Nat :=
  if 16 ≤ t ∨ tblMode s t = 0 then 1
  else if keyLenAt b o ≠ tblKeyLen s t ∨ !zeroAt b (o + 8 + tblKeyLen s t) (48 - tblKeyLen s t) then 2
  else 0

/-- A PORT that a command may name: a present logical port, or 0xFF (R20, R122). -/
def portNamed (s : State) (port : Nat) : Bool := port == 0xFF || (decide (port < 16) && s.lpPresent port)

/-- One insert: `b` from `o` is the key, RESULT, PORT, OWNER_TF, flags. The state, a status, the outcome and the
evicted key. -/
def insertOp (s : State) (t : Nat) (b : Bytes) (o : Nat) : State × Nat × Nat × Bytes :=
  let port := leAt b (o + 64) 8
  let tf := leAt b (o + 72) 8
  let fl := leAt b (o + 80) 8
  if keyFault s t b o ≠ 0 ∨ !portNamed s port ∨ 4096 ≤ tf ∨ 8 ≤ fl then (s, mbxInvalid, 0, [])
  else
    let e : TEntry := { key := keyAt b o (tblKeyLen s t), result := leAt b (o + 56) 8, age := (s.tbl t).tick, port := port
                        flags := (if fl.testBit 0 then fStatic else 0) + (if fl.testBit 1 then fOnchip else 0), tf := tf }
    let held := findKey s t e.key
    let same := match held with
      | some x => x.2.tf == tf
      | none => false
    if !same && !quotaOk s t tf then (s, mbxNospace, 0, [])
    else
      let x := insert s t e (fl.testBit 2)
      match x.2 with
      | .inserted => (x.1, mbxOk, 0, [])
      | .updated => (x.1, mbxOk, 1, [])
      | .evicted v => (x.1, mbxOk, 2, v.key)
      | .nospace => (x.1, mbxNospace, 0, [])

/-- One delete: whether it was present. -/
def deleteOp (s : State) (t : Nat) (b : Bytes) (o : Nat) : State × Nat × Nat :=
  if keyFault s t b o ≠ 0 then (s, mbxInvalid, 0)
  else match findKey s t (keyAt b o (tblKeyLen s t)) with
    | some (pos, _) => (delEntry s t pos, mbxOk, 1)
    | none => (s, mbxOk, 0)

/-- The evicted key of a result, all zero unless the outcome is 2. -/
def evictedKey (outcome : Nat) (k : Bytes) : Bytes := if outcome = 2 then encKey k else List.replicate 56 0

def tblInsertCmd (s : State) (r : Req) : Res :=
  if !bodyIs r 96 then fails s mbxInvalid
  else
    let f := keyFault s (num r 0) r.body 8
    if f ≠ 0 then failsAt s mbxInvalid f
    else
      let x := insertOp s (num r 0) r.body 8
      if x.2.1 ≠ 0 then fails x.1 x.2.1 else gives x.1 (encN x.2.2.1 ++ evictedKey x.2.2.1 x.2.2.2)

def execTblInsert (t : Nat) (r : Req) (s : State) := serve t r 0x0601 tblInsertCmd s

def tblDeleteCmd (s : State) (r : Req) : Res :=
  if !bodyIs r 64 then fails s mbxInvalid
  else
    let f := keyFault s (num r 0) r.body 8
    if f ≠ 0 then failsAt s mbxInvalid f
    else let x := deleteOp s (num r 0) r.body 8; gives x.1 (encN x.2.2)

def execTblDelete (t : Nat) (r : Req) (s : State) := serve t r 0x0602 tblDeleteCmd s

/-- An entry in the layout of R100. -/
def TEntry.bytes (e : TEntry) (width : Nat) : Bytes :=
  padTo width e.key ++ leBytes 8 e.result ++ leBytes 2 e.age ++ leBytes 1 e.port ++ leBytes 1 (e.flags + 1) ++ leBytes 2 e.tf ++ [0, 0]

def tblReadCmd (s : State) (r : Req) : Res :=
  if !bodyIs r 64 then fails s mbxInvalid
  else
    let t := num r 0
    let f := keyFault s t r.body 8
    if f ≠ 0 then failsAt s mbxInvalid f
    else match findKey s t (keyAt r.body 8 (tblKeyLen s t)) with
      | some (pos, e) => gives s (encN 1 ++ e.bytes (tblWidth s t) ++ encN (posLevel pos) ++ encN (posBucket pos) ++ encN (posSlot pos))
      | none => gives s (encN 0 ++ List.replicate (tblWidth s t + 16) 0 ++ encN 0 ++ encN 0 ++ encN 0)

def execTblRead (t : Nat) (r : Req) (s : State) := serve t r 0x0603 tblReadCmd s

/-- The operations of a batch, 96 bytes each, from offset `o`. -/
def batchLoop (t : Nat) (b : Bytes) : Nat → Nat → State → Bytes → State × Bytes
  | 0, _, s, out => (s, out)
  | n + 1, o, s, out =>
    let kind := leAt b o 8
    if kind = 0 then
      let x := insertOp s t b (o + 8)
      batchLoop t b n (o + 96) x.1 (out ++ encN x.2.1 ++ encN x.2.2.1 ++ evictedKey x.2.2.1 x.2.2.2)
    else if kind = 1 ∧ zeroAt b (o + 64) 32 then
      let x := deleteOp s t b (o + 8)
      batchLoop t b n (o + 96) x.1 (out ++ encN x.2.1 ++ encN x.2.2 ++ evictedKey 0 [])
    else batchLoop t b n (o + 96) s (out ++ encN mbxInvalid ++ encN 0 ++ evictedKey 0 [])

def tblBatchCmd (s : State) (r : Req) : Res :=
  let n := num r 1
  if r.body.length < 16 ∨ r.body.length ≠ 16 + 96 * n then fails s mbxInvalid
  else if 16 ≤ num r 0 ∨ tblMode s (num r 0) = 0 then failsAt s mbxInvalid 1
  else if n = 0 ∨ 64 < n then failsAt s mbxInvalid 2
  else let x := batchLoop (num r 0) r.body n 16 s []; gives x.1 x.2

def execTblBatch (t : Nat) (r : Req) (s : State) := serve t r 0x0604 tblBatchCmd s

/-- A flush or dump of the table runs. -/
def tblBusy (s : State) (t : Nat) : Bool := (s.tbl t).flush.isSome || (s.tbl t).dump.isSome

def tblFlushCmd (s : State) (r : Req) : Res :=
  if !bodyIs r 32 then fails s mbxInvalid
  else if 16 ≤ num r 0 ∨ tblMode s (num r 0) = 0 then failsAt s mbxInvalid 1
  else if 4 ≤ num r 1 then failsAt s mbxInvalid 2
  else if (num r 1 < 2 ∧ num r 2 ≠ 0) ∨ (num r 1 = 2 ∧ 4096 ≤ num r 2) ∨ (num r 1 = 3 ∧ !portNamed s (num r 2)) then failsAt s mbxInvalid 3
  else if 2 ≤ num r 3 then failsAt s mbxInvalid 4
  else if tblBusy s (num r 0) then fails s mbxBusy
  else done (s.onTbl (num r 0) (fun tb => { tb with flush := some { filter := num r 1, value := num r 2, static := num r 3 == 1 } }))

def execTblFlush (t : Nat) (r : Req) (s : State) := serve t r 0x0605 tblFlushCmd s

def tblDumpCmd (s : State) (r : Req) : Res :=
  if !bodyIs r 8 then fails s mbxInvalid
  else if 16 ≤ num r 0 ∨ tblMode s (num r 0) = 0 then failsAt s mbxInvalid 1
  else if tblBusy s (num r 0) then fails s mbxBusy
  else done (s.onTbl (num r 0) (fun tb => { tb with dump := some (0, 0) }))

def execTblDump (t : Nat) (r : Req) (s : State) := serve t r 0x0606 tblDumpCmd s

/-! ### MACsec and time-stamp commands (R341; layouts: log 25) -/

/-- A channel of a port by direction and SCI. -/
def schan (s : State) (lp dir sci : Nat) : Option SChan :=
  if dir = 0 then (if (s.lp lp).tx.sci = sci then some (s.lp lp).tx else none) else tget? (s.lp lp).rx sci

/-- The parameter that is out of range in a port, direction, SCI and AN; 0 for none. -/
def saFault (s : State) (r : Req) : Nat :=
  if 16 ≤ num r 0 ∨ !s.lpPresent (num r 0) then 1
  else if 2 ≤ num r 1 then 2
  else if 4 ≤ num r 3 then 4
  else 0

/-- The SCI of a request: 8 bytes, the first sent first (R355). -/
def sciOf (r : Req) : Nat := beAt r.body 16 8

/-- An association installed. A port has one transmit channel: one of another SCI takes the place of a channel without an active
association. -/
def saInstall (s : State) (lp dir sci an : Nat) (sa : Sa) : State :=
  s.onLp lp (fun p =>
    if dir = 0 then { p with tx := if p.tx.sci = sci then { p.tx with sas := tset p.tx.sas an sa } else { sci := sci, sas := [(an, sa)] } }
    else { p with rx := tmod p.rx sci { sci := sci } (fun c => { c with sas := tset c.sas an sa }) })

/-- MS_SA_INSTALL: port, direction, SCI (8 bytes), AN, key slot, SSCI, salt (12 bytes), first PN. -/
def msInstallCmd (s : State) (r : Req) : Res :=
  let lp := num r 0
  let dir := num r 1
  let sci := sciOf r
  let an := num r 3
  let slot := num r 4
  let pn := leAt r.body 60 8
  let k := s.keySlot slot
  if !bodyIs r 68 then fails s mbxInvalid
  else if saFault s r ≠ 0 then failsAt s mbxInvalid (saFault s r)
  else if !slotNameable slot then failsAt s mbxInvalid 5
  else if 2 ^ 32 ≤ num r 5 then failsAt s mbxInvalid 6
  else if k.typ ≠ 1 ∨ !k.may useMacsec then denies s
  else
    let active := match schan s lp dir sci with
      | some c => c.active == some an
      | none => dir == 0 && (s.lp lp).tx.active.isSome
    if active then fails s mbxState
    else if dir = 1 ∧ (tget? (s.lp lp).rx sci).isNone ∧ 64 ≤ (s.lp lp).rx.length then fails s mbxNospace
    else done (saInstall s lp dir sci an { keySlot := slot, ssci := num r 5, salt := slice r.body 48 12, firstPn := pn, nextPn := pn, topPn := pn - 1 })

def execMsSaInstall (t : Nat) (r : Req) (s : State) := serve t r 0x0401 msInstallCmd s

/-- The association that a port, direction, SCI and AN name. -/
def saNamed (s : State) (r : Req) : Option Sa :=
  match schan s (num r 0) (num r 1) (sciOf r) with
  | some c => tget? c.sas (num r 3)
  | none => none

/-- MS_SA_ACTIVATE: port, direction, SCI, AN. A transmit association starts at its first PN (R58). -/
def msActivateCmd (s : State) (r : Req) : Res :=
  if !bodyIs r 32 then fails s mbxInvalid
  else if saFault s r ≠ 0 then failsAt s mbxInvalid (saFault s r)
  else if (s.pp (num r 0 / 8)).rekey.isSome then fails s mbxBusy
  else match saNamed s r with
    | none => fails s mbxState
    | some _ => done (s.onPp (num r 0 / 8) (fun p => { p with
        rekey := some { lp := num r 0, dir := num r 1, sci := sciOf r, an := num r 3, start := s.clk.up } }))

def execMsSaActivate (t : Nat) (r : Req) (s : State) := serve t r 0x0402 msActivateCmd s

/-- The association is active, or a rekey to it is in progress. -/
def saActive (s : State) (r : Req) : Bool :=
  (match schan s (num r 0) (num r 1) (sciOf r) with
   | some c => c.active == some (num r 3)
   | none => false)
  || (match (s.pp (num r 0 / 8)).rekey with
      | some k => k.lp == num r 0 && k.dir == num r 1 && k.sci == sciOf r && k.an == num r 3
      | none => false)

/-- MS_SA_DELETE: port, direction, SCI, AN. A receive channel without an association is free again. -/
def msDeleteCmd (s : State) (r : Req) : Res :=
  let lp := num r 0
  let sci := sciOf r
  if !bodyIs r 32 then fails s mbxInvalid
  else if saFault s r ≠ 0 then failsAt s mbxInvalid (saFault s r)
  else if saActive s r then fails s mbxState
  else done (s.onLp lp (fun p =>
    if num r 1 = 0 then (if p.tx.sci = sci then { p with tx := { p.tx with sas := tdel p.tx.sas (num r 3) } } else p)
    else
      let c := tget p.rx sci { sci := sci }
      let sas := tdel c.sas (num r 3)
      { p with rx := if sas = [] then tdel p.rx sci else tset p.rx sci { c with sas := sas } }))

def execMsSaDelete (t : Nat) (r : Req) (s : State) := serve t r 0x0403 msDeleteCmd s

/-- A channel of MS_STATUS: direction, SCI, active AN (0xFF for none), next PN. -/
def SChan.status (c : SChan) (dir : Nat) : Bytes :=
  let pn := match c.active with
    | some an => let sa := tget c.sas an default; if dir = 0 then sa.nextPn else sa.topPn + 1
    | none => 0
  encN dir ++ beBytes 8 c.sci ++ encN (c.active.getD 0xFF) ++ encN pn

def msStatusCmd (s : State) (r : Req) : Res :=
  if !bodyIs r 8 then fails s mbxInvalid
  else if 16 ≤ num r 0 ∨ !s.lpPresent (num r 0) then failsAt s mbxInvalid 1
  else gives s ((s.lp (num r 0)).tx.status 0 ++ (s.lp (num r 0)).rx.flatMap (fun p => p.2.status 1))

def execMsStatus (t : Nat) (r : Req) (s : State) := serve t r 0x0404 msStatusCmd s

/-- TS_READ: the port; its stamps (T_out, port, tag), oldest first, leave the FIFO. -/
def tsReadCmd (s : State) (r : Req) : Res :=
  let lp := num r 0
  if !bodyIs r 8 then fails s mbxInvalid
  else if 16 ≤ lp ∨ !s.lpPresent lp then failsAt s mbxInvalid 1
  else gives (s.onLp lp (fun p => { p with stamps := p.stamps.drop 64 }))
    (((s.lp lp).stamps.take 64).flatMap (fun x => leBytes 10 x.1 ++ encN lp ++ encN x.2))

def execTsRead (t : Nat) (r : Req) (s : State) := serve t r 0x0407 tsReadCmd s

/-- PPS_READ: the stamps of the PPS_IN FIFO, oldest first. -/
def ppsReadCmd (s : State) (r : Req) : Res :=
  if !bodyIs r 0 then fails s mbxInvalid
  else gives { s with port.ppsFifo := [] } (s.port.ppsFifo.flatMap (leBytes 10))

def execPpsRead (t : Nat) (r : Req) (s : State) := serve t r 0x0408 ppsReadCmd s

end Sys2Proof.Machine
end

