-- ==== Sys2Proof/Machine/Items.lean ====
section
/-! DEFINITION. The configuration items (R353 to R356): where each stands, how its value is laid out, its range and
its default. -/

namespace Sys2Proof.Machine

/-- How an item's value is laid out, with its range. -/
inductive Fmt where
  /-- a Number or Choice from `lo` to `hi` in steps of `step` -/
  | num (lo hi step : Nat)
  /-- 0, or a Number from `lo` to `hi` -/
  | zeroOr (lo hi : Nat)
  /-- 2^b with b from `lo` to `hi`, or 0 where `zero` -/
  | pow2 (lo hi : Nat) (zero : Bool)
  /-- a signed Number -/
  | signed (lo hi : Int)
  /-- Numbers in order, each with its range -/
  | nums (l : List (Nat × Nat))
  /-- a layout of its own -/
  | peer | policer | selfTest | drive | ident | profile | binding | thread | endpoint | bell
  deriving DecidableEq, Repr

/-- An item: ITEM_ID, bounds of INDEX and SUBINDEX, layout, default numbers (none: no default), and whether it is in
the Tally. -/
structure Item where
  id : Nat
  idx : Nat
  sub : Nat
  fmt : Fmt
  dflt : Option (List Nat) := some [0]
  tally : Bool := true
  deriving DecidableEq, Repr

def ms : Nat := 1000000
def second : Nat := 1000000000

def itemsClerk : List Item :=
  [{ id := itemId 2 1 1, idx := 1, sub := 1, fmt := .num 0 0xFFFFFFFD 1, dflt := none, tally := false },
   { id := itemId 2 1 2, idx := 1, sub := 16, fmt := .nums [(0, 0xFFFFFFFF), (1, 0x100000000)], dflt := none },
   { id := itemId 2 1 3, idx := 1, sub := 1, fmt := .zeroOr (100 * ms) (60 * second), dflt := some [second] },
   { id := itemId 2 1 4, idx := 1, sub := 64, fmt := .peer, dflt := none, tally := false },
   { id := itemId 2 1 5, idx := 0x100000, sub := 1, fmt := .num 0 1 1 }]

def itemsPorts : List Item :=
  [{ id := itemId 4 1 1, idx := 2, sub := 1, fmt := .num 0 3 1, dflt := none },
   { id := itemId 4 1 2, idx := 16, sub := 1, fmt := .num 0 2 1 },
   { id := itemId 4 1 3, idx := 16, sub := 1, fmt := .num 0 1 1, dflt := some [1] },
   { id := itemId 4 1 4, idx := 16, sub := 1, fmt := .num 0 1 1 },
   { id := itemId 4 1 5, idx := 2, sub := 16, fmt := .num 0 1 1 },
   { id := itemId 4 1 6, idx := 16, sub := 1, fmt := .num 1518 9216 1, dflt := some [9216] },
   { id := itemId 4 1 7, idx := 16, sub := 1, fmt := .num 0 (100 * ms) 1 },
   { id := itemId 4 1 8, idx := 2, sub := 1, fmt := .num 1 0xFFFFFFFF 1, dflt := some [1000000] },
   { id := itemId 4 2 1, idx := 16, sub := 1, fmt := .num 0 1 1 },
   { id := itemId 4 2 2, idx := 16, sub := 1, fmt := .num 0 2 1 },
   { id := itemId 4 2 3, idx := 16, sub := 64, fmt := .num 0 0xFFFFFFFF 1 },
   { id := itemId 4 2 4, idx := 16, sub := 1, fmt := .num 0x100000000 0xFFFFFFFF00000000 1, dflt := some [0xC000000000000000] }]

/-- Extension ranges are given as first word and word count (log 31). -/
def itemsParser : List Item :=
  [{ id := itemId 5 1 1, idx := 1, sub := 1, fmt := .num 16 255 1, dflt := some [40] },
   { id := itemId 5 1 2, idx := 1, sub := 1, fmt := .num 64 512 64, dflt := some [512] },
   { id := itemId 5 1 3, idx := 1, sub := 1, fmt := .num 1 16 1, dflt := some [16] },
   { id := itemId 5 1 4, idx := 1, sub := 1, fmt := .num 1 4 1, dflt := some [4] },
   { id := itemId 5 1 5, idx := 1, sub := 1, fmt := .num 1 65535 1, dflt := some [4789] },
   { id := itemId 5 1 6, idx := 1, sub := 1, fmt := .num 1 65535 1, dflt := some [6081] },
   { id := itemId 5 1 8, idx := 1, sub := 16, fmt := .num 0 4071 1 },
   { id := itemId 5 1 9, idx := 1, sub := 16, fmt := .zeroOr 0x4400 0x53FF },
   { id := itemId 5 1 10, idx := 1, sub := 256, fmt := .num 0 65535 1, dflt := none },
   { id := itemId 5 1 11, idx := 1, sub := 16, fmt := .nums [(0x4400, 0x53FF), (1, 4096)], dflt := none },
   { id := itemId 5 2 1, idx := 4096, sub := 1, fmt := .profile, dflt := none }]

def itemsTables : List Item :=
  [{ id := itemId 6 1 1, idx := 16, sub := 1, fmt := .num 0 2 1 },
   { id := itemId 6 1 2, idx := 16, sub := 1, fmt := .num 1 48 1, dflt := none },
   { id := itemId 6 1 3, idx := 16, sub := 1, fmt := .pow2 8 18 false, dflt := none },
   { id := itemId 6 1 4, idx := 16, sub := 1, fmt := .pow2 10 22 true },
   { id := itemId 6 1 5, idx := 16, sub := 1, fmt := .nums [(0, 0xFFFFFFFF), (0, 0xFFFFFFFF)], dflt := some [0, 1] },
   { id := itemId 6 1 6, idx := 16, sub := 1, fmt := .num 0 8 1, dflt := some [4] },
   { id := itemId 6 1 7, idx := 16, sub := 1, fmt := .num 0 1 1, dflt := some [1] },
   { id := itemId 6 1 8, idx := 16, sub := 1, fmt := .num ms second 1, dflt := some [64 * ms] },
   { id := itemId 6 1 9, idx := 16, sub := 1, fmt := .num 0 16383 1, dflt := some [4688] },
   { id := itemId 6 1 10, idx := 16, sub := 1, fmt := .num 0 1 1 },
   { id := itemId 6 1 11, idx := 16, sub := 1, fmt := .num 0 1 1 },
   { id := itemId 6 1 12, idx := 16, sub := 1, fmt := .num 0 (100 * ms) 1, dflt := some [ms] },
   { id := itemId 6 1 13, idx := 16, sub := 1, fmt := .num 0 1 1 },
   { id := itemId 6 1 14, idx := 16, sub := 1, fmt := .num 0 (2 ^ 64 - 1) 1 },
   { id := itemId 6 1 15, idx := 16, sub := 16, fmt := .num 0 8191 1 },
   { id := itemId 6 1 16, idx := 16, sub := 1, fmt := .num 0 0xFFFF 1, dflt := some [0xFFFF] }]

/-- A shaper that is off has no record. -/
def itemsTm : List Item :=
  [{ id := itemId 7 1 1, idx := 16, sub := 1, fmt := .nums [(0, 8191), (0, 8192)], dflt := none },
   { id := itemId 7 1 2, idx := 16, sub := 1, fmt := .signed (-64) 127, dflt := some [20] },
   { id := itemId 7 1 3, idx := 16, sub := 1, fmt := .num 32768 262144 1, dflt := some [65536] },
   { id := itemId 7 1 4, idx := 16, sub := 1, fmt := .nums [(1, 800000), (64, 16777215)], dflt := none },
   { id := itemId 7 1 5, idx := 8192, sub := 1, fmt := .num 1 255 1, dflt := some [1] },
   { id := itemId 7 1 6, idx := 8192, sub := 1, fmt := .nums [(1, 800000), (64, 16777215)], dflt := none },
   { id := itemId 7 1 7, idx := 8192, sub := 1, fmt := .num 0 4095 1 },
   { id := itemId 7 1 8, idx := 65536, sub := 1, fmt := .num 0 1 1, dflt := some [1] },
   { id := itemId 7 1 9, idx := 65536, sub := 1, fmt := .num 1 255 1, dflt := some [1] },
   { id := itemId 7 1 10, idx := 65536, sub := 1, fmt := .nums [(1, 800000), (64, 16777215)], dflt := none },
   { id := itemId 7 1 11, idx := 65536, sub := 1, fmt := .zeroOr 2048 16777216, dflt := some [262144] },
   { id := itemId 7 1 14, idx := 16, sub := 1, fmt := .bell, dflt := none },
   { id := itemId 7 1 15, idx := 32768, sub := 1, fmt := .policer, dflt := some [0, 0, 0, 0, 0, 0, 0] }]

def itemsEht : List Item :=
  [{ id := itemId 8 1 1, idx := 1, sub := 1, fmt := .num 1 65535 1, dflt := some [47075] },
   { id := itemId 8 1 2, idx := 1, sub := 1, fmt := .num ms (64 * ms) ms, dflt := some [4 * ms] },
   { id := itemId 8 1 3, idx := 1, sub := 1, fmt := .num 100000 (64 * ms) 1000, dflt := some [3750000] },
   { id := itemId 8 1 4, idx := 1, sub := 1, fmt := .num 10000 (10 * ms) 1, dflt := some [100000] },
   { id := itemId 8 1 5, idx := 1, sub := 1, fmt := .num 10000 (10 * ms) 1, dflt := some [50000] },
   { id := itemId 8 1 6, idx := 1, sub := 1, fmt := .num 10000 (10 * ms) 1, dflt := some [ms] },
   { id := itemId 8 1 7, idx := 1, sub := 1, fmt := .num 1024 65279 1, dflt := some [49152] },
   { id := itemId 8 1 8, idx := 1, sub := 1, fmt := .num 0 6 1, dflt := some [6] },
   { id := itemId 8 1 9, idx := 1, sub := 8, fmt := .num 0 63 1, dflt := none },
   { id := itemId 8 1 10, idx := 1, sub := 1, fmt := .num 1 4096 1, dflt := some [64] },
   { id := itemId 8 1 11, idx := 1, sub := 1, fmt := .num 10000 (10 * ms) 1, dflt := some [100000] },
   { id := itemId 8 1 12, idx := 1, sub := 1, fmt := .num 0 16384 1, dflt := some [1024] },
   { id := itemId 8 1 13, idx := 4096, sub := 1, fmt := .num 0 262144 1, dflt := some [4096] },
   { id := itemId 8 1 14, idx := 1, sub := 1, fmt := .num 0 4 1, dflt := some [2] },
   { id := itemId 8 1 15, idx := 1, sub := 1, fmt := .num 0 100 1, dflt := some [25] },
   { id := itemId 8 1 16, idx := 4096, sub := 1, fmt := .num 0 1 1 }]

def itemsSto : List Item :=
  [{ id := itemId 9 1 1, idx := 16384, sub := 1, fmt := .ident, dflt := none },
   { id := itemId 9 1 2, idx := 16384, sub := 16, fmt := .nums [(0, 15), (0, 0xFFFFFFFF), (0, 2 ^ 64 - 1), (1, 2 ^ 64 - 1)], dflt := none },
   { id := itemId 9 1 3, idx := 16384, sub := 1, fmt := .num 0 15 1, dflt := none },
   { id := itemId 9 1 4, idx := 16384, sub := 1, fmt := .num 0 1 1, dflt := some [1] },
   { id := itemId 9 1 5, idx := 16384, sub := 16, fmt := .nums [(0, 4095), (0, 1)], dflt := none },
   { id := itemId 9 2 1, idx := 16, sub := 1, fmt := .nums [(0, 15), (0, 0xFFFFFFFF), (0, 2 ^ 64 - 1), (64 * 2 ^ 20, 64 * 2 ^ 30)], dflt := none },
   { id := itemId 9 2 2, idx := 16, sub := 1, fmt := .drive, dflt := some [0, 0, 0] },
   { id := itemId 9 2 3, idx := 16, sub := 1, fmt := .num second (60 * second) 1, dflt := some [8 * second] },
   { id := itemId 9 2 4, idx := 16, sub := 1, fmt := .selfTest, dflt := some [86400 * second, 30 * 86400 * second, 100 * ms] },
   { id := itemId 9 2 5, idx := 1, sub := 1, fmt := .num 0 2 1 },
   { id := itemId 9 2 6, idx := 1, sub := 1, fmt := .num 0 (24 * 2 ^ 30) 1, dflt := some [8 * 2 ^ 30] },
   { id := itemId 9 2 7, idx := 4096, sub := 1, fmt := .nums [(1, 255), (1, 255), (1, 255), (1, 255), (0, 1)], dflt := some [1, 16, 4, 1, 0] }]

def itemsTf : List Item :=
  [{ id := itemId 0xA 1 1, idx := 4096, sub := 1, fmt := .num 0 16384 1, dflt := none },
   { id := itemId 0xA 1 2, idx := 4096, sub := 1, fmt := .nums [(0, 1048576), (0, 1048576)], dflt := some [0, 0] },
   { id := itemId 0xA 1 3, idx := 4096, sub := 1, fmt := .num 0 65536 1 },
   { id := itemId 0xA 1 4, idx := 4096, sub := 1, fmt := .num 0 64 1 },
   { id := itemId 0xA 1 5, idx := 4096, sub := 1, fmt := .num 0 1048576 1 },
   { id := itemId 0xA 1 6, idx := 4096, sub := 16, fmt := .num 0 17825792 1 },
   { id := itemId 0xA 1 7, idx := 4096, sub := 1, fmt := .num 0 (64 * 2 ^ 20) 65536 },
   { id := itemId 0xA 1 8, idx := 4096, sub := 1, fmt := .num 0 (24 * 2 ^ 30) 0x200000 },
   { id := itemId 0xA 1 9, idx := 4096, sub := 1, fmt := .num 0 1536 1 },
   { id := itemId 0xA 1 10, idx := 4096, sub := 1, fmt := .num 1 65536 1, dflt := some [4096] },
   { id := itemId 0xA 1 11, idx := 4096, sub := 1, fmt := .num 1 65536 1, dflt := some [4096] },
   { id := itemId 0xA 1 12, idx := 4096, sub := 64, fmt := .binding, dflt := none },
   { id := itemId 0xA 1 13, idx := 4096, sub := 1, fmt := .num 0 63 1, dflt := some [63] }]

def itemsIdo : List Item :=
  [{ id := itemId 0xB 1 1, idx := 12, sub := 1, fmt := .num 0 1 1, dflt := some [1] },
   { id := itemId 0xB 1 2, idx := 12, sub := 1, fmt := .pow2 10 24 false, dflt := some [65536] },
   { id := itemId 0xB 1 3, idx := 12, sub := 128, fmt := .thread, dflt := some [0, 0, 0, 0] },
   { id := itemId 0xB 1 4, idx := 12, sub := 1024, fmt := .endpoint, dflt := none },
   { id := itemId 0xB 1 5, idx := 12288, sub := 1, fmt := .pow2 6 14 true },
   { id := itemId 0xB 1 6, idx := 12288, sub := 1, fmt := .num 0 4095 1 }]

def itemsRest : List Item :=
  [{ id := itemId 0xE 1 1, idx := 1, sub := 1, fmt := .num 0 1 1, dflt := some [1] },
   { id := itemId 0xE 1 2, idx := 1, sub := 1, fmt := .num (600 * second) (86400 * second) (60 * second), dflt := some [600 * second] },
   { id := itemId 0xE 1 3, idx := 1, sub := 1, fmt := .num 1000 ms 1, dflt := some [10000] },
   { id := itemId 0xE 1 4, idx := 1, sub := 1, fmt := .num 1 50 1, dflt := some [25] },
   { id := itemId 0xE 1 5, idx := 5, sub := 1, fmt := .num 0 1 1, dflt := some [1] },
   { id := itemId 0xF 1 1, idx := 33, sub := 1, fmt := .num 0 1 1, dflt := none },
   { id := itemId 0xF 1 2, idx := 1, sub := 1, fmt := .num 0 11 1 },
   { id := itemId 0xF 1 3, idx := 1, sub := 1, fmt := .num 1 4096 1, dflt := some [1] },
   { id := itemId 0xF 1 4, idx := 1, sub := 1, fmt := .num 70 110 1, dflt := some [95] },
   { id := itemId 0xF 1 5, idx := 1, sub := 1, fmt := .num 0 999999999 1 },
   { id := itemId 0xF 1 6, idx := 1, sub := 1, fmt := .num 1000 (500 * ms) 1, dflt := some [100 * ms] },
   { id := itemId 0x10 1 1, idx := 1, sub := 1, fmt := .num (8 * 2 ^ 20) (54 * 2 ^ 20) (2 ^ 20), dflt := some [16 * 2 ^ 20] },
   { id := itemId 0x10 1 2, idx := 4096, sub := 1, fmt := .num 0 1024 1 },
   { id := itemId 0x10 1 3, idx := 4096, sub := 1, fmt := .num 0 12287 1, dflt := none },
   { id := itemId 0x10 1 4, idx := 4096, sub := 1, fmt := .num 64 65536 1, dflt := some [4096] }]

/-- Every item of every chapter. -/
def items : List Item :=
  itemsClerk ++ itemsPorts ++ itemsParser ++ itemsTables ++ itemsTm ++ itemsEht ++ itemsSto ++ itemsTf ++ itemsIdo ++ itemsRest

def itemOf (id : Nat) : Option Item := items.find? (fun i => i.id == id)

/-- Bytes of a value of a layout; none where the value itself says. -/
def Fmt.length : Fmt → Option Nat
  | .num .. | .zeroOr .. | .pow2 .. | .signed .. => some 8
  | .nums l => some (8 * l.length)
  | .peer => some 38
  | .policer => some 56
  | .selfTest => some 24
  | .drive => some 24
  | .ident => some 16
  | .profile => some 32
  | .binding => some 64
  | .thread => some 32
  | .endpoint => some 4
  | .bell => none

/-- The length of a value is right (R345). A Bell list that is not enabled is kept by no one (R138). -/
def Fmt.fits (f : Fmt) (v : Bytes) : Bool :=
  match f.length with
  | some n => v.length == n
  | none => (byteAt v 0 == 0) || v.length == 0x20 + 8 * leAt v 2 2

/-- INDEX and SUBINDEX name an object that the item has (R354). -/
def Item.placed (i : Item) (index sub : Nat) : Bool :=
  decide (index < i.idx) && decide (sub < i.sub)
    && (i.id != itemId 5 1 10 || (decide (128 ≤ sub) && sub % 16 != 15))
    && (i.id != itemId 5 2 1 || !((decide (4076 ≤ index) && decide (index ≤ 4080)) || decide (4089 ≤ index)))
    && ((i.id != itemId 7 1 8 && i.id != itemId 7 1 9) || index % 8 != 7)
    && (i.id != itemId 0xB 1 4 || sub % 64 != 63)
    && (i.id != itemId 0xE 1 5 || decide (1 ≤ index))
    && (i.id != itemId 2 1 5 || (blockAt (index * 0x1000)).isSome)

/-- The default of an item, where it has one. -/
def Item.default (s : State) (i : Item) (index sub : Nat) : Option Bytes :=
  if i.id = itemId 4 1 1 then some (encN ((if index = 0 then s.pins.straps.p0Mode else s.pins.straps.p1Mode).toNat))
  else if i.id = itemId 5 2 1 then some (profileDefault index)
  else if i.id = itemId 7 1 1 then some (encN (index * 512) ++ encN 512)
  else if i.id = itemId 8 1 9 then some (encN (if sub = 7 then 46 else 8 * sub))
  else if i.id = itemId 0xA 1 1 then some (encN (if index = 0 then 1 else 0))
  else if i.id = itemId 0xB 1 4 then some [0, 0, 0, 0]
  else if i.id = itemId 0xF 1 1 then some (encN (if index = 12 ∨ index = 13 then 0 else 1))
  else i.dflt.map (fun l => l.flatMap encN)

/-! ### Ranges -/

def numsOk : List (Nat × Nat) → Bytes → Bool
  | [], _ => true
  | (lo, hi) :: r, b => decide (lo ≤ leAt b 0 8) && decide (leAt b 0 8 ≤ hi) && numsOk r (b.drop 8)

/-- The entries of a Bell list, from byte `o`. -/
def bellEntriesOk (v : Bytes) : Nat → Nat → Bool
  | 0, _ => true
  | n + 1, o => decide (1 ≤ leAt v o 4) && decide (leAt v o 4 ≤ 1000000000) && zeroAt v (o + 5) 3 && bellEntriesOk v n (o + 8)

/-- A Bell list that is enabled (R138). -/
def bellOk (v : Bytes) : Bool :=
  leAt v 0 1 == 1 && leAt v 1 1 == 0 && decide (1 ≤ leAt v 2 2) && decide (leAt v 2 2 ≤ 1024)
    && decide (1000 ≤ leAt v 4 4) && decide (leAt v 4 4 ≤ 1000000000) && decide (leAt v 8 4 ≤ 999999999) && zeroAt v 0x12 14
    && v.length == 0x20 + 8 * leAt v 2 2 && bellEntriesOk v (leAt v 2 2) 0x20

/-- A policer: mode, CIR, CBS, PIR, PBS, yellow action, yellow class (R137). -/
def policerOk (v : Bytes) : Bool :=
  let n (k : Nat) := leAt v (8 * k) 8
  let rate (k : Nat) : Bool := decide (1 ≤ n k) && decide (n k ≤ 800000)
  let burst (k : Nat) : Bool := decide (64 ≤ n k) && decide (n k ≤ 16777215)
  decide (n 0 ≤ 2) && (n 0 == 0 || (rate 1 && burst 2)) && (n 0 != 2 || (rate 3 && burst 4)) && decide (n 5 ≤ 1) && decide (n 6 ≤ 7)

/-- A profile (R94), the lookup rules apart. -/
def profileOk (v : Bytes) : Bool :=
  decide (leAt v 0 1 ≤ 3) && decide (leAt v 1 1 ≤ 2) && decide (leAt v 2 1 ≤ 7) && decide (leAt v 3 1 ≤ 2) && decide (leAt v 4 2 ≤ 4095)
    && (decide (leAt v 0x10 2 ≤ 12287) || leAt v 0x10 2 == 0xFFFF) && zeroAt v 0x12 14
    && (decide (leAt v 6 1 ≤ 15) || leAt v 6 1 == 0xFF) && (decide (leAt v 9 1 ≤ 15) || leAt v 9 1 == 0xFF)

/-- A binding (R229). -/
def bindingFieldsOk (v : Bytes) : Bool :=
  let f := leAt v 1 1
  decide (leAt v 0 1 ≤ 15) && decide (f < 16)
    && (if f.testBit 0 then leAt v 2 2 == 0 else decide (1 ≤ leAt v 2 2) && decide (leAt v 2 2 ≤ 4094))
    && decide (leAt v 0xA 1 ≤ 32) && decide (leAt v 0xB 1 ≤ 128) && decide (leAt v 0x20 4 + leAt v 0x24 4 ≤ 0x100000000) && zeroAt v 0x2A 22

/-- The value of a record lies in its item's range. -/
def Fmt.ok (f : Fmt) (v : Bytes) : Bool :=
  let n := leAt v 0 8
  match f with
  | .num lo hi step => decide (lo ≤ n) && decide (n ≤ hi) && (n - lo) % step == 0
  | .zeroOr lo hi => n == 0 || (decide (lo ≤ n) && decide (n ≤ hi))
  | .pow2 lo hi zero => (zero && n == 0) || (List.range (hi - lo + 1)).any (fun k => n == 2 ^ (lo + k))
  | .signed lo hi => decide (lo ≤ toSigned n) && decide (toSigned n ≤ hi)
  | .nums l => numsOk l v
  | .peer => decide (leAt v 16 8 < 0x100000000) && decide (leAt v 24 8 < 16)
  | .policer => policerOk v
  | .selfTest =>
    let iv (k : Nat) : Bool := leAt v (8 * k) 8 == 0 || (decide (3600 * second ≤ leAt v (8 * k) 8) && decide (leAt v (8 * k) 8 ≤ 90 * 86400 * second))
    iv 0 && iv 1 && decide (10 * ms ≤ leAt v 16 8) && decide (leAt v 16 8 ≤ 10 * second)
  | .drive => decide (leAt v 8 8 ≤ 1) && [0, 2500, 5000, 8000, 16000, 32000, 64000].contains (leAt v 16 8)
  | .ident => true
  | .profile => profileOk v
  | .binding => bindingFieldsOk v
  | .thread => decide (leAt v 0 1 < 8) && leAt v 1 1 == 0 && decide (leAt v 2 2 < 4096) && zeroAt v 4 4 && zeroAt v 0x18 8
  | .endpoint => decide (leAt v 0 1 ≤ 2) && decide (leAt v 1 1 ≤ 7) && decide (leAt v 2 2 < 0x4000)
  | .bell => bellOk v

/-- Detail code of a value out of its range (R144, R150). -/
def rangeDetail (id : Nat) : Nat :=
  if id = itemId 7 1 1 then 0x0401
  else if id = itemId 7 1 4 ∨ id = itemId 7 1 6 ∨ id = itemId 7 1 10 ∨ id = itemId 7 1 15 then 0x0403
  else if id = itemId 7 1 14 then 0x0404
  else if id / 2 ^ 24 = 8 then 0x0701
  else 0

/-- A notification target is a channel or 0xFFFF (R97); senders end at the last EID (R343). -/
def extraOk (id : Nat) (v : Bytes) : Bool :=
  (id != itemId 6 1 16 || decide (leAt v 0 8 ≤ 12287) || leAt v 0 8 == 0xFFFF)
    && (id != itemId 2 1 2 || decide (leAt v 0 8 + leAt v 8 8 ≤ 0x100000000))

end Sys2Proof.Machine
end

