-- ==== Sys2Proof/Machine/StoCmds.lean ====
section
/-! DEFINITION. Mailbox commands of storage (R219): drive status, self-tests, drive firmware, namespaces. -/

namespace Sys2Proof.Machine

/-- A state of a drive as DRV_STATE shows it (R220). -/
def DrvState.code : DrvState → Nat
  | .absent => 0
  | .init => 1
  | .online => 2
  | .resetting => 3
  | .failed => 4

/-- Link rates of a root port in Mbit/s per lane, up to its rate cap (R212). -/
def linkRates (s : State) (rp : Nat) : Nat :=
  let cap := s.cfgPart (itemId 9 2 2) rp 0 2 0
  ([2500, 5000, 8000, 16000, 32000, 64000].filter (fun r => decide (cap = 0 ∨ r ≤ cap))).length

/-- STO_DRIVE_STATUS: state, link rate (1 to 6, 2.5 to 64 GT/s) and width, last self-test result, then the drive's identity and SMART
summary. The negotiated rate is free up to the cap, and the width among the port's own and those it trains down to (R211, R212; log 5,
log 11); both are 0 without a link. -/
def driveStatusCmd (s : State) (r : Req) : Res :=
  if !bodyIs r 8 then fails s mbxInvalid
  else if rootPorts s ≤ num r 0 then failsAt s mbxInvalid 1
  else
    let d := s.drive (num r 0)
    let rate := s.draw (linkRates s (num r 0))
    let width := rate.2.draw (Nat.log2 (driveLanes s) + 1)
    let smart := width.2.draw (2 ^ 64)
    let up (n : Nat) : Nat := if d.st = .absent then 0 else n
    gives smart.2 (encNs [d.st.code, up (rate.1 + 1), up (2 ^ width.1), d.lastResult]
      ++ Config.driveIdentity d.serial ++ Config.driveSmart d.serial smart.1)

def execStoDriveStatus (t : Nat) (r : Req) (s : State) := serve t r 0x0903 driveStatusCmd s

/-- STO_SELFTEST: root port, kind (0 short, 1 extended). -/
def selftestCmd (s : State) (r : Req) : Res :=
  if !bodyIs r 16 then fails s mbxInvalid
  else if rootPorts s ≤ num r 0 then failsAt s mbxInvalid 1
  else if 2 ≤ num r 1 then failsAt s mbxInvalid 2
  else if (s.drive (num r 0)).st ≠ .online then fails s mbxState
  else if (s.drive (num r 0)).test.isSome then fails s mbxBusy
  else done (startTest s (num r 0) (num r 1 == 1))

def execStoSelftest (t : Nat) (r : Req) (s : State) := serve t r 0x0904 selftestCmd s

/-- Tenant functions attached to a namespace. -/
def nsTfs (s : State) (v : Nat) : List Nat :=
  (List.range 16).filterMap (fun i => (s.cfgRec? (itemId 9 1 5) v i).map (fun b => leAt b 0 8))

/-- A queue of a tenant function attached to a namespace with an extent on the drive is not DISABLED. -/
def driveInUse (s : State) (rp : Nat) : Bool :=
  (nsOn s rp).any (fun v => (nsTfs s v).any (fun tf => (tfQueues s tf).any (fun q => q.2.st != .disabled)))

/-- STO_DRIVE_FW: root port, then the image, which the drive judges (R219; a drive that is not ONLINE can take none, log 25). -/
def driveFwCmd (s : State) (r : Req) : Res :=
  if r.body.length ≤ 8 then fails s mbxInvalid
  else if rootPorts s ≤ num r 0 then failsAt s mbxInvalid 1
  else if (s.drive (num r 0)).fw then fails s mbxBusy
  else if (s.drive (num r 0)).st ≠ .online ∨ driveInUse s (num r 0) then fails s mbxState
  else done (s.onDrive (num r 0) (fun d => { d with fw := true }))

def execStoDriveFw (t : Nat) (r : Req) (s : State) := serve t r 0x0905 driveFwCmd s

/-- A journal put in use anew under a fresh nonce: its live records are lost (R219). Its first sequence number is a
free value (log 5). -/
def freshJournal (s : State) (j : Nat) : State :=
  let n := s.drawBytes 16
  let q := n.2.draw (2 ^ 64)
  checkpoint (q.2.onJournal j (fun x => { x with usable := true, replay := false, nonce := n.1, next := q.1, wptr := 0, used := 0, scan := none, recs := [], ckCount := 0 })) j

/-- STO_NS_ONLINE: every drive of the namespace and of its journal is ONLINE. A journal that is being replayed is not unusable: the
command leaves it (log 20). -/
def nsOnlineCmd (s : State) (r : Req) : Res :=
  let v := num r 0
  let drives := (nsExtents s v).map Extent.rp ++ ((nsJournal s v).bind (journalCfg s)).toList.map Extent.rp
  if !bodyIs r 8 then fails s mbxInvalid
  else if (nsExtents s v).isEmpty then failsAt s mbxInvalid 1
  else if drives.any (fun rp => (s.drive rp).st != .online) then fails s mbxState
  else match nsJournal s v with
    | some j => if (s.journal j).usable || (s.journal j).replay then done s else done (freshJournal s j)
    | none => done s

def execStoNsOnline (t : Nat) (r : Req) (s : State) := serve t r 0x0906 nsOnlineCmd s

end Sys2Proof.Machine
end

