-- ==== Sys2Proof/Machine/Migrate.lean ====
section
/-! DEFINITION. Migration of a tenant function (R236 to R244): the blob, its writing and its reading, thaw, moved
records and grace. The layout of a record inside a section is the model's (log 29). -/

namespace Sys2Proof.Machine

open Crypto

/-! ### Allocations -/

/-- Market (0) or HBM (1) allocation of a tenant function: base and length. -/
def allocOf (s : State) (tf kind : Nat) : Nat × Nat :=
  let share (r : Nat × Nat) : Nat × Nat := (r.1, r.2 - r.1)
  match kind with
  | 0 => if tf = 0 then share (marketShare s) else (s.tf tf).mkt
  | 1 => if tf = 0 then share (hbmShare s) else (s.tf tf).hbm
  | _ => (0, 0)

/-- Kind of a region's target: 0 Market, 1 HBM, 2 other (R240). -/
def targetKind (s : State) (d : Region) : Nat :=
  if tfMarket s d.tf d.target d.len then 0 else if tfHbm s d.tf d.target d.len then 1 else 2

/-! ### Writing the body (R240) -/

def sectionOf (typ : Nat) (recs : List Bytes) : Bytes :=
  if recs.isEmpty then []
  else
    let b := recs.flatten
    leBytes 4 typ ++ leBytes 4 recs.length ++ leBytes 8 b.length ++ b

/-- A string with its length before it. -/
def lenBytes (b : Bytes) : Bytes := encN b.length ++ b
def countBytes {α : Type} (l : List α) (f : α → Bytes) : Bytes := encN l.length ++ l.flatMap f

def ownEndpoints (s : State) (tf : Nat) : Tab Endpoint := s.eht.eps.filter (fun p => p.2.tf == tf && (p.2.channel.isSome || p.2.sq.isSome))

def epRecord (p : Nat × Endpoint) : Bytes :=
  let own := match p.2.channel, p.2.sq with
    | some c, _ => [0, c]
    | none, some q => [1, q]
    | none, none => [2, 0]
  encNs ([p.1, p.2.gen] ++ own ++ [p.2.ringKey, p.2.slotSize, p.2.slotCount, p.2.counter]) ++ countBytes p.2.slotsUsed encN

def tfRegions (s : State) (tf : Nat) : Tab Region := s.eht.regions.filter (fun p => p.2.tf == tf && p.2.state != 0)

/-- Index, allocation kind, then the descriptor with the offset in TARGET. -/
def regionRecord (s : State) (p : Nat × Region) : Bytes :=
  let k := targetKind s p.2
  encNs [p.1, k] ++ { p.2 with target := p.2.target - (allocOf s p.2.tf k).1 }.bytes

/-- The 24-byte entry (R166), then its endpoint's index, with FLAGS.EXPRESS in bit 32. -/
def dedupRecord (eids : List Nat) (d : Dedup) : Bytes :=
  leBytes 8 d.key.msgId.toNat ++ leBytes 4 d.key.srcEid.toNat ++ leBytes 2 d.key.srcGen.toNat ++ leBytes 1 (d.status.getD 255)
    ++ leBytes 1 d.epoch ++ leBytes 8 d.result ++ encN (eids.idxOf d.dst + if d.express then 2 ^ 32 else 0)

/-- The 64-byte header of a context, its bitmap, its age in µs. -/
def ctxRecord (s : State) (c : Ctx) : Bytes :=
  padTo 64 (leBytes 4 c.key.srcEid.toNat ++ leBytes 2 c.key.srcGen.toNat ++ leBytes 1 c.op ++ leBytes 1 c.seg ++ leBytes 8 c.key.msgId.toNat
    ++ leBytes 4 c.dst ++ leBytes 4 c.rkey ++ leBytes 8 c.addr ++ leBytes 4 (c.total.getD 0) ++ leBytes 4 c.count
    ++ leBytes 4 (c.slot.getD 0) ++ leBytes 4 c.maxIdx
    ++ leBytes 1 ((if c.express then 1 else 0) + (if c.total.isSome then 2 else 0) + (if c.slot.isSome then 4 else 0)))
  ++ leBytes 512 (c.bitmap.foldl (fun n i => n ||| 2 ^ i) 0) ++ encN (((s.tf (tget s.eht.eps c.dst default).tf).frozenAt - c.made) / 1000)

def bookRecord (p : Nat × Book) : Bytes :=
  encNs [p.1, p.2.eid] ++ beBytes 16 p.2.ip ++ encNs [p.2.gen, p.2.qset] ++ beBytes 6 p.2.mac
    ++ encNs [p.2.paths, p.2.seg, if p.2.follow then 1 else 0]

def logRecord (e : LogEnt) : Bytes :=
  encNs [e.seq, e.cmdId, e.op, e.flags, e.status, e.nvme, e.rp, e.vns, e.blocks, e.lba, e.info] ++ leBytes 10 e.at_

def cmdRecord (c : StoCmd) : Bytes :=
  encNs [c.no, c.slot, c.op, c.flags, c.cmdId, c.vns, c.lba, c.blocks, c.key, c.addr, c.arg] ++ lenBytes c.data

/-- A storage queue: its items, state, log, captured commands in order with inline data, submissions in their slots,
and the parts of messages in reassembly in its ring. -/
def sqRecord (s : State) (p : Nat × StoQueue) : Bytes :=
  let q := p.2
  let part (c : Ctx) : Bytes := leBytes 4 c.key.srcEid.toNat ++ leBytes 4 c.key.srcGen.toNat ++ leBytes 8 c.key.msgId.toNat
    ++ countBytes c.parts (fun x => encN x.1 ++ lenBytes x.2)
  encNs [p.1 % 64, q.eid, q.depth, q.cls, q.book, if q.inline then 1 else 0, q.coCount, q.coTime, q.st.code, q.logSeq, q.nextNo]
    ++ countBytes q.log logRecord ++ countBytes q.cmds cmdRecord ++ countBytes q.inbox (fun x => encN x.1 ++ lenBytes x.2)
    ++ countBytes (s.eht.ctxs.filter (fun c => c.dst == q.eid)) part

/-- Namespaces attached to a tenant function: identifier and rights. -/
def nsRecords (s : State) (tf : Nat) : List Bytes :=
  (s.cfg.recs.filter (fun r => keyItem r.1 == itemId 9 1 1)).filterMap (fun r =>
    (nsAttach s (keyIndex r.1) tf).map (fun rw => padTo 16 r.2 ++ encN (if rw then 1 else 0)))

/-- The memory that a VALID Market or HBM region covers. -/
def memRecord (s : State) (p : Nat × Region) : Option Bytes :=
  let k := targetKind s p.2
  if p.2.state = 1 ∧ k < 2 then
    some (encNs [k, p.2.target - (allocOf s p.2.tf k).1, p.2.len] ++ s.peek p.2.target p.2.len)
  else none

/-- The sections of a body in TYPE order, an empty one left out. -/
def blobSections (s : State) (tf : Nat) : List Bytes :=
  let eps := ownEndpoints s tf
  let eids := eps.map Prod.fst
  [sectionOf 1 ((tfUse s tf).map encN),
   sectionOf 2 (eps.map epRecord),
   sectionOf 3 ((tfRegions s tf).map (regionRecord s)),
   sectionOf 4 ((s.eht.dedup.filter (fun d => eids.contains d.dst)).map (dedupRecord eids)),
   sectionOf 5 ((s.eht.ctxs.filter (fun c => eids.contains c.dst)).map (ctxRecord s)),
   sectionOf 6 ((s.eht.book.filter (fun p => p.2.tf == tf)).map bookRecord),
   sectionOf 7 ((tfQueues s tf).map (sqRecord s)),
   sectionOf 8 (nsRecords s tf),
   sectionOf 9 ((tfRegions s tf).filterMap (memRecord s))].filter (fun b => !b.isEmpty)

def blobMagic : Nat := 0x424D4654

/-- The blob (R239) under a key, with its digest. -/
def makeBlob (s : State) (tf : Nat) (k : KeySlot) (iv : Bytes) : Bytes × Bytes :=
  let secs := blobSections s tf
  let body := secs.flatten
  let h := leBytes 4 blobMagic ++ leBytes 2 1 ++ leBytes 2 0 ++ beBytes 8 s.fuses.serial.toNat ++ leBytes 2 tf ++ leBytes 2 0
    ++ leBytes 4 secs.length ++ leBytes 10 (time80 s.ns) ++ List.replicate 6 0 ++ leBytes 8 body.length ++ padTo 32 k.id ++ iv
    ++ List.replicate 4 0
  let d := shake256 (h ++ body)
  let e := gcmEncrypt k.key iv h body
  (h ++ e.2 ++ List.replicate 16 0 ++ d ++ e.1, d)

/-! ### TF_SAVE (R238) -/

/-- The migration key of a slot (R306): the refusal, or the key. -/
def migrateKey (s : State) (n : Nat) : Option KeySlot :=
  if (s.keySlot n).typ = 1 ∧ (s.keySlot n).may useMigrate then some (s.keySlot n) else none

/-- Bytes of the largest message of a segment size (R154). -/
def maxMessage (seg : Nat) : Nat := 4096 * (1024 * 2 ^ seg)

/-- Messages of TF0 over a string, in pieces of the largest message. -/
def sendPieces (s : State) (b : Nat) (e : Book) (key addr : Nat) (owner : MsgOwner) : Nat → Bytes → Nat → State
  | 0, _, _ => s
  | n + 1, bytes, off =>
    let s := (submit s (bookMsg s (mailboxEid s) b e 2 key (addr + off) (bytes.take (maxMessage e.seg)) false owner)).1
    sendPieces s b e key addr owner n (bytes.drop (maxMessage e.seg)) (off + maxMessage e.seg)

/-- Pieces of a length, at least one. -/
def pieces (len m : Nat) : Nat := max 1 ((len + m - 1) / m)

/-- TF_SAVE: TF, key slot, TF0 book entry, region key, address, length. -/
def tfSaveCmd (s : State) (r : Req) : Res :=
  let tf := num r 0
  if !bodyIs r 48 then fails s mbxInvalid
  else if !tfExists s tf then failsAt s mbxInvalid 1
  else if !slotNameable (num r 1) then failsAt s mbxInvalid 2
  else match bookOf s (num r 2) 0 with
    | none => failsAt s mbxInvalid 3
    | some e =>
      if 2 ^ 32 ≤ num r 3 then failsAt s mbxInvalid 4
      else if (s.tf tf).st ≠ .frozen then fails s mbxState
      else match migrateKey s (num r 1) with
        | none => denies s
        | some k =>
          let iv := s.drawBytes 12
          let s := noteUse iv.2 (num r 1)
          let blob := makeBlob s tf k iv.1
          let fits := decide (blob.1.length ≤ num r 5)
          let n := if fits then pieces blob.1.length (maxMessage e.seg) else 0
          let op : SaveOp := { slot := num r 1, left := n, len := blob.1.length, digest := blob.2, nospace := !fits }
          let s := s.onTf tf (fun x => { x with st := .saving, save := some op })
          done (sendPieces s (num r 2) e (num r 3) (num r 4) (.save tf) n blob.1 0)

def execTfSave (t : Nat) (r : Req) (s : State) := serve t r 0x0A05 tfSaveCmd s

/-- Live journal records of the namespaces attached to a tenant function, those that no drive has taken home among them (R218). -/
def nsRecordsLive (s : State) (tf : Nat) : Bool := tfRecords s tf != 0

/-- TF_SAVED: every WRITE has ended: the save event, with length, digest and status (log 26). -/
def tfSavedEnd (s : State) (tf : Nat) : State :=
  match (s.tf tf).save with
  | none => s
  | some o =>
    if (s.tf tf).st ≠ .saving ∨ o.left ≠ 0 ∨ nsRecordsLive s tf then s
    else
      let status := if o.nospace then mbxNospace else o.bad.getD 0
      let s := s.onTf tf (fun x => { x with st := if status = 0 then .saved else .frozen, save := none })
      raise s 0x0A01 tf (if status = 0 then encN o.len ++ padTo 32 o.digest ++ encN 0 else encN 0 ++ List.replicate 32 0 ++ encN status)

def execTfSaved (t : Nat) (tf : BitVec 12) (s : State) := act t s (fun s => tfSavedEnd s tf.toNat)

/-! ### Reading the body -/

/-- A reader over bytes. -/
abbrev Rd := StateT Bytes Option

def rdBytes (n : Nat) : Rd Bytes := fun b => if b.length < n then none else some (b.take n, b.drop n)
def rdLe (n : Nat) : Rd Nat := do return ofLe (← rdBytes n)
def rdN : Rd Nat := rdLe 8
def rdBe (n : Nat) : Rd Nat := do return ofBe (← rdBytes n)

/-- `n` items. -/
def rdMany {α : Type} (f : Rd α) : Nat → Rd (List α)
  | 0 => pure []
  | n + 1 => do
    let x ← f
    let xs ← rdMany f n
    return x :: xs

/-- Items behind their count, which the bytes left bound. -/
def rdCount {α : Type} (f : Rd α) : Rd (List α) := fun b =>
  match rdN b with
  | some (n, b') => if b'.length < n then none else rdMany f n b'
  | none => none

def rdLenBytes : Rd Bytes := do rdBytes (← rdN)

/-- A whole string read by a reader. -/
def rdAll {α : Type} (f : Rd α) (b : Bytes) : Option α :=
  match f b with
  | some (x, []) => some x
  | _ => none

def rdEp : Rd (Nat × Endpoint) := do
  let eid ← rdN
  let gen ← rdN
  let kind ← rdN
  let ref ← rdN
  let ringKey ← rdN
  let slotSize ← rdN
  let slotCount ← rdN
  let counter ← rdN
  let used ← rdCount rdN
  return (eid, { gen := gen, tf := 0, channel := if kind = 0 then some ref else none, sq := if kind = 0 then none else some ref
                 ringKey := ringKey, slotSize := slotSize, slotCount := slotCount, slotsUsed := used, counter := counter })

def rdRegion : Rd (Nat × Nat × Region) := do
  let idx ← rdN
  let kind ← rdN
  let b ← rdBytes 64
  return (idx, kind, { base := leAt b 0 8, len := leAt b 8 8, target := leAt b 16 8, gen := leAt b 0x18 2, tf := leAt b 0x1A 2
                       rights := leAt b 0x1C 1, state := leAt b 0x1D 1, flags := leAt b 0x1E 2, filter := leAt b 0x20 4
                       channel := leAt b 0x24 4 })

def rdDedup (eids : List Nat) : Rd Dedup := do
  let id ← rdLe 8
  let eid ← rdLe 4
  let gen ← rdLe 2
  let st ← rdLe 1
  let epoch ← rdLe 1
  let result ← rdLe 8
  let x ← rdN
  return { key := { srcEid := BitVec.ofNat 32 eid, srcGen := BitVec.ofNat 16 gen, msgId := BitVec.ofNat 64 id }, express := x.testBit 32
           dst := eids.getD (x % 2 ^ 32) 0, status := if st = 255 then none else some st, result := result, epoch := epoch }

def rdCtx : Rd Ctx := do
  let h ← rdBytes 64
  let bm ← rdLe 512
  let _ ← rdN
  let fl := leAt h 48 1
  return { key := { srcEid := BitVec.ofNat 32 (leAt h 0 4), srcGen := BitVec.ofNat 16 (leAt h 4 2), msgId := BitVec.ofNat 64 (leAt h 8 8) }
           express := fl.testBit 0, dst := leAt h 16 4, op := leAt h 6 1, seg := leAt h 7 1, rkey := leAt h 20 4, addr := leAt h 24 8
           total := if fl.testBit 1 then some (leAt h 32 4) else none, count := leAt h 36 4
           bitmap := (List.range 4096).filter (fun i => bm.testBit i), made := 0
           slot := if fl.testBit 2 then some (leAt h 40 4) else none, parts := [], maxIdx := leAt h 44 4, lp := 0, ip := 0, mac := 0 }

def rdBook : Rd (Nat × Book) := do
  let i ← rdN
  let eid ← rdN
  let ip ← rdBe 16
  let gen ← rdN
  let qset ← rdN
  let mac ← rdBe 6
  let paths ← rdN
  let seg ← rdN
  let follow ← rdN
  return (i, { eid := eid, ip := ip, gen := gen, qset := qset, mac := mac, paths := paths, seg := seg, follow := follow == 1, tf := 0 })

def rdLog : Rd LogEnt := do
  let l ← rdMany rdN 11
  let at_ ← rdLe 10
  let g (i : Nat) : Nat := l.getD i 0
  return { seq := g 0, cmdId := g 1, op := g 2, flags := g 3, status := g 4, nvme := g 5, rp := g 6, vns := g 7, blocks := g 8, lba := g 9
           info := g 10, at_ := at_ }

def rdCmd : Rd StoCmd := do
  let l ← rdMany rdN 11
  let d ← rdLenBytes
  let g (i : Nat) : Nat := l.getD i 0
  return { no := g 0, slot := g 1, op := g 2, flags := g 3, cmdId := g 4, vns := g 5, lba := g 6, blocks := g 7, key := g 8, addr := g 9
           arg := g 10, data := d }

def rdSlot : Rd (Nat × Bytes) := do
  let n ← rdN
  let b ← rdLenBytes
  return (n, b)

def rdPart : Rd (MsgKey × Tab Bytes) := do
  let eid ← rdLe 4
  let gen ← rdLe 4
  let id ← rdLe 8
  let ps ← rdCount rdSlot
  return ({ srcEid := BitVec.ofNat 32 eid, srcGen := BitVec.ofNat 16 gen, msgId := BitVec.ofNat 64 id }, ps)

def sqStateOf (n : Nat) : SqState := if n = 0 then .active else if n = 1 then .error else if n = 2 then .quiescing else .disabled

def rdSq : Rd (Nat × StoQueue × List (MsgKey × Tab Bytes)) := do
  let l ← rdMany rdN 11
  let log ← rdCount rdLog
  let cmds ← rdCount rdCmd
  let inbox ← rdCount rdSlot
  let parts ← rdCount rdPart
  let g (i : Nat) : Nat := l.getD i 0
  return (g 0, { eid := g 1, depth := g 2, cls := g 3, book := g 4, inline := g 5 == 1, coCount := g 6, coTime := g 7, st := sqStateOf (g 8)
                 logSeq := g 9, nextNo := g 10, log := log, cmds := cmds, inbox := inbox }, parts)

def rdNs : Rd (Bytes × Nat) := do
  let i ← rdBytes 16
  let r ← rdN
  return (i, r)

def rdMem : Rd (Nat × Nat × Bytes) := do
  let k ← rdN
  let off ← rdN
  let d ← rdLenBytes
  return (k, off, d)

/-- What a body holds. -/
structure Blob where
  use : List Nat := []
  eps : Tab Endpoint := []
  regs : List (Nat × Nat × Region) := []
  dedup : List Dedup := []
  ctxs : List Ctx := []
  book : Tab Book := []
  sqs : List (Nat × StoQueue × List (MsgKey × Tab Bytes)) := []
  ns : List (Bytes × Nat) := []
  mem : List (Nat × Nat × Bytes) := []

/-- One section taken into the blob. -/
def takeSection (b : Blob) (typ n : Nat) (d : Bytes) : Option Blob :=
  if d.length < n then none
  else match typ with
    | 1 => (rdAll (rdMany rdN n) d).map (fun x => { b with use := x })
    | 2 => (rdAll (rdMany rdEp n) d).map (fun x => { b with eps := x })
    | 3 => (rdAll (rdMany rdRegion n) d).map (fun x => { b with regs := x })
    | 4 => (rdAll (rdMany (rdDedup (b.eps.map Prod.fst)) n) d).map (fun x => { b with dedup := x })
    | 5 => (rdAll (rdMany rdCtx n) d).map (fun x => { b with ctxs := x })
    | 6 => (rdAll (rdMany rdBook n) d).map (fun x => { b with book := x })
    | 7 => (rdAll (rdMany rdSq n) d).map (fun x => { b with sqs := x })
    | 8 => (rdAll (rdMany rdNs n) d).map (fun x => { b with ns := x })
    | 9 => (rdAll (rdMany rdMem n) d).map (fun x => { b with mem := x })
    | _ => none

/-- The sections of a body. -/
def rdSections : Nat → Blob → Rd Blob
  | 0, b => pure b
  | n + 1, b => do
    let typ ← rdLe 4
    let cnt ← rdLe 4
    let d ← rdLenBytes
    match takeSection b typ cnt d with
    | some b' => rdSections n b'
    | none => failure

/-! ### TF_RESTORE (R241, R242) -/

/-- Steps 1 to 3 of R241: the blob opened, or the status of the failure. -/
def openBlob (s : State) (slot : Nat) (b : Bytes) : Blob ⊕ Nat :=
  let k := s.keySlot slot
  if b.length < 160 ∨ leAt b 0 4 ≠ blobMagic ∨ leAt b 4 2 ≠ 1 ∨ leAt b 6 2 ≠ 0 ∨ !zeroAt b 0x12 2 ∨ !zeroAt b 0x22 6 ∨ !zeroAt b 0x5C 4
      ∨ !zeroAt b 0x70 16 ∨ b.length < 160 + leAt b 0x28 8 then .inr mbxInvalid
  else
    let body := (b.drop 160).take (leAt b 0x28 8)
    if slice b 0x30 32 ≠ padTo 32 k.id then .inr mbxVerify
    else match gcmDecrypt k.key (slice b 0x50 12) (b.take 0x60) body (slice b 0x60 16) with
      | none => .inr mbxVerify
      | some p =>
        if shake256 (b.take 0x60 ++ p) ≠ slice b 0x80 32 then .inr mbxVerify
        else match rdAll (rdSections (leAt b 0x14 4) {}) p with
          | some x => .inl x
          | none => .inr mbxInvalid

/-- A namespace with the identifier stands, attached to the tenant function with the same rights. -/
def nsMatches (s : State) (tf : Nat) (x : Bytes × Nat) : Bool :=
  s.cfg.recs.any (fun r => keyItem r.1 == itemId 9 1 1 && padTo 16 r.2 == x.1 && nsAttach s (keyIndex r.1) tf == some (x.2 == 1))

/-- Steps 4 to 7: the status of the first failure. -/
def blobFails (s : State) (tf : Nat) (b : Blob) : Option Nat :=
  let rr := regionRange s tf
  if (b.use.zip (tfQuotas s tf)).any (fun x => decide (x.2 < x.1))
      || b.regs.any (fun x => decide (x.2.1 < 2) && decide ((allocOf s tf x.2.1).2 < x.2.2.target + x.2.2.len))
      || b.mem.any (fun x => decide ((allocOf s tf x.1).2 < x.2.1 + x.2.2.length)) then some mbxNospace
  else if b.eps.any (fun p => eidTaken s p.1) then some mbxState
  else if b.regs.any (fun x => !(decide (rr.1 ≤ x.1) && decide (x.1 < rr.1 + rr.2))) then some mbxInvalid
  else if b.ns.any (fun x => !nsMatches s tf x) then some mbxState
  else none

/-- A carried region placed (R242): its descriptor at the destination. -/
def carriedRegion (s : State) (tf : Nat) (x : Nat × Nat × Region) : Region :=
  let d := x.2.2
  let own := (tget s.eht.regions x.1 default).gen
  let g := if serialLater 12 own d.gen then own else d.gen
  let gone := x.2.1 = 2 ∨ d.state = 2
  { d with tf := tf, gen := if gone then (g + 1) % 4096 else g, state := if gone then 2 else 1
           target := if x.2.1 = 2 then 0 else (allocOf s tf x.2.1).1 + d.target }

/-- The key map's entry of a region whose key changed: old key, new key, state. -/
def keyMapEntry (x : Nat × Nat × Region) (d : Region) : Option Bytes :=
  if d.gen = x.2.2.gen then none else some (encNs [x.1 * 4096 + x.2.2.gen, x.1 * 4096 + d.gen, d.state])

/-- A free endpoint slot whose generation differs from `g` (R241). -/
def slotBeside (s : State) (g : Nat) : Option Nat :=
  (List.range 16384).find? (fun n => !s.eht.eps.any (fun p => p.2.slotNo == n) && tget s.eht.epGens n 0 != g)

/-- A carried endpoint placed under its generation plus 1. -/
def placeEp (tf : Nat) (s : State) (p : Nat × Endpoint) : State :=
  let g := (p.2.gen + 1) % 65536
  match slotBeside s g with
  | none => s
  | some n => { s with eht.eps := tset s.eht.eps p.1 { p.2 with gen := g, tf := tf, slotNo := n }
                       eht.epGens := tset s.eht.epGens n g
                       fence.told := s.fence.told.filter (· ≠ .endpoint p.1) }

/-- A carried queue, and the parts of its ring's open messages. -/
def placeSq (tf : Nat) (s : State) (x : Nat × StoQueue × List (MsgKey × Tab Bytes)) : State :=
  let s := { s.qDel (sqObj (sqKey tf x.1)) with sto.queues := tset s.sto.queues (sqKey tf x.1) x.2.1 }
  { s with eht.ctxs := s.eht.ctxs.map (fun c => match x.2.2.find? (fun p => p.1 = c.key) with
      | some p => { c with parts := p.2 }
      | none => c) }

/-- The sections restored, the memory first. -/
def placeBlob (s : State) (tf : Nat) (b : Blob) : State :=
  let s := b.mem.foldl (fun s x => s.poke ((allocOf s tf x.1).1 + x.2.1) x.2.2) s
  let s := b.regs.foldl (fun s x => { s with eht.regions := tset s.eht.regions x.1 (carriedRegion s tf x)
                                             eht.freeOrder := s.eht.freeOrder.filter (· != x.1) }) s
  let s := b.eps.foldl (placeEp tf) s
  let s := { s with eht.dedup := s.eht.dedup ++ b.dedup, eht.ctxs := s.eht.ctxs ++ b.ctxs }
  let s := b.book.foldl (fun s p => if (tget? s.eht.book p.1).isSome then s
    else { s with eht.book := tset s.eht.book p.1 { p.2 with tf := tf } }) s
  (b.sqs.foldl (placeSq tf) s).onTf tf (fun x => { x with restored := true })

/-- READs of a blob in pieces of the largest message. -/
def readPieces (s : State) (tf b : Nat) (e : Book) (key addr len : Nat) : Nat → Nat → State
  | 0, _ => s
  | n + 1, i =>
    let off := i * maxMessage e.seg
    let k := min (maxMessage e.seg) (len - off)
    let m := { bookMsg s (mailboxEid s) b e 3 key (addr + off) (beBytes 4 k ++ [BitVec.ofNat 8 e.seg, 0, 0, 0]) false (.restore tf i) with
               readLen := k }
    readPieces (submit s m).1 tf b e key addr len n (i + 1)

/-- TF_RESTORE: TF, key slot, TF0 book entry, key, address and length of the blob, then of the key map. -/
def tfRestoreCmd (s : State) (r : Req) : Res :=
  let tf := num r 0
  if !bodyIs r 72 then fails s mbxInvalid
  else if !tfExists s tf then failsAt s mbxInvalid 1
  else if !slotNameable (num r 1) then failsAt s mbxInvalid 2
  else match bookOf s (num r 2) 0 with
    | none => failsAt s mbxInvalid 3
    | some e =>
      if 2 ^ 32 ≤ num r 3 then failsAt s mbxInvalid 4
      else if num r 5 = 0 then failsAt s mbxInvalid 6
      else if 2 ^ 32 ≤ num r 6 then failsAt s mbxInvalid 7
      else if (s.tf tf).st ≠ .disabled ∨ !(ownEndpoints s tf).isEmpty ∨ !(tfQueues s tf).isEmpty
          ∨ (tfRegions s tf).any (fun p => p.2.state == 1) then fails s mbxState
      else match migrateKey s (num r 1) with
        | none => denies s
        | some _ =>
          let n := pieces (num r 5) (maxMessage e.seg)
          let op : RestoreOp := { slot := num r 1, book := num r 2, mapKey := num r 6, mapAddr := num r 7, mapLen := num r 8, left := n }
          let s := s.onTf tf (fun x => { x with st := .restoring, restore := some op })
          done (readPieces s tf (num r 2) e (num r 3) (num r 4) (num r 5) n 0)

def execTfRestore (t : Nat) (r : Req) (s : State) := serve t r 0x0A06 tfRestoreCmd s

/-- A failed restore: nothing is kept, and the event carries the status. -/
def restoreFails (s : State) (tf status : Nat) : State :=
  raise (s.onTf tf (fun x => { x with st := .disabled, restore := none })) 0x0A02 tf (encN status)

/-- The key map on its way to its region before the event; an empty one has none. -/
def sendKeyMap (s : State) (tf : Nat) (o : RestoreOp) (m : Bytes) : State :=
  let m := m.take (o.mapLen / 24 * 24)
  match bookOf s o.book 0 with
  | some e =>
    if m.isEmpty then restoreOver s tf 0
    else
      let n := pieces m.length (maxMessage e.seg)
      let s := s.onTf tf (fun x => { x with restore := some { o with left := n, parts := [] } })
      sendPieces s o.book e o.mapKey o.mapAddr (.keyMap tf) n m 0
  | none => restoreOver s tf 0

/-- TF_RESTORED: every READ has ended: the checks of R241, then the sections. -/
def tfRestoredEnd (s : State) (tf : Nat) : State :=
  match (s.tf tf).restore with
  | none => s
  | some o =>
    if (s.tf tf).st ≠ .restoring ∨ o.left ≠ 0 then s
    else match o.bad with
      | some x => restoreFails s tf x
      | none =>
        let s := noteUse s o.slot
        match openBlob s o.slot (o.parts.flatMap Prod.snd) with
        | .inr x => restoreFails s tf x
        | .inl b => match blobFails s tf b with
          | some x => restoreFails s tf x
          | none =>
            let m := b.regs.flatMap (fun x => (keyMapEntry x (carriedRegion s tf x)).getD [])
            sendKeyMap (placeBlob s tf b) tf o m

def execTfRestored (t : Nat) (tf : BitVec 12) (s : State) := act t s (fun s => tfRestoredEnd s tf.toNat)

/-! ### Thaw and redirection (R243, R244) -/

/-- What is kept for L from the thaw on (R241, R182), or the time that a freeze took given back. -/
def thawTimes (s : State) (tf : Nat) : State :=
  let x := s.tf tf
  let mine (e : Nat) : Bool := (tget s.eht.eps e default).tf == tf
  let s := { s with eht.ctxs := s.eht.ctxs.map (fun c =>
    if mine c.dst then { c with made := if x.restored then s.clk.up else c.made + (s.clk.up - x.frozenAt) } else c) }
  if !x.restored then s
  else
    { s with eht.dedup := s.eht.dedup.map (fun d => if mine d.dst then { d with epoch := s.eht.epoch } else d)
             eht.regions := s.eht.regions.map (fun p =>
               if p.2.tf = tf ∧ p.2.state = 2 ∧ (tget? s.eht.revoking p.1).isNone then (p.1, { p.2 with freeAt := some (s.clk.up + ehtL s) }) else p) }

/-- TF_THAW. -/
def tfThawCmd (s : State) (r : Req) : Res :=
  let tf := num r 0
  if !bodyIs r 8 then fails s mbxInvalid
  else if !tfExists s tf then failsAt s mbxInvalid 1
  else if (s.tf tf).st ≠ .frozen ∧ (s.tf tf).st ≠ .saved then fails s mbxState
  else done ((thawTimes s tf).onTf tf (fun x => { x with st := .enabled, restored := false }))

def execTfThaw (t : Nat) (r : Req) (s : State) := serve t r 0x0A04 tfThawCmd s

/-- The grace period of TF_MOVED's third parameter, 5 s when the body leaves it out (log 25). -/
def movedGrace (r : Req) : Option Nat :=
  if bodyIs r 24 then some 5000000000
  else if bodyIs r 32 ∧ leAt r.body 24 8 ≤ 60000000000 then some (leAt r.body 24 8)
  else none

/-- The local objects of a moved tenant function removed (R244; log 28). -/
def clearMoved (s : State) (tf : Nat) : State :=
  let eids := (ownEndpoints s tf).map Prod.fst
  let s := (tfQueues s tf).foldl (fun s q => s.qDel (sqObj q.1)) s
  let s := { s with eht.ctxs := s.eht.ctxs.filter (fun c => !eids.contains c.dst)
                    eht.dedup := s.eht.dedup.filter (fun d => !eids.contains d.dst)
                    sto.queues := s.sto.queues.filter (fun p => p.1 / 64 != tf) }
  let s := eids.foldl (fun s e => freeEndpoint (s.qDel (.endpoint (BitVec.ofNat 32 e))) e) s
  ((tfRegions s tf).filter (fun p => p.2.state == 1)).foldl (fun s p => revokeRegion s p.1) s

/-- TF_MOVED: TF, IP address, grace period. -/
def tfMovedCmd (s : State) (r : Req) : Res :=
  let tf := num r 0
  let ip := beAt r.body 8 16
  if ¬ (bodyIs r 24 ∨ bodyIs r 32) then fails s mbxInvalid
  else if !tfExists s tf then failsAt s mbxInvalid 1
  else match movedGrace r with
    | none => failsAt s mbxInvalid 3
    | some g =>
      let eps := ownEndpoints s tf
      if (s.tf tf).st ≠ .saved then fails s mbxState
      else if 16384 < s.eht.moved.length + eps.length then fails s mbxNospace
      else
        let ends := s.clk.up + g
        let row (p : Nat × Endpoint) : MovedRec :=
          { tf := tf, af := if ip < 2 ^ 32 then 4 else 6, ip := ip, eid := p.1, gen := (p.2.gen + 1) % 65536, endsAt := ends }
        let s := eps.foldl (fun s p => { s with eht.moved := tset s.eht.moved p.1 (row p) }) s
        done ((clearMoved s tf).onTf tf (fun x => { x with st := .moved, graceAt := some ends, restored := false }))

def execTfMoved (t : Nat) (r : Req) (s : State) := serve t r 0x0A07 tfMovedCmd s

/-- GRACE_END: the moved records are freed and the tenant function is DISABLED. -/
def graceEnd (s : State) (tf : Nat) : State :=
  match (s.tf tf).graceAt with
  | some t =>
    if t ≤ s.clk.up then
      { s with eht.moved := s.eht.moved.filter (fun m => m.2.tf != tf) }.onTf tf (fun x => { x with st := .disabled, graceAt := none })
    else s
  | none => s

def execGraceEnd (t : Nat) (tf : BitVec 12) (s : State) := act t s (fun s => graceEnd s tf.toNat)

end Sys2Proof.Machine
end

