-- ==== Sys2Proof/Machine/Validate.lean ====
section
/-! DEFINITION. Whole validation of a configuration (R346): every commit rule of every chapter. `s` is the machine
with the configuration in force, `n` the same machine under the new records. -/

namespace Sys2Proof.Machine

/-- A failed rule: the record's key, where it concerns one, the status and the detail code. -/
structure CfgFail where
  key : Option Nat
  status : Nat
  detail : Nat := 0
  deriving DecidableEq, Repr

def bad (key status : Nat) (detail : Nat := 0) : CfgFail := { key := some key, status := status, detail := detail }
def badAll (status : Nat) (detail : Nat := 0) : CfgFail := { key := none, status := status, detail := detail }

/-- A failure where a condition holds. -/
def failIf (b : Bool) (f : CfgFail) : List CfgFail := if b then [f] else []

/-- Records of an item. -/
def recsOf (n : State) (id : Nat) : Tab Bytes := n.cfg.recs.filter (fun r => keyItem r.1 == id)

/-- A record of an item differs between two configurations. -/
def itemChanged (s n : State) (id index sub : Nat) : Bool := s.cfgRec? id index sub != n.cfgRec? id index sub

/-! ### Values -/

/-- The records themselves: known, placed, of the right length, in range. -/
def valueFails (n : State) : List CfgFail :=
  n.cfg.recs.flatMap (fun r =>
    match itemOf (keyItem r.1) with
    | none => [bad r.1 mbxInvalid]
    | some i => failIf (!(i.placed (keyIndex r.1) (keySub r.1) && i.fmt.fits r.2 && i.fmt.ok r.2 && extraOk i.id r.2)) (bad r.1 mbxInvalid (rangeDetail i.id)))

/-! ### Ports (R48) -/

/-- Port mode of a physical port under a configuration (R55). -/
def modeOf (n : State) (p : Nat) : Nat :=
  n.cfgN (itemId 4 1 1) p 0 ((if p = 0 then n.pins.straps.p0Mode else n.pins.straps.p1Mode).toNat)

/-- The machine under new records: the port modes follow at once. -/
def underRecs (s : State) (recs : Tab Bytes) : State :=
  let n := { s with cfg.recs := recs }
  let n := { n with port.mgmtOnly := false }
  (n.onPp 0 (fun x => { x with mode := modeOf n 0 })).onPp 1 (fun x => { x with mode := modeOf n 1 })

/-- Every logical port of a physical port has completed a quiesce and not been re-enabled. -/
def portQuiet (s : State) (p : Nat) : Bool :=
  (List.range (modePorts (s.portMode p))).all (fun i => s.disabled (.logicalPort (Fin.ofNat 16 (p * 8 + i))))

/-- R48; and R49, R55: auto-negotiation on, which is its default, is out of its range on interface type C2M (log 71). -/
def portFails (s n : State) : List CfgFail :=
  [0, 1].flatMap (fun p => failIf (!s.port.mgmtOnly && modeOf n p != s.portMode p && !portQuiet s p)
    (bad (cfgKey (itemId 4 1 1) p 0) mbxState))
  ++ (List.range 16).flatMap (fun lp => failIf (n.cfgN (itemId 4 1 2) lp 0 0 == 2 && n.cfgN (itemId 4 1 3) lp 0 1 == 1)
    (bad (cfgKey (itemId 4 1 3) lp 0) mbxInvalid))

/-! ### Versions (R90, R91, R94, R99, R137) -/

/-- The versioned records of a configuration: the items of R75 and the profiles, and the EHT port (R75). -/
def versioned (recs : Tab Bytes) : Tab Bytes :=
  recs.filter (fun r => keyItem r.1 / 65536 == 0x0501 || keyItem r.1 / 65536 == 0x0502 || keyItem r.1 == itemId 8 1 1)

def freeVer (s : State) : Option Nat := (List.range 8).find? (fun v => (s.ver v).state == .free)

/-- The words of an extension range. -/
def extWords (v : Bytes) : List Nat := (List.range (leAt v 8 8 % 4097)).map (leAt v 0 8 + ·)

def parserFails (s n : State) : List CfgFail :=
  let ranges := recsOf n (itemId 5 1 11)
  failIf (versioned s.cfg.recs != versioned n.cfg.recs && (freeVer s).isNone) (badAll mbxNospace)
  ++ (recsOf n (itemId 5 1 9)).flatMap (fun r =>
      let a := leAt r.2 0 8
      failIf (!(a == 0 || ranges.any (fun x => decide (leAt x.2 0 8 ≤ a) && decide (a < leAt x.2 0 8 + leAt x.2 8 8)))) (bad r.1 mbxInvalid))
  ++ ranges.flatMap (fun r =>
      failIf (decide (0x5400 < leAt r.2 0 8 + leAt r.2 8 8) || (extWords r.2).any (fun w => (tget? s.parse.store w).isNone)) (bad r.1 mbxInvalid))

/-- A lookup of a profile: table, offset and length at byte `o`. -/
def lookupFails (n : State) (key : Nat) (v : Bytes) (o : Nat) : List CfgFail :=
  let t := leAt v o 1
  failIf (t != 0xFF && (tblMode n t == 0 || tblKeyLen n t != leAt v (o + 2) 1 || decide (128 < leAt v (o + 1) 1 + leAt v (o + 2) 1)))
    (bad key mbxInvalid)

def profileFails (n : State) : List CfgFail :=
  (recsOf n (itemId 5 2 1)).flatMap (fun r =>
    lookupFails n r.1 r.2 6 ++ lookupFails n r.1 r.2 9
    ++ failIf (decide (32768 ≤ leAt r.2 0xC 2) && decide (leAt r.2 0xC 2 ≤ 65534)) (bad r.1 mbxInvalid 0x0405))

/-! ### Tables (R97 to R99) -/

/-- Units of a level of a table (R98). -/
def levelUnits (n : State) (t level : Nat) : Nat := if tblMode n t = 0 then 0 else tblBuckets n t level * 4 * tblUnits n t

/-- A profile of a CURRENT or RETIRING version names the table. -/
def tableNamed (s : State) (t : Nat) : Bool :=
  s.parse.vers.any (fun v => (v.2.state == .current || v.2.state == .retiring)
    && v.2.recs.any (fun r => keyItem r.1 == itemId 5 2 1 && (leAt r.2 6 1 == t || leAt r.2 9 1 == t)))

def tableFails (s n : State) : List CfgFail :=
  (List.range 16).flatMap (fun t =>
    failIf (tblMode n t != 0 && ((n.cfgRec? (itemId 6 1 2) t 0).isNone || (n.cfgRec? (itemId 6 1 3) t 0).isNone))
      (bad (cfgKey (itemId 6 1 1) t 0) mbxInvalid)
    ++ [2, 3, 4, 5].flatMap (fun k =>
        failIf (itemChanged s n (itemId 6 1 k) t 0 && (!(s.tbl t).slots.isEmpty || tableNamed s t)) (bad (cfgKey (itemId 6 1 k) t 0) mbxState)))
  ++ failIf (decide (1048576 < ((List.range 16).map (fun t => levelUnits n t 0)).sum)
      || decide (16777216 < ((List.range 16).map (fun t => levelUnits n t 1)).sum)) (badAll mbxNospace)

/-! ### Traffic manager (R124, R127, R133) -/

/-- Two ranges (base, count) overlap. -/
def overlaps (a b : Nat × Nat) : Bool := decide (0 < a.2) && decide (0 < b.2) && decide (a.1 < b.1 + b.2) && decide (b.1 < a.1 + a.2)

/-- A shaper's burst is below the maximum frame size plus O of its port. -/
def burstFails (n : State) (id : Nat) (port : Nat → Option Nat) : List CfgFail :=
  (recsOf n id).flatMap (fun r =>
    match port (keyIndex r.1) with
    | some lp => failIf (decide ((leAt r.2 8 8 : Int) < (n.maxFrame lp : Int) + n.overhead lp)) (bad r.1 mbxInvalid 0x0402)
    | none => [])

/-- The logical port, present or not, whose range holds a queue set (R124): R133 is for every shaper. -/
def qsetHolder (n : State) (g : Nat) : Option Nat :=
  (List.range 16).find? (fun lp => decide ((n.qsetRange lp).1 ≤ g) && decide (g < (n.qsetRange lp).1 + (n.qsetRange lp).2))

def tmFails (n : State) : List CfgFail :=
  (List.range 16).flatMap (fun lp =>
    failIf (decide (8192 < (n.qsetRange lp).1 + (n.qsetRange lp).2) || (List.range lp).any (fun k => overlaps (n.qsetRange k) (n.qsetRange lp)))
      (bad (cfgKey (itemId 7 1 1) lp 0) mbxInvalid 0x0401))
  ++ burstFails n (itemId 7 1 4) some ++ burstFails n (itemId 7 1 6) (qsetHolder n) ++ burstFails n (itemId 7 1 10) (fun q => qsetHolder n (q / 8))
  ++ failIf (decide (poolSize n < 8 * (((List.range 16).filter n.lpPresent).map (expressReserve n)).sum)) (badAll mbxInvalid 0x0406)

/-! ### EHT (R150) -/

def ehtFails (n : State) : List CfgFail :=
  failIf (decide (ehtL n < ehtW n)) (bad (cfgKey (itemId 8 1 3) 0 0) mbxInvalid 0x0701)
  ++ failIf (decide (rtoMax n < rtoBase n)) (bad (cfgKey (itemId 8 1 6) 0 0) mbxInvalid 0x0701)
  ++ failIf (decide (10000 * (ehtL n : Int) - 10000 * ehtW n - 2 * ((ehtL n : Int) + ehtW n) < 100000000)) (badAll mbxInvalid 0x0702)

/-! ### Storage (R202, R205, R197) -/

/-- A root port's drive is declared protected against power loss. -/
def driveProtected (n : State) (rp : Nat) : Bool := n.cfgPart (itemId 9 2 2) rp 0 1 0 == 1

/-- Two extents share a block. -/
def extentClash (a b : Bytes) : Bool :=
  leAt a 0 8 == leAt b 0 8 && leAt a 8 8 == leAt b 8 8 && overlaps (leAt a 16 8, leAt a 24 8) (leAt b 16 8, leAt b 24 8)

/-- An extent ends beyond its drive namespace, where an ONLINE drive has told its size (R197; log 20). -/
def extentBeyond (n : State) (v : Bytes) : Bool :=
  (n.drive (leAt v 0 8)).st == .online && match tget? (n.drive (leAt v 0 8)).nsSizes (leAt v 8 8) with
  | some size => decide (size < leAt v 16 8 + leAt v 24 8)
  | none => false

def stoFails (n : State) : List CfgFail :=
  let ext := recsOf n (itemId 9 1 2)
  ext.flatMap (fun r =>
    failIf (decide (rootPorts n ≤ leAt r.2 0 8) || extentBeyond n r.2 || ext.any (fun x => decide (x.1 < r.1) && extentClash x.2 r.2)) (bad r.1 mbxInvalid 0x08C1)
    ++ failIf ((nsJournal n (keyIndex r.1)).isSome && !driveProtected n (leAt r.2 0 8)) (bad r.1 mbxInvalid 0x08C0))
  ++ (recsOf n (itemId 9 2 1)).flatMap (fun r => failIf (!driveProtected n (leAt r.2 0 8)) (bad r.1 mbxInvalid 0x08C0))
  ++ (recsOf n (itemId 9 1 1)).flatMap (fun r =>
      failIf ((recsOf n (itemId 9 1 1)).any (fun x => decide (x.1 < r.1) && x.2 == r.2)
        || !ext.any (fun x => keyIndex x.1 == keyIndex r.1)) (bad r.1 mbxInvalid))
  ++ ([2, 3, 5].flatMap (fun k => recsOf n (itemId 9 1 k))).flatMap (fun r =>
      failIf (n.cfgRec? (itemId 9 1 1) (keyIndex r.1) 0).isNone (bad r.1 mbxInvalid))
  ++ failIf (decide (1048576 < ((recsOf n (itemId 0xA 1 5)).map (fun r => leAt r.2 0 8)).sum)) (badAll mbxNospace 0x08C2)

/-! ### Tenant functions (R221 to R225, R230) -/

/-- The tenant function whose record a configuration record belongs to (R223). -/
def tfOfKey (k : Nat) : Option Nat :=
  if keyItem k / 65536 = 0x0A01 ∨ keyItem k = itemId 8 1 13 ∨ keyItem k = itemId 8 1 16 ∨ keyItem k = itemId 9 2 7
    ∨ keyItem k = itemId 0x10 1 2 ∨ keyItem k = itemId 0x10 1 3 ∨ keyItem k = itemId 0x10 1 4 then some (keyIndex k) else none

/-- The tenant functions of a configuration, in order; TF0 is always there. -/
def tfsOf (recs : Tab Bytes) : List Nat :=
  let l := recs.filterMap (fun r => tfOfKey r.1)
  (List.range 4096).filter (fun n => n == 0 || l.contains n)

/-- The sum of a resource over every tenant function. -/
def tfSum (n : State) (q : State → Nat → Nat) : Nat := ((tfsOf n.cfg.recs).map (q n)).sum

def tfTotals (n : State) : List CfgFail :=
  failIf (decide (16384 < tfSum n epQuota) || decide (1048576 < tfSum n (fun n t => (regionRange n t).2)) || decide (65536 < tfSum n bookQuota)
    || decide (1536 < tfSum n (fun n t => n.cfgN (itemId 0xA 1 9) t 0 0)) || decide (16384 < (recsOf n (itemId 0xA 1 12)).length)
    || (List.range 16).any (fun t => decide (levelUnits n t 0 + levelUnits n t 1 < tfSum n (fun n f => tfQuota n t f)))) (badAll mbxNospace)

def regionFails (n : State) : List CfgFail :=
  let rs := recsOf n (itemId 0xA 1 2)
  rs.flatMap (fun r => failIf (decide (1048576 < leAt r.2 0 8 + leAt r.2 8 8)
    || rs.any (fun x => decide (x.1 < r.1) && overlaps (leAt x.2 0 8, leAt x.2 8 8) (leAt r.2 0 8, leAt r.2 8 8))) (bad r.1 mbxInvalid))

/-- Enabled thread entries of a configuration. -/
def threadEntries (n : State) : Tab Bytes := (recsOf n (itemId 0xB 1 3)).filter (fun r => (leAt r.2 0 1).testBit 0)

/-- Threads that a tenant function may have and has in the thread tables. -/
def threadQuota (n : State) (t : Nat) : Nat := n.cfgN (itemId 0xA 1 9) t 0 0
def threadHeld (n : State) (t : Nat) : Nat := ((threadEntries n).filter (fun r => leAt r.2 2 2 == t)).length

def threadFails (n : State) : List CfgFail :=
  (tfsOf n.cfg.recs ++ (threadEntries n).map (fun r => leAt r.2 2 2)).eraseDups.flatMap (fun t =>
    failIf (decide (threadQuota n t < threadHeld n t)) (bad (cfgKey (itemId 0xA 1 9) t 0) mbxInvalid))

/-- An index of a region range holds a descriptor that is not FREE. -/
def indexUsed (s : State) (i : Nat) : Bool :=
  match tget? s.eht.regions i with
  | some d => d.state != 0
  | none => false

/-- A change of a region range that R224 allows: growth at the upper end, loss of FREE indices. -/
def regionResizeOk (s n : State) (t : Nat) : Bool :=
  let a := regionRange s t
  let b := regionRange n t
  (a.2 == 0 || b.2 == 0 || decide (a.1 ≤ b.1))
    && s.eht.regions.all (fun d => !(decide (a.1 ≤ d.1) && decide (d.1 < a.1 + a.2) && indexUsed s d.1) || (decide (b.1 ≤ d.1) && decide (d.1 < b.1 + b.2)))

/-- A VALID region's target lies in a range of device addresses. -/
def targeted (s : State) (a n : Nat) : Bool :=
  s.eht.regions.any (fun d => d.2.state == 1 && decide (d.2.target < a + n) && decide (a < d.2.target + d.2.len))

/-- The part of an allocation that a smaller one gives up is still a region's target. -/
def shrinkUsed (s : State) (old : Nat × Nat) (len : Nat) : Bool := decide (len < old.2) && targeted s (old.1 + len) (old.2 - len)

def resizeFails (s n : State) : List CfgFail :=
  (tfsOf n.cfg.recs).flatMap (fun t =>
    if !tfExists s t then []
    else
      failIf (decide (epQuota n t < epQuota s t) && decide (epQuota n t < (tfEndpoints s t).length)) (bad (cfgKey (itemId 0xA 1 1) t 0) mbxState)
      ++ failIf (!regionResizeOk s n t) (bad (cfgKey (itemId 0xA 1 2) t 0) mbxState)
      ++ failIf (decide (bookQuota n t < bookQuota s t) && decide (bookQuota n t < bookUse s.eht.book t)) (bad (cfgKey (itemId 0xA 1 3) t 0) mbxState)
      ++ failIf (decide (sqQuota n t < sqQuota s t) && decide (sqQuota n t < (tfQueues s t).length)) (bad (cfgKey (itemId 0xA 1 4) t 0) mbxState)
      ++ failIf (decide (depthQuota n t < depthQuota s t) && decide (depthQuota n t < depthUse s t 64)) (bad (cfgKey (itemId 0xA 1 5) t 0) mbxState)
      ++ failIf (decide (threadQuota n t < threadQuota s t) && decide (threadQuota n t < threadHeld s t)) (bad (cfgKey (itemId 0xA 1 9) t 0) mbxState)
      ++ failIf (shrinkUsed s (s.tf t).mkt (n.cfgN (itemId 0xA 1 7) t 0 0)) (bad (cfgKey (itemId 0xA 1 7) t 0) mbxState)
      ++ failIf (shrinkUsed s (s.tf t).hbm (n.cfgN (itemId 0xA 1 8) t 0 0)) (bad (cfgKey (itemId 0xA 1 8) t 0) mbxState))

/-- The tenant functions that a configuration removes. -/
def removedTfs (s n : State) : List Nat := (s.tfs.map Prod.fst).filter (fun t => !(tfsOf n.cfg.recs).contains t)

def removalFails (s n : State) : List CfgFail :=
  (removedTfs s n).flatMap (fun t =>
    failIf ((s.tf t).st != .disabled || s.quiescing (.tf t)) (bad (cfgKey (itemId 0xA 1 1) t 0) mbxState)
    ++ ((recsOf n (itemId 7 1 7)).filter (fun r => leAt r.2 0 8 == t)).map (fun r => bad r.1 mbxInvalid)
    ++ ((recsOf n (itemId 5 2 1)).filter (fun r => leAt r.2 4 2 == t)).map (fun r => bad r.1 mbxInvalid))

/-- Two bindings name one pair of logical port and outer VLAN. -/
def samePair (a b : Bytes) : Bool := leAt a 0 1 == leAt b 0 1 && bindFlag a 0 == bindFlag b 0 && leAt a 2 2 == leAt b 2 2

def bindingFails (s n : State) : List CfgFail :=
  let bs := recsOf n (itemId 0xA 1 12)
  let own := (mailboxEid n) :: s.eht.eps.map Prod.fst
  bs.flatMap (fun r => failIf (bs.any (fun x => decide (x.1 < r.1) && keyIndex x.1 != keyIndex r.1 && samePair x.2 r.2)
    || own.any (fun e => decide (leAt r.2 0x20 4 ≤ e) && decide (e < leAt r.2 0x20 4 + leAt r.2 0x24 4))) (bad r.1 mbxInvalid))

/-! ### Idori (R249, R252) -/

/-- The endpoint entries of a configuration: Stall, mode, thread number within the Stall, channel. -/
def epEntries (n : State) : List (Nat × Nat × Nat × Nat × Nat) :=
  (recsOf n (itemId 0xB 1 4)).filterMap (fun r =>
    if leAt r.2 0 1 = 0 then none
    else some (r.1, keyIndex r.1, leAt r.2 0 1, keySub r.1 / 64 * 8 + leAt r.2 1 1, leAt r.2 2 2))

/-- The owner of a thread, none when it is disabled. -/
def threadOwner (n : State) (st th : Nat) : Option Nat :=
  match n.cfgRec? (itemId 0xB 1 3) st th with
  | some v => if (leAt v 0 1).testBit 0 then some (leAt v 2 2) else none
  | none => none

def idoriFails (n : State) : List CfgFail :=
  let es := epEntries n
  (recsOf n (itemId 0xB 1 5)).flatMap (fun r =>
    let c := keyIndex r.1
    failIf (leAt r.2 0 8 != 0 && (es.filter (fun e => e.2.2.1 == 1 && e.2.2.2.2 == c)).length != 1) (bad r.1 mbxInvalid))
  ++ es.flatMap (fun (k, st, mode, th, c) =>
      let owner := threadOwner n st th
      failIf (decide (12287 < c) || chanCap n c == 0 || owner.isNone || (mode == 1 && decide (c / 1024 ≠ st))
        || (mode == 1 && owner != some (chanOwner n c)) || (mode == 2 && owner != some (chanOwner n c) && owner != some 0)) (bad k mbxInvalid))
  ++ (threadEntries n).flatMap (fun r =>
      failIf ((threadOwner n (keyIndex r.1) (keySub r.1 / 8 * 8)).isNone) (bad r.1 mbxInvalid))
  ++ (List.range 12).flatMap (fun st =>
      failIf (decide (131072 < (((recsOf n (itemId 0xB 1 5)).filter (fun r => keyIndex r.1 / 1024 == st)).map (fun r => leAt r.2 0 8)).sum)) (badAll mbxInvalid))

/-- The Stall that a record of R249 belongs to, for the items that need it STOPPED. -/
def stallOfKey (k : Nat) : Option Nat :=
  if keyItem k = itemId 0xB 1 3 ∨ keyItem k = itemId 0xB 1 4 then some (keyIndex k)
  else if keyItem k = itemId 0xB 1 5 ∨ keyItem k = itemId 0xB 1 6 then some (keyIndex k / 1024)
  else none

def stallFails (s n : State) : List CfgFail :=
  ((s.cfg.recs ++ n.cfg.recs).map Prod.fst).eraseDups.flatMap (fun k =>
    match stallOfKey k with
    | some st => failIf (tget? s.cfg.recs k != tget? n.cfg.recs k && (tget s.ido.stalls st {}).st != .stopped) (bad k mbxState)
    | none => [])

/-! ### Memory (R222, R224, R320 to R323) -/

/-- An allocation: tenant function, first address, length. -/
abbrev Alloc := Nat × Nat × Nat

def allocClash (l : List Alloc) (x : Alloc) : Bool := l.any (fun y => y.1 != x.1 && overlaps y.2 x.2)

/-- The lowest place of a share that takes `len` bytes beside the allocations already placed (log 32). -/
def firstFit (share : Nat × Nat) (l : List Alloc) (len : Nat) : Option Nat :=
  let starts := share.1 :: l.map (fun a => a.2.1 + a.2.2)
  (starts.filter (fun b => inRange share b len && !l.any (fun y => overlaps y.2 (b, len)))).foldl
    (fun m b => match m with
      | none => some b
      | some x => some (min x b)) none

/-- Every allocation placed: the ones in place grow or shrink at their upper end, the new ones go where they first
fit. The tenant function that does not fit, on failure. -/
def placeAll (share : Nat × Nat) (old : List Alloc) (want : List (Nat × Nat)) : List Alloc ⊕ Nat :=
  let kept := want.filterMap (fun w => (old.find? (fun a => a.1 == w.1 && a.2.2 != 0)).map (fun a => (w.1, a.2.1, w.2)))
  match kept.find? (fun a => a.2.2 != 0 && (!inRange share a.2.1 a.2.2 || allocClash kept a)) with
  | some a => .inr a.1
  | none =>
    (want.filter (fun w => w.2 != 0 && !kept.any (fun k => k.1 == w.1))).foldl
      (fun r w => match r with
        | .inr t => .inr t
        | .inl l => match firstFit share l w.2 with
          | some b => .inl (l ++ [(w.1, b, w.2)])
          | none => .inr w.1) (.inl kept)

def mktWant (n : State) : List (Nat × Nat) := (tfsOf n.cfg.recs).map (fun t => (t, n.cfgN (itemId 0xA 1 7) t 0 0))
def hbmWant (n : State) : List (Nat × Nat) := (tfsOf n.cfg.recs).map (fun t => (t, n.cfgN (itemId 0xA 1 8) t 0 0))
def mktPlaced (s n : State) : List Alloc ⊕ Nat := placeAll (marketShare n) (s.tfs.map (fun p => (p.1, p.2.mkt))) (mktWant n)
def hbmPlaced (s n : State) : List Alloc ⊕ Nat := placeAll (hbmShare n) (s.tfs.map (fun p => (p.1, p.2.hbm))) (hbmWant n)

def placeFails (r : List Alloc ⊕ Nat) (id : Nat) : List CfgFail :=
  match r with
  | .inl _ => []
  | .inr t => [bad (cfgKey id t 0) mbxNospace]

def memoryFails (s n : State) : List CfgFail :=
  failIf (decide ((marketShare n).2 < (marketShare n).1) || decide ((hbmShare n).2 < (hbmShare n).1)) (badAll mbxNospace)
  ++ placeFails (mktPlaced s n) (itemId 0xA 1 7) ++ placeFails (hbmPlaced s n) (itemId 0xA 1 8)
  ++ failIf (!s.port.mgmtOnly && poolSize n != poolSize s && (!(portQuiet s 0 && portQuiet s 1) || !s.mem.bufs.isEmpty))
      (bad (cfgKey (itemId 0x10 1 1) 0 0) mbxState)
  ++ (recsOf n (itemId 0x10 1 3)).flatMap (fun r =>
      failIf (chanCap n (leAt r.2 0 8) == 0 || chanOwner n (leAt r.2 0 8) != keyIndex r.1) (bad r.1 mbxInvalid))

/-! ### Clocks (R405, R408, R409) -/

/-- Gating mode of a block: 0 explicit, 1 auto. -/
def gateMode (n : State) (b : Nat) : Nat := n.cfgN (itemId 0xF 1 1) b 0 (if b = 12 ∨ b = 13 then 0 else 1)

/-- Frequency of a CLKOUT source in Hz (R395, R397, R408). -/
def clkHz (src : Nat) : Nat :=
  [0, 50000000, 50000000, 2400000000, 1100000000, 1200000000, 1171875000, 820312500, 820312500, 1000000000, 800000000, 1000000000].getD src 0

def clockFails (s n : State) : List CfgFail :=
  (List.range 33).flatMap (fun b =>
    failIf ((b == 12 || b == 13) && gateMode n b == 1) (bad (cfgKey (itemId 0xF 1 1) b 0) mbxInvalid)
    ++ failIf (gateMode n b != gateMode s b && tget s.clk.gates b .run != .run) (bad (cfgKey (itemId 0xF 1 1) b 0) mbxState))
  ++ failIf (decide (200000000 * n.cfgN (itemId 0xF 1 3) 0 0 1 < clkHz (n.cfgN (itemId 0xF 1 2) 0 0 0))) (bad (cfgKey (itemId 0xF 1 3) 0 0) mbxInvalid)

/-! ### The whole (R346) -/

/-- Every failed rule of a configuration whose values are in range. -/
def ruleFails (s n : State) : List CfgFail :=
  portFails s n ++ parserFails s n ++ profileFails n ++ tableFails s n ++ tmFails n ++ ehtFails n ++ stoFails n
  ++ tfTotals n ++ regionFails n ++ resizeFails s n ++ threadFails n ++ removalFails s n ++ bindingFails s n
  ++ idoriFails n ++ stallFails s n ++ memoryFails s n ++ clockFails s n

/-- The first failure by its record's key; one that concerns no record comes last. -/
def firstFail : List CfgFail → Option CfgFail
  | [] => none
  | f :: rest =>
    match firstFail rest with
    | none => some f
    | some g =>
      match f.key, g.key with
      | some a, some b => if b < a then some g else some f
      | some _, none => some f
      | none, some _ => some g
      | none, none => some f

/-- Validation of a configuration against the machine: the first failure, none when it may be committed. -/
def validate (s : State) (recs : Tab Bytes) : Option CfgFail :=
  let n := underRecs s recs
  match firstFail (valueFails n) with
  | some f => some f
  | none => firstFail (ruleFails s n)

end Sys2Proof.Machine
end

