-- ==== Sys2Proof/Machine/Commit.lean ====
section
/-! DEFINITION. The canonical encoding (R353, R356), the stored record (R348), and what a commit does in every
block (R347). -/

namespace Sys2Proof.Machine

open Crypto

/-! ### The canonical encoding -/

/-- A record: header, value, padding to 8 bytes (R353). -/
def recBytes (k : Nat) (v : Bytes) : Bytes :=
  leBytes 4 (keyItem k) ++ leBytes 4 (keyIndex k) ++ leBytes 4 (keySub k) ++ leBytes 4 v.length ++ padTo ((v.length + 7) / 8 * 8) v

def recsBytes (t : Tab Bytes) : Bytes := t.flatMap (fun r => recBytes r.1 r.2)

def inTally (k : Nat) : Bool :=
  match itemOf (keyItem k) with
  | some i => i.tally
  | none => false

/-- "LATALLY1". -/
def tallyMagic : Bytes := [0x4C, 0x41, 0x54, 0x41, 0x4C, 0x4C, 0x59, 0x31]

/-- The records of the Tally: those of the configuration that are in it, and both port modes (R356). -/
def tallyRecs (s : State) (recs : Tab Bytes) : Tab Bytes :=
  let n := underRecs s recs
  tset (tset (recs.filter (fun r => inTally r.1)) (cfgKey (itemId 4 1 1) 0 0) (encN (modeOf n 0))) (cfgKey (itemId 4 1 1) 1 0) (encN (modeOf n 1))

def tallyEncoding (s : State) (recs : Tab Bytes) : Bytes :=
  let t := tallyRecs s recs
  tallyMagic ++ encN t.length ++ recsBytes t

def localEncoding (recs : Tab Bytes) : Bytes := recsBytes (recs.filter (fun r => !inTally r.1))

/-- Records read from bytes, each with its number; on failure the number of the record at fault (R345). -/
def readRecs : Nat → Nat → Bytes → List (Nat × Bytes) → List (Nat × Bytes) ⊕ Nat
  | 0, n, _, _ => .inr n
  | fuel + 1, n, b, acc =>
    if b = [] then .inl acc.reverse
    else if b.length < 16 then .inr n
    else
      let len := leAt b 12 4
      let whole := (len + 7) / 8 * 8
      if b.length < 16 + whole ∨ !zeroAt b (16 + len) (whole - len) then .inr n
      else readRecs fuel (n + 1) (b.drop (16 + whole)) ((cfgKey (leAt b 0 4) (leAt b 4 4) (leAt b 8 4), slice b 16 len) :: acc)

def readAll (b : Bytes) : List (Nat × Bytes) ⊕ Nat := readRecs (b.length + 1) 1 b []

/-- A value that is its item's default, or a Bell list that no one keeps (R138). -/
def isDefault (s : State) (i : Item) (k : Nat) (v : Bytes) : Bool :=
  v == [] || i.default s (keyIndex k) (keySub k) == some v || (i.fmt == .bell && byteAt v 0 == 0)

/-- One record written into a staging: `none` when its item, its place or its length is wrong. -/
def putRec (s : State) (t : Tab Bytes) (k : Nat) (v : Bytes) : Option (Tab Bytes) :=
  match itemOf (keyItem k) with
  | none => none
  | some i =>
    if !i.placed (keyIndex k) (keySub k) || !(v == [] || i.fmt.fits v) then none
    else some (if isDefault s i k v then tdel t k else tset t k v)

/-- Every record of a write; the number of the first that is wrong. -/
def putRecs (s : State) : Nat → Tab Bytes → List (Nat × Bytes) → Tab Bytes ⊕ Nat
  | _, t, [] => .inl t
  | n, t, (k, v) :: rest =>
    match putRec s t k v with
    | some t => putRecs s (n + 1) t rest
    | none => .inr n

/-! ### Versions (R87) -/

/-- The versioned records move into a new CURRENT slot; the old one retires. -/
def commitVersion (s : State) (recs : Tab Bytes) : State :=
  if versioned s.cfg.recs = versioned recs then s
  else match freeVer s with
    | none => s
    | some v =>
      let cur := s.parse.current
      let t := tmod s.parse.vers cur {} (fun x => { x with state := .retiring })
      { s with parse.vers := tset t v { state := .current, inflight := 0, recs := versioned recs }, parse.current := v }

/-! ### Ports (R48, R64) -/

/-- The links and lanes of a physical port down, to train again. -/
def lanesDown (s : State) (p : Nat) : State :=
  let s := (List.range 8).foldl (fun s i => s.onLp (p * 8 + i) (fun x => { x with up := false, aligned := false, held := false, lostAt := none })) s
  s.onPp p (fun x => { x with fecLock := 0, syms := [], symStart := s.clk.up, degradeTold := false })

def lpObj (lp : Nat) : QObj := .logicalPort (Fin.ofNat 16 lp)

/-- A logical port that a mode removes or creates: queues released, counters at 0 (R48). R48 names only the counters: that the
controls, threshold, maxima and capture of its latency monitor take their reset values is the model's choice (DESIGN CHOICE,
log 65). -/
def freshPort (s : State) (lp : Nat) : State :=
  let s := (dropPort s lp).1
  clearRange (clearRange { s with port.lps := tdel s.port.lps lp } (lportBase lp) 0x1000) (tmBase lp) 0x1000

/-- A physical port at the commit. `mgmt`: the ports leave management-only mode. -/
def commitPort (s : State) (mgmt : Bool) (p mode : Nat) : State :=
  let old := s.portMode p
  let enable (s : State) : State := (List.range 8).foldl (fun s i => s.qDel (lpObj (p * 8 + i))) s
  if mode = old then (if mgmt then enable s else s)
  else
    let s := lanesDown s p
    let s := ((List.range 8).filter (fun i => decide (modePorts (min old mode) ≤ i))).foldl (fun s i => freshPort s (p * 8 + i)) s
    let s := enable (s.onPp p (fun x => { x with mode := mode, deal := 0 }))
    if mgmt then s
    else (List.range (modePorts mode)).foldl (fun s i => s.qSet (lpObj (p * 8 + i)) { done := true, kind := qKindLp }) s

/-! ### Traffic manager (R134, R135, R137, R141) -/

/-- A Bell list's value. -/
def bellOf (v : Bytes) : Bell :=
  { cycle := leAt v 4 4, base := nsOf80 (leAt v 8 10)
    entries := (List.range (leAt v 2 2)).map (fun k => { interval := leAt v (0x20 + 8 * k) 4, gates := leAt v (0x24 + 8 * k) 1 }) }

/-- A changed Bell list waits for its change time; one that is disabled for the next cycle start of the old list (R141). -/
def commitBell (o : State) (s : State) (lp : Nat) : State :=
  let id := itemId 7 1 14
  if !(itemChanged o s id lp 0 || (s.lpPresent lp && !o.lpPresent lp)) then s
  else match s.cfgRec? id lp 0, (s.lp lp).bell with
    | some v, _ => s.onLp lp (fun p => { p with bellPend := some (some (bellOf v), firstCycle (bellOf v) s.ns) })
    | none, some b => s.onLp lp (fun p => { p with bellPend := some (none, nextCycle b s.ns) })
    | none, none => s.onLp lp (fun p => { p with bellPend := none })

/-- A port or group bucket whose shaper changed: brought up to date under the old one, the change waiting. -/
def Bucket.change (b : Bucket) (up period per rate burst : Nat) : Bucket := { b.tick up period per rate burst with waiting := true }

def commitShapers (o s : State) : State :=
  let s := (List.range 16).foldl (fun s lp =>
    if itemChanged o s (itemId 7 1 4) lp 0 || (s.lpPresent lp && !o.lpPresent lp) then
      let c := shaperOf o (itemId 7 1 4) lp
      s.onLp lp (fun p => { p with portBucket := p.portBucket.change s.clk.up 125 1 c.1 c.2 })
    else s) s
  let groups := ((recsOf o (itemId 7 1 6) ++ recsOf s (itemId 7 1 6)).map (fun r => keyIndex r.1)).eraseDups
  groups.foldl (fun s g =>
    if itemChanged o s (itemId 7 1 6) g 0 then
      let c := shaperOf o (itemId 7 1 6) g
      s.onTg g (fun x => { x with bucket := x.bucket.change s.clk.up 250 2 c.1 c.2 })
    else s) s

/-- A bucket started under its parameters: full, or at 0. -/
def freshBucket (up period rate burst : Nat) (full : Bool) : Bucket :=
  { rate := rate, burst := burst, tokens := if full then burst * 64 else 0, refills := refillsBy up period }

/-- A changed queue shaper takes effect at once under its token choice (R134, R346). -/
def commitQueueShapers (o s : State) (zero : List Nat) : State :=
  let qs := ((recsOf o (itemId 7 1 10) ++ recsOf s (itemId 7 1 10)).map (fun r => keyIndex r.1)).eraseDups
  qs.foldl (fun s q =>
    if itemChanged o s (itemId 7 1 10) q 0 then
      let c := shaperOf s (itemId 7 1 10) q
      s.onTq q (fun x => { x with bucket := if c.1 = 0 then {} else freshBucket s.clk.up 1000 c.1 c.2 (!zero.contains q) })
    else s) s

/-- A changed policer starts with both buckets full. -/
def commitPolicers (o s : State) : State :=
  let ps := ((recsOf o (itemId 7 1 15) ++ recsOf s (itemId 7 1 15)).map (fun r => keyIndex r.1)).eraseDups
  ps.foldl (fun s n =>
    if itemChanged o s (itemId 7 1 15) n 0 then
      let x : Policer := { c := freshBucket s.clk.up 250 (polItem s n 1) (polItem s n 2) true
                           p := freshBucket s.clk.up 250 (polItem s n 3) (polItem s n 4) true }
      { s with tm.policers := tset s.tm.policers n x }
    else s) s

/-! ### Tables (R99, R109, R115, R121) -/

/-- The value that the LFSR is loaded with. -/
def lfsrSeed (s : State) (t : Nat) : Nat :=
  let x := tblSeed s t 0 ^^^ tblSeed s t 1
  if x = 0 then 1 else x

def commitTable (o s : State) (t : Nat) : State :=
  let was := tblMode o t
  let is := tblMode s t
  if is = 0 then
    (if was = 0 then s
     else s.onTbl t (fun tb => { toggle := tb.toggle, ptr := tb.ptr, lfsr := tb.lfsr, sdigest := tb.sdigest, resync := tb.resync }))
  else if was = 0 then s.onTbl t (fun tb => { tb with tick := 0, tickAt := s.clk.up, seq := 0, lfsr := lfsrSeed s t })
  else
    let s := if itemChanged o s (itemId 6 1 5) t 0 then s.onTbl t (fun tb => { tb with lfsr := lfsrSeed s t }) else s
    if itemChanged o s (itemId 6 1 8) t 0 then s.onTbl t (fun tb => { tb with tickAt := s.clk.up }) else s

/-! ### Tenant functions (R221 to R226) -/

/-- Zeros written over an allocation. -/
def zeroMem (s : State) (a : Nat × Nat) : State :=
  { s with mem.ram := mclear s.mem.ram a.1 a.2, mem.poison := s.mem.poison.filter (fun w => !(decide (a.1 ≤ w * 8) && decide (w * 8 < a.1 + a.2))) }

/-- A tenant function removed (R225); `o` is the machine under the old configuration. -/
def removeTf (o : State) (s : State) (t : Nat) : State :=
  let s := (tfEndpoints s t).foldl (fun s e => freeEndpoint (s.qDel (.endpoint (BitVec.ofNat 32 e))) e) s
  let s := (tfQueues s t).foldl (fun s q => s.qDel (sqObj q.1)) s
  let s := { s with sto.queues := s.sto.queues.filter (fun q => q.1 / 64 != t), sto.arb := tdel s.sto.arb t }
  let r := regionRange o t
  let s := ((s.eht.regions.filter (fun d => decide (r.1 ≤ d.1) && decide (d.1 < r.1 + r.2) && d.2.state == 1)).map Prod.fst).foldl revokeRegion s
  let s := { s with eht.book := s.eht.book.filter (fun b => b.2.tf != t) }
  let s := ((List.range 16).filter (fun n => tblMode s n != 0)).foldl (fun s n =>
    raise (flushEntries s n { filter := 2, value := t, static := true }) 0x0603 n []) s
  let s := zeroMem (zeroMem s (o.tf t).mkt) (o.tf t).hbm
  let s := { s with mem.bufs := s.mem.bufs.filter (fun b => b.2.tf != t), tfs := tdel s.tfs t }
  clearRange (clearRange (s.qDel (.tf t)) (objBase 3 t) 0x1000) (objBase 4 (t * 64)) (64 * 0x1000)

/-- The allocations of a placement. -/
def allocFor (r : List Alloc ⊕ Nat) (t : Nat) : Nat × Nat :=
  match r with
  | .inl l => match l.find? (fun a => a.1 == t && a.2.2 != 0) with
    | some a => a.2
    | none => (0, 0)
  | .inr _ => (0, 0)

/-- The tenant functions of the new configuration: created DISABLED, with their memory placed. -/
def commitTfs (o s : State) : State :=
  let mk := mktPlaced o s
  let hb := hbmPlaced o s
  let s := (removedTfs o s).foldl (removeTf o) s
  { s with tfs := (tfsOf s.cfg.recs).map (fun t =>
      (t, { tget s.tfs t { st := if t = 0 then .enabled else .disabled } with mkt := allocFor mk t, hbm := allocFor hb t })) }

/-! ### Storage (R18, R209, R213) -/

/-- A root port's reset output goes high (R213, step 1). -/
def releaseDrive (s : State) (rp : Nat) : State :=
  { s.onDrive rp (fun d => { d with released := true, linkTry := s.clk.up, step := 1 }) with
    pins.perst := s.pins.perst ||| (1#16 <<< rp), sto.resetHeld := false }

/-- A root port that the split removes. -/
def dropDrive (s : State) (rp : Nat) : State :=
  let s := if (s.drive rp).st = .absent then s else driveFails s rp .removed
  { s with sto.drives := tdel s.sto.drives rp, pins.perst := s.pins.perst &&& ~~~ (1#16 <<< rp) }

/-- The cache after a commit: lines of a namespace with the cache off or with other extents are dropped, and it holds its new size
(R204). -/
def trimCache (o s : State) : State :=
  { s with sto.cache := (s.sto.cache.filter (fun x => nsCached s x.1 && nsExtents s x.1 == nsExtents o x.1)).take (cacheSize s / 4096) }

/-- The tests of a drive whose intervals changed fall due anew (R216). -/
def retimeTests (o s : State) (rp : Nat) : State :=
  if (s.drive rp).st ≠ .online then s
  else s.onDrive rp (fun d => { d with
    shortDue := if selftestItem o rp 0 shortDefault = selftestItem s rp 0 shortDefault then d.shortDue else testDue s rp 0 shortDefault
    extDue := if selftestItem o rp 1 extDefault = selftestItem s rp 1 extDefault then d.extDue else testDue s rp 1 extDefault })

/-- A drive that is FAILED for its serial number is brought up from step 3 when its declaration changes (R215). -/
def redeclare (o s : State) (rp : Nat) : State :=
  if (s.drive rp).st = .failed ∧ serialOk o rp = false ∧ declaredSerial o rp ≠ declaredSerial s rp then
    startStep (s.onDrive rp (fun d => { d with st := .init })) rp 3
  else s

/-- The root ports and journals: released and replayed at the first commit; later, what changed starts anew. -/
def commitSto (o s : State) (first : Bool) : State :=
  let s := ((List.range 16).filter (fun rp => decide (rootPorts s ≤ rp) && (s.drive rp).released)).foldl dropDrive s
  let s := ((List.range 16).filter (fun rp => decide (rp < rootPorts s) && !(s.drive rp).released)).foldl releaseDrive s
  let s := (List.range 16).foldl (fun s rp => redeclare o (retimeTests o s rp) rp) (trimCache o s)
  (List.range 16).foldl (fun s j =>
    if first then (if (journalCfg s j).isSome then s.onJournal j (fun _ => { replay := true }) else s)
    else if itemChanged o s (itemId 9 2 1) j 0 then { s with sto.journals := tdel s.sto.journals j }
    else s) s

/-! ### TALLY (R159, R357) -/

def tallyPkt (s : State) (dst : Nat) : Bytes :=
  sealPkt (ehtCommon 5 0 0 dst (mailboxEid s) 0 s.mbx.gen.toNat ++ beBytes 8 s.cfg.counter ++ s.cfg.digest ++ beBytes 10 s.cfg.time
    ++ beBytes 2 0x0302 ++ beBytes 8 s.fuses.serial.toNat) []

/-- A TALLY to every peer. -/
def sendTally (s : State) : State :=
  (recsOf s (itemId 2 1 4)).foldl (fun s r =>
    let eid := leAt r.2 16 8
    let lp := leAt r.2 24 8
    sendPkt s lp (s.qsetRange lp).1 (controlClass s false) (beAt r.2 32 6) (beAt r.2 0 16) (entropyBase s) eid (tallyPkt s eid))
    { s with mbx.tallyAt := s.clk.up }

/-! ### The commit instant (R347, step 3 and 4) -/

/-- A commit that changes a Stall abandons the test of a unit of it (R424). -/
def stallChanged (o : State) (recs : Tab Bytes) (u : Nat) : Bool :=
  let own (t : Tab Bytes) : Tab Bytes := t.filter (fun r => keyItem r.1 / 65536 == 0x0B01
    && unitOfStall (if 5 ≤ keyItem r.1 % 65536 then keyIndex r.1 / 1024 else keyIndex r.1) u)
  own o.cfg.recs != own recs

/-- The blocks take the new records. `zero`: queues whose changed shaper starts at 0. -/
def takeRecs (o : State) (recs : Tab Bytes) (zero : List Nat) : State :=
  let mgmt := o.port.mgmtOnly
  let first := o.cfg.state != .committed
  let n := underRecs o recs
  let s := commitVersion (abandonTest o (stallChanged o recs)) recs
  let s := commitPort (commitPort { s with port.mgmtOnly := false } mgmt 0 (modeOf n 0)) mgmt 1 (modeOf n 1)
  let s := if mgmt then (List.range 16).foldl (fun s lp => s.onLp lp (fun x => { x with c2m := false })) s else s
  let s := { s with cfg.recs := recs, clk.stopped := s.clk.stopped.filter (fun b => gateMode n b == 1) }
  let s := (List.range 16).foldl (commitBell o) s
  let s := commitPolicers o (commitQueueShapers o (commitShapers o s) zero)
  let s := (List.range 16).foldl (commitTable o) s
  let s := commitSto o (abortUnreadable (commitTfs o s)) first
  if first then
    let s := { s with tsl.firstCommit := if s.tsl.firstCommit.isSome then s.tsl.firstCommit else some s.clk.up }
    ((List.range 12).filter (autostart s)).foldl startStall s
  else s

/-- A validated configuration committed under a counter and a time. -/
def commitAt (o : State) (recs : Tab Bytes) (zero : List Nat) (counter : Nat) (digest : Bytes) : State :=
  let s := takeRecs o recs zero
  let s := { s with cfg.state := .committed, cfg.counter := counter, cfg.time := time80 s.ns, cfg.digest := digest, cfg.stored := false }
  let s := raise (countStat (extendMr s 6 digest) (clerkBase + 0x108) 1) 0x0201 0 []
  sendTally s

/-! ### The stored record (R348, R349) -/

def areaBase (a : Nat) : Nat := 0x01000000 * (a + 1)
def areaSize : Nat := 0x01000000
def cfgMagic : Nat := 0x4C41434647524543

def flashRead (s : State) (a n : Nat) : Bytes := mreads 0xFF#8 s.mem.flash a n
def flashWrite (s : State) (a : Nat) (v : Bytes) : State := { s with mem.flash := mwrites 0xFF#8 s.mem.flash a v }
def flashErase (s : State) (a n : Nat) : State := { s with mem.flash := mclear s.mem.flash a n }

/-- Header and body of the record of the configuration in force, and its trailer without IV and TAG. -/
def storedHead (s : State) : Bytes × Bytes :=
  let t := tallyEncoding s s.cfg.recs
  let l := localEncoding s.cfg.recs
  let img := s.cfg.images.flatMap (fun b => encN b.length ++ b)
  let hdr := encN cfgMagic ++ leBytes 2 1 ++ leBytes 2 0x0302 ++ [0, 0, 0, 0] ++ encN s.cfg.counter ++ leBytes 10 s.cfg.time ++ List.replicate 6 0
    ++ encN t.length ++ encN l.length ++ encN img.length
  (hdr ++ t ++ l ++ img, shake256 t ++ shake256 (hdr ++ l ++ img))

/-- An area holds a record (R349). -/
def holdsRecord (s : State) (a : Nat) : Bool := flashRead s (areaBase a) 8 == encN cfgMagic

/-- A record of an area: counter, the three encodings, the trailer; `half`: not complete. -/
structure AreaRec where
  counter : Nat
  hdr : Bytes
  tally : Bytes
  loc : Bytes
  img : Bytes
  trailer : Bytes
  half : Bool

def readArea (s : State) (a : Nat) : AreaRec :=
  let hdr := flashRead s (areaBase a) 0x40
  let tl := leAt hdr 0x28 8
  let ll := leAt hdr 0x30 8
  let il := leAt hdr 0x38 8
  let b := areaBase a + 0x40
  if areaSize < 0x40 + tl + ll + il + 0x5C then { counter := leAt hdr 0x10 8, hdr := hdr, tally := [], loc := [], img := [], trailer := [], half := true }
  else
    let tr := flashRead s (b + tl + ll + il) 0x5C
    { counter := leAt hdr 0x10 8, hdr := hdr, tally := flashRead s b tl, loc := flashRead s (b + tl) ll, img := flashRead s (b + tl + ll) il
      trailer := tr, half := tr.all (· == 0xFF#8) }

/-- The area of the latest record among those that satisfy `p` (R349). -/
def latestArea (s : State) (p : Nat → Bool) : Option Nat :=
  match p 0, p 1 with
  | true, true => if (readArea s 0).counter < (readArea s 1).counter then some 1 else some 0
  | true, false => some 0
  | false, true => some 1
  | false, false => none

/-- The area that holds the newest complete record (R348). -/
def newestComplete (s : State) : Option Nat := latestArea s (fun a => holdsRecord s a && !(readArea s a).half)

/-- A store begins: the area is erased, header and body are written; the trailer waits (R348, R352). -/
def beginStore (s : State) (area : Nat) : State :=
  let x := storedHead s
  let iv := s.drawBytes 12
  let tag := (gcmEncrypt s.fuses.key1 iv.1 x.2 []).2
  let s := flashWrite (flashErase iv.2 (areaBase area) areaSize) (areaBase area) x.1
  { s with cfg.store := some (areaBase area + x.1.length, x.2 ++ iv.1 ++ tag) }

/-- The store of a commit: with PERSIST, or in place of a store that it abandons (R348; log 31). -/
def storeCommit (s : State) (persist : Bool) : State :=
  match s.cfg.store with
  | some (a, _) => beginStore s (if a < areaBase 1 then 0 else 1)
  | none => if persist then beginStore s (if newestComplete s = some 0 then 1 else 0) else s

/-- The images of a record's image section; none when its lengths run past it. -/
def readImages : Nat → Bytes → Option (List Bytes)
  | 0, _ => none
  | fuel + 1, b =>
    if b = [] then some []
    else if b.length < 8 ∨ b.length < 8 + leAt b 0 8 then none
    else (readImages fuel (b.drop (8 + leAt b 0 8))).map (slice b 8 (leAt b 0 8) :: ·)

/-- The records of a stored configuration, keys rising, defaults left out. -/
def storedRecs (s : State) (r : AreaRec) : Option (Tab Bytes) :=
  if r.tally.take 8 ≠ tallyMagic then none
  else match readAll (r.tally.drop 16), readAll r.loc with
    | .inl t, .inl l =>
      if t.length ≠ leAt r.tally 8 8 then none
      else match putRecs s 1 [] (t ++ l) with
        | .inl x => some x
        | .inr _ => none
    | _, _ => none

/-- The checks of R349 on a record, up to validation: the machine with its images reloaded, and the records or the reason; a failed
validation is reason 5 with its failure. Images that passed stay loaded and measured when a later check fails (R84, R86). -/
def checkRecord (s : State) (a : Nat) (sig : Bool) : State × (Tab Bytes ⊕ (Nat × Option CfgFail)) :=
  let r := readArea s a
  if r.half then (s, .inr (1, none))
  else if (gcmDecrypt s.fuses.key1 (slice r.trailer 0x40 12) (r.trailer.take 0x40) [] (slice r.trailer 0x4C 16)).isNone then (s, .inr (2, none))
  else if shake256 r.tally ≠ r.trailer.take 32 ∨ shake256 (r.hdr ++ r.loc ++ r.img) ≠ slice r.trailer 32 32 then (s, .inr (3, none))
  else match readImages (r.img.length + 1) r.img with
    | none => (s, .inr (4, none))
    | some l =>
      let x := reloadImages sig l s
      if !x.2 then (x.1, .inr (4, none))
      else match storedRecs x.1 r with
        | none => (x.1, .inr (5, none))
        | some recs => (x.1, match validate x.1 recs with
          | some f => .inr (5, some f)
          | none => .inl recs)

end Sys2Proof.Machine
end

