-- ==== Sys2Proof/Machine/Memory.lean ====
section
/-! DEFINITION. Errors of the memories and the patrol scrubber (13, R325 to R329), and R120. -/

namespace Sys2Proof.Machine

/-! ### Where a word stands -/

/-- The RAM address of a word of a memory: core scratch and Stall memory are named by Stall, role and thread
address (R280, R330); none outside the memory. -/
def wordAddr (kind : MemKind) (unit role a : Nat) : Option Nat :=
  match kind with
  | .scratch => if unit < 12 ∧ role < 16 ∧ a < 0x20000 then some (scratchBase unit role + a) else none
  | .stall => if unit < 12 ∧ 0x10000000 ≤ a ∧ a < 0x10400000 then some (stallMemBase unit + (a - 0x10000000)) else none
  | .market => if inMarket a 1 then some a else none
  | .hbm => if inHbm a 1 then some a else none

def memNo : MemKind → Nat
  | .scratch => 0
  | .stall => 1
  | .market => 2
  | .hbm => 3

/-- CORR and UNCORR of a memory. -/
def corrCtr (k : MemKind) : Nat := memBase + 0x40 + 4 * memNo k
def uncorrCtr (k : MemKind) : Nat := memBase + 0x50 + 4 * memNo k

/-- Base of a table's buckets of a level: tables in number order from the start of the area (log 34). -/
def bucketBase (s : State) (t level : Nat) : Nat :=
  (if level = 0 then marketBase else hbmBase + 0x06000000) + 32 * ((List.range t).map (fun k => levelUnits s k level)).sum

/-- The table, level and bucket that a device address holds. -/
def bucketAt (s : State) (a : Nat) : Option (Nat × Nat × Nat) :=
  (List.range 16).findSome? (fun t => [0, 1].findSome? (fun l =>
    let b := bucketBase s t l
    if b ≤ a ∧ a < b + 32 * levelUnits s t l then some (t, l, (a - b) / (128 * tblUnits s t)) else none))

/-- The fixed areas of Market memory and HBM (R319, R323). -/
def fixedArea (a : Nat) : Bool :=
  (decide (marketBase + 0x3600000 ≤ a) && decide (a < marketBase + marketSize)) || (decide (hbmBase ≤ a) && decide (a < hbmBase + 0x80000000))

/-- Both copies of the region descriptors (R323). -/
def descriptorArea (a : Nat) : Bool :=
  (decide (hbmBase ≤ a) && decide (a < hbmBase + 0x4000000)) || (decide (hbmBase + 0x66000000 ≤ a) && decide (a < hbmBase + 0x6A000000))

/-- Start of the storage cache: it ends where the tenant share begins, in units of 2 MiB (R323). -/
def cacheStart (s : State) : Nat := (hbmShare s).1 - (cacheSize s + 0x1FFFFF) / 0x200000 * 0x200000

/-! ### The safe outcomes (R326) -/

/-- A bucket lost (R120). -/
def loseBucket (s : State) (t level bucket : Nat) : State :=
  if (s.tbl t).lost.contains (level, bucket) then s
  else
    let s := countErr (s.onTbl t (fun tb => { tb with lost := (level, bucket) :: tb.lost })) (tErr t 6)
    raise (post s t 7 0xFF 0xFF 0 (level * 32768) (leBytes 4 bucket)) 0x0602 t (encN level ++ encN bucket)

/-- A deduplication entry freed, by its place in the table (log 34). -/
def loseDedup (s : State) (k : Nat) : State :=
  if k < s.eht.dedup.length then countErr { s with eht.dedup := s.eht.dedup.eraseIdx k } (ehtErr 8) else s

/-- A context freed, by its place in the table. -/
def loseCtx (s : State) (k : Nat) : State :=
  match s.eht.ctxs[k]? with
  | some c => countErr (dropSlot (dropCtx s c.key) c.dst c.slot) (ehtErr 8)
  | none => s

/-- The oldest command of the `k`-th storage queue ends with STO_E_INTERNAL (R197, R326; log 20). -/
def loseSqWord (s : State) (k : Nat) : State :=
  match s.sto.queues[k]? with
  | some q => match q.2.cmds with
    | c :: _ => finishCmd s q.1 c stoInternal 0
    | [] => s
  | none => s

/-- A line of the storage cache invalidated (R204). -/
def loseLine (s : State) (k : Nat) : State :=
  if k < s.sto.cache.length then countErr { s with sto.cache := s.sto.cache.eraseIdx k } (stoErr 4) else s

/-- The frame at cell `c` of those that lie one behind the other: the cells left to skip, or the list without that frame. -/
def loseIn {α : Type} (frame : α → Frame) : Nat → List α → Nat ⊕ List α
  | c, [] => .inl c
  | c, x :: l =>
    if c < cells (frame x).len then .inr l
    else match loseIn frame (c - cells (frame x).len) l with
      | .inl d => .inl d
      | .inr l => .inr (x :: l)

/-- The frame of queue `qs` at cell `c` discarded, counted in TX_DISCARD of its port. -/
def loseQueued (s : State) (lp : Nat) : List Nat → Nat → State ⊕ Nat
  | [], c => .inr c
  | q :: qs, c =>
    match loseIn id c (s.tq q).frames with
    | .inr l => .inl (countErr (s.onTq q (fun x => { x with frames := l })) (lErr lp 4))
    | .inl c => loseQueued s lp qs c

/-- The same for a port: on the MAC the frame ends with an inverted FCS; elsewhere it is discarded (R326). -/
def losePort (s : State) (lp c : Nat) : State ⊕ Nat :=
  let p := s.lp lp
  let n := match p.mac with
    | some m => cells m.frame.len
    | none => 0
  if c < n then
    .inl (countErr (s.onLp lp (fun p => { p with mac := p.mac.map (fun m =>
      { m with wire := if m.frame.bad then m.wire else invertFcs m.wire, frame := { m.frame with bad := true } }) })) (lErr lp 4))
  else match loseIn id (c - n) p.express with
    | .inr l => .inl (countErr (s.onLp lp (fun p => { p with express := l })) (lErr lp 4))
    | .inl c => match loseIn Prod.snd c p.order with
      | .inr l => .inl (countErr (s.onLp lp (fun p => { p with order := l })) (lErr lp 4))
      | .inl c => match loseIn (fun x => x.2.2) c p.pitch with
        | .inr l => .inl (countErr (s.onLp lp (fun p => { p with pitch := l })) (lErr lp 4))
        | .inl c => loseQueued s lp (portQueues s lp) c

/-- Cell `c` of the pool lost: the frames lie one behind the other, port by port (DESIGN CHOICE, log 34). -/
def loseCell (s : State) : List Nat → Nat → State
  | [], _ => s
  | lp :: lps, c =>
    match losePort s lp c with
    | .inl s => s
    | .inr c => loseCell s lps c

/-- An address of the packet buffer pool that no held buffer covers (R320, R322). -/
def inPool (s : State) (a : Nat) : Bool :=
  decide (poolBase s ≤ a) && decide (a < poolBase s + poolSize s)
    && !s.mem.bufs.any (fun b => decide (b.1 ≤ a) && decide (a < b.1 + cells b.2.cap * 256))

/-- What an uncorrectable error at a device address does to what stands there; the word stays poisoned except where
it is rewritten or given up at once. -/
def eccOutcome (s : State) (a : Nat) : State × Bool :=
  match bucketAt s a with
  | some (t, l, b) => (loseBucket s t l b, false)
  | none =>
    let o := a - marketBase
    if inMarket a 1 ∧ 0x3600000 ≤ o ∧ o < 0x4E00000 then (loseDedup s ((o - 0x3600000) / 24), true)
    else if inMarket a 1 ∧ 0x4E00000 ≤ o ∧ o < 0x5200000 then (loseCtx s ((o - 0x4E00000) / 64), true)
    else if inMarket a 1 ∧ 0x5C00000 ≤ o ∧ o < 0x5E00000 then (loseSqWord s ((o - 0x5C00000) / 8), true)
    else if inPool s a then (loseCell s ((List.range 16).filter s.lpPresent) ((a - poolBase s) / 256), true)
    else if descriptorArea a then (s, false)
    else if cacheStart s ≤ a ∧ a < (hbmShare s).1 then (loseLine s ((a - cacheStart s) / 4096), false)
    else (s, true)

/-- Capture of an uncorrectable error, with its event, while none is held (R326, R330). -/
def captureEcc (s : State) (kind : MemKind) (unit role a : Nat) : State :=
  if s.mem.lastxValid then s
  else
    let info := memNo kind * 2 ^ 28 + (unit % 256) * 256 + (if memNo kind ≤ 1 then role % 256 else 0)
    raise { s.noteFlag (memBase + 0x20) true with mem.lastxValid := true, mem.lastxAddr := a, mem.lastxInfo := info } 0x0104 0 []

/-! ### HBM rows (R329) -/

/-- The HBM row of an address, in units of 1 KiB (log 35). -/
def hbmRow (a : Nat) : Nat := (a - hbmBase) / 1024

def recordRow (s : State) (row : Nat) : State :=
  if s.mem.rowsBad.contains row then s else { s with mem.rowsBad := s.mem.rowsBad ++ [row] }

/-- A corrected error of an HBM row: 16 within 24 h record it. -/
def rowCorrected (s : State) (row : Nat) : State :=
  let l := (tget s.mem.rowErr row []).filter (fun x => decide (s.clk.up < x + 86400 * nsPerSec)) ++ [s.clk.up]
  let s := { s with mem.rowErr := tset s.mem.rowErr row l }
  if 16 ≤ l.length then recordRow s row else s

/-- The next test of a bank or core with a memory error comes first in the order (R421). -/
def bringForward (s : State) (kind : MemKind) (unit role : Nat) : State :=
  let u := match kind with
    | .scratch => (s.role unit role).phys.map (unitCore unit)
    | .stall => if role < 17 then some (unitStallBank unit role) else none
    | .market => if unit < 132 then some (unitMktBank unit) else none
    | .hbm => none
  match u with
  | some u => { s with tsl.forward := u :: s.tsl.forward.filter (· != u), tsl.todo := if s.tsl.todo.contains u then u :: s.tsl.todo.filter (· != u) else s.tsl.todo }
  | none => s

/-! ### The scrubber (R325) -/

/-- The same word of the other copy of a region descriptor (R323). -/
def otherCopy (a : Nat) : Nat := if a < hbmBase + mirrorOff then a + mirrorOff else a - mirrorOff

/-- What a scrub read does. -/
def scrubRead (s : State) (kind : MemKind) (unit role a x : Nat) (found : EccFinding) : State :=
  if s.mem.poison.contains (x / 8) then poisonHit s
  else match found with
    | .clean => s
    | .corrected =>
      let s := countErr s (corrCtr kind)
      if kind = .hbm then rowCorrected s (hbmRow x) else s
    | .uncorrectable | .uncorrectableBoth =>
      let s := captureEcc (countErr (bringForward s kind unit role) (uncorrCtr kind)) kind unit role a
      let s := if kind = .hbm then recordRow s (hbmRow x) else s
      let y := eccOutcome s x
      if y.2 then { y.1 with mem.poison := x / 8 :: y.1.mem.poison }
      else if found = .uncorrectableBoth ∧ descriptorArea x then
        { y.1 with mem.poison := x / 8 :: otherCopy x / 8 :: y.1.mem.poison.filter (· != otherCopy x / 8) }
      else y.1

/-- The bank that a read of Market or Stall memory names has been declared dead, and its stamp is not that of the role which it
filled: the role (R32, R34). -/
def staleBank (s : State) (kind : MemKind) (unit role : Nat) : Option (Nat × Nat) :=
  let of (b : Nat) (name : Nat → Nat) : Option (Nat × Nat) :=
    match tget? s.tsl.dead b with
    | some d => if d.role = 0xFFFF ∨ s.fenceOk b (.bank (name d.role)) then none else some (b, name d.role)
    | none => none
  match kind with
  | .market => if unit < 132 then of (unitMktBank unit) unitMktBank else none
  | .stall => if role < 17 then of (unitStallBank unit role) (unitStallBank unit) else none
  | _ => none

/-- PATROL_SCRUB: one read; what a dead bank answers is discarded (R34). A completed pass over all memories counts. -/
def execPatrolScrub (t : Nat) (kind : MemKind) (unit role : Byte) (addr : Word64) (found : EccFinding) (passDone : Bool) (s : State) :=
  act t s (fun s =>
    let s := match staleBank s kind unit.toNat role.toNat, wordAddr kind unit.toNat role.toNat addr.toNat with
      | some (b, r), _ => fencedDiscard s (.bank r) (s.heldGen b)
      | none, some x => scrubRead s kind unit.toNat role.toNat addr.toNat x found
      | none, none => s
    if passDone then countStat s (memBase + 0x100) 1 else s)

/-- FIXED_AREA_REWRITE: a poisoned word of a fixed area is written anew from the Clerk's own state (R326). -/
def execFixedAreaRewrite (t : Nat) (addr : Word64) (s : State) :=
  act t s (fun s => if fixedArea addr.toNat then { s with mem.poison := s.mem.poison.filter (· ≠ addr.toNat / 8) } else s)

end Sys2Proof.Machine
end

