-- ==== Sys2Proof/Machine/ParserOps.lean ====
section
/-! DEFINITION. The rows of the parser block (R67 to R93): dispatch, stalls, ends, the reorder buffers, version
slots, rewriting of control-store words. -/

namespace Sys2Proof.Machine

def parErr (k : Nat) : Nat := parserBase + 0x100 + 4 * k
def parStat (k : Nat) : Nat := parserBase + 0x200 + 8 * k
def chcX (code : Nat) : Nat := parserBase + 0x180 + 4 * (code - 1)

def seqSlots (s : State) (n : Nat) : List SlotFrame := tget s.parse.slots n []
def State.rob (s : State) (b : Nat) : Rob := tget s.parse.robs b {}
def State.onRob (s : State) (b : Nat) (f : Rob → Rob) : State := { s with parse.robs := tmod s.parse.robs b {} f }
def setSlots (s : State) (n : Nat) (l : List SlotFrame) : State := { s with parse.slots := tset s.parse.slots n l }

/-- A sequencer is in rotation (R78). -/
def inRotation (s : State) (n : Nat) : Bool := !s.parse.out.contains n && !s.parse.dead.contains n

/-- The next sequencer of a pipeline, in round-robin order, that is in rotation and has a free slot (R68), but for those of `but`. -/
def nextSeq (s : State) (pipe : Nat) (but : List Nat := []) : Option Nat :=
  let r := tget s.parse.rr pipe 5
  (((List.range 6).map (fun i => pipe * 6 + (r + 1 + i) % 6)).find? (fun n =>
    !but.contains n && inRotation s n && decide ((seqSlots s n).length < 2)))

/-- Sequencers of a pipeline other than `n` that are idle (R69). -/
def idleOthers (s : State) (pipe n : Nat) : Nat :=
  (((List.range 6).map (pipe * 6 + ·)).filter (fun m => m != n && inRotation s m && (seqSlots s m).isEmpty)).length

/-- The reorder buffer of a frame (R92). -/
def robOf (pipe : Nat) (pf : PFrame) : Nat := if pf.src < 16 then pf.src else 16 + pipe

/-- The frame to be dispatched next: port frames, then recirculated, then core-injected ones (R69; log 30), and the
state without it. -/
def takeFrame (s : State) (pipe n : Nat) : Option (PFrame × State) :=
  match tget s.parse.cross pipe [], tget s.parse.recirc pipe [], tget s.parse.inject pipe [] with
  | x :: rest, _, _ => some (x, { s with parse.cross := tset s.parse.cross pipe rest })
  | [], x :: rest, _ => if 2 ≤ idleOthers s pipe n then some (x, { s with parse.recirc := tset s.parse.recirc pipe rest }) else none
  | [], [], x :: rest => if 2 ≤ idleOthers s pipe n then some (x, { s with parse.inject := tset s.parse.inject pipe rest }) else none
  | [], [], [] => none

/-- A 1x800G port's frame is the earliest of its port that waits in the pair's crossing queues: its reorder tag follows the order of
arrival (R22). -/
def inTurn (s : State) (pipe : Nat) (pf : PFrame) : Bool :=
  decide (16 ≤ pf.src) || s.portMode (pf.src / 8) != 0
    || (tget s.parse.cross (pipe ^^^ 1) []).all (fun x => x.src != pf.src || decide (pf.no < x.no))

/-- A frame given to sequencer `n` under its tag. -/
def giveSlot (s : State) (pipe n b tag avail : Nat) (pf : PFrame) : State :=
  let slot : SlotFrame := { pf := pf, buf := b, tag := tag, avail := avail, gen := s.heldGen (unitSeq n), at_ := s.clk.up }
  { setSlots s n (seqSlots s n ++ [slot]) with parse.rr := tset s.parse.rr pipe (n % 6) }

/-- A frame dispatched: its slot, its reorder entry under the next tag of its buffer, its counters, its packet buffer. -/
def dispatchTo (s : State) (pipe n avail : Nat) (pf : PFrame) : State :=
  let b := robOf pipe pf
  let tag := (s.rob b).next
  let x := { pf with release := none }
  let s := { giveSlot s pipe n b tag avail x with parse.dispatched := true }
  let s := s.onRob b (fun r => { r with next := (tag + 1) % 256
                                        entries := r.entries ++ [{ tag := tag, pf := x, pipe := pipe, at_ := s.clk.up, again := false, res := none }] })
  let s := countStat s (parStat pipe) 1
  let s := if pf.src.testBit 4 then countStat s (parStat 4) 1 else if pf.src.testBit 5 then countStat s (parStat 5) 1 else s
  match pf.release with
  | some a => freeBuf s a
  | none => s

/-- DISPATCH (R68, R69, R92): `avail` bytes of the frame have arrived. -/
def dispatch (s : State) (pipe avail : Nat) : State :=
  if !s.parse.patchDone then s
  else match nextSeq s pipe with
    | none => s
    | some n =>
      match takeFrame s pipe n with
      | none => s
      | some (pf, s1) =>
        if avail < min 64 pf.frame.len ∨ 32 ≤ (s.rob (robOf pipe pf)).entries.length ∨ !inTurn s pipe pf then s
        else dispatchTo s1 pipe n avail pf

def execDispatch (t : Nat) (pipe : Fin 4) (avail : Nat) (s : State) := act t s (fun s => dispatch s pipe.val avail)

/-- PARSE_STALL_RESUME (R70): more bytes for the frame at the head of a sequencer, after `clocks` clocks of stall. -/
def stallResume (s : State) (n avail clocks : Nat) : State :=
  match seqSlots s n with
  | x :: rest =>
    match parseSlot s n x with
    | .stalled _ => setSlots s n ({ x with resumes := x.resumes ++ [(avail, clocks)] } :: rest)
    | _ => s
  | [] => s

def execParseStallResume (t : Nat) (pipe : Fin 4) (seq : Fin 6) (avail clocks : Nat) (s : State) :=
  act t s (fun s => stallResume s (pipe.val * 6 + seq.val) avail clocks)

/-- An exception counted (R76). -/
def countException (s : State) (code : Nat) : State := if 1 ≤ code ∧ code ≤ 8 then countErr s (chcX code) else s

/-- The result of a sequencer at the reorder buffer, which checks its fencing generation (R67, R34). -/
def writeResult (s : State) (n : Nat) (x : SlotFrame) (r : ParseRes) (addr : Nat) : State :=
  let s := setSlots s n ((seqSlots s n).drop 1)
  if x.gen ≠ s.fenceGen (.seq n) then fencedDiscard s (.seq n) x.gen
  else
    let s := countException s r.code
    let s := if r.code = xEcc then raise s 0x0502 0 (encN n ++ encN addr) else s
    s.onRob x.buf (fun b => { b with entries := b.entries.map (fun e => if e.tag = x.tag ∧ e.res.isNone then { e with res := some r } else e) })

/-- A control-store word of a sequencer in which a double-bit error was found (R81). -/
def wordBad (s : State) (n : Nat) (bad : Option Nat) : State :=
  match bad with
  | some a => { s with parse.poison := (n * 32768 + a) :: s.parse.poison }
  | none => s

/-- PARSE_END (R76): the frame at the head of a sequencer ends with an END word or an exception other than the cap.
`corrected` and `bad` are what the SECDED of the control store found in its words (R81); a bad word that the program
does not come to is none. -/
def parseEnd (s : State) (n corrected : Nat) (bad : Option Nat) : State :=
  match seqSlots s n with
  | x :: _ =>
    match parseSlot (wordBad s n bad) n x with
    | .ends r a =>
      if bad.isNone || (bad == some a && r.code == xEcc) then
        writeResult (countErrs (wordBad s n bad) (parserBase + 0x1A0) corrected) n x r a
      else s
    | _ => s
  | [] => s

/-- The pipeline clocks of a number of ns: 1.1 GHz. -/
def pipeClocks (ns : Nat) : Nat := ns * 11 / 10

/-- What a parse has come to when its clocks reach the cap: one that runs ends there, and one that still waits for a byte too, once
that many clocks can have passed since its dispatch (R76). -/
def capResult (s : State) (n : Nat) (x : SlotFrame) : Option ParseRes :=
  match parseSlot s n x with
  | .capped r => some r
  | .stalled p =>
    let e := slotEnv s n x
    if e.cap ≤ pipeClocks (s.clk.up - x.at_) then some (p.capEnd e) else none
  | .ends .. => none

/-- CHC_X_CAP (R76), with the errors that the SECDED corrected in the frame's words (R81). -/
def parseCapped (s : State) (n corrected : Nat) : State :=
  match seqSlots s n with
  | x :: _ =>
    match capResult s n x with
    | some r => writeResult (countErrs s (parserBase + 0x1A0) corrected) n x r 0
    | none => s
  | [] => s

def execParseEnd (t : Nat) (pipe : Fin 4) (seq : Fin 6) (corrected : Nat) (bad : Option (BitVec 15)) (s : State) :=
  act t s (fun s => parseEnd s (pipe.val * 6 + seq.val) corrected (bad.map BitVec.toNat))
def execChcXCap (t : Nat) (pipe : Fin 4) (c : CapEnd) (s : State) :=
  act t s (fun s => parseCapped s (pipe.val * 6 + c.seq.val) c.corrected)

/-- A port frame took more than 64 parser-stage clocks since it entered the block (R96). -/
def stageOver (s : State) (pf : PFrame) : Bool := decide (64 < pipeClocks (s.clk.up - pf.at_)) && decide (pf.src < 16)

/-- ROB_RELEASE (R92, R93): the head result is released in tag order, and the frame goes on. -/
def robRelease (s : State) (b : Nat) : State :=
  match (s.rob b).entries with
  | [] => s
  | e :: rest =>
    match e.res with
    | none => s
    | some r =>
      let s := s.onRob b (fun x => { x with entries := rest })
      let late := stageOver s e.pf
      let s := if late then (countErr s (parErr (e.pf.src % 16))).onLp (e.pf.src % 16) (fun p => { p with overAt := some s.clk.up }) else s
      let pf := if late then { e.pf with frame := e.pf.frame.blame causeParse } else e.pf
      verInflight (classify s e.pipe pf r) e.pf.ver (· - 1)

def execRobRelease (t : Nat) (buf : Fin 20) (s : State) := act t s (fun s => robRelease s buf.val)

/-- A frame of a buffer under a tag. -/
def SlotFrame.isOf (x : SlotFrame) (b tag : Nat) : Bool := x.buf == b && x.tag == tag

/-- The sequencers that hold a frame. -/
def holders (s : State) (b tag : Nat) : List Nat := (s.parse.slots.filter (fun p => p.2.any (·.isOf b tag))).map Prod.fst

/-- An entry's frame given to another sequencer under its version (R79); it waits where none is free. The one that had it keeps it in
its slot: a result that it still writes is discarded there, under R34 where the unit is dead. -/
def redispatch (s : State) (b : Nat) (e : RobEntry) : State :=
  match nextSeq s e.pipe (holders s b e.tag) with
  | none => s
  | some n =>
    (giveSlot s e.pipe n b e.tag e.pf.frame.len e.pf).onRob b (fun r =>
      { r with entries := r.entries.map (fun x => if x.tag = e.tag then { x with again := true, at_ := s.clk.up } else x) })

/-- A frame whose second attempt failed ends with CHC_X_FENCE (R79, R93); it leaves the slots of sequencers that are not dead. -/
def fenceEnd (s : State) (b : Nat) (e : RobEntry) : State :=
  let r : ParseRes := { profile := 4080 + xFence, code := xFence, key := List.replicate 128 0, meta_ := List.replicate 8 0, flags := 0
                        stack := [], csumBad := false, clocks := 0 }
  let s := { s with parse.slots := s.parse.slots.map (fun p =>
    if s.parse.dead.contains p.1 then p else (p.1, p.2.filter (fun x => !x.isOf b e.tag))) }
  let s := countException s xFence
  let s := if b < 16 then countErr s (parErr (16 + b)) else s
  s.onRob b (fun x => { x with entries := x.entries.map (fun y => if y.tag = e.tag then { y with res := some r } else y) })

/-- A frame that has lost its sequencer: a second attempt, once (R79). -/
def retryEntry (s : State) (b : Nat) (e : RobEntry) : State := if e.again then fenceEnd s b e else redispatch s b e

/-- ROB_TIMEOUT (R93): the head entry has waited 256 clocks without a result. -/
def robTimeout (s : State) (b : Nat) : State :=
  match (s.rob b).entries with
  | e :: _ => if e.res.isNone ∧ 256 ≤ pipeClocks (s.clk.up - e.at_) then retryEntry s b e else s
  | [] => s

def execRobTimeout (t : Nat) (buf : Fin 20) (s : State) := act t s (fun s => robTimeout s buf.val)

/-- VERSION_SLOT_FREE (R87). -/
def freeVersion (s : State) (v : Nat) : State :=
  if (s.ver v).state = .retiring ∧ (s.ver v).inflight = 0 then { s with parse.vers := tdel s.parse.vers v } else s

def execVersionSlotFree (t : Nat) (slot : Fin 8) (s : State) := act t s (fun s => freeVersion s slot.val)

/-- CS_REWRITE (R81): a RAM word of one sequencer written again from the Clerk's copy. -/
def csRewrite (s : State) (seq addr : Nat) : State :=
  if 0x4000 ≤ addr then { s with parse.poison := s.parse.poison.filter (· != seq * 32768 + addr) } else s

def execCsRewrite (t : Nat) (seq : Fin 24) (addr : BitVec 15) (s : State) := act t s (fun s => csRewrite s seq.val addr.toNat)

end Sys2Proof.Machine
end

