-- ==== Sys2Proof/Machine/Teasel.lean ====
section
/-! DEFINITION. In-service test, spares and fencing (17): units, tests, sweeps, dead units. -/

namespace Sys2Proof.Machine

/-! ### Configuration (R432) and units (R419) -/

def teaselOn (s : State) : Bool := s.cfgN (itemId 0xE 1 1) 0 0 1 == 1
def sweepPeriod (s : State) : Nat := s.cfgN (itemId 0xE 1 2) 0 0 (600 * nsPerSec)
def idleThreshold (s : State) : Nat := s.cfgN (itemId 0xE 1 3) 0 0 10000
def kindOn (s : State) (k : Nat) : Bool := s.cfgN (itemId 0xE 1 5) k 0 1 == 1

/-- Teasel is on and sweeps may run (R425): a configuration is in force and no Clerk restart runs. -/
def teaselRuns (s : State) : Bool := s.phase == .running && teaselOn s && s.committed && s.tsl.restart.isNone

/-- Units of a kind. -/
def unitCount (k : Nat) : Nat := [0, 204, 24, 204, 132].getD k 0
def unitKnown (u : Nat) : Bool := decide (unitIdx u < unitCount (unitKind u))

def isDead (s : State) (u : Nat) : Bool := (tget? s.tsl.dead u).isSome

/-- The units in the order of R425, those dead apart. -/
def unitOrder : List Nat := [4, 3, 2, 1].flatMap (fun k => (List.range (unitCount k)).map (k * 4096 + ·))

/-! ### Banks and their roles (R328) -/

/-- A spare position of a memory. -/
def spareBank (u : Nat) : Bool := if unitKind u = 4 then decide (128 ≤ unitIdx u) else unitIdx u % 17 == 16

/-- The role, named by its own bank, that a physical bank fills. -/
def bankRole (s : State) (b : Nat) : Option Nat :=
  match s.tsl.bankMap.find? (fun p => p.2 == b) with
  | some p => some p.1
  | none => if spareBank b ∨ (tget? s.tsl.bankMap b).isSome then none else some b

/-- The banks of a unit's memory. -/
def memoryBanks (u : Nat) : List Nat :=
  if unitKind u = 4 then (List.range 132).map (4 * 4096 + ·) else (List.range 17).map (3 * 4096 + unitIdx u / 17 * 17 + ·)

/-- Free spares for a bank: they fill no role, are not dead and not under test. -/
def freeSpares (s : State) (u : Nat) : List Nat :=
  (memoryBanks u).filter (fun b => b != u && (bankRole s b).isNone && !isDead s b && (match s.tsl.cur with
    | some c => c.unit != b
    | none => true))

/-- A role's addresses redirected to a bank. -/
def redirect (s : State) (role b : Nat) : State :=
  { s with tsl.bankMap := if b = role then tdel s.tsl.bankMap role else tset s.tsl.bankMap role b }

/-! ### Eligibility (R422) -/

/-- A role quiet for the core idle threshold, with nothing waiting for it. -/
def roleIdle (s : State) (st r : Nat) : Bool :=
  let c := s.role st r
  (s.stall st).st == .running
    && (c.threads.filter (fun t => t.2.enable)).all (fun t => t.2.countsBlocked)
    && decide (coreClocks (idleThreshold s) ≤ c.quietCount s.clk.up)
    && c.faults.isEmpty
    && c.eps.all (fun e => e.2.mode != 1 || (s.chan e.2.chan).msgs.isEmpty)
    && (c.threads.filter (fun t => t.2.enable)).all (fun t => match t.2.wait with
      | some (w, _) => (tryRead s { stall := Fin.ofNat 12 st, role := Fin.ofNat 16 r, thread := Fin.ofNat 8 t.1 } w).isNone
      | none => true)

/-- The role that a core fills. -/
def coreRoleOf (s : State) (st p : Nat) : Option Nat := ((s.stall st).cores.find? (fun c => c.2.phys == some p)).map Prod.fst

/-- The unit's block is in sleep or deep-sleep (R405). -/
def unitAsleep (s : State) (u : Nat) : Bool :=
  (unitKind u == 1 || unitKind u == 3) && tget s.clk.gates (unitIdx u / 17) .run != .run

def eligible (s : State) (u : Nat) : Bool :=
  !unitAsleep s u && (isDead s u || (match unitKind u with
    | 1 =>
      let st := unitIdx u / 17
      (s.stall st).st == .stopped || (match coreRoleOf s st (unitIdx u % 17) with
        | some r => roleIdle s st r
        | none => true)
    | 2 => (List.range 6).all (fun k => inRotation s (unitIdx u / 6 * 6 + k)) && (seqSlots s (unitIdx u)).isEmpty
    | _ => (bankRole s u).isNone || !(freeSpares s u).isEmpty))

/-! ### Declaring a unit dead (R427, R428) -/

/-- The list entry that a declaration is owed, or the report that the list is full. -/
def oweEntry (s : State) (u : Nat) : State :=
  if s.fuses.dead.length + s.tsl.burn.length < 96 then { s with tsl.burn := s.tsl.burn ++ [u] }
  else raise s 0x0E06 0 (encN u)

/-- A dead core isolated; its role's hand-over owed (R248, R274). Role 0xFFFF: it filled none. -/
def isolateCore (s : State) (u : Nat) : State × Nat × Nat :=
  let st := unitIdx u / 17
  let p := unitIdx u % 17
  let spare := (s.stall st).spares.contains p
  let role := coreRoleOf s st p
  let s := s.onStall st (fun x => { x with dead := x.dead ++ [p], spares := x.spares.filter (· != p) })
  match role with
  | some r =>
    let s := s.fenceBump (.core st r)
    let s := s.onStall st (fun x => { x with owed := x.owed ++ [r] })
    let s := { s.onRole st r (fun c => { c with stages := [] }) with mem.ram := mclear s.mem.ram (scratchBase st r) 0x20000 }
    (s, r, s.fenceGen (.core st r))
  | none =>
    (if spare then raise (s.onStall st (fun x => { x with spareUsed := true })) 0x0B02 (coreObj st 0) [] else s, 0xFFFF, 0)

/-- A dead sequencer out of rotation for good; the frames of its slots tried again (R78, R79). -/
def isolateSeq (s : State) (n : Nat) : State × Nat × Nat :=
  let slots := seqSlots s n
  let s := { s.fenceBump (.seq n) with parse.dead := s.parse.dead ++ [n], parse.out := s.parse.out.filter (· != n) }
  let s := slots.foldl (fun s x => match (s.rob x.buf).entries.find? (fun e => e.tag == x.tag) with
    | some e => if e.res.isNone then retryEntry s x.buf e else s
    | none => s) s
  (raise s 0x0501 n [], n, s.fenceGen (.seq n))

/-- A dead bank: the spare that holds its role keeps it (R328). -/
def isolateBank (s : State) (role : Option Nat) : State × Nat × Nat :=
  match role with
  | some r =>
    let s := s.fenceBump (.bank r)
    let s := match tget? s.tsl.bankMap r with
      | some sp => s.fenceTake sp (.bank r)
      | none => s
    (raise s 0x0106 r [], if unitKind r = 4 then unitIdx r else unitIdx r % 17, s.fenceGen (.bank r))
  | none => (s, 0xFFFF, 0)

/-- A unit declared dead for a reason (1 test, 2 command); `role`: the role of a bank. -/
def declareDead (s : State) (u reason : Nat) (role : Option Nat) : State :=
  let x := match unitKind u with
    | 1 => isolateCore s u
    | 2 => isolateSeq s (unitIdx u)
    | _ => isolateBank s role
  let s := { x.1 with tsl.dead := tset x.1.tsl.dead u { role := x.2.1 }, tsl.todo := x.1.tsl.todo.filter (· != u) }
  oweEntry (raise (countErr s (tslBase + 0x44)) 0x0E01 u (encN u ++ encN x.2.1 ++ encN reason ++ encN x.2.2)) u

/-- DEAD_LIST_BURN: the entry of a declared unit written (R428). -/
def execDeadListBurn (t : Nat) (unit : Word16) (s : State) :=
  act t s (fun s =>
    if s.phase = .running ∧ s.tsl.burn.contains unit.toNat ∧ s.fuses.dead.length < 96 then
      { s with tsl.burn := s.tsl.burn.erase unit.toNat, fuses.dead := s.fuses.dead ++ [unit.toNat] }
    else s)

/-! ### Tests (R420 to R423) -/

/-- Units still to be tested, of the kinds that are on. -/
def todoNow (s : State) : List Nat := s.tsl.todo.filter (fun u => kindOn s (unitKind u))

/-- A sweep without units left completes (R425, R426). -/
def endSweep (s : State) : State :=
  if s.tsl.running ∧ todoNow s = [] then
    countStat { s with tsl.running := false, tsl.lastMs := (s.clk.up - s.tsl.startAt) / 1000000, tsl.overdue := false } (tslBase + 0x108) 1
  else s

/-- The units whose turn comes, in order: those that TEASEL_TEST named, at the head, then the rest of the sweep (R425, R433). -/
def testOrder (s : State) : List Nat :=
  (s.tsl.asked ++ (if s.tsl.running then s.tsl.todo.filter (fun u => !s.tsl.asked.contains u) else [])).filter (fun u => kindOn s (unitKind u))

/-- A unit may be passed over when its turn comes: it is not eligible, or it is a bank in service, whose load of the preceding
100 µs decides (R422, R425) and State does not hold (log 48). -/
def passable (s : State) (u : Nat) : Bool := !eligible s u || (decide (3 ≤ unitKind u) && !isDead s u && (bankRole s u).isSome)

/-- It is unit `u`'s turn: it is eligible, and every unit before it is passed over. -/
def unitTurn (s : State) (u : Nat) : Bool :=
  eligible s u && (testOrder s).contains u && ((testOrder s).takeWhile (· != u)).all (passable s)

/-- TEST_START: the unit whose turn it is is taken out of service; the row names it, because the load of the banks decides
which of them are passed over. Units passed over are tried again after the others (R425). -/
def testStart (s : State) (u : Nat) : State :=
  if !(teaselRuns s && s.tsl.cur.isNone && unitTurn s u) then s
  else
    let late := s.tsl.todo.takeWhile (· != u)
    let s := if s.tsl.todo.contains u && !s.tsl.asked.contains u then { s with tsl.todo := s.tsl.todo.drop late.length ++ late } else s
    let role := if unitKind u = 3 ∨ unitKind u = 4 then bankRole s u else none
    let sp := if role.isSome then (freeSpares s u).head? else none
    let t : UnitTest := { unit := u, start := s.clk.up, at_ := s.clk.up, copy := if sp.isSome then 1 else 0, spare := sp, retest := isDead s u }
    let s := { s with tsl.cur := some t }
    match unitKind u with
    | 1 => match coreRoleOf s (unitIdx u / 17) (unitIdx u % 17) with
      | some r => quietKeep s (unitIdx u / 17) r
      | none => s
    | 2 => if isDead s u then s else { s with parse.out := s.parse.out ++ [unitIdx u] }
    | _ => s

def execTestStart (t : Nat) (unit : Word16) (s : State) := act t s (fun s => testStart s unit.toNat)

/-- The end of a test with its verdict. -/
def endTest (s : State) (u : UnitTest) (pass : Bool) : State :=
  let asked := s.tsl.asked.contains u.unit
  let swept := s.tsl.running && s.tsl.todo.contains u.unit
  let s := countStat (endHold s u) (tslBase + 0x100) 1
  let s := { s with tsl.todo := s.tsl.todo.filter (· != u.unit), tsl.asked := s.tsl.asked.filter (· != u.unit)
                    tsl.forward := s.tsl.forward.filter (· != u.unit), tsl.tested := s.tsl.tested + if swept then 1 else 0 }
  let s := if u.retest then { s with tsl.dead := s.tsl.dead.map (fun d => if d.1 = u.unit then (d.1, { d.2 with passes := if pass then d.2.passes + 1 else 0 }) else d) } else s
  let s := match pass, u.failed1 with
    | true, some sig => if u.retest then s else raise s 0x0E02 u.unit (encN u.unit ++ encN sig)
    | _, _ => s
  let s := if pass && asked then raise s 0x0E03 u.unit (encN u.unit) else s
  endSweep s

/-- A unit whose test ended well: a bank's contents go back first (R328, step 3). -/
def testPassed (s : State) (u : UnitTest) : State :=
  if u.spare.isSome then { s with tsl.cur := some { u with copy := 2, at_ := s.clk.up } } else endTest s u true

/-- A unit that failed both runs. -/
def testFailed (s : State) (u : UnitTest) : State :=
  let role := match u.spare with
    | some sp => bankRole s sp
    | none => none
  let s := endTest s u false
  if u.retest then s else declareDead s u.unit 1 role

/-- A sequencer holds an uncorrectable error in ROM, where nothing rewrites the word: its next test fails (R81). -/
def romBad (s : State) (u : Nat) : Bool :=
  unitKind u == 2 && s.parse.poison.any (fun w => w / 32768 == unitIdx u && decide (w % 32768 < 0x4000))

/-- TEST_RUN_END (R421): `found` is the verdict of the patterns. A dead unit's retest always takes two runs (R430); it is passed unless both fail. -/
def testRunEnd (s : State) (found : Bool) (signature : Nat) : State :=
  match s.tsl.cur with
  | none => s
  | some u =>
    let pass := found && !romBad s u.unit
    if u.copy ≠ 0 then s
    else
      let s := if pass then s else countErr s (tslBase + 0x40)
      if u.run = 1 then
        if pass ∧ !u.retest then testPassed s u
        else { s with tsl.cur := some { u with run := 2, failed1 := if pass then none else some signature } }
      else if pass ∨ (u.retest ∧ u.failed1.isNone) then testPassed s u
      else testFailed s u

def execTestRunEnd (t : Nat) (pass : Bool) (signature : Nat) (s : State) := act t s (fun s => testRunEnd s pass signature)

/-- Time of a bank copy (R328). -/
def copyTime (u : Nat) : Nat := if unitKind u = 4 then 10240 else 1710

/-- BANK_COPY_DONE: the role's addresses are redirected to the spare, or back. -/
def bankCopyDone (s : State) : State :=
  match s.tsl.cur with
  | none => s
  | some u =>
    match u.copy, u.spare with
    | 1, some sp =>
      if s.clk.up < u.at_ + copyTime u.unit then s
      else match bankRole s u.unit with
        | some r => { redirect s r sp with tsl.cur := some { u with copy := 0 } }
        | none => s
    | 2, some sp => if s.clk.up < u.at_ + copyTime u.unit then s else endTest (bankBack s u.unit sp) u true
    | _, _ => s

def execBankCopyDone (t : Nat) (s : State) := act t s bankCopyDone

/-! ### Sweeps (R425, R426) -/

/-- Every unit of a sweep, in order. -/
def sweepUnits (s : State) : List Nat :=
  let alive := unitOrder.filter (fun u => kindOn s (unitKind u) && !isDead s u)
  let fwd := s.tsl.forward.filter alive.contains
  fwd ++ alive.filter (fun u => !fwd.contains u) ++ (unitOrder.filter (fun u => kindOn s (unitKind u) && isDead s u))

/-- When the next sweep starts. -/
def sweepDue (s : State) : Bool :=
  match s.tsl.firstCommit with
  | some f => decide (if s.tsl.sweep = 0 then f + 60 * nsPerSec ≤ s.clk.up else s.tsl.startAt + sweepPeriod s ≤ s.clk.up)
  | none => false

def sweepStart (s : State) : State :=
  if teaselRuns s && !s.tsl.running && sweepDue s then
    { s with tsl.sweep := s.tsl.sweep + 1, tsl.running := true, tsl.startAt := s.clk.up, tsl.todo := sweepUnits s, tsl.tested := 0
             tsl.periodAt := s.clk.up + sweepPeriod s }
  else s

def execSweepStart (t : Nat) (s : State) := act t s sweepStart

/-- SWEEP_PERIOD_END with units untested; the sweep goes on. -/
def sweepPeriodEnd (s : State) : State :=
  match todoNow s with
  | [] => s
  | u :: rest =>
    if teaselRuns s && s.tsl.running && decide (s.tsl.periodAt ≤ s.clk.up) then
      let s := countErrs { s with tsl.overdue := true, tsl.periodAt := s.tsl.periodAt + sweepPeriod s } (tslBase + 0x48) (rest.length + 1)
      raise s 0x0E04 u (encN (rest.length + 1) ++ encN u)
    else s

def execSweepPeriodEnd (t : Nat) (s : State) := act t s sweepPeriodEnd

/-! ### Commands (R433); layouts in log 25 -/

def teaselStatusCmd (s : State) (r : Req) : Res :=
  if bodyIs r 0 then
    gives s (encN s.tsl.sweep ++ encN s.tsl.tested ++ encN ((s.tsl.cur.map UnitTest.unit).getD 0) ++ encN (s.tsl.lastMs * 1000000)
      ++ s.tsl.dead.flatMap (fun d => encN d.1 ++ encN d.2.role ++ encN d.2.passes))
  else fails s mbxInvalid

def execTeaselStatus (t : Nat) (r : Req) (s : State) := serve t r 0x0E01 teaselStatusCmd s

def teaselTestCmd (s : State) (r : Req) : Res :=
  let u := num r 0
  if !bodyIs r 8 then fails s mbxInvalid
  else if !unitKnown u then failsAt s mbxInvalid 1
  else if !teaselOn s then fails s mbxState
  else done { s with tsl.asked := u :: s.tsl.asked.filter (· != u)
                     tsl.todo := if s.tsl.todo.contains u then u :: s.tsl.todo.filter (· != u) else s.tsl.todo }

def execTeaselTest (t : Nat) (r : Req) (s : State) := serve t r 0x0E02 teaselTestCmd s

/-- A sequencer is the last in rotation in its pipeline, apart from one that is out for a test. -/
def lastSeq (s : State) (n : Nat) : Bool := (List.range 6).all (fun k => n / 6 * 6 + k == n || s.parse.dead.contains (n / 6 * 6 + k))

/-- TEASEL_DECLARE: a bank that fills a role is first copied into a free spare (R427). -/
def teaselDeclareCmd (s : State) (r : Req) : Res :=
  let u := num r 0
  if !bodyIs r 8 then fails s mbxInvalid
  else if !unitKnown u then failsAt s mbxInvalid 1
  else if isDead s u ∨ (unitKind u = 2 ∧ lastSeq s (unitIdx u)) then fails s mbxState
  else
    let x := abandonTest s (· == u)
    if unitKind u ≤ 2 then done (declareDead x u 2 none)
    else match bankRole x u, freeSpares x u with
      | none, _ => done (declareDead x u 2 none)
      | some _, [] => fails s mbxNospace
      | some role, sp :: _ => done (declareDead (redirect x role sp) u 2 (some role))

def execTeaselDeclare (t : Nat) (r : Req) (s : State) := serve t r 0x0E03 teaselDeclareCmd s

/-- A core back among its Stall's spares, in the order of their numbers. -/
def giveSpare (s : State) (u : Nat) : State :=
  let p := unitIdx u % 17
  s.onStall (unitIdx u / 17) (fun x => { x with dead := x.dead.filter (· != p)
                                                spares := x.spares.filter (· < p) ++ [p] ++ x.spares.filter (p < ·) })

/-- TEASEL_REINSTATE (R430). -/
def teaselReinstateCmd (s : State) (r : Req) : Res :=
  let u := num r 0
  let entries := s.fuses.dead.filter (fun e => e % 65536 == u)
  if !bodyIs r 8 then fails s mbxInvalid
  else if !unitKnown u then failsAt s mbxInvalid 1
  else if entries ≠ [u] ∨ (tget s.tsl.dead u { role := 0 }).passes < 16 then fails s mbxState
  else if 3 ≤ unitKind u ∧ (if unitKind u = 4 then 4 else 1) ≤ (freeSpares s u).length then fails s mbxNospace
  else
    let s := abandonTest s (· == u)
    let s := { s with fuses.dead := s.fuses.dead.map (fun e => if e = u then u + 65536 else e), tsl.dead := tdel s.tsl.dead u }
    let s := match unitKind u with
      | 1 => giveSpare s u
      | 2 => { s.fenceTake u (.seq (unitIdx u)) with parse.dead := s.parse.dead.filter (· != unitIdx u) }
      | _ => s
    done (raise s 0x0E05 u (encN u ++ encN (if unitKind u = 2 then unitIdx u else 0xFFFF)))

def execTeaselReinstate (t : Nat) (r : Req) (s : State) := serve t r 0x0E04 teaselReinstateCmd s

/-- TEASEL_DEADLIST: 96 entries of identifier, REINSTATED and used. -/
def teaselDeadlistCmd (s : State) (r : Req) : Res :=
  if bodyIs r 0 then
    gives s ((List.range 96).flatMap (fun k => match s.fuses.dead[k]? with
      | some e => encN (e % 65536) ++ encN (e / 65536) ++ encN 1
      | none => encN 0 ++ encN 0 ++ encN 0))
  else fails s mbxInvalid

def execTeaselDeadlist (t : Nat) (r : Req) (s : State) := serve t r 0x0E05 teaselDeadlistCmd s

/-! ### The dead-unit list at a start (R428) -/

/-- One listed unit kept out of service: no dead unit fills a role. -/
def applyDead (s : State) (u : Nat) : State :=
  match unitKind u with
  | 1 =>
    let st := unitIdx u / 17
    let p := unitIdx u % 17
    let role := coreRoleOf s st p
    let s := s.onStall st (fun x => { x with dead := x.dead ++ [p], spares := x.spares.filter (· != p) })
    let s := { s with tsl.dead := tset s.tsl.dead u { role := role.getD 0xFFFF } }
    (match role with
     | none => s.onStall st (fun x => { x with spareUsed := true })
     | some r =>
       match (s.stall st).spares with
       | sp :: rest => (s.onStall st (fun x => { x with spares := rest, spareUsed := true })).onRole st r (fun c => { c with phys := some sp })
       | [] => (s.onRole st r (fun c => { c with phys := none })).onStall st (fun x => { x with degraded := true }))
  | 2 => { s with parse.dead := s.parse.dead ++ [unitIdx u], tsl.dead := tset s.tsl.dead u { role := unitIdx u } }
  | _ =>
    let role := bankRole s u
    let s' := { s with tsl.dead := tset s.tsl.dead u { role := (role.map (fun r => if unitKind r = 4 then unitIdx r else unitIdx r % 17)).getD 0xFFFF } }
    match role, freeSpares s' u with
    | some r, sp :: _ => redirect s' r sp
    | _, _ => s'

/-- The list applied; a full list is reported at every start. -/
def applyDeadList (s : State) : State :=
  let s := (s.fuses.dead.filter (· < 65536)).foldl applyDead s
  if 96 ≤ s.fuses.dead.length then raise s 0x0E06 0 (encN 0) else s

end Sys2Proof.Machine
end

