-- ==== Sys2Proof/Machine/Reset.lean ====
section
/-! DEFINITION. The resets (R369, R413 to R415), halting (R387) and the holds (R400, R413). -/

namespace Sys2Proof.Machine

/-! ### What a reset leaves (R414) -/

/-- A scan instruction takes the balls from the part (R448). -/
def scanDrives (i : Scan) : Bool := i == .extest || i == .clamp || i == .highz

/-- Everything that a device reset loses lost, every output in its reset state (R415). The test access port is its own
(R446). -/
def afterReset (s : State) : State :=
  { fuses := s.fuses
    clk := { up := s.clk.up, rstCause := s.clk.rstCause }
    mem := { flash := s.mem.flash, rowsBad := s.mem.rowsBad, rowErr := s.mem.rowErr, rowsKept := s.mem.rowsKept }
    pins := { straps := s.pins.straps, jtagIr := s.pins.jtagIr, scan := s.pins.scan, boundary := s.pins.boundary }
    free := s.free
    pending := s.pending }

/-- Bits of RST_CAUSE (R418). -/
def causeResetN : Nat := 2
def causeDevReset : Nat := 3
def causeWatchdog : Nat := 4
def causeThermal : Nat := 5
def causeClerkFault : Nat := 6
def causeClkFail : Nat := 7

def State.inClockFail (s : State) : Bool :=
  match s.phase with
  | .clockFail _ => true
  | _ => false

/-- A device reset begins: its source's bit is set, and CLKFAIL after a clock-fail hold (R400, R413). -/
def deviceReset (s : State) (cause : Nat) : State :=
  let c := s.clk.rstCause ||| (1#32 <<< cause) ||| (if s.inClockFail then 1#32 <<< causeClkFail else 0#32)
  let x := afterReset s
  { x with clk.rstCause := c }

/-- A power-on reset begins: RST_CAUSE holds POWER_ON alone, and the test access port is reset too. -/
def powerOn (s : State) : State :=
  let x := afterReset s
  { x with clk.rstCause := 1#32, pins := { straps := s.pins.straps } }

/-- POWER_ON_RESET. -/
def execPowerOnReset (t : Nat) (s : State) := act t s powerOn

/-- RESET_N_LOW while PWRGOOD is high: in a reset that already runs it starts none. -/
def execResetNLow (t : Nat) (s : State) := act t s (fun s => if s.phase = .inReset then s else deviceReset s causeResetN)

/-- WATCHDOG: the firmware runs and has not serviced it for 2 s (R413). -/
def execWatchdog (t : Nat) (s : State) :=
  act t s (fun s =>
    if ((s.boot.gate && (s.phase == .starting || s.phase == .running)) || (s.inClockFail && s.boot.booted.isSome)) && decide (s.clk.watchdogAt + 2 * nsPerSec ≤ s.clk.up) then
      deviceReset s causeWatchdog
    else s)

/-- DEV_RESET_EXECUTE (R413): the response has its final state, or 100 ms have passed. -/
def execDevResetExecute (t : Nat) (s : State) :=
  act t s (fun s => match s.clk.resetPend with
    | some (_, at_) => if at_ ≤ s.clk.up then deviceReset s causeDevReset else s
    | none => s)

/-- THERMAL_TRIP: at 115 °C the part holds itself in reset and drives THERMTRIP_N low (R413). -/
def execThermalTrip (t : Nat) (tj : Int) (s : State) :=
  act t s (fun s =>
    if 115 ≤ tj ∧ s.phase ≠ .thermalHold then
      let x := deviceReset s causeThermal
      { x with phase := .thermalHold, pins.thermtrip := true, clk.tj := tj }
    else s)

/-! ### The end of a reset (R367, R443, R444) -/

/-- RESET_RELEASE: PWRGOOD and RESET_N are both high. -/
def resetRelease (s : State) (straps : Straps) : State :=
  if s.phase ≠ .inReset then s
  else
    let s := { s with pins.straps := straps, pins.scanLost := scanDrives s.pins.scan }
    if straps.testEn then { s with phase := .testHold }
    else
      let s := (s.onPp 0 (fun p => { p with mode := straps.p0Mode.toNat })).onPp 1 (fun p => { p with mode := straps.p1Mode.toNat })
      { s with phase := .starting, clk.releasedAt := s.clk.up, pins.errc := 0x31#6, pins.flashOn := true }

def execResetRelease (t : Nat) (straps : Straps) (s : State) := act t s (fun s => resetRelease s straps)

/-! ### Outputs as before the verdict (R368, R387, R400) -/

/-- Every lane in electrical idle, every root-port reset output low, no Stall and no transport running. -/
def holdOutputs (s : State) : State :=
  { s with
    boot.gate := false
    boot.inband := false
    port.lps := s.port.lps.map (fun p => (p.1, { p.2 with up := false, aligned := false, mac := none }))
    pins.perst := 0
    ido.stalls := s.ido.stalls.map (fun p => (p.1, { p.2 with st := .stopped })) }

/-- A start that cannot complete: the code on ERRC, ERRSTB high, the flash interface undriven (R387). -/
def halt (s : State) (code : Nat) : State :=
  { holdOutputs s with phase := .halted code, pins.errc := BitVec.ofNat 6 code, pins.errstb := true, pins.flashOn := false }

/-- A stage reset (R369, R414): the time base, the fuses, the straps and HBM stay; the slots tried are known. -/
def stageReset (s : State) : State :=
  let x := afterReset s
  { x with
    phase := .starting
    clk := s.clk
    pins := s.pins
    port := s.port
    mem := { x.mem with ram := s.mem.ram.filter (fun p => inHbm p.1 1), poison := s.mem.poison.filter (fun w => inHbm (w * 8) 1) }
    boot := { tried := s.boot.tried, reasonA := s.boot.reasonA, reasonB := s.boot.reasonB } }

end Sys2Proof.Machine
end

