-- ==== Sys2Proof/Machine/Boot.lean ====
section
/-! DEFINITION. Secure start (15): slot images, the flags, the anti-rollback and owner records, and the chain of R367. -/

namespace Sys2Proof.Machine

open Crypto

/-! ### Slot images (R365, R370) -/

def slotBase : Slot → Nat
  | .a => 0x03000000
  | .b => 0x05800000
def slotSize : Nat := 40 * 2 ^ 20
def otherSlot : Slot → Slot
  | .a => .b
  | .b => .a
def slotNo : Slot → Nat
  | .a => 0
  | .b => 1

/-- A section entry. -/
structure Section where
  typ : Nat
  off : Nat
  len : Nat
  digest : Bytes
  deriving DecidableEq, Repr

/-- Entry `i` of a header block. -/
def secEntry (h : Bytes) (i : Nat) : Bytes := slice h (0x7E0 + 64 * i) 64

def sections (h : Bytes) : List Section :=
  (List.range (leAt h 6 2)).map (fun i =>
    let e := secEntry h i
    { typ := leAt e 0 2, off := leAt e 8 8, len := leAt e 16 8, digest := slice e 32 32 })

def secVersion (h : Bytes) : Nat := leAt h 0xC 4

/-- Header fields, reserved bytes, entries inside `size` bytes (check 1 of R371), whatever the types. -/
def headerOk (magic size : Nat) (h : Bytes) : Bool :=
  let n := leAt h 6 2
  leAt h 0 4 == magic && leAt h 4 2 == 1 && decide (2 ≤ n) && decide (n ≤ 16) && leAt h 8 4 == 0xB0 && zeroAt h 0x14 12
    && zeroAt h 0x18CD (0x2000 - 0x18CD)
    && (List.range n).all (fun i =>
        let e := secEntry h i
        zeroAt e 2 6 && zeroAt e 24 8 && leAt e 8 8 % 4096 == 0 && decide (0x2000 ≤ leAt e 8 8) && decide (leAt e 8 8 + leAt e 16 8 ≤ size))
    && zeroAt h (0x7E0 + 64 * n) (64 * (16 - n))

/-- Count and order of a slot's sections (R370). -/
def slotOrderOk (l : List Section) : Bool :=
  let count (t : Nat) : Nat := (l.filter (fun x => x.typ == t)).length
  l.all (fun x => decide (1 ≤ x.typ) && decide (x.typ ≤ 5))
    && (match l.head? with
      | some x => x.typ == 1 && x.off == 0x2000 && decide (x.len ≤ 1040384)
      | none => false)
    && count 1 == 1 && count 2 == 1 && decide (count 3 ≤ 12) && decide (count 4 ≤ 1) && decide (count 5 ≤ 1)
    && (count 5 == 0 || (match l.getLast? with
      | some x => x.typ == 5
      | none => false))
    && l.all (fun x => x.typ != 2 || decide (x.len ≤ 3 * 2 ^ 20))

def slotHeader (s : State) (x : Slot) : Bytes := flashRead s (slotBase x) 0x2000
def sectionBytes (s : State) (base : Nat) (x : Section) : Bytes := flashRead s (base + x.off) x.len
def slotSections (s : State) (x : Slot) (typ : Nat) : List Section := (sections (slotHeader s x)).filter (fun y => y.typ == typ)

/-- Every load record of a core image stays in its window (R373). -/
def imageFits (b : Bytes) : Bool :=
  (loadRecs b.length b).all (fun r =>
    if r.win = 0 then decide (r.addr + r.data.length ≤ 0x20000)
    else r.win == 1 && decide (0x10000000 ≤ r.addr) && decide (r.addr + r.data.length ≤ 0x10300000))

/-! ### The checks of R371 -/

def bootFormat : Nat := 0x0D01
def bootKey : Nat := 0x0D02
def bootSig : Nat := 0x0D03
def bootRevoked : Nat := 0x0D04
def bootVersion : Nat := 0x0D05
def bootDigest : Nat := 0x0D06
def bootFuses : Nat := 0x0D08
def bootCount : Nat := 0x0D09
def bootUnverified : Nat := 0x0D0A
def bootLast : Nat := 0x0D0B
def bootFlash : Nat := 0x0D0C

/-- Position that a header's KEY_ID names, KEY_ID being the digest of PUBKEY (R370). -/
def headerRoot (s : State) (h : Bytes) : Option Nat :=
  if slice h 0x20 32 = shake256 (slice h 0x40 1952) then rootAt s (slice h 0x20 32) else none

/-- Checks 1 to 6, made by the boot ROM: 0 or the reason. -/
def romReason (s : State) (x : Slot) (sigs : SlotSigs) : Nat :=
  let h := slotHeader s x
  let l := sections h
  if !(headerOk 0x544F4F42 slotSize h && slotOrderOk l) then bootFormat
  else match headerRoot s h with
    | none => bootKey
    | some k =>
      if !sigs.slot then bootSig
      else if s.fuses.revoked.getLsbD k then bootRevoked
      else if secVersion h < bootMin s then bootVersion
      else match l.head? with
        | some e => if shake256 (sectionBytes s (slotBase x) e) = e.digest then 0 else bootDigest
        | none => bootFormat

/-- Check 7: every other vendor section. -/
def vendorReason (s : State) (base : Nat) (l : List Section) : Nat :=
  if l.any (fun e => shake256 (sectionBytes s base e) != e.digest) then bootDigest
  else if l.any (fun e => e.typ == 3 && !imageFits (sectionBytes s base e)) then bootFormat
  else 0

/-- The reason of a failed step of R84. -/
def patchReason (s : State) (b : Bytes) (detail : Nat) : Nat :=
  if detail = 0x0102 then (if (rootAt s (slice b 0x18 32)).isSome then bootRevoked else bootKey)
  else if detail = 0x0103 then bootSig
  else if detail = 0x0104 then bootVersion
  else bootDigest

/-- Check 8: the patch image. -/
def patchCheck (s : State) (x : Slot) (sigs : SlotSigs) : Nat :=
  match slotSections s x 4 with
  | [] => 0
  | e :: _ =>
    let b := sectionBytes s (slotBase x) e
    match checkImage s 1 b sigs.patch with
    | .inl f => patchReason s b f.2.1
    | .inr _ => 0

/-- Check 9: the owner part; its sections count from its own start (log 38). -/
def ownerCheck (s : State) (x : Slot) (sigs : SlotSigs) : Nat :=
  match slotSections s x 5 with
  | [] => 0
  | e :: _ =>
    let base := slotBase x + e.off
    let h := flashRead s base 0x2000
    let l := sections h
    if !(headerOk 0x4E574F4F e.len h && l.all (fun y => y.typ == 3)) then bootFormat
    else if slice h 0x20 32 ≠ shake256 (slice h 0x40 1952) ∨ !ownerKnows s (slice h 0x20 32) then bootKey
    else if !sigs.owner then bootSig
    else if vendorReason s base l ≠ 0 then vendorReason s base l
    else if secVersion h < ownerMin s then bootVersion
    else 0

/-- R371: 0, or the first reason. -/
def slotReason (s : State) (x : Slot) (sigs : SlotSigs) : Nat :=
  let a := romReason s x sigs
  if a ≠ 0 then a
  else
    let b := vendorReason s (slotBase x) ((sections (slotHeader s x)).tail.filter (fun e => e.typ != 5))
    if b ≠ 0 then b
    else
      let c := patchCheck s x sigs
      if c ≠ 0 then c else ownerCheck s x sigs

/-- The halt code of two failed slots (R389). -/
def haltCode (a b : Nat) : Nat :=
  let integrity (r : Nat) : Bool := r == bootFormat || r == bootKey || r == bootSig || r == bootDigest
  if a = bootRevoked ∨ b = bootRevoked then 0x2C
  else if integrity a && integrity b then 0x0A
  else if a = bootVersion ∧ b = bootVersion then 0x0B
  else 0x0C

/-! ### Flags (R374 to R376) -/

/-- A flag record. -/
structure Flag where
  seq : Nat
  active : Slot
  /-- 0 CONFIRMED, 1 TRIAL, 2 TRIAL_STARTED -/
  st : Nat
  confirm : Nat
  at_ : Nat
  deriving DecidableEq, Repr

def flagMagic : Nat := 0x47414C46

/-- Places of the two flag sectors where something is written. -/
def flagPlaces (s : State) : List Nat := ((s.mem.flash.filter (fun p => decide (p.1 < 0x20000))).map (fun p => p.1 / 32)).eraseDups

/-- The record at a place, when its MAGIC and CRC match. -/
def readFlag (s : State) (k : Nat) : Option Flag :=
  let b := flashRead s (32 * k) 32
  if leAt b 0 4 = flagMagic ∧ leAt b 0x1C 4 = (crc32c (b.take 0x1C)).toNat then
    some { seq := leAt b 4 4, active := if leAt b 8 1 = 1 then .b else .a, st := leAt b 9 1, confirm := leAt b 10 2, at_ := k }
  else none

/-- The latest record. -/
def latestFlag (s : State) : Option Flag :=
  ((flagPlaces s).filterMap (readFlag s)).foldl (fun b f => match b with
    | none => some f
    | some g => if serialLater 32 f.seq g.seq then some f else some g) none

/-- The slots in the order of R375. -/
def slotOrder (f : Option Flag) : List Slot :=
  match f with
  | none => [.a, .b]
  | some f => if f.st = 2 then [otherSlot f.active, f.active] else [f.active, otherSlot f.active]

/-- The first free place of a sector of 2,048 records; none when it is full. -/
def freePlace (s : State) (sector : Nat) : Option Nat :=
  let used := (flagPlaces s).filter (fun k => k / 2048 == sector)
  let n := used.foldl (fun m k => max m (k + 1)) (sector * 2048)
  if n < (sector + 1) * 2048 then some n else none

/-- A record appended; a full sector gives way to the other, erased. -/
def writeFlag (s : State) (x : Slot) (st confirm : Nat) : State :=
  let last := latestFlag s
  let seq := match last with
    | some f => (f.seq + 1) % 2 ^ 32
    | none => 0
  let sector := match last with
    | some f => f.at_ / 2048
    | none => 0
  let b := leBytes 4 flagMagic ++ leBytes 4 seq ++ leBytes 1 (slotNo x) ++ leBytes 1 st ++ leBytes 2 confirm ++ List.replicate 16 0
  let b := b ++ leBytes 4 (crc32c b).toNat
  match freePlace s sector with
  | some k => flashWrite s (32 * k) b
  | none => flashWrite (flashErase s ((1 - sector) * 0x10000) 0x10000) ((1 - sector) * 0x10000) b

/-- Flash and fuses take writes: not in the clock-fail hold (R400). -/
def flashTakes (s : State) : Bool := !s.inClockFail

/-! ### The anti-rollback record (R377, R378) -/

def arSize : Nat := 0x64
def arBase (c : Nat) : Nat := 0x20000 + 0x10000 * c
def arMagic : Nat := 0x4E494D41
def arFuse (b : Bytes) : Nat := leAt b 6 2
def arControl (b : Bytes) : Nat := leAt b 0x20 8

/-- A copy whose MAGIC and TAG are valid. -/
def readAr (s : State) (c : Nat) : Option Bytes :=
  let b := flashRead s (arBase c) arSize
  if leAt b 0 4 = arMagic ∧ (gcmDecrypt s.fuses.key1 (slice b 0x48 12) (b.take 0x54) [] (slice b 0x54 16)).isSome then some b else none

/-- The owner record of a device that never had one. -/
def emptyOwner : Bytes := leBytes 4 0x524E574F ++ leBytes 2 1 ++ List.replicate (0x1EF0 - 6) 0

/-- The record of a device that never had one: every minimum 0 (log 38). -/
def firstAr : Bytes := leBytes 4 arMagic ++ leBytes 2 1 ++ List.replicate 0x22 0 ++ shake256 emptyOwner ++ List.replicate 28 0

/-- What R378 comes to: the record in use and whether stage 1 owes a write or a fuse step; none: halt 0x0D. -/
def chooseAr (s : State) : Option (Bytes × Bool) :=
  let valid := [0, 1].filterMap (readAr s)
  let pick (n : Nat) : Option Bytes := (valid.filter (fun b => arFuse b == n)).foldl (fun x b => match x with
    | none => some b
    | some y => if arControl y < arControl b then some b else some y) none
  match pick s.fuses.count, pick (s.fuses.count + 1) with
  | some b, _ => some (b, false)
  | none, some b => some (b, true)
  | none, none => if s.fuses.count = 0 ∧ valid = [] then some (firstAr, true) else none

/-- The tag of a record under slot 1 and a fresh IV. -/
def sealAr (s : State) (b : Bytes) : State × Bytes :=
  let iv := s.drawBytes 12
  let head := patch b 0x48 iv.1
  (iv.2, patch head 0x54 (gcmEncrypt s.fuses.key1 iv.1 (head.take 0x54) []).2)

/-- The record written into the copy that is not in use; from then on it is the one in use. -/
def storeAr (s : State) (b : Bytes) : State :=
  let x := sealAr s b
  let c := if flashRead s (arBase 0) arSize = s.boot.ar then 1 else 0
  { flashWrite (flashErase x.1 (arBase c) 0x10000) (arBase c) x.2 with boot.ar := x.2 }

/-- A change of the record: CONTROL_COUNT rises with every write (R377); `burn`: a fuse step after it (R379). -/
def changeAr (s : State) (f : Bytes → Bytes) (burn : Bool) : State :=
  let b := f s.boot.ar
  let b := patch b 0x20 (leBytes 8 (arControl b + 1))
  let b := if burn then patch b 6 (leBytes 2 (arFuse b + 1)) else b
  let s := storeAr s b
  if burn then { s with fuses.count := s.fuses.count + 1 } else s

/-! ### The owner record (R382) -/

def ownSize : Nat := 0x1EF0
def ownBase (c : Nat) : Nat := 0x40000 + 0x10000 * c
def ownerPolicy (b : Bytes) : Nat := leAt b 8 4

/-- The copy whose digest the anti-rollback record names. -/
def chooseOwner (s : State) (ar : Bytes) : Option Bytes :=
  let want := slice ar 0x28 32
  (([0, 1].map (fun c => flashRead s (ownBase c) ownSize)).find? (fun b => shake256 b == want)).or
    (if shake256 emptyOwner = want ∧ ar = firstAr then some emptyOwner else none)

/-- The owner record changed: the unused copy first, then the anti-rollback record with its digest. -/
def changeOwner (s : State) (b : Bytes) (f : Bytes → Bytes) (burn : Bool) : State :=
  let c := if flashRead s (ownBase 0) ownSize = s.boot.owner then 1 else 0
  let s := { flashWrite (flashErase s (ownBase c) 0x10000) (ownBase c) b with boot.owner := b }
  changeAr s (fun a => f (patch a 0x28 (shake256 b))) burn

/-! ### Steps 1 to 3 (R366, R367) -/

/-- The halt code of what stage 1 and the boot ROM meet before the verdict; 0: none (R388). -/
def startHalt (f : StartFacts) : Nat :=
  if !f.fusesReadable then 0x05
  else if !f.memoriesGood then 0x10
  else if !f.flashAnswers then 0x08
  else if f.flashMiB < 128 then 0x09
  else if !f.pllsLocked then 0x02
  else if !f.vddReached then 0x03
  else 0

/-- The run that the loader copies: header block and stage 1. -/
def loaderRun (s : State) (x : Slot) : Bytes := flashRead s (slotBase x) (0x2000 + min 1040384 (leAt (secEntry (slotHeader s x) 0) 16 8))

/-- STAGE1_START: the next slot of the order is copied, MR0 extended, stage 1 starts; the boot records are read. -/
def stage1Start (s : State) (f : StartFacts) : State :=
  if s.phase ≠ .starting ∨ !s.clk.xtalOk ∨ s.boot.stage1 then s
  else match (slotOrder (latestFlag s)).find? (fun x => !s.boot.tried.contains x) with
    | none => s
    | some x =>
      if startHalt f ≠ 0 then halt s (startHalt f)
      else match chooseAr s with
        | none => halt s 0x0D
        | some (ar, owed) =>
          match chooseOwner s ar with
          | none => halt s 0x0E
          | some own =>
            let s := extendMr s 0 (shake256 (loaderRun s x))
            { s with
              boot.stage1 := true
              boot.trying := some x
              boot.tried := s.boot.tried ++ [x]
              boot.ar := ar
              boot.arOwed := owed
              boot.owner := own
              clk.pllsLocked := true
              clk.vddWant := s.fuses.vddMv
              clk.vddReached := s.fuses.vddMv
              clk.vddMeas := s.fuses.vddMv
              pins.errc := 0x33#6 }

def execStage1Start (t : Nat) (facts : StartFacts) (s : State) := act t s (fun s => stage1Start s facts)

/-! ### Steps 4 and 5: the verdict -/

/-- Key slots 0 to 3 restored (R303, R382); not while the policy allows internal scan (R385). -/
def restoreKeys (s : State) : State :=
  if (ownerPolicy s.boot.owner).testBit 2 then s
  else
    let s := s.setSlot 0 (newKey 1 1 (2 ^ useGcmDec) 0 0 s.fuses.key0)
    let s := s.setSlot 1 (newKey 1 1 0 0 0 s.fuses.key1)
    let s := s.setSlot 2 (newKey 3 1 (2 ^ 7) 0 0 s.fuses.key2)
    let id := slice s.boot.owner 0x1E90 32
    if id = List.replicate 32 0 then s
    else match gcmDecrypt s.fuses.key1 (slice s.boot.owner 0x1EB0 12) id (slice s.boot.owner 0x1EBC 32) (slice s.boot.owner 0x1EDC 16) with
      | some k => s.setSlot 3 (newKey 1 4 (2 ^ useWrap + 2 ^ useUnwrap) 0 0 k)
      | none => raise s 0x0D07 0 []

/-- The 152 bytes of MR5 (R386). -/
def policyRecord (s : State) (x : Slot) : Bytes :=
  leBytes 4 (ownerPolicy s.boot.owner) ++ leBytes 2 (leAt s.boot.owner 6 2) ++ leBytes 1 s.fuses.revoked.toNat ++ leBytes 1 (slotNo x)
    ++ leBytes 2 (arFuse s.boot.ar) ++ [0, 0] ++ leBytes 4 (bootMin s) ++ leBytes 4 (patchMin s) ++ leBytes 4 (ownerMin s)
    ++ [0, 1, 2, 3].flatMap (ownerKeyId s)

/-- What stage 1 owes to flash and fuses (R375, R378). -/
def paySteps (s : State) (x : Slot) : State :=
  let s := if !s.boot.arOwed then s
    else if s.fuses.count + 1 = arFuse s.boot.ar then { s with boot.arOwed := false, fuses.count := s.fuses.count + 1 }
    else
      let s := flashWrite (flashErase s (ownBase 0) 0x10000) (ownBase 0) s.boot.owner
      storeAr { s with boot.arOwed := false } s.boot.ar
  match latestFlag s with
  | none => s
  | some f =>
    if f.st = 1 then
      { writeFlag s f.active 2 f.confirm with boot.trialEnd := some (s.clk.up + f.confirm * 60 * nsPerSec) }
    else if f.st = 2 then writeFlag s x 0 f.confirm
    else s

/-- The vendor patch loaded, or reported absent (R85). -/
def loadPatch (s : State) (x : Slot) (sigs : SlotSigs) : State :=
  match slotSections s x 4 with
  | [] => { s with parse.patchDone := true }
  | e :: _ =>
    let b := sectionBytes s (slotBase x) e
    match checkImage s 1 b sigs.patch with
    | .inr w => { loadImage s 1 b w with parse.patchDone := true, boot.patchImage := b }
    | .inl _ => s

/-- The verdict passes: the gate opens and step 5 runs. -/
def verdictPass (s : State) (x : Slot) (sigs : SlotSigs) : State :=
  let s := { s with boot.gate := true, boot.booted := some x, boot.trying := none, boot.policy := ownerPolicy s.boot.owner
                    clk.watchdogAt := s.clk.up, pins.errc := 0x35#6 }
  let s := match slotSections s x 2 with
    | e :: _ => extendMr s 1 e.digest
    | [] => s
  let s := extendMr s 5 (shake256 (policyRecord s x))
  let s := [0, 8].foldl (fun s lp => s.onLp lp (fun p => { p with setupAt := s.clk.up })) s
  applyDeadList (paySteps (loadPatch s x sigs) x)

def setReason (s : State) (x : Slot) (r : Nat) : State :=
  match x with
  | .a => { s with boot.reasonA := r }
  | .b => { s with boot.reasonB := r }

/-- BOOT_VERDICT. Stage 1's own checks 7 to 9 are made in the same step; the slots' keys are restored before check 8 needs
them (log 38). -/
def bootVerdict (s : State) (sigs : SlotSigs) : State :=
  if s.phase ≠ .starting ∨ s.boot.gate then s
  else match s.boot.trying with
    | none => s
    | some x =>
      let k := restoreKeys s
      let r := slotReason k x sigs
      if r = 0 then verdictPass (setReason k x 0) x sigs
      else
        let s := stageReset (setReason s x r)
        if s.boot.tried.length < 2 then { s with pins.errc := 0x34#6 } else halt s (haltCode s.boot.reasonA s.boot.reasonB)

def execBootVerdict (t : Nat) (sigs : SlotSigs) (s : State) := act t s (fun s => bootVerdict s sigs)

/-! ### Steps 6 and 7 -/

/-- A recorded row replaced, or kept where its bank has no spare row left, which no statement gives (R329; log 35). -/
def repairRow (s : State) (row : Nat) : State :=
  let x := s.draw 2
  if x.1 = 0 then { x.2 with mem.rowErr := tdel x.2.mem.rowErr row }
  else raise { x.2 with mem.rowsKept := x.2.mem.rowsKept ++ [row] } 0x0107 row []

/-- Rows with no spare are reported at every start. -/
def repairRows (s : State) : State :=
  let rows := s.mem.rowsBad.filter (fun r => !s.mem.rowsKept.contains r)
  let s := s.mem.rowsKept.foldl (fun s r => raise s 0x0107 r []) s
  { rows.foldl repairRow s with mem.rowsBad := [] }

/-- HBM_TRAINING_DONE (R324). -/
def hbmTrainingDone (s : State) (ok0 ok1 : Bool) : State :=
  if s.phase ≠ .starting ∨ !s.boot.gate ∨ s.mem.trained0 ∨ s.mem.trained1 then s
  else
    let s := repairRows s
    let s := { s with mem.trained0 := ok0, mem.trained1 := ok1, boot.hbmTrained := ok0 && ok1 }
    let s := if ok0 then s else raise s 0x0105 0 (encN 0)
    let s := if ok1 then s else raise s 0x0105 1 (encN 1)
    if ok0 && ok1 then { s with pins.errc := 0x36#6 } else s

def execHbmTrainingDone (t : Nat) (ok0 ok1 : Bool) (s : State) := act t s (fun s => hbmTrainingDone s ok0 ok1)

/-- Core image sections of the booted slot with their digests, vendor first, then owner (R373). -/
def coreSections (s : State) (x : Slot) : List (Bytes × Bytes) :=
  ((slotSections s x 3).map (fun e => (e.digest, sectionBytes s (slotBase x) e)))
    ++ (slotSections s x 5).flatMap (fun e =>
        let base := slotBase x + e.off
        (sections (flashRead s base 0x2000)).map (fun y => (y.digest, sectionBytes s base y)))

/-- The mailbox endpoint with its ring of 16 slots of 1 MiB and its drawn generation (R332). -/
def openMailbox (s : State) : State :=
  let g := s.drawNz 65536
  let e : Endpoint := { gen := g.1, tf := 0, channel := none, sq := none, ringKey := 0, slotSize := 2 ^ 20, slotCount := 16, slotNo := 16384 }
  { g.2 with mbx.gen := BitVec.ofNat 16 g.1, eht.eps := tset g.2.eht.eps wellKnownEid e, boot.inband := true, pins.errc := 0x37#6 }

/-- The first TF0 management frame of a port that is already up (R367, step 9). -/
def advertise (s : State) (lp : Nat) : State :=
  if (s.lp lp).up then emit s lp 0 (controlClass s false) (ndAdvert s allNodesMac allNodesIp 1) else s

/-- CORE_IMAGES_READY. -/
def coreImagesReady (s : State) : State :=
  if s.phase ≠ .starting ∨ !s.boot.hbmTrained ∨ s.boot.inband then s
  else match s.boot.booted with
    | none => s
    | some x =>
      let l := coreSections s x
      let s := l.foldl (fun s y => extendMr s 2 y.1) s
      advertise (advertise (openMailbox { s with boot.coreImages := l.map Prod.snd }) 0) 8

def execCoreImagesReady (t : Nat) (s : State) := act t s coreImagesReady

/-! ### Step 8 (R349, R350) -/

/-- BOOT_REPORT and FUSE_LOW (R394, R436): the booted slot, the other slot's reason if it was tried. -/
def bootReport (s : State) : State :=
  let x := s.boot.booted.getD .a
  let other := otherSlot x
  let why := if s.boot.tried.contains other then (match other with
    | .a => s.boot.reasonA
    | .b => s.boot.reasonB) else 0
  let s := raise s 0x0D01 0 (encN (slotNo x) ++ encN why)
  if 240 ≤ s.fuses.count then raise s 0x0D06 0 [] else s

/-- The stored configuration refused. -/
def refuseConfig (s : State) (reason : Nat) (f : Option CfgFail) : State :=
  let c := max (if holdsRecord s 0 then (readArea s 0).counter else 0) (if holdsRecord s 1 then (readArea s 1).counter else 0)
  let k := (f.bind CfgFail.key).getD 0
  raise { s with cfg.state := .refused reason, cfg.counter := c } 0x0204 0 (encN reason ++ encN (keyItem k) ++ encN (keyIndex k) ++ encN (keySub k))

/-- STORED_CONFIG_DECISION. -/
def storedDecision (s : State) (imageSig : Bool) : State :=
  if s.phase ≠ .starting ∨ !s.boot.inband ∨ s.boot.decided then s
  else
    let s := { bootReport s with phase := .running, boot.decided := true, pins.errc := 0x3D#6 }
    match latestArea s (holdsRecord s) with
    | none => s
    | some a =>
      let x := checkRecord s a imageSig
      match x.2 with
      | .inr (reason, f) => refuseConfig x.1 reason f
      | .inl recs =>
        let r := readArea s a
        { commitAt x.1 recs [] r.counter (r.trailer.take 32) with cfg.stored := true, pins.errc := 0x3E#6 }

def execStoredConfigDecision (t : Nat) (imageSig : Bool) (s : State) := act t s (fun s => storedDecision s imageSig)

/-! ### Trials (R376) -/

/-- TRIAL_REVERTED: CONFIRM_MIN has ended. -/
def execTrialReverted (t : Nat) (s : State) :=
  act t s (fun s => match s.boot.trialEnd, s.boot.booted with
    | some e, some x =>
      if e ≤ s.clk.up ∧ flashTakes s then
        raise { writeFlag s (otherSlot x) 0 ((latestFlag s).map Flag.confirm |>.getD 10) with boot.trialEnd := none } 0x0D02 0 []
      else s
    | _, _ => s)

end Sys2Proof.Machine
end

