-- ==== Sys2Proof/Machine/BootCmds.lean ====
section
/-! DEFINITION. The commands of secure start (R374 to R385, R392), KEY_ROOT_IMPORT (R310), and the Clerk's lockstep
(R431). The layouts of their parameters are log 25. -/

namespace Sys2Proof.Machine

open Crypto

/-! ### Controlled commands (R384) -/

def failsWith (s : State) (status detail : Nat) : Res := { st := s, status := status, detail := detail }

/-- Bytes of the trailer. -/
def trailerLen : Nat := 3325

/-- A controlled command: `h` gets the body before the trailer; CONTROL_COUNT rises where it succeeds, by the write of the
record that `h` makes. `sig`: the signature engine's answer. -/
def controlled (sig : Bool) (h : State → Peer → Bytes → Res) (s : State) (r : Req) : Res :=
  if !anyOwner s then (if r.peer.via = .sideband then h s r.peer r.body else fails s mbxAuth)
  else if r.body.length < trailerLen then fails s mbxAuth
  else
    let n := r.body.length - trailerLen
    let t := r.body.drop n
    if !zeroAt t 1 7 then fails s mbxInvalid
    else if !(decide (leAt t 0 1 < 4) && ownerEnrolled s (leAt t 0 1)) then failsWith s mbxVerify bootKey
    else if !sig then failsWith s mbxVerify bootSig
    else if leAt t 8 8 ≠ controlCount s then failsWith s mbxState bootCount
    else h s r.peer (r.body.take n)

/-- Number `i` of a body. -/
def bnum (b : Bytes) (i : Nat) : Nat := leAt b (8 * i) 8

/-! ### Slots -/

/-- The slot not booted at this start (R392). -/
def targetSlot (s : State) : Slot := otherSlot (s.boot.booted.getD .a)

def activeSlot (s : State) : Slot := ((latestFlag s).map Flag.active).getD .a

/-- BOOT_STATUS. -/
def bootStatusCmd (s : State) (r : Req) : Res :=
  if !bodyIs r 0 then fails s mbxInvalid
  else
    let slot (x : Slot) (why : Nat) : Bytes := let h := slotHeader s x; encN (secVersion h) ++ encN (leAt h 0x10 4) ++ encN why
    let flag := match latestFlag s with
      | some f => flashRead s (32 * f.at_) 32
      | none => List.replicate 32 0
    gives s (encN (slotNo (s.boot.booted.getD .a)) ++ encN (slotNo (activeSlot s)) ++ encN (slotNo (targetSlot s))
      ++ slot .a s.boot.reasonA ++ slot .b s.boot.reasonB ++ flag ++ encN (bootMin s) ++ encN (patchMin s) ++ encN (ownerMin s)
      ++ encN s.fuses.count
      ++ [0, 1, 2, 3].flatMap (fun k => padTo 32 (s.fuses.roots.getD k []) ++ encN (if s.fuses.revoked.getLsbD k then 1 else 0))
      ++ encN (leAt s.boot.owner 6 2) ++ encN (ownerPolicy s.boot.owner) ++ encN (controlCount s))

def execBootStatus (t : Nat) (r : Req) (s : State) := serve t r 0x0D01 bootStatusCmd s

/-- The latest flag record is TRIAL or TRIAL_STARTED. -/
def flagTrial (s : State) : Bool :=
  match latestFlag s with
  | some f => f.st != 0
  | none => false

/-- FW_WRITE: offset, image bytes. A failed program leaves the range unwritten (R391). -/
def fwWriteCmd (flashOk : Bool) (s : State) (r : Req) : Res :=
  let off := num r 0
  let v := r.body.drop 8
  if r.body.length < 8 then fails s mbxInvalid
  else if slotSize < off + v.length then failsAt s mbxInvalid 1
  else if 1040384 < v.length then failsAt s mbxInvalid 2
  else if flagTrial s then fails s mbxState
  else if !flashTakes s then failsWith s mbxState bootFlash
  else
    let a := slotBase (targetSlot s)
    let s := { s with boot.verified := false }
    let s := if off = 0 then flashErase s a slotSize else s
    if flashOk then done (flashWrite s (a + off) v) else failsWith (flashErase s (a + off) v.length) mbxState bootFlash

def execFwWrite (t : Nat) (r : Req) (flashOk : Bool) (s : State) := serve t r 0x0D02 (fwWriteCmd flashOk) s

/-- FW_VERIFY. -/
def fwVerifyCmd (sigs : SlotSigs) (s : State) (r : Req) : Res :=
  if bodyIs r 0 then
    let x := targetSlot s
    let why := slotReason s x sigs
    gives { setReason s x why with boot.verified := why == 0 } (encN why)
  else fails s mbxInvalid

def execFwVerify (t : Nat) (r : Req) (sigs : SlotSigs) (s : State) := serve t r 0x0D03 (fwVerifyCmd sigs) s

/-- FW_ACTIVATE: state (0 CONFIRMED, 1 TRIAL), CONFIRM_MIN, which may be left out. -/
def fwActivateBody (flashOk : Bool) (s : State) (_p : Peer) (b : Bytes) : Res :=
  let min := if b.length = 8 then 10 else bnum b 1
  if b.length ≠ 8 ∧ b.length ≠ 16 then fails s mbxInvalid
  else if 2 ≤ bnum b 0 then failsAt s mbxInvalid 1
  else if min < 1 ∨ 60 < min then failsAt s mbxInvalid 2
  else if !s.boot.verified then failsWith s mbxState bootUnverified
  else if s.boot.trialEnd.isSome then fails s mbxState
  else if !(flashOk && flashTakes s) then failsWith s mbxState bootFlash
  else done (changeAr (writeFlag s (targetSlot s) (bnum b 0) min) id false)

def execFwActivate (t : Nat) (r : Req) (sig flashOk : Bool) (s : State) := serve t r 0x0D04 (controlled sig (fwActivateBody flashOk)) s

/-- FW_CONFIRM (R376). -/
def fwConfirmCmd (flashOk : Bool) (s : State) (r : Req) : Res :=
  if !bodyIs r 0 then fails s mbxInvalid
  else match s.boot.trialEnd, s.boot.booted with
    | some _, some x =>
      if !(flashOk && flashTakes s) then failsWith s mbxState bootFlash
      else done { writeFlag s x 0 (((latestFlag s).map Flag.confirm).getD 10) with boot.trialEnd := none }
    | _, _ => fails s mbxState

def execFwConfirm (t : Nat) (r : Req) (flashOk : Bool) (s : State) := serve t r 0x0D05 (fwConfirmCmd flashOk) s

/-! ### Minimum versions (R379) -/

/-- The least SEC_VERSION of the loaded images that an owner key signed; none without one. -/
def ownerRunning (s : State) : Option Nat :=
  let parts := match s.boot.booted with
    | some x => (slotSections s x 5).map (fun e => secVersion (flashRead s (slotBase x + e.off) 0x2000))
    | none => []
  (s.cfg.images.map (fun b => leAt b 0xC 4) ++ parts).min?

/-- Present value and greatest new value of a minimum: 0 BOOT_MIN, 1 PATCH_MIN, 2 OWNER_MIN. -/
def minLimits (s : State) (k : Nat) : Nat × Nat :=
  match k with
  | 0 => (bootMin s, secVersion (slotHeader s (s.boot.booted.getD .a)))
  | 1 => (patchMin s, if s.boot.patchImage = [] then 0 else leAt s.boot.patchImage 0xC 4)
  | _ => (ownerMin s, (ownerRunning s).getD (2 ^ 32 - 1))

/-- BOOT_MINVER_RAISE: which minimum, new value. -/
def minverBody (flashOk : Bool) (s : State) (_p : Peer) (b : Bytes) : Res :=
  let k := bnum b 0
  let v := bnum b 1
  if b.length ≠ 16 then fails s mbxInvalid
  else if 3 ≤ k then failsAt s mbxInvalid 1
  else if v ≤ (minLimits s k).1 ∨ (minLimits s k).2 < v then failsAt s mbxInvalid 2
  else if 256 ≤ s.fuses.count then failsWith s mbxNospace bootFuses
  else if !(flashOk && flashTakes s) then failsWith s mbxState bootFlash
  else done (raise (changeAr s (fun a => patch a (8 + 4 * k) (leBytes 4 v)) true) 0x0D03 0 [])

def execBootMinverRaise (t : Nat) (r : Req) (sig flashOk : Bool) (s : State) := serve t r 0x0D06 (controlled sig (minverBody flashOk)) s

/-! ### Revocation (R381) -/

/-- VENDOR_REVOKE: the statement. `ok`: its signature verifies. -/
def revokeBody (ok flashOk : Bool) (a b : SlotSigs) (s : State) (_p : Peer) (x : Bytes) : Res :=
  let pos := leAt x 4 1
  let signer := rootAt s (shake256 (slice x 0x30 1952))
  if x.length ≠ 0x7D0 + 3309 ∨ leAt x 0 4 ≠ 0x4B564552 ∨ !zeroAt x 5 3 ∨ 4 ≤ pos then failsWith s mbxInvalid bootFormat
  else if !(match signer with
    | some k => k != pos && !s.fuses.revoked.getLsbD k
    | none => false) then failsWith s mbxVerify bootKey
  else if slice x 0x10 32 ≠ s.fuses.roots.getD pos [] ∨ ¬ (zeroAt x 8 8 ∨ beAt x 8 8 = s.fuses.serial.toNat) then fails s mbxVerify
  else if !ok then failsWith s mbxVerify bootSig
  else if s.fuses.revoked.getLsbD pos then fails s mbxState
  else
    let n := { s with fuses.revoked := s.fuses.revoked ||| (1#4 <<< pos) }
    if slotReason n .a a ≠ 0 ∧ slotReason n .b b ≠ 0 then failsWith s mbxState bootLast
    else if !(flashOk && flashTakes s) then failsWith s mbxState bootFlash
    else done (raise (changeAr n id false) 0x0D04 pos [])

def execVendorRevoke (t : Nat) (r : Req) (sig : Bool) (statement : StatementFound) (slotA slotB : SlotSigs) (s : State) :=
  serve t r 0x0D07 (controlled sig (revokeBody statement.verifies statement.flashOk slotA slotB)) s

/-! ### Owners (R382, R383, R385) -/

/-- The owner record with one position enrolled, or emptied; the last key's removal takes the sealed root key with it. -/
def ownerRecord (o : Bytes) (pos : Nat) (key : Option Bytes) : Bytes :=
  let keys := leAt o 6 2
  let keys := match key with
    | some _ => keys ||| 2 ^ pos
    | none => keys &&& (15 - 2 ^ pos)
  let o := patch (patch o 6 (leBytes 2 keys)) (0x10 + 1952 * pos) (padTo 1952 (key.getD []))
  if keys = 0 then patch o 0x1E90 (List.replicate 92 0) else o

/-- OWNER_KEY: position, BURN, and the public key to enrol, or nothing to remove. -/
def ownerKeyBody (flashOk : Bool) (s : State) (_p : Peer) (b : Bytes) : Res :=
  let pos := bnum b 0
  let burn := bnum b 1
  let key := if b.length = 16 then none else some (b.drop 16)
  if b.length ≠ 16 ∧ b.length ≠ 16 + 1952 then fails s mbxInvalid
  else if 4 ≤ pos then failsAt s mbxInvalid 1
  else if 2 ≤ burn then failsAt s mbxInvalid 2
  else if key.isSome == ownerEnrolled s pos then fails s mbxState
  else if burn = 1 ∧ 256 ≤ s.fuses.count then failsWith s mbxNospace bootFuses
  else if !(flashOk && flashTakes s) then failsWith s mbxState bootFlash
  else
    let o := ownerRecord s.boot.owner pos key
    let s := changeOwner s o id (burn == 1)
    let s := if leAt o 6 2 = 0 then { s with sec.slots := tdel s.sec.slots 3 } else s
    done (raise s 0x0D05 pos [])

def execOwnerKey (t : Nat) (r : Req) (sig flashOk : Bool) (s : State) := serve t r 0x0D08 (controlled sig (ownerKeyBody flashOk)) s

/-- OWNER_POLICY: the new POLICY; in force from the next start. -/
def ownerPolicyBody (flashOk : Bool) (s : State) (_p : Peer) (b : Bytes) : Res :=
  if b.length ≠ 8 then fails s mbxInvalid
  else if 8 ≤ bnum b 0 then failsAt s mbxInvalid 1
  else if !(flashOk && flashTakes s) then failsWith s mbxState bootFlash
  else done (raise (changeOwner s (patch s.boot.owner 8 (leBytes 4 (bnum b 0))) id false) 0x0D05 0 [])

def execOwnerPolicy (t : Nat) (r : Req) (sig flashOk : Bool) (s : State) := serve t r 0x0D09 (controlled sig (ownerPolicyBody flashOk)) s

/-- KEY_ROOT_IMPORT (R310): the key (32 bytes), the owner position, the signature; over the sideband alone. -/
def keyRootImportCmd (sig : Bool) (s : State) (r : Req) : Res :=
  let key := r.body.take 32
  let pos := leAt r.body 32 8
  if r.peer.via ≠ .sideband then fails s mbxAuth
  else if !bodyIs r (40 + 3309) then fails s mbxInvalid
  else if 4 ≤ pos then failsAt s mbxInvalid 2
  else if !ownerEnrolled s pos ∨ !sig then fails s mbxVerify
  else if !flashTakes s then failsWith s mbxState bootFlash
  else
    let k := newKey 1 4 (2 ^ useWrap + 2 ^ useUnwrap) 0 0 key
    let iv := s.drawBytes 12
    let e := gcmEncrypt s.fuses.key1 iv.1 k.id key
    let o := patch s.boot.owner 0x1E90 (padTo 32 k.id ++ iv.1 ++ e.1 ++ e.2)
    let count (a : Bytes) : Bytes := patch a 0x18 (leBytes 8 (leAt a 0x18 8 + 1))
    done (extendMr ((changeOwner iv.2 o count false).setSlot 3 k) 7 k.id)

def execKeyRootImport (t : Nat) (r : Req) (sig : Bool) (s : State) := serve t r 0x0C04 (keyRootImportCmd sig) s

/-! ### The Clerk's lockstep (R431) -/

/-- A Clerk restart begins: staging lost, the test abandoned, a store begun anew from its header. -/
def clerkRestart (s : State) (pc : Nat) : State :=
  let s := countErr s (tslBase + 0x4C)
  let s := { s with tsl.mismatchAt := some s.clk.up, tsl.restart := some (s.clk.up, pc) }
  let s := abandonTest s (fun _ => true)
  let s := if s.cfg.staging.isSome then raise { s with cfg.staging := none } 0x0205 0 [] else s
  match s.cfg.store with
  | some (a, _) => beginStore s (if a < areaBase 1 then 0 else 1)
  | none => s

/-- LOCKSTEP_MISMATCH: a start halts; a second mismatch within 1 h resets the device. -/
def lockstepMismatch (s : State) (pc : Nat) : State :=
  match s.phase with
  | .starting => if s.boot.gate then halt (countErr s (tslBase + 0x4C)) 0x06 else halt s 0x06
  | .running =>
    match s.tsl.mismatchAt with
    | some a => if s.clk.up ≤ a + 3600 * nsPerSec then deviceReset s causeClerkFault else clerkRestart s pc
    | none => clerkRestart s pc
  | _ => s

def execLockstepMismatch (t : Nat) (pc : Nat) (s : State) := act t s (fun s => lockstepMismatch s pc)

/-- CLERK_RESTART_DONE. -/
def execClerkRestartDone (t : Nat) (s : State) :=
  act t s (fun s => match s.tsl.restart with
    | some (a, pc) => raise { s with tsl.restart := none, clk.watchdogAt := s.clk.up } 0x0E07 0 (encN pc ++ encN (s.clk.up - a))
    | none => s)

end Sys2Proof.Machine
end

