-- ==== Sys2Proof/Machine/CfgCmds.lean ====
section
/-! DEFINITION. The commands of groups 0x01 to 0x03 that configure, announce and report (R341 to R362), and what the
Clerk does by itself about them. -/

namespace Sys2Proof.Machine

/-! ### Staging (R344, R345) -/

/-- The commit counter in force (R350, R363). -/
def counterNow (s : State) : Nat :=
  match s.cfg.state with
  | .empty => 0
  | _ => s.cfg.counter

/-- The digest in force (R350, R363). -/
def digestNow (s : State) : Bytes := if s.committed then padTo 32 s.cfg.digest else List.replicate 32 0

/-- The open staging under its STAGING_ID. -/
def stagingOf (s : State) (id : Nat) : Option Staging :=
  match s.cfg.staging with
  | some g => if g.id = id then some g else none
  | none => none

/-- The staging's last command is now. -/
def touchStaging (s : State) : State := { s with cfg.staging := s.cfg.staging.map (fun g => { g with at_ := s.clk.up }) }

/-- CFG_OPEN: mode, flags (bit 0 FORCE). -/
def cfgOpenCmd (s : State) (r : Req) : Res :=
  if !bodyIs r 16 then fails s mbxInvalid
  else if 2 ≤ num r 0 then failsAt s mbxInvalid 1
  else if 2 ≤ num r 1 then failsAt s mbxInvalid 2
  else if s.cfg.staging.isSome ∧ num r 1 = 0 then fails s mbxBusy
  else
    let id := s.drawNz (2 ^ 32)
    let recs := if num r 0 = 0 ∧ s.committed then s.cfg.recs else []
    let g : Staging := { id := id.1, base := counterNow s, recs := recs, at_ := s.clk.up }
    gives { id.2 with cfg.staging := some g } (encN id.1 ++ encN (counterNow s))

/-- CFG_WRITE: STAGING_ID in 4 bytes, 4 reserved bytes, records. -/
def cfgWriteCmd (s : State) (r : Req) : Res :=
  if r.body.length < 8 then fails s mbxInvalid
  else match stagingOf s (leAt r.body 0 4) with
    | none => failsAt s mbxState 1
    | some g =>
      let s := touchStaging s
      if !zeroAt r.body 4 4 then failsAt s mbxInvalid 2
      else match readAll (r.body.drop 8) with
        | .inr n => failsAt s mbxInvalid n
        | .inl l => match putRecs s 1 g.recs l with
          | .inr n => failsAt s mbxInvalid n
          | .inl t => done { s with cfg.staging := some { g with recs := t, at_ := s.clk.up } }

/-- CFG_READ: selector, STAGING_ID. -/
def cfgReadCmd (s : State) (r : Req) : Res :=
  if !bodyIs r 16 then fails s mbxInvalid
  else if 2 ≤ num r 0 then failsAt s mbxInvalid 1
  else if num r 0 = 0 then (if num r 1 = 0 then gives s (recsBytes s.cfg.recs) else failsAt s mbxState 2)
  else match stagingOf s (num r 1) with
    | some g => gives (touchStaging s) (recsBytes g.recs)
    | none => failsAt s mbxState 2

/-- CFG_DISCARD: STAGING_ID. -/
def cfgDiscardCmd (s : State) (r : Req) : Res :=
  if !bodyIs r 8 then fails s mbxInvalid
  else if (stagingOf s (num r 0)).isSome then done { s with cfg.staging := none }
  else failsAt s mbxState 1

/-- CFG_STATUS: the register's value, counter and digest (log 25). -/
def cfgStatusCmd (s : State) (r : Req) : Res :=
  if bodyIs r 0 then gives s (encN s.cfgStatus ++ encN (counterNow s) ++ digestNow s) else fails s mbxInvalid

def execCfgOpen (t : Nat) (r : Req) (s : State) := serve t r 0x0201 cfgOpenCmd s
def execCfgWrite (t : Nat) (r : Req) (s : State) := serve t r 0x0202 cfgWriteCmd s
def execCfgRead (t : Nat) (r : Req) (s : State) := serve t r 0x0203 cfgReadCmd s
def execCfgDiscard (t : Nat) (r : Req) (s : State) := serve t r 0x0204 cfgDiscardCmd s
def execCfgStatus (t : Nat) (r : Req) (s : State) := serve t r 0x0206 cfgStatusCmd s

/-! ### Commit and recall (R346, R347, R351) -/

/-- The five parameters of the response. -/
def commitBody (s : State) (key : Option Nat) : Bytes :=
  encN (counterNow s) ++ digestNow s ++ (match key with
    | some k => encN (keyItem k) ++ encN (keyIndex k) ++ encN (keySub k)
    | none => encN 0 ++ encN 0 ++ encN 0)

/-- A commit or recall that failed: counted, the configuration as it was. -/
def commitFails (s : State) (status detail arg : Nat) (key : Option Nat) : Res :=
  { st := countErr s (clerkBase + 0x40), status := status, detail := detail, arg := arg, out := commitBody s key }

/-- Queues whose last token action is zero; none when an action is malformed. -/
def tokenZeros : Nat → Bytes → List Nat → Option (List Nat)
  | 0, _, _ => none
  | fuel + 1, b, acc =>
    if b = [] then some acc
    else
      let q := leAt b 0 4
      if b.length < 8 ∨ 65536 ≤ q ∨ 1 < leAt b 4 1 ∨ !zeroAt b 5 3 then none
      else tokenZeros fuel (b.drop 8) (if leAt b 4 1 = 0 then q :: acc else acc.filter (· != q))

/-- CFG_COMMIT: STAGING_ID, FLAGS (bit 0 PERSIST), token actions. No commit precedes HBM training and the decision on
the stored configuration (R324, R349; log 37). -/
def cfgCommitCmd (s : State) (r : Req) : Res :=
  if r.body.length < 16 then commitFails s mbxInvalid 0 0 none
  else if s.phase ≠ .running then commitFails s mbxState 0 0 none
  else match stagingOf s (num r 0) with
    | none => commitFails s mbxState 0 1 none
    | some g =>
      let s := touchStaging s
      if 2 ≤ num r 1 then commitFails s mbxInvalid 0 2 none
      else match tokenZeros (r.body.length + 1) (r.body.drop 16) [] with
        | none => commitFails s mbxInvalid 0 3 none
        | some zero =>
          if g.base ≠ counterNow s then commitFails s mbxState 0 0 none
          else match validate s g.recs with
            | some f => commitFails s f.status f.detail 0 f.key
            | none =>
              let digest := Crypto.shake256 (tallyEncoding s g.recs)
              let s := commitAt s g.recs zero (counterNow s + 1) digest
              let s := storeCommit { s with cfg.staging := none } (num r 1 == 1)
              gives s (commitBody s none)

def execCfgCommit (t : Nat) (r : Req) (s : State) := serve t r 0x0205 cfgCommitCmd s

/-- The larger COMMIT_COUNTER of the record headers in the two areas (R350, R351). -/
def largerCounter (s : State) : Nat :=
  max (if holdsRecord s 0 then (readArea s 0).counter else 0) (if holdsRecord s 1 then (readArea s 1).counter else 0)

/-- CFG_RECALL: the record of the area that does not hold the latest one. -/
def cfgRecallCmd (sig : Bool) (s : State) (r : Req) : Res :=
  if !bodyIs r 0 then commitFails s mbxInvalid 0 0 none
  else if s.phase ≠ .running then commitFails s mbxState 0 0 none
  else match latestArea s (holdsRecord s) with
    | none => commitFails s mbxState 0 0 none
    | some a =>
      let b := 1 - a
      if !holdsRecord s b then commitFails s mbxState 0 0 none
      else
        let x := checkRecord s b sig
        match x.2 with
        | .inr (n, f) =>
          commitFails x.1 (if n = 5 then mbxInvalid else mbxVerify) ((f.map CfgFail.detail).getD 0) n (f.bind CfgFail.key)
        | .inl recs =>
          let y := commitAt x.1 recs [] (largerCounter s + 1) ((readArea s b).trailer.take 32)
          let y := beginStore y a
          gives y (commitBody y none)

def execCfgRecall (t : Nat) (r : Req) (sig : Bool) (s : State) := serve t r 0x0207 (cfgRecallCmd sig) s

/-! ### In the background (R344, R348, R357) -/

def execStagingExpiry (t : Nat) (s : State) :=
  act t s (fun s => match s.cfg.staging with
    | some g => if g.at_ + 600 * nsPerSec ≤ s.clk.up then raise { s with cfg.staging := none } 0x0205 0 [] else s
    | none => s)

/-- CFG_STORE_DONE: the trailer is written last; a failed program leaves the area incomplete. In the clock-fail hold flash
writes stop (R400). -/
def execCfgStoreDone (t : Nat) (programmed : Bool) (s : State) :=
  act t s (fun s => if s.phase ≠ .running then s else match s.cfg.store with
    | some (a, tr) =>
      let s := { s with cfg.store := none }
      if programmed then raise { flashWrite s a tr with cfg.stored := true } 0x0202 0 [] else raise s 0x0203 0 []
    | none => s)

/-- TALLY_INTERVAL. -/
def execTallyInterval (t : Nat) (s : State) :=
  act t s (fun s =>
    let v := s.cfgN (itemId 2 1 3) 0 0 nsPerSec
    if s.phase = .running ∧ s.committed ∧ v ≠ 0 ∧ s.mbx.tallyAt + v ≤ s.clk.up then sendTally s else s)

/-! ### Announcement and device (R341, R358) -/

/-- TALLY_PEERS: each entry's serial number, counter, digest, commit time, source address and time heard (log 25). -/
def tallyPeersCmd (s : State) (r : Req) : Res :=
  if bodyIs r 0 then
    gives s (s.mbx.tally.flatMap (fun p => beBytes 8 p.1 ++ encN p.2.counter ++ padTo 32 p.2.digest ++ leBytes 10 p.2.time
      ++ beBytes 16 p.2.ip.toNat ++ leBytes 10 p.2.heardTime))
  else fails s mbxInvalid

def execTallyPeers (t : Nat) (r : Req) (s : State) := serve t r 0x0208 tallyPeersCmd s

/-- The running image slot as a number: 0 slot A, 1 slot B (log 25). -/
def slotNumber (s : State) : Nat :=
  match s.boot.booted with
  | some .b => 1
  | _ => 0

/-- DEV_INFO (log 25 for the widths that the table leaves open). -/
def devInfoCmd (s : State) (r : Req) : Res :=
  if bodyIs r 0 then
    gives s (beBytes 8 s.fuses.serial.toNat ++ encN 0x0302 ++ encN 0xB0 ++ leBytes 4 Config.firmwareVersion.toNat
      ++ encN (mailboxEid s) ++ encN s.mbx.gen.toNat ++ beBytes 6 s.fuses.mac.toNat ++ encN s.cfgStatus ++ encN (slotNumber s))
  else fails s mbxInvalid

def execDevInfo (t : Nat) (r : Req) (s : State) := serve t r 0x0101 devInfoCmd s

/-- DEV_RESET: the reset waits for the final state of the response, 100 ms at the latest (R413); a response on the
sideband waits for nothing further. -/
def execDevReset (t : Nat) (r : Req) (s : State) :=
  act t s (serveCmd r 0x0104 (fun s r => if bodyIs r 0 then done s else fails s mbxInvalid)
    (fun s k => if bodyIs r 0 then { s with clk.resetPend := some (k, s.clk.up + 100000000) } else s))

/-! ### Events (R361, R362) -/

/-- EVT_SUBSCRIBE: IP address, EID, generation, logical port, next-hop MAC address, group mask. -/
def evtSubscribeCmd (s : State) (r : Req) : Res :=
  let eid := leAt r.body 16 8
  let gen := leAt r.body 24 8
  let lp := leAt r.body 32 8
  let mask := leAt r.body 46 8
  if !bodyIs r 54 then fails s mbxInvalid
  else if 2 ^ 32 ≤ eid then failsAt s mbxInvalid 2
  else if 65536 ≤ gen then failsAt s mbxInvalid 3
  else if !s.lpPresent lp then failsAt s mbxInvalid 4
  else if 2 ^ 32 ≤ mask then failsAt s mbxInvalid 6
  else match (List.range 8).find? (fun n => (tget? s.mbx.subs n).isNone) with
    | none => fails s mbxNospace
    | some n =>
      let u : Subscriber := { ip := BitVec.ofNat 128 (beAt r.body 0 16), eid := BitVec.ofNat 32 eid, gen := BitVec.ofNat 16 gen
                              lp := Fin.ofNat 16 lp, mac := BitVec.ofNat 48 (beAt r.body 40 6), mask := BitVec.ofNat 32 mask
                              next := s.mbx.nextSeq }
      gives { s with mbx.subs := tset s.mbx.subs n u } (encN n ++ encN s.mbx.nextSeq)

/-- EVT_UNSUBSCRIBE: subscriber number. -/
def evtUnsubscribeCmd (s : State) (r : Req) : Res :=
  if !bodyIs r 8 then fails s mbxInvalid
  else if (tget? s.mbx.subs (num r 0)).isSome then done { s with mbx.subs := tdel s.mbx.subs (num r 0) }
  else failsAt s mbxInvalid 1

/-- EVT_READ: a starting SEQ; GAP in the first record where that one is no longer held. -/
def evtReadCmd (s : State) (r : Req) : Res :=
  if !bodyIs r 8 then fails s mbxInvalid
  else
    let gap := match s.mbx.log with
      | e :: _ => serialLater 64 e.seq (num r 0)
      | [] => false
    gives s (recordBytes gap ((s.mbx.log.filter (fun e => seqFrom e.seq (num r 0))).take 42))

def execEvtSubscribe (t : Nat) (r : Req) (s : State) := serve t r 0x0301 evtSubscribeCmd s
def execEvtUnsubscribe (t : Nat) (r : Req) (s : State) := serve t r 0x0302 evtUnsubscribeCmd s
def execEvtRead (t : Nat) (r : Req) (s : State) := serve t r 0x0303 evtReadCmd s

/-- EVENT_MESSAGE_DONE: a subscriber's open message reaches a final status. -/
def execEventMessageDone (t : Nat) (sub : Fin 8) (status : Byte) (s : State) :=
  act t s (fun s => match tget? s.mbx.subs sub.val with
    | some u => match u.open_ with
      | some (_, k) => finishMsg s k status.toNat 0 []
      | none => s
    | none => s)

/-- EVENT_RETRY: the same records in a new message, those that the log still holds. -/
def eventRetry (s : State) (n : Nat) : State :=
  match tget? s.mbx.subs n with
  | none => s
  | some u =>
    match u.open_, u.retryAt with
    | some (last, _), some d =>
      if s.clk.up < d then s
      else
        let again := s.mbx.log.filter (fun e => seqFrom e.seq u.next && seqFrom last e.seq && u.mask.getLsbD (evGroup e.code))
        if again = [] then { s with mbx.subs := tset s.mbx.subs n { u with open_ := none, retryAt := none } }
        else
          let m := mailboxMsg s u.eid.toNat u.gen.toNat u.ip.toNat u.mac.toNat u.lp.val (recordBytes u.gap again) (.event n)
          let x := submit s m
          { x.1 with mbx.subs := tset x.1.mbx.subs n { u with open_ := some (last, x.2), retryAt := none } }
    | _, _ => s

def execEventRetry (t : Nat) (sub : Fin 8) (s : State) := act t s (fun s => eventRetry s sub.val)

end Sys2Proof.Machine
end

