-- ==== Sys2Proof/Machine/Clocks.lean ====
section
/-! DEFINITION. Clocks, the time base, gating, supplies (16), and the PPS pins (R63). -/

namespace Sys2Proof.Machine

/-! ### The crystal and the references (R396, R399, R400) -/

/-- XTAL_STABLE: the time base starts at 0 (R401). -/
def execXtalStable (t : Nat) (refs : Refs) (s : State) :=
  act t s (fun s =>
    if s.phase = .starting ∧ !s.clk.xtalOk then
      { s with clk.xtalOk := true, clk.tbRunning := true, clk.tb := 0, clk.eth0Ok := refs.eth0, clk.eth1Ok := refs.eth1
               clk.pcieOk := refs.pcie, pins.errc := 0x32#6 }
    else s)

/-- XTAL_TIMEOUT: 20 ms after release. -/
def execXtalTimeout (t : Nat) (s : State) :=
  act t s (fun s => if s.phase = .starting ∧ !s.clk.xtalOk ∧ s.clk.releasedAt + 20000000 ≤ s.clk.up then halt s 0x01 else s)

/-- The part runs on its crystal. -/
def clocked (s : State) : Bool := s.clk.xtalOk && (s.phase == .starting || s.phase == .running)

def refOk (s : State) (n : Nat) : Bool := if n = 0 then s.clk.eth0Ok else if n = 1 then s.clk.eth1Ok else s.clk.pcieOk

def setRef (s : State) (n : Nat) (b : Bool) : State :=
  if n = 0 then { s with clk.eth0Ok := b } else if n = 1 then { s with clk.eth1Ok := b } else { s with clk.pcieOk := b }

/-- CLK_REF_LOST: the ports of an Ethernet reference go down; the drives behind the PCIe reference are lost (R399). -/
def refLost (s : State) (n : Nat) : State :=
  if !(clocked s && refOk s n) then s
  else
    let s := countErr (setRef s n false) (cprBase + 0x40)
    let s := raise s 0x0F01 0 (encN (n + 1))
    if n < 2 then ((List.range 8).map (n * 8 + ·)).foldl (fun s lp => if (s.lp lp).up then declareDown s lp else s) s
    else (s.sto.drives.map Prod.fst).foldl (fun s rp => if (s.drive rp).st = .absent then s else driveFails s rp .linkLost) s

def execClkRefLost (t : Nat) (input : Fin 3) (s : State) := act t s (fun s => refLost s input.val)

/-- CLK_REF_RESTORED. -/
def execClkRefRestored (t : Nat) (input : Fin 3) (s : State) :=
  act t s (fun s => if clocked s && !refOk s input.val then raise (setRef s input.val true) 0x0F02 0 (encN (input.val + 1)) else s)

/-- CLK_FAIL: the crystal (0) or a crystal-fed PLL (1 to 6) is lost; PLLs 7 and 8 are fed by references, whose loss
CLK_REF_LOST reports. In-band subscribers hear nothing of it. The time base stops with its clock (log 39). -/
def clkFail (s : State) (n : Nat) : State :=
  if !clocked s ∨ 6 < n then s
  else
    let s := holdOutputs s
    let s := if n = 0 then { s with clk.xtalOk := false, clk.eth0Ok := false, clk.eth1Ok := false, clk.pcieOk := false } else s
    let s := { s with phase := .clockFail n, clk.pllsLocked := false, mbx.subs := [], clk.tbRunning := s.clk.tbRunning && n != 0 && n != 6 }
    raise s 0x0F07 0 (encN n)

def execClkFail (t : Nat) (input : Fin 9) (s : State) := act t s (fun s => clkFail s input.val)

/-! ### VDD_CORE and temperature (R411, R413, R417) -/

/-- The next voltage on the way to a wanted one, 5 mV at most. -/
def stepTo (now want : Nat) : Nat := if now < want then min want (now + 5) else max want (now - 5)

/-- AVS_ADJUST: every 1 ms; `want` is what the monitors need. -/
def avsAdjust (s : State) (want measured : Nat) (answered : Bool) (regStatus : Nat) : State :=
  if !(s.boot.gate && clocked s) ∨ s.clk.up < s.clk.avsMoved + 1000000 then s
  else
    let s := { s with clk.avsMoved := s.clk.up, clk.vddMeas := measured }
    let ask := stepTo s.clk.vddReached (min 850 (max 700 want))
    if !answered then
      let s := { s with clk.vddWant := s.clk.vddReached }
      if s.clk.avsFaulted then s
      else raise (countErr { s with clk.avsFaulted := true } (cprBase + 0x44)) 0x0F04 0
        (encN s.clk.vddReached ++ encN ask ++ encN regStatus)
    else
      let s := { s with clk.avsFaulted := false, clk.vddWant := ask, clk.vddReached := ask, clk.avsAtLimit := decide (850 < want ∧ ask = 850) }
      let due : Bool := match s.clk.avsLimitAt with
        | some a => decide (a + 3600 * nsPerSec ≤ s.clk.up)
        | none => true
      if s.clk.avsAtLimit && due then raise { s with clk.avsLimitAt := some s.clk.up } 0x0F05 0 (encN ask) else s

def execAvsAdjust (t : Nat) (want measured : Nat) (answered : Bool) (regStatus : Nat) (s : State) :=
  act t s (fun s => avsAdjust s want measured answered regStatus)

/-- The warning level, °C. -/
def warnLevel (s : State) : Int := s.cfgN (itemId 0xF 1 4) 0 0 95

/-- THERMAL_WARN: the junction temperature crosses the level upwards. -/
def execThermalWarn (t : Nat) (tj : Int) (s : State) :=
  act t s (fun s =>
    let s := { s with clk.tj := tj }
    if s.clk.warnArmed ∧ warnLevel s ≤ tj ∧ clocked s then raise { s with clk.warnArmed := false } 0x0F06 0 (encNum tj) else s)

/-- THERMAL_WARN_REARM: 5 °C below the level. -/
def execThermalWarnRearm (t : Nat) (tj : Int) (s : State) :=
  act t s (fun s =>
    let s := { s with clk.tj := tj }
    if tj ≤ warnLevel s - 5 then { s with clk.warnArmed := true } else s)

/-! ### The time base (R402, R403) -/

/-- SLEWING (R418). -/
def slewing (s : State) : Bool := s.clk.slewLeft != 0 && s.clk.slewRate != 0

/-- TB_STATUS (R418). -/
def tbStatus (s : State) : Nat := (if s.clk.tbRunning then 1 else 0) + (if s.clk.tbSet then 2 else 0) + (if slewing s then 4 else 0)

/-- The rest of a slew, ns with its sign. -/
def slewRest (s : State) : Int :=
  let n : Int := ((s.clk.slewLeft + 999999) / 1000000 : Nat)
  if s.clk.slewRate < 0 then -n else n

/-- TB_READ: time, rate term, remaining slew, TB_STATUS. -/
def tbReadCmd (s : State) (r : Req) : Res :=
  if bodyIs r 0 then gives s (encTime s.ns ++ encNum s.clk.rate ++ encNum (slewRest s) ++ encN (tbStatus s)) else fails s mbxInvalid

def execTbRead (t : Nat) (r : Req) (s : State) := serve t r 0x0F01 tbReadCmd s

/-- Every thread blocked on its timer port. -/
def timerWaits (s : State) : List Tid :=
  s.ido.stalls.flatMap (fun x => x.2.cores.flatMap (fun c => c.2.threads.filterMap (fun t => match t.2.wait with
    | some (.timer, _) => some { stall := Fin.ofNat 12 x.1, role := Fin.ofNat 16 c.1, thread := Fin.ofNat 8 t.1 }
    | _ => none)))

/-- A step of the time base to `ns` (R403): PPS_OUT low for the rest of the second, Bell lists computed anew (R142), timer
ports whose deadline has passed return. -/
def stepTime (s : State) (ns : Nat) : State :=
  let old := s.ns
  let s := { s with clk.tb := ns * 2 ^ 32, clk.slewLeft := 0, clk.slewRate := 0, clk.tbSet := true, clk.stepAt := some s.clk.up
                    clk.ppsHigh := false, clk.ppsHold := some ns, clk.ppsLastRise := none }
  let s := (List.range 16).foldl (fun s lp =>
    if (s.lp lp).bell.isSome || (s.lp lp).bellPend.isSome then refreshGates (takeBell s lp) lp else s) s
  let s := (timerWaits s).foldl (fun s i => unblock s i (· == .timer)) s
  raise (countStat s (cprBase + 0x100) 1) 0x0F03 0 (encTime old ++ encTime ns)

/-- TB_SET: the 80-bit time; the time just before and just after. -/
def tbSetCmd (s : State) (r : Req) : Res :=
  let v := leAt r.body 0 10
  if !bodyIs r 10 ∨ nsPerSec ≤ v % 2 ^ 32 then failsAt s mbxInvalid (if bodyIs r 10 then 1 else 0)
  else if !s.clk.tbRunning then fails s mbxState
  else gives (stepTime s (nsOf80 v)) (encTime s.ns ++ encTime (nsOf80 v))

def execTbSet (t : Nat) (r : Req) (s : State) := serve t r 0x0F02 tbSetCmd s

/-- TB_RATE: parts per 10^12. -/
def tbRateCmd (s : State) (r : Req) : Res :=
  let v := toSigned (num r 0)
  if !bodyIs r 8 then fails s mbxInvalid
  else if v < -500000000 ∨ 500000000 < v then failsAt s mbxInvalid 1
  else done { s with clk.rate := v }

def execTbRate (t : Nat) (r : Req) (s : State) := serve t r 0x0F03 tbRateCmd s

/-- TB_SLEW: offset in ns, slew rate in ppm. -/
def tbSlewCmd (s : State) (r : Req) : Res :=
  let v := toSigned (num r 0)
  let p := num r 1
  if !bodyIs r 16 then fails s mbxInvalid
  else if v < -10000000 ∨ 10000000 < v then failsAt s mbxInvalid 1
  else if p < 1 ∨ 500 < p then failsAt s mbxInvalid 2
  else done { s with clk.slewLeft := v.natAbs * 1000000, clk.slewRate := if v < 0 then -(p : Int) else p }

def execTbSlew (t : Nat) (r : Req) (s : State) := serve t r 0x0F04 tbSlewCmd s

/-- SLEW_END: the offset has been added; the slew term is 0. -/
def execSlewEnd (t : Nat) (s : State) := act t s (fun s => if s.clk.slewLeft = 0 then { s with clk.slewRate := 0 } else s)

/-! ### PPS (R63) -/

/-- PPS_IN_EDGE; PPS_IN_OVF is counted in the block of physical port 0 (log 40). While the time base does not run there is no
stamp to write, and none is counted as lost (DESIGN CHOICE, log 40). -/
def execPpsInEdge (t : Nat) (s : State) :=
  act t s (fun s =>
    if !s.clk.tbRunning then s
    else if s.port.ppsFifo.length < 16 then { s with port.ppsFifo := s.port.ppsFifo ++ [time80 s.ns] }
    else countErr s (portBase 0 + 0x28))

def ppsOffset (s : State) : Nat := s.cfgN (itemId 0xF 1 5) 0 0 0
def ppsWidth (s : State) : Nat := s.cfgN (itemId 0xF 1 6) 0 0 100000000

/-- The latest instant n s + offset at or before now, in ns of the time base. -/
def ppsInstant (s : State) : Option Nat :=
  if s.ns < ppsOffset s then none else some ((s.ns - ppsOffset s) / nsPerSec * nsPerSec + ppsOffset s)

/-- The time base has reached an instant by counting, in a second in which it was not stepped (R63): the instant lies behind the
value from which it counts, 0 at its start, and not in the second of the last step. -/
def ppsReached (s : State) (i : Nat) : Bool :=
  match s.clk.ppsHold with
  | some v => decide (v < i) && i / nsPerSec != v / nsPerSec
  | none => decide (0 < i)

/-- PPS_OUT_RISE at an instant of the pulse, within the 2 ns of R63. -/
def ppsOutRise (s : State) : State :=
  match ppsInstant s with
  | none => s
  | some i =>
    if s.clk.tbRunning && !s.clk.ppsHigh && decide (s.ns ≤ i + 2) && ppsReached s i && s.clk.ppsLastRise != some i then
      { s with clk.ppsHigh := true, clk.ppsFallAt := i + ppsWidth s, clk.ppsLastRise := some i }
    else s

def execPpsOutRise (t : Nat) (s : State) := act t s ppsOutRise

/-- PPS_OUT_FALL: the width has passed. -/
def execPpsOutFall (t : Nat) (s : State) :=
  act t s (fun s => if s.clk.ppsHigh ∧ s.clk.ppsFallAt ≤ s.ns then { s with clk.ppsHigh := false } else s)

/-! ### Gating (R404 to R407) -/

/-- Every Stall is held STOPPED and in deep-sleep (R406). -/
def stallsHeld (s : State) : Bool := !s.committed

/-- The state a block shows. -/
def gateState (s : State) (b : Nat) : Gate := if b < 12 ∧ stallsHeld s then .deepSleep else tget s.clk.gates b .run

def gateNo : Gate → Nat
  | .run => 0
  | .sleep => 1
  | .deepSleep => 2

/-- The condition of R404 for sleep and deep-sleep. -/
def maySleep (s : State) (b : Nat) : Bool :=
  if b < 12 then (s.stall b).st == .stopped
  else if b < 14 then
    !s.port.mgmtOnly && (List.range (modePorts (s.portMode (b - 12)))).all (fun i =>
      let lp := (b - 12) * 8 + i
      s.disabled (lpObj lp) && (s.lp lp).held)
  else (s.drive (b - 14)).st == .absent || (s.drive (b - 14)).st == .failed

/-- A block set to sleep or deep-sleep: a root port's reset output goes low (R405). -/
def putToSleep (s : State) (b : Nat) (g : Gate) : State :=
  let s := { s with clk.gates := tset s.clk.gates b g }
  if 14 ≤ b then { s.onDrive (b - 14) (fun d => { d with released := false }) with pins.perst := s.pins.perst &&& ~~~ (1#16 <<< (b - 14)) } else s

/-- A block back in run: a root port begins R213 from step 1. -/
def wakeBlock (s : State) (b : Nat) : State :=
  if (tget s.clk.gates b .run) = .run then s
  else
    let s := { s with clk.gates := tdel s.clk.gates b }
    if 14 ≤ b ∧ b - 14 < rootPorts s then releaseDrive s (b - 14) else s

/-- CLK_GATE: block, state (run, sleep, deep-sleep). -/
def clkGateCmd (s : State) (r : Req) : Res :=
  let b := num r 0
  let g := num r 1
  if !bodyIs r 16 then fails s mbxInvalid
  else if 33 ≤ b then failsAt s mbxInvalid 1
  else if 3 ≤ g ∨ (30 ≤ b ∧ g ≠ 0) then failsAt s mbxInvalid 2
  else if b < 12 ∧ stallsHeld s then fails s mbxState
  else if g ≠ 0 ∧ (gateMode s b = 1 ∨ !maySleep s b) then fails s mbxState
  else
    let s := if b < 12 then abandonTest s (unitOfStall b) else s
    done (if g = 0 then wakeBlock s b else putToSleep s b (if g = 1 then .sleep else .deepSleep))

def execClkGate (t : Nat) (r : Req) (s : State) := serve t r 0x0F05 clkGateCmd s

/-- A block in auto mode has work (R407). -/
def blockWork (s : State) (b : Nat) : Bool :=
  if b < 12 then (s.stall b).cores.any (fun c => c.2.threads.any (fun t => t.2.enable && t.2.st == .ready))
  else if b < 30 then !(s.drive (b - 14)).cmds.isEmpty
  else false

/-- AUTO_WAKE: work, or a request: counted in GATE_WAKES. -/
def execAutoWake (t : Nat) (block : Fin 33) (s : State) :=
  act t s (fun s =>
    if s.clk.stopped.contains block.val then
      countStat { s with clk.stopped := s.clk.stopped.filter (· != block.val) } (cprBase + 0x108) 1
    else s)

/-- AUTO_GATE_STOP. -/
def execAutoGateStop (t : Nat) (block : Fin 33) (s : State) :=
  act t s (fun s =>
    if clocked s && gateMode s block.val == 1 && gateState s block.val == .run && !s.clk.stopped.contains block.val && !blockWork s block.val then
      { s with clk.stopped := s.clk.stopped ++ [block.val] }
    else s)

/-! ### CLKOUT (R408) -/

def execClkoutSettingApply (t : Nat) (s : State) :=
  act t s (fun s => if s.committed then { s with clk.clkSrc := s.cfgN (itemId 0xF 1 2) 0 0 0, clk.clkDiv := s.cfgN (itemId 0xF 1 3) 0 0 1 } else s)

/-! ### PWR_STATUS (R416) -/

/-- CPR_STATUS (R418). -/
def cprStatus (s : State) : Nat :=
  (if s.clk.xtalOk then 4 else 0) + (if s.clk.pllsLocked then 8 else 0) + (if s.clk.eth0Ok then 16 else 0)
    + (if s.clk.eth1Ok then 32 else 0) + (if s.clk.pcieOk then 64 else 0) + (if s.clk.avsAtLimit then 128 else 0)

/-- VDD_CORE requested and measured, temperature, mode and state of each block, CPR_STATUS. -/
def pwrStatusCmd (s : State) (r : Req) : Res :=
  if bodyIs r 0 then
    gives s (encN s.clk.vddWant ++ encN s.clk.vddMeas ++ encNum s.clk.tj
      ++ (List.range 33).flatMap (fun b => encN (gateMode s b) ++ encN (gateNo (gateState s b))) ++ encN (cprStatus s))
  else fails s mbxInvalid

def execPwrStatus (t : Nat) (r : Req) (s : State) := serve t r 0x0F06 pwrStatusCmd s

end Sys2Proof.Machine
end

