-- ==== Sys2Proof/Machine/PinsRows.lean ====
section
/-! DEFINITION. The test access port (R446 to R448). -/

namespace Sys2Proof.Machine

/-- The boundary-scan instruction of an opcode: every other opcode acts as BYPASS here (R446, log 42). -/
def scanOf (opcode : Byte) : Scan :=
  match opcode.toNat with
  | 1 => .idcode
  | 2 => .samplePreload
  | 3 => .extest
  | 4 => .clamp
  | 5 => .highz
  | _ => .bypass

/-- The instruction register loaded. An instruction that drives the balls outside a reset takes them from the part until a
device reset (R448). -/
def loadIr (s : State) (opcode : Byte) : State :=
  { s with
    pins.jtagIr := opcode
    pins.scan := scanOf opcode
    pins.scanLost := s.pins.scanLost || (scanDrives (scanOf opcode) && s.phase != .inReset) }

/-- The value of the identification register. -/
def idcodeValue : Word32 := 0x1719256D#32

/-- TAP_RESET: the port loads IDCODE. -/
def execTapReset (s : State) : Host.Outcome State Fault Refusal := .next (loadIr s 1#8)

def execIdcode (s : State) : Host.Outcome State Fault Refusal := .next (loadIr s 1#8)

/-- SAMPLE/PRELOAD: the 104 cells of the boundary register (R447) hold what is shifted in. -/
def execSamplePreload (bits : BitVec 104) (s : State) : Host.Outcome State Fault Refusal :=
  .next { loadIr s 2#8 with pins.boundary := bits }

def execExtest (s : State) : Host.Outcome State Fault Refusal := .next (loadIr s 3#8)

def execClamp (s : State) : Host.Outcome State Fault Refusal := .next (loadIr s 4#8)

def execHighz (s : State) : Host.Outcome State Fault Refusal := .next (loadIr s 5#8)

def execBypass (opcode : Byte) (s : State) : Host.Outcome State Fault Refusal := .next (loadIr s opcode)

end Sys2Proof.Machine
end

