-- ==== Sys2Proof/Machine/Registers.lean ====
section
/-! DEFINITION. The registers: reads, writes by access code (R5), snapshots and clears (R14) of every block, and the
commands that reach them (R342). -/

namespace Sys2Proof.Machine

/-! ### Reads -/

/-- Word `k` of a wide register. -/
def wordOf (v k : Nat) : Nat := v / 2 ^ (32 * k) % 2 ^ 32

/-- A sum of bits, bit `i` where `p i`. -/
def bitsOf (n : Nat) (p : Nat → Bool) : Nat :=
  (List.range n).foldl (fun acc i => if p i then acc + 2 ^ i else acc) 0

/-- A sum of fields of `w` bits. -/
def fieldsOf (n w : Nat) (f : Nat → Nat) : Nat := (List.range n).foldl (fun acc i => acc + f i * 2 ^ (w * i)) 0

/-- PORT_STATUS (R66). -/
def portStatus (s : State) (p : Nat) : Nat :=
  bitsOf 8 (fun i => (s.lp (8 * p + i)).up) + (s.pp p).fecLock % 256 * 2 ^ 8 + (s.pp p).mode % 4 * 2 ^ 16
    + (if (s.pp p).rekey.isSome then 2 ^ 18 else 0) + (if s.port.mgmtOnly then 2 ^ 19 else 0)

/-- VER_STATUS (R96). -/
def verNo : VerState → Nat
  | .free => 0
  | .building => 1
  | .current => 2
  | .retiring => 3
def verStatus (s : State) : Nat :=
  fieldsOf 8 2 (fun i => verNo (tget s.parse.vers i {}).state) + s.parse.current % 8 * 2 ^ 16

/-- TBL_STATUS (R123). -/
def tblStatus (s : State) (t : Nat) : Nat :=
  tblDepth s t % 16 + (if tblOldest s t then 2 ^ 4 else 0) + tblMode s t % 4 * 2 ^ 5 + (if tblBuckets s t 1 = 0 then 0 else 2 ^ 7)
    + (if (s.tbl t).resync then 2 ^ 8 else 0)

/-- Valid entries of a level. -/
def tblOcc (s : State) (t level : Nat) : Nat := ((s.tbl t).slots.filter (fun p => p.1 / 2 ^ 40 == level)).length

/-- BELL_STATUS (R145). -/
def bellStatus (s : State) (lp : Nat) : Nat :=
  let p := s.lp lp
  p.gates % 256 + (if p.bell.isSome then 2 ^ 8 else 0) + (if p.bellPend.isSome then 2 ^ 9 else 0) + p.curEntry % 1024 * 2 ^ 16

/-- BELL_CHANGE (R145): T_c of the list that waits. -/
def bellChange (s : State) (lp : Nat) : Nat :=
  match (s.lp lp).bellPend with
  | some (_, tc) => time80 tc
  | none => 0

/-- EHT_STATUS (R190). -/
def ehtStatus (s : State) : Nat :=
  (if s.committed then 1 else 0) + (if bulkCtxRoom s then 0 else 2) + (if bulkDedupRoom s then 0 else 4)

/-- Free units of the express pool (R176). -/
def xpoolFree (s : State) : Nat :=
  expressPool s - s.eht.grants.foldl (fun n g => if g.2.express then n + g.2.left else n) 0

/-- STO_STATUS and DRV_STATE (R220). -/
def stoStatus (s : State) : Nat :=
  (if s.sto.resetHeld then 1 else 0) + (if s.sto.journals.any (fun j => j.2.replay) then 2 else 0)
    + 4 * bitsOf 16 (fun j => (tget s.sto.journals j {}).usable)
def drvNo : DrvState → Nat
  | .absent => 0
  | .init => 1
  | .online => 2
  | .resetting => 3
  | .failed => 4
def drvStates (s : State) : Nat := fieldsOf 16 4 (fun rp => drvNo (s.drive rp).st)

/-- STALL_STATUS, ROLE_MAP, QUIET_NOW and DEAD (R276). -/
def stallStateNo : StallState → Nat
  | .stopped => 0
  | .running => 1
  | .quiescing => 2
def stallStatus (s : State) (st : Nat) : Nat :=
  let x := s.stall st
  bitsOf 16 (fun r => (s.role st r).phys.isSome) + (if x.degraded then 2 ^ 16 else 0) + (if x.spareUsed then 2 ^ 17 else 0)
    + stallStateNo x.st * 2 ^ 18 + Nat.log2 (quietThreshold s st) % 32 * 2 ^ 20
def roleMap (s : State) (st : Nat) : Nat := fieldsOf 16 8 (fun r => ((s.role st r).phys.getD 0x1F) % 256)

/-- MEM_STATUS (R330): a spare holds a role where a role is redirected; a dead bank in service makes it DEGRADED. -/
def memStatus (s : State) : Nat :=
  (if s.mem.trained0 then 1 else 0) + (if s.mem.trained1 then 2 else 0)
    + (if s.tsl.dead.any (fun d => decide (3 ≤ unitKind d.1) && (bankRole s d.1).isSome) then 2 ^ 8 else 0)
    + ((s.tsl.bankMap.filter (fun p => unitKind p.2 == 4 && spareBank p.2)).length % 8) * 2 ^ 9
    + bitsOf 12 (fun st => s.tsl.bankMap.any (fun p => unitKind p.2 == 3 && unitIdx p.2 == st * 17 + 16)) * 2 ^ 12

/-- TSL_STATUS (R435). -/
def tslStatus (s : State) : Nat :=
  (if teaselRuns s then 1 else 0)
    + (match s.tsl.cur with
       | some u => unitIdx u.unit % 4096 * 2 ^ 8 + unitKind u.unit % 16 * 2 ^ 20
       | none => 0)
    + (if s.tsl.overdue then 2 ^ 24 else 0) + (if 96 ≤ s.fuses.dead.length then 2 ^ 25 else 0)

/-- A counter's register from its shadow copy (R14), either half of a 64-bit one. -/
def ctrWord (s : State) (b : Block) (o : Nat) (g : CtrGroup) (k : Nat) : Nat :=
  let v := (s.ctr (b.base + g.off + k * g.stride)).sv
  if g.stat then wordOf v ((o - g.off) % 8 / 4) else wordOf v 0

/-- The control, status and live registers of a block, by the offset of their word. The maxima and the captured D of a latency
monitor are kept whole; a read gives their low 32 bits (R46; DESIGN CHOICE, log 65). -/
def specialWord (s : State) (b : Block) (o : Nat) : Nat :=
  match b.kind with
  | .clerk =>
    if o = 0x8 then s.cfgStatus
    else if o = 0x18 ∨ o = 0x1C then wordOf (counterNow s) ((o - 0x18) / 4)
    else if 0x20 ≤ o ∧ o < 0x40 then leAt (digestNow s) (o - 0x20) 4 else 0
  | .port => if o = 0 then portStatus s b.obj else 0
  | .lport => 0
  | .exlat =>
    let x := (s.lp b.obj).exlat
    if o = 0 then (if x.en then 1 else 0) + (if x.scope then 2 else 0)
    else if o = 4 then x.thresh
    else if o = 0x28 then wordOf x.smax 0
    else if o = 0x2C then wordOf x.sbklg 0
    else if 0x80 ≤ o ∧ o < 0x90 then wordOf x.tin ((o - 0x80) / 4)
    else if o = 0x90 then wordOf x.d 0
    else if o = 0x94 then x.cause % 64 + (if x.valid then 2 ^ 31 else 0) else 0
  | .parser =>
    if o = 0x8 then verStatus s
    else if o = 0xC then bitsOf 24 (inRotation s)
    else if 0x20 ≤ o ∧ o < 0x40 then (tget s.parse.vers ((o - 0x20) / 4) {}).inflight else 0
  | .table =>
    if o = 0x8 then tblStatus s b.obj
    else if o = 0x14 then (s.tbl b.obj).tick % 2 ^ 16
    else if o = 0x18 then tblOcc s b.obj 0
    else if o = 0x1C then tblOcc s b.obj 1
    else if 0x20 ≤ o ∧ o < 0x40 then leAt (s.tbl b.obj).sdigest (o - 0x20) 4 else 0
  | .tmLp =>
    if o = 0x8 then bellStatus s b.obj
    else if o = 0x14 then expressFree s b.obj
    else if 0x20 ≤ o ∧ o < 0x30 then wordOf (bellChange s b.obj) ((o - 0x20) / 4) else 0
  | .tmGlobal => if o = 0xC then poolFree s / 1024 else 0
  | .eht =>
    if o = 0x8 then ehtStatus s
    else if o = 0x14 then s.eht.dedup.length
    else if o = 0x18 then s.eht.ctxs.length
    else if o = 0x1C then s.eht.grants.length
    else if o = 0x20 then xpoolFree s else 0
  | .storage =>
    if o = 0x8 then stoStatus s
    else if o = 0x18 ∨ o = 0x1C then wordOf (drvStates s) ((o - 0x18) / 4) else 0
  | .stall =>
    if o = 0x8 then stallStatus s b.obj
    else if 0x20 ≤ o ∧ o < 0x30 then wordOf (roleMap s b.obj) ((o - 0x20) / 4)
    else if o = 0x30 then bitsOf 16 (fun r => (s.role b.obj r).quietFired)
    else if o = 0x34 then bitsOf 17 (fun p => (s.stall b.obj).dead.contains p) else 0
  | .security => 0
  | .memory =>
    if o = 0x8 then memStatus s
    else if o = 0x18 ∨ o = 0x1C then wordOf s.mem.lastxAddr ((o - 0x18) / 4)
    else if o = 0x20 then s.mem.lastxInfo % 2 ^ 31 + (if s.mem.lastxValid then 2 ^ 31 else 0) else 0
  | .cpr =>
    if o = 0x8 then cprStatus s
    else if o = 0x14 then s.clk.rstCause.toNat
    else if o = 0x18 then tbStatus s
    else if o = 0x1C then s.clk.vddMeas
    else if o = 0x20 then (s.clk.tj % 2 ^ 32).toNat else 0
  | .teasel =>
    if o = 0x8 then tslStatus s
    else if o = 0x14 then s.tsl.tested
    else if o = 0x18 then s.tsl.lastMs
    else if o = 0x1C then s.fuses.dead.length else 0
  | .object => 0

/-- The 32-bit word at an offset of a block. A write-only or reserved register reads 0 (R5). -/
def regWord (s : State) (b : Block) (o : Nat) : Nat :=
  match findCtr b.kind.groups o with
  | some (g, k) => ctrWord s b o g k
  | none =>
    if b.kind.groups.any (fun g => g.flagOff == o) then flagWord s b.base b.kind.groups o
    else wordOf (specialWord s b o) 0

/-! ### Snapshots and clears -/

/-- The offsets of a block's snapshot trigger and clear action; none: it has none of its own. -/
def BlockKind.triggers : BlockKind → Option Nat × Option Nat
  | .port => (some 4, some 8)
  | .exlat => (some 8, none)
  | .lport => (none, none)
  | .object => (none, none)
  | _ => (some 0, some 4)

/-- A snapshot of a latency monitor: the maxima go to the shadow and start anew (R46), while EN is 0 too (DESIGN CHOICE,
log 65). -/
def exlatSnap (s : State) (lp : Nat) : State :=
  (snapRange s (exlatBase lp) 0x800).onLp lp (fun p =>
    { p with exlat := { p.exlat with smax := p.exlat.max, max := 0, sbklg := p.exlat.bklg, bklg := 0 } })

/-- The clear action of a latency monitor (R46). -/
def exlatClear (s : State) (lp : Nat) : State :=
  (clearRange s (exlatBase lp) 0x800).onLp lp (fun p =>
    { p with exlat := { p.exlat with smax := 0, max := 0, sbklg := 0, bklg := 0 } })

/-- The logical ports of a physical port, whatever its mode. -/
def portLps (p : Nat) : List Nat := (List.range 8).map (8 * p + ·)

/-- The snapshot of a block (R14): one of a port reaches its logical ports and monitors (R66); a table's takes the digest
(R123). -/
def snapBlock (s : State) (b : Block) : State :=
  match b.kind with
  | .exlat => exlatSnap s b.obj
  | .port =>
    (portLps b.obj).foldl (fun s lp => exlatSnap (snapRange s (lportBase lp) 0x800) lp) (snapRange s b.base 0x1000)
  | .table => (snapRange s b.base 0x1000).onTbl b.obj (fun t => { t with sdigest := t.digest })
  | _ => snapRange s b.base b.size

/-- The clear action of a block (R14): a port's leaves the monitors alone (R66). -/
def clearBlock (s : State) (b : Block) : State :=
  match b.kind with
  | .port => (portLps b.obj).foldl (fun s lp => clearRange s (lportBase lp) 0x800) (clearRange s b.base 0x1000)
  | _ => clearRange s b.base b.size

/-! ### Writes (R5) -/

/-- Registers with fields of their own that a write changes; a bit that an event sets in this very cycle stays set (R6). -/
def writeSpecial (s : State) (b : Block) (o v : Nat) : State :=
  match b.kind with
  | .exlat =>
    if o = 0 then
      let s := s.onLp b.obj (fun p => { p with exlat := { p.exlat with en := v.testBit 0, scope := v.testBit 1 } })
      if v.testBit 2 then exlatClear s b.obj else s
    else if o = 4 ∧ 1 ≤ v ∧ v ≤ 1000000 then s.onLp b.obj (fun p => { p with exlat := { p.exlat with thresh := v } })
    else if o = 0x94 ∧ v.testBit 31 ∧ !s.flagNow (b.base + o) then s.onLp b.obj (fun p => { p with exlat := { p.exlat with valid := false } })
    else s
  | .table => if o = 0x8 ∧ v.testBit 8 ∧ !s.flagNow (b.base + o) then s.onTbl b.obj (fun t => { t with resync := false }) else s
  | .memory => if o = 0x20 ∧ v.testBit 31 ∧ !s.flagNow (b.base + o) then { s with mem.lastxValid := false } else s
  | .cpr => if o = 0x14 then { s with clk.rstCause := s.clk.rstCause &&& ~~~(BitVec.ofNat 32 v) } else s
  | _ => s

/-- A 32-bit write inside a block: a trigger acts on a write of 1, each 1 clears a bit of an RW1C register, a read-only or
reserved register ignores it. -/
def writeWord (s : State) (b : Block) (o v : Nat) : State :=
  if b.kind.triggers.1 = some o then (if v.testBit 0 then snapBlock s b else s)
  else if b.kind.triggers.2 = some o then (if v.testBit 0 then clearBlock s b else s)
  else if b.kind.groups.any (fun g => g.flagOff == o) then clearFlags s b.base o v b.kind.groups
  else writeSpecial s b o v

/-- A 32-bit write at an address: one that no register block holds, or one not aligned, does nothing. -/
def writeReg (s : State) (a v : Nat) : State :=
  if a % 4 ≠ 0 ∨ 2 ^ 44 ≤ a then s
  else match blockAt a with
    | some b => writeWord s b (a - b.base) v
    | none => s

/-- A row that writes a register. -/
def regRow (s : State) (a : Nat) (v : Word32) : Host.Outcome State Fault Refusal := .next (writeReg s a v.toNat)

def execExlatSnap (lp : Fin 16) (v : Word32) (s : State) := regRow s (exlatBase lp.val + 0x8) v
def execExlatCtlClear (lp : Fin 16) (v : Word32) (s : State) := regRow s (exlatBase lp.val) v
def execExlatValidRearm (lp : Fin 16) (v : Word32) (s : State) := regRow s (exlatBase lp.val + 0x94) v
def execPortSnap (port : Fin 2) (v : Word32) (s : State) := regRow s (portBase port.val + 0x4) v
def execPortClear (port : Fin 2) (v : Word32) (s : State) := regRow s (portBase port.val + 0x8) v
def execParseSnap (v : Word32) (s : State) := regRow s parserBase v
def execParseClear (v : Word32) (s : State) := regRow s (parserBase + 0x4) v
def execTblSnap (tbl : Fin 16) (v : Word32) (s : State) := regRow s (tableBase tbl.val) v
def execTblClear (tbl : Fin 16) (v : Word32) (s : State) := regRow s (tableBase tbl.val + 0x4) v
def execTmSnap (lp : Fin 16) (v : Word32) (s : State) := regRow s (tmBase lp.val) v
def execTmClear (lp : Fin 16) (v : Word32) (s : State) := regRow s (tmBase lp.val + 0x4) v
def execTmGsnap (v : Word32) (s : State) := regRow s tmGlobalBase v
def execTmGclear (v : Word32) (s : State) := regRow s (tmGlobalBase + 0x4) v
def execEhtSnap (v : Word32) (s : State) := regRow s ehtBase v
def execEhtClear (v : Word32) (s : State) := regRow s (ehtBase + 0x4) v
def execStoSnap (v : Word32) (s : State) := regRow s stoBase v
def execStoClear (v : Word32) (s : State) := regRow s (stoBase + 0x4) v
def execStallSnap (stall : Fin 12) (v : Word32) (s : State) := regRow s (stallBase stall.val) v
def execStallClear (stall : Fin 12) (v : Word32) (s : State) := regRow s (stallBase stall.val + 0x4) v
def execSecSnap (v : Word32) (s : State) := regRow s secBase v
def execSecClear (v : Word32) (s : State) := regRow s (secBase + 0x4) v
def execMemSnap (v : Word32) (s : State) := regRow s memBase v
def execMemClear (v : Word32) (s : State) := regRow s (memBase + 0x4) v
def execMemValidRearm (v : Word32) (s : State) := regRow s (memBase + 0x20) v
def execClkSnap (v : Word32) (s : State) := regRow s clerkBase v
def execClkClear (v : Word32) (s : State) := regRow s (clerkBase + 0x4) v
def execCprSnap (v : Word32) (s : State) := regRow s cprBase v
def execCprClear (v : Word32) (s : State) := regRow s (cprBase + 0x4) v
def execTslSnap (v : Word32) (s : State) := regRow s tslBase v
def execTslClear (v : Word32) (s : State) := regRow s (tslBase + 0x4) v
def execRegisterWrite (addr : Nat) (v : Word32) (s : State) := regRow s addr v

/-! ### REG_READ and REG_WRITE (R342) -/

/-- The block that a range of words lies inside; the parameter at fault otherwise. -/
def regRange (a n : Nat) : Block ⊕ Nat :=
  if a % 4 ≠ 0 ∨ 2 ^ 44 ≤ a then .inr 1
  else if n % 4 ≠ 0 ∨ n < 4 ∨ 4064 < n then .inr 2
  else match blockAt a with
    | some b => if a + n ≤ b.base + b.size then .inl b else .inr 2
    | none => .inr 1

/-- REG_READ: address, length. -/
def regReadCmd (s : State) (r : Req) : Res :=
  if !bodyIs r 16 then fails s mbxInvalid
  else match regRange (num r 0) (num r 1) with
    | .inr p => failsAt s mbxInvalid p
    | .inl b => gives s ((List.range (num r 1 / 4)).flatMap (fun i => leBytes 4 (regWord s b (num r 0 - b.base + 4 * i))))

/-- REG_WRITE: address, data. Its words are written in order. -/
def regWriteCmd (s : State) (r : Req) : Res :=
  if r.body.length < 8 then fails s mbxInvalid
  else match regRange (num r 0) (r.body.length - 8) with
    | .inr p => failsAt s mbxInvalid p
    | .inl b =>
      done ((List.range ((r.body.length - 8) / 4)).foldl
        (fun s i => writeWord s b (num r 0 - b.base + 4 * i) (leAt r.body (8 + 4 * i) 4)) s)

def execRegRead (t : Nat) (r : Req) (s : State) := serve t r 0x0102 regReadCmd s
def execRegWrite (t : Nat) (r : Req) (s : State) := serve t r 0x0103 regWriteCmd s

end Sys2Proof.Machine
end

