-- ==== Sys2Proof/Machine/Dispatch.lean ====
section
/-! DEFINITION. One arm for each command: a direct call of its meaning. -/

namespace Sys2Proof.Machine

def exec (i : Instr) (s : State) : Host.Outcome State Fault Refusal :=
  match i with
  | .powerOnReset t => Sys2Proof.Machine.execPowerOnReset t s
  | .resetNLow t => Sys2Proof.Machine.execResetNLow t s
  | .resetRelease t straps => Sys2Proof.Machine.execResetRelease t straps s
  | .watchdog t => Sys2Proof.Machine.execWatchdog t s
  | .thermalTrip t tj => Sys2Proof.Machine.execThermalTrip t tj s
  | .thermalWarn t tj => Sys2Proof.Machine.execThermalWarn t tj s
  | .xtalStable t refs => Sys2Proof.Machine.execXtalStable t refs s
  | .xtalTimeout t => Sys2Proof.Machine.execXtalTimeout t s
  | .bootVerdict t sigs => Sys2Proof.Machine.execBootVerdict t sigs s
  | .hbmTrainingDone t ok0 ok1 => Sys2Proof.Machine.execHbmTrainingDone t ok0 ok1 s
  | .coreImagesReady t => Sys2Proof.Machine.execCoreImagesReady t s
  | .storedConfigDecision t imageSig => Sys2Proof.Machine.execStoredConfigDecision t imageSig s
  | .replayDone t j => Sys2Proof.Machine.execReplayDone t j s
  | .trialReverted t => Sys2Proof.Machine.execTrialReverted t s
  | .clkRefLost t input => Sys2Proof.Machine.execClkRefLost t input s
  | .clkRefRestored t input => Sys2Proof.Machine.execClkRefRestored t input s
  | .clkFail t input => Sys2Proof.Machine.execClkFail t input s
  | .avsAdjust t want measured answered regStatus => Sys2Proof.Machine.execAvsAdjust t want measured answered regStatus s
  | .devResetExecute t => Sys2Proof.Machine.execDevResetExecute t s
  | .lockstepMismatch t pc => Sys2Proof.Machine.execLockstepMismatch t pc s
  | .clerkRestartDone t => Sys2Proof.Machine.execClerkRestartDone t s
  | .autoWake t block => Sys2Proof.Machine.execAutoWake t block s
  | .autoGateStop t block => Sys2Proof.Machine.execAutoGateStop t block s
  | .clkoutSettingApply t => Sys2Proof.Machine.execClkoutSettingApply t s
  | .slewEnd t => Sys2Proof.Machine.execSlewEnd t s
  | .ppsInEdge t => Sys2Proof.Machine.execPpsInEdge t s
  | .ppsOutRise t => Sys2Proof.Machine.execPpsOutRise t s
  | .ppsOutFall t => Sys2Proof.Machine.execPpsOutFall t s
  | .tapReset => Sys2Proof.Machine.execTapReset s
  | .idcode => Sys2Proof.Machine.execIdcode s
  | .samplePreload bits => Sys2Proof.Machine.execSamplePreload bits s
  | .extest => Sys2Proof.Machine.execExtest s
  | .clamp => Sys2Proof.Machine.execClamp s
  | .highz => Sys2Proof.Machine.execHighz s
  | .bypass opcode => Sys2Proof.Machine.execBypass opcode s
  | .frameReceive t f => Sys2Proof.Machine.execFrameReceive t f s
  | .linkUp t l => Sys2Proof.Machine.execLinkUp t l s
  | .linkDown t lp => Sys2Proof.Machine.execLinkDown t lp s
  | .linkSetupFallback t port => Sys2Proof.Machine.execLinkSetupFallback t port s
  | .fecDegrade t port lane symbols => Sys2Proof.Machine.execFecDegrade t port lane symbols s
  | .mgmtFrameRelease t port => Sys2Proof.Machine.execMgmtFrameRelease t port s
  | .saActivated t port => Sys2Proof.Machine.execSaActivated t port s
  | .dispatch t pipe avail => Sys2Proof.Machine.execDispatch t pipe avail s
  | .parseStallResume t pipe seq avail clocks => Sys2Proof.Machine.execParseStallResume t pipe seq avail clocks s
  | .parseEnd t pipe seq corrected bad => Sys2Proof.Machine.execParseEnd t pipe seq corrected bad s
  | .chcXCap t pipe c => Sys2Proof.Machine.execChcXCap t pipe c s
  | .robRelease t buf => Sys2Proof.Machine.execRobRelease t buf s
  | .robTimeout t buf => Sys2Proof.Machine.execRobTimeout t buf s
  | .versionSlotFree t slot => Sys2Proof.Machine.execVersionSlotFree t slot s
  | .csRewrite t seq addr => Sys2Proof.Machine.execCsRewrite t seq addr s
  | .tmDecision t lp => Sys2Proof.Machine.execTmDecision t lp s
  | .transmitSelect t lp => Sys2Proof.Machine.execTransmitSelect t lp s
  | .transmitEnd t lp => Sys2Proof.Machine.execTransmitEnd t lp s
  | .quiesceTimeout t obj => Sys2Proof.Machine.execQuiesceTimeout t obj s
  | .gateEvent t lp => Sys2Proof.Machine.execGateEvent t lp s
  | .bellChange t lp => Sys2Proof.Machine.execBellChange t lp s
  | .tokenRefill t bucket => Sys2Proof.Machine.execTokenRefill t bucket s
  | .learn t tbl => Sys2Proof.Machine.execLearn t tbl s
  | .refresh t tbl => Sys2Proof.Machine.execRefresh t tbl s
  | .ageTick t tbl => Sys2Proof.Machine.execAgeTick t tbl s
  | .agerRequest t tbl => Sys2Proof.Machine.execAgerRequest t tbl s
  | .notifyDeliver t tbl => Sys2Proof.Machine.execNotifyDeliver t tbl s
  | .dumpStep t tbl => Sys2Proof.Machine.execDumpStep t tbl s
  | .flushDone t tbl => Sys2Proof.Machine.execFlushDone t tbl s
  | .bucketClear t tbl => Sys2Proof.Machine.execBucketClear t tbl s
  | .tableRecompute t tbl => Sys2Proof.Machine.execTableRecompute t tbl s
  | .data t p => Sys2Proof.Machine.execData t p s
  | .ack t p => Sys2Proof.Machine.execAck t p s
  | .creditReq t p => Sys2Proof.Machine.execCreditReq t p s
  | .creditGrant t p => Sys2Proof.Machine.execCreditGrant t p s
  | .tally t p => Sys2Proof.Machine.execTally t p s
  | .moved t p => Sys2Proof.Machine.execMoved t p s
  | .contextExpiry t m => Sys2Proof.Machine.execContextExpiry t m s
  | .epochAdvance t => Sys2Proof.Machine.execEpochAdvance t s
  | .grantExpiry t g => Sys2Proof.Machine.execGrantExpiry t g s
  | .senderGrantStop t book => Sys2Proof.Machine.execSenderGrantStop t book s
  | .rtoExpiry t m => Sys2Proof.Machine.execRtoExpiry t m s
  | .retryWaitEnd t m => Sys2Proof.Machine.execRetryWaitEnd t m s
  | .sendWindowEnd t m => Sys2Proof.Machine.execSendWindowEnd t m s
  | .ehtTimeout t m => Sys2Proof.Machine.execEhtTimeout t m s
  | .revokeDone t idx => Sys2Proof.Machine.execRevokeDone t idx s
  | .restoredRegionFree t idx => Sys2Proof.Machine.execRestoredRegionFree t idx s
  | .graceEnd t tf => Sys2Proof.Machine.execGraceEnd t tf s
  | .tfSaved t tf => Sys2Proof.Machine.execTfSaved t tf s
  | .tfRestored t tf => Sys2Proof.Machine.execTfRestored t tf s
  | .stoFlush t tf q => Sys2Proof.Machine.execStoFlush t tf q s
  | .stoWrite t tf q => Sys2Proof.Machine.execStoWrite t tf q s
  | .stoRead t tf q => Sys2Proof.Machine.execStoRead t tf q s
  | .stoWriteZeroes t tf q => Sys2Proof.Machine.execStoWriteZeroes t tf q s
  | .stoDeallocate t tf q => Sys2Proof.Machine.execStoDeallocate t tf q s
  | .stoLog t tf q => Sys2Proof.Machine.execStoLog t tf q s
  | .stoRestartResume t tf q => Sys2Proof.Machine.execStoRestartResume t tf q s
  | .stoRestartDiscard t tf q => Sys2Proof.Machine.execStoRestartDiscard t tf q s
  | .stoDispatch t => Sys2Proof.Machine.execStoDispatch t s
  | .nvmeCompletion t rp done => Sys2Proof.Machine.execNvmeCompletion t rp done s
  | .coalesceTimeout t tf q => Sys2Proof.Machine.execCoalesceTimeout t tf q s
  | .journalCheckpoint t j => Sys2Proof.Machine.execJournalCheckpoint t j s
  | .driveTimeout t rp cid => Sys2Proof.Machine.execDriveTimeout t rp cid s
  | .abortTimeout t rp => Sys2Proof.Machine.execAbortTimeout t rp s
  | .driveFailure t rp how => Sys2Proof.Machine.execDriveFailure t rp how s
  | .driveLinkUp t rp => Sys2Proof.Machine.execDriveLinkUp t rp s
  | .driveLinkRetry t rp => Sys2Proof.Machine.execDriveLinkRetry t rp s
  | .driveAdminCompletion t rp done => Sys2Proof.Machine.execDriveAdminCompletion t rp done s
  | .selftestIdleStart t rp => Sys2Proof.Machine.execSelftestIdleStart t rp s
  | .selftestTimeout t rp => Sys2Proof.Machine.execSelftestTimeout t rp s
  | .selftestResult t rp result => Sys2Proof.Machine.execSelftestResult t rp result s
  | .driveFwDone t rp accepted => Sys2Proof.Machine.execDriveFwDone t rp accepted s
  | .add th rd ra rb => Sys2Proof.Machine.execAdd th rd ra rb s
  | .sub th rd ra rb => Sys2Proof.Machine.execSub th rd ra rb s
  | .and th rd ra rb => Sys2Proof.Machine.execAnd th rd ra rb s
  | .or th rd ra rb => Sys2Proof.Machine.execOr th rd ra rb s
  | .xor th rd ra rb => Sys2Proof.Machine.execXor th rd ra rb s
  | .sll th rd ra rb => Sys2Proof.Machine.execSll th rd ra rb s
  | .srl th rd ra rb => Sys2Proof.Machine.execSrl th rd ra rb s
  | .sra th rd ra rb => Sys2Proof.Machine.execSra th rd ra rb s
  | .slt th rd ra rb => Sys2Proof.Machine.execSlt th rd ra rb s
  | .sltu th rd ra rb => Sys2Proof.Machine.execSltu th rd ra rb s
  | .mul th rd ra rb => Sys2Proof.Machine.execMul th rd ra rb s
  | .mulhu th rd ra rb => Sys2Proof.Machine.execMulhu th rd ra rb s
  | .divu th rd ra rb => Sys2Proof.Machine.execDivu th rd ra rb s
  | .remu th rd ra rb => Sys2Proof.Machine.execRemu th rd ra rb s
  | .addi th rd ra imm => Sys2Proof.Machine.execAddi th rd ra imm s
  | .andi th rd ra imm => Sys2Proof.Machine.execAndi th rd ra imm s
  | .ori th rd ra imm => Sys2Proof.Machine.execOri th rd ra imm s
  | .xori th rd ra imm => Sys2Proof.Machine.execXori th rd ra imm s
  | .shi th rd ra kind n => Sys2Proof.Machine.execShi th rd ra kind n s
  | .slti th rd ra imm => Sys2Proof.Machine.execSlti th rd ra imm s
  | .sltiu th rd ra imm => Sys2Proof.Machine.execSltiu th rd ra imm s
  | .movk th rd k imm => Sys2Proof.Machine.execMovk th rd k imm s
  | .movz th rd k imm => Sys2Proof.Machine.execMovz th rd k imm s
  | .ld th rd ra imm => Sys2Proof.Machine.execLd th rd ra imm s
  | .lw th rd ra imm => Sys2Proof.Machine.execLw th rd ra imm s
  | .lh th rd ra imm => Sys2Proof.Machine.execLh th rd ra imm s
  | .lb th rd ra imm => Sys2Proof.Machine.execLb th rd ra imm s
  | .sd th rs ra imm => Sys2Proof.Machine.execSd th rs ra imm s
  | .sw th rs ra imm => Sys2Proof.Machine.execSw th rs ra imm s
  | .sh th rs ra imm => Sys2Proof.Machine.execSh th rs ra imm s
  | .sb th rs ra imm => Sys2Proof.Machine.execSb th rs ra imm s
  | .beq th ra rb off => Sys2Proof.Machine.execBeq th ra rb off s
  | .bne th ra rb off => Sys2Proof.Machine.execBne th ra rb off s
  | .blt th ra rb off => Sys2Proof.Machine.execBlt th ra rb off s
  | .bge th ra rb off => Sys2Proof.Machine.execBge th ra rb off s
  | .bltu th ra rb off => Sys2Proof.Machine.execBltu th ra rb off s
  | .bgeu th ra rb off => Sys2Proof.Machine.execBgeu th ra rb off s
  | .j th off => Sys2Proof.Machine.execJ th off s
  | .jal th off => Sys2Proof.Machine.execJal th off s
  | .jalr th rd ra imm => Sys2Proof.Machine.execJalr th rd ra imm s
  | .extu th rd ra pos len1 => Sys2Proof.Machine.execExtu th rd ra pos len1 s
  | .exts th rd ra pos len1 => Sys2Proof.Machine.execExts th rd ra pos len1 s
  | .ins th rd ra pos len1 => Sys2Proof.Machine.execIns th rd ra pos len1 s
  | .clz th rd ra => Sys2Proof.Machine.execClz th rd ra s
  | .popc th rd ra => Sys2Proof.Machine.execPopc th rd ra s
  | .bswap th rd ra => Sys2Proof.Machine.execBswap th rd ra s
  | .crcc th rd ra rb ww => Sys2Proof.Machine.execCrcc th rd ra rb ww s
  | .crce th rd ra rb ww => Sys2Proof.Machine.execCrce th rd ra rb ww s
  | .hmix th rd ra rb => Sys2Proof.Machine.execHmix th rd ra rb s
  | .aadd th rd ra rb => Sys2Proof.Machine.execAadd th rd ra rb s
  | .aswp th rd ra rb => Sys2Proof.Machine.execAswp th rd ra rb s
  | .acas th rd ra rb => Sys2Proof.Machine.execAcas th rd ra rb s
  | .aand th rd ra rb => Sys2Proof.Machine.execAand th rd ra rb s
  | .aor th rd ra rb => Sys2Proof.Machine.execAor th rd ra rb s
  | .fence th => Sys2Proof.Machine.execFence th s
  | .ifence th => Sys2Proof.Machine.execIfence th s
  | .chw th rd ra ep => Sys2Proof.Machine.execChw th rd ra ep s
  | .chwe th rd ra ep => Sys2Proof.Machine.execChwe th rd ra ep s
  | .chr th rd ep => Sys2Proof.Machine.execChr th rd ep s
  | .chskip th ep => Sys2Proof.Machine.execChskip th ep s
  | .chpush th rd ep => Sys2Proof.Machine.execChpush th rd ep s
  | .chdrop th ep => Sys2Proof.Machine.execChdrop th ep s
  | .chpoll th rd ep => Sys2Proof.Machine.execChpoll th rd ep s
  | .wtime th rd => Sys2Proof.Machine.execWtime th rd s
  | .wsel th rd => Sys2Proof.Machine.execWsel th rd s
  | .wspace th rd ep => Sys2Proof.Machine.execWspace th rd ep s
  | .mfs th rd sr => Sys2Proof.Machine.execMfs th rd sr s
  | .mts th ra sr => Sys2Proof.Machine.execMts th ra sr s
  | .trestart th rd ra rb => Sys2Proof.Machine.execTrestart th rd ra rb s
  | .tstate th rd ra => Sys2Proof.Machine.execTstate th rd ra s
  | .ehtsub th rd ra => Sys2Proof.Machine.execEhtsub th rd ra s
  | .slotret th rd ra rb => Sys2Proof.Machine.execSlotret th rd ra rb s
  | .finj th rd ra => Sys2Proof.Machine.execFinj th rd ra s
  | .frel th ra => Sys2Proof.Machine.execFrel th ra s
  | .blockedReadReturn t th => Sys2Proof.Machine.execBlockedReadReturn t th s
  | .timerPortExpiry t th => Sys2Proof.Machine.execTimerPortExpiry t th s
  | .quietDetector t stall role => Sys2Proof.Machine.execQuietDetector t stall role s
  | .spareStart t stall role => Sys2Proof.Machine.execSpareStart t stall role s
  | .rehomeStart t stall role => Sys2Proof.Machine.execRehomeStart t stall role s
  | .jobRingNotice t tf base count => Sys2Proof.Machine.execJobRingNotice t tf base count s
  | .gcmEncrypt t tf => Sys2Proof.Machine.execGcmEncrypt t tf s
  | .gcmDecrypt t tf => Sys2Proof.Machine.execGcmDecrypt t tf s
  | .xtsEncrypt t tf => Sys2Proof.Machine.execXtsEncrypt t tf s
  | .xtsDecrypt t tf => Sys2Proof.Machine.execXtsDecrypt t tf s
  | .shake256 t tf => Sys2Proof.Machine.execShake256 t tf s
  | .patrolScrub t kind unit role addr found passDone => Sys2Proof.Machine.execPatrolScrub t kind unit role addr found passDone s
  | .fixedAreaRewrite t addr => Sys2Proof.Machine.execFixedAreaRewrite t addr s
  | .sweepStart t => Sys2Proof.Machine.execSweepStart t s
  | .testStart t unit => Sys2Proof.Machine.execTestStart t unit s
  | .bankCopyDone t => Sys2Proof.Machine.execBankCopyDone t s
  | .testRunEnd t pass signature => Sys2Proof.Machine.execTestRunEnd t pass signature s
  | .sweepPeriodEnd t => Sys2Proof.Machine.execSweepPeriodEnd t s
  | .deadListBurn t unit => Sys2Proof.Machine.execDeadListBurn t unit s
  | .mbxRequest t peer bytes => Sys2Proof.Machine.execMbxRequest t peer bytes s
  | .replay t r => Sys2Proof.Machine.execReplay t r s
  | .resultPart t r => Sys2Proof.Machine.execResultPart t r s
  | .cmdTimeout t => Sys2Proof.Machine.execCmdTimeout t s
  | .captureRelease t id => Sys2Proof.Machine.execCaptureRelease t id s
  | .stagingExpiry t => Sys2Proof.Machine.execStagingExpiry t s
  | .cfgStoreDone t programmed => Sys2Proof.Machine.execCfgStoreDone t programmed s
  | .tallyInterval t => Sys2Proof.Machine.execTallyInterval t s
  | .eventMessageDone t sub status => Sys2Proof.Machine.execEventMessageDone t sub status s
  | .eventRetry t sub => Sys2Proof.Machine.execEventRetry t sub s
  | .go t => Sys2Proof.Machine.execGo t s
  | .cancel t => Sys2Proof.Machine.execCancel t s
  | .rspAck t => Sys2Proof.Machine.execRspAck t s
  | .evtAck t => Sys2Proof.Machine.execEvtAck t s
  | .sbDataWrite t b => Sys2Proof.Machine.execSbDataWrite t b s
  | .sbDataRead r => Sys2Proof.Machine.execSbDataRead r s
  | .entdaa t addr => Sys2Proof.Machine.execEntdaa t addr s
  | .setdasa t addr => Sys2Proof.Machine.execSetdasa t addr s
  | .devInfo t r => Sys2Proof.Machine.execDevInfo t r s
  | .regRead t r => Sys2Proof.Machine.execRegRead t r s
  | .regWrite t r => Sys2Proof.Machine.execRegWrite t r s
  | .devReset t r => Sys2Proof.Machine.execDevReset t r s
  | .cfgOpen t r => Sys2Proof.Machine.execCfgOpen t r s
  | .cfgWrite t r => Sys2Proof.Machine.execCfgWrite t r s
  | .cfgRead t r => Sys2Proof.Machine.execCfgRead t r s
  | .cfgDiscard t r => Sys2Proof.Machine.execCfgDiscard t r s
  | .cfgCommit t r => Sys2Proof.Machine.execCfgCommit t r s
  | .cfgStatus t r => Sys2Proof.Machine.execCfgStatus t r s
  | .cfgRecall t r imageSig => Sys2Proof.Machine.execCfgRecall t r imageSig s
  | .tallyPeers t r => Sys2Proof.Machine.execTallyPeers t r s
  | .evtSubscribe t r => Sys2Proof.Machine.execEvtSubscribe t r s
  | .evtUnsubscribe t r => Sys2Proof.Machine.execEvtUnsubscribe t r s
  | .evtRead t r => Sys2Proof.Machine.execEvtRead t r s
  | .msSaInstall t r => Sys2Proof.Machine.execMsSaInstall t r s
  | .msSaActivate t r => Sys2Proof.Machine.execMsSaActivate t r s
  | .msSaDelete t r => Sys2Proof.Machine.execMsSaDelete t r s
  | .msStatus t r => Sys2Proof.Machine.execMsStatus t r s
  | .lpQuiesce t r => Sys2Proof.Machine.execLpQuiesce t r s
  | .lpEnable t r => Sys2Proof.Machine.execLpEnable t r s
  | .tsRead t r => Sys2Proof.Machine.execTsRead t r s
  | .ppsRead t r => Sys2Proof.Machine.execPpsRead t r s
  | .chcPatchLoad t r sig => Sys2Proof.Machine.execChcPatchLoad t r sig s
  | .chcExtLoad t r sig => Sys2Proof.Machine.execChcExtLoad t r sig s
  | .tblInsert t r => Sys2Proof.Machine.execTblInsert t r s
  | .tblDelete t r => Sys2Proof.Machine.execTblDelete t r s
  | .tblRead t r => Sys2Proof.Machine.execTblRead t r s
  | .tblBatch t r => Sys2Proof.Machine.execTblBatch t r s
  | .tblFlush t r => Sys2Proof.Machine.execTblFlush t r s
  | .tblDump t r => Sys2Proof.Machine.execTblDump t r s
  | .tmQstats t r => Sys2Proof.Machine.execTmQstats t r s
  | .tmPolstats t r => Sys2Proof.Machine.execTmPolstats t r s
  | .tmQquiesce t r => Sys2Proof.Machine.execTmQquiesce t r s
  | .tmQenable t r => Sys2Proof.Machine.execTmQenable t r s
  | .ehtRegCreate t r => Sys2Proof.Machine.execEhtRegCreate t r s
  | .ehtRegRevoke t r => Sys2Proof.Machine.execEhtRegRevoke t r s
  | .ehtRegQuery t r => Sys2Proof.Machine.execEhtRegQuery t r s
  | .ehtBookWrite t r => Sys2Proof.Machine.execEhtBookWrite t r s
  | .ehtBookRead t r => Sys2Proof.Machine.execEhtBookRead t r s
  | .ehtEpQuiesce t r => Sys2Proof.Machine.execEhtEpQuiesce t r s
  | .stoQueueQuiesce t r => Sys2Proof.Machine.execStoQueueQuiesce t r s
  | .stoQueueStats t r => Sys2Proof.Machine.execStoQueueStats t r s
  | .stoDriveStatus t r => Sys2Proof.Machine.execStoDriveStatus t r s
  | .stoSelftest t r => Sys2Proof.Machine.execStoSelftest t r s
  | .stoDriveFw t r => Sys2Proof.Machine.execStoDriveFw t r s
  | .stoNsOnline t r => Sys2Proof.Machine.execStoNsOnline t r s
  | .tfEnable t r => Sys2Proof.Machine.execTfEnable t r s
  | .tfDisable t r => Sys2Proof.Machine.execTfDisable t r s
  | .tfFreeze t r => Sys2Proof.Machine.execTfFreeze t r s
  | .tfThaw t r => Sys2Proof.Machine.execTfThaw t r s
  | .tfSave t r => Sys2Proof.Machine.execTfSave t r s
  | .tfRestore t r => Sys2Proof.Machine.execTfRestore t r s
  | .tfMoved t r => Sys2Proof.Machine.execTfMoved t r s
  | .tfQuery t r => Sys2Proof.Machine.execTfQuery t r s
  | .tfStats t r => Sys2Proof.Machine.execTfStats t r s
  | .tfEpCreate t r => Sys2Proof.Machine.execTfEpCreate t r s
  | .tfEpDestroy t r => Sys2Proof.Machine.execTfEpDestroy t r s
  | .tfSqCreate t r => Sys2Proof.Machine.execTfSqCreate t r s
  | .tfSqResize t r => Sys2Proof.Machine.execTfSqResize t r s
  | .tfSqEnable t r => Sys2Proof.Machine.execTfSqEnable t r s
  | .tfSqDestroy t r => Sys2Proof.Machine.execTfSqDestroy t r s
  | .stallStart t r => Sys2Proof.Machine.execStallStart t r s
  | .stallQuiesce t r => Sys2Proof.Machine.execStallQuiesce t r s
  | .coreRestart t r => Sys2Proof.Machine.execCoreRestart t r s
  | .dbgStop t r => Sys2Proof.Machine.execDbgStop t r s
  | .dbgResume t r => Sys2Proof.Machine.execDbgResume t r s
  | .dbgStep t r => Sys2Proof.Machine.execDbgStep t r s
  | .dbgKill t r => Sys2Proof.Machine.execDbgKill t r s
  | .dbgBreak t r => Sys2Proof.Machine.execDbgBreak t r s
  | .dbgRead t r => Sys2Proof.Machine.execDbgRead t r s
  | .dbgWrite t r => Sys2Proof.Machine.execDbgWrite t r s
  | .keyGenerate t r => Sys2Proof.Machine.execKeyGenerate t r s
  | .keyImport t r => Sys2Proof.Machine.execKeyImport t r s
  | .keyExport t r => Sys2Proof.Machine.execKeyExport t r s
  | .keyRootImport t r sig => Sys2Proof.Machine.execKeyRootImport t r sig s
  | .keyDestroy t r => Sys2Proof.Machine.execKeyDestroy t r s
  | .keyQuery t r => Sys2Proof.Machine.execKeyQuery t r s
  | .attCert t r => Sys2Proof.Machine.execAttCert t r s
  | .attLog t r => Sys2Proof.Machine.execAttLog t r s
  | .attExtend t r => Sys2Proof.Machine.execAttExtend t r s
  | .attQuote t r => Sys2Proof.Machine.execAttQuote t r s
  | .bootStatus t r => Sys2Proof.Machine.execBootStatus t r s
  | .fwWrite t r flashOk => Sys2Proof.Machine.execFwWrite t r flashOk s
  | .fwVerify t r sigs => Sys2Proof.Machine.execFwVerify t r sigs s
  | .fwActivate t r sig flashOk => Sys2Proof.Machine.execFwActivate t r sig flashOk s
  | .fwConfirm t r flashOk => Sys2Proof.Machine.execFwConfirm t r flashOk s
  | .bootMinverRaise t r sig flashOk => Sys2Proof.Machine.execBootMinverRaise t r sig flashOk s
  | .vendorRevoke t r sig statement slotA slotB => Sys2Proof.Machine.execVendorRevoke t r sig statement slotA slotB s
  | .ownerKey t r sig flashOk => Sys2Proof.Machine.execOwnerKey t r sig flashOk s
  | .ownerPolicy t r sig flashOk => Sys2Proof.Machine.execOwnerPolicy t r sig flashOk s
  | .teaselStatus t r => Sys2Proof.Machine.execTeaselStatus t r s
  | .teaselTest t r => Sys2Proof.Machine.execTeaselTest t r s
  | .teaselDeclare t r => Sys2Proof.Machine.execTeaselDeclare t r s
  | .teaselReinstate t r => Sys2Proof.Machine.execTeaselReinstate t r s
  | .teaselDeadlist t r => Sys2Proof.Machine.execTeaselDeadlist t r s
  | .tbRead t r => Sys2Proof.Machine.execTbRead t r s
  | .tbSet t r => Sys2Proof.Machine.execTbSet t r s
  | .tbRate t r => Sys2Proof.Machine.execTbRate t r s
  | .tbSlew t r => Sys2Proof.Machine.execTbSlew t r s
  | .clkGate t r => Sys2Proof.Machine.execClkGate t r s
  | .pwrStatus t r => Sys2Proof.Machine.execPwrStatus t r s
  | .exlatSnap lp v => Sys2Proof.Machine.execExlatSnap lp v s
  | .exlatCtlClear lp v => Sys2Proof.Machine.execExlatCtlClear lp v s
  | .exlatValidRearm lp v => Sys2Proof.Machine.execExlatValidRearm lp v s
  | .portSnap port v => Sys2Proof.Machine.execPortSnap port v s
  | .portClear port v => Sys2Proof.Machine.execPortClear port v s
  | .parseSnap v => Sys2Proof.Machine.execParseSnap v s
  | .parseClear v => Sys2Proof.Machine.execParseClear v s
  | .tblSnap tbl v => Sys2Proof.Machine.execTblSnap tbl v s
  | .tblClear tbl v => Sys2Proof.Machine.execTblClear tbl v s
  | .tmSnap lp v => Sys2Proof.Machine.execTmSnap lp v s
  | .tmClear lp v => Sys2Proof.Machine.execTmClear lp v s
  | .tmGsnap v => Sys2Proof.Machine.execTmGsnap v s
  | .tmGclear v => Sys2Proof.Machine.execTmGclear v s
  | .ehtSnap v => Sys2Proof.Machine.execEhtSnap v s
  | .ehtClear v => Sys2Proof.Machine.execEhtClear v s
  | .stoSnap v => Sys2Proof.Machine.execStoSnap v s
  | .stoClear v => Sys2Proof.Machine.execStoClear v s
  | .stallSnap stall v => Sys2Proof.Machine.execStallSnap stall v s
  | .stallClear stall v => Sys2Proof.Machine.execStallClear stall v s
  | .secSnap v => Sys2Proof.Machine.execSecSnap v s
  | .secClear v => Sys2Proof.Machine.execSecClear v s
  | .memSnap v => Sys2Proof.Machine.execMemSnap v s
  | .memClear v => Sys2Proof.Machine.execMemClear v s
  | .memValidRearm v => Sys2Proof.Machine.execMemValidRearm v s
  | .clkSnap v => Sys2Proof.Machine.execClkSnap v s
  | .clkClear v => Sys2Proof.Machine.execClkClear v s
  | .cprSnap v => Sys2Proof.Machine.execCprSnap v s
  | .cprClear v => Sys2Proof.Machine.execCprClear v s
  | .tslSnap v => Sys2Proof.Machine.execTslSnap v s
  | .tslClear v => Sys2Proof.Machine.execTslClear v s
  | .registerWrite addr v => Sys2Proof.Machine.execRegisterWrite addr v s
  | .stage1Start t facts => Sys2Proof.Machine.execStage1Start t facts s
  | .alignmentLoss t lp => Sys2Proof.Machine.execAlignmentLoss t lp s
  | .thermalWarnRearm t tj => Sys2Proof.Machine.execThermalWarnRearm t tj s
  | .selftestOverdue t rp => Sys2Proof.Machine.execSelftestOverdue t rp s

end Sys2Proof.Machine
end

