-- ==== Sys2Proof/Machine/Step.lean ====
section
/-! DEFINITION. One step: the command at the front of the queue is run on the state with the
queue's rest. On an empty queue the block's clock moves on by one nanosecond (log 1). -/

namespace Sys2Proof.Machine

/-- What an empty queue does: one tick of the device clock (log 1). -/
def tick (s : State) : State := s.advance (s.clk.up + 1)

def step (s : State) : Host.Outcome State Fault Refusal :=
  match s.pending with
  | [] => .next (tick s)
  | c :: rest => exec c { s with pending := rest }

/-- The state with the command that a word spells put at the front of its queue. -/
def State.withFetchWord (s : State) (nbits w : Nat) : State :=
  match decodeTableWord nbits w with
  | some c => { s with pending := c :: s.pending }
  | none => s

end Sys2Proof.Machine
end

