-- ==== Sys2Proof/Safety.lean ====
section
/-! DEFINITION. The terms that the statements use: how a command ends, when the Clerk takes a request, and what every state
of a run keeps. -/

namespace Sys2Proof.Machine

/-- Device memory and flash are in canonical form. -/
def State.memWf (s : State) : Bool := s.mem.ram.wf 0#8 && s.mem.flash.wf 0xFF#8

/-- A command that ends neither in a fault nor in a refusal. -/
def Completes (c : Instr) (s : State) : Prop := ∃ s', exec c s = .next s'

/-- The command has the effect `x`; then quiesces whose work is done complete, and the Clerk sends the event messages that
are due. -/
def Ends (c : Instr) (s x : State) : Prop := exec c s = .next (settle x)

/-- At instant `t` the Clerk serves the request's transport and takes it up as command `code`, within 1 s of its arrival: `x` is
the state without it, `slot` the receive-ring slot that it holds (R332 to R337). -/
def Takes (t : Nat) (s : State) (r : Req) (code : Nat) (x : State) (slot : Option Nat) : Prop :=
  clerkServes (s.advance t) r.peer = true ∧ r.code.toNat = code ∧ r.cursor = 0#64 ∧ headLate (s.advance t) = false
    ∧ takeReq (s.advance t) r false = some (x, slot)

/-- The Clerk's answer to a request: CMDS is counted, the response stored and sent, the slot freed. -/
def reply (r : Req) (slot : Option Nat) (x : Res) : State :=
  freeMbxSlot (answer r { x with st := countStat x.st (clerkBase + 0x100) 1 }).1 slot

/-- A mailbox command comes to the result `x`. -/
def Answers (c : Instr) (s : State) (r : Req) (slot : Option Nat) (x : Res) : Prop := Ends c s (reply r slot x)

/-- Thread `i` issues an instruction: its fetch does not fault and finds a word of the instruction table. `x` is the state once
ISSUED is counted and the quiet detector reset (R254, R266, R276, R280, R282, R285). -/
def Issues (i : Tid) (s x : State) : Prop :=
  canIssue s i = true ∧ x = noteIssue s i ∧ fetchFault x i = none ∧ legalWord (x.fetched i) = true

/-- A device reset leaves fuses, flash, straps, the test access port, the rows recorded for repair and the clock, RST_CAUSE at
`cause`, and everything else at its reset state (R414, R415, R446). -/
def DeviceResetLeaves (s u : State) (cause : Word32) : Prop :=
  u = { State.reset with
        clk := { up := s.clk.up, rstCause := cause }
        fuses := s.fuses
        mem := { flash := s.mem.flash, rowsBad := s.mem.rowsBad, rowErr := s.mem.rowErr, rowsKept := s.mem.rowsKept }
        pins := { straps := s.pins.straps, jtagIr := s.pins.jtagIr, scan := s.pins.scan, boundary := s.pins.boundary }
        free := s.free
        pending := s.pending }

end Sys2Proof.Machine
end

