-- ==== Sys2Proof/Certificates/Slice0/Obligations.lean ====
section
/-! DEFINITION. The statements about this block, family by family. In each, `x` stands for the state brought to the instant
of the command, or left by the mailbox queue; `Ends c s y` and `Answers c s r slot y` give the whole state that the command
leaves, so they state its frame too. -/

open Sys2Proof
open Sys2Proof.Machine

/-! ### The block as a whole -/

/-- A step runs the command at the front of the queue with the queue's rest.
With nothing waiting a step is one nanosecond of the device clock, and nothing else but the time base moves (the model's
choice, log 1). -/
def Obligations.StepRunsQueue : Prop :=
  (∀ (c : Instr) (s : State), step { s with pending := c :: s.pending } = exec c s)
  ∧ (∀ s : State, s.pending = [] →
    ∃ c : Clk, step s = .next { s with clk := c } ∧ c.up = s.clk.up + 1
      ∧ (s.clk.tbRunning = false → c.tb = s.clk.tb)
      ∧ (s.clk.tbRunning = true → s.clk.slewRate = 0 → c.tb = s.clk.tb + tbIncrement s.clk.rate))

/-- Every command of the table completes in every state: it answers a next state, and leaves the queue of waiting commands as
the step gave it. -/
def Obligations.CommandsLeaveQueue : Prop :=
  ∀ (c : Instr) (s : State), ∃ u, exec c s = .next u ∧ u.pending = s.pending

/-- Right after a power-on reset: RST_CAUSE holds POWER_ON alone; CFG_STATUS, TALLY_DIGEST, TB_STATUS, EHT_STATUS, TSL_STATUS and
MEM_STATUS read 0; PORT_STATUS, VER_STATUS, STO_STATUS, STALL_STATUS, BELL_STATUS, TBL_STATUS and the latency monitors as their chapters
give; no counter has counted; the pins are in their reset state.
The memories are in canonical form after reset. -/
def Obligations.ResetState : Prop :=
  (State.reset.clk.rstCause = 1#32
    ∧ regWord State.reset ⟨.clerk, clerkBase, 0⟩ 0x8 = 0
    ∧ (∀ k : Fin 8, regWord State.reset ⟨.clerk, clerkBase, 0⟩ (0x20 + 4 * k.val) = 0)
    ∧ regWord State.reset ⟨.cpr, cprBase, 0⟩ 0x8 = 0
    ∧ regWord State.reset ⟨.cpr, cprBase, 0⟩ 0x18 = 0
    ∧ regWord State.reset ⟨.eht, ehtBase, 0⟩ 0x8 = 0
    ∧ regWord State.reset ⟨.teasel, tslBase, 0⟩ 0x8 = 0
    ∧ regWord State.reset ⟨.memory, memBase, 0⟩ 0x8 = 0
    ∧ (∀ p : Fin 2, regWord State.reset ⟨.port, portBase p.val, p.val⟩ 0 = 0x00080000)
    ∧ regWord State.reset ⟨.parser, parserBase, 0⟩ 0x8 = 2
    ∧ regWord State.reset ⟨.parser, parserBase, 0⟩ 0xC = 0x00FFFFFF
    ∧ regWord State.reset ⟨.storage, stoBase, 0⟩ 0x8 = 1
    ∧ (∀ n : Fin 12, regWord State.reset ⟨.stall, stallBase n.val, n.val⟩ 0x8 = 0x0100FFFF)
    ∧ (∀ n : Fin 16, regWord State.reset ⟨.tmLp, tmBase n.val, n.val⟩ 0x8 = 0x000000FF)
    ∧ (∀ n : Fin 16, regWord State.reset ⟨.table, tableBase n.val, n.val⟩ 0x8 = 0x00000014)
    ∧ (∀ n : Fin 16, regWord State.reset ⟨.exlat, exlatBase n.val, n.val⟩ 0 = 2
        ∧ regWord State.reset ⟨.exlat, exlatBase n.val, n.val⟩ 4 = 850)
    ∧ State.reset.ctrs = []
    ∧ State.reset.mbx.log = [] ∧ State.reset.mbx.nextSeq = 0
    ∧ State.reset.pins.errc = 0#6 ∧ State.reset.pins.errstb = false ∧ State.reset.pins.perst = 0#16
    ∧ State.reset.pins.thermtrip = false ∧ State.reset.pins.flashOn = false
    ∧ State.reset.phase = .inReset ∧ State.reset.clk.tbRunning = false)
  ∧ (State.reset.memWf = true)

/-- Every step keeps the canonical form of the memories: addresses strictly rising, and no entry that an unlisted address
reads as. -/
def Obligations.StepKeepsMemoryCanonical : Prop :=
  ∀ s u : State, s.memWf = true → step s = .next u → u.memWf = true

/-- What is burnt stays burnt (R378, R380, R428): no step changes the fused serial number, address, roots and keys, clears a
revocation bit, turns the fuse counter back, or loses a unit of the dead-unit list. -/
def Obligations.StepKeepsFuses : Prop :=
  ∀ s u : State, step s = .next u →
    u.fuses.serial = s.fuses.serial ∧ u.fuses.mac = s.fuses.mac ∧ u.fuses.roots = s.fuses.roots
      ∧ u.fuses.key0 = s.fuses.key0 ∧ u.fuses.key1 = s.fuses.key1 ∧ u.fuses.key2 = s.fuses.key2
      ∧ u.fuses.vddMv = s.fuses.vddMv
      ∧ (∀ k : Nat, s.fuses.revoked.getLsbD k = true → u.fuses.revoked.getLsbD k = true)
      ∧ s.fuses.count ≤ u.fuses.count
      ∧ s.fuses.dead.map (· % 65536) <+: u.fuses.dead.map (· % 65536)

/-- Serial numbers of `n` bits (R12). -/
def Obligations.SerialArithmetic : Prop :=
  ∀ n a b : Nat, 1 ≤ n → a < 2 ^ n → b < 2 ^ n →
    let d := ((a : Int) - b) % 2 ^ n
    (serialLater n a b = true ↔ 1 ≤ d ∧ d ≤ 2 ^ (n - 1) - 1) ∧ (a = b ↔ d = 0)
      ∧ (serialEarlier n a b = true ↔ ¬ (1 ≤ d ∧ d ≤ 2 ^ (n - 1) - 1) ∧ d ≠ 0)

/-! ### Resets and start (15, 16, 18) -/

/-- The resets begin (R413 to R415): each source sets its own bit of RST_CAUSE; a power-on reset clears the others.
In a clock-fail hold the watchdog runs on, and a device reset sets CLKFAIL beside its source's bit (R400).
The Clerk's lockstep (R431): a mismatch during the start halts with 0x06; the first at run time, or one more than an hour
after the last, restarts the Clerk; a second within the hour resets the device with CLERK_FAULT.
States that each of these rows completes (exec answers a next state with the row's own effect): powerOnReset, resetNLow, watchdog,
thermalTrip, devResetExecute, lockstepMismatch, clerkRestartDone. -/
def Obligations.ResetsBegin : Prop :=
  (∀ (t : Nat) (s x : State), x = s.advance t → s.inClockFail = false →
    (∃ u, exec (.powerOnReset t) s = .next u
        ∧ DeviceResetLeaves { x with pins := { straps := x.pins.straps } } u 1#32)
    ∧ (s.phase ≠ .inReset → ∃ u, exec (.resetNLow t) s = .next u ∧ DeviceResetLeaves x u (x.clk.rstCause ||| 0x04#32))
    ∧ (s.boot.gate = true → s.phase = .starting ∨ s.phase = .running → x.clk.watchdogAt + 2000000000 ≤ x.clk.up →
        ∃ u, exec (.watchdog t) s = .next u ∧ DeviceResetLeaves x u (x.clk.rstCause ||| 0x10#32))
    ∧ (∀ m due, x.clk.resetPend = some (m, due) → due ≤ x.clk.up →
        ∃ u, exec (.devResetExecute t) s = .next u ∧ DeviceResetLeaves x u (x.clk.rstCause ||| 0x08#32))
    ∧ (∀ tj : Int, 115 ≤ tj → s.phase ≠ .thermalHold →
        ∃ u v, exec (.thermalTrip t tj) s = .next u ∧ DeviceResetLeaves x v (x.clk.rstCause ||| 0x20#32)
          ∧ u = { v with phase := .thermalHold, pins.thermtrip := true, clk.tj := tj }))
  ∧ (∀ (t n : Nat) (s : State), s.phase = .clockFail n →
    (∃ u, exec (.resetNLow t) s = .next u
      ∧ DeviceResetLeaves (s.advance t) u ((s.advance t).clk.rstCause ||| 0x04#32 ||| 0x80#32))
    ∧ (∀ slot, s.boot.booted = some slot → (s.advance t).clk.watchdogAt + 2000000000 ≤ (s.advance t).clk.up →
        ∃ u, exec (.watchdog t) s = .next u
          ∧ DeviceResetLeaves (s.advance t) u ((s.advance t).clk.rstCause ||| 0x10#32 ||| 0x80#32)))
  ∧ (∀ (t pc : Nat) (s x : State), x = s.advance t →
    (s.phase = .starting → s.boot.gate = false → Ends (.lockstepMismatch t pc) s (halt x 0x06))
    ∧ (s.phase = .running → (∀ a, s.tsl.mismatchAt = some a → a + 3600000000000 < x.clk.up) →
        Ends (.lockstepMismatch t pc) s (clerkRestart x pc)
          ∧ (clerkRestart x pc).tsl.restart = some (x.clk.up, pc) ∧ (clerkRestart x pc).cfg.staging = none)
    ∧ (∀ a, s.phase = .running → s.tsl.mismatchAt = some a → x.clk.up ≤ a + 3600000000000 →
        ∃ u, exec (.lockstepMismatch t pc) s = .next u ∧ DeviceResetLeaves x u (x.clk.rstCause ||| 0x40#32))
    ∧ (∀ a p, s.tsl.restart = some (a, p) →
        Ends (.clerkRestartDone t) s
          (raise { x with tsl.restart := none, clk.watchdogAt := x.clk.up } 0x0E07 0 (encN p ++ encN (x.clk.up - a)))))

/-- A reset ends (R367, R443, R444): the straps are sampled; TEST_EN holds the part; otherwise the start begins with code
0x31 and the port modes of the straps, and the boot flash is driven.
The crystal (R396, R401): once stable the time base starts at 0; 20 ms after release without it the start halts with
code 0x01, ERRSTB high and the flash interface undriven (R387, R388).
Stage 1 starts (R366, R374, R375, R378, R382): the slot that comes next in the order of the latest flag record, not tried
before in this start, is copied, MR0 extended with the digest of the copied run, and the boot records in use are read; a fact
that forbids it halts the start under its code (R388).
The verdict (R368, R369, R371): a slot that passes every check opens the gate; after a failed one the part makes a stage
reset, and once both have failed it halts under the code of R389.
States that each of these rows completes (exec answers a next state with the row's own effect): resetRelease, xtalStable,
xtalTimeout, bootVerdict, stage1Start.
The model's own choices it rests on: log 37, 38. -/
def Obligations.StartBegins : Prop :=
  (∀ (t : Nat) (s x : State) (st : Straps), x = s.advance t → s.phase = .inReset →
    let y := { x with pins.straps := st, pins.scanLost := scanDrives x.pins.scan }
    (st.testEn = true → Ends (.resetRelease t st) s { y with phase := .testHold })
    ∧ (st.testEn = false →
        Ends (.resetRelease t st) s
          { (y.onPp 0 (fun p => { p with mode := st.p0Mode.toNat })).onPp 1 (fun p => { p with mode := st.p1Mode.toNat }) with
            phase := .starting, clk.releasedAt := y.clk.up, pins.errc := 0x31#6, pins.flashOn := true }))
  ∧ (∀ (t : Nat) (s x : State) (refs : Refs), x = s.advance t → s.phase = .starting → s.clk.xtalOk = false →
    Ends (.xtalStable t refs) s
      { x with clk.xtalOk := true, clk.tbRunning := true, clk.tb := 0, clk.eth0Ok := refs.eth0, clk.eth1Ok := refs.eth1
               clk.pcieOk := refs.pcie, pins.errc := 0x32#6 }
    ∧ (x.clk.releasedAt + 20000000 ≤ x.clk.up →
        Ends (.xtalTimeout t) s
          { holdOutputs x with phase := .halted 1, pins.errc := 0x01#6, pins.errstb := true, pins.flashOn := false }))
  ∧ (∀ (t : Nat) (s x : State) (f : StartFacts) (slot : Slot), x = s.advance t → s.phase = .starting → s.clk.xtalOk = true →
    s.boot.stage1 = false → (slotOrder (latestFlag x)).find? (fun y => !x.boot.tried.contains y) = some slot →
    (∀ ar owed own, startHalt f = 0 → chooseAr x = some (ar, owed) → chooseOwner x ar = some own →
      let y := extendMr x 0 (Crypto.shake256 (loaderRun x slot))
      Ends (.stage1Start t f) s
        { y with boot.stage1 := true, boot.trying := some slot, boot.tried := x.boot.tried ++ [slot], boot.ar := ar
                 boot.arOwed := owed, boot.owner := own, clk.pllsLocked := true, clk.vddWant := x.fuses.vddMv
                 clk.vddReached := x.fuses.vddMv, clk.vddMeas := x.fuses.vddMv, pins.errc := 0x33#6 })
    ∧ (startHalt f ≠ 0 → Ends (.stage1Start t f) s (halt x (startHalt f)))
    ∧ (startHalt f = 0 → chooseAr x = none → Ends (.stage1Start t f) s (halt x 0x0D))
    ∧ (∀ ar owed, startHalt f = 0 → chooseAr x = some (ar, owed) → chooseOwner x ar = none →
        Ends (.stage1Start t f) s (halt x 0x0E)))
  ∧ (∀ (t : Nat) (s x : State) (sigs : SlotSigs) (slot : Slot), x = s.advance t → s.phase = .starting → s.boot.gate = false →
    s.boot.trying = some slot →
    let k := restoreKeys x
    (slotReason k slot sigs = 0 →
      Ends (.bootVerdict t sigs) s (verdictPass (setReason k slot 0) slot sigs)
        ∧ (verdictPass (setReason k slot 0) slot sigs).boot.gate = true
        ∧ (verdictPass (setReason k slot 0) slot sigs).boot.booted = some slot)
    ∧ (∀ why, slotReason k slot sigs = why → why ≠ 0 →
        let y := stageReset (setReason x slot why)
        (s.boot.tried.length < 2 → Ends (.bootVerdict t sigs) s { y with pins.errc := 0x34#6 })
        ∧ (2 ≤ s.boot.tried.length → Ends (.bootVerdict t sigs) s (halt y (haltCode y.boot.reasonA y.boot.reasonB)))
        ∧ y.boot.gate = false ∧ y.sec = {} ∧ y.clk = x.clk ∧ y.fuses = x.fuses))

/-- The code of two failed slots follows from their reasons. -/
def Obligations.HaltCodeFollows : Prop :=
  ∀ a b : Nat, a ∈ [bootFormat, bootKey, bootSig, bootRevoked, bootVersion, bootDigest] →
    b ∈ [bootFormat, bootKey, bootSig, bootRevoked, bootVersion, bootDigest] →
    let integrity (r : Nat) : Prop := r ∈ [bootFormat, bootKey, bootSig, bootDigest]
    (a = bootRevoked ∨ b = bootRevoked → haltCode a b = 0x2C)
    ∧ (integrity a → integrity b → haltCode a b = 0x0A)
    ∧ (a = bootVersion → b = bootVersion → haltCode a b = 0x0B)
    ∧ (¬ (a = bootRevoked ∨ b = bootRevoked) → ¬ (integrity a ∧ integrity b) → ¬ (a = bootVersion ∧ b = bootVersion) →
        haltCode a b = 0x0C)

/-- Steps 6 to 8 of the start, and the end of a trial (R324, R332, R349, R367, R376).
A flag record written is the latest one read back, with the next SEQ (R374, R375).
States that each of these rows completes (exec answers a next state with the row's own effect): hbmTrainingDone, coreImagesReady,
storedConfigDecision, trialReverted.
The model's own choices it rests on: log 37, 38. -/
def Obligations.StartCompletes : Prop :=
  (∀ (t : Nat) (s x : State), x = s.advance t →
    (s.phase = .starting → s.boot.gate = true → s.mem.trained0 = false → s.mem.trained1 = false →
      Ends (.hbmTrainingDone t true true) s
        { repairRows x with mem.trained0 := true, mem.trained1 := true, boot.hbmTrained := true, pins.errc := 0x36#6 })
    ∧ (s.phase = .starting → s.boot.gate = true → s.mem.trained0 = false → s.mem.trained1 = false →
        Ends (.hbmTrainingDone t true false) s
          (raise { repairRows x with mem.trained0 := true, mem.trained1 := false, boot.hbmTrained := false } 0x0105 1 (encN 1)))
    ∧ (∀ slot, s.phase = .starting → s.boot.hbmTrained = true → s.boot.inband = false → s.boot.booted = some slot →
        let l := coreSections x slot
        let y := { l.foldl (fun s y => extendMr s 2 y.1) x with boot.coreImages := l.map Prod.snd }
        Ends (.coreImagesReady t) s (advertise (advertise (openMailbox y) 0) 8)
          ∧ (openMailbox y).boot.inband = true ∧ (openMailbox y).pins.errc = 0x37#6)
    ∧ (s.phase = .starting → s.boot.inband = true → s.boot.decided = false →
        let y := { bootReport x with phase := .running, boot.decided := true, pins.errc := 0x3D#6 }
        (∀ sig, latestArea y (holdsRecord y) = none → Ends (.storedConfigDecision t sig) s y)
        ∧ (∀ sig a z why f, latestArea y (holdsRecord y) = some a → checkRecord y a sig = (z, .inr (why, f)) →
            Ends (.storedConfigDecision t sig) s (refuseConfig z why f)
              ∧ (refuseConfig z why f).cfg.state = .refused why ∧ (refuseConfig z why f).phase = .running)
        ∧ (∀ sig a z recs, latestArea y (holdsRecord y) = some a → checkRecord y a sig = (z, .inl recs) →
            Ends (.storedConfigDecision t sig) s
              { commitAt z recs [] (readArea y a).counter ((readArea y a).trailer.take 32) with
                cfg.stored := true, pins.errc := 0x3E#6 }))
    ∧ (∀ e slot, s.boot.trialEnd = some e → s.boot.booted = some slot → e ≤ x.clk.up → s.inClockFail = false →
        Ends (.trialReverted t) s
          (raise { writeFlag x (otherSlot slot) 0 (((latestFlag x).map Flag.confirm).getD 10) with boot.trialEnd := none } 0x0D02 0 [])))
  ∧ (∀ (s : State) (slot : Slot) (st confirm : Nat), s.mem.flash = [] → st < 3 → confirm < 65536 →
    (latestFlag (writeFlag s slot st confirm)) = some { seq := 0, active := slot, st := st, confirm := confirm, at_ := 0 })

/-- The test access port (R446 to R448): every instruction is loaded, and one that drives the balls outside a reset takes
them from the part.
States that each of these rows completes (exec answers a next state with the row's own effect): tapReset, idcode, samplePreload,
extest, clamp, highz, bypass. -/
def Obligations.ScanInstructions : Prop :=
  ∀ s : State,
    exec .tapReset s = .next { s with pins.jtagIr := 0x01#8, pins.scan := .idcode }
    ∧ exec .idcode s = .next { s with pins.jtagIr := 0x01#8, pins.scan := .idcode }
    ∧ (∀ bits, exec (.samplePreload bits) s = .next { s with pins.jtagIr := 0x02#8, pins.scan := .samplePreload, pins.boundary := bits })
    ∧ (s.phase ≠ .inReset →
        exec .extest s = .next { s with pins.jtagIr := 0x03#8, pins.scan := .extest, pins.scanLost := true }
        ∧ exec .clamp s = .next { s with pins.jtagIr := 0x04#8, pins.scan := .clamp, pins.scanLost := true }
        ∧ exec .highz s = .next { s with pins.jtagIr := 0x05#8, pins.scan := .highz, pins.scanLost := true })
    ∧ (s.phase = .inReset →
        exec .extest s = .next { s with pins.jtagIr := 0x03#8, pins.scan := .extest }
        ∧ exec .clamp s = .next { s with pins.jtagIr := 0x04#8, pins.scan := .clamp }
        ∧ exec .highz s = .next { s with pins.jtagIr := 0x05#8, pins.scan := .highz })
    ∧ exec (.bypass 0xFF#8) s = .next { s with pins.jtagIr := 0xFF#8, pins.scan := .bypass }
    ∧ idcodeValue = 0x1719256D#32

/-! ### Clocks, time base, gating, supplies (16), PPS (R63) -/

/-- The clock monitors (R399, R400): a lost Ethernet reference takes down the links of its port, the lost PCIe reference the
drives; each is counted in REF_LOSS and reported; the loss of the crystal or of a PLL that it feeds begins the clock-fail
hold, reported through the sideband alone.
Gating (R404 to R408, R416): an explicit block goes to the state asked for where its condition holds; a block in auto mode
stops without work and wakes, counted in GATE_WAKES; the CLKOUT setting committed takes effect; PWR_STATUS reports.
VDD_CORE and temperature (R411, R417): at most 5 mV a millisecond towards what the monitors need, kept within 700 and
850 mV; a regulator that does not answer is reported once, the limit at most once an hour; the thermal warning is raised on
crossing its level and armed again 5 °C below it.
A step of VDD_CORE is at most 5 mV and never passes what is wanted.
States that each of these rows completes (exec answers a next state with the row's own effect): thermalWarn, clkRefLost,
clkRefRestored, clkFail, avsAdjust, autoWake, autoGateStop, clkoutSettingApply, clkGate, pwrStatus, thermalWarnRearm.
The model's own choices it rests on: log 25, 39. -/
def Obligations.ClocksAndSupply : Prop :=
  (∀ (t : Nat) (s x : State), x = s.advance t → s.clk.xtalOk = true → s.phase = .running →
    (∀ n : Fin 3, refOk x n.val = true →
      let y := raise (countErr (setRef x n.val false) (cprBase + 0x40)) 0x0F01 0 (encN (n.val + 1))
      (n.val < 2 → Ends (.clkRefLost t n) s
        (((List.range 8).map (n.val * 8 + ·)).foldl (fun s lp => if (s.lp lp).up then declareDown s lp else s) y))
      ∧ (n.val = 2 → Ends (.clkRefLost t n) s
        ((y.sto.drives.map Prod.fst).foldl (fun s rp => if (s.drive rp).st = .absent then s else driveFails s rp .linkLost) y)))
    ∧ (∀ n : Fin 3, refOk x n.val = false →
        Ends (.clkRefRestored t n) s (raise (setRef x n.val true) 0x0F02 0 (encN (n.val + 1))))
    ∧ (∀ n : Fin 9, n.val ≤ 6 →
        ∃ y, Ends (.clkFail t n) s (raise y 0x0F07 0 (encN n.val)) ∧ y.phase = .clockFail n.val ∧ y.boot.gate = false
          ∧ y.mbx.subs = [] ∧ y.pins.perst = 0#16 ∧ (∀ lp, (y.lp lp).up = false)
          ∧ (n.val = 0 → y.clk.xtalOk = false ∧ y.clk.eth0Ok = false ∧ y.clk.eth1Ok = false ∧ y.clk.pcieOk = false)))
  ∧ (∀ (t : Nat) (s x : State) (r : Req) (slot : Option Nat),
    (Takes t s r 0x0F05 x slot → r.body.length = 16 → 14 ≤ num r 0 → num r 0 < 30 → gateMode x (num r 0) ≠ 1 →
      maySleep x (num r 0) = true →
      (num r 1 = 1 → Answers (.clkGate t r) s r slot { st := putToSleep x (num r 0) .sleep })
      ∧ (num r 1 = 2 → Answers (.clkGate t r) s r slot { st := putToSleep x (num r 0) .deepSleep }))
    ∧ (Takes t s r 0x0F05 x slot → r.body.length = 16 → 12 ≤ num r 0 → num r 0 < 33 → num r 1 = 0 →
        Answers (.clkGate t r) s r slot { st := wakeBlock x (num r 0) })
    ∧ (Takes t s r 0x0F05 x slot → r.body.length = 16 → num r 0 < 12 → stallsHeld x = true → num r 1 < 3 →
        Answers (.clkGate t r) s r slot { st := x, status := mbxState })
    ∧ (Takes t s r 0x0F05 x slot → r.body.length = 16 → 33 ≤ num r 0 →
        Answers (.clkGate t r) s r slot { st := x, status := mbxInvalid, arg := 1 })
    ∧ (Takes t s r 0x0F05 x slot → r.body.length = 16 → num r 0 < 30 → num r 1 = 1 ∨ num r 1 = 2 →
        gateMode x (num r 0) = 1 ∨ maySleep x (num r 0) = false →
        Answers (.clkGate t r) s r slot { st := x, status := mbxState })
    ∧ (Takes t s r 0x0F06 x slot → r.body = [] →
        Answers (.pwrStatus t r) s r slot
          { st := x
            out := encN x.clk.vddWant ++ encN x.clk.vddMeas ++ encNum x.clk.tj
              ++ (List.range 33).flatMap (fun b => encN (gateMode x b) ++ encN (gateNo (gateState x b))) ++ encN (cprStatus x) })
    ∧ (∀ b : Fin 33, b.val ∈ (s.advance t).clk.stopped →
        Ends (.autoWake t b) s
          (countStat { s.advance t with clk.stopped := (s.advance t).clk.stopped.filter (· != b.val) } (cprBase + 0x108) 1))
    ∧ (∀ b : Fin 33, clocked (s.advance t) = true → gateMode (s.advance t) b.val = 1 → gateState (s.advance t) b.val = .run →
        b.val ∉ (s.advance t).clk.stopped → blockWork (s.advance t) b.val = false →
        Ends (.autoGateStop t b) s { s.advance t with clk.stopped := (s.advance t).clk.stopped ++ [b.val] })
    ∧ ((s.advance t).committed = true →
        Ends (.clkoutSettingApply t) s
          { s.advance t with clk.clkSrc := (s.advance t).cfgN (itemId 0xF 1 2) 0 0 0
                             clk.clkDiv := (s.advance t).cfgN (itemId 0xF 1 3) 0 0 1 }))
  ∧ (∀ (t want measured reg : Nat) (s x : State), x = s.advance t → s.clk.xtalOk = true → s.phase = .running → s.boot.gate = true →
    (x.clk.avsMoved + 1000000 ≤ x.clk.up →
      let ask := stepTo x.clk.vddReached (min 850 (max 700 want))
      (want ≤ 850 → Ends (.avsAdjust t want measured true reg) s
        { x with clk.avsMoved := x.clk.up, clk.vddMeas := measured, clk.avsFaulted := false, clk.vddWant := ask
                 clk.vddReached := ask, clk.avsAtLimit := false })
      ∧ (850 < want → x.clk.vddReached = 850 → x.clk.avsLimitAt = none → Ends (.avsAdjust t want measured true reg) s
        (raise { x with clk.avsMoved := x.clk.up, clk.vddMeas := measured, clk.avsFaulted := false, clk.vddWant := 850
                        clk.vddReached := 850, clk.avsAtLimit := true, clk.avsLimitAt := some x.clk.up } 0x0F05 0 (encN 850)))
      ∧ (x.clk.avsFaulted = false → Ends (.avsAdjust t want measured false reg) s
        (raise (countErr { x with clk.avsMoved := x.clk.up, clk.vddMeas := measured, clk.vddWant := x.clk.vddReached
                                  clk.avsFaulted := true } (cprBase + 0x44)) 0x0F04 0
          (encN x.clk.vddReached ++ encN ask ++ encN reg))))
    ∧ (∀ tj : Int, x.clk.warnArmed = true → warnLevel x ≤ tj →
        Ends (.thermalWarn t tj) s (raise { x with clk.tj := tj, clk.warnArmed := false } 0x0F06 0 (encNum tj)))
    ∧ (∀ tj : Int, tj ≤ warnLevel x - 5 → Ends (.thermalWarnRearm t tj) s { x with clk.tj := tj, clk.warnArmed := true }))
  ∧ (∀ now want : Nat, stepTo now want ≤ now + 5 ∧ now ≤ stepTo now want + 5
    ∧ (now ≤ want → now ≤ stepTo now want ∧ stepTo now want ≤ want)
    ∧ (want ≤ now → want ≤ stepTo now want ∧ stepTo now want ≤ now))

/-- The time-base commands (R402, R403, R416) and the end of a slew.
PPS (R63): stamps join a FIFO of 16 entries, later ones are lost and counted; PPS_OUT rises at n s plus the offset where
the time base comes there by counting and not within the second of a step, and falls after the width.
TB_SET is a step (R403): the new time stands, a slew is cancelled, the step is counted in TB_STEPS, PPS_OUT is low.
The worked example of R403: at +15 ppm, a slew of +300 ns at 100 ppm takes 3,000,000 clocks, in which the time base
advances 3,000,345 ns; after them the slew is done.
States that each of these rows completes (exec answers a next state with the row's own effect): slewEnd, ppsInEdge, ppsOutRise,
ppsOutFall, tbRead, tbSet, tbRate, tbSlew.
The model's own choices it rests on: log 14, 25. -/
def Obligations.TimeBase : Prop :=
  (∀ (t : Nat) (s x : State) (r : Req) (slot : Option Nat),
    (Takes t s r 0x0F01 x slot → r.body = [] →
      Answers (.tbRead t r) s r slot
        { st := x, out := encTime x.ns ++ encNum x.clk.rate ++ encNum (slewRest x) ++ encN (tbStatus x) })
    ∧ (Takes t s r 0x0F02 x slot → r.body.length = 10 → leAt r.body 0 10 % 2 ^ 32 < 1000000000 →
        let v := nsOf80 (leAt r.body 0 10)
        (x.clk.tbRunning = true →
          Answers (.tbSet t r) s r slot { st := stepTime x v, out := encTime x.ns ++ encTime v })
        ∧ (x.clk.tbRunning = false → Answers (.tbSet t r) s r slot { st := x, status := mbxState }))
    ∧ (Takes t s r 0x0F02 x slot → r.body.length = 10 → 1000000000 ≤ leAt r.body 0 10 % 2 ^ 32 →
        Answers (.tbSet t r) s r slot { st := x, status := mbxInvalid, arg := 1 })
    ∧ (Takes t s r 0x0F03 x slot → r.body.length = 8 →
        let v := toSigned (num r 0)
        (-500000000 ≤ v → v ≤ 500000000 → Answers (.tbRate t r) s r slot { st := { x with clk.rate := v } })
        ∧ (v < -500000000 ∨ 500000000 < v → Answers (.tbRate t r) s r slot { st := x, status := mbxInvalid, arg := 1 }))
    ∧ (Takes t s r 0x0F04 x slot → r.body.length = 16 → -10000000 ≤ toSigned (num r 0) → toSigned (num r 0) ≤ 10000000 →
        1 ≤ num r 1 → num r 1 ≤ 500 →
        Answers (.tbSlew t r) s r slot
          { st := { x with clk.slewLeft := (toSigned (num r 0)).natAbs * 1000000
                           clk.slewRate := if toSigned (num r 0) < 0 then -(num r 1 : Int) else num r 1 } })
    ∧ ((s.advance t).clk.slewLeft = 0 → Ends (.slewEnd t) s { s.advance t with clk.slewRate := 0 }))
  ∧ (∀ (t : Nat) (s x : State), x = s.advance t → s.clk.tbRunning = true →
    (x.port.ppsFifo.length < 16 → Ends (.ppsInEdge t) s { x with port.ppsFifo := x.port.ppsFifo ++ [time80 x.ns] })
    ∧ (16 ≤ x.port.ppsFifo.length → Ends (.ppsInEdge t) s (countErr x (portBase 0 + 0x28)))
    ∧ (∀ n i, i = n * 1000000000 + ppsOffset x → i ≤ x.ns → x.ns ≤ i + 2 → x.clk.ppsHigh = false → x.clk.ppsLastRise ≠ some i →
        ((x.clk.ppsHold = none ∧ 0 < i) ∨ (∃ v, x.clk.ppsHold = some v ∧ v < i ∧ v / 1000000000 ≠ i / 1000000000) →
          Ends (.ppsOutRise t) s { x with clk.ppsHigh := true, clk.ppsFallAt := i + ppsWidth x, clk.ppsLastRise := some i })
        ∧ (∀ v, x.clk.ppsHold = some v → i ≤ v ∨ v / 1000000000 = i / 1000000000 → Ends (.ppsOutRise t) s x))
    ∧ (x.clk.ppsHigh = true → x.clk.ppsFallAt ≤ x.ns → Ends (.ppsOutFall t) s { x with clk.ppsHigh := false }))
  ∧ (∀ (s : State) (v : Nat), s.mbx.subs = [] →
    (stepTime s v).clk.tb = v * 2 ^ 32 ∧ (stepTime s v).clk.slewRate = 0 ∧ (stepTime s v).clk.slewLeft = 0
      ∧ (stepTime s v).clk.stepAt = some s.clk.up ∧ (stepTime s v).clk.ppsHigh = false ∧ (stepTime s v).clk.ppsHold = some v
      ∧ (stepTime s v).clk.tbSet = true
      ∧ (stepTime s v).clk.rate = s.clk.rate ∧ (stepTime s v).clk.up = s.clk.up)
  ∧ (∀ c : Clk, c.tbRunning = true → c.rate = 15000000 → c.slewRate = 100 → c.slewLeft = 300000000 →
    c.slewClocks = 3000000 ∧ (c.run 3000000).slewLeft = 0 ∧ (c.run 3000000).up = c.up + 3000000
      ∧ c.tb + 3000345 * 2 ^ 32 ≤ (c.run 3000000).tb + 2 ^ 32 ∧ (c.run 3000000).tb ≤ c.tb + 3000345 * 2 ^ 32 + 2 ^ 32)

/-! ### Registers and counters (R5 to R14, R342, and the register maps) -/

/-- A statistics counter wraps modulo 2^64 and sets its wrap bit (R9); its shadow copy stays. The wrap event is raised where the block's
setting enables it.
Errors counted one by one from a cleared counter (R10): `n` of them leave min(n, 0xFFFF_FFFF), and the overflow flag from
the first that is not counted; clearing the flag leaves the counter; a flag that an event sets in the very cycle in which
software clears it stays set (R6).
A snapshot copies every counter and sticky bit of its addresses to the shadow and no other; the clear action sets
live registers and shadow to 0; nothing else of the state changes (R14).
A write of 1 to a block's snapshot trigger takes its snapshot; a table's takes the digest too (R96, R123, R145, R190, R220,
R276, R316, R330, R363, R418, R435). A write of 0 to bit 0 does nothing.
A write of 1 to a block's clear trigger performs its clear action; a write of 0 to bit 0 does nothing.
The latency monitor and the ports (R45, R46, R66): a snapshot of a monitor moves its maxima to the shadow and starts them
anew, whichever write takes it; a port's snapshot reaches its logical ports and monitors, its clear action leaves the monitors;
writing 1 to VALID re-arms a capture, in the monitor and in the memory block (R330), unless it was made in that very cycle
(R6).
States that each of these rows completes (exec answers a next state with the row's own effect): exlatSnap, exlatCtlClear,
exlatValidRearm, portSnap, portClear, parseSnap, parseClear, tblSnap, tblClear, tmSnap, tmClear, tmGsnap, tmGclear, ehtSnap,
ehtClear, stoSnap, stoClear, stallSnap, stallClear, secSnap, secClear, memSnap, memClear, memValidRearm, clkSnap, clkClear,
cprSnap, cprClear, tslSnap, tslClear. -/
def Obligations.CountersAndTriggers : Prop :=
  (∀ (s : State) (a n : Nat), (s.ctr a).v < 2 ^ 64 → n < 2 ^ 64 →
    let c := s.ctr a
    let y := { s with
      ctrs := tset s.ctrs a { c with v := (c.v + n) % 2 ^ 64, flag := c.flag || decide (2 ^ 64 ≤ c.v + n) }
      flagSet := if 2 ^ 64 ≤ c.v + n then tset s.flagSet a s.clk.up else s.flagSet }
    (c.v + n < 2 ^ 64 → countStat s a n = y)
    ∧ (2 ^ 64 ≤ c.v + n → s.cfgN (itemId 2 1 5) (wrapBlock s a / 0x1000) 0 0 = 1 → countStat s a n = wrapEvent y a)
    ∧ (2 ^ 64 ≤ c.v + n → s.cfgN (itemId 2 1 5) (wrapBlock s a / 0x1000) 0 0 ≠ 1 → countStat s a n = y))
  ∧ (∀ n : Nat,
    (Nat.repeat (fun c : Ctr => c.addErr 1) n {}).v = min n 0xFFFFFFFF
      ∧ ((Nat.repeat (fun c : Ctr => c.addErr 1) n {}).flag = true ↔ 0xFFFFFFFF < n)
      ∧ (Nat.repeat (fun c : Ctr => c.addErr 1) n {}).sv = 0
      ∧ ((Nat.repeat (fun c : Ctr => c.addErr 1) n {}).clearFlag).v = min n 0xFFFFFFFF
      ∧ ((Nat.repeat (fun c : Ctr => c.addErr 1) n {}).clearFlag).flag = false
      ∧ (∀ (s : State) (a b : Nat), (countErr s a).ctr b = if b = a then (s.ctr a).addErr 1 else s.ctr b)
      ∧ ∀ (s : State) (a : Nat),
          (0xFFFFFFFF ≤ (s.ctr a).v → ((clearFlagAt (countErr s a) a).ctr a).flag = true)
          ∧ (s.flagNow a = false → ((clearFlagAt s a).ctr a).flag = false ∧ ((clearFlagAt s a).ctr a).v = (s.ctr a).v))
  ∧ (∀ (s : State) (a n b : Nat), twf s.ctrs = true →
    (a ≤ b → b < a + n →
      (snapRange s a n).ctr b = { s.ctr b with sv := (s.ctr b).v, sflag := (s.ctr b).flag } ∧ (clearRange s a n).ctr b = {})
    ∧ (¬ (a ≤ b ∧ b < a + n) → (snapRange s a n).ctr b = s.ctr b ∧ (clearRange s a n).ctr b = s.ctr b)
    ∧ snapRange s a n = { s with ctrs := (snapRange s a n).ctrs } ∧ clearRange s a n = { s with ctrs := (clearRange s a n).ctrs })
  ∧ (∀ (s : State) (v : Word32),
    (v.getLsbD 0 = true →
      exec (.parseSnap v) s = .next (snapRange s parserBase 0x1000)
      ∧ (∀ n : Fin 16, exec (.tblSnap n v) s
          = .next ((snapRange s (tableBase n.val) 0x1000).onTbl n.val (fun t => { t with sdigest := t.digest })))
      ∧ (∀ n : Fin 16, exec (.tmSnap n v) s = .next (snapRange s (tmBase n.val) 0x1000))
      ∧ exec (.tmGsnap v) s = .next (snapRange s tmGlobalBase 0x1000)
      ∧ exec (.ehtSnap v) s = .next (snapRange s ehtBase 0x1000)
      ∧ exec (.stoSnap v) s = .next (snapRange s stoBase 0x1000)
      ∧ (∀ n : Fin 12, exec (.stallSnap n v) s = .next (snapRange s (stallBase n.val) 0x1000))
      ∧ exec (.secSnap v) s = .next (snapRange s secBase 0x1000)
      ∧ exec (.memSnap v) s = .next (snapRange s memBase 0x1000)
      ∧ exec (.clkSnap v) s = .next (snapRange s clerkBase 0x1000)
      ∧ exec (.cprSnap v) s = .next (snapRange s cprBase 0x1000)
      ∧ exec (.tslSnap v) s = .next (snapRange s tslBase 0x1000))
    ∧ (v.getLsbD 0 = false → ∀ (n : Fin 16) (m : Fin 12),
        ∀ c ∈ [Instr.parseSnap v, .tblSnap n v, .tmSnap n v, .tmGsnap v, .ehtSnap v, .stoSnap v, .stallSnap m v, .secSnap v, .memSnap v,
          .clkSnap v, .cprSnap v, .tslSnap v], exec c s = .next s))
  ∧ (∀ (s : State) (v : Word32),
    (v.getLsbD 0 = true →
      exec (.parseClear v) s = .next (clearRange s parserBase 0x1000)
      ∧ (∀ n : Fin 16, exec (.tblClear n v) s = .next (clearRange s (tableBase n.val) 0x1000))
      ∧ (∀ n : Fin 16, exec (.tmClear n v) s = .next (clearRange s (tmBase n.val) 0x1000))
      ∧ exec (.tmGclear v) s = .next (clearRange s tmGlobalBase 0x1000)
      ∧ exec (.ehtClear v) s = .next (clearRange s ehtBase 0x1000)
      ∧ exec (.stoClear v) s = .next (clearRange s stoBase 0x1000)
      ∧ (∀ n : Fin 12, exec (.stallClear n v) s = .next (clearRange s (stallBase n.val) 0x1000))
      ∧ exec (.secClear v) s = .next (clearRange s secBase 0x1000)
      ∧ exec (.memClear v) s = .next (clearRange s memBase 0x1000)
      ∧ exec (.clkClear v) s = .next (clearRange s clerkBase 0x1000)
      ∧ exec (.cprClear v) s = .next (clearRange s cprBase 0x1000)
      ∧ exec (.tslClear v) s = .next (clearRange s tslBase 0x1000))
    ∧ (v.getLsbD 0 = false → ∀ (n : Fin 16) (m : Fin 12),
        ∀ c ∈ [Instr.parseClear v, .tblClear n v, .tmClear n v, .tmGclear v, .ehtClear v, .stoClear v, .stallClear m v, .secClear v,
          .memClear v, .clkClear v, .cprClear v, .tslClear v], exec c s = .next s))
  ∧ (∀ (s : State) (v : Word32) (lp : Fin 16) (p : Fin 2),
    let anew (s : State) (lp : Nat) : State := (snapRange s (exlatBase lp) 0x800).onLp lp (fun q =>
      { q with exlat := { q.exlat with smax := q.exlat.max, max := 0, sbklg := q.exlat.bklg, bklg := 0 } })
    (v.getLsbD 0 = true → exec (.exlatSnap lp v) s = .next (anew s lp.val)
      ∧ exec (.portSnap p v) s = .next ((portLps p.val).foldl (fun s lp => anew (snapRange s (lportBase lp) 0x800) lp)
          (snapRange s (portBase p.val) 0x1000))
      ∧ exec (.portClear p v) s = .next ((portLps p.val).foldl (fun s lp => clearRange s (lportBase lp) 0x800)
          (clearRange s (portBase p.val) 0x1000)))
    ∧ (v.getLsbD 0 = false → exec (.exlatSnap lp v) s = .next s ∧ exec (.portSnap p v) s = .next s
        ∧ exec (.portClear p v) s = .next s)
    ∧ (let y := s.onLp lp.val (fun q => { q with exlat := { q.exlat with en := v.getLsbD 0, scope := v.getLsbD 1 } })
       (v.getLsbD 2 = true → exec (.exlatCtlClear lp v) s = .next ((clearRange y (exlatBase lp.val) 0x800).onLp lp.val (fun q =>
          { q with exlat := { q.exlat with smax := 0, max := 0, sbklg := 0, bklg := 0 } })))
       ∧ (v.getLsbD 2 = false → exec (.exlatCtlClear lp v) s = .next y))
    ∧ (v.getLsbD 31 = true →
        (s.flagNow (exlatBase lp.val + 0x94) = false →
          exec (.exlatValidRearm lp v) s = .next (s.onLp lp.val (fun q => { q with exlat := { q.exlat with valid := false } })))
        ∧ (s.flagNow (exlatBase lp.val + 0x94) = true → exec (.exlatValidRearm lp v) s = .next s)
        ∧ (s.flagNow (memBase + 0x20) = false → exec (.memValidRearm v) s = .next { s with mem.lastxValid := false })
        ∧ (s.flagNow (memBase + 0x20) = true → exec (.memValidRearm v) s = .next s))
    ∧ (v.getLsbD 31 = false → exec (.exlatValidRearm lp v) s = .next s ∧ exec (.memValidRearm v) s = .next s))

/-- Any other register write (R5): RST_CAUSE loses the bits written as 1; a wrap or overflow register likewise, live and
shadow; the exceed threshold takes 1 to 1,000,000 and ignores the rest; a counter, a status register and an address without
a register ignore the write.
REG_READ and REG_WRITE (R342): words of one register block, in order; a range outside one block, an address or a length
not a multiple of 4, and a length outside 4 to 4,064 bytes fail with MBX_E_INVALID.
States that each of these rows completes (exec answers a next state with the row's own effect): regRead, regWrite, registerWrite.
The model's own choices it rests on: log 40, 41. -/
def Obligations.RegisterWrites : Prop :=
  (∀ (s : State) (v : Word32),
    exec (.registerWrite (cprBase + 0x14) v) s = .next { s with clk.rstCause := s.clk.rstCause &&& ~~~v }
    ∧ (∀ (a : Nat) (b : Block), a % 4 = 0 → a < 2 ^ 44 → blockAt a = some b →
        b.kind.groups.any (fun g => g.flagOff == a - b.base) = true → b.kind.triggers.1 ≠ some (a - b.base) → b.kind.triggers.2 ≠ some (a - b.base) →
        exec (.registerWrite a v) s = .next (clearFlags s b.base (a - b.base) v.toNat b.kind.groups))
    ∧ (∀ lp : Fin 16,
        (1 ≤ v.toNat → v.toNat ≤ 1000000 → exec (.registerWrite (exlatBase lp.val + 4) v) s
          = .next (s.onLp lp.val (fun q => { q with exlat := { q.exlat with thresh := v.toNat } })))
        ∧ (v.toNat = 0 ∨ 1000000 < v.toNat → exec (.registerWrite (exlatBase lp.val + 4) v) s = .next s))
    ∧ (∀ tb : Fin 16, v.getLsbD 8 = true →
        (s.flagNow (tableBase tb.val + 8) = false →
          exec (.registerWrite (tableBase tb.val + 8) v) s = .next (s.onTbl tb.val (fun t => { t with resync := false })))
        ∧ (s.flagNow (tableBase tb.val + 8) = true → exec (.registerWrite (tableBase tb.val + 8) v) s = .next s))
    ∧ (∀ a ∈ [clerkBase + 8, clerkBase + 0x40, clerkBase + 0x100, portBase 1, parserBase + 8, tmBase 3 + 8, ehtBase + 0x14, stoBase + 0x18,
          stallBase 11 + 0x20, memBase + 8, cprBase + 0x40, tslBase + 0x1C, secBase + 0x100, 0x00200000],
        exec (.registerWrite a v) s = .next s)
    ∧ (∀ a : Nat, a % 4 ≠ 0 → exec (.registerWrite a v) s = .next s))
  ∧ (∀ (t : Nat) (s x : State) (r : Req) (slot : Option Nat),
    (Takes t s r 0x0102 x slot → r.body.length = 16 →
      (∀ b, num r 0 % 4 = 0 → num r 0 < 2 ^ 44 → num r 1 % 4 = 0 → 4 ≤ num r 1 → num r 1 ≤ 4064 → blockAt (num r 0) = some b →
        num r 0 + num r 1 ≤ b.base + b.size →
        Answers (.regRead t r) s r slot
          { st := x, out := (List.range (num r 1 / 4)).flatMap (fun i => leBytes 4 (regWord x b (num r 0 - b.base + 4 * i))) })
      ∧ (num r 0 % 4 ≠ 0 ∨ blockAt (num r 0) = none ∧ num r 1 % 4 = 0 ∧ 4 ≤ num r 1 ∧ num r 1 ≤ 4064 →
          Answers (.regRead t r) s r slot { st := x, status := mbxInvalid, arg := 1 })
      ∧ (num r 0 % 4 = 0 → num r 0 < 2 ^ 44 → num r 1 % 4 ≠ 0 ∨ num r 1 < 4 ∨ 4064 < num r 1 →
          Answers (.regRead t r) s r slot { st := x, status := mbxInvalid, arg := 2 })
      ∧ (∀ b, num r 0 % 4 = 0 → num r 0 < 2 ^ 44 → num r 1 % 4 = 0 → 4 ≤ num r 1 → num r 1 ≤ 4064 → blockAt (num r 0) = some b →
          b.base + b.size < num r 0 + num r 1 → Answers (.regRead t r) s r slot { st := x, status := mbxInvalid, arg := 2 }))
    ∧ (Takes t s r 0x0103 x slot →
        ∀ b, 12 ≤ r.body.length → r.body.length ≤ 4072 → r.body.length % 4 = 0 → num r 0 % 4 = 0 → num r 0 < 2 ^ 44 →
          blockAt (num r 0) = some b → num r 0 + (r.body.length - 8) ≤ b.base + b.size →
          Answers (.regWrite t r) s r slot
            { st := (List.range ((r.body.length - 8) / 4)).foldl
                (fun s i => writeWord s b (num r 0 - b.base + 4 * i) (leAt r.body (8 + 4 * i) 4)) x }))

/-! ### Ethernet ports (03) -/

/-- A frame completes at a MAC (R43, R52, R54, R58, R60, R64, R65, R66, R85). A port that is down or absent takes nothing. On a port
that is up: its codewords are counted, a receive rekey holds it, and otherwise the checks come in their order, each with its own
error counter, and the frame then enters its pipeline. A frame of a secured port is opened first; only an untagged EAPOL or MAC
control frame needs no validation (R50, R57); one whose ICV fails in strict mode goes on, marked bad, as class 7 may outrun it (R39).
What MACsec validation finds (R56, R60): each failure has its own counter, and a good frame none.
Links (R51 to R53, R64): a link comes up where its port is clocked, the mode has it and auto-negotiation finds its one speed;
alignment lost for longer than the hold time takes it down, with remote fault signalled, counted and reported; the degrade threshold
of a lane; the fallback of link set-up, 3 s after the attempt before it.
States that each of these rows completes (exec answers a next state with the row's own effect): frameReceive, linkUp, linkDown,
linkSetupFallback, fecDegrade, mgmtFrameRelease, alignmentLoss.
The model's own choices it rests on: log 8, 18, 63, 67, 70. -/
def Obligations.PortFramesAndLinks : Prop :=
  (∀ (t : Nat) (s x : State) (f : WireFrame), x = s.advance t →
    let lp := f.lp.val
    let open_ := x.boot.gate = true ∧ x.lpPresent lp = true ∧ (x.lp lp).up = true
    let y := countCodewords x (lp / 8) f
    let at_ := x.ns - (x.lp lp).rxCal
    (¬ open_ → Ends (.frameReceive t f) s x)
    ∧ (open_ → x.stopped (.logicalPort f.lp) = true →
        Ends (.frameReceive t f) s (countErr (if f.fecBad then countErr y (lErr lp 0) else y) (lErr lp 3)))
    ∧ (open_ → x.stopped (.logicalPort f.lp) = false →
        (∀ k, (x.pp (lp / 8)).rekey = some k → k.dir = 1 →
          Ends (.frameReceive t f) s (y.onPp (lp / 8) (fun p => { p with rxHeld := p.rxHeld ++ [{ frame := f, tIn := at_, tInUp := x.clk.up }] })))
        ∧ ((∀ k, (x.pp (lp / 8)).rekey = some k → k.dir ≠ 1) → Ends (.frameReceive t f) s (receiveNow y f at_ x.clk.up))))
  ∧ (∀ (s : State) (f : WireFrame) (tin up : Nat),
    let lp := f.lp.val
    let bad := f.fecBad = true ∨ fcsGood f.bytes = false
    let found := (msecOpen s lp f.bytes).1
    let user := (msecOpen s lp f.bytes).2
    (s.secured lp = false →
      let n := f.bytes.length
      (n < 64 → f.fecBad = false → receiveNow s f tin up = countErr s (lErr lp 1))
      ∧ (n < 64 → f.fecBad = true → receiveNow s f tin up = countErr (countErr s (lErr lp 0)) (lErr lp 1))
      ∧ (64 ≤ n → s.maxFrame lp < n → f.fecBad = false → receiveNow s f tin up = countErr s (lErr lp 2))
      ∧ (64 ≤ n → n ≤ s.maxFrame lp →
          (bad → s.parse.patchDone = true → s.port.mgmtOnly = false →
            receiveNow s f tin up = toPipeline (countErr s (lErr lp 0)) lp f.bytes true tin up)
          ∧ (¬ bad → etherType f.bytes = 0x8808 → receiveNow s f tin up = countErr s (lErr lp 3))
          ∧ (¬ bad → etherType f.bytes ≠ 0x8808 →
              (s.parse.patchDone = false → receiveNow s f tin up = countErr (countRx s lp f.bytes) (lErr lp 5))
              ∧ (s.parse.patchDone = true → s.port.mgmtOnly = true → mgmtAccepts (countRx s lp f.bytes) f.bytes = false →
                  receiveNow s f tin up = countErr (countRx s lp f.bytes) (lErr lp 5))
              ∧ (s.parse.patchDone = true → s.port.mgmtOnly = false ∨ mgmtAccepts (countRx s lp f.bytes) f.bytes = true →
                  receiveNow s f tin up = toPipeline (countRx s lp f.bytes) lp f.bytes false tin up))))
    ∧ (s.secured lp = true → ¬ bad →
        ((validateMode s lp = 2 ∨ etherType f.bytes = 0x888E ∨ etherType f.bytes = 0x8808) →
          receiveNow s f tin up = receiveChecked s lp user false false tin up)
        ∧ (validateMode s lp ≠ 2 → etherType f.bytes ≠ 0x888E → etherType f.bytes ≠ 0x8808 →
            (msecCheck s lp found = none →
              receiveNow s f tin up = receiveChecked (countStat (msecSeen s lp found) (lStat lp 6) 1) lp user false false tin up)
            ∧ (∀ k, msecCheck s lp found = some k → validateMode s lp = 0 → k ≠ 6 → receiveNow s f tin up = countErr s (lErr lp k))
            ∧ (msecCheck s lp found = some 6 → validateMode s lp = 0 → s.port.mgmtOnly = false → s.parse.patchDone = true →
                64 ≤ user.length → user.length ≤ s.maxFrame lp → etherType user ≠ 0x8808 →
                receiveNow s f tin up = toPipeline (countErr s (lErr lp 6)) lp user true tin up))))
  ∧ (∀ (s : State) (lp : Nat) (sci : Word64) (an : BitVec 2) (pn : Word64) (icv : Bool),
    msecCheck s lp .untagged = some 9
    ∧ ((tget? (s.lp lp).rx sci.toNat).bind (fun c => tget? c.sas an.toNat) = none → msecCheck s lp (.tagged sci an pn icv) = some 8)
    ∧ (∀ sa, (tget? (s.lp lp).rx sci.toNat).bind (fun c => tget? c.sas an.toNat) = some sa → 0 < sa.topPn →
        let window := s.cfgN (itemId 4 2 3) lp (chanIndex (s.lp lp) sci.toNat) 0
        (pn.toNat + window ≤ sa.topPn → msecCheck s lp (.tagged sci an pn icv) = some 7)
        ∧ (sa.topPn < pn.toNat + window → icv = false → msecCheck s lp (.tagged sci an pn icv) = some 6)
        ∧ (sa.topPn < pn.toNat + window → icv = true → msecCheck s lp (.tagged sci an pn icv) = none)))
  ∧ (∀ (t : Nat) (s x : State) (lp : Fin 16) (p : Fin 2), x = s.advance t →
    (x.boot.gate = true → x.lpPresent lp.val = true → portClocked x (lp.val / 8) = true → x.port.mgmtOnly = false →
      (x.lp lp.val).held = false →
      (∀ offer, (x.lp lp.val).up = true →
        Ends (.linkUp t ⟨lp, offer⟩) s (x.onLp lp.val (fun q => { q with aligned := true, lostAt := none })))
      ∧ (∀ offer, (x.lp lp.val).up = false → anOn x lp.val = false ∨ offer = some (x.lpRate lp.val / 1000) →
          Ends (.linkUp t ⟨lp, offer⟩) s
            (((settleLink x lp.val).onLp lp.val (fun q => { q with up := true, aligned := true, lostAt := none, remoteFault := false })).onPp
              (lp.val / 8) (fun q => { q with fecLock := q.fecLock ||| laneMask x lp.val }))
          ∧ ((settleLink x lp.val).lp lp.val).negotiated = (if anOn x lp.val then some (x.lpRate lp.val / 1000) else none)
          ∧ ((settleLink x lp.val).lp lp.val).trained = (ifaceOf x lp.val != 2))
      ∧ (∀ offer, (x.lp lp.val).up = false → anOn x lp.val = true → offer ≠ some (x.lpRate lp.val / 1000) →
          Ends (.linkUp t ⟨lp, offer⟩) s x))
    ∧ (ifaceOf x lp.val = 2 → anOn x lp.val = false)
    ∧ ((x.lp lp.val).up = true → (x.lp lp.val).aligned = true →
        Ends (.alignmentLoss t lp) s (x.onLp lp.val (fun q => { q with aligned := false, lostAt := some x.clk.up })))
    ∧ (∀ a, (x.lp lp.val).up = true → (x.lp lp.val).lostAt = some a →
        (a + x.cfgN (itemId 4 1 7) lp.val 0 0 < x.clk.up →
          Ends (.linkDown t lp) s (raise (countErr (((x.onLp lp.val (fun q => { q with up := false, aligned := false, lostAt := none })).onPp
            (lp.val / 8) (fun q => { q with fecLock := q.fecLock - (q.fecLock &&& laneMask x lp.val) })).onLp lp.val
              (fun q => { q with remoteFault := true, setupAt := x.clk.up })) (portBase (lp.val / 8) + 0x24)) 0x0401 lp.val []))
        ∧ (x.clk.up ≤ a + x.cfgN (itemId 4 1 7) lp.val 0 0 → Ends (.linkDown t lp) s x))
    ∧ (x.port.mgmtOnly = true → x.boot.gate = true → (x.lp (p.val * 8)).up = false →
        ((x.lp (p.val * 8)).setupAt + 3000000000 ≤ x.clk.up →
          Ends (.linkSetupFallback t p) s (x.onLp (p.val * 8) (fun q => { q with c2m := !q.c2m, setupAt := x.clk.up })))
        ∧ (x.clk.up < (x.lp (p.val * 8)).setupAt + 3000000000 → Ends (.linkSetupFallback t p) s x))
    ∧ (∀ (lane : Fin 8) (n : Nat), x.clk.up < (x.pp p.val).symStart + nsPerSec →
        let y := (countStat x (portBase p.val + 0x108 + 8 * lane.val) n).onPp p.val (fun q => { q with syms := tmod q.syms lane.val 0 (· + n) })
        let past := y.cfgN (itemId 4 1 8) p.val 0 1000000 < tget (y.pp p.val).syms lane.val 0 ∧ (y.pp p.val).degradeTold = false
        (past → Ends (.fecDegrade t p lane n) s (raise (y.onPp p.val (fun q => { q with degradeTold := true })) 0x0402 p.val []))
        ∧ (¬ past → Ends (.fecDegrade t p lane n) s y))
    ∧ (∀ b rest, (x.pp p.val).mgmt = (lp.val, b) :: rest → x.port.mgmtOnly = true → (x.lp lp.val).up = true →
        (x.pp p.val).mgmtAt ≤ x.clk.up →
        Ends (.mgmtFrameRelease t p) s
          (countStat (countStat (x.onPp p.val (fun q => { q with mgmt := rest, mgmtAt := x.clk.up + max 50000 (b.length * 80) }))
            (lStat lp.val 4) b.length) (lStat lp.val 5) 1)))

/-- MACsec associations (R56, R58, R341): install, activate (one rekey on a physical port at a time), the end of the rekey, which
releases what the receive buffer held, delete. The packet numbers of a transmit channel (R59): the event past the threshold, the end
at 2^64 - 1.
What the port commands read (R61, R63, R341): the channels of a port, its transmit stamps and the PPS_IN stamps, which leave
their FIFOs.
States that each of these rows completes (exec answers a next state with the row's own effect): saActivated, msSaInstall,
msSaActivate, msSaDelete, msStatus, tsRead, ppsRead.
The model's own choices it rests on: log 25, 50. -/
def Obligations.MacsecRekeys : Prop :=
  (∀ (t : Nat) (s x : State) (r : Req) (slot : Option Nat),
    let lp := num r 0
    let dir := num r 1
    let an := num r 3
    let sci := sciOf r
    (Takes t s r 0x0401 x slot → r.body.length = 68 → saFault x r = 0 → slotNameable (num r 4) = true → num r 5 < 2 ^ 32 →
      (¬ ((x.keySlot (num r 4)).typ = 1 ∧ (x.keySlot (num r 4)).may useMacsec = true) →
        Answers (.msSaInstall t r) s r slot (denies x))
      ∧ ((x.keySlot (num r 4)).typ = 1 → (x.keySlot (num r 4)).may useMacsec = true →
          (∀ c, schan x lp dir sci = some c → c.active = some an → Answers (.msSaInstall t r) s r slot { st := x, status := mbxState })
          ∧ (dir = 0 → (x.lp lp).tx.sci ≠ sci → (x.lp lp).tx.active.isSome = true →
              Answers (.msSaInstall t r) s r slot { st := x, status := mbxState })
          ∧ ((∀ c, schan x lp dir sci = some c → c.active ≠ some an) →
              (dir = 0 ∧ ((x.lp lp).tx.sci = sci ∨ (x.lp lp).tx.active = none))
                ∨ (dir = 1 ∧ ((tget? (x.lp lp).rx sci).isSome = true ∨ (x.lp lp).rx.length < 64)) →
              let pn := leAt r.body 60 8
              Answers (.msSaInstall t r) s r slot
                { st := saInstall x lp dir sci an { keySlot := num r 4, ssci := num r 5, salt := slice r.body 48 12, firstPn := pn
                                                    nextPn := pn, topPn := pn - 1 } })))
    ∧ (Takes t s r 0x0402 x slot → r.body.length = 32 → saFault x r = 0 →
        ((x.pp (lp / 8)).rekey.isSome = true → Answers (.msSaActivate t r) s r slot { st := x, status := mbxBusy })
        ∧ ((x.pp (lp / 8)).rekey = none → saNamed x r = none → Answers (.msSaActivate t r) s r slot { st := x, status := mbxState })
        ∧ (∀ sa, (x.pp (lp / 8)).rekey = none → saNamed x r = some sa →
            Answers (.msSaActivate t r) s r slot
              { st := x.onPp (lp / 8) (fun p => { p with rekey := some { lp := lp, dir := dir, sci := sci, an := an, start := x.clk.up } }) }))
    ∧ (Takes t s r 0x0403 x slot → r.body.length = 32 → saFault x r = 0 →
        (saActive x r = true → Answers (.msSaDelete t r) s r slot { st := x, status := mbxState })
        ∧ (saActive x r = false → dir = 0 → (x.lp lp).tx.sci = sci →
            Answers (.msSaDelete t r) s r slot { st := x.onLp lp (fun p => { p with tx := { p.tx with sas := tdel p.tx.sas an } }) }))
    ∧ (∀ (p : Fin 2) (k : Rekey), x = s.advance t → (x.pp p.val).rekey = some k →
        (k.dir = 0 → (∃ i, i < 8 ∧ (x.lp (p.val * 8 + i)).mac.isSome = true) → Ends (.saActivated t p) s x)
        ∧ (k.dir ≠ 0 ∨ (∀ i, i < 8 → (x.lp (p.val * 8 + i)).mac = none) →
            let act (tx : Bool) (c : SChan) : SChan :=
              let sa := tget c.sas k.an default
              { c with active := some k.an, told := false, exhausted := false
                       sas := if tx then tset c.sas k.an { sa with nextPn := sa.firstPn } else c.sas }
            let y := raise ((x.onLp k.lp (fun q => if k.dir = 0 then { q with tx := act true q.tx }
                  else { q with rx := tmod q.rx k.sci { sci := k.sci } (act false) })).onPp p.val
                (fun q => { q with rekey := none, rekeyEnd := some x.clk.up })) 0x0403 k.lp []
            (k.dir = 0 → Ends (.saActivated t p) s (pnCheck y k.lp)) ∧ (k.dir ≠ 0 → Ends (.saActivated t p) s (releaseHeld y p.val)))))
  ∧ (∀ (s : State) (lp an : Nat), (s.lp lp).tx.active = some an → (s.lp lp).tx.exhausted = false →
    let pn := (tget (s.lp lp).tx.sas an default).nextPn
    let mark := s.cfgN (itemId 4 2 4) lp 0 0xC000000000000000
    let y := raise (s.onLp lp (fun p => { p with tx := { p.tx with told := true } })) 0x0404 lp []
    (pn < 2 ^ 64 - 1 → mark < pn → (s.lp lp).tx.told = false → pnCheck s lp = y)
    ∧ (pn < 2 ^ 64 - 1 → pn ≤ mark ∨ (s.lp lp).tx.told = true → pnCheck s lp = s)
    ∧ (2 ^ 64 - 1 ≤ pn → (s.lp lp).tx.told = true →
        pnCheck s lp = raise (s.onLp lp (fun p => { p with tx := { p.tx with exhausted := true } })) 0x0405 lp []))
  ∧ (∀ (t : Nat) (s x : State) (r : Req) (slot : Option Nat),
    (Takes t s r 0x0404 x slot → r.body.length = 8 → num r 0 < 16 → x.lpPresent (num r 0) = true →
      Answers (.msStatus t r) s r slot
        { st := x, out := (x.lp (num r 0)).tx.status 0 ++ (x.lp (num r 0)).rx.flatMap (fun p => p.2.status 1) })
    ∧ (Takes t s r 0x0407 x slot → r.body.length = 8 → num r 0 < 16 → x.lpPresent (num r 0) = true →
        Answers (.tsRead t r) s r slot
          { st := x.onLp (num r 0) (fun p => { p with stamps := p.stamps.drop 64 })
            out := ((x.lp (num r 0)).stamps.take 64).flatMap (fun y => leBytes 10 y.1 ++ encN (num r 0) ++ encN y.2) })
    ∧ (Takes t s r 0x0408 x slot → r.body = [] →
        Answers (.ppsRead t r) s r slot { st := { x with port.ppsFifo := [] }, out := x.port.ppsFifo.flatMap (leBytes 10) }))

/-! ### The traffic manager (06) -/

/-- The transmit selector at an idle MAC (R131): the express head if it may start, else of the pitch frames that may start the one
committed earliest, else none; a frame whose window is too short waits (R140); a disabled port whose link is up sends idles (R65). What
reaches the MAC, as which bytes (R38, R39, R56), or is discarded (R53, R59).
A frame leaves the MAC once its wire time is over: counted at the port and its queue, stamped where its originator asked for it
(R61), sampled by the latency monitor (R44), and taken off the work of running quiesces (R27).
The latency monitor (R43 to R45): which frames it samples, the bin of D, the exceed count, and the one capture that VALID holds.
The enqueue (R124, R126, R127, R143): a frame enters its queue only within the queue limit and the pool, a class 7 frame only with a
free reserve of the maximum frame size; otherwise it is discarded and counted.
One scheduling decision (R129, R130): the first frame of the express order that its queue shaper admits, charged to no other
shaper; else the pick of the current group within its deficit.
States that each of these rows completes (exec answers a next state with the row's own effect): tmDecision, transmitSelect,
transmitEnd.
The model's own choices it rests on: log 18, 45, 46, 51, 65, 68. -/
def Obligations.TransmitSelection : Prop :=
  (∀ (t : Nat) (s x : State) (lp : Fin 16), x = s.advance t →
    let n := lp.val
    let held := txHeld x n = true ∨ x.disabled (.logicalPort lp) = true
    let open_ := x.boot.gate = true ∧ x.lpPresent n = true ∧ (x.lp n).mac = none ∧ (¬ held ∨ (x.lp n).up = false)
    (x.boot.gate = false ∨ x.lpPresent n = false ∨ (x.lp n).mac.isSome = true ∨ (held ∧ (x.lp n).up = true) →
      Ends (.transmitSelect t lp) s x)
    ∧ (∀ f rest, open_ → (x.lp n).express = f :: rest → mayStart x n f = true →
        Ends (.transmitSelect t lp) s (sendSelected (x.onLp n (fun p => { p with express := rest })) n f))
    ∧ (open_ → (∀ f, (x.lp n).express.head? = some f → mayStart x n f = false) →
        (∀ y, pitchPick x n (x.lp n).pitch = some y →
          Ends (.transmitSelect t lp) s (sendSelected ((deferGate x n (some y.2.1)).onLp n (fun p =>
            { p with pitch := p.pitch.filter (fun z => z.2.1 != y.2.1) })) n y.2.2))
        ∧ (pitchPick x n (x.lp n).pitch = none → Ends (.transmitSelect t lp) s (deferGate x n none)))
    ∧ (∀ y l, pitchPick x n l = some y →
        y ∈ l ∧ mayStart x n y.2.2 = true ∧ ∀ z ∈ l, mayStart x n z.2.2 = true → y.2.1 ≤ z.2.1)
    ∧ (∀ l, pitchPick x n l = none → ∀ z ∈ l, mayStart x n z.2.2 = false)
    ∧ (∀ f : Frame,
        ((x.lp n).up = false ∨ x.maxFrame n < f.len → sendSelected x n f = countErr x (lErr n 4))
        ∧ ((x.lp n).up = true → f.len ≤ x.maxFrame n →
            let g := ptpRewrite n f (x.ns + (x.lp n).txCal + (x.wirePs n f + 999) / 1000)
            let put (b : Bytes) : State := x.onLp n (fun p =>
              { p with mac := some { frame := g, wire := if g.bad then invertFcs (refcs b) else b, start := x.clk.up, wirePs := x.wirePs n f } })
            (x.secured n = true → (x.lp n).tx.exhausted = true → sendSelected x n f = countErr x (lErr n 10))
            ∧ (x.secured n = false → sendSelected x n f = put g.bytes)
            ∧ (∀ an, x.secured n = true → (x.lp n).tx.exhausted = false → (x.lp n).tx.active = some an →
                let sa := tget (x.lp n).tx.sas an default
                sendSelected x n f = pnCheck (countStat ((put (protect x n an sa g.bytes)).onLp n (fun p =>
                  { p with tx := { p.tx with sas := tset p.tx.sas an { sa with nextPn := sa.nextPn + 1 } } })) (lStat n 7) 1) n))))
  ∧ (∀ (t : Nat) (s x : State) (lp : Fin 16), x = s.advance t →
    let n := lp.val
    ((x.lp n).mac = none → Ends (.transmitEnd t lp) s x)
    ∧ (∀ m, (x.lp n).mac = some m →
        (x.clk.up * 1000 + 999 < m.start * 1000 + m.wirePs → Ends (.transmitEnd t lp) s x)
        ∧ (m.start * 1000 + m.wirePs ≤ x.clk.up * 1000 + 999 →
            let q := 8 * m.frame.qset + m.frame.cls
            let y := countStat (countStat (x.onLp n (fun p => { p with mac := none })) (lStat n 4) m.frame.len) (lStat n 5) 1
            let y := countStat (countStat y (qCtr q 2) 1) (qCtr q 3) m.frame.len
            (m.frame.stamp = none →
              Ends (.transmitEnd t lp) s (((exlatEnd y n m.frame).qCount (.tmQueue q) 1 0).qCount (.logicalPort (Fin.ofNat 16 n)) 1 0))
            ∧ (∀ tag, m.frame.stamp = some tag →
                Ends (.transmitEnd t lp) s
                  (((exlatEnd (pushStamp y n tag) n m.frame).qCount (.tmQueue q) 1 0).qCount (.logicalPort (Fin.ofNat 16 n)) 1 0))))
    ∧ (∀ tag, (x.lp n).stamps.length < 64 → pushStamp x n tag
        = x.onLp n (fun p => { p with stamps := p.stamps ++ [(time80 (x.ns + (x.lp n).txCal), tag)] }))
    ∧ (∀ tag, 64 ≤ (x.lp n).stamps.length → pushStamp x n tag = raise (countErr x (lErr n 11)) 0x0406 n []))
  ∧ (∀ (s : State) (n a : Nat) (f : Frame), f.inLp = some a →
    let x := (s.lp n).exlat
    let sampled := x.en = true ∧ f.cls = 7 ∧ f.bad = false ∧ (x.scope = true → inScope s a n f.len = true)
    let causes := f.causes ||| (if rekeyDuring s (a / 8) f.tInUp || rekeyDuring s (n / 8) f.tInUp then causeRekey else 0)
      ||| (if overDuring s a f.tInUp then causeParse else 0)
    (¬ sampled → exlatEnd s n f = s)
    ∧ (∀ at_, sampled → s.clk.stepAt = some at_ → f.tInUp ≤ at_ → exlatEnd s n f = countStat s (exlatBase n + 0x20) 1)
    ∧ (sampled → (∀ at_, s.clk.stepAt = some at_ → at_ < f.tInUp) →
        exlatEnd s n f = exlatSample s n f (s.ns + (s.lp n).txCal - f.tIn) causes)
    ∧ (∀ d, exlatBin d = 0 ∧ d < 500 ∨ exlatBin d = 1 ∧ 500 ≤ d ∧ d < 600 ∨ exlatBin d = 2 ∧ 600 ≤ d ∧ d < 700
        ∨ exlatBin d = 3 ∧ 700 ≤ d ∧ d < 750 ∨ exlatBin d = 4 ∧ 750 ≤ d ∧ d < 800 ∨ exlatBin d = 5 ∧ 800 ≤ d ∧ d < 850
        ∨ exlatBin d = 6 ∧ 850 ≤ d ∧ d < 1000 ∨ exlatBin d = 7 ∧ 1000 ≤ d))
  ∧ (∀ (s : State) (f : Frame),
    let q := 8 * f.qset + f.cls
    (s.qsetPort f.qset = none → enqueue s f = countErr s (tmGlobalBase + 0x40))
    ∧ (∀ lp, s.qsetPort f.qset = some lp →
        let fits := (queueLimit s q = 0 ∨ sumLen (s.tq q).frames + f.len ≤ queueLimit s q) ∧ cells f.len * 256 ≤ poolFree s
        (s.stopped (.tmQueue q) = true → enqueue s f = countErr (countErr s (qErr q 0)) (tmBase lp + 0x40))
        ∧ (s.stopped (.tmQueue q) = false → f.cls ≠ 7 → fits →
            enqueue s f = countStat (countStat (s.onTq q (fun x => { x with frames := x.frames ++ [f] })) (qCtr q 0) 1) (qCtr q 1) f.len)
        ∧ (s.stopped (.tmQueue q) = false → f.cls ≠ 7 → ¬ fits → enqueue s f = countErr (countErr s (qErr q 0)) (tmBase lp + 0x40))
        ∧ (s.stopped (.tmQueue q) = false → f.cls = 7 → expressFree s lp < s.maxFrame lp → enqueue s f = countErr s (tmBase lp + 0x44))
        ∧ (s.stopped (.tmQueue q) = false → f.cls = 7 → s.maxFrame lp ≤ expressFree s lp → f.causes = 0 →
            let b := expressBacklog s lp f
            let why := (if 16544 < b then causeBacklog else 0) ||| (if (gatesAt (s.lp lp) s.ns).2.testBit 7 then 0 else causeGate)
            enqueue s f = countStat (countStat (s.onLp lp (fun p =>
              { p with order := p.order ++ [(q, { f with causes := why })]
                       exlat := { p.exlat with bklg := if p.exlat.en then max p.exlat.bklg b else p.exlat.bklg } })) (qCtr q 0) 1) (qCtr q 1) f.len)))
  ∧ (∀ (t : Nat) (s x : State) (lp : Fin 16), x = s.advance t → x.boot.gate = true → x.lpPresent lp.val = true →
    let n := lp.val
    (∀ q f rest, (x.lp n).order = (q, f) :: rest → qAdmits x q (x.effLenOn n f) = true →
      Ends (.tmDecision t lp) s
        (countStat (countSched ((chargeQueue x q (x.effLenOn n f)).onLp n (fun p => { p with order := rest, express := p.express ++ [f] })) n f)
          (tmBase n + 0x110) 1))
    ∧ (∀ g c f y, (x.lp n).order = [] → (x.lp n).curGroup = g →
        (x.qsetRange n).1 ≤ g → g < (x.qsetRange n).1 + (x.qsetRange n).2 →
        groupPick (x.onLp n (fun p => { p with order := p.order.map (fun z => (z.1, z.2.blame causeShaper)) })) n g = some (c, f, y) →
        x.effLenOn n f ≤ (x.tg g).deficit →
        Ends (.tmDecision t lp) s (commitPick y n g c f))
    ∧ (∀ l o, effLen l o = (max ((l : Int) + o) 1).toNat ∧ 1 ≤ effLen l o))

/-- Token buckets (R132, R133): whole refills are added up to the burst; a frame is admitted when the tokens reach its length and is
then charged; tokens never pass the burst or fall below zero; TOKEN_REFILL brings one bucket up to its refills.
Bell lists (R139, R141, R142): the entry in force at a position of the cycle; the change time, for a new list and for the end of
one, whose cycles run on from every integer; the effective schedule around it;
a gate event and the taking over of a changed list.
The statistics commands (R146, R463): one item per object in the order given, and with the clear flag the counters cleared in
the same command; a count outside 1 to 64 and an object that does not exist fail.
States that each of these rows completes (exec answers a next state with the row's own effect): gateEvent, bellChange,
tokenRefill, tmQstats, tmPolstats, stoQueueStats, tfStats.
The model's own choices it rests on: log 25. -/
def Obligations.TransmitCommands : Prop :=
  ((∀ (b : Bucket) (up period inc : Nat),
    let n := up / period
    (b.refill up period inc).tokens = min (b.burst * 64) (b.tokens + (n - b.refills) * inc)
      ∧ (b.refill up period inc).refills = max n b.refills ∧ (b.refill up period inc).rate = b.rate
      ∧ (b.refill up period inc).burst = b.burst ∧ (b.refill up period inc).tokens ≤ b.burst * 64)
  ∧ (∀ (b : Bucket) (l : Nat), b.rate ≠ 0 →
      (b.admits l = true ↔ l * 64 ≤ b.tokens)
      ∧ (b.admits l = true → (b.charge l).tokens + l * 64 = b.tokens) ∧ (b.admits l = false → b.charge l = b))
  ∧ (∀ (b : Bucket) (l : Nat), b.rate = 0 → b.admits l = true ∧ b.charge l = b)
  ∧ (∀ (b : Bucket) (up period per rate burst : Nat), 0 < period → b.waiting = true → b.refills < up / period →
      (rate = 0 → (b.tick up period per rate burst).rate = 0 ∧ (b.tick up period per rate burst).tokens = 0)
      ∧ (rate ≠ 0 → b.rate = 0 → (b.tick up period per rate burst).tokens = burst * 64)
      ∧ (rate ≠ 0 → (b.tick up period per rate burst).rate = rate ∧ (b.tick up period per rate burst).burst = burst
          ∧ (b.tick up period per rate burst).waiting = false ∧ (b.tick up period per rate burst).tokens ≤ burst * 64))
  ∧ (∀ (t : Nat) (s x : State), x = s.advance t →
      let u := x.clk.up
      (∀ (lp : Fin 16) (rate burst : Nat), shaperOf x (itemId 7 1 4) lp.val = (rate, burst) →
        Ends (.tokenRefill t (.port lp)) s (x.onLp lp.val (fun p => { p with portBucket := p.portBucket.tick u 125 1 rate burst })))
      ∧ (∀ (g : Fin 8192) (rate burst : Nat), shaperOf x (itemId 7 1 6) g.val = (rate, burst) →
          Ends (.tokenRefill t (.group g)) s (x.onTg g.val (fun y => { y with bucket := y.bucket.tick u 250 2 rate burst })))
      ∧ (∀ q : Fin 65536, Ends (.tokenRefill t (.queue q)) s
          (x.onTq q.val (fun y => { y with bucket := y.bucket.tick u 1000 8 y.bucket.rate y.bucket.burst })))
      ∧ (∀ p : Fin 32768,
          let both (y : Policer) : Policer := { c := y.c.tick u 250 2 y.c.rate y.c.burst, p := y.p.tick u 250 2 y.p.rate y.p.burst }
          Ends (.tokenRefill t (.policer p)) s { x with tm.policers := tmod x.tm.policers p.val {} both })))
  ∧ ((∀ (e f : BellEntry) (rest : List BellEntry) (pos k : Nat),
    (pos < e.interval → entryAt (e :: f :: rest) pos k = (k, e.gates))
    ∧ (e.interval ≤ pos → entryAt (e :: f :: rest) pos k = entryAt (f :: rest) (pos - e.interval) (k + 1))
    ∧ entryAt [e] pos k = (k, e.gates))
  ∧ (∀ (b : Bell) (ns : Nat), 0 < b.cycle →
      let c := firstCycle b ns
      ns + 10000 ≤ c ∧ b.base ≤ c ∧ (c - b.base) % b.cycle = 0 ∧ ∀ n, ns + 10000 ≤ b.base + n * b.cycle → c ≤ b.base + n * b.cycle)
  ∧ (∀ (b : Bell) (ns : Nat), 0 < b.cycle →
      let c := nextCycle b ns
      ns + 10000 ≤ c ∧ c < ns + 10000 + b.cycle ∧ ((c : Int) - b.base) % b.cycle = 0)
  ∧ (∀ (t : Nat) (s x : State) (lp : Fin 16), x = s.advance t →
      (∀ nb tc, (x.lp lp.val).bellPend = some (nb, tc) →
        gatesAt (x.lp lp.val) x.ns = (if tc ≤ x.ns then bellAt nb x.ns else bellAt (x.lp lp.val).bell x.ns)
        ∧ (tc ≤ x.ns → Ends (.bellChange t lp) s (refreshGates (x.onLp lp.val (fun p => { p with bell := nb, bellPend := none })) lp.val))
        ∧ (x.ns < tc → Ends (.bellChange t lp) s x))
      ∧ Ends (.gateEvent t lp) s (refreshGates x lp.val)
      ∧ ((refreshGates x lp.val).lp lp.val).gates = (gatesAt (x.lp lp.val) x.ns).2
      ∧ ((refreshGates x lp.val).lp lp.val).curEntry = (gatesAt (x.lp lp.val) x.ns).1))
  ∧ (∀ (t : Nat) (s x : State) (r : Req) (slot : Option Nat),
    ∀ c ∈ [(0x0701, Instr.tmQstats t r, 1, qStatsObj, qStatsItem), (0x0702, .tmPolstats t r, 1, polStatsObj, polStatsItem),
           (0x0A09, .tfStats t r, 1, tfStatsObj, tfStatsItem), (0x0902, .stoQueueStats t r, 2, sqStatsObj, sqStatsItem)],
      let obj := c.2.2.2.1
      let item := c.2.2.2.2
      let objs := (List.range (num r 1)).map (fun k => numsFrom r (2 + c.2.2.1 * k) c.2.2.1)
      Takes t s r c.1 x slot → num r 0 < 2 →
        (num r 1 = 0 ∨ 64 < num r 1 → Answers c.2.1 s r slot { st := x, status := mbxInvalid, arg := 2 })
        ∧ (1 ≤ num r 1 → num r 1 ≤ 64 → r.body.length = 8 * (2 + c.2.2.1 * num r 1) → (∀ o ∈ objs, (obj x o).isSome = true) →
            (num r 0 = 0 → Answers c.2.1 s r slot { st := x, out := objs.flatMap (fun o => encNs (item x o)) })
            ∧ (num r 0 = 1 → Answers c.2.1 s r slot
                { st := (objs.filterMap (obj x)).foldl (fun s b => clearRange s b 0x1000) x, out := objs.flatMap (fun o => encNs (item x o)) })))

/-! ### Quiescing (01) -/

/-- The quiesce commands (R26, R28, R29, R459): a running quiesce answers BUSY, a completed one STATE, otherwise step 1 is in effect
when the command returns; its parameters in their ranges.
Enabling again (R29, R65, R405): LP_ENABLE and TM_QENABLE succeed on a disabled object only; a gated physical port stays
disabled.
A quiesce ends (R26, R28 to R30): at its timeout what remains is aborted; when nothing is in flight it completes, its event carries
the object, what was drained and aborted and the elapsed time; a queue keeps disabled until it is enabled.
States that each of these rows completes (exec answers a next state with the row's own effect): quiesceTimeout, lpQuiesce,
lpEnable, tmQquiesce, tmQenable, ehtEpQuiesce, stoQueueQuiesce, stallQuiesce.
The model's own choices it rests on: log 26. -/
def Obligations.QuiesceCommands : Prop :=
  (∀ (t : Nat) (s x : State) (r : Req) (slot : Option Nat),
    let lim (k : Nat) : Prop := num r k = 0 ∨ 1000000 ≤ num r k ∧ num r k ≤ 60000000000
    (∀ c ∈ [(0x0703, Instr.tmQquiesce t r, QObj.tmQueue (num r 0), qKindTm), (0x0806, .ehtEpQuiesce t r, .endpoint (BitVec.ofNat 32 (epKey x (num r 0))), qKindEp)],
      Takes t s r c.1 x slot → r.body.length = 24 →
        (c.2.2.2 = qKindTm → num r 0 < 65536 ∧ (x.qsetPort (num r 0 / 8)).isSome = true) →
        (c.2.2.2 = qKindEp → num r 0 < 2 ^ 32 ∧ (x.ep? (num r 0)).isSome = true) →
        (2 < num r 1 → Answers c.2.1 s r slot { st := x, status := mbxInvalid, arg := 2 })
        ∧ (num r 1 ≤ 2 → ¬ lim 2 → Answers c.2.1 s r slot { st := x, status := mbxInvalid, arg := 3 })
        ∧ (num r 1 ≤ 2 → lim 2 →
            (x.quiescing c.2.2.1 = true → Answers c.2.1 s r slot { st := x, status := mbxBusy })
            ∧ (x.quiescing c.2.2.1 = false → x.disabled c.2.2.1 = true → Answers c.2.1 s r slot { st := x, status := mbxState })
            ∧ (x.quiescing c.2.2.1 = false → x.disabled c.2.2.1 = false →
                Answers c.2.1 s r slot { st := qStart x c.2.2.1 c.2.2.2 (num r 1) (num r 2) false false })))
    ∧ (Takes t s r 0x0405 x slot → r.body.length = 32 → num r 0 < 16 → x.lpPresent (num r 0) = true → num r 1 ≤ 2 → lim 2 → num r 3 ≤ 1 →
        let o := QObj.logicalPort (Fin.ofNat 16 (num r 0))
        (x.quiescing o = true → Answers (.lpQuiesce t r) s r slot { st := x, status := mbxBusy })
        ∧ (x.quiescing o = false → x.disabled o = true → Answers (.lpQuiesce t r) s r slot { st := x, status := mbxState })
        ∧ (x.quiescing o = false → x.disabled o = false →
            Answers (.lpQuiesce t r) s r slot { st := qStart x o qKindLp (num r 1) (num r 2) (num r 3 == 1) false }))
    ∧ (∀ q, Takes t s r 0x0901 x slot → r.body.length = 32 → num r 0 < 4096 → num r 1 < 64 → x.sq? (sqKey (num r 0) (num r 1)) = some q →
        num r 2 ≤ 2 → lim 3 →
        (q.st = .quiescing → Answers (.stoQueueQuiesce t r) s r slot { st := x, status := mbxBusy })
        ∧ (q.st = .disabled → Answers (.stoQueueQuiesce t r) s r slot { st := x, status := mbxState })
        ∧ (q.st = .active ∨ q.st = .error →
            Answers (.stoQueueQuiesce t r) s r slot { st := qStart x (.storageQueue (num r 0) (num r 1)) qKindSq (num r 2) (num r 3) false false }))
    ∧ (Takes t s r 0x0B02 x slot → r.body.length = 24 → num r 0 < 12 → num r 1 ≤ 2 → lim 2 →
        let o := QObj.stall (Fin.ofNat 12 (num r 0))
        ((x.stall (num r 0)).st = .quiescing → Answers (.stallQuiesce t r) s r slot { st := x, status := mbxBusy })
        ∧ ((x.stall (num r 0)).st = .stopped → Answers (.stallQuiesce t r) s r slot { st := x, status := mbxState })
        ∧ ((x.stall (num r 0)).st = .running →
            Answers (.stallQuiesce t r) s r slot
              { st := qStart (abandonTest x (unitOfStall (num r 0))) o qKindStall (num r 1) (num r 2) false false }))
    ∧ (∀ (q kind policy timeout : Nat), policy ≠ 1 →
        qStart x (.tmQueue q) kind policy timeout false false = x.qSet (.tmQueue q)
          { start := x.clk.up, deadline := x.clk.up + (if timeout = 0 then qDefault kind else timeout), kind := kind })
    ∧ qDefault qKindTfDisable = 100000000 ∧ qDefault qKindTfFreeze = 100000000 ∧ qDefault qKindSq = 1000000000
    ∧ qDefault qKindTm = 10000000 ∧ qDefault qKindLp = 10000000 ∧ qDefault qKindStall = 100000000 ∧ qDefault qKindEp = 4000000)
  ∧ (∀ (t : Nat) (s x : State) (r : Req) (slot : Option Nat), r.body.length = 8 →
    (Takes t s r 0x0406 x slot → num r 0 < 16 → x.lpPresent (num r 0) = true →
      let o := QObj.logicalPort (Fin.ofNat 16 (num r 0))
      let clocked := tget x.clk.gates (12 + num r 0 / 8) .run = .run
      (x.disabled o = true → clocked →
        Answers (.lpEnable t r) s r slot { st := (x.qDel o).onLp (num r 0) (fun p => { p with held := false }) })
      ∧ (x.disabled o = false ∨ ¬ clocked → Answers (.lpEnable t r) s r slot { st := x, status := mbxState }))
    ∧ (Takes t s r 0x0704 x slot → num r 0 < 65536 → (x.qsetPort (num r 0 / 8)).isSome = true →
        (x.disabled (.tmQueue (num r 0)) = true → Answers (.tmQenable t r) s r slot { st := x.qDel (.tmQueue (num r 0)) })
        ∧ (x.disabled (.tmQueue (num r 0)) = false → Answers (.tmQenable t r) s r slot { st := x, status := mbxState }))
    ∧ (∀ o, x.quiescing o = true → x.disabled o = false))
  ∧ (∀ (t : Nat) (s x : State) (o : QObj) (rec : QRec), x = s.advance t → x.q? o = some rec →
    (rec.done = false → rec.abort = false → rec.deadline ≤ x.clk.up → Ends (.quiesceTimeout t o) s (abortObj x o))
    ∧ (x.clk.up < rec.deadline → Ends (.quiesceTimeout t o) s x)
    ∧ (rec.done = true → Ends (.quiesceTimeout t o) s x)
    ∧ (rec.done = false → inFlight x rec o ≠ 0 → tryFinish x o = x)
    ∧ (∀ q, o = .tmQueue q → rec.done = false → inFlight x rec o = 0 →
        (tryFinish x o).disabled o = true
        ∧ ∃ y : State, y.mbx = x.mbx ∧ y.clk = x.clk ∧ tryFinish x o
            = raise y 0x0102 q (encN rec.kind ++ encN q ++ encN rec.drained ++ encN rec.aborted ++ encN (x.clk.up - rec.start)))
    ∧ (∀ (q lp : Nat), o = .tmQueue q → rec.done = false → x.qsetPort (q / 8) = some lp →
        let y := markAbort x o
        let n := queueFrames y lp q
        abortObj x o = (countErrs (countErrs (dropQueue y lp q).1 (qErr q 1) n) (tmBase lp + 0x48) n).qCount o 0 n
          ∧ ((dropQueue y lp q).1.tq q).frames = [])
    ∧ (∀ n : Fin 12, o = .stall n → rec.done = false → (∀ p ∈ (abortObj x o).ido.chans, p.1 / 1024 = n.val → p.2.msgs = [])))

/-! ### Parsing (04) -/

/-- DISPATCH (R22, R68, R69, R88, R92): the next sequencer in rotation with a free slot takes the next frame once its first beat is
there, on 1x800G in the order of arrival over both pipelines; it gets the next tag of its reorder buffer; its version was stamped when it
entered the block. Without a sequencer, a frame or room in the buffer nothing happens.
What the program of the frame at the head of a sequencer comes to decides its rows (R70, R76): more bytes for a stalled one, a result
for one that has ended, CHC_X_CAP at the cap, for one that still waits too. A word with a double-bit error ends the frame that comes to it; corrected words are counted (R81). A result under an old fencing generation is discarded (R34).
The reorder buffers and version slots (R87, R89, R92, R93, R79, R81, R96): the head result is released in its turn to the classifier and
the version's count falls, a port frame past 64 clocks counted and blamed; a head without a result for 256 clocks is given to another sequencer once, then ends with CHC_X_FENCE; a retiring
slot without frames is freed; a RAM word is written again.
States that each of these rows completes (exec answers a next state with the row's own effect): dispatch, parseStallResume,
parseEnd, chcXCap, robRelease, robTimeout, versionSlotFree, csRewrite.
The model's own choices it rests on: log 30, 55, 73, 74. -/
def Obligations.ParserRows : Prop :=
  (∀ (t avail : Nat) (s x : State) (pipe : Fin 4), x = s.advance t →
    (x.parse.patchDone = false ∨ nextSeq x pipe.val = none → Ends (.dispatch t pipe avail) s x)
    ∧ (∀ n, nextSeq x pipe.val = some n → inRotation x n = true ∧ (seqSlots x n).length < 2 ∧ n / 6 = pipe.val)
    ∧ (∀ n pf y, x.parse.patchDone = true → nextSeq x pipe.val = some n → takeFrame x pipe.val n = some (pf, y) →
        let b := robOf pipe.val pf
        (avail < min 64 pf.frame.len ∨ 32 ≤ (x.rob b).entries.length ∨ inTurn x pipe.val pf = false → Ends (.dispatch t pipe avail) s x)
        ∧ (min 64 pf.frame.len ≤ avail → (x.rob b).entries.length < 32 → inTurn x pipe.val pf = true → pf.src < 16 → pf.release = none →
            let tag := (y.rob b).next
            let sf : SlotFrame := { pf := pf, buf := b, tag := tag, avail := avail, gen := y.heldGen (unitSeq n), at_ := y.clk.up }
            let e : RobEntry := { tag := tag, pf := pf, pipe := pipe.val, at_ := y.clk.up, again := false, res := none }
            let z := { setSlots y n (seqSlots y n ++ [sf]) with parse.rr := tset y.parse.rr pipe.val (n % 6), parse.dispatched := true }
            Ends (.dispatch t pipe avail) s
              (countStat (z.onRob b (fun r => { r with next := (tag + 1) % 256, entries := r.entries ++ [e] })) (parStat pipe.val) 1)))
    ∧ (∀ pf : PFrame, inTurn x pipe.val pf = true ↔ 16 ≤ pf.src ∨ x.portMode (pf.src / 8) ≠ 0
        ∨ ∀ g ∈ tget x.parse.cross (pipe.val ^^^ 1) [], g.src ≠ pf.src ∨ pf.no < g.no)
    ∧ (∀ pf : PFrame, (pf.enter x).ver = x.parse.current ∧ (pf.enter x).at_ = x.clk.up)
    ∧ (∀ n pf rest, x.parse.cross.find? (fun p => p.1 == pipe.val) = some (pipe.val, pf :: rest) →
        takeFrame x pipe.val n = some (pf, { x with parse.cross := tset x.parse.cross pipe.val rest })))
  ∧ (∀ (t : Nat) (s x : State) (pipe : Fin 4) (seq : Fin 6) (f : SlotFrame) (rest : List SlotFrame), x = s.advance t →
    let n := pipe.val * 6 + seq.val
    seqSlots x n = f :: rest →
    (∀ p, parseSlot x n f = .stalled p →
      (∀ avail clocks, Ends (.parseStallResume t pipe seq avail clocks) s
        (setSlots x n ({ f with resumes := f.resumes ++ [(avail, clocks)] } :: rest)))
      ∧ (∀ k, Ends (.parseEnd t pipe seq k none) s x)
      ∧ (∀ k, pipeClocks (x.clk.up - f.at_) < (slotEnv x n f).cap → Ends (.chcXCap t pipe ⟨seq, k⟩) s x)
      ∧ (∀ k, (slotEnv x n f).cap ≤ pipeClocks (x.clk.up - f.at_) →
          Ends (.chcXCap t pipe ⟨seq, k⟩) s (writeResult (countErrs x (parserBase + 0x1A0) k) n f (p.capEnd (slotEnv x n f)) 0)))
    ∧ (∀ r a, parseSlot x n f = .ends r a →
        (∀ k, Ends (.parseEnd t pipe seq k none) s (writeResult (countErrs x (parserBase + 0x1A0) k) n f r a))
        ∧ (∀ k, Ends (.chcXCap t pipe ⟨seq, k⟩) s x)
        ∧ ∀ avail clocks, Ends (.parseStallResume t pipe seq avail clocks) s x)
    ∧ (∀ r, parseSlot x n f = .capped r →
        (∀ k, Ends (.chcXCap t pipe ⟨seq, k⟩) s (writeResult (countErrs x (parserBase + 0x1A0) k) n f r 0)
          ∧ Ends (.parseEnd t pipe seq k none) s x)
        ∧ ∀ avail clocks, Ends (.parseStallResume t pipe seq avail clocks) s x)
    ∧ (∀ r k (a : BitVec 15),
        let y := { x with parse.poison := (n * 32768 + a.toNat) :: x.parse.poison }
        parseSlot y n f = .ends r a.toNat → r.code = 6 →
        Ends (.parseEnd t pipe seq k (some a)) s (writeResult (countErrs y (parserBase + 0x1A0) k) n f r a.toNat))
    ∧ (∀ r a, f.gen ≠ x.fenceGen (.seq n) → writeResult x n f r a = fencedDiscard (setSlots x n rest) (.seq n) f.gen)
    ∧ (∀ r a, f.gen = x.fenceGen (.seq n) → r.code = 0 →
        writeResult x n f r a = (setSlots x n rest).onRob f.buf (fun b =>
          { b with entries := b.entries.map (fun e => if e.tag = f.tag ∧ e.res.isNone then { e with res := some r } else e) })))
  ∧ (∀ (t : Nat) (s x : State) (buf : Fin 20), x = s.advance t →
    let b := buf.val
    ((x.rob b).entries = [] → Ends (.robRelease t buf) s x ∧ Ends (.robTimeout t buf) s x)
    ∧ (∀ e rest, (x.rob b).entries = e :: rest →
        (e.res = none → Ends (.robRelease t buf) s x)
        ∧ (∀ r, e.res = some r → pipeClocks (x.clk.up - e.pf.at_) ≤ 64 →
            Ends (.robRelease t buf) s
              (verInflight (classify (x.onRob b (fun y => { y with entries := rest })) e.pipe e.pf r) e.pf.ver (· - 1)))
        ∧ (∀ r, e.res = some r → 64 < pipeClocks (x.clk.up - e.pf.at_) → e.pf.src < 16 →
            let y := (countErr (x.onRob b (fun y => { y with entries := rest })) (parserBase + 0x100 + 4 * e.pf.src)).onLp e.pf.src
              (fun p => { p with overAt := some x.clk.up })
            Ends (.robRelease t buf) s
              (verInflight (classify y e.pipe { e.pf with frame := e.pf.frame.blame causeParse } r) e.pf.ver (· - 1)))
        ∧ (∀ r, e.res = some r → Ends (.robTimeout t buf) s x)
        ∧ (e.res = none → pipeClocks (x.clk.up - e.at_) < 256 → Ends (.robTimeout t buf) s x)
        ∧ (e.res = none → 256 ≤ pipeClocks (x.clk.up - e.at_) →
            (e.again = false → Ends (.robTimeout t buf) s (redispatch x b e))
            ∧ (e.again = true → Ends (.robTimeout t buf) s (fenceEnd x b e))))
    ∧ (∀ e : RobEntry,
        (nextSeq x e.pipe (holders x b e.tag) = none → redispatch x b e = x)
        ∧ (∀ n, nextSeq x e.pipe (holders x b e.tag) = some n →
            (∀ f ∈ seqSlots x n, ¬ (f.buf = b ∧ f.tag = e.tag))
            ∧ seqSlots (redispatch x b e) n = seqSlots x n ++
                [{ pf := e.pf, buf := b, tag := e.tag, avail := e.pf.frame.len, gen := x.heldGen (unitSeq n), at_ := x.clk.up }]))
    ∧ (∀ v : Fin 8,
        ((x.ver v.val).state = .retiring → (x.ver v.val).inflight = 0 →
          Ends (.versionSlotFree t v) s { x with parse.vers := tdel x.parse.vers v.val })
        ∧ ((x.ver v.val).state ≠ .retiring ∨ (x.ver v.val).inflight ≠ 0 → Ends (.versionSlotFree t v) s x))
    ∧ (∀ (seq : Fin 24) (a : BitVec 15),
        (0x4000 ≤ a.toNat → Ends (.csRewrite t seq a) s { x with parse.poison := x.parse.poison.filter (· != seq.val * 32768 + a.toNat) })
        ∧ (a.toNat < 0x4000 → Ends (.csRewrite t seq a) s x)))

/-- The Chicory machine (R70, R72, R73, R76, R81, R82): the access rule; the ALU; the branches; the cursor; the cap; which word stands at
an address; traps on ROM words; a ROM word with an uncorrectable error.
The model's own choices it rests on: log 17, 31. -/
def Obligations.MicrowordMeaning : Prop :=
  (∀ (e : PEnv) (off n : Nat), 0 < n →
    (e.depth < off + n → e.access off n = some 1)
    ∧ (off + n ≤ e.depth → e.win.length < off + n → e.access off n = some 2)
    ∧ (off + n ≤ e.depth → off + n ≤ e.win.length → e.avail < off + n → e.access off n = some 0)
    ∧ (off + n ≤ e.depth → off + n ≤ e.win.length → off + n ≤ e.avail → e.access off n = none))
  ∧ (∀ (e : PEnv) (p : PSt) (d a imm cur : Nat), d < p.w.length → p.reg a < 2 ^ 32 → p.reg (imm % 16) < 2 ^ 32 → imm < 65536 →
      let out (op : Nat) : Nat := (chcAlu e p op d a imm cur).reg d
      chcAlu e p 0 d a imm cur = p
      ∧ out 1 = imm ∧ out 2 = (p.reg a + imm) % 2 ^ 32 ∧ out 3 = p.reg a &&& imm ∧ out 4 = (p.reg a ||| imm) % 2 ^ 32
      ∧ out 5 = p.reg a / 2 ^ (imm % 32) ∧ out 6 = (p.reg a * 2 ^ (imm % 32)) % 2 ^ 32
      ∧ out 7 = (p.reg a + p.reg (imm % 16)) % 2 ^ 32 ∧ out 8 = (((p.reg a : Int) - p.reg (imm % 16)) % 2 ^ 32).toNat
      ∧ out 9 = p.reg a ∧ out 11 = cur % 2 ^ 32 ∧ out 12 = (p.level + p.stack.length * 256) % 2 ^ 32
      ∧ (chcAlu e p 13 d a imm cur).key = patch p.key (imm / 256 % 128) [BitVec.ofNat 8 (imm % 256)]
      ∧ (chcAlu e p 14 d a imm cur).key = patch p.key (imm % 128) (beBytes 2 (p.reg a % 65536))
      ∧ (chcAlu e p 15 d a imm cur).meta_ = p.meta_.set (imm % 8) (p.reg a % 65536))
  ∧ (∀ (e : PEnv) (p : PSt) (w a : Nat),
      let target := fld w 172 15
      let r := p.reg (fld w 168 4)
      let imm := fld w 152 16
      (fld w 187 3 = 0 → chcBranch e p w a = .inl (.word (a + 1)))
      ∧ (fld w 187 3 = 1 → chcBranch e p w a = .inl (.word target))
      ∧ (fld w 187 3 = 2 → chcBranch e p w a = .inl (.word (if r = imm then target else a + 1)))
      ∧ (fld w 187 3 = 3 → chcBranch e p w a = .inl (.word (if r = imm then a + 1 else target)))
      ∧ (fld w 187 3 = 4 → chcBranch e p w a = .inl (.word (if r < imm then target else a + 1)))
      ∧ (fld w 187 3 = 5 → chcBranch e p w a = .inl (.word (target + r % 16)))
      ∧ (fld w 187 3 = 6 → chcBranch e p w a = .inl (.word (if e.hook (imm % 16) = 0 then target else e.hook (imm % 16))))
      ∧ (fld w 187 3 = 7 → chcBranch e p w a = .inr (target % 256, if imm.testBit 12 then r % 4096 else imm % 4096)))
  ∧ (∀ (p : PSt) (w cur : Nat),
      (fld w 150 2 = 0 → chcAdvance p w cur = cur) ∧ (fld w 150 2 = 1 → chcAdvance p w cur = cur + fld w 140 10)
      ∧ (fld w 150 2 = 2 → chcAdvance p w cur = cur + p.reg (fld w 136 4) * 2 ^ fld w 134 2 + fld w 140 10)
      ∧ (fld w 150 2 = 3 → chcAdvance p w cur = fld w 140 10))
  ∧ (∀ (e : PEnv) (a t : Nat), (e.traps.find? (fun y => y.1 == a)) = some (a, t) →
      (a < 0x4000 → resolve e (.word a) = .word t) ∧ (∀ pt, (∀ b, pt ≠ .word b) → pointRom pt = a → resolve e pt = .word t))
  ∧ (∀ (e : PEnv) (p : PSt) (pt : Point), (∀ b, pt ≠ .word b) → pointRom pt ∈ e.poison →
      pointStep e pt p = (romClocks pt, .exc 6 (pointRom pt) p))
  ∧ (∀ (e : PEnv) (a : Nat), (0x5400 ≤ a → fetchWord e a = .inr 7)
      ∧ (a < 0x5400 → a ∈ e.poison → fetchWord e a = .inr 6)
      ∧ (0x4000 ≤ a → a < 0x5400 → a ∉ e.poison →
          (∀ b, tget? e.store a = some b → fetchWord e a = .inl (ofLe b)) ∧ (tget? e.store a = none → fetchWord e a = .inr 7)))

/-- A parse ends within the cycle cap: whatever its words and its stalls, its clocks never pass the cap, and one that reaches it ends
there with CHC_X_CAP (R70, R75, R76). -/
def Obligations.ParseWithinCap : Prop :=
  ∀ (e : PEnv) (fuel : Nat) (more : List (Nat × Nat)) (pt : Point) (p : PSt), p.clocks ≤ e.cap →
    (∀ r a, runParse fuel e more pt p = .ends r a → r.clocks ≤ e.cap)
    ∧ (∀ r, runParse fuel e more pt p = .capped r → r.code = 5 ∧ r.profile = 4085 ∧ r.clocks = e.cap)
    ∧ (∀ q, runParse fuel e more pt p = .stalled q → q.clocks ≤ e.cap)

/-- Image loads (R84, R85): the checks in their order, each with its status and detail, and what a load that passes them writes; a
patch is refused once a frame has been dispatched.
States that each of these rows completes (exec answers a next state with the row's own effect): chcPatchLoad, chcExtLoad.
The model's own choices it rests on: log 31, 33. -/
def Obligations.ImagesLoaded : Prop :=
  ∀ (t : Nat) (s x : State) (r : Req) (sig : Bool) (slot : Option Nat),
    let failed (c : Instr) (status detail arg : Nat) : Prop := Answers c s r slot { st := x, status := status, detail := detail, arg := arg }
    (Takes t s r 0x0501 x slot →
      (x.parse.dispatched = true → Answers (.chcPatchLoad t r sig) s r slot { st := x, status := mbxState })
      ∧ (x.parse.dispatched = false →
          (imgFormatOk 1 r.body = false → failed (.chcPatchLoad t r sig) mbxInvalid 0x0101 0)
          ∧ (imgFormatOk 1 r.body = true → rootLive x (slice r.body 0x18 32) = false → failed (.chcPatchLoad t r sig) mbxVerify 0x0102 0)
          ∧ (imgFormatOk 1 r.body = true → rootLive x (slice r.body 0x18 32) = true →
              (sig = false → failed (.chcPatchLoad t r sig) mbxVerify 0x0103 0)
              ∧ (sig = true → leAt r.body 0xC 4 < patchMin x → failed (.chcPatchLoad t r sig) mbxVerify 0x0104 0)
              ∧ (sig = true → patchMin x ≤ leAt r.body 0xC 4 → imgPlain x 1 r.body = none → failed (.chcPatchLoad t r sig) mbxVerify 0x0105 0))
          ∧ (∀ w, checkImage x 1 r.body sig = .inr w →
              Answers (.chcPatchLoad t r sig) s r slot
                { st := { loadImage x 1 r.body w with parse.patchDone := true, boot.patchImage := r.body } })))
    ∧ (Takes t s r 0x0502 x slot →
        (imgFormatOk 2 r.body = false → failed (.chcExtLoad t r sig) mbxInvalid 0x0101 0)
        ∧ (imgFormatOk 2 r.body = true → ownerKnows x (slice r.body 0x18 32) = false → failed (.chcExtLoad t r sig) mbxVerify 0x0102 0)
        ∧ (imgFormatOk 2 r.body = true → ownerKnows x (slice r.body 0x18 32) = true →
            (sig = false → failed (.chcExtLoad t r sig) mbxVerify 0x0103 0)
            ∧ (sig = true → leAt r.body 0xC 4 < ownerMin x → failed (.chcExtLoad t r sig) mbxVerify 0x0104 0)
            ∧ (sig = true → ownerMin x ≤ leAt r.body 0xC 4 →
                (Crypto.shake256 (imgBody r.body) ≠ slice r.body 0x54 32 → failed (.chcExtLoad t r sig) mbxVerify 0x0106 0)
                ∧ (Crypto.shake256 (imgBody r.body) = slice r.body 0x54 32 →
                    imgWords r.body = 0 ∨ imgTraps r.body ≠ 0 ∨ imgLoad r.body < 0x4400 ∨ 0x5400 < imgLoad r.body + imgWords r.body →
                    failed (.chcExtLoad t r sig) mbxInvalid 0x0107 0)))
        ∧ (∀ w, checkImage x 2 r.body sig = .inr w →
            Answers (.chcExtLoad t r sig) s r slot { st := keepImage (loadImage x 2 r.body w) r.body }
            ∧ imgInUse x r.body = false ∧ w.1.all (fun y => wordOk (ofLe y)) = true))

/-! ### Forwarding tables (05) -/

/-- The content digest (R119): it is 0 for an empty table; where it is the XOR of the hashes of the entries, writing one entry and
deleting one keep it so, and so do the moves of a walk.
The model's own choices it rests on: log 7. -/
def Obligations.TableDigestFollows : Prop :=
  tableDigest State.reset 0 = List.replicate 32 0
  ∧ ∀ (s : State) (t pos : Nat) (e : TEntry), twf (s.tbl t).slots = true → (s.tbl t).digest = tableDigest s t →
      (let u := putEntry s t pos e
       (u.tbl t).digest = tableDigest u t ∧ twf (u.tbl t).slots = true ∧ tget? (u.tbl t).slots pos = some e
         ∧ ∀ p, p ≠ pos → tget? (u.tbl t).slots p = tget? (s.tbl t).slots p)
      ∧ (let u := delEntry s t pos
         (u.tbl t).digest = tableDigest u t ∧ twf (u.tbl t).slots = true ∧ tget? (u.tbl t).slots pos = none
           ∧ ∀ p, p ≠ pos → tget? (u.tbl t).slots p = tget? (s.tbl t).slots p)

/-- The insert (R107 to R109): a held key is written over; the lowest free slot of its buckets is taken, c0 before c1; with no room
and no walk an insert that may not evict ends in nospace, counted; one that may evicts the oldest, which is posted and counted.
Learning a key that is held (R113), in LOCAL mode: its own port refreshes it; a static entry contends; past the hold-down, or
without a record, or with hold-down 0 (R114), it moves at once, its AGE kept; within it the port becomes the candidate, which takes
over after a hold-down of its own. -/
def Obligations.EntriesInserted : Prop :=
  (∀ (s : State) (t : Nat) (e : TEntry) (evict : Bool),
    let c := candidates s t 0 e.key
    (∀ pos old, findKey s t e.key = some (pos, old) → insert s t e evict = (putEntry s t pos e, .updated))
    ∧ (findKey s t e.key = none →
        (∀ p, freeSlot s t 0 c.1 = some p → insert s t e evict = (countStat (putEntry s t p e) (tStat t 3) 1, .inserted))
        ∧ (∀ p, freeSlot s t 0 c.1 = none → freeSlot s t 0 c.2 = some p →
            insert s t e evict = (countStat (putEntry s t p e) (tStat t 3) 1, .inserted))
        ∧ (freeSlot s t 0 c.1 = none → freeSlot s t 0 c.2 = none → tblDepth s t = 0 → tblBuckets s t 1 = 0 →
            let tb := s.tbl t
            let y := s.onTbl t (fun x => { x with toggle := tset x.toggle 0 (1 - tget tb.toggle 0 0), ptr := tset x.ptr 0 (tget tb.ptr 0 0) })
            (evict = false → insert s t e evict = (countErr y (tErr t 0), .nospace))
            ∧ (evict = true → tblOldest s t = true →
                (∀ pos old, oldest (y.tbl t).tick (victimSlots y t 0 e.key) = some (pos, old) →
                  insert s t e evict = (countStat (countStat (putEntry (post y t 6 old.port 0xFF old.tf old.age old.key) t pos e)
                    (tStat t 3) 1) (tStat t 5) 1, .evicted old))
                ∧ (oldest (y.tbl t).tick (victimSlots y t 0 e.key) = none → insert s t e evict = (countErr y (tErr t 0), .nospace)))))
    ∧ (∀ (level b p : Nat), freeSlot s t level b = some p →
        tget? (s.tbl t).slots p = none ∧ ∃ i < 4, p = tPos level b i ∧ ∀ j < i, (tget? (s.tbl t).slots (tPos level b j)).isSome = true)
    ∧ (∀ tick l pos old, oldest tick l = some (pos, old) → (pos, old) ∈ l ∧ ∀ x ∈ l, ageOf tick x.2.age ≤ ageOf tick old.age)
    ∧ (∀ x ∈ victimSlots s t 0 e.key, x.2.has fStatic = false))
  ∧ (∀ (s : State) (t pos : Nat) (e : TEntry) (r : LearnReq),
    let hd : Int := tblHoldDown s t
    (e.port = r.lp → learnHeld s t pos e r = (refreshEntry s t pos e).onTbl t (fun tb =>
      { tb with hold := tb.hold.map (fun x => if x.key = r.key then { x with cand := none } else x) }))
    ∧ (e.port ≠ r.lp → e.has fStatic = true → learnHeld s t pos e r = countErr s (tErr t 2))
    ∧ (e.port ≠ r.lp → e.has fStatic = false →
        (hd = 0 ∨ holdOf s t r.key = none → learnHeld s t pos e r = learnMove s t pos e r)
        ∧ (∀ h, hd ≠ 0 → holdOf s t r.key = some h → h.cand = none →
            (hd ≤ r.tIn - h.learnt → learnHeld s t pos e r = learnMove s t pos e r)
            ∧ (r.tIn - h.learnt < hd → learnHeld s t pos e r = contend s t h e r true))
        ∧ (∀ h c first, hd ≠ 0 → holdOf s t r.key = some h → h.cand = some (c, first) →
            (c ≠ r.lp → learnHeld s t pos e r = contend s t h e r true)
            ∧ (c = r.lp → hd ≤ r.tIn - first → learnHeld s t pos e r = learnMove s t pos e r)
            ∧ (c = r.lp → r.tIn - first < hd → learnHeld s t pos e r = countErr s (tErr t 2))))
    ∧ (e.tf = r.tf → hd = 0 →
        learnMove s t pos e r = countStat (post (putEntry s t pos { e with port := r.lp, result := e.result / 8192 * 8192 + tblLearnQset s t r.lp })
          t 3 r.lp e.port r.tf e.age r.key) (tStat t 7) 1))

/-- The serialiser's order and the clockwork of a table (R106, R115, R116, R120 to R122, R462): learn requests before refreshes before
the ager before a dump; the tick; one record delivered, to the Clerk in table order, dropped where its channel lost its reader (R274); a
flush ends; lost buckets are cleared and the digest recomputed.
The table commands (R20, R122, R461): a disabled table, a key of another length, an absent port and a value out of range fail; an insert within the
quota, a delete, a read, a batch, a flush and a dump do what they name.
States that each of these rows completes (exec answers a next state with the row's own effect): learn, refresh, ageTick,
agerRequest, notifyDeliver, dumpStep, flushDone, bucketClear, tableRecompute, tblInsert, tblDelete, tblRead, tblBatch, tblFlush,
tblDump.
The model's own choices it rests on: log 25. -/
def Obligations.TableRowsAndCommands : Prop :=
  (∀ (t : Nat) (s x : State) (tbl : Fin 16), x = s.advance t →
    let n := tbl.val
    let tb := x.tbl n
    (tb.learnQ = [] → Ends (.learn t tbl) s x)
    ∧ (∀ q rest pos e, tb.learnQ = q :: rest → tblMode x n = 2 →
        let y := purgeHold (x.onTbl n (fun b => { b with learnQ := rest })) n q.tIn
        (findKey y n q.key = some (pos, e) → Ends (.learn t tbl) s (learnHeld y n pos e q))
        ∧ (findKey y n q.key = none → Ends (.learn t tbl) s (learnNew y n q)))
    ∧ (tb.learnQ ≠ [] → Ends (.refresh t tbl) s x ∧ Ends (.agerRequest t tbl) s x ∧ Ends (.dumpStep t tbl) s x)
    ∧ (∀ k rest, tb.learnQ = [] → tb.refreshQ = k :: rest →
        let y := x.onTbl n (fun b => { b with refreshQ := rest })
        Ends (.agerRequest t tbl) s x
        ∧ (∀ pos e, findKey y n k = some (pos, e) → Ends (.refresh t tbl) s (putEntry y n pos
            { e with age := (y.tbl n).tick, flags := e.flags - (e.flags &&& fReported) }))
        ∧ (findKey y n k = none → Ends (.refresh t tbl) s y))
    ∧ (∀ k rest, tb.learnQ = [] → tb.refreshQ = [] → tb.agerQ = k :: rest →
        let y := x.onTbl n (fun b => { b with agerQ := rest })
        (findKey y n k = none → Ends (.agerRequest t tbl) s y)
        ∧ (∀ pos e, findKey y n k = some (pos, e) → e.has fStatic = false → tblAgeMax y n ≠ 0 →
            tblAgeMax y n ≤ ageOf (y.tbl n).tick e.age → tblMode y n = 2 →
            Ends (.agerRequest t tbl) s
              (countStat (post (delEntry y n pos) n 5 e.port 0xFF e.tf e.age e.key) (tStat n 6) 1)))
    ∧ (tblMode x n = 0 ∨ x.clk.up < tb.tickAt + tblTickNs x n → Ends (.ageTick t tbl) s x)
    ∧ (tblMode x n ≠ 0 → tb.tickAt + tblTickNs x n ≤ x.clk.up → Ends (.ageTick t tbl) s (ageTick x n)
        ∧ ((ageTick x n).tbl n).tick = (tb.tick + 1) % 65536 ∧ ((ageTick x n).tbl n).slots = tb.slots)
    ∧ (∀ r rest, tb.notif = r :: rest → tblTarget x n = 0xFFFF →
        let y := x.onTbl n (fun b => { b with notif := rest })
        (clerkTurn x = some n →
          Ends (.notifyDeliver t tbl) s (raise { y with mbx.tblTurn := (n + 1) % 16 } 0x0601 n (r.bytes n)))
        ∧ (clerkTurn x ≠ some n → Ends (.notifyDeliver t tbl) s x))
    ∧ (∀ r rest, tb.notif = r :: rest → tblTarget x n ≠ 0xFFFF → readerOf x (tblTarget x n) = none →
        Ends (.notifyDeliver t tbl) s (chanDrop (x.onTbl n (fun b => { b with notif := rest })) (tblTarget x n)))
    ∧ (tb.notif = [] → Ends (.notifyDeliver t tbl) s x)
    ∧ (∀ f, tb.flush = some f →
        Ends (.flushDone t tbl) s (raise ((flushEntries x n f).onTbl n (fun b => { b with flush := none })) 0x0603 n []))
    ∧ (tb.learnQ = [] → tb.refreshQ = [] → tb.agerQ = [] → ∀ level b, tb.dump = some (level, b) → 512 < tb.notif.length →
        Ends (.dumpStep t tbl) s x)
    ∧ (tb.lost ≠ [] → Ends (.bucketClear t tbl) s (x.onTbl n (fun b =>
        { b with slots := b.slots.filter (fun p => !b.lost.contains (posLevel p.1, posBucket p.1)), lost := [], recompute := true })))
    ∧ (tb.recompute = true → Ends (.tableRecompute t tbl) s (x.onTbl n (fun b => { b with digest := tableDigest x n, recompute := false })))
    ∧ (tb.recompute = false → Ends (.tableRecompute t tbl) s x))
  ∧ (∀ (t : Nat) (s x : State) (r : Req) (slot : Option Nat),
    let n := num r 0
    let f := keyFault x n r.body 8
    let key := keyAt r.body 8 (tblKeyLen x n)
    (Takes t s r 0x0601 x slot → r.body.length = 96 →
      (f ≠ 0 → Answers (.tblInsert t r) s r slot { st := x, status := mbxInvalid, arg := f })
      ∧ (f = 0 → ¬ (leAt r.body 72 8 = 0xFF ∨ leAt r.body 72 8 ≤ 15 ∧ x.lpPresent (leAt r.body 72 8) = true) →
          Answers (.tblInsert t r) s r slot { st := x, status := mbxInvalid })
      ∧ (f = 0 → leAt r.body 72 8 = 0xFF ∨ leAt r.body 72 8 ≤ 15 ∧ x.lpPresent (leAt r.body 72 8) = true →
          leAt r.body 80 8 < 4096 → leAt r.body 88 8 < 8 →
          findKey x n key = none →
          let fl := leAt r.body 88 8
          let e : TEntry := { key := key, result := leAt r.body 64 8, age := (x.tbl n).tick, port := leAt r.body 72 8
                              flags := (if fl.testBit 0 then fStatic else 0) + (if fl.testBit 1 then fOnchip else 0), tf := leAt r.body 80 8 }
          (quotaOk x n (leAt r.body 80 8) = false → Answers (.tblInsert t r) s r slot { st := x, status := mbxNospace })
          ∧ (∀ y, quotaOk x n (leAt r.body 80 8) = true → insert x n e (fl.testBit 2) = (y, .inserted) →
              Answers (.tblInsert t r) s r slot { st := y, out := encN 0 ++ List.replicate 56 0 })
          ∧ (∀ y v, quotaOk x n (leAt r.body 80 8) = true → insert x n e (fl.testBit 2) = (y, .evicted v) →
              Answers (.tblInsert t r) s r slot { st := y, out := encN 2 ++ encKey v.key })))
    ∧ (Takes t s r 0x0602 x slot → r.body.length = 64 → f = 0 →
        (∀ pos e, findKey x n key = some (pos, e) → Answers (.tblDelete t r) s r slot { st := delEntry x n pos, out := encN 1 })
        ∧ (findKey x n key = none → Answers (.tblDelete t r) s r slot { st := x, out := encN 0 }))
    ∧ (Takes t s r 0x0603 x slot → r.body.length = 64 → f = 0 →
        (∀ pos e, findKey x n key = some (pos, e) → Answers (.tblRead t r) s r slot
          { st := x, out := encN 1 ++ e.bytes (tblWidth x n) ++ encN (posLevel pos) ++ encN (posBucket pos) ++ encN (posSlot pos) })
        ∧ (findKey x n key = none → Answers (.tblRead t r) s r slot
            { st := x, out := encN 0 ++ List.replicate (tblWidth x n + 16) 0 ++ encN 0 ++ encN 0 ++ encN 0 }))
    ∧ (Takes t s r 0x0604 x slot → r.body.length = 16 + 96 * num r 1 → n < 16 → tblMode x n ≠ 0 → 1 ≤ num r 1 → num r 1 ≤ 64 →
        Answers (.tblBatch t r) s r slot
          { st := (batchLoop n r.body (num r 1) 16 x []).1, out := (batchLoop n r.body (num r 1) 16 x []).2 })
    ∧ (Takes t s r 0x0605 x slot → r.body.length = 32 → n < 16 → tblMode x n ≠ 0 →
        (num r 1 < 2 ∧ num r 2 = 0 ∨ num r 1 = 2 ∧ num r 2 < 4096 ∨ num r 1 = 3 ∧ (num r 2 = 0xFF ∨ num r 2 ≤ 15 ∧ x.lpPresent (num r 2) = true)) →
        num r 3 < 2 →
        (tblBusy x n = true → Answers (.tblFlush t r) s r slot { st := x, status := mbxBusy })
        ∧ (tblBusy x n = false → Answers (.tblFlush t r) s r slot
            { st := x.onTbl n (fun b => { b with flush := some { filter := num r 1, value := num r 2, static := num r 3 == 1 } }) }))
    ∧ (Takes t s r 0x0606 x slot → r.body.length = 8 → n < 16 → tblMode x n ≠ 0 →
        (tblBusy x n = true → Answers (.tblDump t r) s r slot { st := x, status := mbxBusy })
        ∧ (tblBusy x n = false → Answers (.tblDump t r) s r slot { st := x.onTbl n (fun b => { b with dump := some (0, 0) }) })))

/-! ### Ehronaolo Transport (07) -/

/-- A packet at the engine (R162): the engine takes it only as the first that waits; checks 1 to 3 discard and count it; what is left
goes on with the endpoint that it names. Checks 5 to 7 come next for DATA, CREDIT_REQ and TALLY; an ACK, a CREDIT_GRANT and a MOVED meet
check 4 and the generation tests.
The state of a message at its receiver (R162 checks 8 to 11, R163): repeats are counted and never placed again, a LAST repeat is
answered with the stored status; no room, no credit, a failed region check, a ring revoked since (R31, R182); a packet that passes them is placed, and only a byte count
that reaches TOTAL_LEN completes the message.
States that each of these rows completes (exec answers a next state with the row's own effect): data, ack, creditReq, creditGrant,
tally, moved.
The model's own choices it rests on: log 22, 75. -/
def Obligations.PacketsReceived : Prop :=
  (∀ (t : Nat) (s x y : State) (q : EhtRx), x = s.advance t → x.boot.inband = true → x.phase = .running → takeRx x q = some y →
    let p := parsePkt q.bytes
    let kinds : List (Nat × Instr) := [(1, .data t q), (2, .ack t q), (3, .creditReq t q), (4, .creditGrant t q), (5, .tally t q), (6, .moved t q)]
    ∀ c ∈ kinds, pktWhole p = true → p.typ = c.1 →
      let z := if c.1 = 1 then countStat y (ehtStat 0) 1 else y
      let spoofed := q.local_ = false ∧ z.port.mgmtOnly = false ∧ q.spoofOk = false
      (∀ k, check1 y q p = some k → Ends c.2 s (countErr y (ehtErr k)))
      ∧ (check1 y q p = none → spoofed → Ends c.2 s (countErr z (ehtErr 2)))
      ∧ (check1 y q p = none → ¬ spoofed → p.dst ≠ 0xFFFFFFFF → z.ep? p.dst = none →
          (tget? z.eht.moved p.dst = none → Ends c.2 s (countErr z (ehtErr 3)))
          ∧ (∀ m, tget? z.eht.moved p.dst = some m → c.1 = 1 → Ends c.2 s (answerMoved z q p m)))
      ∧ (∀ e, check1 y q p = none → ¬ spoofed → p.dst ≠ 0xFFFFFFFF → z.ep? p.dst = some e →
          let eid := epKey z p.dst
          (c.1 = 2 ∨ c.1 = 4 ∨ c.1 = 6 →
            let found := if c.1 = 4 then (grantedMsg z p).isSome else (openMsg z p).isSome
            (found = false → Ends c.2 s (unmatched z p))
            ∧ (found = true → (genStale z eid e p).2 = true → Ends c.2 s (genStale z eid e p).1)
            ∧ (found = true → (genStale z eid e p).2 = false →
                (c.1 = 2 → Ends c.2 s (takeAck (genStale z eid e p).1 p)) ∧ (c.1 = 4 → Ends c.2 s (takeGrant (genStale z eid e p).1 p))
                ∧ (c.1 = 6 → Ends c.2 s (takeMoved (genStale z eid e p).1 q p))))
          ∧ (p.dgen = e.gen % 65536 → (∀ b ∈ z.eht.book, ¬ (b.2.eid = p.src ∧ serialEarlier 16 p.sgen b.2.gen = true)) →
              genStale z eid e p = (z, false))
          ∧ (genFree z p = false → p.dgen ≠ e.gen % 65536 → (genStale z eid e p).2 = true)
          ∧ (∀ st, check5 z e p = some st →
              (c.1 = 1 → Ends c.2 s (answerData z q p e st 0 (placedBytes z p.key) false)) ∧ (c.1 = 3 ∨ c.1 = 5 → Ends c.2 s z))
          ∧ (check5 z e p = none → (check67 z eid e p).2 = true →
              let w := (check67 z eid e p).1
              (c.1 = 1 → Ends c.2 s (answerData w q p e nakFenced 0 (placedBytes w p.key) false)) ∧ (c.1 = 3 ∨ c.1 = 5 → Ends c.2 s w))
          ∧ (check5 z e p = none → (check67 z eid e p).2 = false →
              let w := (check67 z eid e p).1
              (c.1 = 1 → Ends c.2 s (receiveMsg w q p eid e)) ∧ (c.1 = 3 → Ends c.2 s (serveCreditReq w q p eid e))
              ∧ (c.1 = 5 → eid = wellKnownEid → Ends c.2 s (hearTally w q p)))))
  ∧ (∀ (s : State) (q : EhtRx) (p : Pkt) (eid : Nat) (e : Endpoint),
    (∀ d, ctxOf s p.key = none → dedupOf s p.key = some d →
      (p.last = true → receiveMsg s q p eid e = answerData (countStat s (ehtStat 3) 1) q p e (d.status.getD ehtAck) d.result 0 true)
      ∧ (p.last = false → receiveMsg s q p eid e = countStat s (ehtStat 3) 1))
    ∧ (∀ c, ctxOf s p.key = some c → p.index ∈ c.bitmap → receiveMsg s q p eid e = countStat s (ehtStat 3) 1)
    ∧ (∀ k, ctxOf s p.key = none → dedupOf s p.key = none → check9 s e p.express = some k →
        receiveMsg s q p eid e = answerData (countErr s k) q p e nakRetry 0 0 false)
    ∧ (∀ c, ctxOf s p.key = some c → p.index ∉ c.bitmap → check10 s e p = none →
        receiveMsg s q p eid e = answerData s q p e nakNoCredit 0 c.count false)
    ∧ (∀ c y st, ctxOf s p.key = some c → p.index ∉ c.bitmap → check10 s e p = some y → p.op = 2 →
        let z := touchDesc y (p.rkey / 4096)
        check11 z e (some c) p = .inr st → st ≠ nakRetry → receiveMsg s q p eid e = failMsg z q p eid e st)
    ∧ (∀ c n, p.op = 1 → e.channel = some c → (∀ y, lookupKey s e.ringKey = .inl y → sendPlace s e n p = .inl (.mem (y.target + n * e.slotSize + p.offset)))
        ∧ (∀ x, lookupKey s e.ringKey = .inr x → sendPlace s e n p = .inr x))
    ∧ (∀ c y a, ctxOf s p.key = some c → p.index ∉ c.bitmap → check10 s e p = some y → p.op = 2 →
        check11 (touchDesc y (p.rkey / 4096)) e (some c) p = .inl (.mem a) →
        receiveMsg s q p eid e = placePacket (touchDesc y (p.rkey / 4096)) q p eid e c (.mem a))
    ∧ (∀ c a, let n := c.count + p.len
        let c' : Ctx := { c with bitmap := p.index :: c.bitmap, count := n, maxIdx := max c.maxIdx p.index
                                 total := if p.last then some p.total else c.total }
        let y := s.poke a p.payload
        let z := countStat { y with eht.ctxs := y.eht.ctxs.map (fun x => if x.key = c.key then c' else x) } (ehtStat 1) p.len
        (p.last = true → n = p.total → placePacket s q p eid e c (.mem a) = messageDone z q p eid e c' 0 p.total)
        ∧ (p.last = true → n ≠ p.total → placePacket s q p eid e c (.mem a) = z)
        ∧ (p.last = false → c.total = none → placePacket s q p eid e c (.mem a) = z)
        ∧ (∀ tl, p.last = false → c.total = some tl → n = tl → placePacket s q p eid e c (.mem a) = messageDone z q p eid e c' 0 tl)))

/-- Region keys and accesses (R178, R180, R182, R185, R326): which NAK a key gets, the bounds computed without overflow, for an access of
no byte too, the rights; a descriptor with both copies lost answers NAK_KEY; a revoke
changes the generation and the state in one cycle, so the old key is refused from then on; the ATOMIC functions.
Credit (R176): what a request is given, the token, and which DATA packets a grant covers; a covered packet takes one unit.
The commands of regions and the address book (R148, R179, R187); a path count and a flag left out have their defaults (log 25).
States that each of these rows completes (exec answers a next state with the row's own effect): ehtRegCreate, ehtRegRevoke,
ehtRegQuery, ehtBookWrite, ehtBookRead.
The model's own choices it rests on: log 25, 27. -/
def Obligations.RegionsAndCredit : Prop :=
  ((∀ (s : State) (key : Nat), descLost s (key / 4096) = true → lookupKey s key = .inr nakKey)
  ∧ (∀ (s : State) (key : Nat) (d : Region), tget? s.eht.regions (key / 4096) = some d → descLost s (key / 4096) = false → d.gen < 4096 →
    (d.state = 1 → d.gen = key % 4096 → lookupKey s key = .inl d)
    ∧ (d.state = 2 → key % 4096 = (d.gen + 4095) % 4096 → lookupKey s key = .inr nakRevoked)
    ∧ (d.state = 1 → d.gen ≠ key % 4096 → lookupKey s key = .inr nakKey)
    ∧ (d.state = 0 → lookupKey s key = .inr nakKey)
    ∧ (d.state = 1 → d.gen = key % 4096 → lookupKey (revokeRegion s (key / 4096)) key = .inr nakRevoked
        ∧ tget? (revokeRegion s (key / 4096)).eht.regions (key / 4096) = some { d with gen := (d.gen + 1) % 4096, state := 2 }))
  ∧ (∀ (s : State) (key : Nat), tget? s.eht.regions (key / 4096) = none → lookupKey s key = .inr nakKey)
  ∧ (∀ (s : State) (key a n right src : Nat) (d : Region), lookupKey s key = .inl d →
      (a < d.base ∨ d.base + d.len < a + n → regionAccess s key a n right src = .inr nakBounds)
      ∧ (d.base ≤ a → a + n ≤ d.base + d.len →
          (d.rights &&& right = 0 ∨ d.filter ≠ 0xFFFFFFFF ∧ d.filter ≠ src → regionAccess s key a n right src = .inr nakRights)
          ∧ (d.rights &&& right ≠ 0 → d.filter = 0xFFFFFFFF ∨ d.filter = src →
              regionAccess s key a n right src = .inl (d.target + (a - d.base)))))
  ∧ (∀ old a b : Nat, atomicNew 0 old a b = (old + a) % 2 ^ 64 ∧ atomicNew 1 a a b = b ∧ (old ≠ a → atomicNew 1 old a b = old)
      ∧ atomicNew 2 old a b = a))
  ∧ (∀ (s : State) (q : EhtRx) (p : Pkt) (eid : Nat) (e : Endpoint),
    let y := countStat s (ehtStat 10) 1
    let ex := poolExpress y e p.express
    let free := creditFree y e ex
    let give := min (beAt p.b 0x10 2) (min (grantMax y) (max (free / 4) (min free 1)))
    (freeGrant y = none → serveCreditReq s q p eid e = sendGrant (countErr y (ehtErr 12)) q p e 0 0 0 (grantLife y / 1000))
    ∧ (∀ g, freeGrant y = some g →
        (give = 0 → serveCreditReq s q p eid e = sendGrant y q p e 0 0 0 (grantLife y / 1000))
        ∧ (give ≠ 0 →
            let uses := (tget y.eht.grantUses g 0 + 1) % 65536
            let live : Grant := { src := p.src, ep := eid, express := ex, tf := e.tf, left := give, expires := y.clk.up + grantLife y, uses := uses }
            serveCreditReq s q p eid e =
              sendGrant (countStat { y with eht.grantUses := tset y.eht.grantUses g uses, eht.grants := tset y.eht.grants g live } (ehtStat 11) 1)
                q p e give (g * 65536 + uses) (grantLife y / 1000) 0))
    ∧ (p.op ≠ 4 → p.grant ≠ 0 → ∀ g, tget? s.eht.grants (p.grant / 65536) = some g →
        (g.uses % 65536 = p.grant % 65536 → s.clk.up < g.expires → g.src = p.src → g.ep = epKey s p.dst → 0 < g.left →
          check10 s e p = some { s with eht.grants := tset s.eht.grants (p.grant / 65536) { g with left := g.left - 1 } })
        ∧ (g.uses % 65536 ≠ p.grant % 65536 ∨ g.expires ≤ s.clk.up ∨ g.src ≠ p.src ∨ g.ep ≠ epKey s p.dst ∨ g.left = 0 →
            check10 s e p = none))
    ∧ (p.op = 4 → check10 s e p = some s))
  ∧ (∀ (t : Nat) (s x : State) (r : Req) (slot : Option Nat),
    (Takes t s r 0x0801 x slot → r.body.length = 64 →
      (∀ k, regionBad x r = some k → Answers (.ehtRegCreate t r) s r slot { st := x, status := mbxInvalid, arg := k })
      ∧ (regionBad x r = none → freeIndex x (num r 3) = none → Answers (.ehtRegCreate t r) s r slot { st := x, status := mbxNospace })
      ∧ (∀ i, regionBad x r = none → freeIndex x (num r 3) = some i →
          let gen := match tget? x.eht.regions i with
            | some d => d.gen
            | none => 0
          let d : Region := { base := num r 0, len := num r 1, target := num r 2, gen := gen, tf := num r 3, rights := num r 4
                              state := 1, flags := num r 5, filter := num r 6, channel := num r 7 }
          Answers (.ehtRegCreate t r) s r slot
            { st := { descWritten x i with eht.regions := tset x.eht.regions i d, eht.freeOrder := x.eht.freeOrder.filter (· != i) }
              out := encN (i * 4096 + gen) }))
    ∧ (Takes t s r 0x0802 x slot → r.body.length = 8 →
        (∀ d, tget? x.eht.regions (num r 0 / 4096) = some d → d.state = 1 → d.gen = num r 0 % 4096 →
          Answers (.ehtRegRevoke t r) s r slot { st := revokeRegion x (num r 0 / 4096) })
        ∧ (∀ d, tget? x.eht.regions (num r 0 / 4096) = some d → d.state ≠ 1 ∨ d.gen ≠ num r 0 % 4096 →
            Answers (.ehtRegRevoke t r) s r slot { st := x, status := mbxInvalid, arg := 1 }))
    ∧ (Takes t s r 0x0803 x slot → r.body.length = 8 → num r 0 < 2 ^ 32 → ∀ d, tget? x.eht.regions (num r 0 / 4096) = some d →
        Answers (.ehtRegQuery t r) s r slot { st := x, out := d.bytes })
    ∧ (Takes t s r 0x0804 x slot →
        (num r 0 = 0 ∨ 64 < num r 0 → Answers (.ehtBookWrite t r) s r slot { st := x, status := mbxInvalid, arg := 1 })
        ∧ (1 ≤ num r 0 → num r 0 ≤ 64 → r.body.length = 8 + 102 * num r 0 → (∀ b ∈ bookItems r (num r 0), bookItemOk x b = true) →
            let book := (bookItems r (num r 0)).foldl putBook x.eht.book
            (∀ b ∈ bookItems r (num r 0), bookUse book (leAt b 86 8) ≤ bookQuota x (leAt b 86 8)) →
            Answers (.ehtBookWrite t r) s r slot { st := { x with eht.book := book } })
        ∧ (∀ b, leAt b 62 8 = 2 ^ 64 - 1 → leAt b 78 8 = 2 ^ 64 - 1 → (bookOfItem b).paths = 4 ∧ (bookOfItem b).follow = true))
    ∧ (Takes t s r 0x0805 x slot → r.body.length = 16 → num r 0 < 65536 → 1 ≤ num r 1 → num r 1 ≤ 64 → num r 0 + num r 1 ≤ 65536 →
        Answers (.ehtBookRead t r) s r slot { st := x, out := (List.range (num r 1)).flatMap (fun k => bookRow x (num r 0 + k)) }))

/-- The sender's answers and timers (R170, R171, R177, R184): ACK and a final NAK close the message with its status; NAK_NO_CREDIT asks for
credit; the RTO, a retry wait, the end of the window and the timeout act at their instants and not before.
The receiver's timers (R163, R166, R176, R177, R182): a context expires after L without an answer, its entry with it; the epoch
advances every L/16; a grant, a sender's grant, a revoked region and a restored one end at their instants.
States that each of these rows completes (exec answers a next state with the row's own effect): contextExpiry, epochAdvance,
grantExpiry, senderGrantStop, rtoExpiry, retryWaitEnd, sendWindowEnd, ehtTimeout, revokeDone, restoredRegionFree.
The model's own choices it rests on: log 12. -/
def Obligations.MessageTimers : Prop :=
  (∀ (t k : Nat) (s x : State) (m : OutMsg), x = s.advance t → tget? x.eht.out k = some m →
    (∀ rto retry, m.state = .wait rto retry → m.acked = false →
      (rto ≤ x.clk.up → Ends (.rtoExpiry t k) s (sendFrom x k { m with next := 0, round := m.round + 1 }))
      ∧ (x.clk.up < rto → Ends (.rtoExpiry t k) s x))
    ∧ (∀ rto w, m.state = .wait rto (some w) →
        (w ≤ x.clk.up → Ends (.retryWaitEnd t k) s (sendFrom x k { m with next := 0, round := m.round + 1 }))
        ∧ (x.clk.up < w → Ends (.retryWaitEnd t k) s x))
    ∧ (∀ w, m.state = .credit (some w) → w ≤ x.clk.up → Ends (.retryWaitEnd t k) s (requestCredit x k m))
    ∧ (∀ t0, m.t0 = some t0 →
        (t0 + ehtW x ≤ x.clk.up → Ends (.sendWindowEnd t k) s (x.onOut k { m with state := .drain }))
        ∧ (x.clk.up < t0 + ehtW x → Ends (.sendWindowEnd t k) s x)
        ∧ (t0 + ehtW x + ackWait x ≤ x.clk.up → Ends (.ehtTimeout t k) s (finishMsg x k ehtTimeoutSt 0 []))
        ∧ (x.clk.up < t0 + ehtW x + ackWait x → Ends (.ehtTimeout t k) s x))
    ∧ (m.t0 = none → Ends (.sendWindowEnd t k) s x ∧ Ends (.ehtTimeout t k) s x)
    ∧ rtoOf x m = min (rtoMax x) (rtoBase x * 2 ^ m.round) + 10 * ((m.payload.length + 1023) / 1024)
    ∧ (∀ p : Pkt, openMsg x p = some (k, m) →
        let st := beAt p.b 0x18 1
        let retry := beAt p.b 0x1C 4 * 1000
        let n := beAt p.b 0x28 4
        let y := countStat x (ehtStat 8) 1
        (st = 0 → m.op = 5 → takeAck x p = finishMsg x k 0 n (slice p.b 0x20 8))
        ∧ (st = 0 → m.op ≠ 3 → m.op ≠ 5 → takeAck x p = finishMsg x k 0 n [])
        ∧ (st = 0 → m.op = 3 → takeAck x p = x.onOut k { m with acked := true })
        ∧ (st ∈ [0x20, 0x21, 0x22, 0x23, 0x30, 0x32, 0x50] → m.op ≠ 5 → takeAck x p = finishMsg y k st n [])
        ∧ (∀ rto w, st = nakRetry ∨ st = nakFrozen → m.state = .wait rto w →
            takeAck x p = y.onOut k { m with state := .wait rto (some (min rto (y.clk.up + retry))) })
        ∧ (st = nakRetry ∨ st = nakFrozen → m.state = .drain → takeAck x p = finishMsg y k st n [])
        ∧ (∀ b, st = nakNoCredit → m.book = some b → m.op ≠ 4 →
            let z := y.onBook b (fun e => { e with grant := none })
            (∀ rto w, m.state = .wait rto w → takeAck x p = requestCredit z k { m with next := 0, round := m.round + 1, needCredit := true })
            ∧ (m.state = .drain → takeAck x p = finishMsg z k st n [])))
    ∧ (∀ p : Pkt, openMsg x p = none → takeAck x p = (if p.retx then countStat x (ehtStat 9) 1 else countErr x (ehtErr 4))))
  ∧ (∀ (t : Nat) (s x : State), x = s.advance t →
    (∀ m c, ctxOf x m = some c →
      (c.made + ehtL x ≤ x.clk.up → ctxHeld x c.dst = false →
        let y := dropSlot (dropCtx x m) c.dst c.slot
        Ends (.contextExpiry t m) s (countErr { y with eht.dedup := y.eht.dedup.filter (fun d => d.key ≠ m) } (ehtErr 8)))
      ∧ (x.clk.up < c.made + ehtL x → Ends (.contextExpiry t m) s x))
    ∧ (x.eht.epochAt + ehtL x / 16 ≤ x.clk.up →
        let y := { x with eht.epoch := (x.eht.epoch + 1) % 256, eht.epochAt := x.eht.epochAt + ehtL x / 16 }
        Ends (.epochAdvance t) s { y with eht.dedup := y.eht.dedup.filter (fun d => !entryDone y d) })
    ∧ (x.clk.up < x.eht.epochAt + ehtL x / 16 → Ends (.epochAdvance t) s x)
    ∧ (∀ (g : Word16) (e : Grant), tget? x.eht.grants g.toNat = some e →
        (e.expires ≤ x.clk.up → Ends (.grantExpiry t g) s { x with eht.grants := tdel x.eht.grants g.toNat })
        ∧ (x.clk.up < e.expires → Ends (.grantExpiry t g) s x))
    ∧ (∀ (b : Word16) (e : Book) (g : BookGrant), tget? x.eht.book b.toNat = some e → e.grant = some g → g.stop ≤ x.clk.up →
        Ends (.senderGrantStop t b) s { x with eht.book := tset x.eht.book b.toNat { e with grant := none } })
    ∧ (∀ (i : BitVec 20) (at_ : Nat), tget? x.eht.revoking i.toNat = some at_ →
        Ends (.revokeDone t i) s (raise (freeRegion x i.toNat) 0x0102 i.toNat
          (encN 8 ++ encN i.toNat ++ encN 0 ++ encN 0 ++ encN (x.clk.up - at_))))
    ∧ (∀ (i : BitVec 20) (d : Region) (at_ : Nat), tget? x.eht.regions i.toNat = some d → d.freeAt = some at_ → d.state = 2 →
        at_ ≤ x.clk.up → Ends (.restoredRegionFree t i) s (freeRegion x i.toNat)))

/-! ### Tenant functions (09) -/

/-- The states of a tenant function (R233 to R236, R243): which command each state admits and what it does; the answer elsewhere.
States that each of these rows completes (exec answers a next state with the row's own effect): tfEnable, tfDisable, tfFreeze,
tfThaw, tfQuery. -/
def Obligations.TenantStates : Prop :=
  ∀ (t : Nat) (s x : State) (r : Req) (slot : Option Nat),
    let n := num r 0
    let st := (x.tf n).st
    tfExists x n = true →
    (Takes t s r 0x0A01 x slot → r.body.length = 8 →
      (st = .disabled → Answers (.tfEnable t r) s r slot { st := (liftChildren x n).onTf n (fun y => { y with st := .enabled }) })
      ∧ (st ≠ .disabled → Answers (.tfEnable t r) s r slot { st := x, status := mbxState }))
    ∧ (Takes t s r 0x0A02 x slot → r.body.length = 24 → num r 1 ≤ 2 → num r 2 = 0 ∨ (1000000 ≤ num r 2 ∧ num r 2 ≤ 60000000000) →
        (st = .enabled →
          let lim := if num r 2 = 0 then 100000000 else num r 2
          let y := x.onTf n (fun y => { y with st := .disabling })
          let y := (tfChildren y n).foldl (fun s o => if s.stopped o.1 then s else qStart s o.1 o.2 (num r 1) lim false false) y
          Answers (.tfDisable t r) s r slot { st := qStart y (.tf n) 1 (num r 1) lim false false })
        ∧ (st = .disabling ∨ st = .freezing → Answers (.tfDisable t r) s r slot { st := x, status := mbxBusy })
        ∧ (st ≠ .enabled → st ≠ .disabling → st ≠ .freezing → Answers (.tfDisable t r) s r slot { st := x, status := mbxState }))
    ∧ (Takes t s r 0x0A03 x slot → r.body.length = 16 → num r 1 = 0 ∨ (1000000 ≤ num r 1 ∧ num r 1 ≤ 60000000000) →
        (st = .enabled →
          let y := qStart (x.onTf n (fun y => { y with st := .freezing })) (.tf n) 2 0 (num r 1) false false
          let y := endSubmissions y n nakFrozen
          Answers (.tfFreeze t r) s r slot { st := (tfQueues y n).foldl (fun s q => sendCoal s q.1) y })
        ∧ (st = .disabling ∨ st = .freezing → Answers (.tfFreeze t r) s r slot { st := x, status := mbxBusy })
        ∧ (st ≠ .enabled → st ≠ .disabling → st ≠ .freezing → Answers (.tfFreeze t r) s r slot { st := x, status := mbxState }))
    ∧ (Takes t s r 0x0A04 x slot → r.body.length = 8 →
        (st = .frozen ∨ st = .saved → Answers (.tfThaw t r) s r slot
          { st := (thawTimes x n).onTf n (fun y => { y with st := .enabled, restored := false }) })
        ∧ (st ≠ .frozen → st ≠ .saved → Answers (.tfThaw t r) s r slot { st := x, status := mbxState }))
    ∧ (Takes t s r 0x0A08 x slot → r.body.length = 8 → x.q? (.tf n) = none →
        Answers (.tfQuery t r) s r slot
          { st := x, out := encNs ([st.code] ++ tfUse x n ++ tfQuotas x n ++ [0, 0, 0, 0]) })
    ∧ (∀ (y : State) (k : QObj × QRec), k ∈ (liftChildren y n).qs ↔
        k ∈ y.qs ∧ ¬ (k.2.done = true ∧ tfChild y n k.1 = true ∧ ∀ f q, k.1 ≠ .storageQueue f q))

/-- Migration (R238 to R244): the save sends the blob to TF0's address-book peer under the migration key; the save event decides
between SAVED and FROZEN; TF_MOVED enters a record for each endpoint and clears the tenant function until the grace ends.
A carried region at its destination (R242): the later of the two generations, and one more where it cannot stay VALID.
States that each of these rows completes (exec answers a next state with the row's own effect): graceEnd, tfSaved, tfRestored,
tfSave, tfRestore, tfMoved.
The model's own choices it rests on: log 28, 29. -/
def Obligations.TenantMoves : Prop :=
  (∀ (t : Nat) (s x : State) (r : Req) (slot : Option Nat),
    (let n := num r 0
     ∀ e : Book, tfExists x n = true → slotNameable (num r 1) = true → bookOf x (num r 2) 0 = some e → num r 3 < 2 ^ 32 →
      (Takes t s r 0x0A05 x slot → r.body.length = 48 →
        ((x.tf n).st ≠ .frozen → Answers (.tfSave t r) s r slot { st := x, status := mbxState })
        ∧ (∀ k, (x.tf n).st = .frozen → migrateKey x (num r 1) = some k →
            let iv := x.drawBytes 12
            let y := noteUse iv.2 (num r 1)
            let blob := makeBlob y n k iv.1
            let fits := blob.1.length ≤ num r 5
            let parts := if fits then max 1 ((blob.1.length + 4194304 * 2 ^ e.seg - 1) / (4194304 * 2 ^ e.seg)) else 0
            let op : SaveOp := { slot := num r 1, left := parts, len := blob.1.length, digest := blob.2, nospace := !decide fits }
            let y := y.onTf n (fun z => { z with st := .saving, save := some op })
            Answers (.tfSave t r) s r slot { st := sendPieces y (num r 2) e (num r 3) (num r 4) (.save n) parts blob.1 0 }))
      ∧ (Takes t s r 0x0A06 x slot → r.body.length = 72 → 0 < num r 5 → num r 6 < 2 ^ 32 →
          let empty := (x.tf n).st = .disabled ∧ ownEndpoints x n = [] ∧ tfQueues x n = [] ∧ ∀ p ∈ tfRegions x n, p.2.state ≠ 1
          (¬ empty → Answers (.tfRestore t r) s r slot { st := x, status := mbxState })
          ∧ (empty → (migrateKey x (num r 1)).isSome = true →
              let parts := max 1 ((num r 5 + 4194304 * 2 ^ e.seg - 1) / (4194304 * 2 ^ e.seg))
              let op : RestoreOp := { slot := num r 1, book := num r 2, mapKey := num r 6, mapAddr := num r 7, mapLen := num r 8, left := parts }
              let y := x.onTf n (fun z => { z with st := .restoring, restore := some op })
              Answers (.tfRestore t r) s r slot { st := readPieces y n (num r 2) e (num r 3) (num r 4) (num r 5) parts 0 })))
    ∧ (let n := num r 0
       let ip := beAt r.body 8 16
       let grace := if r.body.length = 24 then 5000000000 else leAt r.body 24 8
       Takes t s r 0x0A07 x slot → tfExists x n = true → r.body.length = 24 ∨ r.body.length = 32 → grace ≤ 60000000000 →
        ((x.tf n).st ≠ .saved → Answers (.tfMoved t r) s r slot { st := x, status := mbxState })
        ∧ ((x.tf n).st = .saved → 16384 < x.eht.moved.length + (ownEndpoints x n).length →
            Answers (.tfMoved t r) s r slot { st := x, status := mbxNospace })
        ∧ ((x.tf n).st = .saved → x.eht.moved.length + (ownEndpoints x n).length ≤ 16384 →
            let row (p : Nat × Endpoint) : MovedRec :=
              { tf := n, af := if ip < 2 ^ 32 then 4 else 6, ip := ip, eid := p.1, gen := (p.2.gen + 1) % 65536, endsAt := x.clk.up + grace }
            let y := (ownEndpoints x n).foldl (fun s p => { s with eht.moved := tset s.eht.moved p.1 (row p) }) x
            Answers (.tfMoved t r) s r slot
              { st := (clearMoved y n).onTf n (fun z => { z with st := .moved, graceAt := some (x.clk.up + grace), restored := false }) }))
    ∧ (∀ tf : BitVec 12, x = s.advance t →
        let n := tf.toNat
        let f := x.tf n
        (∀ g, f.graceAt = some g →
          (g ≤ x.clk.up → Ends (.graceEnd t tf) s
            ({ x with eht.moved := x.eht.moved.filter (fun m => m.2.tf != n) }.onTf n (fun y => { y with st := .disabled, graceAt := none })))
          ∧ (x.clk.up < g → Ends (.graceEnd t tf) s x))
        ∧ (f.graceAt = none → Ends (.graceEnd t tf) s x)
        ∧ (f.save = none → Ends (.tfSaved t tf) s x)
        ∧ (∀ o, f.save = some o → f.st = .saving → o.left = 0 → nsRecordsLive x n = false →
            (o.nospace = false → o.bad = none → Ends (.tfSaved t tf) s
              (raise (x.onTf n (fun y => { y with st := .saved, save := none })) 0x0A01 n (encN o.len ++ padTo 32 o.digest ++ encN 0)))
            ∧ (∀ code, code ≠ 0 → (o.nospace = true ∧ code = mbxNospace) ∨ (o.nospace = false ∧ o.bad = some code) →
                Ends (.tfSaved t tf) s (raise (x.onTf n (fun y => { y with st := .frozen, save := none })) 0x0A01 n
                  (encN 0 ++ List.replicate 32 0 ++ encN code))))
        ∧ (∀ o, f.save = some o → f.st ≠ .saving ∨ o.left ≠ 0 ∨ nsRecordsLive x n = true → Ends (.tfSaved t tf) s x)
        ∧ (f.restore = none → Ends (.tfRestored t tf) s x)
        ∧ (∀ o, f.restore = some o → f.st ≠ .restoring ∨ o.left ≠ 0 → Ends (.tfRestored t tf) s x)
        ∧ (∀ o, f.restore = some o → f.st = .restoring → o.left = 0 →
            let fail (y : State) (code : Nat) : State := raise (y.onTf n (fun z => { z with st := .disabled, restore := none })) 0x0A02 n (encN code)
            (∀ code, o.bad = some code → Ends (.tfRestored t tf) s (fail x code))
            ∧ (o.bad = none →
                let y := noteUse x o.slot
                (∀ code, openBlob y o.slot (o.parts.flatMap Prod.snd) = .inr code → Ends (.tfRestored t tf) s (fail y code))
                ∧ (∀ b, openBlob y o.slot (o.parts.flatMap Prod.snd) = .inl b →
                    (∀ code, blobFails y n b = some code → Ends (.tfRestored t tf) s (fail y code))
                    ∧ (blobFails y n b = none → Ends (.tfRestored t tf) s
                        (sendKeyMap (placeBlob y n b) n o (b.regs.flatMap (fun z => (keyMapEntry z (carriedRegion y n z)).getD [])))))))))
  ∧ (∀ (s : State) (tf index kind : Nat) (d : Region), d.gen < 4096 →
    let own := (tget s.eht.regions index default).gen
    let c := carriedRegion s tf (index, kind, d)
    own < 4096 →
    (kind < 2 → d.state = 1 → c.state = 1 ∧ c.tf = tf ∧ c.target = (allocOf s tf kind).1 + d.target
      ∧ c.base = d.base ∧ c.len = d.len ∧ c.rights = d.rights
      ∧ (serialLater 12 own d.gen = false → c.gen = d.gen ∧ keyMapEntry (index, kind, d) c = none)
      ∧ (serialLater 12 own d.gen = true → c.gen = own ∧
          keyMapEntry (index, kind, d) c = some (encNs [index * 4096 + d.gen, index * 4096 + own, 1])))
    ∧ (kind = 2 ∨ d.state = 2 → c.state = 2
        ∧ c.gen = ((if serialLater 12 own d.gen = true then own else d.gen) + 1) % 4096))

/-- Endpoints and storage queues of a tenant function (R29, R192, R209, R227, R228): what a creation checks and makes, the items left out,
which have their defaults (log 25), the resize of a queue, its enabling, not while a journal is replayed, and its destruction once
DISABLED, neither of them with a running quiesce of the endpoint.
States that each of these rows completes (exec answers a next state with the row's own effect): tfEpCreate, tfEpDestroy,
tfSqCreate, tfSqResize, tfSqEnable, tfSqDestroy. -/
def Obligations.TenantObjects : Prop :=
  ∀ (t : Nat) (s x : State) (r : Req) (slot : Option Nat), tfExists x (num r 0) = true →
    let tf := num r 0
    let made (eid : Nat) (e : Endpoint) (n : Nat) : State × Nat :=
      let g := (tget x.eht.epGens n 0 + 1) % 65536
      let y := { x with eht.eps := tset x.eht.eps eid { e with gen := g, slotNo := n }, eht.epGens := tset x.eht.epGens n g }
      ({ y with fence.told := y.fence.told.filter (· ≠ .endpoint eid) }, g)
    let free (n : Nat) : Prop := n < 16384 ∧ (∀ p ∈ x.eht.eps, p.2.slotNo ≠ n) ∧ ∀ m, m < n → ∃ p ∈ x.eht.eps, p.2.slotNo = m
    (Takes t s r 0x0A0A x slot → r.body.length = 48 →
      let c := num r 2
      let ok := eidTaken x (num r 1) = false ∧ c < 12288 ∧ chanOwner x c = tf ∧ 4 * num r 5 ≤ chanCap x c ∧ (∃ k, k < 13 ∧ num r 4 = 4096 * 2 ^ k)
        ∧ 1 ≤ num r 5 ∧ num r 5 ≤ 65536 ∧ ∃ d, lookupKey x (num r 3) = .inl d ∧ d.tf = tf ∧ num r 4 * num r 5 ≤ d.len
      (∀ n, ok → (tfEndpoints x tf).length < epQuota x tf → free n →
        let e : Endpoint := { gen := 0, tf := tf, channel := some c, sq := none, ringKey := num r 3, slotSize := num r 4, slotCount := num r 5 }
        Answers (.tfEpCreate t r) s r slot { st := (made (num r 1) e n).1, out := encN (made (num r 1) e n).2 })
      ∧ (ok → epQuota x tf ≤ (tfEndpoints x tf).length → Answers (.tfEpCreate t r) s r slot { st := x, status := mbxNospace })
      ∧ (eidTaken x (num r 1) = true → Answers (.tfEpCreate t r) s r slot { st := x, status := mbxInvalid, arg := 2 }))
    ∧ (∀ e, Takes t s r 0x0A0B x slot → r.body.length = 16 → tget? x.eht.eps (num r 1) = some e → e.tf = tf → e.channel.isSome = true →
        let o : QObj := .endpoint (BitVec.ofNat 32 (num r 1))
        (x.quiescing o = true → Answers (.tfEpDestroy t r) s r slot { st := x, status := mbxState })
        ∧ (x.quiescing o = false → Answers (.tfEpDestroy t r) s r slot { st := qStart x o 7 0 0 false true }))
    ∧ (Takes t s r 0x0A0C x slot → r.body.length = 72 → num r 1 < 64 → eidTaken x (num r 2) = false → sqItemsBad x tf (sqItems r 3) 3 = none →
        let k := sqKey tf (num r 1)
        let i := sqItems r 3
        let room := (tfQueues x tf).length < sqQuota x tf ∧ depthUse x tf 64 + i.depth ≤ depthQuota x tf ∧ (tfEndpoints x tf).length < epQuota x tf
        ((x.sq? k).isSome = true → Answers (.tfSqCreate t r) s r slot { st := x, status := mbxState })
        ∧ (x.sq? k = none → ¬ room → Answers (.tfSqCreate t r) s r slot { st := x, status := mbxNospace })
        ∧ (∀ n, x.sq? k = none → room → free n →
            let inline := i.inline == 1
            let e : Endpoint := { gen := 0, tf := tf, channel := none, sq := some (num r 1), ringKey := 0
                                  slotSize := if inline then 8192 else 4096, slotCount := i.depth }
            let q : StoQueue := { eid := num r 2, depth := i.depth, cls := i.cls, book := i.book, inline := inline
                                  coCount := i.coCount, coTime := i.coTime }
            let y := (made (num r 2) e n).1
            let y := { y with sto.queues := tset y.sto.queues k q }
            Answers (.tfSqCreate t r) s r slot { st := y, out := encN (made (num r 2) e n).2 }))
    ∧ (∀ k, let left (n d : Nat) : Nat := if n = 2 ^ 64 - 1 then d else n
        sqItems r k = { depth := left (num r k) 1024, cls := left (num r (k + 1)) 2, book := num r (k + 2), inline := left (num r (k + 3)) 0
                        coCount := left (num r (k + 4)) 1, coTime := left (num r (k + 5)) 0 })
    ∧ (∀ q, num r 1 < 64 → x.sq? (sqKey tf (num r 1)) = some q →
        let k := sqKey tf (num r 1)
        (Takes t s r 0x0A0D x slot → r.body.length = 64 → sqItemsBad x tf (sqItems r 2) 2 = none →
          let i := sqItems r 2
          let inline := i.inline == 1
          let may := q.st ≠ .quiescing ∧ (q.st = .disabled ∨ (q.depth ≤ i.depth ∧ inline = q.inline ∧ i.book = q.book))
          let set (q : StoQueue) : StoQueue :=
            { q with depth := i.depth, cls := i.cls, book := i.book, inline := inline, coCount := i.coCount, coTime := i.coTime }
          (¬ may → Answers (.tfSqResize t r) s r slot { st := x, status := mbxState })
          ∧ (may → depthQuota x tf < depthUse x tf (num r 1) + i.depth → Answers (.tfSqResize t r) s r slot { st := x, status := mbxNospace })
          ∧ (may → depthUse x tf (num r 1) + i.depth ≤ depthQuota x tf →
              let y := x.onSq k set
              let y := match tget? y.eht.eps q.eid with
                | some e =>
                  let e' := { e with slotCount := i.depth, slotSize := if inline then 8192 else 4096 }
                  { y with eht.eps := tset y.eht.eps q.eid e' }
                | none => y
              Answers (.tfSqResize t r) s r slot { st := y }))
        ∧ (Takes t s r 0x0A0E x slot → r.body.length = 16 →
            (q.st = .disabled → replaying x = false → Answers (.tfSqEnable t r) s r slot
              { st := (x.onSq k (fun q => { q with st := .active, heldBack := false })).qDel (sqObj k) })
            ∧ (q.st ≠ .disabled ∨ replaying x = true → Answers (.tfSqEnable t r) s r slot { st := x, status := mbxState }))
        ∧ (Takes t s r 0x0A0F x slot → r.body.length = 16 →
            let ep : QObj := .endpoint (BitVec.ofNat 32 q.eid)
            (q.st = .disabled → x.quiescing ep = false → Answers (.tfSqDestroy t r) s r slot
              { st := freeEndpoint (({ x with sto.queues := tdel x.sto.queues k }.qDel (sqObj k)).qDel ep) q.eid })
            ∧ (q.st ≠ .disabled ∨ x.quiescing ep = true → Answers (.tfSqDestroy t r) s r slot { st := x, status := mbxState })))

/-! ### Storage (08) -/

/-- Submissions (R194, R197, R198, R200): each row takes the submission of its opcode at the head of the queue's ring; a stopped queue
answers STO_QUEUE_STOPPED, one in ERROR STO_QUEUE_FROZEN to all but LOG and RESTART; a submission that its mapping refuses completes
with that status, and one that it admits waits in order of acceptance.
The error log and the ERROR state (R197, R199, R200): an entry carries the queue's next sequence number and the failed command; a
full log loses its oldest entry and marks the next; only an ACTIVE queue enters ERROR; RESTART leaves it and LOG does not change it.
Dispatch (R201, R203, R204, R206): a ready urgent queue of a permitted tenant function goes first, the tenant functions in rotation;
else the deficit of the current one and the weights of its classes decide; what the command then does.
States that each of these rows completes (exec answers a next state with the row's own effect): stoFlush, stoWrite, stoRead,
stoWriteZeroes, stoDeallocate, stoLog, stoRestartResume, stoRestartDiscard, stoDispatch.
The model's own choices it rests on: log 20, 43. -/
def Obligations.StorageCommandsFlow : Prop :=
  ((∀ (t : Nat) (s x : State) (tf : BitVec 12) (n : Fin 64) (q : StoQueue), x = s.advance t →
    let k := tf.toNat * 64 + n.val
    x.sq? k = some q →
    ∀ c ∈ [(Instr.stoFlush t tf n, 0, fun (_ : Bytes) => True), (.stoWrite t tf n, 1, fun _ => True), (.stoRead t tf n, 2, fun _ => True),
           (.stoWriteZeroes t tf n, 8, fun _ => True), (.stoDeallocate t tf n, 9, fun _ => True), (.stoLog t tf n, 0xC0, fun _ => True),
           (.stoRestartResume t tf n, 0xC1, fun m => beAt m 0x20 4 ≠ 1), (.stoRestartDiscard t tf n, 0xC1, fun m => beAt m 0x20 4 = 1)],
      (x.phase ≠ .running ∨ x.cfg.state ≠ .committed ∨ q.inbox = [] → Ends c.1 s x)
      ∧ (∀ slot m rest, x.phase = .running → x.cfg.state = .committed → q.inbox = (slot, m) :: rest →
          (beAt m 0 1 = c.2.1 → c.2.2 m →
            Ends c.1 s (sweepUnknown (acceptSub (x.onSq k (fun q => { q with inbox := rest })) k slot m) k))
          ∧ (¬ (beAt m 0 1 = c.2.1 ∧ c.2.2 m) → Ends c.1 s x)))
  ∧ (∀ (s : State) (k slot : Nat) (m : Bytes) (q : StoQueue), s.sq? k = some q →
      let c := parseSub q.nextNo slot m
      let log := c.op = 0xC0 ∨ c.op = 0xC1
      let y := s.onSq k (fun q => { q with nextNo := q.nextNo + 1 })
      let z := countStat (countStat y (stoBase + 0x100) 1) (objBase 4 k + 0x100) 1
      let st := mapStatus z (k / 64) c m
      (q.st = .quiescing ∨ q.st = .disabled → acceptSub s k slot m = refuseSub y k c 0x0881)
      ∧ (q.st = .error → ¬ log → acceptSub s k slot m = refuseSub y k c 0x0880)
      ∧ (q.st = .active ∨ (q.st = .error ∧ log) →
          (st = 0x0809 → acceptSub s k slot m = finishOffline z k c)
          ∧ (st ≠ 0 → st ≠ 0x0809 → acceptSub s k slot m = finishCmd z k c st 0)
          ∧ (st = 0 → c.op = 0xC0 → acceptSub s k slot m = serveLog z k c)
          ∧ (st = 0 → c.op = 0xC1 → acceptSub s k slot m = serveRestart z k c)
          ∧ (st = 0 → ¬ log → acceptSub s k slot m = z.onSq k (fun q => { q with cmds := q.cmds ++ [c] }))))
  ∧ (∀ (s : State) (k : Nat) (q : StoQueue) (c : StoCmd) (status : Nat), s.sq? k = some q → 1 ≤ q.coTime → q.coal.length + 1 < q.coCount →
      (s.tf (k / 64)).st ≠ .freezing →
      ∃ e : CoEnt, e.refused = true ∧ e.cmd = { c with data := [], parts := [] } ∧ e.at_ = s.clk.up
        ∧ refuseSub s k c status = (countStat s (objBase 4 k + 0x108) 1).onSq k (fun q => { q with coal := q.coal ++ [e] }))
  ∧ (∀ (s : State) (k : Nat) (c : StoCmd),
      (∀ e, (nsExtents s c.vns).find? (fun e => (s.drive e.rp).st != .online) = some e →
        finishOffline s k c = completeCmd s k c 0x0809 0 e.rp 0 0 [])
      ∧ ((∀ e ∈ nsExtents s c.vns, (s.drive e.rp).st = .online) → finishOffline s k c = completeCmd s k c 0x0809 0 0xFF 0 0 []))
  ∧ (∀ (s : State) (tf : Nat) (c : StoCmd) (m : Bytes), c.op ≠ 0xC0 → c.op ≠ 0xC1 →
      let blocks := c.op = 1 ∨ c.op = 2 ∨ c.op = 8 ∨ c.op = 9
      (subFormat c m = false → mapStatus s tf c m = 0x0801)
      ∧ (subFormat c m = true → nsAttach s c.vns tf = none ∨ nsExtents s c.vns = [] → mapStatus s tf c m = 0x0802)
      ∧ (∀ rw, subFormat c m = true → nsAttach s c.vns tf = some rw → nsExtents s c.vns ≠ [] →
          (blocks → ((nsExtents s c.vns).map Extent.count).sum < c.lba + c.blocks → mapStatus s tf c m = 0x0803)
          ∧ ((blocks → c.lba + c.blocks ≤ ((nsExtents s c.vns).map Extent.count).sum) →
              (blocks → c.op ≠ 2 → rw = false → mapStatus s tf c m = 0x0804)
              ∧ (rw = true ∨ c.op = 2 ∨ ¬ blocks → mapStatus s tf c m = if nsOffline s c.vns = true then 0x0809 else 0)))))
  ∧ ((∀ (s : State) (k : Nat) (q : StoQueue) (c : StoCmd) (status nvme rp info : Nat) (lost : Bool), s.sq? k = some q →
    let e : LogEnt := { seq := q.logSeq, cmdId := c.cmdId, op := c.op, flags := if lost then 2 else 0, status := status, nvme := nvme
                        rp := rp, vns := c.vns, blocks := c.blocks, lba := c.lba, info := info, at_ := time80 s.ns }
    ∃ l : List LogEnt, (logError s k c status nvme rp info lost).sq? k = some { q with log := l, logSeq := (q.logSeq + 1) % 2 ^ 32 }
      ∧ (q.log.length < 16 → l = q.log ++ [e])
      ∧ (∀ a b rest, 16 ≤ q.log.length → q.log = a :: b :: rest → l = { b with flags := b.flags ||| 1 } :: rest ++ [e]))
  ∧ (∀ (s : State) (k : Nat) (q : StoQueue), s.sq? k = some q →
      (q.st = .active → (sqError s k).sq? k = some { q with st := .error })
      ∧ (q.st ≠ .active → (sqError s k).sq? k = some q))
  ∧ (∀ st : Nat, stoFreezes st = true ↔ 0x0801 ≤ st ∧ st ≤ 0x080B)
  ∧ (∀ (s : State) (k : Nat) (q : StoQueue) (c : StoCmd), s.sq? k = some q →
      let held := q.cmds.filter (fun y => y.ph == .waiting)
      let y := s.onSq k (fun q => { q with st := .active })
      (q.st ≠ .error → serveRestart s k c = finishCmd s k c 0x0801 0)
      ∧ (q.st = .error → c.arg = 0 → serveRestart s k c = completeCmd y k c 0 0 0xFF 0 held.length [])
      ∧ (q.st = .error → c.arg = 1 →
          serveRestart s k c = completeCmd (held.foldl (fun s h => finishCmd s k h 0x0882 0) y) k c 0 0 0xFF 0 held.length [])
      ∧ (c.flags.testBit 2 = false → serveLog s k c = completeCmd s k c 0 0 0xFF 0 q.log.length (q.log.flatMap LogEnt.bytes))))
  ∧ ((∀ (t : Nat) (s x : State), x = s.advance t →
    let us := readyTfs x (· == 0)
    let cur := x.sto.curTf
    (x.phase ≠ .running ∨ x.cfg.state ≠ .committed → Ends (.stoDispatch t) s x)
    ∧ (x.phase = .running → x.cfg.state = .committed →
        (∀ u q, nextAfter us x.sto.lastUrgentTf = some u → nextAfter (readyQueues x u 0) (x.arb u).lastUrgent = some q →
          Ends (.stoDispatch t) s
            (issueHead { (x.onArb u (fun a => { a with lastUrgent := q })) with sto.lastUrgentTf := u } (u * 64 + q)))
        ∧ (∀ q y, us = [] → readyQueues x cur 1 ++ readyQueues x cur 2 ++ readyQueues x cur 3 ≠ [] → 1 ≤ (x.arb cur).deficit →
            stoClassPick cur 7 x = some (q, y) →
            Ends (.stoDispatch t) s (issueHead (y.onArb cur (fun a => { a with deficit := a.deficit - 1 })) (cur * 64 + q)))))
  ∧ (∀ (l : List Nat) (a b : Nat), nextAfter l a = some b → b ∈ l ∧ (a < b ∨ ∀ y ∈ l, y ≤ a))
  ∧ (∀ (s : State) (tf fuel q : Nat),
      let a := s.arb tf
      let rs := readyQueues s tf (a.cls + 1)
      rs ≠ [] → a.taken.getD a.cls 0 ≠ stoClassWeight s tf a.cls → nextAfter rs (a.last.getD a.cls 63) = some q →
        stoClassPick tf (fuel + 1) s = some (q, s.onArb tf (fun a => { a with taken := a.taken.set a.cls (a.taken.getD a.cls 0 + 1), last := a.last.set a.cls q })))
  ∧ (∀ (s : State) (k : Nat) (c : StoCmd),
      let ps := piecesFor s c.vns c.lba c.blocks
      let used := cacheTouch s c.vns c.lba c.blocks
      (nsOffline s c.vns = true → issueCmd s k c = finishOffline s k c)
      ∧ (nsOffline s c.vns = false →
          (∀ d, c.op = 2 → hbmRange s c.vns c.lba c.blocks = some d →
            (cacheHolds s c.vns c.lba c.blocks = true → issueCmd s k c = sendReadData (countStat used (stoBase + 0x118) 1) k c d)
            ∧ (cacheHolds s c.vns c.lba c.blocks = false → issueCmd s k c = sendReadData used k c d))
          ∧ (c.op = 2 → hbmRange s c.vns c.lba c.blocks = none → issueCmd s k c = issuePieces s k c ps)
          ∧ (c.op = 8 ∨ c.op = 9 → issueCmd s k c = issuePieces s k c ps)
          ∧ (c.op = 0 → issueCmd s k c = issuePieces s k c (flushPieces (nsExtents s c.vns) 0 []))
          ∧ (c.op = 1 → c.inline = true → nsJournal s c.vns = none ∨ 64 < c.blocks → issueCmd s k c = issuePieces s k c ps)
          ∧ (∀ j e, c.op = 1 → c.inline = true → c.blocks ≤ 64 → nsJournal s c.vns = some j → (s.journal j).waiters = [] →
              journalCfg s j = some e →
              ((s.drive e.rp).st ≠ .online → issueCmd s k c = completeCmd s k c 0x0807 0 e.rp 0 0 [])
              ∧ ((s.drive e.rp).st = .online → (s.journal j).used + c.blocks + 1 ≤ e.count - 2 → issueCmd s k c = writeRecord s j k c)))))

/-- The pieces of a block range over the extents in order (R203): they follow one another from the range's start, and when the extents
hold the range they cover it whole. -/
def Obligations.PiecesCoverRange : Prop :=
  ∀ (es : List Extent) (i lba n : Nat),
    let ps := piecesOf es i lba n 0
    (∀ p ∈ ps, 0 < p.blocks ∧ i ≤ p.ext ∧ p.ext < i + es.length ∧ p.off + p.blocks ≤ n)
    ∧ (lba + n ≤ (es.map Extent.count).sum → (ps.map Piece.blocks).sum = n)
    ∧ (∀ p ∈ ps, ∀ e, es[p.ext - i]? = some e → p.rp = e.rp ∧ p.nsid = e.nsid ∧ e.lba ≤ p.lba ∧ p.lba + p.blocks ≤ e.lba + e.count)

/-- What happens at a drive (R195, R207, R209, R213 to R216, R219): a completion by its status, the timeouts, bring-up, loss and
recovery, self-tests, the end of a firmware download, the checkpoint and the replay of a journal; each does nothing before it is
due.
States that each of these rows completes (exec answers a next state with the row's own effect): replayDone, nvmeCompletion,
coalesceTimeout, journalCheckpoint, driveTimeout, abortTimeout, driveFailure, driveLinkUp, driveLinkRetry, driveAdminCompletion,
selftestIdleStart, selftestTimeout, selftestResult, driveFwDone, selftestOverdue.
The model's own choices it rests on: log 20, 43. -/
def Obligations.DriveEvents : Prop :=
  ∀ (t : Nat) (s x : State) (rp j : Fin 16) (tf : BitVec 12) (n : Fin 64), x = s.advance t →
    let p := rp.val
    let d := x.drive p
    let up := x.clk.up
    let k := tf.toNat * 64 + n.val
    (∀ a : NvmeDone,
      (tget? d.cmds a.cid = none → Ends (.nvmeCompletion t rp a) s x)
      ∧ (∀ c, tget? d.cmds a.cid = some c →
          let y := x.onDrive p (fun z => { z with cmds := tdel z.cmds a.cid })
          let still : NvmeCmd := { c with abortAt := none }
          (a.abortOnly = true → Ends (.nvmeCompletion t rp a) s (x.onDrive p (fun z => { z with cmds := tset z.cmds a.cid still })))
          ∧ (a.abortOnly = false → a.aborted = true → Ends (.nvmeCompletion t rp a) s (nvmeEnd y p c { status := 0x0882, nvme := a.status.toNat, info := 0, data := [] }))
          ∧ (a.abortOnly = false → a.aborted = false → a.status = 0 → Ends (.nvmeCompletion t rp a) s
              (nvmeEnd y p c { status := 0, nvme := 0, info := 0, data := if c.op = 2 then padTo (c.blocks * 4096) a.data else [] }))
          ∧ (a.abortOnly = false → a.aborted = false → a.status ≠ 0 → a.media = false → Ends (.nvmeCompletion t rp a) s
              (nvmeEnd y p c { status := 0x0807, nvme := a.status.toNat, info := 0, data := [] }))
          ∧ (a.abortOnly = false → a.aborted = false → a.status ≠ 0 → a.media = true → Ends (.nvmeCompletion t rp a) s
              (nvmeEnd y p c { status := 0x0806, nvme := a.status.toNat, info := failingLba y c p a.failLba.toNat, data := [] }))))
    ∧ (∀ q e rest, x.sq? k = some q → q.coal = e :: rest →
        (e.at_ + q.coTime ≤ up → Ends (.coalesceTimeout t tf n) s (sendCoal x k)) ∧ (up < e.at_ + q.coTime → Ends (.coalesceTimeout t tf n) s x))
    ∧ (∀ q, x.sq? k = some q → q.coal = [] → Ends (.coalesceTimeout t tf n) s x)
    ∧ (let i := x.journal j.val
       let due := i.usable = true ∧ i.retired = true ∧ i.ckAt + 1000000 ≤ up
       (due → Ends (.journalCheckpoint t j) s (pumpWaiters j.val 65536 (checkpoint x j.val))) ∧ (¬ due → Ends (.journalCheckpoint t j) s x))
    ∧ (∀ e, journalCfg x j.val = some e →
        let i := x.journal j.val
        let ended (n : Nat) : Prop := i.replay = true ∧ (x.drive e.rp).st = .online ∧ (∃ z, i.scan = some z ∧ z.found = some n)
          ∧ homeGoing x j.val = false ∧ replayTurn x j.val [] i.recs = none
        (∀ n, ended n →
          let y := checkpoint (x.onJournal j.val (fun i => { i with usable := true, replay := false, scan := none })) j.val
          Ends (.replayDone t j) s (raise y 0x0901 j.val (encN n)))
        ∧ ((∀ n, ¬ ended n) → Ends (.replayDone t j) s x))
    ∧ (∀ cid c, tget? d.cmds cid = some c →
        let due := c.timedOut = none ∧ c.start + x.cfgN (itemId 9 2 3) p 0 8000000000 ≤ up
        (due → Ends (.driveTimeout t rp cid) s (countErr (x.onDrive p (fun z =>
          let c' := { c with abortAt := some up, timedOut := some up }
          { z with cmds := tset z.cmds cid c' })) (stoBase + 0x44)))
        ∧ (¬ due → Ends (.driveTimeout t rp cid) s x))
    ∧ ((∃ c ∈ d.cmds, c.2.abortAt.isSome = true ∧ ∃ a, c.2.timedOut = some a ∧ a + 1000000000 ≤ up) →
        Ends (.abortTimeout t rp) s (resetDrive x p))
    ∧ ((∀ c ∈ d.cmds, c.2.abortAt.isSome = true → ∀ a, c.2.timedOut = some a → up < a + 1000000000) → Ends (.abortTimeout t rp) s x)
    ∧ (∀ how,
        let gone := how = DriveLoss.removed ∨ how = .linkLost
        let takes := d.st = .online ∨ d.st = .init ∨ d.st = .resetting ∨ (d.st = .failed ∧ gone)
        let fatal := how = DriveLoss.aerFatal ∨ how = DriveLoss.cfs
        let down (st : DrvState) : State := x.onDrive p (fun z =>
          { z with st := st, step := 0, admin := [], aer := false, test := none, linkTry := up })
        let tell (y : State) : State := (nsOn y p).foldl (fun s v => raise s 0x0905 v []) (raise y 0x0904 p [])
        (takes → fatal → Ends (.driveFailure t rp how) s (tell (countErr (failDrive (startStep (down .resetting) p 4) p 0x0807) (stoBase + 0x48))))
        ∧ (takes → ¬ fatal → Ends (.driveFailure t rp how) s (tell (failDrive (down .absent) p 0x0807)))
        ∧ (¬ takes → Ends (.driveFailure t rp how) s x))
    ∧ (d.released = true → d.st = .absent →
        (x.clk.pcieOk = true → Ends (.driveLinkUp t rp) s (x.onDrive p (fun z =>
          { z with st := .init, step := 3, admin := [.configure], aer := false })))
        ∧ (d.linkTry + 1000000000 ≤ up → Ends (.driveLinkRetry t rp) s (x.onDrive p (fun z => { z with linkTry := up })))
        ∧ (up < d.linkTry + 1000000000 → Ends (.driveLinkRetry t rp) s x))
    ∧ (d.released = false ∨ d.st ≠ .absent → Ends (.driveLinkUp t rp) s x ∧ Ends (.driveLinkRetry t rp) s x)
    ∧ (∀ a : AdminDone, ((d.st ≠ .init ∧ d.st ≠ .resetting) ∨ d.admin = [] → Ends (.driveAdminCompletion t rp a) s x)
        ∧ (∀ c rest, d.st = .init ∨ d.st = .resetting → d.admin = c :: rest →
            let y := x.onDrive p (fun z => { noteAdmin c a z with admin := rest })
            let known := (y.drive p).badNs = false ∧ (declaredSerial y p = none ∨ declaredSerial y p = some (y.drive p).serial)
            let failed (y : State) : State := raise (y.onDrive p (fun z => { z with st := .failed, admin := [] })) 0x0904 p []
            (a.ok = false → Ends (.driveAdminCompletion t rp a) s (failed x))
            ∧ (a.ok = true → rest ≠ [] → Ends (.driveAdminCompletion t rp a) s y)
            ∧ (a.ok = true → rest = [] →
                (d.step = 3 → Ends (.driveAdminCompletion t rp a) s (startStep y p 4))
                ∧ (d.step = 4 → known → Ends (.driveAdminCompletion t rp a) s (startStep y p 6))
                ∧ (d.step = 4 → ¬ known → Ends (.driveAdminCompletion t rp a) s (failed y))
                ∧ (d.step ≠ 3 → d.step ≠ 4 → Ends (.driveAdminCompletion t rp a) s (driveOnline y p)))))
    ∧ (∀ e, d.st = .online → d.test = none → d.lastHost + x.cfgPart (itemId 9 2 4) p 0 2 100000000 ≤ up → dueTest x p = some e →
        let run : SelfTest := { ext := e, start := up }
        Ends (.selftestIdleStart t rp) s (x.onDrive p (fun z => { z with test := some run, again := none })))
    ∧ (d.test.isSome = true ∨ up < d.lastHost + x.cfgPart (itemId 9 2 4) p 0 2 100000000 ∨ dueTest x p = none → Ends (.selftestIdleStart t rp) s x)
    ∧ (∀ w, d.test = some w →
        (w.ext = false → w.start + 120000000000 ≤ up →
          Ends (.selftestTimeout t rp) s
            (testAborted (raise (x.onDrive p (fun z => { z with lastResult := testNotCompleted })) 0x0906 p (encN testNotCompleted)) p false))
        ∧ (w.ext = true ∨ up < w.start + 120000000000 → Ends (.selftestTimeout t rp) s x))
    ∧ (∀ result, (d.test = none → Ends (.selftestResult t rp result) s x)
        ∧ (d.test.isSome = true → Ends (.selftestResult t rp result) s (testEnds x p (result % 16))))
    ∧ (let late (due k dflt : Nat) : Prop := due ≠ 0 ∧ due + x.cfgPart (itemId 9 2 4) p 0 k dflt ≤ up
       (d.overdueShort = false → late d.shortDue 0 86400000000000 →
         Ends (.selftestOverdue t rp) s (raise (x.onDrive p (fun z => { z with overdueShort := true })) 0x0907 p []))
       ∧ (d.overdueShort = true ∨ ¬ late d.shortDue 0 86400000000000 → d.overdueExt = false → late d.extDue 1 2592000000000000 →
           Ends (.selftestOverdue t rp) s (raise (x.onDrive p (fun z => { z with overdueExt := true })) 0x0907 p []))
       ∧ (d.overdueShort = true ∨ ¬ late d.shortDue 0 86400000000000 → d.overdueExt = true ∨ ¬ late d.extDue 1 2592000000000000 →
           Ends (.selftestOverdue t rp) s x))
    ∧ (∀ ok, (d.fw = true → Ends (.driveFwDone t rp ok) s (raise (x.onDrive p (fun z => { z with fw := false })) 0x0908 p (encN (if ok then 0 else 7))))
        ∧ (d.fw = false → Ends (.driveFwDone t rp ok) s x))

/-- The drive and namespace commands (R219).
States that each of these rows completes (exec answers a next state with the row's own effect): stoDriveStatus, stoSelftest,
stoDriveFw, stoNsOnline.
The model's own choices it rests on: log 25. -/
def Obligations.DriveCommands : Prop :=
  ∀ (t : Nat) (s x : State) (r : Req) (slot : Option Nat),
    let p := num r 0
    let d := x.drive p
    (p < rootPorts x →
      (Takes t s r 0x0903 x slot → r.body.length = 8 →
        let rate := x.draw (linkRates x p)
        let width := rate.2.draw (Nat.log2 (driveLanes x) + 1)
        let smart := width.2.draw (2 ^ 64)
        let link := if d.st = .absent then [0, 0] else [rate.1 + 1, 2 ^ width.1]
        Answers (.stoDriveStatus t r) s r slot
          { st := smart.2
            out := encNs ([d.st.code] ++ link ++ [d.lastResult]) ++ Config.driveIdentity d.serial ++ Config.driveSmart d.serial smart.1 })
      ∧ (Takes t s r 0x0904 x slot → r.body.length = 16 → num r 1 < 2 →
          (d.st ≠ .online → Answers (.stoSelftest t r) s r slot { st := x, status := mbxState })
          ∧ (d.st = .online → d.test.isSome = true → Answers (.stoSelftest t r) s r slot { st := x, status := mbxBusy })
          ∧ (d.st = .online → d.test = none →
              let run : SelfTest := { ext := num r 1 == 1, start := x.clk.up }
              Answers (.stoSelftest t r) s r slot { st := x.onDrive p (fun z => { z with test := some run, again := none }) }))
      ∧ (Takes t s r 0x0905 x slot → 8 < r.body.length →
          (d.fw = true → Answers (.stoDriveFw t r) s r slot { st := x, status := mbxBusy })
          ∧ (d.fw = false → d.st ≠ .online ∨ driveInUse x p = true → Answers (.stoDriveFw t r) s r slot { st := x, status := mbxState })
          ∧ (d.fw = false → d.st = .online → driveInUse x p = false →
              Answers (.stoDriveFw t r) s r slot { st := x.onDrive p (fun z => { z with fw := true }) })))
    ∧ (rootPorts x ≤ p → ∀ c ∈ [(0x0903, Instr.stoDriveStatus t r, 8), (0x0904, .stoSelftest t r, 16)],
        Takes t s r c.1 x slot → r.body.length = c.2.2 → Answers c.2.1 s r slot { st := x, status := mbxInvalid, arg := 1 })
    ∧ (Takes t s r 0x0906 x slot → r.body.length = 8 → nsExtents x p ≠ [] →
        let ready := (∀ e ∈ nsExtents x p, (x.drive e.rp).st = .online)
          ∧ ∀ j e, nsJournal x p = some j → journalCfg x j = some e → (x.drive e.rp).st = .online
        (¬ ready → Answers (.stoNsOnline t r) s r slot { st := x, status := mbxState })
        ∧ (∀ j, ready → nsJournal x p = some j → (x.journal j).usable = false → (x.journal j).replay = false →
            Answers (.stoNsOnline t r) s r slot { st := freshJournal x j })
        ∧ (ready → nsJournal x p = none ∨ (∃ j, nsJournal x p = some j ∧ ((x.journal j).usable = true ∨ (x.journal j).replay = true)) →
            Answers (.stoNsOnline t r) s r slot { st := x }))

/-! ### Idori instructions (11). `x` is the state once the instruction has been issued. -/

/-- General registers and the pc (R277, R278, R268): g0 reads 0 and discards writes, a write leaves every other register and thread
alone, and a thread that reaches a breakpoint stops there with an event.
What a thread may load and store (R280): its core's scratch, its Stall's memory without the top 1 MiB, and of Market memory and
HBM the allocation of its tenant function, TF0's being the tenant share, with the packet buffers that function holds.
Branches, jumps and fences (R284, R286, R283): a target is the branch's own address plus 4 times the signed offset; JAL and JALR
save the address after them, and JALR reads its base before it writes rd and clears bits [1:0]. What a thread's fetch finds is as it
was before the thread's own stores, until an IFENCE.
States that each of these rows completes (exec answers a next state with the row's own effect): beq, bne, blt, bge, bltu, bgeu, j,
jal, jalr, fence, ifence.
The model's own choices it rests on: log 13, 56, 64. -/
def Obligations.IdoriRegisters : Prop :=
  (∀ (s : State) (i : Tid) (pc v : Word64) (r : Reg),
    s.greg i 0 = 0 ∧ (s.setReg i 0 v).greg i = s.greg i ∧ (r ≠ 0 → (s.setReg i r v).greg i r = v)
    ∧ (∀ r', r' ≠ r → (s.setReg i r v).greg i r' = s.greg i r') ∧ ((s.setReg i r v).thr i).pc = (s.thr i).pc
    ∧ (∀ i', i' ≠ i → (s.setReg i r v).thr i' = s.thr i')
    ∧ retire s i = s.setPc i ((s.thr i).pc + 4)
    ∧ (let c := s.role i.stall.val i.role.val
       let x := s.onThr i (fun t => { t with pc := pc })
       ((s.thr i).st ≠ .ready ∨ (∀ b ∈ c.bps, b.2 ≠ pc) → s.setPc i pc = x)
       ∧ ((s.thr i).st = .ready → (∃ b ∈ c.bps, b.2 = pc) →
           s.setPc i pc = pumpEvents (raise ((quietKeep x i.stall.val i.role.val).onThr i (fun t => { t with st := .stopped, prev := .ready }))
             0x0B05 (i.stall.val * 16 + i.role.val) (encN i.thread.val ++ encN pc.toNat)))))
  ∧ (∀ (s : State) (i : Tid) (a n : Nat), 0 < n →
    let tf := (s.thr i).tf
    let share (alloc : Nat × Nat) (share0 : Nat × Nat) : Prop :=
      if tf = 0 then share0.1 ≤ a ∧ a + n ≤ share0.2 else alloc.1 ≤ a ∧ a + n ≤ alloc.1 + alloc.2
    (a + n ≤ 0x20000 → window s i a n = some (scratchBase i.stall.val i.role.val + a))
    ∧ (0x10000000 ≤ a → a + n ≤ 0x10300000 → window s i a n = some (stallMemBase i.stall.val + (a - 0x10000000)))
    ∧ (marketBase ≤ a → a + n ≤ marketBase + marketSize →
        let mine := share (s.tf tf).mkt (marketShare s) ∨ (∃ p ∈ s.mem.bufs, p.2.tf = tf ∧ p.1 ≤ a ∧ a + n ≤ p.1 + (p.2.cap + 255) / 256 * 256)
        (mine → window s i a n = some a) ∧ (¬ mine → window s i a n = none))
    ∧ (hbmBase ≤ a → a + n ≤ hbmBase + hbmSize →
        (share (s.tf tf).hbm (hbmShare s) → window s i a n = some a) ∧ (¬ share (s.tf tf).hbm (hbmShare s) → window s i a n = none))
    ∧ (¬ a + n ≤ 0x20000 → ¬ (0x10000000 ≤ a ∧ a + n ≤ 0x10300000) → ¬ (marketBase ≤ a ∧ a + n ≤ marketBase + marketSize) →
        ¬ (hbmBase ≤ a ∧ a + n ≤ hbmBase + hbmSize) → window s i a n = none))
  ∧ (∀ (s x : State) (i : Tid) (rd ra rb : Reg) (off imm : Word16) (far : BitVec 26), Issues i s x →
    let a := x.greg i ra
    let b := x.greg i rb
    let pc := (x.thr i).pc
    (∀ c ∈ [(Instr.beq i ra rb off, a = b), (.bne i ra rb off, a ≠ b), (.blt i ra rb off, a.toInt < b.toInt), (.bge i ra rb off, b.toInt ≤ a.toInt),
            (.bltu i ra rb off, a.toNat < b.toNat), (.bgeu i ra rb off, b.toNat ≤ a.toNat)],
        (c.2 → exec c.1 s = .next (x.setPc i (pc + 4 * off.signExtend 64))) ∧ (¬ c.2 → exec c.1 s = .next (retire x i)))
    ∧ exec (.j i far) s = .next (x.setPc i (pc + 4 * far.signExtend 64))
    ∧ exec (.jal i far) s = .next ((x.setReg i 31 (pc + 4)).setPc i (pc + 4 * far.signExtend 64))
    ∧ exec (.jalr i rd ra imm) s = .next ((x.setReg i rd (pc + 4)).setPc i ((a + imm.signExtend 64) &&& ~~~ 3#64))
    ∧ exec (.fence i) s = .next (retire x i)
    ∧ exec (.ifence i) s = .next (retire (x.onThr i (fun t => { t with unfenced := [] })) i))
  ∧ (∀ (s : State) (i : Tid) (x k : Nat) (v : Bytes),
      let y := keepFetched s i x v.length
      let found (s : State) (a : Nat) : Byte := (tget? (s.thr i).unfenced a).getD ((s.peek a 1).headD 0)
      (y.mem = s.mem) ∧ (∀ i', i' ≠ i → y.thr i' = s.thr i') ∧ found (y.poke x v) k = found s k)

/-- Arithmetic, shifts and moves (R286 to R288): each writes one value to rd and retires. A shift counts bits [5:0] alone; division
by 0 gives all ones and the dividend; SHI kind 3 is illegal. A thread that may not issue changes nothing; one whose pc lies outside
scratch and Stall memory, is no multiple of 4 or stands at a poisoned word faults, and so does one that fetches a word with no row in
the instruction table.
States that each of these rows completes (exec answers a next state with the row's own effect): add, sub, and, or, xor, sll, srl,
sra, slt, sltu, mul, mulhu, divu, remu, addi, andi, ori, xori, shi, slti, sltiu, movk, movz.
The model's own choices it rests on: log 13, 76. -/
def Obligations.IdoriArithmetic : Prop :=
  ∀ (s x : State) (i : Tid) (rd ra rb : Reg) (imm : Word16),
    let a := x.greg i ra
    let b := x.greg i rb
    let cs : List (Instr × Word64) :=
      [(.add i rd ra rb, a + b), (.sub i rd ra rb, a - b), (.and i rd ra rb, a &&& b), (.or i rd ra rb, a ||| b), (.xor i rd ra rb, a ^^^ b),
       (.sll i rd ra rb, a <<< (b.toNat % 64)), (.srl i rd ra rb, a >>> (b.toNat % 64)), (.sra i rd ra rb, a.sshiftRight (b.toNat % 64)),
       (.slt i rd ra rb, if a.toInt < b.toInt then 1 else 0), (.sltu i rd ra rb, if a.toNat < b.toNat then 1 else 0),
       (.mul i rd ra rb, a * b), (.mulhu i rd ra rb, BitVec.ofNat 64 (a.toNat * b.toNat / 2 ^ 64)),
       (.divu i rd ra rb, if b = 0 then 0xFFFFFFFFFFFFFFFF#64 else a / b), (.remu i rd ra rb, if b = 0 then a else a % b),
       (.addi i rd ra imm, a + imm.signExtend 64), (.andi i rd ra imm, a &&& imm.setWidth 64), (.ori i rd ra imm, a ||| imm.setWidth 64),
       (.xori i rd ra imm, a ^^^ imm.setWidth 64), (.slti i rd ra imm, if a.toInt < imm.toInt then 1 else 0),
       (.sltiu i rd ra imm, if a.toNat < (imm.signExtend 64).toNat then 1 else 0)]
    (Issues i s x → ∀ c ∈ cs, exec c.1 s = .next (retire (x.setReg i rd c.2) i))
    ∧ (canIssue s i = false → ∀ c ∈ cs, exec c.1 s = .next s)
    ∧ (canIssue s i = true →
        let y := noteIssue s i
        let pc := (y.thr i).pc.toNat
        (localWindow i pc 4 = none → ∀ c ∈ cs, exec c.1 s = .next (faultThread y i 0x0A03 pc))
        ∧ ((localWindow i pc 4).isSome = true → pc % 4 ≠ 0 → ∀ c ∈ cs, exec c.1 s = .next (faultThread y i 0x0A05 pc))
        ∧ (∀ m, localWindow i pc 4 = some m → pc % 4 = 0 → y.poisoned m 4 = true →
            ∀ c ∈ cs, exec c.1 s = .next (faultThread (countErr y (memBase + 0x60)) i 0x0A06 pc))
        ∧ (fetchFault y i = none → legalWord (y.fetched i) = false →
            ∀ c ∈ cs, exec c.1 s = .next (faultThread y i 0x0A01 (y.fetched i))))
    ∧ (Issues i s x → ∀ n : BitVec 6,
        exec (.shi i rd ra 0 n) s = .next (retire (x.setReg i rd (a <<< n.toNat)) i)
        ∧ exec (.shi i rd ra 1 n) s = .next (retire (x.setReg i rd (a >>> n.toNat)) i)
        ∧ exec (.shi i rd ra 2 n) s = .next (retire (x.setReg i rd (a.sshiftRight n.toNat)) i)
        ∧ exec (.shi i rd ra 3 n) s = .next (faultThread x i 0x0A01
            (5 * 2 ^ 26 + rd.toNat * 2 ^ 21 + ra.toNat * 2 ^ 16 + 3 * 64 + n.toNat)))
    ∧ (Issues i s x → ∀ k : BitVec 2, ∃ v w : Word64,
        exec (.movk i rd k imm) s = .next (retire (x.setReg i rd v) i) ∧ exec (.movz i rd k imm) s = .next (retire (x.setReg i rd w) i)
        ∧ ∀ j : Nat, j < 64 →
            let within := 16 * k.toNat ≤ j ∧ j < 16 * k.toNat + 16
            v.getLsbD j = (if within then imm.getLsbD (j - 16 * k.toNat) else (x.greg i rd).getLsbD j)
            ∧ w.getLsbD j = (if within then imm.getLsbD (j - 16 * k.toNat) else false))

/-- Bit fields, counts and checksums (R286 to R288), bit by bit. A field that passes bit 63 is illegal.
States that each of these rows completes (exec answers a next state with the row's own effect): extu, exts, ins, clz, popc, bswap,
crcc, crce, hmix.
The model's own choices it rests on: log 13. -/
def Obligations.IdoriBitFields : Prop :=
  ∀ (s x : State) (i : Tid) (rd ra rb : Reg) (pos len1 : BitVec 6) (ww : BitVec 2), Issues i s x →
    let a := x.greg i ra
    let b := x.greg i rb
    let p := pos.toNat
    let n := len1.toNat + 1
    (p + n ≤ 64 → ∃ u v w : Word64,
      exec (.extu i rd ra pos len1) s = .next (retire (x.setReg i rd u) i)
      ∧ exec (.exts i rd ra pos len1) s = .next (retire (x.setReg i rd v) i)
      ∧ exec (.ins i rd ra pos len1) s = .next (retire (x.setReg i rd w) i)
      ∧ ∀ j : Nat, j < 64 →
          u.getLsbD j = (decide (j < n) && a.getLsbD (p + j)) ∧ v.getLsbD j = a.getLsbD (p + min j (n - 1))
          ∧ w.getLsbD j = (if p ≤ j ∧ j < p + n then a.getLsbD (j - p) else (x.greg i rd).getLsbD j))
    ∧ (64 < p + n → ∀ c ∈ [(Instr.extu i rd ra pos len1, 0), (.exts i rd ra pos len1, 1), (.ins i rd ra pos len1, 2)],
        exec c.1 s = .next (faultThread x i 0x0A01
          (0x30 * 2 ^ 26 + rd.toNat * 2 ^ 21 + ra.toNat * 2 ^ 16 + p * 2 ^ 10 + len1.toNat * 2 ^ 4 + c.2)))
    ∧ (∃ k : Nat, exec (.clz i rd ra) s = .next (retire (x.setReg i rd (BitVec.ofNat 64 k)) i)
        ∧ k ≤ 64 ∧ (∀ j, j < k → a.getLsbD (63 - j) = false) ∧ (k < 64 → a.getLsbD (63 - k) = true))
    ∧ exec (.popc i rd ra) s = .next (retire (x.setReg i rd (BitVec.ofNat 64 ((List.range 64).filter (fun j => a.getLsbD j)).length)) i)
    ∧ (∃ v : Word64, exec (.bswap i rd ra) s = .next (retire (x.setReg i rd v) i)
        ∧ ∀ j : Nat, j < 8 → v.extractLsb' (8 * j) 8 = a.extractLsb' (56 - 8 * j) 8)
    ∧ (let bit (p c : Word32) : Word32 := if c.getLsbD 0 then (c >>> 1) ^^^ p else c >>> 1
       let byte (p c : Word32) (d : Byte) : Word32 := (bit p)^[8] (c ^^^ d.setWidth 32)
       let bytes := (List.range (2 ^ ww.toNat)).map (fun k => b.extractLsb' (8 * k) 8)
       exec (.crcc i rd ra rb ww) s = .next (retire (x.setReg i rd ((bytes.foldl (byte 0x82F63B78#32) (a.setWidth 32)).setWidth 64)) i)
       ∧ exec (.crce i rd ra rb ww) s = .next (retire (x.setReg i rd ((bytes.foldl (byte 0xEDB88320#32) (a.setWidth 32)).setWidth 64)) i))
    ∧ (let y := a ^^^ b.rotateLeft 17
       let y := (y ^^^ (y >>> 31)) * 0x8E3B5C17A4D269F1#64
       let y := (y ^^^ (y >>> 29)) * 0xB7C42A95D06E3B1D#64
       exec (.hmix i rd ra rb) s = .next (retire (x.setReg i rd (y ^^^ (y >>> 32))) i))

/-- Loads, stores and atomics (R280, R282, R286, R289): what they read and write, the faults of a misaligned address, of one outside
the thread's windows, and of a poisoned word. A store changes only the bytes it names; one under a stale fencing generation, and one
of a core that has been declared dead, is discarded and counted (R34, R429).
States that each of these rows completes (exec answers a next state with the row's own effect): ld, lw, lh, lb, sd, sw, sh, sb,
aadd, aswp, acas, aand, aor.
The model's own choices it rests on: log 13. -/
def Obligations.IdoriMemory : Prop :=
  (∀ (s x : State) (i : Tid) (rd ra rb : Reg) (imm : Word16), Issues i s x →
    let ea := (x.greg i ra + imm.signExtend 64).toNat
    let loads : List (Instr × Nat) := [(.ld i rd ra imm, 8), (.lw i rd ra imm, 4), (.lh i rd ra imm, 2), (.lb i rd ra imm, 1)]
    let stores : List (Instr × Nat) := [(.sd i rd ra imm, 8), (.sw i rd ra imm, 4), (.sh i rd ra imm, 2), (.sb i rd ra imm, 1)]
    (∀ c ∈ loads, ∀ m, ea % c.2 = 0 → window x i ea c.2 = some m → x.poisoned m c.2 = false →
        exec c.1 s = .next (retire (x.setReg i rd (BitVec.ofNat 64 (ofLe (x.peek m c.2)))) i))
    ∧ (∀ c ∈ loads, ∀ m, ea % c.2 = 0 → window x i ea c.2 = some m → x.poisoned m c.2 = true →
        exec c.1 s = .next (faultThread (countErr x (memBase + 0x60)) i 0x0A06 ea))
    ∧ (∀ c ∈ stores, ∀ m p, ea % c.2 = 0 → window x i ea c.2 = some m → (x.role i.stall.val i.role.val).phys = some p →
        x.fenceOk (unitCore i.stall.val p) (.core i.stall.val i.role.val) = true →
        exec c.1 s = .next (retire ((keepFetched x i m c.2).poke m (leBytes c.2 (x.greg i rd).toNat)) i))
    ∧ (∀ c ∈ stores, ∀ m p, ea % c.2 = 0 → window x i ea c.2 = some m → (x.role i.stall.val i.role.val).phys = some p →
        x.fenceOk (unitCore i.stall.val p) (.core i.stall.val i.role.val) = false →
        exec c.1 s = .next (retire (fencedDiscard x (.core i.stall.val i.role.val) (x.heldGen (unitCore i.stall.val p))) i))
    ∧ (∀ c ∈ loads ++ stores,
        (ea % c.2 ≠ 0 → exec c.1 s = .next (faultThread x i 0x0A05 ea))
        ∧ (ea % c.2 = 0 → window x i ea c.2 = none → exec c.1 s = .next (faultThread x i 0x0A04 ea)))
    ∧ (let a := (x.greg i ra).toNat
       ∀ m p, a % 8 = 0 → inMarket a 8 = true → window x i a 8 = some m → x.poisoned m 8 = false →
        (x.role i.stall.val i.role.val).phys = some p → x.fenceOk (unitCore i.stall.val p) (.core i.stall.val i.role.val) = true →
          let old : Word64 := BitVec.ofNat 64 (ofLe (x.peek m 8))
          let v := x.greg i rb
          let set (w : Word64) : State := retire (((keepFetched x i m 8).poke m (leBytes 8 w.toNat)).setReg i rd old) i
          exec (.aadd i rd ra rb) s = .next (set (old + v)) ∧ exec (.aswp i rd ra rb) s = .next (set v)
          ∧ exec (.aand i rd ra rb) s = .next (set (old &&& v)) ∧ exec (.aor i rd ra rb) s = .next (set (old ||| v))
          ∧ (old = x.greg i rd → exec (.acas i rd ra rb) s = .next (set v))
          ∧ (old ≠ x.greg i rd → exec (.acas i rd ra rb) s = .next (retire (x.setReg i rd old) i)))
    ∧ (let a := (x.greg i ra).toNat
       ∀ c ∈ [Instr.aadd i rd ra rb, .aswp i rd ra rb, .acas i rd ra rb, .aand i rd ra rb, .aor i rd ra rb],
        (a % 8 ≠ 0 → exec c s = .next (faultThread x i 0x0A05 a))
        ∧ (a % 8 = 0 → inMarket a 8 = false → exec c s = .next (faultThread x i 0x0A07 a))
        ∧ (a % 8 = 0 → inMarket a 8 = true → window x i a 8 = none → exec c s = .next (faultThread x i 0x0A04 a))))
  ∧ (∀ (s : State) (i : Tid) (rd ra rb : Reg) (imm : Word16),
      let st := i.stall.val
      let r := i.role.val
      let dead := s.phase = .running ∧ (s.stall st).st ≠ .stopped ∧ (∃ p, (s.role st r).phys = some p) ∧ r ∈ (s.stall st).owed
        ∧ (s.thr i).enable = true ∧ (s.thr i).st = .ready
      dead → ∀ c ∈ [Instr.sd i rd ra imm, .sw i rd ra imm, .sh i rd ra imm, .sb i rd ra imm, .aadd i rd ra rb, .aswp i rd ra rb,
                    .acas i rd ra rb, .aand i rd ra rb, .aor i rd ra rb],
        exec c s = .next (pumpEvents (fencedDiscard s (.core st r) (s.heldGen (unitCore st ((s.role st r).phys.getD 0))))))
  ∧ (∀ (s : State) (a k : Nat) (v : Bytes),
      (s.poke a v).peek a v.length = v ∧ (k < a ∨ a + v.length ≤ k → (s.poke a v).peek k 1 = s.peek k 1))

/-- Channel writes (R257, R290, R291): a word staged, a message appended when its ring has room, the full and the empty status, the
65th word, the emptied slot; an endpoint not bound to the thread for writing faults.
States that each of these rows completes (exec answers a next state with the row's own effect): chw, chwe, chpush, chdrop.
The model's own choices it rests on: log 13, 56. -/
def Obligations.IdoriChannelWrites : Prop :=
  ∀ (s x : State) (i : Tid) (rd ra : Reg) (ep : BitVec 6), Issues i s x →
    let st := i.stall.val
    let r := i.role.val
    let g := x.stage i ep.toNat
    let ends (y : State) (status : Nat) : State := retire ((y.setReg i rd (BitVec.ofNat 64 status)).setCs i status) i
    (boundEp x i ep.toNat 2 = none → ∀ c ∈ [Instr.chw i rd ra ep, .chwe i rd ra ep, .chpush i rd ep, .chdrop i ep, .wspace i rd ep],
        exec c s = .next (faultThread x i 0x0A08 ep.toNat))
    ∧ (∀ c, boundEp x i ep.toNat 2 = some c →
        let staged : List Word64 := g.words ++ [x.greg i ra]
        let append (c1 : Instr) (w : List Word64) : Prop :=
          let y := x.onStage i ep.toNat { words := w, closed := true }
          (c / 1024 ≠ st → (y.stall (c / 1024)).st ≠ .running →
              exec c1 s = .next (faultThread (countErr y (stallBase (c / 1024) + 0x4C)) i 0x0A0A c))
          ∧ ((c / 1024 = st ∨ (y.stall (c / 1024)).st = .running) → y.fenceOk (unitCore st ((y.role st r).phys.getD 0)) (.core st r) = true →
              (w.length ≤ chanRoom y c →
                let m : ChMsg := { src := srcId i, words := w }
                let z := y.onChan c (fun q => { q with msgs := q.msgs ++ [m] })
                let z := countStat (countStat z (stallBase (c / 1024) + 0x180) 1) (stallBase (c / 1024) + 0x188) w.length
                let z := match readerOf z c with
                  | some q => quietReset z (c / 1024) q.1
                  | none => z
                exec c1 s = .next (ends (z.onStage i ep.toNat {}) 0))
              ∧ (chanRoom y c < w.length → exec c1 s = .next (ends y 1)))
        (g.closed = true → exec (.chw i rd ra ep) s = .next (ends x 1) ∧ exec (.chwe i rd ra ep) s = .next (ends x 1)
          ∧ append (.chpush i rd ep) g.words)
        ∧ (g.closed = false → g.words.length < 64 →
            exec (.chw i rd ra ep) s = .next (ends (x.onStage i ep.toNat { words := staged }) 0) ∧ append (.chwe i rd ra ep) staged)
        ∧ (g.closed = false → 64 ≤ g.words.length → ∀ c1 ∈ [Instr.chw i rd ra ep, .chwe i rd ra ep],
            exec c1 s = .next (faultThread (x.onStage i ep.toNat {}) i 0x0A09 ep.toNat))
        ∧ (g.closed = false → exec (.chpush i rd ep) s = .next (ends x 6))
        ∧ exec (.chdrop i ep) s = .next (retire ((x.onStage i ep.toNat {}).setCs i 0) i))

/-- Channel reads and ports (R259, R260, R290, R292, R293): what a read returns, and that one with nothing to return blocks the
thread; what ends the wait; the skip and the poll of a message.
States that each of these rows completes (exec answers a next state with the row's own effect): chr, chskip, chpoll, wtime, wsel,
wspace, blockedReadReturn, timerPortExpiry.
The model's own choices it rests on: log 13, 64. -/
def Obligations.IdoriChannelReads : Prop :=
  (∀ (s x : State) (i : Tid) (rd : Reg) (ep : BitVec 6), Issues i s x →
    let e := ep.toNat
    let returns (c : Instr) (w : Wait) : Prop :=
      (∀ v y, tryRead x i w = some (v, y) → exec c s = .next (settle (retire ((y.setReg i rd v).setCs i 0) i)))
      ∧ (tryRead x i w = none → (x.thr i).st ≠ .stopped →
          exec c s = .next (settle (x.onThr i (fun t => { t with st := .blocked, wait := some (w, rd.toNat) }))))
    (mayRead x i e = true → returns (.chr i rd ep) (.chan e)
      ∧ exec (.chpoll i rd ep) s = .next (retire ((x.setReg i rd (if holdsMsg x i e = true then 1 else 0)).setCs i 0) i)
      ∧ (∀ y, skipMsg x i e = some y →
          exec (.chskip i ep) s = .next (settle (retire ((y.onThr i (fun t => if t.srcEp = e then { t with left := 0 } else t)).setCs i 0) i)))
      ∧ (skipMsg x i e = none → exec (.chskip i ep) s = .next (retire (x.setCs i 6) i)))
    ∧ (mayRead x i e = false → ∀ c ∈ [Instr.chr i rd ep, .chpoll i rd ep, .chskip i ep], exec c s = .next (faultThread x i 0x0A08 e))
    ∧ returns (.wtime i rd) .timer
    ∧ ((x.thr i).sel ≠ 0 → returns (.wsel i rd) .select)
    ∧ ((x.thr i).sel = 0 → exec (.wsel i rd) s = .next (retire ((x.setReg i rd 0).setCs i 5) i))
    ∧ ((boundEp x i e 2).isSome = true → returns (.wspace i rd ep) (.space e)))
  ∧ (∀ (s : State) (i : Tid) (e c : Nat), e ≠ 63 → boundEp s i e 1 = some c →
      (mayRead s i e = true) ∧ ((s.chan c).msgs = [] → tryRead s i (.chan e) = none ∧ holdsMsg s i e = false)
      ∧ (∀ m rest, (s.chan c).msgs = m :: rest →
          let p := (s.chan c).pos
          holdsMsg s i e = true
          ∧ (p + 1 < m.words.length → p = 0 → tryRead s i (.chan e) = some (m.words.getD 0 0,
              (s.onChan c (fun z => { z with pos := 1 })).onThr i (fun t =>
                { t with len := m.words.length, left := m.words.length - 1, src := m.src, srcEp := e })))
          ∧ (p + 1 < m.words.length → p ≠ 0 → tryRead s i (.chan e) = some (m.words.getD p 0,
              (s.onChan c (fun z => { z with pos := p + 1 })).onThr i (fun t => if t.srcEp = e then { t with left := m.words.length - (p + 1) } else t)))
          ∧ (m.words.length = p + 1 → p ≠ 0 → tryRead s i (.chan e) = some (m.words.getD p 0,
              (popMsg s c).onThr i (fun t => if t.srcEp = e then { t with left := 0 } else t)))
          ∧ (p ≠ 0 → skipMsg s i e = some (popMsg s c)) ∧ (p = 0 → skipMsg s i e = none)))
  ∧ (∀ (s : State) (i : Tid),
      let now := s.ns / nsPerSec % 2 ^ 32
      let d := (s.thr i).timer.toNat
      let due := serialLater 32 now (d / 2 ^ 32) = true ∨ (now = d / 2 ^ 32 ∧ d % 2 ^ 32 ≤ s.ns % nsPerSec)
      (due → tryRead s i .timer = some (BitVec.ofNat 64 (s.ns % nsPerSec), s)) ∧ (¬ due → tryRead s i .timer = none))
  ∧ (∀ (s : State) (i : Tid) (k : Nat), k < 64 →
      (∀ v y, tryRead s i .select = some (v, y) → y = s ∧ v.getLsbD k = ((s.thr i).sel.getLsbD k && holdsMsg s i k))
      ∧ (tryRead s i .select = none → (s.thr i).sel.getLsbD k = true → holdsMsg s i k = false))
  ∧ (∀ (t : Nat) (s x : State) (i : Tid) (w : Wait) (rd : Nat), x = s.advance t → (x.thr i).wait = some (w, rd) → serves x i = true →
      let c : Instr := if w = .timer then .timerPortExpiry t i else .blockedReadReturn t i
      let other : Instr := if w = .timer then .blockedReadReturn t i else .timerPortExpiry t i
      Ends other s x ∧ (tryRead x i w = none → Ends c s x)
      ∧ (∀ v y, tryRead x i w = some (v, y) →
          let ended (y : State) : State := match (y.thr i).wait with
            | none => y
            | some q => retire (y.onThr i (fun t => { (t.setReg (BitVec.ofNat 5 q.2) v) with cs := 0, st := .ready, wait := none })) i
          (w = .timer ∨ (∃ e, w = .space e) → Ends c s (ended (quietReset y i.stall.val i.role.val)))
          ∧ (w ≠ .timer → (∀ e, w ≠ .space e) → Ends c s (ended y))))

/-- Status registers and supervision (R279, R294): MFS reads all sixteen, MTS writes s0, s4 and s5 and is illegal elsewhere; only t0
restarts a thread or reads its state, and only a faulted or killed thread is restarted.
States that each of these rows completes (exec answers a next state with the row's own effect): mfs, mts, trestart, tstate.
The model's own choices it rests on: log 13. -/
def Obligations.IdoriSupervision : Prop :=
  ∀ (s x : State) (i : Tid) (rd ra rb : Reg) (n : BitVec 4), Issues i s x →
    let st := i.stall.val
    let r := i.role.val
    let t := x.thr i
    let a := x.greg i ra
    let k := a.toNat % 8
    let u := x.thrAt st r k
    exec (.mfs i rd n) s = .next (retire (x.setReg i rd (readSr x i n.toNat)) i)
    ∧ readSr x i 0 = BitVec.ofNat 64 t.cs ∧ readSr x i 1 = BitVec.ofNat 64 (t.len + 256 * t.left)
    ∧ readSr x i 2 = BitVec.ofNat 64 (t.src + 65536 * t.srcEp)
    ∧ readSr x i 3 = BitVec.ofNat 64 ((if i.thread = 0 then 2 ^ 31 else 0) + (if t.high then 2 ^ 30 else 0) + t.tf * 2 ^ 16
        + st * 128 + r * 8 + i.thread.val)
    ∧ readSr x i 4 = t.sel ∧ readSr x i 5 = t.timer
    ∧ readSr x i 6 = BitVec.ofNat 64 ((x.clk.up - (x.role st r).started) * 12 / 5)
    ∧ readSr x i 7 = BitVec.ofNat 64 (x.ns / 1000000000 % 2 ^ 32 * 2 ^ 32 + x.ns % 1000000000)
    ∧ readSr x i 8 = t.lastId ∧ (∀ m, 9 ≤ m → readSr x i m = 0)
    ∧ exec (.mts i ra 0) s = .next (retire (x.onThr i (fun t => { t with cs := a.toNat % 16 })) i)
    ∧ (∃ m : Word64, exec (.mts i ra 4) s = .next (retire (x.onThr i (fun t => { t with sel := m })) i)
        ∧ ∀ e : Nat, e < 64 → m.getLsbD e = (a.getLsbD e && mayRead x i e))
    ∧ exec (.mts i ra 5) s = .next (retire (x.onThr i (fun t => { t with timer := a })) i)
    ∧ (n ≠ 0 → n ≠ 4 → n ≠ 5 → exec (.mts i ra n) s = .next (faultThread x i 0x0A01 (0x3B * 2 ^ 26 + ra.toNat * 2 ^ 16 + n.toNat)))
    ∧ (i.thread ≠ 0 →
        exec (.trestart i rd ra rb) s = .next (faultThread x i 0x0A02
          (0x3C * 2 ^ 26 + rd.toNat * 2 ^ 21 + ra.toNat * 2 ^ 16 + rb.toNat * 2 ^ 11))
        ∧ exec (.tstate i rd ra) s = .next (faultThread x i 0x0A02 (0x3C * 2 ^ 26 + rd.toNat * 2 ^ 21 + ra.toNat * 2 ^ 16 + 1)))
    ∧ (i.thread = 0 →
        (let code := match u.st with
          | .disabled => 0
          | .ready => 1
          | .blocked => 2
          | .stopped => 3
          | .faulted => 4
          | .killed => 5
         exec (.tstate i rd ra) s = .next (retire ((x.setReg i rd (BitVec.ofNat 64 code)).setCs i 0) i))
        ∧ (k = 0 ∨ (u.st ≠ .faulted ∧ u.st ≠ .killed) → exec (.trestart i rd ra rb) s = .next (retire (x.setCs i 4) i))
        ∧ (k ≠ 0 → u.st = .faulted ∨ u.st = .killed →
            let y := dropStages (unread x st r k) st r k
            let start (t : Thread) (pc g1 : Word64) : Thread :=
              { t with st := .ready, pc := pc, g := (Vector.replicate 32 0).set 1 g1, cs := 0, len := 0, left := 0, src := 0, srcEp := 0
                       sel := 0, timer := 0, lastId := 0, wait := none, unfenced := [] }
            let y := y.onThrAt st r k (fun t => if x.greg i rb = 0 then start t t.entry t.arg else start t (x.greg i rb) (x.greg i rd))
            exec (.trestart i rd ra rb) s = .next (retire ((reach y { i with thread := Fin.ofNat 8 k }).setCs i 0) i)))

/-- Device instructions (R295 to R297): submission of an EHT message, return of a receive-ring slot, injection of a frame and release
of a packet buffer, each with the conditions of its status or fault. A submission under a stale fencing generation, of a core declared
dead and through a quiesced endpoint completes with NAK_FENCED, which is counted (R189, R190); a message whose DATA is no longer its
tenant function's to read is one that a commit or a release ends (R296).
States that each of these rows completes (exec answers a next state with the row's own effect): ehtsub, slotret, finj, frel.
The model's own choices it rests on: log 13, 23, 24, 73, 75. -/
def Obligations.IdoriDevices : Prop :=
  ∀ (s x : State) (i : Tid) (rd ra rb : Reg), Issues i s x →
    let st := i.stall.val
    let r := i.role.val
    let tf := (x.thr i).tf
    let a := (x.greg i ra).toNat
    let ends (y : State) (status : Nat) : State := retire ((y.setReg i rd (BitVec.ofNat 64 status)).setCs i status) i
    (a % 64 ≠ 0 → exec (.ehtsub i rd ra) s = .next (faultThread x i 0x0A05 a))
    ∧ (a % 64 = 0 → localWindow i a 64 = none → exec (.ehtsub i rd ra) s = .next (faultThread x i 0x0A04 a))
    ∧ (∀ m, a % 64 = 0 → localWindow i a 64 = some m → x.poisoned m 64 = false →
        let d := parseDesc (x.peek m 64)
        (ownsEndpoint x tf d.eid = none ∨ d.ok x i = false → exec (.ehtsub i rd ra) s = .next (ends x 5))
        ∧ (∀ e, ownsEndpoint x tf d.eid = some e → d.ok x i = true →
            (chanRoom x d.chan < 4 ∨ 64 ≤ (x.role st r).subq.length → exec (.ehtsub i rd ra) s = .next (ends x 1))
            ∧ (4 ≤ chanRoom x d.chan → (x.role st r).subq.length < 64 →
                exec (.ehtsub i rd ra) s = .next (settle (ends (submitDesc x i d e) 0)))))
    ∧ (∀ e, ownsEndpoint x tf a = some e → slotHeld x a (x.greg i rb).toNat e = true →
        exec (.slotret i rd ra rb) s = .next (ends (freeSlots x a [(x.greg i rb).toNat]) 0))
    ∧ (ownsEndpoint x tf a = none ∨ (∀ e, ownsEndpoint x tf a = some e → slotHeld x a (x.greg i rb).toNat e = false) →
        exec (.slotret i rd ra rb) s = .next (ends x 5))
    ∧ (holdsBuf x i a = true → exec (.frel i ra) s = .next (retire (abortUnreadable { x with mem.bufs := tdel x.mem.bufs a }) i))
    ∧ (holdsBuf x i a = false → exec (.frel i ra) s = .next (faultThread x i 0x0A0B a))
    ∧ (∀ m, a % 16 = 0 → window x i a 16 = some m → x.poisoned m 16 = false →
        let b := x.peek m 16
        let buf := leAt b 0 8
        let len := leAt b 8 2
        let pipe := leAt b 10 1
        let flags := leAt b 11 1
        let q := tget x.parse.inject pipe []
        let fields := 64 ≤ len ∧ len ≤ 9216 ∧ pipe ≤ 3 ∧ flags ≤ 1 ∧ zeroAt b 12 4 = true ∧ len ≤ (tget x.mem.bufs buf default).cap
        (holdsBuf x i buf = false → exec (.finj i rd ra) s = .next (faultThread x i 0x0A0B buf))
        ∧ (holdsBuf x i buf = true → ¬ fields → exec (.finj i rd ra) s = .next (ends x 5))
        ∧ (holdsBuf x i buf = true → fields → 32 ≤ q.length → exec (.finj i rd ra) s = .next (ends x 1))
        ∧ (holdsBuf x i buf = true → fields → q.length < 32 → x.fenceOk (unitCore st ((x.role st r).phys.getD 0)) (.core st r) = true →
            let f : PFrame := { frame := { bytes := x.peek buf len, cls := 0, inLp := none, tIn := x.ns, tInUp := x.clk.up, tf := tf }
                                src := 32, release := if flags = 1 then none else some buf, ver := x.parse.current, at_ := x.clk.up }
            let y := verInflight x x.parse.current (· + 1)
            exec (.finj i rd ra) s = .next (ends { y with parse.inject := tset x.parse.inject pipe (q ++ [f]) } 0)))
    ∧ (∀ m, goesOn s i = true → (s.greg i ra).toNat % 64 = 0 → localWindow i (s.greg i ra).toNat 64 = some m →
        let d := parseDesc (s.peek m 64)
        (∀ e, ownsEndpoint s (s.thr i).tf d.eid = some e → d.ok s i = true → 4 ≤ chanRoom s d.chan →
            exec (.ehtsub i rd ra) s = .next (settle (submitDesc s i d e)))
        ∧ (ownsEndpoint s (s.thr i).tf d.eid = none ∨ d.ok s i = false → exec (.ehtsub i rd ra) s = .next s))
    ∧ (∀ (z : State) (d : SubDesc) (e : Endpoint),
        let id := nextMsgId z d.eid
        let y := (reserveChan id.2 d.chan 4).onThr i (fun t => { t with lastId := BitVec.ofNat 64 id.1 })
        let m := d.msg y i id.1 e.gen
        let u := unitCore st ((y.role st r).phys.getD 0)
        (y.fenceOk u (.core st r) = false →
          submitDesc z i d e = completeOn (fencedDiscard (countErr y (ehtBase + 0x68)) (.core st r) (y.heldGen u)) d.chan 0x50 m 0)
        ∧ (y.fenceOk u (.core st r) = true → (y.tf e.tf).st = .enabled →
            (y.stopped (.endpoint (BitVec.ofNat 32 d.eid)) = true →
              submitDesc z i d e = completeOn (countErr y (ehtBase + 0x68)) d.chan 0x50 m 0)
            ∧ (y.stopped (.endpoint (BitVec.ofNat 32 d.eid)) = false → (bookOf y d.book (y.thr i).tf).isSome = true →
                submitDesc z i d e = launch (y.onRole st r (fun c => { c with subq := c.subq ++ [m] })))))
    ∧ (∀ (z : State) (m : OutMsg) (n : Nat), m.data = some n → m.state ≠ .drain →
        let w := (tget z.eht.eps (epKey z m.ep) default).tf
        let len := m.payload.length
        (inMarket n len = true → tfMarket z w n len = false → inHeldBuf z w n len = false → m.unreadable z = true)
        ∧ (inHbm n len = true → tfHbm z w n len = false → m.unreadable z = true)
        ∧ (inMarket n len = true → inHbm n len = false → tfMarket z w n len = true ∨ inHeldBuf z w n len = true → m.unreadable z = false))
    ∧ (∀ z : State, (∀ k ∈ z.eht.out, k.2.unreadable z = false) → (∀ k ∈ z.eht.waiting, k.2.unreadable z = false) →
        (∀ w ∈ z.ido.stalls, ∀ c ∈ w.2.cores, ∀ m ∈ c.2.subq, m.unreadable z = false) → abortUnreadable z = z)

/-- The quiet detector, spares and re-homing (R248, R266, R267, R274): the conditions under which each acts, and that it does nothing
otherwise. The fault endpoint (R263): a message joins its ring, where a thread has one FAULT or KILLED unread. The Clerk's queue
(R261): a buffer waits for room in its ring, and is dropped when the channel has lost its reader.
The commands of Stalls and of debug (R255, R268 to R272, R275, R277): STALL_START starts a STOPPED Stall and CORE_RESTART a filled
role of a RUNNING one; debug needs the owner policy, and each of its commands the thread state that it leaves.
States that each of these rows completes (exec answers a next state with the row's own effect): quietDetector, spareStart,
rehomeStart, stallStart, coreRestart, dbgStop, dbgResume, dbgStep, dbgKill, dbgBreak, dbgRead, dbgWrite.
The model's own choices it rests on: log 25, 26, 76. -/
def Obligations.StallRowsAndCommands : Prop :=
  (∀ (t : Nat) (s x : State) (stall : Fin 12) (role : Fin 16), x = s.advance t →
    let st := stall.val
    let r := role.val
    let c := x.role st r
    let w := x.stall st
    let on := c.threads.filter (fun t => t.2.enable)
    let fires := w.st ≠ .stopped ∧ c.phys.isSome = true ∧ r ∉ w.owed ∧ heldForTest x st r = false ∧ c.quietFired = false ∧ on ≠ []
      ∧ (∀ t ∈ on, t.2.st = .blocked ∨ t.2.st = .faulted ∨ t.2.st = .killed) ∧ quietThreshold x st ≤ c.quietCount x.clk.up
    (¬ fires → Ends (.quietDetector t stall role) s x)
    ∧ (fires → Ends (.quietDetector t stall role) s
        (tellQuiet (postFault (countErr (x.onRole st r (fun c => { c with quietFired := true })) (stallBase st + 0x44)) st r 2 0xFF 0x0A20 0
          (on.foldl (fun n t => n + 2 ^ t.1) 0)) st))
    ∧ (∀ y : State, (y.stall st).quietTold = false →
        (∀ c ∈ (y.stall st).cores, c.2.phys.isSome = true → c.2.quietFired = true ∨ ∀ t ∈ c.2.threads, t.2.enable = false) →
        tellQuiet y st = raise (y.onStall st (fun z => { z with quietTold := true })) 0x0B04 (st * 16) [])
    ∧ (r ∉ w.owed ∨ w.spares = [] → Ends (.spareStart t stall role) s x)
    ∧ (∀ p rest, r ∈ w.owed → w.spares = p :: rest →
        let y := x.onStall st (fun z => { z with spares := rest, spareUsed := true, owed := z.owed.filter (· != r) })
        let y := (y.onRole st r (fun c => { c with phys := some p })).fenceTake (unitCore st p) (.core st r)
        let y := if (y.stall st).st ≠ .stopped then startCore (y.onRole st r (fun c => { c with faults := [], faultPos := 0 })) st r else y
        Ends (.spareStart t stall role) s (raise y 0x0B01 (st * 16 + r) (encN r ++ encN (c.phys.getD 0x1F) ++ encN p)))
    ∧ (r ∉ w.owed ∨ w.spares ≠ [] → Ends (.rehomeStart t stall role) s x)
    ∧ (r ∈ w.owed → w.spares = [] →
        let m := rehome x st r
        let y := if (m.1.stall st).st ≠ .stopped then m.2.foldl (fun s m => startThread s st m.2.1 m.2.2) m.1 else m.1
        let z := tellMoves y st r m.2
        ((z.stall st).st = .stopped → Ends (.rehomeStart t stall role) s z)
        ∧ ((z.stall st).st ≠ .stopped → Ends (.rehomeStart t stall role) s (tellQuiet z st))))
  ∧ (∀ (s : State) (stall : Fin 12) (role : Fin 16) (kind thread code pc info : Nat),
      let st := stall.val
      let r := role.val
      let c := s.role st r
      let y := postFault s st r kind thread code pc info
      (s.thrAt st r 0).st ≠ .blocked → (s.thrAt st r 0).st ≠ .faulted → (s.thrAt st r 0).st ≠ .killed → kind ≠ 2 →
        ∃ m : FaultMsg, m.kind = kind ∧ m.thread = thread ∧ m.words.length = 5
          ∧ (y.role st r).faults = c.faultsBut kind thread ++ [m]
          ∧ (c.faultPos = 0 → kind % 2 = 1 → ∀ k ∈ c.faultsBut kind thread, ¬ (k.kind % 2 = 1 ∧ k.thread = thread))
          ∧ (∀ k ∈ c.faults, kind % 2 = 0 ∨ k.kind % 2 = 0 ∨ k.thread ≠ thread → k ∈ (y.role st r).faults))
  ∧ (∀ (s : State) (c tf : Nat),
      (readerOf s c = none → clerkDeliver s c tf = some (countErr s (stallBase (c / 1024) + 0x48)))
      ∧ ((readerOf s c).isSome = true → (s.stall (c / 1024)).st ≠ .running ∨ chanRoom s c < 6 → clerkDeliver s c tf = none)
      ∧ ((readerOf s c).isSome = true → (s.stall (c / 1024)).st = .running → 6 ≤ chanRoom s c →
          clerkDeliver s c tf = some (deliverBuf s 0x8003 c 0 0 tf 0 9216 0 [] [] 0)))
  ∧ (∀ (t : Nat) (s x : State) (r : Req) (slot : Option Nat),
    let st := num r 0
    let k := num r 1
    let role := x.role st k
    let y := abandonRole x st k
    let i : Tid := { stall := Fin.ofNat 12 st, role := Fin.ofNat 16 k, thread := Fin.ofNat 8 (num r 2) }
    let dbg := x.boot.policy.testBit 0 = true
    let named := st < 12 ∧ k < 16 ∧ role.phys.isSome = true
    (Takes t s r 0x0B01 x slot → r.body.length = 8 → st < 12 →
      ((x.stall st).st = .stopped → Answers (.stallStart t r) s r slot { st := startStall x st })
      ∧ ((x.stall st).st ≠ .stopped → Answers (.stallStart t r) s r slot { st := x, status := mbxState }))
    ∧ (Takes t s r 0x0B03 x slot → r.body.length = 16 → named →
        ((x.stall st).st = .running → Answers (.coreRestart t r) s r slot { st := startCore y st k })
        ∧ ((x.stall st).st ≠ .running → Answers (.coreRestart t r) s r slot { st := x, status := mbxState }))
    ∧ (∀ c ∈ [(0x0B04, Instr.dbgStop t r), (0x0B05, .dbgResume t r), (0x0B06, .dbgStep t r), (0x0B07, .dbgKill t r), (0x0B08, .dbgBreak t r),
              (0x0B09, .dbgRead t r), (0x0B0A, .dbgWrite t r)],
        Takes t s r c.1 x slot → ¬ dbg → Answers c.2 s r slot { st := x, status := mbxAuth })
    ∧ (dbg → named → num r 2 < 8 → r.body.length = 24 →
        let u := y.thr i
        (Takes t s r 0x0B04 x slot → u.enable = true → u.st = .ready ∨ u.st = .blocked →
          Answers (.dbgStop t r) s r slot { st := (quietKeep y st k).onThr i (fun t => { t with st := .stopped, prev := t.st }) })
        ∧ (Takes t s r 0x0B05 x slot → u.enable = true → u.st = .stopped →
            Answers (.dbgResume t r) s r slot { st := (quietKeep y st k).onThr i (fun t => { t with st := t.prev }) })
        ∧ (Takes t s r 0x0B06 x slot → u.st = .stopped →
            Answers (.dbgStep t r) s r slot { st := stepThread y i, out := encN ((stepThread y i).thr i).cs })
        ∧ (Takes t s r 0x0B06 x slot → u.st ≠ .stopped → Answers (.dbgStep t r) s r slot { st := y, status := mbxState })
        ∧ (Takes t s r 0x0B07 x slot → u.st ≠ .disabled → Answers (.dbgKill t r) s r slot { st := killThread y i }))
    ∧ (Takes t s r 0x0B08 x slot → dbg → named → r.body.length = 40 → num r 2 < 4 → num r 3 < 2 → num r 4 % 4 = 0 →
        let brk (b : Tab Word64) := if num r 3 = 1 then tset b (num r 2) (BitVec.ofNat 64 (num r 4)) else tdel b (num r 2)
        let z := y.onRole st k (fun c => { c with bps := brk c.bps })
        Answers (.dbgBreak t r) s r slot
          { st := (List.range 8).foldl (fun s n => reach s { stall := Fin.ofNat 12 st, role := Fin.ofNat 16 k, thread := Fin.ofNat 8 n }) z })
    ∧ (dbg → named → num r 2 < 8 → (y.thr i).st = .stopped →
        let a := num r 4
        let n := num r 5
        (Takes t s r 0x0B09 x slot → r.body.length = 48 →
          (num r 3 = 0 → 1 ≤ n → a + n ≤ 49 → Answers (.dbgRead t r) s r slot { st := y, out := (List.range n).flatMap (fun j =>
            leBytes 8 (if a + j < 32 then y.greg i (BitVec.ofNat 5 (a + j)) else if a + j < 48 then readSr y i (a + j - 32) else (y.thr i).pc).toNat) })
          ∧ (∀ m, num r 3 = 1 → 1 ≤ n → n ≤ 4096 → window y i a n = some m → Answers (.dbgRead t r) s r slot { st := y, out := y.peek m n }))
        ∧ (Takes t s r 0x0B0A x slot →
            (∀ m, num r 3 = 1 → 40 < r.body.length → r.body.length ≤ 4136 → window y i a (r.body.length - 40) = some m →
              Answers (.dbgWrite t r) s r slot { st := y.poke m (r.body.drop 40) })
            ∧ (num r 3 = 0 → r.body.length = 48 →
                let v : Word64 := BitVec.ofNat 64 (leAt (r.body.drop 40) 0 8)
                (1 ≤ a → a < 32 → Answers (.dbgWrite t r) s r slot { st := y.setReg i (BitVec.ofNat 5 a) v })
                ∧ (a = 48 → v.toNat % 4 = 0 → Answers (.dbgWrite t r) s r slot { st := y.onThr i (fun t => { t with pc := v }) })
                ∧ (a = 0 ∨ 48 < a ∨ (a = 48 ∧ v.toNat % 4 ≠ 0) →
                    Answers (.dbgWrite t r) s r slot { st := y, status := mbxInvalid, arg := 5 })))))

/-! ### Security engines and memories (12, 13) -/

/-- Job rings (R302, R306, R311): the ciphers and the hash engine each serve the rings in rotation; the engine notices PROD of a ring within R311's limits (the configuration of the ring comes with the
notice: the model's choice, log 44); each job row performs the ring's next descriptor when it is of its operation or of none, writes what the
job gives, then STATUS, then CONS, and counts it; a job that fails writes nothing but its status.
States that each of these rows completes (exec answers a next state with the row's own effect): jobRingNotice, gcmEncrypt,
gcmDecrypt, xtsEncrypt, xtsDecrypt, shake256.
The model's own choices it rests on: log 7, 44. -/
def Obligations.SecurityJobs : Prop :=
  (∀ (t : Nat) (s x : State) (tf : BitVec 12), x = s.advance t →
    let n := tf.toNat
    (∀ base count : Nat,
      (count ∈ (List.range 9).map (fun k => 2 ^ (k + 4)) → tfMarket x n base (64 + 64 * count) = true →
        Ends (.jobRingNotice t tf base count) s
          { x with sec.rings := tset x.sec.rings n { base := base, count := count, prod := leAt (x.peek base 8) 0 8 } })
      ∧ (count ∉ (List.range 9).map (fun k => 2 ^ (k + 4)) ∨ tfMarket x n base (64 + 64 * count) = false →
        Ends (.jobRingNotice t tf base count) s x))
    ∧ (tget? x.sec.rings n = none → ∀ c ∈ [Instr.gcmEncrypt t tf, .gcmDecrypt t tf, .xtsEncrypt t tf, .xtsDecrypt t tf, .shake256 t tf],
      Ends c s x)
    ∧ (∀ g, tget? x.sec.rings n = some g →
        (let cons := leAt (x.peek (g.base + 8) 8) 0 8
           let a := g.base + 64 + 64 * (cons % g.count)
           let d := x.peek a 64
           let o := leAt d 0 1
           ∀ c ∈ [(Instr.gcmEncrypt t tf, 1), (.gcmDecrypt t tf, 2), (.xtsEncrypt t tf, 3), (.xtsDecrypt t tf, 4), (.shake256 t tf, 5)],
            let mine := o = c.2 ∨ o = 0 ∨ 5 < o
            let hash := decide (c.2 = 5)
            (cons = g.prod ∨ ringIn x n g.base g.count = false ∨ ¬ mine ∨ jobTurn x hash ≠ some n → Ends c.1 s x)
            ∧ (cons ≠ g.prod → ringIn x n g.base g.count = true → mine → jobTurn x hash = some n →
                let x := if hash = true then { x with sec.lastHash := n } else { x with sec.lastCipher := n }
                let j := runJob x n d
                let ends (y : State) : State :=
                  ((countStat y (secBase + 0x100) 1).poke (a + 0x30) (leBytes 2 j.status)).poke (g.base + 8) (leBytes 8 (cons + 1))
                (∀ b v, j.status = 0 → o = 5 → j.writes = some (b, v) → Ends c.1 s (ends (x.poke b v)))
                ∧ (∀ b v, j.status = 0 → o ≠ 5 → j.writes = some (b, v) → Ends c.1 s (ends (noteUse (x.poke b v) (leAt d 2 2))))
                ∧ (j.status ≠ 0 → j.writes = none → Ends c.1 s
                    (ends (if j.status = mbxAuth then keyDenied (countErr x (secBase + 0x44)) else countErr x (secBase + 0x44))))))))
  ∧ (∀ (s : State) (hash : Bool),
      let last := if hash = true then s.sec.lastHash else s.sec.lastCipher
      let waits (tf : Nat) : Prop := ∃ g, (tf, g) ∈ s.sec.rings ∧ jobWaits s tf g hash = true
      (∀ tf, jobTurn s hash = some tf → waits tf) ∧ ((∃ tf, waits tf) → (jobTurn s hash).isSome = true)
      ∧ (∀ a, s.sec.rings.Pairwise (fun x y => x.1 < y.1) → waits a → last < a → (∀ c, waits c → last < c → a ≤ c) →
          jobTurn s hash = some a))
  ∧ (∀ (s : State) (tf : Nat) (d : Bytes),
      let op := leAt d 0 1
      let len := leAt d 0x18 4
      let aad := leAt d 0x1C 4
      let src := leAt d 8 8
      let dst := leAt d 0x10 8
      let key := (s.keySlot (leAt d 2 2)).key
      let refused (typ use : Nat) : Nat := match jobKey s tf (leAt d 2 2) (leAt d 4 4) typ use with
        | .inl _ => 0
        | .inr st => st
      (jobFields s tf d = false → runJob s tf d = { status := mbxInvalid })
      ∧ (jobFields s tf d = true →
          (op = 5 → runJob s tf d = { status := 0, writes := some (dst, Crypto.shake256 (s.peek src len)) })
          ∧ (op = 1 → refused 1 useGcmEnc = 0 →
              let e := Crypto.gcmEncrypt key (slice d 0x20 12) (s.peek src aad) (s.peek (src + aad) len)
              runJob s tf d = { status := 0, writes := some (dst, e.1 ++ e.2) })
          ∧ (op = 2 → refused 1 useGcmDec = 0 →
              runJob s tf d = match Crypto.gcmDecrypt key (slice d 0x20 12) (s.peek src aad) (s.peek (src + aad) len) (s.peek (src + aad + len) 16) with
                | some p => { status := 0, writes := some (dst, p) }
                | none => { status := mbxVerify })
          ∧ (op = 3 → refused 2 useXts = 0 → runJob s tf d = { status := 0, writes := some (dst, Crypto.xts false key (slice d 0x20 16) (s.peek src len)) })
          ∧ (op = 4 → refused 2 useXts = 0 → runJob s tf d = { status := 0, writes := some (dst, Crypto.xts true key (slice d 0x20 16) (s.peek src len)) })))
  ∧ (∀ (s : State) (tf slot check typ use : Nat),
      let k := s.keySlot slot
      (slotNameable slot = true → k.typ = 0 ∨ leAt k.id 0 4 ≠ check → jobKey s tf slot check typ use = .inr mbxState)
      ∧ (slotNameable slot = true → k.typ ≠ 0 → leAt k.id 0 4 = check →
          (k.typ ≠ typ ∨ k.owner ≠ tf ∨ k.usage.testBit use = false ∨ k.usage.testBit 9 = false → jobKey s tf slot check typ use = .inr mbxAuth)
          ∧ (k.typ = typ → k.owner = tf → k.usage.testBit use = true → k.usage.testBit 9 = true → jobKey s tf slot check typ use = .inl k)))

/-- Key slots (R303 to R309, R315): generation and import fill an EMPTY general slot, an export wraps an EXPORTABLE key, a slot in use
cannot be destroyed; no command leaves another slot changed.
States that each of these rows completes (exec answers a next state with the row's own effect): keyGenerate, keyImport, keyExport,
keyDestroy, keyQuery.
The model's own choices it rests on: log 25. -/
def Obligations.KeyCommands : Prop :=
  ∀ (t : Nat) (s x : State) (r : Req) (slot : Option Nat),
    let n := num r 0
    let k := x.keySlot n
    let general := 64 ≤ n ∧ n ≤ 8191
    (Takes t s r 0x0C01 x slot → r.body.length = 40 → 1 ≤ num r 1 → num r 1 ≤ 3 → num r 2 < 1024 → num r 3 < 4096 → num r 4 < 2 →
      (general → k.typ = 0 →
        let m := x.drawBytes ([0, 32, 64, 4032].getD (num r 1) 0)
        Answers (.keyGenerate t r) s r slot { st := m.2.setSlot n (newKey (num r 1) 2 (num r 2) (num r 3) (num r 4) m.1) })
      ∧ (slotNameable n = true → ¬ general ∨ k.typ ≠ 0 → Answers (.keyGenerate t r) s r slot { st := x, status := mbxState })
      ∧ (slotNameable n = false → Answers (.keyGenerate t r) s r slot { st := x, status := mbxInvalid, arg := 1 }))
    ∧ (let w := r.body.drop 16
       let typ := leAt w 4 1
       let kek := x.keySlot (num r 1)
       let formed := leAt w 0 4 = 0x4B574C41 ∧ 1 ≤ typ ∧ typ ≤ 4 ∧ zeroAt w 5 1 = true ∧ leAt w 6 2 < 1024 ∧ leAt w 8 2 < 2 ∧ zeroAt w 0xA 2 = true
       Takes t s r 0x0C02 x slot → 0x68 ≤ w.length → slotNameable n = true → formed →
        (¬ general ∨ k.typ ≠ 0 → typ = 4 ∨ slotNameable (num r 1) = true → Answers (.keyImport t r) s r slot { st := x, status := mbxState })
        ∧ (general → k.typ = 0 → typ ≠ 4 → slotNameable (num r 1) = true → w.length = 0x68 + [0, 32, 64, 4032, 1952].getD typ 0 →
            (kek.typ ≠ 1 ∨ kek.usage.testBit 4 = false → Answers (.keyImport t r) s r slot { st := keyDenied x, status := mbxAuth })
            ∧ (kek.typ = 1 → kek.usage.testBit 4 = true → kek.id ≠ slice w 0x18 32 → Answers (.keyImport t r) s r slot { st := x, status := mbxVerify })
            ∧ (∀ key, kek.typ = 1 → kek.usage.testBit 4 = true → kek.id = slice w 0x18 32 →
                Crypto.gcmDecrypt kek.key (slice w 0xC 12) (slice w 0 0x58) (w.drop 0x68) (slice w 0x58 16) = some key → keyId typ key = slice w 0x38 32 →
                Answers (.keyImport t r) s r slot { st := (noteUse x (num r 1)).setSlot n (newKey typ 3 (leAt w 6 2) 0 (leAt w 8 2) key) }))
        ∧ (general → k.typ = 0 → typ = 4 → zeroAt w 0x18 32 = true → w.length = 0x68 + 1952 → leAt w 6 2 = 256 →
            (keyId 4 (w.drop 0x68) = slice w 0x38 32 →
              Answers (.keyImport t r) s r slot { st := x.setSlot n (newKey 4 3 256 0 (leAt w 8 2) (w.drop 0x68)) })
            ∧ (keyId 4 (w.drop 0x68) ≠ slice w 0x38 32 → Answers (.keyImport t r) s r slot { st := x, status := mbxVerify })))
    ∧ (Takes t s r 0x0C03 x slot → r.body.length = 16 → slotNameable n = true → slotNameable (num r 1) = true →
        let kek := x.keySlot (num r 1)
        let may := k.flags.testBit 0 = true ∧ kek.typ = 1 ∧ kek.usage.testBit 3 = true
        (k.typ = 0 → Answers (.keyExport t r) s r slot { st := x, status := mbxState })
        ∧ (k.typ ≠ 0 → ¬ may → Answers (.keyExport t r) s r slot { st := keyDenied x, status := mbxAuth })
        ∧ (k.typ ≠ 0 → may →
            let iv := x.drawBytes 12
            Answers (.keyExport t r) s r slot { st := noteUse iv.2 (num r 1), out := wrapKey k kek iv.1 }))
    ∧ (Takes t s r 0x0C05 x slot → r.body.length = 8 → slotNameable n = true →
        (slotInPort x n = true ∨ slotInMove x n = true → Answers (.keyDestroy t r) s r slot { st := x, status := mbxState })
        ∧ (slotInPort x n = false → slotInMove x n = false → Answers (.keyDestroy t r) s r slot { st := { x with sec.slots := tdel x.sec.slots n } }))
    ∧ (Takes t s r 0x0C06 x slot → 1 ≤ n → n ≤ 64 → r.body.length = 8 * (n + 1) →
        let slots := (List.range n).map (fun j => num r (1 + j))
        ((∀ m ∈ slots, slotNameable m = true) → Answers (.keyQuery t r) s r slot { st := x, out := slots.flatMap (fun m => (x.keySlot m).bytes) }))
    ∧ (∀ (y : State) (a b : Nat) (v : KeySlot), (y.setSlot a v).keySlot a = v ∧ (b ≠ a → (y.setSlot a v).keySlot b = y.keySlot b)
        ∧ ({ y with sec.slots := tdel y.sec.slots a }).keySlot a = {})
    ∧ (∀ m : Nat, slotNameable m = true ↔ m ≤ 8191 ∧ m ≠ 1 ∧ (m < 4 ∨ 63 < m))

/-- Measurement and attestation (R312 to R315): an extension hashes the register's old value with the digest and is logged with its time
while the log has room; ATT_EXTEND reaches MR8 to MR15 alone; a quote is signed by slot 2 over every byte before the signature.
States that each of these rows completes (exec answers a next state with the row's own effect): attCert, attLog, attExtend,
attQuote.
The model's own choices it rests on: log 6, 25, 60. -/
def Obligations.AttestCommands : Prop :=
  (∀ (s : State) (i : Nat) (d : Bytes), i < s.sec.mrs.length →
    (extendMr s i d).sec.mrs = s.sec.mrs.set i (Crypto.shake256 (s.sec.mrs.getD i [] ++ d))
    ∧ (s.sec.mlog.length < 4096 → (extendMr s i d).sec.mlog = s.sec.mlog ++ [(i, d, time80 s.ns)] ∧ (extendMr s i d).sec.mlogOvf = s.sec.mlogOvf)
    ∧ (4096 ≤ s.sec.mlog.length → (extendMr s i d).sec.mlog = s.sec.mlog ∧ (extendMr s i d).sec.mlogOvf = true))
  ∧ (∀ (t : Nat) (s x : State) (r : Req) (slot : Option Nat),
      (Takes t s r 0x0C09 x slot → r.body.length = 40 →
        (8 ≤ num r 0 → num r 0 < 16 → Answers (.attExtend t r) s r slot { st := extendMr x (num r 0) (r.body.drop 8) })
        ∧ (num r 0 < 8 ∨ 16 ≤ num r 0 → Answers (.attExtend t r) s r slot { st := x, status := mbxInvalid, arg := 1 }))
      ∧ (Takes t s r 0x0C07 x slot → r.body = [] → Answers (.attCert t r) s r slot { st := x, out := Config.certificates })
      ∧ (Takes t s r 0x0C08 x slot → r.body = [] → Answers (.attLog t r) s r slot
          { st := x, out := encN (if x.sec.mlogOvf then 1 else 0) ++ x.sec.mlog.flatMap (fun e => encN e.1 ++ padTo 32 e.2.1 ++ leBytes 10 e.2.2) })
      ∧ (let mask := leAt r.body 32 8
         let regs := (List.range 16).filter (fun i => mask.testBit i)
         let b := leBytes 4 0x51544C41 ++ leBytes 2 1 ++ leBytes 2 mask ++ beBytes 8 x.fuses.serial.toNat ++ r.body.take 32
           ++ padTo 32 (x.keySlot 2).id ++ leBytes 8 x.cfg.counter ++ padTo 32 x.cfg.digest ++ leBytes 10 (time80 x.ns) ++ leBytes 2 0x0302
           ++ leBytes 4 (x.sec.mlog.length + if x.sec.mlogOvf then 2 ^ 31 else 0) ++ List.replicate 8 0 ++ regs.flatMap (fun i => x.sec.mrs.getD i [])
         Takes t s r 0x0C0A x slot → r.body.length = 40 →
          (mask < 65536 → Answers (.attQuote t r) s r slot
            { st := noteUse x 2, out := b ++ padTo 3309 (Config.mldsaSign (x.keySlot 2).key b) })
          ∧ (65536 ≤ mask → Answers (.attQuote t r) s r slot { st := x, status := mbxInvalid, arg := 2 })))

/-- Memory errors (R325, R326, R329): what a scrub read counts and leaves, the capture and its event while none is held, the poison of a
word, and the writes that clear it; what a bank declared dead answers is discarded and counted (R34); a fixed area is written anew.
States that each of these rows completes (exec answers a next state with the row's own effect): patrolScrub, fixedAreaRewrite.
The model's own choices it rests on: log 34, 35, 72. -/
def Obligations.MemoryErrors : Prop :=
  (∀ (t : Nat) (s x : State) (kind : MemKind) (unit role : Byte) (a : Word64) (found : EccFinding) (pass : Bool), x = s.advance t →
    let counted (y : State) : State := if pass = true then countStat y (memBase + 0x100) 1 else y
    let no := match kind with
      | .scratch => 0
      | .stall => 1
      | .market => 2
      | .hbm => 3
    let dead := staleBank x kind unit.toNat role.toNat
    (∀ b k, dead = some (b, k) → Ends (.patrolScrub t kind unit role a found pass) s (counted (fencedDiscard x (.bank k) (x.heldGen b))))
    ∧ (dead = none → wordAddr kind unit.toNat role.toNat a.toNat = none → Ends (.patrolScrub t kind unit role a found pass) s (counted x))
    ∧ (∀ w, dead = none → wordAddr kind unit.toNat role.toNat a.toNat = some w →
        (w / 8 ∈ x.mem.poison → Ends (.patrolScrub t kind unit role a found pass) s (counted (countErr x (memBase + 0x60))))
        ∧ (w / 8 ∉ x.mem.poison →
            (found = .clean → Ends (.patrolScrub t kind unit role a found pass) s (counted x))
            ∧ (found = .corrected → kind ≠ .hbm → Ends (.patrolScrub t kind unit role a found pass) s (counted (countErr x (memBase + 0x40 + 4 * no))))
            ∧ (found = .corrected → kind = .hbm →
                Ends (.patrolScrub t kind unit role a found pass) s (counted (rowCorrected (countErr x (memBase + 0x4C)) ((w - hbmBase) / 1024))))
            ∧ (found = .uncorrectable ∨ found = .uncorrectableBoth →
                let y := captureEcc (countErr (bringForward x kind unit.toNat role.toNat) (memBase + 0x50 + 4 * no)) kind unit.toNat role.toNat a.toNat
                let y := if kind = .hbm then recordRow y ((w - hbmBase) / 1024) else y
                let z := eccOutcome y w
                let other := (if w < hbmBase + 0x66000000 then w + 0x66000000 else w - 0x66000000) / 8
                (z.2 = true → Ends (.patrolScrub t kind unit role a found pass) s (counted { z.1 with mem.poison := w / 8 :: z.1.mem.poison }))
                ∧ (z.2 = false → found = .uncorrectable ∨ descriptorArea w = false →
                    Ends (.patrolScrub t kind unit role a found pass) s (counted z.1))
                ∧ (z.2 = false → found = .uncorrectableBoth → descriptorArea w = true →
                    Ends (.patrolScrub t kind unit role a found pass) s
                      (counted { z.1 with mem.poison := w / 8 :: other :: z.1.mem.poison.filter (· != other) }))))))
  ∧ (∀ (t : Nat) (s x : State) (a : Word64), x = s.advance t →
      (fixedArea a.toNat = true → Ends (.fixedAreaRewrite t a) s { x with mem.poison := x.mem.poison.filter (· ≠ a.toNat / 8) })
      ∧ (fixedArea a.toNat = false → Ends (.fixedAreaRewrite t a) s x))
  ∧ (∀ (s : State) (kind : MemKind) (unit role a : Nat),
      (s.mem.lastxValid = true → captureEcc s kind unit role a = s)
      ∧ (s.mem.lastxValid = false → ∃ info, captureEcc s kind unit role a
          = raise { s.noteFlag (memBase + 0x20) true with mem.lastxValid := true, mem.lastxAddr := a, mem.lastxInfo := info } 0x0104 0 []))
  ∧ (∀ (s : State) (kind : MemKind) (unit role b : Nat) (d : DeadUnit), tget? s.tsl.dead b = some d →
      (kind = .market ∧ unit < 132 ∧ b = unitMktBank unit →
        staleBank s kind unit role = if d.role = 0xFFFF ∨ s.fenceOk b (.bank (unitMktBank d.role)) = true then none else some (b, unitMktBank d.role))
      ∧ (kind = .stall ∧ role < 17 ∧ b = unitStallBank unit role →
        staleBank s kind unit role = if d.role = 0xFFFF ∨ s.fenceOk b (.bank (unitStallBank unit d.role)) = true then none
          else some (b, unitStallBank unit d.role)))
  ∧ (∀ (s : State) (row : Nat),
      let l := (tget s.mem.rowErr row []).filter (fun x => decide (s.clk.up < x + 86400000000000)) ++ [s.clk.up]
      (rowCorrected s row).mem.rowErr = tset s.mem.rowErr row l
        ∧ (l.length < 16 → (rowCorrected s row).mem.rowsBad = s.mem.rowsBad)
        ∧ (16 ≤ l.length → row ∈ (rowCorrected s row).mem.rowsBad))
  ∧ (∀ (s : State) (w : Nat) (v : Bytes), v.length = 8 → (s.poke (w * 8) v).poisoned (w * 8) 8 = false
      ∧ ∀ k, k ≠ w → (s.poke (w * 8) v).poisoned (k * 8) 8 = s.poisoned (k * 8) 8)

/-! ### Teasel (17) -/

/-- Tests and sweeps (R421 to R426, R428): what starts a sweep, whose turn a test is and what it starts with, what each run's verdict
leads to (a lost ROM word fails it, R81), the copies of a bank, the end of a period, and the burning of an owed list entry.
States that each of these rows completes (exec answers a next state with the row's own effect): sweepStart, testStart,
bankCopyDone, testRunEnd, sweepPeriodEnd, deadListBurn.
The model's own choices it rests on: log 48. -/
def Obligations.TeaselRows : Prop :=
  ∀ (t : Nat) (s x : State), x = s.advance t →
    let up := x.clk.up
    let on := x.phase = .running ∧ teaselOn x = true ∧ x.cfg.state = .committed ∧ x.tsl.restart = none
    (let due := ∃ f, x.tsl.firstCommit = some f ∧ (if x.tsl.sweep = 0 then f + 60000000000 ≤ up else x.tsl.startAt + sweepPeriod x ≤ up)
     (on → x.tsl.running = false → due →
       let y := { x with tsl.sweep := x.tsl.sweep + 1, tsl.running := true, tsl.startAt := up, tsl.todo := sweepUnits x }
       Ends (.sweepStart t) s { y with tsl.tested := 0, tsl.periodAt := up + sweepPeriod x })
     ∧ (¬ on ∨ x.tsl.running = true ∨ ¬ due → Ends (.sweepStart t) s x))
    ∧ (∀ unit : Word16,
        let u := unit.toNat
        let may := on ∧ x.tsl.cur = none ∧ unitTurn x u = true
        let late := x.tsl.todo.takeWhile (· != u)
        let x' := if u ∈ x.tsl.todo ∧ u ∉ x.tsl.asked then { x with tsl.todo := x.tsl.todo.drop late.length ++ late } else x
        (unitTurn x u = true ↔ eligible x u = true ∧ ∃ before rest, testOrder x = before ++ u :: rest ∧ u ∉ before
          ∧ ∀ v ∈ before, eligible x v = false ∨ (3 ≤ v / 4096 ∧ isDead x v = false ∧ (bankRole x v).isSome = true))
        ∧ (∀ v, v ∈ testOrder x ↔ kindOn x (v / 4096) = true ∧ (v ∈ x.tsl.asked ∨ (x.tsl.running = true ∧ v ∈ x.tsl.todo)))
        ∧ (¬ may → Ends (.testStart t unit) s x)
        ∧ (may → u / 4096 = 2 → isDead x u = false →
            let run : UnitTest := { unit := u, start := up, at_ := up, copy := 0, spare := none, retest := false }
            Ends (.testStart t unit) s { x' with tsl.cur := some run, parse.out := x.parse.out ++ [u % 4096] })
        ∧ (∀ role sp rest, may → u / 4096 = 3 ∨ u / 4096 = 4 → bankRole x u = some role → freeSpares x u = sp :: rest →
            let run : UnitTest := { unit := u, start := up, at_ := up, copy := 1, spare := some sp, retest := isDead x u }
            Ends (.testStart t unit) s { x' with tsl.cur := some run })
        ∧ (may → u / 4096 = 1 →
            let run : UnitTest := { unit := u, start := up, at_ := up, copy := 0, spare := none, retest := isDead x u }
            let y := { x' with tsl.cur := some run }
            (∀ r, coreRoleOf y (u % 4096 / 17) (u % 4096 % 17) = some r → Ends (.testStart t unit) s (quietKeep y (u % 4096 / 17) r))
            ∧ (coreRoleOf y (u % 4096 / 17) (u % 4096 % 17) = none → Ends (.testStart t unit) s y)))
    ∧ (x.tsl.cur = none → (∀ pass sig, Ends (.testRunEnd t pass sig) s x) ∧ Ends (.bankCopyDone t) s x)
    ∧ (∀ c : UnitTest, x.tsl.cur = some c →
        let romLost := c.unit / 4096 = 2 ∧ ∃ w ∈ x.parse.poison, w / 32768 = c.unit % 4096 ∧ w % 32768 < 0x4000
        (c.copy ≠ 0 → ∀ pass sig, Ends (.testRunEnd t pass sig) s x)
        ∧ (romLost → ∀ sig, exec (.testRunEnd t true sig) s = exec (.testRunEnd t false sig) s)
        ∧ (c.copy = 0 → c.retest = false → ∀ sig,
            let y := countErr x (tslBase + 0x40)
            (c.run = 1 → Ends (.testRunEnd t false sig) s { y with tsl.cur := some { c with run := 2, failed1 := some sig } })
            ∧ (¬ romLost → c.spare = none → Ends (.testRunEnd t true sig) s (endTest x c true))
            ∧ (¬ romLost → c.spare.isSome = true → Ends (.testRunEnd t true sig) s { x with tsl.cur := some { c with copy := 2, at_ := up } })
            ∧ (c.run ≠ 1 → Ends (.testRunEnd t false sig) s (declareDead (endTest y c false) c.unit 1 (c.spare.bind (bankRole y)))))
        ∧ (c.copy = 0 → c.retest = true → c.run ≠ 1 → c.failed1.isSome = true → ∀ sig,
            Ends (.testRunEnd t false sig) s (endTest (countErr x (tslBase + 0x40)) c false))
        ∧ (∀ sp, c.spare = some sp →
            let late := c.at_ + (if c.unit / 4096 = 4 then 10240 else 1710) ≤ up
            (c.copy = 0 ∨ ¬ late → c.copy ≤ 2 → Ends (.bankCopyDone t) s x)
            ∧ (∀ role, c.copy = 1 → late → bankRole x c.unit = some role →
                Ends (.bankCopyDone t) s { redirect x role sp with tsl.cur := some { c with copy := 0 } })
            ∧ (c.copy = 2 → late → Ends (.bankCopyDone t) s (endTest (bankBack x c.unit sp) c true))))
    ∧ (todoNow x = [] ∨ ¬ on ∨ x.tsl.running = false ∨ up < x.tsl.periodAt → Ends (.sweepPeriodEnd t) s x)
    ∧ (∀ u rest, todoNow x = u :: rest → on → x.tsl.running = true → x.tsl.periodAt ≤ up →
        let y := { x with tsl.overdue := true, tsl.periodAt := x.tsl.periodAt + sweepPeriod x }
        Ends (.sweepPeriodEnd t) s (raise (countErrs y (tslBase + 0x48) (rest.length + 1)) 0x0E04 u (encN (rest.length + 1) ++ encN u)))
    ∧ (∀ unit : Word16,
        (x.phase = .running → unit.toNat ∈ x.tsl.burn → x.fuses.dead.length < 96 →
          Ends (.deadListBurn t unit) s { x with tsl.burn := x.tsl.burn.erase unit.toNat, fuses.dead := x.fuses.dead ++ [unit.toNat] })
        ∧ (x.phase ≠ .running ∨ unit.toNat ∉ x.tsl.burn ∨ 96 ≤ x.fuses.dead.length → Ends (.deadListBurn t unit) s x))

/-- A unit declared dead (R33, R427, R428): it is on the dead list, out of the sweep and counted; its role's generation rises by one
modulo 2^16, and its list entry is owed while the list has room.
The model's own choices it rests on: log 48. -/
def Obligations.DeadUnits : Prop :=
  ∀ (s : State) (n reason : Nat), n < 24 → isDead s (2 * 4096 + n) = false →
    let u := 2 * 4096 + n
    let d := declareDead s u reason none
    isDead d u = true ∧ u ∉ d.tsl.todo ∧ n ∈ d.parse.dead ∧ n ∉ d.parse.out
    ∧ d.fenceGen (.seq n) = (s.fenceGen (.seq n) + 1) % 65536
    ∧ (s.fuses.dead.length + s.tsl.burn.length < 96 → d.tsl.burn = s.tsl.burn ++ [u])
    ∧ d.fuses = s.fuses

/-- The commands of Teasel (R430, R433).
States that each of these rows completes (exec answers a next state with the row's own effect): teaselStatus, teaselTest,
teaselDeclare, teaselReinstate, teaselDeadlist.
The model's own choices it rests on: log 25, 48. -/
def Obligations.TeaselCommands : Prop :=
  ∀ (t : Nat) (s x : State) (r : Req) (slot : Option Nat),
    let u := num r 0
    let known := unitKnown u = true
    (Takes t s r 0x0E01 x slot → r.body = [] → Answers (.teaselStatus t r) s r slot
      { st := x, out := encN x.tsl.sweep ++ encN x.tsl.tested ++ encN ((x.tsl.cur.map UnitTest.unit).getD 0) ++ encN (x.tsl.lastMs * 1000000)
          ++ x.tsl.dead.flatMap (fun d => encN d.1 ++ encN d.2.role ++ encN d.2.passes) })
    ∧ (r.body.length = 8 → ¬ known → ∀ c ∈ [(0x0E02, Instr.teaselTest t r), (0x0E03, .teaselDeclare t r)],
        Takes t s r c.1 x slot → Answers c.2 s r slot { st := x, status := mbxInvalid, arg := 1 })
    ∧ (Takes t s r 0x0E02 x slot → r.body.length = 8 → known →
        (teaselOn x = false → Answers (.teaselTest t r) s r slot { st := x, status := mbxState })
        ∧ (teaselOn x = true →
            let todo := if u ∈ x.tsl.todo then u :: x.tsl.todo.filter (· != u) else x.tsl.todo
            Answers (.teaselTest t r) s r slot { st := { x with tsl.asked := u :: x.tsl.asked.filter (· != u), tsl.todo := todo } }))
    ∧ (Takes t s r 0x0E03 x slot → r.body.length = 8 → known →
        let refused := isDead x u = true ∨ (u / 4096 = 2 ∧ lastSeq x (u % 4096) = true)
        let y := abandonTest x (· == u)
        (refused → Answers (.teaselDeclare t r) s r slot { st := x, status := mbxState })
        ∧ (¬ refused → u / 4096 ≤ 2 → Answers (.teaselDeclare t r) s r slot { st := declareDead y u 2 none })
        ∧ (¬ refused → 3 ≤ u / 4096 → bankRole y u = none → Answers (.teaselDeclare t r) s r slot { st := declareDead y u 2 none })
        ∧ (¬ refused → 3 ≤ u / 4096 → (bankRole y u).isSome = true → freeSpares y u = [] →
            Answers (.teaselDeclare t r) s r slot { st := x, status := mbxNospace })
        ∧ (∀ role sp rest, ¬ refused → 3 ≤ u / 4096 → bankRole y u = some role → freeSpares y u = sp :: rest →
            Answers (.teaselDeclare t r) s r slot { st := declareDead (redirect y role sp) u 2 (some role) }))
    ∧ (Takes t s r 0x0E04 x slot → r.body.length = 8 → known →
        let ready := x.fuses.dead.filter (fun e => e % 65536 == u) = [u] ∧ 16 ≤ (tget x.tsl.dead u { role := 0 }).passes
        let y := abandonTest x (· == u)
        let y := { y with fuses.dead := y.fuses.dead.map (fun e => if e = u then u + 65536 else e), tsl.dead := tdel y.tsl.dead u }
        (¬ ready → Answers (.teaselReinstate t r) s r slot { st := x, status := mbxState })
        ∧ (ready → u / 4096 = 1 → Answers (.teaselReinstate t r) s r slot { st := raise (giveSpare y u) 0x0E05 u (encN u ++ encN 0xFFFF) })
        ∧ (ready → u / 4096 = 2 →
            let z := y.fenceTake u (.seq (u % 4096))
            Answers (.teaselReinstate t r) s r slot
              { st := raise { z with parse.dead := z.parse.dead.filter (· != u % 4096) } 0x0E05 u (encN u ++ encN (u % 4096)) })
        ∧ (ready → 3 ≤ u / 4096 → (if u / 4096 = 4 then 4 else 1) ≤ (freeSpares x u).length →
            Answers (.teaselReinstate t r) s r slot { st := x, status := mbxNospace })
        ∧ (ready → 3 ≤ u / 4096 → (freeSpares x u).length < (if u / 4096 = 4 then 4 else 1) →
            Answers (.teaselReinstate t r) s r slot { st := raise y 0x0E05 u (encN u ++ encN 0xFFFF) }))
    ∧ (Takes t s r 0x0E05 x slot → r.body = [] → Answers (.teaselDeadlist t r) s r slot
        { st := x, out := (List.range 96).flatMap (fun k => match x.fuses.dead[k]? with
            | some e => encN (e % 65536) ++ encN (e / 65536) ++ encN 1
            | none => encN 0 ++ encN 0 ++ encN 0) })

/-! ### The Clerk: mailbox, configuration, events, secure start (14, 15) -/

/-- Requests and responses (R332 to R338): what an in-band request must be to be queued, replay, later parts of a result, the command
that waits too long, captures, and the response that the Clerk keeps.
States that each of these rows completes (exec answers a next state with the row's own effect): mbxRequest, replay, resultPart,
cmdTimeout, captureRelease.
The model's own choices it rests on: log 21. -/
def Obligations.RequestsTaken : Prop :=
  ∀ (t : Nat) (s x : State) (p : Peer) (b : Bytes) (r : Req) (slot : Option Nat), x = s.advance t →
    (∀ e n, p.via = .inband → clerkServes x p = true → tget? x.eht.eps wellKnownEid = some e →
        (List.range 16).find? (fun k => !e.slotsUsed.contains k) = some n →
      let y := { x with eht.eps := tset x.eht.eps wellKnownEid { e with slotsUsed := n :: e.slotsUsed } }
      let q := parseReq p b
      let replay := beAt b 6 2 = 1
      let reserved := zeroAt b 0x18 8 = true ∧ beAt b 6 2 ≤ 1 ∧ beAt b 2 1 = 3 ∧ beAt b 0x0C 4 = b.length - 32
      (b.length < 32 ∨ beAt b 0 2 ≠ 0x4D51 → Ends (.mbxRequest t p b) s (freeMbxSlot (countErr y (clerkBase + 0x54)) n))
      ∧ (32 ≤ b.length → beAt b 0 2 = 0x4D51 →
          (¬ reserved → Ends (.mbxRequest t p b) s (freeMbxSlot (answerStatus y p q.code q.tag mbxInvalid) n))
          ∧ (reserved → senderOk y p = false →
              Ends (.mbxRequest t p b) s (freeMbxSlot (answerStatus (countErr y (clerkBase + 0x44)) p q.code q.tag mbxAuth) n))
          ∧ (reserved → senderOk y p = true → ¬ replay → q.cursor = 0#64 → knownCode q.code.toNat = false →
              Ends (.mbxRequest t p b) s (freeMbxSlot (answerStatus y p q.code q.tag mbxInvalid) n))
          ∧ (reserved → senderOk y p = true → (replay ∨ q.cursor ≠ 0#64 ∨ knownCode q.code.toNat = true) →
              let w : QReq := { req := q, arrived := y.clk.up, replay := beAt b 6 2 == 1, slot := some n }
              Ends (.mbxRequest t p b) s { y with mbx.queue := y.mbx.queue ++ [w] })))
    ∧ (∀ y, clerkServes x r.peer = true → headLate x = false → takeReq x r true = some (y, slot) →
        (∀ z, y.mbx.rsps.find? (fun k => sameKey k.peer r.peer k.tag r.tag) = some z → Ends (.replay t r) s (freeMbxSlot (sendRsp y r.peer z true).1 slot))
        ∧ ((∀ z ∈ y.mbx.rsps, sameKey z.peer r.peer z.tag r.tag = false) → Ends (.replay t r) s (freeMbxSlot (answerStatus y r.peer r.code r.tag mbxState) slot)))
    ∧ (∀ y, clerkServes x r.peer = true → headLate x = false → r.cursor ≠ 0#64 → takeReq x r false = some (y, slot) →
        let k := r.cursor.toNat / 2 ^ 32
        let off := r.cursor.toNat % 2 ^ 32
        (tget? y.mbx.captures k = none → Ends (.resultPart t r) s (freeMbxSlot (answerStatus y r.peer r.code r.tag mbxState) slot))
        ∧ (∀ c, tget? y.mbx.captures k = some c → c.code = r.code → off < c.bytes.length →
            let part := (c.bytes.drop off).take 4064
            let out (more : Bool) (cursor : Nat) : Rsp :=
              { peer := r.peer, code := r.code, tag := r.tag, status := 0, detail := 0, arg := 0, more := more, cursor := cursor, body := part }
            (off + 4064 < c.bytes.length →
              let z := { y with mbx.captures := tset y.mbx.captures k { c with used := y.clk.up } }
              Ends (.resultPart t r) s (freeMbxSlot (respond z (out true (k * 2 ^ 32 + off + 4064))).1 slot))
            ∧ (c.bytes.length ≤ off + 4064 →
              let z := { y with mbx.captures := tdel y.mbx.captures k }
              Ends (.resultPart t r) s (freeMbxSlot (respond z (out false 0)).1 slot))))
    ∧ (x.mbx.queue = [] → Ends (.cmdTimeout t) s x)
    ∧ (∀ q rest, x.mbx.queue = q :: rest →
        let y := freeMbxSlot (answerStatus (countErr { x with mbx.queue := rest } (clerkBase + 0x50)) q.req.peer q.req.code q.req.tag mbxTimeout) q.slot
        (q.arrived + 1000000000 ≤ x.clk.up → Ends (.cmdTimeout t) s y)
        ∧ (q.arrived + 1000000000 < x.clk.up → clerkServes x r.peer = true →
            Ends (.replay t r) s y ∧ (r.cursor ≠ 0#64 → Ends (.resultPart t r) s y)
            ∧ (r.cursor = 0#64 → r.code.toNat = 0x0101 → Ends (.devInfo t r) s y))
        ∧ (x.clk.up < q.arrived + 1000000000 → Ends (.cmdTimeout t) s x))
    ∧ (∀ id c, tget? x.mbx.captures id = some c →
        (c.used + 60000000000 ≤ x.clk.up → Ends (.captureRelease t id) s { x with mbx.captures := tdel x.mbx.captures id })
        ∧ (x.clk.up < c.used + 60000000000 → Ends (.captureRelease t id) s x))
    ∧ (∀ z : Rsp, x.mbx.rsps.length ≤ 256 →
        let y := (respond x z).1
        z ∈ y.mbx.rsps ∧ y.mbx.rsps.length ≤ 256 ∧ (z.peer.via = .sideband → y.mbx.sbRsp = some (z.bytes false))
          ∧ (z.peer.via = .inband → y.mbx.sbRsp = x.mbx.sbRsp))

/-- The sideband window (R335): when GO queues the buffered request and when it is refused, the other SB_CTRL bits, the bytes moved
through SB_DATA from the byte that SB_PTR names, which a transfer may have written before (log 77), a dynamic address.
States that each of these rows completes (exec answers a next state with the row's own effect): go, cancel, rspAck, evtAck,
sbDataWrite, sbDataRead, entdaa, setdasa. -/
def Obligations.SidebandWindow : Prop :=
  ∀ (t : Nat) (s x : State), x = s.advance t →
    let b := x.mbx.sbReq
    let refused := (∃ q ∈ x.mbx.queue, q.req.peer.via = .sideband) ∨ x.mbx.sbRsp ≠ none ∨ b.length < 32 ∨ beAt b 0 2 ≠ 0x4D51 ∨ headerFault b = true
    (clerkUp x = false → Ends (.go t) s x)
    ∧ (clerkUp x = true → refused → Ends (.go t) s { x with mbx.sbErr := true })
    ∧ (let r := parseReq sbPeer b
       let y := { x with mbx.sbErr := false, mbx.sbReq := [] }
       (clerkUp x = true → ¬ refused → (beAt b 6 2 = 1 ∨ r.cursor ≠ 0#64 ∨ knownCode r.code.toNat = true) →
         let w : QReq := { req := r, arrived := y.clk.up, replay := beAt b 6 2 == 1, slot := none }
         Ends (.go t) s { y with mbx.queue := y.mbx.queue ++ [w] })
       ∧ (clerkUp x = true → ¬ refused → beAt b 6 2 ≠ 1 → r.cursor = 0#64 → knownCode r.code.toNat = false →
         Ends (.go t) s (answerStatus y sbPeer r.code r.tag mbxInvalid)))
    ∧ Ends (.cancel t) s { x with mbx.sbReq := [] }
    ∧ Ends (.rspAck t) s { x with mbx.sbRsp := none }
    ∧ (sbEvent x = none → Ends (.evtAck t) s x)
    ∧ (∀ e, sbEvent x = some e → Ends (.evtAck t) s { x with mbx.sbEvt := (e.seq + 1) % 2 ^ 64, mbx.sbGap := false })
    ∧ (∀ (ptr : Option Word32) (v : Byte) (p : Nat), (∀ w, ptr = some w → p = w.toNat) → (ptr = none → p = x.mbx.sbPtr) →
        let next := (p + 1) % 2 ^ 32
        (65536 ≤ p → Ends (.sbDataWrite t ⟨ptr, v⟩) s { x with mbx.sbPtr := next })
        ∧ (p < 65536 → ∃ c : Bytes, c.length = max b.length (p + 1) ∧ (∀ k, byteAt c k = if k = p then v else byteAt b k)
            ∧ Ends (.sbDataWrite t ⟨ptr, v⟩) s { x with mbx.sbReq := c, mbx.sbPtr := next })
        ∧ Ends (.sbDataRead ⟨t, ptr⟩) s { x with mbx.sbPtr := next })
    ∧ (∀ a : BitVec 7, Ends (.entdaa t a) s { x with mbx.dynAddr := some a } ∧ Ends (.setdasa t a) s { x with mbx.dynAddr := some a })

/-- What the Clerk does by itself (R344, R348, R357, R362): a staging left alone for 600 s is discarded, a store ends, TALLYs go out
every Tally interval, an event message ends, and records are sent again after a failure.
States that each of these rows completes (exec answers a next state with the row's own effect): stagingExpiry, cfgStoreDone,
tallyInterval, eventMessageDone, eventRetry.
The model's own choices it rests on: log 61. -/
def Obligations.ClerkBackground : Prop :=
  ∀ (t : Nat) (s x : State), x = s.advance t →
    (x.cfg.staging = none → Ends (.stagingExpiry t) s x)
    ∧ (∀ g, x.cfg.staging = some g →
        (g.at_ + 600000000000 ≤ x.clk.up → Ends (.stagingExpiry t) s (raise { x with cfg.staging := none } 0x0205 0 []))
        ∧ (x.clk.up < g.at_ + 600000000000 → Ends (.stagingExpiry t) s x))
    ∧ (x.cfg.store = none ∨ x.phase ≠ .running → ∀ ok, Ends (.cfgStoreDone t ok) s x)
    ∧ (∀ a tr, x.cfg.store = some (a, tr) → x.phase = .running →
        Ends (.cfgStoreDone t true) s (raise { flashWrite { x with cfg.store := none } a tr with cfg.stored := true } 0x0202 0 [])
        ∧ Ends (.cfgStoreDone t false) s (raise { x with cfg.store := none } 0x0203 0 []))
    ∧ (let v := x.cfgN (itemId 2 1 3) 0 0 1000000000
       let due := x.phase = .running ∧ x.cfg.state = .committed ∧ v ≠ 0 ∧ x.mbx.tallyAt + v ≤ x.clk.up
       (due → Ends (.tallyInterval t) s (sendTally x)) ∧ (¬ due → Ends (.tallyInterval t) s x))
    ∧ (∀ (n : Fin 8) (st : Byte),
        (∀ u e k, tget? x.mbx.subs n.val = some u → u.open_ = some (e, k) → Ends (.eventMessageDone t n st) s (finishMsg x k st.toNat 0 []))
        ∧ (tget? x.mbx.subs n.val = none → Ends (.eventMessageDone t n st) s x ∧ Ends (.eventRetry t n) s x)
        ∧ (∀ u last k d, tget? x.mbx.subs n.val = some u → u.open_ = some (last, k) → u.retryAt = some d →
            let again := x.mbx.log.filter (fun e => seqFrom e.seq u.next && seqFrom last e.seq && u.mask.getLsbD (e.code / 256))
            let m := mailboxMsg x u.eid.toNat u.gen.toNat u.ip.toNat u.mac.toNat u.lp.val (recordBytes u.gap again) (.event n.val)
            let y := submit x m
            (x.clk.up < d → Ends (.eventRetry t n) s x)
            ∧ (d ≤ x.clk.up → again ≠ [] →
                Ends (.eventRetry t n) s { y.1 with mbx.subs := tset y.1.mbx.subs n.val { u with open_ := some (last, y.2), retryAt := none } })
            ∧ (d ≤ x.clk.up → again = [] →
                Ends (.eventRetry t n) s { x with mbx.subs := tset x.mbx.subs n.val { u with open_ := none, retryAt := none } })))

/-- Configuration commands (R344 to R348, R350, R351): staging, whole validation, commit and recall; a body of another length, a second
staging and a wrong STAGING_ID are refused.
States that each of these rows completes (exec answers a next state with the row's own effect): cfgOpen, cfgWrite, cfgRead,
cfgDiscard, cfgCommit, cfgStatus, cfgRecall.
The model's own choices it rests on: log 31, 32. -/
def Obligations.ConfigCommands : Prop :=
  (∀ (t : Nat) (s x : State) (r : Req) (slot : Option Nat),
    (Takes t s r 0x0201 x slot → r.body.length = 16 → num r 0 < 2 → num r 1 < 2 →
        (x.cfg.staging ≠ none → num r 1 = 0 → Answers (.cfgOpen t r) s r slot { st := x, status := mbxBusy })
        ∧ (x.cfg.staging = none ∨ num r 1 = 1 → ∃ (id : Nat) (y : State) (g : Staging), id ≠ 0 ∧ id < 2 ^ 32 ∧ y = { x with free := y.free }
            ∧ g = { id := id, base := counterNow x, recs := if num r 0 = 0 ∧ x.cfg.state = .committed then x.cfg.recs else [], at_ := x.clk.up }
            ∧ Answers (.cfgOpen t r) s r slot { st := { y with cfg.staging := some g }, out := encN id ++ encN (counterNow x) }))
    ∧ (Takes t s r 0x0201 x slot → r.body.length ≠ 16 → Answers (.cfgOpen t r) s r slot { st := x, status := mbxInvalid })
    ∧ (∀ g, x.cfg.staging = some g →
        let kept : State := { x with cfg.staging := some { g with at_ := x.clk.up } }
        (Takes t s r 0x0202 x slot → 8 ≤ r.body.length → leAt r.body 0 4 = g.id → zeroAt r.body 4 4 = true →
            (∀ l v, readAll (r.body.drop 8) = .inl l → putRecs kept 1 g.recs l = .inl v →
              Answers (.cfgWrite t r) s r slot { st := { x with cfg.staging := some { g with recs := v, at_ := x.clk.up } } })
            ∧ (∀ n, readAll (r.body.drop 8) = .inr n → Answers (.cfgWrite t r) s r slot { st := kept, status := mbxInvalid, arg := n })
            ∧ (∀ l n, readAll (r.body.drop 8) = .inl l → putRecs kept 1 g.recs l = .inr n → Answers (.cfgWrite t r) s r slot { st := kept, status := mbxInvalid, arg := n }))
        ∧ (Takes t s r 0x0202 x slot → 8 ≤ r.body.length → leAt r.body 0 4 ≠ g.id → Answers (.cfgWrite t r) s r slot { st := x, status := mbxState, arg := 1 })
        ∧ (Takes t s r 0x0203 x slot → r.body.length = 16 → num r 0 = 1 → num r 1 = g.id → Answers (.cfgRead t r) s r slot { st := kept, out := recsBytes g.recs })
        ∧ (Takes t s r 0x0204 x slot → r.body.length = 8 →
            (num r 0 = g.id → Answers (.cfgDiscard t r) s r slot { st := { x with cfg.staging := none } })
            ∧ (num r 0 ≠ g.id → Answers (.cfgDiscard t r) s r slot { st := x, status := mbxState, arg := 1 }))
        ∧ (∀ zero, Takes t s r 0x0205 x slot → 16 ≤ r.body.length → x.phase = .running → num r 0 = g.id → num r 1 < 2 →
            tokenZeros (r.body.length + 1) (r.body.drop 16) [] = some zero →
            (g.base ≠ counterNow x → Answers (.cfgCommit t r) s r slot
              { st := countErr kept (clerkBase + 0x40), status := mbxState, out := commitBody kept none })
            ∧ (∀ f, g.base = counterNow x → validate kept g.recs = some f → Answers (.cfgCommit t r) s r slot
              { st := countErr kept (clerkBase + 0x40), status := f.status, detail := f.detail, out := commitBody kept f.key })
            ∧ (g.base = counterNow x → validate kept g.recs = none →
                let y := commitAt kept g.recs zero (counterNow x + 1) (Crypto.shake256 (tallyEncoding kept g.recs))
                let z := storeCommit { y with cfg.staging := none } (num r 1 == 1)
                Answers (.cfgCommit t r) s r slot { st := z, out := commitBody z none })))
    ∧ (Takes t s r 0x0203 x slot → r.body.length = 16 → num r 0 = 0 →
        (num r 1 = 0 → Answers (.cfgRead t r) s r slot { st := x, out := recsBytes x.cfg.recs })
        ∧ (num r 1 ≠ 0 → Answers (.cfgRead t r) s r slot { st := x, status := mbxState, arg := 2 }))
    ∧ (Takes t s r 0x0206 x slot → r.body = [] → Answers (.cfgStatus t r) s r slot { st := x, out := encN x.cfgStatus ++ encN (counterNow x) ++ digestNow x })
    ∧ (∀ sig, Takes t s r 0x0207 x slot → r.body = [] → x.phase = .running →
        (latestArea x (holdsRecord x) = none → Answers (.cfgRecall t r sig) s r slot
          { st := countErr x (clerkBase + 0x40), status := mbxState, out := commitBody x none })
        ∧ (∀ a, latestArea x (holdsRecord x) = some a → holdsRecord x (1 - a) = true →
            (∀ (y : State) (n : Nat) (f : Option CfgFail), checkRecord x (1 - a) sig = (y, .inr (n, f)) → n ≠ 5 →
              Answers (.cfgRecall t r sig) s r slot
                { st := countErr y (clerkBase + 0x40), status := mbxVerify, detail := (f.map CfgFail.detail).getD 0, arg := n
                  out := commitBody y (f.bind CfgFail.key) })
            ∧ (∀ (y : State) (recs : Tab Bytes), checkRecord x (1 - a) sig = (y, .inl recs) →
                let z := beginStore (commitAt y recs [] (largerCounter x + 1) ((readArea x (1 - a)).trailer.take 32)) a
                Answers (.cfgRecall t r sig) s r slot { st := z, out := commitBody z none }))))
  ∧ (∀ (o : State) (recs : Tab Bytes) (zero : List Nat) (n : Nat) (d : Bytes),
      let y := commitAt o recs zero n d
      y.cfg.state = .committed ∧ y.cfg.counter = n ∧ y.cfg.digest = d ∧ y.cfg.stored = false)
  ∧ (∀ s : State, (s.cfg.state = .empty → counterNow s = 0) ∧ (s.cfg.state ≠ .committed → digestNow s = List.replicate 32 0))

/-- Announcement, device and event commands (R341, R358, R361, R362, R413).
States that each of these rows completes (exec answers a next state with the row's own effect): devInfo, devReset, tallyPeers,
evtSubscribe, evtUnsubscribe, evtRead.
The model's own choices it rests on: log 25. -/
def Obligations.EventCommands : Prop :=
  ∀ (t : Nat) (s x : State) (r : Req) (slot : Option Nat),
    (Takes t s r 0x0101 x slot → r.body = [] → Answers (.devInfo t r) s r slot
      { st := x, out := beBytes 8 x.fuses.serial.toNat ++ encN 0x0302 ++ encN 0xB0 ++ leBytes 4 Config.firmwareVersion.toNat
          ++ encN (mailboxEid x) ++ encN x.mbx.gen.toNat ++ beBytes 6 x.fuses.mac.toNat ++ encN x.cfgStatus ++ encN (slotNumber x) })
    ∧ (Takes t s r 0x0104 x slot → r.body = [] →
        let a := answer r { st := countStat x (clerkBase + 0x100) 1 }
        let y := freeMbxSlot a.1 slot
        Ends (.devReset t r) s { y with clk.resetPend := some (a.2, y.clk.up + 100000000) })
    ∧ (Takes t s r 0x0208 x slot → r.body = [] → Answers (.tallyPeers t r) s r slot
        { st := x, out := x.mbx.tally.flatMap (fun p => beBytes 8 p.1 ++ encN p.2.counter ++ padTo 32 p.2.digest ++ leBytes 10 p.2.time
            ++ beBytes 16 p.2.ip.toNat ++ leBytes 10 p.2.heardTime) })
    ∧ (Takes t s r 0x0301 x slot → r.body.length = 54 →
        let eid := leAt r.body 16 8
        let gen := leAt r.body 24 8
        let lp := leAt r.body 32 8
        let mask := leAt r.body 46 8
        eid < 2 ^ 32 → gen < 65536 → x.lpPresent lp = true → mask < 2 ^ 32 →
        ((∀ n < 8, tget? x.mbx.subs n ≠ none) → Answers (.evtSubscribe t r) s r slot { st := x, status := mbxNospace })
        ∧ (∀ n < 8, tget? x.mbx.subs n = none → (∀ k < n, tget? x.mbx.subs k ≠ none) → ∃ u : Subscriber,
            u.ip.toNat = beAt r.body 0 16 % 2 ^ 128 ∧ u.eid.toNat = eid ∧ u.gen.toNat = gen ∧ u.lp.val = lp ∧ u.mask.toNat = mask
              ∧ u.mac.toNat = beAt r.body 40 6 % 2 ^ 48 ∧ u.next = x.mbx.nextSeq ∧ u.open_ = none ∧ u.retryAt = none
              ∧ Answers (.evtSubscribe t r) s r slot { st := { x with mbx.subs := tset x.mbx.subs n u }, out := encN n ++ encN x.mbx.nextSeq }))
    ∧ (Takes t s r 0x0302 x slot → r.body.length = 8 →
        (tget? x.mbx.subs (num r 0) ≠ none → Answers (.evtUnsubscribe t r) s r slot { st := { x with mbx.subs := tdel x.mbx.subs (num r 0) } })
        ∧ (tget? x.mbx.subs (num r 0) = none → Answers (.evtUnsubscribe t r) s r slot { st := x, status := mbxInvalid, arg := 1 }))
    ∧ (Takes t s r 0x0303 x slot → r.body.length = 8 →
        let from_ := num r 0
        let l := (x.mbx.log.filter (fun e => decide ((e.seq + 2 ^ 64 - from_) % 2 ^ 64 < 2 ^ 63))).take 42
        let gap (e : Event) : Prop := e.seq ≠ from_ ∧ (e.seq + 2 ^ 64 - from_) % 2 ^ 64 < 2 ^ 63
        (∀ e rest, x.mbx.log = e :: rest → e.seq < 2 ^ 64 → gap e → Answers (.evtRead t r) s r slot { st := x, out := recordBytes true l })
        ∧ ((∀ e rest, x.mbx.log = e :: rest → e.seq < 2 ^ 64 ∧ ¬ gap e) → Answers (.evtRead t r) s r slot { st := x, out := recordBytes false l }))

/-- Controlled commands (R384): accepted over the sideband alone while no owner key is enrolled; otherwise by a trailer whose position is
enrolled, whose signature verifies and whose CONTROL_COUNT is the present one.
The model's own choices it rests on: log 60. -/
def Obligations.ControlledCommands : Prop :=
  ∀ (sig : Bool) (h : State → Peer → Bytes → Res) (s : State) (r : Req),
    let n := r.body.length - 3325
    let tr := r.body.drop n
    (anyOwner s = false → r.peer.via = .sideband → controlled sig h s r = h s r.peer r.body)
    ∧ (anyOwner s = false → r.peer.via = .inband → controlled sig h s r = { st := s, status := mbxAuth })
    ∧ (anyOwner s = true → r.body.length < 3325 → controlled sig h s r = { st := s, status := mbxAuth })
    ∧ (anyOwner s = true → 3325 ≤ r.body.length → zeroAt tr 1 7 = true →
        (¬ (leAt tr 0 1 < 4 ∧ ownerEnrolled s (leAt tr 0 1) = true) → controlled sig h s r = { st := s, status := mbxVerify, detail := 0x0D02 })
        ∧ (leAt tr 0 1 < 4 → ownerEnrolled s (leAt tr 0 1) = true →
            (controlled false h s r = { st := s, status := mbxVerify, detail := 0x0D03 })
            ∧ (sig = true → leAt tr 8 8 ≠ controlCount s → controlled sig h s r = { st := s, status := mbxState, detail := 0x0D09 })
            ∧ (sig = true → leAt tr 8 8 = controlCount s → controlled sig h s r = h s r.peer (r.body.take n))))

/-- Secure-start commands (R310, R374, R376, R379 to R383, R385, R391, R392); `flashOk` and `sig` are the flash's and the signature
engine's answers, `b` the body before the trailer.
States that each of these rows completes (exec answers a next state with the row's own effect): keyRootImport, bootStatus,
fwWrite, fwVerify, fwActivate, fwConfirm, bootMinverRaise, vendorRevoke, ownerKey, ownerPolicy.
The model's own choices it rests on: log 25, 36, 38, 54, 60. -/
def Obligations.BootCommands : Prop :=
  ∀ (t : Nat) (s x : State) (r : Req) (slot : Option Nat),
    (Takes t s r 0x0D01 x slot → r.body = [] →
        let head := encN (slotNo (x.boot.booted.getD .a)) ++ encN (slotNo (activeSlot x)) ++ encN (slotNo (targetSlot x))
        let image (sl : Slot) (why : Nat) : Bytes := encN (leAt (slotHeader x sl) 0xC 4) ++ encN (leAt (slotHeader x sl) 0x10 4) ++ encN why
        let vendor := [0, 1, 2, 3].flatMap (fun k => padTo 32 (x.fuses.roots.getD k []) ++ encN (if x.fuses.revoked.getLsbD k then 1 else 0))
        let owner := encN (leAt x.boot.owner 6 2) ++ encN (leAt x.boot.owner 8 4) ++ encN (controlCount x)
        let least := encN (bootMin x) ++ encN (patchMin x) ++ encN (ownerMin x) ++ encN x.fuses.count
        let flag := match latestFlag x with
          | some f => flashRead x (32 * f.at_) 32
          | none => List.replicate 32 0
        Answers (.bootStatus t r) s r slot
          { st := x, out := head ++ image .a x.boot.reasonA ++ image .b x.boot.reasonB ++ flag ++ least ++ vendor ++ owner })
    ∧ (Takes t s r 0x0D02 x slot → 8 ≤ r.body.length → r.body.length ≤ 1040392 →
        let off := num r 0
        let v := r.body.drop 8
        let a := slotBase (targetSlot x)
        let trial := ∃ f, latestFlag x = some f ∧ f.st ≠ 0
        (40 * 2 ^ 20 < off + v.length → ∀ ok, Answers (.fwWrite t r ok) s r slot { st := x, status := mbxInvalid, arg := 1 })
        ∧ (off + v.length ≤ 40 * 2 ^ 20 → trial → ∀ ok, Answers (.fwWrite t r ok) s r slot { st := x, status := mbxState })
        ∧ (off + v.length ≤ 40 * 2 ^ 20 → ¬ trial → x.inClockFail = true → ∀ ok, Answers (.fwWrite t r ok) s r slot
            { st := x, status := mbxState, detail := 0x0D0C })
        ∧ (off + v.length ≤ 40 * 2 ^ 20 → ¬ trial → x.inClockFail = false →
            let y := { x with boot.verified := false }
            (off ≠ 0 → Answers (.fwWrite t r true) s r slot { st := flashWrite y (a + off) v })
            ∧ (off = 0 → Answers (.fwWrite t r true) s r slot { st := flashWrite (flashErase y a (40 * 2 ^ 20)) a v })
            ∧ (off ≠ 0 → Answers (.fwWrite t r false) s r slot { st := flashErase y (a + off) v.length, status := mbxState, detail := 0x0D0C })))
    ∧ (∀ sigs, Takes t s r 0x0D03 x slot → r.body = [] →
        let why := slotReason x (targetSlot x) sigs
        let y := setReason x (targetSlot x) why
        Answers (.fwVerify t r sigs) s r slot { st := { y with boot.verified := why == 0 }, out := encN why })
    ∧ (∀ ok, Takes t s r 0x0D05 x slot → r.body = [] →
        (x.boot.trialEnd = none → Answers (.fwConfirm t r ok) s r slot { st := x, status := mbxState })
        ∧ (∀ e sl f, x.boot.trialEnd = some e → x.boot.booted = some sl → latestFlag x = some f →
            (ok = true → x.inClockFail = false → Answers (.fwConfirm t r ok) s r slot { st := { writeFlag x sl 0 f.confirm with boot.trialEnd := none } })
            ∧ (ok = false ∨ x.inClockFail = true → Answers (.fwConfirm t r ok) s r slot { st := x, status := mbxState, detail := 0x0D0C })))
    ∧ (∀ (sig : Bool) (b : Bytes), (∀ h, controlled sig h x r = h x r.peer b) →
        (Takes t s r 0x0D04 x slot → b.length = 16 → leAt b 0 8 < 2 → 1 ≤ leAt b 8 8 → leAt b 8 8 ≤ 60 →
          (x.boot.verified = false → ∀ ok, Answers (.fwActivate t r sig ok) s r slot { st := x, status := mbxState, detail := 0x0D0A })
          ∧ (x.boot.verified = true → x.boot.trialEnd ≠ none → ∀ ok, Answers (.fwActivate t r sig ok) s r slot { st := x, status := mbxState })
          ∧ (x.boot.verified = true → x.boot.trialEnd = none → ∀ ok, ok = false ∨ x.inClockFail = true → Answers (.fwActivate t r sig ok) s r slot
              { st := x, status := mbxState, detail := 0x0D0C })
          ∧ (x.boot.verified = true → x.boot.trialEnd = none → x.inClockFail = false → Answers (.fwActivate t r sig true) s r slot
              { st := changeAr (writeFlag x (targetSlot x) (leAt b 0 8) (leAt b 8 8)) id false }))
        ∧ (Takes t s r 0x0D04 x slot → b.length = 8 → leAt b 0 8 < 2 → x.boot.verified = true → x.boot.trialEnd = none → x.inClockFail = false →
          Answers (.fwActivate t r sig true) s r slot { st := changeAr (writeFlag x (targetSlot x) (leAt b 0 8) 10) id false })
        ∧ (Takes t s r 0x0D06 x slot → b.length = 16 → leAt b 0 8 < 3 →
            let k := leAt b 0 8
            let v := leAt b 8 8
            (v ≤ (minLimits x k).1 ∨ (minLimits x k).2 < v → ∀ ok, Answers (.bootMinverRaise t r sig ok) s r slot { st := x, status := mbxInvalid, arg := 2 })
            ∧ ((minLimits x k).1 < v → v ≤ (minLimits x k).2 →
                (256 ≤ x.fuses.count → ∀ ok, Answers (.bootMinverRaise t r sig ok) s r slot { st := x, status := mbxNospace, detail := 0x0D08 })
                ∧ (x.fuses.count < 256 → ∀ ok, ok = false ∨ x.inClockFail = true → Answers (.bootMinverRaise t r sig ok) s r slot
                    { st := x, status := mbxState, detail := 0x0D0C })
                ∧ (x.fuses.count < 256 → x.inClockFail = false →
                    let y := changeAr x (fun a => patch a (8 + 4 * k) (leBytes 4 v)) true
                    Answers (.bootMinverRaise t r sig true) s r slot { st := raise y 0x0D03 0 [] })))
        ∧ (∀ (signed ok : Bool) (slotA slotB : SlotSigs) (k : Nat), Takes t s r 0x0D07 x slot → b.length = 5309 →
            let pos := leAt b 4 1
            leAt b 0 4 = 0x4B564552 → zeroAt b 5 3 = true → pos < 4 → rootAt x (Crypto.shake256 (slice b 0x30 1952)) = some k →
            (k = pos ∨ x.fuses.revoked.getLsbD k = true → Answers (.vendorRevoke t r sig ⟨signed, ok⟩ slotA slotB) s r slot { st := x, status := mbxVerify, detail := 0x0D02 })
            ∧ (k ≠ pos → x.fuses.revoked.getLsbD k = false → slice b 0x10 32 = x.fuses.roots.getD pos [] →
                zeroAt b 8 8 = true ∨ beAt b 8 8 = x.fuses.serial.toNat → signed = true →
                (x.fuses.revoked.getLsbD pos = true → Answers (.vendorRevoke t r sig ⟨signed, ok⟩ slotA slotB) s r slot { st := x, status := mbxState })
                ∧ (x.fuses.revoked.getLsbD pos = false →
                    let y := { x with fuses.revoked := x.fuses.revoked ||| (1#4 <<< pos) }
                    let last := slotReason y .a slotA ≠ 0 ∧ slotReason y .b slotB ≠ 0
                    (last → Answers (.vendorRevoke t r sig ⟨signed, ok⟩ slotA slotB) s r slot { st := x, status := mbxState, detail := 0x0D0B })
                    ∧ (¬ last → ok = false ∨ x.inClockFail = true → Answers (.vendorRevoke t r sig ⟨signed, ok⟩ slotA slotB) s r slot
                        { st := x, status := mbxState, detail := 0x0D0C })
                    ∧ (¬ last → ok = true → x.inClockFail = false → Answers (.vendorRevoke t r sig ⟨signed, ok⟩ slotA slotB) s r slot
                        { st := raise (changeAr y id false) 0x0D04 pos [] }))))
        ∧ (Takes t s r 0x0D08 x slot → b.length = 16 + 1952 → leAt b 0 8 < 4 → leAt b 8 8 < 2 →
            let pos := leAt b 0 8
            let burn := leAt b 8 8
            (ownerEnrolled x pos = true → ∀ ok, Answers (.ownerKey t r sig ok) s r slot { st := x, status := mbxState })
            ∧ (ownerEnrolled x pos = false → burn = 0 ∨ x.fuses.count < 256 → ∀ ok, ok = false ∨ x.inClockFail = true →
                Answers (.ownerKey t r sig ok) s r slot { st := x, status := mbxState, detail := 0x0D0C })
            ∧ (ownerEnrolled x pos = false → burn = 0 ∨ x.fuses.count < 256 → x.inClockFail = false → leAt (ownerRecord x.boot.owner pos (some (b.drop 16))) 6 2 ≠ 0 →
                let y := changeOwner x (ownerRecord x.boot.owner pos (some (b.drop 16))) id (burn == 1)
                Answers (.ownerKey t r sig true) s r slot { st := raise y 0x0D05 pos [] }))
        ∧ (Takes t s r 0x0D08 x slot → b.length = 16 → leAt b 0 8 < 4 → leAt b 8 8 < 2 →
            let pos := leAt b 0 8
            let burn := leAt b 8 8
            (ownerEnrolled x pos = false → ∀ ok, Answers (.ownerKey t r sig ok) s r slot { st := x, status := mbxState })
            ∧ (ownerEnrolled x pos = true → burn = 0 ∨ x.fuses.count < 256 → x.inClockFail = false →
                let o := ownerRecord x.boot.owner pos none
                let y := changeOwner x o id (burn == 1)
                (leAt o 6 2 ≠ 0 → Answers (.ownerKey t r sig true) s r slot { st := raise y 0x0D05 pos [] })
                ∧ (leAt o 6 2 = 0 → Answers (.ownerKey t r sig true) s r slot
                    { st := raise { y with sec.slots := tdel y.sec.slots 3 } 0x0D05 pos [] })))
        ∧ (Takes t s r 0x0D09 x slot → b.length = 8 →
            (8 ≤ leAt b 0 8 → ∀ ok, Answers (.ownerPolicy t r sig ok) s r slot { st := x, status := mbxInvalid, arg := 1 })
            ∧ (leAt b 0 8 < 8 → x.inClockFail = false →
                let y := changeOwner x (patch x.boot.owner 8 (leBytes 4 (leAt b 0 8))) id false
                Answers (.ownerPolicy t r sig true) s r slot { st := raise y 0x0D05 0 [] })))
    ∧ (∀ sig, Takes t s r 0x0C04 x slot → r.body.length = 3349 →
        let key := r.body.take 32
        let pos := leAt r.body 32 8
        (r.peer.via = .inband → Answers (.keyRootImport t r sig) s r slot { st := x, status := mbxAuth })
        ∧ (r.peer.via = .sideband → pos < 4 → ownerEnrolled x pos = false ∨ sig = false → Answers (.keyRootImport t r sig) s r slot { st := x, status := mbxVerify })
        ∧ (r.peer.via = .sideband → pos < 4 → ownerEnrolled x pos = true → sig = true → x.inClockFail = true →
            Answers (.keyRootImport t r sig) s r slot { st := x, status := mbxState, detail := 0x0D0C })
        ∧ (r.peer.via = .sideband → pos < 4 → ownerEnrolled x pos = true → sig = true → x.inClockFail = false →
            let k := newKey 1 4 (2 ^ useWrap + 2 ^ useUnwrap) 0 0 key
            let iv := x.drawBytes 12
            let e := Crypto.gcmEncrypt x.fuses.key1 iv.1 k.id key
            let o := patch x.boot.owner 0x1E90 (padTo 32 k.id ++ iv.1 ++ e.1 ++ e.2)
            let y := changeOwner iv.2 o (fun a => patch a 0x18 (leBytes 8 (leAt a 0x18 8 + 1))) false
            Answers (.keyRootImport t r sig) s r slot { st := extendMr (y.setSlot 3 k) 7 k.id }))
end

