-- ==== Sys2Proof/Laws/Crypto.lean ====
section
/-! SUPPORT. Lengths of what the security engines compute. -/

namespace Sys2Proof.Machine.Crypto

theorem keccakRound_length (a : List Nat) (k : Nat) (h : a.length = 25) : (keccakRound a k).length = 25 := by
  match a, h with
  | [_, _, _, _, _, _, _, _, _, _, _, _, _, _, _, _, _, _, _, _, _, _, _, _, _], _ => rfl

theorem keccakF_length (a : List Nat) (h : a.length = 25) : (keccakF a).length = 25 := by
  unfold keccakF
  generalize rc = l
  induction l generalizing a with
  | nil => exact h
  | cons k l ih => exact ih _ (keccakRound_length a k h)

theorem lanes_length (n : Nat) (b : Bytes) : (lanes n b).length = n := by
  induction n generalizing b with
  | zero => rfl
  | succ n ih => simp [lanes, ih]

theorem absorb_length (a : List Nat) (b : Bytes) (h : a.length = 25) : (absorb a b).length = 25 :=
  keccakF_length _ (by simp [lanes_length, h])

theorem absorbAll_length (n : Nat) (a : List Nat) (b : Bytes) (h : a.length = 25) : (absorbAll n a b).length = 25 := by
  induction n generalizing a b with
  | zero => exact h
  | succ n ih =>
    unfold absorbAll
    split
    · exact absorb_length _ _ h
    · exact ih _ _ (absorb_length _ _ h)

/-- A digest has 32 bytes. -/
theorem shake256_length (b : Bytes) : (shake256 b).length = 32 := by
  have h := absorbAll_length (b.length / 136 + 1) (List.replicate 25 0) b rfl
  unfold shake256
  match absorbAll (b.length / 136 + 1) (List.replicate 25 0) b, h with
  | [_, _, _, _, _, _, _, _, _, _, _, _, _, _, _, _, _, _, _, _, _, _, _, _, _], _ => rfl

end Sys2Proof.Machine.Crypto
end

