-- ==== Sys2Proof/Laws/Ends.lean ====
section
/-! SUPPORT. How commands end: a timed row, a mailbox command, a register row, an instruction. -/

namespace Sys2Proof.Machine

/-- Everything that a timed row can do. -/
theorem act_eq (t : Nat) (s : State) (f : State → State) : act t s f = .next (settle (f (s.advance t))) := rfl

/-- Everything that a register row can do. -/
theorem regRow_eq (s : State) (a : Nat) (v : Word32) : regRow s a v = .next (writeReg s a v.toNat) := rfl

/-- A mailbox command whose request the Clerk takes up is answered with what its handler gives. -/
theorem serve_of_takes {t : Nat} {s x : State} {r : Req} {code : Nat} {slot : Option Nat} (h : Takes t s r code x slot)
    (f : State → Req → Res) : serve t r code f s = .next (settle (reply r slot (f x r))) := by
  obtain ⟨h1, h2, h3, h4, h5⟩ := h
  simp [serve, act, serveCmd, h1, h2, h3, h4, h5, reply]

/-- A request that the Clerk does not take up changes nothing but the clock, unless the one at the head has waited over 1 s. -/
theorem serve_of_not_takes {t : Nat} {s : State} {r : Req} {code : Nat} (hl : headLate (s.advance t) = false)
    (h : ∀ x slot, ¬ Takes t s r code x slot) (f : State → Req → Res) : serve t r code f s = .next (settle (s.advance t)) := by
  unfold serve act serveCmd
  split
  · rfl
  · rename_i hc
    simp only [Bool.or_eq_true, Bool.not_eq_true', bne_iff_ne, ne_eq, not_or, Bool.not_eq_false, Decidable.not_not] at hc
    rw [if_neg (by simp [hl])]
    cases hq : takeReq (s.advance t) r false with
    | none => rfl
    | some p => exact absurd ⟨hc.1.1, hc.1.2, hc.2, hl, hq⟩ (h p.1 p.2)

/-- With no quiesce and no subscriber, nothing follows a command inside its step. -/
theorem settle_quiet {s : State} (h1 : s.qs = []) (h2 : s.mbx.subs = []) : settle s = s := by
  simp [settle, completeQuiesces, pumpEvents, h1, h2]

/-- An instruction that a thread issues has its effect on the state once ISSUED is counted. -/
theorem issue_of_issues {i : Tid} {s x : State} (h : Issues i s x) (f : State → State) : issue i f s = .next (f x) := by
  obtain ⟨h1, rfl, h2, h3⟩ := h
  simp [issue, h1, runOne, h2, h3]

/-- An instruction of a thread that may not issue changes nothing. -/
theorem issue_of_not {i : Tid} {s : State} (h : canIssue s i = false) (f : State → State) : issue i f s = .next s := by
  simp [issue, h]

/-- A word that is no instruction faults with IDO_ILLEGAL and the word (R285). -/
theorem issue_of_illegal {i : Tid} {s : State} (h : canIssue s i = true) (h1 : fetchFault (noteIssue s i) i = none)
    (h2 : legalWord ((noteIssue s i).fetched i) = false) (f : State → State) :
    issue i f s = .next (faultThread (noteIssue s i) i idoIllegal ((noteIssue s i).fetched i)) := by
  simp [issue, h, runOne, h1, h2]

/-- An instruction that leaves its core acts as any other, except for a core declared dead (R429). -/
theorem issueOut_eq_issue {i : Tid} {s : State} (h : goesOn s i = false) (f g : State → State) : issueOut i f g s = issue i f s := by
  simp [issueOut, h]

/-- A thread that may issue is not one of a core declared dead. -/
theorem goesOn_of_canIssue {i : Tid} {s : State} (h : canIssue s i = true) : goesOn s i = false := by
  simp only [canIssue, Bool.and_eq_true, Bool.not_eq_true'] at h
  simp only [goesOn, h.1.1.1.2, Bool.and_false, Bool.false_and]

/-- A fetch outside scratch and Stall memory faults. -/
theorem issue_of_no_window {i : Tid} {s : State} (h : canIssue s i = true)
    (h2 : localWindow i ((noteIssue s i).thr i).pc.toNat 4 = none) (f : State → State) :
    issue i f s = .next (faultThread (noteIssue s i) i idoFetch ((noteIssue s i).thr i).pc.toNat) := by
  simp [issue, h, runOne, fetchFault, h2]

end Sys2Proof.Machine
end

