-- ==== Sys2Proof/Laws/Memory.lean ====
section
/-! SUPPORT. Sparse tables and byte memories: what a read gives after a write, and that every operation keeps the canonical
form. -/

namespace Sys2Proof.Machine

variable {α : Type}

/-! ### Tables -/

theorem tget?_cons (p : Nat × α) (r : Tab α) (j : Nat) : tget? (p :: r) j = if p.1 = j then some p.2 else tget? r j := by
  by_cases h : p.1 = j <;> simp [tget?, h]

theorem tget?_tset (t : Tab α) (k j : Nat) (v : α) : tget? (tset t k v) j = if j = k then some v else tget? t j := by
  induction t with
  | nil => rw [tset, tget?_cons]; by_cases h : k = j <;> simp [h, tget?, Ne.symm]
  | cons p r ih =>
    rw [tset]
    split
    · rw [tget?_cons, tget?_cons, ih]
      by_cases h : p.1 = j
      · rw [if_pos h, if_pos h, if_neg (by omega)]
      · rw [if_neg h, if_neg h]
    · split
      · rw [tget?_cons, tget?_cons]
        by_cases h : j = k
        · rw [if_pos h, if_pos h.symm]
        · rw [if_neg h, if_neg (fun e => h e.symm), if_neg (by omega)]
      · rw [tget?_cons]
        by_cases h : j = k
        · rw [if_pos h, if_pos h.symm]
        · rw [if_neg h, if_neg (fun e => h e.symm)]

theorem tget_tset (t : Tab α) (k j : Nat) (v d : α) : tget (tset t k v) j d = if j = k then v else tget t j d := by
  simp only [tget, tget?_tset]; split <;> rfl

theorem tget_tset_self (t : Tab α) (k : Nat) (v d : α) : tget (tset t k v) k d = v := by simp [tget_tset]

theorem tget_tmod (t : Tab α) (k j : Nat) (d : α) (f : α → α) :
    tget (tmod t k d f) j d = if j = k then f (tget t k d) else tget t j d := tget_tset ..

theorem tget?_tdel (t : Tab α) (k j : Nat) : tget? (tdel t k) j = if j = k then none else tget? t j := by
  induction t with
  | nil => simp [tdel, tget?]
  | cons p r ih =>
    unfold tdel at ih ⊢
    by_cases h : p.1 = k
    · rw [List.filter_cons_of_neg (by simp [h]), ih, tget?_cons]
      by_cases hj : j = k
      · rw [if_pos hj, if_pos hj]
      · rw [if_neg hj, if_neg hj, if_neg (by omega)]
    · rw [List.filter_cons_of_pos (by simp [h]), tget?_cons, tget?_cons, ih]
      by_cases hj : p.1 = j
      · rw [if_pos hj, if_pos hj, if_neg (by omega)]
      · rw [if_neg hj, if_neg hj]

/-- Keys strictly rising, as a statement about pairs. -/
theorem twf_iff (t : Tab α) : twf t = true ↔ t.Pairwise (fun p q => p.1 < q.1) := by
  induction t with
  | nil => simp [twf]
  | cons p r ih =>
    cases r with
    | nil => simp [twf]
    | cons q r =>
      simp only [twf, Bool.and_eq_true, decide_eq_true_eq, ih]
      constructor
      · rintro ⟨h, h2⟩
        refine List.pairwise_cons.2 ⟨fun x hx => ?_, h2⟩
        rcases List.mem_cons.1 hx with rfl | hx
        · exact h
        · exact h.trans ((List.pairwise_cons.1 h2).1 x hx)
      · intro h; exact ⟨(List.pairwise_cons.1 h).1 q (by simp), (List.pairwise_cons.1 h).2⟩

theorem mem_tset {t : Tab α} {k : Nat} {v : α} {x : Nat × α} (h : x ∈ tset t k v) : x = (k, v) ∨ x ∈ t := by
  induction t with
  | nil => rw [tset, List.mem_singleton] at h; exact .inl h
  | cons p r ih =>
    rw [tset] at h
    split at h
    · rcases List.mem_cons.1 h with h | h
      · exact .inr (h ▸ List.mem_cons_self)
      · exact (ih h).imp id (List.mem_cons_of_mem _)
    · split at h
      · exact (List.mem_cons.1 h).imp id (List.mem_cons_of_mem _)
      · exact List.mem_cons.1 h

theorem twf_tset {t : Tab α} (k : Nat) (v : α) (h : twf t = true) : twf (tset t k v) = true := by
  rw [twf_iff] at *
  induction t with
  | nil => simp [tset]
  | cons p r ih =>
    have h' := List.pairwise_cons.1 h
    rw [tset]
    split
    · rename_i hk
      refine List.pairwise_cons.2 ⟨fun x hx => ?_, ih h'.2⟩
      rcases mem_tset hx with rfl | hx
      · exact hk
      · exact h'.1 x hx
    · split
      · rename_i hk; exact List.pairwise_cons.2 ⟨fun x hx => hk ▸ h'.1 x hx, h'.2⟩
      · rename_i h1 h2
        have hk : k < p.1 := by omega
        refine List.pairwise_cons.2 ⟨fun x hx => ?_, h⟩
        rcases List.mem_cons.1 hx with rfl | hx
        · exact hk
        · exact hk.trans (h'.1 x hx)

theorem twf_filter {t : Tab α} (p : Nat × α → Bool) (h : twf t = true) : twf (t.filter p) = true := by
  rw [twf_iff] at *; exact h.filter p

theorem twf_tdel {t : Tab α} (k : Nat) (h : twf t = true) : twf (tdel t k) = true := twf_filter _ h

/-! ### Byte memories -/

/-- A read after a write gives the byte written, and every other address reads as before. -/
theorem mread_mwrite (d : Byte) (m : Memory) (a b : Nat) (v : Byte) :
    mread d (mwrite d m a v) b = if b = a then v else mread d m b := by
  unfold mread mwrite
  split
  · rename_i h; simp only [tget, tget?_tdel]; split <;> simp_all
  · exact tget_tset ..

theorem mread_mwrites (d : Byte) (m : Memory) (a : Nat) (v : Bytes) (b : Nat) :
    mread d (mwrites d m a v) b = if a ≤ b ∧ b < a + v.length then v.getD (b - a) d else mread d m b := by
  induction v generalizing m a with
  | nil => simp only [mwrites, List.length_nil, Nat.add_zero]; rw [if_neg (by omega)]
  | cons x r ih =>
    simp only [mwrites, ih, mread_mwrite, List.length_cons]
    by_cases h : b = a
    · subst h; rw [if_neg (by omega), if_pos rfl, if_pos (by omega)]; simp
    · by_cases h2 : a + 1 ≤ b ∧ b < a + 1 + r.length
      · rw [if_pos h2, if_pos (by omega)]
        obtain ⟨n, rfl⟩ : ∃ n, b = a + 1 + n := ⟨b - (a + 1), by omega⟩
        rw [show a + 1 + n - (a + 1) = n by omega, show a + 1 + n - a = n + 1 by omega]; rfl
      · rw [if_neg h2, if_neg h, if_neg (by omega)]

/-- Bytes read out of what was written. -/
theorem mreads_mwrites (d : Byte) (m : Memory) (a : Nat) (v : Bytes) (n k : Nat) (h : k + n ≤ v.length) :
    mreads d (mwrites d m a v) (a + k) n = (v.drop k).take n := by
  induction n generalizing k with
  | zero => simp [mreads]
  | succ n ih =>
    rw [mreads, mread_mwrites, if_pos (by omega), Nat.add_assoc, ih (k + 1) (by omega), Nat.add_sub_cancel_left,
      List.drop_eq_getElem_cons (l := v) (i := k) (by omega), List.take_succ_cons, List.getD_eq_getElem _ _ (by omega)]

/-- Bytes read beside what was written. -/
theorem mreads_mwrites_beside (d : Byte) (m : Memory) (a : Nat) (v : Bytes) (n b : Nat) (h : b + n ≤ a ∨ a + v.length ≤ b) :
    mreads d (mwrites d m a v) b n = mreads d m b n := by
  induction n generalizing b with
  | zero => rfl
  | succ n ih => rw [mreads, mreads, mread_mwrites, if_neg (by omega), ih (b + 1) (by omega)]

theorem mread_mclear (d : Byte) (m : Memory) (a n b : Nat) :
    mread d (mclear m a n) b = if a ≤ b ∧ b < a + n then d else mread d m b := by
  unfold mread mclear tget
  induction m with
  | nil => simp [tget?]
  | cons p r ih =>
    by_cases h : a ≤ p.1 ∧ p.1 < a + n
    · rw [List.filter_cons_of_neg (by simp [h]), ih, tget?_cons]
      by_cases hb : p.1 = b
      · rw [if_pos (hb ▸ h), if_pos (hb ▸ h)]
      · rw [if_neg hb]
    · rw [List.filter_cons_of_pos (by simp; omega), tget?_cons, tget?_cons]
      by_cases hb : p.1 = b
      · rw [if_pos hb, if_pos hb, if_neg (hb ▸ h)]
      · rw [if_neg hb, if_neg hb]; exact ih

theorem wf_iff (d : Byte) (m : Memory) : m.wf d = true ↔ twf m = true ∧ ∀ p ∈ m, p.2 ≠ d := by
  simp [Memory.wf, List.all_eq_true]

theorem wf_mwrite {d : Byte} {m : Memory} (a : Nat) (v : Byte) (h : m.wf d = true) : Memory.wf d (mwrite d m a v) = true := by
  rw [wf_iff] at *
  unfold mwrite
  split
  · exact ⟨twf_tdel _ h.1, fun p hp => h.2 p (List.mem_of_mem_filter hp)⟩
  · rename_i hv
    refine ⟨twf_tset _ _ h.1, fun p hp => ?_⟩
    rcases mem_tset hp with rfl | hp
    · exact hv
    · exact h.2 p hp

theorem wf_mwrites {d : Byte} {m : Memory} (a : Nat) (v : Bytes) (h : m.wf d = true) : Memory.wf d (mwrites d m a v) = true := by
  induction v generalizing m a with
  | nil => exact h
  | cons x r ih => exact ih (a + 1) (wf_mwrite a x h)

theorem wf_mclear {d : Byte} {m : Memory} (a n : Nat) (h : m.wf d = true) : Memory.wf d (mclear m a n) = true := by
  rw [wf_iff] at *
  exact ⟨twf_filter _ h.1, fun p hp => h.2 p (List.mem_of_mem_filter hp)⟩

/-! ### The memories of the part: every operation that writes one keeps both canonical -/

theorem memWf_iff (s : State) : s.memWf = true ↔ s.mem.ram.wf 0#8 = true ∧ s.mem.flash.wf 0xFF#8 = true := by
  simp [State.memWf]

theorem memWf_poke {s : State} (a : Nat) (v : Bytes) (h : s.memWf = true) : (s.poke a v).memWf = true := by
  rw [memWf_iff] at *; exact ⟨wf_mwrites a v h.1, h.2⟩

theorem memWf_zeroMem {s : State} (a : Nat × Nat) (h : s.memWf = true) : (zeroMem s a).memWf = true := by
  rw [memWf_iff] at *; exact ⟨wf_mclear _ _ h.1, h.2⟩

theorem memWf_flashWrite {s : State} (a : Nat) (v : Bytes) (h : s.memWf = true) : (flashWrite s a v).memWf = true := by
  rw [memWf_iff] at *; exact ⟨h.1, wf_mwrites a v h.2⟩

theorem memWf_flashErase {s : State} (a n : Nat) (h : s.memWf = true) : (flashErase s a n).memWf = true := by
  rw [memWf_iff] at *; exact ⟨h.1, wf_mclear a n h.2⟩

/-- A write to device memory leaves every byte outside it. -/
theorem mread_poke (s : State) (a : Nat) (v : Bytes) (b : Nat) (h : b < a ∨ a + v.length ≤ b) :
    mread 0#8 (s.poke a v).mem.ram b = mread 0#8 s.mem.ram b := by
  show mread 0#8 (mwrites 0#8 s.mem.ram a v) b = _
  rw [mread_mwrites, if_neg (by omega)]

end Sys2Proof.Machine
end

