-- ==== Sys2Proof/Laws/Keeps.lean ====
section
/-! SUPPORT. What every step keeps: the queue of waiting commands, what is burnt, and the canonical form of the memories.
First the relation; then, operation by operation, that each keeps them: of registers, events, quiesces, queues, packets and
tables here. -/

namespace Sys2Proof.Machine

theorem wf_filter {d : Byte} {m : Memory} (p : Nat × Byte → Bool) (h : m.wf d = true) : Memory.wf d (m.filter p) = true := by
  rw [wf_iff] at *
  exact ⟨twf_filter _ h.1, fun q hq => h.2 q (List.mem_of_mem_filter hq)⟩

/-- Fuses only ever go one way (R378, R380, R428). -/
structure FusesKept (f g : Fuses) : Prop where
  serial : g.serial = f.serial
  mac : g.mac = f.mac
  roots : g.roots = f.roots
  key0 : g.key0 = f.key0
  key1 : g.key1 = f.key1
  key2 : g.key2 = f.key2
  vddMv : g.vddMv = f.vddMv
  revoked : ∀ k : Nat, f.revoked.getLsbD k = true → g.revoked.getLsbD k = true
  count : f.count ≤ g.count
  dead : f.dead.map (· % 65536) <+: g.dead.map (· % 65536)

theorem FusesKept.refl (f : Fuses) : FusesKept f f :=
  ⟨rfl, rfl, rfl, rfl, rfl, rfl, rfl, fun _ h => h, Nat.le_refl _, List.prefix_refl _⟩

theorem FusesKept.trans {f g h : Fuses} (a : FusesKept f g) (b : FusesKept g h) : FusesKept f h :=
  ⟨b.serial.trans a.serial, b.mac.trans a.mac, b.roots.trans a.roots, b.key0.trans a.key0, b.key1.trans a.key1,
    b.key2.trans a.key2, b.vddMv.trans a.vddMv, fun k x => b.revoked k (a.revoked k x), a.count.trans b.count,
    a.dead.trans b.dead⟩

/-- A unit marked reinstated stays on the list. -/
theorem FusesKept.mark (f : Fuses) (u : Nat) :
    FusesKept f { f with dead := f.dead.map (fun e => if e = u then u + 65536 else e) } := by
  have h : (f.dead.map (fun e => if e = u then u + 65536 else e)).map (· % 65536) = f.dead.map (· % 65536) := by
    rw [List.map_map]
    exact List.map_congr_left (fun e _ => by by_cases hu : e = u <;> simp [hu])
  exact ⟨rfl, rfl, rfl, rfl, rfl, rfl, rfl, fun _ h => h, Nat.le_refl _, by rw [h]⟩

/-- An entry burnt at the end of the list. -/
theorem FusesKept.burn (f : Fuses) (l : List Nat) : FusesKept f { f with dead := f.dead ++ l } :=
  ⟨rfl, rfl, rfl, rfl, rfl, rfl, rfl, fun _ h => h, Nat.le_refl _, by rw [List.map_append]; exact List.prefix_append _ _⟩

/-- The fuse counter steps on. -/
theorem FusesKept.step (f : Fuses) : FusesKept f { f with count := f.count + 1 } :=
  ⟨rfl, rfl, rfl, rfl, rfl, rfl, rfl, fun _ h => h, Nat.le_succ _, List.prefix_refl _⟩

/-- A revocation bit is set. -/
theorem FusesKept.revoke (f : Fuses) (m : BitVec 4) : FusesKept f { f with revoked := f.revoked ||| m } :=
  ⟨rfl, rfl, rfl, rfl, rfl, rfl, rfl, fun k h => by simp [BitVec.getLsbD_or, h], Nat.le_refl _, List.prefix_refl _⟩

/-- `u` comes after `s`: same queue, fuses only burnt further, memories still in canonical form. -/
structure Keeps (s u : State) : Prop where
  queue : u.pending = s.pending
  fuses : FusesKept s.fuses u.fuses
  mem : s.memWf = true → u.memWf = true

namespace Keeps

variable {s x u : State} {α β : Type}

theorem refl (s : State) : Keeps s s := ⟨rfl, FusesKept.refl _, id⟩

theorem trans (h : Keeps s x) (k : Keeps x u) : Keeps s u :=
  ⟨k.queue.trans h.queue, h.fuses.trans k.fuses, fun w => k.mem (h.mem w)⟩

/-- A change of anything else. -/
theorem upd {phase clk pins boot cfg mbx ctrs flagSet qs fence port parse tm tables eht mem ido tfs sto sec tsl free : _} (h : Keeps s x)
    (hr : mem.ram = x.mem.ram) (hl : mem.flash = x.mem.flash) :
    Keeps s (State.mk phase clk pins x.fuses boot cfg mbx ctrs flagSet qs fence port parse tm tables eht mem ido tfs sto sec tsl free x.pending) :=
  ⟨h.queue, h.fuses, fun w => by have := h.mem w; simpa [State.memWf, hr, hl] using this⟩

/-- A change that writes memory in canonical form. -/
theorem updMem {phase clk pins boot cfg mbx ctrs flagSet qs fence port parse tm tables eht mem ido tfs sto sec tsl free : _} (h : Keeps s x)
    (hr : x.mem.ram.wf 0#8 = true → mem.ram.wf 0#8 = true) (hl : x.mem.flash.wf 0xFF#8 = true → mem.flash.wf 0xFF#8 = true) :
    Keeps s (State.mk phase clk pins x.fuses boot cfg mbx ctrs flagSet qs fence port parse tm tables eht mem ido tfs sto sec tsl free x.pending) :=
  ⟨h.queue, h.fuses, fun w => by
    have := h.mem w
    simp only [State.memWf, Bool.and_eq_true] at this ⊢
    exact ⟨hr this.1, hl this.2⟩⟩

/-- A change that burns fuses. -/
theorem updFuses {phase clk pins fuses boot cfg mbx ctrs flagSet qs fence port parse tm tables eht mem ido tfs sto sec tsl free : _} (h : Keeps s x)
    (hf : FusesKept x.fuses fuses) (hr : mem.ram = x.mem.ram) (hl : mem.flash = x.mem.flash) :
    Keeps s (State.mk phase clk pins fuses boot cfg mbx ctrs flagSet qs fence port parse tm tables eht mem ido tfs sto sec tsl free x.pending) :=
  ⟨h.queue, h.fuses.trans hf, fun w => by have := h.mem w; simpa [State.memWf, hr, hl] using this⟩

theorem ite {c : Prop} [Decidable c] {a b : State} (h1 : c → Keeps s a) (h2 : ¬c → Keeps s b) :
    Keeps s (if c then a else b) := by split <;> simp_all

theorem iteFst {c : Prop} [Decidable c] {a b : State × α} (h1 : c → Keeps s a.1) (h2 : ¬c → Keeps s b.1) :
    Keeps s (if c then a else b).1 := by split <;> simp_all

theorem iteSnd {c : Prop} [Decidable c] {a b : α × State} (h1 : c → Keeps s a.2) (h2 : ¬c → Keeps s b.2) :
    Keeps s (if c then a else b).2 := by split <;> simp_all

theorem iteSndFst {c : Prop} [Decidable c] {a b : α × State × β} (h1 : c → Keeps s a.2.1) (h2 : ¬c → Keeps s b.2.1) :
    Keeps s (if c then a else b).2.1 := by split <;> simp_all

theorem iteSt {c : Prop} [Decidable c] {a b : Res} (h1 : c → Keeps s a.st) (h2 : ¬c → Keeps s b.st) :
    Keeps s (if c then a else b).st := by split <;> simp_all

theorem ofFst {p : State × α} {a : α} (e : p = (u, a)) (h : Keeps s p.1) : Keeps s u := by subst e; exact h

theorem ofSnd {p : α × State} {a : α} (e : p = (a, u)) (h : Keeps s p.2) : Keeps s u := by subst e; exact h

theorem foldl {f : State → β → State} (l : List β) (h : Keeps s x) (hf : ∀ b y, Keeps s y → Keeps s (f y b)) :
    Keeps s (l.foldl f x) := by
  induction l generalizing x with
  | nil => exact h
  | cons b r ih => exact ih (hf b x h)

theorem foldlFst {f : State × α → β → State × α} (l : List β) {p : State × α} (h : Keeps s p.1)
    (hf : ∀ b y, Keeps s y.1 → Keeps s (f y b).1) : Keeps s (l.foldl f p).1 := by
  induction l generalizing p with
  | nil => exact h
  | cons b r ih => exact ih (hf b p h)

end Keeps

/-- Every state that an optional result holds is kept. -/
def KeepsOpt {β : Type} (π : β → State) (s : State) (o : Option β) : Prop := ∀ v, o = some v → Keeps s (π v)

namespace KeepsOpt

variable {s x u : State} {α β : Type} {π : β → State}

theorem none : KeepsOpt π s none := fun _ h => by cases h

theorem some {v : β} (h : Keeps s (π v)) : KeepsOpt π s (some v) := fun _ e => by cases e; exact h

theorem get {v : β} {o : Option β} (e : o = Option.some v) (h : KeepsOpt π s o) : Keeps s (π v) := h v e

theorem map {g : α → β} {o : Option α} (h : ∀ v, o = Option.some v → Keeps s (π (g v))) : KeepsOpt π s (o.map g) := by
  intro v e
  obtain ⟨a, ha, rfl⟩ := Option.map_eq_some_iff.mp e
  exact h a ha

theorem bind {g : α → Option β} {o : Option α} (h : ∀ v, o = Option.some v → KeepsOpt π s (g v)) :
    KeepsOpt π s (o.bind g) := by
  intro v e
  obtain ⟨a, ha, k⟩ := Option.bind_eq_some_iff.mp e
  exact h a ha v k

theorem get0 {v : State} {o : Option State} (e : o = Option.some v) (h : KeepsOpt (fun v => v) s o) : Keeps s v := h v e

theorem getF {f : State → State} {o : Option (State → State)} (e : o = Option.some f) (h : KeepsOpt (fun v => v x) s o) :
    Keeps s (f x) := h _ e

theorem getR {v : Res} {o : Option Res} (e : o = Option.some v) (h : KeepsOpt (fun v => v.st) s o) : Keeps s v.st :=
  h _ e

theorem get1 {v : State} {b : β} {o : Option (State × β)} (e : o = Option.some (v, b)) (h : KeepsOpt (fun v => v.1) s o) :
    Keeps s v := h _ e

theorem get1p {p : State × β} {o : Option (State × β)} (e : o = Option.some p) (h : KeepsOpt (fun v => v.1) s o) :
    Keeps s p.1 := h _ e

theorem get2 {v : State} {a : α} {o : Option (α × State)} (e : o = Option.some (a, v)) (h : KeepsOpt (fun v => v.2) s o) :
    Keeps s v := h _ e

theorem get2p {p : α × State} {o : Option (α × State)} (e : o = Option.some p) (h : KeepsOpt (fun v => v.2) s o) :
    Keeps s p.2 := h _ e

theorem get22 {v : State} {a : α} {b : β} {o : Option (α × β × State)} (e : o = Option.some (a, b, v))
    (h : KeepsOpt (fun v => v.2.2) s o) : Keeps s v := h _ e

theorem get22p {p : α × β × State} {o : Option (α × β × State)} (e : o = Option.some p)
    (h : KeepsOpt (fun v => v.2.2) s o) : Keeps s p.2.2 := h _ e

theorem ite {c : Prop} [Decidable c] {a b : Option β} (h1 : c → KeepsOpt π s a) (h2 : ¬c → KeepsOpt π s b) :
    KeepsOpt π s (if c then a else b) := by split <;> simp_all

end KeepsOpt

theorem State.noteFlag_keeps {s0 s : State} {a : Nat} {b : Bool} (hk : Keeps s0 s) :
    Keeps s0 (State.noteFlag s a b) := by
  unfold State.noteFlag
  with_reducible repeat' first
    | assumption | refine Keeps.ite (fun _ => ?_) (fun _ => ?_) | fail_if_no_progress refine Keeps.upd ?_ rfl rfl
    | split

theorem countErrs_keeps {s0 s : State} {a n : Nat} (hk : Keeps s0 s) : Keeps s0 (countErrs s a n) := by
  unfold countErrs
  with_reducible repeat' first
    | assumption | refine State.noteFlag_keeps ?_ | refine Keeps.ite (fun _ => ?_) (fun _ => ?_)
    | fail_if_no_progress refine Keeps.upd ?_ rfl rfl | split

theorem countErr_keeps {s0 s : State} {a : Nat} (hk : Keeps s0 s) : Keeps s0 (countErr s a) := by
  unfold countErr
  with_reducible repeat' first | assumption | refine countErrs_keeps ?_

theorem snapRange_keeps {s0 s : State} {a n : Nat} (hk : Keeps s0 s) : Keeps s0 (snapRange s a n) := by
  unfold snapRange
  with_reducible repeat' first | assumption | fail_if_no_progress refine Keeps.upd ?_ rfl rfl

theorem clearRange_keeps {s0 s : State} {a n : Nat} (hk : Keeps s0 s) : Keeps s0 (clearRange s a n) := by
  unfold clearRange
  with_reducible repeat' first | assumption | fail_if_no_progress refine Keeps.upd ?_ rfl rfl

theorem clearFlagAt_keeps {s0 s : State} {a : Nat} (hk : Keeps s0 s) :
    Keeps s0 (clearFlagAt s a) := by
  unfold clearFlagAt
  with_reducible repeat' first
    | assumption | refine Keeps.ite (fun _ => ?_) (fun _ => ?_) | fail_if_no_progress refine Keeps.upd ?_ rfl rfl
    | split

theorem clearFlags_keeps {s0 s : State} {base o v : Nat} {y0 : List CtrGroup} (hk : Keeps s0 s) :
    Keeps s0 (clearFlags s base o v y0) := by
  induction y0 generalizing s with
  | nil => exact hk
  | cons g r ih =>
    simp only [clearFlags]
    apply ih
    split
    · refine Keeps.foldl _ hk (fun _ _ _ => ?_)
      refine Keeps.ite (fun _ => ?_) (fun _ => ?_)
      · exact clearFlagAt_keeps ‹_›
      · assumption
    · exact hk

theorem State.draw_keeps {s0 s : State} {bound : Nat} (hk : Keeps s0 s) : Keeps s0 (State.draw s bound).2 := by
  unfold State.draw
  dsimp only
  with_reducible repeat' first | assumption | fail_if_no_progress refine Keeps.upd ?_ rfl rfl

theorem State.drawNz_keeps {s0 s : State} {bound : Nat} (hk : Keeps s0 s) : Keeps s0 (State.drawNz s bound).2 := by
  unfold State.drawNz
  dsimp only
  with_reducible repeat' first | assumption | fail_if_no_progress refine Keeps.upd ?_ rfl rfl

theorem State.drawBytes_keeps {s0 s : State} {n : Nat} (hk : Keeps s0 s) : Keeps s0 (State.drawBytes s n).2 := by
  unfold State.drawBytes
  dsimp only
  with_reducible repeat' first | assumption | fail_if_no_progress refine Keeps.upd ?_ rfl rfl

theorem State.advance_keeps {s0 s : State} {t : Nat} (hk : Keeps s0 s) : Keeps s0 (State.advance s t) := by
  unfold State.advance
  with_reducible repeat' first
    | assumption | refine Keeps.ite (fun _ => ?_) (fun _ => ?_) | fail_if_no_progress refine Keeps.upd ?_ rfl rfl

theorem State.onLp_keeps {s0 s : State} {n : Nat} {f : LPort → LPort} (hk : Keeps s0 s) :
    Keeps s0 (State.onLp s n f) := by
  unfold State.onLp
  dsimp only
  with_reducible repeat' first | assumption | fail_if_no_progress refine Keeps.upd ?_ rfl rfl

theorem State.onPp_keeps {s0 s : State} {n : Nat} {f : PPort → PPort} (hk : Keeps s0 s) :
    Keeps s0 (State.onPp s n f) := by
  unfold State.onPp
  dsimp only
  with_reducible repeat' first | assumption | fail_if_no_progress refine Keeps.upd ?_ rfl rfl

theorem trimLog_keeps {s0 s : State} (hk : Keeps s0 s) : Keeps s0 (trimLog s) := by
  unfold trimLog
  dsimp only
  with_reducible repeat' first
    | assumption | refine countErrs_keeps ?_ | refine Keeps.ite (fun _ => ?_) (fun _ => ?_)
    | fail_if_no_progress refine Keeps.upd ?_ rfl rfl | split

theorem rawEvent_keeps {s0 s : State} {code object : Nat} {data : Bytes} (hk : Keeps s0 s) :
    Keeps s0 (rawEvent s code object data) := by
  unfold rawEvent
  dsimp only
  with_reducible repeat' first | assumption | refine trimLog_keeps ?_ | fail_if_no_progress refine Keeps.upd ?_ rfl rfl

theorem wrapRecord_keeps {s0 s : State} {a : Nat} (hk : Keeps s0 s) :
    Keeps s0 (wrapRecord s a) := by
  unfold wrapRecord
  try dsimp only
  with_reducible repeat' first
    | assumption | refine rawEvent_keeps ?_ | refine Keeps.ite (fun _ => ?_) (fun _ => ?_) | split

theorem bumpStat_keeps {s0 s : State} {a n : Nat} (hk : Keeps s0 s) :
    Keeps s0 (bumpStat s a n).1 := by
  unfold bumpStat
  try dsimp only
  with_reducible repeat' first
    | assumption | refine State.noteFlag_keeps ?_ | fail_if_no_progress refine Keeps.upd ?_ rfl rfl | split

theorem wrapEvent_keeps {s0 s : State} {a : Nat} (hk : Keeps s0 s) : Keeps s0 (wrapEvent s a) := by
  unfold wrapEvent
  try dsimp only
  with_reducible repeat' first
    | assumption | refine wrapRecord_keeps ?_ | refine bumpStat_keeps ?_
    | refine Keeps.ite (fun _ => ?_) (fun _ => ?_) | split

theorem countStat_keeps {s0 s : State} {a n : Nat} (hk : Keeps s0 s) : Keeps s0 (countStat s a n) := by
  unfold countStat
  try dsimp only
  with_reducible repeat' first
    | assumption | refine bumpStat_keeps ?_ | refine wrapEvent_keeps ?_ | refine Keeps.ite (fun _ => ?_) (fun _ => ?_)
    | split

theorem raise_keeps {s0 s : State} {code object : Nat} {data : Bytes} (hk : Keeps s0 s) :
    Keeps s0 (raise s code object data) := by
  unfold raise
  with_reducible repeat' first | assumption | refine rawEvent_keeps ?_ | refine countStat_keeps ?_

theorem State.qSet_keeps {s0 s : State} {o : QObj} {r : QRec} (hk : Keeps s0 s) : Keeps s0 (State.qSet s o r) := by
  unfold State.qSet
  with_reducible repeat' first | assumption | fail_if_no_progress refine Keeps.upd ?_ rfl rfl

theorem State.qDel_keeps {s0 s : State} {o : QObj} (hk : Keeps s0 s) : Keeps s0 (State.qDel s o) := by
  unfold State.qDel
  with_reducible repeat' first | assumption | fail_if_no_progress refine Keeps.upd ?_ rfl rfl

theorem State.qCount_keeps {s0 s : State} {o : QObj} {drained aborted : Nat} (hk : Keeps s0 s) :
    Keeps s0 (State.qCount s o drained aborted) := by
  unfold State.qCount
  dsimp only
  with_reducible repeat' first | assumption | fail_if_no_progress refine Keeps.upd ?_ rfl rfl

theorem State.qCountTf_keeps {s0 s : State} {tf drained aborted : Nat} (hk : Keeps s0 s) :
    Keeps s0 (State.qCountTf s tf drained aborted) := by
  unfold State.qCountTf
  dsimp only
  with_reducible repeat' first | assumption | fail_if_no_progress refine Keeps.upd ?_ rfl rfl

theorem State.fenceBump_keeps {s0 s : State} {r : Role} (hk : Keeps s0 s) : Keeps s0 (State.fenceBump s r) := by
  unfold State.fenceBump
  dsimp only
  with_reducible repeat' first | assumption | fail_if_no_progress refine Keeps.upd ?_ rfl rfl

theorem State.fenceTake_keeps {s0 s : State} {unit : Nat} {r : Role} (hk : Keeps s0 s) :
    Keeps s0 (State.fenceTake s unit r) := by
  unfold State.fenceTake
  dsimp only
  with_reducible repeat' first | assumption | fail_if_no_progress refine Keeps.upd ?_ rfl rfl

theorem fencedDiscard_keeps {s0 s : State} {r : Role} {stamp : Nat} (hk : Keeps s0 s) :
    Keeps s0 (fencedDiscard s r stamp) := by
  unfold fencedDiscard
  dsimp only
  with_reducible repeat' first
    | assumption | refine countErr_keeps ?_ | refine raise_keeps ?_ | refine Keeps.ite (fun _ => ?_) (fun _ => ?_)
    | fail_if_no_progress refine Keeps.upd ?_ rfl rfl

theorem State.poke_keeps {s0 s : State} {a : Nat} {v : Bytes} (hk : Keeps s0 s) : Keeps s0 (State.poke s a v) := by
  exact Keeps.updMem hk (fun w => wf_mwrites _ _ w) (fun w => w)

theorem State.onTq_keeps {s0 s : State} {q : Nat} {f : TmQueue → TmQueue} (hk : Keeps s0 s) :
    Keeps s0 (State.onTq s q f) := by
  unfold State.onTq
  dsimp only
  with_reducible repeat' first | assumption | fail_if_no_progress refine Keeps.upd ?_ rfl rfl

theorem State.onTg_keeps {s0 s : State} {g : Nat} {f : TmGroup → TmGroup} (hk : Keeps s0 s) :
    Keeps s0 (State.onTg s g f) := by
  unfold State.onTg
  dsimp only
  with_reducible repeat' first | assumption | fail_if_no_progress refine Keeps.upd ?_ rfl rfl

theorem refuseFrame_keeps {s0 s : State} {lp q : Nat} (hk : Keeps s0 s) : Keeps s0 (refuseFrame s lp q) := by
  unfold refuseFrame
  with_reducible repeat' first | assumption | refine countErr_keeps ?_

theorem countEnq_keeps {s0 s : State} {q : Nat} {f : Frame} (hk : Keeps s0 s) : Keeps s0 (countEnq s q f) := by
  unfold countEnq
  with_reducible repeat' first | assumption | refine countStat_keeps ?_

theorem enqueueExpress_keeps {s0 s : State} {lp q : Nat} {f : Frame} (hk : Keeps s0 s) :
    Keeps s0 (enqueueExpress s lp q f) := by
  unfold enqueueExpress
  dsimp only
  with_reducible repeat' first
    | assumption | refine countErr_keeps ?_ | refine State.onLp_keeps ?_ | refine countEnq_keeps ?_
    | refine Keeps.ite (fun _ => ?_) (fun _ => ?_)

theorem enqueue_keeps {s0 s : State} {f : Frame} (hk : Keeps s0 s) : Keeps s0 (enqueue s f) := by
  unfold enqueue
  dsimp only
  with_reducible repeat' first
    | assumption | refine countErr_keeps ?_ | refine State.onTq_keeps ?_ | refine refuseFrame_keeps ?_
    | refine countEnq_keeps ?_ | refine enqueueExpress_keeps ?_ | refine Keeps.ite (fun _ => ?_) (fun _ => ?_)
    | split

theorem chargeQueue_keeps {s0 s : State} {q l : Nat} (hk : Keeps s0 s) : Keeps s0 (chargeQueue s q l) := by
  unfold chargeQueue
  dsimp only
  with_reducible repeat' first | assumption | refine State.onTq_keeps ?_ | refine Keeps.ite (fun _ => ?_) (fun _ => ?_)

theorem countSched_keeps {s0 s : State} {lp : Nat} {f : Frame} (hk : Keeps s0 s) : Keeps s0 (countSched s lp f) := by
  unfold countSched
  with_reducible repeat' first | assumption | refine countStat_keeps ?_

theorem weightedPick_keeps {s0 : State} {lp g y0 : Nat} {y1 : State} {y2 : Nat} (hk : Keeps s0 y1) :
    KeepsOpt (fun v => v.2.2) s0 (weightedPick lp g y0 y1 y2) := by
  induction y0 generalizing y1 y2 with
  | zero =>
    unfold weightedPick
    try dsimp only
    with_reducible repeat' first | exact KeepsOpt.none
  | succ fuel ih =>
    unfold weightedPick
    try dsimp only
    with_reducible repeat' first
      | refine ih ?_ | assumption | refine State.onTq_keeps ?_ | refine State.onTg_keeps ?_
      | refine KeepsOpt.ite (fun _ => ?_) (fun _ => ?_) | exact KeepsOpt.none | refine KeepsOpt.some ?_ | split

theorem classPick_keeps {s0 s : State} {lp g : Nat} (hk : Keeps s0 s) :
    KeepsOpt (fun v => v.2.2) s0 (classPick s lp g) := by
  unfold classPick
  with_reducible repeat' first
    | assumption | refine weightedPick_keeps ?_ | exact KeepsOpt.none | refine KeepsOpt.some ?_ | split

theorem groupPick_keeps {s0 s : State} {lp g : Nat} (hk : Keeps s0 s) :
    KeepsOpt (fun v => v.2.2) s0 (groupPick s lp g) := by
  unfold groupPick
  dsimp only
  with_reducible repeat' first
    | assumption | refine classPick_keeps ?_ | refine KeepsOpt.ite (fun _ => ?_) (fun _ => ?_) | exact KeepsOpt.none
    | refine KeepsOpt.some ?_ | refine KeepsOpt.get22 ‹_› ?_ | split

theorem commitPick_keeps {s0 s : State} {lp g c : Nat} {f : Frame} (hk : Keeps s0 s) :
    Keeps s0 (commitPick s lp g c f) := by
  unfold commitPick
  dsimp only
  with_reducible repeat' first
    | assumption | refine State.onLp_keeps ?_ | refine State.onTq_keeps ?_ | refine State.onTg_keeps ?_
    | refine chargeQueue_keeps ?_ | refine countSched_keeps ?_

theorem decideLoop_keeps {s0 : State} {lp y0 : Nat} {y1 : State} {y2 : Nat} (hk : Keeps s0 y1) :
    Keeps s0 (decideLoop lp y0 y1 y2) := by
  induction y0 generalizing y1 y2 with
  | zero =>
    unfold decideLoop
    try dsimp only
    with_reducible repeat' first | assumption
  | succ fuel ih =>
    unfold decideLoop
    try dsimp only
    with_reducible repeat' first
      | refine ih ?_ | assumption | refine State.onLp_keeps ?_ | refine State.onTg_keeps ?_
      | refine groupPick_keeps ?_ | refine commitPick_keeps ?_ | refine Keeps.ite (fun _ => ?_) (fun _ => ?_)
      | refine KeepsOpt.get22 ‹_› ?_ | split

theorem tmDecide_keeps {s0 s : State} {lp : Nat} (hk : Keeps s0 s) : Keeps s0 (tmDecide s lp) := by
  unfold tmDecide
  dsimp only
  with_reducible repeat' first
    | assumption | refine State.onLp_keeps ?_ | refine countStat_keeps ?_ | refine chargeQueue_keeps ?_
    | refine countSched_keeps ?_ | refine decideLoop_keeps ?_ | split

theorem refreshGates_keeps {s0 s : State} {lp : Nat} (hk : Keeps s0 s) : Keeps s0 (refreshGates s lp) := by
  unfold refreshGates
  dsimp only
  with_reducible repeat' first | assumption | refine State.onLp_keeps ?_

theorem takeBell_keeps {s0 s : State} {lp : Nat} (hk : Keeps s0 s) : Keeps s0 (takeBell s lp) := by
  unfold takeBell
  with_reducible repeat' first
    | assumption | refine State.onLp_keeps ?_ | refine refreshGates_keeps ?_
    | refine Keeps.ite (fun _ => ?_) (fun _ => ?_) | split

theorem dropQueue_keeps {s0 s : State} {lp q : Nat} (hk : Keeps s0 s) : Keeps s0 (dropQueue s lp q).1 := by
  unfold dropQueue
  dsimp only
  with_reducible repeat' first | assumption | refine State.onLp_keeps ?_ | refine State.onTq_keeps ?_

theorem abortQueue_keeps {s0 s : State} {q : Nat} (hk : Keeps s0 s) : Keeps s0 (abortQueue s q).1 := by
  unfold abortQueue
  dsimp only
  with_reducible repeat' first | assumption | refine countErrs_keeps ?_ | refine dropQueue_keeps ?_ | split

theorem dropPort_keeps {s0 s : State} {lp : Nat} (hk : Keeps s0 s) : Keeps s0 (dropPort s lp).1 := by
  unfold dropPort
  dsimp only
  with_reducible repeat' first
    | assumption | refine State.onLp_keeps ?_ | refine State.onTq_keeps ?_
    | refine Keeps.foldl _ ?_ (fun _ _ _ => ?_)

theorem emit_keeps {s0 s : State} {lp qset cls : Nat} {bytes : Bytes} (hk : Keeps s0 s) :
    Keeps s0 (emit s lp qset cls bytes) := by
  unfold emit
  with_reducible repeat' first
    | assumption | refine State.onPp_keeps ?_ | refine enqueue_keeps ?_
    | refine Keeps.ite (fun _ => ?_) (fun _ => ?_)

theorem sendPkt_keeps {s0 s : State} {lp qset cls mac ip sport dst : Nat} {pkt : Bytes} (hk : Keeps s0 s) :
    Keeps s0 (sendPkt s lp qset cls mac ip sport dst pkt) := by
  unfold sendPkt
  dsimp only
  with_reducible repeat' first
    | assumption | refine emit_keeps ?_ | refine Keeps.ite (fun _ => ?_) (fun _ => ?_)
    | fail_if_no_progress refine Keeps.upd ?_ rfl rfl

theorem sendAnswer_keeps {s0 s : State} {p : EhtRx} {express : Bool} {dst : Nat} {pkt : Bytes} (hk : Keeps s0 s) :
    Keeps s0 (sendAnswer s p express dst pkt) := by
  unfold sendAnswer
  with_reducible repeat' first | assumption | refine sendPkt_keeps ?_

theorem State.onOut_keeps {s0 s : State} {k : Nat} {m : OutMsg} (hk : Keeps s0 s) : Keeps s0 (State.onOut s k m) := by
  unfold State.onOut
  dsimp only
  with_reducible repeat' first | assumption | fail_if_no_progress refine Keeps.upd ?_ rfl rfl

theorem State.onBook_keeps {s0 s : State} {b : Nat} {f : Book → Book} (hk : Keeps s0 s) :
    Keeps s0 (State.onBook s b f) := by
  unfold State.onBook
  dsimp only
  with_reducible repeat' first | assumption | fail_if_no_progress refine Keeps.upd ?_ rfl rfl | split

theorem sendOne_keeps {s0 s : State} {k : Nat} {m : OutMsg} {token : Nat} (hk : Keeps s0 s) :
    Keeps s0 (sendOne s k m token).1 := by
  unfold sendOne
  dsimp only
  with_reducible repeat' first
    | assumption | refine countStat_keeps ?_ | refine sendPkt_keeps ?_ | refine State.onOut_keeps ?_
    | refine State.onBook_keeps ?_ | refine Keeps.ite (fun _ => ?_) (fun _ => ?_) | split

theorem requestCredit_keeps {s0 s : State} {k : Nat} {m : OutMsg} (hk : Keeps s0 s) :
    Keeps s0 (requestCredit s k m) := by
  unfold requestCredit
  dsimp only
  with_reducible repeat' first | assumption | refine sendPkt_keeps ?_ | refine State.onOut_keeps ?_

theorem sendLoop_keeps {s0 : State} {k y0 : Nat} {y1 : State} {y2 : OutMsg} (hk : Keeps s0 y1) :
    Keeps s0 (sendLoop k y0 y1 y2) := by
  induction y0 generalizing y1 y2 with
  | zero =>
    unfold sendLoop
    try dsimp only
    with_reducible repeat' first | assumption | refine State.onOut_keeps ?_
  | succ fuel ih =>
    unfold sendLoop
    try dsimp only
    with_reducible repeat' first
      | refine ih ?_ | assumption | refine State.onOut_keeps ?_ | refine sendOne_keeps ?_
      | refine requestCredit_keeps ?_ | refine Keeps.ite (fun _ => ?_) (fun _ => ?_) | split

theorem sendFrom_keeps {s0 s : State} {k : Nat} {m : OutMsg} (hk : Keeps s0 s) : Keeps s0 (sendFrom s k m) := by
  unfold sendFrom
  with_reducible repeat' first | assumption | refine sendLoop_keeps ?_

theorem resendAll_keeps {s0 s : State} {k : Nat} {m : OutMsg} (hk : Keeps s0 s) : Keeps s0 (resendAll s k m) := by
  unfold resendAll
  with_reducible repeat' first | assumption | refine sendFrom_keeps ?_

theorem nextMsgId_keeps {s0 s : State} {ep : Nat} (hk : Keeps s0 s) : Keeps s0 (nextMsgId s ep).2 := by
  unfold nextMsgId
  dsimp only
  with_reducible repeat' first | assumption | fail_if_no_progress refine Keeps.upd ?_ rfl rfl

theorem submit_keeps {s0 s : State} {m : OutMsg} (hk : Keeps s0 s) : Keeps s0 (submit s m).1 := by
  unfold submit
  dsimp only
  with_reducible repeat' first
    | assumption | refine sendFrom_keeps ?_ | refine nextMsgId_keeps ?_
    | refine Keeps.iteFst (fun _ => ?_) (fun _ => ?_) | fail_if_no_progress refine Keeps.upd ?_ rfl rfl

theorem dropLink_keeps {s0 s : State} {lp : Nat} (hk : Keeps s0 s) :
    Keeps s0 (dropLink s lp) := by
  unfold dropLink
  try dsimp only
  with_reducible repeat' first
    | assumption | refine State.onLp_keeps ?_ | refine State.onPp_keeps ?_
    | fail_if_no_progress refine Keeps.upd ?_ rfl rfl | split

theorem quiesceEffect_keeps {s0 s : State} {o : QObj} {r : QRec} (hk : Keeps s0 s) :
    Keeps s0 (quiesceEffect s o r) := by
  unfold quiesceEffect
  try dsimp only
  with_reducible repeat' first
    | assumption | refine State.onLp_keeps ?_ | refine dropLink_keeps ?_ | refine linkDown_keeps ?_
    | refine Keeps.ite (fun _ => ?_) (fun _ => ?_) | fail_if_no_progress refine Keeps.upd ?_ rfl rfl | split

theorem freeEndpoint_keeps {s0 s : State} {eid : Nat} (hk : Keeps s0 s) : Keeps s0 (freeEndpoint s eid) := by
  unfold freeEndpoint
  dsimp only
  with_reducible repeat' first | assumption | fail_if_no_progress refine Keeps.upd ?_ rfl rfl | split

theorem countChild_keeps {s0 s : State} {o : QObj} {r : QRec} (hk : Keeps s0 s) : Keeps s0 (countChild s o r) := by
  unfold countChild
  dsimp only
  with_reducible repeat' first | assumption | fail_if_no_progress refine Keeps.upd ?_ rfl rfl

theorem finishQuiesce_keeps {s0 s : State} {o : QObj} {r : QRec} (hk : Keeps s0 s) :
    Keeps s0 (finishQuiesce s o r) := by
  unfold finishQuiesce
  dsimp only
  with_reducible repeat' first
    | assumption | refine raise_keeps ?_ | refine State.qSet_keeps ?_ | refine State.qDel_keeps ?_
    | refine quiesceEffect_keeps ?_ | refine freeEndpoint_keeps ?_ | refine countChild_keeps ?_
    | refine Keeps.ite (fun _ => ?_) (fun _ => ?_) | split

theorem tryFinish_keeps {s0 s : State} {o : QObj} (hk : Keeps s0 s) : Keeps s0 (tryFinish s o) := by
  unfold tryFinish
  with_reducible repeat' first
    | assumption | refine finishQuiesce_keeps ?_ | refine Keeps.ite (fun _ => ?_) (fun _ => ?_) | split

theorem completeQuiesces_keeps {s0 s : State} (hk : Keeps s0 s) : Keeps s0 (completeQuiesces s) := by
  unfold completeQuiesces
  dsimp only
  with_reducible repeat' first
    | assumption | refine tryFinish_keeps ?_ | refine Keeps.ite (fun _ => ?_) (fun _ => ?_)
    | refine Keeps.foldl _ ?_ (fun _ _ _ => ?_)

theorem pumpSub_keeps {s0 s : State} {n : Nat} (hk : Keeps s0 s) : Keeps s0 (pumpSub s n) := by
  unfold pumpSub
  dsimp only
  with_reducible repeat' first
    | assumption | refine submit_keeps ?_ | refine Keeps.ite (fun _ => ?_) (fun _ => ?_)
    | fail_if_no_progress refine Keeps.upd ?_ rfl rfl | split

theorem pumpEvents_keeps {s0 s : State} (hk : Keeps s0 s) : Keeps s0 (pumpEvents s) := by
  unfold pumpEvents
  with_reducible repeat' first
    | assumption | refine pumpSub_keeps ?_ | refine Keeps.ite (fun _ => ?_) (fun _ => ?_)
    | refine Keeps.foldl _ ?_ (fun _ _ _ => ?_)

theorem settle_keeps {s0 s : State} (hk : Keeps s0 s) : Keeps s0 (settle s) := by
  unfold settle
  with_reducible repeat' first | assumption | refine completeQuiesces_keeps ?_ | refine pumpEvents_keeps ?_

theorem State.onTbl_keeps {s0 s : State} {t : Nat} {f : Table → Table} (hk : Keeps s0 s) :
    Keeps s0 (State.onTbl s t f) := by
  unfold State.onTbl
  with_reducible repeat' first | assumption | fail_if_no_progress refine Keeps.upd ?_ rfl rfl

theorem putEntry_keeps {s0 s : State} {t pos : Nat} {e : TEntry} (hk : Keeps s0 s) :
    Keeps s0 (putEntry s t pos e) := by
  unfold putEntry
  dsimp only
  with_reducible repeat' first | assumption | refine State.onTbl_keeps ?_

theorem delEntry_keeps {s0 s : State} {t pos : Nat} (hk : Keeps s0 s) : Keeps s0 (delEntry s t pos) := by
  unfold delEntry
  dsimp only
  with_reducible repeat' first | assumption | refine State.onTbl_keeps ?_ | split

theorem post_keeps {s0 s : State} {t typ port old tf age : Nat} {key : Bytes} (hk : Keeps s0 s) :
    Keeps s0 (post s t typ port old tf age key) := by
  unfold post
  try dsimp only
  with_reducible repeat' first
    | assumption | refine State.noteFlag_keeps ?_ | refine countErr_keeps ?_ | refine State.onTbl_keeps ?_
    | refine Keeps.ite (fun _ => ?_) (fun _ => ?_) | fail_if_no_progress refine Keeps.upd ?_ rfl rfl | split

theorem postDump_keeps {s0 s : State} {t : Nat} {e : TEntry} (hk : Keeps s0 s) : Keeps s0 (postDump s t e) := by
  unfold postDump
  dsimp only
  with_reducible repeat' first | assumption | refine post_keeps ?_

theorem runMoves_keeps {s0 : State} {t : Nat} {y0 : State} {y1 : List (Nat × Nat)} (hk : Keeps s0 y0) :
    Keeps s0 (runMoves t y0 y1) := by
  induction y1 generalizing y0 with
  | nil =>
    unfold runMoves
    try dsimp only
    with_reducible repeat' first | assumption
  | cons hd tl ih =>
    unfold runMoves
    try dsimp only
    with_reducible repeat' first
      | refine ih ?_ | assumption | refine State.onTbl_keeps ?_ | refine postDump_keeps ?_
      | refine Keeps.ite (fun _ => ?_) (fun _ => ?_) | split

theorem victim_keeps {s0 s : State} {t level : Nat} {key : Bytes} (hk : Keeps s0 s) :
    Keeps s0 (victim s t level key).1 := by
  unfold victim
  dsimp only
  with_reducible repeat' first
    | assumption | refine State.onTbl_keeps ?_ | refine Keeps.iteFst (fun _ => ?_) (fun _ => ?_)

theorem insertLevel_keeps {s0 s : State} {t level : Nat} {e : TEntry} (hk : Keeps s0 s) :
    Keeps s0 (insertLevel s t level e).1 := by
  unfold insertLevel
  dsimp only
  with_reducible repeat' first
    | assumption | refine countStat_keeps ?_ | refine State.onTbl_keeps ?_ | refine putEntry_keeps ?_
    | refine runMoves_keeps ?_ | split

theorem insert_keeps {s0 s : State} {t : Nat} {e : TEntry} {evict : Bool} (hk : Keeps s0 s) :
    Keeps s0 (insert s t e evict).1 := by
  unfold insert
  repeat' first
    | with_reducible assumption | extract_lets | with_reducible refine countErr_keeps ?_
    | with_reducible refine countStat_keeps ?_ | with_reducible refine putEntry_keeps ?_
    | with_reducible refine post_keeps ?_ | with_reducible refine victim_keeps ?_
    | with_reducible refine insertLevel_keeps ?_ | with_reducible refine Keeps.iteFst (fun _ => ?_) (fun _ => ?_)
    | split

theorem learnRequest_keeps {s0 s : State} {t : Nat} {r : LearnReq} (hk : Keeps s0 s) :
    Keeps s0 (learnRequest s t r) := by
  unfold learnRequest
  with_reducible repeat' first
    | assumption | refine countErr_keeps ?_ | refine State.onTbl_keeps ?_
    | refine Keeps.ite (fun _ => ?_) (fun _ => ?_)

theorem refreshRequest_keeps {s0 s : State} {t : Nat} {e : TEntry} (hk : Keeps s0 s) :
    Keeps s0 (refreshRequest s t e) := by
  unfold refreshRequest
  with_reducible repeat' first
    | assumption | refine countErr_keeps ?_ | refine State.onTbl_keeps ?_
    | refine Keeps.ite (fun _ => ?_) (fun _ => ?_)

theorem purgeHold_keeps {s0 s : State} {t : Nat} {now : Int} (hk : Keeps s0 s) : Keeps s0 (purgeHold s t now) := by
  unfold purgeHold
  dsimp only
  with_reducible repeat' first | assumption | refine State.onTbl_keeps ?_

theorem setHold_keeps {s0 s : State} {t : Nat} {h : Hold} (hk : Keeps s0 s) : Keeps s0 (setHold s t h) := by
  unfold setHold
  dsimp only
  with_reducible repeat' first
    | assumption | refine countErr_keeps ?_ | refine State.onTbl_keeps ?_
    | refine Keeps.ite (fun _ => ?_) (fun _ => ?_)

theorem learnNew_keeps {s0 s : State} {t : Nat} {r : LearnReq} (hk : Keeps s0 s) : Keeps s0 (learnNew s t r) := by
  unfold learnNew
  dsimp only
  with_reducible repeat' first
    | assumption | refine countErr_keeps ?_ | refine countStat_keeps ?_ | refine post_keeps ?_
    | refine insert_keeps ?_ | refine setHold_keeps ?_ | refine Keeps.ite (fun _ => ?_) (fun _ => ?_) | split

theorem learnMove_keeps {s0 s : State} {t pos : Nat} {e : TEntry} {r : LearnReq} (hk : Keeps s0 s) :
    Keeps s0 (learnMove s t pos e r) := by
  unfold learnMove
  dsimp only
  with_reducible repeat' first
    | assumption | refine countErr_keeps ?_ | refine countStat_keeps ?_ | refine putEntry_keeps ?_
    | refine post_keeps ?_ | refine setHold_keeps ?_ | refine Keeps.ite (fun _ => ?_) (fun _ => ?_)

theorem contend_keeps {s0 s : State} {t : Nat} {h : Hold} {e : TEntry} {r : LearnReq} {announce : Bool} (hk : Keeps s0 s) :
    Keeps s0 (contend s t h e r announce) := by
  unfold contend
  try dsimp only
  with_reducible repeat' first
    | assumption | refine countErr_keeps ?_ | refine State.onTbl_keeps ?_ | refine post_keeps ?_
    | refine Keeps.ite (fun _ => ?_) (fun _ => ?_) | fail_if_no_progress refine Keeps.upd ?_ rfl rfl | split

theorem refreshEntry_keeps {s0 s : State} {t pos : Nat} {e : TEntry} (hk : Keeps s0 s) :
    Keeps s0 (refreshEntry s t pos e) := by
  unfold refreshEntry
  with_reducible repeat' first | assumption | refine putEntry_keeps ?_

theorem learnHeld_keeps {s0 s : State} {t pos : Nat} {e : TEntry} {r : LearnReq} (hk : Keeps s0 s) :
    Keeps s0 (learnHeld s t pos e r) := by
  unfold learnHeld
  try dsimp only
  with_reducible repeat' first
    | assumption | refine countErr_keeps ?_ | refine State.onTbl_keeps ?_ | refine learnMove_keeps ?_
    | refine contend_keeps ?_ | refine refreshEntry_keeps ?_ | refine Keeps.ite (fun _ => ?_) (fun _ => ?_)
    | fail_if_no_progress refine Keeps.upd ?_ rfl rfl | split

theorem learnSync_keeps {s0 s : State} {t : Nat} {r : LearnReq} {age : Nat} (hk : Keeps s0 s) :
    Keeps s0 (learnSync s t r age) := by
  unfold learnSync
  try dsimp only
  with_reducible repeat' first
    | assumption | refine countErr_keeps ?_ | refine State.onTbl_keeps ?_ | refine post_keeps ?_
    | refine Keeps.ite (fun _ => ?_) (fun _ => ?_) | fail_if_no_progress refine Keeps.upd ?_ rfl rfl | split

theorem takeLearn_keeps {s0 s : State} {t : Nat} (hk : Keeps s0 s) : Keeps s0 (takeLearn s t) := by
  unfold takeLearn
  try dsimp only
  with_reducible repeat' first
    | assumption | refine State.onTbl_keeps ?_ | refine purgeHold_keeps ?_ | refine learnNew_keeps ?_
    | refine refreshEntry_keeps ?_ | refine learnHeld_keeps ?_ | refine learnSync_keeps ?_
    | refine Keeps.ite (fun _ => ?_) (fun _ => ?_) | fail_if_no_progress refine Keeps.upd ?_ rfl rfl | split

theorem takeRefresh_keeps {s0 s : State} {t : Nat} (hk : Keeps s0 s) : Keeps s0 (takeRefresh s t) := by
  unfold takeRefresh
  dsimp only
  with_reducible repeat' first | assumption | refine State.onTbl_keeps ?_ | refine refreshEntry_keeps ?_ | split

theorem ageTick_keeps {s0 s : State} {t : Nat} (hk : Keeps s0 s) : Keeps s0 (ageTick s t) := by
  unfold ageTick
  dsimp only
  with_reducible repeat' first | assumption | refine State.onTbl_keeps ?_

theorem takeAger_keeps {s0 s : State} {t : Nat} (hk : Keeps s0 s) : Keeps s0 (takeAger s t) := by
  unfold takeAger
  dsimp only
  with_reducible repeat' first
    | assumption | refine countStat_keeps ?_ | refine State.onTbl_keeps ?_ | refine putEntry_keeps ?_
    | refine delEntry_keeps ?_ | refine post_keeps ?_ | refine Keeps.ite (fun _ => ?_) (fun _ => ?_) | split

theorem flushEntries_keeps {s0 s : State} {t : Nat} {f : Flush} (hk : Keeps s0 s) :
    Keeps s0 (flushEntries s t f) := by
  unfold flushEntries
  with_reducible repeat' first | assumption | refine delEntry_keeps ?_ | refine Keeps.foldl _ ?_ (fun _ _ _ => ?_)

theorem dumpStep_keeps {s0 s : State} {t : Nat} (hk : Keeps s0 s) : Keeps s0 (dumpStep s t) := by
  unfold dumpStep
  dsimp only
  with_reducible repeat' first
    | assumption | refine State.onTbl_keeps ?_ | refine post_keeps ?_ | refine postDump_keeps ?_
    | refine Keeps.ite (fun _ => ?_) (fun _ => ?_) | refine Keeps.foldl _ ?_ (fun _ _ _ => ?_) | split

end Sys2Proof.Machine
end

