-- ==== Sys2Proof/Laws/KeepsEngines.lean ====
section
/-! SUPPORT. Idori threads, storage, mailbox and EHT. Every operation keeps the queue, the fuses and the form of the memories. -/

namespace Sys2Proof.Machine

theorem State.onStall_keeps {s0 s : State} {n : Nat} {f : Stall → Stall} (hk : Keeps s0 s) :
    Keeps s0 (State.onStall s n f) := by
  unfold State.onStall
  dsimp only
  with_reducible repeat' first | assumption | fail_if_no_progress refine Keeps.upd ?_ rfl rfl

theorem State.onRole_keeps {s0 s : State} {st r : Nat} {f : CoreRole → CoreRole} (hk : Keeps s0 s) :
    Keeps s0 (State.onRole s st r f) := by
  unfold State.onRole
  with_reducible repeat' first | assumption | refine State.onStall_keeps ?_

theorem State.onThrAt_keeps {s0 s : State} {st r t : Nat} {f : Thread → Thread} (hk : Keeps s0 s) :
    Keeps s0 (State.onThrAt s st r t f) := by
  unfold State.onThrAt
  with_reducible repeat' first | assumption | refine State.onRole_keeps ?_

theorem State.onThr_keeps {s0 s : State} {i : Tid} {f : Thread → Thread} (hk : Keeps s0 s) :
    Keeps s0 (State.onThr s i f) := by
  unfold State.onThr
  with_reducible repeat' first | assumption | refine State.onThrAt_keeps ?_

theorem State.onChan_keeps {s0 s : State} {c : Nat} {f : Chan → Chan} (hk : Keeps s0 s) :
    Keeps s0 (State.onChan s c f) := by
  unfold State.onChan
  dsimp only
  with_reducible repeat' first | assumption | fail_if_no_progress refine Keeps.upd ?_ rfl rfl

theorem State.setReg_keeps {s0 s : State} {i : Tid} {r : Reg} {v : Word64} (hk : Keeps s0 s) :
    Keeps s0 (State.setReg s i r v) := by
  unfold State.setReg
  with_reducible repeat' first | assumption | refine State.onThr_keeps ?_

theorem State.setCs_keeps {s0 s : State} {i : Tid} {c : Nat} (hk : Keeps s0 s) : Keeps s0 (State.setCs s i c) := by
  unfold State.setCs
  with_reducible repeat' first | assumption | refine State.onThr_keeps ?_

theorem quietKeep_keeps {s0 s : State} {st r : Nat} (hk : Keeps s0 s) : Keeps s0 (quietKeep s st r) := by
  unfold quietKeep
  with_reducible repeat' first | assumption | refine State.onRole_keeps ?_

theorem quietReset_keeps {s0 s : State} {st r : Nat} (hk : Keeps s0 s) : Keeps s0 (quietReset s st r) := by
  unfold quietReset
  dsimp only
  with_reducible repeat' first
    | assumption | refine State.onStall_keeps ?_ | refine State.onRole_keeps ?_
    | refine Keeps.ite (fun _ => ?_) (fun _ => ?_)

theorem State.onTf_keeps {s0 s : State} {n : Nat} {f : Tf → Tf} (hk : Keeps s0 s) : Keeps s0 (State.onTf s n f) := by
  unfold State.onTf
  with_reducible repeat' first | assumption | fail_if_no_progress refine Keeps.upd ?_ rfl rfl

theorem reach_keeps {s0 s : State} {i : Tid} (hk : Keeps s0 s) : Keeps s0 (reach s i) := by
  unfold reach
  dsimp only
  with_reducible repeat' first
    | assumption | refine raise_keeps ?_ | refine pumpEvents_keeps ?_ | refine State.onThr_keeps ?_
    | refine quietKeep_keeps ?_ | refine Keeps.ite (fun _ => ?_) (fun _ => ?_)

theorem State.setPc_keeps {s0 s : State} {i : Tid} {pc : Word64} (hk : Keeps s0 s) :
    Keeps s0 (State.setPc s i pc) := by
  unfold State.setPc
  with_reducible repeat' first | assumption | refine State.onThr_keeps ?_ | refine reach_keeps ?_

theorem retire_keeps {s0 s : State} {i : Tid} (hk : Keeps s0 s) : Keeps s0 (retire s i) := by
  unfold retire
  with_reducible repeat' first | assumption | refine State.setPc_keeps ?_

theorem endRead_keeps {s0 s : State} {i : Tid} {v : Word64} {cs : Nat} (hk : Keeps s0 s) :
    Keeps s0 (endRead s i v cs) := by
  unfold endRead
  dsimp only
  with_reducible repeat' first | assumption | refine State.onThr_keeps ?_ | refine retire_keeps ?_ | split

theorem wakeSupervisor_keeps {s0 s : State} {st r : Nat} (hk : Keeps s0 s) : Keeps s0 (wakeSupervisor s st r) := by
  unfold wakeSupervisor
  dsimp only
  with_reducible repeat' first
    | assumption | refine endRead_keeps ?_ | refine Keeps.ite (fun _ => ?_) (fun _ => ?_) | split

theorem postFault_keeps {s0 s : State} {st r kind thread code pc info : Nat} (hk : Keeps s0 s) :
    Keeps s0 (postFault s st r kind thread code pc info) := by
  unfold postFault
  dsimp only
  with_reducible repeat' first
    | assumption | refine raise_keeps ?_ | refine State.onRole_keeps ?_ | refine quietReset_keeps ?_
    | refine wakeSupervisor_keeps ?_ | refine Keeps.ite (fun _ => ?_) (fun _ => ?_)

theorem faultThread_keeps {s0 s : State} {i : Tid} {code info : Nat} (hk : Keeps s0 s) :
    Keeps s0 (faultThread s i code info) := by
  unfold faultThread
  dsimp only
  with_reducible repeat' first
    | assumption | refine countErr_keeps ?_ | refine raise_keeps ?_ | refine settle_keeps ?_
    | refine State.onThr_keeps ?_ | refine quietKeep_keeps ?_ | refine postFault_keeps ?_
    | refine Keeps.ite (fun _ => ?_) (fun _ => ?_)

theorem appendMsg_keeps {s0 s : State} {c : Nat} {m : ChMsg} (hk : Keeps s0 s) : Keeps s0 (appendMsg s c m) := by
  unfold appendMsg
  dsimp only
  with_reducible repeat' first
    | assumption | refine countStat_keeps ?_ | refine State.onChan_keeps ?_ | refine quietReset_keeps ?_ | split

theorem deliver_keeps {s0 s : State} {c src : Nat} {words : List Word64} {buf : Option Nat} (hk : Keeps s0 s) :
    KeepsOpt (fun v => v) s0 (deliver s c src words buf) := by
  unfold deliver
  with_reducible repeat' first
    | assumption | refine appendMsg_keeps ?_ | refine KeepsOpt.ite (fun _ => ?_) (fun _ => ?_) | exact KeepsOpt.none
    | refine KeepsOpt.some ?_

theorem chanDrop_keeps {s0 s : State} {c : Nat} (hk : Keeps s0 s) : Keeps s0 (chanDrop s c) := by
  unfold chanDrop
  with_reducible repeat' first | assumption | refine countErr_keeps ?_

theorem deliverBuf_keeps {s0 s : State} {writer c src cls tf result cap len : Nat} {bytes : Bytes} {metas : List Nat} {tIn : Nat} (hk : Keeps s0 s) :
    Keeps s0 (deliverBuf s writer c src cls tf result cap len bytes metas tIn) := by
  unfold deliverBuf
  try dsimp only
  with_reducible repeat' first
    | assumption | refine countStat_keeps ?_ | refine State.poke_keeps ?_ | refine KeepsOpt.get0 ‹_› ?_
    | refine deliver_keeps ?_ | refine chanDrop_keeps ?_ | refine Keeps.ite (fun _ => ?_) (fun _ => ?_)
    | fail_if_no_progress refine Keeps.upd ?_ rfl rfl | split

theorem clerkDeliver_keeps {s0 s : State} {c tf : Nat} (hk : Keeps s0 s) :
    KeepsOpt (fun v => v) s0 (clerkDeliver s c tf) := by
  unfold clerkDeliver
  with_reducible repeat' first
    | assumption | refine chanDrop_keeps ?_ | refine deliverBuf_keeps ?_
    | refine KeepsOpt.ite (fun _ => ?_) (fun _ => ?_) | exact KeepsOpt.none | refine KeepsOpt.some ?_

theorem clerkLoop_keeps {s0 : State} : ∀ (l : List (Nat × Nat)) {s : State}, Keeps s0 s → Keeps s0 (clerkLoop l s).1
  | [], _, hk => hk
  | x :: rest, s, hk => by
    unfold clerkLoop
    split
    · exact clerkLoop_keeps rest (KeepsOpt.get0 ‹_› (clerkDeliver_keeps hk))
    · exact clerkLoop_keeps rest hk

theorem pumpClerk_keeps {s0 s : State} (hk : Keeps s0 s) : Keeps s0 (pumpClerk s) := by
  unfold pumpClerk
  dsimp only
  with_reducible repeat' first
    | assumption | refine clerkLoop_keeps _ ?_ | refine Keeps.ite (fun _ => ?_) (fun _ => ?_)
    | fail_if_no_progress refine Keeps.upd ?_ rfl rfl

theorem popMsg_keeps {s0 s : State} {c : Nat} (hk : Keeps s0 s) : Keeps s0 (popMsg s c) := by
  unfold popMsg
  try dsimp only
  with_reducible repeat' first
    | assumption | refine State.qCount_keeps ?_ | refine State.onChan_keeps ?_ | refine pumpClerk_keeps ?_
    | fail_if_no_progress refine Keeps.upd ?_ rfl rfl | split

theorem readFaultWord_keeps {s0 s : State} {i : Tid} (hk : Keeps s0 s) :
    KeepsOpt (fun v => v.2) s0 (readFaultWord s i) := by
  unfold readFaultWord
  dsimp only
  with_reducible repeat' first
    | assumption | refine State.onRole_keeps ?_ | refine State.onThr_keeps ?_ | exact KeepsOpt.none
    | refine KeepsOpt.some ?_ | split

theorem readChanWord_keeps {s0 s : State} {i : Tid} {ep c : Nat} (hk : Keeps s0 s) :
    KeepsOpt (fun v => v.2) s0 (readChanWord s i ep c) := by
  unfold readChanWord
  dsimp only
  with_reducible repeat' first
    | assumption | refine State.onThr_keeps ?_ | refine State.onChan_keeps ?_ | refine popMsg_keeps ?_
    | refine Keeps.ite (fun _ => ?_) (fun _ => ?_) | exact KeepsOpt.none | refine KeepsOpt.some ?_ | split

theorem readWord_keeps {s0 s : State} {i : Tid} {ep : Nat} (hk : Keeps s0 s) :
    KeepsOpt (fun v => v.2) s0 (readWord s i ep) := by
  unfold readWord
  with_reducible repeat' first
    | assumption | refine readFaultWord_keeps ?_ | refine readChanWord_keeps ?_
    | refine KeepsOpt.ite (fun _ => ?_) (fun _ => ?_) | exact KeepsOpt.none | split

theorem State.onStage_keeps {s0 s : State} {i : Tid} {ep : Nat} {x : Stage} (hk : Keeps s0 s) :
    Keeps s0 (State.onStage s i ep x) := by
  unfold State.onStage
  with_reducible repeat' first | assumption | refine State.onRole_keeps ?_

theorem tryRead_keeps {s0 s : State} {i : Tid} {y0 : Wait} (hk : Keeps s0 s) :
    KeepsOpt (fun v => v.2) s0 (tryRead s i y0) := by
  unfold tryRead
  dsimp only
  with_reducible repeat' first
    | assumption | refine readWord_keeps ?_ | refine KeepsOpt.ite (fun _ => ?_) (fun _ => ?_) | exact KeepsOpt.none
    | refine KeepsOpt.some ?_ | split

theorem blockRead_keeps {s0 : State} {i : Tid} {w : Wait} {rd : Reg} {s : State} (hk : Keeps s0 s) :
    Keeps s0 (blockRead i w rd s) := by
  unfold blockRead
  with_reducible repeat' first
    | assumption | refine settle_keeps ?_ | refine State.onThr_keeps ?_ | refine State.setReg_keeps ?_
    | refine State.setCs_keeps ?_ | refine retire_keeps ?_ | refine tryRead_keeps ?_
    | refine Keeps.ite (fun _ => ?_) (fun _ => ?_) | refine KeepsOpt.get2 ‹_› ?_ | split

theorem noteIssue_keeps {s0 s : State} {i : Tid} (hk : Keeps s0 s) : Keeps s0 (noteIssue s i) := by
  unfold noteIssue
  with_reducible repeat' first | assumption | refine countStat_keeps ?_ | refine quietReset_keeps ?_

theorem poisonHit_keeps {s0 s : State} (hk : Keeps s0 s) : Keeps s0 (poisonHit s) := by
  unfold poisonHit
  with_reducible repeat' first | assumption | refine countErr_keeps ?_

theorem fetchFault_keeps {s0 s : State} {i : Tid} (hk : Keeps s0 s) :
    KeepsOpt (fun v => v.2) s0 (fetchFault s i) := by
  unfold fetchFault
  with_reducible repeat' first
    | assumption | refine poisonHit_keeps ?_ | refine KeepsOpt.ite (fun _ => ?_) (fun _ => ?_) | exact KeepsOpt.none
    | refine KeepsOpt.some ?_ | split

theorem runOne_keeps {s0 : State} {i : Tid} {f : State → State} {s : State} (hk : Keeps s0 s)
    (hf_f : ∀ z0, Keeps s0 z0 → Keeps s0 (f z0)) : Keeps s0 (runOne i f s) := by
  unfold runOne
  with_reducible repeat' first
    | assumption | refine faultThread_keeps ?_ | refine fetchFault_keeps ?_ | refine hf_f _ ?_
    | refine KeepsOpt.get2 ‹_› ?_ | split

theorem unread_keeps {s0 s : State} {st r t : Nat} (hk : Keeps s0 s) : Keeps s0 (unread s st r t) := by
  unfold unread
  dsimp only
  with_reducible repeat' first
    | assumption | refine State.onRole_keeps ?_ | refine State.onChan_keeps ?_
    | refine Keeps.ite (fun _ => ?_) (fun _ => ?_) | refine Keeps.foldl _ ?_ (fun _ _ _ => ?_)

theorem dropStages_keeps {s0 s : State} {st r t : Nat} (hk : Keeps s0 s) : Keeps s0 (dropStages s st r t) := by
  unfold dropStages
  with_reducible repeat' first | assumption | refine State.onRole_keeps ?_

theorem loadScratch_keeps {s0 s : State} {st r : Nat} (hk : Keeps s0 s) : Keeps s0 (loadScratch s st r) := by
  unfold loadScratch
  with_reducible repeat' first
    | assumption | refine State.poke_keeps ?_ | refine Keeps.ite (fun _ => ?_) (fun _ => ?_)
    | refine Keeps.foldl _ ?_ (fun _ _ _ => ?_)

theorem loadStallMem_keeps {s0 s : State} {st : Nat} (hk : Keeps s0 s) : Keeps s0 (loadStallMem s st) := by
  unfold loadStallMem
  with_reducible repeat' first
    | assumption | refine State.poke_keeps ?_ | refine Keeps.ite (fun _ => ?_) (fun _ => ?_)
    | refine Keeps.foldl _ ?_ (fun _ _ _ => ?_)

theorem startThread_keeps {s0 s : State} {st r t : Nat} (hk : Keeps s0 s) : Keeps s0 (startThread s st r t) := by
  unfold startThread
  dsimp only
  with_reducible repeat' first
    | assumption | refine State.onThrAt_keeps ?_ | refine reach_keeps ?_ | refine unread_keeps ?_
    | refine Keeps.ite (fun _ => ?_) (fun _ => ?_)

theorem startCore_keeps {s0 s : State} {st r : Nat} (hk : Keeps s0 s) : Keeps s0 (startCore s st r) := by
  unfold startCore
  dsimp only
  with_reducible repeat' first
    | assumption | refine State.onRole_keeps ?_ | refine quietReset_keeps ?_ | refine loadScratch_keeps ?_
    | refine startThread_keeps ?_ | refine Keeps.foldl _ ?_ (fun _ _ _ => ?_)

theorem loadTables_keeps {s0 s : State} {st : Nat} (hk : Keeps s0 s) : Keeps s0 (loadTables s st) := by
  unfold loadTables
  dsimp only
  with_reducible repeat' first | assumption | refine State.onStall_keeps ?_

theorem moveEps_keeps {s0 s : State} {st r t : Nat} {y0 : List (Nat × EpBind)} (hk : Keeps s0 s) :
    Keeps s0 (moveEps s st r t y0) := by
  induction y0 generalizing s with
  | nil =>
    unfold moveEps
    try dsimp only
    with_reducible repeat' first | assumption
  | cons hd tl ih =>
    unfold moveEps
    try dsimp only
    with_reducible repeat' first | refine ih ?_ | assumption | refine State.onRole_keeps ?_ | split

theorem moveThread_keeps {s0 s : State} {st failed t : Nat} (hk : Keeps s0 s) :
    Keeps s0 (moveThread s st failed t).1 := by
  unfold moveThread
  dsimp only
  with_reducible repeat' first
    | assumption | refine State.onRole_keeps ?_ | refine State.onThrAt_keeps ?_ | refine unread_keeps ?_
    | refine moveEps_keeps ?_ | refine Keeps.iteFst (fun _ => ?_) (fun _ => ?_) | split

theorem placeThreads_keeps {s0 : State} {st failed : Nat} {y0 : State} {y1 : List Nat} {y2 : List (Nat × Nat × Nat)}
    (hk : Keeps s0 y0) : Keeps s0 (placeThreads st failed y0 y1 y2).1 := by
  induction y1 generalizing y0 y2 with
  | nil =>
    unfold placeThreads
    try dsimp only
    with_reducible repeat' first | assumption
  | cons hd tl ih =>
    unfold placeThreads
    try dsimp only
    with_reducible repeat' first
      | refine ih ?_ | assumption | refine moveThread_keeps ?_ | refine Keeps.ofFst ‹_› ?_ | split

theorem rehome_keeps {s0 s : State} {st failed : Nat} (hk : Keeps s0 s) : Keeps s0 (rehome s st failed).1 := by
  unfold rehome
  try dsimp only
  with_reducible repeat' first
    | assumption | refine State.onStall_keeps ?_ | refine State.onRole_keeps ?_ | refine quietReset_keeps ?_
    | refine placeThreads_keeps ?_ | fail_if_no_progress refine Keeps.upd ?_ rfl rfl | split

theorem rehomeAll_keeps {s0 s : State} {st : Nat} (hk : Keeps s0 s) : Keeps s0 (rehomeAll s st).1 := by
  unfold rehomeAll
  dsimp only
  with_reducible repeat' first | assumption | refine rehome_keeps ?_ | refine Keeps.foldlFst _ ?_ (fun _ _ _ => ?_)

theorem State.onSq_keeps {s0 s : State} {k : Nat} {f : StoQueue → StoQueue} (hk : Keeps s0 s) :
    Keeps s0 (State.onSq s k f) := by
  unfold State.onSq
  dsimp only
  with_reducible repeat' first | assumption | fail_if_no_progress refine Keeps.upd ?_ rfl rfl | split

theorem State.onDrive_keeps {s0 s : State} {rp : Nat} {f : Drive → Drive} (hk : Keeps s0 s) :
    Keeps s0 (State.onDrive s rp f) := by
  unfold State.onDrive
  dsimp only
  with_reducible repeat' first | assumption | fail_if_no_progress refine Keeps.upd ?_ rfl rfl

theorem State.onJournal_keeps {s0 s : State} {j : Nat} {f : Journal → Journal} (hk : Keeps s0 s) :
    Keeps s0 (State.onJournal s j f) := by
  unfold State.onJournal
  dsimp only
  with_reducible repeat' first | assumption | fail_if_no_progress refine Keeps.upd ?_ rfl rfl

theorem sqSend_keeps {s0 s : State} {k op key addr : Nat} {payload : Bytes} {readLen : Nat} {owner : MsgOwner}
    (hk : Keeps s0 s) : KeepsOpt (fun v => v.1) s0 (sqSend s k op key addr payload readLen owner) := by
  unfold sqSend
  dsimp only
  with_reducible repeat' first
    | assumption | refine submit_keeps ?_ | exact KeepsOpt.none | refine KeepsOpt.some ?_ | split

theorem freeSlots_keeps {s0 s : State} {eid : Nat} {slots : List Nat} (hk : Keeps s0 s) :
    Keeps s0 (freeSlots s eid slots) := by
  unfold freeSlots
  dsimp only
  with_reducible repeat' first | assumption | fail_if_no_progress refine Keeps.upd ?_ rfl rfl | split

theorem logError_keeps {s0 s : State} {k : Nat} {c : StoCmd} {status nvme rp info : Nat} {lost : Bool}
    (hk : Keeps s0 s) : Keeps s0 (logError s k c status nvme rp info lost) := by
  unfold logError
  dsimp only
  with_reducible repeat' first | assumption | refine State.onSq_keeps ?_

theorem sqError_keeps {s0 s : State} {k : Nat} (hk : Keeps s0 s) : Keeps s0 (sqError s k) := by
  unfold sqError
  with_reducible repeat' first | assumption | refine State.onSq_keeps ?_

theorem loseEntries_keeps {s0 s : State} {k : Nat} {es : List CoEnt} (hk : Keeps s0 s) :
    Keeps s0 (loseEntries s k es) := by
  unfold loseEntries
  dsimp only
  with_reducible repeat' first
    | assumption | refine countErr_keeps ?_ | refine freeSlots_keeps ?_ | refine logError_keeps ?_
    | refine sqError_keeps ?_ | refine Keeps.foldl _ ?_ (fun _ _ _ => ?_) | split

theorem sendEntries_keeps {s0 s : State} {k : Nat} {es : List CoEnt} {tail : Bytes} (hk : Keeps s0 s) :
    Keeps s0 (sendEntries s k es tail) := by
  unfold sendEntries
  dsimp only
  with_reducible repeat' first
    | assumption | refine State.onSq_keeps ?_ | refine sqSend_keeps ?_ | refine loseEntries_keeps ?_
    | refine KeepsOpt.get1 ‹_› ?_ | split

theorem sendCoal_keeps {s0 s : State} {k : Nat} (hk : Keeps s0 s) : Keeps s0 (sendCoal s k) := by
  unfold sendCoal
  with_reducible repeat' first
    | assumption | refine State.onSq_keeps ?_ | refine sendEntries_keeps ?_
    | refine Keeps.ite (fun _ => ?_) (fun _ => ?_) | split

theorem postEntry_keeps {s0 s : State} {k : Nat} {c : StoCmd} {status nvme rp info held : Nat} {tail : Bytes} {refused : Bool} (hk : Keeps s0 s) :
    Keeps s0 (postEntry s k c status nvme rp info held tail refused) := by
  unfold postEntry
  try dsimp only
  with_reducible repeat' first
    | assumption | refine State.onSq_keeps ?_ | refine sendEntries_keeps ?_ | refine sendCoal_keeps ?_
    | refine Keeps.ite (fun _ => ?_) (fun _ => ?_) | fail_if_no_progress refine Keeps.upd ?_ rfl rfl | split

theorem completeCmd_keeps {s0 s : State} {k : Nat} {c : StoCmd} {status nvme rp info held : Nat} {tail : Bytes}
    (hk : Keeps s0 s) : Keeps s0 (completeCmd s k c status nvme rp info held tail) := by
  unfold completeCmd
  try dsimp only
  with_reducible repeat' first
    | assumption | refine countErr_keeps ?_ | refine countStat_keeps ?_ | refine State.qCount_keeps ?_
    | refine State.qCountTf_keeps ?_ | refine State.onSq_keeps ?_ | refine logError_keeps ?_ | refine sqError_keeps ?_
    | refine postEntry_keeps ?_ | refine Keeps.ite (fun _ => ?_) (fun _ => ?_)
    | fail_if_no_progress refine Keeps.upd ?_ rfl rfl | split

theorem finishCmd_keeps {s0 s : State} {k : Nat} {c : StoCmd} {status info : Nat} (hk : Keeps s0 s) :
    Keeps s0 (finishCmd s k c status info) := by
  unfold finishCmd
  with_reducible repeat' first | assumption | refine completeCmd_keeps ?_

theorem serveLog_keeps {s0 s : State} {k : Nat} {c : StoCmd} (hk : Keeps s0 s) : Keeps s0 (serveLog s k c) := by
  unfold serveLog
  dsimp only
  with_reducible repeat' first
    | assumption | refine State.onSq_keeps ?_ | refine completeCmd_keeps ?_
    | refine Keeps.ite (fun _ => ?_) (fun _ => ?_) | split

theorem serveRestart_keeps {s0 s : State} {k : Nat} {c : StoCmd} (hk : Keeps s0 s) :
    Keeps s0 (serveRestart s k c) := by
  unfold serveRestart
  dsimp only
  with_reducible repeat' first
    | assumption | refine State.onSq_keeps ?_ | refine completeCmd_keeps ?_ | refine finishCmd_keeps ?_
    | refine Keeps.ite (fun _ => ?_) (fun _ => ?_) | refine Keeps.foldl _ ?_ (fun _ _ _ => ?_) | split

theorem refuseSub_keeps {s0 s : State} {k : Nat} {c : StoCmd} {status : Nat} (hk : Keeps s0 s) :
    Keeps s0 (refuseSub s k c status) := by
  unfold refuseSub
  with_reducible repeat' first
    | assumption | refine countStat_keeps ?_ | refine postEntry_keeps ?_ | split

theorem finishOffline_keeps {s0 s : State} {k : Nat} {c : StoCmd} (hk : Keeps s0 s) :
    Keeps s0 (finishOffline s k c) := by
  unfold finishOffline
  with_reducible repeat' first
    | assumption | refine completeCmd_keeps ?_ | split

theorem acceptSub_keeps {s0 s : State} {k slot : Nat} {m : Bytes} (hk : Keeps s0 s) :
    Keeps s0 (acceptSub s k slot m) := by
  unfold acceptSub
  try dsimp only
  with_reducible repeat' first
    | assumption | refine countStat_keeps ?_ | refine State.onSq_keeps ?_ | refine finishCmd_keeps ?_
    | refine serveLog_keeps ?_ | refine serveRestart_keeps ?_ | refine refuseSub_keeps ?_
    | refine finishOffline_keeps ?_ | refine Keeps.ite (fun _ => ?_) (fun _ => ?_)
    | fail_if_no_progress refine Keeps.upd ?_ rfl rfl | split

theorem takeUnknown_keeps {s0 : State} {k y0 : Nat} {y1 : State} (hk : Keeps s0 y1) :
    Keeps s0 (takeUnknown k y0 y1) := by
  induction y0 generalizing y1 with
  | zero =>
    unfold takeUnknown
    try dsimp only
    with_reducible repeat' first | assumption
  | succ fuel ih =>
    unfold takeUnknown
    try dsimp only
    with_reducible repeat' first
      | refine ih ?_ | assumption | refine State.onSq_keeps ?_ | refine acceptSub_keeps ?_
      | refine Keeps.ite (fun _ => ?_) (fun _ => ?_) | split

theorem sweepUnknown_keeps {s0 s : State} {k : Nat} (hk : Keeps s0 s) : Keeps s0 (sweepUnknown s k) := by
  unfold sweepUnknown
  with_reducible repeat' first | assumption | refine takeUnknown_keeps ?_ | split

theorem arriveSub_keeps {s0 s : State} {k slot : Nat} {m : Bytes} (hk : Keeps s0 s) :
    Keeps s0 (arriveSub s k slot m) := by
  unfold arriveSub
  with_reducible repeat' first | assumption | refine State.onSq_keeps ?_ | refine sweepUnknown_keeps ?_

theorem takeSub_keeps {s0 s : State} {k : Nat} {p : Bytes → Bool} (hk : Keeps s0 s) : Keeps s0 (takeSub s k p) := by
  unfold takeSub
  with_reducible repeat' first
    | assumption | refine State.onSq_keeps ?_ | refine acceptSub_keeps ?_ | refine sweepUnknown_keeps ?_
    | refine Keeps.ite (fun _ => ?_) (fun _ => ?_) | split

theorem yieldTest_keeps {s0 s : State} {rp : Nat} (hk : Keeps s0 s) : Keeps s0 (yieldTest s rp) := by
  unfold yieldTest
  with_reducible repeat' first
    | assumption | refine countErr_keeps ?_ | refine State.onDrive_keeps ?_
    | refine Keeps.ite (fun _ => ?_) (fun _ => ?_) | split

theorem nvmeIssue_keeps {s0 s : State} {rp op nsid lba blocks : Nat} {data : Bytes} {fua : Bool} {f : NvmeFor}
    (hk : Keeps s0 s) : Keeps s0 (nvmeIssue s rp op nsid lba blocks data fua f) := by
  unfold nvmeIssue
  dsimp only
  with_reducible repeat' first
    | assumption | refine countStat_keeps ?_ | refine State.onDrive_keeps ?_ | refine yieldTest_keeps ?_
    | refine Keeps.ite (fun _ => ?_) (fun _ => ?_)

theorem onCmd_keeps {s0 s : State} {k no : Nat} {f : StoCmd → StoCmd} (hk : Keeps s0 s) :
    Keeps s0 (onCmd s k no f) := by
  unfold onCmd
  with_reducible repeat' first | assumption | refine State.onSq_keeps ?_

theorem issuePieces_keeps {s0 s : State} {k : Nat} {c : StoCmd} {ps : List Piece} (hk : Keeps s0 s) :
    Keeps s0 (issuePieces s k c ps) := by
  unfold issuePieces
  dsimp only
  with_reducible repeat' first
    | assumption | refine nvmeIssue_keeps ?_ | refine onCmd_keeps ?_ | refine Keeps.foldl _ ?_ (fun _ _ _ => ?_)

theorem cacheDrop_keeps {s0 s : State} {v lba n : Nat} (hk : Keeps s0 s) : Keeps s0 (cacheDrop s v lba n) := by
  unfold cacheDrop
  dsimp only
  with_reducible repeat' first | assumption | fail_if_no_progress refine Keeps.upd ?_ rfl rfl

theorem cachePut_keeps {s0 s : State} {v lba : Nat} {data : Bytes} (hk : Keeps s0 s) :
    Keeps s0 (cachePut s v lba data) := by
  unfold cachePut
  dsimp only
  with_reducible repeat' first
    | assumption | refine cacheDrop_keeps ?_ | refine Keeps.ite (fun _ => ?_) (fun _ => ?_)
    | fail_if_no_progress refine Keeps.upd ?_ rfl rfl

theorem cacheTouch_keeps {s0 s : State} {v lba n : Nat} (hk : Keeps s0 s) : Keeps s0 (cacheTouch s v lba n) := by
  unfold cacheTouch
  dsimp only
  with_reducible repeat' first | assumption | fail_if_no_progress refine Keeps.upd ?_ rfl rfl

theorem checkpoint_keeps {s0 s : State} {j : Nat} (hk : Keeps s0 s) : Keeps s0 (checkpoint s j) := by
  unfold checkpoint
  dsimp only
  with_reducible repeat' first | assumption | refine State.onJournal_keeps ?_ | refine nvmeIssue_keeps ?_ | split

theorem writeRecord_keeps {s0 s : State} {j k : Nat} {c : StoCmd} (hk : Keeps s0 s) :
    Keeps s0 (writeRecord s j k c) := by
  unfold writeRecord
  dsimp only
  with_reducible repeat' first
    | assumption | refine State.onJournal_keeps ?_ | refine nvmeIssue_keeps ?_ | refine onCmd_keeps ?_
    | refine Keeps.ite (fun _ => ?_) (fun _ => ?_) | split

theorem tryRecord_keeps {s0 s : State} {j k : Nat} {c : StoCmd} (hk : Keeps s0 s) :
    Keeps s0 (tryRecord s j k c).1 := by
  unfold tryRecord
  try dsimp only
  with_reducible repeat' first
    | assumption | refine completeCmd_keeps ?_ | refine checkpoint_keeps ?_ | refine writeRecord_keeps ?_
    | refine Keeps.ite (fun _ => ?_) (fun _ => ?_) | refine Keeps.iteFst (fun _ => ?_) (fun _ => ?_)
    | refine Keeps.iteSnd (fun _ => ?_) (fun _ => ?_) | fail_if_no_progress refine Keeps.upd ?_ rfl rfl | split

theorem pumpWaiters_keeps {s0 : State} {j y0 : Nat} {y1 : State} (hk : Keeps s0 y1) :
    Keeps s0 (pumpWaiters j y0 y1) := by
  induction y0 generalizing y1 with
  | zero =>
    unfold pumpWaiters
    try dsimp only
    with_reducible repeat' first | assumption
  | succ fuel ih =>
    unfold pumpWaiters
    try dsimp only
    with_reducible repeat' first
      | refine ih ?_ | assumption | refine State.onJournal_keeps ?_ | refine tryRecord_keeps ?_
      | refine Keeps.ite (fun _ => ?_) (fun _ => ?_) | split

theorem issueHome_keeps {s0 s : State} {j : Nat} {r : JRec} (hk : Keeps s0 s) : Keeps s0 (issueHome s j r) := by
  unfold issueHome
  dsimp only
  with_reducible repeat' first
    | assumption | refine State.onJournal_keeps ?_ | refine nvmeIssue_keeps ?_
    | refine Keeps.foldl _ ?_ (fun _ _ _ => ?_)

theorem issueHomes_keeps {s0 : State} {j : Nat} {y0 : State} {y1 y2 : List JRec} (hk : Keeps s0 y0) :
    Keeps s0 (issueHomes j y0 y1 y2) := by
  induction y2 generalizing y0 y1 with
  | nil =>
    unfold issueHomes
    try dsimp only
    with_reducible repeat' first | assumption
  | cons hd tl ih =>
    unfold issueHomes
    try dsimp only
    with_reducible repeat' first
      | refine ih ?_ | assumption | refine issueHome_keeps ?_ | refine Keeps.ite (fun _ => ?_) (fun _ => ?_)

theorem pumpHomes_keeps {s0 s : State} {j : Nat} (hk : Keeps s0 s) : Keeps s0 (pumpHomes s j) := by
  unfold pumpHomes
  with_reducible repeat' first
    | assumption | refine issueHome_keeps ?_ | refine issueHomes_keeps ?_
    | refine Keeps.ite (fun _ => ?_) (fun _ => ?_) | fail_if_no_progress refine Keeps.upd ?_ rfl rfl | split

theorem writeData_keeps {s0 s : State} {k : Nat} {c : StoCmd} (hk : Keeps s0 s) : Keeps s0 (writeData s k c) := by
  unfold writeData
  dsimp only
  with_reducible repeat' first
    | assumption | refine countErr_keeps ?_ | refine State.onJournal_keeps ?_ | refine onCmd_keeps ?_
    | refine issuePieces_keeps ?_ | refine tryRecord_keeps ?_ | refine Keeps.ite (fun _ => ?_) (fun _ => ?_) | split

theorem sendReadData_keeps {s0 s : State} {k : Nat} {c : StoCmd} {data : Bytes} (hk : Keeps s0 s) :
    Keeps s0 (sendReadData s k c data) := by
  unfold sendReadData
  dsimp only
  with_reducible repeat' first
    | assumption | refine sqSend_keeps ?_ | refine finishCmd_keeps ?_ | refine onCmd_keeps ?_
    | refine KeepsOpt.get1 ‹_› ?_ | split

theorem issueCmd_keeps {s0 s : State} {k : Nat} {c : StoCmd} (hk : Keeps s0 s) : Keeps s0 (issueCmd s k c) := by
  unfold issueCmd
  try dsimp only
  with_reducible repeat' first
    | assumption | refine countStat_keeps ?_ | refine KeepsOpt.get1 ‹_› ?_ | refine KeepsOpt.get1p ‹_› ?_
    | refine sqSend_keeps ?_ | refine finishCmd_keeps ?_ | refine finishOffline_keeps ?_ | refine onCmd_keeps ?_
    | refine issuePieces_keeps ?_ | refine cacheTouch_keeps ?_ | refine writeData_keeps ?_
    | refine sendReadData_keeps ?_ | refine Keeps.ite (fun _ => ?_) (fun _ => ?_)
    | fail_if_no_progress refine Keeps.upd ?_ rfl rfl | split

theorem countWritten_keeps {s0 s : State} {k n : Nat} (hk : Keeps s0 s) : Keeps s0 (countWritten s k n) := by
  unfold countWritten
  with_reducible repeat' first | assumption | refine countStat_keeps ?_

theorem cacheUpdate_keeps {s0 s : State} {v lba : Nat} {data : Bytes} (hk : Keeps s0 s) :
    Keeps s0 (cacheUpdate s v lba data) := by
  unfold cacheUpdate
  try dsimp only
  with_reducible repeat' first
    | assumption | refine Keeps.ite (fun _ => ?_) (fun _ => ?_) | fail_if_no_progress refine Keeps.upd ?_ rfl rfl
    | split

theorem drivesDone_keeps {s0 s : State} {k : Nat} {c : StoCmd} (hk : Keeps s0 s) : Keeps s0 (drivesDone s k c) := by
  unfold drivesDone
  try dsimp only
  with_reducible repeat' first
    | assumption | refine completeCmd_keeps ?_ | refine finishCmd_keeps ?_ | refine cacheDrop_keeps ?_
    | refine cachePut_keeps ?_ | refine sendReadData_keeps ?_ | refine countWritten_keeps ?_
    | refine cacheUpdate_keeps ?_ | refine Keeps.ite (fun _ => ?_) (fun _ => ?_)
    | fail_if_no_progress refine Keeps.upd ?_ rfl rfl | split

theorem partDone_keeps {s0 s : State} {k no : Nat} {p : PartDone} (hk : Keeps s0 s) :
    Keeps s0 (partDone s k no p) := by
  unfold partDone
  dsimp only
  with_reducible repeat' first
    | assumption | refine onCmd_keeps ?_ | refine drivesDone_keeps ?_ | refine Keeps.ite (fun _ => ?_) (fun _ => ?_)
    | split

theorem transferEnd_keeps {s0 s : State} {k no status : Nat} {data : Bytes} (hk : Keeps s0 s) :
    Keeps s0 (transferEnd s k no status data) := by
  unfold transferEnd
  with_reducible repeat' first
    | assumption | refine countStat_keeps ?_ | refine finishCmd_keeps ?_ | refine writeData_keeps ?_
    | refine Keeps.ite (fun _ => ?_) (fun _ => ?_) | split

theorem sentEnd_keeps {s0 s : State} {k n status : Nat} (hk : Keeps s0 s) : Keeps s0 (sentEnd s k n status) := by
  unfold sentEnd
  dsimp only
  with_reducible repeat' first
    | assumption | refine State.onSq_keeps ?_ | refine freeSlots_keeps ?_ | refine loseEntries_keeps ?_
    | refine Keeps.ite (fun _ => ?_) (fun _ => ?_) | split

theorem onRec_keeps {s0 s : State} {j seq : Nat} {f : JRec → JRec} (hk : Keeps s0 s) :
    Keeps s0 (onRec s j seq f) := by
  unfold onRec
  with_reducible repeat' first | assumption | refine State.onJournal_keeps ?_

theorem recordEnd_keeps {s0 s : State} {j seq rp : Nat} {d : DriveEnd} (hk : Keeps s0 s) :
    Keeps s0 (recordEnd s j seq rp d) := by
  unfold recordEnd
  try dsimp only
  with_reducible repeat' first
    | assumption | refine countStat_keeps ?_ | refine State.onJournal_keeps ?_ | refine completeCmd_keeps ?_
    | refine finishCmd_keeps ?_ | refine pumpWaiters_keeps ?_ | refine pumpHomes_keeps ?_
    | refine countWritten_keeps ?_ | refine cacheUpdate_keeps ?_ | refine onRec_keeps ?_
    | refine Keeps.ite (fun _ => ?_) (fun _ => ?_) | fail_if_no_progress refine Keeps.upd ?_ rfl rfl | split

theorem homeEnd_keeps {s0 s : State} {j seq : Nat} {d : DriveEnd} (hk : Keeps s0 s) :
    Keeps s0 (homeEnd s j seq d) := by
  unfold homeEnd
  dsimp only
  with_reducible repeat' first
    | assumption | refine State.onJournal_keeps ?_ | refine pumpWaiters_keeps ?_ | refine pumpHomes_keeps ?_
    | refine onRec_keeps ?_ | refine Keeps.ite (fun _ => ?_) (fun _ => ?_) | split

theorem scanRead_keeps {s0 s : State} {j : Nat} {e : Extent} {x : JScan} (hk : Keeps s0 s) :
    Keeps s0 (scanRead s j e x) := by
  unfold scanRead
  try dsimp only
  with_reducible repeat' first
    | assumption | refine nvmeIssue_keeps ?_ | refine Keeps.ite (fun _ => ?_) (fun _ => ?_) | split

theorem scanEnd_keeps {s0 s : State} {j : Nat} {ck : Bytes × Nat × Nat} {b : Bytes} (hk : Keeps s0 s) :
    Keeps s0 (scanEnd s j ck b) := by
  unfold scanEnd
  try dsimp only
  with_reducible repeat' first
    | assumption | refine State.onJournal_keeps ?_ | refine pumpHomes_keeps ?_
    | fail_if_no_progress refine Keeps.upd ?_ rfl rfl | split

theorem scanGot_keeps {s0 s : State} {j : Nat} {c : NvmeCmd} {data : Option Bytes} (hk : Keeps s0 s) :
    Keeps s0 (scanGot s j c data) := by
  unfold scanGot
  try dsimp only
  with_reducible repeat' first
    | assumption | refine raise_keeps ?_ | refine State.onJournal_keeps ?_ | refine scanRead_keeps ?_
    | refine scanEnd_keeps ?_ | refine Keeps.ite (fun _ => ?_) (fun _ => ?_)
    | fail_if_no_progress refine Keeps.upd ?_ rfl rfl | split

theorem nvmeEnd_keeps {s0 s : State} {rp : Nat} {c : NvmeCmd} {d : DriveEnd} (hk : Keeps s0 s) :
    Keeps s0 (nvmeEnd s rp c d) := by
  unfold nvmeEnd
  with_reducible repeat' first
    | assumption | refine checkpoint_keeps ?_ | refine partDone_keeps ?_ | refine recordEnd_keeps ?_
    | refine homeEnd_keeps ?_ | refine scanGot_keeps ?_ | refine Keeps.ite (fun _ => ?_) (fun _ => ?_)
    | fail_if_no_progress refine Keeps.upd ?_ rfl rfl | split

theorem failDrive_keeps {s0 s : State} {rp status : Nat} (hk : Keeps s0 s) : Keeps s0 (failDrive s rp status) := by
  unfold failDrive
  dsimp only
  with_reducible repeat' first
    | assumption | refine State.onDrive_keeps ?_ | refine nvmeEnd_keeps ?_
    | refine Keeps.foldl _ ?_ (fun _ _ _ => ?_)

theorem nvmeComplete_keeps {s0 s : State} {rp : Nat} {d : NvmeDone} (hk : Keeps s0 s) :
    Keeps s0 (nvmeComplete s rp d) := by
  unfold nvmeComplete
  dsimp only
  with_reducible repeat' first | assumption | refine State.onDrive_keeps ?_ | refine nvmeEnd_keeps ?_ | split

theorem State.onArb_keeps {s0 s : State} {tf : Nat} {f : StoArb → StoArb} (hk : Keeps s0 s) :
    Keeps s0 (State.onArb s tf f) := by
  unfold State.onArb
  dsimp only
  with_reducible repeat' first | assumption | fail_if_no_progress refine Keeps.upd ?_ rfl rfl

theorem stoClassPick_keeps {s0 : State} {tf y0 : Nat} {y1 : State} (hk : Keeps s0 y1) :
    KeepsOpt (fun v => v.2) s0 (stoClassPick tf y0 y1) := by
  induction y0 generalizing y1 with
  | zero =>
    unfold stoClassPick
    try dsimp only
    with_reducible repeat' first | exact KeepsOpt.none
  | succ fuel ih =>
    unfold stoClassPick
    try dsimp only
    with_reducible repeat' first
      | refine ih ?_ | assumption | refine State.onArb_keeps ?_ | refine KeepsOpt.ite (fun _ => ?_) (fun _ => ?_)
      | exact KeepsOpt.none | refine KeepsOpt.some ?_ | split

theorem issueHead_keeps {s0 s : State} {k : Nat} (hk : Keeps s0 s) : Keeps s0 (issueHead s k) := by
  unfold issueHead
  with_reducible repeat' first | assumption | refine issueCmd_keeps ?_ | split

theorem dispatchLoop_keeps {s0 y0 : State} {y1 : List (Nat × Bool)} (hk : Keeps s0 y0) :
    Keeps s0 (dispatchLoop y0 y1) := by
  induction y1 generalizing y0 with
  | nil =>
    unfold dispatchLoop
    try dsimp only
    with_reducible repeat' first | assumption
  | cons hd tl ih =>
    unfold dispatchLoop
    try dsimp only
    with_reducible repeat' first
      | refine ih ?_ | assumption | refine State.onArb_keeps ?_ | refine stoClassPick_keeps ?_
      | refine issueHead_keeps ?_ | refine Keeps.ite (fun _ => ?_) (fun _ => ?_)
      | fail_if_no_progress refine Keeps.upd ?_ rfl rfl | refine KeepsOpt.get2 ‹_› ?_ | split

theorem stoDispatch_keeps {s0 s : State} (hk : Keeps s0 s) : Keeps s0 (stoDispatch s) := by
  unfold stoDispatch
  dsimp only
  with_reducible repeat' first
    | assumption | refine State.onArb_keeps ?_ | refine issueHead_keeps ?_ | refine dispatchLoop_keeps ?_
    | fail_if_no_progress refine Keeps.upd ?_ rfl rfl | split

theorem abortSq_keeps {s0 s : State} {k : Nat} (hk : Keeps s0 s) : Keeps s0 (abortSq s k) := by
  unfold abortSq
  dsimp only
  with_reducible repeat' first
    | assumption | refine sendCoal_keeps ?_ | refine finishCmd_keeps ?_
    | fail_if_no_progress refine Keeps.upd ?_ rfl rfl | refine Keeps.foldl _ ?_ (fun _ _ _ => ?_) | split

theorem scanStart_keeps {s0 s : State} {j : Nat} (hk : Keeps s0 s) :
    Keeps s0 (scanStart s j) := by
  unfold scanStart
  try dsimp only
  with_reducible repeat' first
    | assumption | refine State.onJournal_keeps ?_ | refine scanRead_keeps ?_
    | refine Keeps.ite (fun _ => ?_) (fun _ => ?_) | fail_if_no_progress refine Keeps.upd ?_ rfl rfl | split

theorem wakeRecords_keeps {s0 s : State} {j rp : Nat} (hk : Keeps s0 s) :
    Keeps s0 (wakeRecords s j rp) := by
  unfold wakeRecords
  try dsimp only
  with_reducible repeat' first
    | assumption | refine State.onJournal_keeps ?_ | refine Keeps.ite (fun _ => ?_) (fun _ => ?_)
    | fail_if_no_progress refine Keeps.upd ?_ rfl rfl | split

theorem driveOnline_keeps {s0 s : State} {rp : Nat} (hk : Keeps s0 s) :
    Keeps s0 (driveOnline s rp) := by
  unfold driveOnline
  try dsimp only
  with_reducible repeat' first
    | assumption | refine State.onDrive_keeps ?_ | refine pumpHomes_keeps ?_ | refine scanStart_keeps ?_
    | refine wakeRecords_keeps ?_ | refine Keeps.ite (fun _ => ?_) (fun _ => ?_)
    | refine Keeps.foldl _ ?_ (fun _ _ _ => ?_) | fail_if_no_progress refine Keeps.upd ?_ rfl rfl | split

theorem driveFailed_keeps {s0 s : State} {rp : Nat} (hk : Keeps s0 s) : Keeps s0 (driveFailed s rp) := by
  unfold driveFailed
  with_reducible repeat' first | assumption | refine raise_keeps ?_ | refine State.onDrive_keeps ?_

theorem startStep_keeps {s0 s : State} {rp k : Nat} (hk : Keeps s0 s) :
    Keeps s0 (startStep s rp k) := by
  unfold startStep
  try dsimp only
  with_reducible repeat' first
    | assumption | refine State.onDrive_keeps ?_ | refine Keeps.ite (fun _ => ?_) (fun _ => ?_)
    | fail_if_no_progress refine Keeps.upd ?_ rfl rfl | split

theorem stepDone_keeps {s0 s : State} {rp : Nat} (hk : Keeps s0 s) :
    Keeps s0 (stepDone s rp) := by
  unfold stepDone
  with_reducible repeat' first
    | assumption | refine driveOnline_keeps ?_ | refine driveFailed_keeps ?_ | refine startStep_keeps ?_
    | refine Keeps.ite (fun _ => ?_) (fun _ => ?_) | split

theorem driveAdmin_keeps {s0 s : State} {rp : Nat} {a : AdminDone} (hk : Keeps s0 s) :
    Keeps s0 (driveAdmin s rp a) := by
  unfold driveAdmin
  try dsimp only
  with_reducible repeat' first
    | assumption | refine State.onDrive_keeps ?_ | refine driveFailed_keeps ?_ | refine stepDone_keeps ?_
    | refine Keeps.ite (fun _ => ?_) (fun _ => ?_) | fail_if_no_progress refine Keeps.upd ?_ rfl rfl | split

theorem driveFails_keeps {s0 s : State} {rp : Nat} {how : DriveLoss} (hk : Keeps s0 s) :
    Keeps s0 (driveFails s rp how) := by
  unfold driveFails
  try dsimp only
  with_reducible repeat' first
    | assumption | refine countErr_keeps ?_ | refine raise_keeps ?_ | refine State.onDrive_keeps ?_
    | refine failDrive_keeps ?_ | refine startStep_keeps ?_ | refine Keeps.ite (fun _ => ?_) (fun _ => ?_)
    | refine Keeps.foldl _ ?_ (fun _ _ _ => ?_) | fail_if_no_progress refine Keeps.upd ?_ rfl rfl | split

theorem resetDrive_keeps {s0 s : State} {rp : Nat} (hk : Keeps s0 s) : Keeps s0 (resetDrive s rp) := by
  unfold resetDrive
  try dsimp only
  with_reducible repeat' first
    | assumption | refine countErr_keeps ?_ | refine raise_keeps ?_ | refine State.onDrive_keeps ?_
    | refine failDrive_keeps ?_ | refine driveFailed_keeps ?_ | refine startStep_keeps ?_
    | refine Keeps.ite (fun _ => ?_) (fun _ => ?_) | fail_if_no_progress refine Keeps.upd ?_ rfl rfl | split

theorem startTest_keeps {s0 s : State} {rp : Nat} {ext : Bool} (hk : Keeps s0 s) : Keeps s0 (startTest s rp ext) := by
  unfold startTest
  with_reducible repeat' first | assumption | refine State.onDrive_keeps ?_

theorem testAborted_keeps {s0 s : State} {rp : Nat} {ext : Bool} (hk : Keeps s0 s) :
    Keeps s0 (testAborted s rp ext) := by
  unfold testAborted
  dsimp only
  with_reducible repeat' first
    | assumption | refine raise_keeps ?_ | refine State.onDrive_keeps ?_
    | refine Keeps.ite (fun _ => ?_) (fun _ => ?_)

theorem testEnds_keeps {s0 s : State} {rp result : Nat} (hk : Keeps s0 s) : Keeps s0 (testEnds s rp result) := by
  unfold testEnds
  dsimp only
  with_reducible repeat' first
    | assumption | refine raise_keeps ?_ | refine State.onDrive_keeps ?_ | refine testAborted_keeps ?_
    | refine Keeps.ite (fun _ => ?_) (fun _ => ?_) | split

theorem replayEnd_keeps {s0 s : State} {j n : Nat} (hk : Keeps s0 s) :
    Keeps s0 (replayEnd s j n) := by
  unfold replayEnd
  try dsimp only
  with_reducible repeat' first
    | assumption | refine raise_keeps ?_ | refine State.onJournal_keeps ?_ | refine checkpoint_keeps ?_
    | fail_if_no_progress refine Keeps.upd ?_ rfl rfl | split

theorem sendRsp_keeps {s0 s : State} {p : Peer} {r : Rsp} {replayed : Bool} (hk : Keeps s0 s) :
    Keeps s0 (sendRsp s p r replayed).1 := by
  unfold sendRsp
  dsimp only
  with_reducible repeat' first
    | assumption | refine submit_keeps ?_ | fail_if_no_progress refine Keeps.upd ?_ rfl rfl | split

theorem respond_keeps {s0 s : State} {r : Rsp} (hk : Keeps s0 s) : Keeps s0 (respond s r).1 := by
  unfold respond
  dsimp only
  with_reducible repeat' first | assumption | refine sendRsp_keeps ?_ | fail_if_no_progress refine Keeps.upd ?_ rfl rfl

theorem answerStatus_keeps {s0 s : State} {p : Peer} {code : Word16} {tag : Word32} {status : Nat} (hk : Keeps s0 s) :
    Keeps s0 (answerStatus s p code tag status) := by
  unfold answerStatus
  with_reducible repeat' first | assumption | refine respond_keeps ?_

theorem dropCapture_keeps {s0 s : State} (hk : Keeps s0 s) : Keeps s0 (dropCapture s) := by
  unfold dropCapture
  dsimp only
  with_reducible repeat' first
    | assumption | refine Keeps.ite (fun _ => ?_) (fun _ => ?_) | fail_if_no_progress refine Keeps.upd ?_ rfl rfl
    | split

theorem answerBody_keeps {s0 s : State} {r : Req} {out : Bytes} (hk : Keeps s0 s) :
    Keeps s0 (answerBody s r out).1 := by
  unfold answerBody
  dsimp only
  with_reducible repeat' first
    | assumption | refine respond_keeps ?_ | refine dropCapture_keeps ?_
    | refine Keeps.iteFst (fun _ => ?_) (fun _ => ?_) | fail_if_no_progress refine Keeps.upd ?_ rfl rfl

theorem freeMbxSlot_keeps {s0 s : State} {slot : Option Nat} (hk : Keeps s0 s) : Keeps s0 (freeMbxSlot s slot) := by
  unfold freeMbxSlot
  dsimp only
  with_reducible repeat' first | assumption | fail_if_no_progress refine Keeps.upd ?_ rfl rfl | split

theorem queueReq_keeps {s0 s : State} {r : Req} {replay : Bool} {slot : Option Nat} (hk : Keeps s0 s) :
    Keeps s0 (queueReq s r replay slot) := by
  unfold queueReq
  dsimp only
  with_reducible repeat' first
    | assumption | refine countErr_keeps ?_ | refine answerStatus_keeps ?_ | refine freeMbxSlot_keeps ?_
    | refine Keeps.ite (fun _ => ?_) (fun _ => ?_) | fail_if_no_progress refine Keeps.upd ?_ rfl rfl

theorem mbxArrive_keeps {s0 s : State} {p : Peer} {b : Bytes} {slot : Option Nat} (hk : Keeps s0 s) :
    Keeps s0 (mbxArrive s p b slot) := by
  unfold mbxArrive
  dsimp only
  with_reducible repeat' first
    | assumption | refine countErr_keeps ?_ | refine answerStatus_keeps ?_ | refine freeMbxSlot_keeps ?_
    | refine queueReq_keeps ?_ | refine Keeps.ite (fun _ => ?_) (fun _ => ?_)

theorem fails_keeps {s0 s : State} {status : Nat} (hk : Keeps s0 s) : Keeps s0 (fails s status).st := by
  unfold fails
  dsimp only
  with_reducible repeat' first | assumption

theorem failsAt_keeps {s0 s : State} {status arg : Nat} (hk : Keeps s0 s) : Keeps s0 (failsAt s status arg).st := by
  unfold failsAt
  dsimp only
  with_reducible repeat' first | assumption

theorem done_keeps {s0 s : State} (hk : Keeps s0 s) : Keeps s0 (done s).st := by
  unfold done
  dsimp only
  with_reducible repeat' first | assumption

theorem gives_keeps {s0 s : State} {out : Bytes} (hk : Keeps s0 s) : Keeps s0 (gives s out).st := by
  unfold gives
  dsimp only
  with_reducible repeat' first | assumption

theorem takeReq_keeps {s0 s : State} {r : Req} {replay : Bool} (hk : Keeps s0 s) :
    KeepsOpt (fun v => v.1) s0 (takeReq s r replay) := by
  unfold takeReq
  dsimp only
  with_reducible repeat' first
    | assumption | refine KeepsOpt.ite (fun _ => ?_) (fun _ => ?_) | exact KeepsOpt.none | refine KeepsOpt.some ?_
    | fail_if_no_progress refine Keeps.upd ?_ rfl rfl | split

theorem answer_keeps {s0 : State} {r : Req} {x : Res} (hk : Keeps s0 x.st) : Keeps s0 (answer r x).1 := by
  unfold answer
  with_reducible repeat' first
    | assumption | refine respond_keeps ?_ | refine answerBody_keeps ?_
    | refine Keeps.iteFst (fun _ => ?_) (fun _ => ?_)

theorem timeOutHead_keeps {s0 s : State} (hk : Keeps s0 s) :
    Keeps s0 (timeOutHead s) := by
  unfold timeOutHead
  with_reducible repeat' first
    | assumption | refine countErr_keeps ?_ | refine answerStatus_keeps ?_ | refine freeMbxSlot_keeps ?_
    | fail_if_no_progress refine Keeps.upd ?_ rfl rfl | split

theorem serveCmd_keeps {s0 : State} {r : Req} {code : Nat} {h : State → Req → Res}
    {after : State → Option Nat → State} {s : State} (hk : Keeps s0 s)
    (hf_h : ∀ z0 z1, Keeps s0 z0 → Keeps s0 (h z0 z1).st) (hf_after : ∀ z0 z1, Keeps s0 z0 → Keeps s0 (after z0 z1)) :
    Keeps s0 (serveCmd r code h after s) := by
  unfold serveCmd
  try dsimp only
  with_reducible repeat' first
    | assumption | refine hf_h _ _ ?_ | refine hf_after _ _ ?_ | refine countStat_keeps ?_
    | refine freeMbxSlot_keeps ?_ | refine KeepsOpt.get1 ‹_› ?_ | refine KeepsOpt.get1p ‹_› ?_
    | refine takeReq_keeps ?_ | refine answer_keeps ?_ | refine timeOutHead_keeps ?_
    | refine Keeps.ite (fun _ => ?_) (fun _ => ?_) | fail_if_no_progress refine Keeps.upd ?_ rfl rfl | split

theorem sized_keeps {s0 : State} {n : Nat} {h : State → Req → Res} {s : State} {r : Req} (hk : Keeps s0 s)
    (hf_h : ∀ z0 z1, Keeps s0 z0 → Keeps s0 (h z0 z1).st) : Keeps s0 (sized n h s r).st := by
  unfold sized
  with_reducible repeat' first
    | assumption | refine fails_keeps ?_ | refine hf_h _ _ ?_ | refine Keeps.iteSt (fun _ => ?_) (fun _ => ?_)

theorem resultPart_keeps {s0 s : State} {r : Req} (hk : Keeps s0 s) : Keeps s0 (resultPart s r) := by
  unfold resultPart
  dsimp only
  with_reducible repeat' first
    | assumption | refine respond_keeps ?_ | refine answerStatus_keeps ?_
    | refine Keeps.ite (fun _ => ?_) (fun _ => ?_) | fail_if_no_progress refine Keeps.upd ?_ rfl rfl | split

theorem reserveChan_keeps {s0 s : State} {c n : Nat} (hk : Keeps s0 s) : Keeps s0 (reserveChan s c n) := by
  unfold reserveChan
  with_reducible repeat' first | assumption | refine State.onChan_keeps ?_

theorem releaseChan_keeps {s0 s : State} {c n : Nat} (hk : Keeps s0 s) : Keeps s0 (releaseChan s c n) := by
  unfold releaseChan
  with_reducible repeat' first | assumption | refine State.onChan_keeps ?_

theorem completeOn_keeps {s0 s : State} {c status : Nat} {m : OutMsg} {len : Nat} (hk : Keeps s0 s) :
    Keeps s0 (completeOn s c status m len) := by
  unfold completeOn
  dsimp only
  with_reducible repeat' first
    | assumption | refine deliver_keeps ?_ | refine chanDrop_keeps ?_ | refine releaseChan_keeps ?_
    | refine KeepsOpt.get0 ‹_› ?_ | split

theorem eventEnd_keeps {s0 s : State} {n status : Nat} (hk : Keeps s0 s) : Keeps s0 (eventEnd s n status) := by
  unfold eventEnd
  dsimp only
  with_reducible repeat' first
    | assumption | refine raise_keeps ?_ | refine Keeps.ite (fun _ => ?_) (fun _ => ?_)
    | fail_if_no_progress refine Keeps.upd ?_ rfl rfl | split

theorem responseEnd_keeps {s0 s : State} {k status : Nat} (hk : Keeps s0 s) : Keeps s0 (responseEnd s k status) := by
  unfold responseEnd
  dsimp only
  with_reducible repeat' first
    | assumption | refine countErr_keeps ?_ | refine Keeps.ite (fun _ => ?_) (fun _ => ?_)
    | fail_if_no_progress refine Keeps.upd ?_ rfl rfl | split

theorem saveEnd_keeps {s0 s : State} {tf status : Nat} (hk : Keeps s0 s) : Keeps s0 (saveEnd s tf status) := by
  unfold saveEnd
  with_reducible repeat' first | assumption | refine State.onTf_keeps ?_

theorem restoreEnd_keeps {s0 s : State} {tf part status : Nat} {data : Bytes} (hk : Keeps s0 s) :
    Keeps s0 (restoreEnd s tf part status data) := by
  unfold restoreEnd
  with_reducible repeat' first | assumption | refine State.onTf_keeps ?_

theorem restoreOver_keeps {s0 s : State} {tf status : Nat} (hk : Keeps s0 s) :
    Keeps s0 (restoreOver s tf status) := by
  unfold restoreOver
  try dsimp only
  with_reducible repeat' first
    | assumption | refine raise_keeps ?_ | refine State.onTf_keeps ?_
    | fail_if_no_progress refine Keeps.upd ?_ rfl rfl | split

theorem keyMapEnd_keeps {s0 s : State} {tf status : Nat} (hk : Keeps s0 s) : Keeps s0 (keyMapEnd s tf status) := by
  unfold keyMapEnd
  try dsimp only
  with_reducible repeat' first
    | assumption | refine State.onTf_keeps ?_ | refine restoreOver_keeps ?_
    | refine Keeps.ite (fun _ => ?_) (fun _ => ?_) | fail_if_no_progress refine Keeps.upd ?_ rfl rfl | split

theorem ownerEnd_keeps {s0 s : State} {k : Nat} {m : OutMsg} {status bytes : Nat} {data : Bytes} (hk : Keeps s0 s) :
    Keeps s0 (ownerEnd s k m status bytes data) := by
  unfold ownerEnd
  with_reducible repeat' first
    | assumption | refine transferEnd_keeps ?_ | refine sentEnd_keeps ?_ | refine completeOn_keeps ?_
    | refine eventEnd_keeps ?_ | refine responseEnd_keeps ?_ | refine saveEnd_keeps ?_ | refine restoreEnd_keeps ?_
    | refine keyMapEnd_keeps ?_ | split

theorem launchOwn_keeps {s0 : State} {y0 : Nat} {y1 : State} (hk : Keeps s0 y1) : Keeps s0 (launchOwn y0 y1) := by
  induction y0 generalizing y1 with
  | zero =>
    unfold launchOwn
    try dsimp only
    with_reducible repeat' first | assumption
  | succ fuel ih =>
    unfold launchOwn
    try dsimp only
    with_reducible repeat' first
      | refine ih ?_ | assumption | refine sendFrom_keeps ?_ | fail_if_no_progress refine Keeps.upd ?_ rfl rfl
      | split

theorem launchCore_keeps {s0 : State} {st r y0 : Nat} {y1 : State} (hk : Keeps s0 y1) :
    Keeps s0 (launchCore st r y0 y1) := by
  induction y0 generalizing y1 with
  | zero =>
    unfold launchCore
    try dsimp only
    with_reducible repeat' first | assumption
  | succ fuel ih =>
    unfold launchCore
    try dsimp only
    with_reducible repeat' first
      | refine ih ?_ | assumption | refine sendFrom_keeps ?_ | refine State.onRole_keeps ?_
      | refine Keeps.ite (fun _ => ?_) (fun _ => ?_) | fail_if_no_progress refine Keeps.upd ?_ rfl rfl | split

theorem launch_keeps {s0 s : State} (hk : Keeps s0 s) : Keeps s0 (launch s) := by
  unfold launch
  dsimp only
  with_reducible repeat' first
    | assumption | refine launchOwn_keeps ?_ | refine launchCore_keeps ?_
    | refine Keeps.ite (fun _ => ?_) (fun _ => ?_) | refine Keeps.foldl _ ?_ (fun _ _ _ => ?_)

theorem countItem_keeps {s0 s : State} {eid : Nat} {aborted : Bool} (hk : Keeps s0 s) :
    Keeps s0 (countItem s eid aborted) := by
  unfold countItem
  dsimp only
  with_reducible repeat' first | assumption | refine State.qCount_keeps ?_ | refine State.qCountTf_keeps ?_

theorem finishMsg_keeps {s0 s : State} {k status bytes : Nat} {data : Bytes} (hk : Keeps s0 s) :
    Keeps s0 (finishMsg s k status bytes data) := by
  unfold finishMsg
  dsimp only
  with_reducible repeat' first
    | assumption | refine countErr_keeps ?_ | refine countStat_keeps ?_ | refine ownerEnd_keeps ?_
    | refine launch_keeps ?_ | refine countItem_keeps ?_ | refine Keeps.ite (fun _ => ?_) (fun _ => ?_)
    | fail_if_no_progress refine Keeps.upd ?_ rfl rfl | split

theorem countAnswer_keeps {s0 s : State} {tf status : Nat} (hk : Keeps s0 s) :
    Keeps s0 (countAnswer s tf status) := by
  unfold countAnswer
  dsimp only
  with_reducible repeat' first
    | assumption | refine countErr_keeps ?_ | refine countStat_keeps ?_
    | refine Keeps.ite (fun _ => ?_) (fun _ => ?_)

theorem answerData_keeps {s0 s : State} {x : EhtRx} {p : Pkt} {e : Endpoint} {status result bytes : Nat} {retx : Bool}
    (hk : Keeps s0 s) : Keeps s0 (answerData s x p e status result bytes retx) := by
  unfold answerData
  dsimp only
  with_reducible repeat' first
    | assumption | refine sendAnswer_keeps ?_ | refine countAnswer_keeps ?_
    | refine Keeps.ite (fun _ => ?_) (fun _ => ?_) | fail_if_no_progress refine Keeps.upd ?_ rfl rfl

theorem answerMoved_keeps {s0 s : State} {x : EhtRx} {p : Pkt} {m : MovedRec} (hk : Keeps s0 s) :
    Keeps s0 (answerMoved s x p m) := by
  unfold answerMoved
  dsimp only
  with_reducible repeat' first | assumption | refine countStat_keeps ?_ | refine sendAnswer_keeps ?_

theorem toldFenced_keeps {s0 s : State} {eid : Nat} (hk : Keeps s0 s) : Keeps s0 (toldFenced s eid) := by
  unfold toldFenced
  dsimp only
  with_reducible repeat' first
    | assumption | refine raise_keeps ?_ | refine Keeps.ite (fun _ => ?_) (fun _ => ?_)
    | fail_if_no_progress refine Keeps.upd ?_ rfl rfl

theorem genStale_keeps {s0 s : State} {eid : Nat} {e : Endpoint} {p : Pkt} (hk : Keeps s0 s) :
    Keeps s0 (genStale s eid e p).1 := by
  unfold genStale
  try dsimp only
  with_reducible repeat' first
    | assumption | refine countErr_keeps ?_ | refine toldFenced_keeps ?_
    | refine Keeps.ite (fun _ => ?_) (fun _ => ?_) | refine Keeps.iteFst (fun _ => ?_) (fun _ => ?_)
    | refine Keeps.iteSnd (fun _ => ?_) (fun _ => ?_) | split

theorem check67_keeps {s0 s : State} {eid : Nat} {e : Endpoint} {p : Pkt} (hk : Keeps s0 s) :
    Keeps s0 (check67 s eid e p).1 := by
  unfold check67
  try dsimp only
  with_reducible repeat' first
    | assumption | refine genStale_keeps ?_ | split

theorem check10_keeps {s0 s : State} {e : Endpoint} {p : Pkt} (hk : Keeps s0 s) :
    KeepsOpt (fun v => v) s0 (check10 s e p) := by
  unfold check10
  dsimp only
  with_reducible repeat' first
    | assumption | refine KeepsOpt.ite (fun _ => ?_) (fun _ => ?_) | exact KeepsOpt.none | refine KeepsOpt.some ?_
    | fail_if_no_progress refine Keeps.upd ?_ rfl rfl | split

theorem touchDesc_keeps {s0 s : State} {idx : Nat} (hk : Keeps s0 s) : Keeps s0 (touchDesc s idx) := by
  unfold touchDesc
  dsimp only
  with_reducible repeat' first
    | assumption | refine countStat_keeps ?_ | refine Keeps.ite (fun _ => ?_) (fun _ => ?_)
    | fail_if_no_progress refine Keeps.upd ?_ rfl rfl

theorem revokeRegion_keeps {s0 s : State} {idx : Nat} (hk : Keeps s0 s) : Keeps s0 (revokeRegion s idx) := by
  unfold revokeRegion
  dsimp only
  with_reducible repeat' first | assumption | fail_if_no_progress refine Keeps.upd ?_ rfl rfl | split

theorem freeRegion_keeps {s0 s : State} {idx : Nat} (hk : Keeps s0 s) : Keeps s0 (freeRegion s idx) := by
  unfold freeRegion
  dsimp only
  with_reducible repeat' first | assumption | fail_if_no_progress refine Keeps.upd ?_ rfl rfl | split

theorem dropCtx_keeps {s0 s : State} {k : MsgKey} (hk : Keeps s0 s) : Keeps s0 (dropCtx s k) := by
  unfold dropCtx
  dsimp only
  with_reducible repeat' first | assumption | fail_if_no_progress refine Keeps.upd ?_ rfl rfl

theorem recordStatus_keeps {s0 s : State} {k : MsgKey} {express : Bool} {dst status result : Nat} (hk : Keeps s0 s) :
    Keeps s0 (recordStatus s k express dst status result) := by
  unfold recordStatus
  dsimp only
  with_reducible repeat' first
    | assumption | refine Keeps.ite (fun _ => ?_) (fun _ => ?_) | fail_if_no_progress refine Keeps.upd ?_ rfl rfl

theorem dropSlot_keeps {s0 s : State} {eid : Nat} {slot : Option Nat} (hk : Keeps s0 s) :
    Keeps s0 (dropSlot s eid slot) := by
  unfold dropSlot
  dsimp only
  with_reducible repeat' first | assumption | fail_if_no_progress refine Keeps.upd ?_ rfl rfl | split

theorem openCtx_keeps {s0 s : State} {x : EhtRx} {p : Pkt} {eid : Nat} {e : Endpoint} (hk : Keeps s0 s) :
    Keeps s0 (openCtx s x p eid e).1 := by
  unfold openCtx
  dsimp only
  with_reducible repeat' first | assumption | fail_if_no_progress refine Keeps.upd ?_ rfl rfl | split

theorem doAtomic_keeps {s0 s : State} {a : Nat} {pl : Bytes} (hk : Keeps s0 s) : Keeps s0 (doAtomic s a pl).1 := by
  unfold doAtomic
  dsimp only
  with_reducible repeat' first | assumption | refine State.poke_keeps ?_

theorem startReadResp_keeps {s0 s : State} {x : EhtRx} {p : Pkt} {e : Endpoint} {a : Nat} (hk : Keeps s0 s) :
    Keeps s0 (startReadResp s x p e a) := by
  unfold startReadResp
  dsimp only
  with_reducible repeat' first | assumption | refine submit_keeps ?_ | refine Keeps.ite (fun _ => ?_) (fun _ => ?_)

theorem completeOp_keeps {s0 s : State} {x : EhtRx} {p : Pkt} {e : Endpoint} {c : Ctx} {a total : Nat}
    (hk : Keeps s0 s) : Keeps s0 (completeOp s x p e c a total).1 := by
  unfold completeOp
  with_reducible repeat' first
    | assumption | refine raise_keeps ?_ | refine deliver_keeps ?_ | refine arriveSub_keeps ?_
    | refine mbxArrive_keeps ?_ | refine chanDrop_keeps ?_ | refine finishMsg_keeps ?_ | refine revokeRegion_keeps ?_
    | refine doAtomic_keeps ?_ | refine startReadResp_keeps ?_ | refine Keeps.iteFst (fun _ => ?_) (fun _ => ?_)
    | refine KeepsOpt.get0 ‹_› ?_ | split

theorem messageDone_keeps {s0 s : State} {x : EhtRx} {p : Pkt} {eid : Nat} {e : Endpoint} {c : Ctx} {a total : Nat}
    (hk : Keeps s0 s) : Keeps s0 (messageDone s x p eid e c a total) := by
  unfold messageDone
  dsimp only
  with_reducible repeat' first
    | assumption | refine countStat_keeps ?_ | refine countItem_keeps ?_ | refine answerData_keeps ?_
    | refine dropCtx_keeps ?_ | refine recordStatus_keeps ?_ | refine completeOp_keeps ?_
    | refine Keeps.ite (fun _ => ?_) (fun _ => ?_) | refine Keeps.iteFst (fun _ => ?_) (fun _ => ?_)

theorem placePacket_keeps {s0 s : State} {x : EhtRx} {p : Pkt} {eid : Nat} {e : Endpoint} {c : Ctx} {pl : Place}
    (hk : Keeps s0 s) : Keeps s0 (placePacket s x p eid e c pl) := by
  unfold placePacket
  dsimp only
  with_reducible repeat' first
    | assumption | refine countStat_keeps ?_ | refine State.poke_keeps ?_ | refine messageDone_keeps ?_
    | refine Keeps.ite (fun _ => ?_) (fun _ => ?_) | fail_if_no_progress refine Keeps.upd ?_ rfl rfl | split

theorem failMsg_keeps {s0 s : State} {x : EhtRx} {p : Pkt} {eid : Nat} {e : Endpoint} {st : Nat} (hk : Keeps s0 s) :
    Keeps s0 (failMsg s x p eid e st) := by
  unfold failMsg
  try dsimp only
  with_reducible repeat' first
    | assumption | refine answerData_keeps ?_ | refine dropCtx_keeps ?_ | refine recordStatus_keeps ?_
    | refine dropSlot_keeps ?_ | fail_if_no_progress refine Keeps.upd ?_ rfl rfl | split

theorem receiveMsg_keeps {s0 s : State} {x : EhtRx} {p : Pkt} {eid : Nat} {e : Endpoint} (hk : Keeps s0 s) :
    Keeps s0 (receiveMsg s x p eid e) := by
  unfold receiveMsg
  try dsimp only
  with_reducible repeat' first
    | assumption | refine countErr_keeps ?_ | refine countStat_keeps ?_ | refine answerData_keeps ?_
    | refine KeepsOpt.get0 ‹_› ?_ | refine check10_keeps ?_ | refine touchDesc_keeps ?_ | refine openCtx_keeps ?_
    | refine placePacket_keeps ?_ | refine failMsg_keeps ?_ | refine Keeps.ite (fun _ => ?_) (fun _ => ?_)
    | fail_if_no_progress refine Keeps.upd ?_ rfl rfl | split

theorem takeRx_keeps {s0 s : State} {x : EhtRx} (hk : Keeps s0 s) : KeepsOpt (fun v => v) s0 (takeRx s x) := by
  unfold takeRx
  dsimp only
  with_reducible repeat' first
    | assumption | refine KeepsOpt.ite (fun _ => ?_) (fun _ => ?_) | exact KeepsOpt.none | refine KeepsOpt.some ?_
    | fail_if_no_progress refine Keeps.upd ?_ rfl rfl | split

theorem screen_keeps {s0 : State} {x : EhtRx} {typOk : Nat → Bool} {f : State → Pkt → Nat → Endpoint → State}
    {s : State} (hk : Keeps s0 s) (hf_f : ∀ z0 z1 z2 z3, Keeps s0 z0 → Keeps s0 (f z0 z1 z2 z3)) :
    Keeps s0 (screen x typOk f s) := by
  unfold screen
  dsimp only
  with_reducible repeat' first
    | assumption | refine countErr_keeps ?_ | refine countStat_keeps ?_ | refine answerMoved_keeps ?_
    | refine takeRx_keeps ?_ | refine hf_f _ _ _ _ ?_ | refine Keeps.ite (fun _ => ?_) (fun _ => ?_)
    | refine KeepsOpt.get0 ‹_› ?_ | split

theorem checked_keeps {s0 : State} {x : EhtRx} {f : State → Pkt → Nat → Endpoint → State} {s : State} {p : Pkt}
    {eid : Nat} {e : Endpoint} (hk : Keeps s0 s) (hf_f : ∀ z0 z1 z2 z3, Keeps s0 z0 → Keeps s0 (f z0 z1 z2 z3)) :
    Keeps s0 (checked x f s p eid e) := by
  unfold checked
  dsimp only
  with_reducible repeat' first
    | assumption | refine answerData_keeps ?_ | refine check67_keeps ?_ | refine hf_f _ _ _ _ ?_
    | refine Keeps.ite (fun _ => ?_) (fun _ => ?_) | split

theorem receiveData_keeps {s0 s : State} {x : EhtRx} (hk : Keeps s0 s) : Keeps s0 (receiveData s x) := by
  unfold receiveData
  with_reducible repeat' first
    | assumption | refine receiveMsg_keeps ?_ | refine screen_keeps ?_ ?_ | refine checked_keeps ?_ ?_
    | (intro _; intros; try dsimp only)

theorem sendGrant_keeps {s0 s : State} {x : EhtRx} {p : Pkt} {e : Endpoint} {units token life retry : Nat}
    (hk : Keeps s0 s) : Keeps s0 (sendGrant s x p e units token life retry) := by
  unfold sendGrant
  dsimp only
  with_reducible repeat' first | assumption | refine sendAnswer_keeps ?_

theorem serveCreditReq_keeps {s0 s : State} {x : EhtRx} {p : Pkt} {eid : Nat} {e : Endpoint} (hk : Keeps s0 s) :
    Keeps s0 (serveCreditReq s x p eid e) := by
  unfold serveCreditReq
  dsimp only
  with_reducible repeat' first
    | assumption | refine countErr_keeps ?_ | refine countStat_keeps ?_ | refine sendGrant_keeps ?_
    | refine Keeps.ite (fun _ => ?_) (fun _ => ?_) | fail_if_no_progress refine Keeps.upd ?_ rfl rfl | split

theorem hearTally_keeps {s0 s : State} {x : EhtRx} {p : Pkt} (hk : Keeps s0 s) : Keeps s0 (hearTally s x p) := by
  unfold hearTally
  dsimp only
  with_reducible repeat' first
    | assumption | refine raise_keeps ?_ | refine Keeps.ite (fun _ => ?_) (fun _ => ?_)
    | fail_if_no_progress refine Keeps.upd ?_ rfl rfl

theorem unmatched_keeps {s0 s : State} {p : Pkt} (hk : Keeps s0 s) : Keeps s0 (unmatched s p) := by
  unfold unmatched
  with_reducible repeat' first
    | assumption | refine countErr_keeps ?_ | refine countStat_keeps ?_
    | refine Keeps.ite (fun _ => ?_) (fun _ => ?_)

theorem clearGrant_keeps {s0 s : State} {m : OutMsg} (hk : Keeps s0 s) :
    Keeps s0 (clearGrant s m) := by
  unfold clearGrant
  try dsimp only
  with_reducible repeat' first
    | assumption | refine State.onBook_keeps ?_ | fail_if_no_progress refine Keeps.upd ?_ rfl rfl | split

theorem takeAck_keeps {s0 s : State} {p : Pkt} (hk : Keeps s0 s) : Keeps s0 (takeAck s p) := by
  unfold takeAck
  try dsimp only
  with_reducible repeat' first
    | assumption | refine countStat_keeps ?_ | refine State.onOut_keeps ?_ | refine requestCredit_keeps ?_
    | refine finishMsg_keeps ?_ | refine unmatched_keeps ?_ | refine clearGrant_keeps ?_
    | refine Keeps.ite (fun _ => ?_) (fun _ => ?_) | fail_if_no_progress refine Keeps.upd ?_ rfl rfl | split

theorem takeGrant_keeps {s0 s : State} {p : Pkt} (hk : Keeps s0 s) : Keeps s0 (takeGrant s p) := by
  unfold takeGrant
  dsimp only
  with_reducible repeat' first
    | assumption | refine State.onOut_keeps ?_ | refine State.onBook_keeps ?_ | refine sendFrom_keeps ?_
    | refine unmatched_keeps ?_ | refine Keeps.ite (fun _ => ?_) (fun _ => ?_) | split

theorem takeMoved_keeps {s0 s : State} {x : EhtRx} {p : Pkt} (hk : Keeps s0 s) : Keeps s0 (takeMoved s x p) := by
  unfold takeMoved
  dsimp only
  with_reducible repeat' first
    | assumption | refine countStat_keeps ?_ | refine raise_keeps ?_ | refine State.onOut_keeps ?_
    | refine State.onBook_keeps ?_ | refine resendAll_keeps ?_ | refine finishMsg_keeps ?_
    | refine unmatched_keeps ?_ | refine Keeps.ite (fun _ => ?_) (fun _ => ?_) | split

theorem abortContexts_keeps {s0 s : State} {eid : Nat} (hk : Keeps s0 s) : Keeps s0 (abortContexts s eid) := by
  unfold abortContexts
  with_reducible repeat' first
    | assumption | refine countItem_keeps ?_ | refine dropCtx_keeps ?_ | refine recordStatus_keeps ?_
    | refine dropSlot_keeps ?_ | refine Keeps.foldl _ ?_ (fun _ _ _ => ?_)

theorem endWaiting_keeps {s0 s : State} {k : Nat} {m : OutMsg} {status : Nat} (hk : Keeps s0 s) :
    Keeps s0 (endWaiting s k m status) := by
  unfold endWaiting
  with_reducible repeat' first | assumption | refine ownerEnd_keeps ?_ | refine countItem_keeps ?_

theorem abortWhere_keeps {s0 s : State} {p : OutMsg → Bool} (hk : Keeps s0 s) :
    Keeps s0 (abortWhere s p) := by
  unfold abortWhere
  try dsimp only
  with_reducible repeat' first
    | assumption | refine finishMsg_keeps ?_ | refine endWaiting_keeps ?_ | refine Keeps.foldl _ ?_ (fun _ _ _ => ?_)
    | fail_if_no_progress refine Keeps.upd ?_ rfl rfl | split

theorem abortMessages_keeps {s0 s : State} {eid : Nat} (hk : Keeps s0 s) : Keeps s0 (abortMessages s eid) := by
  unfold abortMessages
  try dsimp only
  with_reducible repeat' first
    | assumption | refine abortWhere_keeps ?_ | split

theorem abortEndpoint_keeps {s0 s : State} {eid : Nat} (hk : Keeps s0 s) : Keeps s0 (abortEndpoint s eid) := by
  unfold abortEndpoint
  with_reducible repeat' first | assumption | refine abortContexts_keeps ?_ | refine abortMessages_keeps ?_

theorem opR_keeps {s0 : State} {f : Word64 → Word64 → Word64} {i : Tid} {rd ra rb : Reg} {s : State}
    (hk : Keeps s0 s) : Keeps s0 (opR f i rd ra rb s) := by
  unfold opR
  with_reducible repeat' first | assumption | refine State.setReg_keeps ?_ | refine retire_keeps ?_

theorem op1_keeps {s0 : State} {f : Word64 → Word64} {i : Tid} {rd ra : Reg} {s : State} (hk : Keeps s0 s) :
    Keeps s0 (op1 f i rd ra s) := by
  unfold op1
  with_reducible repeat' first | assumption | refine State.setReg_keeps ?_ | refine retire_keeps ?_

theorem opShi_keeps {s0 : State} {i : Tid} {rd ra : Reg} {kind : BitVec 2} {n : BitVec 6} {s : State}
    (hk : Keeps s0 s) : Keeps s0 (opShi i rd ra kind n s) := by
  unfold opShi
  with_reducible repeat' first | assumption | refine faultThread_keeps ?_ | refine op1_keeps ?_ | split

theorem opF_keeps {s0 : State} {func : Nat} {f : Nat → Nat → Word64 → Word64 → Word64} {i : Tid} {rd ra : Reg}
    {pos len1 : BitVec 6} {s : State} (hk : Keeps s0 s) : Keeps s0 (opF func f i rd ra pos len1 s) := by
  unfold opF
  with_reducible repeat' first
    | assumption | refine State.setReg_keeps ?_ | refine retire_keeps ?_ | refine faultThread_keeps ?_
    | refine Keeps.ite (fun _ => ?_) (fun _ => ?_)

theorem opB_keeps {s0 : State} {c : Word64 → Word64 → Bool} {i : Tid} {ra rb : Reg} {off : Word16} {s : State}
    (hk : Keeps s0 s) : Keeps s0 (opB c i ra rb off s) := by
  unfold opB
  with_reducible repeat' first
    | assumption | refine State.setPc_keeps ?_ | refine retire_keeps ?_
    | refine Keeps.ite (fun _ => ?_) (fun _ => ?_)

theorem opJ_keeps {s0 : State} {i : Tid} {off : BitVec 26} {s : State} (hk : Keeps s0 s) :
    Keeps s0 (opJ i off s) := by
  unfold opJ
  with_reducible repeat' first | assumption | refine State.setPc_keeps ?_

theorem opJal_keeps {s0 : State} {i : Tid} {off : BitVec 26} {s : State} (hk : Keeps s0 s) :
    Keeps s0 (opJal i off s) := by
  unfold opJal
  dsimp only
  with_reducible repeat' first | assumption | refine State.setReg_keeps ?_ | refine State.setPc_keeps ?_

theorem opJalr_keeps {s0 : State} {i : Tid} {rd ra : Reg} {imm : Word16} {s : State} (hk : Keeps s0 s) :
    Keeps s0 (opJalr i rd ra imm s) := by
  unfold opJalr
  dsimp only
  with_reducible repeat' first | assumption | refine State.setReg_keeps ?_ | refine State.setPc_keeps ?_

theorem opLoad_keeps {s0 : State} {n : Nat} {i : Tid} {rd ra : Reg} {imm : Word16} {s : State} (hk : Keeps s0 s) :
    Keeps s0 (opLoad n i rd ra imm s) := by
  unfold opLoad
  dsimp only
  with_reducible repeat' first
    | assumption | refine State.setReg_keeps ?_ | refine retire_keeps ?_ | refine faultThread_keeps ?_
    | refine poisonHit_keeps ?_ | refine Keeps.ite (fun _ => ?_) (fun _ => ?_) | split

theorem keepFetched_keeps {s0 s : State} {i : Tid} {x n : Nat} (hk : Keeps s0 s) :
    Keeps s0 (keepFetched s i x n) := by
  unfold keepFetched
  try dsimp only
  with_reducible repeat' first
    | assumption | refine State.onThr_keeps ?_ | refine Keeps.ite (fun _ => ?_) (fun _ => ?_)
    | refine Keeps.foldl _ ?_ (fun _ _ _ => ?_) | fail_if_no_progress refine Keeps.upd ?_ rfl rfl | split

theorem coreWrite_keeps {s0 s : State} {i : Tid} {x : Nat} {v : Bytes} (hk : Keeps s0 s) :
    Keeps s0 (coreWrite s i x v) := by
  unfold coreWrite
  try dsimp only
  with_reducible repeat' first
    | assumption | refine fencedDiscard_keeps ?_ | refine State.poke_keeps ?_ | refine keepFetched_keeps ?_
    | refine Keeps.ite (fun _ => ?_) (fun _ => ?_) | fail_if_no_progress refine Keeps.upd ?_ rfl rfl | split

theorem opStore_keeps {s0 : State} {n : Nat} {i : Tid} {rs ra : Reg} {imm : Word16} {s : State} (hk : Keeps s0 s) :
    Keeps s0 (opStore n i rs ra imm s) := by
  unfold opStore
  dsimp only
  with_reducible repeat' first
    | assumption | refine retire_keeps ?_ | refine faultThread_keeps ?_ | refine coreWrite_keeps ?_
    | refine Keeps.ite (fun _ => ?_) (fun _ => ?_) | split

theorem opAtomic_keeps {s0 : State} {f : Word64 → Option Word64} {i : Tid} {rd ra : Reg} {s : State}
    (hk : Keeps s0 s) : Keeps s0 (opAtomic f i rd ra s) := by
  unfold opAtomic
  dsimp only
  with_reducible repeat' first
    | assumption | refine State.setReg_keeps ?_ | refine retire_keeps ?_ | refine faultThread_keeps ?_
    | refine poisonHit_keeps ?_ | refine coreWrite_keeps ?_ | refine Keeps.ite (fun _ => ?_) (fun _ => ?_) | split

theorem epFault_keeps {s0 s : State} {i : Tid} {ep : Nat} (hk : Keeps s0 s) : Keeps s0 (epFault s i ep) := by
  unfold epFault
  with_reducible repeat' first | assumption | refine faultThread_keeps ?_

theorem appendStage_keeps {s0 s : State} {i : Tid} {rd : Reg} {ep c : Nat} {words : List Word64} (hk : Keeps s0 s) :
    Keeps s0 (appendStage s i rd ep c words) := by
  unfold appendStage
  dsimp only
  with_reducible repeat' first
    | assumption | refine countErr_keeps ?_ | refine fencedDiscard_keeps ?_ | refine pumpEvents_keeps ?_
    | refine State.setReg_keeps ?_ | refine State.setCs_keeps ?_ | refine retire_keeps ?_
    | refine faultThread_keeps ?_ | refine appendMsg_keeps ?_ | refine State.onStage_keeps ?_
    | refine Keeps.ite (fun _ => ?_) (fun _ => ?_)

theorem opChw_keeps {s0 : State} {eom : Bool} {i : Tid} {rd ra : Reg} {ep : BitVec 6} {s : State} (hk : Keeps s0 s) :
    Keeps s0 (opChw eom i rd ra ep s) := by
  unfold opChw
  dsimp only
  with_reducible repeat' first
    | assumption | refine State.setReg_keeps ?_ | refine State.setCs_keeps ?_ | refine retire_keeps ?_
    | refine faultThread_keeps ?_ | refine State.onStage_keeps ?_ | refine epFault_keeps ?_
    | refine appendStage_keeps ?_ | refine Keeps.ite (fun _ => ?_) (fun _ => ?_) | split

theorem opChpush_keeps {s0 : State} {i : Tid} {rd : Reg} {ep : BitVec 6} {s : State} (hk : Keeps s0 s) :
    Keeps s0 (opChpush i rd ep s) := by
  unfold opChpush
  dsimp only
  with_reducible repeat' first
    | assumption | refine State.setReg_keeps ?_ | refine State.setCs_keeps ?_ | refine retire_keeps ?_
    | refine epFault_keeps ?_ | refine appendStage_keeps ?_ | refine Keeps.ite (fun _ => ?_) (fun _ => ?_) | split

theorem opChdrop_keeps {s0 : State} {i : Tid} {ep : BitVec 6} {s : State} (hk : Keeps s0 s) :
    Keeps s0 (opChdrop i ep s) := by
  unfold opChdrop
  with_reducible repeat' first
    | assumption | refine State.setCs_keeps ?_ | refine retire_keeps ?_ | refine State.onStage_keeps ?_
    | refine epFault_keeps ?_ | split

theorem opChr_keeps {s0 : State} {i : Tid} {rd : Reg} {ep : BitVec 6} {s : State} (hk : Keeps s0 s) :
    Keeps s0 (opChr i rd ep s) := by
  unfold opChr
  with_reducible repeat' first
    | assumption | refine blockRead_keeps ?_ | refine epFault_keeps ?_ | refine Keeps.ite (fun _ => ?_) (fun _ => ?_)

theorem skipMsg_keeps {s0 s : State} {i : Tid} {ep : Nat} (hk : Keeps s0 s) :
    KeepsOpt (fun v => v) s0 (skipMsg s i ep) := by
  unfold skipMsg
  with_reducible repeat' first
    | assumption | refine State.onRole_keeps ?_ | refine popMsg_keeps ?_
    | refine KeepsOpt.ite (fun _ => ?_) (fun _ => ?_) | exact KeepsOpt.none | refine KeepsOpt.some ?_ | split

theorem opChskip_keeps {s0 : State} {i : Tid} {ep : BitVec 6} {s : State} (hk : Keeps s0 s) :
    Keeps s0 (opChskip i ep s) := by
  unfold opChskip
  with_reducible repeat' first
    | assumption | refine settle_keeps ?_ | refine State.onThr_keeps ?_ | refine State.setCs_keeps ?_
    | refine retire_keeps ?_ | refine epFault_keeps ?_ | refine skipMsg_keeps ?_
    | refine Keeps.ite (fun _ => ?_) (fun _ => ?_) | refine KeepsOpt.get0 ‹_› ?_ | split

theorem opChpoll_keeps {s0 : State} {i : Tid} {rd : Reg} {ep : BitVec 6} {s : State} (hk : Keeps s0 s) :
    Keeps s0 (opChpoll i rd ep s) := by
  unfold opChpoll
  with_reducible repeat' first
    | assumption | refine State.setReg_keeps ?_ | refine State.setCs_keeps ?_ | refine retire_keeps ?_
    | refine epFault_keeps ?_ | refine Keeps.ite (fun _ => ?_) (fun _ => ?_)

theorem opWtime_keeps {s0 : State} {i : Tid} {rd : Reg} {s : State} (hk : Keeps s0 s) :
    Keeps s0 (opWtime i rd s) := by
  unfold opWtime
  with_reducible repeat' first | assumption | refine blockRead_keeps ?_

theorem opWsel_keeps {s0 : State} {i : Tid} {rd : Reg} {s : State} (hk : Keeps s0 s) : Keeps s0 (opWsel i rd s) := by
  unfold opWsel
  with_reducible repeat' first
    | assumption | refine State.setReg_keeps ?_ | refine State.setCs_keeps ?_ | refine retire_keeps ?_
    | refine blockRead_keeps ?_ | refine Keeps.ite (fun _ => ?_) (fun _ => ?_)

theorem opWspace_keeps {s0 : State} {i : Tid} {rd : Reg} {ep : BitVec 6} {s : State} (hk : Keeps s0 s) :
    Keeps s0 (opWspace i rd ep s) := by
  unfold opWspace
  with_reducible repeat' first | assumption | refine blockRead_keeps ?_ | refine epFault_keeps ?_ | split

theorem writeSr_keeps {s0 s : State} {i : Tid} {n : Nat} {v : Word64} (hk : Keeps s0 s) :
    KeepsOpt (fun v => v) s0 (writeSr s i n v) := by
  unfold writeSr
  with_reducible repeat' first
    | assumption | refine State.onThr_keeps ?_ | refine State.setCs_keeps ?_ | exact KeepsOpt.none
    | refine KeepsOpt.some ?_ | split

theorem opMfs_keeps {s0 : State} {i : Tid} {rd : Reg} {sr : BitVec 4} {s : State} (hk : Keeps s0 s) :
    Keeps s0 (opMfs i rd sr s) := by
  unfold opMfs
  with_reducible repeat' first | assumption | refine State.setReg_keeps ?_ | refine retire_keeps ?_

theorem opMts_keeps {s0 : State} {i : Tid} {ra : Reg} {sr : BitVec 4} {s : State} (hk : Keeps s0 s) :
    Keeps s0 (opMts i ra sr s) := by
  unfold opMts
  with_reducible repeat' first
    | assumption | refine retire_keeps ?_ | refine faultThread_keeps ?_ | refine writeSr_keeps ?_
    | refine KeepsOpt.get0 ‹_› ?_ | split

theorem opTrestart_keeps {s0 : State} {i : Tid} {rd ra rb : Reg} {s : State} (hk : Keeps s0 s) :
    Keeps s0 (opTrestart i rd ra rb s) := by
  unfold opTrestart
  dsimp only
  with_reducible repeat' first
    | assumption | refine State.onThrAt_keeps ?_ | refine State.setCs_keeps ?_ | refine reach_keeps ?_
    | refine retire_keeps ?_ | refine faultThread_keeps ?_ | refine unread_keeps ?_ | refine dropStages_keeps ?_
    | refine Keeps.ite (fun _ => ?_) (fun _ => ?_)

theorem opTstate_keeps {s0 : State} {i : Tid} {rd ra : Reg} {s : State} (hk : Keeps s0 s) :
    Keeps s0 (opTstate i rd ra s) := by
  unfold opTstate
  dsimp only
  with_reducible repeat' first
    | assumption | refine State.setReg_keeps ?_ | refine State.setCs_keeps ?_ | refine retire_keeps ?_
    | refine faultThread_keeps ?_ | refine Keeps.ite (fun _ => ?_) (fun _ => ?_)

theorem submitDesc_keeps {s0 s : State} {i : Tid} {d : SubDesc} {e : Endpoint} (hk : Keeps s0 s) :
    Keeps s0 (submitDesc s i d e) := by
  unfold submitDesc
  dsimp only
  with_reducible repeat' first
    | assumption | refine countErr_keeps ?_ | refine fencedDiscard_keeps ?_ | refine nextMsgId_keeps ?_
    | refine State.onRole_keeps ?_ | refine State.onThr_keeps ?_ | refine reserveChan_keeps ?_
    | refine completeOn_keeps ?_ | refine launch_keeps ?_ | refine Keeps.ite (fun _ => ?_) (fun _ => ?_) | split

theorem endStatus_keeps {s0 s : State} {i : Tid} {rd : Reg} {c : Nat} (hk : Keeps s0 s) :
    Keeps s0 (endStatus s i rd c) := by
  unfold endStatus
  with_reducible repeat' first
    | assumption | refine State.setReg_keeps ?_ | refine State.setCs_keeps ?_ | refine retire_keeps ?_

theorem opEhtsub_keeps {s0 : State} {i : Tid} {rd ra : Reg} {s : State} (hk : Keeps s0 s) :
    Keeps s0 (opEhtsub i rd ra s) := by
  unfold opEhtsub
  dsimp only
  with_reducible repeat' first
    | assumption | refine settle_keeps ?_ | refine faultThread_keeps ?_ | refine poisonHit_keeps ?_
    | refine submitDesc_keeps ?_ | refine endStatus_keeps ?_ | refine Keeps.ite (fun _ => ?_) (fun _ => ?_) | split

theorem opSlotret_keeps {s0 : State} {i : Tid} {rd ra rb : Reg} {s : State} (hk : Keeps s0 s) :
    Keeps s0 (opSlotret i rd ra rb s) := by
  unfold opSlotret
  dsimp only
  with_reducible repeat' first
    | assumption | refine freeSlots_keeps ?_ | refine endStatus_keeps ?_
    | refine Keeps.ite (fun _ => ?_) (fun _ => ?_) | split

theorem abortUnreadable_keeps {s0 s : State} (hk : Keeps s0 s) :
    Keeps s0 (abortUnreadable s) := by
  unfold abortUnreadable
  try dsimp only
  with_reducible repeat' first
    | assumption | refine abortWhere_keeps ?_ | split

theorem freeBuf_keeps {s0 s : State} {a : Nat} (hk : Keeps s0 s) : Keeps s0 (freeBuf s a) := by
  unfold freeBuf
  with_reducible repeat' first
    | assumption | refine abortUnreadable_keeps ?_ | fail_if_no_progress refine Keeps.upd ?_ rfl rfl | split

theorem verInflight_keeps {s0 s : State} {v : Nat} {f : Nat → Nat} (hk : Keeps s0 s) :
    Keeps s0 (verInflight s v f) := by
  unfold verInflight
  dsimp only
  with_reducible repeat' first | assumption | fail_if_no_progress refine Keeps.upd ?_ rfl rfl

theorem countEntry_keeps {s0 s : State} (hk : Keeps s0 s) :
    Keeps s0 (countEntry s) := by
  unfold countEntry
  with_reducible repeat' first
    | assumption | refine verInflight_keeps ?_ | split

theorem opFinj_keeps {s0 : State} {i : Tid} {rd ra : Reg} {s : State} (hk : Keeps s0 s) :
    Keeps s0 (opFinj i rd ra s) := by
  unfold opFinj
  try dsimp only
  with_reducible repeat' first
    | assumption | refine fencedDiscard_keeps ?_ | refine settle_keeps ?_ | refine faultThread_keeps ?_
    | refine poisonHit_keeps ?_ | refine endStatus_keeps ?_ | refine countEntry_keeps ?_
    | refine Keeps.ite (fun _ => ?_) (fun _ => ?_) | fail_if_no_progress refine Keeps.upd ?_ rfl rfl | split

theorem opFrel_keeps {s0 : State} {i : Tid} {ra : Reg} {s : State} (hk : Keeps s0 s) : Keeps s0 (opFrel i ra s) := by
  unfold opFrel
  dsimp only
  with_reducible repeat' first
    | assumption | refine retire_keeps ?_ | refine faultThread_keeps ?_ | refine freeBuf_keeps ?_
    | refine Keeps.ite (fun _ => ?_) (fun _ => ?_)

theorem isaAlu_keeps {s0 : State} {i : Tid} {rd ra rb : Reg} {func : Nat} {xx : State} (hk : Keeps s0 xx) :
    KeepsOpt (fun v => v xx) s0 (isaAlu i rd ra rb func) := by
  unfold isaAlu
  with_reducible repeat' first
    | assumption | refine opR_keeps ?_ | exact KeepsOpt.none | refine KeepsOpt.some ?_ | split

theorem isaField_keeps {s0 : State} {i : Tid} {rd ra : Reg} {pos len1 : BitVec 6} {func : Nat} {xx : State}
    (hk : Keeps s0 xx) : KeepsOpt (fun v => v xx) s0 (isaField i rd ra pos len1 func) := by
  unfold isaField
  dsimp only
  with_reducible repeat' first
    | assumption | refine op1_keeps ?_ | refine opF_keeps ?_ | refine KeepsOpt.ite (fun _ => ?_) (fun _ => ?_)
    | exact KeepsOpt.none | refine KeepsOpt.some ?_ | split

theorem isaCrc_keeps {s0 : State} {i : Tid} {rd ra rb : Reg} {func : Nat} {xx : State} (hk : Keeps s0 xx) :
    KeepsOpt (fun v => v xx) s0 (isaCrc i rd ra rb func) := by
  unfold isaCrc
  dsimp only
  with_reducible repeat' first
    | assumption | refine opR_keeps ?_ | refine KeepsOpt.ite (fun _ => ?_) (fun _ => ?_) | exact KeepsOpt.none
    | refine KeepsOpt.some ?_

theorem isaAtomic_keeps {s0 : State} {i : Tid} {rd ra rb : Reg} {func : Nat} {xx : State} (hk : Keeps s0 xx) :
    KeepsOpt (fun v => v xx) s0 (isaAtomic i rd ra rb func) := by
  unfold isaAtomic
  with_reducible repeat' first
    | assumption | refine opAtomic_keeps ?_ | exact KeepsOpt.none | refine KeepsOpt.some ?_ | split

theorem isaChan_keeps {s0 : State} {i : Tid} {rd ra : Reg} {ep : BitVec 6} {func : Nat} {xx : State}
    (hk : Keeps s0 xx) : KeepsOpt (fun v => v xx) s0 (isaChan i rd ra ep func) := by
  unfold isaChan
  with_reducible repeat' first
    | assumption | refine opChw_keeps ?_ | refine opChpush_keeps ?_ | refine opChdrop_keeps ?_
    | refine opChr_keeps ?_ | refine opChskip_keeps ?_ | refine opChpoll_keeps ?_
    | refine KeepsOpt.ite (fun _ => ?_) (fun _ => ?_) | exact KeepsOpt.none | refine KeepsOpt.some ?_ | split

theorem isaPort_keeps {s0 : State} {i : Tid} {rd ra : Reg} {ep : BitVec 6} {func : Nat} {xx : State}
    (hk : Keeps s0 xx) : KeepsOpt (fun v => v xx) s0 (isaPort i rd ra ep func) := by
  unfold isaPort
  with_reducible repeat' first
    | assumption | refine opWtime_keeps ?_ | refine opWsel_keeps ?_ | refine opWspace_keeps ?_
    | refine KeepsOpt.ite (fun _ => ?_) (fun _ => ?_) | exact KeepsOpt.none | refine KeepsOpt.some ?_ | split

theorem isaDev_keeps {s0 : State} {i : Tid} {rd ra rb : Reg} {func : Nat} {xx : State} (hk : Keeps s0 xx) :
    KeepsOpt (fun v => v xx) s0 (isaDev i rd ra rb func) := by
  unfold isaDev
  with_reducible repeat' first
    | assumption | refine opEhtsub_keeps ?_ | refine opSlotret_keeps ?_ | refine opFinj_keeps ?_
    | refine opFrel_keeps ?_ | refine KeepsOpt.ite (fun _ => ?_) (fun _ => ?_) | exact KeepsOpt.none
    | refine KeepsOpt.some ?_ | split

theorem opIfence_keeps {s0 s : State} {i : Tid} (hk : Keeps s0 s) :
    Keeps s0 (opIfence i s) := by
  unfold opIfence
  try dsimp only
  with_reducible repeat' first
    | assumption | refine State.onThr_keeps ?_ | refine retire_keeps ?_
    | fail_if_no_progress refine Keeps.upd ?_ rfl rfl | split

theorem isaOp_keeps {s0 : State} {i : Tid} {w : Nat} {xx : State} (hk : Keeps s0 xx) :
    KeepsOpt (fun v => v xx) s0 (isaOp i w) := by
  unfold isaOp
  try dsimp only
  with_reducible repeat' first
    | assumption | refine retire_keeps ?_ | refine op1_keeps ?_ | refine opShi_keeps ?_ | refine opB_keeps ?_
    | refine opJ_keeps ?_ | refine opJal_keeps ?_ | refine opJalr_keeps ?_ | refine opLoad_keeps ?_
    | refine opStore_keeps ?_ | refine opMfs_keeps ?_ | refine opMts_keeps ?_ | refine opTrestart_keeps ?_
    | refine opTstate_keeps ?_ | refine KeepsOpt.getF ‹_› ?_ | refine isaAlu_keeps ?_ | refine isaField_keeps ?_
    | refine isaCrc_keeps ?_ | refine isaAtomic_keeps ?_ | refine isaChan_keeps ?_ | refine isaPort_keeps ?_
    | refine isaDev_keeps ?_ | refine opIfence_keeps ?_ | refine Keeps.ite (fun _ => ?_) (fun _ => ?_)
    | fail_if_no_progress refine Keeps.upd ?_ rfl rfl | refine KeepsOpt.ite (fun _ => ?_) (fun _ => ?_)
    | exact KeepsOpt.none | refine KeepsOpt.some ?_ | split

theorem stepWord_keeps {s0 s : State} {i : Tid} (hk : Keeps s0 s) : Keeps s0 (stepWord s i) := by
  unfold stepWord
  with_reducible repeat' first
    | assumption | refine faultThread_keeps ?_ | refine KeepsOpt.get2 ‹_› ?_ | refine KeepsOpt.get2p ‹_› ?_
    | refine fetchFault_keeps ?_ | refine KeepsOpt.getF ‹_› ?_ | refine isaOp_keeps ?_
    | fail_if_no_progress refine Keeps.upd ?_ rfl rfl | split

end Sys2Proof.Machine
end

