-- ==== Sys2Proof/Laws/KeepsRows.lean ====
section
/-! SUPPORT. Ports, Stalls, security, parser, table rows and migration. Every operation keeps the queue, the fuses and the form of the memories. -/

namespace Sys2Proof.Machine

theorem msecSeen_keeps {s0 s : State} {lp : Nat} {y0 : MsecIn} (hk : Keeps s0 s) : Keeps s0 (msecSeen s lp y0) := by
  unfold msecSeen
  with_reducible repeat' first | assumption | refine State.onLp_keeps ?_ | split

theorem pipeOf_keeps {s0 s : State} {lp : Nat} (hk : Keeps s0 s) :
    Keeps s0 (pipeOf s lp).2.2 := by
  unfold pipeOf
  try dsimp only
  with_reducible repeat' first
    | assumption | refine State.onPp_keeps ?_ | refine Keeps.ite (fun _ => ?_) (fun _ => ?_)
    | refine Keeps.iteFst (fun _ => ?_) (fun _ => ?_) | refine Keeps.iteSnd (fun _ => ?_) (fun _ => ?_)
    | fail_if_no_progress refine Keeps.upd ?_ rfl rfl | split

theorem countRx_keeps {s0 s : State} {lp : Nat} {b : Bytes} (hk : Keeps s0 s) : Keeps s0 (countRx s lp b) := by
  unfold countRx
  dsimp only
  with_reducible repeat' first | assumption | refine countStat_keeps ?_ | refine Keeps.ite (fun _ => ?_) (fun _ => ?_)

theorem toPipeline_keeps {s0 s : State} {lp : Nat} {b : Bytes} {bad : Bool} {tIn tInUp : Nat} (hk : Keeps s0 s) :
    Keeps s0 (toPipeline s lp b bad tIn tInUp) := by
  unfold toPipeline
  try dsimp only
  with_reducible repeat' first
    | assumption | refine countEntry_keeps ?_ | refine pipeOf_keeps ?_
    | fail_if_no_progress refine Keeps.upd ?_ rfl rfl | split

theorem receiveChecked_keeps {s0 s : State} {lp : Nat} {b : Bytes} {fcsBad icvBad : Bool} {tIn tInUp : Nat} (hk : Keeps s0 s) :
    Keeps s0 (receiveChecked s lp b fcsBad icvBad tIn tInUp) := by
  unfold receiveChecked
  try dsimp only
  with_reducible repeat' first
    | assumption | refine countErr_keeps ?_ | refine countRx_keeps ?_ | refine toPipeline_keeps ?_
    | refine Keeps.ite (fun _ => ?_) (fun _ => ?_) | split

theorem receiveNow_keeps {s0 s : State} {f : WireFrame} {tIn tInUp : Nat} (hk : Keeps s0 s) :
    Keeps s0 (receiveNow s f tIn tInUp) := by
  unfold receiveNow
  try dsimp only
  with_reducible repeat' first
    | assumption | refine countErr_keeps ?_ | refine countStat_keeps ?_ | refine msecSeen_keeps ?_
    | refine receiveChecked_keeps ?_ | refine Keeps.ite (fun _ => ?_) (fun _ => ?_)
    | fail_if_no_progress refine Keeps.upd ?_ rfl rfl | split

theorem countCodewords_keeps {s0 s : State} {p : Nat} {f : WireFrame} (hk : Keeps s0 s) :
    Keeps s0 (countCodewords s p f) := by
  unfold countCodewords
  try dsimp only
  with_reducible repeat' first
    | assumption | refine countErrs_keeps ?_ | refine countStat_keeps ?_
    | refine Keeps.ite (fun _ => ?_) (fun _ => ?_) | split

theorem receive_keeps {s0 s : State} {f : WireFrame} (hk : Keeps s0 s) : Keeps s0 (receive s f) := by
  unfold receive
  try dsimp only
  with_reducible repeat' first
    | assumption | refine countErr_keeps ?_ | refine State.onPp_keeps ?_ | refine receiveNow_keeps ?_
    | refine countCodewords_keeps ?_ | refine Keeps.ite (fun _ => ?_) (fun _ => ?_)
    | fail_if_no_progress refine Keeps.upd ?_ rfl rfl | split

theorem settleLink_keeps {s0 s : State} {lp : Nat} (hk : Keeps s0 s) :
    Keeps s0 (settleLink s lp) := by
  unfold settleLink
  try dsimp only
  with_reducible repeat' first
    | assumption | refine State.draw_keeps ?_ | refine State.onLp_keeps ?_
    | refine Keeps.ite (fun _ => ?_) (fun _ => ?_) | fail_if_no_progress refine Keeps.upd ?_ rfl rfl | split

theorem linkUp_keeps {s0 s : State} {lp : Nat} {offer : Option Nat} (hk : Keeps s0 s) :
    Keeps s0 (linkUp s lp offer) := by
  unfold linkUp
  try dsimp only
  with_reducible repeat' first
    | assumption | refine State.onLp_keeps ?_ | refine State.onPp_keeps ?_ | refine emit_keeps ?_
    | refine settleLink_keeps ?_ | refine Keeps.ite (fun _ => ?_) (fun _ => ?_)
    | fail_if_no_progress refine Keeps.upd ?_ rfl rfl | split

theorem declareDown_keeps {s0 s : State} {lp : Nat} (hk : Keeps s0 s) : Keeps s0 (declareDown s lp) := by
  unfold declareDown
  try dsimp only
  with_reducible repeat' first
    | assumption | refine countErr_keeps ?_ | refine State.onLp_keeps ?_ | refine raise_keeps ?_
    | refine dropLink_keeps ?_ | fail_if_no_progress refine Keeps.upd ?_ rfl rfl | split

theorem alignmentLost_keeps {s0 s : State} {lp : Nat} (hk : Keeps s0 s) : Keeps s0 (alignmentLost s lp) := by
  unfold alignmentLost
  with_reducible repeat' first | assumption | refine State.onLp_keeps ?_ | refine Keeps.ite (fun _ => ?_) (fun _ => ?_)

theorem linkDown_keeps {s0 s : State} {lp : Nat} (hk : Keeps s0 s) : Keeps s0 (linkDown s lp) := by
  unfold linkDown
  with_reducible repeat' first
    | assumption | refine declareDown_keeps ?_ | refine Keeps.ite (fun _ => ?_) (fun _ => ?_) | split

theorem setupFallback_keeps {s0 s : State} {p : Nat} (hk : Keeps s0 s) : Keeps s0 (setupFallback s p) := by
  unfold setupFallback
  dsimp only
  with_reducible repeat' first | assumption | refine State.onLp_keeps ?_ | refine Keeps.ite (fun _ => ?_) (fun _ => ?_)

theorem fecSymbols_keeps {s0 s : State} {p lane n : Nat} (hk : Keeps s0 s) : Keeps s0 (fecSymbols s p lane n) := by
  unfold fecSymbols
  dsimp only
  with_reducible repeat' first
    | assumption | refine State.onPp_keeps ?_ | refine countStat_keeps ?_ | refine raise_keeps ?_
    | refine Keeps.ite (fun _ => ?_) (fun _ => ?_)

theorem mgmtRelease_keeps {s0 s : State} {p : Nat} (hk : Keeps s0 s) : Keeps s0 (mgmtRelease s p) := by
  unfold mgmtRelease
  dsimp only
  with_reducible repeat' first
    | assumption | refine State.onPp_keeps ?_ | refine countStat_keeps ?_ | refine emit_keeps ?_
    | refine Keeps.ite (fun _ => ?_) (fun _ => ?_) | split

theorem pnCheck_keeps {s0 s : State} {lp : Nat} (hk : Keeps s0 s) :
    Keeps s0 (pnCheck s lp) := by
  unfold pnCheck
  try dsimp only
  with_reducible repeat' first
    | assumption | refine State.onLp_keeps ?_ | refine raise_keeps ?_ | refine Keeps.ite (fun _ => ?_) (fun _ => ?_)
    | fail_if_no_progress refine Keeps.upd ?_ rfl rfl | split

theorem releaseHeld_keeps {s0 s : State} {p : Nat} (hk : Keeps s0 s) :
    Keeps s0 (releaseHeld s p) := by
  unfold releaseHeld
  try dsimp only
  with_reducible repeat' first
    | assumption | refine State.onPp_keeps ?_ | refine receiveNow_keeps ?_ | refine Keeps.foldl _ ?_ (fun _ _ _ => ?_)
    | fail_if_no_progress refine Keeps.upd ?_ rfl rfl | split

theorem saActivated_keeps {s0 s : State} {p : Nat} (hk : Keeps s0 s) : Keeps s0 (saActivated s p) := by
  unfold saActivated
  try dsimp only
  with_reducible repeat' first
    | assumption | refine State.onLp_keeps ?_ | refine State.onPp_keeps ?_ | refine raise_keeps ?_
    | refine pnCheck_keeps ?_ | refine releaseHeld_keeps ?_ | refine Keeps.ite (fun _ => ?_) (fun _ => ?_)
    | fail_if_no_progress refine Keeps.upd ?_ rfl rfl | split

theorem startFrame_keeps {s0 s : State} {lp : Nat} {f : Frame} (hk : Keeps s0 s) : Keeps s0 (startFrame s lp f) := by
  unfold startFrame
  try dsimp only
  with_reducible repeat' first
    | assumption | refine State.onLp_keeps ?_ | refine countStat_keeps ?_ | refine pnCheck_keeps ?_
    | refine Keeps.ite (fun _ => ?_) (fun _ => ?_) | fail_if_no_progress refine Keeps.upd ?_ rfl rfl | split

theorem sendSelected_keeps {s0 s : State} {lp : Nat} {f : Frame} (hk : Keeps s0 s) :
    Keeps s0 (sendSelected s lp f) := by
  unfold sendSelected
  with_reducible repeat' first
    | assumption | refine countErr_keeps ?_ | refine startFrame_keeps ?_
    | refine Keeps.ite (fun _ => ?_) (fun _ => ?_)

theorem deferGate_keeps {s0 s : State} {lp : Nat} {bound : Option Nat} (hk : Keeps s0 s) :
    Keeps s0 (deferGate s lp bound) := by
  unfold deferGate
  dsimp only
  with_reducible repeat' first
    | assumption | refine State.onLp_keeps ?_ | refine countStat_keeps ?_
    | refine Keeps.ite (fun _ => ?_) (fun _ => ?_)

theorem transmitSelect_keeps {s0 s : State} {lp : Nat} (hk : Keeps s0 s) : Keeps s0 (transmitSelect s lp) := by
  unfold transmitSelect
  dsimp only
  with_reducible repeat' first
    | assumption | refine State.onLp_keeps ?_ | refine sendSelected_keeps ?_ | refine deferGate_keeps ?_
    | refine Keeps.ite (fun _ => ?_) (fun _ => ?_) | split

theorem exlatSample_keeps {s0 s : State} {lp : Nat} {f : Frame} {d causes : Nat} (hk : Keeps s0 s) :
    Keeps s0 (exlatSample s lp f d causes) := by
  unfold exlatSample
  try dsimp only
  with_reducible repeat' first
    | assumption | refine State.noteFlag_keeps ?_ | refine countErr_keeps ?_ | refine State.onLp_keeps ?_
    | refine countStat_keeps ?_ | refine raise_keeps ?_ | refine Keeps.ite (fun _ => ?_) (fun _ => ?_)
    | fail_if_no_progress refine Keeps.upd ?_ rfl rfl | split

theorem exlatEnd_keeps {s0 s : State} {lp : Nat} {f : Frame} (hk : Keeps s0 s) : Keeps s0 (exlatEnd s lp f) := by
  unfold exlatEnd
  dsimp only
  with_reducible repeat' first
    | assumption | refine countStat_keeps ?_ | refine exlatSample_keeps ?_
    | refine Keeps.ite (fun _ => ?_) (fun _ => ?_) | split

theorem pushStamp_keeps {s0 s : State} {lp tag : Nat} (hk : Keeps s0 s) : Keeps s0 (pushStamp s lp tag) := by
  unfold pushStamp
  with_reducible repeat' first
    | assumption | refine countErr_keeps ?_ | refine State.onLp_keeps ?_ | refine raise_keeps ?_
    | refine Keeps.ite (fun _ => ?_) (fun _ => ?_)

theorem transmitEnd_keeps {s0 s : State} {lp : Nat} (hk : Keeps s0 s) : Keeps s0 (transmitEnd s lp) := by
  unfold transmitEnd
  dsimp only
  with_reducible repeat' first
    | assumption | refine State.onLp_keeps ?_ | refine countStat_keeps ?_ | refine State.qCount_keeps ?_
    | refine exlatEnd_keeps ?_ | refine pushStamp_keeps ?_ | refine Keeps.ite (fun _ => ?_) (fun _ => ?_) | split

theorem abortStall_keeps {s0 s : State} {st : Nat} (hk : Keeps s0 s) : Keeps s0 (abortStall s st) := by
  unfold abortStall
  dsimp only
  with_reducible repeat' first
    | assumption | refine countErrs_keeps ?_ | refine State.qCount_keeps ?_ | refine State.onStall_keeps ?_
    | refine freeBuf_keeps ?_ | fail_if_no_progress refine Keeps.upd ?_ rfl rfl
    | refine Keeps.foldl _ ?_ (fun _ _ _ => ?_)

theorem abortOne_keeps {s0 s : State} {y0 : QObj} (hk : Keeps s0 s) : Keeps s0 (abortOne s y0) := by
  unfold abortOne
  dsimp only
  with_reducible repeat' first
    | assumption | refine State.qCount_keeps ?_ | refine abortQueue_keeps ?_ | refine abortSq_keeps ?_
    | refine abortEndpoint_keeps ?_ | refine abortStall_keeps ?_ | split

theorem markAbort_keeps {s0 s : State} {o : QObj} (hk : Keeps s0 s) : Keeps s0 (markAbort s o) := by
  unfold markAbort
  dsimp only
  with_reducible repeat' first | assumption | fail_if_no_progress refine Keeps.upd ?_ rfl rfl

theorem abortChildren_keeps {s0 s : State} {p : QObj → Bool} (hk : Keeps s0 s) : Keeps s0 (abortChildren s p) := by
  unfold abortChildren
  with_reducible repeat' first
    | assumption | refine abortOne_keeps ?_ | refine markAbort_keeps ?_ | refine Keeps.foldl _ ?_ (fun _ _ _ => ?_)

theorem abortDispatched_keeps {s0 s : State} {k : Nat} (hk : Keeps s0 s) : Keeps s0 (abortDispatched s k) := by
  unfold abortDispatched
  dsimp only
  with_reducible repeat' first | assumption | refine State.onSq_keeps ?_ | refine abortSq_keeps ?_ | split

theorem abortObj_keeps {s0 s : State} {o : QObj} (hk : Keeps s0 s) : Keeps s0 (abortObj s o) := by
  unfold abortObj
  dsimp only
  with_reducible repeat' first
    | assumption | refine countErrs_keeps ?_ | refine State.qCount_keeps ?_ | refine dropPort_keeps ?_
    | refine abortMessages_keeps ?_ | refine abortOne_keeps ?_ | refine markAbort_keeps ?_
    | refine abortChildren_keeps ?_ | refine abortDispatched_keeps ?_ | refine Keeps.ite (fun _ => ?_) (fun _ => ?_)
    | refine Keeps.foldl _ ?_ (fun _ _ _ => ?_) | split

theorem bankBack_keeps {s0 s : State} {b sp : Nat} (hk : Keeps s0 s) : Keeps s0 (bankBack s b sp) := by
  unfold bankBack
  dsimp only
  with_reducible repeat' first | assumption | fail_if_no_progress refine Keeps.upd ?_ rfl rfl

theorem endHold_keeps {s0 s : State} {u : UnitTest} (hk : Keeps s0 s) : Keeps s0 (endHold s u) := by
  unfold endHold
  dsimp only
  with_reducible repeat' first
    | assumption | refine countStat_keeps ?_ | refine State.onStall_keeps ?_
    | refine Keeps.ite (fun _ => ?_) (fun _ => ?_) | fail_if_no_progress refine Keeps.upd ?_ rfl rfl

theorem abandonTest_keeps {s0 s : State} {p : Nat → Bool} (hk : Keeps s0 s) : Keeps s0 (abandonTest s p) := by
  unfold abandonTest
  dsimp only
  with_reducible repeat' first
    | assumption | refine countErr_keeps ?_ | refine bankBack_keeps ?_ | refine endHold_keeps ?_
    | refine Keeps.ite (fun _ => ?_) (fun _ => ?_) | fail_if_no_progress refine Keeps.upd ?_ rfl rfl | split

theorem qStart_keeps {s0 s : State} {o : QObj} {kind policy timeout : Nat} {linkDown destroy : Bool}
    (hk : Keeps s0 s) : Keeps s0 (qStart s o kind policy timeout linkDown destroy) := by
  unfold qStart
  dsimp only
  with_reducible repeat' first
    | assumption | refine State.qSet_keeps ?_ | refine State.onStall_keeps ?_ | refine State.onSq_keeps ?_
    | refine abortObj_keeps ?_ | refine Keeps.ite (fun _ => ?_) (fun _ => ?_) | split

theorem qBegin_keeps {s0 s : State} {o : QObj} {kind : Nat} {a : Nat × Nat × Bool} (hk : Keeps s0 s) :
    Keeps s0 (qBegin s o kind a).st := by
  unfold qBegin
  with_reducible repeat' first
    | assumption | refine fails_keeps ?_ | refine done_keeps ?_ | refine qStart_keeps ?_
    | refine Keeps.iteSt (fun _ => ?_) (fun _ => ?_)

theorem qCommand_keeps {s0 : State} {n kind : Nat} {link : Bool} {obj : State → Req → Nat ⊕ QObj} {s : State}
    {r : Req} (hk : Keeps s0 s) : Keeps s0 (qCommand n kind link obj s r).st := by
  unfold qCommand
  with_reducible repeat' first | assumption | refine failsAt_keeps ?_ | refine qBegin_keeps ?_ | split

theorem sqQuiesce_keeps {s0 s : State} {r : Req} (hk : Keeps s0 s) : Keeps s0 (sqQuiesce s r).st := by
  unfold sqQuiesce
  with_reducible repeat' first
    | assumption | refine fails_keeps ?_ | refine failsAt_keeps ?_ | refine done_keeps ?_ | refine qStart_keeps ?_
    | refine Keeps.iteSt (fun _ => ?_) (fun _ => ?_) | split

theorem stallQuiesceCmd_keeps {s0 s : State} {r : Req} (hk : Keeps s0 s) : Keeps s0 (stallQuiesceCmd s r).st := by
  unfold stallQuiesceCmd
  dsimp only
  with_reducible repeat' first
    | assumption | refine fails_keeps ?_ | refine failsAt_keeps ?_ | refine done_keeps ?_
    | refine abandonTest_keeps ?_ | refine qStart_keeps ?_ | refine Keeps.iteSt (fun _ => ?_) (fun _ => ?_) | split

theorem lpEnableCmd_keeps {s0 s : State} {r : Req} (hk : Keeps s0 s) : Keeps s0 (lpEnableCmd s r).st := by
  unfold lpEnableCmd
  with_reducible repeat' first
    | assumption | refine State.onLp_keeps ?_ | refine State.qDel_keeps ?_ | refine fails_keeps ?_
    | refine failsAt_keeps ?_ | refine done_keeps ?_ | refine Keeps.iteSt (fun _ => ?_) (fun _ => ?_) | split

theorem tmQenableCmd_keeps {s0 s : State} {r : Req} (hk : Keeps s0 s) : Keeps s0 (tmQenableCmd s r).st := by
  unfold tmQenableCmd
  with_reducible repeat' first
    | assumption | refine State.qDel_keeps ?_ | refine fails_keeps ?_ | refine failsAt_keeps ?_
    | refine done_keeps ?_ | refine Keeps.iteSt (fun _ => ?_) (fun _ => ?_) | split

theorem tfDisableCmd_keeps {s0 s : State} {r : Req} (hk : Keeps s0 s) : Keeps s0 (tfDisableCmd s r).st := by
  unfold tfDisableCmd
  dsimp only
  with_reducible repeat' first
    | assumption | refine State.onTf_keeps ?_ | refine fails_keeps ?_ | refine failsAt_keeps ?_
    | refine done_keeps ?_ | refine qStart_keeps ?_ | refine Keeps.ite (fun _ => ?_) (fun _ => ?_)
    | refine Keeps.iteSt (fun _ => ?_) (fun _ => ?_) | refine Keeps.foldl _ ?_ (fun _ _ _ => ?_) | split

theorem endSubmissions_keeps {s0 s : State} {tf status : Nat} (hk : Keeps s0 s) :
    Keeps s0 (endSubmissions s tf status) := by
  unfold endSubmissions
  dsimp only
  with_reducible repeat' first
    | assumption | refine endWaiting_keeps ?_ | fail_if_no_progress refine Keeps.upd ?_ rfl rfl
    | refine Keeps.foldl _ ?_ (fun _ _ _ => ?_)

theorem tfFreezeCmd_keeps {s0 s : State} {r : Req} (hk : Keeps s0 s) : Keeps s0 (tfFreezeCmd s r).st := by
  unfold tfFreezeCmd
  dsimp only
  with_reducible repeat' first
    | assumption | refine State.onTf_keeps ?_ | refine sendCoal_keeps ?_ | refine fails_keeps ?_
    | refine failsAt_keeps ?_ | refine done_keeps ?_ | refine qStart_keeps ?_ | refine endSubmissions_keeps ?_
    | refine Keeps.iteSt (fun _ => ?_) (fun _ => ?_) | refine Keeps.foldl _ ?_ (fun _ _ _ => ?_) | split

theorem liftChildren_keeps {s0 s : State} {n : Nat} (hk : Keeps s0 s) : Keeps s0 (liftChildren s n) := by
  unfold liftChildren
  with_reducible repeat' first | assumption | fail_if_no_progress refine Keeps.upd ?_ rfl rfl

theorem tfEnableCmd_keeps {s0 s : State} {r : Req} (hk : Keeps s0 s) : Keeps s0 (tfEnableCmd s r).st := by
  unfold tfEnableCmd
  dsimp only
  with_reducible repeat' first
    | assumption | refine State.onTf_keeps ?_ | refine fails_keeps ?_ | refine failsAt_keeps ?_
    | refine done_keeps ?_ | refine liftChildren_keeps ?_ | refine Keeps.iteSt (fun _ => ?_) (fun _ => ?_)

theorem stockStall_keeps {s0 s : State} {st : Nat} (hk : Keeps s0 s) : Keeps s0 (stockStall s st) := by
  unfold stockStall
  try dsimp only
  with_reducible repeat' first
    | assumption | refine pumpClerk_keeps ?_ | refine Keeps.ite (fun _ => ?_) (fun _ => ?_)
    | fail_if_no_progress refine Keeps.upd ?_ rfl rfl | split

theorem tellMoves_keeps {s0 s : State} {st failed : Nat} {moves : List (Nat × Nat × Nat)} (hk : Keeps s0 s) :
    Keeps s0 (tellMoves s st failed moves) := by
  unfold tellMoves
  dsimp only
  with_reducible repeat' first
    | assumption | refine countErrs_keeps ?_ | refine raise_keeps ?_ | refine postFault_keeps ?_
    | refine Keeps.foldl _ ?_ (fun _ _ _ => ?_)

theorem tellQuiet_keeps {s0 s : State} {st : Nat} (hk : Keeps s0 s) : Keeps s0 (tellQuiet s st) := by
  unfold tellQuiet
  dsimp only
  with_reducible repeat' first
    | assumption | refine raise_keeps ?_ | refine State.onStall_keeps ?_
    | refine Keeps.ite (fun _ => ?_) (fun _ => ?_)

theorem rehomeStart_keeps {s0 s : State} {st r : Nat} (hk : Keeps s0 s) : Keeps s0 (rehomeStart s st r) := by
  unfold rehomeStart
  try dsimp only
  with_reducible repeat' first
    | assumption | refine startThread_keeps ?_ | refine rehome_keeps ?_ | refine tellMoves_keeps ?_
    | refine tellQuiet_keeps ?_ | refine Keeps.ite (fun _ => ?_) (fun _ => ?_)
    | refine Keeps.foldl _ ?_ (fun _ _ _ => ?_) | split

theorem spareStart_keeps {s0 s : State} {st r : Nat} (hk : Keeps s0 s) : Keeps s0 (spareStart s st r) := by
  unfold spareStart
  dsimp only
  with_reducible repeat' first
    | assumption | refine raise_keeps ?_ | refine State.fenceTake_keeps ?_ | refine State.onStall_keeps ?_
    | refine State.onRole_keeps ?_ | refine startCore_keeps ?_ | refine Keeps.ite (fun _ => ?_) (fun _ => ?_) | split

theorem emptyStall_keeps {s0 s : State} {st : Nat} (hk : Keeps s0 s) : Keeps s0 (emptyStall s st) := by
  unfold emptyStall
  dsimp only
  with_reducible repeat' first
    | assumption | refine State.onStall_keeps ?_ | fail_if_no_progress refine Keeps.upd ?_ rfl rfl

theorem fillAbsent_keeps {s0 s : State} {st : Nat} (hk : Keeps s0 s) : Keeps s0 (fillAbsent s st) := by
  unfold fillAbsent
  dsimp only
  with_reducible repeat' first
    | assumption | refine State.fenceTake_keeps ?_ | refine State.onStall_keeps ?_ | refine State.onRole_keeps ?_
    | refine Keeps.foldl _ ?_ (fun _ _ _ => ?_) | split

theorem settleOwed_keeps {s0 s : State} {st : Nat} (hk : Keeps s0 s) :
    Keeps s0 (settleOwed s st) := by
  unfold settleOwed
  try dsimp only
  with_reducible repeat' first
    | assumption | refine State.onStall_keeps ?_ | refine quietReset_keeps ?_ | refine spareStart_keeps ?_
    | refine Keeps.ite (fun _ => ?_) (fun _ => ?_) | refine Keeps.foldl _ ?_ (fun _ _ _ => ?_)
    | fail_if_no_progress refine Keeps.upd ?_ rfl rfl | split

theorem startStall_keeps {s0 s : State} {st : Nat} (hk : Keeps s0 s) : Keeps s0 (startStall s st) := by
  unfold startStall
  try dsimp only
  with_reducible repeat' first
    | assumption | refine State.qDel_keeps ?_ | refine State.onStall_keeps ?_ | refine loadStallMem_keeps ?_
    | refine startCore_keeps ?_ | refine loadTables_keeps ?_ | refine rehomeAll_keeps ?_
    | refine abortUnreadable_keeps ?_ | refine stockStall_keeps ?_ | refine tellMoves_keeps ?_
    | refine emptyStall_keeps ?_ | refine fillAbsent_keeps ?_ | refine settleOwed_keeps ?_
    | refine Keeps.foldl _ ?_ (fun _ _ _ => ?_) | fail_if_no_progress refine Keeps.upd ?_ rfl rfl | split

theorem unblock_keeps {s0 s : State} {i : Tid} {p : Wait → Bool} (hk : Keeps s0 s) : Keeps s0 (unblock s i p) := by
  unfold unblock
  with_reducible repeat' first
    | assumption | refine quietReset_keeps ?_ | refine endRead_keeps ?_ | refine tryRead_keeps ?_
    | refine Keeps.ite (fun _ => ?_) (fun _ => ?_) | refine KeepsOpt.get2 ‹_› ?_ | split

theorem quietFires_keeps {s0 s : State} {st r : Nat} (hk : Keeps s0 s) : Keeps s0 (quietFires s st r) := by
  unfold quietFires
  dsimp only
  with_reducible repeat' first
    | assumption | refine countErr_keeps ?_ | refine State.onRole_keeps ?_ | refine postFault_keeps ?_
    | refine tellQuiet_keeps ?_ | refine Keeps.ite (fun _ => ?_) (fun _ => ?_)

theorem stallStartCmd_keeps {s0 s : State} {r : Req} (hk : Keeps s0 s) : Keeps s0 (stallStartCmd s r).st := by
  unfold stallStartCmd
  with_reducible repeat' first
    | assumption | refine fails_keeps ?_ | refine failsAt_keeps ?_ | refine done_keeps ?_
    | refine startStall_keeps ?_ | refine Keeps.iteSt (fun _ => ?_) (fun _ => ?_)

theorem roleParam_keeps {s0 s : State} {r : Req} (hk : Keeps s0 s) : KeepsOpt (fun v => v.st) s0 (roleParam s r) := by
  unfold roleParam
  with_reducible repeat' first
    | assumption | refine fails_keeps ?_ | refine failsAt_keeps ?_ | refine KeepsOpt.ite (fun _ => ?_) (fun _ => ?_)
    | exact KeepsOpt.none | refine KeepsOpt.some ?_

theorem abandonRole_keeps {s0 s : State} {st r : Nat} (hk : Keeps s0 s) : Keeps s0 (abandonRole s st r) := by
  unfold abandonRole
  with_reducible repeat' first | assumption | refine abandonTest_keeps ?_

theorem coreRestartCmd_keeps {s0 s : State} {r : Req} (hk : Keeps s0 s) : Keeps s0 (coreRestartCmd s r).st := by
  unfold coreRestartCmd
  with_reducible repeat' first
    | assumption | refine startCore_keeps ?_ | refine fails_keeps ?_ | refine done_keeps ?_
    | refine roleParam_keeps ?_ | refine abandonRole_keeps ?_ | refine Keeps.iteSt (fun _ => ?_) (fun _ => ?_)
    | refine KeepsOpt.getR ‹_› ?_ | split

theorem dbg_keeps {s0 : State} {h : State → Req → Res} {s : State} {r : Req} (hk : Keeps s0 s)
    (hf_h : ∀ z0 z1, Keeps s0 z0 → Keeps s0 (h z0 z1).st) : Keeps s0 (dbg h s r).st := by
  unfold dbg
  with_reducible repeat' first
    | assumption | refine fails_keeps ?_ | refine roleParam_keeps ?_ | refine abandonRole_keeps ?_
    | refine hf_h _ _ ?_ | refine Keeps.iteSt (fun _ => ?_) (fun _ => ?_) | refine KeepsOpt.getR ‹_› ?_ | split

theorem stopThread_keeps {s0 s : State} {i : Tid} (hk : Keeps s0 s) : Keeps s0 (stopThread s i) := by
  unfold stopThread
  dsimp only
  with_reducible repeat' first | assumption | refine State.onThr_keeps ?_ | refine quietKeep_keeps ?_

theorem resumeThread_keeps {s0 s : State} {i : Tid} (hk : Keeps s0 s) : Keeps s0 (resumeThread s i) := by
  unfold resumeThread
  dsimp only
  with_reducible repeat' first | assumption | refine State.onThr_keeps ?_ | refine quietKeep_keeps ?_

theorem dbgMove_keeps {s0 : State} {can : Thread → Bool} {f : State → Tid → State} {s : State} {r : Req}
    (hk : Keeps s0 s) (hf_f : ∀ z0 z1, Keeps s0 z0 → Keeps s0 (f z0 z1)) : Keeps s0 (dbgMove can f s r).st := by
  unfold dbgMove
  with_reducible repeat' first
    | assumption | refine fails_keeps ?_ | refine failsAt_keeps ?_ | refine done_keeps ?_ | refine hf_f _ _ ?_
    | refine Keeps.iteSt (fun _ => ?_) (fun _ => ?_) | refine Keeps.foldl _ ?_ (fun _ _ _ => ?_) | split

theorem stepThread_keeps {s0 s : State} {i : Tid} (hk : Keeps s0 s) : Keeps s0 (stepThread s i) := by
  unfold stepThread
  dsimp only
  with_reducible repeat' first
    | assumption | refine State.onThr_keeps ?_ | refine noteIssue_keeps ?_ | refine stepWord_keeps ?_
    | refine Keeps.ite (fun _ => ?_) (fun _ => ?_)

theorem dbgStopped_keeps {s0 : State} {h : State → Req → Tid → Res} {s : State} {r : Req} (hk : Keeps s0 s)
    (hf_h : ∀ z0 z1 z2, Keeps s0 z0 → Keeps s0 (h z0 z1 z2).st) : Keeps s0 (dbgStopped h s r).st := by
  unfold dbgStopped
  with_reducible repeat' first
    | assumption | refine fails_keeps ?_ | refine failsAt_keeps ?_ | refine hf_h _ _ _ ?_
    | refine Keeps.iteSt (fun _ => ?_) (fun _ => ?_)

theorem dbgStepCmd_keeps {s0 s : State} {r : Req} {i : Tid} (hk : Keeps s0 s) : Keeps s0 (dbgStepCmd s r i).st := by
  unfold dbgStepCmd
  dsimp only
  with_reducible repeat' first
    | assumption | refine fails_keeps ?_ | refine gives_keeps ?_ | refine stepThread_keeps ?_
    | refine Keeps.iteSt (fun _ => ?_) (fun _ => ?_)

theorem killThread_keeps {s0 s : State} {i : Tid} (hk : Keeps s0 s) : Keeps s0 (killThread s i) := by
  unfold killThread
  dsimp only
  with_reducible repeat' first
    | assumption | refine countErr_keeps ?_ | refine raise_keeps ?_ | refine State.onThr_keeps ?_
    | refine quietKeep_keeps ?_ | refine postFault_keeps ?_ | refine unread_keeps ?_ | refine dropStages_keeps ?_
    | refine Keeps.ite (fun _ => ?_) (fun _ => ?_)

theorem dbgKillCmd_keeps {s0 s : State} {r : Req} (hk : Keeps s0 s) : Keeps s0 (dbgKillCmd s r).st := by
  unfold dbgKillCmd
  with_reducible repeat' first
    | assumption | refine fails_keeps ?_ | refine failsAt_keeps ?_ | refine done_keeps ?_
    | refine killThread_keeps ?_ | refine Keeps.iteSt (fun _ => ?_) (fun _ => ?_)

theorem dbgBreakCmd_keeps {s0 s : State} {r : Req} (hk : Keeps s0 s) : Keeps s0 (dbgBreakCmd s r).st := by
  unfold dbgBreakCmd
  dsimp only
  with_reducible repeat' first
    | assumption | refine State.onRole_keeps ?_ | refine reach_keeps ?_ | refine fails_keeps ?_
    | refine failsAt_keeps ?_ | refine done_keeps ?_ | refine Keeps.iteSt (fun _ => ?_) (fun _ => ?_)
    | refine Keeps.foldl _ ?_ (fun _ _ _ => ?_)

theorem dbgReadCmd_keeps {s0 s : State} {r : Req} {i : Tid} (hk : Keeps s0 s) : Keeps s0 (dbgReadCmd s r i).st := by
  unfold dbgReadCmd
  dsimp only
  with_reducible repeat' first
    | assumption | refine fails_keeps ?_ | refine failsAt_keeps ?_ | refine gives_keeps ?_
    | refine Keeps.iteSt (fun _ => ?_) (fun _ => ?_) | split

theorem dbgWriteReg_keeps {s0 s : State} {i : Tid} {n : Nat} {v : Word64} (hk : Keeps s0 s) :
    KeepsOpt (fun v => v) s0 (dbgWriteReg s i n v) := by
  unfold dbgWriteReg
  with_reducible repeat' first
    | assumption | refine State.onThr_keeps ?_ | refine State.setReg_keeps ?_ | refine writeSr_keeps ?_
    | refine KeepsOpt.ite (fun _ => ?_) (fun _ => ?_) | exact KeepsOpt.none | refine KeepsOpt.some ?_

theorem dbgWriteRegs_keeps {s0 : State} {i : Tid} {y0 : State} {y1 y2 : Nat} {y3 : Bytes} (hk : Keeps s0 y0) :
    KeepsOpt (fun v => v) s0 (dbgWriteRegs i y0 y1 y2 y3) := by
  induction y2 generalizing y0 y1 y3 with
  | zero =>
    unfold dbgWriteRegs
    try dsimp only
    with_reducible repeat' first | assumption | refine KeepsOpt.some ?_
  | succ fuel ih =>
    unfold dbgWriteRegs
    try dsimp only
    with_reducible repeat' first
      | refine ih ?_ | assumption | refine dbgWriteReg_keeps ?_ | exact KeepsOpt.none | refine KeepsOpt.get0 ‹_› ?_
      | split

theorem dbgWriteCmd_keeps {s0 s : State} {r : Req} {i : Tid} (hk : Keeps s0 s) : Keeps s0 (dbgWriteCmd s r i).st := by
  unfold dbgWriteCmd
  dsimp only
  with_reducible repeat' first
    | assumption | refine State.poke_keeps ?_ | refine fails_keeps ?_ | refine failsAt_keeps ?_
    | refine done_keeps ?_ | refine dbgWriteRegs_keeps ?_ | refine Keeps.iteSt (fun _ => ?_) (fun _ => ?_)
    | refine KeepsOpt.get0 ‹_› ?_ | split

theorem State.setSlot_keeps {s0 s : State} {n : Nat} {k : KeySlot} (hk : Keeps s0 s) :
    Keeps s0 (State.setSlot s n k) := by
  unfold State.setSlot
  dsimp only
  with_reducible repeat' first | assumption | fail_if_no_progress refine Keeps.upd ?_ rfl rfl

theorem keyDenied_keeps {s0 s : State} (hk : Keeps s0 s) : Keeps s0 (keyDenied s) := by
  unfold keyDenied
  with_reducible repeat' first | assumption | refine countErr_keeps ?_

theorem denies_keeps {s0 s : State} (hk : Keeps s0 s) : Keeps s0 (denies s).st := by
  unfold denies
  with_reducible repeat' first | assumption | refine fails_keeps ?_ | refine keyDenied_keeps ?_

theorem noteUse_keeps {s0 s : State} {n : Nat} (hk : Keeps s0 s) : Keeps s0 (noteUse s n) := by
  unfold noteUse
  dsimp only
  with_reducible repeat' first | assumption | refine State.setSlot_keeps ?_

theorem keyGenerateCmd_keeps {s0 s : State} {r : Req} (hk : Keeps s0 s) : Keeps s0 (keyGenerateCmd s r).st := by
  unfold keyGenerateCmd
  dsimp only
  with_reducible repeat' first
    | assumption | refine State.drawBytes_keeps ?_ | refine fails_keeps ?_ | refine failsAt_keeps ?_
    | refine done_keeps ?_ | refine State.setSlot_keeps ?_ | refine Keeps.iteSt (fun _ => ?_) (fun _ => ?_)

theorem importPublic_keeps {s0 s : State} {n : Nat} {w : Bytes} (hk : Keeps s0 s) :
    Keeps s0 (importPublic s n w).st := by
  unfold importPublic
  dsimp only
  with_reducible repeat' first
    | assumption | refine fails_keeps ?_ | refine failsAt_keeps ?_ | refine done_keeps ?_
    | refine State.setSlot_keeps ?_ | refine Keeps.iteSt (fun _ => ?_) (fun _ => ?_)

theorem keyImportCmd_keeps {s0 s : State} {r : Req} (hk : Keeps s0 s) : Keeps s0 (keyImportCmd s r).st := by
  unfold keyImportCmd
  dsimp only
  with_reducible repeat' first
    | assumption | refine fails_keeps ?_ | refine failsAt_keeps ?_ | refine done_keeps ?_
    | refine State.setSlot_keeps ?_ | refine denies_keeps ?_ | refine noteUse_keeps ?_ | refine importPublic_keeps ?_
    | refine Keeps.iteSt (fun _ => ?_) (fun _ => ?_) | split

theorem keyExportCmd_keeps {s0 s : State} {r : Req} (hk : Keeps s0 s) : Keeps s0 (keyExportCmd s r).st := by
  unfold keyExportCmd
  dsimp only
  with_reducible repeat' first
    | assumption | refine State.drawBytes_keeps ?_ | refine fails_keeps ?_ | refine failsAt_keeps ?_
    | refine gives_keeps ?_ | refine denies_keeps ?_ | refine noteUse_keeps ?_
    | refine Keeps.iteSt (fun _ => ?_) (fun _ => ?_)

theorem keyDestroyCmd_keeps {s0 s : State} {r : Req} (hk : Keeps s0 s) : Keeps s0 (keyDestroyCmd s r).st := by
  unfold keyDestroyCmd
  dsimp only
  with_reducible repeat' first
    | assumption | refine fails_keeps ?_ | refine failsAt_keeps ?_ | refine done_keeps ?_
    | refine Keeps.iteSt (fun _ => ?_) (fun _ => ?_) | fail_if_no_progress refine Keeps.upd ?_ rfl rfl

theorem keyQueryCmd_keeps {s0 s : State} {r : Req} (hk : Keeps s0 s) : Keeps s0 (keyQueryCmd s r).st := by
  unfold keyQueryCmd
  dsimp only
  with_reducible repeat' first
    | assumption | refine fails_keeps ?_ | refine failsAt_keeps ?_ | refine gives_keeps ?_
    | refine Keeps.iteSt (fun _ => ?_) (fun _ => ?_) | split

theorem extendMr_keeps {s0 s : State} {i : Nat} {d : Bytes} (hk : Keeps s0 s) : Keeps s0 (extendMr s i d) := by
  unfold extendMr
  dsimp only
  with_reducible repeat' first
    | assumption | refine Keeps.ite (fun _ => ?_) (fun _ => ?_) | fail_if_no_progress refine Keeps.upd ?_ rfl rfl

theorem attExtendCmd_keeps {s0 s : State} {r : Req} (hk : Keeps s0 s) : Keeps s0 (attExtendCmd s r).st := by
  unfold attExtendCmd
  with_reducible repeat' first
    | assumption | refine fails_keeps ?_ | refine failsAt_keeps ?_ | refine done_keeps ?_ | refine extendMr_keeps ?_
    | refine Keeps.iteSt (fun _ => ?_) (fun _ => ?_)

theorem attCertCmd_keeps {s0 s : State} {r : Req} (hk : Keeps s0 s) : Keeps s0 (attCertCmd s r).st := by
  unfold attCertCmd
  with_reducible repeat' first
    | assumption | refine fails_keeps ?_ | refine gives_keeps ?_ | refine Keeps.iteSt (fun _ => ?_) (fun _ => ?_)

theorem attLogCmd_keeps {s0 s : State} {r : Req} (hk : Keeps s0 s) : Keeps s0 (attLogCmd s r).st := by
  unfold attLogCmd
  with_reducible repeat' first
    | assumption | refine fails_keeps ?_ | refine gives_keeps ?_ | refine Keeps.iteSt (fun _ => ?_) (fun _ => ?_)

theorem attQuoteCmd_keeps {s0 s : State} {r : Req} (hk : Keeps s0 s) : Keeps s0 (attQuoteCmd s r).st := by
  unfold attQuoteCmd
  dsimp only
  with_reducible repeat' first
    | assumption | refine fails_keeps ?_ | refine failsAt_keeps ?_ | refine gives_keeps ?_ | refine noteUse_keeps ?_
    | refine Keeps.iteSt (fun _ => ?_) (fun _ => ?_)

theorem jobStep_keeps {s0 s : State} {tf op : Nat} (hk : Keeps s0 s) : Keeps s0 (jobStep s tf op) := by
  unfold jobStep
  try dsimp only
  with_reducible repeat' first
    | assumption | refine countErr_keeps ?_ | refine countStat_keeps ?_ | refine State.poke_keeps ?_
    | refine keyDenied_keeps ?_ | refine noteUse_keeps ?_ | refine Keeps.ite (fun _ => ?_) (fun _ => ?_)
    | fail_if_no_progress refine Keeps.upd ?_ rfl rfl | split

theorem descWritten_keeps {s0 s : State} {idx : Nat} (hk : Keeps s0 s) :
    Keeps s0 (descWritten s idx) := by
  unfold descWritten
  try dsimp only
  with_reducible repeat' first
    | assumption | fail_if_no_progress refine Keeps.upd ?_ rfl rfl | split

theorem regCreateCmd_keeps {s0 s : State} {r : Req} (hk : Keeps s0 s) : Keeps s0 (regCreateCmd s r).st := by
  unfold regCreateCmd
  try dsimp only
  with_reducible repeat' first
    | assumption | refine fails_keeps ?_ | refine failsAt_keeps ?_ | refine gives_keeps ?_
    | refine descWritten_keeps ?_ | refine Keeps.ite (fun _ => ?_) (fun _ => ?_)
    | refine Keeps.iteSt (fun _ => ?_) (fun _ => ?_) | fail_if_no_progress refine Keeps.upd ?_ rfl rfl | split

theorem regRevokeCmd_keeps {s0 s : State} {r : Req} (hk : Keeps s0 s) : Keeps s0 (regRevokeCmd s r).st := by
  unfold regRevokeCmd
  with_reducible repeat' first
    | assumption | refine fails_keeps ?_ | refine failsAt_keeps ?_ | refine done_keeps ?_
    | refine revokeRegion_keeps ?_ | refine Keeps.iteSt (fun _ => ?_) (fun _ => ?_) | split

theorem regQueryCmd_keeps {s0 s : State} {r : Req} (hk : Keeps s0 s) : Keeps s0 (regQueryCmd s r).st := by
  unfold regQueryCmd
  with_reducible repeat' first
    | assumption | refine fails_keeps ?_ | refine failsAt_keeps ?_ | refine gives_keeps ?_
    | refine Keeps.iteSt (fun _ => ?_) (fun _ => ?_)

theorem bookWriteCmd_keeps {s0 s : State} {r : Req} (hk : Keeps s0 s) : Keeps s0 (bookWriteCmd s r).st := by
  unfold bookWriteCmd
  dsimp only
  with_reducible repeat' first
    | assumption | refine fails_keeps ?_ | refine failsAt_keeps ?_ | refine done_keeps ?_
    | refine Keeps.iteSt (fun _ => ?_) (fun _ => ?_) | fail_if_no_progress refine Keeps.upd ?_ rfl rfl | split

theorem bookReadCmd_keeps {s0 s : State} {r : Req} (hk : Keeps s0 s) : Keeps s0 (bookReadCmd s r).st := by
  unfold bookReadCmd
  with_reducible repeat' first
    | assumption | refine fails_keeps ?_ | refine failsAt_keeps ?_ | refine gives_keeps ?_
    | refine Keeps.iteSt (fun _ => ?_) (fun _ => ?_)

theorem makeEndpoint_keeps {s0 s : State} {eid : Nat} {e : Endpoint} (hk : Keeps s0 s) :
    KeepsOpt (fun v => v.1) s0 (makeEndpoint s eid e) := by
  unfold makeEndpoint
  dsimp only
  with_reducible repeat' first
    | assumption | exact KeepsOpt.none | refine KeepsOpt.some ?_ | fail_if_no_progress refine Keeps.upd ?_ rfl rfl
    | split

theorem epCreateCmd_keeps {s0 s : State} {r : Req} (hk : Keeps s0 s) : Keeps s0 (epCreateCmd s r).st := by
  unfold epCreateCmd
  dsimp only
  with_reducible repeat' first
    | assumption | refine fails_keeps ?_ | refine failsAt_keeps ?_ | refine gives_keeps ?_
    | refine makeEndpoint_keeps ?_ | refine Keeps.iteSt (fun _ => ?_) (fun _ => ?_) | refine KeepsOpt.get1 ‹_› ?_
    | split

theorem epDestroyCmd_keeps {s0 s : State} {r : Req} (hk : Keeps s0 s) : Keeps s0 (epDestroyCmd s r).st := by
  unfold epDestroyCmd
  dsimp only
  with_reducible repeat' first
    | assumption | refine fails_keeps ?_ | refine failsAt_keeps ?_ | refine done_keeps ?_ | refine qStart_keeps ?_
    | refine Keeps.iteSt (fun _ => ?_) (fun _ => ?_) | split

theorem sqCreateCmd_keeps {s0 s : State} {r : Req} (hk : Keeps s0 s) : Keeps s0 (sqCreateCmd s r).st := by
  unfold sqCreateCmd
  dsimp only
  with_reducible repeat' first
    | assumption | refine fails_keeps ?_ | refine failsAt_keeps ?_ | refine gives_keeps ?_
    | refine makeEndpoint_keeps ?_ | refine Keeps.iteSt (fun _ => ?_) (fun _ => ?_)
    | fail_if_no_progress refine Keeps.upd ?_ rfl rfl | refine KeepsOpt.get1 ‹_› ?_ | split

theorem sqResizeCmd_keeps {s0 s : State} {r : Req} (hk : Keeps s0 s) : Keeps s0 (sqResizeCmd s r).st := by
  unfold sqResizeCmd
  dsimp only
  with_reducible repeat' first
    | assumption | refine State.onSq_keeps ?_ | refine fails_keeps ?_ | refine failsAt_keeps ?_
    | refine done_keeps ?_ | refine Keeps.iteSt (fun _ => ?_) (fun _ => ?_)
    | fail_if_no_progress refine Keeps.upd ?_ rfl rfl | split

theorem sqDisabledCmd_keeps {s0 : State} {ok : State → StoQueue → Bool} {f : State → Nat → StoQueue → State} {s : State} {r : Req}
    (hk : Keeps s0 s) (hf_f : ∀ z0 z1 z2, Keeps s0 z0 → Keeps s0 (f z0 z1 z2)) : Keeps s0 (sqDisabledCmd ok f s r).st := by
  unfold sqDisabledCmd
  with_reducible repeat' first
    | assumption | refine fails_keeps ?_ | refine failsAt_keeps ?_ | refine done_keeps ?_ | refine hf_f _ _ _ ?_
    | refine Keeps.iteSt (fun _ => ?_) (fun _ => ?_) | split

theorem enableSq_keeps {s0 s : State} {k : Nat} {w2 : StoQueue} (hk : Keeps s0 s) : Keeps s0 (enableSq s k w2) := by
  unfold enableSq
  with_reducible repeat' first | assumption | refine State.qDel_keeps ?_ | refine State.onSq_keeps ?_

theorem destroySq_keeps {s0 s : State} {k : Nat} {q : StoQueue} (hk : Keeps s0 s) : Keeps s0 (destroySq s k q) := by
  unfold destroySq
  dsimp only
  with_reducible repeat' first
    | assumption | refine State.qDel_keeps ?_ | refine freeEndpoint_keeps ?_
    | fail_if_no_progress refine Keeps.upd ?_ rfl rfl

theorem tfQueryCmd_keeps {s0 s : State} {r : Req} (hk : Keeps s0 s) : Keeps s0 (tfQueryCmd s r).st := by
  unfold tfQueryCmd
  dsimp only
  with_reducible repeat' first
    | assumption | refine fails_keeps ?_ | refine failsAt_keeps ?_ | refine gives_keeps ?_
    | refine Keeps.iteSt (fun _ => ?_) (fun _ => ?_)

theorem statsCmd_keeps {s0 : State} {w : Nat} {obj : State → List Nat → Option Nat}
    {item : State → List Nat → List Nat} {s : State} {r : Req} (hk : Keeps s0 s) :
    Keeps s0 (statsCmd w obj item s r).st := by
  unfold statsCmd
  dsimp only
  with_reducible repeat' first
    | assumption | refine clearRange_keeps ?_ | refine fails_keeps ?_ | refine failsAt_keeps ?_
    | refine gives_keeps ?_ | refine Keeps.ite (fun _ => ?_) (fun _ => ?_)
    | refine Keeps.iteSt (fun _ => ?_) (fun _ => ?_) | refine Keeps.foldl _ ?_ (fun _ _ _ => ?_) | split

theorem police_keeps {s0 s : State} {n cls len : Nat} (hk : Keeps s0 s) : Keeps s0 (police s n cls len).1 := by
  unfold police
  dsimp only
  with_reducible repeat' first
    | assumption | refine countStat_keeps ?_ | refine Keeps.ite (fun _ => ?_) (fun _ => ?_)
    | refine Keeps.iteFst (fun _ => ?_) (fun _ => ?_) | fail_if_no_progress refine Keeps.upd ?_ rfl rfl

theorem lookup_keeps {s0 s : State} {t : Nat} {key : Bytes} (hk : Keeps s0 s) : Keeps s0 (lookup s t key).1 := by
  unfold lookup
  dsimp only
  with_reducible repeat' first | assumption | refine countStat_keeps ?_ | split

theorem lookupA_keeps {s0 s : State} {prof key : Bytes} (hk : Keeps s0 s) : Keeps s0 (lookupA s prof key).1 := by
  unfold lookupA
  dsimp only
  with_reducible repeat' first
    | assumption | refine refreshRequest_keeps ?_ | refine lookup_keeps ?_
    | refine Keeps.ite (fun _ => ?_) (fun _ => ?_) | refine Keeps.iteFst (fun _ => ?_) (fun _ => ?_) | split

theorem lookupB_keeps {s0 s : State} {prof key : Bytes} {f : Frame} {port : Option Nat} {tf : Nat} (hk : Keeps s0 s) :
    Keeps s0 (lookupB s prof key f port tf).1 := by
  unfold lookupB
  dsimp only
  with_reducible repeat' first
    | assumption | refine learnRequest_keeps ?_ | refine refreshRequest_keeps ?_ | refine lookup_keeps ?_
    | refine Keeps.iteFst (fun _ => ?_) (fun _ => ?_) | split

theorem toEht_keeps {s0 s : State} {f : Frame} {r : ParseRes} {eht : Nat} {spoofOk : Bool} (hk : Keeps s0 s) :
    Keeps s0 (toEht s f r eht spoofOk) := by
  unfold toEht
  dsimp only
  with_reducible repeat' first | assumption | fail_if_no_progress refine Keeps.upd ?_ rfl rfl

theorem clerkTakes_keeps {s0 s : State} {f : Frame} (hk : Keeps s0 s) : Keeps s0 (clerkTakes s f) := by
  unfold clerkTakes
  try dsimp only
  with_reducible repeat' first
    | assumption | refine emit_keeps ?_ | refine Keeps.ite (fun _ => ?_) (fun _ => ?_)
    | fail_if_no_progress refine Keeps.upd ?_ rfl rfl | split

theorem recirculate_keeps {s0 s : State} {pipe : Nat} {pf : PFrame} {f : Frame} (hk : Keeps s0 s) :
    Keeps s0 (recirculate s pipe pf f) := by
  unfold recirculate
  try dsimp only
  with_reducible repeat' first
    | assumption | refine countEntry_keeps ?_ | fail_if_no_progress refine Keeps.upd ?_ rfl rfl | split

theorem deliverFrame_keeps {s0 s : State} {pipe : Nat} {pf : PFrame} {r : ParseRes} {dest channel : Nat} {f : Frame}
    {spoofOk : Bool} (hk : Keeps s0 s) : Keeps s0 (deliverFrame s pipe pf r dest channel f spoofOk) := by
  unfold deliverFrame
  dsimp only
  with_reducible repeat' first
    | assumption | refine enqueue_keeps ?_ | refine deliverBuf_keeps ?_ | refine toEht_keeps ?_
    | refine clerkTakes_keeps ?_ | refine recirculate_keeps ?_ | refine Keeps.ite (fun _ => ?_) (fun _ => ?_) | split

theorem spoofStage_keeps {s0 s : State} {pf : PFrame} {tf : Nat} {f : Frame} {eht : Option (Nat × Nat)}
    (hk : Keeps s0 s) : Keeps s0 (spoofStage s pf tf f eht).1 := by
  unfold spoofStage
  dsimp only
  with_reducible repeat' first
    | assumption | refine countErr_keeps ?_ | refine countStat_keeps ?_
    | refine Keeps.iteFst (fun _ => ?_) (fun _ => ?_)

theorem countBad_keeps {s0 s : State} {cls : Nat} {f : Frame} (hk : Keeps s0 s) :
    Keeps s0 (countBad s cls f) := by
  unfold countBad
  with_reducible repeat' first
    | assumption | refine countErr_keeps ?_ | refine Keeps.ite (fun _ => ?_) (fun _ => ?_)
    | fail_if_no_progress refine Keeps.upd ?_ rfl rfl | split

theorem badGoesOn_keeps {s0 s : State} {pf : PFrame} {dest cls : Nat} (hk : Keeps s0 s) :
    Keeps s0 (badGoesOn s pf dest cls).1 := by
  unfold badGoesOn
  try dsimp only
  with_reducible repeat' first
    | assumption | refine State.draw_keeps ?_ | refine countBad_keeps ?_
    | refine Keeps.ite (fun _ => ?_) (fun _ => ?_) | refine Keeps.iteFst (fun _ => ?_) (fun _ => ?_)
    | refine Keeps.iteSnd (fun _ => ?_) (fun _ => ?_) | split

theorem classifyOn_keeps {s0 s : State} {pipe : Nat} {pf : PFrame} {r : ParseRes} {prof : Bytes} {res : Option Nat} {tf cls causes : Nat} (hk : Keeps s0 s) :
    Keeps s0 (classifyOn s pipe pf r prof res tf cls causes) := by
  unfold classifyOn
  try dsimp only
  with_reducible repeat' first
    | assumption | refine countErr_keeps ?_ | refine deliverFrame_keeps ?_ | refine spoofStage_keeps ?_
    | refine Keeps.ite (fun _ => ?_) (fun _ => ?_) | fail_if_no_progress refine Keeps.upd ?_ rfl rfl | split

theorem classify_keeps {s0 s : State} {pipe : Nat} {pf : PFrame} {r : ParseRes} (hk : Keeps s0 s) :
    Keeps s0 (classify s pipe pf r) := by
  unfold classify
  try dsimp only
  with_reducible repeat' first
    | assumption | refine countErr_keeps ?_ | refine police_keeps ?_ | refine lookupA_keeps ?_
    | refine lookupB_keeps ?_ | refine countBad_keeps ?_ | refine badGoesOn_keeps ?_ | refine classifyOn_keeps ?_
    | refine Keeps.ite (fun _ => ?_) (fun _ => ?_) | fail_if_no_progress refine Keeps.upd ?_ rfl rfl | split

theorem State.onRob_keeps {s0 s : State} {b : Nat} {f : Rob → Rob} (hk : Keeps s0 s) :
    Keeps s0 (State.onRob s b f) := by
  unfold State.onRob
  dsimp only
  with_reducible repeat' first | assumption | fail_if_no_progress refine Keeps.upd ?_ rfl rfl

theorem setSlots_keeps {s0 s : State} {n : Nat} {l : List SlotFrame} (hk : Keeps s0 s) :
    Keeps s0 (setSlots s n l) := by
  unfold setSlots
  dsimp only
  with_reducible repeat' first | assumption | fail_if_no_progress refine Keeps.upd ?_ rfl rfl

theorem takeFrame_keeps {s0 s : State} {pipe n : Nat} (hk : Keeps s0 s) :
    KeepsOpt (fun v => v.2) s0 (takeFrame s pipe n) := by
  unfold takeFrame
  dsimp only
  with_reducible repeat' first
    | assumption | refine KeepsOpt.ite (fun _ => ?_) (fun _ => ?_) | exact KeepsOpt.none | refine KeepsOpt.some ?_
    | fail_if_no_progress refine Keeps.upd ?_ rfl rfl | split

theorem giveSlot_keeps {s0 s : State} {pipe n b tag avail : Nat} {pf : PFrame} (hk : Keeps s0 s) :
    Keeps s0 (giveSlot s pipe n b tag avail pf) := by
  unfold giveSlot
  try dsimp only
  with_reducible repeat' first
    | assumption | refine setSlots_keeps ?_ | fail_if_no_progress refine Keeps.upd ?_ rfl rfl | split

theorem dispatchTo_keeps {s0 s : State} {pipe n avail : Nat} {pf : PFrame} (hk : Keeps s0 s) :
    Keeps s0 (dispatchTo s pipe n avail pf) := by
  unfold dispatchTo
  try dsimp only
  with_reducible repeat' first
    | assumption | refine countStat_keeps ?_ | refine freeBuf_keeps ?_ | refine State.onRob_keeps ?_
    | refine giveSlot_keeps ?_ | refine Keeps.ite (fun _ => ?_) (fun _ => ?_)
    | fail_if_no_progress refine Keeps.upd ?_ rfl rfl | split

theorem dispatch_keeps {s0 s : State} {pipe avail : Nat} (hk : Keeps s0 s) : Keeps s0 (dispatch s pipe avail) := by
  unfold dispatch
  with_reducible repeat' first
    | assumption | refine KeepsOpt.get2 ‹_› ?_ | refine KeepsOpt.get2p ‹_› ?_ | refine takeFrame_keeps ?_
    | refine dispatchTo_keeps ?_ | refine Keeps.ite (fun _ => ?_) (fun _ => ?_)
    | fail_if_no_progress refine Keeps.upd ?_ rfl rfl | split

theorem stallResume_keeps {s0 s : State} {n avail clocks : Nat} (hk : Keeps s0 s) :
    Keeps s0 (stallResume s n avail clocks) := by
  unfold stallResume
  with_reducible repeat' first | assumption | refine setSlots_keeps ?_ | split

theorem countException_keeps {s0 s : State} {code : Nat} (hk : Keeps s0 s) : Keeps s0 (countException s code) := by
  unfold countException
  with_reducible repeat' first | assumption | refine countErr_keeps ?_ | refine Keeps.ite (fun _ => ?_) (fun _ => ?_)

theorem writeResult_keeps {s0 s : State} {n : Nat} {x : SlotFrame} {r : ParseRes} {addr : Nat} (hk : Keeps s0 s) :
    Keeps s0 (writeResult s n x r addr) := by
  unfold writeResult
  dsimp only
  with_reducible repeat' first
    | assumption | refine raise_keeps ?_ | refine fencedDiscard_keeps ?_ | refine State.onRob_keeps ?_
    | refine setSlots_keeps ?_ | refine countException_keeps ?_ | refine Keeps.ite (fun _ => ?_) (fun _ => ?_)

theorem wordBad_keeps {s0 s : State} {n : Nat} {bad : Option Nat} (hk : Keeps s0 s) : Keeps s0 (wordBad s n bad) := by
  unfold wordBad
  dsimp only
  with_reducible repeat' first | assumption | fail_if_no_progress refine Keeps.upd ?_ rfl rfl | split

theorem parseEnd_keeps {s0 s : State} {n corrected : Nat} {bad : Option Nat} (hk : Keeps s0 s) :
    Keeps s0 (parseEnd s n corrected bad) := by
  unfold parseEnd
  with_reducible repeat' first
    | assumption | refine countErrs_keeps ?_ | refine writeResult_keeps ?_ | refine wordBad_keeps ?_
    | refine Keeps.ite (fun _ => ?_) (fun _ => ?_) | split

theorem parseCapped_keeps {s0 s : State} {n corrected : Nat} (hk : Keeps s0 s) :
    Keeps s0 (parseCapped s n corrected) := by
  unfold parseCapped
  with_reducible repeat' first
    | assumption | refine countErrs_keeps ?_ | refine writeResult_keeps ?_
    | fail_if_no_progress refine Keeps.upd ?_ rfl rfl | split

theorem robRelease_keeps {s0 s : State} {b : Nat} (hk : Keeps s0 s) : Keeps s0 (robRelease s b) := by
  unfold robRelease
  try dsimp only
  with_reducible repeat' first
    | assumption | refine countErr_keeps ?_ | refine State.onLp_keeps ?_ | refine verInflight_keeps ?_
    | refine classify_keeps ?_ | refine State.onRob_keeps ?_ | refine Keeps.ite (fun _ => ?_) (fun _ => ?_)
    | fail_if_no_progress refine Keeps.upd ?_ rfl rfl | split

theorem redispatch_keeps {s0 s : State} {b : Nat} {e : RobEntry} (hk : Keeps s0 s) : Keeps s0 (redispatch s b e) := by
  unfold redispatch
  try dsimp only
  with_reducible repeat' first
    | assumption | refine State.onRob_keeps ?_ | refine giveSlot_keeps ?_
    | refine Keeps.ite (fun _ => ?_) (fun _ => ?_) | fail_if_no_progress refine Keeps.upd ?_ rfl rfl | split

theorem fenceEnd_keeps {s0 s : State} {b : Nat} {e : RobEntry} (hk : Keeps s0 s) : Keeps s0 (fenceEnd s b e) := by
  unfold fenceEnd
  dsimp only
  with_reducible repeat' first
    | assumption | refine countErr_keeps ?_ | refine State.onRob_keeps ?_ | refine countException_keeps ?_
    | refine Keeps.ite (fun _ => ?_) (fun _ => ?_) | fail_if_no_progress refine Keeps.upd ?_ rfl rfl

theorem retryEntry_keeps {s0 s : State} {b : Nat} {e : RobEntry} (hk : Keeps s0 s) : Keeps s0 (retryEntry s b e) := by
  unfold retryEntry
  with_reducible repeat' first
    | assumption | refine redispatch_keeps ?_ | refine fenceEnd_keeps ?_
    | refine Keeps.ite (fun _ => ?_) (fun _ => ?_)

theorem robTimeout_keeps {s0 s : State} {b : Nat} (hk : Keeps s0 s) : Keeps s0 (robTimeout s b) := by
  unfold robTimeout
  with_reducible repeat' first
    | assumption | refine retryEntry_keeps ?_ | refine Keeps.ite (fun _ => ?_) (fun _ => ?_) | split

theorem freeVersion_keeps {s0 s : State} {v : Nat} (hk : Keeps s0 s) : Keeps s0 (freeVersion s v) := by
  unfold freeVersion
  dsimp only
  with_reducible repeat' first
    | assumption | refine Keeps.ite (fun _ => ?_) (fun _ => ?_) | fail_if_no_progress refine Keeps.upd ?_ rfl rfl

theorem csRewrite_keeps {s0 s : State} {seq addr : Nat} (hk : Keeps s0 s) : Keeps s0 (csRewrite s seq addr) := by
  unfold csRewrite
  dsimp only
  with_reducible repeat' first
    | assumption | refine Keeps.ite (fun _ => ?_) (fun _ => ?_) | fail_if_no_progress refine Keeps.upd ?_ rfl rfl

theorem tokenRefill_keeps {s0 s : State} {y0 : BucketId} (hk : Keeps s0 s) : Keeps s0 (tokenRefill s y0) := by
  unfold tokenRefill
  dsimp only
  with_reducible repeat' first
    | assumption | refine State.onLp_keeps ?_ | refine State.onTq_keeps ?_ | refine State.onTg_keeps ?_
    | fail_if_no_progress refine Keeps.upd ?_ rfl rfl | split

theorem refreshRow_keeps {s0 s : State} {t : Nat} (hk : Keeps s0 s) : Keeps s0 (refreshRow s t) := by
  unfold refreshRow
  with_reducible repeat' first | assumption | refine takeRefresh_keeps ?_ | refine Keeps.ite (fun _ => ?_) (fun _ => ?_)

theorem agerRow_keeps {s0 s : State} {t : Nat} (hk : Keeps s0 s) : Keeps s0 (agerRow s t) := by
  unfold agerRow
  with_reducible repeat' first | assumption | refine takeAger_keeps ?_ | refine Keeps.ite (fun _ => ?_) (fun _ => ?_)

theorem dumpRow_keeps {s0 s : State} {t : Nat} (hk : Keeps s0 s) : Keeps s0 (dumpRow s t) := by
  unfold dumpRow
  with_reducible repeat' first | assumption | refine dumpStep_keeps ?_ | refine Keeps.ite (fun _ => ?_) (fun _ => ?_)

theorem ageRow_keeps {s0 s : State} {t : Nat} (hk : Keeps s0 s) : Keeps s0 (ageRow s t) := by
  unfold ageRow
  with_reducible repeat' first | assumption | refine ageTick_keeps ?_ | refine Keeps.ite (fun _ => ?_) (fun _ => ?_)

theorem notifyDeliver_keeps {s0 s : State} {t : Nat} (hk : Keeps s0 s) : Keeps s0 (notifyDeliver s t) := by
  unfold notifyDeliver
  try dsimp only
  with_reducible repeat' first
    | assumption | refine raise_keeps ?_ | refine State.onTbl_keeps ?_ | refine KeepsOpt.get0 ‹_› ?_
    | refine deliver_keeps ?_ | refine chanDrop_keeps ?_ | refine Keeps.ite (fun _ => ?_) (fun _ => ?_)
    | fail_if_no_progress refine Keeps.upd ?_ rfl rfl | split

theorem flushDone_keeps {s0 s : State} {t : Nat} (hk : Keeps s0 s) : Keeps s0 (flushDone s t) := by
  unfold flushDone
  with_reducible repeat' first
    | assumption | refine raise_keeps ?_ | refine State.onTbl_keeps ?_ | refine flushEntries_keeps ?_ | split

theorem bucketClear_keeps {s0 s : State} {t : Nat} (hk : Keeps s0 s) : Keeps s0 (bucketClear s t) := by
  unfold bucketClear
  with_reducible repeat' first | assumption | refine State.onTbl_keeps ?_ | refine Keeps.ite (fun _ => ?_) (fun _ => ?_)

theorem tableRecompute_keeps {s0 s : State} {t : Nat} (hk : Keeps s0 s) : Keeps s0 (tableRecompute s t) := by
  unfold tableRecompute
  with_reducible repeat' first | assumption | refine State.onTbl_keeps ?_ | refine Keeps.ite (fun _ => ?_) (fun _ => ?_)

theorem insertOp_keeps {s0 s : State} {t : Nat} {b : Bytes} {o : Nat} (hk : Keeps s0 s) :
    Keeps s0 (insertOp s t b o).1 := by
  unfold insertOp
  dsimp only
  with_reducible repeat' first
    | assumption | refine insert_keeps ?_ | refine Keeps.iteFst (fun _ => ?_) (fun _ => ?_) | split

theorem deleteOp_keeps {s0 s : State} {t : Nat} {b : Bytes} {o : Nat} (hk : Keeps s0 s) :
    Keeps s0 (deleteOp s t b o).1 := by
  unfold deleteOp
  with_reducible repeat' first
    | assumption | refine delEntry_keeps ?_ | refine Keeps.iteFst (fun _ => ?_) (fun _ => ?_) | split

theorem tblInsertCmd_keeps {s0 s : State} {r : Req} (hk : Keeps s0 s) : Keeps s0 (tblInsertCmd s r).st := by
  unfold tblInsertCmd
  dsimp only
  with_reducible repeat' first
    | assumption | refine fails_keeps ?_ | refine failsAt_keeps ?_ | refine gives_keeps ?_ | refine insertOp_keeps ?_
    | refine Keeps.iteSt (fun _ => ?_) (fun _ => ?_)

theorem tblDeleteCmd_keeps {s0 s : State} {r : Req} (hk : Keeps s0 s) : Keeps s0 (tblDeleteCmd s r).st := by
  unfold tblDeleteCmd
  dsimp only
  with_reducible repeat' first
    | assumption | refine fails_keeps ?_ | refine failsAt_keeps ?_ | refine gives_keeps ?_ | refine deleteOp_keeps ?_
    | refine Keeps.iteSt (fun _ => ?_) (fun _ => ?_)

theorem tblReadCmd_keeps {s0 s : State} {r : Req} (hk : Keeps s0 s) : Keeps s0 (tblReadCmd s r).st := by
  unfold tblReadCmd
  dsimp only
  with_reducible repeat' first
    | assumption | refine fails_keeps ?_ | refine failsAt_keeps ?_ | refine gives_keeps ?_
    | refine Keeps.iteSt (fun _ => ?_) (fun _ => ?_) | split

theorem batchLoop_keeps {s0 : State} {t : Nat} {b : Bytes} {y0 y1 : Nat} {y2 : State} {y3 : Bytes}
    (hk : Keeps s0 y2) : Keeps s0 (batchLoop t b y0 y1 y2 y3).1 := by
  induction y0 generalizing y1 y2 y3 with
  | zero =>
    unfold batchLoop
    try dsimp only
    with_reducible repeat' first | assumption
  | succ fuel ih =>
    unfold batchLoop
    try dsimp only
    with_reducible repeat' first
      | refine ih ?_ | assumption | refine insertOp_keeps ?_ | refine deleteOp_keeps ?_
      | refine Keeps.iteFst (fun _ => ?_) (fun _ => ?_)

theorem tblBatchCmd_keeps {s0 s : State} {r : Req} (hk : Keeps s0 s) : Keeps s0 (tblBatchCmd s r).st := by
  unfold tblBatchCmd
  dsimp only
  with_reducible repeat' first
    | assumption | refine fails_keeps ?_ | refine failsAt_keeps ?_ | refine gives_keeps ?_
    | refine batchLoop_keeps ?_ | refine Keeps.iteSt (fun _ => ?_) (fun _ => ?_)

theorem tblFlushCmd_keeps {s0 s : State} {r : Req} (hk : Keeps s0 s) : Keeps s0 (tblFlushCmd s r).st := by
  unfold tblFlushCmd
  with_reducible repeat' first
    | assumption | refine State.onTbl_keeps ?_ | refine fails_keeps ?_ | refine failsAt_keeps ?_
    | refine done_keeps ?_ | refine Keeps.iteSt (fun _ => ?_) (fun _ => ?_)

theorem tblDumpCmd_keeps {s0 s : State} {r : Req} (hk : Keeps s0 s) : Keeps s0 (tblDumpCmd s r).st := by
  unfold tblDumpCmd
  with_reducible repeat' first
    | assumption | refine State.onTbl_keeps ?_ | refine fails_keeps ?_ | refine failsAt_keeps ?_
    | refine done_keeps ?_ | refine Keeps.iteSt (fun _ => ?_) (fun _ => ?_)

theorem saInstall_keeps {s0 s : State} {lp dir sci an : Nat} {sa : Sa} (hk : Keeps s0 s) :
    Keeps s0 (saInstall s lp dir sci an sa) := by
  unfold saInstall
  dsimp only
  with_reducible repeat' first | assumption | refine State.onLp_keeps ?_

theorem msInstallCmd_keeps {s0 s : State} {r : Req} (hk : Keeps s0 s) : Keeps s0 (msInstallCmd s r).st := by
  unfold msInstallCmd
  dsimp only
  with_reducible repeat' first
    | assumption | refine fails_keeps ?_ | refine failsAt_keeps ?_ | refine done_keeps ?_ | refine denies_keeps ?_
    | refine saInstall_keeps ?_ | refine Keeps.iteSt (fun _ => ?_) (fun _ => ?_)

theorem msActivateCmd_keeps {s0 s : State} {r : Req} (hk : Keeps s0 s) : Keeps s0 (msActivateCmd s r).st := by
  unfold msActivateCmd
  with_reducible repeat' first
    | assumption | refine State.onPp_keeps ?_ | refine fails_keeps ?_ | refine failsAt_keeps ?_
    | refine done_keeps ?_ | refine Keeps.iteSt (fun _ => ?_) (fun _ => ?_) | split

theorem msDeleteCmd_keeps {s0 s : State} {r : Req} (hk : Keeps s0 s) : Keeps s0 (msDeleteCmd s r).st := by
  unfold msDeleteCmd
  dsimp only
  with_reducible repeat' first
    | assumption | refine State.onLp_keeps ?_ | refine fails_keeps ?_ | refine failsAt_keeps ?_
    | refine done_keeps ?_ | refine Keeps.iteSt (fun _ => ?_) (fun _ => ?_)

theorem msStatusCmd_keeps {s0 s : State} {r : Req} (hk : Keeps s0 s) : Keeps s0 (msStatusCmd s r).st := by
  unfold msStatusCmd
  with_reducible repeat' first
    | assumption | refine fails_keeps ?_ | refine failsAt_keeps ?_ | refine gives_keeps ?_
    | refine Keeps.iteSt (fun _ => ?_) (fun _ => ?_)

theorem tsReadCmd_keeps {s0 s : State} {r : Req} (hk : Keeps s0 s) : Keeps s0 (tsReadCmd s r).st := by
  unfold tsReadCmd
  dsimp only
  with_reducible repeat' first
    | assumption | refine State.onLp_keeps ?_ | refine fails_keeps ?_ | refine failsAt_keeps ?_
    | refine gives_keeps ?_ | refine Keeps.iteSt (fun _ => ?_) (fun _ => ?_)

theorem ppsReadCmd_keeps {s0 s : State} {r : Req} (hk : Keeps s0 s) : Keeps s0 (ppsReadCmd s r).st := by
  unfold ppsReadCmd
  dsimp only
  with_reducible repeat' first
    | assumption | refine fails_keeps ?_ | refine gives_keeps ?_ | refine Keeps.iteSt (fun _ => ?_) (fun _ => ?_)
    | fail_if_no_progress refine Keeps.upd ?_ rfl rfl

theorem driveStatusCmd_keeps {s0 s : State} {r : Req} (hk : Keeps s0 s) : Keeps s0 (driveStatusCmd s r).st := by
  unfold driveStatusCmd
  dsimp only
  with_reducible repeat' first
    | assumption | refine State.draw_keeps ?_ | refine fails_keeps ?_ | refine failsAt_keeps ?_
    | refine gives_keeps ?_ | refine Keeps.iteSt (fun _ => ?_) (fun _ => ?_)

theorem selftestCmd_keeps {s0 s : State} {r : Req} (hk : Keeps s0 s) : Keeps s0 (selftestCmd s r).st := by
  unfold selftestCmd
  with_reducible repeat' first
    | assumption | refine startTest_keeps ?_ | refine fails_keeps ?_ | refine failsAt_keeps ?_ | refine done_keeps ?_
    | refine Keeps.iteSt (fun _ => ?_) (fun _ => ?_)

theorem driveFwCmd_keeps {s0 s : State} {r : Req} (hk : Keeps s0 s) : Keeps s0 (driveFwCmd s r).st := by
  unfold driveFwCmd
  with_reducible repeat' first
    | assumption | refine State.onDrive_keeps ?_ | refine fails_keeps ?_ | refine failsAt_keeps ?_
    | refine done_keeps ?_ | refine Keeps.iteSt (fun _ => ?_) (fun _ => ?_)

theorem freshJournal_keeps {s0 s : State} {j : Nat} (hk : Keeps s0 s) : Keeps s0 (freshJournal s j) := by
  unfold freshJournal
  dsimp only
  with_reducible repeat' first
    | assumption | refine State.draw_keeps ?_ | refine State.drawBytes_keeps ?_ | refine State.onJournal_keeps ?_
    | refine checkpoint_keeps ?_

theorem nsOnlineCmd_keeps {s0 s : State} {r : Req} (hk : Keeps s0 s) : Keeps s0 (nsOnlineCmd s r).st := by
  unfold nsOnlineCmd
  dsimp only
  with_reducible repeat' first
    | assumption | refine fails_keeps ?_ | refine failsAt_keeps ?_ | refine done_keeps ?_
    | refine freshJournal_keeps ?_ | refine Keeps.iteSt (fun _ => ?_) (fun _ => ?_) | split

theorem sendPieces_keeps {s0 s : State} {b : Nat} {e : Book} {key addr : Nat} {owner : MsgOwner} {y0 : Nat}
    {y1 : Bytes} {y2 : Nat} (hk : Keeps s0 s) : Keeps s0 (sendPieces s b e key addr owner y0 y1 y2) := by
  induction y0 generalizing s y1 y2 with
  | zero =>
    unfold sendPieces
    try dsimp only
    with_reducible repeat' first | assumption
  | succ fuel ih =>
    unfold sendPieces
    try dsimp only
    with_reducible repeat' first | refine ih ?_ | assumption | refine submit_keeps ?_

theorem tfSaveCmd_keeps {s0 s : State} {r : Req} (hk : Keeps s0 s) : Keeps s0 (tfSaveCmd s r).st := by
  unfold tfSaveCmd
  dsimp only
  with_reducible repeat' first
    | assumption | refine State.drawBytes_keeps ?_ | refine State.onTf_keeps ?_ | refine fails_keeps ?_
    | refine failsAt_keeps ?_ | refine done_keeps ?_ | refine denies_keeps ?_ | refine noteUse_keeps ?_
    | refine sendPieces_keeps ?_ | refine Keeps.iteSt (fun _ => ?_) (fun _ => ?_) | split

theorem tfSavedEnd_keeps {s0 s : State} {tf : Nat} (hk : Keeps s0 s) : Keeps s0 (tfSavedEnd s tf) := by
  unfold tfSavedEnd
  dsimp only
  with_reducible repeat' first
    | assumption | refine raise_keeps ?_ | refine State.onTf_keeps ?_ | refine Keeps.ite (fun _ => ?_) (fun _ => ?_)
    | split

theorem placeEp_keeps {s0 : State} {tf : Nat} {s : State} {p : Nat × Endpoint} (hk : Keeps s0 s) :
    Keeps s0 (placeEp tf s p) := by
  unfold placeEp
  dsimp only
  with_reducible repeat' first | assumption | fail_if_no_progress refine Keeps.upd ?_ rfl rfl | split

theorem placeSq_keeps {s0 : State} {tf : Nat} {s : State} {x : Nat × StoQueue × List (MsgKey × Tab Bytes)}
    (hk : Keeps s0 s) : Keeps s0 (placeSq tf s x) := by
  unfold placeSq
  try dsimp only
  with_reducible repeat' first
    | assumption | refine State.qDel_keeps ?_ | fail_if_no_progress refine Keeps.upd ?_ rfl rfl | split

theorem placeBlob_keeps {s0 s : State} {tf : Nat} {b : Blob} (hk : Keeps s0 s) : Keeps s0 (placeBlob s tf b) := by
  unfold placeBlob
  dsimp only
  with_reducible repeat' first
    | assumption | refine State.poke_keeps ?_ | refine State.onTf_keeps ?_ | refine placeEp_keeps ?_
    | refine placeSq_keeps ?_ | refine Keeps.ite (fun _ => ?_) (fun _ => ?_)
    | fail_if_no_progress refine Keeps.upd ?_ rfl rfl | refine Keeps.foldl _ ?_ (fun _ _ _ => ?_)

theorem readPieces_keeps {s0 s : State} {tf b : Nat} {e : Book} {key addr len y0 y1 : Nat} (hk : Keeps s0 s) :
    Keeps s0 (readPieces s tf b e key addr len y0 y1) := by
  induction y0 generalizing s y1 with
  | zero =>
    unfold readPieces
    try dsimp only
    with_reducible repeat' first | assumption
  | succ fuel ih =>
    unfold readPieces
    try dsimp only
    with_reducible repeat' first | refine ih ?_ | assumption | refine submit_keeps ?_

theorem tfRestoreCmd_keeps {s0 s : State} {r : Req} (hk : Keeps s0 s) : Keeps s0 (tfRestoreCmd s r).st := by
  unfold tfRestoreCmd
  dsimp only
  with_reducible repeat' first
    | assumption | refine State.onTf_keeps ?_ | refine fails_keeps ?_ | refine failsAt_keeps ?_
    | refine done_keeps ?_ | refine denies_keeps ?_ | refine readPieces_keeps ?_
    | refine Keeps.iteSt (fun _ => ?_) (fun _ => ?_) | split

theorem restoreFails_keeps {s0 s : State} {tf status : Nat} (hk : Keeps s0 s) :
    Keeps s0 (restoreFails s tf status) := by
  unfold restoreFails
  with_reducible repeat' first | assumption | refine raise_keeps ?_ | refine State.onTf_keeps ?_

theorem sendKeyMap_keeps {s0 s : State} {tf : Nat} {o : RestoreOp} {m : Bytes} (hk : Keeps s0 s) :
    Keeps s0 (sendKeyMap s tf o m) := by
  unfold sendKeyMap
  try dsimp only
  with_reducible repeat' first
    | assumption | refine State.onTf_keeps ?_ | refine restoreOver_keeps ?_ | refine sendPieces_keeps ?_
    | refine Keeps.ite (fun _ => ?_) (fun _ => ?_) | fail_if_no_progress refine Keeps.upd ?_ rfl rfl | split

theorem tfRestoredEnd_keeps {s0 s : State} {tf : Nat} (hk : Keeps s0 s) : Keeps s0 (tfRestoredEnd s tf) := by
  unfold tfRestoredEnd
  dsimp only
  with_reducible repeat' first
    | assumption | refine noteUse_keeps ?_ | refine placeBlob_keeps ?_ | refine restoreFails_keeps ?_
    | refine sendKeyMap_keeps ?_ | refine Keeps.ite (fun _ => ?_) (fun _ => ?_) | split

theorem thawTimes_keeps {s0 s : State} {tf : Nat} (hk : Keeps s0 s) : Keeps s0 (thawTimes s tf) := by
  unfold thawTimes
  dsimp only
  with_reducible repeat' first
    | assumption | refine Keeps.ite (fun _ => ?_) (fun _ => ?_) | fail_if_no_progress refine Keeps.upd ?_ rfl rfl

theorem tfThawCmd_keeps {s0 s : State} {r : Req} (hk : Keeps s0 s) : Keeps s0 (tfThawCmd s r).st := by
  unfold tfThawCmd
  dsimp only
  with_reducible repeat' first
    | assumption | refine State.onTf_keeps ?_ | refine fails_keeps ?_ | refine failsAt_keeps ?_
    | refine done_keeps ?_ | refine thawTimes_keeps ?_ | refine Keeps.iteSt (fun _ => ?_) (fun _ => ?_)

theorem clearMoved_keeps {s0 s : State} {tf : Nat} (hk : Keeps s0 s) : Keeps s0 (clearMoved s tf) := by
  unfold clearMoved
  dsimp only
  with_reducible repeat' first
    | assumption | refine State.qDel_keeps ?_ | refine freeEndpoint_keeps ?_ | refine revokeRegion_keeps ?_
    | fail_if_no_progress refine Keeps.upd ?_ rfl rfl | refine Keeps.foldl _ ?_ (fun _ _ _ => ?_)

theorem tfMovedCmd_keeps {s0 s : State} {r : Req} (hk : Keeps s0 s) : Keeps s0 (tfMovedCmd s r).st := by
  unfold tfMovedCmd
  dsimp only
  with_reducible repeat' first
    | assumption | refine State.onTf_keeps ?_ | refine fails_keeps ?_ | refine failsAt_keeps ?_
    | refine done_keeps ?_ | refine clearMoved_keeps ?_ | refine Keeps.iteSt (fun _ => ?_) (fun _ => ?_)
    | fail_if_no_progress refine Keeps.upd ?_ rfl rfl | refine Keeps.foldl _ ?_ (fun _ _ _ => ?_) | split

theorem graceEnd_keeps {s0 s : State} {tf : Nat} (hk : Keeps s0 s) : Keeps s0 (graceEnd s tf) := by
  unfold graceEnd
  dsimp only
  with_reducible repeat' first
    | assumption | refine State.onTf_keeps ?_ | refine Keeps.ite (fun _ => ?_) (fun _ => ?_)
    | fail_if_no_progress refine Keeps.upd ?_ rfl rfl | split

end Sys2Proof.Machine
end

