-- ==== Sys2Proof/Laws/KeepsClerk.lean ====
section
/-! SUPPORT. Configuration, Teasel, resets, secure start, clocks and registers. Every operation keeps the queue, the fuses and the form of the memories. -/

namespace Sys2Proof.Machine

theorem underRecs_keeps {s0 s : State} {recs : Tab Bytes} (hk : Keeps s0 s) : Keeps s0 (underRecs s recs) := by
  unfold underRecs
  dsimp only
  with_reducible repeat' first
    | assumption | refine State.onPp_keeps ?_ | fail_if_no_progress refine Keeps.upd ?_ rfl rfl

theorem loadImage_keeps {s0 s : State} {typ : Nat} {b : Bytes} {x : List Bytes × List (Nat × Nat)} (hk : Keeps s0 s) :
    Keeps s0 (loadImage s typ b x) := by
  unfold loadImage
  dsimp only
  with_reducible repeat' first | assumption | refine extendMr_keeps ?_ | fail_if_no_progress refine Keeps.upd ?_ rfl rfl

theorem failsDetail_keeps {s0 s : State} {x : Nat × Nat × Nat} (hk : Keeps s0 s) : Keeps s0 (failsDetail s x).st := by
  unfold failsDetail
  dsimp only
  with_reducible repeat' first | assumption

theorem patchLoadCmd_keeps {s0 : State} {sig : Bool} {s : State} {r : Req} (hk : Keeps s0 s) :
    Keeps s0 (patchLoadCmd sig s r).st := by
  unfold patchLoadCmd
  dsimp only
  with_reducible repeat' first
    | assumption | refine fails_keeps ?_ | refine done_keeps ?_ | refine loadImage_keeps ?_
    | refine failsDetail_keeps ?_ | refine Keeps.iteSt (fun _ => ?_) (fun _ => ?_)
    | fail_if_no_progress refine Keeps.upd ?_ rfl rfl | split

theorem keepImage_keeps {s0 s : State} {b : Bytes} (hk : Keeps s0 s) : Keeps s0 (keepImage s b) := by
  unfold keepImage
  dsimp only
  with_reducible repeat' first | assumption | fail_if_no_progress refine Keeps.upd ?_ rfl rfl

theorem extLoadCmd_keeps {s0 : State} {sig : Bool} {s : State} {r : Req} (hk : Keeps s0 s) :
    Keeps s0 (extLoadCmd sig s r).st := by
  unfold extLoadCmd
  with_reducible repeat' first
    | assumption | refine done_keeps ?_ | refine loadImage_keeps ?_ | refine failsDetail_keeps ?_
    | refine keepImage_keeps ?_ | split

theorem reloadImages_keeps {s0 : State} {sig : Bool} : ∀ (l : List Bytes) {s : State}, Keeps s0 s → Keeps s0 (reloadImages sig l s).1
  | [], _, hk => hk
  | b :: bs, s, hk => by
    unfold reloadImages
    split
    · exact reloadImages_keeps bs hk
    · split
      · exact hk
      · exact reloadImages_keeps bs (keepImage_keeps (loadImage_keeps hk))

theorem commitVersion_keeps {s0 s : State} {recs : Tab Bytes} (hk : Keeps s0 s) :
    Keeps s0 (commitVersion s recs) := by
  unfold commitVersion
  dsimp only
  with_reducible repeat' first
    | assumption | refine Keeps.ite (fun _ => ?_) (fun _ => ?_) | fail_if_no_progress refine Keeps.upd ?_ rfl rfl
    | split

theorem lanesDown_keeps {s0 s : State} {p : Nat} (hk : Keeps s0 s) : Keeps s0 (lanesDown s p) := by
  unfold lanesDown
  dsimp only
  with_reducible repeat' first
    | assumption | refine State.onLp_keeps ?_ | refine State.onPp_keeps ?_
    | refine Keeps.foldl _ ?_ (fun _ _ _ => ?_)

theorem freshPort_keeps {s0 s : State} {lp : Nat} (hk : Keeps s0 s) : Keeps s0 (freshPort s lp) := by
  unfold freshPort
  dsimp only
  with_reducible repeat' first
    | assumption | refine clearRange_keeps ?_ | refine dropPort_keeps ?_
    | fail_if_no_progress refine Keeps.upd ?_ rfl rfl

theorem commitPort_keeps {s0 s : State} {mgmt : Bool} {p mode : Nat} (hk : Keeps s0 s) :
    Keeps s0 (commitPort s mgmt p mode) := by
  unfold commitPort
  dsimp only
  with_reducible repeat' first
    | assumption | refine State.onPp_keeps ?_ | refine State.qSet_keeps ?_ | refine State.qDel_keeps ?_
    | refine lanesDown_keeps ?_ | refine freshPort_keeps ?_ | refine Keeps.ite (fun _ => ?_) (fun _ => ?_)
    | refine Keeps.foldl _ ?_ (fun _ _ _ => ?_)

theorem commitBell_keeps {s0 o s : State} {lp : Nat} (hk : Keeps s0 s) : Keeps s0 (commitBell o s lp) := by
  unfold commitBell
  dsimp only
  with_reducible repeat' first
    | assumption | refine State.onLp_keeps ?_ | refine Keeps.ite (fun _ => ?_) (fun _ => ?_) | split

theorem commitShapers_keeps {s0 o s : State} (hk : Keeps s0 s) : Keeps s0 (commitShapers o s) := by
  unfold commitShapers
  dsimp only
  with_reducible repeat' first
    | assumption | refine State.onLp_keeps ?_ | refine State.onTg_keeps ?_
    | refine Keeps.ite (fun _ => ?_) (fun _ => ?_) | refine Keeps.foldl _ ?_ (fun _ _ _ => ?_)

theorem commitQueueShapers_keeps {s0 o s : State} {zero : List Nat} (hk : Keeps s0 s) :
    Keeps s0 (commitQueueShapers o s zero) := by
  unfold commitQueueShapers
  dsimp only
  with_reducible repeat' first
    | assumption | refine State.onTq_keeps ?_ | refine Keeps.ite (fun _ => ?_) (fun _ => ?_)
    | refine Keeps.foldl _ ?_ (fun _ _ _ => ?_)

theorem commitPolicers_keeps {s0 o s : State} (hk : Keeps s0 s) : Keeps s0 (commitPolicers o s) := by
  unfold commitPolicers
  dsimp only
  with_reducible repeat' first
    | assumption | refine Keeps.ite (fun _ => ?_) (fun _ => ?_) | fail_if_no_progress refine Keeps.upd ?_ rfl rfl
    | refine Keeps.foldl _ ?_ (fun _ _ _ => ?_)

theorem commitTable_keeps {s0 o s : State} {t : Nat} (hk : Keeps s0 s) : Keeps s0 (commitTable o s t) := by
  unfold commitTable
  dsimp only
  with_reducible repeat' first | assumption | refine State.onTbl_keeps ?_ | refine Keeps.ite (fun _ => ?_) (fun _ => ?_)

theorem zeroMem_keeps {s0 s : State} {a : Nat × Nat} (hk : Keeps s0 s) : Keeps s0 (zeroMem s a) := by
  exact Keeps.updMem hk (fun w => wf_mclear _ _ w) (fun w => w)

theorem removeTf_keeps {s0 o s : State} {t : Nat} (hk : Keeps s0 s) : Keeps s0 (removeTf o s t) := by
  unfold removeTf
  dsimp only
  with_reducible repeat' first
    | assumption | refine clearRange_keeps ?_ | refine raise_keeps ?_ | refine State.qDel_keeps ?_
    | refine freeEndpoint_keeps ?_ | refine flushEntries_keeps ?_ | refine revokeRegion_keeps ?_
    | refine zeroMem_keeps ?_ | fail_if_no_progress refine Keeps.upd ?_ rfl rfl
    | refine Keeps.foldl _ ?_ (fun _ _ _ => ?_)

theorem commitTfs_keeps {s0 o s : State} (hk : Keeps s0 s) : Keeps s0 (commitTfs o s) := by
  unfold commitTfs
  dsimp only
  with_reducible repeat' first
    | assumption | refine removeTf_keeps ?_ | fail_if_no_progress refine Keeps.upd ?_ rfl rfl
    | refine Keeps.foldl _ ?_ (fun _ _ _ => ?_)

theorem releaseDrive_keeps {s0 s : State} {rp : Nat} (hk : Keeps s0 s) : Keeps s0 (releaseDrive s rp) := by
  unfold releaseDrive
  dsimp only
  with_reducible repeat' first
    | assumption | refine State.onDrive_keeps ?_ | fail_if_no_progress refine Keeps.upd ?_ rfl rfl

theorem dropDrive_keeps {s0 s : State} {rp : Nat} (hk : Keeps s0 s) : Keeps s0 (dropDrive s rp) := by
  unfold dropDrive
  dsimp only
  with_reducible repeat' first
    | assumption | refine driveFails_keeps ?_ | refine Keeps.ite (fun _ => ?_) (fun _ => ?_)
    | fail_if_no_progress refine Keeps.upd ?_ rfl rfl

theorem trimCache_keeps {s0 o s : State} (hk : Keeps s0 s) :
    Keeps s0 (trimCache o s) := by
  unfold trimCache
  try dsimp only
  with_reducible repeat' first
    | assumption | fail_if_no_progress refine Keeps.upd ?_ rfl rfl | split

theorem retimeTests_keeps {s0 o s : State} {rp : Nat} (hk : Keeps s0 s) :
    Keeps s0 (retimeTests o s rp) := by
  unfold retimeTests
  try dsimp only
  with_reducible repeat' first
    | assumption | refine State.onDrive_keeps ?_ | refine Keeps.ite (fun _ => ?_) (fun _ => ?_)
    | fail_if_no_progress refine Keeps.upd ?_ rfl rfl | split

theorem redeclare_keeps {s0 o s : State} {rp : Nat} (hk : Keeps s0 s) :
    Keeps s0 (redeclare o s rp) := by
  unfold redeclare
  try dsimp only
  with_reducible repeat' first
    | assumption | refine State.onDrive_keeps ?_ | refine startStep_keeps ?_
    | refine Keeps.ite (fun _ => ?_) (fun _ => ?_) | fail_if_no_progress refine Keeps.upd ?_ rfl rfl | split

theorem commitSto_keeps {s0 o s : State} {first : Bool} (hk : Keeps s0 s) : Keeps s0 (commitSto o s first) := by
  unfold commitSto
  try dsimp only
  with_reducible repeat' first
    | assumption | refine State.onJournal_keeps ?_ | refine releaseDrive_keeps ?_ | refine dropDrive_keeps ?_
    | refine trimCache_keeps ?_ | refine retimeTests_keeps ?_ | refine redeclare_keeps ?_
    | refine Keeps.ite (fun _ => ?_) (fun _ => ?_) | refine Keeps.foldl _ ?_ (fun _ _ _ => ?_)
    | fail_if_no_progress refine Keeps.upd ?_ rfl rfl | split

theorem sendTally_keeps {s0 s : State} (hk : Keeps s0 s) : Keeps s0 (sendTally s) := by
  unfold sendTally
  dsimp only
  with_reducible repeat' first
    | assumption | refine sendPkt_keeps ?_ | fail_if_no_progress refine Keeps.upd ?_ rfl rfl
    | refine Keeps.foldl _ ?_ (fun _ _ _ => ?_)

theorem takeRecs_keeps {s0 o : State} {recs : Tab Bytes} {zero : List Nat} (hk : Keeps s0 o) :
    Keeps s0 (takeRecs o recs zero) := by
  unfold takeRecs
  try dsimp only
  with_reducible repeat' first
    | assumption | refine State.onLp_keeps ?_ | refine abortUnreadable_keeps ?_ | refine abandonTest_keeps ?_
    | refine startStall_keeps ?_ | refine underRecs_keeps ?_ | refine commitVersion_keeps ?_
    | refine commitPort_keeps ?_ | refine commitBell_keeps ?_ | refine commitShapers_keeps ?_
    | refine commitQueueShapers_keeps ?_ | refine commitPolicers_keeps ?_ | refine commitTable_keeps ?_
    | refine commitTfs_keeps ?_ | refine commitSto_keeps ?_ | refine Keeps.ite (fun _ => ?_) (fun _ => ?_)
    | refine Keeps.foldl _ ?_ (fun _ _ _ => ?_) | fail_if_no_progress refine Keeps.upd ?_ rfl rfl | split

theorem commitAt_keeps {s0 o : State} {recs : Tab Bytes} {zero : List Nat} {counter : Nat} {digest : Bytes}
    (hk : Keeps s0 o) : Keeps s0 (commitAt o recs zero counter digest) := by
  unfold commitAt
  dsimp only
  with_reducible repeat' first
    | assumption | refine countStat_keeps ?_ | refine raise_keeps ?_ | refine extendMr_keeps ?_
    | refine sendTally_keeps ?_ | refine takeRecs_keeps ?_ | fail_if_no_progress refine Keeps.upd ?_ rfl rfl

theorem flashWrite_keeps {s0 s : State} {a : Nat} {v : Bytes} (hk : Keeps s0 s) : Keeps s0 (flashWrite s a v) := by
  exact Keeps.updMem hk (fun w => w) (fun w => wf_mwrites _ _ w)

theorem flashErase_keeps {s0 s : State} {a n : Nat} (hk : Keeps s0 s) : Keeps s0 (flashErase s a n) := by
  exact Keeps.updMem hk (fun w => w) (fun w => wf_mclear _ _ w)

theorem beginStore_keeps {s0 s : State} {area : Nat} (hk : Keeps s0 s) : Keeps s0 (beginStore s area) := by
  unfold beginStore
  dsimp only
  with_reducible repeat' first
    | assumption | refine State.drawBytes_keeps ?_ | refine flashWrite_keeps ?_ | refine flashErase_keeps ?_
    | fail_if_no_progress refine Keeps.upd ?_ rfl rfl

theorem storeCommit_keeps {s0 s : State} {persist : Bool} (hk : Keeps s0 s) : Keeps s0 (storeCommit s persist) := by
  unfold storeCommit
  with_reducible repeat' first
    | assumption | refine beginStore_keeps ?_ | refine Keeps.ite (fun _ => ?_) (fun _ => ?_) | split

theorem checkRecord_keeps {s0 s : State} {a : Nat} {sig : Bool} (hk : Keeps s0 s) : Keeps s0 (checkRecord s a sig).1 := by
  unfold checkRecord
  dsimp only
  repeat' split
  all_goals first | exact hk | exact reloadImages_keeps _ hk

theorem redirect_keeps {s0 s : State} {role b : Nat} (hk : Keeps s0 s) : Keeps s0 (redirect s role b) := by
  unfold redirect
  dsimp only
  with_reducible repeat' first | assumption | fail_if_no_progress refine Keeps.upd ?_ rfl rfl

theorem oweEntry_keeps {s0 s : State} {u : Nat} (hk : Keeps s0 s) : Keeps s0 (oweEntry s u) := by
  unfold oweEntry
  dsimp only
  with_reducible repeat' first
    | assumption | refine raise_keeps ?_ | refine Keeps.ite (fun _ => ?_) (fun _ => ?_)
    | fail_if_no_progress refine Keeps.upd ?_ rfl rfl

theorem isolateCore_keeps {s0 s : State} {u : Nat} (hk : Keeps s0 s) : Keeps s0 (isolateCore s u).1 := by
  unfold isolateCore
  dsimp only
  repeat' first
    | with_reducible assumption | with_reducible refine raise_keeps ?_
    | with_reducible refine State.fenceBump_keeps ?_ | with_reducible refine State.onStall_keeps ?_
    | with_reducible refine State.onRole_keeps ?_ | refine Keeps.updMem ?_ (fun w => wf_mclear _ _ w) (fun w => w)
    | with_reducible refine Keeps.ite (fun _ => ?_) (fun _ => ?_) | split

theorem isolateSeq_keeps {s0 s : State} {n : Nat} (hk : Keeps s0 s) : Keeps s0 (isolateSeq s n).1 := by
  unfold isolateSeq
  dsimp only
  with_reducible repeat' first
    | assumption | refine raise_keeps ?_ | refine State.fenceBump_keeps ?_ | refine retryEntry_keeps ?_
    | fail_if_no_progress refine Keeps.upd ?_ rfl rfl | refine Keeps.foldl _ ?_ (fun _ _ _ => ?_) | split

theorem isolateBank_keeps {s0 s : State} {role : Option Nat} (hk : Keeps s0 s) : Keeps s0 (isolateBank s role).1 := by
  unfold isolateBank
  dsimp only
  with_reducible repeat' first
    | assumption | refine raise_keeps ?_ | refine State.fenceBump_keeps ?_ | refine State.fenceTake_keeps ?_ | split

theorem declareDead_keeps {s0 s : State} {u reason : Nat} {role : Option Nat} (hk : Keeps s0 s) :
    Keeps s0 (declareDead s u reason role) := by
  unfold declareDead
  dsimp only
  with_reducible repeat' first
    | assumption | refine countErr_keeps ?_ | refine raise_keeps ?_ | refine oweEntry_keeps ?_
    | refine isolateCore_keeps ?_ | refine isolateSeq_keeps ?_ | refine isolateBank_keeps ?_
    | fail_if_no_progress refine Keeps.upd ?_ rfl rfl | split

theorem endSweep_keeps {s0 s : State} (hk : Keeps s0 s) : Keeps s0 (endSweep s) := by
  unfold endSweep
  dsimp only
  with_reducible repeat' first
    | assumption | refine countStat_keeps ?_ | refine Keeps.ite (fun _ => ?_) (fun _ => ?_)
    | fail_if_no_progress refine Keeps.upd ?_ rfl rfl

theorem testStart_keeps {s0 s : State} {u : Nat} (hk : Keeps s0 s) : Keeps s0 (testStart s u) := by
  unfold testStart
  dsimp only
  with_reducible repeat' first
    | assumption | refine quietKeep_keeps ?_ | refine Keeps.ite (fun _ => ?_) (fun _ => ?_)
    | fail_if_no_progress refine Keeps.upd ?_ rfl rfl | split

theorem endTest_keeps {s0 s : State} {u : UnitTest} {pass : Bool} (hk : Keeps s0 s) :
    Keeps s0 (endTest s u pass) := by
  unfold endTest
  dsimp only
  with_reducible repeat' first
    | assumption | refine countStat_keeps ?_ | refine raise_keeps ?_ | refine endHold_keeps ?_
    | refine endSweep_keeps ?_ | refine Keeps.ite (fun _ => ?_) (fun _ => ?_)
    | fail_if_no_progress refine Keeps.upd ?_ rfl rfl | split

theorem testPassed_keeps {s0 s : State} {u : UnitTest} (hk : Keeps s0 s) : Keeps s0 (testPassed s u) := by
  unfold testPassed
  dsimp only
  with_reducible repeat' first
    | assumption | refine endTest_keeps ?_ | refine Keeps.ite (fun _ => ?_) (fun _ => ?_)
    | fail_if_no_progress refine Keeps.upd ?_ rfl rfl

theorem testFailed_keeps {s0 s : State} {u : UnitTest} (hk : Keeps s0 s) : Keeps s0 (testFailed s u) := by
  unfold testFailed
  dsimp only
  with_reducible repeat' first
    | assumption | refine declareDead_keeps ?_ | refine endTest_keeps ?_
    | refine Keeps.ite (fun _ => ?_) (fun _ => ?_)

theorem testRunEnd_keeps {s0 s : State} {pass : Bool} {signature : Nat} (hk : Keeps s0 s) :
    Keeps s0 (testRunEnd s pass signature) := by
  unfold testRunEnd
  dsimp only
  with_reducible repeat' first
    | assumption | refine countErr_keeps ?_ | refine testPassed_keeps ?_ | refine testFailed_keeps ?_
    | refine Keeps.ite (fun _ => ?_) (fun _ => ?_) | fail_if_no_progress refine Keeps.upd ?_ rfl rfl | split

theorem bankCopyDone_keeps {s0 s : State} (hk : Keeps s0 s) : Keeps s0 (bankCopyDone s) := by
  unfold bankCopyDone
  dsimp only
  with_reducible repeat' first
    | assumption | refine bankBack_keeps ?_ | refine redirect_keeps ?_ | refine endTest_keeps ?_
    | refine Keeps.ite (fun _ => ?_) (fun _ => ?_) | fail_if_no_progress refine Keeps.upd ?_ rfl rfl | split

theorem sweepStart_keeps {s0 s : State} (hk : Keeps s0 s) : Keeps s0 (sweepStart s) := by
  unfold sweepStart
  dsimp only
  with_reducible repeat' first
    | assumption | refine Keeps.ite (fun _ => ?_) (fun _ => ?_) | fail_if_no_progress refine Keeps.upd ?_ rfl rfl

theorem sweepPeriodEnd_keeps {s0 s : State} (hk : Keeps s0 s) : Keeps s0 (sweepPeriodEnd s) := by
  unfold sweepPeriodEnd
  dsimp only
  with_reducible repeat' first
    | assumption | refine countErrs_keeps ?_ | refine raise_keeps ?_ | refine Keeps.ite (fun _ => ?_) (fun _ => ?_)
    | fail_if_no_progress refine Keeps.upd ?_ rfl rfl | split

theorem teaselStatusCmd_keeps {s0 s : State} {r : Req} (hk : Keeps s0 s) : Keeps s0 (teaselStatusCmd s r).st := by
  unfold teaselStatusCmd
  with_reducible repeat' first
    | assumption | refine fails_keeps ?_ | refine gives_keeps ?_ | refine Keeps.iteSt (fun _ => ?_) (fun _ => ?_)

theorem teaselTestCmd_keeps {s0 s : State} {r : Req} (hk : Keeps s0 s) : Keeps s0 (teaselTestCmd s r).st := by
  unfold teaselTestCmd
  dsimp only
  with_reducible repeat' first
    | assumption | refine fails_keeps ?_ | refine failsAt_keeps ?_ | refine done_keeps ?_
    | refine Keeps.iteSt (fun _ => ?_) (fun _ => ?_) | fail_if_no_progress refine Keeps.upd ?_ rfl rfl

theorem teaselDeclareCmd_keeps {s0 s : State} {r : Req} (hk : Keeps s0 s) : Keeps s0 (teaselDeclareCmd s r).st := by
  unfold teaselDeclareCmd
  dsimp only
  with_reducible repeat' first
    | assumption | refine fails_keeps ?_ | refine failsAt_keeps ?_ | refine done_keeps ?_
    | refine abandonTest_keeps ?_ | refine redirect_keeps ?_ | refine declareDead_keeps ?_
    | refine Keeps.iteSt (fun _ => ?_) (fun _ => ?_) | split

theorem giveSpare_keeps {s0 s : State} {u : Nat} (hk : Keeps s0 s) : Keeps s0 (giveSpare s u) := by
  unfold giveSpare
  dsimp only
  with_reducible repeat' first | assumption | refine State.onStall_keeps ?_

theorem teaselReinstateCmd_keeps {s0 s : State} {r : Req} (hk : Keeps s0 s) :
    Keeps s0 (teaselReinstateCmd s r).st := by
  unfold teaselReinstateCmd
  dsimp only
  with_reducible repeat' first
    | assumption | refine raise_keeps ?_ | refine State.fenceTake_keeps ?_ | refine fails_keeps ?_
    | refine failsAt_keeps ?_ | refine done_keeps ?_ | refine abandonTest_keeps ?_ | refine giveSpare_keeps ?_
    | refine Keeps.updFuses ?_ (FusesKept.mark _ _) rfl rfl | refine Keeps.iteSt (fun _ => ?_) (fun _ => ?_)
    | fail_if_no_progress refine Keeps.upd ?_ rfl rfl | split

theorem teaselDeadlistCmd_keeps {s0 s : State} {r : Req} (hk : Keeps s0 s) : Keeps s0 (teaselDeadlistCmd s r).st := by
  unfold teaselDeadlistCmd
  with_reducible repeat' first
    | assumption | refine fails_keeps ?_ | refine gives_keeps ?_ | refine Keeps.iteSt (fun _ => ?_) (fun _ => ?_)

theorem applyDead_keeps {s0 s : State} {u : Nat} (hk : Keeps s0 s) : Keeps s0 (applyDead s u) := by
  unfold applyDead
  dsimp only
  with_reducible repeat' first
    | assumption | refine State.onStall_keeps ?_ | refine State.onRole_keeps ?_ | refine redirect_keeps ?_
    | fail_if_no_progress refine Keeps.upd ?_ rfl rfl | split

theorem applyDeadList_keeps {s0 s : State} (hk : Keeps s0 s) : Keeps s0 (applyDeadList s) := by
  unfold applyDeadList
  dsimp only
  with_reducible repeat' first
    | assumption | refine raise_keeps ?_ | refine applyDead_keeps ?_ | refine Keeps.ite (fun _ => ?_) (fun _ => ?_)
    | refine Keeps.foldl _ ?_ (fun _ _ _ => ?_)

theorem afterReset_keeps {s0 s : State} (hk : Keeps s0 s) : Keeps s0 (afterReset s) := by
  exact Keeps.updMem hk (fun _ => rfl) (fun w => w)

theorem deviceReset_keeps {s0 s : State} {cause : Nat} (hk : Keeps s0 s) : Keeps s0 (deviceReset s cause) := by
  unfold deviceReset
  dsimp only
  with_reducible repeat' first
    | assumption | refine afterReset_keeps ?_ | fail_if_no_progress refine Keeps.upd ?_ rfl rfl

theorem powerOn_keeps {s0 s : State} (hk : Keeps s0 s) : Keeps s0 (powerOn s) := by
  unfold powerOn
  dsimp only
  with_reducible repeat' first
    | assumption | refine afterReset_keeps ?_ | fail_if_no_progress refine Keeps.upd ?_ rfl rfl

theorem resetRelease_keeps {s0 s : State} {straps : Straps} (hk : Keeps s0 s) : Keeps s0 (resetRelease s straps) := by
  unfold resetRelease
  dsimp only
  with_reducible repeat' first
    | assumption | refine State.onPp_keeps ?_ | refine Keeps.ite (fun _ => ?_) (fun _ => ?_)
    | fail_if_no_progress refine Keeps.upd ?_ rfl rfl

theorem holdOutputs_keeps {s0 s : State} (hk : Keeps s0 s) : Keeps s0 (holdOutputs s) := by
  unfold holdOutputs
  dsimp only
  with_reducible repeat' first | assumption | fail_if_no_progress refine Keeps.upd ?_ rfl rfl

theorem halt_keeps {s0 s : State} {code : Nat} (hk : Keeps s0 s) : Keeps s0 (halt s code) := by
  unfold halt
  dsimp only
  with_reducible repeat' first
    | assumption | refine holdOutputs_keeps ?_ | fail_if_no_progress refine Keeps.upd ?_ rfl rfl

theorem stageReset_keeps {s0 s : State} (hk : Keeps s0 s) : Keeps s0 (stageReset s) := by
  exact Keeps.updMem (x := s) hk (fun w => wf_filter _ w) (fun w => w)

theorem loseBucket_keeps {s0 s : State} {t level bucket : Nat} (hk : Keeps s0 s) :
    Keeps s0 (loseBucket s t level bucket) := by
  unfold loseBucket
  dsimp only
  with_reducible repeat' first
    | assumption | refine countErr_keeps ?_ | refine raise_keeps ?_ | refine State.onTbl_keeps ?_
    | refine post_keeps ?_ | refine Keeps.ite (fun _ => ?_) (fun _ => ?_)

theorem loseDedup_keeps {s0 s : State} {k : Nat} (hk : Keeps s0 s) : Keeps s0 (loseDedup s k) := by
  unfold loseDedup
  dsimp only
  with_reducible repeat' first
    | assumption | refine countErr_keeps ?_ | refine Keeps.ite (fun _ => ?_) (fun _ => ?_)
    | fail_if_no_progress refine Keeps.upd ?_ rfl rfl

theorem loseCtx_keeps {s0 s : State} {k : Nat} (hk : Keeps s0 s) : Keeps s0 (loseCtx s k) := by
  unfold loseCtx
  with_reducible repeat' first
    | assumption | refine countErr_keeps ?_ | refine dropCtx_keeps ?_ | refine dropSlot_keeps ?_ | split

theorem loseLine_keeps {s0 s : State} {k : Nat} (hk : Keeps s0 s) : Keeps s0 (loseLine s k) := by
  unfold loseLine
  dsimp only
  with_reducible repeat' first
    | assumption | refine countErr_keeps ?_ | refine Keeps.ite (fun _ => ?_) (fun _ => ?_)
    | fail_if_no_progress refine Keeps.upd ?_ rfl rfl

theorem loseSqWord_keeps {s0 s : State} {k : Nat} (hk : Keeps s0 s) :
    Keeps s0 (loseSqWord s k) := by
  unfold loseSqWord
  try dsimp only
  with_reducible repeat' first
    | assumption | refine finishCmd_keeps ?_ | fail_if_no_progress refine Keeps.upd ?_ rfl rfl | split

/-- What `loseQueued` and `losePort` leave when they find the cell. -/
theorem loseQueued_keeps {s0 s : State} {lp : Nat} (hk : Keeps s0 s) :
    ∀ (l : List Nat) (c : Nat) {y : State}, loseQueued s lp l c = .inl y → Keeps s0 y
  | [], _, _, e => by cases e
  | q :: qs, c, y, e => by
    unfold loseQueued at e
    split at e
    · cases e; exact countErr_keeps (State.onTq_keeps hk)
    · exact loseQueued_keeps hk qs _ e

theorem losePort_keeps {s0 s y : State} {lp c : Nat} (hk : Keeps s0 s) (e : losePort s lp c = .inl y) : Keeps s0 y := by
  unfold losePort at e
  dsimp only at e
  repeat' split at e
  all_goals first
    | exact loseQueued_keeps hk _ _ e
    | (cases e; exact countErr_keeps (State.onLp_keeps hk))

theorem loseCell_keeps {s0 s : State} (hk : Keeps s0 s) : ∀ (l : List Nat) (c : Nat), Keeps s0 (loseCell s l c)
  | [], _ => hk
  | lp :: lps, c => by
    unfold loseCell
    split
    · exact losePort_keeps hk ‹_›
    · exact loseCell_keeps hk lps _

theorem eccOutcome_keeps {s0 s : State} {a : Nat} (hk : Keeps s0 s) : Keeps s0 (eccOutcome s a).1 := by
  unfold eccOutcome
  try dsimp only
  with_reducible repeat' first
    | assumption | refine loseBucket_keeps ?_ | refine loseDedup_keeps ?_ | refine loseCtx_keeps ?_
    | refine loseLine_keeps ?_ | refine loseSqWord_keeps ?_ | refine loseCell_keeps ?_ _ _
    | refine Keeps.ite (fun _ => ?_) (fun _ => ?_) | refine Keeps.iteFst (fun _ => ?_) (fun _ => ?_)
    | refine Keeps.iteSnd (fun _ => ?_) (fun _ => ?_) | fail_if_no_progress refine Keeps.upd ?_ rfl rfl | split

theorem captureEcc_keeps {s0 s : State} {kind : MemKind} {unit role a : Nat} (hk : Keeps s0 s) :
    Keeps s0 (captureEcc s kind unit role a) := by
  unfold captureEcc
  try dsimp only
  with_reducible repeat' first
    | assumption | refine State.noteFlag_keeps ?_ | refine raise_keeps ?_
    | refine Keeps.ite (fun _ => ?_) (fun _ => ?_) | fail_if_no_progress refine Keeps.upd ?_ rfl rfl | split

theorem recordRow_keeps {s0 s : State} {row : Nat} (hk : Keeps s0 s) : Keeps s0 (recordRow s row) := by
  unfold recordRow
  dsimp only
  with_reducible repeat' first
    | assumption | refine Keeps.ite (fun _ => ?_) (fun _ => ?_) | fail_if_no_progress refine Keeps.upd ?_ rfl rfl

theorem rowCorrected_keeps {s0 s : State} {row : Nat} (hk : Keeps s0 s) : Keeps s0 (rowCorrected s row) := by
  unfold rowCorrected
  dsimp only
  with_reducible repeat' first
    | assumption | refine recordRow_keeps ?_ | refine Keeps.ite (fun _ => ?_) (fun _ => ?_)
    | fail_if_no_progress refine Keeps.upd ?_ rfl rfl

theorem bringForward_keeps {s0 s : State} {kind : MemKind} {unit role : Nat} (hk : Keeps s0 s) :
    Keeps s0 (bringForward s kind unit role) := by
  unfold bringForward
  dsimp only
  with_reducible repeat' first | assumption | fail_if_no_progress refine Keeps.upd ?_ rfl rfl | split

theorem scrubRead_keeps {s0 s : State} {kind : MemKind} {unit role a x : Nat} {found : EccFinding} (hk : Keeps s0 s) :
    Keeps s0 (scrubRead s kind unit role a x found) := by
  unfold scrubRead
  dsimp only
  with_reducible repeat' first
    | assumption | refine countErr_keeps ?_ | refine poisonHit_keeps ?_ | refine eccOutcome_keeps ?_
    | refine captureEcc_keeps ?_ | refine recordRow_keeps ?_ | refine rowCorrected_keeps ?_
    | refine bringForward_keeps ?_ | refine Keeps.ite (fun _ => ?_) (fun _ => ?_)
    | fail_if_no_progress refine Keeps.upd ?_ rfl rfl | split

theorem writeFlag_keeps {s0 s : State} {x : Slot} {st confirm : Nat} (hk : Keeps s0 s) :
    Keeps s0 (writeFlag s x st confirm) := by
  unfold writeFlag
  dsimp only
  with_reducible repeat' first | assumption | refine flashWrite_keeps ?_ | refine flashErase_keeps ?_ | split

theorem sealAr_keeps {s0 s : State} {b : Bytes} (hk : Keeps s0 s) : Keeps s0 (sealAr s b).1 := by
  unfold sealAr
  dsimp only
  with_reducible repeat' first | assumption | refine State.drawBytes_keeps ?_

theorem storeAr_keeps {s0 s : State} {b : Bytes} (hk : Keeps s0 s) : Keeps s0 (storeAr s b) := by
  unfold storeAr
  dsimp only
  with_reducible repeat' first
    | assumption | refine flashWrite_keeps ?_ | refine flashErase_keeps ?_ | refine sealAr_keeps ?_
    | fail_if_no_progress refine Keeps.upd ?_ rfl rfl

theorem changeAr_keeps {s0 s : State} {f : Bytes → Bytes} {burn : Bool} (hk : Keeps s0 s) :
    Keeps s0 (changeAr s f burn) := by
  unfold changeAr
  dsimp only
  with_reducible repeat' first
    | assumption | refine storeAr_keeps ?_ | refine Keeps.updFuses ?_ (FusesKept.step _) rfl rfl
    | refine Keeps.ite (fun _ => ?_) (fun _ => ?_)

theorem changeOwner_keeps {s0 s : State} {b : Bytes} {f : Bytes → Bytes} {burn : Bool} (hk : Keeps s0 s) :
    Keeps s0 (changeOwner s b f burn) := by
  unfold changeOwner
  dsimp only
  with_reducible repeat' first
    | assumption | refine flashWrite_keeps ?_ | refine flashErase_keeps ?_ | refine changeAr_keeps ?_
    | fail_if_no_progress refine Keeps.upd ?_ rfl rfl

theorem stage1Start_keeps {s0 s : State} {f : StartFacts} (hk : Keeps s0 s) : Keeps s0 (stage1Start s f) := by
  unfold stage1Start
  dsimp only
  with_reducible repeat' first
    | assumption | refine extendMr_keeps ?_ | refine halt_keeps ?_ | refine Keeps.ite (fun _ => ?_) (fun _ => ?_)
    | fail_if_no_progress refine Keeps.upd ?_ rfl rfl | split

theorem restoreKeys_keeps {s0 s : State} (hk : Keeps s0 s) : Keeps s0 (restoreKeys s) := by
  unfold restoreKeys
  dsimp only
  with_reducible repeat' first
    | assumption | refine raise_keeps ?_ | refine State.setSlot_keeps ?_
    | refine Keeps.ite (fun _ => ?_) (fun _ => ?_) | split

theorem paySteps_keeps {s0 s : State} {x : Slot} (hk : Keeps s0 s) : Keeps s0 (paySteps s x) := by
  unfold paySteps
  dsimp only
  with_reducible repeat' first
    | assumption | refine flashWrite_keeps ?_ | refine flashErase_keeps ?_ | refine writeFlag_keeps ?_
    | refine storeAr_keeps ?_ | refine Keeps.updFuses ?_ (FusesKept.step _) rfl rfl
    | refine Keeps.ite (fun _ => ?_) (fun _ => ?_) | fail_if_no_progress refine Keeps.upd ?_ rfl rfl | split

theorem loadPatch_keeps {s0 s : State} {x : Slot} {sigs : SlotSigs} (hk : Keeps s0 s) :
    Keeps s0 (loadPatch s x sigs) := by
  unfold loadPatch
  dsimp only
  with_reducible repeat' first
    | assumption | refine loadImage_keeps ?_ | fail_if_no_progress refine Keeps.upd ?_ rfl rfl | split

theorem verdictPass_keeps {s0 s : State} {x : Slot} {sigs : SlotSigs} (hk : Keeps s0 s) :
    Keeps s0 (verdictPass s x sigs) := by
  unfold verdictPass
  try dsimp only
  with_reducible repeat' first
    | assumption | refine State.onLp_keeps ?_ | refine extendMr_keeps ?_ | refine applyDeadList_keeps ?_
    | refine paySteps_keeps ?_ | refine loadPatch_keeps ?_ | refine Keeps.foldl _ ?_ (fun _ _ _ => ?_)
    | fail_if_no_progress refine Keeps.upd ?_ rfl rfl | split

theorem setReason_keeps {s0 s : State} {x : Slot} {r : Nat} (hk : Keeps s0 s) : Keeps s0 (setReason s x r) := by
  unfold setReason
  dsimp only
  with_reducible repeat' first | assumption | fail_if_no_progress refine Keeps.upd ?_ rfl rfl | split

theorem bootVerdict_keeps {s0 s : State} {sigs : SlotSigs} (hk : Keeps s0 s) : Keeps s0 (bootVerdict s sigs) := by
  unfold bootVerdict
  dsimp only
  with_reducible repeat' first
    | assumption | refine halt_keeps ?_ | refine stageReset_keeps ?_ | refine restoreKeys_keeps ?_
    | refine verdictPass_keeps ?_ | refine setReason_keeps ?_ | refine Keeps.ite (fun _ => ?_) (fun _ => ?_)
    | fail_if_no_progress refine Keeps.upd ?_ rfl rfl | split

theorem repairRow_keeps {s0 s : State} {row : Nat} (hk : Keeps s0 s) : Keeps s0 (repairRow s row) := by
  unfold repairRow
  dsimp only
  with_reducible repeat' first
    | assumption | refine State.draw_keeps ?_ | refine raise_keeps ?_ | refine Keeps.ite (fun _ => ?_) (fun _ => ?_)
    | fail_if_no_progress refine Keeps.upd ?_ rfl rfl

theorem repairRows_keeps {s0 s : State} (hk : Keeps s0 s) : Keeps s0 (repairRows s) := by
  unfold repairRows
  dsimp only
  with_reducible repeat' first
    | assumption | refine raise_keeps ?_ | refine repairRow_keeps ?_
    | fail_if_no_progress refine Keeps.upd ?_ rfl rfl | refine Keeps.foldl _ ?_ (fun _ _ _ => ?_)

theorem hbmTrainingDone_keeps {s0 s : State} {ok0 ok1 : Bool} (hk : Keeps s0 s) :
    Keeps s0 (hbmTrainingDone s ok0 ok1) := by
  unfold hbmTrainingDone
  dsimp only
  with_reducible repeat' first
    | assumption | refine raise_keeps ?_ | refine repairRows_keeps ?_ | refine Keeps.ite (fun _ => ?_) (fun _ => ?_)
    | fail_if_no_progress refine Keeps.upd ?_ rfl rfl

theorem openMailbox_keeps {s0 s : State} (hk : Keeps s0 s) : Keeps s0 (openMailbox s) := by
  unfold openMailbox
  dsimp only
  with_reducible repeat' first
    | assumption | refine State.drawNz_keeps ?_ | fail_if_no_progress refine Keeps.upd ?_ rfl rfl

theorem advertise_keeps {s0 s : State} {lp : Nat} (hk : Keeps s0 s) : Keeps s0 (advertise s lp) := by
  unfold advertise
  with_reducible repeat' first | assumption | refine emit_keeps ?_ | refine Keeps.ite (fun _ => ?_) (fun _ => ?_)

theorem coreImagesReady_keeps {s0 s : State} (hk : Keeps s0 s) : Keeps s0 (coreImagesReady s) := by
  unfold coreImagesReady
  dsimp only
  with_reducible repeat' first
    | assumption | refine extendMr_keeps ?_ | refine openMailbox_keeps ?_ | refine advertise_keeps ?_
    | refine Keeps.ite (fun _ => ?_) (fun _ => ?_) | fail_if_no_progress refine Keeps.upd ?_ rfl rfl
    | refine Keeps.foldl _ ?_ (fun _ _ _ => ?_) | split

theorem bootReport_keeps {s0 s : State} (hk : Keeps s0 s) : Keeps s0 (bootReport s) := by
  unfold bootReport
  dsimp only
  with_reducible repeat' first | assumption | refine raise_keeps ?_ | refine Keeps.ite (fun _ => ?_) (fun _ => ?_)

theorem refuseConfig_keeps {s0 s : State} {reason : Nat} {f : Option CfgFail} (hk : Keeps s0 s) :
    Keeps s0 (refuseConfig s reason f) := by
  unfold refuseConfig
  dsimp only
  with_reducible repeat' first | assumption | refine raise_keeps ?_ | fail_if_no_progress refine Keeps.upd ?_ rfl rfl

theorem storedDecision_keeps {s0 s : State} {imageSig : Bool} (hk : Keeps s0 s) :
    Keeps s0 (storedDecision s imageSig) := by
  unfold storedDecision
  try dsimp only
  with_reducible repeat' first
    | assumption | refine commitAt_keeps ?_ | refine checkRecord_keeps ?_ | refine bootReport_keeps ?_
    | refine refuseConfig_keeps ?_ | refine Keeps.ite (fun _ => ?_) (fun _ => ?_)
    | fail_if_no_progress refine Keeps.upd ?_ rfl rfl | split

theorem failsWith_keeps {s0 s : State} {status detail : Nat} (hk : Keeps s0 s) :
    Keeps s0 (failsWith s status detail).st := by
  unfold failsWith
  dsimp only
  with_reducible repeat' first | assumption

theorem controlled_keeps {s0 : State} {sig : Bool} {h : State → Peer → Bytes → Res} {s : State} {r : Req}
    (hk : Keeps s0 s) (hf_h : ∀ z0 z1 z2, Keeps s0 z0 → Keeps s0 (h z0 z1 z2).st) :
    Keeps s0 (controlled sig h s r).st := by
  unfold controlled
  dsimp only
  with_reducible repeat' first
    | assumption | refine fails_keeps ?_ | refine failsWith_keeps ?_ | refine hf_h _ _ _ ?_
    | refine Keeps.iteSt (fun _ => ?_) (fun _ => ?_)

theorem bootStatusCmd_keeps {s0 s : State} {r : Req} (hk : Keeps s0 s) : Keeps s0 (bootStatusCmd s r).st := by
  unfold bootStatusCmd
  dsimp only
  with_reducible repeat' first
    | assumption | refine fails_keeps ?_ | refine gives_keeps ?_ | refine Keeps.iteSt (fun _ => ?_) (fun _ => ?_)

theorem fwWriteCmd_keeps {s0 : State} {flashOk : Bool} {s : State} {r : Req} (hk : Keeps s0 s) :
    Keeps s0 (fwWriteCmd flashOk s r).st := by
  unfold fwWriteCmd
  dsimp only
  with_reducible repeat' first
    | assumption | refine fails_keeps ?_ | refine failsAt_keeps ?_ | refine done_keeps ?_
    | refine flashWrite_keeps ?_ | refine flashErase_keeps ?_ | refine failsWith_keeps ?_
    | refine Keeps.ite (fun _ => ?_) (fun _ => ?_) | refine Keeps.iteSt (fun _ => ?_) (fun _ => ?_)
    | fail_if_no_progress refine Keeps.upd ?_ rfl rfl

theorem fwVerifyCmd_keeps {s0 : State} {sigs : SlotSigs} {s : State} {r : Req} (hk : Keeps s0 s) :
    Keeps s0 (fwVerifyCmd sigs s r).st := by
  unfold fwVerifyCmd
  dsimp only
  with_reducible repeat' first
    | assumption | refine fails_keeps ?_ | refine gives_keeps ?_ | refine setReason_keeps ?_
    | refine Keeps.iteSt (fun _ => ?_) (fun _ => ?_) | fail_if_no_progress refine Keeps.upd ?_ rfl rfl

theorem fwActivateBody_keeps {s0 : State} {flashOk : Bool} {s : State} {_p : Peer} {b : Bytes} (hk : Keeps s0 s) :
    Keeps s0 (fwActivateBody flashOk s _p b).st := by
  unfold fwActivateBody
  dsimp only
  with_reducible repeat' first
    | assumption | refine fails_keeps ?_ | refine failsAt_keeps ?_ | refine done_keeps ?_ | refine writeFlag_keeps ?_
    | refine changeAr_keeps ?_ | refine failsWith_keeps ?_ | refine Keeps.iteSt (fun _ => ?_) (fun _ => ?_)

theorem fwConfirmCmd_keeps {s0 : State} {flashOk : Bool} {s : State} {r : Req} (hk : Keeps s0 s) :
    Keeps s0 (fwConfirmCmd flashOk s r).st := by
  unfold fwConfirmCmd
  dsimp only
  with_reducible repeat' first
    | assumption | refine fails_keeps ?_ | refine done_keeps ?_ | refine writeFlag_keeps ?_
    | refine failsWith_keeps ?_ | refine Keeps.iteSt (fun _ => ?_) (fun _ => ?_)
    | fail_if_no_progress refine Keeps.upd ?_ rfl rfl | split

theorem minverBody_keeps {s0 : State} {flashOk : Bool} {s : State} {_p : Peer} {b : Bytes} (hk : Keeps s0 s) :
    Keeps s0 (minverBody flashOk s _p b).st := by
  unfold minverBody
  dsimp only
  with_reducible repeat' first
    | assumption | refine raise_keeps ?_ | refine fails_keeps ?_ | refine failsAt_keeps ?_ | refine done_keeps ?_
    | refine changeAr_keeps ?_ | refine failsWith_keeps ?_ | refine Keeps.iteSt (fun _ => ?_) (fun _ => ?_)

theorem revokeBody_keeps {s0 s : State} {ok flashOk : Bool} {a b : SlotSigs} {_p : Peer} {x : Bytes}
    (hk : Keeps s0 s) : Keeps s0 (revokeBody ok flashOk a b s _p x).st := by
  unfold revokeBody
  extract_lets pos signer n
  refine Keeps.iteSt (fun _ => failsWith_keeps hk) (fun _ => ?_)
  refine Keeps.iteSt (fun _ => failsWith_keeps hk) (fun _ => ?_)
  refine Keeps.iteSt (fun _ => fails_keeps hk) (fun _ => ?_)
  refine Keeps.iteSt (fun _ => failsWith_keeps hk) (fun _ => ?_)
  refine Keeps.iteSt (fun _ => fails_keeps hk) (fun _ => ?_)
  refine Keeps.iteSt (fun _ => failsWith_keeps hk) (fun _ => ?_)
  refine Keeps.iteSt (fun _ => failsWith_keeps hk) (fun _ => done_keeps (raise_keeps (changeAr_keeps ?_)))
  exact Keeps.updFuses hk (FusesKept.revoke _ _) rfl rfl

theorem ownerKeyBody_keeps {s0 : State} {flashOk : Bool} {s : State} {_p : Peer} {b : Bytes} (hk : Keeps s0 s) :
    Keeps s0 (ownerKeyBody flashOk s _p b).st := by
  unfold ownerKeyBody
  dsimp only
  with_reducible repeat' first
    | assumption | refine raise_keeps ?_ | refine fails_keeps ?_ | refine failsAt_keeps ?_ | refine done_keeps ?_
    | refine changeOwner_keeps ?_ | refine failsWith_keeps ?_ | refine Keeps.ite (fun _ => ?_) (fun _ => ?_)
    | refine Keeps.iteSt (fun _ => ?_) (fun _ => ?_) | fail_if_no_progress refine Keeps.upd ?_ rfl rfl

theorem ownerPolicyBody_keeps {s0 : State} {flashOk : Bool} {s : State} {_p : Peer} {b : Bytes} (hk : Keeps s0 s) :
    Keeps s0 (ownerPolicyBody flashOk s _p b).st := by
  unfold ownerPolicyBody
  with_reducible repeat' first
    | assumption | refine raise_keeps ?_ | refine fails_keeps ?_ | refine failsAt_keeps ?_ | refine done_keeps ?_
    | refine changeOwner_keeps ?_ | refine failsWith_keeps ?_ | refine Keeps.iteSt (fun _ => ?_) (fun _ => ?_)

theorem keyRootImportCmd_keeps {s0 : State} {sig : Bool} {s : State} {r : Req} (hk : Keeps s0 s) :
    Keeps s0 (keyRootImportCmd sig s r).st := by
  unfold keyRootImportCmd
  try dsimp only
  with_reducible repeat' first
    | assumption | refine State.drawBytes_keeps ?_ | refine fails_keeps ?_ | refine failsAt_keeps ?_
    | refine done_keeps ?_ | refine State.setSlot_keeps ?_ | refine extendMr_keeps ?_ | refine changeOwner_keeps ?_
    | refine failsWith_keeps ?_ | refine Keeps.ite (fun _ => ?_) (fun _ => ?_)
    | refine Keeps.iteSt (fun _ => ?_) (fun _ => ?_) | split

theorem clerkRestart_keeps {s0 s : State} {pc : Nat} (hk : Keeps s0 s) : Keeps s0 (clerkRestart s pc) := by
  unfold clerkRestart
  dsimp only
  with_reducible repeat' first
    | assumption | refine countErr_keeps ?_ | refine raise_keeps ?_ | refine abandonTest_keeps ?_
    | refine beginStore_keeps ?_ | refine Keeps.ite (fun _ => ?_) (fun _ => ?_)
    | fail_if_no_progress refine Keeps.upd ?_ rfl rfl | split

theorem lockstepMismatch_keeps {s0 s : State} {pc : Nat} (hk : Keeps s0 s) : Keeps s0 (lockstepMismatch s pc) := by
  unfold lockstepMismatch
  with_reducible repeat' first
    | assumption | refine countErr_keeps ?_ | refine deviceReset_keeps ?_ | refine halt_keeps ?_
    | refine clerkRestart_keeps ?_ | refine Keeps.ite (fun _ => ?_) (fun _ => ?_) | split

theorem touchStaging_keeps {s0 s : State} (hk : Keeps s0 s) : Keeps s0 (touchStaging s) := by
  unfold touchStaging
  dsimp only
  with_reducible repeat' first | assumption | fail_if_no_progress refine Keeps.upd ?_ rfl rfl

theorem cfgOpenCmd_keeps {s0 s : State} {r : Req} (hk : Keeps s0 s) : Keeps s0 (cfgOpenCmd s r).st := by
  unfold cfgOpenCmd
  dsimp only
  with_reducible repeat' first
    | assumption | refine State.drawNz_keeps ?_ | refine fails_keeps ?_ | refine failsAt_keeps ?_
    | refine gives_keeps ?_ | refine Keeps.iteSt (fun _ => ?_) (fun _ => ?_)
    | fail_if_no_progress refine Keeps.upd ?_ rfl rfl

theorem cfgWriteCmd_keeps {s0 s : State} {r : Req} (hk : Keeps s0 s) : Keeps s0 (cfgWriteCmd s r).st := by
  unfold cfgWriteCmd
  dsimp only
  with_reducible repeat' first
    | assumption | refine fails_keeps ?_ | refine failsAt_keeps ?_ | refine done_keeps ?_
    | refine touchStaging_keeps ?_ | refine Keeps.iteSt (fun _ => ?_) (fun _ => ?_)
    | fail_if_no_progress refine Keeps.upd ?_ rfl rfl | split

theorem cfgReadCmd_keeps {s0 s : State} {r : Req} (hk : Keeps s0 s) : Keeps s0 (cfgReadCmd s r).st := by
  unfold cfgReadCmd
  with_reducible repeat' first
    | assumption | refine fails_keeps ?_ | refine failsAt_keeps ?_ | refine gives_keeps ?_
    | refine touchStaging_keeps ?_ | refine Keeps.iteSt (fun _ => ?_) (fun _ => ?_) | split

theorem cfgDiscardCmd_keeps {s0 s : State} {r : Req} (hk : Keeps s0 s) : Keeps s0 (cfgDiscardCmd s r).st := by
  unfold cfgDiscardCmd
  dsimp only
  with_reducible repeat' first
    | assumption | refine fails_keeps ?_ | refine failsAt_keeps ?_ | refine done_keeps ?_
    | refine Keeps.iteSt (fun _ => ?_) (fun _ => ?_) | fail_if_no_progress refine Keeps.upd ?_ rfl rfl

theorem cfgStatusCmd_keeps {s0 s : State} {r : Req} (hk : Keeps s0 s) : Keeps s0 (cfgStatusCmd s r).st := by
  unfold cfgStatusCmd
  with_reducible repeat' first
    | assumption | refine fails_keeps ?_ | refine gives_keeps ?_ | refine Keeps.iteSt (fun _ => ?_) (fun _ => ?_)

theorem commitFails_keeps {s0 s : State} {status detail arg : Nat} {key : Option Nat} (hk : Keeps s0 s) :
    Keeps s0 (commitFails s status detail arg key).st := by
  unfold commitFails
  dsimp only
  with_reducible repeat' first | assumption | refine countErr_keeps ?_

theorem cfgCommitCmd_keeps {s0 s : State} {r : Req} (hk : Keeps s0 s) : Keeps s0 (cfgCommitCmd s r).st := by
  unfold cfgCommitCmd
  dsimp only
  with_reducible repeat' first
    | assumption | refine gives_keeps ?_ | refine commitAt_keeps ?_ | refine storeCommit_keeps ?_
    | refine touchStaging_keeps ?_ | refine commitFails_keeps ?_ | refine Keeps.iteSt (fun _ => ?_) (fun _ => ?_)
    | fail_if_no_progress refine Keeps.upd ?_ rfl rfl | split

theorem cfgRecallCmd_keeps {s0 : State} {sig : Bool} {s : State} {r : Req} (hk : Keeps s0 s) :
    Keeps s0 (cfgRecallCmd sig s r).st := by
  unfold cfgRecallCmd
  try dsimp only
  with_reducible repeat' first
    | assumption | refine gives_keeps ?_ | refine commitAt_keeps ?_ | refine beginStore_keeps ?_
    | refine checkRecord_keeps ?_ | refine commitFails_keeps ?_ | refine Keeps.ite (fun _ => ?_) (fun _ => ?_)
    | refine Keeps.iteSt (fun _ => ?_) (fun _ => ?_) | fail_if_no_progress refine Keeps.upd ?_ rfl rfl | split

theorem tallyPeersCmd_keeps {s0 s : State} {r : Req} (hk : Keeps s0 s) : Keeps s0 (tallyPeersCmd s r).st := by
  unfold tallyPeersCmd
  with_reducible repeat' first
    | assumption | refine fails_keeps ?_ | refine gives_keeps ?_ | refine Keeps.iteSt (fun _ => ?_) (fun _ => ?_)

theorem devInfoCmd_keeps {s0 s : State} {r : Req} (hk : Keeps s0 s) : Keeps s0 (devInfoCmd s r).st := by
  unfold devInfoCmd
  with_reducible repeat' first
    | assumption | refine fails_keeps ?_ | refine gives_keeps ?_ | refine Keeps.iteSt (fun _ => ?_) (fun _ => ?_)

theorem evtSubscribeCmd_keeps {s0 s : State} {r : Req} (hk : Keeps s0 s) : Keeps s0 (evtSubscribeCmd s r).st := by
  unfold evtSubscribeCmd
  dsimp only
  with_reducible repeat' first
    | assumption | refine fails_keeps ?_ | refine failsAt_keeps ?_ | refine gives_keeps ?_
    | refine Keeps.iteSt (fun _ => ?_) (fun _ => ?_) | fail_if_no_progress refine Keeps.upd ?_ rfl rfl | split

theorem evtUnsubscribeCmd_keeps {s0 s : State} {r : Req} (hk : Keeps s0 s) : Keeps s0 (evtUnsubscribeCmd s r).st := by
  unfold evtUnsubscribeCmd
  dsimp only
  with_reducible repeat' first
    | assumption | refine fails_keeps ?_ | refine failsAt_keeps ?_ | refine done_keeps ?_
    | refine Keeps.iteSt (fun _ => ?_) (fun _ => ?_) | fail_if_no_progress refine Keeps.upd ?_ rfl rfl

theorem evtReadCmd_keeps {s0 s : State} {r : Req} (hk : Keeps s0 s) : Keeps s0 (evtReadCmd s r).st := by
  unfold evtReadCmd
  dsimp only
  with_reducible repeat' first
    | assumption | refine fails_keeps ?_ | refine gives_keeps ?_ | refine Keeps.iteSt (fun _ => ?_) (fun _ => ?_)

theorem eventRetry_keeps {s0 s : State} {n : Nat} (hk : Keeps s0 s) : Keeps s0 (eventRetry s n) := by
  unfold eventRetry
  dsimp only
  with_reducible repeat' first
    | assumption | refine submit_keeps ?_ | refine Keeps.ite (fun _ => ?_) (fun _ => ?_)
    | fail_if_no_progress refine Keeps.upd ?_ rfl rfl | split

theorem setRef_keeps {s0 s : State} {n : Nat} {b : Bool} (hk : Keeps s0 s) : Keeps s0 (setRef s n b) := by
  unfold setRef
  dsimp only
  with_reducible repeat' first
    | assumption | refine Keeps.ite (fun _ => ?_) (fun _ => ?_) | fail_if_no_progress refine Keeps.upd ?_ rfl rfl

theorem refLost_keeps {s0 s : State} {n : Nat} (hk : Keeps s0 s) : Keeps s0 (refLost s n) := by
  unfold refLost
  dsimp only
  with_reducible repeat' first
    | assumption | refine countErr_keeps ?_ | refine raise_keeps ?_ | refine driveFails_keeps ?_
    | refine declareDown_keeps ?_ | refine setRef_keeps ?_ | refine Keeps.ite (fun _ => ?_) (fun _ => ?_)
    | refine Keeps.foldl _ ?_ (fun _ _ _ => ?_)

theorem clkFail_keeps {s0 s : State} {n : Nat} (hk : Keeps s0 s) : Keeps s0 (clkFail s n) := by
  unfold clkFail
  dsimp only
  with_reducible repeat' first
    | assumption | refine raise_keeps ?_ | refine holdOutputs_keeps ?_ | refine Keeps.ite (fun _ => ?_) (fun _ => ?_)
    | fail_if_no_progress refine Keeps.upd ?_ rfl rfl

theorem answered_keeps {s0 s : State} {found : State → Pkt → Bool} {f : State → Pkt → State} {p : Pkt} {eid : Nat} {e : Endpoint}
    (hk : Keeps s0 s) (hf_f : ∀ z0 z1, Keeps s0 z0 → Keeps s0 (f z0 z1)) : Keeps s0 (answered found f s p eid e) := by
  unfold answered
  try dsimp only
  with_reducible repeat' first
    | assumption | refine genStale_keeps ?_ | refine unmatched_keeps ?_ | refine hf_f _ _ ?_
    | refine Keeps.ite (fun _ => ?_) (fun _ => ?_) | split

theorem avsAdjust_keeps {s0 s : State} {want measured : Nat} {answered : Bool} {regStatus : Nat} (hk : Keeps s0 s) :
    Keeps s0 (avsAdjust s want measured answered regStatus) := by
  unfold avsAdjust
  dsimp only
  with_reducible repeat' first
    | assumption | refine countErr_keeps ?_ | refine raise_keeps ?_ | refine Keeps.ite (fun _ => ?_) (fun _ => ?_)
    | fail_if_no_progress refine Keeps.upd ?_ rfl rfl

theorem tbReadCmd_keeps {s0 s : State} {r : Req} (hk : Keeps s0 s) : Keeps s0 (tbReadCmd s r).st := by
  unfold tbReadCmd
  with_reducible repeat' first
    | assumption | refine fails_keeps ?_ | refine gives_keeps ?_ | refine Keeps.iteSt (fun _ => ?_) (fun _ => ?_)

theorem stepTime_keeps {s0 s : State} {ns : Nat} (hk : Keeps s0 s) : Keeps s0 (stepTime s ns) := by
  unfold stepTime
  dsimp only
  with_reducible repeat' first
    | assumption | refine countStat_keeps ?_ | refine raise_keeps ?_ | refine refreshGates_keeps ?_
    | refine takeBell_keeps ?_ | refine unblock_keeps ?_ | refine Keeps.ite (fun _ => ?_) (fun _ => ?_)
    | fail_if_no_progress refine Keeps.upd ?_ rfl rfl | refine Keeps.foldl _ ?_ (fun _ _ _ => ?_)

theorem tbSetCmd_keeps {s0 s : State} {r : Req} (hk : Keeps s0 s) : Keeps s0 (tbSetCmd s r).st := by
  unfold tbSetCmd
  dsimp only
  with_reducible repeat' first
    | assumption | refine fails_keeps ?_ | refine failsAt_keeps ?_ | refine gives_keeps ?_ | refine stepTime_keeps ?_
    | refine Keeps.iteSt (fun _ => ?_) (fun _ => ?_)

theorem tbRateCmd_keeps {s0 s : State} {r : Req} (hk : Keeps s0 s) : Keeps s0 (tbRateCmd s r).st := by
  unfold tbRateCmd
  dsimp only
  with_reducible repeat' first
    | assumption | refine fails_keeps ?_ | refine failsAt_keeps ?_ | refine done_keeps ?_
    | refine Keeps.iteSt (fun _ => ?_) (fun _ => ?_) | fail_if_no_progress refine Keeps.upd ?_ rfl rfl

theorem tbSlewCmd_keeps {s0 s : State} {r : Req} (hk : Keeps s0 s) : Keeps s0 (tbSlewCmd s r).st := by
  unfold tbSlewCmd
  dsimp only
  with_reducible repeat' first
    | assumption | refine fails_keeps ?_ | refine failsAt_keeps ?_ | refine done_keeps ?_
    | refine Keeps.iteSt (fun _ => ?_) (fun _ => ?_) | fail_if_no_progress refine Keeps.upd ?_ rfl rfl

theorem ppsOutRise_keeps {s0 s : State} (hk : Keeps s0 s) : Keeps s0 (ppsOutRise s) := by
  unfold ppsOutRise
  with_reducible repeat' first
    | assumption | refine Keeps.ite (fun _ => ?_) (fun _ => ?_) | fail_if_no_progress refine Keeps.upd ?_ rfl rfl
    | split

theorem putToSleep_keeps {s0 s : State} {b : Nat} {g : Gate} (hk : Keeps s0 s) : Keeps s0 (putToSleep s b g) := by
  unfold putToSleep
  dsimp only
  with_reducible repeat' first
    | assumption | refine State.onDrive_keeps ?_ | refine Keeps.ite (fun _ => ?_) (fun _ => ?_)
    | fail_if_no_progress refine Keeps.upd ?_ rfl rfl

theorem wakeBlock_keeps {s0 s : State} {b : Nat} (hk : Keeps s0 s) : Keeps s0 (wakeBlock s b) := by
  unfold wakeBlock
  dsimp only
  with_reducible repeat' first
    | assumption | refine releaseDrive_keeps ?_ | refine Keeps.ite (fun _ => ?_) (fun _ => ?_)
    | fail_if_no_progress refine Keeps.upd ?_ rfl rfl

theorem clkGateCmd_keeps {s0 s : State} {r : Req} (hk : Keeps s0 s) : Keeps s0 (clkGateCmd s r).st := by
  unfold clkGateCmd
  dsimp only
  with_reducible repeat' first
    | assumption | refine fails_keeps ?_ | refine failsAt_keeps ?_ | refine done_keeps ?_
    | refine abandonTest_keeps ?_ | refine putToSleep_keeps ?_ | refine wakeBlock_keeps ?_
    | refine Keeps.ite (fun _ => ?_) (fun _ => ?_) | refine Keeps.iteSt (fun _ => ?_) (fun _ => ?_)

theorem pwrStatusCmd_keeps {s0 s : State} {r : Req} (hk : Keeps s0 s) : Keeps s0 (pwrStatusCmd s r).st := by
  unfold pwrStatusCmd
  with_reducible repeat' first
    | assumption | refine fails_keeps ?_ | refine gives_keeps ?_ | refine Keeps.iteSt (fun _ => ?_) (fun _ => ?_)

theorem loadIr_keeps {s0 s : State} {opcode : Byte} (hk : Keeps s0 s) : Keeps s0 (loadIr s opcode) := by
  unfold loadIr
  dsimp only
  with_reducible repeat' first | assumption | fail_if_no_progress refine Keeps.upd ?_ rfl rfl

theorem exlatSnap_keeps {s0 s : State} {lp : Nat} (hk : Keeps s0 s) : Keeps s0 (exlatSnap s lp) := by
  unfold exlatSnap
  dsimp only
  with_reducible repeat' first | assumption | refine snapRange_keeps ?_ | refine State.onLp_keeps ?_

theorem exlatClear_keeps {s0 s : State} {lp : Nat} (hk : Keeps s0 s) : Keeps s0 (exlatClear s lp) := by
  unfold exlatClear
  dsimp only
  with_reducible repeat' first | assumption | refine clearRange_keeps ?_ | refine State.onLp_keeps ?_

theorem snapBlock_keeps {s0 s : State} {b : Block} (hk : Keeps s0 s) : Keeps s0 (snapBlock s b) := by
  unfold snapBlock
  with_reducible repeat' first
    | assumption | refine snapRange_keeps ?_ | refine State.onTbl_keeps ?_ | refine exlatSnap_keeps ?_
    | refine Keeps.foldl _ ?_ (fun _ _ _ => ?_) | split

theorem clearBlock_keeps {s0 s : State} {b : Block} (hk : Keeps s0 s) : Keeps s0 (clearBlock s b) := by
  unfold clearBlock
  with_reducible repeat' first
    | assumption | refine clearRange_keeps ?_ | refine Keeps.foldl _ ?_ (fun _ _ _ => ?_) | split

theorem writeSpecial_keeps {s0 s : State} {b : Block} {o v : Nat} (hk : Keeps s0 s) :
    Keeps s0 (writeSpecial s b o v) := by
  unfold writeSpecial
  dsimp only
  with_reducible repeat' first
    | assumption | refine State.onLp_keeps ?_ | refine State.onTbl_keeps ?_ | refine exlatClear_keeps ?_
    | refine Keeps.ite (fun _ => ?_) (fun _ => ?_) | fail_if_no_progress refine Keeps.upd ?_ rfl rfl | split

theorem writeWord_keeps {s0 s : State} {b : Block} {o v : Nat} (hk : Keeps s0 s) : Keeps s0 (writeWord s b o v) := by
  unfold writeWord
  with_reducible repeat' first
    | assumption | refine clearFlags_keeps ?_ | refine snapBlock_keeps ?_ | refine clearBlock_keeps ?_
    | refine writeSpecial_keeps ?_ | refine Keeps.ite (fun _ => ?_) (fun _ => ?_)

theorem writeReg_keeps {s0 s : State} {a v : Nat} (hk : Keeps s0 s) : Keeps s0 (writeReg s a v) := by
  unfold writeReg
  with_reducible repeat' first
    | assumption | refine writeWord_keeps ?_ | refine Keeps.ite (fun _ => ?_) (fun _ => ?_) | split

theorem regReadCmd_keeps {s0 s : State} {r : Req} (hk : Keeps s0 s) : Keeps s0 (regReadCmd s r).st := by
  unfold regReadCmd
  with_reducible repeat' first
    | assumption | refine fails_keeps ?_ | refine failsAt_keeps ?_ | refine gives_keeps ?_
    | refine Keeps.iteSt (fun _ => ?_) (fun _ => ?_) | split

theorem regWriteCmd_keeps {s0 s : State} {r : Req} (hk : Keeps s0 s) : Keeps s0 (regWriteCmd s r).st := by
  unfold regWriteCmd
  with_reducible repeat' first
    | assumption | refine fails_keeps ?_ | refine failsAt_keeps ?_ | refine done_keeps ?_ | refine writeWord_keeps ?_
    | refine Keeps.iteSt (fun _ => ?_) (fun _ => ?_) | refine Keeps.foldl _ ?_ (fun _ _ _ => ?_) | split

theorem tick_keeps {s0 s : State} (hk : Keeps s0 s) : Keeps s0 (tick s) := by
  unfold tick
  with_reducible repeat' first | assumption | refine State.advance_keeps ?_

end Sys2Proof.Machine
end

