-- ==== Sys2Proof/Laws/KeepsCommands.lean ====
section
/-! SUPPORT. Every command. Every operation keeps the queue, the fuses and the form of the memories. -/

namespace Sys2Proof.Machine

/-- A timed row (R398). -/
theorem act_keeps {s u : State} {t : Nat} {f : State → State} (e : act t s f = .next u) (hf : ∀ x, Keeps s x → Keeps s (f x)) :
    Keeps s u := by
  cases e
  exact settle_keeps (hf _ (State.advance_keeps (Keeps.refl s)))

/-- A mailbox command (R333 to R338). -/
theorem serve_keeps {s u : State} {t code : Nat} {r : Req} {h : State → Req → Res} (e : serve t r code h s = .next u)
    (hf : ∀ x r, Keeps s x → Keeps s (h x r).st) : Keeps s u :=
  act_keeps e (fun _ hx => serveCmd_keeps hx hf (fun _ _ h => h))

/-- An instruction (R254). -/
theorem issue_keeps {s u : State} {i : Tid} {f : State → State} (e : issue i f s = .next u)
    (hf : ∀ x, Keeps s x → Keeps s (f x)) : Keeps s u := by
  cases e
  exact Keeps.ite (fun _ => runOne_keeps (noteIssue_keeps (Keeps.refl s)) hf) (fun _ => Keeps.refl s)

/-- An instruction that leaves its core (R429). -/
theorem issueOut_keeps {s u : State} {i : Tid} {f g : State → State} (e : issueOut i f g s = .next u)
    (hf : ∀ x, Keeps s x → Keeps s (f x)) (hg : Keeps s (g s)) : Keeps s u := by
  unfold issueOut at e
  split at e
  · cases e; exact hg
  · exact issue_keeps e hf

/-- A storage submission taken (R194). -/
theorem takeRow_keeps {s u : State} {t : Nat} {tf : BitVec 12} {q : Fin 64} {p : Bytes → Bool}
    (e : takeRow t tf q p s = .next u) : Keeps s u :=
  act_keeps e (fun _ hx => Keeps.ite (fun _ => takeSub_keeps hx) (fun _ => hx))

/-- A write of one register (R5). -/
theorem regRow_keeps {s u : State} {a : Nat} {v : Word32} (e : regRow s a v = .next u) : Keeps s u := by
  cases e
  exact writeReg_keeps (Keeps.refl s)

theorem execStoFlush_keeps {t : Nat} {tf : BitVec 12} {q : Fin 64} {s u : State}
    (e : execStoFlush t tf q s = .next u) : Keeps s u :=
  takeRow_keeps e

theorem execStoWrite_keeps {t : Nat} {tf : BitVec 12} {q : Fin 64} {s u : State}
    (e : execStoWrite t tf q s = .next u) : Keeps s u :=
  takeRow_keeps e

theorem execStoRead_keeps {t : Nat} {tf : BitVec 12} {q : Fin 64} {s u : State} (e : execStoRead t tf q s = .next u) :
    Keeps s u :=
  takeRow_keeps e

theorem execStoWriteZeroes_keeps {t : Nat} {tf : BitVec 12} {q : Fin 64} {s u : State}
    (e : execStoWriteZeroes t tf q s = .next u) : Keeps s u :=
  takeRow_keeps e

theorem execStoDeallocate_keeps {t : Nat} {tf : BitVec 12} {q : Fin 64} {s u : State}
    (e : execStoDeallocate t tf q s = .next u) : Keeps s u :=
  takeRow_keeps e

theorem execStoLog_keeps {t : Nat} {tf : BitVec 12} {q : Fin 64} {s u : State} (e : execStoLog t tf q s = .next u) :
    Keeps s u :=
  takeRow_keeps e

theorem execStoRestartResume_keeps {t : Nat} {tf : BitVec 12} {q : Fin 64} {s u : State}
    (e : execStoRestartResume t tf q s = .next u) : Keeps s u :=
  takeRow_keeps e

theorem execStoRestartDiscard_keeps {t : Nat} {tf : BitVec 12} {q : Fin 64} {s u : State}
    (e : execStoRestartDiscard t tf q s = .next u) : Keeps s u :=
  takeRow_keeps e

theorem execStoDispatch_keeps {t : Nat} {s u : State} (e : execStoDispatch t s = .next u) : Keeps s u := by
  unfold execStoDispatch at e
  refine act_keeps e (fun x hx => ?_)
  with_reducible repeat' first | assumption | refine stoDispatch_keeps ?_ | refine Keeps.ite (fun _ => ?_) (fun _ => ?_)

theorem execNvmeCompletion_keeps {t : Nat} {rp : Fin 16} {d : NvmeDone} {s u : State}
    (e : execNvmeCompletion t rp d s = .next u) : Keeps s u := by
  unfold execNvmeCompletion at e
  refine act_keeps e (fun x hx => ?_)
  with_reducible repeat' first | assumption | refine nvmeComplete_keeps ?_

theorem execCoalesceTimeout_keeps {t : Nat} {tf : BitVec 12} {q : Fin 64} {s u : State}
    (e : execCoalesceTimeout t tf q s = .next u) : Keeps s u := by
  unfold execCoalesceTimeout at e
  refine act_keeps e (fun x hx => ?_)
  with_reducible repeat' first
    | assumption | refine sendCoal_keeps ?_ | refine Keeps.ite (fun _ => ?_) (fun _ => ?_) | split

theorem execJournalCheckpoint_keeps {t : Nat} {j : Fin 16} {s u : State} (e : execJournalCheckpoint t j s = .next u) :
    Keeps s u := by
  unfold execJournalCheckpoint at e
  refine act_keeps e (fun x hx => ?_)
  dsimp only
  with_reducible repeat' first
    | assumption | refine checkpoint_keeps ?_ | refine pumpWaiters_keeps ?_
    | refine Keeps.ite (fun _ => ?_) (fun _ => ?_)

theorem execDriveTimeout_keeps {t : Nat} {rp : Fin 16} {cid : Nat} {s u : State}
    (e : execDriveTimeout t rp cid s = .next u) : Keeps s u := by
  unfold execDriveTimeout at e
  refine act_keeps e (fun x hx => ?_)
  with_reducible repeat' first
    | assumption | refine countErr_keeps ?_ | refine State.onDrive_keeps ?_
    | refine Keeps.ite (fun _ => ?_) (fun _ => ?_) | split

theorem execAbortTimeout_keeps {t : Nat} {rp : Fin 16} {s u : State} (e : execAbortTimeout t rp s = .next u) :
    Keeps s u := by
  unfold execAbortTimeout at e
  refine act_keeps e (fun x hx => ?_)
  with_reducible repeat' first | assumption | refine resetDrive_keeps ?_ | refine Keeps.ite (fun _ => ?_) (fun _ => ?_)

theorem execDriveFailure_keeps {t : Nat} {rp : Fin 16} {how : DriveLoss} {s u : State}
    (e : execDriveFailure t rp how s = .next u) : Keeps s u := by
  unfold execDriveFailure at e
  refine act_keeps e (fun x hx => ?_)
  with_reducible repeat' first | assumption | refine driveFails_keeps ?_ | refine Keeps.ite (fun _ => ?_) (fun _ => ?_)

theorem execDriveLinkUp_keeps {t : Nat} {rp : Fin 16} {s u : State}
    (e : execDriveLinkUp t rp s = .next u) : Keeps s u := by
  unfold execDriveLinkUp at e
  refine act_keeps e (fun x hx => ?_)
  try dsimp only
  with_reducible repeat' first
    | assumption | refine State.onDrive_keeps ?_ | refine startStep_keeps ?_ | refine act_keeps ?_
    | refine Keeps.ite (fun _ => ?_) (fun _ => ?_) | fail_if_no_progress refine Keeps.upd ?_ rfl rfl | split

theorem execDriveLinkRetry_keeps {t : Nat} {rp : Fin 16} {s u : State} (e : execDriveLinkRetry t rp s = .next u) :
    Keeps s u := by
  unfold execDriveLinkRetry at e
  refine act_keeps e (fun x hx => ?_)
  with_reducible repeat' first
    | assumption | refine State.onDrive_keeps ?_ | refine Keeps.ite (fun _ => ?_) (fun _ => ?_)

theorem execDriveAdminCompletion_keeps {t : Nat} {rp : Fin 16} {done : AdminDone} {s u : State}
    (e : execDriveAdminCompletion t rp done s = .next u) : Keeps s u := by
  unfold execDriveAdminCompletion at e
  refine act_keeps e (fun x hx => ?_)
  with_reducible repeat' first | assumption | refine driveAdmin_keeps ?_

theorem execSelftestIdleStart_keeps {t : Nat} {rp : Fin 16} {s u : State}
    (e : execSelftestIdleStart t rp s = .next u) : Keeps s u := by
  unfold execSelftestIdleStart at e
  refine act_keeps e (fun x hx => ?_)
  dsimp only
  with_reducible repeat' first
    | assumption | refine startTest_keeps ?_ | refine Keeps.ite (fun _ => ?_) (fun _ => ?_) | split

theorem execSelftestTimeout_keeps {t : Nat} {rp : Fin 16} {s u : State}
    (e : execSelftestTimeout t rp s = .next u) : Keeps s u := by
  unfold execSelftestTimeout at e
  refine act_keeps e (fun x hx => ?_)
  try dsimp only
  with_reducible repeat' first
    | assumption | refine raise_keeps ?_ | refine State.onDrive_keeps ?_ | refine testAborted_keeps ?_
    | refine act_keeps ?_ | refine Keeps.ite (fun _ => ?_) (fun _ => ?_)
    | fail_if_no_progress refine Keeps.upd ?_ rfl rfl | split

theorem execSelftestResult_keeps {t : Nat} {rp : Fin 16} {result : Nat} {s u : State}
    (e : execSelftestResult t rp result s = .next u) : Keeps s u := by
  unfold execSelftestResult at e
  refine act_keeps e (fun x hx => ?_)
  with_reducible repeat' first | assumption | refine testEnds_keeps ?_

theorem execSelftestOverdue_keeps {t : Nat} {rp : Fin 16} {s u : State} (e : execSelftestOverdue t rp s = .next u) :
    Keeps s u := by
  unfold execSelftestOverdue at e
  refine act_keeps e (fun x hx => ?_)
  dsimp only
  with_reducible repeat' first
    | assumption | refine raise_keeps ?_ | refine State.onDrive_keeps ?_
    | refine Keeps.ite (fun _ => ?_) (fun _ => ?_)

theorem execDriveFwDone_keeps {t : Nat} {rp : Fin 16} {accepted : Bool} {s u : State}
    (e : execDriveFwDone t rp accepted s = .next u) : Keeps s u := by
  unfold execDriveFwDone at e
  refine act_keeps e (fun x hx => ?_)
  with_reducible repeat' first
    | assumption | refine raise_keeps ?_ | refine State.onDrive_keeps ?_
    | refine Keeps.ite (fun _ => ?_) (fun _ => ?_)

theorem execReplayDone_keeps {t : Nat} {j : Fin 16} {s u : State} (e : execReplayDone t j s = .next u) :
    Keeps s u := by
  unfold execReplayDone at e
  refine act_keeps e (fun x hx => ?_)
  with_reducible repeat' first
    | assumption | refine replayEnd_keeps ?_ | refine Keeps.ite (fun _ => ?_) (fun _ => ?_) | split

theorem execMbxRequest_keeps {t : Nat} {p : Peer} {b : Bytes} {s u : State} (e : execMbxRequest t p b s = .next u) :
    Keeps s u := by
  unfold execMbxRequest at e
  refine act_keeps e (fun x hx => ?_)
  dsimp only
  with_reducible repeat' first
    | assumption | refine mbxArrive_keeps ?_ | refine Keeps.ite (fun _ => ?_) (fun _ => ?_)
    | fail_if_no_progress refine Keeps.upd ?_ rfl rfl | split

theorem execReplay_keeps {t : Nat} {r : Req} {s u : State}
    (e : execReplay t r s = .next u) : Keeps s u := by
  unfold execReplay at e
  refine act_keeps e (fun x hx => ?_)
  try dsimp only
  with_reducible repeat' first
    | assumption | refine sendRsp_keeps ?_ | refine answerStatus_keeps ?_ | refine freeMbxSlot_keeps ?_
    | refine KeepsOpt.get1 ‹_› ?_ | refine KeepsOpt.get1p ‹_› ?_ | refine takeReq_keeps ?_
    | refine timeOutHead_keeps ?_ | refine act_keeps ?_ | refine Keeps.ite (fun _ => ?_) (fun _ => ?_)
    | fail_if_no_progress refine Keeps.upd ?_ rfl rfl | split

theorem execResultPart_keeps {t : Nat} {r : Req} {s u : State}
    (e : execResultPart t r s = .next u) : Keeps s u := by
  unfold execResultPart at e
  refine act_keeps e (fun x hx => ?_)
  try dsimp only
  with_reducible repeat' first
    | assumption | refine freeMbxSlot_keeps ?_ | refine KeepsOpt.get1 ‹_› ?_ | refine KeepsOpt.get1p ‹_› ?_
    | refine takeReq_keeps ?_ | refine timeOutHead_keeps ?_ | refine resultPart_keeps ?_ | refine act_keeps ?_
    | refine Keeps.ite (fun _ => ?_) (fun _ => ?_) | fail_if_no_progress refine Keeps.upd ?_ rfl rfl | split

theorem execCmdTimeout_keeps {t : Nat} {s u : State}
    (e : execCmdTimeout t s = .next u) : Keeps s u := by
  unfold execCmdTimeout at e
  refine act_keeps e (fun x hx => ?_)
  try dsimp only
  with_reducible repeat' first
    | assumption | refine timeOutHead_keeps ?_ | refine act_keeps ?_ | refine Keeps.ite (fun _ => ?_) (fun _ => ?_)
    | fail_if_no_progress refine Keeps.upd ?_ rfl rfl | split

theorem execCaptureRelease_keeps {t id : Nat} {s u : State} (e : execCaptureRelease t id s = .next u) :
    Keeps s u := by
  unfold execCaptureRelease at e
  refine act_keeps e (fun x hx => ?_)
  dsimp only
  with_reducible repeat' first
    | assumption | refine Keeps.ite (fun _ => ?_) (fun _ => ?_) | fail_if_no_progress refine Keeps.upd ?_ rfl rfl
    | split

theorem execGo_keeps {t : Nat} {s u : State} (e : execGo t s = .next u) : Keeps s u := by
  unfold execGo at e
  refine act_keeps e (fun x hx => ?_)
  dsimp only
  with_reducible repeat' first
    | assumption | refine queueReq_keeps ?_ | refine Keeps.ite (fun _ => ?_) (fun _ => ?_)
    | fail_if_no_progress refine Keeps.upd ?_ rfl rfl

theorem execCancel_keeps {t : Nat} {s u : State} (e : execCancel t s = .next u) : Keeps s u := by
  unfold execCancel at e
  refine act_keeps e (fun x hx => ?_)
  dsimp only
  with_reducible repeat' first | assumption | fail_if_no_progress refine Keeps.upd ?_ rfl rfl

theorem execRspAck_keeps {t : Nat} {s u : State} (e : execRspAck t s = .next u) : Keeps s u := by
  unfold execRspAck at e
  refine act_keeps e (fun x hx => ?_)
  dsimp only
  with_reducible repeat' first | assumption | fail_if_no_progress refine Keeps.upd ?_ rfl rfl

theorem execEvtAck_keeps {t : Nat} {s u : State} (e : execEvtAck t s = .next u) : Keeps s u := by
  unfold execEvtAck at e
  refine act_keeps e (fun x hx => ?_)
  dsimp only
  with_reducible repeat' first | assumption | fail_if_no_progress refine Keeps.upd ?_ rfl rfl | split

theorem execSbDataWrite_keeps {t : Nat} {b : SbByte} {s u : State}
    (e : execSbDataWrite t b s = .next u) : Keeps s u := by
  unfold execSbDataWrite at e
  refine act_keeps e (fun x hx => ?_)
  try dsimp only
  with_reducible repeat' first
    | assumption | refine act_keeps ?_ | refine Keeps.ite (fun _ => ?_) (fun _ => ?_)
    | fail_if_no_progress refine Keeps.upd ?_ rfl rfl | split

theorem execSbDataRead_keeps {r : SbRead} {s u : State}
    (e : execSbDataRead r s = .next u) : Keeps s u := by
  unfold execSbDataRead at e
  refine act_keeps e (fun x hx => ?_)
  try dsimp only
  with_reducible repeat' first
    | assumption | refine act_keeps ?_ | fail_if_no_progress refine Keeps.upd ?_ rfl rfl | split

theorem execEntdaa_keeps {t : Nat} {a : BitVec 7} {s u : State} (e : execEntdaa t a s = .next u) : Keeps s u := by
  unfold execEntdaa at e
  refine act_keeps e (fun x hx => ?_)
  dsimp only
  with_reducible repeat' first | assumption | fail_if_no_progress refine Keeps.upd ?_ rfl rfl

theorem execSetdasa_keeps {t : Nat} {a : BitVec 7} {s u : State} (e : execSetdasa t a s = .next u) : Keeps s u := by
  unfold execSetdasa at e
  refine act_keeps e (fun x hx => ?_)
  dsimp only
  with_reducible repeat' first | assumption | fail_if_no_progress refine Keeps.upd ?_ rfl rfl

theorem execData_keeps {t : Nat} {p : EhtRx} {s u : State} (e : execData t p s = .next u) : Keeps s u := by
  unfold execData at e
  refine act_keeps e (fun x hx => ?_)
  with_reducible repeat' first | assumption | refine receiveData_keeps ?_

theorem execAck_keeps {t : Nat} {p : EhtRx} {s u : State}
    (e : execAck t p s = .next u) : Keeps s u := by
  unfold execAck at e
  refine act_keeps e (fun x hx => ?_)
  with_reducible repeat' first
    | assumption | refine screen_keeps ?_ ?_ | refine answered_keeps ?_ ?_ | refine takeAck_keeps ?_ | (intro _; intros; try dsimp only)

theorem execCreditReq_keeps {t : Nat} {p : EhtRx} {s u : State} (e : execCreditReq t p s = .next u) : Keeps s u := by
  unfold execCreditReq at e
  refine act_keeps e (fun x hx => ?_)
  with_reducible repeat' first
    | assumption | refine screen_keeps ?_ ?_ | refine checked_keeps ?_ ?_ | refine serveCreditReq_keeps ?_
    | (intro _; intros; try dsimp only)

theorem execCreditGrant_keeps {t : Nat} {p : EhtRx} {s u : State}
    (e : execCreditGrant t p s = .next u) : Keeps s u := by
  unfold execCreditGrant at e
  refine act_keeps e (fun x hx => ?_)
  with_reducible repeat' first
    | assumption | refine screen_keeps ?_ ?_ | refine answered_keeps ?_ ?_ | refine takeGrant_keeps ?_ | (intro _; intros; try dsimp only)

theorem execTally_keeps {t : Nat} {p : EhtRx} {s u : State} (e : execTally t p s = .next u) : Keeps s u := by
  unfold execTally at e
  refine act_keeps e (fun x hx => ?_)
  with_reducible repeat' first
    | assumption | refine screen_keeps ?_ ?_ | refine checked_keeps ?_ ?_ | refine hearTally_keeps ?_
    | refine Keeps.ite (fun _ => ?_) (fun _ => ?_) | (intro _; intros; try dsimp only)

theorem execMoved_keeps {t : Nat} {p : EhtRx} {s u : State}
    (e : execMoved t p s = .next u) : Keeps s u := by
  unfold execMoved at e
  refine act_keeps e (fun x hx => ?_)
  with_reducible repeat' first
    | assumption | refine screen_keeps ?_ ?_ | refine answered_keeps ?_ ?_ | refine takeMoved_keeps ?_ | (intro _; intros; try dsimp only)

theorem execContextExpiry_keeps {t : Nat} {m : MsgKey} {s u : State} (e : execContextExpiry t m s = .next u) :
    Keeps s u := by
  unfold execContextExpiry at e
  refine act_keeps e (fun x hx => ?_)
  dsimp only
  with_reducible repeat' first
    | assumption | refine countErr_keeps ?_ | refine dropCtx_keeps ?_ | refine dropSlot_keeps ?_
    | refine Keeps.ite (fun _ => ?_) (fun _ => ?_) | fail_if_no_progress refine Keeps.upd ?_ rfl rfl | split

theorem execEpochAdvance_keeps {t : Nat} {s u : State} (e : execEpochAdvance t s = .next u) : Keeps s u := by
  unfold execEpochAdvance at e
  refine act_keeps e (fun x hx => ?_)
  dsimp only
  with_reducible repeat' first
    | assumption | refine Keeps.ite (fun _ => ?_) (fun _ => ?_) | fail_if_no_progress refine Keeps.upd ?_ rfl rfl

theorem execGrantExpiry_keeps {t : Nat} {g : Word16} {s u : State} (e : execGrantExpiry t g s = .next u) :
    Keeps s u := by
  unfold execGrantExpiry at e
  refine act_keeps e (fun x hx => ?_)
  dsimp only
  with_reducible repeat' first
    | assumption | refine Keeps.ite (fun _ => ?_) (fun _ => ?_) | fail_if_no_progress refine Keeps.upd ?_ rfl rfl
    | split

theorem execSenderGrantStop_keeps {t : Nat} {book : Word16} {s u : State}
    (e : execSenderGrantStop t book s = .next u) : Keeps s u := by
  unfold execSenderGrantStop at e
  refine act_keeps e (fun x hx => ?_)
  with_reducible repeat' first | assumption | refine State.onBook_keeps ?_

theorem execRtoExpiry_keeps {t m : Nat} {s u : State} (e : execRtoExpiry t m s = .next u) : Keeps s u := by
  unfold execRtoExpiry at e
  refine act_keeps e (fun x hx => ?_)
  with_reducible repeat' first
    | assumption | refine resendAll_keeps ?_ | refine Keeps.ite (fun _ => ?_) (fun _ => ?_) | split

theorem execRetryWaitEnd_keeps {t m : Nat} {s u : State} (e : execRetryWaitEnd t m s = .next u) : Keeps s u := by
  unfold execRetryWaitEnd at e
  refine act_keeps e (fun x hx => ?_)
  with_reducible repeat' first
    | assumption | refine requestCredit_keeps ?_ | refine resendAll_keeps ?_
    | refine Keeps.ite (fun _ => ?_) (fun _ => ?_) | split

theorem execSendWindowEnd_keeps {t m : Nat} {s u : State} (e : execSendWindowEnd t m s = .next u) : Keeps s u := by
  unfold execSendWindowEnd at e
  refine act_keeps e (fun x hx => ?_)
  with_reducible repeat' first
    | assumption | refine State.onOut_keeps ?_ | refine Keeps.ite (fun _ => ?_) (fun _ => ?_) | split

theorem execEhtTimeout_keeps {t m : Nat} {s u : State} (e : execEhtTimeout t m s = .next u) : Keeps s u := by
  unfold execEhtTimeout at e
  refine act_keeps e (fun x hx => ?_)
  with_reducible repeat' first
    | assumption | refine finishMsg_keeps ?_ | refine Keeps.ite (fun _ => ?_) (fun _ => ?_) | split

theorem execRevokeDone_keeps {t : Nat} {idx : BitVec 20} {s u : State} (e : execRevokeDone t idx s = .next u) :
    Keeps s u := by
  unfold execRevokeDone at e
  refine act_keeps e (fun x hx => ?_)
  with_reducible repeat' first | assumption | refine raise_keeps ?_ | refine freeRegion_keeps ?_ | split

theorem execRestoredRegionFree_keeps {t : Nat} {idx : BitVec 20} {s u : State}
    (e : execRestoredRegionFree t idx s = .next u) : Keeps s u := by
  unfold execRestoredRegionFree at e
  refine act_keeps e (fun x hx => ?_)
  with_reducible repeat' first
    | assumption | refine freeRegion_keeps ?_ | refine Keeps.ite (fun _ => ?_) (fun _ => ?_) | split

theorem execAdd_keeps {i : Tid} {rd ra rb : Reg} {s u : State} (e : execAdd i rd ra rb s = .next u) : Keeps s u := by
  unfold execAdd at e
  refine issue_keeps e (fun x hx => ?_)
  with_reducible repeat' first | assumption | refine opR_keeps ?_

theorem execSub_keeps {i : Tid} {rd ra rb : Reg} {s u : State} (e : execSub i rd ra rb s = .next u) : Keeps s u := by
  unfold execSub at e
  refine issue_keeps e (fun x hx => ?_)
  with_reducible repeat' first | assumption | refine opR_keeps ?_

theorem execAnd_keeps {i : Tid} {rd ra rb : Reg} {s u : State} (e : execAnd i rd ra rb s = .next u) : Keeps s u := by
  unfold execAnd at e
  refine issue_keeps e (fun x hx => ?_)
  with_reducible repeat' first | assumption | refine opR_keeps ?_

theorem execOr_keeps {i : Tid} {rd ra rb : Reg} {s u : State} (e : execOr i rd ra rb s = .next u) : Keeps s u := by
  unfold execOr at e
  refine issue_keeps e (fun x hx => ?_)
  with_reducible repeat' first | assumption | refine opR_keeps ?_

theorem execXor_keeps {i : Tid} {rd ra rb : Reg} {s u : State} (e : execXor i rd ra rb s = .next u) : Keeps s u := by
  unfold execXor at e
  refine issue_keeps e (fun x hx => ?_)
  with_reducible repeat' first | assumption | refine opR_keeps ?_

theorem execSll_keeps {i : Tid} {rd ra rb : Reg} {s u : State} (e : execSll i rd ra rb s = .next u) : Keeps s u := by
  unfold execSll at e
  refine issue_keeps e (fun x hx => ?_)
  with_reducible repeat' first | assumption | refine opR_keeps ?_

theorem execSrl_keeps {i : Tid} {rd ra rb : Reg} {s u : State} (e : execSrl i rd ra rb s = .next u) : Keeps s u := by
  unfold execSrl at e
  refine issue_keeps e (fun x hx => ?_)
  with_reducible repeat' first | assumption | refine opR_keeps ?_

theorem execSra_keeps {i : Tid} {rd ra rb : Reg} {s u : State} (e : execSra i rd ra rb s = .next u) : Keeps s u := by
  unfold execSra at e
  refine issue_keeps e (fun x hx => ?_)
  with_reducible repeat' first | assumption | refine opR_keeps ?_

theorem execSlt_keeps {i : Tid} {rd ra rb : Reg} {s u : State} (e : execSlt i rd ra rb s = .next u) : Keeps s u := by
  unfold execSlt at e
  refine issue_keeps e (fun x hx => ?_)
  with_reducible repeat' first | assumption | refine opR_keeps ?_

theorem execSltu_keeps {i : Tid} {rd ra rb : Reg} {s u : State} (e : execSltu i rd ra rb s = .next u) :
    Keeps s u := by
  unfold execSltu at e
  refine issue_keeps e (fun x hx => ?_)
  with_reducible repeat' first | assumption | refine opR_keeps ?_

theorem execMul_keeps {i : Tid} {rd ra rb : Reg} {s u : State} (e : execMul i rd ra rb s = .next u) : Keeps s u := by
  unfold execMul at e
  refine issue_keeps e (fun x hx => ?_)
  with_reducible repeat' first | assumption | refine opR_keeps ?_

theorem execMulhu_keeps {i : Tid} {rd ra rb : Reg} {s u : State} (e : execMulhu i rd ra rb s = .next u) :
    Keeps s u := by
  unfold execMulhu at e
  refine issue_keeps e (fun x hx => ?_)
  with_reducible repeat' first | assumption | refine opR_keeps ?_

theorem execDivu_keeps {i : Tid} {rd ra rb : Reg} {s u : State} (e : execDivu i rd ra rb s = .next u) :
    Keeps s u := by
  unfold execDivu at e
  refine issue_keeps e (fun x hx => ?_)
  with_reducible repeat' first | assumption | refine opR_keeps ?_

theorem execRemu_keeps {i : Tid} {rd ra rb : Reg} {s u : State} (e : execRemu i rd ra rb s = .next u) :
    Keeps s u := by
  unfold execRemu at e
  refine issue_keeps e (fun x hx => ?_)
  with_reducible repeat' first | assumption | refine opR_keeps ?_

theorem execAddi_keeps {i : Tid} {rd ra : Reg} {imm : Word16} {s u : State} (e : execAddi i rd ra imm s = .next u) :
    Keeps s u := by
  unfold execAddi at e
  refine issue_keeps e (fun x hx => ?_)
  with_reducible repeat' first | assumption | refine op1_keeps ?_

theorem execAndi_keeps {i : Tid} {rd ra : Reg} {imm : Word16} {s u : State} (e : execAndi i rd ra imm s = .next u) :
    Keeps s u := by
  unfold execAndi at e
  refine issue_keeps e (fun x hx => ?_)
  with_reducible repeat' first | assumption | refine op1_keeps ?_

theorem execOri_keeps {i : Tid} {rd ra : Reg} {imm : Word16} {s u : State} (e : execOri i rd ra imm s = .next u) :
    Keeps s u := by
  unfold execOri at e
  refine issue_keeps e (fun x hx => ?_)
  with_reducible repeat' first | assumption | refine op1_keeps ?_

theorem execXori_keeps {i : Tid} {rd ra : Reg} {imm : Word16} {s u : State} (e : execXori i rd ra imm s = .next u) :
    Keeps s u := by
  unfold execXori at e
  refine issue_keeps e (fun x hx => ?_)
  with_reducible repeat' first | assumption | refine op1_keeps ?_

theorem execShi_keeps {i : Tid} {rd ra : Reg} {kind : BitVec 2} {n : BitVec 6} {s u : State}
    (e : execShi i rd ra kind n s = .next u) : Keeps s u := by
  unfold execShi at e
  refine issue_keeps e (fun x hx => ?_)
  with_reducible repeat' first | assumption | refine opShi_keeps ?_

theorem execSlti_keeps {i : Tid} {rd ra : Reg} {imm : Word16} {s u : State} (e : execSlti i rd ra imm s = .next u) :
    Keeps s u := by
  unfold execSlti at e
  refine issue_keeps e (fun x hx => ?_)
  with_reducible repeat' first | assumption | refine op1_keeps ?_

theorem execSltiu_keeps {i : Tid} {rd ra : Reg} {imm : Word16} {s u : State} (e : execSltiu i rd ra imm s = .next u) :
    Keeps s u := by
  unfold execSltiu at e
  refine issue_keeps e (fun x hx => ?_)
  with_reducible repeat' first | assumption | refine op1_keeps ?_

theorem execMovk_keeps {i : Tid} {rd : Reg} {k : BitVec 2} {imm : Word16} {s u : State}
    (e : execMovk i rd k imm s = .next u) : Keeps s u := by
  unfold execMovk at e
  refine issue_keeps e (fun x hx => ?_)
  with_reducible repeat' first | assumption | refine op1_keeps ?_

theorem execMovz_keeps {i : Tid} {rd : Reg} {k : BitVec 2} {imm : Word16} {s u : State}
    (e : execMovz i rd k imm s = .next u) : Keeps s u := by
  unfold execMovz at e
  refine issue_keeps e (fun x hx => ?_)
  with_reducible repeat' first | assumption | refine op1_keeps ?_

theorem execBeq_keeps {i : Tid} {ra rb : Reg} {off : Word16} {s u : State} (e : execBeq i ra rb off s = .next u) :
    Keeps s u := by
  unfold execBeq at e
  refine issue_keeps e (fun x hx => ?_)
  with_reducible repeat' first | assumption | refine opB_keeps ?_

theorem execBne_keeps {i : Tid} {ra rb : Reg} {off : Word16} {s u : State} (e : execBne i ra rb off s = .next u) :
    Keeps s u := by
  unfold execBne at e
  refine issue_keeps e (fun x hx => ?_)
  with_reducible repeat' first | assumption | refine opB_keeps ?_

theorem execBlt_keeps {i : Tid} {ra rb : Reg} {off : Word16} {s u : State} (e : execBlt i ra rb off s = .next u) :
    Keeps s u := by
  unfold execBlt at e
  refine issue_keeps e (fun x hx => ?_)
  with_reducible repeat' first | assumption | refine opB_keeps ?_

theorem execBge_keeps {i : Tid} {ra rb : Reg} {off : Word16} {s u : State} (e : execBge i ra rb off s = .next u) :
    Keeps s u := by
  unfold execBge at e
  refine issue_keeps e (fun x hx => ?_)
  with_reducible repeat' first | assumption | refine opB_keeps ?_

theorem execBltu_keeps {i : Tid} {ra rb : Reg} {off : Word16} {s u : State} (e : execBltu i ra rb off s = .next u) :
    Keeps s u := by
  unfold execBltu at e
  refine issue_keeps e (fun x hx => ?_)
  with_reducible repeat' first | assumption | refine opB_keeps ?_

theorem execBgeu_keeps {i : Tid} {ra rb : Reg} {off : Word16} {s u : State} (e : execBgeu i ra rb off s = .next u) :
    Keeps s u := by
  unfold execBgeu at e
  refine issue_keeps e (fun x hx => ?_)
  with_reducible repeat' first | assumption | refine opB_keeps ?_

theorem execJ_keeps {i : Tid} {off : BitVec 26} {s u : State} (e : execJ i off s = .next u) : Keeps s u := by
  unfold execJ at e
  refine issue_keeps e (fun x hx => ?_)
  with_reducible repeat' first | assumption | refine opJ_keeps ?_

theorem execJal_keeps {i : Tid} {off : BitVec 26} {s u : State} (e : execJal i off s = .next u) : Keeps s u := by
  unfold execJal at e
  refine issue_keeps e (fun x hx => ?_)
  with_reducible repeat' first | assumption | refine opJal_keeps ?_

theorem execJalr_keeps {i : Tid} {rd ra : Reg} {imm : Word16} {s u : State} (e : execJalr i rd ra imm s = .next u) :
    Keeps s u := by
  unfold execJalr at e
  refine issue_keeps e (fun x hx => ?_)
  with_reducible repeat' first | assumption | refine opJalr_keeps ?_

theorem execExtu_keeps {i : Tid} {rd ra : Reg} {pos len1 : BitVec 6} {s u : State}
    (e : execExtu i rd ra pos len1 s = .next u) : Keeps s u := by
  unfold execExtu at e
  refine issue_keeps e (fun x hx => ?_)
  with_reducible repeat' first | assumption | refine opF_keeps ?_

theorem execExts_keeps {i : Tid} {rd ra : Reg} {pos len1 : BitVec 6} {s u : State}
    (e : execExts i rd ra pos len1 s = .next u) : Keeps s u := by
  unfold execExts at e
  refine issue_keeps e (fun x hx => ?_)
  with_reducible repeat' first | assumption | refine opF_keeps ?_

theorem execIns_keeps {i : Tid} {rd ra : Reg} {pos len1 : BitVec 6} {s u : State}
    (e : execIns i rd ra pos len1 s = .next u) : Keeps s u := by
  unfold execIns at e
  refine issue_keeps e (fun x hx => ?_)
  with_reducible repeat' first | assumption | refine opF_keeps ?_

theorem execClz_keeps {i : Tid} {rd ra : Reg} {s u : State} (e : execClz i rd ra s = .next u) : Keeps s u := by
  unfold execClz at e
  refine issue_keeps e (fun x hx => ?_)
  with_reducible repeat' first | assumption | refine op1_keeps ?_

theorem execPopc_keeps {i : Tid} {rd ra : Reg} {s u : State} (e : execPopc i rd ra s = .next u) : Keeps s u := by
  unfold execPopc at e
  refine issue_keeps e (fun x hx => ?_)
  with_reducible repeat' first | assumption | refine op1_keeps ?_

theorem execBswap_keeps {i : Tid} {rd ra : Reg} {s u : State} (e : execBswap i rd ra s = .next u) : Keeps s u := by
  unfold execBswap at e
  refine issue_keeps e (fun x hx => ?_)
  with_reducible repeat' first | assumption | refine op1_keeps ?_

theorem execCrcc_keeps {i : Tid} {rd ra rb : Reg} {ww : BitVec 2} {s u : State}
    (e : execCrcc i rd ra rb ww s = .next u) : Keeps s u := by
  unfold execCrcc at e
  refine issue_keeps e (fun x hx => ?_)
  with_reducible repeat' first | assumption | refine opR_keeps ?_

theorem execCrce_keeps {i : Tid} {rd ra rb : Reg} {ww : BitVec 2} {s u : State}
    (e : execCrce i rd ra rb ww s = .next u) : Keeps s u := by
  unfold execCrce at e
  refine issue_keeps e (fun x hx => ?_)
  with_reducible repeat' first | assumption | refine opR_keeps ?_

theorem execHmix_keeps {i : Tid} {rd ra rb : Reg} {s u : State} (e : execHmix i rd ra rb s = .next u) :
    Keeps s u := by
  unfold execHmix at e
  refine issue_keeps e (fun x hx => ?_)
  with_reducible repeat' first | assumption | refine opR_keeps ?_

theorem execLd_keeps {i : Tid} {rd ra : Reg} {imm : Word16} {s u : State} (e : execLd i rd ra imm s = .next u) :
    Keeps s u := by
  unfold execLd at e
  refine issue_keeps e (fun x hx => ?_)
  with_reducible repeat' first | assumption | refine opLoad_keeps ?_

theorem execLw_keeps {i : Tid} {rd ra : Reg} {imm : Word16} {s u : State} (e : execLw i rd ra imm s = .next u) :
    Keeps s u := by
  unfold execLw at e
  refine issue_keeps e (fun x hx => ?_)
  with_reducible repeat' first | assumption | refine opLoad_keeps ?_

theorem execLh_keeps {i : Tid} {rd ra : Reg} {imm : Word16} {s u : State} (e : execLh i rd ra imm s = .next u) :
    Keeps s u := by
  unfold execLh at e
  refine issue_keeps e (fun x hx => ?_)
  with_reducible repeat' first | assumption | refine opLoad_keeps ?_

theorem execLb_keeps {i : Tid} {rd ra : Reg} {imm : Word16} {s u : State} (e : execLb i rd ra imm s = .next u) :
    Keeps s u := by
  unfold execLb at e
  refine issue_keeps e (fun x hx => ?_)
  with_reducible repeat' first | assumption | refine opLoad_keeps ?_

theorem staleOut_keeps {s0 s : State} {i : Tid} (hk : Keeps s0 s) :
    Keeps s0 (staleOut i s) := by
  unfold staleOut
  try dsimp only
  with_reducible repeat' first
    | assumption | refine fencedDiscard_keeps ?_ | refine pumpEvents_keeps ?_ | split

theorem execSd_keeps {i : Tid} {rs ra : Reg} {imm : Word16} {s u : State}
    (e : execSd i rs ra imm s = .next u) : Keeps s u := by
  unfold execSd at e
  refine issueOut_keeps e (fun x hx => ?_) ?_
  all_goals with_reducible repeat' first
    | assumption | refine opStore_keeps ?_ | exact Keeps.refl _ | refine staleOut_keeps ?_ | split

theorem execSw_keeps {i : Tid} {rs ra : Reg} {imm : Word16} {s u : State}
    (e : execSw i rs ra imm s = .next u) : Keeps s u := by
  unfold execSw at e
  refine issueOut_keeps e (fun x hx => ?_) ?_
  all_goals with_reducible repeat' first
    | assumption | refine opStore_keeps ?_ | exact Keeps.refl _ | refine staleOut_keeps ?_ | split

theorem execSh_keeps {i : Tid} {rs ra : Reg} {imm : Word16} {s u : State}
    (e : execSh i rs ra imm s = .next u) : Keeps s u := by
  unfold execSh at e
  refine issueOut_keeps e (fun x hx => ?_) ?_
  all_goals with_reducible repeat' first
    | assumption | refine opStore_keeps ?_ | exact Keeps.refl _ | refine staleOut_keeps ?_ | split

theorem execSb_keeps {i : Tid} {rs ra : Reg} {imm : Word16} {s u : State}
    (e : execSb i rs ra imm s = .next u) : Keeps s u := by
  unfold execSb at e
  refine issueOut_keeps e (fun x hx => ?_) ?_
  all_goals with_reducible repeat' first
    | assumption | refine opStore_keeps ?_ | exact Keeps.refl _ | refine staleOut_keeps ?_ | split

theorem execAadd_keeps {i : Tid} {rd ra rb : Reg} {s u : State}
    (e : execAadd i rd ra rb s = .next u) : Keeps s u := by
  unfold execAadd at e
  refine issueOut_keeps e (fun x hx => ?_) ?_
  all_goals with_reducible repeat' first
    | assumption | refine opAtomic_keeps ?_ | exact Keeps.refl _ | refine staleOut_keeps ?_ | split

theorem execAswp_keeps {i : Tid} {rd ra rb : Reg} {s u : State}
    (e : execAswp i rd ra rb s = .next u) : Keeps s u := by
  unfold execAswp at e
  refine issueOut_keeps e (fun x hx => ?_) ?_
  all_goals with_reducible repeat' first
    | assumption | refine opAtomic_keeps ?_ | exact Keeps.refl _ | refine staleOut_keeps ?_ | split

theorem execAcas_keeps {i : Tid} {rd ra rb : Reg} {s u : State}
    (e : execAcas i rd ra rb s = .next u) : Keeps s u := by
  unfold execAcas at e
  refine issueOut_keeps e (fun x hx => ?_) ?_
  all_goals with_reducible repeat' first
    | assumption | refine opAtomic_keeps ?_ | exact Keeps.refl _ | refine staleOut_keeps ?_
    | refine Keeps.ite (fun _ => ?_) (fun _ => ?_) | split

theorem execAand_keeps {i : Tid} {rd ra rb : Reg} {s u : State}
    (e : execAand i rd ra rb s = .next u) : Keeps s u := by
  unfold execAand at e
  refine issueOut_keeps e (fun x hx => ?_) ?_
  all_goals with_reducible repeat' first
    | assumption | refine opAtomic_keeps ?_ | exact Keeps.refl _ | refine staleOut_keeps ?_ | split

theorem execAor_keeps {i : Tid} {rd ra rb : Reg} {s u : State}
    (e : execAor i rd ra rb s = .next u) : Keeps s u := by
  unfold execAor at e
  refine issueOut_keeps e (fun x hx => ?_) ?_
  all_goals with_reducible repeat' first
    | assumption | refine opAtomic_keeps ?_ | exact Keeps.refl _ | refine staleOut_keeps ?_ | split

theorem execFence_keeps {i : Tid} {s u : State} (e : execFence i s = .next u) : Keeps s u := by
  unfold execFence at e
  refine issue_keeps e (fun x hx => ?_)
  with_reducible repeat' first | assumption | refine retire_keeps ?_

theorem execIfence_keeps {i : Tid} {s u : State}
    (e : execIfence i s = .next u) : Keeps s u := by
  unfold execIfence at e
  refine issue_keeps e (fun x hx => ?_)
  try dsimp only
  with_reducible repeat' first
    | assumption | refine opIfence_keeps ?_ | refine issue_keeps ?_ | split

theorem execChw_keeps {i : Tid} {rd ra : Reg} {ep : BitVec 6} {s u : State} (e : execChw i rd ra ep s = .next u) :
    Keeps s u := by
  unfold execChw at e
  refine issue_keeps e (fun x hx => ?_)
  with_reducible repeat' first | assumption | refine opChw_keeps ?_

theorem staleChwe_keeps {s0 s : State} {i : Tid} {ep : BitVec 6} (hk : Keeps s0 s) :
    Keeps s0 (staleChwe i ep s) := by
  unfold staleChwe
  with_reducible repeat' first
    | assumption | refine staleOut_keeps ?_ | refine Keeps.ite (fun _ => ?_) (fun _ => ?_) | split

theorem execChwe_keeps {i : Tid} {rd ra : Reg} {ep : BitVec 6} {s u : State}
    (e : execChwe i rd ra ep s = .next u) : Keeps s u := by
  unfold execChwe at e
  refine issueOut_keeps e (fun x hx => ?_) ?_
  all_goals with_reducible repeat' first
    | assumption | refine opChw_keeps ?_ | exact Keeps.refl _ | refine staleChwe_keeps ?_ | split

theorem execChr_keeps {i : Tid} {rd : Reg} {ep : BitVec 6} {s u : State} (e : execChr i rd ep s = .next u) :
    Keeps s u := by
  unfold execChr at e
  refine issue_keeps e (fun x hx => ?_)
  with_reducible repeat' first | assumption | refine opChr_keeps ?_

theorem execChskip_keeps {i : Tid} {ep : BitVec 6} {s u : State} (e : execChskip i ep s = .next u) : Keeps s u := by
  unfold execChskip at e
  refine issue_keeps e (fun x hx => ?_)
  with_reducible repeat' first | assumption | refine opChskip_keeps ?_

theorem execChpush_keeps {i : Tid} {rd : Reg} {ep : BitVec 6} {s u : State} (e : execChpush i rd ep s = .next u) :
    Keeps s u := by
  unfold execChpush at e
  refine issue_keeps e (fun x hx => ?_)
  with_reducible repeat' first | assumption | refine opChpush_keeps ?_

theorem execChdrop_keeps {i : Tid} {ep : BitVec 6} {s u : State} (e : execChdrop i ep s = .next u) : Keeps s u := by
  unfold execChdrop at e
  refine issue_keeps e (fun x hx => ?_)
  with_reducible repeat' first | assumption | refine opChdrop_keeps ?_

theorem execChpoll_keeps {i : Tid} {rd : Reg} {ep : BitVec 6} {s u : State} (e : execChpoll i rd ep s = .next u) :
    Keeps s u := by
  unfold execChpoll at e
  refine issue_keeps e (fun x hx => ?_)
  with_reducible repeat' first | assumption | refine opChpoll_keeps ?_

theorem execWtime_keeps {i : Tid} {rd : Reg} {s u : State} (e : execWtime i rd s = .next u) : Keeps s u := by
  unfold execWtime at e
  refine issue_keeps e (fun x hx => ?_)
  with_reducible repeat' first | assumption | refine opWtime_keeps ?_

theorem execWsel_keeps {i : Tid} {rd : Reg} {s u : State} (e : execWsel i rd s = .next u) : Keeps s u := by
  unfold execWsel at e
  refine issue_keeps e (fun x hx => ?_)
  with_reducible repeat' first | assumption | refine opWsel_keeps ?_

theorem execWspace_keeps {i : Tid} {rd : Reg} {ep : BitVec 6} {s u : State} (e : execWspace i rd ep s = .next u) :
    Keeps s u := by
  unfold execWspace at e
  refine issue_keeps e (fun x hx => ?_)
  with_reducible repeat' first | assumption | refine opWspace_keeps ?_

theorem execMfs_keeps {i : Tid} {rd : Reg} {sr : BitVec 4} {s u : State} (e : execMfs i rd sr s = .next u) :
    Keeps s u := by
  unfold execMfs at e
  refine issue_keeps e (fun x hx => ?_)
  with_reducible repeat' first | assumption | refine opMfs_keeps ?_

theorem execMts_keeps {i : Tid} {ra : Reg} {sr : BitVec 4} {s u : State} (e : execMts i ra sr s = .next u) :
    Keeps s u := by
  unfold execMts at e
  refine issue_keeps e (fun x hx => ?_)
  with_reducible repeat' first | assumption | refine opMts_keeps ?_

theorem execTrestart_keeps {i : Tid} {rd ra rb : Reg} {s u : State} (e : execTrestart i rd ra rb s = .next u) :
    Keeps s u := by
  unfold execTrestart at e
  refine issue_keeps e (fun x hx => ?_)
  with_reducible repeat' first | assumption | refine opTrestart_keeps ?_

theorem execTstate_keeps {i : Tid} {rd ra : Reg} {s u : State} (e : execTstate i rd ra s = .next u) : Keeps s u := by
  unfold execTstate at e
  refine issue_keeps e (fun x hx => ?_)
  with_reducible repeat' first | assumption | refine opTstate_keeps ?_

theorem staleSubmit_keeps {s0 s : State} {i : Tid} {ra : Reg} (hk : Keeps s0 s) :
    Keeps s0 (staleSubmit i ra s) := by
  unfold staleSubmit
  try dsimp only
  with_reducible repeat' first
    | assumption | refine settle_keeps ?_ | refine submitDesc_keeps ?_ | refine Keeps.ite (fun _ => ?_) (fun _ => ?_)
    | fail_if_no_progress refine Keeps.upd ?_ rfl rfl | split

theorem execEhtsub_keeps {i : Tid} {rd ra : Reg} {s u : State}
    (e : execEhtsub i rd ra s = .next u) : Keeps s u := by
  unfold execEhtsub at e
  refine issueOut_keeps e (fun x hx => ?_) ?_
  all_goals with_reducible repeat' first
    | assumption | refine opEhtsub_keeps ?_ | exact Keeps.refl _ | refine staleSubmit_keeps ?_ | split

theorem execSlotret_keeps {i : Tid} {rd ra rb : Reg} {s u : State} (e : execSlotret i rd ra rb s = .next u) :
    Keeps s u := by
  unfold execSlotret at e
  refine issue_keeps e (fun x hx => ?_)
  with_reducible repeat' first | assumption | refine opSlotret_keeps ?_

theorem execFinj_keeps {i : Tid} {rd ra : Reg} {s u : State} (e : execFinj i rd ra s = .next u) : Keeps s u := by
  unfold execFinj at e
  refine issue_keeps e (fun x hx => ?_)
  with_reducible repeat' first | assumption | refine opFinj_keeps ?_

theorem execFrel_keeps {i : Tid} {ra : Reg} {s u : State} (e : execFrel i ra s = .next u) : Keeps s u := by
  unfold execFrel at e
  refine issue_keeps e (fun x hx => ?_)
  with_reducible repeat' first | assumption | refine opFrel_keeps ?_

theorem execQuiesceTimeout_keeps {t : Nat} {obj : QObj} {s u : State} (e : execQuiesceTimeout t obj s = .next u) :
    Keeps s u := by
  unfold execQuiesceTimeout at e
  refine act_keeps e (fun x hx => ?_)
  with_reducible repeat' first
    | assumption | refine abortObj_keeps ?_ | refine Keeps.ite (fun _ => ?_) (fun _ => ?_) | split

theorem execLpQuiesce_keeps {t : Nat} {r : Req} {s u : State} (e : execLpQuiesce t r s = .next u) : Keeps s u := by
  unfold execLpQuiesce at e
  refine serve_keeps e (fun x r hx => ?_)
  with_reducible repeat' first | assumption | refine qCommand_keeps ?_

theorem execTmQquiesce_keeps {t : Nat} {r : Req} {s u : State} (e : execTmQquiesce t r s = .next u) : Keeps s u := by
  unfold execTmQquiesce at e
  refine serve_keeps e (fun x r hx => ?_)
  with_reducible repeat' first | assumption | refine qCommand_keeps ?_

theorem execEhtEpQuiesce_keeps {t : Nat} {r : Req} {s u : State} (e : execEhtEpQuiesce t r s = .next u) :
    Keeps s u := by
  unfold execEhtEpQuiesce at e
  refine serve_keeps e (fun x r hx => ?_)
  with_reducible repeat' first | assumption | refine qCommand_keeps ?_

theorem execStoQueueQuiesce_keeps {t : Nat} {r : Req} {s u : State} (e : execStoQueueQuiesce t r s = .next u) :
    Keeps s u := by
  unfold execStoQueueQuiesce at e
  refine serve_keeps e (fun x r hx => ?_)
  with_reducible repeat' first | assumption | refine sqQuiesce_keeps ?_

theorem execStallQuiesce_keeps {t : Nat} {r : Req} {s u : State} (e : execStallQuiesce t r s = .next u) :
    Keeps s u := by
  unfold execStallQuiesce at e
  refine serve_keeps e (fun x r hx => ?_)
  with_reducible repeat' first | assumption | refine stallQuiesceCmd_keeps ?_

theorem execLpEnable_keeps {t : Nat} {r : Req} {s u : State} (e : execLpEnable t r s = .next u) : Keeps s u := by
  unfold execLpEnable at e
  refine serve_keeps e (fun x r hx => ?_)
  with_reducible repeat' first | assumption | refine lpEnableCmd_keeps ?_

theorem execTmQenable_keeps {t : Nat} {r : Req} {s u : State} (e : execTmQenable t r s = .next u) : Keeps s u := by
  unfold execTmQenable at e
  refine serve_keeps e (fun x r hx => ?_)
  with_reducible repeat' first | assumption | refine tmQenableCmd_keeps ?_

theorem execTfDisable_keeps {t : Nat} {r : Req} {s u : State} (e : execTfDisable t r s = .next u) : Keeps s u := by
  unfold execTfDisable at e
  refine serve_keeps e (fun x r hx => ?_)
  with_reducible repeat' first | assumption | refine tfDisableCmd_keeps ?_

theorem execTfFreeze_keeps {t : Nat} {r : Req} {s u : State} (e : execTfFreeze t r s = .next u) : Keeps s u := by
  unfold execTfFreeze at e
  refine serve_keeps e (fun x r hx => ?_)
  with_reducible repeat' first | assumption | refine tfFreezeCmd_keeps ?_

theorem execTfEnable_keeps {t : Nat} {r : Req} {s u : State} (e : execTfEnable t r s = .next u) : Keeps s u := by
  unfold execTfEnable at e
  refine serve_keeps e (fun x r hx => ?_)
  with_reducible repeat' first | assumption | refine tfEnableCmd_keeps ?_

theorem execRehomeStart_keeps {t : Nat} {stall : Fin 12} {role : Fin 16} {s u : State}
    (e : execRehomeStart t stall role s = .next u) : Keeps s u := by
  unfold execRehomeStart at e
  refine act_keeps e (fun x hx => ?_)
  with_reducible repeat' first | assumption | refine rehomeStart_keeps ?_

theorem execSpareStart_keeps {t : Nat} {stall : Fin 12} {role : Fin 16} {s u : State}
    (e : execSpareStart t stall role s = .next u) : Keeps s u := by
  unfold execSpareStart at e
  refine act_keeps e (fun x hx => ?_)
  with_reducible repeat' first | assumption | refine spareStart_keeps ?_

theorem execBlockedReadReturn_keeps {t : Nat} {i : Tid} {s u : State} (e : execBlockedReadReturn t i s = .next u) :
    Keeps s u := by
  unfold execBlockedReadReturn at e
  refine act_keeps e (fun x hx => ?_)
  with_reducible repeat' first | assumption | refine unblock_keeps ?_

theorem execTimerPortExpiry_keeps {t : Nat} {i : Tid} {s u : State} (e : execTimerPortExpiry t i s = .next u) :
    Keeps s u := by
  unfold execTimerPortExpiry at e
  refine act_keeps e (fun x hx => ?_)
  with_reducible repeat' first | assumption | refine unblock_keeps ?_

theorem execQuietDetector_keeps {t : Nat} {stall : Fin 12} {role : Fin 16} {s u : State}
    (e : execQuietDetector t stall role s = .next u) : Keeps s u := by
  unfold execQuietDetector at e
  refine act_keeps e (fun x hx => ?_)
  with_reducible repeat' first | assumption | refine quietFires_keeps ?_

theorem execStallStart_keeps {t : Nat} {r : Req} {s u : State} (e : execStallStart t r s = .next u) : Keeps s u := by
  unfold execStallStart at e
  refine serve_keeps e (fun x r hx => ?_)
  with_reducible repeat' first | assumption | refine stallStartCmd_keeps ?_

theorem execCoreRestart_keeps {t : Nat} {r : Req} {s u : State} (e : execCoreRestart t r s = .next u) :
    Keeps s u := by
  unfold execCoreRestart at e
  refine serve_keeps e (fun x r hx => ?_)
  with_reducible repeat' first | assumption | refine coreRestartCmd_keeps ?_

theorem execDbgStop_keeps {t : Nat} {r : Req} {s u : State} (e : execDbgStop t r s = .next u) : Keeps s u := by
  unfold execDbgStop at e
  refine serve_keeps e (fun x r hx => ?_)
  with_reducible repeat' first
    | assumption | refine dbg_keeps ?_ ?_ | refine stopThread_keeps ?_ | refine dbgMove_keeps ?_ ?_
    | (intro _; intros; try dsimp only)

theorem execDbgResume_keeps {t : Nat} {r : Req} {s u : State} (e : execDbgResume t r s = .next u) : Keeps s u := by
  unfold execDbgResume at e
  refine serve_keeps e (fun x r hx => ?_)
  with_reducible repeat' first
    | assumption | refine dbg_keeps ?_ ?_ | refine resumeThread_keeps ?_ | refine dbgMove_keeps ?_ ?_
    | (intro _; intros; try dsimp only)

theorem execDbgStep_keeps {t : Nat} {r : Req} {s u : State} (e : execDbgStep t r s = .next u) : Keeps s u := by
  unfold execDbgStep at e
  refine serve_keeps e (fun x r hx => ?_)
  with_reducible repeat' first
    | assumption | refine dbg_keeps ?_ ?_ | refine dbgStopped_keeps ?_ ?_ | refine dbgStepCmd_keeps ?_
    | (intro _; intros; try dsimp only)

theorem execDbgKill_keeps {t : Nat} {r : Req} {s u : State} (e : execDbgKill t r s = .next u) : Keeps s u := by
  unfold execDbgKill at e
  refine serve_keeps e (fun x r hx => ?_)
  with_reducible repeat' first
    | assumption | refine dbg_keeps ?_ ?_ | refine dbgKillCmd_keeps ?_ | (intro _; intros; try dsimp only)

theorem execDbgBreak_keeps {t : Nat} {r : Req} {s u : State} (e : execDbgBreak t r s = .next u) : Keeps s u := by
  unfold execDbgBreak at e
  refine serve_keeps e (fun x r hx => ?_)
  with_reducible repeat' first
    | assumption | refine dbg_keeps ?_ ?_ | refine dbgBreakCmd_keeps ?_ | (intro _; intros; try dsimp only)

theorem execDbgRead_keeps {t : Nat} {r : Req} {s u : State} (e : execDbgRead t r s = .next u) : Keeps s u := by
  unfold execDbgRead at e
  refine serve_keeps e (fun x r hx => ?_)
  with_reducible repeat' first
    | assumption | refine dbg_keeps ?_ ?_ | refine dbgStopped_keeps ?_ ?_ | refine dbgReadCmd_keeps ?_
    | (intro _; intros; try dsimp only)

theorem execDbgWrite_keeps {t : Nat} {r : Req} {s u : State} (e : execDbgWrite t r s = .next u) : Keeps s u := by
  unfold execDbgWrite at e
  refine serve_keeps e (fun x r hx => ?_)
  with_reducible repeat' first
    | assumption | refine dbg_keeps ?_ ?_ | refine dbgStopped_keeps ?_ ?_ | refine dbgWriteCmd_keeps ?_
    | (intro _; intros; try dsimp only)

theorem execKeyGenerate_keeps {t : Nat} {r : Req} {s u : State} (e : execKeyGenerate t r s = .next u) :
    Keeps s u := by
  unfold execKeyGenerate at e
  refine serve_keeps e (fun x r hx => ?_)
  with_reducible repeat' first | assumption | refine keyGenerateCmd_keeps ?_

theorem execKeyImport_keeps {t : Nat} {r : Req} {s u : State} (e : execKeyImport t r s = .next u) : Keeps s u := by
  unfold execKeyImport at e
  refine serve_keeps e (fun x r hx => ?_)
  with_reducible repeat' first | assumption | refine keyImportCmd_keeps ?_

theorem execKeyExport_keeps {t : Nat} {r : Req} {s u : State} (e : execKeyExport t r s = .next u) : Keeps s u := by
  unfold execKeyExport at e
  refine serve_keeps e (fun x r hx => ?_)
  with_reducible repeat' first | assumption | refine keyExportCmd_keeps ?_

theorem execKeyDestroy_keeps {t : Nat} {r : Req} {s u : State} (e : execKeyDestroy t r s = .next u) : Keeps s u := by
  unfold execKeyDestroy at e
  refine serve_keeps e (fun x r hx => ?_)
  with_reducible repeat' first | assumption | refine keyDestroyCmd_keeps ?_

theorem execKeyQuery_keeps {t : Nat} {r : Req} {s u : State} (e : execKeyQuery t r s = .next u) : Keeps s u := by
  unfold execKeyQuery at e
  refine serve_keeps e (fun x r hx => ?_)
  with_reducible repeat' first | assumption | refine keyQueryCmd_keeps ?_

theorem execAttExtend_keeps {t : Nat} {r : Req} {s u : State} (e : execAttExtend t r s = .next u) : Keeps s u := by
  unfold execAttExtend at e
  refine serve_keeps e (fun x r hx => ?_)
  with_reducible repeat' first | assumption | refine attExtendCmd_keeps ?_

theorem execAttCert_keeps {t : Nat} {r : Req} {s u : State} (e : execAttCert t r s = .next u) : Keeps s u := by
  unfold execAttCert at e
  refine serve_keeps e (fun x r hx => ?_)
  with_reducible repeat' first | assumption | refine attCertCmd_keeps ?_

theorem execAttLog_keeps {t : Nat} {r : Req} {s u : State} (e : execAttLog t r s = .next u) : Keeps s u := by
  unfold execAttLog at e
  refine serve_keeps e (fun x r hx => ?_)
  with_reducible repeat' first | assumption | refine attLogCmd_keeps ?_

theorem execAttQuote_keeps {t : Nat} {r : Req} {s u : State} (e : execAttQuote t r s = .next u) : Keeps s u := by
  unfold execAttQuote at e
  refine serve_keeps e (fun x r hx => ?_)
  with_reducible repeat' first | assumption | refine attQuoteCmd_keeps ?_

theorem execJobRingNotice_keeps {t : Nat} {tf : BitVec 12} {base count : Nat} {s u : State}
    (e : execJobRingNotice t tf base count s = .next u) : Keeps s u := by
  unfold execJobRingNotice at e
  refine act_keeps e (fun x hx => ?_)
  dsimp only
  with_reducible repeat' first
    | assumption | refine Keeps.ite (fun _ => ?_) (fun _ => ?_) | fail_if_no_progress refine Keeps.upd ?_ rfl rfl

theorem execGcmEncrypt_keeps {t : Nat} {tf : BitVec 12} {s u : State} (e : execGcmEncrypt t tf s = .next u) :
    Keeps s u := by
  unfold execGcmEncrypt at e
  refine act_keeps e (fun x hx => ?_)
  with_reducible repeat' first | assumption | refine jobStep_keeps ?_

theorem execGcmDecrypt_keeps {t : Nat} {tf : BitVec 12} {s u : State} (e : execGcmDecrypt t tf s = .next u) :
    Keeps s u := by
  unfold execGcmDecrypt at e
  refine act_keeps e (fun x hx => ?_)
  with_reducible repeat' first | assumption | refine jobStep_keeps ?_

theorem execXtsEncrypt_keeps {t : Nat} {tf : BitVec 12} {s u : State} (e : execXtsEncrypt t tf s = .next u) :
    Keeps s u := by
  unfold execXtsEncrypt at e
  refine act_keeps e (fun x hx => ?_)
  with_reducible repeat' first | assumption | refine jobStep_keeps ?_

theorem execXtsDecrypt_keeps {t : Nat} {tf : BitVec 12} {s u : State} (e : execXtsDecrypt t tf s = .next u) :
    Keeps s u := by
  unfold execXtsDecrypt at e
  refine act_keeps e (fun x hx => ?_)
  with_reducible repeat' first | assumption | refine jobStep_keeps ?_

theorem execShake256_keeps {t : Nat} {tf : BitVec 12} {s u : State} (e : execShake256 t tf s = .next u) :
    Keeps s u := by
  unfold execShake256 at e
  refine act_keeps e (fun x hx => ?_)
  with_reducible repeat' first | assumption | refine jobStep_keeps ?_

theorem execEhtRegCreate_keeps {t : Nat} {r : Req} {s u : State} (e : execEhtRegCreate t r s = .next u) :
    Keeps s u := by
  unfold execEhtRegCreate at e
  refine serve_keeps e (fun x r hx => ?_)
  with_reducible repeat' first | assumption | refine regCreateCmd_keeps ?_

theorem execEhtRegRevoke_keeps {t : Nat} {r : Req} {s u : State} (e : execEhtRegRevoke t r s = .next u) :
    Keeps s u := by
  unfold execEhtRegRevoke at e
  refine serve_keeps e (fun x r hx => ?_)
  with_reducible repeat' first | assumption | refine regRevokeCmd_keeps ?_

theorem execEhtRegQuery_keeps {t : Nat} {r : Req} {s u : State} (e : execEhtRegQuery t r s = .next u) :
    Keeps s u := by
  unfold execEhtRegQuery at e
  refine serve_keeps e (fun x r hx => ?_)
  with_reducible repeat' first | assumption | refine regQueryCmd_keeps ?_

theorem execEhtBookWrite_keeps {t : Nat} {r : Req} {s u : State} (e : execEhtBookWrite t r s = .next u) :
    Keeps s u := by
  unfold execEhtBookWrite at e
  refine serve_keeps e (fun x r hx => ?_)
  with_reducible repeat' first | assumption | refine bookWriteCmd_keeps ?_

theorem execEhtBookRead_keeps {t : Nat} {r : Req} {s u : State} (e : execEhtBookRead t r s = .next u) :
    Keeps s u := by
  unfold execEhtBookRead at e
  refine serve_keeps e (fun x r hx => ?_)
  with_reducible repeat' first | assumption | refine bookReadCmd_keeps ?_

theorem execTfEpCreate_keeps {t : Nat} {r : Req} {s u : State} (e : execTfEpCreate t r s = .next u) : Keeps s u := by
  unfold execTfEpCreate at e
  refine serve_keeps e (fun x r hx => ?_)
  with_reducible repeat' first | assumption | refine epCreateCmd_keeps ?_

theorem execTfEpDestroy_keeps {t : Nat} {r : Req} {s u : State} (e : execTfEpDestroy t r s = .next u) :
    Keeps s u := by
  unfold execTfEpDestroy at e
  refine serve_keeps e (fun x r hx => ?_)
  with_reducible repeat' first | assumption | refine epDestroyCmd_keeps ?_

theorem execTfSqCreate_keeps {t : Nat} {r : Req} {s u : State} (e : execTfSqCreate t r s = .next u) : Keeps s u := by
  unfold execTfSqCreate at e
  refine serve_keeps e (fun x r hx => ?_)
  with_reducible repeat' first | assumption | refine sqCreateCmd_keeps ?_

theorem execTfSqResize_keeps {t : Nat} {r : Req} {s u : State} (e : execTfSqResize t r s = .next u) : Keeps s u := by
  unfold execTfSqResize at e
  refine serve_keeps e (fun x r hx => ?_)
  with_reducible repeat' first | assumption | refine sqResizeCmd_keeps ?_

theorem execTfSqEnable_keeps {t : Nat} {r : Req} {s u : State} (e : execTfSqEnable t r s = .next u) : Keeps s u := by
  unfold execTfSqEnable at e
  refine serve_keeps e (fun x r hx => ?_)
  with_reducible repeat' first
    | assumption | refine sqDisabledCmd_keeps ?_ ?_ | refine enableSq_keeps ?_ | (intro _; intros; try dsimp only)

theorem execTfSqDestroy_keeps {t : Nat} {r : Req} {s u : State} (e : execTfSqDestroy t r s = .next u) :
    Keeps s u := by
  unfold execTfSqDestroy at e
  refine serve_keeps e (fun x r hx => ?_)
  with_reducible repeat' first
    | assumption | refine sqDisabledCmd_keeps ?_ ?_ | refine destroySq_keeps ?_ | (intro _; intros; try dsimp only)

theorem execTfQuery_keeps {t : Nat} {r : Req} {s u : State} (e : execTfQuery t r s = .next u) : Keeps s u := by
  unfold execTfQuery at e
  refine serve_keeps e (fun x r hx => ?_)
  with_reducible repeat' first | assumption | refine tfQueryCmd_keeps ?_

theorem execTmQstats_keeps {t : Nat} {r : Req} {s u : State} (e : execTmQstats t r s = .next u) : Keeps s u := by
  unfold execTmQstats at e
  refine serve_keeps e (fun x r hx => ?_)
  with_reducible repeat' first | assumption | refine statsCmd_keeps ?_

theorem execTmPolstats_keeps {t : Nat} {r : Req} {s u : State} (e : execTmPolstats t r s = .next u) : Keeps s u := by
  unfold execTmPolstats at e
  refine serve_keeps e (fun x r hx => ?_)
  with_reducible repeat' first | assumption | refine statsCmd_keeps ?_

theorem execTfStats_keeps {t : Nat} {r : Req} {s u : State} (e : execTfStats t r s = .next u) : Keeps s u := by
  unfold execTfStats at e
  refine serve_keeps e (fun x r hx => ?_)
  with_reducible repeat' first | assumption | refine statsCmd_keeps ?_

theorem execStoQueueStats_keeps {t : Nat} {r : Req} {s u : State} (e : execStoQueueStats t r s = .next u) :
    Keeps s u := by
  unfold execStoQueueStats at e
  refine serve_keeps e (fun x r hx => ?_)
  with_reducible repeat' first | assumption | refine statsCmd_keeps ?_

theorem execDispatch_keeps {t : Nat} {pipe : Fin 4} {avail : Nat} {s u : State}
    (e : execDispatch t pipe avail s = .next u) : Keeps s u := by
  unfold execDispatch at e
  refine act_keeps e (fun x hx => ?_)
  with_reducible repeat' first | assumption | refine dispatch_keeps ?_

theorem execParseStallResume_keeps {t : Nat} {pipe : Fin 4} {seq : Fin 6} {avail clocks : Nat} {s u : State}
    (e : execParseStallResume t pipe seq avail clocks s = .next u) : Keeps s u := by
  unfold execParseStallResume at e
  refine act_keeps e (fun x hx => ?_)
  with_reducible repeat' first | assumption | refine stallResume_keeps ?_

theorem execParseEnd_keeps {t : Nat} {pipe : Fin 4} {seq : Fin 6} {corrected : Nat} {bad : Option (BitVec 15)}
    {s u : State} (e : execParseEnd t pipe seq corrected bad s = .next u) : Keeps s u := by
  unfold execParseEnd at e
  refine act_keeps e (fun x hx => ?_)
  with_reducible repeat' first | assumption | refine parseEnd_keeps ?_

theorem execChcXCap_keeps {t : Nat} {pipe : Fin 4} {c : CapEnd} {s u : State}
    (e : execChcXCap t pipe c s = .next u) : Keeps s u := by
  unfold execChcXCap at e
  refine act_keeps e (fun x hx => ?_)
  try dsimp only
  with_reducible repeat' first
    | assumption | refine parseCapped_keeps ?_ | refine act_keeps ?_ | split

theorem execRobRelease_keeps {t : Nat} {buf : Fin 20} {s u : State} (e : execRobRelease t buf s = .next u) :
    Keeps s u := by
  unfold execRobRelease at e
  refine act_keeps e (fun x hx => ?_)
  with_reducible repeat' first | assumption | refine robRelease_keeps ?_

theorem execRobTimeout_keeps {t : Nat} {buf : Fin 20} {s u : State} (e : execRobTimeout t buf s = .next u) :
    Keeps s u := by
  unfold execRobTimeout at e
  refine act_keeps e (fun x hx => ?_)
  with_reducible repeat' first | assumption | refine robTimeout_keeps ?_

theorem execVersionSlotFree_keeps {t : Nat} {slot : Fin 8} {s u : State}
    (e : execVersionSlotFree t slot s = .next u) : Keeps s u := by
  unfold execVersionSlotFree at e
  refine act_keeps e (fun x hx => ?_)
  with_reducible repeat' first | assumption | refine freeVersion_keeps ?_

theorem execCsRewrite_keeps {t : Nat} {seq : Fin 24} {addr : BitVec 15} {s u : State}
    (e : execCsRewrite t seq addr s = .next u) : Keeps s u := by
  unfold execCsRewrite at e
  refine act_keeps e (fun x hx => ?_)
  with_reducible repeat' first | assumption | refine csRewrite_keeps ?_

theorem execFrameReceive_keeps {t : Nat} {f : WireFrame} {s u : State} (e : execFrameReceive t f s = .next u) :
    Keeps s u := by
  unfold execFrameReceive at e
  refine act_keeps e (fun x hx => ?_)
  with_reducible repeat' first | assumption | refine receive_keeps ?_

theorem execLinkUp_keeps {t : Nat} {l : LinkEnd} {s u : State}
    (e : execLinkUp t l s = .next u) : Keeps s u := by
  unfold execLinkUp at e
  refine act_keeps e (fun x hx => ?_)
  try dsimp only
  with_reducible repeat' first
    | assumption | refine linkUp_keeps ?_ | refine act_keeps ?_ | split

theorem execLinkDown_keeps {t : Nat} {lp : Fin 16} {s u : State} (e : execLinkDown t lp s = .next u) : Keeps s u := by
  unfold execLinkDown at e
  refine act_keeps e (fun x hx => ?_)
  with_reducible repeat' first | assumption | refine linkDown_keeps ?_

theorem execAlignmentLoss_keeps {t : Nat} {lp : Fin 16} {s u : State} (e : execAlignmentLoss t lp s = .next u) :
    Keeps s u := by
  unfold execAlignmentLoss at e
  refine act_keeps e (fun x hx => ?_)
  with_reducible repeat' first | assumption | refine alignmentLost_keeps ?_

theorem execLinkSetupFallback_keeps {t : Nat} {port : Fin 2} {s u : State}
    (e : execLinkSetupFallback t port s = .next u) : Keeps s u := by
  unfold execLinkSetupFallback at e
  refine act_keeps e (fun x hx => ?_)
  with_reducible repeat' first | assumption | refine setupFallback_keeps ?_

theorem execFecDegrade_keeps {t : Nat} {port : Fin 2} {lane : Fin 8} {symbols : Nat} {s u : State}
    (e : execFecDegrade t port lane symbols s = .next u) : Keeps s u := by
  unfold execFecDegrade at e
  refine act_keeps e (fun x hx => ?_)
  with_reducible repeat' first | assumption | refine fecSymbols_keeps ?_

theorem execMgmtFrameRelease_keeps {t : Nat} {port : Fin 2} {s u : State}
    (e : execMgmtFrameRelease t port s = .next u) : Keeps s u := by
  unfold execMgmtFrameRelease at e
  refine act_keeps e (fun x hx => ?_)
  with_reducible repeat' first | assumption | refine mgmtRelease_keeps ?_

theorem execSaActivated_keeps {t : Nat} {port : Fin 2} {s u : State} (e : execSaActivated t port s = .next u) :
    Keeps s u := by
  unfold execSaActivated at e
  refine act_keeps e (fun x hx => ?_)
  with_reducible repeat' first | assumption | refine saActivated_keeps ?_

theorem execTmDecision_keeps {t : Nat} {lp : Fin 16} {s u : State} (e : execTmDecision t lp s = .next u) :
    Keeps s u := by
  unfold execTmDecision at e
  refine act_keeps e (fun x hx => ?_)
  with_reducible repeat' first | assumption | refine tmDecide_keeps ?_ | refine Keeps.ite (fun _ => ?_) (fun _ => ?_)

theorem execTransmitSelect_keeps {t : Nat} {lp : Fin 16} {s u : State} (e : execTransmitSelect t lp s = .next u) :
    Keeps s u := by
  unfold execTransmitSelect at e
  refine act_keeps e (fun x hx => ?_)
  with_reducible repeat' first | assumption | refine transmitSelect_keeps ?_

theorem execTransmitEnd_keeps {t : Nat} {lp : Fin 16} {s u : State} (e : execTransmitEnd t lp s = .next u) :
    Keeps s u := by
  unfold execTransmitEnd at e
  refine act_keeps e (fun x hx => ?_)
  with_reducible repeat' first | assumption | refine transmitEnd_keeps ?_

theorem execGateEvent_keeps {t : Nat} {lp : Fin 16} {s u : State} (e : execGateEvent t lp s = .next u) :
    Keeps s u := by
  unfold execGateEvent at e
  refine act_keeps e (fun x hx => ?_)
  with_reducible repeat' first | assumption | refine refreshGates_keeps ?_

theorem execBellChange_keeps {t : Nat} {lp : Fin 16} {s u : State} (e : execBellChange t lp s = .next u) :
    Keeps s u := by
  unfold execBellChange at e
  refine act_keeps e (fun x hx => ?_)
  with_reducible repeat' first | assumption | refine takeBell_keeps ?_

theorem execTokenRefill_keeps {t : Nat} {bucket : BucketId} {s u : State} (e : execTokenRefill t bucket s = .next u) :
    Keeps s u := by
  unfold execTokenRefill at e
  refine act_keeps e (fun x hx => ?_)
  with_reducible repeat' first | assumption | refine tokenRefill_keeps ?_

theorem execLearn_keeps {t : Nat} {tbl : Fin 16} {s u : State} (e : execLearn t tbl s = .next u) : Keeps s u := by
  unfold execLearn at e
  refine act_keeps e (fun x hx => ?_)
  with_reducible repeat' first | assumption | refine takeLearn_keeps ?_

theorem execRefresh_keeps {t : Nat} {tbl : Fin 16} {s u : State} (e : execRefresh t tbl s = .next u) : Keeps s u := by
  unfold execRefresh at e
  refine act_keeps e (fun x hx => ?_)
  with_reducible repeat' first | assumption | refine refreshRow_keeps ?_

theorem execAgerRequest_keeps {t : Nat} {tbl : Fin 16} {s u : State} (e : execAgerRequest t tbl s = .next u) :
    Keeps s u := by
  unfold execAgerRequest at e
  refine act_keeps e (fun x hx => ?_)
  with_reducible repeat' first | assumption | refine agerRow_keeps ?_

theorem execDumpStep_keeps {t : Nat} {tbl : Fin 16} {s u : State} (e : execDumpStep t tbl s = .next u) :
    Keeps s u := by
  unfold execDumpStep at e
  refine act_keeps e (fun x hx => ?_)
  with_reducible repeat' first | assumption | refine dumpRow_keeps ?_

theorem execAgeTick_keeps {t : Nat} {tbl : Fin 16} {s u : State} (e : execAgeTick t tbl s = .next u) : Keeps s u := by
  unfold execAgeTick at e
  refine act_keeps e (fun x hx => ?_)
  with_reducible repeat' first | assumption | refine ageRow_keeps ?_

theorem execNotifyDeliver_keeps {t : Nat} {tbl : Fin 16} {s u : State} (e : execNotifyDeliver t tbl s = .next u) :
    Keeps s u := by
  unfold execNotifyDeliver at e
  refine act_keeps e (fun x hx => ?_)
  with_reducible repeat' first | assumption | refine notifyDeliver_keeps ?_

theorem execFlushDone_keeps {t : Nat} {tbl : Fin 16} {s u : State} (e : execFlushDone t tbl s = .next u) :
    Keeps s u := by
  unfold execFlushDone at e
  refine act_keeps e (fun x hx => ?_)
  with_reducible repeat' first | assumption | refine flushDone_keeps ?_

theorem execBucketClear_keeps {t : Nat} {tbl : Fin 16} {s u : State} (e : execBucketClear t tbl s = .next u) :
    Keeps s u := by
  unfold execBucketClear at e
  refine act_keeps e (fun x hx => ?_)
  with_reducible repeat' first | assumption | refine bucketClear_keeps ?_

theorem execTableRecompute_keeps {t : Nat} {tbl : Fin 16} {s u : State} (e : execTableRecompute t tbl s = .next u) :
    Keeps s u := by
  unfold execTableRecompute at e
  refine act_keeps e (fun x hx => ?_)
  with_reducible repeat' first | assumption | refine tableRecompute_keeps ?_

theorem execTblInsert_keeps {t : Nat} {r : Req} {s u : State} (e : execTblInsert t r s = .next u) : Keeps s u := by
  unfold execTblInsert at e
  refine serve_keeps e (fun x r hx => ?_)
  with_reducible repeat' first | assumption | refine tblInsertCmd_keeps ?_

theorem execTblDelete_keeps {t : Nat} {r : Req} {s u : State} (e : execTblDelete t r s = .next u) : Keeps s u := by
  unfold execTblDelete at e
  refine serve_keeps e (fun x r hx => ?_)
  with_reducible repeat' first | assumption | refine tblDeleteCmd_keeps ?_

theorem execTblRead_keeps {t : Nat} {r : Req} {s u : State} (e : execTblRead t r s = .next u) : Keeps s u := by
  unfold execTblRead at e
  refine serve_keeps e (fun x r hx => ?_)
  with_reducible repeat' first | assumption | refine tblReadCmd_keeps ?_

theorem execTblBatch_keeps {t : Nat} {r : Req} {s u : State} (e : execTblBatch t r s = .next u) : Keeps s u := by
  unfold execTblBatch at e
  refine serve_keeps e (fun x r hx => ?_)
  with_reducible repeat' first | assumption | refine tblBatchCmd_keeps ?_

theorem execTblFlush_keeps {t : Nat} {r : Req} {s u : State} (e : execTblFlush t r s = .next u) : Keeps s u := by
  unfold execTblFlush at e
  refine serve_keeps e (fun x r hx => ?_)
  with_reducible repeat' first | assumption | refine tblFlushCmd_keeps ?_

theorem execTblDump_keeps {t : Nat} {r : Req} {s u : State} (e : execTblDump t r s = .next u) : Keeps s u := by
  unfold execTblDump at e
  refine serve_keeps e (fun x r hx => ?_)
  with_reducible repeat' first | assumption | refine tblDumpCmd_keeps ?_

theorem execMsSaInstall_keeps {t : Nat} {r : Req} {s u : State} (e : execMsSaInstall t r s = .next u) :
    Keeps s u := by
  unfold execMsSaInstall at e
  refine serve_keeps e (fun x r hx => ?_)
  with_reducible repeat' first | assumption | refine msInstallCmd_keeps ?_

theorem execMsSaActivate_keeps {t : Nat} {r : Req} {s u : State} (e : execMsSaActivate t r s = .next u) :
    Keeps s u := by
  unfold execMsSaActivate at e
  refine serve_keeps e (fun x r hx => ?_)
  with_reducible repeat' first | assumption | refine msActivateCmd_keeps ?_

theorem execMsSaDelete_keeps {t : Nat} {r : Req} {s u : State} (e : execMsSaDelete t r s = .next u) : Keeps s u := by
  unfold execMsSaDelete at e
  refine serve_keeps e (fun x r hx => ?_)
  with_reducible repeat' first | assumption | refine msDeleteCmd_keeps ?_

theorem execMsStatus_keeps {t : Nat} {r : Req} {s u : State} (e : execMsStatus t r s = .next u) : Keeps s u := by
  unfold execMsStatus at e
  refine serve_keeps e (fun x r hx => ?_)
  with_reducible repeat' first | assumption | refine msStatusCmd_keeps ?_

theorem execTsRead_keeps {t : Nat} {r : Req} {s u : State} (e : execTsRead t r s = .next u) : Keeps s u := by
  unfold execTsRead at e
  refine serve_keeps e (fun x r hx => ?_)
  with_reducible repeat' first | assumption | refine tsReadCmd_keeps ?_

theorem execPpsRead_keeps {t : Nat} {r : Req} {s u : State} (e : execPpsRead t r s = .next u) : Keeps s u := by
  unfold execPpsRead at e
  refine serve_keeps e (fun x r hx => ?_)
  with_reducible repeat' first | assumption | refine ppsReadCmd_keeps ?_

theorem execStoDriveStatus_keeps {t : Nat} {r : Req} {s u : State} (e : execStoDriveStatus t r s = .next u) :
    Keeps s u := by
  unfold execStoDriveStatus at e
  refine serve_keeps e (fun x r hx => ?_)
  with_reducible repeat' first | assumption | refine driveStatusCmd_keeps ?_

theorem execStoSelftest_keeps {t : Nat} {r : Req} {s u : State} (e : execStoSelftest t r s = .next u) :
    Keeps s u := by
  unfold execStoSelftest at e
  refine serve_keeps e (fun x r hx => ?_)
  with_reducible repeat' first | assumption | refine selftestCmd_keeps ?_

theorem execStoDriveFw_keeps {t : Nat} {r : Req} {s u : State} (e : execStoDriveFw t r s = .next u) : Keeps s u := by
  unfold execStoDriveFw at e
  refine serve_keeps e (fun x r hx => ?_)
  with_reducible repeat' first | assumption | refine driveFwCmd_keeps ?_

theorem execStoNsOnline_keeps {t : Nat} {r : Req} {s u : State} (e : execStoNsOnline t r s = .next u) :
    Keeps s u := by
  unfold execStoNsOnline at e
  refine serve_keeps e (fun x r hx => ?_)
  with_reducible repeat' first | assumption | refine nsOnlineCmd_keeps ?_

theorem execTfSave_keeps {t : Nat} {r : Req} {s u : State} (e : execTfSave t r s = .next u) : Keeps s u := by
  unfold execTfSave at e
  refine serve_keeps e (fun x r hx => ?_)
  with_reducible repeat' first | assumption | refine tfSaveCmd_keeps ?_

theorem execTfSaved_keeps {t : Nat} {tf : BitVec 12} {s u : State} (e : execTfSaved t tf s = .next u) :
    Keeps s u := by
  unfold execTfSaved at e
  refine act_keeps e (fun x hx => ?_)
  with_reducible repeat' first | assumption | refine tfSavedEnd_keeps ?_

theorem execTfRestore_keeps {t : Nat} {r : Req} {s u : State} (e : execTfRestore t r s = .next u) : Keeps s u := by
  unfold execTfRestore at e
  refine serve_keeps e (fun x r hx => ?_)
  with_reducible repeat' first | assumption | refine tfRestoreCmd_keeps ?_

theorem execTfRestored_keeps {t : Nat} {tf : BitVec 12} {s u : State} (e : execTfRestored t tf s = .next u) :
    Keeps s u := by
  unfold execTfRestored at e
  refine act_keeps e (fun x hx => ?_)
  with_reducible repeat' first | assumption | refine tfRestoredEnd_keeps ?_

theorem execTfThaw_keeps {t : Nat} {r : Req} {s u : State} (e : execTfThaw t r s = .next u) : Keeps s u := by
  unfold execTfThaw at e
  refine serve_keeps e (fun x r hx => ?_)
  with_reducible repeat' first | assumption | refine tfThawCmd_keeps ?_

theorem execTfMoved_keeps {t : Nat} {r : Req} {s u : State} (e : execTfMoved t r s = .next u) : Keeps s u := by
  unfold execTfMoved at e
  refine serve_keeps e (fun x r hx => ?_)
  with_reducible repeat' first | assumption | refine tfMovedCmd_keeps ?_

theorem execGraceEnd_keeps {t : Nat} {tf : BitVec 12} {s u : State} (e : execGraceEnd t tf s = .next u) :
    Keeps s u := by
  unfold execGraceEnd at e
  refine act_keeps e (fun x hx => ?_)
  with_reducible repeat' first | assumption | refine graceEnd_keeps ?_

theorem execChcPatchLoad_keeps {t : Nat} {r : Req} {sig : Bool} {s u : State}
    (e : execChcPatchLoad t r sig s = .next u) : Keeps s u := by
  unfold execChcPatchLoad at e
  refine serve_keeps e (fun x r hx => ?_)
  with_reducible repeat' first | assumption | refine patchLoadCmd_keeps ?_

theorem execChcExtLoad_keeps {t : Nat} {r : Req} {sig : Bool} {s u : State} (e : execChcExtLoad t r sig s = .next u) :
    Keeps s u := by
  unfold execChcExtLoad at e
  refine serve_keeps e (fun x r hx => ?_)
  with_reducible repeat' first | assumption | refine extLoadCmd_keeps ?_

theorem execDeadListBurn_keeps {t : Nat} {unit : Word16} {s u : State} (e : execDeadListBurn t unit s = .next u) :
    Keeps s u := by
  unfold execDeadListBurn at e
  refine act_keeps e (fun x hx => ?_)
  dsimp only
  with_reducible repeat' first
    | assumption | refine Keeps.updFuses ?_ (FusesKept.burn _ _) rfl rfl
    | refine Keeps.ite (fun _ => ?_) (fun _ => ?_)

theorem execTestStart_keeps {t : Nat} {unit : Word16} {s u : State} (e : execTestStart t unit s = .next u) :
    Keeps s u := by
  unfold execTestStart at e
  refine act_keeps e (fun x hx => ?_)
  with_reducible repeat' first | assumption | refine testStart_keeps ?_

theorem execTestRunEnd_keeps {t : Nat} {pass : Bool} {signature : Nat} {s u : State}
    (e : execTestRunEnd t pass signature s = .next u) : Keeps s u := by
  unfold execTestRunEnd at e
  refine act_keeps e (fun x hx => ?_)
  with_reducible repeat' first | assumption | refine testRunEnd_keeps ?_

theorem execBankCopyDone_keeps {t : Nat} {s u : State} (e : execBankCopyDone t s = .next u) : Keeps s u := by
  unfold execBankCopyDone at e
  refine act_keeps e (fun x hx => ?_)
  with_reducible repeat' first | assumption | refine bankCopyDone_keeps ?_

theorem execSweepStart_keeps {t : Nat} {s u : State} (e : execSweepStart t s = .next u) : Keeps s u := by
  unfold execSweepStart at e
  refine act_keeps e (fun x hx => ?_)
  with_reducible repeat' first | assumption | refine sweepStart_keeps ?_

theorem execSweepPeriodEnd_keeps {t : Nat} {s u : State} (e : execSweepPeriodEnd t s = .next u) : Keeps s u := by
  unfold execSweepPeriodEnd at e
  refine act_keeps e (fun x hx => ?_)
  with_reducible repeat' first | assumption | refine sweepPeriodEnd_keeps ?_

theorem execTeaselStatus_keeps {t : Nat} {r : Req} {s u : State} (e : execTeaselStatus t r s = .next u) :
    Keeps s u := by
  unfold execTeaselStatus at e
  refine serve_keeps e (fun x r hx => ?_)
  with_reducible repeat' first | assumption | refine teaselStatusCmd_keeps ?_

theorem execTeaselTest_keeps {t : Nat} {r : Req} {s u : State} (e : execTeaselTest t r s = .next u) : Keeps s u := by
  unfold execTeaselTest at e
  refine serve_keeps e (fun x r hx => ?_)
  with_reducible repeat' first | assumption | refine teaselTestCmd_keeps ?_

theorem execTeaselDeclare_keeps {t : Nat} {r : Req} {s u : State} (e : execTeaselDeclare t r s = .next u) :
    Keeps s u := by
  unfold execTeaselDeclare at e
  refine serve_keeps e (fun x r hx => ?_)
  with_reducible repeat' first | assumption | refine teaselDeclareCmd_keeps ?_

theorem execTeaselReinstate_keeps {t : Nat} {r : Req} {s u : State} (e : execTeaselReinstate t r s = .next u) :
    Keeps s u := by
  unfold execTeaselReinstate at e
  refine serve_keeps e (fun x r hx => ?_)
  with_reducible repeat' first | assumption | refine teaselReinstateCmd_keeps ?_

theorem execTeaselDeadlist_keeps {t : Nat} {r : Req} {s u : State} (e : execTeaselDeadlist t r s = .next u) :
    Keeps s u := by
  unfold execTeaselDeadlist at e
  refine serve_keeps e (fun x r hx => ?_)
  with_reducible repeat' first | assumption | refine teaselDeadlistCmd_keeps ?_

theorem execPowerOnReset_keeps {t : Nat} {s u : State} (e : execPowerOnReset t s = .next u) : Keeps s u := by
  unfold execPowerOnReset at e
  refine act_keeps e (fun x hx => ?_)
  with_reducible repeat' first | assumption | refine powerOn_keeps ?_

theorem execResetNLow_keeps {t : Nat} {s u : State} (e : execResetNLow t s = .next u) : Keeps s u := by
  unfold execResetNLow at e
  refine act_keeps e (fun x hx => ?_)
  with_reducible repeat' first | assumption | refine deviceReset_keeps ?_ | refine Keeps.ite (fun _ => ?_) (fun _ => ?_)

theorem execWatchdog_keeps {t : Nat} {s u : State} (e : execWatchdog t s = .next u) : Keeps s u := by
  unfold execWatchdog at e
  refine act_keeps e (fun x hx => ?_)
  with_reducible repeat' first | assumption | refine deviceReset_keeps ?_ | refine Keeps.ite (fun _ => ?_) (fun _ => ?_)

theorem execDevResetExecute_keeps {t : Nat} {s u : State} (e : execDevResetExecute t s = .next u) : Keeps s u := by
  unfold execDevResetExecute at e
  refine act_keeps e (fun x hx => ?_)
  with_reducible repeat' first
    | assumption | refine deviceReset_keeps ?_ | refine Keeps.ite (fun _ => ?_) (fun _ => ?_) | split

theorem execThermalTrip_keeps {t : Nat} {tj : Int} {s u : State} (e : execThermalTrip t tj s = .next u) :
    Keeps s u := by
  unfold execThermalTrip at e
  refine act_keeps e (fun x hx => ?_)
  dsimp only
  with_reducible repeat' first
    | assumption | refine deviceReset_keeps ?_ | refine Keeps.ite (fun _ => ?_) (fun _ => ?_)
    | fail_if_no_progress refine Keeps.upd ?_ rfl rfl

theorem execResetRelease_keeps {t : Nat} {straps : Straps} {s u : State} (e : execResetRelease t straps s = .next u) :
    Keeps s u := by
  unfold execResetRelease at e
  refine act_keeps e (fun x hx => ?_)
  with_reducible repeat' first | assumption | refine resetRelease_keeps ?_

theorem execPatrolScrub_keeps {t : Nat} {kind : MemKind} {unit role : Byte} {addr : Word64} {found : EccFinding} {passDone : Bool} {s u : State}
    (e : execPatrolScrub t kind unit role addr found passDone s = .next u) : Keeps s u := by
  unfold execPatrolScrub at e
  refine act_keeps e (fun x hx => ?_)
  try dsimp only
  with_reducible repeat' first
    | assumption | refine countStat_keeps ?_ | refine fencedDiscard_keeps ?_ | refine scrubRead_keeps ?_
    | refine act_keeps ?_ | refine Keeps.ite (fun _ => ?_) (fun _ => ?_)
    | fail_if_no_progress refine Keeps.upd ?_ rfl rfl | split

theorem execFixedAreaRewrite_keeps {t : Nat} {addr : Word64} {s u : State}
    (e : execFixedAreaRewrite t addr s = .next u) : Keeps s u := by
  unfold execFixedAreaRewrite at e
  refine act_keeps e (fun x hx => ?_)
  dsimp only
  with_reducible repeat' first
    | assumption | refine Keeps.ite (fun _ => ?_) (fun _ => ?_) | fail_if_no_progress refine Keeps.upd ?_ rfl rfl

theorem execStage1Start_keeps {t : Nat} {facts : StartFacts} {s u : State} (e : execStage1Start t facts s = .next u) :
    Keeps s u := by
  unfold execStage1Start at e
  refine act_keeps e (fun x hx => ?_)
  with_reducible repeat' first | assumption | refine stage1Start_keeps ?_

theorem execBootVerdict_keeps {t : Nat} {sigs : SlotSigs} {s u : State} (e : execBootVerdict t sigs s = .next u) :
    Keeps s u := by
  unfold execBootVerdict at e
  refine act_keeps e (fun x hx => ?_)
  with_reducible repeat' first | assumption | refine bootVerdict_keeps ?_

theorem execHbmTrainingDone_keeps {t : Nat} {ok0 ok1 : Bool} {s u : State}
    (e : execHbmTrainingDone t ok0 ok1 s = .next u) : Keeps s u := by
  unfold execHbmTrainingDone at e
  refine act_keeps e (fun x hx => ?_)
  with_reducible repeat' first | assumption | refine hbmTrainingDone_keeps ?_

theorem execCoreImagesReady_keeps {t : Nat} {s u : State} (e : execCoreImagesReady t s = .next u) : Keeps s u := by
  unfold execCoreImagesReady at e
  refine act_keeps e (fun x hx => ?_)
  with_reducible repeat' first | assumption | refine coreImagesReady_keeps ?_

theorem execStoredConfigDecision_keeps {t : Nat} {imageSig : Bool} {s u : State}
    (e : execStoredConfigDecision t imageSig s = .next u) : Keeps s u := by
  unfold execStoredConfigDecision at e
  refine act_keeps e (fun x hx => ?_)
  with_reducible repeat' first | assumption | refine storedDecision_keeps ?_

theorem execTrialReverted_keeps {t : Nat} {s u : State} (e : execTrialReverted t s = .next u) : Keeps s u := by
  unfold execTrialReverted at e
  refine act_keeps e (fun x hx => ?_)
  dsimp only
  with_reducible repeat' first
    | assumption | refine raise_keeps ?_ | refine writeFlag_keeps ?_ | refine Keeps.ite (fun _ => ?_) (fun _ => ?_)
    | fail_if_no_progress refine Keeps.upd ?_ rfl rfl | split

theorem execBootStatus_keeps {t : Nat} {r : Req} {s u : State} (e : execBootStatus t r s = .next u) : Keeps s u := by
  unfold execBootStatus at e
  refine serve_keeps e (fun x r hx => ?_)
  with_reducible repeat' first | assumption | refine bootStatusCmd_keeps ?_

theorem execFwWrite_keeps {t : Nat} {r : Req} {flashOk : Bool} {s u : State}
    (e : execFwWrite t r flashOk s = .next u) : Keeps s u := by
  unfold execFwWrite at e
  refine serve_keeps e (fun x r hx => ?_)
  with_reducible repeat' first | assumption | refine fwWriteCmd_keeps ?_

theorem execFwVerify_keeps {t : Nat} {r : Req} {sigs : SlotSigs} {s u : State}
    (e : execFwVerify t r sigs s = .next u) : Keeps s u := by
  unfold execFwVerify at e
  refine serve_keeps e (fun x r hx => ?_)
  with_reducible repeat' first | assumption | refine fwVerifyCmd_keeps ?_

theorem execFwActivate_keeps {t : Nat} {r : Req} {sig flashOk : Bool} {s u : State}
    (e : execFwActivate t r sig flashOk s = .next u) : Keeps s u := by
  unfold execFwActivate at e
  refine serve_keeps e (fun x r hx => ?_)
  with_reducible repeat' first
    | assumption | refine controlled_keeps ?_ ?_ | refine fwActivateBody_keeps ?_ | (intro _; intros; try dsimp only)

theorem execFwConfirm_keeps {t : Nat} {r : Req} {flashOk : Bool} {s u : State}
    (e : execFwConfirm t r flashOk s = .next u) : Keeps s u := by
  unfold execFwConfirm at e
  refine serve_keeps e (fun x r hx => ?_)
  with_reducible repeat' first | assumption | refine fwConfirmCmd_keeps ?_

theorem execBootMinverRaise_keeps {t : Nat} {r : Req} {sig flashOk : Bool} {s u : State}
    (e : execBootMinverRaise t r sig flashOk s = .next u) : Keeps s u := by
  unfold execBootMinverRaise at e
  refine serve_keeps e (fun x r hx => ?_)
  with_reducible repeat' first
    | assumption | refine controlled_keeps ?_ ?_ | refine minverBody_keeps ?_ | (intro _; intros; try dsimp only)

theorem execVendorRevoke_keeps {t : Nat} {r : Req} {sig : Bool} {statement : StatementFound} {slotA slotB : SlotSigs} {s u : State}
    (e : execVendorRevoke t r sig statement slotA slotB s = .next u) : Keeps s u := by
  unfold execVendorRevoke at e
  refine serve_keeps e (fun x r hx => ?_)
  with_reducible repeat' first
    | assumption | refine controlled_keeps ?_ ?_ | refine revokeBody_keeps ?_ | (intro _; intros; try dsimp only)

theorem execOwnerKey_keeps {t : Nat} {r : Req} {sig flashOk : Bool} {s u : State}
    (e : execOwnerKey t r sig flashOk s = .next u) : Keeps s u := by
  unfold execOwnerKey at e
  refine serve_keeps e (fun x r hx => ?_)
  with_reducible repeat' first
    | assumption | refine controlled_keeps ?_ ?_ | refine ownerKeyBody_keeps ?_ | (intro _; intros; try dsimp only)

theorem execOwnerPolicy_keeps {t : Nat} {r : Req} {sig flashOk : Bool} {s u : State}
    (e : execOwnerPolicy t r sig flashOk s = .next u) : Keeps s u := by
  unfold execOwnerPolicy at e
  refine serve_keeps e (fun x r hx => ?_)
  with_reducible repeat' first
    | assumption | refine controlled_keeps ?_ ?_ | refine ownerPolicyBody_keeps ?_
    | (intro _; intros; try dsimp only)

theorem execKeyRootImport_keeps {t : Nat} {r : Req} {sig : Bool} {s u : State}
    (e : execKeyRootImport t r sig s = .next u) : Keeps s u := by
  unfold execKeyRootImport at e
  refine serve_keeps e (fun x r hx => ?_)
  with_reducible repeat' first | assumption | refine keyRootImportCmd_keeps ?_

theorem execLockstepMismatch_keeps {t pc : Nat} {s u : State} (e : execLockstepMismatch t pc s = .next u) :
    Keeps s u := by
  unfold execLockstepMismatch at e
  refine act_keeps e (fun x hx => ?_)
  with_reducible repeat' first | assumption | refine lockstepMismatch_keeps ?_

theorem execClerkRestartDone_keeps {t : Nat} {s u : State} (e : execClerkRestartDone t s = .next u) : Keeps s u := by
  unfold execClerkRestartDone at e
  refine act_keeps e (fun x hx => ?_)
  dsimp only
  with_reducible repeat' first
    | assumption | refine raise_keeps ?_ | fail_if_no_progress refine Keeps.upd ?_ rfl rfl | split

theorem execCfgOpen_keeps {t : Nat} {r : Req} {s u : State} (e : execCfgOpen t r s = .next u) : Keeps s u := by
  unfold execCfgOpen at e
  refine serve_keeps e (fun x r hx => ?_)
  with_reducible repeat' first | assumption | refine cfgOpenCmd_keeps ?_

theorem execCfgWrite_keeps {t : Nat} {r : Req} {s u : State} (e : execCfgWrite t r s = .next u) : Keeps s u := by
  unfold execCfgWrite at e
  refine serve_keeps e (fun x r hx => ?_)
  with_reducible repeat' first | assumption | refine cfgWriteCmd_keeps ?_

theorem execCfgRead_keeps {t : Nat} {r : Req} {s u : State} (e : execCfgRead t r s = .next u) : Keeps s u := by
  unfold execCfgRead at e
  refine serve_keeps e (fun x r hx => ?_)
  with_reducible repeat' first | assumption | refine cfgReadCmd_keeps ?_

theorem execCfgDiscard_keeps {t : Nat} {r : Req} {s u : State} (e : execCfgDiscard t r s = .next u) : Keeps s u := by
  unfold execCfgDiscard at e
  refine serve_keeps e (fun x r hx => ?_)
  with_reducible repeat' first | assumption | refine cfgDiscardCmd_keeps ?_

theorem execCfgStatus_keeps {t : Nat} {r : Req} {s u : State} (e : execCfgStatus t r s = .next u) : Keeps s u := by
  unfold execCfgStatus at e
  refine serve_keeps e (fun x r hx => ?_)
  with_reducible repeat' first | assumption | refine cfgStatusCmd_keeps ?_

theorem execCfgCommit_keeps {t : Nat} {r : Req} {s u : State} (e : execCfgCommit t r s = .next u) : Keeps s u := by
  unfold execCfgCommit at e
  refine serve_keeps e (fun x r hx => ?_)
  with_reducible repeat' first | assumption | refine cfgCommitCmd_keeps ?_

theorem execCfgRecall_keeps {t : Nat} {r : Req} {sig : Bool} {s u : State} (e : execCfgRecall t r sig s = .next u) :
    Keeps s u := by
  unfold execCfgRecall at e
  refine serve_keeps e (fun x r hx => ?_)
  with_reducible repeat' first | assumption | refine cfgRecallCmd_keeps ?_

theorem execStagingExpiry_keeps {t : Nat} {s u : State} (e : execStagingExpiry t s = .next u) : Keeps s u := by
  unfold execStagingExpiry at e
  refine act_keeps e (fun x hx => ?_)
  dsimp only
  with_reducible repeat' first
    | assumption | refine raise_keeps ?_ | refine Keeps.ite (fun _ => ?_) (fun _ => ?_)
    | fail_if_no_progress refine Keeps.upd ?_ rfl rfl | split

theorem execCfgStoreDone_keeps {t : Nat} {programmed : Bool} {s u : State}
    (e : execCfgStoreDone t programmed s = .next u) : Keeps s u := by
  unfold execCfgStoreDone at e
  refine act_keeps e (fun x hx => ?_)
  dsimp only
  with_reducible repeat' first
    | assumption | refine raise_keeps ?_ | refine flashWrite_keeps ?_ | refine Keeps.ite (fun _ => ?_) (fun _ => ?_)
    | fail_if_no_progress refine Keeps.upd ?_ rfl rfl | split

theorem execTallyInterval_keeps {t : Nat} {s u : State} (e : execTallyInterval t s = .next u) : Keeps s u := by
  unfold execTallyInterval at e
  refine act_keeps e (fun x hx => ?_)
  dsimp only
  with_reducible repeat' first | assumption | refine sendTally_keeps ?_ | refine Keeps.ite (fun _ => ?_) (fun _ => ?_)

theorem execTallyPeers_keeps {t : Nat} {r : Req} {s u : State} (e : execTallyPeers t r s = .next u) : Keeps s u := by
  unfold execTallyPeers at e
  refine serve_keeps e (fun x r hx => ?_)
  with_reducible repeat' first | assumption | refine tallyPeersCmd_keeps ?_

theorem execDevInfo_keeps {t : Nat} {r : Req} {s u : State} (e : execDevInfo t r s = .next u) : Keeps s u := by
  unfold execDevInfo at e
  refine serve_keeps e (fun x r hx => ?_)
  with_reducible repeat' first | assumption | refine devInfoCmd_keeps ?_

theorem execDevReset_keeps {t : Nat} {r : Req} {s u : State} (e : execDevReset t r s = .next u) : Keeps s u := by
  unfold execDevReset at e
  refine act_keeps e (fun x hx => ?_)
  dsimp only
  with_reducible repeat' first
    | assumption | refine fails_keeps ?_ | refine done_keeps ?_ | refine serveCmd_keeps ?_ ?_ ?_
    | refine Keeps.ite (fun _ => ?_) (fun _ => ?_) | refine Keeps.iteSt (fun _ => ?_) (fun _ => ?_)
    | fail_if_no_progress refine Keeps.upd ?_ rfl rfl | (intro _; intros; try dsimp only)

theorem execEvtSubscribe_keeps {t : Nat} {r : Req} {s u : State} (e : execEvtSubscribe t r s = .next u) :
    Keeps s u := by
  unfold execEvtSubscribe at e
  refine serve_keeps e (fun x r hx => ?_)
  with_reducible repeat' first | assumption | refine evtSubscribeCmd_keeps ?_

theorem execEvtUnsubscribe_keeps {t : Nat} {r : Req} {s u : State} (e : execEvtUnsubscribe t r s = .next u) :
    Keeps s u := by
  unfold execEvtUnsubscribe at e
  refine serve_keeps e (fun x r hx => ?_)
  with_reducible repeat' first | assumption | refine evtUnsubscribeCmd_keeps ?_

theorem execEvtRead_keeps {t : Nat} {r : Req} {s u : State} (e : execEvtRead t r s = .next u) : Keeps s u := by
  unfold execEvtRead at e
  refine serve_keeps e (fun x r hx => ?_)
  with_reducible repeat' first | assumption | refine evtReadCmd_keeps ?_

theorem execEventMessageDone_keeps {t : Nat} {sub : Fin 8} {status : Byte} {s u : State}
    (e : execEventMessageDone t sub status s = .next u) : Keeps s u := by
  unfold execEventMessageDone at e
  refine act_keeps e (fun x hx => ?_)
  with_reducible repeat' first | assumption | refine finishMsg_keeps ?_ | split

theorem execEventRetry_keeps {t : Nat} {sub : Fin 8} {s u : State} (e : execEventRetry t sub s = .next u) :
    Keeps s u := by
  unfold execEventRetry at e
  refine act_keeps e (fun x hx => ?_)
  with_reducible repeat' first | assumption | refine eventRetry_keeps ?_

theorem execXtalStable_keeps {t : Nat} {refs : Refs} {s u : State} (e : execXtalStable t refs s = .next u) :
    Keeps s u := by
  unfold execXtalStable at e
  refine act_keeps e (fun x hx => ?_)
  dsimp only
  with_reducible repeat' first
    | assumption | refine Keeps.ite (fun _ => ?_) (fun _ => ?_) | fail_if_no_progress refine Keeps.upd ?_ rfl rfl

theorem execXtalTimeout_keeps {t : Nat} {s u : State} (e : execXtalTimeout t s = .next u) : Keeps s u := by
  unfold execXtalTimeout at e
  refine act_keeps e (fun x hx => ?_)
  with_reducible repeat' first | assumption | refine halt_keeps ?_ | refine Keeps.ite (fun _ => ?_) (fun _ => ?_)

theorem execClkRefLost_keeps {t : Nat} {input : Fin 3} {s u : State} (e : execClkRefLost t input s = .next u) :
    Keeps s u := by
  unfold execClkRefLost at e
  refine act_keeps e (fun x hx => ?_)
  with_reducible repeat' first | assumption | refine refLost_keeps ?_

theorem execClkRefRestored_keeps {t : Nat} {input : Fin 3} {s u : State}
    (e : execClkRefRestored t input s = .next u) : Keeps s u := by
  unfold execClkRefRestored at e
  refine act_keeps e (fun x hx => ?_)
  with_reducible repeat' first
    | assumption | refine raise_keeps ?_ | refine setRef_keeps ?_ | refine Keeps.ite (fun _ => ?_) (fun _ => ?_)

theorem execClkFail_keeps {t : Nat} {input : Fin 9} {s u : State} (e : execClkFail t input s = .next u) :
    Keeps s u := by
  unfold execClkFail at e
  refine act_keeps e (fun x hx => ?_)
  with_reducible repeat' first | assumption | refine clkFail_keeps ?_

theorem execAvsAdjust_keeps {t want measured : Nat} {answered : Bool} {regStatus : Nat} {s u : State}
    (e : execAvsAdjust t want measured answered regStatus s = .next u) : Keeps s u := by
  unfold execAvsAdjust at e
  refine act_keeps e (fun x hx => ?_)
  with_reducible repeat' first | assumption | refine avsAdjust_keeps ?_

theorem execThermalWarn_keeps {t : Nat} {tj : Int} {s u : State} (e : execThermalWarn t tj s = .next u) :
    Keeps s u := by
  unfold execThermalWarn at e
  refine act_keeps e (fun x hx => ?_)
  dsimp only
  with_reducible repeat' first
    | assumption | refine raise_keeps ?_ | refine Keeps.ite (fun _ => ?_) (fun _ => ?_)
    | fail_if_no_progress refine Keeps.upd ?_ rfl rfl

theorem execThermalWarnRearm_keeps {t : Nat} {tj : Int} {s u : State} (e : execThermalWarnRearm t tj s = .next u) :
    Keeps s u := by
  unfold execThermalWarnRearm at e
  refine act_keeps e (fun x hx => ?_)
  dsimp only
  with_reducible repeat' first
    | assumption | refine Keeps.ite (fun _ => ?_) (fun _ => ?_) | fail_if_no_progress refine Keeps.upd ?_ rfl rfl

theorem execTbRead_keeps {t : Nat} {r : Req} {s u : State} (e : execTbRead t r s = .next u) : Keeps s u := by
  unfold execTbRead at e
  refine serve_keeps e (fun x r hx => ?_)
  with_reducible repeat' first | assumption | refine tbReadCmd_keeps ?_

theorem execTbSet_keeps {t : Nat} {r : Req} {s u : State} (e : execTbSet t r s = .next u) : Keeps s u := by
  unfold execTbSet at e
  refine serve_keeps e (fun x r hx => ?_)
  with_reducible repeat' first | assumption | refine tbSetCmd_keeps ?_

theorem execTbRate_keeps {t : Nat} {r : Req} {s u : State} (e : execTbRate t r s = .next u) : Keeps s u := by
  unfold execTbRate at e
  refine serve_keeps e (fun x r hx => ?_)
  with_reducible repeat' first | assumption | refine tbRateCmd_keeps ?_

theorem execTbSlew_keeps {t : Nat} {r : Req} {s u : State} (e : execTbSlew t r s = .next u) : Keeps s u := by
  unfold execTbSlew at e
  refine serve_keeps e (fun x r hx => ?_)
  with_reducible repeat' first | assumption | refine tbSlewCmd_keeps ?_

theorem execSlewEnd_keeps {t : Nat} {s u : State} (e : execSlewEnd t s = .next u) : Keeps s u := by
  unfold execSlewEnd at e
  refine act_keeps e (fun x hx => ?_)
  dsimp only
  with_reducible repeat' first
    | assumption | refine Keeps.ite (fun _ => ?_) (fun _ => ?_) | fail_if_no_progress refine Keeps.upd ?_ rfl rfl

theorem execPpsInEdge_keeps {t : Nat} {s u : State} (e : execPpsInEdge t s = .next u) : Keeps s u := by
  unfold execPpsInEdge at e
  refine act_keeps e (fun x hx => ?_)
  dsimp only
  with_reducible repeat' first
    | assumption | refine countErr_keeps ?_ | refine Keeps.ite (fun _ => ?_) (fun _ => ?_)
    | fail_if_no_progress refine Keeps.upd ?_ rfl rfl

theorem execPpsOutRise_keeps {t : Nat} {s u : State} (e : execPpsOutRise t s = .next u) : Keeps s u := by
  unfold execPpsOutRise at e
  refine act_keeps e (fun x hx => ?_)
  with_reducible repeat' first | assumption | refine ppsOutRise_keeps ?_

theorem execPpsOutFall_keeps {t : Nat} {s u : State} (e : execPpsOutFall t s = .next u) : Keeps s u := by
  unfold execPpsOutFall at e
  refine act_keeps e (fun x hx => ?_)
  dsimp only
  with_reducible repeat' first
    | assumption | refine Keeps.ite (fun _ => ?_) (fun _ => ?_) | fail_if_no_progress refine Keeps.upd ?_ rfl rfl

theorem execClkGate_keeps {t : Nat} {r : Req} {s u : State} (e : execClkGate t r s = .next u) : Keeps s u := by
  unfold execClkGate at e
  refine serve_keeps e (fun x r hx => ?_)
  with_reducible repeat' first | assumption | refine clkGateCmd_keeps ?_

theorem execAutoWake_keeps {t : Nat} {block : Fin 33} {s u : State} (e : execAutoWake t block s = .next u) :
    Keeps s u := by
  unfold execAutoWake at e
  refine act_keeps e (fun x hx => ?_)
  dsimp only
  with_reducible repeat' first
    | assumption | refine countStat_keeps ?_ | refine Keeps.ite (fun _ => ?_) (fun _ => ?_)
    | fail_if_no_progress refine Keeps.upd ?_ rfl rfl

theorem execAutoGateStop_keeps {t : Nat} {block : Fin 33} {s u : State} (e : execAutoGateStop t block s = .next u) :
    Keeps s u := by
  unfold execAutoGateStop at e
  refine act_keeps e (fun x hx => ?_)
  dsimp only
  with_reducible repeat' first
    | assumption | refine Keeps.ite (fun _ => ?_) (fun _ => ?_) | fail_if_no_progress refine Keeps.upd ?_ rfl rfl

theorem execClkoutSettingApply_keeps {t : Nat} {s u : State} (e : execClkoutSettingApply t s = .next u) :
    Keeps s u := by
  unfold execClkoutSettingApply at e
  refine act_keeps e (fun x hx => ?_)
  dsimp only
  with_reducible repeat' first
    | assumption | refine Keeps.ite (fun _ => ?_) (fun _ => ?_) | fail_if_no_progress refine Keeps.upd ?_ rfl rfl

theorem execPwrStatus_keeps {t : Nat} {r : Req} {s u : State} (e : execPwrStatus t r s = .next u) : Keeps s u := by
  unfold execPwrStatus at e
  refine serve_keeps e (fun x r hx => ?_)
  with_reducible repeat' first | assumption | refine pwrStatusCmd_keeps ?_

theorem execTapReset_keeps {s u : State} (e : execTapReset s = .next u) : Keeps s u := by
  unfold execTapReset at e
  cases e
  with_reducible repeat' first | refine loadIr_keeps ?_ | exact Keeps.refl _

theorem execIdcode_keeps {s u : State} (e : execIdcode s = .next u) : Keeps s u := by
  unfold execIdcode at e
  cases e
  with_reducible repeat' first | refine loadIr_keeps ?_ | exact Keeps.refl _

theorem execSamplePreload_keeps {bits : BitVec 104} {s u : State} (e : execSamplePreload bits s = .next u) :
    Keeps s u := by
  unfold execSamplePreload at e
  cases e
  with_reducible repeat' first
    | refine loadIr_keeps ?_ | exact Keeps.refl _ | fail_if_no_progress refine Keeps.upd ?_ rfl rfl

theorem execExtest_keeps {s u : State} (e : execExtest s = .next u) : Keeps s u := by
  unfold execExtest at e
  cases e
  with_reducible repeat' first | refine loadIr_keeps ?_ | exact Keeps.refl _

theorem execClamp_keeps {s u : State} (e : execClamp s = .next u) : Keeps s u := by
  unfold execClamp at e
  cases e
  with_reducible repeat' first | refine loadIr_keeps ?_ | exact Keeps.refl _

theorem execHighz_keeps {s u : State} (e : execHighz s = .next u) : Keeps s u := by
  unfold execHighz at e
  cases e
  with_reducible repeat' first | refine loadIr_keeps ?_ | exact Keeps.refl _

theorem execBypass_keeps {opcode : Byte} {s u : State} (e : execBypass opcode s = .next u) : Keeps s u := by
  unfold execBypass at e
  cases e
  with_reducible repeat' first | refine loadIr_keeps ?_ | exact Keeps.refl _

theorem execExlatSnap_keeps {lp : Fin 16} {v : Word32} {s u : State} (e : execExlatSnap lp v s = .next u) :
    Keeps s u :=
  regRow_keeps e

theorem execExlatCtlClear_keeps {lp : Fin 16} {v : Word32} {s u : State} (e : execExlatCtlClear lp v s = .next u) :
    Keeps s u :=
  regRow_keeps e

theorem execExlatValidRearm_keeps {lp : Fin 16} {v : Word32} {s u : State}
    (e : execExlatValidRearm lp v s = .next u) : Keeps s u :=
  regRow_keeps e

theorem execPortSnap_keeps {port : Fin 2} {v : Word32} {s u : State} (e : execPortSnap port v s = .next u) :
    Keeps s u :=
  regRow_keeps e

theorem execPortClear_keeps {port : Fin 2} {v : Word32} {s u : State} (e : execPortClear port v s = .next u) :
    Keeps s u :=
  regRow_keeps e

theorem execParseSnap_keeps {v : Word32} {s u : State} (e : execParseSnap v s = .next u) : Keeps s u :=
  regRow_keeps e

theorem execParseClear_keeps {v : Word32} {s u : State} (e : execParseClear v s = .next u) : Keeps s u :=
  regRow_keeps e

theorem execTblSnap_keeps {tbl : Fin 16} {v : Word32} {s u : State} (e : execTblSnap tbl v s = .next u) : Keeps s u :=
  regRow_keeps e

theorem execTblClear_keeps {tbl : Fin 16} {v : Word32} {s u : State} (e : execTblClear tbl v s = .next u) :
    Keeps s u :=
  regRow_keeps e

theorem execTmSnap_keeps {lp : Fin 16} {v : Word32} {s u : State} (e : execTmSnap lp v s = .next u) : Keeps s u :=
  regRow_keeps e

theorem execTmClear_keeps {lp : Fin 16} {v : Word32} {s u : State} (e : execTmClear lp v s = .next u) : Keeps s u :=
  regRow_keeps e

theorem execTmGsnap_keeps {v : Word32} {s u : State} (e : execTmGsnap v s = .next u) : Keeps s u :=
  regRow_keeps e

theorem execTmGclear_keeps {v : Word32} {s u : State} (e : execTmGclear v s = .next u) : Keeps s u :=
  regRow_keeps e

theorem execEhtSnap_keeps {v : Word32} {s u : State} (e : execEhtSnap v s = .next u) : Keeps s u :=
  regRow_keeps e

theorem execEhtClear_keeps {v : Word32} {s u : State} (e : execEhtClear v s = .next u) : Keeps s u :=
  regRow_keeps e

theorem execStoSnap_keeps {v : Word32} {s u : State} (e : execStoSnap v s = .next u) : Keeps s u :=
  regRow_keeps e

theorem execStoClear_keeps {v : Word32} {s u : State} (e : execStoClear v s = .next u) : Keeps s u :=
  regRow_keeps e

theorem execStallSnap_keeps {stall : Fin 12} {v : Word32} {s u : State} (e : execStallSnap stall v s = .next u) :
    Keeps s u :=
  regRow_keeps e

theorem execStallClear_keeps {stall : Fin 12} {v : Word32} {s u : State} (e : execStallClear stall v s = .next u) :
    Keeps s u :=
  regRow_keeps e

theorem execSecSnap_keeps {v : Word32} {s u : State} (e : execSecSnap v s = .next u) : Keeps s u :=
  regRow_keeps e

theorem execSecClear_keeps {v : Word32} {s u : State} (e : execSecClear v s = .next u) : Keeps s u :=
  regRow_keeps e

theorem execMemSnap_keeps {v : Word32} {s u : State} (e : execMemSnap v s = .next u) : Keeps s u :=
  regRow_keeps e

theorem execMemClear_keeps {v : Word32} {s u : State} (e : execMemClear v s = .next u) : Keeps s u :=
  regRow_keeps e

theorem execMemValidRearm_keeps {v : Word32} {s u : State} (e : execMemValidRearm v s = .next u) : Keeps s u :=
  regRow_keeps e

theorem execClkSnap_keeps {v : Word32} {s u : State} (e : execClkSnap v s = .next u) : Keeps s u :=
  regRow_keeps e

theorem execClkClear_keeps {v : Word32} {s u : State} (e : execClkClear v s = .next u) : Keeps s u :=
  regRow_keeps e

theorem execCprSnap_keeps {v : Word32} {s u : State} (e : execCprSnap v s = .next u) : Keeps s u :=
  regRow_keeps e

theorem execCprClear_keeps {v : Word32} {s u : State} (e : execCprClear v s = .next u) : Keeps s u :=
  regRow_keeps e

theorem execTslSnap_keeps {v : Word32} {s u : State} (e : execTslSnap v s = .next u) : Keeps s u :=
  regRow_keeps e

theorem execTslClear_keeps {v : Word32} {s u : State} (e : execTslClear v s = .next u) : Keeps s u :=
  regRow_keeps e

theorem execRegisterWrite_keeps {addr : Nat} {v : Word32} {s u : State} (e : execRegisterWrite addr v s = .next u) :
    Keeps s u :=
  regRow_keeps e

theorem execRegRead_keeps {t : Nat} {r : Req} {s u : State} (e : execRegRead t r s = .next u) : Keeps s u := by
  unfold execRegRead at e
  refine serve_keeps e (fun x r hx => ?_)
  with_reducible repeat' first | assumption | refine regReadCmd_keeps ?_

theorem execRegWrite_keeps {t : Nat} {r : Req} {s u : State} (e : execRegWrite t r s = .next u) : Keeps s u := by
  unfold execRegWrite at e
  refine serve_keeps e (fun x r hx => ?_)
  with_reducible repeat' first | assumption | refine regWriteCmd_keeps ?_

end Sys2Proof.Machine
end

