-- ==== Sys2Proof/Laws/State.lean ====
section
/-! SUPPORT. What each update of the State leaves: one lemma for every other field, and what an accessor reads afterwards. -/

namespace Sys2Proof.Machine

variable (s : State)

/-! ### State.advance -/

@[simp] theorem advance_phase (t : Nat) : (s.advance t).phase = s.phase := by unfold State.advance; split <;> rfl
@[simp] theorem advance_pins (t : Nat) : (s.advance t).pins = s.pins := by unfold State.advance; split <;> rfl
@[simp] theorem advance_fuses (t : Nat) : (s.advance t).fuses = s.fuses := by unfold State.advance; split <;> rfl
@[simp] theorem advance_boot (t : Nat) : (s.advance t).boot = s.boot := by unfold State.advance; split <;> rfl
@[simp] theorem advance_cfg (t : Nat) : (s.advance t).cfg = s.cfg := by unfold State.advance; split <;> rfl
@[simp] theorem advance_mbx (t : Nat) : (s.advance t).mbx = s.mbx := by unfold State.advance; split <;> rfl
@[simp] theorem advance_ctrs (t : Nat) : (s.advance t).ctrs = s.ctrs := by unfold State.advance; split <;> rfl
@[simp] theorem advance_flagSet (t : Nat) : (s.advance t).flagSet = s.flagSet := by unfold State.advance; split <;> rfl
@[simp] theorem advance_qs (t : Nat) : (s.advance t).qs = s.qs := by unfold State.advance; split <;> rfl
@[simp] theorem advance_fence (t : Nat) : (s.advance t).fence = s.fence := by unfold State.advance; split <;> rfl
@[simp] theorem advance_port (t : Nat) : (s.advance t).port = s.port := by unfold State.advance; split <;> rfl
@[simp] theorem advance_parse (t : Nat) : (s.advance t).parse = s.parse := by unfold State.advance; split <;> rfl
@[simp] theorem advance_tm (t : Nat) : (s.advance t).tm = s.tm := by unfold State.advance; split <;> rfl
@[simp] theorem advance_tables (t : Nat) : (s.advance t).tables = s.tables := by unfold State.advance; split <;> rfl
@[simp] theorem advance_eht (t : Nat) : (s.advance t).eht = s.eht := by unfold State.advance; split <;> rfl
@[simp] theorem advance_mem (t : Nat) : (s.advance t).mem = s.mem := by unfold State.advance; split <;> rfl
@[simp] theorem advance_ido (t : Nat) : (s.advance t).ido = s.ido := by unfold State.advance; split <;> rfl
@[simp] theorem advance_tfs (t : Nat) : (s.advance t).tfs = s.tfs := by unfold State.advance; split <;> rfl
@[simp] theorem advance_sto (t : Nat) : (s.advance t).sto = s.sto := by unfold State.advance; split <;> rfl
@[simp] theorem advance_sec (t : Nat) : (s.advance t).sec = s.sec := by unfold State.advance; split <;> rfl
@[simp] theorem advance_tsl (t : Nat) : (s.advance t).tsl = s.tsl := by unfold State.advance; split <;> rfl
@[simp] theorem advance_free (t : Nat) : (s.advance t).free = s.free := by unfold State.advance; split <;> rfl
@[simp] theorem advance_pending (t : Nat) : (s.advance t).pending = s.pending := by unfold State.advance; split <;> rfl

/-! ### State.onLp -/

@[simp] theorem onLp_phase (n : Nat) (f : LPort → LPort) : (s.onLp n f).phase = s.phase := rfl
@[simp] theorem onLp_clk (n : Nat) (f : LPort → LPort) : (s.onLp n f).clk = s.clk := rfl
@[simp] theorem onLp_pins (n : Nat) (f : LPort → LPort) : (s.onLp n f).pins = s.pins := rfl
@[simp] theorem onLp_fuses (n : Nat) (f : LPort → LPort) : (s.onLp n f).fuses = s.fuses := rfl
@[simp] theorem onLp_boot (n : Nat) (f : LPort → LPort) : (s.onLp n f).boot = s.boot := rfl
@[simp] theorem onLp_cfg (n : Nat) (f : LPort → LPort) : (s.onLp n f).cfg = s.cfg := rfl
@[simp] theorem onLp_mbx (n : Nat) (f : LPort → LPort) : (s.onLp n f).mbx = s.mbx := rfl
@[simp] theorem onLp_ctrs (n : Nat) (f : LPort → LPort) : (s.onLp n f).ctrs = s.ctrs := rfl
@[simp] theorem onLp_flagSet (n : Nat) (f : LPort → LPort) : (s.onLp n f).flagSet = s.flagSet := rfl
@[simp] theorem onLp_qs (n : Nat) (f : LPort → LPort) : (s.onLp n f).qs = s.qs := rfl
@[simp] theorem onLp_fence (n : Nat) (f : LPort → LPort) : (s.onLp n f).fence = s.fence := rfl
@[simp] theorem onLp_parse (n : Nat) (f : LPort → LPort) : (s.onLp n f).parse = s.parse := rfl
@[simp] theorem onLp_tm (n : Nat) (f : LPort → LPort) : (s.onLp n f).tm = s.tm := rfl
@[simp] theorem onLp_tables (n : Nat) (f : LPort → LPort) : (s.onLp n f).tables = s.tables := rfl
@[simp] theorem onLp_eht (n : Nat) (f : LPort → LPort) : (s.onLp n f).eht = s.eht := rfl
@[simp] theorem onLp_mem (n : Nat) (f : LPort → LPort) : (s.onLp n f).mem = s.mem := rfl
@[simp] theorem onLp_ido (n : Nat) (f : LPort → LPort) : (s.onLp n f).ido = s.ido := rfl
@[simp] theorem onLp_tfs (n : Nat) (f : LPort → LPort) : (s.onLp n f).tfs = s.tfs := rfl
@[simp] theorem onLp_sto (n : Nat) (f : LPort → LPort) : (s.onLp n f).sto = s.sto := rfl
@[simp] theorem onLp_sec (n : Nat) (f : LPort → LPort) : (s.onLp n f).sec = s.sec := rfl
@[simp] theorem onLp_tsl (n : Nat) (f : LPort → LPort) : (s.onLp n f).tsl = s.tsl := rfl
@[simp] theorem onLp_free (n : Nat) (f : LPort → LPort) : (s.onLp n f).free = s.free := rfl
@[simp] theorem onLp_pending (n : Nat) (f : LPort → LPort) : (s.onLp n f).pending = s.pending := rfl

/-! ### State.onPp -/

@[simp] theorem onPp_phase (n : Nat) (f : PPort → PPort) : (s.onPp n f).phase = s.phase := rfl
@[simp] theorem onPp_clk (n : Nat) (f : PPort → PPort) : (s.onPp n f).clk = s.clk := rfl
@[simp] theorem onPp_pins (n : Nat) (f : PPort → PPort) : (s.onPp n f).pins = s.pins := rfl
@[simp] theorem onPp_fuses (n : Nat) (f : PPort → PPort) : (s.onPp n f).fuses = s.fuses := rfl
@[simp] theorem onPp_boot (n : Nat) (f : PPort → PPort) : (s.onPp n f).boot = s.boot := rfl
@[simp] theorem onPp_cfg (n : Nat) (f : PPort → PPort) : (s.onPp n f).cfg = s.cfg := rfl
@[simp] theorem onPp_mbx (n : Nat) (f : PPort → PPort) : (s.onPp n f).mbx = s.mbx := rfl
@[simp] theorem onPp_ctrs (n : Nat) (f : PPort → PPort) : (s.onPp n f).ctrs = s.ctrs := rfl
@[simp] theorem onPp_flagSet (n : Nat) (f : PPort → PPort) : (s.onPp n f).flagSet = s.flagSet := rfl
@[simp] theorem onPp_qs (n : Nat) (f : PPort → PPort) : (s.onPp n f).qs = s.qs := rfl
@[simp] theorem onPp_fence (n : Nat) (f : PPort → PPort) : (s.onPp n f).fence = s.fence := rfl
@[simp] theorem onPp_parse (n : Nat) (f : PPort → PPort) : (s.onPp n f).parse = s.parse := rfl
@[simp] theorem onPp_tm (n : Nat) (f : PPort → PPort) : (s.onPp n f).tm = s.tm := rfl
@[simp] theorem onPp_tables (n : Nat) (f : PPort → PPort) : (s.onPp n f).tables = s.tables := rfl
@[simp] theorem onPp_eht (n : Nat) (f : PPort → PPort) : (s.onPp n f).eht = s.eht := rfl
@[simp] theorem onPp_mem (n : Nat) (f : PPort → PPort) : (s.onPp n f).mem = s.mem := rfl
@[simp] theorem onPp_ido (n : Nat) (f : PPort → PPort) : (s.onPp n f).ido = s.ido := rfl
@[simp] theorem onPp_tfs (n : Nat) (f : PPort → PPort) : (s.onPp n f).tfs = s.tfs := rfl
@[simp] theorem onPp_sto (n : Nat) (f : PPort → PPort) : (s.onPp n f).sto = s.sto := rfl
@[simp] theorem onPp_sec (n : Nat) (f : PPort → PPort) : (s.onPp n f).sec = s.sec := rfl
@[simp] theorem onPp_tsl (n : Nat) (f : PPort → PPort) : (s.onPp n f).tsl = s.tsl := rfl
@[simp] theorem onPp_free (n : Nat) (f : PPort → PPort) : (s.onPp n f).free = s.free := rfl
@[simp] theorem onPp_pending (n : Nat) (f : PPort → PPort) : (s.onPp n f).pending = s.pending := rfl

/-! ### State.onStall -/

@[simp] theorem onStall_phase (n : Nat) (f : Stall → Stall) : (s.onStall n f).phase = s.phase := rfl
@[simp] theorem onStall_clk (n : Nat) (f : Stall → Stall) : (s.onStall n f).clk = s.clk := rfl
@[simp] theorem onStall_pins (n : Nat) (f : Stall → Stall) : (s.onStall n f).pins = s.pins := rfl
@[simp] theorem onStall_fuses (n : Nat) (f : Stall → Stall) : (s.onStall n f).fuses = s.fuses := rfl
@[simp] theorem onStall_boot (n : Nat) (f : Stall → Stall) : (s.onStall n f).boot = s.boot := rfl
@[simp] theorem onStall_cfg (n : Nat) (f : Stall → Stall) : (s.onStall n f).cfg = s.cfg := rfl
@[simp] theorem onStall_mbx (n : Nat) (f : Stall → Stall) : (s.onStall n f).mbx = s.mbx := rfl
@[simp] theorem onStall_ctrs (n : Nat) (f : Stall → Stall) : (s.onStall n f).ctrs = s.ctrs := rfl
@[simp] theorem onStall_flagSet (n : Nat) (f : Stall → Stall) : (s.onStall n f).flagSet = s.flagSet := rfl
@[simp] theorem onStall_qs (n : Nat) (f : Stall → Stall) : (s.onStall n f).qs = s.qs := rfl
@[simp] theorem onStall_fence (n : Nat) (f : Stall → Stall) : (s.onStall n f).fence = s.fence := rfl
@[simp] theorem onStall_port (n : Nat) (f : Stall → Stall) : (s.onStall n f).port = s.port := rfl
@[simp] theorem onStall_parse (n : Nat) (f : Stall → Stall) : (s.onStall n f).parse = s.parse := rfl
@[simp] theorem onStall_tm (n : Nat) (f : Stall → Stall) : (s.onStall n f).tm = s.tm := rfl
@[simp] theorem onStall_tables (n : Nat) (f : Stall → Stall) : (s.onStall n f).tables = s.tables := rfl
@[simp] theorem onStall_eht (n : Nat) (f : Stall → Stall) : (s.onStall n f).eht = s.eht := rfl
@[simp] theorem onStall_mem (n : Nat) (f : Stall → Stall) : (s.onStall n f).mem = s.mem := rfl
@[simp] theorem onStall_tfs (n : Nat) (f : Stall → Stall) : (s.onStall n f).tfs = s.tfs := rfl
@[simp] theorem onStall_sto (n : Nat) (f : Stall → Stall) : (s.onStall n f).sto = s.sto := rfl
@[simp] theorem onStall_sec (n : Nat) (f : Stall → Stall) : (s.onStall n f).sec = s.sec := rfl
@[simp] theorem onStall_tsl (n : Nat) (f : Stall → Stall) : (s.onStall n f).tsl = s.tsl := rfl
@[simp] theorem onStall_free (n : Nat) (f : Stall → Stall) : (s.onStall n f).free = s.free := rfl
@[simp] theorem onStall_pending (n : Nat) (f : Stall → Stall) : (s.onStall n f).pending = s.pending := rfl

/-! ### State.onRole -/

@[simp] theorem onRole_phase (a r : Nat) (f : CoreRole → CoreRole) : (s.onRole a r f).phase = s.phase := rfl
@[simp] theorem onRole_clk (a r : Nat) (f : CoreRole → CoreRole) : (s.onRole a r f).clk = s.clk := rfl
@[simp] theorem onRole_pins (a r : Nat) (f : CoreRole → CoreRole) : (s.onRole a r f).pins = s.pins := rfl
@[simp] theorem onRole_fuses (a r : Nat) (f : CoreRole → CoreRole) : (s.onRole a r f).fuses = s.fuses := rfl
@[simp] theorem onRole_boot (a r : Nat) (f : CoreRole → CoreRole) : (s.onRole a r f).boot = s.boot := rfl
@[simp] theorem onRole_cfg (a r : Nat) (f : CoreRole → CoreRole) : (s.onRole a r f).cfg = s.cfg := rfl
@[simp] theorem onRole_mbx (a r : Nat) (f : CoreRole → CoreRole) : (s.onRole a r f).mbx = s.mbx := rfl
@[simp] theorem onRole_ctrs (a r : Nat) (f : CoreRole → CoreRole) : (s.onRole a r f).ctrs = s.ctrs := rfl
@[simp] theorem onRole_flagSet (a r : Nat) (f : CoreRole → CoreRole) : (s.onRole a r f).flagSet = s.flagSet := rfl
@[simp] theorem onRole_qs (a r : Nat) (f : CoreRole → CoreRole) : (s.onRole a r f).qs = s.qs := rfl
@[simp] theorem onRole_fence (a r : Nat) (f : CoreRole → CoreRole) : (s.onRole a r f).fence = s.fence := rfl
@[simp] theorem onRole_port (a r : Nat) (f : CoreRole → CoreRole) : (s.onRole a r f).port = s.port := rfl
@[simp] theorem onRole_parse (a r : Nat) (f : CoreRole → CoreRole) : (s.onRole a r f).parse = s.parse := rfl
@[simp] theorem onRole_tm (a r : Nat) (f : CoreRole → CoreRole) : (s.onRole a r f).tm = s.tm := rfl
@[simp] theorem onRole_tables (a r : Nat) (f : CoreRole → CoreRole) : (s.onRole a r f).tables = s.tables := rfl
@[simp] theorem onRole_eht (a r : Nat) (f : CoreRole → CoreRole) : (s.onRole a r f).eht = s.eht := rfl
@[simp] theorem onRole_mem (a r : Nat) (f : CoreRole → CoreRole) : (s.onRole a r f).mem = s.mem := rfl
@[simp] theorem onRole_tfs (a r : Nat) (f : CoreRole → CoreRole) : (s.onRole a r f).tfs = s.tfs := rfl
@[simp] theorem onRole_sto (a r : Nat) (f : CoreRole → CoreRole) : (s.onRole a r f).sto = s.sto := rfl
@[simp] theorem onRole_sec (a r : Nat) (f : CoreRole → CoreRole) : (s.onRole a r f).sec = s.sec := rfl
@[simp] theorem onRole_tsl (a r : Nat) (f : CoreRole → CoreRole) : (s.onRole a r f).tsl = s.tsl := rfl
@[simp] theorem onRole_free (a r : Nat) (f : CoreRole → CoreRole) : (s.onRole a r f).free = s.free := rfl
@[simp] theorem onRole_pending (a r : Nat) (f : CoreRole → CoreRole) : (s.onRole a r f).pending = s.pending := rfl

/-! ### State.onThr -/

@[simp] theorem onThr_phase (i : Tid) (f : Thread → Thread) : (s.onThr i f).phase = s.phase := rfl
@[simp] theorem onThr_clk (i : Tid) (f : Thread → Thread) : (s.onThr i f).clk = s.clk := rfl
@[simp] theorem onThr_pins (i : Tid) (f : Thread → Thread) : (s.onThr i f).pins = s.pins := rfl
@[simp] theorem onThr_fuses (i : Tid) (f : Thread → Thread) : (s.onThr i f).fuses = s.fuses := rfl
@[simp] theorem onThr_boot (i : Tid) (f : Thread → Thread) : (s.onThr i f).boot = s.boot := rfl
@[simp] theorem onThr_cfg (i : Tid) (f : Thread → Thread) : (s.onThr i f).cfg = s.cfg := rfl
@[simp] theorem onThr_mbx (i : Tid) (f : Thread → Thread) : (s.onThr i f).mbx = s.mbx := rfl
@[simp] theorem onThr_ctrs (i : Tid) (f : Thread → Thread) : (s.onThr i f).ctrs = s.ctrs := rfl
@[simp] theorem onThr_flagSet (i : Tid) (f : Thread → Thread) : (s.onThr i f).flagSet = s.flagSet := rfl
@[simp] theorem onThr_qs (i : Tid) (f : Thread → Thread) : (s.onThr i f).qs = s.qs := rfl
@[simp] theorem onThr_fence (i : Tid) (f : Thread → Thread) : (s.onThr i f).fence = s.fence := rfl
@[simp] theorem onThr_port (i : Tid) (f : Thread → Thread) : (s.onThr i f).port = s.port := rfl
@[simp] theorem onThr_parse (i : Tid) (f : Thread → Thread) : (s.onThr i f).parse = s.parse := rfl
@[simp] theorem onThr_tm (i : Tid) (f : Thread → Thread) : (s.onThr i f).tm = s.tm := rfl
@[simp] theorem onThr_tables (i : Tid) (f : Thread → Thread) : (s.onThr i f).tables = s.tables := rfl
@[simp] theorem onThr_eht (i : Tid) (f : Thread → Thread) : (s.onThr i f).eht = s.eht := rfl
@[simp] theorem onThr_mem (i : Tid) (f : Thread → Thread) : (s.onThr i f).mem = s.mem := rfl
@[simp] theorem onThr_tfs (i : Tid) (f : Thread → Thread) : (s.onThr i f).tfs = s.tfs := rfl
@[simp] theorem onThr_sto (i : Tid) (f : Thread → Thread) : (s.onThr i f).sto = s.sto := rfl
@[simp] theorem onThr_sec (i : Tid) (f : Thread → Thread) : (s.onThr i f).sec = s.sec := rfl
@[simp] theorem onThr_tsl (i : Tid) (f : Thread → Thread) : (s.onThr i f).tsl = s.tsl := rfl
@[simp] theorem onThr_free (i : Tid) (f : Thread → Thread) : (s.onThr i f).free = s.free := rfl
@[simp] theorem onThr_pending (i : Tid) (f : Thread → Thread) : (s.onThr i f).pending = s.pending := rfl

/-! ### State.onChan -/

@[simp] theorem onChan_phase (c : Nat) (f : Chan → Chan) : (s.onChan c f).phase = s.phase := rfl
@[simp] theorem onChan_clk (c : Nat) (f : Chan → Chan) : (s.onChan c f).clk = s.clk := rfl
@[simp] theorem onChan_pins (c : Nat) (f : Chan → Chan) : (s.onChan c f).pins = s.pins := rfl
@[simp] theorem onChan_fuses (c : Nat) (f : Chan → Chan) : (s.onChan c f).fuses = s.fuses := rfl
@[simp] theorem onChan_boot (c : Nat) (f : Chan → Chan) : (s.onChan c f).boot = s.boot := rfl
@[simp] theorem onChan_cfg (c : Nat) (f : Chan → Chan) : (s.onChan c f).cfg = s.cfg := rfl
@[simp] theorem onChan_mbx (c : Nat) (f : Chan → Chan) : (s.onChan c f).mbx = s.mbx := rfl
@[simp] theorem onChan_ctrs (c : Nat) (f : Chan → Chan) : (s.onChan c f).ctrs = s.ctrs := rfl
@[simp] theorem onChan_flagSet (c : Nat) (f : Chan → Chan) : (s.onChan c f).flagSet = s.flagSet := rfl
@[simp] theorem onChan_qs (c : Nat) (f : Chan → Chan) : (s.onChan c f).qs = s.qs := rfl
@[simp] theorem onChan_fence (c : Nat) (f : Chan → Chan) : (s.onChan c f).fence = s.fence := rfl
@[simp] theorem onChan_port (c : Nat) (f : Chan → Chan) : (s.onChan c f).port = s.port := rfl
@[simp] theorem onChan_parse (c : Nat) (f : Chan → Chan) : (s.onChan c f).parse = s.parse := rfl
@[simp] theorem onChan_tm (c : Nat) (f : Chan → Chan) : (s.onChan c f).tm = s.tm := rfl
@[simp] theorem onChan_tables (c : Nat) (f : Chan → Chan) : (s.onChan c f).tables = s.tables := rfl
@[simp] theorem onChan_eht (c : Nat) (f : Chan → Chan) : (s.onChan c f).eht = s.eht := rfl
@[simp] theorem onChan_mem (c : Nat) (f : Chan → Chan) : (s.onChan c f).mem = s.mem := rfl
@[simp] theorem onChan_tfs (c : Nat) (f : Chan → Chan) : (s.onChan c f).tfs = s.tfs := rfl
@[simp] theorem onChan_sto (c : Nat) (f : Chan → Chan) : (s.onChan c f).sto = s.sto := rfl
@[simp] theorem onChan_sec (c : Nat) (f : Chan → Chan) : (s.onChan c f).sec = s.sec := rfl
@[simp] theorem onChan_tsl (c : Nat) (f : Chan → Chan) : (s.onChan c f).tsl = s.tsl := rfl
@[simp] theorem onChan_free (c : Nat) (f : Chan → Chan) : (s.onChan c f).free = s.free := rfl
@[simp] theorem onChan_pending (c : Nat) (f : Chan → Chan) : (s.onChan c f).pending = s.pending := rfl

/-! ### State.onStage -/

@[simp] theorem onStage_phase (i : Tid) (ep : Nat) (x : Stage) : (s.onStage i ep x).phase = s.phase := rfl
@[simp] theorem onStage_clk (i : Tid) (ep : Nat) (x : Stage) : (s.onStage i ep x).clk = s.clk := rfl
@[simp] theorem onStage_pins (i : Tid) (ep : Nat) (x : Stage) : (s.onStage i ep x).pins = s.pins := rfl
@[simp] theorem onStage_fuses (i : Tid) (ep : Nat) (x : Stage) : (s.onStage i ep x).fuses = s.fuses := rfl
@[simp] theorem onStage_boot (i : Tid) (ep : Nat) (x : Stage) : (s.onStage i ep x).boot = s.boot := rfl
@[simp] theorem onStage_cfg (i : Tid) (ep : Nat) (x : Stage) : (s.onStage i ep x).cfg = s.cfg := rfl
@[simp] theorem onStage_mbx (i : Tid) (ep : Nat) (x : Stage) : (s.onStage i ep x).mbx = s.mbx := rfl
@[simp] theorem onStage_ctrs (i : Tid) (ep : Nat) (x : Stage) : (s.onStage i ep x).ctrs = s.ctrs := rfl
@[simp] theorem onStage_flagSet (i : Tid) (ep : Nat) (x : Stage) : (s.onStage i ep x).flagSet = s.flagSet := rfl
@[simp] theorem onStage_qs (i : Tid) (ep : Nat) (x : Stage) : (s.onStage i ep x).qs = s.qs := rfl
@[simp] theorem onStage_fence (i : Tid) (ep : Nat) (x : Stage) : (s.onStage i ep x).fence = s.fence := rfl
@[simp] theorem onStage_port (i : Tid) (ep : Nat) (x : Stage) : (s.onStage i ep x).port = s.port := rfl
@[simp] theorem onStage_parse (i : Tid) (ep : Nat) (x : Stage) : (s.onStage i ep x).parse = s.parse := rfl
@[simp] theorem onStage_tm (i : Tid) (ep : Nat) (x : Stage) : (s.onStage i ep x).tm = s.tm := rfl
@[simp] theorem onStage_tables (i : Tid) (ep : Nat) (x : Stage) : (s.onStage i ep x).tables = s.tables := rfl
@[simp] theorem onStage_eht (i : Tid) (ep : Nat) (x : Stage) : (s.onStage i ep x).eht = s.eht := rfl
@[simp] theorem onStage_mem (i : Tid) (ep : Nat) (x : Stage) : (s.onStage i ep x).mem = s.mem := rfl
@[simp] theorem onStage_tfs (i : Tid) (ep : Nat) (x : Stage) : (s.onStage i ep x).tfs = s.tfs := rfl
@[simp] theorem onStage_sto (i : Tid) (ep : Nat) (x : Stage) : (s.onStage i ep x).sto = s.sto := rfl
@[simp] theorem onStage_sec (i : Tid) (ep : Nat) (x : Stage) : (s.onStage i ep x).sec = s.sec := rfl
@[simp] theorem onStage_tsl (i : Tid) (ep : Nat) (x : Stage) : (s.onStage i ep x).tsl = s.tsl := rfl
@[simp] theorem onStage_free (i : Tid) (ep : Nat) (x : Stage) : (s.onStage i ep x).free = s.free := rfl
@[simp] theorem onStage_pending (i : Tid) (ep : Nat) (x : Stage) : (s.onStage i ep x).pending = s.pending := rfl

/-! ### State.setReg -/

@[simp] theorem setReg_phase (i : Tid) (r : Reg) (v : Word64) : (s.setReg i r v).phase = s.phase := rfl
@[simp] theorem setReg_clk (i : Tid) (r : Reg) (v : Word64) : (s.setReg i r v).clk = s.clk := rfl
@[simp] theorem setReg_pins (i : Tid) (r : Reg) (v : Word64) : (s.setReg i r v).pins = s.pins := rfl
@[simp] theorem setReg_fuses (i : Tid) (r : Reg) (v : Word64) : (s.setReg i r v).fuses = s.fuses := rfl
@[simp] theorem setReg_boot (i : Tid) (r : Reg) (v : Word64) : (s.setReg i r v).boot = s.boot := rfl
@[simp] theorem setReg_cfg (i : Tid) (r : Reg) (v : Word64) : (s.setReg i r v).cfg = s.cfg := rfl
@[simp] theorem setReg_mbx (i : Tid) (r : Reg) (v : Word64) : (s.setReg i r v).mbx = s.mbx := rfl
@[simp] theorem setReg_ctrs (i : Tid) (r : Reg) (v : Word64) : (s.setReg i r v).ctrs = s.ctrs := rfl
@[simp] theorem setReg_flagSet (i : Tid) (r : Reg) (v : Word64) : (s.setReg i r v).flagSet = s.flagSet := rfl
@[simp] theorem setReg_qs (i : Tid) (r : Reg) (v : Word64) : (s.setReg i r v).qs = s.qs := rfl
@[simp] theorem setReg_fence (i : Tid) (r : Reg) (v : Word64) : (s.setReg i r v).fence = s.fence := rfl
@[simp] theorem setReg_port (i : Tid) (r : Reg) (v : Word64) : (s.setReg i r v).port = s.port := rfl
@[simp] theorem setReg_parse (i : Tid) (r : Reg) (v : Word64) : (s.setReg i r v).parse = s.parse := rfl
@[simp] theorem setReg_tm (i : Tid) (r : Reg) (v : Word64) : (s.setReg i r v).tm = s.tm := rfl
@[simp] theorem setReg_tables (i : Tid) (r : Reg) (v : Word64) : (s.setReg i r v).tables = s.tables := rfl
@[simp] theorem setReg_eht (i : Tid) (r : Reg) (v : Word64) : (s.setReg i r v).eht = s.eht := rfl
@[simp] theorem setReg_mem (i : Tid) (r : Reg) (v : Word64) : (s.setReg i r v).mem = s.mem := rfl
@[simp] theorem setReg_tfs (i : Tid) (r : Reg) (v : Word64) : (s.setReg i r v).tfs = s.tfs := rfl
@[simp] theorem setReg_sto (i : Tid) (r : Reg) (v : Word64) : (s.setReg i r v).sto = s.sto := rfl
@[simp] theorem setReg_sec (i : Tid) (r : Reg) (v : Word64) : (s.setReg i r v).sec = s.sec := rfl
@[simp] theorem setReg_tsl (i : Tid) (r : Reg) (v : Word64) : (s.setReg i r v).tsl = s.tsl := rfl
@[simp] theorem setReg_free (i : Tid) (r : Reg) (v : Word64) : (s.setReg i r v).free = s.free := rfl
@[simp] theorem setReg_pending (i : Tid) (r : Reg) (v : Word64) : (s.setReg i r v).pending = s.pending := rfl

/-! ### State.setCs -/

@[simp] theorem setCs_phase (i : Tid) (c : Nat) : (s.setCs i c).phase = s.phase := rfl
@[simp] theorem setCs_clk (i : Tid) (c : Nat) : (s.setCs i c).clk = s.clk := rfl
@[simp] theorem setCs_pins (i : Tid) (c : Nat) : (s.setCs i c).pins = s.pins := rfl
@[simp] theorem setCs_fuses (i : Tid) (c : Nat) : (s.setCs i c).fuses = s.fuses := rfl
@[simp] theorem setCs_boot (i : Tid) (c : Nat) : (s.setCs i c).boot = s.boot := rfl
@[simp] theorem setCs_cfg (i : Tid) (c : Nat) : (s.setCs i c).cfg = s.cfg := rfl
@[simp] theorem setCs_mbx (i : Tid) (c : Nat) : (s.setCs i c).mbx = s.mbx := rfl
@[simp] theorem setCs_ctrs (i : Tid) (c : Nat) : (s.setCs i c).ctrs = s.ctrs := rfl
@[simp] theorem setCs_flagSet (i : Tid) (c : Nat) : (s.setCs i c).flagSet = s.flagSet := rfl
@[simp] theorem setCs_qs (i : Tid) (c : Nat) : (s.setCs i c).qs = s.qs := rfl
@[simp] theorem setCs_fence (i : Tid) (c : Nat) : (s.setCs i c).fence = s.fence := rfl
@[simp] theorem setCs_port (i : Tid) (c : Nat) : (s.setCs i c).port = s.port := rfl
@[simp] theorem setCs_parse (i : Tid) (c : Nat) : (s.setCs i c).parse = s.parse := rfl
@[simp] theorem setCs_tm (i : Tid) (c : Nat) : (s.setCs i c).tm = s.tm := rfl
@[simp] theorem setCs_tables (i : Tid) (c : Nat) : (s.setCs i c).tables = s.tables := rfl
@[simp] theorem setCs_eht (i : Tid) (c : Nat) : (s.setCs i c).eht = s.eht := rfl
@[simp] theorem setCs_mem (i : Tid) (c : Nat) : (s.setCs i c).mem = s.mem := rfl
@[simp] theorem setCs_tfs (i : Tid) (c : Nat) : (s.setCs i c).tfs = s.tfs := rfl
@[simp] theorem setCs_sto (i : Tid) (c : Nat) : (s.setCs i c).sto = s.sto := rfl
@[simp] theorem setCs_sec (i : Tid) (c : Nat) : (s.setCs i c).sec = s.sec := rfl
@[simp] theorem setCs_tsl (i : Tid) (c : Nat) : (s.setCs i c).tsl = s.tsl := rfl
@[simp] theorem setCs_free (i : Tid) (c : Nat) : (s.setCs i c).free = s.free := rfl
@[simp] theorem setCs_pending (i : Tid) (c : Nat) : (s.setCs i c).pending = s.pending := rfl

/-! ### State.onTf -/

@[simp] theorem onTf_phase (n : Nat) (f : Tf → Tf) : (s.onTf n f).phase = s.phase := rfl
@[simp] theorem onTf_clk (n : Nat) (f : Tf → Tf) : (s.onTf n f).clk = s.clk := rfl
@[simp] theorem onTf_pins (n : Nat) (f : Tf → Tf) : (s.onTf n f).pins = s.pins := rfl
@[simp] theorem onTf_fuses (n : Nat) (f : Tf → Tf) : (s.onTf n f).fuses = s.fuses := rfl
@[simp] theorem onTf_boot (n : Nat) (f : Tf → Tf) : (s.onTf n f).boot = s.boot := rfl
@[simp] theorem onTf_cfg (n : Nat) (f : Tf → Tf) : (s.onTf n f).cfg = s.cfg := rfl
@[simp] theorem onTf_mbx (n : Nat) (f : Tf → Tf) : (s.onTf n f).mbx = s.mbx := rfl
@[simp] theorem onTf_ctrs (n : Nat) (f : Tf → Tf) : (s.onTf n f).ctrs = s.ctrs := rfl
@[simp] theorem onTf_flagSet (n : Nat) (f : Tf → Tf) : (s.onTf n f).flagSet = s.flagSet := rfl
@[simp] theorem onTf_qs (n : Nat) (f : Tf → Tf) : (s.onTf n f).qs = s.qs := rfl
@[simp] theorem onTf_fence (n : Nat) (f : Tf → Tf) : (s.onTf n f).fence = s.fence := rfl
@[simp] theorem onTf_port (n : Nat) (f : Tf → Tf) : (s.onTf n f).port = s.port := rfl
@[simp] theorem onTf_parse (n : Nat) (f : Tf → Tf) : (s.onTf n f).parse = s.parse := rfl
@[simp] theorem onTf_tm (n : Nat) (f : Tf → Tf) : (s.onTf n f).tm = s.tm := rfl
@[simp] theorem onTf_tables (n : Nat) (f : Tf → Tf) : (s.onTf n f).tables = s.tables := rfl
@[simp] theorem onTf_eht (n : Nat) (f : Tf → Tf) : (s.onTf n f).eht = s.eht := rfl
@[simp] theorem onTf_mem (n : Nat) (f : Tf → Tf) : (s.onTf n f).mem = s.mem := rfl
@[simp] theorem onTf_ido (n : Nat) (f : Tf → Tf) : (s.onTf n f).ido = s.ido := rfl
@[simp] theorem onTf_sto (n : Nat) (f : Tf → Tf) : (s.onTf n f).sto = s.sto := rfl
@[simp] theorem onTf_sec (n : Nat) (f : Tf → Tf) : (s.onTf n f).sec = s.sec := rfl
@[simp] theorem onTf_tsl (n : Nat) (f : Tf → Tf) : (s.onTf n f).tsl = s.tsl := rfl
@[simp] theorem onTf_free (n : Nat) (f : Tf → Tf) : (s.onTf n f).free = s.free := rfl
@[simp] theorem onTf_pending (n : Nat) (f : Tf → Tf) : (s.onTf n f).pending = s.pending := rfl

/-! ### State.onTbl -/

@[simp] theorem onTbl_phase (t : Nat) (f : Table → Table) : (s.onTbl t f).phase = s.phase := rfl
@[simp] theorem onTbl_clk (t : Nat) (f : Table → Table) : (s.onTbl t f).clk = s.clk := rfl
@[simp] theorem onTbl_pins (t : Nat) (f : Table → Table) : (s.onTbl t f).pins = s.pins := rfl
@[simp] theorem onTbl_fuses (t : Nat) (f : Table → Table) : (s.onTbl t f).fuses = s.fuses := rfl
@[simp] theorem onTbl_boot (t : Nat) (f : Table → Table) : (s.onTbl t f).boot = s.boot := rfl
@[simp] theorem onTbl_cfg (t : Nat) (f : Table → Table) : (s.onTbl t f).cfg = s.cfg := rfl
@[simp] theorem onTbl_mbx (t : Nat) (f : Table → Table) : (s.onTbl t f).mbx = s.mbx := rfl
@[simp] theorem onTbl_ctrs (t : Nat) (f : Table → Table) : (s.onTbl t f).ctrs = s.ctrs := rfl
@[simp] theorem onTbl_flagSet (t : Nat) (f : Table → Table) : (s.onTbl t f).flagSet = s.flagSet := rfl
@[simp] theorem onTbl_qs (t : Nat) (f : Table → Table) : (s.onTbl t f).qs = s.qs := rfl
@[simp] theorem onTbl_fence (t : Nat) (f : Table → Table) : (s.onTbl t f).fence = s.fence := rfl
@[simp] theorem onTbl_port (t : Nat) (f : Table → Table) : (s.onTbl t f).port = s.port := rfl
@[simp] theorem onTbl_parse (t : Nat) (f : Table → Table) : (s.onTbl t f).parse = s.parse := rfl
@[simp] theorem onTbl_tm (t : Nat) (f : Table → Table) : (s.onTbl t f).tm = s.tm := rfl
@[simp] theorem onTbl_eht (t : Nat) (f : Table → Table) : (s.onTbl t f).eht = s.eht := rfl
@[simp] theorem onTbl_mem (t : Nat) (f : Table → Table) : (s.onTbl t f).mem = s.mem := rfl
@[simp] theorem onTbl_ido (t : Nat) (f : Table → Table) : (s.onTbl t f).ido = s.ido := rfl
@[simp] theorem onTbl_tfs (t : Nat) (f : Table → Table) : (s.onTbl t f).tfs = s.tfs := rfl
@[simp] theorem onTbl_sto (t : Nat) (f : Table → Table) : (s.onTbl t f).sto = s.sto := rfl
@[simp] theorem onTbl_sec (t : Nat) (f : Table → Table) : (s.onTbl t f).sec = s.sec := rfl
@[simp] theorem onTbl_tsl (t : Nat) (f : Table → Table) : (s.onTbl t f).tsl = s.tsl := rfl
@[simp] theorem onTbl_free (t : Nat) (f : Table → Table) : (s.onTbl t f).free = s.free := rfl
@[simp] theorem onTbl_pending (t : Nat) (f : Table → Table) : (s.onTbl t f).pending = s.pending := rfl

/-! ### State.onRob -/

@[simp] theorem onRob_phase (b : Nat) (f : Rob → Rob) : (s.onRob b f).phase = s.phase := rfl
@[simp] theorem onRob_clk (b : Nat) (f : Rob → Rob) : (s.onRob b f).clk = s.clk := rfl
@[simp] theorem onRob_pins (b : Nat) (f : Rob → Rob) : (s.onRob b f).pins = s.pins := rfl
@[simp] theorem onRob_fuses (b : Nat) (f : Rob → Rob) : (s.onRob b f).fuses = s.fuses := rfl
@[simp] theorem onRob_boot (b : Nat) (f : Rob → Rob) : (s.onRob b f).boot = s.boot := rfl
@[simp] theorem onRob_cfg (b : Nat) (f : Rob → Rob) : (s.onRob b f).cfg = s.cfg := rfl
@[simp] theorem onRob_mbx (b : Nat) (f : Rob → Rob) : (s.onRob b f).mbx = s.mbx := rfl
@[simp] theorem onRob_ctrs (b : Nat) (f : Rob → Rob) : (s.onRob b f).ctrs = s.ctrs := rfl
@[simp] theorem onRob_flagSet (b : Nat) (f : Rob → Rob) : (s.onRob b f).flagSet = s.flagSet := rfl
@[simp] theorem onRob_qs (b : Nat) (f : Rob → Rob) : (s.onRob b f).qs = s.qs := rfl
@[simp] theorem onRob_fence (b : Nat) (f : Rob → Rob) : (s.onRob b f).fence = s.fence := rfl
@[simp] theorem onRob_port (b : Nat) (f : Rob → Rob) : (s.onRob b f).port = s.port := rfl
@[simp] theorem onRob_tm (b : Nat) (f : Rob → Rob) : (s.onRob b f).tm = s.tm := rfl
@[simp] theorem onRob_tables (b : Nat) (f : Rob → Rob) : (s.onRob b f).tables = s.tables := rfl
@[simp] theorem onRob_eht (b : Nat) (f : Rob → Rob) : (s.onRob b f).eht = s.eht := rfl
@[simp] theorem onRob_mem (b : Nat) (f : Rob → Rob) : (s.onRob b f).mem = s.mem := rfl
@[simp] theorem onRob_ido (b : Nat) (f : Rob → Rob) : (s.onRob b f).ido = s.ido := rfl
@[simp] theorem onRob_tfs (b : Nat) (f : Rob → Rob) : (s.onRob b f).tfs = s.tfs := rfl
@[simp] theorem onRob_sto (b : Nat) (f : Rob → Rob) : (s.onRob b f).sto = s.sto := rfl
@[simp] theorem onRob_sec (b : Nat) (f : Rob → Rob) : (s.onRob b f).sec = s.sec := rfl
@[simp] theorem onRob_tsl (b : Nat) (f : Rob → Rob) : (s.onRob b f).tsl = s.tsl := rfl
@[simp] theorem onRob_free (b : Nat) (f : Rob → Rob) : (s.onRob b f).free = s.free := rfl
@[simp] theorem onRob_pending (b : Nat) (f : Rob → Rob) : (s.onRob b f).pending = s.pending := rfl

/-! ### State.onTq -/

@[simp] theorem onTq_phase (q : Nat) (f : TmQueue → TmQueue) : (s.onTq q f).phase = s.phase := rfl
@[simp] theorem onTq_clk (q : Nat) (f : TmQueue → TmQueue) : (s.onTq q f).clk = s.clk := rfl
@[simp] theorem onTq_pins (q : Nat) (f : TmQueue → TmQueue) : (s.onTq q f).pins = s.pins := rfl
@[simp] theorem onTq_fuses (q : Nat) (f : TmQueue → TmQueue) : (s.onTq q f).fuses = s.fuses := rfl
@[simp] theorem onTq_boot (q : Nat) (f : TmQueue → TmQueue) : (s.onTq q f).boot = s.boot := rfl
@[simp] theorem onTq_cfg (q : Nat) (f : TmQueue → TmQueue) : (s.onTq q f).cfg = s.cfg := rfl
@[simp] theorem onTq_mbx (q : Nat) (f : TmQueue → TmQueue) : (s.onTq q f).mbx = s.mbx := rfl
@[simp] theorem onTq_ctrs (q : Nat) (f : TmQueue → TmQueue) : (s.onTq q f).ctrs = s.ctrs := rfl
@[simp] theorem onTq_flagSet (q : Nat) (f : TmQueue → TmQueue) : (s.onTq q f).flagSet = s.flagSet := rfl
@[simp] theorem onTq_qs (q : Nat) (f : TmQueue → TmQueue) : (s.onTq q f).qs = s.qs := rfl
@[simp] theorem onTq_fence (q : Nat) (f : TmQueue → TmQueue) : (s.onTq q f).fence = s.fence := rfl
@[simp] theorem onTq_port (q : Nat) (f : TmQueue → TmQueue) : (s.onTq q f).port = s.port := rfl
@[simp] theorem onTq_parse (q : Nat) (f : TmQueue → TmQueue) : (s.onTq q f).parse = s.parse := rfl
@[simp] theorem onTq_tables (q : Nat) (f : TmQueue → TmQueue) : (s.onTq q f).tables = s.tables := rfl
@[simp] theorem onTq_eht (q : Nat) (f : TmQueue → TmQueue) : (s.onTq q f).eht = s.eht := rfl
@[simp] theorem onTq_mem (q : Nat) (f : TmQueue → TmQueue) : (s.onTq q f).mem = s.mem := rfl
@[simp] theorem onTq_ido (q : Nat) (f : TmQueue → TmQueue) : (s.onTq q f).ido = s.ido := rfl
@[simp] theorem onTq_tfs (q : Nat) (f : TmQueue → TmQueue) : (s.onTq q f).tfs = s.tfs := rfl
@[simp] theorem onTq_sto (q : Nat) (f : TmQueue → TmQueue) : (s.onTq q f).sto = s.sto := rfl
@[simp] theorem onTq_sec (q : Nat) (f : TmQueue → TmQueue) : (s.onTq q f).sec = s.sec := rfl
@[simp] theorem onTq_tsl (q : Nat) (f : TmQueue → TmQueue) : (s.onTq q f).tsl = s.tsl := rfl
@[simp] theorem onTq_free (q : Nat) (f : TmQueue → TmQueue) : (s.onTq q f).free = s.free := rfl
@[simp] theorem onTq_pending (q : Nat) (f : TmQueue → TmQueue) : (s.onTq q f).pending = s.pending := rfl

/-! ### State.onTg -/

@[simp] theorem onTg_phase (g : Nat) (f : TmGroup → TmGroup) : (s.onTg g f).phase = s.phase := rfl
@[simp] theorem onTg_clk (g : Nat) (f : TmGroup → TmGroup) : (s.onTg g f).clk = s.clk := rfl
@[simp] theorem onTg_pins (g : Nat) (f : TmGroup → TmGroup) : (s.onTg g f).pins = s.pins := rfl
@[simp] theorem onTg_fuses (g : Nat) (f : TmGroup → TmGroup) : (s.onTg g f).fuses = s.fuses := rfl
@[simp] theorem onTg_boot (g : Nat) (f : TmGroup → TmGroup) : (s.onTg g f).boot = s.boot := rfl
@[simp] theorem onTg_cfg (g : Nat) (f : TmGroup → TmGroup) : (s.onTg g f).cfg = s.cfg := rfl
@[simp] theorem onTg_mbx (g : Nat) (f : TmGroup → TmGroup) : (s.onTg g f).mbx = s.mbx := rfl
@[simp] theorem onTg_ctrs (g : Nat) (f : TmGroup → TmGroup) : (s.onTg g f).ctrs = s.ctrs := rfl
@[simp] theorem onTg_flagSet (g : Nat) (f : TmGroup → TmGroup) : (s.onTg g f).flagSet = s.flagSet := rfl
@[simp] theorem onTg_qs (g : Nat) (f : TmGroup → TmGroup) : (s.onTg g f).qs = s.qs := rfl
@[simp] theorem onTg_fence (g : Nat) (f : TmGroup → TmGroup) : (s.onTg g f).fence = s.fence := rfl
@[simp] theorem onTg_port (g : Nat) (f : TmGroup → TmGroup) : (s.onTg g f).port = s.port := rfl
@[simp] theorem onTg_parse (g : Nat) (f : TmGroup → TmGroup) : (s.onTg g f).parse = s.parse := rfl
@[simp] theorem onTg_tables (g : Nat) (f : TmGroup → TmGroup) : (s.onTg g f).tables = s.tables := rfl
@[simp] theorem onTg_eht (g : Nat) (f : TmGroup → TmGroup) : (s.onTg g f).eht = s.eht := rfl
@[simp] theorem onTg_mem (g : Nat) (f : TmGroup → TmGroup) : (s.onTg g f).mem = s.mem := rfl
@[simp] theorem onTg_ido (g : Nat) (f : TmGroup → TmGroup) : (s.onTg g f).ido = s.ido := rfl
@[simp] theorem onTg_tfs (g : Nat) (f : TmGroup → TmGroup) : (s.onTg g f).tfs = s.tfs := rfl
@[simp] theorem onTg_sto (g : Nat) (f : TmGroup → TmGroup) : (s.onTg g f).sto = s.sto := rfl
@[simp] theorem onTg_sec (g : Nat) (f : TmGroup → TmGroup) : (s.onTg g f).sec = s.sec := rfl
@[simp] theorem onTg_tsl (g : Nat) (f : TmGroup → TmGroup) : (s.onTg g f).tsl = s.tsl := rfl
@[simp] theorem onTg_free (g : Nat) (f : TmGroup → TmGroup) : (s.onTg g f).free = s.free := rfl
@[simp] theorem onTg_pending (g : Nat) (f : TmGroup → TmGroup) : (s.onTg g f).pending = s.pending := rfl

/-! ### State.onSq -/

@[simp] theorem onSq_phase (k : Nat) (f : StoQueue → StoQueue) : (s.onSq k f).phase = s.phase := by unfold State.onSq; split <;> rfl
@[simp] theorem onSq_clk (k : Nat) (f : StoQueue → StoQueue) : (s.onSq k f).clk = s.clk := by unfold State.onSq; split <;> rfl
@[simp] theorem onSq_pins (k : Nat) (f : StoQueue → StoQueue) : (s.onSq k f).pins = s.pins := by unfold State.onSq; split <;> rfl
@[simp] theorem onSq_fuses (k : Nat) (f : StoQueue → StoQueue) : (s.onSq k f).fuses = s.fuses := by unfold State.onSq; split <;> rfl
@[simp] theorem onSq_boot (k : Nat) (f : StoQueue → StoQueue) : (s.onSq k f).boot = s.boot := by unfold State.onSq; split <;> rfl
@[simp] theorem onSq_cfg (k : Nat) (f : StoQueue → StoQueue) : (s.onSq k f).cfg = s.cfg := by unfold State.onSq; split <;> rfl
@[simp] theorem onSq_mbx (k : Nat) (f : StoQueue → StoQueue) : (s.onSq k f).mbx = s.mbx := by unfold State.onSq; split <;> rfl
@[simp] theorem onSq_ctrs (k : Nat) (f : StoQueue → StoQueue) : (s.onSq k f).ctrs = s.ctrs := by unfold State.onSq; split <;> rfl
@[simp] theorem onSq_flagSet (k : Nat) (f : StoQueue → StoQueue) : (s.onSq k f).flagSet = s.flagSet := by unfold State.onSq; split <;> rfl
@[simp] theorem onSq_qs (k : Nat) (f : StoQueue → StoQueue) : (s.onSq k f).qs = s.qs := by unfold State.onSq; split <;> rfl
@[simp] theorem onSq_fence (k : Nat) (f : StoQueue → StoQueue) : (s.onSq k f).fence = s.fence := by unfold State.onSq; split <;> rfl
@[simp] theorem onSq_port (k : Nat) (f : StoQueue → StoQueue) : (s.onSq k f).port = s.port := by unfold State.onSq; split <;> rfl
@[simp] theorem onSq_parse (k : Nat) (f : StoQueue → StoQueue) : (s.onSq k f).parse = s.parse := by unfold State.onSq; split <;> rfl
@[simp] theorem onSq_tm (k : Nat) (f : StoQueue → StoQueue) : (s.onSq k f).tm = s.tm := by unfold State.onSq; split <;> rfl
@[simp] theorem onSq_tables (k : Nat) (f : StoQueue → StoQueue) : (s.onSq k f).tables = s.tables := by unfold State.onSq; split <;> rfl
@[simp] theorem onSq_eht (k : Nat) (f : StoQueue → StoQueue) : (s.onSq k f).eht = s.eht := by unfold State.onSq; split <;> rfl
@[simp] theorem onSq_mem (k : Nat) (f : StoQueue → StoQueue) : (s.onSq k f).mem = s.mem := by unfold State.onSq; split <;> rfl
@[simp] theorem onSq_ido (k : Nat) (f : StoQueue → StoQueue) : (s.onSq k f).ido = s.ido := by unfold State.onSq; split <;> rfl
@[simp] theorem onSq_tfs (k : Nat) (f : StoQueue → StoQueue) : (s.onSq k f).tfs = s.tfs := by unfold State.onSq; split <;> rfl
@[simp] theorem onSq_sec (k : Nat) (f : StoQueue → StoQueue) : (s.onSq k f).sec = s.sec := by unfold State.onSq; split <;> rfl
@[simp] theorem onSq_tsl (k : Nat) (f : StoQueue → StoQueue) : (s.onSq k f).tsl = s.tsl := by unfold State.onSq; split <;> rfl
@[simp] theorem onSq_free (k : Nat) (f : StoQueue → StoQueue) : (s.onSq k f).free = s.free := by unfold State.onSq; split <;> rfl
@[simp] theorem onSq_pending (k : Nat) (f : StoQueue → StoQueue) : (s.onSq k f).pending = s.pending := by unfold State.onSq; split <;> rfl

/-! ### State.onDrive -/

@[simp] theorem onDrive_phase (r : Nat) (f : Drive → Drive) : (s.onDrive r f).phase = s.phase := rfl
@[simp] theorem onDrive_clk (r : Nat) (f : Drive → Drive) : (s.onDrive r f).clk = s.clk := rfl
@[simp] theorem onDrive_pins (r : Nat) (f : Drive → Drive) : (s.onDrive r f).pins = s.pins := rfl
@[simp] theorem onDrive_fuses (r : Nat) (f : Drive → Drive) : (s.onDrive r f).fuses = s.fuses := rfl
@[simp] theorem onDrive_boot (r : Nat) (f : Drive → Drive) : (s.onDrive r f).boot = s.boot := rfl
@[simp] theorem onDrive_cfg (r : Nat) (f : Drive → Drive) : (s.onDrive r f).cfg = s.cfg := rfl
@[simp] theorem onDrive_mbx (r : Nat) (f : Drive → Drive) : (s.onDrive r f).mbx = s.mbx := rfl
@[simp] theorem onDrive_ctrs (r : Nat) (f : Drive → Drive) : (s.onDrive r f).ctrs = s.ctrs := rfl
@[simp] theorem onDrive_flagSet (r : Nat) (f : Drive → Drive) : (s.onDrive r f).flagSet = s.flagSet := rfl
@[simp] theorem onDrive_qs (r : Nat) (f : Drive → Drive) : (s.onDrive r f).qs = s.qs := rfl
@[simp] theorem onDrive_fence (r : Nat) (f : Drive → Drive) : (s.onDrive r f).fence = s.fence := rfl
@[simp] theorem onDrive_port (r : Nat) (f : Drive → Drive) : (s.onDrive r f).port = s.port := rfl
@[simp] theorem onDrive_parse (r : Nat) (f : Drive → Drive) : (s.onDrive r f).parse = s.parse := rfl
@[simp] theorem onDrive_tm (r : Nat) (f : Drive → Drive) : (s.onDrive r f).tm = s.tm := rfl
@[simp] theorem onDrive_tables (r : Nat) (f : Drive → Drive) : (s.onDrive r f).tables = s.tables := rfl
@[simp] theorem onDrive_eht (r : Nat) (f : Drive → Drive) : (s.onDrive r f).eht = s.eht := rfl
@[simp] theorem onDrive_mem (r : Nat) (f : Drive → Drive) : (s.onDrive r f).mem = s.mem := rfl
@[simp] theorem onDrive_ido (r : Nat) (f : Drive → Drive) : (s.onDrive r f).ido = s.ido := rfl
@[simp] theorem onDrive_tfs (r : Nat) (f : Drive → Drive) : (s.onDrive r f).tfs = s.tfs := rfl
@[simp] theorem onDrive_sec (r : Nat) (f : Drive → Drive) : (s.onDrive r f).sec = s.sec := rfl
@[simp] theorem onDrive_tsl (r : Nat) (f : Drive → Drive) : (s.onDrive r f).tsl = s.tsl := rfl
@[simp] theorem onDrive_free (r : Nat) (f : Drive → Drive) : (s.onDrive r f).free = s.free := rfl
@[simp] theorem onDrive_pending (r : Nat) (f : Drive → Drive) : (s.onDrive r f).pending = s.pending := rfl

/-! ### State.onJournal -/

@[simp] theorem onJournal_phase (j : Nat) (f : Journal → Journal) : (s.onJournal j f).phase = s.phase := rfl
@[simp] theorem onJournal_clk (j : Nat) (f : Journal → Journal) : (s.onJournal j f).clk = s.clk := rfl
@[simp] theorem onJournal_pins (j : Nat) (f : Journal → Journal) : (s.onJournal j f).pins = s.pins := rfl
@[simp] theorem onJournal_fuses (j : Nat) (f : Journal → Journal) : (s.onJournal j f).fuses = s.fuses := rfl
@[simp] theorem onJournal_boot (j : Nat) (f : Journal → Journal) : (s.onJournal j f).boot = s.boot := rfl
@[simp] theorem onJournal_cfg (j : Nat) (f : Journal → Journal) : (s.onJournal j f).cfg = s.cfg := rfl
@[simp] theorem onJournal_mbx (j : Nat) (f : Journal → Journal) : (s.onJournal j f).mbx = s.mbx := rfl
@[simp] theorem onJournal_ctrs (j : Nat) (f : Journal → Journal) : (s.onJournal j f).ctrs = s.ctrs := rfl
@[simp] theorem onJournal_flagSet (j : Nat) (f : Journal → Journal) : (s.onJournal j f).flagSet = s.flagSet := rfl
@[simp] theorem onJournal_qs (j : Nat) (f : Journal → Journal) : (s.onJournal j f).qs = s.qs := rfl
@[simp] theorem onJournal_fence (j : Nat) (f : Journal → Journal) : (s.onJournal j f).fence = s.fence := rfl
@[simp] theorem onJournal_port (j : Nat) (f : Journal → Journal) : (s.onJournal j f).port = s.port := rfl
@[simp] theorem onJournal_parse (j : Nat) (f : Journal → Journal) : (s.onJournal j f).parse = s.parse := rfl
@[simp] theorem onJournal_tm (j : Nat) (f : Journal → Journal) : (s.onJournal j f).tm = s.tm := rfl
@[simp] theorem onJournal_tables (j : Nat) (f : Journal → Journal) : (s.onJournal j f).tables = s.tables := rfl
@[simp] theorem onJournal_eht (j : Nat) (f : Journal → Journal) : (s.onJournal j f).eht = s.eht := rfl
@[simp] theorem onJournal_mem (j : Nat) (f : Journal → Journal) : (s.onJournal j f).mem = s.mem := rfl
@[simp] theorem onJournal_ido (j : Nat) (f : Journal → Journal) : (s.onJournal j f).ido = s.ido := rfl
@[simp] theorem onJournal_tfs (j : Nat) (f : Journal → Journal) : (s.onJournal j f).tfs = s.tfs := rfl
@[simp] theorem onJournal_sec (j : Nat) (f : Journal → Journal) : (s.onJournal j f).sec = s.sec := rfl
@[simp] theorem onJournal_tsl (j : Nat) (f : Journal → Journal) : (s.onJournal j f).tsl = s.tsl := rfl
@[simp] theorem onJournal_free (j : Nat) (f : Journal → Journal) : (s.onJournal j f).free = s.free := rfl
@[simp] theorem onJournal_pending (j : Nat) (f : Journal → Journal) : (s.onJournal j f).pending = s.pending := rfl

/-! ### State.onArb -/

@[simp] theorem onArb_phase (t : Nat) (f : StoArb → StoArb) : (s.onArb t f).phase = s.phase := rfl
@[simp] theorem onArb_clk (t : Nat) (f : StoArb → StoArb) : (s.onArb t f).clk = s.clk := rfl
@[simp] theorem onArb_pins (t : Nat) (f : StoArb → StoArb) : (s.onArb t f).pins = s.pins := rfl
@[simp] theorem onArb_fuses (t : Nat) (f : StoArb → StoArb) : (s.onArb t f).fuses = s.fuses := rfl
@[simp] theorem onArb_boot (t : Nat) (f : StoArb → StoArb) : (s.onArb t f).boot = s.boot := rfl
@[simp] theorem onArb_cfg (t : Nat) (f : StoArb → StoArb) : (s.onArb t f).cfg = s.cfg := rfl
@[simp] theorem onArb_mbx (t : Nat) (f : StoArb → StoArb) : (s.onArb t f).mbx = s.mbx := rfl
@[simp] theorem onArb_ctrs (t : Nat) (f : StoArb → StoArb) : (s.onArb t f).ctrs = s.ctrs := rfl
@[simp] theorem onArb_flagSet (t : Nat) (f : StoArb → StoArb) : (s.onArb t f).flagSet = s.flagSet := rfl
@[simp] theorem onArb_qs (t : Nat) (f : StoArb → StoArb) : (s.onArb t f).qs = s.qs := rfl
@[simp] theorem onArb_fence (t : Nat) (f : StoArb → StoArb) : (s.onArb t f).fence = s.fence := rfl
@[simp] theorem onArb_port (t : Nat) (f : StoArb → StoArb) : (s.onArb t f).port = s.port := rfl
@[simp] theorem onArb_parse (t : Nat) (f : StoArb → StoArb) : (s.onArb t f).parse = s.parse := rfl
@[simp] theorem onArb_tm (t : Nat) (f : StoArb → StoArb) : (s.onArb t f).tm = s.tm := rfl
@[simp] theorem onArb_tables (t : Nat) (f : StoArb → StoArb) : (s.onArb t f).tables = s.tables := rfl
@[simp] theorem onArb_eht (t : Nat) (f : StoArb → StoArb) : (s.onArb t f).eht = s.eht := rfl
@[simp] theorem onArb_mem (t : Nat) (f : StoArb → StoArb) : (s.onArb t f).mem = s.mem := rfl
@[simp] theorem onArb_ido (t : Nat) (f : StoArb → StoArb) : (s.onArb t f).ido = s.ido := rfl
@[simp] theorem onArb_tfs (t : Nat) (f : StoArb → StoArb) : (s.onArb t f).tfs = s.tfs := rfl
@[simp] theorem onArb_sec (t : Nat) (f : StoArb → StoArb) : (s.onArb t f).sec = s.sec := rfl
@[simp] theorem onArb_tsl (t : Nat) (f : StoArb → StoArb) : (s.onArb t f).tsl = s.tsl := rfl
@[simp] theorem onArb_free (t : Nat) (f : StoArb → StoArb) : (s.onArb t f).free = s.free := rfl
@[simp] theorem onArb_pending (t : Nat) (f : StoArb → StoArb) : (s.onArb t f).pending = s.pending := rfl

/-! ### State.onOut -/

@[simp] theorem onOut_phase (k : Nat) (m : OutMsg) : (s.onOut k m).phase = s.phase := rfl
@[simp] theorem onOut_clk (k : Nat) (m : OutMsg) : (s.onOut k m).clk = s.clk := rfl
@[simp] theorem onOut_pins (k : Nat) (m : OutMsg) : (s.onOut k m).pins = s.pins := rfl
@[simp] theorem onOut_fuses (k : Nat) (m : OutMsg) : (s.onOut k m).fuses = s.fuses := rfl
@[simp] theorem onOut_boot (k : Nat) (m : OutMsg) : (s.onOut k m).boot = s.boot := rfl
@[simp] theorem onOut_cfg (k : Nat) (m : OutMsg) : (s.onOut k m).cfg = s.cfg := rfl
@[simp] theorem onOut_mbx (k : Nat) (m : OutMsg) : (s.onOut k m).mbx = s.mbx := rfl
@[simp] theorem onOut_ctrs (k : Nat) (m : OutMsg) : (s.onOut k m).ctrs = s.ctrs := rfl
@[simp] theorem onOut_flagSet (k : Nat) (m : OutMsg) : (s.onOut k m).flagSet = s.flagSet := rfl
@[simp] theorem onOut_qs (k : Nat) (m : OutMsg) : (s.onOut k m).qs = s.qs := rfl
@[simp] theorem onOut_fence (k : Nat) (m : OutMsg) : (s.onOut k m).fence = s.fence := rfl
@[simp] theorem onOut_port (k : Nat) (m : OutMsg) : (s.onOut k m).port = s.port := rfl
@[simp] theorem onOut_parse (k : Nat) (m : OutMsg) : (s.onOut k m).parse = s.parse := rfl
@[simp] theorem onOut_tm (k : Nat) (m : OutMsg) : (s.onOut k m).tm = s.tm := rfl
@[simp] theorem onOut_tables (k : Nat) (m : OutMsg) : (s.onOut k m).tables = s.tables := rfl
@[simp] theorem onOut_mem (k : Nat) (m : OutMsg) : (s.onOut k m).mem = s.mem := rfl
@[simp] theorem onOut_ido (k : Nat) (m : OutMsg) : (s.onOut k m).ido = s.ido := rfl
@[simp] theorem onOut_tfs (k : Nat) (m : OutMsg) : (s.onOut k m).tfs = s.tfs := rfl
@[simp] theorem onOut_sto (k : Nat) (m : OutMsg) : (s.onOut k m).sto = s.sto := rfl
@[simp] theorem onOut_sec (k : Nat) (m : OutMsg) : (s.onOut k m).sec = s.sec := rfl
@[simp] theorem onOut_tsl (k : Nat) (m : OutMsg) : (s.onOut k m).tsl = s.tsl := rfl
@[simp] theorem onOut_free (k : Nat) (m : OutMsg) : (s.onOut k m).free = s.free := rfl
@[simp] theorem onOut_pending (k : Nat) (m : OutMsg) : (s.onOut k m).pending = s.pending := rfl

/-! ### State.qSet -/

@[simp] theorem qSet_phase (o : QObj) (r : QRec) : (s.qSet o r).phase = s.phase := rfl
@[simp] theorem qSet_clk (o : QObj) (r : QRec) : (s.qSet o r).clk = s.clk := rfl
@[simp] theorem qSet_pins (o : QObj) (r : QRec) : (s.qSet o r).pins = s.pins := rfl
@[simp] theorem qSet_fuses (o : QObj) (r : QRec) : (s.qSet o r).fuses = s.fuses := rfl
@[simp] theorem qSet_boot (o : QObj) (r : QRec) : (s.qSet o r).boot = s.boot := rfl
@[simp] theorem qSet_cfg (o : QObj) (r : QRec) : (s.qSet o r).cfg = s.cfg := rfl
@[simp] theorem qSet_mbx (o : QObj) (r : QRec) : (s.qSet o r).mbx = s.mbx := rfl
@[simp] theorem qSet_ctrs (o : QObj) (r : QRec) : (s.qSet o r).ctrs = s.ctrs := rfl
@[simp] theorem qSet_flagSet (o : QObj) (r : QRec) : (s.qSet o r).flagSet = s.flagSet := rfl
@[simp] theorem qSet_fence (o : QObj) (r : QRec) : (s.qSet o r).fence = s.fence := rfl
@[simp] theorem qSet_port (o : QObj) (r : QRec) : (s.qSet o r).port = s.port := rfl
@[simp] theorem qSet_parse (o : QObj) (r : QRec) : (s.qSet o r).parse = s.parse := rfl
@[simp] theorem qSet_tm (o : QObj) (r : QRec) : (s.qSet o r).tm = s.tm := rfl
@[simp] theorem qSet_tables (o : QObj) (r : QRec) : (s.qSet o r).tables = s.tables := rfl
@[simp] theorem qSet_eht (o : QObj) (r : QRec) : (s.qSet o r).eht = s.eht := rfl
@[simp] theorem qSet_mem (o : QObj) (r : QRec) : (s.qSet o r).mem = s.mem := rfl
@[simp] theorem qSet_ido (o : QObj) (r : QRec) : (s.qSet o r).ido = s.ido := rfl
@[simp] theorem qSet_tfs (o : QObj) (r : QRec) : (s.qSet o r).tfs = s.tfs := rfl
@[simp] theorem qSet_sto (o : QObj) (r : QRec) : (s.qSet o r).sto = s.sto := rfl
@[simp] theorem qSet_sec (o : QObj) (r : QRec) : (s.qSet o r).sec = s.sec := rfl
@[simp] theorem qSet_tsl (o : QObj) (r : QRec) : (s.qSet o r).tsl = s.tsl := rfl
@[simp] theorem qSet_free (o : QObj) (r : QRec) : (s.qSet o r).free = s.free := rfl
@[simp] theorem qSet_pending (o : QObj) (r : QRec) : (s.qSet o r).pending = s.pending := rfl

/-! ### State.qDel -/

@[simp] theorem qDel_phase (o : QObj) : (s.qDel o).phase = s.phase := rfl
@[simp] theorem qDel_clk (o : QObj) : (s.qDel o).clk = s.clk := rfl
@[simp] theorem qDel_pins (o : QObj) : (s.qDel o).pins = s.pins := rfl
@[simp] theorem qDel_fuses (o : QObj) : (s.qDel o).fuses = s.fuses := rfl
@[simp] theorem qDel_boot (o : QObj) : (s.qDel o).boot = s.boot := rfl
@[simp] theorem qDel_cfg (o : QObj) : (s.qDel o).cfg = s.cfg := rfl
@[simp] theorem qDel_mbx (o : QObj) : (s.qDel o).mbx = s.mbx := rfl
@[simp] theorem qDel_ctrs (o : QObj) : (s.qDel o).ctrs = s.ctrs := rfl
@[simp] theorem qDel_flagSet (o : QObj) : (s.qDel o).flagSet = s.flagSet := rfl
@[simp] theorem qDel_fence (o : QObj) : (s.qDel o).fence = s.fence := rfl
@[simp] theorem qDel_port (o : QObj) : (s.qDel o).port = s.port := rfl
@[simp] theorem qDel_parse (o : QObj) : (s.qDel o).parse = s.parse := rfl
@[simp] theorem qDel_tm (o : QObj) : (s.qDel o).tm = s.tm := rfl
@[simp] theorem qDel_tables (o : QObj) : (s.qDel o).tables = s.tables := rfl
@[simp] theorem qDel_eht (o : QObj) : (s.qDel o).eht = s.eht := rfl
@[simp] theorem qDel_mem (o : QObj) : (s.qDel o).mem = s.mem := rfl
@[simp] theorem qDel_ido (o : QObj) : (s.qDel o).ido = s.ido := rfl
@[simp] theorem qDel_tfs (o : QObj) : (s.qDel o).tfs = s.tfs := rfl
@[simp] theorem qDel_sto (o : QObj) : (s.qDel o).sto = s.sto := rfl
@[simp] theorem qDel_sec (o : QObj) : (s.qDel o).sec = s.sec := rfl
@[simp] theorem qDel_tsl (o : QObj) : (s.qDel o).tsl = s.tsl := rfl
@[simp] theorem qDel_free (o : QObj) : (s.qDel o).free = s.free := rfl
@[simp] theorem qDel_pending (o : QObj) : (s.qDel o).pending = s.pending := rfl

/-! ### State.fenceBump -/

@[simp] theorem fenceBump_phase (r : Role) : (s.fenceBump r).phase = s.phase := rfl
@[simp] theorem fenceBump_clk (r : Role) : (s.fenceBump r).clk = s.clk := rfl
@[simp] theorem fenceBump_pins (r : Role) : (s.fenceBump r).pins = s.pins := rfl
@[simp] theorem fenceBump_fuses (r : Role) : (s.fenceBump r).fuses = s.fuses := rfl
@[simp] theorem fenceBump_boot (r : Role) : (s.fenceBump r).boot = s.boot := rfl
@[simp] theorem fenceBump_cfg (r : Role) : (s.fenceBump r).cfg = s.cfg := rfl
@[simp] theorem fenceBump_mbx (r : Role) : (s.fenceBump r).mbx = s.mbx := rfl
@[simp] theorem fenceBump_ctrs (r : Role) : (s.fenceBump r).ctrs = s.ctrs := rfl
@[simp] theorem fenceBump_flagSet (r : Role) : (s.fenceBump r).flagSet = s.flagSet := rfl
@[simp] theorem fenceBump_qs (r : Role) : (s.fenceBump r).qs = s.qs := rfl
@[simp] theorem fenceBump_port (r : Role) : (s.fenceBump r).port = s.port := rfl
@[simp] theorem fenceBump_parse (r : Role) : (s.fenceBump r).parse = s.parse := rfl
@[simp] theorem fenceBump_tm (r : Role) : (s.fenceBump r).tm = s.tm := rfl
@[simp] theorem fenceBump_tables (r : Role) : (s.fenceBump r).tables = s.tables := rfl
@[simp] theorem fenceBump_eht (r : Role) : (s.fenceBump r).eht = s.eht := rfl
@[simp] theorem fenceBump_mem (r : Role) : (s.fenceBump r).mem = s.mem := rfl
@[simp] theorem fenceBump_ido (r : Role) : (s.fenceBump r).ido = s.ido := rfl
@[simp] theorem fenceBump_tfs (r : Role) : (s.fenceBump r).tfs = s.tfs := rfl
@[simp] theorem fenceBump_sto (r : Role) : (s.fenceBump r).sto = s.sto := rfl
@[simp] theorem fenceBump_sec (r : Role) : (s.fenceBump r).sec = s.sec := rfl
@[simp] theorem fenceBump_tsl (r : Role) : (s.fenceBump r).tsl = s.tsl := rfl
@[simp] theorem fenceBump_free (r : Role) : (s.fenceBump r).free = s.free := rfl
@[simp] theorem fenceBump_pending (r : Role) : (s.fenceBump r).pending = s.pending := rfl

/-! ### State.setSlot -/

@[simp] theorem setSlot_phase (n : Nat) (k : KeySlot) : (s.setSlot n k).phase = s.phase := rfl
@[simp] theorem setSlot_clk (n : Nat) (k : KeySlot) : (s.setSlot n k).clk = s.clk := rfl
@[simp] theorem setSlot_pins (n : Nat) (k : KeySlot) : (s.setSlot n k).pins = s.pins := rfl
@[simp] theorem setSlot_fuses (n : Nat) (k : KeySlot) : (s.setSlot n k).fuses = s.fuses := rfl
@[simp] theorem setSlot_boot (n : Nat) (k : KeySlot) : (s.setSlot n k).boot = s.boot := rfl
@[simp] theorem setSlot_cfg (n : Nat) (k : KeySlot) : (s.setSlot n k).cfg = s.cfg := rfl
@[simp] theorem setSlot_mbx (n : Nat) (k : KeySlot) : (s.setSlot n k).mbx = s.mbx := rfl
@[simp] theorem setSlot_ctrs (n : Nat) (k : KeySlot) : (s.setSlot n k).ctrs = s.ctrs := rfl
@[simp] theorem setSlot_flagSet (n : Nat) (k : KeySlot) : (s.setSlot n k).flagSet = s.flagSet := rfl
@[simp] theorem setSlot_qs (n : Nat) (k : KeySlot) : (s.setSlot n k).qs = s.qs := rfl
@[simp] theorem setSlot_fence (n : Nat) (k : KeySlot) : (s.setSlot n k).fence = s.fence := rfl
@[simp] theorem setSlot_port (n : Nat) (k : KeySlot) : (s.setSlot n k).port = s.port := rfl
@[simp] theorem setSlot_parse (n : Nat) (k : KeySlot) : (s.setSlot n k).parse = s.parse := rfl
@[simp] theorem setSlot_tm (n : Nat) (k : KeySlot) : (s.setSlot n k).tm = s.tm := rfl
@[simp] theorem setSlot_tables (n : Nat) (k : KeySlot) : (s.setSlot n k).tables = s.tables := rfl
@[simp] theorem setSlot_eht (n : Nat) (k : KeySlot) : (s.setSlot n k).eht = s.eht := rfl
@[simp] theorem setSlot_mem (n : Nat) (k : KeySlot) : (s.setSlot n k).mem = s.mem := rfl
@[simp] theorem setSlot_ido (n : Nat) (k : KeySlot) : (s.setSlot n k).ido = s.ido := rfl
@[simp] theorem setSlot_tfs (n : Nat) (k : KeySlot) : (s.setSlot n k).tfs = s.tfs := rfl
@[simp] theorem setSlot_sto (n : Nat) (k : KeySlot) : (s.setSlot n k).sto = s.sto := rfl
@[simp] theorem setSlot_tsl (n : Nat) (k : KeySlot) : (s.setSlot n k).tsl = s.tsl := rfl
@[simp] theorem setSlot_free (n : Nat) (k : KeySlot) : (s.setSlot n k).free = s.free := rfl
@[simp] theorem setSlot_pending (n : Nat) (k : KeySlot) : (s.setSlot n k).pending = s.pending := rfl

/-! ### State.poke -/

@[simp] theorem poke_phase (a : Nat) (v : Bytes) : (s.poke a v).phase = s.phase := rfl
@[simp] theorem poke_clk (a : Nat) (v : Bytes) : (s.poke a v).clk = s.clk := rfl
@[simp] theorem poke_pins (a : Nat) (v : Bytes) : (s.poke a v).pins = s.pins := rfl
@[simp] theorem poke_fuses (a : Nat) (v : Bytes) : (s.poke a v).fuses = s.fuses := rfl
@[simp] theorem poke_boot (a : Nat) (v : Bytes) : (s.poke a v).boot = s.boot := rfl
@[simp] theorem poke_cfg (a : Nat) (v : Bytes) : (s.poke a v).cfg = s.cfg := rfl
@[simp] theorem poke_mbx (a : Nat) (v : Bytes) : (s.poke a v).mbx = s.mbx := rfl
@[simp] theorem poke_ctrs (a : Nat) (v : Bytes) : (s.poke a v).ctrs = s.ctrs := rfl
@[simp] theorem poke_flagSet (a : Nat) (v : Bytes) : (s.poke a v).flagSet = s.flagSet := rfl
@[simp] theorem poke_qs (a : Nat) (v : Bytes) : (s.poke a v).qs = s.qs := rfl
@[simp] theorem poke_fence (a : Nat) (v : Bytes) : (s.poke a v).fence = s.fence := rfl
@[simp] theorem poke_port (a : Nat) (v : Bytes) : (s.poke a v).port = s.port := rfl
@[simp] theorem poke_parse (a : Nat) (v : Bytes) : (s.poke a v).parse = s.parse := rfl
@[simp] theorem poke_tm (a : Nat) (v : Bytes) : (s.poke a v).tm = s.tm := rfl
@[simp] theorem poke_tables (a : Nat) (v : Bytes) : (s.poke a v).tables = s.tables := rfl
@[simp] theorem poke_eht (a : Nat) (v : Bytes) : (s.poke a v).eht = s.eht := rfl
@[simp] theorem poke_ido (a : Nat) (v : Bytes) : (s.poke a v).ido = s.ido := rfl
@[simp] theorem poke_tfs (a : Nat) (v : Bytes) : (s.poke a v).tfs = s.tfs := rfl
@[simp] theorem poke_sto (a : Nat) (v : Bytes) : (s.poke a v).sto = s.sto := rfl
@[simp] theorem poke_sec (a : Nat) (v : Bytes) : (s.poke a v).sec = s.sec := rfl
@[simp] theorem poke_tsl (a : Nat) (v : Bytes) : (s.poke a v).tsl = s.tsl := rfl
@[simp] theorem poke_free (a : Nat) (v : Bytes) : (s.poke a v).free = s.free := rfl
@[simp] theorem poke_pending (a : Nat) (v : Bytes) : (s.poke a v).pending = s.pending := rfl

/-! ### State.noteFlag -/

@[simp] theorem noteFlag_phase (a : Nat) (b : Bool) : (s.noteFlag a b).phase = s.phase := by unfold State.noteFlag; split <;> rfl
@[simp] theorem noteFlag_clk (a : Nat) (b : Bool) : (s.noteFlag a b).clk = s.clk := by unfold State.noteFlag; split <;> rfl
@[simp] theorem noteFlag_pins (a : Nat) (b : Bool) : (s.noteFlag a b).pins = s.pins := by unfold State.noteFlag; split <;> rfl
@[simp] theorem noteFlag_fuses (a : Nat) (b : Bool) : (s.noteFlag a b).fuses = s.fuses := by unfold State.noteFlag; split <;> rfl
@[simp] theorem noteFlag_boot (a : Nat) (b : Bool) : (s.noteFlag a b).boot = s.boot := by unfold State.noteFlag; split <;> rfl
@[simp] theorem noteFlag_cfg (a : Nat) (b : Bool) : (s.noteFlag a b).cfg = s.cfg := by unfold State.noteFlag; split <;> rfl
@[simp] theorem noteFlag_mbx (a : Nat) (b : Bool) : (s.noteFlag a b).mbx = s.mbx := by unfold State.noteFlag; split <;> rfl
@[simp] theorem noteFlag_ctrs (a : Nat) (b : Bool) : (s.noteFlag a b).ctrs = s.ctrs := by unfold State.noteFlag; split <;> rfl
@[simp] theorem noteFlag_qs (a : Nat) (b : Bool) : (s.noteFlag a b).qs = s.qs := by unfold State.noteFlag; split <;> rfl
@[simp] theorem noteFlag_fence (a : Nat) (b : Bool) : (s.noteFlag a b).fence = s.fence := by unfold State.noteFlag; split <;> rfl
@[simp] theorem noteFlag_port (a : Nat) (b : Bool) : (s.noteFlag a b).port = s.port := by unfold State.noteFlag; split <;> rfl
@[simp] theorem noteFlag_parse (a : Nat) (b : Bool) : (s.noteFlag a b).parse = s.parse := by unfold State.noteFlag; split <;> rfl
@[simp] theorem noteFlag_tm (a : Nat) (b : Bool) : (s.noteFlag a b).tm = s.tm := by unfold State.noteFlag; split <;> rfl
@[simp] theorem noteFlag_tables (a : Nat) (b : Bool) : (s.noteFlag a b).tables = s.tables := by unfold State.noteFlag; split <;> rfl
@[simp] theorem noteFlag_eht (a : Nat) (b : Bool) : (s.noteFlag a b).eht = s.eht := by unfold State.noteFlag; split <;> rfl
@[simp] theorem noteFlag_mem (a : Nat) (b : Bool) : (s.noteFlag a b).mem = s.mem := by unfold State.noteFlag; split <;> rfl
@[simp] theorem noteFlag_ido (a : Nat) (b : Bool) : (s.noteFlag a b).ido = s.ido := by unfold State.noteFlag; split <;> rfl
@[simp] theorem noteFlag_tfs (a : Nat) (b : Bool) : (s.noteFlag a b).tfs = s.tfs := by unfold State.noteFlag; split <;> rfl
@[simp] theorem noteFlag_sto (a : Nat) (b : Bool) : (s.noteFlag a b).sto = s.sto := by unfold State.noteFlag; split <;> rfl
@[simp] theorem noteFlag_sec (a : Nat) (b : Bool) : (s.noteFlag a b).sec = s.sec := by unfold State.noteFlag; split <;> rfl
@[simp] theorem noteFlag_tsl (a : Nat) (b : Bool) : (s.noteFlag a b).tsl = s.tsl := by unfold State.noteFlag; split <;> rfl
@[simp] theorem noteFlag_free (a : Nat) (b : Bool) : (s.noteFlag a b).free = s.free := by unfold State.noteFlag; split <;> rfl
@[simp] theorem noteFlag_pending (a : Nat) (b : Bool) : (s.noteFlag a b).pending = s.pending := by unfold State.noteFlag; split <;> rfl

/-! ### Counters -/

@[simp] theorem countErrs_phase (a n : Nat) : (countErrs s a n).phase = s.phase := by unfold countErrs; split <;> simp
@[simp] theorem countErrs_clk (a n : Nat) : (countErrs s a n).clk = s.clk := by unfold countErrs; split <;> simp
@[simp] theorem countErrs_pins (a n : Nat) : (countErrs s a n).pins = s.pins := by unfold countErrs; split <;> simp
@[simp] theorem countErrs_fuses (a n : Nat) : (countErrs s a n).fuses = s.fuses := by unfold countErrs; split <;> simp
@[simp] theorem countErrs_boot (a n : Nat) : (countErrs s a n).boot = s.boot := by unfold countErrs; split <;> simp
@[simp] theorem countErrs_cfg (a n : Nat) : (countErrs s a n).cfg = s.cfg := by unfold countErrs; split <;> simp
@[simp] theorem countErrs_mbx (a n : Nat) : (countErrs s a n).mbx = s.mbx := by unfold countErrs; split <;> simp
@[simp] theorem countErrs_qs (a n : Nat) : (countErrs s a n).qs = s.qs := by unfold countErrs; split <;> simp
@[simp] theorem countErrs_fence (a n : Nat) : (countErrs s a n).fence = s.fence := by unfold countErrs; split <;> simp
@[simp] theorem countErrs_port (a n : Nat) : (countErrs s a n).port = s.port := by unfold countErrs; split <;> simp
@[simp] theorem countErrs_parse (a n : Nat) : (countErrs s a n).parse = s.parse := by unfold countErrs; split <;> simp
@[simp] theorem countErrs_tm (a n : Nat) : (countErrs s a n).tm = s.tm := by unfold countErrs; split <;> simp
@[simp] theorem countErrs_tables (a n : Nat) : (countErrs s a n).tables = s.tables := by unfold countErrs; split <;> simp
@[simp] theorem countErrs_eht (a n : Nat) : (countErrs s a n).eht = s.eht := by unfold countErrs; split <;> simp
@[simp] theorem countErrs_mem (a n : Nat) : (countErrs s a n).mem = s.mem := by unfold countErrs; split <;> simp
@[simp] theorem countErrs_ido (a n : Nat) : (countErrs s a n).ido = s.ido := by unfold countErrs; split <;> simp
@[simp] theorem countErrs_tfs (a n : Nat) : (countErrs s a n).tfs = s.tfs := by unfold countErrs; split <;> simp
@[simp] theorem countErrs_sto (a n : Nat) : (countErrs s a n).sto = s.sto := by unfold countErrs; split <;> simp
@[simp] theorem countErrs_sec (a n : Nat) : (countErrs s a n).sec = s.sec := by unfold countErrs; split <;> simp
@[simp] theorem countErrs_tsl (a n : Nat) : (countErrs s a n).tsl = s.tsl := by unfold countErrs; split <;> simp
@[simp] theorem countErrs_free (a n : Nat) : (countErrs s a n).free = s.free := by unfold countErrs; split <;> simp
@[simp] theorem countErrs_pending (a n : Nat) : (countErrs s a n).pending = s.pending := by unfold countErrs; split <;> simp
@[simp] theorem countErr_phase (a : Nat) : (countErr s a).phase = s.phase := countErrs_phase s a 1
@[simp] theorem countErr_clk (a : Nat) : (countErr s a).clk = s.clk := countErrs_clk s a 1
@[simp] theorem countErr_pins (a : Nat) : (countErr s a).pins = s.pins := countErrs_pins s a 1
@[simp] theorem countErr_fuses (a : Nat) : (countErr s a).fuses = s.fuses := countErrs_fuses s a 1
@[simp] theorem countErr_boot (a : Nat) : (countErr s a).boot = s.boot := countErrs_boot s a 1
@[simp] theorem countErr_cfg (a : Nat) : (countErr s a).cfg = s.cfg := countErrs_cfg s a 1
@[simp] theorem countErr_mbx (a : Nat) : (countErr s a).mbx = s.mbx := countErrs_mbx s a 1
@[simp] theorem countErr_qs (a : Nat) : (countErr s a).qs = s.qs := countErrs_qs s a 1
@[simp] theorem countErr_fence (a : Nat) : (countErr s a).fence = s.fence := countErrs_fence s a 1
@[simp] theorem countErr_port (a : Nat) : (countErr s a).port = s.port := countErrs_port s a 1
@[simp] theorem countErr_parse (a : Nat) : (countErr s a).parse = s.parse := countErrs_parse s a 1
@[simp] theorem countErr_tm (a : Nat) : (countErr s a).tm = s.tm := countErrs_tm s a 1
@[simp] theorem countErr_tables (a : Nat) : (countErr s a).tables = s.tables := countErrs_tables s a 1
@[simp] theorem countErr_eht (a : Nat) : (countErr s a).eht = s.eht := countErrs_eht s a 1
@[simp] theorem countErr_mem (a : Nat) : (countErr s a).mem = s.mem := countErrs_mem s a 1
@[simp] theorem countErr_ido (a : Nat) : (countErr s a).ido = s.ido := countErrs_ido s a 1
@[simp] theorem countErr_tfs (a : Nat) : (countErr s a).tfs = s.tfs := countErrs_tfs s a 1
@[simp] theorem countErr_sto (a : Nat) : (countErr s a).sto = s.sto := countErrs_sto s a 1
@[simp] theorem countErr_sec (a : Nat) : (countErr s a).sec = s.sec := countErrs_sec s a 1
@[simp] theorem countErr_tsl (a : Nat) : (countErr s a).tsl = s.tsl := countErrs_tsl s a 1
@[simp] theorem countErr_free (a : Nat) : (countErr s a).free = s.free := countErrs_free s a 1
@[simp] theorem countErr_pending (a : Nat) : (countErr s a).pending = s.pending := countErrs_pending s a 1
@[simp] theorem snapRange_phase (a n : Nat) : (snapRange s a n).phase = s.phase := rfl
@[simp] theorem snapRange_clk (a n : Nat) : (snapRange s a n).clk = s.clk := rfl
@[simp] theorem snapRange_pins (a n : Nat) : (snapRange s a n).pins = s.pins := rfl
@[simp] theorem snapRange_fuses (a n : Nat) : (snapRange s a n).fuses = s.fuses := rfl
@[simp] theorem snapRange_boot (a n : Nat) : (snapRange s a n).boot = s.boot := rfl
@[simp] theorem snapRange_cfg (a n : Nat) : (snapRange s a n).cfg = s.cfg := rfl
@[simp] theorem snapRange_mbx (a n : Nat) : (snapRange s a n).mbx = s.mbx := rfl
@[simp] theorem snapRange_qs (a n : Nat) : (snapRange s a n).qs = s.qs := rfl
@[simp] theorem snapRange_fence (a n : Nat) : (snapRange s a n).fence = s.fence := rfl
@[simp] theorem snapRange_port (a n : Nat) : (snapRange s a n).port = s.port := rfl
@[simp] theorem snapRange_parse (a n : Nat) : (snapRange s a n).parse = s.parse := rfl
@[simp] theorem snapRange_tm (a n : Nat) : (snapRange s a n).tm = s.tm := rfl
@[simp] theorem snapRange_tables (a n : Nat) : (snapRange s a n).tables = s.tables := rfl
@[simp] theorem snapRange_eht (a n : Nat) : (snapRange s a n).eht = s.eht := rfl
@[simp] theorem snapRange_mem (a n : Nat) : (snapRange s a n).mem = s.mem := rfl
@[simp] theorem snapRange_ido (a n : Nat) : (snapRange s a n).ido = s.ido := rfl
@[simp] theorem snapRange_tfs (a n : Nat) : (snapRange s a n).tfs = s.tfs := rfl
@[simp] theorem snapRange_sto (a n : Nat) : (snapRange s a n).sto = s.sto := rfl
@[simp] theorem snapRange_sec (a n : Nat) : (snapRange s a n).sec = s.sec := rfl
@[simp] theorem snapRange_tsl (a n : Nat) : (snapRange s a n).tsl = s.tsl := rfl
@[simp] theorem snapRange_free (a n : Nat) : (snapRange s a n).free = s.free := rfl
@[simp] theorem snapRange_pending (a n : Nat) : (snapRange s a n).pending = s.pending := rfl
@[simp] theorem clearRange_phase (a n : Nat) : (clearRange s a n).phase = s.phase := rfl
@[simp] theorem clearRange_clk (a n : Nat) : (clearRange s a n).clk = s.clk := rfl
@[simp] theorem clearRange_pins (a n : Nat) : (clearRange s a n).pins = s.pins := rfl
@[simp] theorem clearRange_fuses (a n : Nat) : (clearRange s a n).fuses = s.fuses := rfl
@[simp] theorem clearRange_boot (a n : Nat) : (clearRange s a n).boot = s.boot := rfl
@[simp] theorem clearRange_cfg (a n : Nat) : (clearRange s a n).cfg = s.cfg := rfl
@[simp] theorem clearRange_mbx (a n : Nat) : (clearRange s a n).mbx = s.mbx := rfl
@[simp] theorem clearRange_qs (a n : Nat) : (clearRange s a n).qs = s.qs := rfl
@[simp] theorem clearRange_fence (a n : Nat) : (clearRange s a n).fence = s.fence := rfl
@[simp] theorem clearRange_port (a n : Nat) : (clearRange s a n).port = s.port := rfl
@[simp] theorem clearRange_parse (a n : Nat) : (clearRange s a n).parse = s.parse := rfl
@[simp] theorem clearRange_tm (a n : Nat) : (clearRange s a n).tm = s.tm := rfl
@[simp] theorem clearRange_tables (a n : Nat) : (clearRange s a n).tables = s.tables := rfl
@[simp] theorem clearRange_eht (a n : Nat) : (clearRange s a n).eht = s.eht := rfl
@[simp] theorem clearRange_mem (a n : Nat) : (clearRange s a n).mem = s.mem := rfl
@[simp] theorem clearRange_ido (a n : Nat) : (clearRange s a n).ido = s.ido := rfl
@[simp] theorem clearRange_tfs (a n : Nat) : (clearRange s a n).tfs = s.tfs := rfl
@[simp] theorem clearRange_sto (a n : Nat) : (clearRange s a n).sto = s.sto := rfl
@[simp] theorem clearRange_sec (a n : Nat) : (clearRange s a n).sec = s.sec := rfl
@[simp] theorem clearRange_tsl (a n : Nat) : (clearRange s a n).tsl = s.tsl := rfl
@[simp] theorem clearRange_free (a n : Nat) : (clearRange s a n).free = s.free := rfl
@[simp] theorem clearRange_pending (a n : Nat) : (clearRange s a n).pending = s.pending := rfl

/-! ### What an accessor reads after an update -/

@[simp] theorem lp_onLp (n m : Nat) (f : LPort → LPort) : (s.onLp n f).lp m = if m = n then f (s.lp n) else s.lp m := tget_tmod ..
@[simp] theorem pp_onPp (n m : Nat) (f : PPort → PPort) : (s.onPp n f).pp m = if m = n then f (s.pp n) else s.pp m := tget_tmod ..
@[simp] theorem pp_onLp (n m : Nat) (f : LPort → LPort) : (s.onLp n f).pp m = s.pp m := rfl
@[simp] theorem lp_onPp (n m : Nat) (f : PPort → PPort) : (s.onPp n f).lp m = s.lp m := rfl
@[simp] theorem stall_onStall (n m : Nat) (f : Stall → Stall) : (s.onStall n f).stall m = if m = n then f (s.stall n) else s.stall m :=
  tget_tmod ..
@[simp] theorem tf_onTf (n m : Nat) (f : Tf → Tf) : (s.onTf n f).tf m = if m = n then f (s.tf n) else s.tf m := tget_tmod ..
@[simp] theorem tbl_onTbl (n m : Nat) (f : Table → Table) : (s.onTbl n f).tbl m = if m = n then f (s.tbl n) else s.tbl m := tget_tmod ..
@[simp] theorem drive_onDrive (n m : Nat) (f : Drive → Drive) : (s.onDrive n f).drive m = if m = n then f (s.drive n) else s.drive m :=
  tget_tmod ..
@[simp] theorem chan_onChan (n m : Nat) (f : Chan → Chan) : (s.onChan n f).chan m = if m = n then f (s.chan n) else s.chan m := tget_tmod ..
@[simp] theorem tq_onTq (n m : Nat) (f : TmQueue → TmQueue) : (s.onTq n f).tq m = if m = n then f (s.tq n) else s.tq m := tget_tmod ..

theorem role_onRole (a r b q : Nat) (f : CoreRole → CoreRole) :
    (s.onRole a r f).role b q = if b = a ∧ q = r then f (s.role a r) else s.role b q := by
  unfold State.role State.onRole
  rw [stall_onStall]
  by_cases h : b = a
  · subst h; simp only [if_true, tget_tmod, true_and]
  · simp [h]

theorem thrAt_onThrAt (a r t b q u : Nat) (f : Thread → Thread) :
    (s.onThrAt a r t f).thrAt b q u = if b = a ∧ q = r ∧ u = t then f (s.thrAt a r t) else s.thrAt b q u := by
  unfold State.thrAt State.onThrAt
  rw [role_onRole]
  by_cases h : b = a ∧ q = r
  · obtain ⟨rfl, rfl⟩ := h; simp only [and_self, if_true, tget_tmod, true_and]
  · rw [if_neg h, if_neg (fun e => h ⟨e.1, e.2.1⟩)]

/-- A thread reads what was written to it, and no other thread changes. -/
theorem thr_onThr (i j : Tid) (f : Thread → Thread) : (s.onThr i f).thr j = if j = i then f (s.thr i) else s.thr j := by
  unfold State.thr State.onThr
  rw [thrAt_onThrAt]
  congr 1
  obtain ⟨a, b, c⟩ := i
  obtain ⟨d, e, g⟩ := j
  simp [Tid.mk.injEq, Fin.ext_iff]

theorem greg_setReg (i : Tid) (r q : Reg) (v : Word64) :
    (s.setReg i r v).greg i q = if q = 0#5 then 0 else if q = r then v else s.greg i q := by
  unfold State.greg State.setReg
  rw [thr_onThr, if_pos rfl]
  unfold Thread.reg Thread.setReg
  by_cases hq : q = 0#5
  · simp [hq]
  · by_cases hr : r = 0#5
    · simp [hq, hr]
    · simp only [hq, hr, if_false]
      by_cases h : q = r
      · subst h; simp
      · rw [if_neg h]; exact Vector.getElem_set_ne _ _ (fun e => h (BitVec.eq_of_toNat_eq e.symm))

/-! ### The clock -/

theorem run_up (c : Clk) (n : Nat) : (c.run n).up = c.up + n := by unfold Clk.run; split <;> rfl

theorem advance_up (t : Nat) : (s.advance t).clk.up = max s.clk.up t := by
  unfold State.advance
  split
  · simp only [run_up]; omega
  · omega

@[simp] theorem advance_xtalOk (t : Nat) : (s.advance t).clk.xtalOk = s.clk.xtalOk := by
  unfold State.advance Clk.run; split <;> [split <;> rfl; rfl]
@[simp] theorem advance_releasedAt (t : Nat) : (s.advance t).clk.releasedAt = s.clk.releasedAt := by
  unfold State.advance Clk.run; split <;> [split <;> rfl; rfl]
@[simp] theorem advance_tbRunning (t : Nat) : (s.advance t).clk.tbRunning = s.clk.tbRunning := by
  unfold State.advance Clk.run; split <;> [split <;> rfl; rfl]
@[simp] theorem advance_rate (t : Nat) : (s.advance t).clk.rate = s.clk.rate := by
  unfold State.advance Clk.run; split <;> [split <;> rfl; rfl]
@[simp] theorem advance_slewRate (t : Nat) : (s.advance t).clk.slewRate = s.clk.slewRate := by
  unfold State.advance Clk.run; split <;> [split <;> rfl; rfl]
@[simp] theorem advance_gates (t : Nat) : (s.advance t).clk.gates = s.clk.gates := by
  unfold State.advance Clk.run; split <;> [split <;> rfl; rfl]
@[simp] theorem advance_stopped (t : Nat) : (s.advance t).clk.stopped = s.clk.stopped := by
  unfold State.advance Clk.run; split <;> [split <;> rfl; rfl]
@[simp] theorem advance_pllsLocked (t : Nat) : (s.advance t).clk.pllsLocked = s.clk.pllsLocked := by
  unfold State.advance Clk.run; split <;> [split <;> rfl; rfl]
@[simp] theorem advance_eth0Ok (t : Nat) : (s.advance t).clk.eth0Ok = s.clk.eth0Ok := by
  unfold State.advance Clk.run; split <;> [split <;> rfl; rfl]
@[simp] theorem advance_eth1Ok (t : Nat) : (s.advance t).clk.eth1Ok = s.clk.eth1Ok := by
  unfold State.advance Clk.run; split <;> [split <;> rfl; rfl]
@[simp] theorem advance_pcieOk (t : Nat) : (s.advance t).clk.pcieOk = s.clk.pcieOk := by
  unfold State.advance Clk.run; split <;> [split <;> rfl; rfl]
@[simp] theorem advance_rstCause (t : Nat) : (s.advance t).clk.rstCause = s.clk.rstCause := by
  unfold State.advance Clk.run; split <;> [split <;> rfl; rfl]
@[simp] theorem advance_resetPend (t : Nat) : (s.advance t).clk.resetPend = s.clk.resetPend := by
  unfold State.advance Clk.run; split <;> [split <;> rfl; rfl]
@[simp] theorem advance_watchdogAt (t : Nat) : (s.advance t).clk.watchdogAt = s.clk.watchdogAt := by
  unfold State.advance Clk.run; split <;> [split <;> rfl; rfl]
@[simp] theorem advance_warnArmed (t : Nat) : (s.advance t).clk.warnArmed = s.clk.warnArmed := by
  unfold State.advance Clk.run; split <;> [split <;> rfl; rfl]
@[simp] theorem advance_tj (t : Nat) : (s.advance t).clk.tj = s.clk.tj := by
  unfold State.advance Clk.run; split <;> [split <;> rfl; rfl]
@[simp] theorem advance_vddWant (t : Nat) : (s.advance t).clk.vddWant = s.clk.vddWant := by
  unfold State.advance Clk.run; split <;> [split <;> rfl; rfl]
@[simp] theorem advance_vddReached (t : Nat) : (s.advance t).clk.vddReached = s.clk.vddReached := by
  unfold State.advance Clk.run; split <;> [split <;> rfl; rfl]
@[simp] theorem advance_ppsHigh (t : Nat) : (s.advance t).clk.ppsHigh = s.clk.ppsHigh := by
  unfold State.advance Clk.run; split <;> [split <;> rfl; rfl]
@[simp] theorem advance_ppsFallAt (t : Nat) : (s.advance t).clk.ppsFallAt = s.clk.ppsFallAt := by
  unfold State.advance Clk.run; split <;> [split <;> rfl; rfl]
@[simp] theorem advance_ppsHold (t : Nat) : (s.advance t).clk.ppsHold = s.clk.ppsHold := by
  unfold State.advance Clk.run; split <;> [split <;> rfl; rfl]
@[simp] theorem advance_ppsLastRise (t : Nat) : (s.advance t).clk.ppsLastRise = s.clk.ppsLastRise := by
  unfold State.advance Clk.run; split <;> [split <;> rfl; rfl]

/-- Nothing is waiting: a step is a tick. -/
theorem step_nil (h : s.pending = []) : step s = .next (tick s) := by unfold step; rw [h]

/-- The command at the front of the queue is run on the rest. -/
theorem step_cons (c : Instr) (l : List Instr) (h : s.pending = c :: l) : step s = exec c { s with pending := l } := by
  unfold step; rw [h]

end Sys2Proof.Machine
end

