-- ==== Sys2Proof/WellFormed.lean ====
section
/-! DEFINITION. Well-formed commands: the operands that the part's own interfaces can deliver. The
meanings are total: an ill-formed command names nothing that exists and changes nothing but the clock. -/

namespace Sys2Proof

/-- A request body fits its transport: at most 1,048,544 bytes in band and 65,504 over the sideband (R336). -/
def Req.wf (r : Req) : Bool := decide (r.body.length ≤ (if r.peer.via = .inband then 1048544 else 65504))

/-- An object of a quiesce exists (R2, R27). -/
def QObj.wf : QObj → Bool
  | .tf n => decide (n < 4096)
  | .storageQueue f q => decide (f < 4096) && decide (q < 64)
  | .tmQueue q => decide (q < 65536)
  | .logicalPort _ => true
  | .stall _ => true
  | .endpoint _ => true

/-- Register accesses are of aligned 32-bit words below 2^32 (R342). -/
def regAddrWf (a : Nat) : Bool := decide (a < 2 ^ 32) && decide (a % 4 = 0)

/-- An NVMe answer returns the command identifier of a submission queue of 1,024 entries, and at most
the data of one command (R203, R214). -/
def NvmeDone.wf (d : NvmeDone) : Bool := decide (d.cid < 65536)

/-- A well-formed command: every operand is one that the command's interface can deliver. -/
def Instr.wf : Instr → Bool
  | .powerOnReset _ => true
  | .resetNLow _ => true
  | .resetRelease _ _ => true
  | .watchdog _ => true
  | .thermalTrip _ _ => true
  | .thermalWarn _ _ => true
  | .xtalStable _ _ => true
  | .xtalTimeout _ => true
  | .bootVerdict _ _ => true
  | .hbmTrainingDone _ _ _ => true
  | .coreImagesReady _ => true
  | .storedConfigDecision _ _ => true
  | .replayDone _ _ => true
  | .trialReverted _ => true
  | .clkRefLost _ _ => true
  | .clkRefRestored _ _ => true
  | .clkFail _ _ => true
  | .avsAdjust _ _ _ _ _ => true
  | .devResetExecute _ => true
  | .lockstepMismatch _ _ => true
  | .clerkRestartDone _ => true
  | .autoWake _ _ => true
  | .autoGateStop _ _ => true
  | .clkoutSettingApply _ => true
  | .slewEnd _ => true
  | .ppsInEdge _ => true
  | .ppsOutRise _ => true
  | .ppsOutFall _ => true
  | .tapReset => true
  | .idcode => true
  | .samplePreload _ => true
  | .extest => true
  | .clamp => true
  | .highz => true
  | .bypass _ => true
  | .frameReceive _ _ => true
  | .linkUp _ _ => true
  | .linkDown _ _ => true
  | .linkSetupFallback _ _ => true
  | .fecDegrade _ _ _ _ => true
  | .mgmtFrameRelease _ _ => true
  | .saActivated _ _ => true
  | .dispatch _ _ _ => true
  | .parseStallResume _ _ _ _ _ => true
  | .parseEnd _ _ _ _ _ => true
  | .chcXCap _ _ _ => true
  | .robRelease _ _ => true
  | .robTimeout _ _ => true
  | .versionSlotFree _ _ => true
  | .csRewrite _ _ _ => true
  | .tmDecision _ _ => true
  | .transmitSelect _ _ => true
  | .transmitEnd _ _ => true
  | .quiesceTimeout _ o => o.wf
  | .gateEvent _ _ => true
  | .bellChange _ _ => true
  | .tokenRefill _ _ => true
  | .learn _ _ => true
  | .refresh _ _ => true
  | .ageTick _ _ => true
  | .agerRequest _ _ => true
  | .notifyDeliver _ _ => true
  | .dumpStep _ _ => true
  | .flushDone _ _ => true
  | .bucketClear _ _ => true
  | .tableRecompute _ _ => true
  | .data _ _ => true
  | .ack _ _ => true
  | .creditReq _ _ => true
  | .creditGrant _ _ => true
  | .tally _ _ => true
  | .moved _ _ => true
  | .contextExpiry _ _ => true
  | .epochAdvance _ => true
  | .grantExpiry _ _ => true
  | .senderGrantStop _ _ => true
  | .rtoExpiry _ _ => true
  | .retryWaitEnd _ _ => true
  | .sendWindowEnd _ _ => true
  | .ehtTimeout _ _ => true
  | .revokeDone _ _ => true
  | .restoredRegionFree _ _ => true
  | .graceEnd _ _ => true
  | .tfSaved _ _ => true
  | .tfRestored _ _ => true
  | .stoFlush _ _ _ => true
  | .stoWrite _ _ _ => true
  | .stoRead _ _ _ => true
  | .stoWriteZeroes _ _ _ => true
  | .stoDeallocate _ _ _ => true
  | .stoLog _ _ _ => true
  | .stoRestartResume _ _ _ => true
  | .stoRestartDiscard _ _ _ => true
  | .stoDispatch _ => true
  | .nvmeCompletion _ _ d => d.wf
  | .coalesceTimeout _ _ _ => true
  | .journalCheckpoint _ _ => true
  | .driveTimeout _ _ c => decide (c < 65536)
  | .abortTimeout _ _ => true
  | .driveFailure _ _ _ => true
  | .driveLinkUp _ _ => true
  | .driveLinkRetry _ _ => true
  | .driveAdminCompletion _ _ _ => true
  | .selftestIdleStart _ _ => true
  | .selftestTimeout _ _ => true
  | .selftestResult _ _ _ => true
  | .driveFwDone _ _ _ => true
  | .add _ _ _ _ => true
  | .sub _ _ _ _ => true
  | .and _ _ _ _ => true
  | .or _ _ _ _ => true
  | .xor _ _ _ _ => true
  | .sll _ _ _ _ => true
  | .srl _ _ _ _ => true
  | .sra _ _ _ _ => true
  | .slt _ _ _ _ => true
  | .sltu _ _ _ _ => true
  | .mul _ _ _ _ => true
  | .mulhu _ _ _ _ => true
  | .divu _ _ _ _ => true
  | .remu _ _ _ _ => true
  | .addi _ _ _ _ => true
  | .andi _ _ _ _ => true
  | .ori _ _ _ _ => true
  | .xori _ _ _ _ => true
  | .shi _ _ _ _ _ => true
  | .slti _ _ _ _ => true
  | .sltiu _ _ _ _ => true
  | .movk _ _ _ _ => true
  | .movz _ _ _ _ => true
  | .ld _ _ _ _ => true
  | .lw _ _ _ _ => true
  | .lh _ _ _ _ => true
  | .lb _ _ _ _ => true
  | .sd _ _ _ _ => true
  | .sw _ _ _ _ => true
  | .sh _ _ _ _ => true
  | .sb _ _ _ _ => true
  | .beq _ _ _ _ => true
  | .bne _ _ _ _ => true
  | .blt _ _ _ _ => true
  | .bge _ _ _ _ => true
  | .bltu _ _ _ _ => true
  | .bgeu _ _ _ _ => true
  | .j _ _ => true
  | .jal _ _ => true
  | .jalr _ _ _ _ => true
  | .extu _ _ _ _ _ => true
  | .exts _ _ _ _ _ => true
  | .ins _ _ _ _ _ => true
  | .clz _ _ _ => true
  | .popc _ _ _ => true
  | .bswap _ _ _ => true
  | .crcc _ _ _ _ _ => true
  | .crce _ _ _ _ _ => true
  | .hmix _ _ _ _ => true
  | .aadd _ _ _ _ => true
  | .aswp _ _ _ _ => true
  | .acas _ _ _ _ => true
  | .aand _ _ _ _ => true
  | .aor _ _ _ _ => true
  | .fence _ => true
  | .ifence _ => true
  | .chw _ _ _ _ => true
  | .chwe _ _ _ _ => true
  | .chr _ _ _ => true
  | .chskip _ _ => true
  | .chpush _ _ _ => true
  | .chdrop _ _ => true
  | .chpoll _ _ _ => true
  | .wtime _ _ => true
  | .wsel _ _ => true
  | .wspace _ _ _ => true
  | .mfs _ _ _ => true
  | .mts _ _ _ => true
  | .trestart _ _ _ _ => true
  | .tstate _ _ _ => true
  | .ehtsub _ _ _ => true
  | .slotret _ _ _ _ => true
  | .finj _ _ _ => true
  | .frel _ _ => true
  | .blockedReadReturn _ _ => true
  | .timerPortExpiry _ _ => true
  | .quietDetector _ _ _ => true
  | .spareStart _ _ _ => true
  | .rehomeStart _ _ _ => true
  | .jobRingNotice _ _ base count => decide (base < 2 ^ 64) && decide (count < 2 ^ 64)
  | .gcmEncrypt _ _ => true
  | .gcmDecrypt _ _ => true
  | .xtsEncrypt _ _ => true
  | .xtsDecrypt _ _ => true
  | .shake256 _ _ => true
  | .patrolScrub _ _ _ _ _ _ _ => true
  | .fixedAreaRewrite _ _ => true
  | .sweepStart _ => true
  | .testStart _ _ => true
  | .bankCopyDone _ => true
  | .testRunEnd _ _ _ => true
  | .sweepPeriodEnd _ => true
  | .deadListBurn _ _ => true
  | .mbxRequest _ _ _ => true
  | .replay _ r => r.wf
  | .resultPart _ r => r.wf
  | .cmdTimeout _ => true
  | .captureRelease _ _ => true
  | .stagingExpiry _ => true
  | .cfgStoreDone _ _ => true
  | .tallyInterval _ => true
  | .eventMessageDone _ _ _ => true
  | .eventRetry _ _ => true
  | .go _ => true
  | .cancel _ => true
  | .rspAck _ => true
  | .evtAck _ => true
  | .sbDataWrite _ _ => true
  | .sbDataRead _ => true
  | .entdaa _ _ => true
  | .setdasa _ _ => true
  | .devInfo _ r => r.wf
  | .regRead _ r => r.wf
  | .regWrite _ r => r.wf
  | .devReset _ r => r.wf
  | .cfgOpen _ r => r.wf
  | .cfgWrite _ r => r.wf
  | .cfgRead _ r => r.wf
  | .cfgDiscard _ r => r.wf
  | .cfgCommit _ r => r.wf
  | .cfgStatus _ r => r.wf
  | .cfgRecall _ r _ => r.wf
  | .tallyPeers _ r => r.wf
  | .evtSubscribe _ r => r.wf
  | .evtUnsubscribe _ r => r.wf
  | .evtRead _ r => r.wf
  | .msSaInstall _ r => r.wf
  | .msSaActivate _ r => r.wf
  | .msSaDelete _ r => r.wf
  | .msStatus _ r => r.wf
  | .lpQuiesce _ r => r.wf
  | .lpEnable _ r => r.wf
  | .tsRead _ r => r.wf
  | .ppsRead _ r => r.wf
  | .chcPatchLoad _ r _ => r.wf
  | .chcExtLoad _ r _ => r.wf
  | .tblInsert _ r => r.wf
  | .tblDelete _ r => r.wf
  | .tblRead _ r => r.wf
  | .tblBatch _ r => r.wf
  | .tblFlush _ r => r.wf
  | .tblDump _ r => r.wf
  | .tmQstats _ r => r.wf
  | .tmPolstats _ r => r.wf
  | .tmQquiesce _ r => r.wf
  | .tmQenable _ r => r.wf
  | .ehtRegCreate _ r => r.wf
  | .ehtRegRevoke _ r => r.wf
  | .ehtRegQuery _ r => r.wf
  | .ehtBookWrite _ r => r.wf
  | .ehtBookRead _ r => r.wf
  | .ehtEpQuiesce _ r => r.wf
  | .stoQueueQuiesce _ r => r.wf
  | .stoQueueStats _ r => r.wf
  | .stoDriveStatus _ r => r.wf
  | .stoSelftest _ r => r.wf
  | .stoDriveFw _ r => r.wf
  | .stoNsOnline _ r => r.wf
  | .tfEnable _ r => r.wf
  | .tfDisable _ r => r.wf
  | .tfFreeze _ r => r.wf
  | .tfThaw _ r => r.wf
  | .tfSave _ r => r.wf
  | .tfRestore _ r => r.wf
  | .tfMoved _ r => r.wf
  | .tfQuery _ r => r.wf
  | .tfStats _ r => r.wf
  | .tfEpCreate _ r => r.wf
  | .tfEpDestroy _ r => r.wf
  | .tfSqCreate _ r => r.wf
  | .tfSqResize _ r => r.wf
  | .tfSqEnable _ r => r.wf
  | .tfSqDestroy _ r => r.wf
  | .stallStart _ r => r.wf
  | .stallQuiesce _ r => r.wf
  | .coreRestart _ r => r.wf
  | .dbgStop _ r => r.wf
  | .dbgResume _ r => r.wf
  | .dbgStep _ r => r.wf
  | .dbgKill _ r => r.wf
  | .dbgBreak _ r => r.wf
  | .dbgRead _ r => r.wf
  | .dbgWrite _ r => r.wf
  | .keyGenerate _ r => r.wf
  | .keyImport _ r => r.wf
  | .keyExport _ r => r.wf
  | .keyRootImport _ r _ => r.wf
  | .keyDestroy _ r => r.wf
  | .keyQuery _ r => r.wf
  | .attCert _ r => r.wf
  | .attLog _ r => r.wf
  | .attExtend _ r => r.wf
  | .attQuote _ r => r.wf
  | .bootStatus _ r => r.wf
  | .fwWrite _ r _ => r.wf
  | .fwVerify _ r _ => r.wf
  | .fwActivate _ r _ _ => r.wf
  | .fwConfirm _ r _ => r.wf
  | .bootMinverRaise _ r _ _ => r.wf
  | .vendorRevoke _ r _ _ _ _ => r.wf
  | .ownerKey _ r _ _ => r.wf
  | .ownerPolicy _ r _ _ => r.wf
  | .teaselStatus _ r => r.wf
  | .teaselTest _ r => r.wf
  | .teaselDeclare _ r => r.wf
  | .teaselReinstate _ r => r.wf
  | .teaselDeadlist _ r => r.wf
  | .tbRead _ r => r.wf
  | .tbSet _ r => r.wf
  | .tbRate _ r => r.wf
  | .tbSlew _ r => r.wf
  | .clkGate _ r => r.wf
  | .pwrStatus _ r => r.wf
  | .exlatSnap _ _ => true
  | .exlatCtlClear _ _ => true
  | .exlatValidRearm _ _ => true
  | .portSnap _ _ => true
  | .portClear _ _ => true
  | .parseSnap _ => true
  | .parseClear _ => true
  | .tblSnap _ _ => true
  | .tblClear _ _ => true
  | .tmSnap _ _ => true
  | .tmClear _ _ => true
  | .tmGsnap _ => true
  | .tmGclear _ => true
  | .ehtSnap _ => true
  | .ehtClear _ => true
  | .stoSnap _ => true
  | .stoClear _ => true
  | .stallSnap _ _ => true
  | .stallClear _ _ => true
  | .secSnap _ => true
  | .secClear _ => true
  | .memSnap _ => true
  | .memClear _ => true
  | .memValidRearm _ => true
  | .clkSnap _ => true
  | .clkClear _ => true
  | .cprSnap _ => true
  | .cprClear _ => true
  | .tslSnap _ => true
  | .tslClear _ => true
  | .registerWrite a _ => regAddrWf a
  | .stage1Start _ _ => true
  | .alignmentLoss _ _ => true
  | .thermalWarnRearm _ _ => true
  | .selftestOverdue _ _ => true

end Sys2Proof
end

