-- ==== Sys2Proof/Tests/Slice0.lean ====
section
/-! SUPPORT. The model's own tests: well-formedness refuses an ill-formed term of each kind; values that the spec works out; and,
for each statement, states and operands that meet its hypotheses, at the ends of their ranges. -/

namespace Sys2Proof.Tests
open Sys2Proof.Machine
set_option Elab.async false

/-- A part that runs, no configuration committed, nothing waiting. -/
def run : State :=
  { State.reset with
    phase := .running, clk.xtalOk := true, clk.tbRunning := true, clk.eth0Ok := true, clk.eth1Ok := true, clk.pcieOk := true
    clk.pllsLocked := true, clk.vddReached := 850, clk.vddWant := 850, clk.vddMeas := 850
    boot.gate := true, boot.inband := true, boot.decided := true, boot.stage1 := true, boot.booted := some .a, boot.hbmTrained := true }

/-- The same with a configuration of no records committed. -/
def crun : State := { run with cfg.state := .committed, cfg.stored := true }

/-- The sideband host. -/
def host : Peer := { via := .sideband, srcEid := 0, srcGen := 0, srcIp := 0, srcMac := 0, lp := 0 }

/-- A sideband request. -/
def rq (code : Nat) (body : Bytes) : Req := { peer := host, code := BitVec.ofNat 16 code, tag := 1, cursor := 0, body := body }

def zeros (n : Nat) : Bytes := List.replicate n 0#8

/-- A body of numbers. -/
def nums (l : List Nat) : Bytes := l.flatMap (leBytes 8)

/-- A storage queue of TF0. -/
def sq0 (st : SqState) : StoQueue := { st := st, eid := 1, depth := 64, cls := 0, book := 0, inline := false, coCount := 1, coTime := 0 }

/-- The Clerk takes a sideband request up at once where nothing waits before it. -/
def ready (s : State) : Bool := clerkServes (s.advance 0) host && s.mbx.queue.isEmpty && s.clk.up == 0

theorem takes_of {s : State} (c : Nat) (b : Bytes) (hc : c < 65536) (h : ready s = true) : Takes 0 s (rq c b) c s none := by
  simp only [ready, Bool.and_eq_true, List.isEmpty_iff, beq_iff_eq] at h
  obtain ⟨⟨h1, h2⟩, h3⟩ := h
  have ha : s.advance 0 = s := by simp [State.advance, h3]
  refine ⟨h1, by simp [rq, Nat.mod_eq_of_lt hc], rfl, ?_⟩
  simp [ha, headLate, takeReq, h2, senderOk, rq, host]

theorem test_ready : ready run = true ∧ ready crun = true := by decide
theorem test_takes : Takes 0 run (rq 0x0F05 []) 0x0F05 run none := takes_of _ _ (by decide) test_ready.1

/-! ### Well-formedness -/

theorem wf_side (b : Bytes) : Instr.wf (.cfgOpen 0 (rq 0x0201 b)) = decide (b.length ≤ 65504) := rfl
theorem wf_band (b : Bytes) : Instr.wf (.cfgOpen 0 { rq 0x0201 b with peer.via := .inband }) = decide (b.length ≤ 1048544) := rfl

theorem test_wf_accepts : Instr.wf (.registerWrite 0x00510010 1) = true ∧ Instr.wf (.jobRingNotice 0 0 0x1000 64) = true
    ∧ Instr.wf (.cfgOpen 0 (rq 0x0201 (List.replicate 65504 0))) = true := by
  refine ⟨by decide, by decide, ?_⟩
  rw [wf_side, List.length_replicate]; decide
theorem test_wf_refuses_address : Instr.wf (.registerWrite 0x00510012 1) = false ∧ Instr.wf (.registerWrite (2 ^ 32) 1) = false := by decide
theorem test_wf_refuses_ring : Instr.wf (.jobRingNotice 0 0 (2 ^ 64) 64) = false ∧ Instr.wf (.jobRingNotice 0 0 0 (2 ^ 64)) = false := by decide
theorem test_wf_refuses_body : Instr.wf (.cfgOpen 0 (rq 0x0201 (List.replicate 65505 0))) = false
    ∧ Instr.wf (.cfgOpen 0 { rq 0x0201 (List.replicate 1048545 0) with peer.via := .inband }) = false := by
  rw [wf_side, wf_band, List.length_replicate, List.length_replicate]; decide

/-! ### Premises of the statements: resets and start -/

theorem test_ResetsBegin_premises :
    run.inClockFail = false ∧ run.phase ≠ .inReset
    ∧ (let s := { run with clk.up := 2000000000 }
       s.boot.gate = true ∧ (s.phase = .starting ∨ s.phase = .running) ∧ s.clk.watchdogAt + 2000000000 ≤ s.clk.up)
    ∧ (let s := { run with clk.resetPend := some (none, 0) }
       s.inClockFail = false ∧ s.clk.resetPend = some (none, 0) ∧ 0 ≤ s.clk.up)
    ∧ (let s := { run with phase := .clockFail 6, boot.gate := false, clk.up := 2000000000 }
       s.inClockFail = true ∧ s.boot.booted.isSome = true ∧ s.clk.watchdogAt + 2000000000 ≤ s.clk.up)
    ∧ ((115 : Int) ≤ 115 ∧ run.phase ≠ .thermalHold)
    ∧ ({ run with phase := .clockFail 6 } : State).phase = .clockFail 6 := by decide

/-- The first mismatch of a running part, one a nanosecond after the hour, and one at the hour's end. -/
theorem test_ResetsBegin_lockstep :
    (let s := { State.reset with phase := .starting }
     s.phase = .starting ∧ s.boot.gate = false)
    ∧ (run.phase = .running ∧ ∀ a, run.tsl.mismatchAt = some a → a + 3600000000000 < run.clk.up)
    ∧ (let s := { run with tsl.mismatchAt := some 0, clk.up := 3600000000001 }
       s.phase = .running ∧ ∀ a, s.tsl.mismatchAt = some a → a + 3600000000000 < s.clk.up)
    ∧ (let s := { run with tsl.mismatchAt := some 0, clk.up := 3600000000000 }
       s.phase = .running ∧ s.tsl.mismatchAt = some 0 ∧ s.clk.up ≤ 0 + 3600000000000)
    ∧ ({ run with tsl.restart := some (0, 0) } : State).tsl.restart = some (0, 0) := by
  refine ⟨by decide, ⟨rfl, ?_⟩, ⟨rfl, ?_⟩, by decide, rfl⟩
  · rintro a ⟨⟩
  · rintro a ⟨⟩; decide

/-- Straps of a part in the field, and of one on a tester. -/
theorem test_StartBegins_release :
    State.reset.phase = .inReset
    ∧ ({ p0Mode := 3, p1Mode := 0, mbxAddr := 0, testEn := true } : Straps).testEn = true
    ∧ ({ p0Mode := 3, p1Mode := 0, mbxAddr := 0, testEn := false } : Straps).testEn = false := by decide

/-- The reset has ended. -/
def begun : State := { State.reset with phase := .starting }
/-- The crystal is stable. -/
def clockd : State := { begun with clk.xtalOk := true, clk.tbRunning := true }
/-- What stage 1 finds on a good board, whose flash is as small as one may be. -/
def goodFacts : StartFacts :=
  { flashAnswers := true, flashMiB := 128, fusesReadable := true, memoriesGood := true, pllsLocked := true, vddReached := true }

theorem test_StartBegins_crystal :
    (begun.phase = .starting ∧ begun.clk.xtalOk = false)
    ∧ (let s := { begun with clk.up := 20000000 }
       s.phase = .starting ∧ s.clk.xtalOk = false ∧ s.clk.releasedAt + 20000000 ≤ s.clk.up) := by decide

theorem chooseAr_of_none {s : State} (h : [0, 1].filterMap (readAr s) = []) :
    chooseAr s = if s.fuses.count = 0 then some (firstAr, true) else none := by
  simp [chooseAr, h]

/-- An empty flash and unburnt fuses; with one fuse step burnt no record fits; a flash one MiB short. -/
theorem test_StartBegins_stage1 :
    (clockd.phase = .starting ∧ clockd.clk.xtalOk = true ∧ clockd.boot.stage1 = false
      ∧ (slotOrder (latestFlag clockd)).find? (fun y => !clockd.boot.tried.contains y) = some .a)
    ∧ (startHalt goodFacts = 0 ∧ chooseAr clockd = some (firstAr, true))
    ∧ startHalt { goodFacts with flashMiB := 127 } ≠ 0
    ∧ (let s := { clockd with fuses.count := 1 }
       startHalt goodFacts = 0 ∧ chooseAr s = none
       ∧ (slotOrder (latestFlag s)).find? (fun y => !s.boot.tried.contains y) = some .a) := by
  refine ⟨by decide +kernel, ⟨by decide, ?_⟩, by decide, ⟨by decide, ?_, by decide +kernel⟩⟩
  · exact chooseAr_of_none (by decide +kernel)
  · exact chooseAr_of_none (by decide +kernel)

/-- A slot under trial in the start, as the first and as the last of the two. -/
theorem test_StartBegins_verdict :
    (let s := { clockd with boot.stage1 := true, boot.trying := some .a, boot.tried := [.a] }
     s.phase = .starting ∧ s.boot.gate = false ∧ s.boot.trying = some .a ∧ s.boot.tried.length < 2
       ∧ slotReason (restoreKeys s) .a { slot := true, patch := true, owner := true } = bootFormat ∧ bootFormat ≠ 0)
    ∧ (let s := { clockd with boot.stage1 := true, boot.trying := some .b, boot.tried := [.a, .b] }
     s.phase = .starting ∧ s.boot.gate = false ∧ s.boot.trying = some .b ∧ 2 ≤ s.boot.tried.length
       ∧ slotReason (restoreKeys s) .b { slot := true, patch := true, owner := true } = bootFormat) := by decide +kernel

theorem test_HaltCodeFollows_premises :
    bootFormat ∈ [bootFormat, bootKey, bootSig, bootRevoked, bootVersion, bootDigest]
    ∧ bootDigest ∈ [bootFormat, bootKey, bootSig, bootRevoked, bootVersion, bootDigest]
    ∧ (bootRevoked = bootRevoked ∨ bootVersion = bootRevoked)
    ∧ (bootKey ∈ [bootFormat, bootKey, bootSig, bootDigest] ∧ bootSig ∈ [bootFormat, bootKey, bootSig, bootDigest])
    ∧ (¬ (bootVersion = bootRevoked ∨ bootKey = bootRevoked) ∧ ¬ (bootVersion = bootVersion ∧ bootKey = bootVersion)
      ∧ bootVersion ∉ [bootFormat, bootKey, bootSig, bootDigest]) := by decide

/-! ### The end of the start, clocks, the time base -/

/-- The gate is open; nothing trained yet. -/
def gated : State := { clockd with boot.stage1 := true, boot.gate := true, boot.booted := some .a, boot.tried := [.a] }

theorem test_StartCompletes_premises :
    (gated.phase = .starting ∧ gated.boot.gate = true ∧ gated.mem.trained0 = false ∧ gated.mem.trained1 = false)
    ∧ (let s := { gated with boot.hbmTrained := true }
       s.phase = .starting ∧ s.boot.hbmTrained = true ∧ s.boot.inband = false ∧ s.boot.booted = some .a)
    ∧ (let s := { gated with boot.inband := true }
       s.phase = .starting ∧ s.boot.inband = true ∧ s.boot.decided = false
       ∧ latestArea s (holdsRecord s) = none)
    ∧ (let s := { run with boot.trialEnd := some 0 }
       s.boot.trialEnd = some 0 ∧ s.boot.booted = some .a ∧ 0 ≤ s.clk.up)
    ∧ (State.reset.mem.flash = [] ∧ 2 < 3 ∧ 65535 < 65536) := by decide +kernel

theorem test_ScanInstructions_premises : run.phase ≠ .inReset ∧ State.reset.phase = .inReset := by decide

theorem test_ClocksAndSupply_references :
    (run.clk.xtalOk = true ∧ run.phase = .running ∧ ∀ n : Fin 3, refOk run n.val = true)
    ∧ (let s := { run with clk.eth0Ok := false, clk.eth1Ok := false, clk.pcieOk := false }
       s.clk.xtalOk = true ∧ s.phase = .running ∧ ∀ n : Fin 3, refOk s n.val = false)
    ∧ (6 : Fin 9).val ≤ 6 := by decide

/-- Block 14 and block 29 may sleep; block 33 does not exist; the Stalls gate themselves under auto mode. -/
theorem test_ClocksAndSupply_gating :
    (let r := rq 0x0F05 (nums [14, 1])
     let x := { crun with cfg.recs := [(cfgKey (itemId 0xF 1 1) 14 0, encN 0)] }
     Takes 0 x r 0x0F05 x none ∧ r.body.length = 16 ∧ 14 ≤ num r 0 ∧ num r 0 < 30 ∧ gateMode x (num r 0) ≠ 1 ∧ maySleep x (num r 0) = true
       ∧ num r 1 = 1)
    ∧ (let r := rq 0x0F05 (nums [29, 2])
     let x := { crun with cfg.recs := [(cfgKey (itemId 0xF 1 1) 29 0, encN 0)] }
     Takes 0 x r 0x0F05 x none ∧ r.body.length = 16 ∧ 14 ≤ num r 0 ∧ num r 0 < 30 ∧ gateMode x (num r 0) ≠ 1 ∧ maySleep x (num r 0) = true
       ∧ num r 1 = 2)
    ∧ (let r := rq 0x0F05 (nums [32, 0])
       Takes 0 run r 0x0F05 run none ∧ r.body.length = 16 ∧ 12 ≤ num r 0 ∧ num r 0 < 33 ∧ num r 1 = 0)
    ∧ (let r := rq 0x0F05 (nums [33, 0])
       Takes 0 run r 0x0F05 run none ∧ r.body.length = 16 ∧ 33 ≤ num r 0)
    ∧ (let r := rq 0x0F05 (nums [0, 2])
       Takes 0 run r 0x0F05 run none ∧ r.body.length = 16 ∧ num r 0 < 30 ∧ (num r 1 = 1 ∨ num r 1 = 2)
         ∧ (gateMode run (num r 0) = 1 ∨ maySleep run (num r 0) = false))
    ∧ (let r := rq 0x0F06 []
       Takes 0 run r 0x0F06 run none ∧ r.body = [])
    ∧ (32 : Fin 33).val ∈ ({ run with clk.stopped := [32] } : State).clk.stopped
    ∧ (clocked run = true ∧ gateMode run 30 = 1 ∧ gateState run 30 = .run ∧ 30 ∉ run.clk.stopped ∧ blockWork run 30 = false)
    ∧ crun.committed = true := by
  repeat' apply And.intro
  all_goals decide +kernel

theorem test_ClocksAndSupply_supply :
    (let s := { run with clk.up := 1000000 }
     s.clk.xtalOk = true ∧ s.phase = .running ∧ s.boot.gate = true ∧ s.clk.avsMoved + 1000000 ≤ s.clk.up ∧ 850 ≤ 850
       ∧ 850 < 851 ∧ s.clk.vddReached = 850 ∧ s.clk.avsLimitAt = none ∧ s.clk.avsFaulted = false)
    ∧ (run.clk.warnArmed = true ∧ warnLevel run = 95 ∧ warnLevel run ≤ 95 ∧ (90 : Int) ≤ warnLevel run - 5)
    ∧ (stepTo 800 806 = 805 ∧ stepTo 800 794 = 795 ∧ stepTo 800 803 = 803) := by decide +kernel

theorem test_TimeBase_commands :
    (let r := rq 0x0F01 []
     Takes 0 run r 0x0F01 run none ∧ r.body = [])
    ∧ (let r := rq 0x0F02 (leBytes 10 999999999)
       Takes 0 run r 0x0F02 run none ∧ r.body.length = 10 ∧ leAt r.body 0 10 % 2 ^ 32 < 1000000000 ∧ run.clk.tbRunning = true)
    ∧ (let r := rq 0x0F02 (leBytes 10 0)
       let s := { run with clk.tbRunning := false }
       Takes 0 s r 0x0F02 s none ∧ r.body.length = 10 ∧ leAt r.body 0 10 % 2 ^ 32 < 1000000000 ∧ s.clk.tbRunning = false)
    ∧ (let r := rq 0x0F02 (leBytes 10 1000000000)
       Takes 0 run r 0x0F02 run none ∧ r.body.length = 10 ∧ 1000000000 ≤ leAt r.body 0 10 % 2 ^ 32)
    ∧ (let r := rq 0x0F03 (encNum (-500000000))
       Takes 0 run r 0x0F03 run none ∧ r.body.length = 8 ∧ -500000000 ≤ toSigned (num r 0) ∧ toSigned (num r 0) ≤ 500000000)
    ∧ (let r := rq 0x0F03 (encNum (-500000001))
       Takes 0 run r 0x0F03 run none ∧ r.body.length = 8 ∧ (toSigned (num r 0) < -500000000 ∨ 500000000 < toSigned (num r 0)))
    ∧ (let r := rq 0x0F04 (encNum (-10000000) ++ encN 500)
       Takes 0 run r 0x0F04 run none ∧ r.body.length = 16 ∧ -10000000 ≤ toSigned (num r 0) ∧ toSigned (num r 0) ≤ 10000000
         ∧ 1 ≤ num r 1 ∧ num r 1 ≤ 500)
    ∧ run.clk.slewLeft = 0 := by
  repeat' apply And.intro
  all_goals decide +kernel

/-- PPS: the sixteenth stamp still fits; the first second's rise, at its nanosecond. -/
theorem test_TimeBase_pps :
    (run.clk.tbRunning = true ∧ ({ run with port.ppsFifo := List.replicate 15 0 } : State).port.ppsFifo.length < 16
      ∧ 16 ≤ ({ run with port.ppsFifo := List.replicate 16 0 } : State).port.ppsFifo.length)
    ∧ (let s := { run with clk.tb := 1000000000 * 2 ^ 32 }
       s.clk.tbRunning = true ∧ s.clk.ppsHigh = false ∧ s.clk.ppsHold = none ∧ s.clk.ppsLastRise ≠ some 1 ∧ 0 < 1
       ∧ 1 * 1000000000 + ppsOffset s ≤ s.ns ∧ s.ns < (1 + 1) * 1000000000 + ppsOffset s)
    ∧ (let s := { run with clk.ppsHigh := true }
       s.clk.ppsHigh = true ∧ s.clk.ppsFallAt ≤ s.ns)
    ∧ run.mbx.subs = [] := by decide +kernel

/-- R403: a slew of 300 ns at 100 ppm takes 3,000,000 clocks. -/
theorem test_slew_example :
    ({ tbRunning := true, rate := 15000000, slewRate := 100, slewLeft := 300000000 } : Clk).slewClocks = 3000000 := by decide +kernel

/-! ### Counters, registers, ports -/

theorem test_CountersAndTriggers_premises :
    (let c := run.ctr (cprBase + 0x108)
     c.v < 2 ^ 64 ∧ 2 ^ 64 - 1 < 2 ^ 64 ∧ c.v + (2 ^ 64 - 1) < 2 ^ 64)
    ∧ (let s := { run with ctrs := [(cprBase + 0x108, { v := 1 })] }
       let on := { s with cfg.recs := [(cfgKey (itemId 2 1 5) (wrapBlock s (cprBase + 0x108) / 0x1000) 0, encN 1)] }
       twf s.ctrs = true ∧ (s.ctr (cprBase + 0x108)).v < 2 ^ 64 ∧ 2 ^ 64 ≤ (s.ctr (cprBase + 0x108)).v + (2 ^ 64 - 1)
       ∧ s.cfgN (itemId 2 1 5) (wrapBlock s (cprBase + 0x108) / 0x1000) 0 0 ≠ 1
       ∧ on.cfgN (itemId 2 1 5) (wrapBlock on (cprBase + 0x108) / 0x1000) 0 0 = 1)
    ∧ (cprBase ≤ cprBase ∧ cprBase < cprBase + 0x1000 ∧ ¬ (cprBase ≤ cprBase + 0x1000 ∧ cprBase + 0x1000 < cprBase + 0x1000))
    ∧ ((5#32).getLsbD 0 = true ∧ (5#32).getLsbD 2 = true ∧ (2#32).getLsbD 0 = false ∧ (2#32).getLsbD 2 = false
      ∧ (0x80000000#32).getLsbD 31 = true ∧ (0x7FFFFFFF#32).getLsbD 31 = false) := by
  repeat' apply And.intro
  all_goals decide +kernel

/-- A wrap register and an overflow register of one block; the ends of the threshold; the first address past a block. -/
theorem test_RegisterWrites_premises :
    (∀ o ∈ [0xC, 0x10], let b : Block := ⟨.cpr, cprBase, 0⟩
       (cprBase + o) % 4 = 0 ∧ cprBase + o < 2 ^ 44 ∧ blockAt (cprBase + o) = some b ∧ b.kind.groups.any (fun g => g.flagOff == o) = true
         ∧ b.kind.triggers.1 ≠ some o ∧ b.kind.triggers.2 ≠ some o)
    ∧ ((1#32).toNat = 1 ∧ (1000000#32).toNat ≤ 1000000 ∧ (0#32).toNat = 0 ∧ 1000000 < (1000001#32).toNat)
    ∧ ((0x100#32).getLsbD 8 = true ∧ 3 % 4 ≠ 0)
    ∧ (let r := rq 0x0102 (nums [cprBase + 0xFFC, 4])
       Takes 0 run r 0x0102 run none ∧ r.body.length = 16 ∧ num r 0 % 4 = 0 ∧ num r 0 < 2 ^ 44 ∧ num r 1 % 4 = 0 ∧ 4 ≤ num r 1
         ∧ num r 1 ≤ 4064 ∧ blockAt (num r 0) = some ⟨.cpr, cprBase, 0⟩ ∧ num r 0 + num r 1 ≤ cprBase + (⟨.cpr, cprBase, 0⟩ : Block).size)
    ∧ (let r := rq 0x0102 (nums [cprBase + 0xFFC, 8])
       Takes 0 run r 0x0102 run none ∧ r.body.length = 16 ∧ blockAt (num r 0) = some ⟨.cpr, cprBase, 0⟩
         ∧ cprBase + (⟨.cpr, cprBase, 0⟩ : Block).size < num r 0 + num r 1)
    ∧ (let r := rq 0x0102 (nums [cprBase + 2, 4])
       Takes 0 run r 0x0102 run none ∧ r.body.length = 16 ∧ num r 0 % 4 ≠ 0)
    ∧ (let r := rq 0x0102 (nums [0x00300000, 4064])
       Takes 0 run r 0x0102 run none ∧ r.body.length = 16 ∧ blockAt (num r 0) = none ∧ num r 1 % 4 = 0 ∧ 4 ≤ num r 1 ∧ num r 1 ≤ 4064)
    ∧ (let r := rq 0x0102 (nums [cprBase, 4068])
       Takes 0 run r 0x0102 run none ∧ r.body.length = 16 ∧ num r 0 % 4 = 0 ∧ num r 0 < 2 ^ 44 ∧ 4064 < num r 1)
    ∧ (let r := rq 0x0103 (nums [cprBase + 0xFFC] ++ leBytes 4 1)
       Takes 0 run r 0x0103 run none ∧ 12 ≤ r.body.length ∧ r.body.length ≤ 4072 ∧ r.body.length % 4 = 0 ∧ num r 0 % 4 = 0
         ∧ num r 0 < 2 ^ 44 ∧ blockAt (num r 0) = some ⟨.cpr, cprBase, 0⟩
         ∧ num r 0 + (r.body.length - 8) ≤ cprBase + (⟨.cpr, cprBase, 0⟩ : Block).size) := by
  repeat' apply And.intro
  all_goals decide +kernel

/-- A frame of `n` bytes with EtherType `ty` and a good FCS. -/
def frame (ty n : Nat) : Bytes :=
  let b := List.replicate 6 0#8 ++ List.replicate 6 2#8 ++ beBytes 2 ty ++ List.replicate (n - 18) 0#8
  b ++ leBytes 4 (crc32 b).toNat

/-- Logical port 0 carries frames of a configured part. -/
def linked : State :=
  { crun with port.mgmtOnly := false, parse.patchDone := true, port.lps := [(0, { up := true, aligned := true })] }

/-- The same with MACsec on port 0: one receive channel, association 1, validation strict. -/
def sealed : State :=
  { linked with
    cfg.recs := [(cfgKey (itemId 4 2 1) 0 0, encN 1)]
    port.lps := [(0, { up := true, aligned := true, tx := { sci := 9, sas := [(0, { keySlot := 64, ssci := 0, salt := [], firstPn := 1, nextPn := 1 })] }, rx := [(7, { sci := 7, active := some 1, sas := [(1, { keySlot := 64, ssci := 0, salt := [], firstPn := 1, nextPn := 1, topPn := 5 })] })] })] }

theorem test_PortFramesAndLinks_frames :
    (run.boot.gate = true ∧ ¬ (run.lp 0).up = true)
    ∧ (linked.boot.gate = true ∧ linked.lpPresent 0 = true ∧ (linked.lp 0).up = true)
    ∧ (linked.stopped (.logicalPort 0) = false ∧ ({ linked with qs := [(.logicalPort 0, {})] } : State).stopped (.logicalPort 0) = true)
    ∧ linked.secured 0 = false
    ∧ ((frame 0x0800 63).length < 64 ∧ 64 ≤ (frame 0x0800 64).length ∧ (frame 0x0800 64).length ≤ linked.maxFrame 0)
    ∧ linked.maxFrame 0 < 9217
    ∧ (fcsGood (frame 0x0800 64) = true ∧ etherType (frame 0x0800 64) ≠ 0x8808 ∧ etherType (frame 0x8808 64) = 0x8808
      ∧ fcsGood (frame 0x8808 64) = true)
    ∧ fcsGood (List.replicate 64 0#8) = false
    ∧ (linked.parse.patchDone = true ∧ linked.port.mgmtOnly = false ∧ run.parse.patchDone = false)
    ∧ (let s := { linked with port.mgmtOnly := true }
       s.parse.patchDone = true ∧ s.port.mgmtOnly = true ∧ mgmtAccepts s (frame 0x0800 64) = false ∧ mgmtAccepts s (frame 0x0806 64) = true)
    ∧ (sealed.secured 0 = true ∧ etherType (frame 0x0800 64) ≠ 0x888E ∧ validateMode sealed 0 ≠ 2 ∧ validateMode sealed 0 = 0)
    ∧ (msecCheck sealed 0 .untagged = some 9
      ∧ msecCheck sealed 0 (.tagged 8 1 5 true) = some 8
      ∧ msecCheck sealed 0 (.tagged 7 1 5 true) = some 7
      ∧ msecCheck sealed 0 (.tagged 7 1 6 false) = some 6
      ∧ msecCheck sealed 0 (.tagged 7 1 6 true) = none) := by
  repeat' apply And.intro
  all_goals decide +kernel

theorem test_PortFramesAndLinks_links :
    (linked.boot.gate = true ∧ linked.lpPresent 8 = true ∧ portClocked linked 1 = true ∧ linked.port.mgmtOnly = false
      ∧ (linked.lp 8).held = false)
    ∧ ((linked.lp 0).up = true ∧ (linked.lp 0).aligned = true)
    ∧ (let s := { linked with port.lps := [(0, { up := true, lostAt := some 0 })] }
       (s.lp 0).up = true ∧ (s.lp 0).lostAt = some 0 ∧ 0 + s.cfgN (itemId 4 1 7) 0 0 0 ≤ s.clk.up)
    ∧ (let s := { linked with port.lps := [(0, { up := true, lostAt := some 0 })], cfg.recs := [(cfgKey (itemId 4 1 7) 0 0, encN 1)] }
       s.clk.up < 0 + s.cfgN (itemId 4 1 7) 0 0 0)
    ∧ (run.port.mgmtOnly = true ∧ run.boot.gate = true ∧ (run.lp 8).up = false)
    ∧ (run.clk.up < (run.pp 1).symStart + nsPerSec)
    ∧ (let s := { run with port.pps := [(0, { mgmt := [(0, frame 0x0806 64)] })], port.lps := [(0, { up := true })] }
       (s.pp 0).mgmt = (0, frame 0x0806 64) :: [] ∧ s.port.mgmtOnly = true ∧ (s.lp 0).up = true ∧ (s.pp 0).mgmtAt ≤ s.clk.up) := by
  repeat' apply And.intro
  all_goals decide +kernel

/-- A key of TYPE 1 that may serve MACsec, in the lowest general slot. -/
def keyed : State := { sealed with sec.slots := [(64, { typ := 1, usage := 2 ^ useMacsec })] }

/-- MS_SA_INSTALL's body: port, direction, SCI, AN, slot, SSCI, salt, first PN. -/
def install (lp dir sci an slot : Nat) : Req :=
  rq 0x0401 (nums [lp, dir] ++ beBytes 8 sci ++ nums [an, slot, 2 ^ 32 - 1] ++ List.replicate 12 0#8 ++ leBytes 8 1)

theorem test_MacsecRekeys_install :
    (let r := install 0 0 9 3 64
     Takes 0 keyed r 0x0401 keyed none ∧ r.body.length = 68 ∧ saFault keyed r = 0 ∧ slotNameable (num r 4) = true ∧ num r 5 < 2 ^ 32
       ∧ (keyed.keySlot (num r 4)).typ = 1 ∧ (keyed.keySlot (num r 4)).may useMacsec = true
       ∧ (schan keyed (num r 0) (num r 1) (sciOf r)).map SChan.active = some none ∧ num r 1 = 0)
    ∧ (let r := install 0 1 7 1 64
       Takes 0 keyed r 0x0401 keyed none ∧ saFault keyed r = 0
       ∧ (schan keyed (num r 0) (num r 1) (sciOf r)).bind SChan.active = some (num r 3))
    ∧ (let r := install 0 0 9 3 8191
       Takes 0 keyed r 0x0401 keyed none ∧ r.body.length = 68 ∧ saFault keyed r = 0 ∧ slotNameable (num r 4) = true
       ∧ (keyed.keySlot (num r 4)).typ ≠ 1) := by
  repeat' apply And.intro
  all_goals decide +kernel

theorem test_MacsecRekeys_others :
    (let r := rq 0x0402 (nums [0, 1] ++ beBytes 8 7 ++ nums [1])
     Takes 0 keyed r 0x0402 keyed none ∧ r.body.length = 32 ∧ saFault keyed r = 0 ∧ (keyed.pp (num r 0 / 8)).rekey = none
       ∧ (saNamed keyed r).isSome = true)
    ∧ (let r := rq 0x0402 (nums [0, 1] ++ beBytes 8 8 ++ nums [3])
       Takes 0 keyed r 0x0402 keyed none ∧ r.body.length = 32 ∧ saFault keyed r = 0 ∧ saNamed keyed r = none)
    ∧ (let k : Rekey := { lp := 0, dir := 0, sci := 9, an := 0, start := 0 }
       let s := { keyed with port.pps := [(0, { rekey := some k })] }
       let r := rq 0x0402 (nums [0, 1] ++ beBytes 8 7 ++ nums [1])
       Takes 0 s r 0x0402 s none ∧ saFault s r = 0 ∧ (s.pp (num r 0 / 8)).rekey.isSome = true ∧ (s.pp 0).rekey = some k
         ∧ ∀ i : Fin 8, (s.lp i.val).mac = none)
    ∧ (let k : Rekey := { lp := 0, dir := 0, sci := 9, an := 0, start := 0 }
       let f : Frame := { bytes := frame 0x0800 64, cls := 0, inLp := some 0, tIn := 0, tInUp := 0 }
       let s := { keyed with port.pps := [(0, { rekey := some k })], port.lps := [(0, { mac := some { frame := f, wire := [], start := 0, wirePs := 0 } })] }
       (s.pp 0).rekey = some k ∧ k.dir = 0 ∧ 0 < 8 ∧ (s.lp 0).mac.isSome = true)
    ∧ (let r := rq 0x0403 (nums [0, 1] ++ beBytes 8 7 ++ nums [1])
       Takes 0 keyed r 0x0403 keyed none ∧ r.body.length = 32 ∧ saFault keyed r = 0 ∧ saActive keyed r = true)
    ∧ (let r := rq 0x0403 (nums [0, 0] ++ beBytes 8 9 ++ nums [0])
       Takes 0 keyed r 0x0403 keyed none ∧ r.body.length = 32 ∧ saFault keyed r = 0 ∧ saActive keyed r = false ∧ num r 1 = 0
         ∧ (keyed.lp (num r 0)).tx.sci = sciOf r)
    ∧ (let r := rq 0x0404 (nums [8])
       Takes 0 run r 0x0404 run none ∧ r.body.length = 8 ∧ num r 0 < 16 ∧ run.lpPresent (num r 0) = true)
    ∧ (let r := rq 0x0407 (nums [8])
       Takes 0 run r 0x0407 run none ∧ r.body.length = 8 ∧ num r 0 < 16 ∧ run.lpPresent (num r 0) = true)
    ∧ (let r := rq 0x0408 []
       Takes 0 run r 0x0408 run none ∧ r.body = []) := by
  repeat' apply And.intro
  all_goals decide +kernel

/-! ### The traffic manager and quiesces -/

/-- A frame of class `c` from port 0. -/
def tmf (c : Nat) : Frame := { bytes := frame 0x0800 64, cls := c, inLp := some 0, tIn := 0, tInUp := 0 }

theorem test_TransmitSelection_selector :
    run.lpPresent 1 = false
    ∧ (let s := { linked with port.lps := [(0, { up := true, express := [tmf 7], pitch := [(0, 0, tmf 0)] })] }
       s.boot.gate = true ∧ s.lpPresent 0 = true ∧ (s.lp 0).mac = none ∧ txHeld s 0 = false ∧ (s.lp 0).express = tmf 7 :: []
       ∧ mayStart s 0 (tmf 7) = true)
    ∧ (let s := { linked with port.lps := [(0, { up := true, pitch := [(0, 1, tmf 0), (0, 0, tmf 1)] })] }
       s.boot.gate = true ∧ s.lpPresent 0 = true ∧ (s.lp 0).mac = none ∧ txHeld s 0 = false ∧ (s.lp 0).express.head? = none
       ∧ pitchPick s 0 (s.lp 0).pitch = some (0, 0, tmf 1))
    ∧ (let s := { linked with port.lps := [(0, { up := true, express := [tmf 7], bell := some { cycle := 1000, base := 0, entries := [{ interval := 1000, gates := 0 }] } })] }
       (s.lp 0).express.head? = some (tmf 7) ∧ mayStart s 0 (tmf 7) = false ∧ pitchPick s 0 (s.lp 0).pitch = none)
    ∧ ((linked.lp 0).up = true ∧ (tmf 0).bad = false ∧ (tmf 0).len ≤ linked.maxFrame 0 ∧ linked.secured 0 = false)
    ∧ (let s := { sealed with port.lps := [(0, { up := true, tx := { sci := 9, exhausted := true } })] }
       (s.lp 0).up = true ∧ (tmf 0).len ≤ s.maxFrame 0 ∧ s.secured 0 = true ∧ (s.lp 0).tx.exhausted = true) := by
  repeat' apply And.intro
  all_goals decide +kernel

theorem test_TransmitSelection_end :
    run.lp 0 = {} ∧ (run.lp 0).mac = none
    ∧ (let m : OnMac := { frame := { tmf 7 with stamp := some 5 }, wire := [], start := 0, wirePs := 840 }
       let s := { linked with port.lps := [(0, { up := true, mac := some m })], clk.up := 1 }
       (s.lp 0).mac = some m ∧ m.start * 1000 + m.wirePs ≤ s.clk.up * 1000 + 999 ∧ m.frame.stamp = some 5)
    ∧ (let m : OnMac := { frame := tmf 0, wire := [], start := 0, wirePs := 1000 }
       let s := { linked with port.lps := [(0, { up := true, mac := some m })] }
       (s.lp 0).mac = some m ∧ s.clk.up * 1000 + 999 < m.start * 1000 + m.wirePs ∧ m.frame.stamp = none)
    ∧ (let s := { linked with port.lps := [(0, { stamps := List.replicate 63 (0, 0) })] }
       (s.lp 0).stamps.length < 64)
    ∧ (let s := { linked with port.lps := [(0, { stamps := List.replicate 64 (0, 0) })] }
       64 ≤ (s.lp 0).stamps.length)
    ∧ (let s := { linked with port.lps := [(0, { up := true, exlat := { en := true } })] }
       (tmf 7).inLp = some 0 ∧ (s.lp 0).exlat.en = true ∧ (tmf 7).cls = 7 ∧ (tmf 7).bad = false ∧ inScope s 0 0 (tmf 7).len = true
         ∧ s.clk.stepAt = none ∧ ({ s with clk.stepAt := some 0 } : State).clk.stepAt = some 0 ∧ (tmf 7).tInUp ≤ 0)
    ∧ (exlatBin 499 = 0 ∧ exlatBin 500 = 1 ∧ exlatBin 699 = 2 ∧ exlatBin 700 = 3 ∧ exlatBin 849 = 5 ∧ exlatBin 850 = 6 ∧ exlatBin 1000 = 7) := by
  repeat' apply And.intro
  all_goals decide +kernel

theorem test_TransmitSelection_queues :
    (linked.qsetPort 8192 = none)
    ∧ (linked.qsetPort 0 = some 0 ∧ linked.stopped (.tmQueue 0) = false ∧ (tmf 0).cls ≠ 7
      ∧ (sumLen (linked.tq 0).frames + (tmf 0).len ≤ queueLimit linked 0) ∧ cells (tmf 0).len * 256 ≤ poolFree linked)
    ∧ (let s := { linked with cfg.recs := [(cfgKey (itemId 7 1 11) 0 0, encN 63)] }
       s.qsetPort 0 = some 0 ∧ s.stopped (.tmQueue 0) = false ∧ ¬ (queueLimit s 0 = 0 ∨ sumLen (s.tq 0).frames + (tmf 0).len ≤ queueLimit s 0))
    ∧ (let s := { linked with qs := [(.tmQueue 0, {})] }
       s.qsetPort 0 = some 0 ∧ s.stopped (.tmQueue 0) = true)
    ∧ (let s := { linked with cfg.recs := [(cfgKey (itemId 7 1 3) 0 0, encN 9215)] }
       s.qsetPort 0 = some 0 ∧ s.stopped (.tmQueue 7) = false ∧ (tmf 7).cls = 7 ∧ expressFree s 0 < s.maxFrame 0)
    ∧ (let s := { linked with port.lps := [(0, { up := true, order := [(7, tmf 7)] })] }
       s.boot.gate = true ∧ s.lpPresent 0 = true ∧ (s.lp 0).order = (7, tmf 7) :: [] ∧ qAdmits s 7 (s.effLenOn 0 (tmf 7)) = true)
    ∧ (let s := { linked with tm.queues := [(6, { frames := [tmf 6], deficit := 9216 })], tm.groups := [(0, { deficit := 9216 })] }
       s.boot.gate = true ∧ s.lpPresent 0 = true ∧ (s.lp 0).order = [] ∧ (s.lp 0).curGroup = 0 ∧ (groupPick s 0 0).map (fun y => (y.1, y.2.1)) = some (6, tmf 6)
         ∧ s.effLenOn 0 (tmf 6) ≤ (s.tg 0).deficit) := by
  repeat' apply And.intro
  all_goals decide +kernel

theorem test_TransmitCommands_premises :
    (let b : Bucket := { rate := 1, burst := 2048, tokens := 64 * 64 }
     b.rate ≠ 0 ∧ b.admits 64 = true ∧ b.admits 65 = false ∧ ({} : Bucket).rate = 0)
    ∧ (let b : Bucket := { waiting := true }
       0 < 125 ∧ b.waiting = true ∧ b.refills < 125 / 125 ∧ b.rate = 0 ∧ 1 ≠ 0)
    ∧ shaperOf crun (itemId 7 1 4) 0 = ((shaperOf crun (itemId 7 1 4) 0).1, (shaperOf crun (itemId 7 1 4) 0).2)
    ∧ (0 < ({ cycle := 1, base := 0, entries := [] } : Bell).cycle)
    ∧ (let s := { run with port.lps := [(0, { bellPend := some (none, 0) })] }
       (s.lp 0).bellPend = some (none, 0) ∧ 0 ≤ s.ns)
    ∧ (let s := { run with port.lps := [(0, { bellPend := some (none, 1) })] }
       (s.lp 0).bellPend = some (none, 1) ∧ s.ns < 1)
    ∧ (let r := rq 0x0701 (nums [0, 1, 0])
       Takes 0 linked r 0x0701 linked none ∧ num r 0 < 2 ∧ 1 ≤ num r 1 ∧ num r 1 ≤ 64 ∧ r.body.length = 8 * (2 + 1 * num r 1)
         ∧ ∀ o ∈ (List.range (num r 1)).map (fun k => numsFrom r (2 + 1 * k) 1), (qStatsObj linked o).isSome = true)
    ∧ (let r := rq 0x0702 (nums [1, 1, 32767])
       Takes 0 run r 0x0702 run none ∧ num r 0 = 1 ∧ num r 1 = 1
         ∧ ∀ o ∈ (List.range (num r 1)).map (fun k => numsFrom r (2 + 1 * k) 1), (polStatsObj run o).isSome = true)
    ∧ (let r := rq 0x0A09 (nums [0, 1, 0])
       Takes 0 run r 0x0A09 run none ∧ num r 0 = 0
         ∧ ∀ o ∈ (List.range (num r 1)).map (fun k => numsFrom r (2 + 1 * k) 1), (tfStatsObj run o).isSome = true)
    ∧ (let s := { run with sto.queues := [(0, { st := .active, eid := 1, depth := 64, cls := 0, book := 0, inline := false, coCount := 1, coTime := 0 })] }
       let r := rq 0x0902 (nums [0, 1, 0, 0])
       Takes 0 s r 0x0902 s none ∧ num r 0 = 0 ∧ r.body.length = 8 * (2 + 2 * num r 1)
         ∧ ∀ o ∈ (List.range (num r 1)).map (fun k => numsFrom r (2 + 2 * k) 2), (sqStatsObj s o).isSome = true)
    ∧ (let r := rq 0x0701 (nums [0, 65])
       Takes 0 linked r 0x0701 linked none ∧ num r 0 < 2 ∧ 64 < num r 1) := by
  repeat' apply And.intro
  all_goals decide +kernel

theorem test_QuiesceCommands_start :
    (let r := rq 0x0703 (nums [7, 2, 1000000])
     Takes 0 linked r 0x0703 linked none ∧ r.body.length = 24 ∧ num r 0 < 65536 ∧ (linked.qsetPort (num r 0 / 8)).isSome = true
       ∧ num r 1 ≤ 2 ∧ (1000000 ≤ num r 2 ∧ num r 2 ≤ 60000000000) ∧ linked.quiescing (.tmQueue 7) = false ∧ linked.disabled (.tmQueue 7) = false)
    ∧ (let s := { linked with qs := [(.tmQueue 7, {}), (.tmQueue 8, { done := true })] }
       s.quiescing (.tmQueue 7) = true ∧ s.quiescing (.tmQueue 8) = false ∧ s.disabled (.tmQueue 8) = true)
    ∧ (let s := { run with eht.eps := [(5, { gen := 1, tf := 0, channel := none, sq := none, ringKey := 0, slotSize := 0, slotCount := 0 })] }
       let r := rq 0x0806 (nums [5, 3, 0])
       Takes 0 s r 0x0806 s none ∧ r.body.length = 24 ∧ num r 0 < 2 ^ 32 ∧ (s.ep? (num r 0)).isSome = true ∧ 2 < num r 1)
    ∧ (let r := rq 0x0703 (nums [7, 2, 999999])
       num r 1 ≤ 2 ∧ ¬ (num r 2 = 0 ∨ 1000000 ≤ num r 2 ∧ num r 2 ≤ 60000000000))
    ∧ (let r := rq 0x0405 (nums [8, 2, 0, 1])
       Takes 0 run r 0x0405 run none ∧ r.body.length = 32 ∧ num r 0 < 16 ∧ run.lpPresent (num r 0) = true ∧ num r 1 ≤ 2 ∧ num r 2 = 0 ∧ num r 3 ≤ 1
         ∧ run.quiescing (.logicalPort 8) = false ∧ run.disabled (.logicalPort 8) = false)
    ∧ (∀ st ∈ [SqState.active, .error, .quiescing, .disabled],
        let s := { run with sto.queues := [(sqKey 0 63, sq0 st)] }
        let r := rq 0x0901 (nums [0, 63, 2, 60000000000])
        Takes 0 s r 0x0901 s none ∧ r.body.length = 32 ∧ num r 0 < 4096 ∧ num r 1 < 64 ∧ s.sq? (sqKey (num r 0) (num r 1)) = some (sq0 st)
          ∧ num r 2 ≤ 2 ∧ num r 3 ≤ 60000000000 ∧ (sq0 st).st = st)
    ∧ (∀ st ∈ [StallState.running, .quiescing, .stopped],
        let s := { run with ido.stalls := [(11, { st := st })] }
        let r := rq 0x0B02 (nums [11, 2, 0])
        Takes 0 s r 0x0B02 s none ∧ r.body.length = 24 ∧ num r 0 < 12 ∧ num r 1 ≤ 2 ∧ num r 2 = 0 ∧ (s.stall (num r 0)).st = st) := by
  unfold Takes
  repeat' apply And.intro
  all_goals decide +kernel

theorem test_QuiesceCommands_end :
    (let s := { run with qs := [(.logicalPort 8, { done := true })] }
     let r := rq 0x0406 (nums [8])
     Takes 0 s r 0x0406 s none ∧ r.body.length = 8 ∧ num r 0 < 16 ∧ s.lpPresent (num r 0) = true ∧ s.disabled (.logicalPort (Fin.ofNat 16 (num r 0))) = true
       ∧ tget s.clk.gates (12 + num r 0 / 8) .run = .run ∧ run.disabled (.logicalPort 8) = false)
    ∧ (let s := { linked with qs := [(.tmQueue 7, { done := true })] }
       let r := rq 0x0704 (nums [7])
       Takes 0 s r 0x0704 s none ∧ r.body.length = 8 ∧ num r 0 < 65536 ∧ (s.qsetPort (num r 0 / 8)).isSome = true ∧ s.disabled (.tmQueue 7) = true
         ∧ linked.disabled (.tmQueue 7) = false)
    ∧ (let q : QRec := { kind := qKindTm }
       let s := { linked with qs := [(.tmQueue 7, q)] }
       s.q? (.tmQueue 7) = some q ∧ q.done = false ∧ q.abort = false ∧ q.deadline ≤ s.clk.up ∧ inFlight s q (.tmQueue 7) = 0
         ∧ s.qsetPort (7 / 8) = some 0)
    ∧ (let q : QRec := { kind := qKindTm, deadline := 1 }
       let s := { linked with qs := [(.tmQueue 0, q)], tm.queues := [(0, { frames := [tmf 0] })] }
       s.q? (.tmQueue 0) = some q ∧ s.clk.up < q.deadline ∧ q.done = false ∧ inFlight s q (.tmQueue 0) ≠ 0)
    ∧ (let q : QRec := { kind := qKindStall }
       let s := { run with qs := [(.stall 11, q)] }
       s.q? (.stall 11) = some q ∧ q.done = false)
    ∧ (let q : QRec := { kind := qKindTm, done := true }
       ({ linked with qs := [(.tmQueue 7, q)] } : State).q? (.tmQueue 7) = some q ∧ q.done = true) := by
  repeat' apply And.intro
  all_goals decide +kernel

/-! ### Parsing and images -/

/-- An ARP frame of port 0 in a slot of a sequencer, with `n` bytes there. -/
def slotF (n : Nat) : SlotFrame :=
  { pf := { frame := { tmf 0 with bytes := frame 0x0806 64 }, src := 0 }, buf := 0, tag := 0, avail := n, gen := 0, at_ := 0 }

def isStalled : PEnd → Bool
  | .stalled _ => true
  | _ => false
def endCode : PEnd → Option (Nat × Nat)
  | .ends r a => some (r.code, a)
  | _ => none
def isCapped : PEnd → Bool
  | .capped _ => true
  | _ => false

/-- Sequencer 0 holds a frame; with hook 0 its program starts at a word of the patch RAM. -/
def parsing (n : Nat) (recs : Tab Bytes) : State :=
  { linked with parse.slots := [(0, [slotF n])], parse.vers := [(0, { state := .current, inflight := 1, recs := recs })]
                parse.robs := [(0, { next := 1, entries := [{ tag := 0, pf := (slotF n).pf, pipe := 0, at_ := 0, again := false, res := none }] })] }

theorem test_ParserRows_dispatch :
    (run.parse.patchDone = false ∧ nextSeq linked 3 = some 18)
    ∧ (let s := { linked with parse.cross := [(0, [(slotF 0).pf])] }
       s.parse.patchDone = true ∧ nextSeq s 0 = some 0 ∧ (takeFrame s 0 0).map Prod.fst = some (slotF 0).pf
       ∧ s.parse.cross.find? (fun p => p.1 == 0) = some (0, (slotF 0).pf :: [])
       ∧ min 64 (slotF 0).pf.frame.len ≤ 64 ∧ 63 < min 64 (slotF 0).pf.frame.len ∧ (s.rob (robOf 0 (slotF 0).pf)).entries.length < 32
       ∧ (slotF 0).pf.src < 16 ∧ (slotF 0).pf.release = none)
    ∧ (let s := { linked with parse.robs := [(0, { entries := List.replicate 32 { tag := 0, pf := (slotF 0).pf, pipe := 0, at_ := 0, again := false, res := none } })] }
       32 ≤ (s.rob 0).entries.length) := by
  repeat' apply And.intro
  all_goals decide +kernel

theorem test_ParserRows_ends :
    (seqSlots (parsing 0 []) 0 = slotF 0 :: [] ∧ isStalled (parseSlot (parsing 0 []) 0 (slotF 0)) = true)
    ∧ (seqSlots (parsing 64 []) 0 = slotF 64 :: [] ∧ endCode (parseSlot (parsing 64 []) 0 (slotF 64)) = some (0, 0))
    ∧ (let r := [(cfgKey (itemId 5 1 1) 0 0, encN 1)]
       isCapped (parseSlot (parsing 64 r) 0 (slotF 64)) = true)
    ∧ (let r := [(cfgKey (itemId 5 1 9) 0 0, encN 0x4000)]
       let s := { parsing 64 r with parse.poison := [0x4000] }
       endCode (parseSlot s 0 (slotF 64)) = some (6, 0x4000))
    ∧ ((slotF 64).gen = (parsing 64 []).fenceGen (.seq 0)
      ∧ (slotF 64).gen ≠ ({ parsing 64 [] with fence.gens := [(.seq 0, 1)] } : State).fenceGen (.seq 0)) := by
  repeat' apply And.intro
  all_goals decide +kernel

/-- A head entry with a result; one that waits 256 pipeline clocks (233 ns), before and after its second attempt; the boundary. -/
theorem test_ParserRows_release :
    (linked.rob 0).entries = []
    ∧ (let r : ParseRes := { profile := 0, code := 0, key := [], meta_ := [], flags := 0, stack := [], csumBad := false, clocks := 0 }
       let e : RobEntry := { tag := 0, pf := (slotF 64).pf, pipe := 0, at_ := 0, again := false, res := some r }
       let s := { linked with parse.robs := [(0, { entries := [e] })], clk.up := 59 }
       (s.rob 0).entries = e :: [] ∧ e.res = some r ∧ pipeClocks (s.clk.up - e.at_) ≤ 64)
    ∧ (∀ b : Bool, let e : RobEntry := { tag := 0, pf := (slotF 64).pf, pipe := 0, at_ := 0, again := b, res := none }
       let s := { linked with parse.robs := [(0, { entries := [e] })], clk.up := 233 }
       (s.rob 0).entries = e :: [] ∧ e.res = none ∧ 256 ≤ pipeClocks (s.clk.up - e.at_) ∧ pipeClocks 232 < 256)
    ∧ (let s := { linked with parse.vers := [(0, { state := .current }), (7, { state := .retiring })] }
       (s.ver 7).state = .retiring ∧ (s.ver 7).inflight = 0 ∧ (s.ver 0).state ≠ .retiring)
    ∧ (0x4000 ≤ (0x4000#15).toNat ∧ (0x3FFF#15).toNat < 0x4000) := by
  repeat' apply And.intro
  all_goals decide +kernel

theorem test_MicrowordMeaning_premises :
    (let e : PEnv := { win := List.replicate 60 0#8, avail := 59, recs := [], store := [(0x4000, leBytes 24 0)], traps := [], poison := [0x4001] }
     0 < 1 ∧ e.depth < 512 + 1 ∧ 511 + 1 ≤ e.depth ∧ e.win.length < 60 + 1 ∧ (59 + 1 ≤ e.win.length ∧ e.avail < 59 + 1)
       ∧ (58 + 1 ≤ e.depth ∧ 58 + 1 ≤ e.win.length ∧ 58 + 1 ≤ e.avail)
       ∧ (0x4001 < 0x5400 ∧ 0x4001 ∈ e.poison) ∧ (0x4000 ∉ e.poison ∧ tget? e.store 0x4000 = some (leBytes 24 0)) ∧ tget? e.store 0x53FF = none)
    ∧ (let p := PSt.init 0 0
       15 < p.w.length ∧ p.reg 14 < 2 ^ 32 ∧ p.reg (65535 % 16) < 2 ^ 32 ∧ 65535 < 65536)
    ∧ (∀ k : Fin 8, fld (k.val * 2 ^ 187) 187 3 = k.val) ∧ (∀ k : Fin 4, fld (k.val * 2 ^ 150) 150 2 = k.val) := by
  repeat' apply And.intro
  all_goals decide +kernel

theorem test_ParseWithinCap_premises :
    let e : PEnv := { win := (frame 0x0806 64).take 60, avail := 60, recs := [(cfgKey (itemId 5 1 1) 0 0, encN 1)], store := [], traps := [], poison := [] }
    let full : PEnv := { e with recs := [] }
    (PSt.init 0 0).clocks ≤ e.cap ∧ isCapped (runParse 600 e [] .start (PSt.init 0 0)) = true
      ∧ endCode (runParse 600 full [] .start (PSt.init 0 0)) = some (0, 0) := by
  repeat' apply And.intro
  all_goals decide +kernel

/-- An image of one word (R83): key hash, IV, tag, digest, body. -/
def image (typ ver load : Nat) (id iv tag dig body : Bytes) : Bytes :=
  leBytes 4 0x49434843 ++ leBytes 2 typ ++ leBytes 2 1 ++ leBytes 4 0xB0 ++ leBytes 4 ver ++ leBytes 2 load ++ leBytes 2 1 ++ leBytes 2 0
    ++ leBytes 2 (if typ = 1 then 1 else 0) ++ id ++ iv ++ tag ++ dig ++ List.replicate 12 0 ++ body ++ List.replicate 3309 0

def someId : Bytes := List.replicate 32 1#8
/-- A part whose vendor position 0 is enrolled, whose patch minimum is 1. -/
def rooted : State := { run with fuses.roots := [someId, zeros 32, zeros 32, zeros 32], boot.ar := zeros 12 ++ leBytes 4 1 ++ leBytes 4 1 }

theorem test_ImagesLoaded_patch :
    (let s := { run with parse.dispatched := true }
     Takes 0 s (rq 0x0501 []) 0x0501 s none ∧ s.parse.dispatched = true)
    ∧ (Takes 0 run (rq 0x0501 []) 0x0501 run none ∧ run.parse.dispatched = false ∧ imgFormatOk 1 ([] : Bytes) = false)
    ∧ (let r := rq 0x0501 (image 1 1 0x4000 (zeros 32) (zeros 12) (zeros 16) (zeros 32) (zeros 24))
       Takes 0 rooted r 0x0501 rooted none ∧ imgFormatOk 1 r.body = true ∧ rootLive rooted (slice r.body 0x18 32) = false)
    ∧ (let r := rq 0x0501 (image 1 0 0x4000 someId (zeros 12) (zeros 16) (zeros 32) (zeros 24))
       Takes 0 rooted r 0x0501 rooted none ∧ imgFormatOk 1 r.body = true ∧ rootLive rooted (slice r.body 0x18 32) = true
         ∧ leAt r.body 0xC 4 < patchMin rooted)
    ∧ (let r := rq 0x0501 (image 1 1 0x4000 someId (zeros 12) (zeros 16) (zeros 32) (zeros 24))
       Takes 0 rooted r 0x0501 rooted none ∧ imgFormatOk 1 r.body = true ∧ rootLive rooted (slice r.body 0x18 32) = true
         ∧ patchMin rooted ≤ leAt r.body 0xC 4 ∧ (imgPlain rooted 1 r.body).isNone = true) := by
  repeat' apply And.intro
  all_goals decide +kernel

theorem test_ImagesLoaded_extension :
    (Takes 0 run (rq 0x0502 []) 0x0502 run none ∧ imgFormatOk 2 ([] : Bytes) = false)
    ∧ (let r := rq 0x0502 (image 2 1 0x4400 someId (zeros 12) (zeros 16) (zeros 32) (zeros 24))
       Takes 0 rooted r 0x0502 rooted none ∧ imgFormatOk 2 r.body = true ∧ ownerKnows rooted (slice r.body 0x18 32) = false) := by
  repeat' apply And.intro
  all_goals decide +kernel

/-! ### Forwarding tables -/

/-- Table 0 in LOCAL mode: keys of 6 bytes, two on-chip buckets, no walk, a quota of 8 units for TF0. -/
def tblRecs : Tab Bytes :=
  [(cfgKey (itemId 6 1 1) 0 0, encN 2), (cfgKey (itemId 6 1 2) 0 0, encN 6), (cfgKey (itemId 6 1 3) 0 0, encN 2),
   (cfgKey (itemId 6 1 6) 0 0, encN 0), (cfgKey (itemId 0xA 1 6) 0 0, encN 9)]
def tabled : State := { crun with cfg.recs := tblRecs }
def entry (k : Nat) (fl port : Nat) : TEntry := { key := beBytes 6 k, result := 0, age := 0, port := port, flags := fl, tf := 0 }
/-- Every slot of both buckets taken by entries with these flags. -/
def fullTbl (fl : Nat) : State :=
  { tabled with tables := [(0, { slots := (List.range 8).map (fun i => (tPos 0 (i / 4) (i % 4), entry (100 + i) fl 1)), digest := zeros 32 })] }
/-- One entry, key 7, where its hash puts it. -/
def oneTbl (fl : Nat) : State :=
  { tabled with tables := [(0, { slots := [(tPos 0 (candidates tabled 0 0 (beBytes 6 7)).1 0, entry 7 fl 1)] })] }

theorem test_TableDigestFollows_premises :
    twf (State.reset.tbl 15).slots = true ∧ (State.reset.tbl 15).digest = tableDigest State.reset 15 := by decide +kernel

theorem test_EntriesInserted_premises :
    (findKey tabled 0 (beBytes 6 7) = none ∧ freeSlot tabled 0 0 (candidates tabled 0 0 (beBytes 6 7)).1 = some (tPos 0 (candidates tabled 0 0 (beBytes 6 7)).1 0))
    ∧ (findKey (oneTbl 0) 0 (beBytes 6 7)).map Prod.snd = some (entry 7 0 1)
    ∧ (let c := candidates (fullTbl 0) 0 0 (beBytes 6 7)
       findKey (fullTbl 0) 0 (beBytes 6 7) = none ∧ freeSlot (fullTbl 0) 0 0 c.1 = none ∧ freeSlot (fullTbl 0) 0 0 c.2 = none
       ∧ tblDepth (fullTbl 0) 0 = 0 ∧ tblBuckets (fullTbl 0) 0 1 = 0 ∧ tblOldest (fullTbl 0) 0 = true
       ∧ (oldest ((fullTbl 0).tbl 0).tick (victimSlots (fullTbl 0) 0 0 (beBytes 6 7))).isSome = true
       ∧ oldest ((fullTbl fStatic).tbl 0).tick (victimSlots (fullTbl fStatic) 0 0 (beBytes 6 7)) = none)
    ∧ (let s := { tabled with tables := [(0, { slots := (List.range 4).map (fun i => (tPos 0 (candidates tabled 0 0 (beBytes 6 7)).1 i, entry (100 + i) 0 1)) })] }
       let c := candidates s 0 0 (beBytes 6 7)
       freeSlot s 0 0 c.1 = none ∧ freeSlot s 0 0 c.2 = some (tPos 0 c.2 0)) := by
  repeat' apply And.intro
  all_goals decide +kernel

/-- A station that moves: no record; the hold-down's last nanosecond and its end; the same for a candidate. -/
theorem test_EntriesInserted_learning :
    (let e := entry 7 0 1
     let r (lp : Nat) (t : Int) : LearnReq := { key := beBytes 6 7, lp := lp, tf := 0, tIn := t }
     let h (c : Option (Nat × Int)) : State := { oneTbl 0 with tables := [(0, { hold := [{ key := beBytes 6 7, owner := 1, learnt := 0, cand := c }] })] }
     e.port = (r 1 0).lp ∧ e.port ≠ (r 2 0).lp ∧ e.has fStatic = false ∧ (entry 7 fStatic 1).has fStatic = true
       ∧ holdOf (oneTbl 0) 0 (r 2 0).key = none
       ∧ (holdOf (h none) 0 (r 2 0).key).map Hold.cand = some none
       ∧ ((tblHoldDown (h none) 0 : Int) ≤ (r 2 1000000).tIn - 0 ∧ (r 2 999999).tIn - 0 < tblHoldDown (h none) 0)
       ∧ (holdOf (h (some (2, 0))) 0 (r 2 0).key).map Hold.cand = some (some (2, 0))) := by
  repeat' apply And.intro
  all_goals decide +kernel

theorem test_TableRowsAndCommands_rows :
    (tabled.tbl 0).learnQ = []
    ∧ (let q : LearnReq := { key := beBytes 6 7, lp := 1, tf := 0, tIn := 0 }
       let on (s : State) : State := s.onTbl 0 (fun b => { b with learnQ := [q] })
       ((on (oneTbl 0)).tbl 0).learnQ = q :: [] ∧ tblMode (on (oneTbl 0)) 0 = 2
       ∧ (findKey (purgeHold (oneTbl 0) 0 0) 0 q.key).isSome = true ∧ findKey (purgeHold tabled 0 0) 0 q.key = none)
    ∧ (let s := (oneTbl 0).onTbl 0 (fun b => { b with refreshQ := [beBytes 6 7, beBytes 6 8] })
       (s.tbl 0).learnQ = [] ∧ (s.tbl 0).refreshQ = beBytes 6 7 :: [beBytes 6 8] ∧ (findKey s 0 (beBytes 6 7)).isSome = true ∧ findKey s 0 (beBytes 6 8) = none)
    ∧ (let s := (oneTbl 0).onTbl 0 (fun b => { b with agerQ := [beBytes 6 7], tick := 4688 })
       (s.tbl 0).learnQ = [] ∧ (s.tbl 0).refreshQ = [] ∧ (s.tbl 0).agerQ = beBytes 6 7 :: [] ∧ (findKey s 0 (beBytes 6 7)).map Prod.snd = some (entry 7 0 1)
       ∧ (entry 7 0 1).has fStatic = false ∧ tblAgeMax s 0 ≠ 0 ∧ tblAgeMax s 0 ≤ ageOf (s.tbl 0).tick (entry 7 0 1).age ∧ tblMode s 0 = 2)
    ∧ (tblMode run 15 = 0)
    ∧ (let s := { tabled with clk.up := 64000000 }
       tblMode s 0 ≠ 0 ∧ (s.tbl 0).tickAt + tblTickNs s 0 ≤ s.clk.up ∧ tabled.clk.up < (tabled.tbl 0).tickAt + tblTickNs tabled 0)
    ∧ (let n : Notif := { typ := 1, port := 0, old := 0, tf := 0, age := 0, seq := 0, key := zeros 48 }
       let s := tabled.onTbl 0 (fun b => { b with notif := [n] })
       (s.tbl 0).notif = n :: [] ∧ tblTarget s 0 = 0xFFFF)
    ∧ (let f : Flush := { filter := 0, value := 0, static := false }
       let s := tabled.onTbl 0 (fun b => { b with flush := some f, lost := [(0, 1)], recompute := true })
       (s.tbl 0).flush = some f ∧ (s.tbl 0).lost ≠ [] ∧ (s.tbl 0).recompute = true ∧ (tabled.tbl 0).recompute = false)
    ∧ (let n : Notif := { typ := 1, port := 0, old := 0, tf := 0, age := 0, seq := 0, key := [] }
       let s := tabled.onTbl 0 (fun b => { b with dump := some (0, 0), notif := List.replicate 513 n })
       (s.tbl 0).learnQ = [] ∧ (s.tbl 0).refreshQ = [] ∧ (s.tbl 0).agerQ = [] ∧ (s.tbl 0).dump = some (0, 0) ∧ 512 < (s.tbl 0).notif.length) := by
  repeat' apply And.intro
  all_goals decide +kernel

/-- The body of a table command: table, key length, key, then numbers. -/
def tblBody (len k : Nat) (l : List Nat) : Bytes := nums [0, len] ++ beBytes 6 k ++ zeros 42 ++ nums l

theorem test_TableRowsAndCommands_commands :
    (let r := rq 0x0601 (tblBody 6 7 [0, 15, 0, 0])
     Takes 0 tabled r 0x0601 tabled none ∧ r.body.length = 96 ∧ keyFault tabled (num r 0) r.body 8 = 0 ∧ leAt r.body 72 8 ≤ 15
       ∧ leAt r.body 80 8 < 4096 ∧ leAt r.body 88 8 < 8 ∧ findKey tabled 0 (keyAt r.body 8 (tblKeyLen tabled 0)) = none
       ∧ quotaOk tabled 0 0 = true ∧ (insert tabled 0 { key := beBytes 6 7, result := 0, age := 0, port := 15, flags := 0, tf := 0 } false).2 = .inserted)
    ∧ (let r := rq 0x0601 (tblBody 6 7 [0, 0xFF, 0, 4])
       Takes 0 (fullTbl 0) r 0x0601 (fullTbl 0) none ∧ r.body.length = 96 ∧ keyFault (fullTbl 0) (num r 0) r.body 8 = 0 ∧ leAt r.body 72 8 = 0xFF
         ∧ quotaOk (fullTbl 0) 0 0 = true
         ∧ (match (insert (fullTbl 0) 0 { key := beBytes 6 7, result := 0, age := 0, port := 0xFF, flags := 0, tf := 0 } true).2 with
            | .evicted _ => true
            | _ => false) = true)
    ∧ (let s := { tabled with cfg.recs := tblRecs.take 4 }
       quotaOk s 0 0 = false ∧ ready s = true)
    ∧ (let r := rq 0x0601 (tblBody 5 7 [0, 0, 0, 0])
       Takes 0 tabled r 0x0601 tabled none ∧ r.body.length = 96 ∧ keyFault tabled (num r 0) r.body 8 ≠ 0)
    ∧ (∀ c ∈ [0x0602, 0x0603],
       let r := rq c (tblBody 6 7 [])
       Takes 0 tabled r c tabled none ∧ r.body.length = 64 ∧ keyFault tabled (num r 0) r.body 8 = 0
         ∧ (findKey (oneTbl 0) 0 (keyAt r.body 8 (tblKeyLen tabled 0))).isSome = true ∧ findKey tabled 0 (keyAt r.body 8 (tblKeyLen tabled 0)) = none)
    ∧ (let r := rq 0x0604 (nums [0, 1] ++ zeros 96)
       Takes 0 tabled r 0x0604 tabled none ∧ r.body.length = 16 + 96 * num r 1 ∧ num r 0 < 16 ∧ tblMode tabled (num r 0) ≠ 0 ∧ 1 ≤ num r 1 ∧ num r 1 ≤ 64)
    ∧ (let r := rq 0x0605 (nums [0, 3, 0xFF, 1])
       Takes 0 tabled r 0x0605 tabled none ∧ r.body.length = 32 ∧ num r 0 < 16 ∧ tblMode tabled (num r 0) ≠ 0 ∧ num r 1 = 3 ∧ num r 2 = 0xFF ∧ num r 3 < 2
         ∧ tblBusy tabled 0 = false)
    ∧ (let r := rq 0x0606 (nums [0])
       let s := tabled.onTbl 0 (fun b => { b with dump := some (0, 0) })
       Takes 0 s r 0x0606 s none ∧ r.body.length = 8 ∧ num r 0 < 16 ∧ tblMode s (num r 0) ≠ 0 ∧ tblBusy s 0 = true ∧ tblBusy tabled 0 = false) := by
  unfold Takes
  repeat' apply And.intro
  all_goals decide +kernel

/-! ### Ehronaolo Transport -/

/-- Endpoint 5 of TF0 on channel 0. -/
def ep5 : Endpoint := { gen := 1, tf := 0, channel := some 0, sq := none, ringKey := 0, slotSize := 4096, slotCount := 1 }
/-- The mailbox endpoint and endpoint 5; a region of 64 bytes in the Market that TF0 may write. -/
def ehtUp : State :=
  { linked with eht.eps := [(5, ep5), (wellKnownEid, { ep5 with channel := none })]
                eht.regions := [(1, { base := 0, len := 64, target := marketBase, gen := 1, tf := 0, rights := 2, state := 1, flags := 0, filter := 0xFFFFFFFF, channel := 0 })] }

/-- A packet from a peer at EID 9. -/
def rx (b : Bytes) : EhtRx := { lp := 0, srcIp := 0, srcMac := 0, spoofOk := true, udpGood := true, frag := false, local_ := false, bytes := b }
/-- A whole WRITE of one packet, `n` bytes at `addr` under region key 0x1001. -/
def wr (last : Bool) (off total n grant : Nat) : Bytes :=
  sealPkt (ehtCommon 1 (if last then 128 else 0) n 5 9 1 1 ++ beBytes 8 77 ++ beBytes 4 off ++ beBytes 4 total ++ [2, 0, 0, 0] ++ beBytes 4 0x1001
    ++ beBytes 8 0 ++ beBytes 4 grant) (zeros n)
/-- The other five types, to endpoint 5, from EID 9. -/
def ackPkt (dst : Nat) : Bytes := sealPkt (ehtCommon 2 0 0 dst 9 1 1 ++ beBytes 8 77 ++ zeros 20) []
def creditReqPkt (dgen : Nat) : Bytes := sealPkt (ehtCommon 3 0 0 5 9 dgen 1 ++ beBytes 2 1 ++ zeros 10) []
def creditGrantPkt : Bytes := sealPkt (ehtCommon 4 0 0 5 9 1 1 ++ zeros 20) []
def tallyPkt : Bytes := sealPkt (ehtCommon 5 0 0 wellKnownEid 9 0 1 ++ zeros 60) []
def movedPkt : Bytes := sealPkt (ehtCommon 6 0 0 5 9 1 1 ++ beBytes 8 77 ++ [0x30, 4] ++ zeros 26) []

set_option maxRecDepth 4000 in
theorem test_PacketsReceived_kinds :
    (ehtUp.boot.inband = true ∧ ehtUp.phase = .running)
    ∧ (∀ x ∈ [(1, wr true 0 4 4 0, 5), (2, ackPkt 5, 5), (3, creditReqPkt 1, 5), (4, creditGrantPkt, 5), (5, tallyPkt, wellKnownEid), (6, movedPkt, 5)],
        let p := parsePkt x.2.1
        (takeRx ehtUp (rx x.2.1)).isSome = true ∧ pktWhole p = true ∧ p.typ = x.1 ∧ check1 ehtUp (rx x.2.1) p = none ∧ (rx x.2.1).spoofOk = true
          ∧ p.dst ≠ 0xFFFFFFFF ∧ epKey ehtUp p.dst = x.2.2 ∧ ∃ e ∈ [ep5, { ep5 with channel := none }], ehtUp.ep? p.dst = some e
          ∧ check5 ehtUp e p = none) := by
  repeat' apply And.intro
  all_goals decide +kernel

theorem test_PacketsReceived_checks :
    (let q := { rx (ackPkt 5) with frag := true }
     check1 ehtUp q (parsePkt q.bytes) = some 1)
    ∧ (let q := { rx (ackPkt 5) with spoofOk := false }
       check1 ehtUp q (parsePkt q.bytes) = none ∧ q.local_ = false ∧ ehtUp.port.mgmtOnly = false ∧ q.spoofOk = false)
    ∧ (let q := rx (ackPkt 6)
       check1 ehtUp q (parsePkt q.bytes) = none ∧ ehtUp.ep? (parsePkt q.bytes).dst = none ∧ tget? ehtUp.eht.moved (parsePkt q.bytes).dst = none)
    ∧ (let s := { ehtUp with eht.eps := [], eht.moved := [(5, { tf := 0, af := 4, ip := 0, eid := 5, gen := 2, endsAt := 1 })] }
       s.ep? 5 = none ∧ (tget? s.eht.moved 5).isSome = true ∧ (parsePkt (wr true 0 4 4 0)).dst = 5)
    ∧ (let s := { ehtUp with tfs := [(0, { st := .frozen })] }
       check5 s ep5 (parsePkt (wr true 0 4 4 0)) = some nakFrozen)
    ∧ (let p := parsePkt (creditReqPkt 0)
       check5 ehtUp ep5 p = none ∧ (check67 ehtUp 5 ep5 p).2 = true)
    ∧ (let s := { ehtUp with ido.stalls := [(0, { st := .running })] }
       (check67 s 5 ep5 (parsePkt (wr true 0 4 4 0))).2 = false ∧ (check67 s 5 ep5 (parsePkt (creditReqPkt 1))).2 = false
         ∧ (check67 s wellKnownEid { ep5 with channel := none } (parsePkt tallyPkt)).2 = false) := by
  repeat' apply And.intro
  all_goals decide +kernel

/-- The first packet of the WRITE has come. -/
def ctx1 : Ctx :=
  { key := (parsePkt (wr true 0 4 4 0)).key, express := false, dst := 5, op := 2, seg := 0, rkey := 0x1001, addr := 0, total := none, count := 0, bitmap := [1]
    made := 0, slot := none, parts := [], maxIdx := 1, lp := 0, ip := 0, mac := 0 }

theorem test_PacketsReceived_messages :
    (let p := parsePkt (wr true 0 4 4 0)
     let d : Dedup := { key := p.key, express := false, dst := 5, status := some 0, result := 0, epoch := 0 }
     let s := { ehtUp with eht.dedup := [d] }
     ctxOf s p.key = none ∧ dedupOf s p.key = some d ∧ p.last = true ∧ (parsePkt (wr false 0 0 1024 0)).last = false)
    ∧ (let p := parsePkt (wr false 1024 0 1024 0)
       let s := { ehtUp with eht.ctxs := [ctx1] }
       ctxOf s p.key = some ctx1 ∧ p.index ∈ ctx1.bitmap)
    ∧ (let p := parsePkt (wr true 0 4 4 0)
       let s := { ehtUp with cfg.recs := [(cfgKey (itemId 0xA 1 10) 0 0, encN 0)] }
       ctxOf s p.key = none ∧ dedupOf s p.key = none ∧ (check9 s ep5 p.express).isSome = true)
    ∧ (let p := parsePkt (wr true 0 4 4 0x10001)
       let s := { ehtUp with eht.ctxs := [ctx1] }
       ctxOf s p.key = some ctx1 ∧ p.index ∉ ctx1.bitmap ∧ (check10 s ep5 p).isNone = true)
    ∧ (let p := parsePkt (wr true 0 64 64 0)
       let s := { ehtUp with eht.ctxs := [ctx1] }
       ctxOf s p.key = some ctx1 ∧ p.index ∉ ctx1.bitmap ∧ p.op = 2 ∧ check10 s ep5 p = some s
       ∧ (match check11 (touchDesc s (p.rkey / 4096)) ep5 (some ctx1) p with
          | .inl (.mem a) => a == marketBase
          | _ => false) = true
       ∧ p.last = true ∧ ctx1.count + p.len = p.total ∧ ctx1.count + (parsePkt (wr true 0 65 64 0)).len ≠ (parsePkt (wr true 0 65 64 0)).total)
    ∧ (let p := parsePkt (wr false 0 0 1024 0)
       p.last = false ∧ ctx1.total = none ∧ ctx1.count + p.len = 1024) := by
  repeat' apply And.intro
  all_goals decide +kernel

theorem test_RegionsAndCredit_regions :
    (let d : Region := { base := 16, len := 16, target := 0, gen := 4095, tf := 0, rights := 3, state := 1, flags := 0, filter := 9, channel := 0 }
     let s (st : Nat) : State := { run with eht.regions := [(1, { d with state := st })] }
     tget? (s 1).eht.regions (0x1FFF / 4096) = some d ∧ d.gen < 4096 ∧ d.state = 1 ∧ d.gen = 0x1FFF % 4096 ∧ d.gen ≠ 0x1000 % 4096
       ∧ (tget? (s 2).eht.regions (0x1FFE / 4096)).map Region.state = some 2 ∧ 0x1FFE % 4096 = (d.gen + 4095) % 4096
       ∧ (tget? (s 0).eht.regions 1).map Region.state = some 0
       ∧ lookupKey (s 1) 0x1FFF = .inl d ∧ 0 < 1 ∧ 15 < d.base ∧ d.base + d.len < 32 + 1 ∧ (d.base ≤ 31 ∧ 31 + 1 ≤ d.base + d.len)
       ∧ d.rights &&& 4 = 0 ∧ (d.filter ≠ 0xFFFFFFFF ∧ d.filter ≠ 8) ∧ d.rights &&& 2 ≠ 0 ∧ d.filter = 9)
    ∧ (tget? run.eht.regions 0 = none) := by
  repeat' apply And.intro
  all_goals decide +kernel

theorem test_RegionsAndCredit_credit :
    (freeGrant (countStat ehtUp (ehtStat 10) 1) = some 1)
    ∧ (let y := countStat ehtUp (ehtStat 10) 1
       min 1 (min (grantMax y) (max (creditFree y ep5 false / 4) (min (creditFree y ep5 false) 1))) ≠ 0
       ∧ min 1 (min (grantMax y) (max (0 / 4) (min 0 1))) = 0)
    ∧ (let g : Grant := { src := 9, ep := 5, express := false, tf := 0, left := 1, expires := 1, uses := 1 }
       let s (g : Grant) : State := { ehtUp with eht.grants := [(1, g)] }
       let p := parsePkt (wr true 0 4 4 0x10001)
       p.op ≠ 4 ∧ p.grant ≠ 0 ∧ tget? (s g).eht.grants (p.grant / 65536) = some g ∧ g.uses % 65536 = p.grant % 65536 ∧ (s g).clk.up < g.expires
         ∧ g.src = p.src ∧ g.ep = epKey (s g) p.dst ∧ 0 < g.left
         ∧ ({ g with expires := 0 } : Grant).expires ≤ (s g).clk.up ∧ ({ g with left := 0 } : Grant).left = 0)
    ∧ (let s := { ehtUp with cfg.recs := [(cfgKey (itemId 0xA 1 2) 0 0, nums [0, 1])] }
       let r := rq 0x0801 (nums [2 ^ 64 - 64, 64, marketBase + 0x3600000 - 64, 0, 15, 1, 0xFFFFFFFF, 0])
       let t := { s with eht.regions := [(0, default)] }
       Takes 0 s r 0x0801 s none ∧ r.body.length = 64 ∧ regionBad s r = none ∧ freeIndex s (num r 3) = some 0
         ∧ Takes 0 t r 0x0801 t none ∧ regionBad t r = none ∧ freeIndex t (num r 3) = none)
    ∧ (let r := rq 0x0801 (nums [2 ^ 64 - 63, 64, 0, 0, 15, 1, 0xFFFFFFFF, 0])
       Takes 0 ehtUp r 0x0801 ehtUp none ∧ r.body.length = 64 ∧ regionBad ehtUp r = some 2)
    ∧ (let r := rq 0x0802 (nums [0x1001])
       Takes 0 ehtUp r 0x0802 ehtUp none ∧ r.body.length = 8
         ∧ (tget? ehtUp.eht.regions (num r 0 / 4096)).map (fun d => (d.state, d.gen)) = some (1, num r 0 % 4096)
         ∧ (tget? ehtUp.eht.regions (0x1002 / 4096)).map Region.gen ≠ some (0x1002 % 4096))
    ∧ (let r := rq 0x0803 (nums [0x1001])
       Takes 0 ehtUp r 0x0803 ehtUp none ∧ r.body.length = 8 ∧ num r 0 < 2 ^ 32 ∧ (tget? ehtUp.eht.regions (num r 0 / 4096)).isSome = true)
    ∧ (let r := rq 0x0804 (nums [1] ++ (nums [0, 65535, 9] ++ zeros 16 ++ nums [1, 0] ++ zeros 6 ++ nums [1, 0, 0, 0, 0]))
       let s := { ehtUp with cfg.recs := [(cfgKey (itemId 0xA 1 3) 0 0, encN 1)] }
       Takes 0 s r 0x0804 s none ∧ 1 ≤ num r 0 ∧ num r 0 ≤ 64 ∧ r.body.length = 8 + 102 * num r 0 ∧ (∀ b ∈ bookItems r (num r 0), bookItemOk s b = true)
         ∧ ∀ b ∈ bookItems r (num r 0), bookUse ((bookItems r (num r 0)).foldl putBook s.eht.book) (leAt b 86 8) ≤ bookQuota s (leAt b 86 8))
    ∧ (let r := rq 0x0804 (nums [65])
       Takes 0 run r 0x0804 run none ∧ 64 < num r 0)
    ∧ (let r := rq 0x0805 (nums [65472, 64])
       Takes 0 run r 0x0805 run none ∧ r.body.length = 16 ∧ num r 0 < 65536 ∧ 1 ≤ num r 1 ∧ num r 1 ≤ 64 ∧ num r 0 + num r 1 ≤ 65536) := by
  repeat' apply And.intro
  all_goals decide +kernel

/-- A WRITE of one packet from endpoint 5, open. -/
def out5 (st : OutState) : OutMsg :=
  { ep := 5, srcGen := 1, msgId := 77, book := none, dstEid := 9, dstGen := 1, dstIp := 0, dstMac := 0, lp := 0, op := 2, seg := 0, rkey := 0, addr := 0
    payload := [0], express := false, cls := 6, owner := .channel 0 0, state := st, t0 := some 0 }
def sending (up : Nat) (m : OutMsg) : State := { ehtUp with eht.out := [(3, m)], clk.up := up }
/-- An ACK packet with this status. -/
def ackOf (st : Nat) : Pkt := parsePkt (sealPkt (ehtCommon 2 0 0 5 9 1 1 ++ beBytes 8 77 ++ [BitVec.ofNat 8 st] ++ zeros 19) [])

theorem test_MessageTimers_sender :
    (let m := out5 (.wait 50000 (some 60000))
     tget? (sending 50000 m).eht.out 3 = some m ∧ m.acked = false ∧ 50000 ≤ (sending 50000 m).clk.up ∧ (sending 49999 m).clk.up < 50000
       ∧ 60000 ≤ (sending 60000 m).clk.up ∧ (sending 59999 m).clk.up < 60000)
    ∧ (let m := out5 (.credit (some 1))
       m.state = .credit (some 1) ∧ 1 ≤ (sending 1 m).clk.up)
    ∧ (let m := out5 .sending
       let w := ehtW ehtUp
       m.t0 = some 0 ∧ 0 + ehtW (sending w m) ≤ (sending w m).clk.up ∧ (sending (w - 1) m).clk.up < 0 + ehtW (sending (w - 1) m)
       ∧ 0 + ehtW (sending (w + 100000) m) + ackWait (sending (w + 100000) m) ≤ (sending (w + 100000) m).clk.up
       ∧ (sending (w + 99999) m).clk.up < 0 + ehtW (sending (w + 99999) m) + ackWait (sending (w + 99999) m))
    ∧ (({ out5 .sending with t0 := none } : OutMsg).t0 = none)
    ∧ (let m := out5 .sending
       openMsg (sending 0 m) (ackOf 0) = some (3, m) ∧ beAt (ackOf 0).b 0x18 1 = 0 ∧ m.op ≠ 3 ∧ ({ m with op := 3 } : OutMsg).op = 3
         ∧ openMsg (sending 0 m) (ackOf 0x20) = some (3, m) ∧ beAt (ackOf 0x20).b 0x18 1 = 0x20 ∧ beAt (ackOf 0x50).b 0x18 1 = 0x50
         ∧ openMsg ehtUp (ackOf 0) = none) := by
  repeat' apply And.intro
  all_goals decide +kernel

theorem test_MessageTimers_receiver :
    (let s (up : Nat) : State := { ehtUp with eht.ctxs := [ctx1], clk.up := up }
     ctxOf (s 0) ctx1.key = some ctx1 ∧ ctx1.made + ehtL (s 4000000) ≤ (s 4000000).clk.up ∧ ctxHeld (s 0) ctx1.dst = false
       ∧ (s 3999999).clk.up < ctx1.made + ehtL (s 3999999)
       ∧ (s 250000).eht.epochAt + ehtL (s 250000) / 16 ≤ (s 250000).clk.up ∧ (s 249999).clk.up < (s 249999).eht.epochAt + ehtL (s 249999) / 16)
    ∧ (let g : Grant := { src := 9, ep := 5, express := false, tf := 0, left := 1, expires := 1, uses := 1 }
       let s (up : Nat) : State := { ehtUp with eht.grants := [(65535, g)], clk.up := up }
       tget? (s 0).eht.grants (65535#16).toNat = some g ∧ g.expires ≤ (s 1).clk.up ∧ (s 0).clk.up < g.expires)
    ∧ (let e : Book := { eid := 9, ip := 0, gen := 1, qset := 0, mac := 0, paths := 1, seg := 0, follow := false, tf := 0, grant := some { token := 0, units := 0, stop := 0 } }
       let s := { ehtUp with eht.book := [(65535, e)] }
       tget? s.eht.book (65535#16).toNat = some e ∧ e.grant = some { token := 0, units := 0, stop := 0 } ∧ 0 ≤ s.clk.up)
    ∧ (let d : Region := { base := 0, len := 64, target := 0, gen := 1, tf := 0, rights := 2, state := 2, flags := 0, filter := 0, channel := 0, freeAt := some 0 }
       let s := { ehtUp with eht.revoking := [(1048575, 0)], eht.regions := [(1048575, d)] }
       tget? s.eht.revoking (1048575#20).toNat = some 0 ∧ tget? s.eht.regions (1048575#20).toNat = some d ∧ d.freeAt = some 0 ∧ d.state = 2 ∧ 0 ≤ s.clk.up) := by
  repeat' apply And.intro
  all_goals decide +kernel

/-! ### Tenant functions -/

/-- TF 4095 in a state. -/
def tfIn (st : TfState) : State := { linked with tfs := [(0, { st := .enabled }), (4095, { st := st })] }

theorem test_TenantStates_premises :
    ∀ st ∈ [TfState.disabled, .enabled, .disabling, .freezing, .frozen, .saving, .saved, .restoring, .moved],
      tfExists (tfIn st) 4095 = true ∧ ((tfIn st).tf 4095).st = st
      ∧ (∀ c ∈ [(0x0A01, nums [4095], 8), (0x0A02, nums [4095, 2, 60000000000], 24), (0x0A03, nums [4095, 1000000], 16), (0x0A04, nums [4095], 8), (0x0A08, nums [4095], 8)],
          ready (tfIn st) = true ∧ c.2.1.length = c.2.2 ∧ num (rq c.1 c.2.1) 0 = 4095)
      ∧ (num (rq 0x0A02 (nums [4095, 2, 60000000000])) 1 ≤ 2 ∧ num (rq 0x0A02 (nums [4095, 2, 60000000000])) 2 ≤ 60000000000)
      ∧ (tfIn st).q? (.tf 4095) = none := by
  decide +kernel

/-- A frozen TF 1, a migration key in slot 64, TF0's book entry 0. -/
def moving (st : TfState) : State :=
  { linked with tfs := [(0, { st := .enabled }), (1, { st := st })], sec.slots := [(64, { typ := 1, usage := 2 ^ useMigrate, key := zeros 32 })]
                eht.book := [(0, { eid := 9, ip := 0, gen := 1, qset := 0, mac := 0, paths := 1, seg := 2, follow := false, tf := 0 })] }

theorem test_TenantMoves_commands :
    (∀ st ∈ [TfState.frozen, .enabled], let s := moving st
     let r := rq 0x0A05 (nums [1, 64, 0, 2 ^ 32 - 1, 0, 4096])
     Takes 0 s r 0x0A05 s none ∧ r.body.length = 48 ∧ tfExists s (num r 0) = true ∧ slotNameable (num r 1) = true ∧ (bookOf s (num r 2) 0).isSome = true
       ∧ num r 3 < 2 ^ 32 ∧ (s.tf 1).st = st ∧ (migrateKey s (num r 1)).isSome = true)
    ∧ (∀ st ∈ [TfState.disabled, .enabled], let s := moving st
       let r := rq 0x0A06 (nums [1, 64, 0, 0, 0, 1, 2 ^ 32 - 1, 0, 0])
       Takes 0 s r 0x0A06 s none ∧ r.body.length = 72 ∧ 0 < num r 5 ∧ num r 6 < 2 ^ 32 ∧ (s.tf 1).st = st ∧ ownEndpoints s 1 = [] ∧ tfQueues s 1 = []
         ∧ (∀ p ∈ tfRegions s 1, p.2.state ≠ 1) ∧ (migrateKey s (num r 1)).isSome = true)
    ∧ (∀ st ∈ [TfState.saved, .frozen], let s := moving st
       let r := rq 0x0A07 (nums [1] ++ zeros 16 ++ nums [60000000000])
       Takes 0 s r 0x0A07 s none ∧ tfExists s (num r 0) = true ∧ r.body.length = 32 ∧ leAt r.body 24 8 ≤ 60000000000 ∧ (s.tf 1).st = st
         ∧ s.eht.moved.length + (ownEndpoints s 1).length ≤ 16384) := by
  unfold Takes
  repeat' apply And.intro
  all_goals decide +kernel

theorem test_TenantMoves_rows :
    (let s (up : Nat) : State := { run with tfs := [(1, { st := .moved, graceAt := some 1 })], clk.up := up }
     ((s 1).tf 1).graceAt = some 1 ∧ 1 ≤ (s 1).clk.up ∧ (s 0).clk.up < 1 ∧ (run.tf 4095).graceAt = none ∧ (run.tf 4095).save = none ∧ (run.tf 4095).restore = none)
    ∧ (∀ bad ∈ [none, some 0x21], ∀ nospace ∈ [false, true],
        let o : SaveOp := { slot := 64, left := 0, len := 1, digest := [], bad := bad, nospace := nospace }
        let s := { run with tfs := [(1, { st := .saving, save := some o })] }
        (s.tf 1).save = some o ∧ (s.tf 1).st = .saving ∧ o.left = 0 ∧ nsRecordsLive s 1 = false ∧ o.bad = bad ∧ o.nospace = nospace)
    ∧ (let o : SaveOp := { slot := 64, left := 1, len := 1, digest := [] }
       ({ run with tfs := [(1, { st := .saving, save := some o })] } : State).tf 1 = { st := .saving, save := some o } ∧ o.left ≠ 0)
    ∧ (∀ bad ∈ [none, some 0x21],
        let o : RestoreOp := { slot := 64, book := 0, mapKey := 0, mapAddr := 0, mapLen := 0, left := 0, bad := bad }
        let s := { moving .restoring with tfs := [(1, { st := .restoring, restore := some o })] }
        (s.tf 1).restore = some o ∧ (s.tf 1).st = .restoring ∧ o.left = 0 ∧ o.bad = bad
          ∧ (match openBlob (noteUse s o.slot) o.slot (o.parts.flatMap Prod.snd) with
             | .inr _ => true
             | .inl _ => false) = true)
    ∧ (let d : Region := { base := 0, len := 64, target := 0, gen := 4095, tf := 0, rights := 2, state := 1, flags := 0, filter := 0, channel := 0 }
       let s := { run with eht.regions := [(1048575, { d with gen := 2047 })] }
       d.gen < 4096 ∧ (tget s.eht.regions 1048575 default).gen < 4096 ∧ d.state = 1 ∧ serialLater 12 (tget s.eht.regions 1048575 default).gen d.gen = false
         ∧ serialLater 12 0 d.gen = true ∧ ({ d with state := 2 } : Region).state = 2) := by
  repeat' apply And.intro
  all_goals decide +kernel

/-- TF 1 with the quotas and the region that an endpoint and a queue need. -/
def owning : State :=
  { linked with
    tfs := [(0, { st := .enabled }), (1, { st := .enabled })]
    cfg.recs := [(cfgKey (itemId 0xA 1 1) 1 0, encN 2), (cfgKey (itemId 0xA 1 4) 1 0, encN 1), (cfgKey (itemId 0xA 1 5) 1 0, encN 65536),
                 (cfgKey (itemId 0xB 1 5) 12287 0, encN 4), (cfgKey (itemId 0xB 1 6) 12287 0, encN 1)]
    eht.regions := [(1, { base := 0, len := 4096, target := 0, gen := 1, tf := 1, rights := 2, state := 1, flags := 0, filter := 0, channel := 0 })]
    eht.book := [(0, { eid := 9, ip := 0, gen := 1, qset := 0, mac := 0, paths := 1, seg := 2, follow := false, tf := 1 })] }

theorem test_TenantObjects_endpoints :
    (let r := rq 0x0A0A (nums [1, 5, 12287, 0x1001, 4096, 1])
     let s := owning
     Takes 0 s r 0x0A0A s none ∧ tfExists s (num r 0) = true ∧ r.body.length = 48 ∧ eidTaken s (num r 1) = false ∧ num r 2 < 12288 ∧ chanOwner s (num r 2) = 1
       ∧ 4 * num r 5 ≤ chanCap s (num r 2) ∧ (num r 4 = 4096 * 2 ^ 0) ∧ 1 ≤ num r 5 ∧ num r 5 ≤ 65536
       ∧ (match lookupKey s (num r 3) with
          | .inl d => decide (d.tf = 1 ∧ num r 4 * num r 5 ≤ d.len)
          | .inr _ => false) = true
       ∧ (tfEndpoints s 1).length < epQuota s 1 ∧ (∀ p ∈ s.eht.eps, p.2.slotNo ≠ 0)
       ∧ ({ s with cfg.recs := s.cfg.recs.drop 1 } : State).cfgN (itemId 0xA 1 1) 1 0 0 = 0)
    ∧ (let r := rq 0x0A0A (nums [0, 0xFFFFFFFE, 0, 0, 0, 0])
       Takes 0 run r 0x0A0A run none ∧ tfExists run 0 = true ∧ r.body.length = 48 ∧ eidTaken run (num r 1) = true)
    ∧ (let r := rq 0x0A0B (nums [0, 5])
       let busy := { ehtUp with qs := [(.endpoint 5, {})] }
       Takes 0 ehtUp r 0x0A0B ehtUp none ∧ r.body.length = 16 ∧ tget? ehtUp.eht.eps (num r 1) = some ep5 ∧ ep5.tf = num r 0 ∧ ep5.channel.isSome = true
         ∧ ehtUp.quiescing (.endpoint (BitVec.ofNat 32 (num r 1))) = false ∧ busy.quiescing (.endpoint (BitVec.ofNat 32 (num r 1))) = true) := by
  repeat' apply And.intro
  all_goals decide +kernel

theorem test_TenantObjects_queues :
    (let r := rq 0x0A0C (nums [1, 63, 5, 65536, 3, 0, 1, 64, 100000])
     let s := owning
     Takes 0 s r 0x0A0C s none ∧ r.body.length = 72 ∧ num r 1 < 64 ∧ eidTaken s (num r 2) = false ∧ sqItemsBad s 1 (sqItems r 3) 3 = none ∧ s.sq? (sqKey 1 63) = none
       ∧ (tfQueues s 1).length < sqQuota s 1 ∧ depthUse s 1 64 + num r 3 ≤ depthQuota s 1 ∧ (tfEndpoints s 1).length < epQuota s 1
       ∧ ({ s with sto.queues := [(sqKey 1 63, sq0 .active)] } : State).sq? (sqKey 1 63) = some (sq0 .active)
       ∧ ¬ (depthUse s 1 64 + 65537 ≤ depthQuota s 1))
    ∧ (∀ st ∈ [SqState.disabled, .active, .quiescing],
        let s := { owning with sto.queues := [(sqKey 1 63, sq0 st)] }
        let r := rq 0x0A0D (nums [1, 63, 64, 0, 0, 0, 1, 0])
        Takes 0 s r 0x0A0D s none ∧ r.body.length = 64 ∧ num r 1 < 64 ∧ s.sq? (sqKey 1 (num r 1)) = some (sq0 st) ∧ sqItemsBad s 1 (sqItems r 2) 2 = none
          ∧ (sq0 st).depth ≤ num r 2 ∧ num r 4 = (sq0 st).book ∧ (num r 5 == 1) = (sq0 st).inline ∧ depthUse s 1 (num r 1) + num r 2 ≤ depthQuota s 1
          ∧ depthQuota s 1 < depthUse s 1 (num r 1) + 65537 ∧ (sq0 st).st = st)
    ∧ (∀ c ∈ [0x0A0E, 0x0A0F], ∀ st ∈ [SqState.disabled, .active],
        let s := { owning with sto.queues := [(sqKey 1 63, sq0 st)] }
        let r := rq c (nums [1, 63])
        Takes 0 s r c s none ∧ r.body.length = 16 ∧ num r 1 < 64 ∧ s.sq? (sqKey 1 (num r 1)) = some (sq0 st) ∧ (sq0 st).st = st) := by
  unfold Takes
  repeat' apply And.intro
  all_goals decide +kernel

/-! ### Storage -/

/-- Namespace 0 of 8 blocks on root port 0, attached read-write to TF0; its drive is online. -/
def stoRecs (rw : Nat) : Tab Bytes :=
  [(cfgKey (itemId 9 1 2) 0 0, nums [0, 1, 100, 8]), (cfgKey (itemId 9 1 5) 0 0, nums [0, rw])]
def stoUp : State := { crun with cfg.recs := stoRecs 1, sto.drives := [(0, { st := .online })] }
/-- A submission entry: opcode, flags, LBA, blocks, ARG. -/
def sub (op flags lba blocks arg : Nat) : Bytes :=
  [BitVec.ofNat 8 op, BitVec.ofNat 8 flags] ++ beBytes 2 7 ++ beBytes 4 0 ++ beBytes 8 lba ++ beBytes 4 blocks ++ beBytes 4 1 ++ beBytes 8 0 ++ beBytes 4 arg ++ zeros 28
/-- The same without a region key. -/
def subNk (op flags lba blocks arg : Nat) : Bytes :=
  [BitVec.ofNat 8 op, BitVec.ofNat 8 flags] ++ beBytes 2 7 ++ beBytes 4 0 ++ beBytes 8 lba ++ beBytes 4 blocks ++ zeros 12 ++ beBytes 4 arg ++ zeros 28
def withQ (s : State) (q : StoQueue) : State := { s with sto.queues := [(0, q)] }

theorem test_StorageCommandsFlow_rows :
    (∀ x ∈ [(0, 0), (1, 0), (2, 0), (8, 0), (9, 0), (0xC0, 0), (0xC1, 0), (0xC1, 1)],
      let m := subNk x.1 0 0 0 x.2
      let s := withQ stoUp { sq0 .active with inbox := [(0, m)] }
      s.sq? ((0#12).toNat * 64 + (0 : Fin 64).val) = some { sq0 .active with inbox := [(0, m)] } ∧ s.phase = .running ∧ s.cfg.state = .committed
        ∧ beAt m 0 1 = x.1 ∧ beAt m 0x20 4 = x.2)
    ∧ (sq0 .active).inbox = []
    ∧ (∀ st ∈ [SqState.active, .error, .quiescing, .disabled], (withQ stoUp (sq0 st)).sq? 0 = some (sq0 st) ∧ (sq0 st).st = st)
    ∧ (mapStatus stoUp 0 (parseSub 0 0 (sub 1 0 7 1 0)) (sub 1 0 7 1 0) = 0 ∧ mapStatus stoUp 0 (parseSub 0 0 (subNk 0xC0 4 0 0 0)) (subNk 0xC0 4 0 0 0) = 0
      ∧ mapStatus stoUp 0 (parseSub 0 0 (subNk 0xC1 0 0 0 1)) (subNk 0xC1 0 0 0 1) = 0 ∧ mapStatus stoUp 0 (parseSub 0 0 (sub 1 0 8 1 0)) (sub 1 0 8 1 0) ≠ 0) := by
  repeat' apply And.intro
  all_goals decide +kernel

theorem test_StorageCommandsFlow_mapping :
    (let m := sub 1 0 7 1 0
     let c := parseSub 0 0 m
     c.op ≠ 0xC0 ∧ c.op ≠ 0xC1 ∧ subFormat c m = true ∧ subFormat (parseSub 0 0 (sub 1 8 7 1 0)) (sub 1 8 7 1 0) = false
       ∧ nsAttach stoUp c.vns 0 = some true ∧ nsExtents stoUp c.vns ≠ [] ∧ nsAttach stoUp c.vns 1 = none
       ∧ c.lba + c.blocks ≤ ((nsExtents stoUp c.vns).map Extent.count).sum
       ∧ ((nsExtents stoUp c.vns).map Extent.count).sum < (parseSub 0 0 (sub 1 0 8 1 0)).lba + (parseSub 0 0 (sub 1 0 8 1 0)).blocks
       ∧ c.op ≠ 2 ∧ nsAttach { stoUp with cfg.recs := stoRecs 0 } c.vns 0 = some false ∧ nsOffline stoUp c.vns = false
       ∧ nsOffline { stoUp with sto.drives := [] } c.vns = true) := by
  repeat' apply And.intro
  all_goals decide +kernel

theorem test_StorageCommandsFlow_log :
    (let e (n : Nat) : LogEnt := { seq := n, cmdId := 0, op := 0, flags := 0, status := 0, nvme := 0, rp := 0, vns := 0, blocks := 0, lba := 0, info := 0, at_ := 0 }
     let q := { sq0 .error with log := (List.range 16).map e }
     (withQ stoUp q).sq? 0 = some q ∧ 16 ≤ q.log.length ∧ q.log = e 0 :: e 1 :: ((List.range 16).map e).drop 2
       ∧ ({ q with log := q.log.take 15 } : StoQueue).log.length < 16 ∧ q.st = .error ∧ q.st ≠ .active)
    ∧ (let c := parseSub 0 0 (subNk 0xC1 0 0 0 1)
       c.arg = 1 ∧ (parseSub 0 0 (subNk 0xC1 0 0 0 0)).arg = 0 ∧ (parseSub 0 0 (subNk 0xC0 0 0 0 0)).flags.testBit 2 = false) := by
  repeat' apply And.intro
  all_goals decide +kernel

theorem test_StorageCommandsFlow_dispatch :
    (let s := withQ { stoUp with cfg.recs := stoRecs 1 ++ [(cfgKey (itemId 9 2 7) 0 0, nums [1, 1, 1, 1, 1])] } { sq0 .active with cmds := [parseSub 0 0 (sub 2 0 0 1 0)] }
     s.phase = .running ∧ s.cfg.state = .committed ∧ nextAfter (readyTfs s (· == 0)) s.sto.lastUrgentTf = some 0
       ∧ nextAfter (readyQueues s 0 0) (s.arb 0).lastUrgent = some 0)
    ∧ (let s := { withQ stoUp { sq0 .active with cls := 3, cmds := [parseSub 0 0 (sub 2 0 0 1 0)] } with sto.arb := [(0, { deficit := 1, cls := 2 })] }
       readyTfs s (· == 0) = [] ∧ readyQueues s 0 1 ++ readyQueues s 0 2 ++ readyQueues s 0 3 ≠ [] ∧ 1 ≤ (s.arb 0).deficit
       ∧ (stoClassPick 0 7 s).map Prod.fst = some 0
       ∧ readyQueues s 0 ((s.arb 0).cls + 1) ≠ [] ∧ (s.arb 0).taken.getD (s.arb 0).cls 0 ≠ stoClassWeight s 0 (s.arb 0).cls)
    ∧ (run.phase = .running ∧ run.cfg.state ≠ .committed)
    ∧ (let c (op : Nat) : StoCmd := parseSub 0 0 (sub op 0 0 1 0)
       nsOffline stoUp (c 2).vns = false ∧ nsOffline { stoUp with sto.drives := [] } (c 2).vns = true ∧ (c 2).op = 2
         ∧ hbmRange stoUp (c 2).vns (c 2).lba (c 2).blocks = none
         ∧ (hbmRange { stoUp with sto.cache := [(0, 0, [])] } (c 2).vns (c 2).lba (c 2).blocks).isSome = true
         ∧ (parseSub 0 0 (subNk 1 2 0 1 0)).inline = true ∧ nsJournal stoUp 0 = none) := by
  repeat' apply And.intro
  all_goals decide +kernel

theorem test_PiecesCoverRange_premises :
    let e (rp : Nat) : Extent := { rp := rp, nsid := 1, lba := 100, count := 8 }
    7 + 9 ≤ ([e 0, e 1].map Extent.count).sum ∧ ((piecesOf [e 0, e 1] 0 7 9 0).map Piece.blocks) = [1, 8]
      ∧ ([e 0, e 1] : List Extent)[1 - 0]? = some (e 1) := by decide

/-- A drive with one command out. -/
def nv : NvmeCmd := { op := 2, nsid := 1, lba := 100, blocks := 1, data := [], fua := false, for_ := .cmd 0 0 0 0, start := 0 }
def drv (d : Drive) (up : Nat) : State := { stoUp with sto.drives := [(15, d)], clk.up := up }

theorem test_DriveEvents_commands :
    (let s := drv { st := .online, cmds := [(65535, nv)] }
     tget? ((s 0).drive 15).cmds 65535 = some nv ∧ tget? ((s 0).drive 15).cmds 0 = none
       ∧ (nv.abortAt = none ∧ nv.start + (s 8000000000).cfgN (itemId 9 2 3) 15 0 8000000000 ≤ (s 8000000000).clk.up)
       ∧ ¬ (nv.start + (s 7999999999).cfgN (itemId 9 2 3) 15 0 8000000000 ≤ (s 7999999999).clk.up))
    ∧ (let s := drv { st := .online, cmds := [(0, { nv with abortAt := some 0 })] }
       (∃ c ∈ ((s 1000000000).drive 15).cmds, ∃ a ∈ c.2.abortAt, a + 1000000000 ≤ (s 1000000000).clk.up)
         ∧ (∀ c ∈ ((s 999999999).drive 15).cmds, ∀ a ∈ c.2.abortAt, (s 999999999).clk.up < a + 1000000000))
    ∧ (let e : CoEnt := { cmd := parseSub 0 0 (sub 2 0 0 1 0), bytes := [], at_ := 0 }
       let q := { sq0 .active with coal := [e], coTime := 1 }
       (withQ stoUp q).sq? ((0#12).toNat * 64 + (0 : Fin 64).val) = some q ∧ q.coal = e :: [] ∧ stoUp.clk.up < e.at_ + q.coTime ∧ e.at_ + 0 ≤ stoUp.clk.up)
    ∧ (let s := { stoUp with sto.journals := [(15, { usable := true, retired := true })], clk.up := 1000000 }
       (s.journal 15).usable = true ∧ (s.journal 15).retired = true ∧ (s.journal 15).ckAt + 1000000 ≤ s.clk.up ∧ ¬ (s.journal 0).usable = true)
    ∧ (let s := { stoUp with cfg.recs := [(cfgKey (itemId 9 2 1) 15 0, nums [0, 1, 0, 8192])], sto.journals := [(15, { replay := true })] }
       (journalCfg s 15).map Extent.rp = some 0 ∧ (s.journal 15).replay = true ∧ (s.drive 0).st = .online ∧ (stoUp.journal 15).replay = false) := by
  repeat' apply And.intro
  all_goals decide +kernel

theorem test_DriveEvents_states :
    (∀ st ∈ [DrvState.absent, .init, .online, .resetting, .failed], ((drv { st := st, step := 5, released := true } 0).drive 15).st = st)
    ∧ ((drv { released := true } 1000000000).drive 15).linkTry + 1000000000 ≤ 1000000000
    ∧ (drv { released := true } 0).clk.pcieOk = true
    ∧ declaredSerial (drv { st := .init, step := 5 } 0) 15 = none
    ∧ (let s := { drv { st := .init, step := 5 } 0 with cfg.recs := [(cfgKey (itemId 9 2 2) 15 0, beBytes 8 1)] }
       (s.drive 15).step = 5 ∧ ¬ (declaredSerial s 15 = none ∨ declaredSerial s 15 = some (2#64).toNat))
    ∧ (5 < ((drv { st := .init, step := 6 } 0).drive 15).step)
    ∧ (let s := drv { st := .online, shortDue := 1 } 100000000
       (s.drive 15).st = .online ∧ (s.drive 15).test = none ∧ (s.drive 15).lastHost + s.cfgPart (itemId 9 2 4) 15 0 2 100000000 ≤ s.clk.up ∧ dueTest s 15 = some false
         ∧ dueTest (drv {} 0) 15 = none)
    ∧ (let w : SelfTest := { ext := false, start := 0 }
       let s := drv { st := .online, test := some w } 120000000000
       (s.drive 15).test = some w ∧ w.ext = false ∧ w.start + 120000000000 ≤ s.clk.up ∧ (drv { test := some w } 119999999999).clk.up < w.start + 120000000000)
    ∧ (let s (d : Drive) := drv d (1 + 86400000000000)
       (((s { shortDue := 1 }).drive 15).overdueShort = false ∧ ((s { shortDue := 1 }).drive 15).shortDue + (s {}).cfgPart (itemId 9 2 4) 15 0 0 86400000000000 ≤ (s {}).clk.up))
    ∧ (let s := drv { extDue := 1 } (1 + 2592000000000000)
       (s.drive 15).shortDue = 0 ∧ (s.drive 15).overdueExt = false ∧ (s.drive 15).extDue + s.cfgPart (itemId 9 2 4) 15 0 1 2592000000000000 ≤ s.clk.up)
    ∧ ((drv { fw := true } 0).drive 15).fw = true ∧ ((drv {} 0).drive 15).fw = false := by
  repeat' apply And.intro
  all_goals decide +kernel

theorem test_DriveCommands_premises :
    (∀ c ∈ [(0x0903, nums [3], 8), (0x0904, nums [3, 1], 16), (0x0905, nums [3] ++ [0], 9)],
      Takes 0 stoUp (rq c.1 c.2.1) c.1 stoUp none ∧ (rq c.1 c.2.1).body.length = c.2.2 ∧ num (rq c.1 c.2.1) 0 < rootPorts stoUp)
    ∧ (num (rq 0x0904 (nums [3, 1])) 1 < 2 ∧ 8 < (rq 0x0905 (nums [3] ++ [0])).body.length)
    ∧ ((stoUp.drive 3).st ≠ .online ∧ (stoUp.drive 0).st = .online ∧ (stoUp.drive 0).test = none ∧ (stoUp.drive 0).fw = false ∧ driveInUse stoUp 0 = false
      ∧ driveInUse (withQ stoUp (sq0 .active)) 0 = true)
    ∧ (let s := { stoUp with sto.drives := [(0, { st := .online, test := some { ext := false, start := 0 }, fw := true })] }
       (s.drive 0).test.isSome = true ∧ (s.drive 0).fw = true)
    ∧ (rootPorts stoUp ≤ 4)
    ∧ (let r := rq 0x0906 (nums [0])
       let j := { stoUp with cfg.recs := stoRecs 1 ++ [(cfgKey (itemId 9 1 3) 0 0, encN 0), (cfgKey (itemId 9 2 1) 0 0, nums [0, 1, 0, 8192])] }
       Takes 0 stoUp r 0x0906 stoUp none ∧ r.body.length = 8 ∧ nsExtents stoUp (num r 0) ≠ [] ∧ (∀ e ∈ nsExtents stoUp (num r 0), (stoUp.drive e.rp).st = .online)
         ∧ nsJournal stoUp (num r 0) = none
         ∧ Takes 0 j r 0x0906 j none ∧ nsJournal j (num r 0) = some 0 ∧ (journalCfg j 0).map Extent.rp = some 0 ∧ (j.journal 0).usable = false
         ∧ ¬ (∀ e ∈ nsExtents { stoUp with sto.drives := [] } (num r 0), (({ stoUp with sto.drives := [] } : State).drive e.rp).st = .online)) := by
  unfold Takes
  repeat' apply And.intro
  all_goals decide +kernel

/-! ### Idori instructions -/

def i7 : Tid := { stall := 11, role := 15, thread := 7 }
def i0 : Tid := { stall := 11, role := 15, thread := 0 }
def thr : Thread := { enable := true, st := .ready }
/-- The last role of the last Stall, with these threads. -/
def ido (t : Tab Thread) (f : CoreRole → CoreRole) : State :=
  { run with ido.stalls := [(11, { st := .running, cores := [(15, f { phys := some 15, threads := t })] })] }
/-- Its thread 7 runs; g1 and g2 hold these. -/
def ido7 (a b : Word64) : State := ido [(7, { thr with g := ((Vector.replicate 32 0).set 1 a).set 2 b })] id

/-- The thread may issue; its fetch does not fault and finds a word of the table. -/
def issues (s : State) (i : Tid) : Bool :=
  canIssue s i && (fetchFault (noteIssue s i) i).isNone && legalWord ((noteIssue s i).fetched i)

theorem issues_of {s : State} {i : Tid} (h : issues s i = true) : Issues i s (noteIssue s i) := by
  simp only [issues, Bool.and_eq_true, Option.isNone_iff_eq_none] at h
  exact ⟨h.1.1, rfl, h.1.2, h.2⟩

theorem test_Issues : Issues i7 (ido7 0 0) (noteIssue (ido7 0 0) i7) := issues_of (by decide +kernel)

theorem test_IdoriRegisters_premises :
    (let s := ido [(7, thr)] (fun c => { c with bps := [(3, 0x1FFFC)] })
     (s.thr i7).st = .ready ∧ (∃ b ∈ (s.role i7.stall.val i7.role.val).bps, b.2 = 0x1FFFC#64)
       ∧ (∀ b ∈ (s.role i7.stall.val i7.role.val).bps, b.2 ≠ 0x1FFF8#64))
    ∧ (let x := noteIssue (ido7 0xFFFFFFFFFFFFFFFF 0) i7
       issues (ido7 0xFFFFFFFFFFFFFFFF 0) i7 = true ∧ x.greg i7 1 ≠ x.greg i7 2 ∧ (x.greg i7 1).toInt < (x.greg i7 2).toInt
         ∧ (x.greg i7 2).toNat < (x.greg i7 1).toNat ∧ x.greg i7 3 = x.greg i7 0) := by
  repeat' apply And.intro
  all_goals decide +kernel

/-- The ends of each window; a tenant function's allocation, TF0's share, a packet buffer. -/
theorem test_IdoriRegisters_windows :
    (0x1FFF8 + 8 ≤ 0x20000 ∧ ¬ 0x1FFF9 + 8 ≤ 0x20000 ∧ 0x10000000 ≤ 0x102FFFF8 ∧ 0x102FFFF8 + 8 ≤ 0x10300000 ∧ ¬ 0x102FFFF9 + 8 ≤ 0x10300000)
    ∧ (let s := { ido [(7, { thr with tf := 1 })] id with tfs := [(1, { st := .enabled, mkt := (marketBase + 256, 256), hbm := (hbmBase, 64) })] }
       (s.thr i7).tf = 1 ∧ (s.tf 1).mkt = (marketBase + 256, 256) ∧ window s i7 (marketBase + 256) 256 = some (marketBase + 256)
         ∧ window s i7 (marketBase + 255) 256 = none ∧ window s i7 hbmBase 64 = some hbmBase ∧ window s i7 hbmBase 65 = none)
    ∧ (let s := ido7 0 0
       (s.thr i7).tf = 0 ∧ (marketShare s).1 ≤ (marketShare s).2 - 8 ∧ (marketShare s).2 ≤ marketBase + marketSize ∧ (hbmShare s).1 + 8 ≤ (hbmShare s).2
         ∧ window s i7 (marketShare s).1 8 = some (marketShare s).1 ∧ window s i7 (marketShare s).2 8 = none)
    ∧ (let s := { ido7 0 0 with mem.bufs := [(marketBase + 0x4000, { stall := 11, tf := 0, cap := 100 })] }
       window s i7 (marketBase + 0x4000) 256 = some (marketBase + 0x4000)) := by
  repeat' apply And.intro
  all_goals decide +kernel

theorem test_IdoriArithmetic_premises :
    canIssue run i7 = false
    ∧ (let s := ido [(7, { thr with pc := 0x1FFFD })] id
       canIssue s i7 = true ∧ localWindow i7 ((noteIssue s i7).thr i7).pc.toNat 4 = none)
    ∧ (let x := noteIssue (ido7 0x8000000000000000 0) i7
       x.greg i7 2 = 0 ∧ (x.greg i7 1).toInt < 0 ∧ issues (ido7 0x8000000000000000 0) i7 = true) := by
  repeat' apply And.intro
  all_goals decide +kernel

theorem test_IdoriBitFields_premises :
    ((0#6).toNat + ((63#6).toNat + 1) ≤ 64 ∧ 64 < (1#6).toNat + ((63#6).toNat + 1)) ∧ ((63#6).toNat + ((0#6).toNat + 1) ≤ 64) := by decide

/-- Worked by hand from R288: eight zero bytes from 0xFFFFFFFF, and HMIX of 1 and 2. -/
theorem test_bitfields :
    crcStep polyC 3 0xFFFFFFFF 0 = 0x73D74D75 ∧ hmix 1 2 = 0x83A99AE802F96587 ∧ hmix 1 2 ≠ hmix 2 1 := by decide +kernel

theorem test_IdoriMemory_premises :
    (let s := ido7 0x1FFF8 0
     let x := noteIssue s i7
     let ea := (x.greg i7 1 + (0#16).signExtend 64).toNat
     issues s i7 = true ∧ ea = 0x1FFF8 ∧ (∀ n ∈ [8, 4, 2, 1], ea % n = 0 ∧ window x i7 ea n = some (scratchBase 11 15 + ea) ∧ x.poisoned (scratchBase 11 15 + ea) n = false)
       ∧ (x.role i7.stall.val i7.role.val).phys = some 15 ∧ x.fenceOk (unitCore i7.stall.val 15) (.core i7.stall.val i7.role.val) = true
       ∧ (∀ n ∈ [8, 4, 2], (x.greg i7 1 + (1#16).signExtend 64).toNat % n ≠ 0)
       ∧ (∀ n ∈ [8, 4, 2, 1], (x.greg i7 1 + (8#16).signExtend 64).toNat % n = 0 ∧ window x i7 0x20000 n = none)
       ∧ (x.greg i7 1).toNat % 8 = 0 ∧ inMarket (x.greg i7 1).toNat 8 = false)
    ∧ (let s := { ido7 0x1FFF8 0 with mem.poison := [(scratchBase 11 15 + 0x1FFF8) / 8] }
       issues s i7 = true ∧ (noteIssue s i7).poisoned (scratchBase 11 15 + 0x1FFF8) 1 = true)
    ∧ (let s := ido7 (BitVec.ofNat 64 (marketShare run).1) 0
       let x := noteIssue s i7
       let a := (x.greg i7 1).toNat
       issues s i7 = true ∧ a % 8 = 0 ∧ inMarket a 8 = true ∧ window x i7 a 8 = some a ∧ x.poisoned a 8 = false
         ∧ BitVec.ofNat 64 (ofLe (x.peek a 8)) = x.greg i7 0 ∧ BitVec.ofNat 64 (ofLe (x.peek a 8)) ≠ x.greg i7 1
         ∧ (x.role i7.stall.val i7.role.val).phys = some 15 ∧ x.fenceOk (unitCore i7.stall.val 15) (.core i7.stall.val i7.role.val) = true)
    ∧ (let s := ido7 (BitVec.ofNat 64 marketBase) 0
       let x := noteIssue s i7
       issues s i7 = true ∧ inMarket (x.greg i7 1).toNat 8 = true ∧ window x i7 (x.greg i7 1).toNat 8 = none)
    ∧ (issues (ido7 4 0) i7 = true ∧ ((noteIssue (ido7 4 0) i7).greg i7 1).toNat % 8 ≠ 0) := by
  repeat' apply And.intro
  all_goals decide +kernel

/-- Channel `c` has `cap` words and TF0 owns it; thread 7 writes it through endpoint 62 with a staged message. -/
def wrEp (c cap : Nat) (g : Stage) : State :=
  { ido [(7, thr)] (fun r => { r with eps := [(62, { mode := 2, thread := 7, chan := c })], stages := [(62, g)] }) with
    cfg.recs := [(cfgKey (itemId 0xB 1 5) c 0, encN cap)] }

theorem test_IdoriChannelWrites_premises :
    (issues (wrEp 11264 64 {}) i7 = true ∧ boundEp (noteIssue (wrEp 11264 64 {}) i7) i7 62 2 = some 11264
      ∧ boundEp (noteIssue (wrEp 11264 64 {}) i7) i7 61 2 = none)
    ∧ (∀ n ∈ [63, 64], let s := wrEp 11264 64 { words := List.replicate n 0 }
       let g := (noteIssue s i7).stage i7 62
       issues s i7 = true ∧ g.closed = false ∧ g.words.length = n)
    ∧ (let s := wrEp 11264 64 { words := List.replicate 64 0, closed := true }
       let x := noteIssue s i7
       issues s i7 = true ∧ (x.stage i7 62).closed = true ∧ 11264 / 1024 = i7.stall.val ∧ (x.stage i7 62).words.length ≤ chanRoom x 11264
         ∧ x.fenceOk (unitCore i7.stall.val ((x.role i7.stall.val i7.role.val).phys.getD 0)) (.core i7.stall.val i7.role.val) = true)
    ∧ (chanRoom (noteIssue (wrEp 11264 63 { words := List.replicate 64 0, closed := true }) i7) 11264 < 64)
    ∧ (let s := wrEp 0 64 { words := [0], closed := true }
       issues s i7 = true ∧ 0 / 1024 ≠ i7.stall.val ∧ ((noteIssue s i7).stall (0 / 1024)).st ≠ .running) := by
  repeat' apply And.intro
  all_goals decide +kernel

/-- Thread 7 reads channel 11264 through endpoint 0; the ring holds these messages. -/
def rdEp (t : Thread) (ms : List ChMsg) (pos : Nat) : State :=
  let s := ido [(7, t)] (fun r => { r with eps := [(0, { mode := 1, thread := 7, chan := 11264 })] })
  { s with ido.chans := [(11264, { msgs := ms, pos := pos })] }

theorem test_IdoriChannelReads_premises :
    (let s := rdEp thr [] 0
     issues s i7 = true ∧ mayRead (noteIssue s i7) i7 0 = true ∧ mayRead (noteIssue s i7) i7 1 = false ∧ (tryRead (noteIssue s i7) i7 (.chan 0)).isNone = true
       ∧ ((noteIssue s i7).thr i7).st ≠ .stopped ∧ skipMsg (noteIssue s i7) i7 0 = none ∧ (0 : Nat) ≠ 63 ∧ boundEp s i7 0 1 = some 11264 ∧ (s.chan 11264).msgs = []
       ∧ ((noteIssue s i7).thr i7).sel = 0)
    ∧ (∀ p ∈ [0, 1], let s := rdEp thr [{ src := 1, words := [7, 8, 9] }] p
       issues s i7 = true ∧ (tryRead (noteIssue s i7) i7 (.chan 0)).isSome = true ∧ (s.chan 11264).msgs = { src := 1, words := [7, 8, 9] } :: [] ∧ (s.chan 11264).pos = p
         ∧ p + 1 < 3 ∧ (skipMsg (noteIssue s i7) i7 0).isSome = (p != 0))
    ∧ (let s := rdEp thr [{ src := 1, words := [7, 8, 9] }] 2
       (s.chan 11264).pos = 2 ∧ ([7, 8, 9] : List Word64).length = 2 + 1 ∧ (tryRead s i7 (.chan 0)).isSome = true)
    ∧ (let s := rdEp { thr with sel := 1, timer := 0 } [{ src := 1, words := [7] }] 0
       issues s i7 = true ∧ ((noteIssue s i7).thr i7).sel ≠ 0 ∧ (tryRead (noteIssue s i7) i7 .select).isSome = true ∧ (tryRead (noteIssue s i7) i7 .timer).isSome = true)
    ∧ (let s := rdEp { thr with sel := 2 ^ 63, timer := 1 } [] 0
       issues s i7 = true ∧ (tryRead (noteIssue s i7) i7 .select).isNone = true ∧ (tryRead (noteIssue s i7) i7 .timer).isNone = true ∧ (s.thr i7).sel.getLsbD 63 = true)
    ∧ (issues (wrEp 11264 64 {}) i7 = true ∧ (boundEp (noteIssue (wrEp 11264 64 {}) i7) i7 62 2).isSome = true
        ∧ (tryRead (noteIssue (wrEp 11264 64 {}) i7) i7 (.space 62)).isSome = true)
    ∧ (∀ m ∈ [([] : List ChMsg), [{ src := 1, words := [7] }]], let s := rdEp { thr with st := .blocked, wait := some (.chan 0, 5) } m 0
       (s.thr i7).wait = some (.chan 0, 5) ∧ serves s i7 = true ∧ (tryRead s i7 (.chan 0)).isSome = !m.isEmpty) := by
  repeat' apply And.intro
  all_goals decide +kernel

theorem test_IdoriSupervision_premises :
    (issues (ido7 0 0) i7 = true ∧ i7.thread ≠ 0)
    ∧ ((15#4) ≠ 0 ∧ (15#4) ≠ 4 ∧ (15#4) ≠ 5)
    ∧ (∀ st ∈ [TState.disabled, .ready, .blocked, .stopped, .faulted, .killed],
       let s := ido [(0, { thr with g := (Vector.replicate 32 0).set 1 7 }), (7, { thr with st := st })] id
       let x := noteIssue s i0
       issues s i0 = true ∧ i0.thread = 0 ∧ (x.greg i0 1).toNat % 8 = 7 ∧ (x.thrAt 11 15 7).st = st) := by
  repeat' apply And.intro
  all_goals decide +kernel

/-- A queued submission. -/
def outM : OutMsg :=
  { ep := 5, srcGen := 1, msgId := 1, book := none, dstEid := 0, dstGen := 0, dstIp := 0, dstMac := 0, lp := 0, op := 6, seg := 0, rkey := 0, addr := 0
    payload := [], express := false, cls := 0, owner := .channel 0 0, state := .sending }
/-- A submission of operation 6 from endpoint 5 to channel 11264, at scratch 0x40. -/
def subS (room n eid : Nat) : State :=
  let s := wrEp 11264 room {}
  let d := leBytes 4 eid ++ leBytes 4 0 ++ [6, 0] ++ leBytes 2 11264 ++ zeros 52
  let s := s.onRole 11 15 (fun c => { c with subq := List.replicate n outM, threads := [(7, { thr with g := ((Vector.replicate 32 0).set 1 0x40).set 2 5 })] })
  let e : Endpoint := { gen := 1, tf := 0, channel := some 11264, sq := none, ringKey := 0, slotSize := 4096, slotCount := 2, slotsUsed := [0x40] }
  { s with eht.eps := [(5, e), (0x40, e)] }.poke (scratchBase 11 15 + 0x40) d

theorem test_IdoriDevices_submission :
    (∀ p ∈ [(4, 63), (3, 63), (4, 64)], let s := subS p.1 p.2 5
       let x := noteIssue s i7
       let d := parseDesc (x.peek (scratchBase 11 15 + 0x40) 64)
       issues s i7 = true ∧ (x.greg i7 1).toNat = 0x40 ∧ localWindow i7 0x40 64 = some (scratchBase 11 15 + 0x40) ∧ x.poisoned (scratchBase 11 15 + 0x40) 64 = false
         ∧ (ownsEndpoint x (x.thr i7).tf d.eid).isSome = true ∧ d.ok x i7 = true ∧ chanRoom x d.chan = p.1 ∧ (x.role 11 15).subq.length = p.2)
    ∧ (let s := subS 4 0 6
       let x := noteIssue s i7
       ownsEndpoint x (x.thr i7).tf (parseDesc (x.peek (scratchBase 11 15 + 0x40) 64)).eid = none)
    ∧ ((noteIssue (ido7 0x20000 0) i7).greg i7 1).toNat % 64 = 0 ∧ localWindow i7 0x20000 64 = none ∧ 0x20001 % 64 ≠ 0 := by
  repeat' apply And.intro
  all_goals decide +kernel

theorem test_IdoriDevices_slots :
    (let x := noteIssue (subS 4 0 5) i7
     ∃ e ∈ ownsEndpoint x (x.thr i7).tf (x.greg i7 1).toNat, slotHeld x (x.greg i7 1).toNat 0x40 e = true ∧ slotHeld x (x.greg i7 1).toNat (x.greg i7 2).toNat e = false)
    ∧ (let x := noteIssue (ido7 7 0) i7
       ownsEndpoint x (x.thr i7).tf (x.greg i7 1).toNat = none) := by
  repeat' apply And.intro
  all_goals decide +kernel

/-- An injection descriptor at scratch 0x40: this buffer, length, pipeline and flags; `n` frames wait. -/
def injS (buf len pipe flags n : Nat) : State :=
  let f : PFrame := { frame := { bytes := [], cls := 0, inLp := none, tIn := 0, tInUp := 0 }, src := 32 }
  { ido7 0x40 0 with mem.bufs := [(marketBase, { stall := 11, tf := 0, cap := 9216 })], parse.inject := [(3, List.replicate n f)] }.poke
    (scratchBase 11 15 + 0x40) (leBytes 8 buf ++ leBytes 2 len ++ [BitVec.ofNat 8 pipe, BitVec.ofNat 8 flags] ++ zeros 4)

theorem test_IdoriDevices_injection :
    (∀ p ∈ [(64, 3, 0, 31), (9216, 3, 1, 31), (64, 3, 0, 32), (9217, 3, 0, 0), (63, 3, 0, 0), (64, 4, 0, 0), (64, 3, 2, 0)],
       let s := injS marketBase p.1 p.2.1 p.2.2.1 p.2.2.2
       let x := noteIssue s i7
       let b := x.peek (scratchBase 11 15 + 0x40) 16
       issues s i7 = true ∧ window x i7 0x40 16 = some (scratchBase 11 15 + 0x40) ∧ x.poisoned (scratchBase 11 15 + 0x40) 16 = false
         ∧ leAt b 0 8 = marketBase ∧ leAt b 8 2 = p.1 ∧ leAt b 10 1 = p.2.1 ∧ leAt b 11 1 = p.2.2.1 ∧ zeroAt b 12 4 = true
         ∧ holdsBuf x i7 (leAt b 0 8) = true ∧ (tget x.parse.inject 3 []).length = p.2.2.2 ∧ (tget x.mem.bufs marketBase default).cap = 9216
         ∧ x.fenceOk (unitCore 11 ((x.role 11 15).phys.getD 0)) (.core 11 15) = true)
    ∧ (let x := noteIssue (injS (marketBase + 256) 64 3 0 0) i7
       holdsBuf x i7 (leAt (x.peek (scratchBase 11 15 + 0x40) 16) 0 8) = false ∧ (0x40 : Nat) % 16 = 0) := by
  repeat' apply And.intro
  all_goals decide +kernel

/-! ### Stalls and debug -/

/-- A blocked thread, the detector's count from 0; 65536 core clocks are 27307 ns. -/
def quietS (at_ : Nat) : State := { ido [(7, { thr with st := .blocked, wait := some (.timer, 0) })] id with clk.up := at_ }
/-- Role 15 owed a core, with these spares. -/
def owedS (sp : List Nat) : State :=
  { run with ido.stalls := [(11, { st := .running, owed := [15], spares := sp, cores := [(15, { phys := some 15, threads := [(7, thr)] })] })] }

theorem test_StallRows_premises :
    (let x := quietS 27307
     let c := x.role 11 15
     (x.stall 11).st ≠ .stopped ∧ c.phys.isSome = true ∧ 15 ∉ (x.stall 11).owed ∧ heldForTest x 11 15 = false ∧ c.quietFired = false
       ∧ c.threads.filter (fun t => t.2.enable) ≠ [] ∧ (∀ t ∈ c.threads, t.2.st = .blocked ∨ t.2.st = .faulted ∨ t.2.st = .killed)
       ∧ quietThreshold x 11 ≤ c.quietCount x.clk.up ∧ ((quietS 27306).role 11 15).quietCount 27306 < quietThreshold x 11)
    ∧ (let y := ido [(7, { thr with st := .blocked })] (fun c => { c with quietFired := true })
       (y.stall 11).quietTold = false ∧ (∀ c ∈ (y.stall 11).cores, c.2.phys.isSome = true → c.2.quietFired = true ∨ ∀ t ∈ c.2.threads, t.2.enable = false))
    ∧ (15 ∈ ((owedS [16]).stall 11).owed ∧ ((owedS [16]).stall 11).spares = 16 :: [] ∧ ((owedS []).stall 11).spares = [] ∧ 15 ∉ ((quietS 0).stall 11).owed) := by
  repeat' apply And.intro
  all_goals decide +kernel

/-- The owner policy permits debug; thread 7 of the last role is in state `st`. -/
def dbgS (st : TState) : State := { ido [(7, { thr with st := st })] id with boot.policy := 1 }

theorem test_StallCommands_premises :
    (∀ w ∈ [StallState.stopped, .running], let s := { run with ido.stalls := [(11, { st := w })] }
      (let r := rq 0x0B01 (nums [11])
       Takes 0 s r 0x0B01 s none ∧ r.body.length = 8 ∧ num r 0 < 12 ∧ (s.stall 11).st = w)
      ∧ (let r := rq 0x0B03 (nums [11, 15])
         Takes 0 s r 0x0B03 s none ∧ r.body.length = 16 ∧ num r 0 < 12 ∧ num r 1 < 16 ∧ (s.role 11 15).phys.isSome = true))
    ∧ (∀ c ∈ [0x0B04, 0x0B05, 0x0B06, 0x0B07, 0x0B08, 0x0B09, 0x0B0A], Takes 0 run (rq c []) c run none ∧ run.boot.policy.testBit 0 = false)
    ∧ (∀ c ∈ [0x0B04, 0x0B05, 0x0B06, 0x0B07], ∀ st ∈ [TState.ready, .blocked, .stopped, .faulted],
        let r := rq c (nums [11, 15, 7])
        let y := abandonRole (dbgS st) 11 15
        Takes 0 (dbgS st) r c (dbgS st) none ∧ (dbgS st).boot.policy.testBit 0 = true ∧ num r 0 = 11 ∧ num r 1 = 15 ∧ num r 2 = 7 ∧ r.body.length = 24
          ∧ ((dbgS st).role 11 15).phys.isSome = true ∧ (y.thr i7).enable = true ∧ (y.thr i7).st = st) := by
  unfold Takes
  repeat' apply And.intro
  all_goals decide +kernel

theorem test_StallCommands_debug :
    (∀ p ∈ [(0, 0, 0), (3, 1, 0x1FFFC)], let r := rq 0x0B08 (nums [11, 15, p.1, p.2.1, p.2.2])
      Takes 0 (dbgS .ready) r 0x0B08 (dbgS .ready) none ∧ r.body.length = 40 ∧ num r 2 < 4 ∧ num r 3 < 2 ∧ num r 4 % 4 = 0)
    ∧ (∀ p ∈ [(0, 0, 1), (0, 0, 49), (0, 48, 1), (1, 0, 1), (1, 0x1F000, 4096)], let r := rq 0x0B09 (nums [11, 15, 7, p.1, p.2.1, p.2.2])
        let y := abandonRole (dbgS .stopped) 11 15
        Takes 0 (dbgS .stopped) r 0x0B09 (dbgS .stopped) none ∧ r.body.length = 48 ∧ num r 2 < 8 ∧ (y.thr i7).st = .stopped ∧ num r 3 = p.1
          ∧ 1 ≤ num r 5 ∧ (num r 3 = 0 → num r 4 + num r 5 ≤ 49) ∧ (num r 3 = 1 → num r 5 ≤ 4096 ∧ window y i7 (num r 4) (num r 5) = some (scratchBase 11 15 + num r 4)))
    ∧ (∀ p ∈ [(1, 0), (0, 1), (0, 31), (0, 48), (0, 0), (0, 49)], let r := rq 0x0B0A (nums [11, 15, 7, p.1, p.2, 4])
        let y := abandonRole (dbgS .stopped) 11 15
        Takes 0 (dbgS .stopped) r 0x0B0A (dbgS .stopped) none ∧ r.body.length = 48 ∧ num r 3 = p.1 ∧ num r 4 = p.2 ∧ leAt (r.body.drop 40) 0 8 % 4 = 0
          ∧ (num r 3 = 1 → (window y i7 (num r 4) 8).isSome = true)) := by
  unfold Takes
  repeat' apply And.intro
  all_goals decide +kernel

/-! ### Security engines, memories -/

/-- Start of the tenant share: the ring of TF0. -/
def mkt0 : Nat := (marketShare run).1
/-- Job fields: operation, slot, key check, source, destination, lengths. -/
def job (op slot check src dst len aad : Nat) : Bytes :=
  [BitVec.ofNat 8 op, 0] ++ leBytes 2 slot ++ leBytes 4 check ++ leBytes 8 src ++ leBytes 8 dst ++ leBytes 4 len ++ leBytes 4 aad ++ zeros 32
def keyed1 (owner : Nat) : KeySlot := { typ := 1, usage := 1023, owner := owner, id := zeros 32, key := zeros 32 }
/-- TF0's ring of 16 descriptors holds one job; slot 64 holds an AES key of a tenant function, slot 65 an XTS key. -/
def jobS (owner : Nat) (d : Bytes) (prod : Nat) : State :=
  ({ run with sec.rings := [(0, { base := mkt0, count := 16, prod := prod })]
              sec.slots := [(64, keyed1 owner), (65, { keyed1 0 with typ := 2, key := zeros 64 })] } : State).poke (mkt0 + 64) d

theorem test_SecurityJobs_rings :
    (∀ n ∈ [16, 4096], n ∈ (List.range 9).map (fun k => 2 ^ (k + 4)) ∧ tfMarket run (0#12).toNat mkt0 (64 + 64 * n) = true)
    ∧ (15 ∉ (List.range 9).map (fun k => 2 ^ (k + 4)) ∧ 4097 ∉ (List.range 9).map (fun k => 2 ^ (k + 4)) ∧ tfMarket run (0#12).toNat marketBase 1088 = false)
    ∧ (tget? run.sec.rings (4095#12).toNat = none)
    ∧ (let x := jobS 0 (job 0 0 0 0 0 0 0) 0
       tget? x.sec.rings 0 = some { base := mkt0, count := 16, prod := 0 } ∧ leAt (x.peek (mkt0 + 8) 8) 0 8 = 0) := by
  repeat' apply And.intro
  all_goals decide +kernel

/-- A job of no operation, of the last, one with a key of another tenant function; encryption and both tweaked operations. -/
theorem test_SecurityJobs_jobs :
    (∀ p ∈ [(0, 0), (255, 0)], let x := jobS 0 (job p.1 0 0 mkt0 mkt0 0 0) 1
       let d := x.peek (mkt0 + 64) 64
       ringIn x 0 mkt0 16 = true ∧ leAt d 0 1 = p.1 ∧ jobFields x 0 d = false ∧ (runJob x 0 d).status ≠ 0 ∧ (runJob x 0 d).writes.isNone = true)
    ∧ (∀ n ∈ [0, 1], let x := jobS 0 (job 5 0 0 mkt0 (mkt0 + 2048) n 0) 1
       let d := x.peek (mkt0 + 64) 64
       jobFields x 0 d = true ∧ leAt d 0 1 = 5 ∧ (runJob x 0 d).status = 0 ∧ (runJob x 0 d).writes.isSome = true)
    ∧ (∀ op ∈ [1, 2, 3, 4], let x := jobS 0 (job op (if op < 3 then 64 else 65) 0 (mkt0 + 2048) (mkt0 + 4096) 16 0) 1
       let d := x.peek (mkt0 + 64) 64
       jobFields x 0 d = true ∧ leAt d 0 1 = op
         ∧ (match jobKey x 0 (leAt d 2 2) (leAt d 4 4) (if op < 3 then 1 else 2) (if op = 3 ∨ op = 4 then useXts else op - 1) with
            | .inl _ => true
            | .inr _ => false) = true
         ∧ (op ≠ 2 → (runJob x 0 d).status = 0 ∧ (runJob x 0 d).writes.isSome = true))
    ∧ (let x := jobS 1 (job 1 64 0 (mkt0 + 2048) (mkt0 + 4096) 0 0) 1
       let d := x.peek (mkt0 + 64) 64
       (runJob x 0 d).status = mbxAuth ∧ (runJob x 0 d).writes.isNone = true) := by
  repeat' apply And.intro
  all_goals decide +kernel

theorem test_SecurityJobs_keys :
    (slotNameable 8191 = true ∧ ((jobS 0 [] 0).keySlot 8191).typ = 0)
    ∧ (let k := (jobS 0 [] 0).keySlot 64
       slotNameable 64 = true ∧ k.typ ≠ 0 ∧ leAt k.id 0 4 = 0 ∧ leAt k.id 0 4 ≠ 1 ∧ k.typ = 1 ∧ k.owner = 0 ∧ k.owner ≠ 1 ∧ k.usage.testBit 0 = true ∧ k.usage.testBit 9 = true) := by
  repeat' apply And.intro
  all_goals decide +kernel

/-- Slot 64 an exportable key, slot 65 a key that may unwrap alone, slot 66 used by a port, slot 67 by a save. -/
def keysS : State :=
  { run with sec.slots := [(64, { keyed1 0 with flags := 1 }), (65, { keyed1 0 with usage := 16, flags := 1 }), (66, keyed1 0)]
             port.lps := [(0, { tx := { sci := 9, sas := [(0, { keySlot := 66, ssci := 0, salt := [], firstPn := 1, nextPn := 1 })] } })] }

theorem test_KeyCommands_fill :
    (∀ p ∈ [(67, 1, 0, 0, 0), (8191, 3, 1023, 4095, 1)], let r := rq 0x0C01 (nums [p.1, p.2.1, p.2.2.1, p.2.2.2.1, p.2.2.2.2])
      Takes 0 keysS r 0x0C01 keysS none ∧ r.body.length = 40 ∧ 1 ≤ num r 1 ∧ num r 1 ≤ 3 ∧ num r 2 < 1024 ∧ num r 3 < 4096 ∧ num r 4 < 2
        ∧ 64 ≤ num r 0 ∧ num r 0 ≤ 8191 ∧ (keysS.keySlot (num r 0)).typ = 0)
    ∧ (slotNameable 64 = true ∧ (keysS.keySlot 64).typ ≠ 0 ∧ slotNameable 3 = true ∧ slotNameable 4 = false ∧ slotNameable 63 = false ∧ slotNameable 8192 = false)
    ∧ (∀ kek ∈ [64, 65, 66], ∀ typ ∈ [1, 3],
        let w := leBytes 4 0x4B574C41 ++ [BitVec.ofNat 8 typ, 0] ++ leBytes 2 1023 ++ [1, 0, 0, 0] ++ zeros (92 + [0, 32, 64, 4032].getD typ 0)
        let r := rq 0x0C02 (nums [67, kek] ++ w)
        r.body.length ≤ 4184 ∧ ready keysS = true ∧ slotNameable (num r 0) = true ∧ (keysS.keySlot (num r 0)).typ = 0 ∧ slotNameable (num r 1) = true
          ∧ w.length = 0x68 + [0, 32, 64, 4032, 1952].getD (leAt w 4 1) 0 ∧ leAt w 0 4 = 0x4B574C41 ∧ zeroAt w 5 1 = true ∧ leAt w 6 2 < 1024 ∧ leAt w 8 2 < 2
          ∧ zeroAt w 0xA 2 = true ∧ (keysS.keySlot kek).typ = 1 ∧ ((keysS.keySlot kek).usage.testBit 4 = true) ∧ (keysS.keySlot kek).id = slice w 0x18 32)
    ∧ (let w := leBytes 4 0x4B574C41 ++ [1, 0, 0, 0, 0, 0, 0, 0] ++ zeros 12 ++ [1] ++ zeros 111
       (keysS.keySlot 64).id ≠ slice w 0x18 32 ∧ ((keysS.keySlot 67).usage.testBit 4 = false)) := by
  unfold Takes
  repeat' apply And.intro
  all_goals decide +kernel

theorem test_KeyCommands_use :
    (∀ p ∈ [(64, 64), (64, 65), (67, 64)], let r := rq 0x0C03 (nums [p.1, p.2])
      Takes 0 keysS r 0x0C03 keysS none ∧ r.body.length = 16 ∧ slotNameable (num r 0) = true ∧ slotNameable (num r 1) = true
        ∧ (p.1 = 67 → (keysS.keySlot (num r 0)).typ = 0)
        ∧ (p.1 = 64 → (keysS.keySlot (num r 0)).typ ≠ 0 ∧ (keysS.keySlot (num r 0)).flags.testBit 0 = true ∧ (keysS.keySlot (num r 1)).typ = 1
            ∧ (keysS.keySlot (num r 1)).usage.testBit 3 = (p.2 == 64)))
    ∧ (∀ n ∈ [0, 66, 8191], let r := rq 0x0C05 (nums [n])
       Takes 0 keysS r 0x0C05 keysS none ∧ r.body.length = 8 ∧ slotNameable (num r 0) = true ∧ slotInPort keysS (num r 0) = (n == 66) ∧ slotInMove keysS (num r 0) = false)
    ∧ (∀ n ∈ [1, 64], let r := rq 0x0C06 (nums (n :: List.replicate n 64))
       Takes 0 keysS r 0x0C06 keysS none ∧ num r 0 = n ∧ r.body.length = 8 * (num r 0 + 1) ∧ (∀ m ∈ (List.range (num r 0)).map (fun j => num r (1 + j)), slotNameable m = true))
    ∧ (0 ≠ 8191) := by
  unfold Takes
  repeat' apply And.intro
  all_goals decide +kernel

theorem test_AttestCommands_premises :
    (15 < run.sec.mrs.length ∧ run.sec.mlog.length < 4096 ∧ 4096 ≤ ({ run with sec.mlog := List.replicate 4096 (0, [], 0) } : State).sec.mlog.length)
    ∧ (∀ n ∈ [7, 8, 15, 16], let r := rq 0x0C09 (nums [n] ++ zeros 32)
       Takes 0 run r 0x0C09 run none ∧ r.body.length = 40 ∧ num r 0 = n)
    ∧ (Takes 0 run (rq 0x0C07 []) 0x0C07 run none ∧ Takes 0 run (rq 0x0C08 []) 0x0C08 run none)
    ∧ (∀ m ∈ [0, 65535, 65536], let r := rq 0x0C0A (zeros 32 ++ encN m)
       Takes 0 run r 0x0C0A run none ∧ r.body.length = 40 ∧ leAt r.body 32 8 = m) := by
  unfold Takes
  repeat' apply And.intro
  all_goals decide +kernel

theorem test_MemoryErrors_premises :
    (∀ p ∈ [(MemKind.scratch, 11, 15, 0x1FFFF), (.stall, 11, 0, 0x103FFFFF), (.market, 0, 0, marketBase), (.hbm, 0, 0, hbmBase + hbmSize - 1)],
      (wordAddr p.1 p.2.1 p.2.2.1 p.2.2.2).isSome = true ∧ (wordAddr p.1 p.2.1 p.2.2.1 (p.2.2.2 + 0x100000000000)).isNone = true)
    ∧ (let s := { run with mem.poison := [marketBase / 8] }
       marketBase / 8 ∈ s.mem.poison ∧ marketBase / 8 ∉ run.mem.poison)
    ∧ (fixedArea (marketBase + 0x3600000) = true ∧ fixedArea (marketBase + 0x35FFFFF) = false ∧ fixedArea hbmBase = true ∧ fixedArea (hbmBase + 0x80000000) = false)
    ∧ (run.mem.lastxValid = false ∧ ({ run with mem.lastxValid := true } : State).mem.lastxValid = true)
    ∧ (let l (n : Nat) : State := { run with mem.rowErr := [(3, List.replicate n 0)] }
       let len (s : State) : Nat := ((tget s.mem.rowErr 3 []).filter (fun x => decide (s.clk.up < x + 86400000000000)) ++ [s.clk.up]).length
       len (l 14) < 16 ∧ 16 ≤ len (l 15))
    ∧ ((zeros 8).length = 8 ∧ (0 : Nat) ≠ 1) := by
  repeat' apply And.intro
  all_goals decide +kernel

/-! ### Teasel -/

/-- A sweep runs with these units to be tested; first commit at instant 0. -/
def swept (todo : List Nat) (at_ : Nat) : State :=
  { crun with clk.up := at_, tsl.firstCommit := some 0, tsl.sweep := 1, tsl.running := true, tsl.todo := todo, tsl.periodAt := 600000000000 }
def testOf (u : Nat) (f : UnitTest → UnitTest) : UnitTest := f { unit := u, start := 0, at_ := 0 }
def underTest (u : Nat) (f : UnitTest → UnitTest) (at_ : Nat) : State := { swept [] at_ with tsl.cur := some (testOf u f) }

theorem test_TeaselRows_sweeps :
    (crun.phase = .running ∧ teaselOn crun = true ∧ crun.cfg.state = .committed ∧ crun.tsl.restart = none ∧ crun.tsl.running = false ∧ run.cfg.state ≠ .committed)
    ∧ (let s (n at_ : Nat) : State := { crun with tsl.firstCommit := some 0, tsl.sweep := n, clk.up := at_ }
       (s 0 0).tsl.firstCommit = some 0 ∧ 0 + 60000000000 ≤ (s 0 60000000000).clk.up ∧ (s 1 0).tsl.startAt + sweepPeriod (s 1 0) = 600000000000 ∧ (s 1 0).tsl.sweep ≠ 0)
    ∧ (todoNow (swept [] 0) = [] ∧ todoNow (swept [0x2017, 0x1000] 600000000000) = 0x2017 :: [0x1000]
        ∧ (swept [0x2017] 600000000000).tsl.periodAt ≤ (swept [0x2017] 600000000000).clk.up ∧ (swept [0x2017] 599999999999).clk.up < (swept [0x2017] 0).tsl.periodAt)
    ∧ (let s (n : Nat) : State := { run with tsl.burn := [0x2017], fuses.dead := List.replicate n 0x2000 }
       (0x2017#16).toNat ∈ (s 95).tsl.burn ∧ (s 95).fuses.dead.length < 96 ∧ 96 ≤ (s 96).fuses.dead.length ∧ (0x2016#16).toNat ∉ (s 95).tsl.burn) := by
  repeat' apply And.intro
  all_goals decide +kernel

/-- The last sequencer, the first and the last bank of the Market and of HBM, a core that fills a role and a spare one. -/
theorem test_TeaselRows_starts :
    (let x := swept [0x2017] 0
     x.tsl.cur = none ∧ kindOn x (0x2017 / 4096) = true ∧ eligible x 0x2017 = true ∧ 0x2017 ∈ x.tsl.todo ∧ isDead x 0x2017 = false ∧ 0x2017 ∉ x.tsl.asked)
    ∧ (∀ u ∈ [0x3000, 0x30CA, 0x4000, 0x407F], let x := swept [u] 0
       kindOn x (u / 4096) = true ∧ eligible x u = true ∧ (u / 4096 = 3 ∨ u / 4096 = 4) ∧ (bankRole x u).isSome = true ∧ freeSpares x u ≠ [])
    ∧ (∀ u ∈ [0x1000, 0x1010], let x := swept [u] 0
       kindOn x 1 = true ∧ eligible x u = true ∧ u / 4096 = 1 ∧ (coreRoleOf x (u % 4096 / 17) (u % 4096 % 17)).isSome = (u == 0x1000))
    ∧ (crun.tsl.cur = none) := by
  repeat' apply And.intro
  all_goals decide +kernel

theorem test_TeaselRows_ends :
    (∀ c ∈ [testOf 0x2000 id, testOf 0x3000 (fun c => { c with spare := some 0x3010 }), testOf 0x3000 (fun c => { c with spare := some 0x3010, run := 2, failed1 := some 1 })],
      c.copy = 0 ∧ c.retest = false)
    ∧ ((testOf 0x2000 id).run = 1 ∧ (testOf 0x2000 id).spare = none)
    ∧ (let c := testOf 0x2000 (fun c => { c with retest := true, run := 2, failed1 := some 1 })
       c.copy = 0 ∧ c.retest = true ∧ c.run ≠ 1 ∧ c.failed1.isSome = true)
    ∧ (∀ p ∈ [(0x3000, 0x3010, 1710), (0x4000, 0x4080, 10240)], ∀ n ∈ [1, 2],
        let x := underTest p.1 (fun c => { c with spare := some p.2.1, copy := n }) p.2.2
        x.tsl.cur = some (testOf p.1 (fun c => { c with spare := some p.2.1, copy := n })) ∧ (bankRole x p.1).isSome = true
          ∧ 0 + (if p.1 / 4096 = 4 then 10240 else 1710) ≤ x.clk.up ∧ ¬ 0 + (if p.1 / 4096 = 4 then 10240 else 1710) ≤ p.2.2 - 1) := by
  repeat' apply And.intro
  all_goals decide +kernel

theorem test_DeadUnits_premises :
    23 < 24 ∧ isDead run (2 * 4096 + 23) = false ∧ run.fuses.dead.length + run.tsl.burn.length < 96 := by decide +kernel

/-- A unit dead with a list entry and `n` passes. -/
def deadS (u n : Nat) : State := { crun with fuses.dead := [u], tsl.dead := [(u, { role := 0xFFFF, passes := n })] }

theorem test_TeaselCommands_premises :
    (∀ c ∈ [0x0E01, 0x0E05], Takes 0 crun (rq c []) c crun none)
    ∧ (∀ c ∈ [0x0E02, 0x0E03, 0x0E04], ∀ u ∈ [0x1000, 0x10CB, 0x2017, 0x30CB, 0x4083], let r := rq c (nums [u])
        Takes 0 crun r c crun none ∧ r.body.length = 8 ∧ unitKnown (num r 0) = true)
    ∧ (∀ u ∈ [0, 0x10CC, 0x2018, 0x30CC, 0x4084, 0x5000], unitKnown u = false)
    ∧ (teaselOn { crun with cfg.recs := [(cfgKey (itemId 0xE 1 1) 0 0, encN 0)] } = false ∧ teaselOn crun = true)
    ∧ (isDead (deadS 0x2017 0) 0x2017 = true ∧ lastSeq { crun with parse.dead := [18, 19, 20, 21, 22] } 23 = true ∧ isDead crun 0x2017 = false ∧ lastSeq crun 23 = false)
    ∧ (bankRole (abandonTest crun (· == 0x3010)) 0x3010 = none ∧ (bankRole (abandonTest crun (· == 0x3000)) 0x3000).isSome = true ∧ freeSpares (abandonTest crun (· == 0x3000)) 0x3000 ≠ []
        ∧ (let s := deadS 0x3010 0
           freeSpares (abandonTest s (· == 0x3000)) 0x3000 = []))
    ∧ (∀ u ∈ [0x1000, 0x2017, 0x3010, 0x4080],
        (deadS u 16).fuses.dead.filter (fun e => e % 65536 == u) = [u] ∧ 16 ≤ (tget (deadS u 16).tsl.dead u { role := 0 }).passes
          ∧ ¬ 16 ≤ (tget (deadS u 15).tsl.dead u { role := 0 }).passes)
    ∧ ((freeSpares (deadS 0x3010 16) 0x3010).length < 1 ∧ 1 ≤ (freeSpares { deadS 0x300F 16 with tsl.bankMap := [] } 0x300F).length
        ∧ (freeSpares (deadS 0x4080 16) 0x4080).length < 4 ∧ 4 ≤ (freeSpares (deadS 0x4000 16) 0x4000).length) := by
  unfold Takes
  repeat' apply And.intro
  all_goals decide +kernel

/-! ### The Clerk -/

def peer9 : Peer := { host with via := .inband, srcEid := 9 }
/-- A request as it arrives: code, flags, cursor, interface, body. -/
def raw (code flags cursor iface : Nat) (body : Bytes) : Bytes :=
  beBytes 2 0x4D51 ++ beBytes 2 iface ++ beBytes 2 code ++ beBytes 2 flags ++ beBytes 4 1 ++ beBytes 4 body.length ++ beBytes 8 cursor ++ zeros 8 ++ body
/-- The mailbox endpoint holds these slots; senders are listed when `l` is not 0. -/
def mailS (slots : List Nat) (l : Nat) : State :=
  { crun with port.mgmtOnly := false, eht.eps := [(wellKnownEid, { gen := 1, tf := 0, channel := none, sq := none, ringKey := 0, slotSize := 4096, slotCount := 16, slotsUsed := slots })]
              cfg.recs := if l = 0 then [] else [(cfgKey (itemId 2 1 2) 0 0, nums [l, 1])] }

theorem test_RequestsTaken_arrivals :
    (∀ l ∈ [[], List.range 15], peer9.via = .inband ∧ clerkServes (mailS l 0) peer9 = true ∧ (tget? (mailS l 0).eht.eps wellKnownEid).isSome = true
      ∧ ((List.range 16).find? (fun k => !l.contains k)).isSome = true)
    ∧ ((zeros 31).length < 32 ∧ (beAt (zeros 32) 0 2 ≠ 0x4D51))
    ∧ (∀ p ∈ [(0x0101, 0, 0, 0x0302), (0x0101, 1, 0, 0x0300), (0xFFFF, 0, 0, 0x0302), (0x0101, 0, 1, 0x0302)],
       let b := raw p.1 p.2.1 p.2.2.1 p.2.2.2 []
       let q := parseReq peer9 b
       32 ≤ b.length ∧ beAt b 0 2 = 0x4D51 ∧ zeroAt b 0x18 8 = true ∧ beAt b 6 2 ≤ 1 ∧ beAt b 2 1 = 3 ∧ beAt b 0x0C 4 = b.length - 32
         ∧ senderOk (mailS [] 0) peer9 = true ∧ senderOk (mailS [] 9) peer9 = true ∧ senderOk (mailS [] 8) peer9 = false ∧ senderOk (mailS [] 10) peer9 = false
         ∧ (beAt b 6 2 = p.2.1) ∧ (q.cursor = BitVec.ofNat 64 p.2.2.1) ∧ knownCode q.code.toNat = (p.1 == 0x0101))
    ∧ (beAt (raw 0x0101 2 0 0x0302 []) 6 2 = 2 ∧ beAt (raw 0x0101 0 0 0x0402 []) 2 1 = 4) := by
  repeat' apply And.intro
  all_goals decide +kernel

def rsp1 : Rsp := { peer := host, code := 0x0101, tag := 1, status := 0, detail := 0, arg := 0, more := false, cursor := 0, body := [] }
/-- Capture 7 holds `n` bytes of a DEV_INFO result. -/
def capS (n at_ : Nat) : State := { crun with clk.up := at_, mbx.captures := [(7, { code := 0x0101, bytes := zeros n, used := 0 })] }

theorem test_RequestsTaken_work :
    (clerkServes crun host = true ∧ takeReq crun (rq 0x0101 []) true = some (crun, none) ∧ (∀ z ∈ crun.mbx.rsps, sameKey z.peer host z.tag 1 = false)
      ∧ (let s := { crun with mbx.rsps := [rsp1] }
         takeReq s (rq 0x0101 []) true = some (s, none) ∧ s.mbx.rsps.find? (fun k => sameKey k.peer host k.tag 1) = some rsp1))
    ∧ (∀ p ∈ [(0, 4065), (0, 4064), (4064, 8128), (4064, 8129)], let r := { rq 0x0101 [] with cursor := BitVec.ofNat 64 (7 * 2 ^ 32 + p.1) }
       r.cursor ≠ 0#64 ∧ takeReq (capS p.2 0) r false = some (capS p.2 0, none) ∧ r.cursor.toNat / 2 ^ 32 = 7 ∧ r.cursor.toNat % 2 ^ 32 = p.1
         ∧ (tget? (capS p.2 0).mbx.captures 7).map Capture.code = some r.code ∧ p.1 < p.2 ∧ tget? crun.mbx.captures 7 = none)
    ∧ (let s (n : Nat) : State := { crun with clk.up := n, mbx.queue := [{ req := rq 0x0101 [], arrived := 0, replay := false, slot := none }] }
       (s 0).mbx.queue ≠ [] ∧ 0 + 1000000000 ≤ (s 1000000000).clk.up ∧ (s 999999999).clk.up < 0 + 1000000000)
    ∧ ((tget? (capS 9 0).mbx.captures 7).map Capture.used = some 0 ∧ 0 + 60000000000 ≤ (capS 9 60000000000).clk.up ∧ (capS 9 59999999999).clk.up < 0 + 60000000000)
    ∧ (List.replicate 256 rsp1).length ≤ 256 := by
  repeat' apply And.intro
  all_goals decide +kernel

def sideS (b : Bytes) (p : Nat) : State := { crun with mbx.sbReq := b, mbx.sbPtr := p }

theorem test_SidebandWindow_premises :
    (clerkUp State.reset = false ∧ clerkUp crun = true)
    ∧ (∀ b ∈ [zeros 31, zeros 32, raw 0x0101 2 0 0x0302 []], b.length < 32 ∨ beAt b 0 2 ≠ 0x4D51 ∨ headerFault b = true)
    ∧ (let s := { crun with mbx.queue := [{ req := rq 0x0101 [], arrived := 0, replay := false, slot := none }] }
       (∃ q ∈ s.mbx.queue, q.req.peer.via = .sideband) ∧ ({ crun with mbx.sbRsp := some [] } : State).mbx.sbRsp ≠ none)
    ∧ (∀ p ∈ [(0x0101, 0, 0), (0xFFFF, 1, 0), (0xFFFF, 0, 1), (0xFFFF, 0, 0)], let b := raw p.1 p.2.1 p.2.2 0x0302 []
       let r := parseReq sbPeer b
       crun.mbx.queue = [] ∧ crun.mbx.sbRsp = none ∧ 32 ≤ b.length ∧ beAt b 0 2 = 0x4D51 ∧ headerFault b = false
         ∧ (beAt b 6 2 = 1 ∨ r.cursor ≠ 0#64 ∨ knownCode r.code.toNat = true ↔ p ≠ (0xFFFF, 0, 0)))
    ∧ (sbEvent crun = none ∧ (sbEvent (raise crun 0x0205 0 [])).isSome = true)
    ∧ (65536 ≤ (sideS [] 65536).mbx.sbPtr ∧ (sideS [] 65535).mbx.sbPtr < 65536) := by
  repeat' apply And.intro
  all_goals decide +kernel

def subOf (f : Subscriber → Subscriber) : Subscriber :=
  f { ip := 0, eid := 9, gen := 1, lp := 0, mac := 0, mask := 0xFFFFFFFF, next := 0 }
/-- Subscriber 7 has records on the way, to be sent again at instant `d`. -/
def subS7 (d at_ : Nat) : State :=
  { raise crun 0x0205 0 [] with clk.up := at_, mbx.subs := [(7, subOf (fun u => { u with open_ := some (9, 1), retryAt := some d }))] }

theorem test_ClerkBackground_premises :
    (crun.cfg.staging = none ∧ crun.cfg.store = none)
    ∧ (let s (n : Nat) : State := { crun with clk.up := n, cfg.staging := some { id := 1, base := 0, recs := [], at_ := 0 } }
       (s 0).cfg.staging.map Staging.at_ = some 0 ∧ 0 + 600000000000 ≤ (s 600000000000).clk.up ∧ (s 599999999999).clk.up < 0 + 600000000000)
    ∧ (({ crun with cfg.store := some (1, []) } : State).cfg.store = some (1, []))
    ∧ (let s (n : Nat) : State := { crun with clk.up := n }
       (s 0).phase = .running ∧ (s 0).cfg.state = .committed ∧ (s 0).cfgN (itemId 2 1 3) 0 0 1000000000 ≠ 0
         ∧ (s 0).mbx.tallyAt + (s 0).cfgN (itemId 2 1 3) 0 0 1000000000 ≤ (s 1000000000).clk.up ∧ (s 999999999).clk.up < (s 0).mbx.tallyAt + 1000000000)
    ∧ (tget? crun.mbx.subs (7 : Fin 8).val = none)
    ∧ (∀ p ∈ [(5, 4), (5, 5)], let s := subS7 p.1 p.2
       ((tget? s.mbx.subs (7 : Fin 8).val).bind Subscriber.open_).isSome = true ∧ ((tget? s.mbx.subs (7 : Fin 8).val).bind Subscriber.retryAt) = some p.1 ∧ s.clk.up = p.2)
    ∧ (let u := subOf id
       let again (s : State) : List Event := s.mbx.log.filter (fun e => decide (u.next ≤ e.seq) && decide (e.seq ≤ 9) && u.mask.getLsbD (e.code / 256))
       again (subS7 5 5) ≠ [] ∧ again { subS7 5 5 with mbx.log := [] } = []) := by
  repeat' apply And.intro
  all_goals decide +kernel

/-! ### Configuration, events -/

/-- An open staging 7 of base `base` with these records. -/
def staged (base : Nat) (recs : Tab Bytes) : State := { crun with cfg.staging := some { id := 7, base := base, recs := recs, at_ := 0 } }
/-- The Tally interval, 1 s to 100 s, as a record: its item, its value. -/
def ivalRec (v : Nat) : Bytes := leBytes 4 (itemId 2 1 3) ++ zeros 8 ++ leBytes 4 8 ++ encN v

theorem test_ConfigCommands_staging :
    (∀ p ∈ [(0, 0), (1, 1), (1, 0)], let r := rq 0x0201 (nums [p.1, p.2])
      Takes 0 crun r 0x0201 crun none ∧ r.body.length = 16 ∧ num r 0 < 2 ∧ num r 1 < 2 ∧ crun.cfg.staging = none ∧ (staged 0 []).cfg.staging ≠ none)
    ∧ (Takes 0 crun (rq 0x0201 []) 0x0201 crun none ∧ (rq 0x0201 []).body.length ≠ 16)
    ∧ (∀ c ∈ [0x0202, 0x0203, 0x0204], Takes 0 (staged 0 []) (rq c (nums [7, 7])) c (staged 0 []) none)
    ∧ (∀ n ∈ [7, 8], let r := rq 0x0202 (nums [n]); 8 ≤ r.body.length ∧ (leAt r.body 0 4 = 7 ↔ n = 7) ∧ zeroAt r.body 4 4 = true)
    ∧ (match readAll (ivalRec 1000000000) with
       | .inl l => (match putRecs (staged 0 []) 1 [] l with
         | .inl _ => true
         | .inr _ => false)
       | .inr _ => false) = true
    ∧ (match readAll (zeros 15) with
       | .inl _ => none
       | .inr n => some n) = some 1
    ∧ (match readAll (ivalRec 0 ++ zeros 16) with
       | .inl l => (match putRecs (staged 0 []) 1 [] l with
         | .inl _ => none
         | .inr n => some n)
       | .inr _ => none) = some 2
    ∧ (let r := rq 0x0203 (nums [1, 7]); r.body.length = 16 ∧ num r 0 = 1 ∧ num r 1 = 7)
    ∧ (∀ n ∈ [0, 1], let r := rq 0x0203 (nums [0, n]); Takes 0 crun r 0x0203 crun none ∧ r.body.length = 16 ∧ num r 0 = 0 ∧ num r 1 = n)
    ∧ (∀ n ∈ [7, 8], (rq 0x0204 (nums [n])).body.length = 8 ∧ num (rq 0x0204 (nums [n])) 0 = n)
    ∧ (Takes 0 crun (rq 0x0206 []) 0x0206 crun none) := by
  unfold Takes
  repeat' apply And.intro
  all_goals decide +kernel

theorem test_ConfigCommands_commit :
    (∀ b ∈ [nums [7, 0], nums [7, 1] ++ leBytes 4 65535 ++ zeros 4], let r := rq 0x0205 b
      Takes 0 (staged 0 []) r 0x0205 (staged 0 []) none ∧ 16 ≤ r.body.length ∧ num r 0 = 7 ∧ num r 1 < 2 ∧ (tokenZeros (r.body.length + 1) (r.body.drop 16) []).isSome = true)
    ∧ ((staged 0 []).phase = .running ∧ counterNow (staged 0 []) = 0 ∧ (1 : Nat) ≠ counterNow (staged 1 []))
    ∧ validate (staged 0 []) [] = none
    ∧ (let v := [(cfgKey (itemId 2 1 3) 0 0, encN 1)]
       (validate (staged 0 v) v).isSome = true)
    ∧ (State.reset.cfg.state = .empty ∧ State.reset.cfg.state ≠ .committed) := by
  unfold Takes
  repeat' apply And.intro
  all_goals decide +kernel

/-- A stored record of a configuration without records under counter 5 (R348): header, Tally, digests, IV and tag under a key of zeros. -/
def record5 : Bytes :=
  [0x43, 0x45, 0x52, 0x47, 0x46, 0x43, 0x41, 0x4C, 0x01, 0x00, 0x00, 0x00, 0x00, 0x00, 0x00, 0x00, 0x05, 0x00, 0x00, 0x00, 0x00, 0x00, 0x00, 0x00, 0x00, 0x00,
   0x00, 0x00, 0x00, 0x00, 0x00, 0x00, 0x00, 0x00, 0x00, 0x00, 0x00, 0x00, 0x00, 0x00, 0x40, 0x00, 0x00, 0x00, 0x00, 0x00, 0x00, 0x00, 0x00, 0x00, 0x00, 0x00,
   0x00, 0x00, 0x00, 0x00, 0x00, 0x00, 0x00, 0x00, 0x00, 0x00, 0x00, 0x00, 0x4C, 0x41, 0x54, 0x41, 0x4C, 0x4C, 0x59, 0x31, 0x02, 0x00, 0x00, 0x00, 0x00, 0x00,
   0x00, 0x00, 0x01, 0x00, 0x01, 0x04, 0x00, 0x00, 0x00, 0x00, 0x00, 0x00, 0x00, 0x00, 0x08, 0x00, 0x00, 0x00, 0x00, 0x00, 0x00, 0x00, 0x00, 0x00, 0x00, 0x00,
   0x01, 0x00, 0x01, 0x04, 0x01, 0x00, 0x00, 0x00, 0x00, 0x00, 0x00, 0x00, 0x08, 0x00, 0x00, 0x00, 0x00, 0x00, 0x00, 0x00, 0x00, 0x00, 0x00, 0x00, 0x6A, 0x45,
   0x33, 0xC6, 0x4B, 0x7C, 0x8B, 0x5C, 0x6C, 0xC4, 0x6F, 0x6B, 0x57, 0xCC, 0x18, 0xDC, 0x82, 0xC2, 0xAC, 0xCA, 0xEE, 0xCE, 0x1B, 0x33, 0x15, 0x82, 0x14, 0xF9,
   0xEB, 0x23, 0x4A, 0x1C, 0x1E, 0xA6, 0xC3, 0xCC, 0x1E, 0x6F, 0x35, 0x4D, 0x6B, 0xD1, 0x05, 0x76, 0xD4, 0xE1, 0x4C, 0x7B, 0x3B, 0x62, 0xEF, 0xC6, 0xE2, 0x44,
   0x21, 0x8C, 0x73, 0x62, 0xE6, 0xF9, 0xF1, 0x2D, 0x7E, 0xA9, 0x00, 0x00, 0x00, 0x00, 0x00, 0x00, 0x00, 0x00, 0x00, 0x00, 0x00, 0x00, 0xFB, 0xF3, 0x78, 0x82,
   0x9C, 0x8F, 0xF8, 0xE2, 0x2F, 0xC9, 0x27, 0x7E, 0xCF, 0x72, 0xE3, 0x25]
/-- The same with another tag. -/
def record5bad : Bytes := record5.take 204 ++ zeros 16
def area5 (v : Bytes) : AreaRec :=
  { counter := 5, hdr := v.take 64, tally := (v.drop 64).take 64, loc := [], img := [], trailer := (v.drop 128).take 92, half := false }

/-- An area whose bytes are the record. -/
theorem readArea_of (s : State) (a : Nat) (v : Bytes) (hv : v = record5 ∨ v = record5bad)
    (h : ∀ k n, k + n ≤ 220 → flashRead s (areaBase a + k) n = (v.drop k).take n) : readArea s a = area5 v ∧ holdsRecord s a = true := by
  have h0 : flashRead s (areaBase a) 64 = v.take 64 := h 0 64 (by decide)
  have h1 : flashRead s (areaBase a + 64) 64 = (v.drop 64).take 64 := h 64 64 (by decide)
  have h2 : flashRead s (areaBase a + 64 + 64) 92 = (v.drop 128).take 92 := h 128 92 (by decide)
  have h3 : flashRead s (areaBase a) 8 = v.take 8 := h 0 8 (by decide)
  have e1 : leAt (v.take 64) 0x28 8 = 64 := by rcases hv with rfl | rfl <;> decide +kernel
  have e2 : leAt (v.take 64) 0x30 8 = 0 := by rcases hv with rfl | rfl <;> decide +kernel
  have e3 : leAt (v.take 64) 0x38 8 = 0 := by rcases hv with rfl | rfl <;> decide +kernel
  have e4 : leAt (v.take 64) 0x10 8 = 5 := by rcases hv with rfl | rfl <;> decide +kernel
  have e5 : ((v.drop 128).take 92).all (· == 0xFF#8) = false := by rcases hv with rfl | rfl <;> decide +kernel
  have e6 : v.take 8 = encN cfgMagic := by rcases hv with rfl | rfl <;> decide +kernel
  refine ⟨?_, by simp [holdsRecord, h3, e6]⟩
  unfold readArea
  simp only [h0, e1, e2, e3, e4, h1, Nat.add_zero, h2, e5]
  rw [if_neg (by decide)]
  rfl

/-- Flash with the record in area 1, or in both. -/
def in1 (s : State) (v : Bytes) : State := flashWrite s (areaBase 1) v
def in01 (s : State) (v : Bytes) : State := flashWrite (flashWrite s (areaBase 0) v) (areaBase 1) v

theorem area1_of (s : State) (v : Bytes) (hv : v = record5 ∨ v = record5bad) : readArea (in1 s v) 1 = area5 v ∧ holdsRecord (in1 s v) 1 = true := by
  have hl : v.length = 220 := by rcases hv with rfl | rfl <;> decide +kernel
  exact readArea_of _ _ _ hv fun k n h => mreads_mwrites _ _ _ _ _ _ (by omega)

theorem area0_of (s : State) (v : Bytes) (hv : v = record5 ∨ v = record5bad) : readArea (in01 s v) 0 = area5 v ∧ holdsRecord (in01 s v) 0 = true := by
  have hl : v.length = 220 := by rcases hv with rfl | rfl <;> decide +kernel
  refine readArea_of _ _ _ hv fun k n h => ?_
  refine (mreads_mwrites_beside _ _ _ _ _ _ (.inl ?_)).trans (mreads_mwrites _ _ _ _ _ _ (by omega))
  simp only [areaBase]; omega

def recordWhy (x : State × (Tab Bytes ⊕ (Nat × Option CfgFail))) : Nat :=
  match x.2 with
  | .inl _ => 0
  | .inr e => e.1

/-- At the start, from area 1 alone; at a recall, from the older area of two. -/
theorem test_stored_record_good :
    (let s := in1 { gated with boot.inband := true } record5
     s.phase = .starting ∧ s.boot.inband = true ∧ s.boot.decided = false ∧ holdsRecord s 1 = true ∧ recordWhy (checkRecord s 1 true) = 0)
    ∧ (let s := in01 crun record5
       holdsRecord s 0 = true ∧ holdsRecord s 1 = true ∧ recordWhy (checkRecord s 0 true) = 0) := by
  refine ⟨⟨rfl, rfl, rfl, (area1_of _ _ (.inl rfl)).2, ?_⟩, (area0_of _ _ (.inl rfl)).2, ?_, ?_⟩
  · unfold checkRecord; rw [(area1_of _ _ (.inl rfl)).1]; decide +kernel
  · exact (area1_of (flashWrite crun (areaBase 0) record5) _ (.inl rfl)).2
  · unfold checkRecord; rw [(area0_of _ _ (.inl rfl)).1]; decide +kernel

theorem test_stored_record_bad :
    (let s := in1 { gated with boot.inband := true } record5bad
     holdsRecord s 1 = true ∧ recordWhy (checkRecord s 1 true) = 2)
    ∧ (let s := in01 crun record5bad
       holdsRecord s 0 = true ∧ recordWhy (checkRecord s 0 true) = 2 ∧ Takes 0 s (rq 0x0207 []) 0x0207 s none)
    ∧ latestArea crun (holdsRecord crun) = none := by
  refine ⟨⟨(area1_of _ _ (.inr rfl)).2, ?_⟩, ⟨(area0_of _ _ (.inr rfl)).2, ?_, takes_of _ _ (by decide) (by decide)⟩, by decide +kernel⟩
  · unfold checkRecord; rw [(area1_of _ _ (.inr rfl)).1]; decide +kernel
  · unfold checkRecord; rw [(area0_of _ _ (.inr rfl)).1]; decide +kernel

/-! ### Images, keys and slots that pass their checks -/

/-- SHAKE256 of nothing and AES-256-GCM of a block of zeros, as the published test vectors have them; AES-256 of FIPS 197. -/
theorem test_vectors :
    (Crypto.shake256 []).take 8 = [0x46, 0xB9, 0xDD, 0x2B, 0x0B, 0xA8, 0x8D, 0x13]
    ∧ (Crypto.gcmEncrypt (zeros 32) (zeros 12) [] (zeros 16)).1.take 4 = [0xCE, 0xA7, 0x40, 0x3D]
    ∧ (Crypto.gcmEncrypt (zeros 32) (zeros 12) [] (zeros 16)).2.take 4 = [0xD0, 0xD1, 0xC8, 0xA7]
    ∧ Crypto.aesDec (Crypto.roundKeys (List.range 32)) [0x8E, 0xA2, 0xB7, 0xCA, 0x51, 0x67, 0x45, 0xBF, 0xEA, 0xFC, 0x49, 0x90, 0x4B, 0x49, 0x60, 0x89]
        = (List.range 16).map (0x11 * ·)
    ∧ (∀ a ∈ [0, 1, 0x53, 0xCA, 0xFF], Crypto.sbox a = Crypto.sboxOf a ∧ Crypto.invSbox (Crypto.sbox a) = a) := by
  repeat' apply And.intro
  all_goals decide +kernel

/-- A public key, its digest (from another implementation of SHAKE256) and a slot's header: two empty sections, a loader and a
Clerk image. -/
def pub1 : Bytes := List.replicate 1952 1
def pubId : Bytes :=
  [0x29, 0x50, 0x87, 0x66, 0x4A, 0x90, 0x04, 0x80, 0xAF, 0x5F, 0xDC, 0xA8, 0x33, 0x12, 0x78, 0x57, 0xA6, 0xBB, 0x23, 0x4E, 0x19, 0x1B, 0x9B, 0x59, 0xE9, 0x0C, 0x07, 0x7A, 0x16, 0xDA, 0xD0, 0x90]
/-- The digest of nothing. -/
def noneId : Bytes :=
  [0x46, 0xB9, 0xDD, 0x2B, 0x0B, 0xA8, 0x8D, 0x13, 0x23, 0x3B, 0x3F, 0xEB, 0x74, 0x3E, 0xEB, 0x24, 0x3F, 0xCD, 0x52, 0xEA, 0x62, 0xB8, 0x1B, 0x82, 0xB5, 0x0C, 0x27, 0x64, 0x6E, 0xD5, 0x76, 0x2F]
def section_ (typ : Nat) : Bytes := leBytes 2 typ ++ zeros 6 ++ encN 0x2000 ++ zeros 16 ++ noneId
def slotHead : Bytes :=
  leBytes 4 0x544F4F42 ++ (leBytes 4 0x20001 ++ (leBytes 4 0xB0 ++ (leBytes 4 9 ++ (zeros 16 ++ (pubId ++ (pub1 ++ (section_ 1 ++ (section_ 2
    ++ zeros (0x2000 - 0x860)))))))))
theorem read_back (s : State) (a n : Nat) (v : Bytes) (h : v.length = n) : flashRead (flashWrite s a v) a n = v := by
  have e := mreads_mwrites 0xFF#8 s.mem.flash a v n 0 (by omega)
  rw [Nat.add_zero, List.drop_zero, ← h, List.take_length] at e
  exact h ▸ e

theorem slot_header (s : State) : slotHeader (flashWrite s (slotBase .a) slotHead) .a = slotHead :=
  read_back _ _ _ _ (by decide +kernel)

def allSigs : SlotSigs := { slot := true, patch := true, owner := true }

theorem head_ok : headerOk 0x544F4F42 slotSize slotHead = true := by decide +kernel
theorem head_sections : sections slotHead
    = [{ typ := 1, off := 0x2000, len := 0, digest := noneId }, { typ := 2, off := 0x2000, len := 0, digest := noneId }] := by decide +kernel
theorem head_order : slotOrderOk
    [{ typ := 1, off := 0x2000, len := 0, digest := noneId }, { typ := 2, off := 0x2000, len := 0, digest := noneId }] = true := by decide
theorem head_key : slice slotHead 0x20 32 = pubId ∧ Crypto.shake256 (slice slotHead 0x40 1952) = pubId := by
  constructor
  all_goals decide +kernel
theorem head_version : secVersion slotHead = 9 := by decide +kernel
theorem no_digest (s : State) (b : Nat) (e : Section) (h : e.len = 0) : Crypto.shake256 (sectionBytes s b e) = noneId := by
  have : sectionBytes s b e = [] := by rw [sectionBytes, h]; rfl
  rw [this]; decide +kernel

/-- A state whose slot A holds the header passes when its roots hold the key, live, and its minimum is met. -/
theorem slot_passes {s : State} (hh : slotHeader s .a = slotHead) {k : Nat} (hr : rootAt s pubId = some k) (hl : s.fuses.revoked.getLsbD k = false)
    (hm : bootMin s ≤ 9) : slotReason s .a allSigs = 0 := by
  have e1 : romReason s .a allSigs = 0 := by
    simp [romReason, hh, head_ok, head_order, headerRoot, head_key.1, head_key.2, hr, allSigs, hl, head_version, Nat.not_lt.2 hm, head_sections,
      no_digest]
  have e2 : vendorReason s (slotBase .a) ((sections (slotHeader s .a)).tail.filter (fun e => e.typ != 5)) = 0 := by
    simp [hh, head_sections, vendorReason, no_digest]
  have e4 : slotSections s .a 4 = [] := by simp [slotSections, hh, head_sections]
  have e5 : slotSections s .a 5 = [] := by simp [slotSections, hh, head_sections]
  unfold slotReason patchCheck ownerCheck
  simp [e1, e2, e4, e5]

/-- At the verdict of slot A, whose flash holds the header; the first vendor root is its key. -/
def slotBare : State :=
  { clockd with boot.stage1 := true, boot.trying := some .a, boot.tried := [.a], fuses.roots := [pubId, zeros 32, zeros 32, zeros 32] }
def slotS : State := flashWrite slotBare (slotBase .a) slotHead

theorem test_StartBegins_pass :
    slotS.phase = .starting ∧ slotS.boot.gate = false ∧ slotS.boot.trying = some .a ∧ slotReason (restoreKeys slotS) .a allSigs = 0 := by
  have hh : slotHeader (restoreKeys slotS) .a = slotHead := slot_header slotBare
  exact ⟨rfl, rfl, rfl, slot_passes (k := 0) hh (by decide +kernel) (by decide +kernel) (by decide +kernel)⟩

/-- An anti-rollback record of fuse count 0 that names an owner digest of bytes `w`, sealed under a key of zeros. -/
def arRec0 : Bytes :=
  [65, 77, 73, 78, 1, 0, 0, 0, 1, 0, 0, 0, 0, 0, 0, 0, 0, 0, 0, 0, 0, 0, 0, 0, 0,
   0, 0, 0, 0, 0, 0, 0, 0, 0, 0, 0, 0, 0, 0, 0, 0, 0, 0, 0, 0, 0, 0, 0, 0, 0,
   0, 0, 0, 0, 0, 0, 0, 0, 0, 0, 0, 0, 0, 0, 0, 0, 0, 0, 0, 0, 0, 0, 0, 0, 0,
   0, 0, 0, 0, 0, 0, 0, 0, 0, 75, 6, 55, 86, 166, 245, 32, 193, 253, 160, 184, 28, 29, 4, 245, 53]
def arRec1 : Bytes :=
  [65, 77, 73, 78, 1, 0, 0, 0, 1, 0, 0, 0, 0, 0, 0, 0, 0, 0, 0, 0, 0, 0, 0, 0, 0,
   0, 0, 0, 0, 0, 0, 0, 0, 0, 0, 0, 0, 0, 0, 0, 1, 1, 1, 1, 1, 1, 1, 1, 1, 1,
   1, 1, 1, 1, 1, 1, 1, 1, 1, 1, 1, 1, 1, 1, 1, 1, 1, 1, 1, 1, 1, 1, 0, 0, 0,
   0, 0, 0, 0, 0, 0, 0, 0, 0, 109, 113, 201, 43, 173, 52, 175, 35, 139, 4, 37, 212, 207, 22, 87, 180]
def arRec (w : Byte) : Bytes := if w = 0 then arRec0 else arRec1

theorem read_beside (s : State) (a : Nat) (v : Bytes) (b n : Nat) (h : b + n ≤ a ∨ a + v.length ≤ b) :
    flashRead (flashWrite s a v) b n = flashRead s b n := mreads_mwrites_beside _ _ _ _ _ _ h

theorem erased (s : State) (b n : Nat) (h : s.mem.flash = []) : flashRead s b n = List.replicate n 0xFF := by
  unfold flashRead
  rw [h]
  induction n generalizing b with
  | zero => rfl
  | succ n ih => rw [mreads, ih, List.replicate_succ]; rfl

theorem chooseAr_of_one {s : State} {b : Bytes} (h : [0, 1].filterMap (readAr s) = [b]) (hf : arFuse b = s.fuses.count) :
    chooseAr s = some (b, false) := by
  simp [chooseAr, h, hf]

theorem arRec_length (w : Byte) (hw : w = 0 ∨ w = 1) : (arRec w).length = 100 := by rcases hw with rfl | rfl <;> decide +kernel

/-- The part whose record is that one. -/
def arS (w : Byte) : State := flashWrite clockd (arBase 0) (arRec w)

theorem ar_chosen (w : Byte) (hw : w = 0 ∨ w = 1) : chooseAr (arS w) = some (arRec w, false) := by
  have h0 : flashRead (arS w) (arBase 0) arSize = arRec w := read_back _ _ _ _ (arRec_length w hw)
  have h1 : flashRead (arS w) (arBase 1) arSize = List.replicate 100 0xFF :=
    (read_beside _ _ _ _ _ (.inr (by rw [arRec_length w hw]; decide))).trans (erased _ _ _ rfl)
  have r0 : readAr (arS w) 0 = some (arRec w) := by
    unfold readAr; rw [h0]; rcases hw with rfl | rfl <;> decide +kernel
  have r1 : readAr (arS w) 1 = none := by
    unfold readAr; rw [h1]; exact if_neg fun h => absurd h.1 (by decide +kernel)
  refine chooseAr_of_one (by rw [List.filterMap_cons_some r0, List.filterMap_cons_none r1]; rfl) ?_
  rcases hw with rfl | rfl <;> decide +kernel

/-- The first record up to its owner digest. -/
def firstHead : Bytes := leBytes 4 arMagic ++ leBytes 2 1 ++ List.replicate 0x22 0
theorem firstAr_parts : firstAr = firstHead ++ (Crypto.shake256 emptyOwner ++ List.replicate 28 0) := by
  rw [firstAr, firstHead]; simp only [List.append_assoc]
theorem firstHead_length : firstHead.length = 40 := by decide
theorem slice_middle (a b c : Bytes) (n m : Nat) (ha : a.length = n) (hb : b.length = m) : slice (a ++ (b ++ c)) n m = b := by
  rw [slice, List.drop_left' ha, List.take_left' hb, hb]; simp

theorem firstAr_digest : slice firstAr 0x28 32 = Crypto.shake256 emptyOwner := by
  rw [firstAr_parts]; exact slice_middle _ _ _ _ _ firstHead_length (Crypto.shake256_length _)

theorem chooseOwner_some {s : State} {ar : Bytes} (e : ar = firstAr) (h : slice ar 0x28 32 = Crypto.shake256 emptyOwner) :
    ∃ own, chooseOwner s ar = some own := by
  delta chooseOwner
  extract_lets want
  generalize List.find? _ _ = r
  cases r with
  | some b => exact ⟨b, rfl⟩
  | none => refine ⟨emptyOwner, ?_⟩; rw [Option.none_or, if_pos (And.intro h.symm e)]

theorem chooseOwner_none {s : State} {ar w : Bytes} (n : ar ≠ firstAr) (e : slice ar 0x28 32 = w)
    (h : ∀ c, Crypto.shake256 (flashRead s (ownBase c) ownSize) ≠ w) : chooseOwner s ar = none := by
  delta chooseOwner
  extract_lets want
  generalize hr : List.find? _ _ = r
  cases r with
  | some b =>
    obtain ⟨c, _, rfl⟩ := List.mem_map.1 (List.mem_of_find?_eq_some hr)
    have := List.find?_some hr
    exact absurd ((beq_iff_eq.1 this).trans e) (h c)
  | none => rw [Option.none_or, if_neg (fun x : _ ∧ _ => n x.2)]

theorem arRec_parts (w : Byte) (hw : w = 0 ∨ w = 1) : arRec w ≠ firstAr ∧ slice (arRec w) 0x28 32 = List.replicate 32 w := by
  have e : slice (arRec w) 0x28 32 = List.replicate 32 w := by rcases hw with rfl | rfl <;> decide +kernel
  have m : (arRec w).take 40 ≠ firstHead := by rcases hw with rfl | rfl <;> decide +kernel
  exact ⟨fun h => by rw [h, firstAr_parts, List.take_left' firstHead_length] at m; exact m rfl, e⟩

/-- The first record, whose owner copy is found or empty. -/
theorem test_StartBegins_owner : chooseAr clockd = some (firstAr, true) ∧ ∃ own, chooseOwner clockd firstAr = some own :=
  ⟨(chooseAr_of_none (s := clockd) (by decide +kernel)).trans (if_pos (by decide)), chooseOwner_some rfl firstAr_digest⟩

/-- A record whose owner copy is missing. -/
theorem test_StartBegins_no_owner : ∃ w, chooseAr (arS w) = some (arRec w, false) ∧ chooseOwner (arS w) (arRec w) = none := by
  have hc (w : Byte) (hw : w = 0 ∨ w = 1) (c : Nat) : flashRead (arS w) (ownBase c) ownSize = List.replicate ownSize 0xFF :=
    (read_beside _ _ _ _ _ (.inr (by rw [arRec_length w hw]; simp only [arBase, ownBase]; omega))).trans (erased _ _ _ rfl)
  have key (w : Byte) (hw : w = 0 ∨ w = 1) (hs : Crypto.shake256 (List.replicate ownSize 0xFF) ≠ List.replicate 32 w) :
      chooseAr (arS w) = some (arRec w, false) ∧ chooseOwner (arS w) (arRec w) = none :=
    ⟨ar_chosen w hw, chooseOwner_none (arRec_parts w hw).1 (arRec_parts w hw).2 fun c => by rw [hc w hw]; exact hs⟩
  by_cases hs : Crypto.shake256 (List.replicate ownSize 0xFF) = List.replicate 32 0
  · exact ⟨1, key 1 (.inr rfl) (by rw [hs]; decide)⟩
  · exact ⟨0, key 0 (.inl rfl) hs⟩

/-- TF 1 under restore from these parts, under these records. -/
def mvS (recs : Tab Bytes) (parts : List (Nat × Bytes)) : State :=
  { moving .restoring with
    cfg.recs := recs, tfs := [(0, { st := .enabled }), (1, { st := .restoring, restore := some { slot := 64, book := 0, mapKey := 0, mapAddr := 0, mapLen := 0, left := 0, parts := parts } })] }
/-- A blob that carries one endpoint, sealed under a key of zeros. -/
def blob5 : Bytes :=
  [84, 70, 77, 66, 1, 0, 0, 0, 0, 0, 0, 0, 0, 0, 0, 0, 1, 0, 0, 0, 2, 0, 0, 0, 0, 0, 0, 0, 0, 0,
   0, 0, 0, 0, 0, 0, 0, 0, 0, 0, 64, 1, 0, 0, 0, 0, 0, 0, 0, 0, 0, 0, 0, 0, 0, 0, 0, 0, 0, 0,
   0, 0, 0, 0, 0, 0, 0, 0, 0, 0, 0, 0, 0, 0, 0, 0, 0, 0, 0, 0, 0, 0, 0, 0, 0, 0, 0, 0, 0, 0,
   0, 0, 0, 0, 0, 0, 11, 149, 95, 159, 87, 126, 86, 114, 137, 208, 49, 135, 111, 9, 15, 169, 0, 0, 0, 0, 0, 0, 0, 0,
   0, 0, 0, 0, 0, 0, 0, 0, 91, 213, 168, 54, 98, 109, 81, 158, 26, 238, 55, 156, 138, 23, 30, 8, 82, 126, 32, 2, 182, 237,
   65, 150, 181, 63, 254, 115, 77, 83, 154, 186, 207, 167, 64, 61, 86, 96, 107, 110, 223, 78, 197, 211, 186, 243, 157, 24, 115, 96, 3, 202,
   55, 166, 42, 116, 209, 162, 245, 142, 117, 6, 53, 142, 221, 74, 177, 40, 77, 74, 225, 123, 65, 232, 89, 36, 71, 12, 54, 247, 71, 65,
   203, 225, 129, 187, 127, 48, 97, 124, 29, 227, 171, 12, 58, 31, 208, 196, 143, 115, 33, 168, 45, 55, 96, 149, 172, 224, 65, 145, 103, 160] ++ [
   188, 175, 73, 176, 192, 206, 166, 45, 230, 188, 28, 102, 84, 94, 29, 173, 171, 250, 119, 205, 110, 133, 218, 36, 95, 176, 189, 197, 229, 44,
   252, 41, 186, 10, 225, 171, 40, 55, 224, 243, 99, 135, 183, 14, 147, 23, 96, 18, 67, 98, 194, 187, 102, 216, 244, 177, 55, 252, 232, 52,
   44, 156, 211, 134, 161, 20, 66, 150, 226, 114, 104, 168, 229, 13, 245, 55, 168, 5, 213, 121, 187, 33, 235, 189, 243, 87, 237, 52, 191, 88,
   181, 131, 113, 80, 221, 202, 243, 98, 34, 94, 98, 10, 96, 112, 172, 94, 245, 41, 251, 82, 36, 102, 118, 139, 120, 192, 75, 84, 229, 30,
   245, 250, 7, 229, 6, 163, 95, 198, 176, 183, 16, 36, 156, 134, 38, 225, 169, 106, 213, 120, 40, 215, 190, 46, 20, 144, 160, 90, 124, 238,
   67, 189, 235, 139, 86, 227, 8, 220, 1, 38, 6, 214, 223, 110, 130, 193, 191, 199, 47, 89, 173, 83, 169, 192, 228, 52, 124, 108, 82, 120,
   80, 121, 64, 167, 223, 246, 186, 147, 232, 182, 175, 30, 70, 83, 114, 118, 97, 27, 199, 102, 149, 92, 88, 125, 48, 27, 168, 71, 172, 217,
   221, 167, 138, 67, 142, 44, 11, 105, 213, 20, 116, 76, 114, 211, 79, 50, 107, 155, 126, 243, 66, 134, 202, 14, 248, 167, 234, 224, 110, 190]
/-- What it carries: no use of quotas but one endpoint, and the endpoint. -/
def plain5 : Bytes :=
  leBytes 4 1 ++ (leBytes 4 27 ++ (encN 216 ++ (encN 1 ++ (zeros 208 ++ (leBytes 4 2 ++ (leBytes 4 1 ++ (encN 72 ++ (encN 5 ++ (encN 1 ++ (encN 1
    ++ (zeros 17 ++ ([16] ++ (zeros 6 ++ (encN 1 ++ zeros 16))))))))))))))
def blobIs : Blob := (rdAll (rdSections 2 {}) plain5).getD {}

theorem openBlob_of {s : State} {slot : Nat} {b p : Bytes} {x : Blob}
    (h1 : ¬ (b.length < 160 ∨ leAt b 0 4 ≠ blobMagic ∨ leAt b 4 2 ≠ 1 ∨ leAt b 6 2 ≠ 0 ∨ !zeroAt b 0x12 2 ∨ !zeroAt b 0x22 6 ∨ !zeroAt b 0x5C 4
      ∨ !zeroAt b 0x70 16 ∨ b.length < 160 + leAt b 0x28 8)) (h2 : slice b 0x30 32 = padTo 32 (s.keySlot slot).id)
    (h3 : Crypto.gcmDecrypt (s.keySlot slot).key (slice b 0x50 12) (b.take 0x60) ((b.drop 160).take (leAt b 0x28 8)) (slice b 0x60 16) = some p)
    (h4 : Crypto.shake256 (b.take 0x60 ++ p) = slice b 0x80 32) (h5 : rdAll (rdSections (leAt b 0x14 4) {}) p = some x) : openBlob s slot b = .inl x := by
  simp only [openBlob, if_neg h1, h2, h3, h4, h5, ne_eq, not_true_eq_false, if_false]

theorem blob5_opens (r : Tab Bytes) : openBlob (noteUse (mvS r []) 64) 64 blob5 = .inl blobIs := by
  refine openBlob_of (p := plain5) ?_ ?_ ?_ ?_ ?_
  · decide +kernel
  · exact (by decide +kernel : slice blob5 0x30 32 = padTo 32 (zeros 32))
  · exact (by decide +kernel : Crypto.gcmDecrypt (zeros 32) (slice blob5 0x50 12) (blob5.take 0x60) ((blob5.drop 160).take (leAt blob5 0x28 8)) (slice blob5 0x60 16) = some plain5)
  · decide +kernel
  · have h : (rdAll (rdSections (leAt blob5 0x14 4) {}) plain5).isSome = true := by decide +kernel
    rw [blobIs, show (2 : Nat) = leAt blob5 0x14 4 by decide +kernel]
    cases hx : rdAll (rdSections (leAt blob5 0x14 4) {}) plain5 with
    | none => rw [hx] at h; cases h
    | some y => rfl

theorem test_TenantMoves_blob :
    (let r := [(cfgKey (itemId 0xA 1 1) 1 0, encN 2), (cfgKey (itemId 0xA 1 4) 1 0, encN 1)]
     blobFails (noteUse (mvS r []) 64) 1 blobIs = none)
    ∧ blobFails (noteUse (mvS [] []) 64) 1 blobIs = some mbxNospace
    ∧ ((mvS [] [(0, blob5)]).tf 1).restore.map (fun o => o.parts.flatMap Prod.snd) = some blob5 := by
  repeat' apply And.intro
  all_goals decide +kernel

/-- An owner key enrolled at position 0; slot 0 holds the patch key. -/
def owned : State :=
  { rooted with boot.owner := zeros 6 ++ (leBytes 2 1 ++ (zeros 8 ++ (pub1 ++ zeros (0x1EF0 - 1968)))), sec.slots := [(0, keyed1 0)] }
def zeroDigest24 : Bytes :=
  [0x5A, 0xBC, 0x9B, 0xCB, 0xD9, 0x93, 0x7E, 0x33, 0xE2, 0xD1, 0x7E, 0x48, 0xA9, 0x05, 0x53, 0x4D, 0x5A, 0x2E, 0x1B, 0xC3, 0xDC, 0x6C, 0x98, 0xD1, 0x32, 0xDF, 0xF3, 0xDE, 0xAB, 0xAF, 0x35, 0x9F]
def loads (x : Checked) : Bool :=
  match x with
  | .inr _ => true
  | .inl _ => false

theorem test_ImagesLoaded_extension_good :
    let b := image 2 1 0x4400 pubId (zeros 12) (zeros 16) zeroDigest24 (zeros 24)
    ownerKnows owned (slice b 0x18 32) = true ∧ ownerMin owned ≤ leAt b 0xC 4 ∧ loads (checkImage owned 2 b true) = true := by
  repeat' apply And.intro
  all_goals decide +kernel

theorem test_ImagesLoaded_patch_good :
    let e := Crypto.gcmEncrypt (zeros 32) (zeros 12) [] (zeros 24)
    let b := image 1 1 0x4000 someId (zeros 12) e.2 zeroDigest24 e.1
    rootLive owned (slice b 0x18 32) = true ∧ loads (checkImage owned 1 b true) = true := by
  repeat' apply And.intro
  all_goals decide +kernel

/-- A wrapped AES key of zeros under the key of slot 65, and a public key of zeros in the clear; their digests from another implementation. -/
def wrapped : Bytes :=
  let h := leBytes 4 0x4B574C41 ++ ([1, 0, 0xFF, 3, 1, 0, 0, 0] ++ (zeros 12 ++ (zeros 32 ++
    ([0x3E, 0x0D, 0x58, 0xB4, 0x4B, 0xFD, 0x09, 0x9D, 0x21, 0xDA, 0xC3, 0x36, 0xE7, 0xBB, 0x1B, 0x83, 0xCD, 0xD9, 0xF7, 0xD0, 0x66, 0x26, 0x70, 0xC0, 0x06, 0x94, 0xA9, 0x6F, 0x03, 0x16, 0x74, 0x32] : Bytes))))
  let e := Crypto.gcmEncrypt (zeros 32) (zeros 12) h (zeros 32)
  h ++ (e.2 ++ e.1)
def public0 : Bytes :=
  leBytes 4 0x4B574C41 ++ ([4, 0, 0, 1, 0, 0, 0, 0] ++ (zeros 12 ++ (zeros 32 ++
    (([0xE0, 0x19, 0xE6, 0x7A, 0x77, 0xCB, 0x2E, 0x66, 0x52, 0x1C, 0xED, 0x71, 0x55, 0xFF, 0xBB, 0x97, 0x12, 0xB7, 0x73, 0x9F, 0xD2, 0xBE, 0xB6, 0x49, 0x3D, 0x8A, 0xE6, 0x73, 0x52, 0x9C, 0xD5, 0x00] : Bytes) ++ (zeros 16 ++ zeros 1952)))))

theorem test_KeyCommands_import :
    (let k := keysS.keySlot 65
     let w := wrapped
     w.length = 0x68 + 32 ∧ leAt w 4 1 = 1 ∧ k.typ = 1 ∧ k.usage.testBit 4 = true ∧ k.id = slice w 0x18 32
       ∧ Crypto.gcmDecrypt k.key (slice w 0xC 12) (slice w 0 0x58) (w.drop 0x68) (slice w 0x58 16) = some (zeros 32) ∧ keyId 1 (zeros 32) = slice w 0x38 32)
    ∧ (let w := public0
       w.length = 0x68 + 1952 ∧ leAt w 4 1 = 4 ∧ leAt w 6 2 = 256 ∧ zeroAt w 0x18 32 = true ∧ keyId 4 (w.drop 0x68) = slice w 0x38 32)
    ∧ (Takes 0 keysS (rq 0x0C02 (nums [67, 65] ++ wrapped)) 0x0C02 keysS none) := by
  refine ⟨?_, ?_, takes_of _ _ (by decide) (by decide +kernel)⟩
  all_goals
    repeat' apply And.intro
    all_goals decide +kernel

/-! ### Events, controlled commands, secure start -/

theorem test_EventCommands_premises :
    (∀ c ∈ [0x0101, 0x0104, 0x0208], Takes 0 crun (rq c []) c crun none)
    ∧ (∀ n ∈ [0, 8], let s := { crun with port.lps := [(15, {})], mbx.subs := (List.range n).map (fun k => (k, subOf id)) }
       let r := rq 0x0301 (zeros 16 ++ nums [2 ^ 32 - 1, 65535, if s.lpPresent 15 then 15 else 0] ++ zeros 6 ++ nums [2 ^ 32 - 1])
       Takes 0 s r 0x0301 s none ∧ r.body.length = 54 ∧ leAt r.body 16 8 < 2 ^ 32 ∧ leAt r.body 24 8 < 65536 ∧ s.lpPresent (leAt r.body 32 8) = true
         ∧ leAt r.body 46 8 < 2 ^ 32 ∧ (n = 8 → ∀ k < 8, tget? s.mbx.subs k ≠ none) ∧ (n = 0 → tget? s.mbx.subs 0 = none))
    ∧ (∀ n ∈ [0, 7], let s := { crun with mbx.subs := [(7, subOf id)] }
       let r := rq 0x0302 (nums [n])
       Takes 0 s r 0x0302 s none ∧ r.body.length = 8 ∧ (tget? s.mbx.subs (num r 0) ≠ none ↔ n = 7))
    ∧ (∀ n ∈ [0, 1], let s := { raise (raise crun 0x0205 0 []) 0x0205 0 [] with mbx.subs := [] }
       let y := { s with mbx.log := s.mbx.log.drop 1 }
       let r := rq 0x0303 (nums [n])
       Takes 0 y r 0x0303 y none ∧ r.body.length = 8 ∧ (y.mbx.log.map Event.seq).head?.map (fun q => decide (num r 0 < q)) = some (n == 0)) := by
  unfold Takes
  repeat' apply And.intro
  all_goals decide +kernel

/-- A trailer: position, CONTROL_COUNT, a signature. -/
def trailer (pos count : Nat) : Bytes := [BitVec.ofNat 8 pos, 0, 0, 0, 0, 0, 0, 0] ++ (encN count ++ zeros 3309)

theorem test_ControlledCommands_premises :
    (anyOwner run = false ∧ host.via = .sideband ∧ peer9.via = .inband ∧ anyOwner owned = true)
    ∧ ((zeros 3324).length < 3325)
    ∧ (∀ p ∈ [(0, 0), (3, 0), (4, 0), (0, 1)], let b := encN 7 ++ trailer p.1 p.2
       3325 ≤ b.length ∧ zeroAt (b.drop (b.length - 3325)) 1 7 = true ∧ leAt (b.drop (b.length - 3325)) 0 1 = p.1 ∧ leAt (b.drop (b.length - 3325)) 8 8 = p.2)
    ∧ (ownerEnrolled owned 0 = true ∧ ownerEnrolled owned 3 = false ∧ controlCount owned = 0) := by
  repeat' apply And.intro
  all_goals decide +kernel

/-- No owner key is enrolled: a sideband body comes without a trailer. -/
theorem test_controlled_open (sig : Bool) (b : Bytes) : ∀ h : State → Peer → Bytes → Res, controlled sig h run (rq 0x0D04 b) = h run host b := fun _ => rfl

/-- Slot A under trial, from the flag written first. -/
def trial (st : Nat) : State := { writeFlag run .a st 10 with boot.trialEnd := some 10 }

theorem test_BootCommands_images :
    (Takes 0 run (rq 0x0D01 []) 0x0D01 run none ∧ Takes 0 run (rq 0x0D03 []) 0x0D03 run none)
    ∧ (∀ p ∈ [(0, 0), (0, 1), (40 * 2 ^ 20 - 1, 1), (40 * 2 ^ 20, 1)], let r := rq 0x0D02 (nums [p.1] ++ zeros p.2)
       Takes 0 run r 0x0D02 run none ∧ 8 ≤ r.body.length ∧ r.body.length ≤ 1040392 ∧ num r 0 = p.1
         ∧ (40 * 2 ^ 20 < num r 0 + (r.body.drop 8).length ↔ p.1 = 40 * 2 ^ 20))
    ∧ ((latestFlag (trial 1)).map Flag.st = some 1 ∧ latestFlag run = none)
    ∧ (Takes 0 run (rq 0x0D05 []) 0x0D05 run none ∧ run.boot.trialEnd = none)
    ∧ (let s := trial 2
       Takes 0 s (rq 0x0D05 []) 0x0D05 s none ∧ s.boot.trialEnd = some 10 ∧ s.boot.booted = some .a ∧ (latestFlag s).isSome = true) := by
  refine ⟨⟨takes_of _ _ (by decide) test_ready.1, takes_of _ _ (by decide) test_ready.1⟩, ?_⟩
  unfold Takes
  repeat' apply And.intro
  all_goals decide +kernel

theorem test_BootCommands_controlled :
    (∀ v ∈ [false, true], ∀ e ∈ [none, some 5], ∀ p ∈ [(0, 1), (1, 60)], let b := nums [p.1, p.2]
      let s := { run with boot.verified := v, boot.trialEnd := e }
      ready s = true ∧ b.length = 16 ∧ leAt b 0 8 < 2 ∧ 1 ≤ leAt b 8 8 ∧ leAt b 8 8 ≤ 60 ∧ s.boot.verified = v ∧ s.boot.trialEnd = e)
    ∧ (let b := nums [1]; b.length = 8 ∧ leAt b 0 8 < 2)
    ∧ (∀ k ∈ [0, 1, 2], let b := nums [k, 2]
       let s := { run with boot.booted := none, boot.patchImage := zeros 12 ++ leBytes 4 2, boot.ar := zeros 8 ++ nums [0x100000001, 1] }
       ready s = true ∧ b.length = 16 ∧ leAt b 0 8 = k ∧ k < 3 ∧ (minLimits s k).1 < 2 ∧ 2 ≤ (minLimits s k).2 ∧ s.fuses.count < 256 ∧ 1 ≤ (minLimits s k).1)
    ∧ (∀ p ∈ [0, 3], let b := nums [p, 1]
       leAt b 0 8 = p ∧ p < 4 ∧ leAt b 8 8 < 2 ∧ b.length = 16 ∧ (b ++ pub1).length = 16 + 1952 ∧ ownerEnrolled run p = false ∧ run.fuses.count < 256)
    ∧ (ownerEnrolled owned 0 = true ∧ owned.fuses.count < 256)
    ∧ (leAt (ownerRecord (zeros 6 ++ (leBytes 2 1 ++ zeros 40)) 0 none) 6 2 = 0 ∧ leAt (ownerRecord (zeros 48) 3 (some (zeros 40))) 6 2 ≠ 0
        ∧ leAt (ownerRecord (zeros 6 ++ (leBytes 2 3 ++ zeros 40)) 0 none) 6 2 ≠ 0)
    ∧ (∀ n ∈ [7, 8], let b := nums [n]; b.length = 8 ∧ leAt b 0 8 = n)
    ∧ (∀ n ∈ [0, 3], let r := rq 0x0C04 (zeros 32 ++ nums [n] ++ zeros 3309)
       r.body.length = 3349 ∧ leAt r.body 32 8 = n ∧ ready owned = true) := by
  repeat' apply And.intro
  all_goals decide +kernel

/-- A revocation of position `pos`, signed with the key of another position. -/
def revoke (pos : Nat) : Bytes :=
  leBytes 4 0x4B564552 ++ ([BitVec.ofNat 8 pos, 0, 0, 0] ++ (zeros 8 ++ (someId ++ (pub1 ++ zeros 3309))))
/-- Roots: position 0 to be revoked, position 1 the signer's; slot A holds an image under position 1. -/
def revBare : State := { run with fuses.roots := [someId, pubId, zeros 32, zeros 32] }
def revS : State := flashWrite revBare (slotBase .a) slotHead

theorem test_BootCommands_revocation :
    (let b := revoke 0
     b.length = 5309 ∧ leAt b 0 4 = 0x4B564552 ∧ zeroAt b 5 3 = true ∧ leAt b 4 1 = 0 ∧ zeroAt b 8 8 = true ∧ slice b 0x10 32 = revBare.fuses.roots.getD 0 []
       ∧ rootAt revBare (Crypto.shake256 (slice b 0x30 1952)) = some 1 ∧ revBare.fuses.revoked.getLsbD 1 = false ∧ revBare.fuses.revoked.getLsbD 0 = false
       ∧ (1 : Nat) ≠ 0 ∧ ready revBare = true)
    ∧ (leAt (revoke 1) 4 1 = 1)
    ∧ (let y := { revBare with fuses.revoked := revBare.fuses.revoked ||| (1#4 <<< 0) }
       y.fuses.revoked.getLsbD 0 = true ∧ slotReason y .a allSigs ≠ 0 ∧ slotReason y .b allSigs ≠ 0) := by
  repeat' apply And.intro
  all_goals decide +kernel

theorem test_BootCommands_revocation_done :
    let y := { revS with fuses.revoked := revS.fuses.revoked ||| (1#4 <<< 0) }
    slotReason y .a allSigs = 0 ∧ takeReq revS (rq 0x0D07 (revoke 0)) false = some (revS, none) := by
  have hh : slotHeader { revS with fuses.revoked := revS.fuses.revoked ||| (1#4 <<< 0) } .a = slotHead := slot_header revBare
  exact ⟨slot_passes (k := 1) hh (by decide +kernel) (by decide +kernel) (by decide +kernel), rfl⟩

/-! ### The queue, serial numbers, what every step keeps -/

theorem test_SerialArithmetic_premises : 0 < 1 ∧ (0 : Nat) < 2 ^ 1 ∧ (1 : Nat) < 2 ^ 1 := by decide

def pendingIs : Host.Outcome State Fault Refusal → List Instr → Bool
  | .next s, l => s.pending == l
  | _, _ => false

theorem test_StepRunsQueue_premises :
    (State.reset.pending = [] ∧ ({ run with pending := [.clamp, .highz] } : State).pending = .clamp :: [.highz])
    ∧ pendingIs (step { run with pending := [.clamp, .highz] }) [.highz] = true ∧ pendingIs (exec .clamp run) run.pending = true := by
  refine ⟨⟨rfl, rfl⟩, ?_, ?_⟩ <;> decide +kernel

theorem test_StepKeeps_premises :
    State.reset.memWf = true ∧ pendingIs (step State.reset) [] = true ∧ State.reset.fuses.dead.length ≤ 96 := by
  repeat' apply And.intro
  all_goals decide +kernel

/-- The part's first serial numbers: 1 is later than 0 in two bits, and half the range apart is not later. -/
theorem test_serial : serialLater 2 1 0 = true ∧ serialLater 2 2 0 = false ∧ serialLater 2 0 3 = true := by decide

/-! ### Further cases -/

/-- A reverted trial outside a clock-fail hold; the Stalls held before the commit, with the last state asked for. -/
theorem test_StartCompletes_trial :
    (let s := { run with boot.trialEnd := some 0 }
     s.boot.trialEnd = some 0 ∧ s.boot.booted = some .a ∧ 0 ≤ s.clk.up ∧ s.inClockFail = false)
    ∧ (let r := rq 0x0F05 (nums [11, 2])
       Takes 0 run r 0x0F05 run none ∧ r.body.length = 16 ∧ num r 0 < 12 ∧ stallsHeld run = true ∧ num r 1 < 3)
    ∧ (refOk { run with clk.eth1Ok := false } 1 = false ∧ refOk run 1 = true) := by
  repeat' apply And.intro
  all_goals decide +kernel

/-- PPS_OUT: the first second counted to, at its nanosecond and two later; one second past a step; the second of a step. -/
theorem test_TimeBase_pps_rises :
    (∀ d ∈ [0, 2], let s := { run with clk.tb := (1000000000 + d) * 2 ^ 32 }
       1000000000 = 1 * 1000000000 + ppsOffset s ∧ 1000000000 ≤ s.ns ∧ s.ns ≤ 1000000000 + 2 ∧ s.clk.ppsHigh = false
         ∧ s.clk.ppsLastRise ≠ some 1000000000 ∧ s.clk.ppsHold = none)
    ∧ (let s := { run with clk.tb := 2000000000 * 2 ^ 32, clk.ppsHold := some 1999999999 }
       2000000000 = 2 * 1000000000 + ppsOffset s ∧ s.ns = 2000000000 ∧ s.clk.ppsHold = some 1999999999 ∧ 1999999999 < 2000000000
         ∧ 1999999999 / 1000000000 ≠ 2000000000 / 1000000000)
    ∧ (let s := { run with clk.tb := 10500000000 * 2 ^ 32, clk.ppsHold := some 10200000000, cfg.recs := [(cfgKey (itemId 0xF 1 5) 0 0, encN 500000000)] }
       10500000000 = 10 * 1000000000 + ppsOffset s ∧ s.ns = 10500000000 ∧ 10200000000 / 1000000000 = 10500000000 / 1000000000)
    ∧ (let s := { run with clk.tb := 1000000000 * 2 ^ 32, clk.ppsLastRise := some 0, clk.ppsHold := some 1000000000 }
       s.ns = 1000000000 ∧ s.clk.ppsLastRise ≠ some 1000000000 ∧ 1000000000 ≤ 1000000000) := by
  repeat' apply And.intro
  all_goals decide +kernel

/-- A flag that an event sets in the cycle of its clear, and one set the cycle before. -/
theorem test_CountersAndTriggers_same_cycle :
    (let s := { run with flagSet := [(exlatBase 15 + 0x94, 0), (memBase + 0x20, 0), (tableBase 15 + 8, 0)] }
     s.flagNow (exlatBase 15 + 0x94) = true ∧ s.flagNow (memBase + 0x20) = true ∧ s.flagNow (tableBase 15 + 8) = true)
    ∧ (let s := { run with flagSet := [(memBase + 0x20, 0)], clk.up := 1 }
       s.flagNow (memBase + 0x20) = false ∧ s.flagNow (tableBase 15 + 8) = false)
    ∧ (let s := { run with ctrs := [(cprBase + 0x40, { v := 0xFFFFFFFF })] }
       0xFFFFFFFF ≤ (s.ctr (cprBase + 0x40)).v ∧ s.flagNow (cprBase + 0x40) = false) := by
  repeat' apply And.intro
  all_goals decide +kernel

/-- A sealed port's rekey of its receive side, and one of its transmit side; what MACsec finds in a frame. -/
theorem test_PortFramesAndLinks_secured :
    (let s := { sealed with port.pps := [(0, { rekey := some { lp := 0, dir := 1, sci := 7, an := 1, start := 0 } })] }
     (s.pp 0).rekey = some { lp := 0, dir := 1, sci := 7, an := 1, start := 0 } ∧ s.stopped (.logicalPort 0) = false ∧ (s.lp 0).up = true)
    ∧ (let s := { sealed with port.pps := [(0, { rekey := some { lp := 0, dir := 0, sci := 9, an := 0, start := 0 } })] }
       (s.pp 0).rekey = some { lp := 0, dir := 0, sci := 9, an := 0, start := 0 })
    ∧ (msecCheck sealed 0 (msecOpen sealed 0 (frame 0x0800 64)).1 = some 9 ∧ fcsGood (frame 0x0800 64) = true
      ∧ etherType (frame 0x888E 64) = 0x888E)
    ∧ (let s := { sealed with cfg.recs := sealed.cfg.recs ++ [(cfgKey (itemId 4 2 2) 0 0, encN 2)] }
       s.secured 0 = true ∧ validateMode s 0 = 2)
    ∧ (0 < 5 ∧ 5 + 0 ≤ 5 ∧ 5 < 6 + 0) := by
  repeat' apply And.intro
  all_goals decide +kernel

/-- A tagged frame of channel 7, association 1, authenticated only, whose ICV of zeros does not match. -/
def tagged6 : Bytes :=
  [0, 0, 0, 0, 0, 0, 2, 2, 2, 2, 2, 2, 136, 229, 33, 0, 0, 0, 0, 6, 0, 0, 0, 0, 0, 0, 0, 7] ++ List.replicate 68 0 ++ [23, 88, 189, 60]
def sealedKey : State := { sealed with sec.slots := [(64, { typ := 1, key := zeros 32 })] }

theorem tagged6_good : fcsGood tagged6 = true := by
  have h1 : (tagged6.take 48).foldl (crcByte polyE) 0xFFFFFFFF#32 = 0x331ef9e2#32 := by decide +kernel
  have h2 : tagged6.take (tagged6.length - 4) = tagged6.take 48 ++ List.replicate 48 0 := by decide +kernel
  unfold fcsGood crc32 crc
  rw [h2, List.foldl_append, h1]
  decide +kernel

theorem test_PortFramesAndLinks_icv :
    fcsGood tagged6 = true ∧ etherType tagged6 ≠ 0x888E ∧ etherType tagged6 ≠ 0x8808
      ∧ msecCheck sealedKey 0 (msecOpen sealedKey 0 tagged6).1 = some 6
      ∧ (msecOpen sealedKey 0 tagged6).2.length = 68 ∧ etherType (msecOpen sealedKey 0 tagged6).2 ≠ 0x8808 := by
  have h : (msecOpen sealedKey 0 tagged6).1 = .tagged 7 1 6 false := by decide +kernel
  rw [h]
  refine ⟨tagged6_good, ?_, ?_, ?_, ?_, ?_⟩
  all_goals decide +kernel

theorem test_PortFramesAndLinks_linkUp :
    ((crun.lp 8).up = false ∧ anOn crun 8 = true ∧ crun.lpRate 8 / 1000 = 800 ∧ some 400 ≠ some (crun.lpRate 8 / 1000)
      ∧ portClocked crun 1 = true ∧ crun.lpPresent 8 = true)
    ∧ (let s := { linked with cfg.recs := [(cfgKey (itemId 4 1 2) 8 0, encN 2)] }
       ifaceOf s 8 = 2 ∧ anOn s 8 = false)
    ∧ (let s := { linked with cfg.recs := [(cfgKey (itemId 4 1 3) 8 0, encN 0)] }
       ifaceOf s 8 ≠ 2 ∧ anOn s 8 = false) := by
  repeat' apply And.intro
  all_goals decide +kernel

theorem test_PortFramesAndLinks_times :
    (let s := { linked with port.lps := [(0, { up := true, lostAt := some 0 })], cfg.recs := [(cfgKey (itemId 4 1 7) 0 0, encN 1)], clk.up := 2 }
     (s.lp 0).lostAt = some 0 ∧ 0 + s.cfgN (itemId 4 1 7) 0 0 0 < s.clk.up)
    ∧ (let s := { linked with port.lps := [(0, { up := true, lostAt := some 0 })], cfg.recs := [(cfgKey (itemId 4 1 7) 0 0, encN 1)], clk.up := 1 }
       s.clk.up ≤ 0 + s.cfgN (itemId 4 1 7) 0 0 0)
    ∧ (let s := { run with clk.up := 3000000000 }
       s.port.mgmtOnly = true ∧ s.boot.gate = true ∧ (s.lp 8).up = false ∧ (s.lp 8).setupAt + 3000000000 ≤ s.clk.up)
    ∧ (run.clk.up < (run.lp 8).setupAt + 3000000000)
    ∧ (let y := (countStat run (portBase 1 + 0x108 + 8 * 7) 1000001).onPp 1 (fun q => { q with syms := tmod q.syms 7 0 (· + 1000001) })
       y.cfgN (itemId 4 1 8) 1 0 1000000 < tget (y.pp 1).syms 7 0 ∧ (y.pp 1).degradeTold = false)
    ∧ (let y := (countStat run (portBase 1 + 0x108 + 8 * 7) 1000000).onPp 1 (fun q => { q with syms := tmod q.syms 7 0 (· + 1000000) })
       ¬ (y.cfgN (itemId 4 1 8) 1 0 1000000 < tget (y.pp 1).syms 7 0)) := by
  repeat' apply And.intro
  all_goals decide +kernel

/-- A transmit channel of another SCI whose association is active, and one without; a receive channel with room; a receive rekey. -/
theorem test_MacsecRekeys_channels :
    (let s := { keyed with port.lps := [(0, { up := true, tx := { sci := 9, active := some 0, sas := [(0, { keySlot := 64, ssci := 0, salt := [], firstPn := 1, nextPn := 1 })] } })] }
     let r := install 0 0 10 3 64
     Takes 0 s r 0x0401 s none ∧ saFault s r = 0 ∧ (s.lp (num r 0)).tx.sci ≠ sciOf r ∧ (s.lp (num r 0)).tx.active.isSome = true)
    ∧ (let r := install 0 0 10 3 64
       Takes 0 keyed r 0x0401 keyed none ∧ saFault keyed r = 0 ∧ schan keyed (num r 0) (num r 1) (sciOf r) = none
         ∧ (keyed.lp (num r 0)).tx.active = none)
    ∧ (let r := install 0 1 8 3 64
       Takes 0 keyed r 0x0401 keyed none ∧ saFault keyed r = 0 ∧ num r 1 = 1 ∧ schan keyed (num r 0) (num r 1) (sciOf r) = none
         ∧ (keyed.lp (num r 0)).rx.length < 64)
    ∧ (let k : Rekey := { lp := 0, dir := 1, sci := 7, an := 1, start := 0 }
       let s := { keyed with port.pps := [(0, { rekey := some k, rxHeld := [{ frame := { lp := 0, bytes := frame 0x0800 64, fecBad := false }, tIn := 0, tInUp := 0 }] })] }
       (s.pp 0).rekey = some k ∧ k.dir ≠ 0)
    ∧ (∀ told : Bool, ∀ pn ∈ [0xC000000000000000, 0xC000000000000001, 2 ^ 64 - 2, 2 ^ 64 - 1],
       let s := { keyed with port.lps := [(0, { tx := { sci := 9, active := some 0, told := told, sas := [(0, { keySlot := 64, ssci := 0, salt := [], firstPn := 1, nextPn := pn })] } })] }
       (s.lp 0).tx.active = some 0 ∧ (s.lp 0).tx.exhausted = false ∧ (tget (s.lp 0).tx.sas 0 default).nextPn = pn ∧ (s.lp 0).tx.told = told) := by
  repeat' apply And.intro
  all_goals decide +kernel

/-- A disabled port whose link is up holds its frames, one whose link is down discards them; a sealed port with an active association. -/
theorem test_TransmitSelection_held :
    (let s := { linked with qs := [(.logicalPort 0, { done := true })], port.lps := [(0, { up := true, express := [tmf 7] })] }
     s.disabled (.logicalPort 0) = true ∧ (s.lp 0).up = true)
    ∧ (let s := { linked with qs := [(.logicalPort 0, { done := true })], port.lps := [(0, { express := [tmf 7] })] }
       s.boot.gate = true ∧ s.lpPresent 0 = true ∧ (s.lp 0).mac = none ∧ s.disabled (.logicalPort 0) = true ∧ (s.lp 0).up = false
         ∧ (s.lp 0).express = tmf 7 :: [] ∧ mayStart s 0 (tmf 7) = true)
    ∧ (let s := { sealed with port.lps := [(0, { up := true, tx := { sci := 9, active := some 0, sas := [(0, { keySlot := 64, ssci := 0, salt := [], firstPn := 1, nextPn := 1 })] } })] }
       (s.lp 0).up = true ∧ (tmf 0).len ≤ s.maxFrame 0 ∧ s.secured 0 = true ∧ (s.lp 0).tx.exhausted = false ∧ (s.lp 0).tx.active = some 0)
    ∧ (let s := { linked with port.lps := [(0, { up := true, exlat := { en := true, scope := true } })] }
       (tmf 7).inLp = some 0 ∧ inScope s 0 0 63 = false ∧ inScope s 0 0 64 = true ∧ inScope s 0 0 2048 = true ∧ inScope s 0 0 2049 = false
         ∧ (run.lp 0).exlat.en = false)
    ∧ (let s := { linked with clk.stepAt := some 0, clk.up := 1 }
       s.clk.stepAt = some 0 ∧ ¬ (1 ≤ 0) ∧ 0 < ({ tmf 7 with tInUp := 1 } : Frame).tInUp)
    ∧ (linked.qsetPort (tmf 7).qset = some 0 ∧ linked.stopped (.tmQueue 7) = false ∧ (tmf 7).cls = 7 ∧ linked.maxFrame 0 ≤ expressFree linked 0
        ∧ (tmf 7).causes = 0)
    ∧ ((linked.qsetRange 0).1 ≤ 0 ∧ 0 < (linked.qsetRange 0).1 + (linked.qsetRange 0).2) := by
  repeat' apply And.intro
  all_goals decide +kernel

/-- A frame of a 1x800G port dealt to the odd pipeline behind one of the even pipeline, and before it; the ports of other modes and
frames that come from no port have no order over the pair. -/
theorem test_ParserRows_turn :
    (let old : PFrame := { frame := tmf 0, src := 0, no := 4 }
     let new : PFrame := { frame := tmf 0, src := 0, no := 5 }
     let s := { linked with parse.cross := [(0, [old])] }
     inTurn s 1 new = false ∧ inTurn s 1 { old with no := 3 } = true ∧ linked.portMode 0 = 0)
    ∧ inTurn linked 0 { frame := tmf 0, src := 16, no := 0 } = true
    ∧ ({ linked with parse.cross := [(1, [(slotF 64).pf])] } : State).parse.cross.find? (fun p => p.1 == 1) = some (1, (slotF 64).pf :: []) := by
  repeat' apply And.intro
  all_goals decide +kernel

/-- A frame still stalled when the cap of 40 clocks (37 ns) has gone by, and one clock before. -/
theorem test_ParserRows_stalled_cap :
    (let s := { parsing 0 [] with clk.up := 37 }
     seqSlots s 0 = slotF 0 :: [] ∧ isStalled (parseSlot s 0 (slotF 0)) = true ∧ (slotEnv s 0 (slotF 0)).cap ≤ pipeClocks (s.clk.up - (slotF 0).at_))
    ∧ (let s := { parsing 0 [] with clk.up := 35 }
       pipeClocks (s.clk.up - (slotF 0).at_) < (slotEnv s 0 (slotF 0)).cap) := by
  repeat' apply And.intro
  all_goals decide +kernel

/-- A result past 64 clocks (59 ns) of its entry; a second attempt goes to a sequencer other than the one that hangs, while one is free. -/
theorem test_ParserRows_late :
    (let r : ParseRes := { profile := 0, code := 0, key := [], meta_ := [], flags := 0, stack := [], csumBad := false, clocks := 0 }
     let e : RobEntry := { tag := 0, pf := (slotF 64).pf, pipe := 0, at_ := 0, again := false, res := some r }
     let s := { linked with parse.robs := [(0, { entries := [e] })], clk.up := 60 }
     (s.rob 0).entries = e :: [] ∧ e.res = some r ∧ 64 < pipeClocks (s.clk.up - e.pf.at_) ∧ e.pf.src < 16)
    ∧ (let e : RobEntry := { tag := 0, pf := (slotF 64).pf, pipe := 0, at_ := 0, again := false, res := none }
       nextSeq (parsing 64 []) e.pipe (holders (parsing 64 []) 0 e.tag) = some 1
       ∧ (let s := { parsing 64 [] with parse.slots := (List.range 6).map (fun n => (n, [slotF 64, slotF 64])) }
          nextSeq s e.pipe (holders s 0 e.tag) = none)) := by
  repeat' apply And.intro
  all_goals decide +kernel

/-- A trap on the ROM's first word and one on its word 0x01C0; ROM words with an error, at the program's start and in it. -/
theorem test_MicrowordMeaning_traps :
    (let e : PEnv := { win := [], avail := 0, recs := [], store := [], traps := [(0, 0x4000), (0x01C0, 0x4400)], poison := [0x0100, 0x0240] }
     e.traps.find? (fun y => y.1 == 0) = some (0, 0x4000) ∧ pointRom .start = 0
       ∧ e.traps.find? (fun y => y.1 == 0x01C0) = some (0x01C0, 0x4400) ∧ pointRom .udp = 0x01C0 ∧ 0x01C0 < 0x4000
       ∧ pointRom .eth ∈ e.poison ∧ pointRom .done ∈ e.poison) := by
  repeat' apply And.intro
  all_goals decide +kernel

theorem test_ParseWithinCap_stalls :
    let e : PEnv := { win := (frame 0x0806 64).take 60, avail := 0, recs := [], store := [], traps := [], poison := [] }
    isStalled (runParse 600 e [] .start (PSt.init 0 0)) = true
      ∧ endCode (runParse 600 e [(60, 3)] .start (PSt.init 0 0)) = some (0, 0)
      ∧ isCapped (runParse 600 e [(60, 40)] .start (PSt.init 0 0)) = true := by
  repeat' apply And.intro
  all_goals decide +kernel

/-- An extension below the owner's minimum, one whose digest is wrong, and ones of no word and of a word too many. -/
theorem test_ImagesLoaded_extension_ranges :
    (let s := { owned with boot.ar := zeros 16 ++ leBytes 4 2 }
     let b := image 2 1 0x4400 pubId (zeros 12) (zeros 16) zeroDigest24 (zeros 24)
     imgFormatOk 2 b = true ∧ ownerKnows s (slice b 0x18 32) = true ∧ leAt b 0xC 4 < ownerMin s)
    ∧ (let b := image 2 1 0x4400 pubId (zeros 12) (zeros 16) (zeros 32) (zeros 24)
       imgFormatOk 2 b = true ∧ Crypto.shake256 (imgBody b) ≠ slice b 0x54 32)
    ∧ (∀ a ∈ [0x43FF, 0x5400], let b := image 2 1 a pubId (zeros 12) (zeros 16) zeroDigest24 (zeros 24)
       imgFormatOk 2 b = true ∧ Crypto.shake256 (imgBody b) = slice b 0x54 32 ∧ (imgLoad b < 0x4400 ∨ 0x5400 < imgLoad b + imgWords b)) := by
  repeat' apply And.intro
  all_goals decide +kernel

/-- The end of a schedule whose cycles began later than now: the next cycle start within one cycle. -/
theorem test_TransmitCommands_cycles :
    (let b : Bell := { cycle := 1000, base := 5000000, entries := [] }
     0 < b.cycle ∧ nextCycle b 0 = 10000 ∧ firstCycle b 0 = 5000000)
    ∧ (let b : Bell := { cycle := 1000, base := 1, entries := [] }
       nextCycle b 0 = 10001 ∧ nextCycle b 1 = 10001) := by
  repeat' apply And.intro
  all_goals decide +kernel

/-- Hold-down 0, with a record of a candidate left over; a bucket whose first slot is free. -/
theorem test_EntriesInserted_no_hold_down :
    (let s := { oneTbl 0 with cfg.recs := tblRecs ++ [(cfgKey (itemId 6 1 12) 0 0, encN 0)]
                              tables := [(0, { hold := [{ key := beBytes 6 7, owner := 1, learnt := 0, cand := some (2, 0) }] })] }
     (holdOf s 0 (beBytes 6 7)).map Hold.cand = some (some (2, 0)) ∧ tblHoldDown s 0 = 0 ∧ tblHoldDown tabled 0 ≠ 0)
    ∧ ((entry 7 0 1).tf = ({ key := beBytes 6 7, lp := 2, tf := 0, tIn := 0 } : LearnReq).tf) := by
  repeat' apply And.intro
  all_goals decide +kernel

/-- A record for the Clerk whose table is next, and one whose turn is another table's; a channel without a reader; a flush that names a port. -/
theorem test_TableRowsAndCommands_turns :
    (let n : Notif := { typ := 1, port := 0, old := 0, tf := 0, age := 0, seq := 0, key := zeros 48 }
     let two : State := { crun with cfg.recs := tblRecs ++ [(cfgKey (itemId 6 1 1) 1 0, encN 2), (cfgKey (itemId 6 1 2) 1 0, encN 6)]
                                    tables := [(0, { notif := [n] }), (1, { notif := [n] })] }
     (two.tbl 0).notif = n :: [] ∧ tblTarget two 0 = 0xFFFF ∧ clerkTurn two = some 0 ∧ tblTarget two 1 = 0xFFFF ∧ clerkTurn two ≠ some 1
       ∧ clerkTurn { two with mbx.tblTurn := 1 } = some 1)
    ∧ (let n : Notif := { typ := 1, port := 0, old := 0, tf := 0, age := 0, seq := 0, key := zeros 48 }
       let s := { crun with cfg.recs := tblRecs ++ [(cfgKey (itemId 6 1 16) 0 0, encN 12287)], tables := [(0, { notif := [n] })] }
       (s.tbl 0).notif = n :: [] ∧ tblTarget s 0 = 12287 ∧ readerOf s (tblTarget s 0) = none)
    ∧ (let r := rq 0x0605 (nums [0, 3, 15, 0])
       Takes 0 tabled r 0x0605 tabled none ∧ r.body.length = 32 ∧ num r 1 = 3 ∧ num r 2 ≤ 15)
    ∧ (let r := rq 0x0601 (tblBody 6 7 [0, 8, 0, 0])
       let s := { tabled with port.pps := [(0, { mode := 3 }), (1, { mode := 3 })] }
       Takes 0 s r 0x0601 s none ∧ keyFault s (num r 0) r.body 8 = 0 ∧ leAt r.body 72 8 ≤ 15 ∧ s.lpPresent (leAt r.body 72 8) = true)
    ∧ (let r := rq 0x0601 (tblBody 6 7 [0, 16, 0, 0])
       keyFault tabled (num r 0) r.body 8 = 0 ∧ ¬ (leAt r.body 72 8 = 0xFF ∨ leAt r.body 72 8 ≤ 15)) := by
  unfold Takes
  repeat' apply And.intro
  all_goals decide +kernel

/-- Answers of an open message, of none, and of another generation; a book that knows a later generation of the source. -/
theorem test_PacketsReceived_answers :
    (let s := { ehtUp with eht.out := [(3, out5 .sending)] }
     let p := parsePkt (ackPkt 5)
     (openMsg s p).isSome = true ∧ (openMsg ehtUp p).isSome = false ∧ (genStale s 5 ep5 p).2 = false
       ∧ (genStale s 5 { ep5 with gen := 2 } p).2 = true ∧ genFree s p = false ∧ p.dgen ≠ 2 % 65536 ∧ p.dgen = ep5.gen % 65536)
    ∧ (let s := { ehtUp with eht.out := [(3, { out5 .sending with reqTag := some 0 })] }
       (grantedMsg s (parsePkt creditGrantPkt)).isSome = true)
    ∧ (let b : Book := { eid := 9, ip := 0, gen := 2, qset := 0, mac := 0, paths := 1, seg := 0, follow := false, tf := 0 }
       let s := { ehtUp with eht.book := [(0, b)] }
       serialEarlier 16 (parsePkt (ackPkt 5)).sgen b.gen = true ∧ b.eid = (parsePkt (ackPkt 5)).src) := by
  repeat' apply And.intro
  all_goals decide +kernel

/-- A WRITE past its region; the ring of endpoint 5, valid and revoked. -/
theorem test_PacketsReceived_regions :
    (let p := parsePkt (wr true 0 65 65 0)
     let s := { ehtUp with eht.ctxs := [ctx1] }
     ctxOf s p.key = some ctx1 ∧ p.index ∉ ctx1.bitmap ∧ check10 s ep5 p = some s ∧ p.op = 2
       ∧ (match check11 (touchDesc s (p.rkey / 4096)) ep5 (some ctx1) p with
          | .inr st => st == nakBounds
          | _ => false) = true)
    ∧ (let s := { ehtUp with eht.regions := ehtUp.eht.regions.map (fun d => (d.1, { d.2 with state := 2, gen := 2 })) }
       lookupKey s 0x1001 = .inr nakRevoked ∧ (match lookupKey ehtUp 0x1001 with
          | .inl d => d.state == 1
          | .inr _ => false) = true) := by
  repeat' apply And.intro
  all_goals decide +kernel

/-- Both copies of descriptor 1 lost, one of them, and none; an access of no byte at a region's end and past it; defaults left out. -/
theorem test_RegionsAndCredit_edges :
    (let w (a : Nat) : Nat := (a + 64) / 8
     descLost { ehtUp with mem.poison := [w hbmBase, w (hbmBase + mirrorOff)] } 1 = true
       ∧ descLost { ehtUp with mem.poison := [w hbmBase] } 1 = false ∧ descLost ehtUp 1 = false)
    ∧ (let d : Region := { base := 16, len := 16, target := 0, gen := 1, tf := 0, rights := 3, state := 1, flags := 0, filter := 0xFFFFFFFF, channel := 0 }
       d.base + d.len < 33 + 0 ∧ d.base ≤ 32 ∧ 32 + 0 ≤ d.base + d.len ∧ 15 < d.base)
    ∧ (let b := nums [0, 65535, 9] ++ zeros 16 ++ nums [1, 0] ++ zeros 6 ++ nums [2 ^ 64 - 1, 0, 2 ^ 64 - 1, 0, 0]
       leAt b 62 8 = 2 ^ 64 - 1 ∧ leAt b 78 8 = 2 ^ 64 - 1) := by
  repeat' apply And.intro
  all_goals decide +kernel

/-- What a sender hears while it waits and while it drains: retry later, no credit (with a book entry), an answer to a READ. -/
theorem test_MessageTimers_answers :
    (∀ st ∈ [nakRetry, nakFrozen, nakNoCredit], ∀ w ∈ [OutState.wait 50000 none, .drain],
      let m := { out5 w with book := some 0 }
      openMsg (sending 0 m) (ackOf st) = some (3, m) ∧ beAt (ackOf st).b 0x18 1 = st ∧ m.book = some 0 ∧ m.op ≠ 4 ∧ m.op ≠ 5 ∧ m.state = w)
    ∧ (let m := { out5 .sending with op := 5 }
       openMsg (sending 0 m) (ackOf 0) = some (3, m) ∧ m.op = 5)
    ∧ (let s := { ehtUp with eht.ctxs := [ctx1], tfs := [(0, { st := .restoring })], clk.up := 4000000 }
       ctxHeld s ctx1.dst = true) := by
  repeat' apply And.intro
  all_goals decide +kernel

/-- The children of a tenant function: a disabled endpoint and a storage queue; the ends of the timeouts. -/
theorem test_TenantStates_limits :
    (∀ b ∈ [nums [4095, 0, 0], nums [4095, 2, 1000000]], let r := rq 0x0A02 b
      num r 1 ≤ 2 ∧ (num r 2 = 0 ∨ (1000000 ≤ num r 2 ∧ num r 2 ≤ 60000000000)))
    ∧ (∀ b ∈ [nums [4095, 0], nums [4095, 60000000000]], let r := rq 0x0A03 b
        num r 1 = 0 ∨ (1000000 ≤ num r 1 ∧ num r 1 ≤ 60000000000))
    ∧ (let y := { ehtUp with qs := [(.endpoint 5, { done := true }), (.storageQueue 0 1, { done := true })] }
       tfChild y 0 (.endpoint 5) = true ∧ y.qs.map Prod.fst = [.endpoint 5, .storageQueue 0 1]) := by
  repeat' apply And.intro
  all_goals decide +kernel

/-- A queue made with its items left out; a journal under replay; a queue whose endpoint is being quiesced. -/
theorem test_TenantObjects_defaults :
    (let r := rq 0x0A0C (nums ([1, 63, 5] ++ List.replicate 2 (2 ^ 64 - 1) ++ [0] ++ List.replicate 3 (2 ^ 64 - 1)))
     Takes 0 owning r 0x0A0C owning none ∧ r.body.length = 72 ∧ sqItemsBad owning 1 (sqItems r 3) 3 = none ∧ (sqItems r 3).depth = 1024)
    ∧ (let s := { withQ stoUp (sq0 .disabled) with sto.journals := [(15, { replay := true })] }
       replaying s = true ∧ replaying stoUp = false ∧ (s.sq? (sqKey 0 0)).map StoQueue.st = some .disabled)
    ∧ (let s := { withQ stoUp (sq0 .disabled) with qs := [(.endpoint 1, {})] }
       s.quiescing (.endpoint (BitVec.ofNat 32 (sq0 .disabled).eid)) = true ∧ (withQ stoUp (sq0 .disabled)).quiescing (.endpoint 1) = false) := by
  unfold Takes
  repeat' apply And.intro
  all_goals decide +kernel

/-- Journal 0 on root port 0, of 4 blocks without its checkpoints, which namespace 0 names. -/
def jrnlUp : State :=
  { stoUp with cfg.recs := stoRecs 1 ++ [(cfgKey (itemId 9 1 3) 0 0, encN 0), (cfgKey (itemId 9 2 1) 0 0, nums [0, 1, 0, 6 * 4096])] }

theorem test_StorageCommandsFlow_more :
    (let q := { sq0 .disabled with coTime := 1, coCount := 2 }
     (withQ stoUp q).sq? 0 = some q ∧ 1 ≤ q.coTime ∧ q.coal.length + 1 < q.coCount ∧ ((withQ stoUp q).tf 0).st ≠ .freezing)
    ∧ (let s := { stoUp with sto.drives := [] }
       ((nsExtents s 0).find? (fun e => (s.drive e.rp).st != .online)).map Extent.rp = some 0
       ∧ mapStatus s 0 (parseSub 0 0 (sub 1 0 7 1 0)) (sub 1 0 7 1 0) = 0x0809
       ∧ ∀ e ∈ nsExtents stoUp 0, (stoUp.drive e.rp).st = .online)
    ∧ (let s := { stoUp with sto.cache := [(0, 0, [])] }
       cacheHolds s 0 0 1 = true ∧ (hbmRange s 0 0 1).isSome = true)
    ∧ (let r : JRec := { seq := 1, tf := 0, q := 0, no := 0, vns := 0, lba := 0, blocks := 1, data := zeros 4096, pos := 0, written := true }
       let s := { jrnlUp with sto.journals := [(0, { usable := true, recs := [r] })] }
       cacheHolds s 0 0 1 = false ∧ (hbmRange s 0 0 1).isSome = true)
    ∧ (let c := parseSub 0 0 (subNk 1 2 0 3 0)
       c.op = 1 ∧ c.inline = true ∧ c.blocks = 3 ∧ nsJournal jrnlUp c.vns = some 0 ∧ (jrnlUp.journal 0).waiters = [] ∧ (journalCfg jrnlUp 0).map Extent.rp = some 0
       ∧ (jrnlUp.drive 0).st = .online ∧ (journalCfg jrnlUp 0).map (fun e => decide ((jrnlUp.journal 0).used + c.blocks + 1 ≤ e.count - 2)) = some true
       ∧ ({ jrnlUp with sto.drives := [] } : State).drive 0 = {} ∧ ({} : Drive).st ≠ .online) := by
  repeat' apply And.intro
  all_goals decide +kernel

theorem test_DriveEvents_ends :
    (∀ a ∈ [({ cid := 65535, status := 0, media := false, aborted := false, abortOnly := true, failLba := 0, data := [] } : NvmeDone)],
      a.abortOnly = true ∧ ({ a with abortOnly := false, aborted := true } : NvmeDone).aborted = true
        ∧ ({ a with abortOnly := false, status := 1, media := true } : NvmeDone).status ≠ 0)
    ∧ (let c := { nv with abortAt := some 0, timedOut := some 0 }
       let s (up : Nat) := drv { st := .online, cmds := [(0, c)] } up
       (∃ c ∈ ((s 1000000000).drive 15).cmds, c.2.abortAt.isSome = true ∧ ∃ a, c.2.timedOut = some a ∧ a + 1000000000 ≤ (s 1000000000).clk.up)
         ∧ (∀ c ∈ ((s 999999999).drive 15).cmds, c.2.abortAt.isSome = true → ∀ a ∈ c.2.timedOut, (s 999999999).clk.up < a + 1000000000)
         ∧ ¬ (c.timedOut = none))
    ∧ (let z : JScan := { found := some 2 }
       let s := { jrnlUp with sto.journals := [(0, { replay := true, scan := some z })] }
       (s.journal 0).replay = true ∧ (s.drive 0).st = .online ∧ (s.journal 0).scan = some z ∧ z.found = some 2 ∧ homeGoing s 0 = false
         ∧ (replayTurn s 0 [] (s.journal 0).recs).isNone = true)
    ∧ (let d := { (drv { st := .failed } 0).drive 15 with released := true }
       d.st = .failed ∧ DriveLoss.removed ≠ .aerFatal ∧ DriveLoss.aerFatal ≠ .removed)
    ∧ (∀ n ∈ [3, 4, 6], let s := drv { st := .init, step := n, admin := [.enable] } 0
       (s.drive 15).admin = .enable :: [] ∧ (s.drive 15).st = .init ∧ (s.drive 15).step = n)
    ∧ (let s := drv { st := .init, step := 4, admin := [.identifyNamespace 1, .activeNamespaces] } 0
       (s.drive 15).admin = .identifyNamespace 1 :: [.activeNamespaces] ∧ (noteAdmin (.identifyNamespace 1) { ok := true, serial := 0, blocksOk := false, nsBlocks := 0 } {}).badNs = true)
    ∧ ((drv { st := .online } 0).drive 15).st ≠ .init := by
  repeat' apply And.intro
  all_goals decide +kernel

theorem test_DriveCommands_replay :
    (let s := { jrnlUp with sto.journals := [(0, { replay := true })] }
     nsJournal s 0 = some 0 ∧ (s.journal 0).replay = true ∧ (s.journal 0).usable = false)
    ∧ ((jrnlUp.journal 0).usable = false ∧ (jrnlUp.journal 0).replay = false)
    ∧ (let r := rq 0x0903 (nums [4]); r.body.length = 8 ∧ rootPorts stoUp ≤ num r 0) := by
  repeat' apply And.intro
  all_goals decide +kernel

/-- A pc that is no multiple of 4, a poisoned word at the pc, and a word that is no instruction there. -/
theorem test_IdoriArithmetic_fetch :
    (let s := ido [(7, { thr with pc := 2 })] id
     canIssue s i7 = true ∧ (localWindow i7 ((noteIssue s i7).thr i7).pc.toNat 4).isSome = true ∧ ((noteIssue s i7).thr i7).pc.toNat % 4 ≠ 0)
    ∧ (let s := { ido [(7, { thr with pc := 0x1FFFC })] id with mem.poison := [(scratchBase 11 15 + 0x1FFFC) / 8] }
       canIssue s i7 = true ∧ ((noteIssue s i7).thr i7).pc.toNat % 4 = 0
         ∧ localWindow i7 ((noteIssue s i7).thr i7).pc.toNat 4 = some (scratchBase 11 15 + 0x1FFFC)
         ∧ (noteIssue s i7).poisoned (scratchBase 11 15 + 0x1FFFC) 4 = true)
    ∧ (let s := (ido7 0 0).poke (scratchBase 11 15) (leBytes 4 0xFC000000)
       canIssue s i7 = true ∧ (fetchFault (noteIssue s i7) i7).isNone = true ∧ legalWord ((noteIssue s i7).fetched i7) = false)
    ∧ (let s := ido [(7, { thr with unfenced := [(scratchBase 11 15 + 3, 0xFC)] })] id
       issues s i7 = false ∧ (s.fetched i7) = 0xFC000000) := by
  repeat' apply And.intro
  all_goals decide +kernel

/-- A core under a stale generation, and one declared dead whose thread goes on. -/
theorem test_IdoriMemory_stale :
    (let s := { ido7 0x1FFF8 0 with fence.gens := [(.core 11 15, 1)] }
     let x := noteIssue s i7
     issues s i7 = true ∧ (x.role i7.stall.val i7.role.val).phys = some 15 ∧ x.fenceOk (unitCore i7.stall.val 15) (.core i7.stall.val i7.role.val) = false)
    ∧ (let s := owedS []
       s.phase = .running ∧ (s.stall i7.stall.val).st ≠ .stopped ∧ (∃ p, (s.role i7.stall.val i7.role.val).phys = some p)
         ∧ i7.role.val ∈ (s.stall i7.stall.val).owed ∧ (s.thr i7).enable = true ∧ (s.thr i7).st = .ready) := by
  refine ⟨by decide +kernel, ?_⟩
  refine ⟨by decide +kernel, by decide +kernel, ⟨15, by decide +kernel⟩, by decide +kernel, by decide +kernel, by decide +kernel⟩

/-- The timer port and the space port, served, with what they wait for and without. -/
theorem test_IdoriChannelReads_ports :
    (let s := rdEp { thr with st := .blocked, wait := some (.timer, 5), timer := 0 } [] 0
     (s.thr i7).wait = some (.timer, 5) ∧ serves s i7 = true ∧ (tryRead s i7 .timer).isSome = true)
    ∧ (let s := rdEp { thr with st := .blocked, wait := some (.timer, 5), timer := 1 } [] 0
       (s.thr i7).wait = some (.timer, 5) ∧ serves s i7 = true ∧ (tryRead s i7 .timer).isNone = true)
    ∧ (let s := (wrEp 11264 1 {}).onThr i7 (fun t => { t with st := .blocked, wait := some (.space 62, 5) })
       (s.thr i7).wait = some (.space 62, 5) ∧ serves s i7 = true) := by
  repeat' apply And.intro
  all_goals decide +kernel

/-- A submission of a core declared dead; one under a stale generation, through a stopped endpoint, and one that goes. -/
theorem test_IdoriDevices_dead :
    (∀ n ∈ [5, 6], let s := (subS 4 0 n).onStall 11 (fun w => { w with owed := [15] })
       let d := parseDesc (s.peek (scratchBase 11 15 + 0x40) 64)
       goesOn s i7 = true ∧ (s.greg i7 1).toNat = 0x40 ∧ localWindow i7 0x40 64 = some (scratchBase 11 15 + 0x40)
         ∧ (ownsEndpoint s (s.thr i7).tf d.eid).isSome = (n == 5) ∧ d.ok s i7 = (n == 5) ∧ 4 ≤ chanRoom s d.chan)
    ∧ (let f (z : State) : Bool × Bool × Bool × Bool :=
         let d := parseDesc (z.peek (scratchBase 11 15 + 0x40) 64)
         let id := nextMsgId z d.eid
         let y := (reserveChan id.2 d.chan 4).onThr i7 (fun t => { t with lastId := BitVec.ofNat 64 id.1 })
         (y.fenceOk (unitCore 11 ((y.role 11 15).phys.getD 0)) (.core 11 15), (y.tf 0).st == .enabled,
           y.stopped (.endpoint (BitVec.ofNat 32 d.eid)), (bookOf y d.book (y.thr i7).tf).isSome)
       let b : Book := { eid := 9, ip := 0, gen := 2, qset := 0, mac := 0, paths := 1, seg := 0, follow := false, tf := 0 }
       let z := { subS 4 0 5 with eht.book := [(0, b)], tfs := [(0, { st := .enabled })] }
       f z = (true, true, false, true) ∧ f { z with qs := [(.endpoint 5, {})] } = (true, true, true, true)
         ∧ f { z with fence.gens := [(.core 11 15, 1)] } = (false, true, false, true)) := by
  repeat' apply And.intro
  all_goals decide +kernel

/-- DATA in the Market and in HBM, outside the tenant function's share and inside it. -/
theorem test_IdoriDevices_unreadable :
    (∀ p ∈ [(marketBase, false), ((marketShare run).1, true)],
       let m := { outM with data := some p.1, payload := [7] }
       m.state ≠ .drain ∧ inMarket p.1 1 = true ∧ inHbm p.1 1 = false ∧ tfMarket run (tget run.eht.eps (epKey run m.ep) default).tf p.1 1 = p.2
         ∧ inHeldBuf run (tget run.eht.eps (epKey run m.ep) default).tf p.1 1 = false)
    ∧ (let m := { outM with data := some hbmBase, payload := [7] }
       inHbm hbmBase 1 = true ∧ tfHbm run (tget run.eht.eps (epKey run m.ep) default).tf hbmBase 1 = false)
    ∧ (let s := subS 4 1 5
       (∀ k ∈ s.eht.out, k.2.unreadable s = false) ∧ (∀ k ∈ s.eht.waiting, k.2.unreadable s = false)
         ∧ (∀ w ∈ s.ido.stalls, ∀ c ∈ w.2.cores, ∀ m ∈ c.2.subq, m.unreadable s = false)) := by
  repeat' apply And.intro
  all_goals decide +kernel

/-- A role whose thread 0 is ready holds an unread fault message of thread 7; a ring of the Clerk's channel. -/
theorem test_StallRows_more :
    (let m : FaultMsg := { kind := 1, thread := 7, words := List.replicate 5 0 }
     let s := ido [(0, thr), (7, thr)] (fun c => { c with faults := [m] })
     (s.thrAt 11 15 0).st ≠ .blocked ∧ (s.thrAt 11 15 0).st ≠ .faulted ∧ (s.thrAt 11 15 0).st ≠ .killed ∧ (s.role 11 15).faultPos = 0
       ∧ (s.role 11 15).faults = [m] ∧ m.kind % 2 = 1 ∧ (3 : Nat) % 2 = 1 ∧ (7 : Nat) ≠ 6)
    ∧ (readerOf run 11264 = none)
    ∧ (∀ n ∈ [6, 5], let s := { rdEp thr [] 0 with cfg.recs := [(cfgKey (itemId 0xB 1 5) 11264 0, encN n)] }
       (readerOf s 11264).isSome = true ∧ (s.stall (11264 / 1024)).st = .running ∧ chanRoom s 11264 = n)
    ∧ (let s := (rdEp thr [] 0).onStall 11 (fun w => { w with st := .stopped })
       (readerOf s 11264).isSome = true ∧ (s.stall (11264 / 1024)).st ≠ .running)
    ∧ (∀ w ∈ [StallState.stopped, .running], let s := (owedS []).onStall 11 (fun z => { z with st := w })
       15 ∈ (s.stall 11).owed ∧ (s.stall 11).spares = []
         ∧ (let m := rehome s 11 15
            let y := if (m.1.stall 11).st ≠ .stopped then m.2.foldl (fun s m => startThread s 11 m.2.1 m.2.2) m.1 else m.1
            ((tellMoves y 11 15 m.2).stall 11).st = w)) := by
  repeat' apply And.intro
  all_goals decide +kernel

/-- Two rings wait: the one after the last served comes next, then the first again. -/
theorem test_SecurityJobs_turns :
    (let g : JobRing := { base := mkt0, count := 16, prod := 1 }
     let s (last : Nat) : State := ({ run with sec.rings := [(0, g)], sec.lastHash := last } : State).poke (mkt0 + 64) (job 5 0 0 mkt0 (mkt0 + 2048) 0 0)
     jobTurn (s 0) true = some 0 ∧ jobTurn (s 4095) true = some 0 ∧ jobTurn (s 0) false = none
       ∧ (s 0).sec.rings.Pairwise (fun x y => x.1 < y.1) ∧ jobWaits (s 0) 0 g true = true ∧ (0, g) ∈ (s 0).sec.rings)
    ∧ (let g (b : Nat) : JobRing := { base := b, count := 16, prod := 1 }
       let a : Nat := mkt0 + 0x10000
       let s (last : Nat) : State :=
         (({ run with sec.rings := [(0, g mkt0), (1, g a)], sec.lastHash := last, tfs := [(1, { st := .enabled, mkt := (a, 65536) })] } : State).poke
           (mkt0 + 64) (job 5 0 0 mkt0 (mkt0 + 2048) 0 0)).poke (a + 64) (job 5 0 0 a (a + 2048) 0 0)
       jobTurn (s 0) true = some 1 ∧ jobTurn (s 1) true = some 0) := by
  repeat' apply And.intro
  all_goals decide +kernel

/-- A dead bank under its role's new generation, one that fills none; an error of both copies of a descriptor and beside the area. -/
theorem test_MemoryErrors_banks :
    (let s : State := { run with tsl.dead := [(unitMktBank 131, { role := 5 })], fence.gens := [(.bank (unitMktBank 5), 1)] }
     staleBank s .market 131 0 = some (unitMktBank 131, unitMktBank 5) ∧ tget? s.tsl.dead (unitMktBank 131) = some { role := 5 })
    ∧ (let s : State := { run with tsl.dead := [(unitStallBank 11 16, { role := 0xFFFF })] }
       tget? s.tsl.dead (unitStallBank 11 16) = some { role := 0xFFFF } ∧ staleBank s .stall 11 16 = none)
    ∧ (let s : State := { run with tsl.dead := [(unitStallBank 11 16, { role := 3 })], fence.gens := [(.bank (unitStallBank 11 3), 1)] }
       staleBank s .stall 11 16 = some (unitStallBank 11 16, unitStallBank 11 3))
    ∧ (descriptorArea hbmBase = true ∧ descriptorArea (hbmBase + 0x3FFFFFF) = true ∧ descriptorArea (hbmBase + 0x4000000) = false
        ∧ descriptorArea (hbmBase + 0x66000000) = true ∧ descriptorArea (hbmBase + 0x6A000000) = false)
    ∧ (staleBank run .hbm 0 0 = none ∧ wordAddr .hbm 0 0 hbmBase = some hbmBase ∧ (eccOutcome run hbmBase).2 = false ∧ (eccOutcome run marketBase).2 = true) := by
  repeat' apply And.intro
  all_goals decide +kernel

/-- A lost ROM word of the sequencer under test; a bank in service is passed over, a sequencer before it is not; a turned-off kind. -/
theorem test_TeaselRows_turns :
    (let s := { underTest 0x2017 id 0 with parse.poison := [23 * 32768 + 0x3FFF] }
     s.tsl.cur = some (testOf 0x2017 id) ∧ (testOf 0x2017 id).unit / 4096 = 2
       ∧ ∃ w ∈ s.parse.poison, w / 32768 = (testOf 0x2017 id).unit % 4096 ∧ w % 32768 < 0x4000)
    ∧ (unitTurn (swept [0x3000, 0x2017] 0) 0x2017 = true ∧ unitTurn (swept [0x3000, 0x2017] 0) 0x3000 = true
        ∧ unitTurn (swept [0x2016, 0x2017] 0) 0x2017 = false ∧ testOrder (swept [0x2016, 0x2017] 0) = [0x2016, 0x2017])
    ∧ (let s := { swept [0x2017] 0 with cfg.recs := crun.cfg.recs ++ [(cfgKey (itemId 0xE 1 5) 2 0, encN 0)] }
       kindOn s 2 = false ∧ testOrder s = []) := by
  refine ⟨⟨rfl, by decide, 23 * 32768 + 0x3FFF, by decide +kernel, by decide, by decide⟩, ?_, ?_⟩
  all_goals
    repeat' apply And.intro
    all_goals decide +kernel

/-- The head of the queue a second and a nanosecond old, and a second old to the nanosecond. -/
theorem test_RequestsTaken_late :
    (let s (n : Nat) : State := { crun with clk.up := n, mbx.queue := [{ req := rq 0x0101 [], arrived := 0, replay := false, slot := none }] }
     headLate (s 1000000001) = true ∧ headLate (s 1000000000) = false ∧ clerkServes (s 1000000001) host = true ∧ (s 1000000001).mbx.queue ≠ [])
    ∧ (∀ c : Word64, c = 0 ∨ c ≠ 0) := by
  refine ⟨?_, fun c => Classical.em _⟩
  repeat' apply And.intro
  all_goals decide +kernel

/-- The byte that a transfer to SB_DATA starts from: written in it, or the one reached before. -/
theorem test_SidebandWindow_pointers :
    (∀ p ∈ [65535, 65536, 2 ^ 32 - 1], ((some (BitVec.ofNat 32 p)).map BitVec.toNat) = some p) ∧ (sideS [] 65535).mbx.sbPtr = 65535 := by
  decide +kernel

/-- The sequence number before the wrap: records of 0 and 1 are later than it. -/
theorem test_EventCommands_wrap :
    (let s := { raise crun 0x0205 0 [] with mbx.subs := [] }
     let y := { s with mbx.log := s.mbx.log.map (fun e => { e with seq := 0 }) }
     let r := rq 0x0303 (nums [2 ^ 64 - 1])
     Takes 0 y r 0x0303 y none ∧ r.body.length = 8 ∧ num r 0 = 2 ^ 64 - 1
       ∧ ∀ e ∈ y.mbx.log, e.seq < 2 ^ 64 ∧ e.seq ≠ 2 ^ 64 - 1 ∧ (e.seq + 2 ^ 64 - (2 ^ 64 - 1)) % 2 ^ 64 < 2 ^ 63)
    ∧ ((raise crun 0x0205 0 []).mbx.log ≠ []) := by
  unfold Takes
  repeat' apply And.intro
  all_goals decide +kernel

/-- A clock-fail hold, and none. -/
theorem test_BootCommands_hold :
    ({ run with phase := .clockFail 0 } : State).inClockFail = true ∧ run.inClockFail = false
    ∧ (let s := { trial 2 with phase := .clockFail 0 }
       s.inClockFail = true ∧ s.boot.trialEnd = some 10 ∧ Takes 0 s (rq 0x0D05 []) 0x0D05 s none) := by
  unfold Takes
  repeat' apply And.intro
  all_goals decide +kernel

end Sys2Proof.Tests
end

/-! Proofs of the statements on serial numbers, counters and registers (R5 to R14, R342). -/

namespace Sys2Proof.Machine

/-! ### Serial numbers (R12) -/

/-- The distance of two serial numbers of `n` bits is their difference modulo 2^n. -/
theorem serialDist_eq {n a b : Nat} (ha : a < 2 ^ n) (hb : b < 2 ^ n) : (serialDist n a b : Int) = ((a : Int) - b) % 2 ^ n := by
  unfold serialDist
  rw [Nat.mod_eq_of_lt ha, Nat.mod_eq_of_lt hb]
  push_cast [hb.le]
  rw [← add_sub_assoc, add_sub_right_comm, Int.add_emod_right]

theorem serialDist_eq_zero_iff {n a b : Nat} (ha : a < 2 ^ n) (hb : b < 2 ^ n) : serialDist n a b = 0 ↔ a = b := by
  unfold serialDist
  rw [Nat.mod_eq_of_lt ha, Nat.mod_eq_of_lt hb]
  generalize 2 ^ n = N at ha hb
  rcases Nat.lt_or_ge a b with h | h
  · rw [Nat.mod_eq_of_lt (by omega)]; omega
  · rw [show a + (N - b) = a - b + N by omega, Nat.add_mod_right, Nat.mod_eq_of_lt (by omega)]; omega

theorem serialLater_iff (n a b : Nat) : serialLater n a b = true ↔ 1 ≤ serialDist n a b ∧ serialDist n a b < 2 ^ (n - 1) := by
  simp [serialLater]

theorem serialEarlier_iff (n a b : Nat) : serialEarlier n a b = true ↔ serialLater n a b ≠ true ∧ serialDist n a b ≠ 0 := by
  simp [serialEarlier, and_comm]

/-- Settles O6: the distance of the model is the `d` of R12. -/
theorem serialArithmetic : Obligations.SerialArithmetic := by
  unfold Obligations.SerialArithmetic
  intro n a b _ ha hb d
  have hd : d = serialDist n a b := (serialDist_eq ha hb).symm
  have hlater : serialLater n a b = true ↔ 1 ≤ d ∧ d ≤ 2 ^ (n - 1) - 1 := by
    have hp : (2 : Int) ^ (n - 1) = (2 ^ (n - 1) : Nat) := by push_cast; rfl
    rw [serialLater_iff, hd, hp]
    omega
  refine ⟨hlater, ?_, ?_⟩
  · rw [← serialDist_eq_zero_iff ha hb]; omega
  · rw [serialEarlier_iff, ne_eq, hlater]; omega

/-! ### Counters (R6, R9, R10) -/

theorem noteFlag_eq (s : State) (a : Nat) (b : Bool) :
    s.noteFlag a b = { s with flagSet := if b then tset s.flagSet a s.clk.up else s.flagSet } := by
  cases b <;> rfl

/-- A statistics counter wraps modulo 2^64 (R9). -/
theorem addStat_eq (c : Ctr) (n : Nat) : c.addStat n =
    ({ c with v := (c.v + n) % 2 ^ 64, flag := c.flag || decide (2 ^ 64 ≤ c.v + n) }, decide (2 ^ 64 ≤ c.v + n)) := by
  unfold Ctr.addStat
  dsimp only
  split
  · next h => rw [Nat.mod_eq_of_lt h, decide_eq_false (Nat.not_le.2 h), Bool.or_false]
  · next h => rw [decide_eq_true (Nat.not_lt.1 h), Bool.or_true]

theorem bumpStat_eq (s : State) (a n : Nat) : bumpStat s a n =
    ({ s with
        ctrs := tset s.ctrs a ((s.ctr a).addStat n).1
        flagSet := if 2 ^ 64 ≤ (s.ctr a).v + n then tset s.flagSet a s.clk.up else s.flagSet },
      decide (2 ^ 64 ≤ (s.ctr a).v + n)) := by
  simp only [bumpStat, addStat_eq, noteFlag_eq, decide_eq_true_eq]

/-- Counting changes no setting of the wrap events. -/
theorem wrapOn_bumpStat (s : State) (a n : Nat) : wrapOn (bumpStat s a n).1 a = wrapOn s a := by
  rw [bumpStat_eq]; rfl

theorem countStat_of_wrap {s : State} {a n : Nat} (h : 2 ^ 64 ≤ (s.ctr a).v + n) : countStat s a n =
    if s.cfgN (itemId 2 1 5) (wrapBlock s a / 0x1000) 0 0 = 1 then wrapEvent (bumpStat s a n).1 a else (bumpStat s a n).1 := by
  have hb : (bumpStat s a n).2 = true := by rw [bumpStat_eq]; exact decide_eq_true h
  simp only [countStat, hb, wrapOn_bumpStat, Bool.true_and]
  simp only [wrapOn, beq_iff_eq]

theorem countStat_of_lt {s : State} {a n : Nat} (h : (s.ctr a).v + n < 2 ^ 64) : countStat s a n = (bumpStat s a n).1 := by
  have hb : (bumpStat s a n).2 = false := by rw [bumpStat_eq]; exact decide_eq_false (Nat.not_le.2 h)
  simp only [countStat, hb, Bool.false_and, Bool.false_eq_true, if_false]

/-- Errors counted one by one from a cleared counter: the counter stops at its top, and the first one past it sets the flag. -/
theorem repeat_addErr (n : Nat) :
    Nat.repeat (fun c : Ctr => c.addErr 1) n {} = { v := min n 0xFFFFFFFF, flag := decide (0xFFFFFFFF < n) } := by
  induction n with
  | zero => rfl
  | succ n ih =>
    rw [Nat.repeat, ih, Ctr.addErr]
    split
    · next h => simp only [Ctr.mk.injEq, decide_eq_decide, and_true]; dsimp only at h; omega
    · next h =>
      dsimp only at h
      simp only [Ctr.mk.injEq, and_true]
      exact ⟨by omega, (decide_eq_true (by omega)).symm⟩

theorem ctr_countErr (s : State) (a b : Nat) : (countErr s a).ctr b = if b = a then (s.ctr a).addErr 1 else s.ctr b :=
  tget_tmod s.ctrs a b {} (·.addErr 1)

theorem flagNow_countErr_of_top {s : State} {a : Nat} (h : 0xFFFFFFFF ≤ (s.ctr a).v) : (countErr s a).flagNow a = true := by
  simp [countErr, countErrs, State.flagNow, State.noteFlag, Nat.lt_succ_of_le h, tget?_tset]

theorem ctr_clearFlagAt (s : State) (a : Nat) :
    (clearFlagAt s a).ctr a = if s.flagNow a then (s.ctr a).clearShadow else (s.ctr a).clearFlag := by
  simp only [State.ctr, clearFlagAt, tget_tmod, if_true]
  split <;> rfl

/-- A flag that an event sets in the cycle of its clear stays set (R6). -/
theorem flag_clearFlagAt_countErr {s : State} {a : Nat} (h : 0xFFFFFFFF ≤ (s.ctr a).v) :
    ((clearFlagAt (countErr s a) a).ctr a).flag = true := by
  rw [ctr_clearFlagAt, if_pos (flagNow_countErr_of_top h), ctr_countErr, if_pos rfl]
  simp [Ctr.clearShadow, Ctr.addErr, Nat.not_le.2 (Nat.lt_succ_of_le h)]

/-! ### Snapshots and clears of an address range (R14) -/

theorem tget?_ctrRange (t : Tab Ctr) (a n b : Nat) (f : Ctr → Ctr) :
    tget? (ctrRange t a n f) b = (tget? t b).map (fun c => if a ≤ b ∧ b < a + n then f c else c) := by
  induction t with
  | nil => rfl
  | cons p r ih =>
    rw [ctrRange, List.map_cons, tget?_cons, tget?_cons]
    by_cases hb : p.1 = b
    · subst hb; split <;> simp [*]
    · rw [if_neg hb, if_neg (by split <;> exact hb)]; exact ih

theorem tget?_filter_key {α : Type} (t : Tab α) (q : Nat → Bool) (b : Nat) :
    tget? (t.filter (fun p => q p.1)) b = if q b then tget? t b else none := by
  induction t with
  | nil => simp [tget?]
  | cons p r ih =>
    by_cases hb : p.1 = b
    · subst hb; cases hq : q p.1 <;> simp_all [tget?_cons]
    · cases hq : q p.1 <;> simp [hq, tget?_cons, hb, ih]

theorem ctr_snapRange (s : State) (a n b : Nat) :
    (snapRange s a n).ctr b = if a ≤ b ∧ b < a + n then (s.ctr b).snap else s.ctr b := by
  simp only [State.ctr, snapRange, tget, tget?_ctrRange]
  cases tget? s.ctrs b with
  | none => simp [Ctr.snap]
  | some c => rfl

theorem ctr_clearRange (s : State) (a n b : Nat) : (clearRange s a n).ctr b = if a ≤ b ∧ b < a + n then {} else s.ctr b := by
  simp only [State.ctr, clearRange, tget, tget?_filter_key s.ctrs (fun k => !(decide (a ≤ k) && decide (k < a + n))) b]
  by_cases h : a ≤ b ∧ b < a + n
  · simp [h]
  · rw [if_pos (by simp; omega), if_neg h]

/-! ### Writes to a word of a block (R5, R342) -/

/-- The word at offset `o` of a block is one that a register access reaches: aligned, and of no other block. -/
abbrev Block.Holds (b : Block) (o : Nat) : Prop := (b.base + o) % 4 = 0 ∧ b.base + o < 2 ^ 44 ∧ blockAt (b.base + o) = some b

/-- The word at offset `o` is neither a trigger nor a register of sticky bits. -/
abbrev BlockKind.Plain (k : BlockKind) (o : Nat) : Prop :=
  k.triggers.1 ≠ some o ∧ k.triggers.2 ≠ some o ∧ k.groups.any (fun g => g.flagOff == o) = false

theorem writeReg_of_holds {b : Block} {o : Nat} (h : b.Holds o) (s : State) (v : Nat) :
    writeReg s (b.base + o) v = writeWord s b o v := by
  obtain ⟨halign, hlt, hb⟩ := h
  simp only [writeReg]
  rw [if_neg (by omega), hb]
  simp only [Nat.add_sub_cancel_left]

theorem writeWord_snap {b : Block} {o : Nat} (h : b.kind.triggers.1 = some o) (s : State) (v : Nat) :
    writeWord s b o v = if v.testBit 0 then snapBlock s b else s := if_pos h

theorem writeWord_clear {b : Block} {o : Nat} (h : b.kind.triggers.1 ≠ some o) (h2 : b.kind.triggers.2 = some o) (s : State) (v : Nat) :
    writeWord s b o v = if v.testBit 0 then clearBlock s b else s := (if_neg h).trans (if_pos h2)

theorem writeWord_flags {b : Block} {o : Nat} (h : b.kind.triggers.1 ≠ some o) (h2 : b.kind.triggers.2 ≠ some o)
    (hf : b.kind.groups.any (fun g => g.flagOff == o) = true) (s : State) (v : Nat) :
    writeWord s b o v = clearFlags s b.base o v b.kind.groups := by
  rw [writeWord, if_neg h, if_neg h2, if_pos hf]

theorem writeWord_plain {b : Block} {o : Nat} (h : b.kind.Plain o) (s : State) (v : Nat) :
    writeWord s b o v = writeSpecial s b o v := by
  obtain ⟨h1, h2, hf⟩ := h
  rw [writeWord, if_neg h1, if_neg h2, hf, if_neg Bool.false_ne_true]

/-- A row that writes a plain word of a block. -/
theorem regRow_plain {b : Block} {o : Nat} (h : b.Holds o) (hp : b.kind.Plain o) (s : State) (v : Word32) :
    regRow s (b.base + o) v = .next (writeSpecial s b o v.toNat) := by
  rw [regRow, writeReg_of_holds h, writeWord_plain hp]

/-! ### The rows that write a trigger (R14) -/

/-- A write of 1 to bit 0 by the rows `c` performs `act`, a write of 0 does nothing. -/
def TriggerRow (c : Word32 → Instr) (act : State → State) : Prop :=
  ∀ (s : State) (v : Word32), exec (c v) s = .next (if v.getLsbD 0 then act s else s)

theorem TriggerRow.set {c : Word32 → Instr} {act : State → State} (h : TriggerRow c act) {v : Word32} (hv : v.getLsbD 0 = true)
    (s : State) : exec (c v) s = .next (act s) := by rw [h, if_pos hv]

theorem TriggerRow.unset {c : Word32 → Instr} {act : State → State} (h : TriggerRow c act) {v : Word32} (hv : v.getLsbD 0 = false)
    (s : State) : exec (c v) s = .next s := by rw [h, hv, if_neg Bool.false_ne_true]

theorem triggerRow_snap {c : Word32 → Instr} {b : Block} {o : Nat} (hc : ∀ s v, exec (c v) s = regRow s (b.base + o) v)
    (hb : b.Holds o) (ht : b.kind.triggers.1 = some o) : TriggerRow c (snapBlock · b) := fun s v => by
  rw [hc, regRow, writeReg_of_holds hb, writeWord_snap ht, BitVec.testBit_toNat]

theorem triggerRow_clear {c : Word32 → Instr} {b : Block} {o : Nat} (hc : ∀ s v, exec (c v) s = regRow s (b.base + o) v)
    (hb : b.Holds o) (ht : b.kind.triggers.1 ≠ some o) (ht2 : b.kind.triggers.2 = some o) : TriggerRow c (clearBlock · b) :=
  fun s v => by
    rw [hc, regRow, writeReg_of_holds hb, writeWord_clear ht ht2, BitVec.testBit_toNat]

/-- The two trigger rows of a block. -/
structure TriggerRows (snap clear : Word32 → Instr) (onSnap onClear : State → State) : Prop where
  snap : TriggerRow snap onSnap
  clear : TriggerRow clear onClear

/-- A block whose snapshot trigger stands at 0 and whose clear trigger at 4. -/
theorem triggerRows_of_common {snap clear : Word32 → Instr} (b : Block) (hsnap : ∀ s v, exec (snap v) s = regRow s b.base v)
    (hclear : ∀ s v, exec (clear v) s = regRow s (b.base + 4) v) (hb : b.Holds 0 ∧ b.Holds 4)
    (ht : b.kind.triggers = (some 0, some 4)) : TriggerRows snap clear (snapBlock · b) (clearBlock · b) :=
  ⟨triggerRow_snap (o := 0) hsnap hb.1 (by rw [ht]), triggerRow_clear hclear hb.2 (by rw [ht]; simp) (by rw [ht])⟩

theorem parser_triggers : TriggerRows .parseSnap .parseClear (snapRange · parserBase 0x1000) (clearRange · parserBase 0x1000) :=
  triggerRows_of_common ⟨.parser, parserBase, 0⟩ (fun _ _ => rfl) (fun _ _ => rfl) (by decide) rfl

theorem table_triggers (n : Fin 16) : TriggerRows (.tblSnap n) (.tblClear n)
    (fun s => (snapRange s (tableBase n.val) 0x1000).onTbl n.val (fun t => { t with sdigest := t.digest }))
    (clearRange · (tableBase n.val) 0x1000) :=
  triggerRows_of_common ⟨.table, tableBase n.val, n.val⟩ (fun _ _ => rfl) (fun _ _ => rfl) (by revert n; decide) rfl

theorem tmLp_triggers (n : Fin 16) :
    TriggerRows (.tmSnap n) (.tmClear n) (snapRange · (tmBase n.val) 0x1000) (clearRange · (tmBase n.val) 0x1000) :=
  triggerRows_of_common ⟨.tmLp, tmBase n.val, n.val⟩ (fun _ _ => rfl) (fun _ _ => rfl) (by revert n; decide) rfl

theorem tmGlobal_triggers : TriggerRows .tmGsnap .tmGclear (snapRange · tmGlobalBase 0x1000) (clearRange · tmGlobalBase 0x1000) :=
  triggerRows_of_common ⟨.tmGlobal, tmGlobalBase, 0⟩ (fun _ _ => rfl) (fun _ _ => rfl) (by decide) rfl

theorem eht_triggers : TriggerRows .ehtSnap .ehtClear (snapRange · ehtBase 0x1000) (clearRange · ehtBase 0x1000) :=
  triggerRows_of_common ⟨.eht, ehtBase, 0⟩ (fun _ _ => rfl) (fun _ _ => rfl) (by decide) rfl

theorem storage_triggers : TriggerRows .stoSnap .stoClear (snapRange · stoBase 0x1000) (clearRange · stoBase 0x1000) :=
  triggerRows_of_common ⟨.storage, stoBase, 0⟩ (fun _ _ => rfl) (fun _ _ => rfl) (by decide) rfl

theorem stall_triggers (n : Fin 12) :
    TriggerRows (.stallSnap n) (.stallClear n) (snapRange · (stallBase n.val) 0x1000) (clearRange · (stallBase n.val) 0x1000) :=
  triggerRows_of_common ⟨.stall, stallBase n.val, n.val⟩ (fun _ _ => rfl) (fun _ _ => rfl) (by revert n; decide) rfl

theorem security_triggers : TriggerRows .secSnap .secClear (snapRange · secBase 0x1000) (clearRange · secBase 0x1000) :=
  triggerRows_of_common ⟨.security, secBase, 0⟩ (fun _ _ => rfl) (fun _ _ => rfl) (by decide) rfl

theorem memory_triggers : TriggerRows .memSnap .memClear (snapRange · memBase 0x1000) (clearRange · memBase 0x1000) :=
  triggerRows_of_common ⟨.memory, memBase, 0⟩ (fun _ _ => rfl) (fun _ _ => rfl) (by decide) rfl

theorem clerk_triggers : TriggerRows .clkSnap .clkClear (snapRange · clerkBase 0x1000) (clearRange · clerkBase 0x1000) :=
  triggerRows_of_common ⟨.clerk, clerkBase, 0⟩ (fun _ _ => rfl) (fun _ _ => rfl) (by decide) rfl

theorem cpr_triggers : TriggerRows .cprSnap .cprClear (snapRange · cprBase 0x1000) (clearRange · cprBase 0x1000) :=
  triggerRows_of_common ⟨.cpr, cprBase, 0⟩ (fun _ _ => rfl) (fun _ _ => rfl) (by decide) rfl

theorem teasel_triggers : TriggerRows .tslSnap .tslClear (snapRange · tslBase 0x1000) (clearRange · tslBase 0x1000) :=
  triggerRows_of_common ⟨.teasel, tslBase, 0⟩ (fun _ _ => rfl) (fun _ _ => rfl) (by decide) rfl

/-- A port's triggers reach its logical ports, and its snapshot their monitors too (R66). -/
theorem port_triggers (p : Fin 2) : TriggerRows (.portSnap p) (.portClear p)
    (fun s => (portLps p.val).foldl (fun s lp => exlatSnap (snapRange s (lportBase lp) 0x800) lp) (snapRange s (portBase p.val) 0x1000))
    (fun s => (portLps p.val).foldl (fun s lp => clearRange s (lportBase lp) 0x800) (clearRange s (portBase p.val) 0x1000)) where
  snap := triggerRow_snap (b := ⟨.port, portBase p.val, p.val⟩) (o := 4) (fun _ _ => rfl) (by revert p; decide) rfl
  clear := triggerRow_clear (b := ⟨.port, portBase p.val, p.val⟩) (o := 8) (fun _ _ => rfl) (by revert p; decide) (by revert p; decide) rfl

theorem exlatSnap_trigger (lp : Fin 16) : TriggerRow (.exlatSnap lp) (exlatSnap · lp.val) :=
  triggerRow_snap (b := ⟨.exlat, exlatBase lp.val, lp.val⟩) (o := 8) (fun _ _ => rfl) (by revert lp; decide) rfl

/-! ### The words with fields of their own -/

/-- The words of a latency monitor that a write changes. -/
theorem regRow_exlat (lp : Fin 16) : ∀ o ∈ [0, 4, 0x94], ∀ (s : State) (v : Word32),
    regRow s (exlatBase lp.val + o) v = .next (writeSpecial s ⟨.exlat, exlatBase lp.val, lp.val⟩ o v.toNat) := by
  have hplain : ∀ o ∈ [0, 4, 0x94], BlockKind.exlat.Plain o := by decide
  have hholds : ∀ o ∈ [0, 4, 0x94], Block.Holds ⟨.exlat, exlatBase lp.val, lp.val⟩ o := by revert lp; decide
  exact fun o ho => regRow_plain (hholds o ho) (hplain o ho)

theorem exec_exlatCtlClear (lp : Fin 16) (v : Word32) (s : State) :
    let y := s.onLp lp.val (fun q => { q with exlat := { q.exlat with en := v.getLsbD 0, scope := v.getLsbD 1 } })
    exec (.exlatCtlClear lp v) s = .next (if v.getLsbD 2 then exlatClear y lp.val else y) :=
  (regRow_exlat lp 0 (by simp) s v).trans (by simp only [writeSpecial, if_true, BitVec.testBit_toNat])

theorem exec_exlatValidRearm (lp : Fin 16) (v : Word32) (s : State) :
    exec (.exlatValidRearm lp v) s = .next (if v.getLsbD 31 = true ∧ s.flagNow (exlatBase lp.val + 0x94) = false then
      s.onLp lp.val (fun q => { q with exlat := { q.exlat with valid := false } }) else s) :=
  (regRow_exlat lp 0x94 (by simp) s v).trans (by simp [writeSpecial, BitVec.testBit_toNat])

theorem exec_memValidRearm (v : Word32) (s : State) :
    exec (.memValidRearm v) s = .next (if v.getLsbD 31 = true ∧ s.flagNow (memBase + 0x20) = false then
      { s with mem.lastxValid := false } else s) :=
  (regRow_plain (b := ⟨.memory, memBase, 0⟩) (o := 0x20) (by decide) (by decide) s v).trans (by simp [writeSpecial, BitVec.testBit_toNat])

/-- Settles O14: counting, the frame of a snapshot and a clear, and the triggers of every block. -/
theorem countersAndTriggers : Obligations.CountersAndTriggers := by
  unfold Obligations.CountersAndTriggers
  refine ⟨fun s a n _ _ => ?statistics, fun n => ?errors, fun s a n b _ => ?ranges, fun s v => ?snapshots, fun s v => ?clears,
    fun s v lp p => ?monitors⟩
  case statistics =>
    intro c y
    have hy : (bumpStat s a n).1 = y := by rw [bumpStat_eq, addStat_eq]
    rw [← hy]
    exact ⟨countStat_of_lt, fun h hon => (countStat_of_wrap h).trans (if_pos hon),
      fun h hoff => (countStat_of_wrap h).trans (if_neg hoff)⟩
  case errors =>
    rw [repeat_addErr]
    refine ⟨rfl, by simp, rfl, rfl, rfl, ctr_countErr, fun s a => ⟨flag_clearFlagAt_countErr, fun h => ?_⟩⟩
    rw [ctr_clearFlagAt, h]
    exact ⟨rfl, rfl⟩
  case ranges =>
    rw [ctr_snapRange, ctr_clearRange]
    exact ⟨fun h1 h2 => ⟨if_pos ⟨h1, h2⟩, if_pos ⟨h1, h2⟩⟩, fun h => ⟨if_neg h, if_neg h⟩, rfl, rfl⟩
  case snapshots =>
    refine ⟨fun hv => ?_, fun hv n m => ?_⟩
    · exact ⟨parser_triggers.snap.set hv s, fun n => (table_triggers n).snap.set hv s, fun n => (tmLp_triggers n).snap.set hv s,
        tmGlobal_triggers.snap.set hv s, eht_triggers.snap.set hv s, storage_triggers.snap.set hv s,
        fun n => (stall_triggers n).snap.set hv s, security_triggers.snap.set hv s, memory_triggers.snap.set hv s,
        clerk_triggers.snap.set hv s, cpr_triggers.snap.set hv s, teasel_triggers.snap.set hv s⟩
    · simp only [List.forall_mem_cons, List.not_mem_nil, false_implies, implies_true, and_true]
      exact ⟨parser_triggers.snap.unset hv s, (table_triggers n).snap.unset hv s, (tmLp_triggers n).snap.unset hv s,
        tmGlobal_triggers.snap.unset hv s, eht_triggers.snap.unset hv s, storage_triggers.snap.unset hv s,
        (stall_triggers m).snap.unset hv s, security_triggers.snap.unset hv s, memory_triggers.snap.unset hv s,
        clerk_triggers.snap.unset hv s, cpr_triggers.snap.unset hv s, teasel_triggers.snap.unset hv s⟩
  case clears =>
    refine ⟨fun hv => ?_, fun hv n m => ?_⟩
    · exact ⟨parser_triggers.clear.set hv s, fun n => (table_triggers n).clear.set hv s, fun n => (tmLp_triggers n).clear.set hv s,
        tmGlobal_triggers.clear.set hv s, eht_triggers.clear.set hv s, storage_triggers.clear.set hv s,
        fun n => (stall_triggers n).clear.set hv s, security_triggers.clear.set hv s, memory_triggers.clear.set hv s,
        clerk_triggers.clear.set hv s, cpr_triggers.clear.set hv s, teasel_triggers.clear.set hv s⟩
    · simp only [List.forall_mem_cons, List.not_mem_nil, false_implies, implies_true, and_true]
      exact ⟨parser_triggers.clear.unset hv s, (table_triggers n).clear.unset hv s, (tmLp_triggers n).clear.unset hv s,
        tmGlobal_triggers.clear.unset hv s, eht_triggers.clear.unset hv s, storage_triggers.clear.unset hv s,
        (stall_triggers m).clear.unset hv s, security_triggers.clear.unset hv s, memory_triggers.clear.unset hv s,
        clerk_triggers.clear.unset hv s, cpr_triggers.clear.unset hv s, teasel_triggers.clear.unset hv s⟩
  case monitors =>
    intro anew
    refine ⟨fun hv => ⟨(exlatSnap_trigger lp).set hv s, (port_triggers p).snap.set hv s, (port_triggers p).clear.set hv s⟩,
      fun hv => ⟨(exlatSnap_trigger lp).unset hv s, (port_triggers p).snap.unset hv s, (port_triggers p).clear.unset hv s⟩,
      ⟨fun hv => ?_, fun hv => ?_⟩, fun hv => ⟨fun hf => ?_, fun hf => ?_, fun hf => ?_, fun hf => ?_⟩, fun hv => ?_⟩
    · rw [exec_exlatCtlClear, if_pos hv]; rfl
    · rw [exec_exlatCtlClear, hv, if_neg Bool.false_ne_true]
    · rw [exec_exlatValidRearm, if_pos ⟨hv, hf⟩]
    · rw [exec_exlatValidRearm, if_neg (by simp [hf])]
    · rw [exec_memValidRearm, if_pos ⟨hv, hf⟩]
    · rw [exec_memValidRearm, if_neg (by simp [hf])]
    · rw [exec_exlatValidRearm, exec_memValidRearm, hv]; simp

/-! ### Any other register write (R5) -/

/-- A register write that nothing answers: no block, or a word of one that is no trigger, no register of sticky bits and no
field that a write changes. -/
def ignoredAt (a : Nat) : Bool :=
  match blockAt a with
  | none => true
  | some b =>
    decide (b.kind.Plain (a - b.base)) && decide (b.kind ≠ .exlat) && decide (b.kind = .table → a - b.base ≠ 8)
      && decide (b.kind = .memory → a - b.base ≠ 0x20) && decide (b.kind = .cpr → a - b.base ≠ 0x14)

theorem writeReg_of_ignoredAt {a : Nat} (h : ignoredAt a = true) (s : State) (v : Nat) : writeReg s a v = s := by
  rw [writeReg]
  split
  · rfl
  · unfold ignoredAt at h
    split
    · next b hb =>
      simp only [hb, Bool.and_eq_true, decide_eq_true_eq] at h
      obtain ⟨⟨⟨⟨hplain, hexlat⟩, htable⟩, hmemory⟩, hcpr⟩ := h
      rw [writeWord_plain hplain, writeSpecial]
      split
      · next hk => exact absurd hk hexlat
      · next hk => exact if_neg (fun h => htable hk h.1)
      · next hk => exact if_neg (fun h => hmemory hk h.1)
      · next hk => exact if_neg (hcpr hk)
      · rfl
    · rfl

theorem writeReg_of_misaligned {a : Nat} (h : a % 4 ≠ 0) (s : State) (v : Nat) : writeReg s a v = s := if_pos (.inl h)

/-- Each 1 written to a register of sticky bits clears its bit, live and shadow. -/
theorem writeReg_flags {a : Nat} {b : Block} (ha : a % 4 = 0) (hlt : a < 2 ^ 44) (hb : blockAt a = some b)
    (hf : b.kind.groups.any (fun g => g.flagOff == a - b.base) = true) (h1 : b.kind.triggers.1 ≠ some (a - b.base))
    (h2 : b.kind.triggers.2 ≠ some (a - b.base)) (s : State) (v : Nat) :
    writeReg s a v = clearFlags s b.base (a - b.base) v b.kind.groups := by
  rw [writeReg, if_neg (by omega), hb]
  exact writeWord_flags h1 h2 hf s v

theorem exec_write_rstCause (v : Word32) (s : State) :
    exec (.registerWrite (cprBase + 0x14) v) s = .next { s with clk.rstCause := s.clk.rstCause &&& ~~~v } :=
  (regRow_plain (b := ⟨.cpr, cprBase, 0⟩) (o := 0x14) (by decide) (by decide) s v).trans (by simp [writeSpecial])

/-- The exceed threshold takes 1 to 1,000,000 (R46). -/
theorem exec_write_thresh (lp : Fin 16) (v : Word32) (s : State) :
    exec (.registerWrite (exlatBase lp.val + 4) v) s = .next (if 1 ≤ v.toNat ∧ v.toNat ≤ 1000000 then
      s.onLp lp.val (fun q => { q with exlat := { q.exlat with thresh := v.toNat } }) else s) :=
  (regRow_exlat lp 4 (by simp) s v).trans (by simp [writeSpecial])

theorem exec_write_resync (tb : Fin 16) (v : Word32) (s : State) :
    exec (.registerWrite (tableBase tb.val + 8) v) s = .next (if v.getLsbD 8 = true ∧ s.flagNow (tableBase tb.val + 8) = false then
      s.onTbl tb.val (fun t => { t with resync := false }) else s) :=
  (regRow_plain (b := ⟨.table, tableBase tb.val, tb.val⟩) (o := 8) (by revert tb; decide) (by revert tb; decide) s v).trans
    (by simp [writeSpecial, BitVec.testBit_toNat])

/-! ### REG_READ and REG_WRITE (R342) -/

/-- A mailbox command that the Clerk takes up is answered with what its handler gives. -/
theorem answers_of_takes {t : Nat} {s x : State} {r : Req} {code : Nat} {slot : Option Nat} {c : Instr} {f : State → Req → Res}
    (hc : exec c s = serve t r code f s) (h : Takes t s r code x slot) : Answers c s r slot (f x r) :=
  hc.trans (serve_of_takes h f)

section RegRange

variable {a n : Nat} {b : Block}

theorem regRange_inside (ha : a % 4 = 0) (hlt : a < 2 ^ 44) (hn : n % 4 = 0) (h4 : 4 ≤ n) (hmax : n ≤ 4064) (hb : blockAt a = some b)
    (hend : a + n ≤ b.base + b.size) : regRange a n = .inl b := by
  rw [regRange, if_neg (by omega), if_neg (by omega), hb]
  exact if_pos hend

theorem regRange_past_end (ha : a % 4 = 0) (hlt : a < 2 ^ 44) (hn : n % 4 = 0) (h4 : 4 ≤ n) (hmax : n ≤ 4064) (hb : blockAt a = some b)
    (hend : b.base + b.size < a + n) : regRange a n = .inr 2 := by
  rw [regRange, if_neg (by omega), if_neg (by omega), hb]
  exact if_neg (by omega)

theorem regRange_bad_length (ha : a % 4 = 0) (hlt : a < 2 ^ 44) (hn : n % 4 ≠ 0 ∨ n < 4 ∨ 4064 < n) : regRange a n = .inr 2 := by
  rw [regRange, if_neg (by omega), if_pos hn]

theorem regRange_bad_address (h : a % 4 ≠ 0 ∨ blockAt a = none ∧ n % 4 = 0 ∧ 4 ≤ n ∧ n ≤ 4064) : regRange a n = .inr 1 := by
  rw [regRange]
  split
  · rfl
  · next hgood =>
    obtain ⟨hb, hn, h4, hmax⟩ := h.resolve_left (fun ha => hgood (.inl ha))
    rw [if_neg (by omega), hb]

end RegRange

theorem regReadCmd_of_inl {r : Req} {b : Block} (hbody : r.body.length = 16) (h : regRange (num r 0) (num r 1) = .inl b) (s : State) :
    regReadCmd s r =
      { st := s, out := (List.range (num r 1 / 4)).flatMap (fun i => leBytes 4 (regWord s b (num r 0 - b.base + 4 * i))) } := by
  simp [regReadCmd, bodyIs, hbody, h, gives]

theorem regReadCmd_of_inr {r : Req} {p : Nat} (hbody : r.body.length = 16) (h : regRange (num r 0) (num r 1) = .inr p) (s : State) :
    regReadCmd s r = { st := s, status := mbxInvalid, arg := p } := by
  simp [regReadCmd, bodyIs, hbody, h, failsAt]

theorem regWriteCmd_of_inl {r : Req} {b : Block} (hbody : 8 ≤ r.body.length) (h : regRange (num r 0) (r.body.length - 8) = .inl b)
    (s : State) : regWriteCmd s r =
      { st := (List.range ((r.body.length - 8) / 4)).foldl
          (fun s i => writeWord s b (num r 0 - b.base + 4 * i) (leAt r.body (8 + 4 * i) 4)) s } := by
  simp [regWriteCmd, Nat.not_lt.2 hbody, h, done]

/-- Settles O15: register writes by what stands at their address, and the two register commands by their range. -/
theorem registerWrites : Obligations.RegisterWrites := by
  unfold Obligations.RegisterWrites
  refine ⟨fun s v => ⟨exec_write_rstCause v s, ?sticky, fun lp => ⟨fun h1 h2 => ?thresh, fun h => ?badThresh⟩,
      fun tb hv => ⟨fun hf => ?resync, fun hf => ?resyncNow⟩, ?ignored, ?misaligned⟩,
    fun t s x r slot => ⟨fun hx hbody => ⟨?read, fun h => ?readAddress, fun ha hlt hn => ?readLength, ?readPastEnd⟩, ?write⟩⟩
  case sticky =>
    exact fun a b ha hlt hb hf h1 h2 => congrArg Host.Outcome.next (writeReg_flags ha hlt hb hf h1 h2 s v.toNat)
  case thresh => rw [exec_write_thresh, if_pos ⟨h1, h2⟩]
  case badThresh => rw [exec_write_thresh, if_neg (by omega)]
  case resync => rw [exec_write_resync, if_pos ⟨hv, hf⟩]
  case resyncNow => rw [exec_write_resync, if_neg (by simp [hf])]
  case ignored =>
    refine fun a ha => congrArg Host.Outcome.next (writeReg_of_ignoredAt ?_ s v.toNat)
    revert a
    decide
  case misaligned => exact fun a ha => congrArg Host.Outcome.next (writeReg_of_misaligned ha s v.toNat)
  case read =>
    intro b ha hlt hn h4 hmax hb hend
    rw [← regReadCmd_of_inl hbody (regRange_inside ha hlt hn h4 hmax hb hend)]
    exact answers_of_takes rfl hx
  case readAddress =>
    rw [← regReadCmd_of_inr hbody (regRange_bad_address h)]
    exact answers_of_takes rfl hx
  case readLength =>
    rw [← regReadCmd_of_inr hbody (regRange_bad_length ha hlt hn)]
    exact answers_of_takes rfl hx
  case readPastEnd =>
    intro b ha hlt hn h4 hmax hb hend
    rw [← regReadCmd_of_inr hbody (regRange_past_end ha hlt hn h4 hmax hb hend)]
    exact answers_of_takes rfl hx
  case write =>
    intro hx b hmin hmax hlen ha hlt hb hend
    rw [← regWriteCmd_of_inl (by omega) (regRange_inside ha hlt (by omega) (by omega) (by omega) hb hend)]
    exact answers_of_takes rfl hx

end Sys2Proof.Machine

/-! Proofs of the statements on quiesces (R26 to R30, R65, R405, R459). -/

namespace Sys2Proof.Machine

/-! ### The quiesce records through an event -/

@[simp] theorem bumpStat_qs (s : State) (a n : Nat) : (bumpStat s a n).1.qs = s.qs := by rw [bumpStat_eq]

@[simp] theorem trimLog_qs (s : State) : (trimLog s).qs = s.qs := by
  unfold trimLog
  split
  · rfl
  · split
    · rfl
    · simp

@[simp] theorem rawEvent_qs (s : State) (code object : Nat) (data : Bytes) : (rawEvent s code object data).qs = s.qs := by
  simp [rawEvent]

@[simp] theorem wrapRecord_qs (s : State) (a : Nat) : (wrapRecord s a).qs = s.qs := by
  unfold wrapRecord; split <;> exact rawEvent_qs ..

@[simp] theorem wrapEvent_qs (s : State) (a : Nat) : (wrapEvent s a).qs = s.qs := by
  unfold wrapEvent; dsimp only; split <;> simp

@[simp] theorem countStat_qs (s : State) (a n : Nat) : (countStat s a n).qs = s.qs := by
  unfold countStat; dsimp only; split <;> simp

@[simp] theorem raise_qs (s : State) (code object : Nat) (data : Bytes) : (raise s code object data).qs = s.qs := by
  simp [raise]

/-! ### An object's quiesce record -/

section QuiesceRecord

variable {s x : State} {o : QObj} {rec : QRec}

theorem disabled_of_q? (h : s.q? o = some rec) : s.disabled o = rec.done := by rw [State.disabled, h]

/-- A quiesce runs or has completed, not both. -/
theorem disabled_of_quiescing (h : s.quiescing o = true) : s.disabled o = false := by
  revert h
  unfold State.quiescing State.disabled
  split <;> simp

theorem disabled_qSet_done (s : State) (o : QObj) (rec : QRec) : (s.qSet o { rec with done := true }).disabled o = true :=
  disabled_of_q? (rec := { rec with done := true }) (by simp [State.q?, State.qSet])

theorem disabled_raise (s : State) (code object : Nat) (data : Bytes) (o : QObj) :
    (raise s code object data).disabled o = s.disabled o := by simp only [State.disabled, State.q?, raise_qs]

/-! ### How a quiesce ends (R26, R28, R29) -/

theorem tryFinish_of_inFlight (h : s.q? o = some rec) (hn : inFlight s rec o ≠ 0) : tryFinish s o = s := by
  simp [tryFinish, h, hn]

theorem tryFinish_of_idle (h : s.q? o = some rec) (hd : rec.done = false) (hn : inFlight s rec o = 0) :
    tryFinish s o = finishQuiesce s o rec := by simp [tryFinish, h, hd, hn]

/-- The end of a queue's quiesce, before its event: a disable of its tenant function counts its items (R30), and it stays
disabled (R29). -/
def queueStopped (s : State) (q : Nat) (rec : QRec) : State :=
  (countChild s (.tmQueue q) rec).qSet (.tmQueue q) { rec with done := true }

theorem finishQuiesce_tmQueue (s : State) (q : Nat) (rec : QRec) : finishQuiesce s (.tmQueue q) rec =
    raise (queueStopped s q rec) 0x0102 q
      (encN rec.kind ++ encN q ++ encN rec.drained ++ encN rec.aborted ++ encN (s.clk.up - rec.start)) := rfl

theorem disabled_finishQuiesce_tmQueue (s : State) (q : Nat) (rec : QRec) :
    (finishQuiesce s (.tmQueue q) rec).disabled (.tmQueue q) = true := by
  rw [finishQuiesce_tmQueue, disabled_raise]; exact disabled_qSet_done ..

/-! ### What an abort leaves (R28, R143, R273) -/

theorem abortObj_tmQueue {q lp : Nat} (h : s.q? (.tmQueue q) = some rec) (hlp : s.qsetPort (q / 8) = some lp) :
    let y := markAbort s (.tmQueue q)
    let n := queueFrames y lp q
    abortObj s (.tmQueue q) =
      (countErrs (countErrs (dropQueue y lp q).1 (qErr q 1) n) (tmBase lp + 0x48) n).qCount (.tmQueue q) 0 n := by
  intro y n
  have hy : y.qsetPort (q / 8) = some lp := hlp
  have hq : abortQueue y q = (countErrs (countErrs (dropQueue y lp q).1 (qErr q 1) n) (tmBase lp + 0x48) n, n) := by
    rw [abortQueue, hy]; rfl
  rw [abortObj, h]
  exact congrArg (fun r : State × Nat => r.1.qCount (.tmQueue q) 0 r.2) hq

theorem frames_dropQueue (s : State) (lp q : Nat) : ((dropQueue s lp q).1.tq q).frames = [] := by
  simp [dropQueue, State.tq, State.onTq, tget_tmod]

/-- The rings of an aborted Stall are those of before, emptied. -/
theorem chans_abortStall (s : State) (st : Nat) : ∃ chans : Tab Chan, (abortStall s st).ido.chans =
    chans.map (fun p => if p.1 / 1024 = st then (p.1, { p.2 with msgs := [], pos := 0 }) else p) := by
  simp only [abortStall, State.qCount, countErrs_ido, State.onStall]
  exact ⟨_, rfl⟩

theorem msgs_abortStall {st : Nat} : ∀ p ∈ (abortStall s st).ido.chans, p.1 / 1024 = st → p.2.msgs = [] := by
  obtain ⟨chans, h⟩ := chans_abortStall s st
  intro p hp hst
  rw [h] at hp
  obtain ⟨c, -, rfl⟩ := List.mem_map.1 hp
  by_cases hc : c.1 / 1024 = st
  · rw [if_pos hc]
  · rw [if_neg hc] at hst
    exact absurd hst hc

theorem abortObj_stall {n : Fin 12} (h : s.q? (.stall n) = some rec) :
    abortObj s (.stall n) = abortStall (markAbort s (.stall n)) n.val := by rw [abortObj, h]; rfl

end QuiesceRecord

/-- What QUIESCE_TIMEOUT does at its instant: the abort of a quiesce that has run to its timeout and is not aborting yet (R28). -/
theorem ends_quiesceTimeout {t : Nat} {s x : State} {o : QObj} {rec : QRec} (hx : x = s.advance t) (h : x.q? o = some rec) :
    Ends (.quiesceTimeout t o) s
      (if rec.done = false ∧ rec.abort = false ∧ rec.deadline ≤ x.clk.up then abortObj x o else x) := by
  subst hx
  have hrow : exec (.quiesceTimeout t o) s = execQuiesceTimeout t o s := rfl
  simp [Ends, hrow, execQuiesceTimeout, act_eq, h, and_assoc]

/-! ### The parameters of a quiesce command (R459) -/

/-- A quiesce's timeout: 0 for the default, or 1 ms to 60 s. -/
abbrev timeoutInRange (t : Nat) : Prop := t = 0 ∨ 1000000 ≤ t ∧ t ≤ 60000000000

section Arguments

variable {r : Req} {n : Nat} {link : Bool}

theorem qArgs_bad_policy (hb : r.body.length = 8 * (n + 2) + if link then 8 else 0) (h : 2 < num r n) :
    qArgs r n link = .inl (n + 1) := by simp [qArgs, bodyIs, hb, h]

theorem qArgs_bad_timeout (hb : r.body.length = 8 * (n + 2) + if link then 8 else 0) (h : num r n ≤ 2)
    (ht : ¬ timeoutInRange (num r (n + 1))) : qArgs r n link = .inl (n + 2) := by
  simp only [qArgs, bodyIs, hb, beq_self_eq_true, Bool.not_true, Bool.false_eq_true, if_false]
  rw [if_neg (Nat.not_lt.2 h)]
  exact if_pos ht

theorem qArgs_in_range (hb : r.body.length = 8 * (n + 2) + if link then 8 else 0) (h : num r n ≤ 2)
    (ht : timeoutInRange (num r (n + 1))) (hl : link = true → num r (n + 2) ≤ 1) :
    qArgs r n link = .inr (num r n, num r (n + 1), link && num r (n + 2) == 1) := by
  simp only [qArgs, bodyIs, hb, beq_self_eq_true, Bool.not_true, Bool.false_eq_true, if_false]
  have hlink : ¬ (link = true ∧ 1 < num r (n + 2)) := fun hc => Nat.not_lt.2 (hl hc.1) hc.2
  rw [if_neg (Nat.not_lt.2 h), if_neg hlink]
  exact if_neg (not_not.2 ht)

end Arguments

/-! ### The start of a quiesce (R26, R28, R29) -/

section Start

variable {t : Nat} {s x : State} {r : Req} {code : Nat} {slot : Option Nat} {c : Instr} {f : State → Req → Res}
  {n kind k policy timeout : Nat} {link down : Bool} {obj : State → Req → Nat ⊕ QObj} {o : QObj} {a : Nat × Nat × Bool} {res : Res}

/-- A command is answered with what its handler is known to give. -/
theorem answers_of_result (hc : exec c s = serve t r code f s) (h : Takes t s r code x slot) (hf : f x r = res) :
    Answers c s r slot res := hf ▸ answers_of_takes hc h

theorem qCommand_of_bad_arg (h : qArgs r n link = .inl k) :
    qCommand n kind link obj x r = { st := x, status := mbxInvalid, arg := k } := by rw [qCommand, h]; rfl

theorem qCommand_of_object (h : qArgs r n link = .inr a) (ho : obj x r = .inr o) :
    qCommand n kind link obj x r = qBegin x o kind a := by simp only [qCommand, h, ho]

/-- What a command that begins a quiesce answers: BUSY while one runs, STATE once one has completed, and otherwise step 1 of R26
is in effect. -/
theorem answers_qBegin (hc : exec c s = serve t r code f s) (h : Takes t s r code x slot) (hf : f x r = qBegin x o kind (policy, timeout, down)) :
    (x.quiescing o = true → Answers c s r slot { st := x, status := mbxBusy })
    ∧ (x.quiescing o = false → x.disabled o = true → Answers c s r slot { st := x, status := mbxState })
    ∧ (x.quiescing o = false → x.disabled o = false →
        Answers c s r slot { st := qStart x o kind policy timeout down false }) := by
  refine ⟨fun hq => ?_, fun hq hd => ?_, fun hq hd => ?_⟩ <;> refine answers_of_result hc h (hf.trans ?_)
  · simp [qBegin, hq, fails]
  · simp [qBegin, hq, hd, fails]
  · simp [qBegin, hq, hd, done]

/-- A quiesce command of one object and no link parameter, as R459 lists its parameters. -/
theorem answers_qCommand (hc : exec c s = serve t r code (qCommand 1 kind false obj) s) (h : Takes t s r code x slot)
    (hb : r.body.length = 24) (ho : obj x r = .inr o) :
    (2 < num r 1 → Answers c s r slot { st := x, status := mbxInvalid, arg := 2 })
    ∧ (num r 1 ≤ 2 → ¬ timeoutInRange (num r 2) → Answers c s r slot { st := x, status := mbxInvalid, arg := 3 })
    ∧ (num r 1 ≤ 2 → timeoutInRange (num r 2) →
        (x.quiescing o = true → Answers c s r slot { st := x, status := mbxBusy })
        ∧ (x.quiescing o = false → x.disabled o = true → Answers c s r slot { st := x, status := mbxState })
        ∧ (x.quiescing o = false → x.disabled o = false →
            Answers c s r slot { st := qStart x o kind (num r 1) (num r 2) false false })) := by
  refine ⟨fun hp => ?_, fun hp ht => ?_, fun hp ht => ?_⟩
  · have ha : qArgs r 1 false = .inl 2 := qArgs_bad_policy (by simp [hb]) hp
    exact answers_of_result hc h (qCommand_of_bad_arg ha)
  · have ha : qArgs r 1 false = .inl 3 := qArgs_bad_timeout (by simp [hb]) hp ht
    exact answers_of_result hc h (qCommand_of_bad_arg ha)
  · have ha : qArgs r 1 false = .inr (num r 1, num r 2, false) := qArgs_in_range (by simp [hb]) hp ht Bool.noConfusion
    exact answers_qBegin hc h (qCommand_of_object ha ho)

end Start

/-! ### The objects that a command names -/

section Objects

variable {x : State} {r : Req}

theorem lpParam_of_present (h : num r 0 < 16) (hp : x.lpPresent (num r 0) = true) :
    lpParam x r = .inr (.logicalPort (Fin.ofNat 16 (num r 0))) := if_pos ⟨h, hp⟩

theorem queueParam_of_present (h : num r 0 < 65536) (hp : (x.qsetPort (num r 0 / 8)).isSome = true) :
    queueParam x r = .inr (.tmQueue (num r 0)) := if_pos ⟨h, hp⟩

theorem epParam_of_present (h : num r 0 < 2 ^ 32) (hp : (x.ep? (num r 0)).isSome = true) :
    epParam x r = .inr (.endpoint (BitVec.ofNat 32 (epKey x (num r 0)))) := if_pos ⟨h, hp⟩

end Objects

/-! ### Storage queues and Stalls, whose own state decides (R198, R273) -/

section OwnState

variable {x : State} {r : Req} {policy timeout : Nat}

/-- A storage queue's state decides what STO_QUEUE_QUIESCE answers (R198). -/
theorem sqQuiesce_of_queue {q : StoQueue} (ha : qArgs r 2 false = .inr (policy, timeout, false)) (h0 : num r 0 < 4096) (h1 : num r 1 < 64)
    (hq : x.sq? (sqKey (num r 0) (num r 1)) = some q) :
    (q.st = .quiescing → sqQuiesce x r = { st := x, status := mbxBusy })
    ∧ (q.st = .disabled → sqQuiesce x r = { st := x, status := mbxState })
    ∧ (q.st = .active ∨ q.st = .error →
        sqQuiesce x r = { st := qStart x (.storageQueue (num r 0) (num r 1)) qKindSq policy timeout false false }) := by
  simp only [sqQuiesce, ha, if_neg (Nat.not_le.2 h0), if_neg (Nat.not_le.2 h1), hq]
  cases q.st <;> simp [fails, done]

/-- A Stall's state decides what STALL_QUIESCE answers (R273). -/
theorem stallQuiesceCmd_of_stall (ha : qArgs r 1 false = .inr (policy, timeout, false)) (h0 : num r 0 < 12) :
    ((x.stall (num r 0)).st = .quiescing → stallQuiesceCmd x r = { st := x, status := mbxBusy })
    ∧ ((x.stall (num r 0)).st = .stopped → stallQuiesceCmd x r = { st := x, status := mbxState })
    ∧ ((x.stall (num r 0)).st = .running → stallQuiesceCmd x r =
        { st := qStart (abandonTest x (unitOfStall (num r 0))) (.stall (Fin.ofNat 12 (num r 0))) qKindStall policy timeout false false }) := by
  simp only [stallQuiesceCmd, ha, if_neg (Nat.not_le.2 h0)]
  cases (x.stall (num r 0)).st <;> simp [fails, done]

end OwnState

/-! ### Enabling again (R29, R65, R405) -/

section Enabling

variable {x : State} {r : Req} {o : QObj}

theorem lpEnableCmd_of_port (hb : r.body.length = 8) (ho : lpParam x r = .inr o) : lpEnableCmd x r =
    if x.disabled o = true ∧ tget x.clk.gates (12 + num r 0 / 8) .run = .run then
      { st := (x.qDel o).onLp (num r 0) (fun p => { p with held := false }) }
    else { st := x, status := mbxState } := by
  simp [lpEnableCmd, bodyIs, hb, ho, done, fails]

theorem tmQenableCmd_of_queue (hb : r.body.length = 8) (ho : queueParam x r = .inr o) :
    tmQenableCmd x r = if x.disabled o = true then { st := x.qDel o } else { st := x, status := mbxState } := by
  simp [tmQenableCmd, bodyIs, hb, ho, done, fails]

end Enabling

/-- Settles O20: the quiesce commands by their parameters and their object's state, enabling again, and how a quiesce ends. -/
theorem quiesceCommands : Obligations.QuiesceCommands := by
  unfold Obligations.QuiesceCommands
  refine ⟨fun t s x r slot => ⟨?oneObject, ?port, ?storage, ?stall, ?record, rfl, rfl, rfl, rfl, rfl, rfl, rfl⟩,
    fun t s x r slot hb => ⟨fun hx h0 hp => ⟨fun hd hg => ?portEnabled, fun h => ?portNot⟩,
      fun hx h0 hp => ⟨fun hd => ?queueEnabled, fun hd => ?queueNot⟩, fun _ => disabled_of_quiescing⟩,
    fun t s x o rec hx hq => ⟨fun hd ha ht => ?timeout, fun ht => ?early, fun hd => ?completed,
      fun _ => tryFinish_of_inFlight hq, ?queueEnd, ?queueAbort, ?stallAbort⟩⟩
  case oneObject =>
    simp only [List.forall_mem_cons, List.not_mem_nil, false_implies, implies_true, and_true]
    refine ⟨fun hx hb hq _ => ?_, fun hx hb _ he => ?_⟩
    · obtain ⟨h0, hp⟩ := hq trivial
      exact answers_qCommand rfl hx hb (queueParam_of_present h0 hp)
    · obtain ⟨h0, hp⟩ := he trivial
      exact answers_qCommand rfl hx hb (epParam_of_present h0 hp)
  case port =>
    intro hx hb h0 hp hpol ht hl
    exact answers_qBegin rfl hx (qCommand_of_object (qArgs_in_range (by simp [hb]) hpol ht (fun _ => hl)) (lpParam_of_present h0 hp))
  case storage =>
    intro q hx hb h0 h1 hsq hpol ht
    obtain ⟨hbusy, hstate, hstart⟩ := sqQuiesce_of_queue (qArgs_in_range (by simp [hb]) hpol ht Bool.noConfusion) h0 h1 hsq
    exact ⟨fun h => answers_of_result rfl hx (hbusy h), fun h => answers_of_result rfl hx (hstate h),
      fun h => answers_of_result rfl hx (hstart h)⟩
  case stall =>
    intro hx hb h0 hpol ht
    obtain ⟨hbusy, hstate, hstart⟩ := stallQuiesceCmd_of_stall (x := x) (qArgs_in_range (by simp [hb]) hpol ht Bool.noConfusion) h0
    exact ⟨fun h => answers_of_result rfl hx (hbusy h), fun h => answers_of_result rfl hx (hstate h),
      fun h => answers_of_result rfl hx (hstart h)⟩
  case record => exact fun q kind policy timeout hpol => if_neg hpol
  case portEnabled =>
    exact answers_of_result rfl hx ((lpEnableCmd_of_port hb (lpParam_of_present h0 hp)).trans (if_pos ⟨hd, hg⟩))
  case portNot =>
    refine answers_of_result rfl hx ((lpEnableCmd_of_port hb (lpParam_of_present h0 hp)).trans (if_neg fun hc => ?_))
    exact h.elim (fun hd => Bool.false_ne_true (hd.symm.trans hc.1)) (fun hg => hg hc.2)
  case queueEnabled => exact answers_of_result rfl hx ((tmQenableCmd_of_queue hb (queueParam_of_present h0 hp)).trans (if_pos hd))
  case queueNot =>
    exact answers_of_result rfl hx ((tmQenableCmd_of_queue hb (queueParam_of_present h0 hp)).trans (if_neg (by simp [hd])))
  case timeout =>
    have h := ends_quiesceTimeout hx hq
    rwa [if_pos ⟨hd, ha, ht⟩] at h
  case early =>
    have h := ends_quiesceTimeout hx hq
    rwa [if_neg (fun hc => Nat.not_le.2 ht hc.2.2)] at h
  case completed =>
    have h := ends_quiesceTimeout hx hq
    rwa [if_neg (by simp [hd])] at h
  case queueEnd =>
    rintro q rfl hd hn
    rw [tryFinish_of_idle hq hd hn]
    exact ⟨disabled_finishQuiesce_tmQueue .., queueStopped x q rec, rfl, rfl, finishQuiesce_tmQueue ..⟩
  case queueAbort =>
    rintro q lp rfl _ hlp
    exact ⟨abortObj_tmQueue hq hlp, frames_dropQueue ..⟩
  case stallAbort =>
    rintro n rfl _
    rw [abortObj_stall hq]
    exact msgs_abortStall

end Sys2Proof.Machine

/-! Proofs of the statement on the parser's rows (R22, R34, R68 to R93). -/

namespace Sys2Proof.Machine

/-! ### The rows at their instant -/

/-- A timed row has its function's effect on the state at its instant. -/
theorem ends_of_act {t : Nat} {s x y : State} {c : Instr} (f : State → State) (hc : exec c s = act t s f) (hx : x = s.advance t)
    (h : f x = y) : Ends c s y := by
  subst hx h; exact hc

section Rows

variable {t avail clocks k : Nat} {s x y : State} {pipe : Fin 4} {seq : Fin 6} {buf : Fin 20}

theorem ends_dispatch (hx : x = s.advance t) (h : dispatch x pipe.val avail = y) : Ends (.dispatch t pipe avail) s y :=
  ends_of_act (dispatch · pipe.val avail) rfl hx h

theorem ends_parseStallResume (hx : x = s.advance t) (h : stallResume x (pipe.val * 6 + seq.val) avail clocks = y) :
    Ends (.parseStallResume t pipe seq avail clocks) s y :=
  ends_of_act (stallResume · (pipe.val * 6 + seq.val) avail clocks) rfl hx h

theorem ends_parseEnd {bad : Option (BitVec 15)} (hx : x = s.advance t)
    (h : parseEnd x (pipe.val * 6 + seq.val) k (bad.map BitVec.toNat) = y) : Ends (.parseEnd t pipe seq k bad) s y :=
  ends_of_act (parseEnd · (pipe.val * 6 + seq.val) k (bad.map BitVec.toNat)) rfl hx h

theorem ends_chcXCap (hx : x = s.advance t) (h : parseCapped x (pipe.val * 6 + seq.val) k = y) :
    Ends (.chcXCap t pipe ⟨seq, k⟩) s y :=
  ends_of_act (parseCapped · (pipe.val * 6 + seq.val) k) rfl hx h

theorem ends_robRelease (hx : x = s.advance t) (h : robRelease x buf.val = y) : Ends (.robRelease t buf) s y :=
  ends_of_act (robRelease · buf.val) rfl hx h

theorem ends_robTimeout (hx : x = s.advance t) (h : robTimeout x buf.val = y) : Ends (.robTimeout t buf) s y :=
  ends_of_act (robTimeout · buf.val) rfl hx h

theorem ends_versionSlotFree {v : Fin 8} (hx : x = s.advance t) (h : freeVersion x v.val = y) : Ends (.versionSlotFree t v) s y :=
  ends_of_act (freeVersion · v.val) rfl hx h

theorem ends_csRewrite {q : Fin 24} {a : BitVec 15} (hx : x = s.advance t) (h : csRewrite x q.val a.toNat = y) :
    Ends (.csRewrite t q a) s y :=
  ends_of_act (csRewrite · q.val a.toNat) rfl hx h

end Rows

/-! ### The sequencer that takes the next frame (R68, R78, R79) -/

/-- A sequencer chosen is of the pipeline, in rotation, has a free slot, and is none of those ruled out. -/
theorem nextSeq_some {s : State} {pipe n : Nat} {but : List Nat} (h : nextSeq s pipe but = some n) :
    n ∉ but ∧ inRotation s n = true ∧ (seqSlots s n).length < 2 ∧ n / 6 = pipe := by
  have hfree := List.find?_some h
  obtain ⟨i, -, hi⟩ := List.mem_map.1 (List.mem_of_find?_eq_some h)
  simp only [Bool.and_eq_true, Bool.not_eq_true', List.contains_eq_mem, decide_eq_false_iff_not, decide_eq_true_eq] at hfree
  obtain ⟨⟨hbut, hrot⟩, hslots⟩ := hfree
  exact ⟨hbut, hrot, hslots, by omega⟩

/-! ### DISPATCH (R22, R68, R69, R92) -/

section Dispatch

variable {s y : State} {pipe n avail : Nat} {pf : PFrame}

theorem dispatch_of_no_seq (h : s.parse.patchDone = false ∨ nextSeq s pipe = none) : dispatch s pipe avail = s := by
  rcases h with h | h <;> simp [dispatch, h]

/-- With a sequencer and a frame, the frame goes once its first beat is there, its reorder buffer has room and it is in turn. -/
theorem dispatch_of_frame (hp : s.parse.patchDone = true) (hn : nextSeq s pipe = some n) (hf : takeFrame s pipe n = some (pf, y)) :
    dispatch s pipe avail =
      if avail < min 64 pf.frame.len ∨ 32 ≤ (s.rob (robOf pipe pf)).entries.length ∨ inTurn s pipe pf = false then s
      else dispatchTo y pipe n avail pf := by
  simp only [dispatch, hp, hn, hf, Bool.not_true, Bool.false_eq_true, if_false, Bool.not_eq_true']

/-- A frame of a port is counted for its pipeline alone, and has no packet buffer to give back. -/
theorem dispatchTo_of_port (h : pf.src < 16) (hr : pf.release = none) :
    let b := robOf pipe pf
    let tag := (s.rob b).next
    dispatchTo s pipe n avail pf =
      countStat ((State.onRob { giveSlot s pipe n b tag avail pf with parse.dispatched := true } b (fun r =>
        { r with next := (tag + 1) % 256
                 entries := r.entries ++ [{ tag := tag, pf := pf, pipe := pipe, at_ := s.clk.up, again := false, res := none }] })))
        (parStat pipe) 1 := by
  have h4 : pf.src.testBit 4 = false := Nat.testBit_lt_two_pow h
  have h5 : pf.src.testBit 5 = false := Nat.testBit_lt_two_pow (h.trans (by decide))
  have hpf : { pf with release := none } = pf := by rw [← hr]
  simp only [dispatchTo, hpf, hr, h4, h5, Bool.false_eq_true, if_false]
  rfl

theorem inTurn_iff (s : State) (pipe : Nat) (pf : PFrame) : inTurn s pipe pf = true ↔
    16 ≤ pf.src ∨ s.portMode (pf.src / 8) ≠ 0 ∨ ∀ g ∈ tget s.parse.cross (pipe ^^^ 1) [], g.src ≠ pf.src ∨ pf.no < g.no := by
  simp [inTurn, or_assoc]

/-- Port frames go before all others (R69). -/
theorem takeFrame_of_cross {rest : List PFrame} (h : s.parse.cross.find? (fun p => p.1 == pipe) = some (pipe, pf :: rest)) :
    takeFrame s pipe n = some (pf, { s with parse.cross := tset s.parse.cross pipe rest }) := by
  have hc : tget s.parse.cross pipe [] = pf :: rest := by rw [tget, tget?, h]; rfl
  rw [takeFrame, hc]

end Dispatch

/-! ### The frame at the head of a sequencer (R70, R76, R81) -/

section Head

variable {s : State} {n avail clocks k a : Nat} {f : SlotFrame} {rest : List SlotFrame} {p : PSt} {r : ParseRes}

theorem stallResume_of_stalled (hs : seqSlots s n = f :: rest) (h : parseSlot s n f = .stalled p) :
    stallResume s n avail clocks = setSlots s n ({ f with resumes := f.resumes ++ [(avail, clocks)] } :: rest) := by
  simp only [stallResume, hs, h]

theorem stallResume_of_not_stalled (hs : seqSlots s n = f :: rest) (h : ∀ p, parseSlot s n f ≠ .stalled p) :
    stallResume s n avail clocks = s := by
  simp only [stallResume, hs]

theorem parseEnd_of_ends (hs : seqSlots s n = f :: rest) (h : parseSlot s n f = .ends r a) :
    parseEnd s n k none = writeResult (countErrs s (parserBase + 0x1A0) k) n f r a := by
  simp [parseEnd, wordBad, hs, h]

theorem parseEnd_of_not_ends (hs : seqSlots s n = f :: rest) (h : ∀ r a, parseSlot s n f ≠ .ends r a) :
    parseEnd s n k none = s := by
  simp only [parseEnd, wordBad, hs]

/-- A word found bad ends the frame that comes to it with CHC_X_ECC. -/
theorem parseEnd_of_bad_word (hs : seqSlots s n = f :: rest) (h : parseSlot (wordBad s n (some a)) n f = .ends r a)
    (hr : r.code = xEcc) :
    parseEnd s n k (some a) = writeResult (countErrs (wordBad s n (some a)) (parserBase + 0x1A0) k) n f r a := by
  simp only [parseEnd, hs, h, hr]
  rw [if_pos (by simp)]

theorem parseCapped_of_some (hs : seqSlots s n = f :: rest) (h : capResult s n f = some r) :
    parseCapped s n k = writeResult (countErrs s (parserBase + 0x1A0) k) n f r 0 := by
  simp only [parseCapped, hs, h]

theorem parseCapped_of_none (hs : seqSlots s n = f :: rest) (h : capResult s n f = none) : parseCapped s n k = s := by
  simp only [parseCapped, hs, h]

theorem capResult_of_ends (h : parseSlot s n f = .ends r a) : capResult s n f = none := by simp only [capResult, h]

theorem capResult_of_capped (h : parseSlot s n f = .capped r) : capResult s n f = some r := by simp only [capResult, h]

theorem capResult_of_stalled (h : parseSlot s n f = .stalled p) : capResult s n f =
    if (slotEnv s n f).cap ≤ pipeClocks (s.clk.up - f.at_) then some (p.capEnd (slotEnv s n f)) else none := by
  simp only [capResult, h]

/-- A result under an old fencing generation is discarded (R34). -/
theorem writeResult_of_stale (hs : seqSlots s n = f :: rest) (h : f.gen ≠ s.fenceGen (.seq n)) :
    writeResult s n f r a = fencedDiscard (setSlots s n rest) (.seq n) f.gen := by
  rw [writeResult, hs]; exact if_pos h

/-- The result of a frame that ended with an END word stands in its reorder entry. -/
theorem writeResult_of_end (hs : seqSlots s n = f :: rest) (h : f.gen = s.fenceGen (.seq n)) (hr : r.code = 0) :
    writeResult s n f r a = (setSlots s n rest).onRob f.buf (fun b =>
      { b with entries := b.entries.map (fun e => if e.tag = f.tag ∧ e.res.isNone then { e with res := some r } else e) }) := by
  rw [writeResult, hs]
  refine (if_neg (not_not.2 h)).trans ?_
  rw [hr]
  rfl

end Head

/-! ### The reorder buffers (R79, R92, R93, R96) -/

section Reorder

variable {s : State} {b : Nat} {e : RobEntry} {rest : List RobEntry} {r : ParseRes}

/-- The state in which a buffer's head entry has left it. -/
def robPop (s : State) (b : Nat) (rest : List RobEntry) : State := s.onRob b (fun y => { y with entries := rest })

theorem robRelease_nil (h : (s.rob b).entries = []) : robRelease s b = s := by rw [robRelease, h]

theorem robRelease_of_no_result (he : (s.rob b).entries = e :: rest) (hr : e.res = none) : robRelease s b = s := by
  simp only [robRelease, he, hr]

theorem robRelease_in_time (he : (s.rob b).entries = e :: rest) (hr : e.res = some r) (h : stageOver s e.pf = false) :
    robRelease s b = verInflight (classify (robPop s b rest) e.pipe e.pf r) e.pf.ver (· - 1) := by
  have hlate : stageOver (robPop s b rest) e.pf = false := h
  simp only [robPop] at hlate
  simp only [robRelease, he, hr, hlate, robPop]
  rfl

/-- A port frame that was too long in the parser stage is counted and blamed (R96). -/
theorem robRelease_late (he : (s.rob b).entries = e :: rest) (hr : e.res = some r) (h : stageOver s e.pf = true) :
    let y := (countErr (robPop s b rest) (parErr (e.pf.src % 16))).onLp (e.pf.src % 16) (fun p => { p with overAt := some s.clk.up })
    robRelease s b =
      verInflight (classify y e.pipe { e.pf with frame := e.pf.frame.blame causeParse } r) e.pf.ver (· - 1) := by
  have hlate : stageOver (robPop s b rest) e.pf = true := h
  simp only [robPop] at hlate
  simp only [robRelease, he, hr, hlate, robPop]
  rfl

theorem stageOver_eq_false {pf : PFrame} (h : pipeClocks (s.clk.up - pf.at_) ≤ 64) : stageOver s pf = false := by
  simp [stageOver, Nat.not_lt.2 h]

theorem stageOver_eq_true {pf : PFrame} (h : 64 < pipeClocks (s.clk.up - pf.at_)) (hp : pf.src < 16) : stageOver s pf = true := by
  simp [stageOver, h, hp]

theorem robTimeout_nil (h : (s.rob b).entries = []) : robTimeout s b = s := by rw [robTimeout, h]

theorem robTimeout_cons (h : (s.rob b).entries = e :: rest) : robTimeout s b =
    if e.res = none ∧ 256 ≤ pipeClocks (s.clk.up - e.at_) then retryEntry s b e else s := by
  rw [robTimeout, h]; simp only [Option.isNone_iff_eq_none]

theorem mem_of_tget? {α : Type} {t : Tab α} {j : Nat} {v : α} (h : tget? t j = some v) : (j, v) ∈ t := by
  obtain ⟨p, hp, rfl⟩ := Option.map_eq_some_iff.1 h
  have hj : p.1 = j := by simpa using List.find?_some hp
  exact hj ▸ List.mem_of_find?_eq_some hp

/-- A sequencer with a frame of the buffer under the tag is one of those that hold it. -/
theorem mem_holders {n tag : Nat} {f : SlotFrame} (hf : f ∈ seqSlots s n) (hof : f.isOf b tag = true) : n ∈ holders s b tag := by
  unfold seqSlots tget at hf
  cases hl : tget? s.parse.slots n with
  | none => simp [hl] at hf
  | some l =>
    rw [hl] at hf
    have hany : l.any (·.isOf b tag) = true := List.any_eq_true.2 ⟨f, hf, hof⟩
    exact List.mem_map.2 ⟨(n, l), List.mem_filter.2 ⟨mem_of_tget? hl, hany⟩, rfl⟩

theorem redispatch_of_none (h : nextSeq s e.pipe (holders s b e.tag) = none) : redispatch s b e = s := by rw [redispatch, h]

theorem seqSlots_giveSlot (s : State) (pipe n b tag avail : Nat) (pf : PFrame) : seqSlots (giveSlot s pipe n b tag avail pf) n =
    seqSlots s n ++ [{ pf := pf, buf := b, tag := tag, avail := avail, gen := s.heldGen (unitSeq n), at_ := s.clk.up }] :=
  tget_tset_self ..

/-- The sequencer of the second attempt has the whole frame in a slot. -/
theorem seqSlots_redispatch {n : Nat} (h : nextSeq s e.pipe (holders s b e.tag) = some n) : seqSlots (redispatch s b e) n =
    seqSlots s n ++ [{ pf := e.pf, buf := b, tag := e.tag, avail := e.pf.frame.len, gen := s.heldGen (unitSeq n), at_ := s.clk.up }] := by
  simp only [redispatch, h]
  exact seqSlots_giveSlot s e.pipe ..

end Reorder

/-- Settles O21: dispatch, what the frame at a sequencer's head comes to, the reorder buffers and the version slots. -/
theorem parserRows : Obligations.ParserRows := by
  unfold Obligations.ParserRows
  refine ⟨fun t avail s x pipe hx => ⟨fun h => ends_dispatch hx (dispatch_of_no_seq h), fun n hn => (nextSeq_some hn).2, ?dispatched,
      inTurn_iff x pipe.val, fun pf => ⟨rfl, rfl⟩, fun n pf rest => takeFrame_of_cross⟩,
    fun t s x pipe seq f rest hx hs => ⟨?stalled, ?ended, ?capped, ?badWord, fun r a => writeResult_of_stale hs,
      fun r a => writeResult_of_end hs⟩,
    fun t s x buf hx => ⟨?empty, ?head, ?second, ?version, ?rewrite⟩⟩
  case dispatched =>
    intro n pf y hp hn hf
    have hd := dispatch_of_frame (avail := avail) hp hn hf
    refine ⟨fun hwait => ends_dispatch hx (hd.trans (if_pos hwait)), fun hbeat hroom hturn hport hrel => ?_⟩
    refine ends_dispatch hx (hd.trans ((if_neg ?_).trans (dispatchTo_of_port hport hrel)))
    rintro (h | h | h)
    · omega
    · omega
    · exact Bool.false_ne_true (h.symm.trans hturn)
  case stalled =>
    intro p h
    refine ⟨fun avail clocks => ends_parseStallResume hx (stallResume_of_stalled hs h),
      fun k => ends_parseEnd hx (parseEnd_of_not_ends hs (by simp [h])),
      fun k hlt => ends_chcXCap hx (parseCapped_of_none hs ?_), fun k hle => ends_chcXCap hx (parseCapped_of_some hs ?_)⟩
    · rw [capResult_of_stalled h, if_neg (Nat.not_le.2 hlt)]
    · rw [capResult_of_stalled h, if_pos hle]
  case ended =>
    intro r a h
    exact ⟨fun k => ends_parseEnd hx (parseEnd_of_ends hs h),
      fun k => ends_chcXCap hx (parseCapped_of_none hs (capResult_of_ends h)),
      fun avail clocks => ends_parseStallResume hx (stallResume_of_not_stalled hs (by simp [h]))⟩
  case capped =>
    intro r h
    exact ⟨fun k => ⟨ends_chcXCap hx (parseCapped_of_some hs (capResult_of_capped h)),
        ends_parseEnd hx (parseEnd_of_not_ends hs (by simp [h]))⟩,
      fun avail clocks => ends_parseStallResume hx (stallResume_of_not_stalled hs (by simp [h]))⟩
  case badWord => exact fun r k a h hr => ends_parseEnd (bad := some a) hx (parseEnd_of_bad_word hs h hr)
  case empty =>
    intro h
    exact ⟨ends_robRelease hx (robRelease_nil h), ends_robTimeout hx (robTimeout_nil h)⟩
  case head =>
    intro e rest he
    have hto := robTimeout_cons he
    refine ⟨fun hr => ends_robRelease hx (robRelease_of_no_result he hr),
      fun r hr hlt => ends_robRelease hx (robRelease_in_time he hr (stageOver_eq_false hlt)), fun r hr hlt hport => ?late,
      fun r hr => ends_robTimeout hx (hto.trans (if_neg (by simp [hr]))),
      fun _ hlt => ends_robTimeout hx (hto.trans (if_neg fun h => Nat.not_le.2 hlt h.2)), fun hr hle => ?timeout⟩
    case late =>
      have h := robRelease_late he hr (stageOver_eq_true hlt hport)
      rw [Nat.mod_eq_of_lt hport] at h
      exact ends_robRelease hx h
    case timeout =>
      have hretry : robTimeout x buf.val = retryEntry x buf.val e := hto.trans (if_pos ⟨hr, hle⟩)
      exact ⟨fun ha => ends_robTimeout hx (hretry.trans (if_neg (by simp [ha]))),
        fun ha => ends_robTimeout hx (hretry.trans (if_pos ha))⟩
  case second =>
    intro e
    refine ⟨redispatch_of_none, fun n hn => ⟨fun f hf hof => ?_, seqSlots_redispatch hn⟩⟩
    exact (nextSeq_some hn).1 (mem_holders hf (by simpa [SlotFrame.isOf] using hof))
  case version =>
    intro v
    exact ⟨fun hst hin => ends_versionSlotFree hx (if_pos ⟨hst, hin⟩), fun h => ends_versionSlotFree hx (if_neg (by tauto))⟩
  case rewrite =>
    intro q a
    exact ⟨fun h => ends_csRewrite hx (if_pos h), fun h => ends_csRewrite hx (if_neg (Nat.not_le.2 h))⟩

end Sys2Proof.Machine

/-! Proofs of the statements on what a power-on reset leaves (R46, R66, R96, R123, R145, R190, R220, R276, R330, R363, R418, R435). -/

namespace Sys2Proof.Machine

/-! ### Reads of live registers -/

/-- The word at offset `o` is neither a counter nor a register of sticky bits, so that a read of it is live. -/
abbrev BlockKind.Live (k : BlockKind) (o : Nat) : Prop :=
  findCtr k.groups o = none ∧ k.groups.any (fun g => g.flagOff == o) = false

theorem regWord_of_live {k : BlockKind} {o : Nat} (h : k.Live o) (s : State) (base obj : Nat) :
    regWord s ⟨k, base, obj⟩ o = specialWord s ⟨k, base, obj⟩ o % 2 ^ 32 := by
  obtain ⟨hctr, hflag⟩ := h
  simp [regWord, hctr, hflag, wordOf]

/-- A live register reads the value `v` of its word. -/
theorem regWord_eq_of_live {s : State} {k : BlockKind} {base obj o v : Nat} (h : k.Live o)
    (hw : specialWord s ⟨k, base, obj⟩ o = v) (hv : v < 2 ^ 32) : regWord s ⟨k, base, obj⟩ o = v := by
  rw [regWord_of_live h, hw, Nat.mod_eq_of_lt hv]

/-! ### Sums of bits and bytes of zeros -/

theorem bitsOf_succ (n : Nat) (p : Nat → Bool) : bitsOf (n + 1) p = if p n then bitsOf n p + 2 ^ n else bitsOf n p := by
  simp [bitsOf, List.range_succ]

theorem bitsOf_of_none {n : Nat} {p : Nat → Bool} (h : ∀ i < n, p i = false) : bitsOf n p = 0 := by
  induction n with
  | zero => rfl
  | succ n ih => rw [bitsOf_succ, h n n.lt_succ_self, if_neg Bool.false_ne_true, ih fun i hi => h i (by omega)]

theorem bitsOf_of_all {n : Nat} {p : Nat → Bool} (h : ∀ i < n, p i = true) : bitsOf n p = 2 ^ n - 1 := by
  induction n with
  | zero => rfl
  | succ n ih =>
    have hpos : 0 < 2 ^ n := Nat.two_pow_pos n
    rw [bitsOf_succ, h n n.lt_succ_self, if_pos rfl, ih fun i hi => h i (by omega), Nat.pow_succ]
    omega

theorem ofLe_replicate_zero (n : Nat) : ofLe (List.replicate n 0#8) = 0 := by
  induction n with
  | zero => rfl
  | succ n ih => rw [List.replicate_succ, ofLe, ih]; rfl

theorem leAt_replicate_zero (n off k : Nat) : leAt (List.replicate n 0#8) off k = 0 := by
  simp [leAt, slice, ofLe_replicate_zero]

/-! ### Objects and configuration right after reset -/

@[simp] theorem cfgN_reset (item index sub d : Nat) : State.reset.cfgN item index sub d = d := rfl

@[simp] theorem lp_reset (n : Nat) : State.reset.lp n = {} := rfl

@[simp] theorem pp_reset (n : Nat) : State.reset.pp n = {} := rfl

@[simp] theorem tbl_reset (n : Nat) : State.reset.tbl n = {} := rfl

@[simp] theorem stall_reset (n : Nat) : State.reset.stall n = {} := rfl

/-- Core role `r` of a Stall is held by physical core `r` (R274). -/
theorem role_reset (n : Nat) {r : Nat} (h : r < 16) : State.reset.role n r = { phys := some r } := by
  rw [State.role, stall_reset]
  interval_cases r <;> rfl

/-! ### The status registers right after reset -/

theorem cfgStatus_reset : State.reset.cfgStatus = 0 := rfl

/-- With no configuration committed every word of TALLY_DIGEST is 0 (R363). -/
theorem digestWord_reset (base obj : Nat) (k : Fin 8) : specialWord State.reset ⟨.clerk, base, obj⟩ (0x20 + 4 * k.val) = 0 := by
  have hdigest : digestNow State.reset = List.replicate 32 0#8 := rfl
  have hk := k.isLt
  simp only [specialWord]
  rw [if_neg (by omega), if_neg (by omega), if_pos (by omega), hdigest, leAt_replicate_zero]

/-- No clock runs yet (R418). -/
theorem cprStatus_reset : cprStatus State.reset = 0 := rfl

/-- The time base stands, unset and without a slew (R418). -/
theorem tbStatus_reset : tbStatus State.reset = 0 := rfl

/-- Every link is down, and both ports are in mode 0 and held to management traffic (R64, R66). -/
theorem portStatus_reset (p : Nat) : portStatus State.reset p = 0x00080000 := by
  have hup : bitsOf 8 (fun i => (State.reset.lp (8 * p + i)).up) = 0 := bitsOf_of_none fun _ _ => rfl
  rw [portStatus, hup, pp_reset]
  rfl

/-- Version slot 0 is current, the others are free (R96). -/
theorem verStatus_reset : verStatus State.reset = 2 := rfl

theorem rotation_reset : bitsOf 24 (inRotation State.reset) = 0x00FFFFFF := bitsOf_of_all fun _ _ => rfl

/-- Nothing is committed, and the empty context and duplicate tables have room (R190). -/
theorem ehtStatus_reset : ehtStatus State.reset = 0 := by
  have hctx : bulkCtxRoom State.reset = true := by simp [bulkCtxRoom, State.reset]
  have hdedup : bulkDedupRoom State.reset = true := by simp [bulkDedupRoom, State.reset]
  rw [ehtStatus, hctx, hdedup]
  rfl

/-- The root ports are held in reset and no journal is usable or replayed (R220). -/
theorem stoStatus_reset : stoStatus State.reset = 1 := by
  have husable : bitsOf 16 (fun j => (tget State.reset.sto.journals j {}).usable) = 0 := bitsOf_of_none fun _ _ => rfl
  rw [stoStatus, husable]
  rfl

/-- Every role is held, the Stall is stopped, and the quiet threshold is 2^16 (R276). -/
theorem stallStatus_reset (n : Nat) : stallStatus State.reset n = 0x0100FFFF := by
  have hroles : bitsOf 16 (fun r => (State.reset.role n r).phys.isSome) = 0xFFFF :=
    bitsOf_of_all fun r hr => by rw [role_reset n hr]; rfl
  have hquiet : Nat.log2 (quietThreshold State.reset n) = 16 := Nat.log2_two_pow (n := 16)
  rw [stallStatus, hroles, hquiet, stall_reset]
  rfl

/-- All gates are open and no Bell list runs or waits (R145). -/
theorem bellStatus_reset (n : Nat) : bellStatus State.reset n = 0x000000FF := by
  rw [bellStatus, lp_reset]
  rfl

/-- The table is disabled and on-chip alone, with relocation depth 4 and eviction of the oldest entry (R123). -/
theorem tblStatus_reset (n : Nat) : tblStatus State.reset n = 0x00000014 := by
  simp [tblStatus, tblDepth, tblOldest, tblMode, tblBuckets]

/-- Neither memory stack is trained, and no spare bank stands in for another (R330). -/
theorem memStatus_reset : memStatus State.reset = 0 := by
  have hspares : bitsOf 12 (fun st => State.reset.tsl.bankMap.any (fun p => unitKind p.2 == 3 && unitIdx p.2 == st * 17 + 16)) = 0 :=
    bitsOf_of_none fun _ _ => rfl
  rw [memStatus, hspares]
  rfl

/-- No test runs before the part does, and the dead-unit list is empty (R435). -/
theorem tslStatus_reset : tslStatus State.reset = 0 := by
  have hidle : teaselRuns State.reset = false := rfl
  rw [tslStatus, hidle]
  rfl

/-- Settles O3: each status register is live and reads what its chapter gives of the state after reset. -/
theorem resetState : Obligations.ResetState := by
  unfold Obligations.ResetState
  refine ⟨⟨rfl, ?configuration, fun k => ?digest, ?clocks, ?timeBase, ?eht, ?teasel, ?memory, fun p => ?port, ?versions, ?rotation,
    ?storage, fun n => ?stall, fun n => ?bell, fun n => ?table, fun n => ⟨?monitorControl, ?monitorThreshold⟩, rfl, rfl, rfl, ?pins⟩,
    rfl⟩
  case configuration => exact regWord_eq_of_live (by decide) cfgStatus_reset (by decide)
  case digest => exact regWord_eq_of_live (by revert k; decide) (digestWord_reset _ _ k) (by decide)
  case clocks => exact regWord_eq_of_live (by decide) cprStatus_reset (by decide)
  case timeBase => exact regWord_eq_of_live (by decide) tbStatus_reset (by decide)
  case eht => exact regWord_eq_of_live (by decide) ehtStatus_reset (by decide)
  case teasel => exact regWord_eq_of_live (by decide) tslStatus_reset (by decide)
  case memory => exact regWord_eq_of_live (by decide) memStatus_reset (by decide)
  case port => exact regWord_eq_of_live (by decide) (portStatus_reset p) (by decide)
  case versions => exact regWord_eq_of_live (by decide) verStatus_reset (by decide)
  case rotation => exact regWord_eq_of_live (by decide) rotation_reset (by decide)
  case storage => exact regWord_eq_of_live (by decide) stoStatus_reset (by decide)
  case stall => exact regWord_eq_of_live (by decide) (stallStatus_reset n) (by decide)
  case bell => exact regWord_eq_of_live (by decide) (bellStatus_reset n) (by decide)
  case table => exact regWord_eq_of_live (by decide) (tblStatus_reset n) (by decide)
  case monitorControl => exact regWord_eq_of_live (by decide) rfl (by decide)
  case monitorThreshold => exact regWord_eq_of_live (by decide) rfl (by decide)
  case pins => exact ⟨rfl, rfl, rfl, rfl, rfl, rfl, rfl⟩

end Sys2Proof.Machine

/-! What counting and an event leave of the state (R9, R10, R359). -/

namespace Sys2Proof.Machine

/-- `z` is `s` but for counters, their flags and the mailbox, where no subscriber comes to be. -/
structure LogsOnly (s z : State) : Prop where
  eq : z = { s with ctrs := z.ctrs, flagSet := z.flagSet, mbx := z.mbx }
  subs : s.mbx.subs = [] → z.mbx.subs = []

namespace LogsOnly

variable {s z w : State}

theorem refl (s : State) : LogsOnly s s := ⟨rfl, id⟩

theorem trans (h : LogsOnly s z) (h2 : LogsOnly z w) : LogsOnly s w := ⟨h2.eq.trans (by rw [h.eq]), h2.subs ∘ h.subs⟩

theorem clk (h : LogsOnly s z) : z.clk = s.clk := by rw [h.eq]
theorem qs (h : LogsOnly s z) : z.qs = s.qs := by rw [h.eq]
theorem port (h : LogsOnly s z) : z.port = s.port := by rw [h.eq]
theorem parse (h : LogsOnly s z) : z.parse = s.parse := by rw [h.eq]

end LogsOnly

theorem countErrs_logsOnly (s : State) (a n : Nat) : LogsOnly s (countErrs s a n) := by
  refine ⟨?_, by simp⟩
  unfold countErrs State.noteFlag
  split
  · rfl
  · split <;> rfl

theorem bumpStat_logsOnly (s : State) (a n : Nat) : LogsOnly s (bumpStat s a n).1 := by
  rw [bumpStat_eq]; exact ⟨rfl, id⟩

theorem trimLog_logsOnly (s : State) : LogsOnly s (trimLog s) := by
  unfold trimLog
  split
  · exact .refl s
  · split
    · exact .refl s
    · exact .trans ⟨rfl, fun h => by simp [h]⟩ (countErrs_logsOnly ..)

theorem rawEvent_logsOnly (s : State) (code object : Nat) (data : Bytes) : LogsOnly s (rawEvent s code object data) :=
  .trans (z := { s with mbx.log := s.mbx.log ++ _, mbx.nextSeq := seqNext s.mbx.nextSeq }) ⟨rfl, id⟩ (trimLog_logsOnly _)

theorem wrapRecord_logsOnly (s : State) (a : Nat) : LogsOnly s (wrapRecord s a) := by
  unfold wrapRecord; split <;> exact rawEvent_logsOnly ..

theorem wrapEvent_logsOnly (s : State) (a : Nat) : LogsOnly s (wrapEvent s a) := by
  have h := (wrapRecord_logsOnly s a).trans (bumpStat_logsOnly _ (clerkBase + 0x110) 1)
  unfold wrapEvent
  dsimp only
  split
  · exact h.trans ((wrapRecord_logsOnly ..).trans (bumpStat_logsOnly ..))
  · exact h

theorem countStat_logsOnly (s : State) (a n : Nat) : LogsOnly s (countStat s a n) := by
  unfold countStat
  dsimp only
  split
  · exact (bumpStat_logsOnly s a n).trans (wrapEvent_logsOnly ..)
  · exact bumpStat_logsOnly s a n

theorem raise_logsOnly (s : State) (code object : Nat) (data : Bytes) : LogsOnly s (raise s code object data) :=
  (rawEvent_logsOnly s code object data).trans (countStat_logsOnly ..)

end Sys2Proof.Machine

/-! Proofs of the statement on the time base (R63, R402, R403, R416). -/

namespace Sys2Proof.Machine

/-! ### The time-base commands (R416) -/

section TimeBaseCommands

variable {r : Req}

theorem tbReadCmd_of_empty (hb : r.body = []) (s : State) : tbReadCmd s r =
    { st := s, out := encTime s.ns ++ encNum s.clk.rate ++ encNum (slewRest s) ++ encN (tbStatus s) } := by
  simp [tbReadCmd, bodyIs, hb, gives]

theorem tbSetCmd_of_time (hb : r.body.length = 10) (ht : leAt r.body 0 10 % 2 ^ 32 < nsPerSec) (s : State) : tbSetCmd s r =
    if s.clk.tbRunning = true then
      { st := stepTime s (nsOf80 (leAt r.body 0 10)), out := encTime s.ns ++ encTime (nsOf80 (leAt r.body 0 10)) }
    else { st := s, status := mbxState } := by
  simp only [tbSetCmd, bodyIs, hb, beq_self_eq_true, Bool.not_true, Bool.false_eq_true, false_or]
  rw [if_neg (Nat.not_le.2 ht)]
  cases s.clk.tbRunning <;> rfl

/-- The nanoseconds of an 80-bit time are less than a second's (R13). -/
theorem tbSetCmd_of_bad_time (hb : r.body.length = 10) (ht : nsPerSec ≤ leAt r.body 0 10 % 2 ^ 32) (s : State) :
    tbSetCmd s r = { st := s, status := mbxInvalid, arg := 1 } := by
  simp only [tbSetCmd, bodyIs, hb, beq_self_eq_true, Bool.not_true, Bool.false_eq_true, false_or, if_true]
  exact if_pos ht

theorem tbRateCmd_of_number (hb : r.body.length = 8) (s : State) : tbRateCmd s r =
    if toSigned (num r 0) < -500000000 ∨ 500000000 < toSigned (num r 0) then { st := s, status := mbxInvalid, arg := 1 }
    else { st := { s with clk.rate := toSigned (num r 0) } } := by
  simp [tbRateCmd, bodyIs, hb, failsAt, done]

theorem tbSlewCmd_in_range (hb : r.body.length = 16) (hlo : -10000000 ≤ toSigned (num r 0)) (hhi : toSigned (num r 0) ≤ 10000000)
    (h1 : 1 ≤ num r 1) (h500 : num r 1 ≤ 500) (s : State) : tbSlewCmd s r =
      { st := { s with clk.slewLeft := (toSigned (num r 0)).natAbs * 1000000
                       clk.slewRate := if toSigned (num r 0) < 0 then -(num r 1 : Int) else num r 1 } } := by
  simp only [tbSlewCmd, bodyIs, hb, beq_self_eq_true, Bool.not_true, Bool.false_eq_true, if_false]
  rw [if_neg (by omega), if_neg (by omega)]
  rfl

end TimeBaseCommands

/-! ### The rows of the time base and of PPS (R63, R402) -/

section TimeBaseRows

variable {t : Nat} {s x : State}

theorem ends_slewEnd (h : (s.advance t).clk.slewLeft = 0) : Ends (.slewEnd t) s { s.advance t with clk.slewRate := 0 } :=
  ends_of_act (fun s => if s.clk.slewLeft = 0 then { s with clk.slewRate := 0 } else s) rfl rfl (if_pos h)

theorem ends_ppsInEdge (hx : x = s.advance t) (hrun : x.clk.tbRunning = true) : Ends (.ppsInEdge t) s
    (if x.port.ppsFifo.length < 16 then { x with port.ppsFifo := x.port.ppsFifo ++ [time80 x.ns] }
      else countErr x (portBase 0 + 0x28)) := by
  refine ends_of_act (fun s => if !s.clk.tbRunning then s
    else if s.port.ppsFifo.length < 16 then { s with port.ppsFifo := s.port.ppsFifo ++ [time80 s.ns] }
    else countErr s (portBase 0 + 0x28)) rfl hx ?_
  dsimp only
  rw [hrun]
  rfl

theorem ends_ppsOutRise {y : State} (hx : x = s.advance t) (h : ppsOutRise x = y) : Ends (.ppsOutRise t) s y :=
  ends_of_act ppsOutRise rfl hx h

theorem ends_ppsOutFall (hx : x = s.advance t) (hh : x.clk.ppsHigh = true) (hf : x.clk.ppsFallAt ≤ x.ns) :
    Ends (.ppsOutFall t) s { x with clk.ppsHigh := false } :=
  ends_of_act (fun s => if s.clk.ppsHigh ∧ s.clk.ppsFallAt ≤ s.ns then { s with clk.ppsHigh := false } else s) rfl hx
    (if_pos ⟨hh, hf⟩)

end TimeBaseRows

/-! ### The pulse (R63) -/

section Pulse

variable {s : State} {n i v : Nat}

/-- Within 2 ns of an instant of the pulse, it is the latest one. -/
theorem ppsInstant_of_near (hi : i = n * nsPerSec + ppsOffset s) (hle : i ≤ s.ns) (hnear : s.ns ≤ i + 2) : ppsInstant s = some i := by
  have hn : (s.ns - ppsOffset s) / nsPerSec = n := by unfold nsPerSec at hi ⊢; omega
  rw [ppsInstant, if_neg (by omega), hn, ← hi]

theorem ppsReached_of_hold (h : s.clk.ppsHold = some v) : ppsReached s i = true ↔ v < i ∧ i / nsPerSec ≠ v / nsPerSec := by
  simp [ppsReached, h]

theorem ppsReached_of_no_hold (h : s.clk.ppsHold = none) : ppsReached s i = true ↔ 0 < i := by
  simp [ppsReached, h]

theorem ppsOutRise_of_near (hrun : s.clk.tbRunning = true) (hi : i = n * nsPerSec + ppsOffset s) (hle : i ≤ s.ns) (hnear : s.ns ≤ i + 2)
    (hlow : s.clk.ppsHigh = false) (hlast : s.clk.ppsLastRise ≠ some i) : ppsOutRise s =
      if ppsReached s i = true then { s with clk.ppsHigh := true, clk.ppsFallAt := i + ppsWidth s, clk.ppsLastRise := some i }
      else s := by
  have hdue : (s.clk.tbRunning && !s.clk.ppsHigh && decide (s.ns ≤ i + 2) && ppsReached s i && s.clk.ppsLastRise != some i) =
      ppsReached s i := by
    rw [hrun, hlow, decide_eq_true hnear, bne_iff_ne.2 hlast]
    simp
  rw [ppsOutRise, ppsInstant_of_near hi hle hnear]
  dsimp only
  rw [hdue]

end Pulse

/-! ### A step of the time base (R403) -/

/-- The device clock is `c`, and no event has a subscriber. -/
structure ClockIs (c : Clk) (s : State) : Prop where
  clk : s.clk = c
  subs : s.mbx.subs = []

namespace ClockIs

variable {c : Clk} {s : State}

theorem foldl {α : Type} {f : State → α → State} (hf : ∀ s a, ClockIs c s → ClockIs c (f s a)) (l : List α) (h : ClockIs c s) :
    ClockIs c (l.foldl f s) := by
  induction l generalizing s with
  | nil => exact h
  | cons a l ih => exact ih (hf s a h)

theorem logsOnly {z : State} (h : ClockIs c s) (hz : LogsOnly s z) : ClockIs c z := ⟨hz.clk.trans h.clk, hz.subs h.subs⟩

/-- With no subscriber the Clerk has no event message to send. -/
theorem pumpEvents (h : ClockIs c s) : ClockIs c (pumpEvents s) := by
  have he : Machine.pumpEvents s = s := by simp [Machine.pumpEvents, h.subs]
  rwa [he]

theorem onLp (h : ClockIs c s) (n : Nat) (f : LPort → LPort) : ClockIs c (s.onLp n f) := ⟨h.clk, h.subs⟩

theorem onStall (h : ClockIs c s) (n : Nat) (f : Stall → Stall) : ClockIs c (s.onStall n f) := ⟨h.clk, h.subs⟩

theorem onRole (h : ClockIs c s) (st r : Nat) (f : CoreRole → CoreRole) : ClockIs c (s.onRole st r f) := ⟨h.clk, h.subs⟩

theorem onThr (h : ClockIs c s) (i : Tid) (f : Thread → Thread) : ClockIs c (s.onThr i f) := ⟨h.clk, h.subs⟩

theorem quietReset (h : ClockIs c s) (st r : Nat) : ClockIs c (quietReset s st r) := by
  unfold Machine.quietReset
  dsimp only
  split
  · exact (h.onRole st r _).onStall st _
  · exact h.onRole st r _

theorem retire (h : ClockIs c s) (i : Tid) : ClockIs c (retire s i) := by
  unfold Machine.retire State.setPc reach
  dsimp only
  split
  · exact ((((h.onThr i _).onRole i.stall.val i.role.val _).onThr i _).logsOnly (raise_logsOnly ..)).pumpEvents
  · exact h.onThr i _

theorem endRead (h : ClockIs c s) (i : Tid) (v : Word64) (cs : Nat) : ClockIs c (endRead s i v cs) := by
  unfold Machine.endRead
  split
  · exact h
  · exact (h.onThr i _).retire i

/-- A timer port that returns only reads the time. -/
theorem unblock_timer (h : ClockIs c s) (i : Tid) : ClockIs c (unblock s i (· == .timer)) := by
  unfold unblock
  split
  · next w _ _ =>
    split
    · next hp =>
      have hw : w = .timer := by simpa using (Bool.and_eq_true_iff.1 hp).2
      subst hw
      split
      · next v z hread =>
        have hz : z = s := by
          simp only [tryRead] at hread
          split at hread <;> simp_all
        subst hz
        exact (h.quietReset _ _).endRead i v csOk
      · exact h
    · exact h
  · exact h

theorem refreshGates (h : ClockIs c s) (lp : Nat) : ClockIs c (refreshGates s lp) := h.onLp lp _

theorem takeBell (h : ClockIs c s) (lp : Nat) : ClockIs c (takeBell s lp) := by
  unfold Machine.takeBell
  split
  · split
    · exact (h.onLp lp _).refreshGates lp
    · exact h
  · exact h

theorem refreshBells (h : ClockIs c s) : ClockIs c ((List.range 16).foldl (fun s lp =>
    if (s.lp lp).bell.isSome || (s.lp lp).bellPend.isSome then Machine.refreshGates (Machine.takeBell s lp) lp else s) s) :=
  h.foldl (fun s lp hs => by split <;> [exact (hs.takeBell lp).refreshGates lp; exact hs]) _

theorem unblockTimers (h : ClockIs c s) : ClockIs c ((timerWaits s).foldl (fun s i => unblock s i (· == .timer)) s) :=
  h.foldl (fun _ i hs => hs.unblock_timer i) _

end ClockIs

/-- The clock of a time base just set to `ns`. -/
def Clk.stepped (c : Clk) (ns : Nat) : Clk :=
  { c with tb := ns * 2 ^ 32, slewLeft := 0, slewRate := 0, tbSet := true, stepAt := some c.up
           ppsHigh := false, ppsHold := some ns, ppsLastRise := none }

theorem stepTime_clk {s : State} (h : s.mbx.subs = []) (ns : Nat) : (stepTime s ns).clk = s.clk.stepped ns := by
  have hset : ClockIs (s.clk.stepped ns) { s with clk := s.clk.stepped ns } := ⟨rfl, h⟩
  unfold stepTime
  exact (hset.refreshBells.unblockTimers.logsOnly ((countStat_logsOnly ..).trans (raise_logsOnly ..))).clk

/-! ### A slew (R402, R403) -/

/-- At a sum of 115 ppm a clock adds 493,921 of 2^-32 ns over the nanosecond, or one more. -/
theorem tbIncrement_115ppm : 2 ^ 32 + 493921 ≤ tbIncrement 115000000 ∧ tbIncrement 115000000 ≤ 2 ^ 32 + 493922 := by
  unfold tbIncrement
  dsimp only
  rw [if_neg (by decide)]
  split <;> decide

/-- A slew that runs for `c.slewClocks` is over then, and each of its clocks adds the sum of both terms. -/
theorem run_slewClocks {c : Clk} (hrun : c.tbRunning = true) : c.run c.slewClocks =
    { c with up := c.up + c.slewClocks
             tb := c.tb + c.slewClocks * tbIncrement (c.rate + c.slewRate * 1000000)
             slewLeft := c.slewLeft - c.slewClocks * c.slewRate.natAbs } := by
  simp [Clk.run, hrun]

/-- Settles O13: each command and row by its handler, and the clock that a step of the time base leaves. -/
theorem timeBase : Obligations.TimeBase := by
  unfold Obligations.TimeBase
  refine ⟨fun t s x r slot => ⟨fun hx hb => answers_of_result rfl hx (tbReadCmd_of_empty hb x), fun hx hb ht => ?set,
      fun hx hb ht => answers_of_result rfl hx (tbSetCmd_of_bad_time hb ht x), fun hx hb => ?rate,
      fun hx hb hlo hhi h1 h500 => answers_of_result rfl hx (tbSlewCmd_in_range hb hlo hhi h1 h500 x), ends_slewEnd⟩,
    fun t s x hx hrun => ?pps, fun s v hsubs => ?step, fun c hrun hrate hslew hleft => ?worked⟩
  case set =>
    have hset := tbSetCmd_of_time hb ht x
    exact ⟨fun hr => answers_of_result rfl hx (hset.trans (if_pos hr)),
      fun hr => answers_of_result rfl hx (hset.trans (if_neg (by simp [hr])))⟩
  case rate =>
    have hrate := tbRateCmd_of_number hb x
    exact ⟨fun hlo hhi => answers_of_result rfl hx (hrate.trans (if_neg (by omega))),
      fun hout => answers_of_result rfl hx (hrate.trans (if_pos hout))⟩
  case pps =>
    replace hrun : x.clk.tbRunning = true := by rw [hx, advance_tbRunning, hrun]
    have hedge := ends_ppsInEdge hx hrun
    refine ⟨fun hroom => by rwa [if_pos hroom] at hedge, fun hfull => by rwa [if_neg (Nat.not_lt.2 hfull)] at hedge,
      fun n i hi hle hnear hlow hlast => ?_, ends_ppsOutFall hx⟩
    have hrise := ppsOutRise_of_near hrun hi hle hnear hlow hlast
    refine ⟨fun hcount => ends_ppsOutRise hx (hrise.trans (if_pos ?_)),
      fun v hv hnot => ends_ppsOutRise hx (hrise.trans (if_neg fun hreached => ?_))⟩
    · rcases hcount with ⟨hnone, hpos⟩ | ⟨v, hv, hreached⟩
      · exact (ppsReached_of_no_hold hnone).2 hpos
      · exact (ppsReached_of_hold hv).2 ⟨hreached.1, hreached.2.symm⟩
    · obtain ⟨hlt, hsec⟩ := (ppsReached_of_hold hv).1 hreached
      exact hnot.elim (Nat.not_le.2 hlt) hsec.symm
  case step =>
    rw [stepTime_clk hsubs]
    exact ⟨rfl, rfl, rfl, rfl, rfl, rfl, rfl, rfl, rfl⟩
  case worked =>
    have hclocks : c.slewClocks = 3000000 := by simp [Clk.slewClocks, hslew, hleft]
    have hend := run_slewClocks hrun
    rw [hclocks, hrate, hslew, hleft] at hend
    obtain ⟨hlo, hhi⟩ := tbIncrement_115ppm
    rw [hend]
    refine ⟨hclocks, rfl, rfl, ?_, ?_⟩
    all_goals
      dsimp only
      norm_num at hlo hhi ⊢
      omega

end Sys2Proof.Machine

/-! Proofs of the statement on frames received at a MAC, MACsec findings and links (R43, R50 to R66, R85). -/

namespace Sys2Proof.Machine

/-! ### What counting leaves of a port -/

theorem countRx_logsOnly (s : State) (lp : Nat) (b : Bytes) : LogsOnly s (countRx s lp b) := by
  have h := (countStat_logsOnly s (lStat lp 0) b.length).trans (countStat_logsOnly _ (lStat lp 1) 1)
  unfold countRx
  dsimp only
  split
  · exact h.trans (countStat_logsOnly ..)
  · split
    · exact h.trans (countStat_logsOnly ..)
    · exact h

theorem countCodewords_logsOnly (s : State) (p : Nat) (f : WireFrame) : LogsOnly s (countCodewords s p f) := by
  have h := countErrs_logsOnly s (portBase p + 0x20) f.uncorr
  unfold countCodewords
  dsimp only
  split
  · exact h
  · exact h.trans (countStat_logsOnly ..)

@[simp] theorem cfgN_countErr (s : State) (a item index sub d : Nat) : (countErr s a).cfgN item index sub d = s.cfgN item index sub d := by
  simp [State.cfgN, State.cfgRec?]

@[simp] theorem maxFrame_countErr (s : State) (a lp : Nat) : (countErr s a).maxFrame lp = s.maxFrame lp := cfgN_countErr ..

@[simp] theorem validateMode_countErr (s : State) (a lp : Nat) : validateMode (countErr s a) lp = validateMode s lp := cfgN_countErr ..

@[simp] theorem secured_countErr (s : State) (a lp : Nat) : (countErr s a).secured lp = s.secured lp := by simp [State.secured]

/-! ### The checks of a frame, in their order (R54, R64, R65, R85) -/

section Checked

variable {s : State} {lp tin up : Nat} {b : Bytes} {fcsBad icvBad : Bool}

theorem receiveChecked_short (h : b.length < 64) : receiveChecked s lp b fcsBad icvBad tin up = countErr s (lErr lp 1) := if_pos h

theorem receiveChecked_long (h : 64 ≤ b.length) (hmax : s.maxFrame lp < b.length) :
    receiveChecked s lp b fcsBad icvBad tin up = countErr s (lErr lp 2) := by
  rw [receiveChecked, if_neg (Nat.not_lt.2 h), if_pos hmax]

theorem receiveChecked_control (h : 64 ≤ b.length) (hmax : b.length ≤ s.maxFrame lp) (ht : etherType b = 0x8808) :
    receiveChecked s lp b false icvBad tin up = countErr s (lErr lp 3) := by
  rw [receiveChecked, if_neg (Nat.not_lt.2 h), if_neg (Nat.not_lt.2 hmax), if_pos (by simp [ht])]

/-- A frame that only class 7 may outrun goes on marked bad, and is not counted as good (R39, R66). -/
theorem receiveChecked_marked (h : 64 ≤ b.length) (hmax : b.length ≤ s.maxFrame lp) (hbad : (fcsBad || icvBad) = true)
    (ht : fcsBad = true ∨ etherType b ≠ 0x8808) (hp : s.parse.patchDone = true) (hm : s.port.mgmtOnly = false) :
    receiveChecked s lp b fcsBad icvBad tin up = toPipeline s lp b true tin up := by
  rw [receiveChecked, if_neg (Nat.not_lt.2 h), if_neg (Nat.not_lt.2 hmax), if_neg (by simpa using fun hf => ht.resolve_left (by simp [hf])),
    hbad]
  simp [hp, hm]

/-- A good frame is counted; before the patch of the parser, and in management-only mode unless R64 lets it in, it is discarded. -/
theorem receiveChecked_good (h : 64 ≤ b.length) (hmax : b.length ≤ s.maxFrame lp) (ht : etherType b ≠ 0x8808) :
    receiveChecked s lp b false false tin up =
      if s.parse.patchDone = true ∧ (s.port.mgmtOnly = false ∨ mgmtAccepts (countRx s lp b) b = true) then
        toPipeline (countRx s lp b) lp b false tin up
      else countErr (countRx s lp b) (lErr lp 5) := by
  have hrx := countRx_logsOnly s lp b
  rw [receiveChecked, if_neg (Nat.not_lt.2 h), if_neg (Nat.not_lt.2 hmax), if_neg (by simpa using ht)]
  simp only [Bool.or_self, Bool.false_eq_true, if_false, hrx.parse, hrx.port]
  cases s.parse.patchDone <;> cases s.port.mgmtOnly <;> simp

end Checked

/-! ### What MACsec validation finds (R56, R60) -/

section Check

variable {s : State} {lp : Nat} {sci : Word64} {an : BitVec 2} {pn : Word64} {icv : Bool}

theorem msecCheck_of_no_sa (h : (tget? (s.lp lp).rx sci.toNat).bind (fun c => tget? c.sas an.toNat) = none) :
    msecCheck s lp (.tagged sci an pn icv) = some 8 := by
  simp only [msecCheck]
  split
  · rfl
  · next c hc =>
    rw [hc, Option.bind_some] at h
    rw [h]

theorem msecCheck_of_sa {sa : Sa} (h : (tget? (s.lp lp).rx sci.toNat).bind (fun c => tget? c.sas an.toNat) = some sa)
    (htop : 0 < sa.topPn) : msecCheck s lp (.tagged sci an pn icv) =
      if pn.toNat + s.cfgN (itemId 4 2 3) lp (chanIndex (s.lp lp) sci.toNat) 0 ≤ sa.topPn then some 7
      else if icv = false then some 6 else none := by
  obtain ⟨c, hc, hsa⟩ := Option.bind_eq_some_iff.1 h
  simp only [msecCheck, hc, hsa, if_neg htop.ne', Nat.lt_succ_iff, Bool.not_eq_true']

end Check

/-! ### A frame on the receive data path (R52, R57, R60) -/

/-- The FCS of a frame is bad, or an uncorrectable codeword overlaps it. -/
def damaged (f : WireFrame) : Bool := f.fecBad || !fcsGood f.bytes

theorem damaged_iff (f : WireFrame) : damaged f = true ↔ f.fecBad = true ∨ fcsGood f.bytes = false := by simp [damaged]

theorem damaged_eq_false_iff (f : WireFrame) : damaged f = false ↔ f.fecBad = false ∧ fcsGood f.bytes = true := by simp [damaged]

/-- The state after RX_FCS_ERR: a damaged frame counts where its length `n` is one that the port takes, and in any case under a bad
codeword (R52). -/
def countFcs (s : State) (f : WireFrame) (n : Nat) : State :=
  if f.fecBad || (damaged f && decide (64 ≤ n) && decide (n ≤ s.maxFrame f.lp.val)) then countErr s (lErr f.lp.val 0) else s

/-- MACsec lets the frame through unvalidated: the port does not validate, or it is an untagged EAPOL or MAC control frame. -/
def passesUnvalidated (s : State) (f : WireFrame) : Prop :=
  validateMode s f.lp.val = 2 ∨ etherType f.bytes = 0x888E ∨ etherType f.bytes = 0x8808

/-- A frame that MACsec opened to `x` and validates. -/
def receiveValidated (s : State) (lp : Nat) (x : MsecIn × Bytes) (tin up : Nat) : State :=
  match msecCheck s lp x.1 with
  | none => receiveChecked (countStat (msecSeen s lp x.1) (lStat lp 6) 1) lp x.2 false false tin up
  | some k =>
    if validateMode (countErr s (lErr lp k)) lp = 1 then receiveChecked (countErr s (lErr lp k)) lp x.2 false false tin up
    else if k = 6 then receiveChecked (countErr s (lErr lp k)) lp x.2 false true tin up
    else countErr s (lErr lp k)

section ReceiveNow

variable {s : State} {f : WireFrame} {n k tin up : Nat}

theorem countFcs_of_fecBad (h : f.fecBad = true) : countFcs s f n = countErr s (lErr f.lp.val 0) := if_pos (by simp [h])

theorem countFcs_of_damaged (h : damaged f = true) (h64 : 64 ≤ n) (hmax : n ≤ s.maxFrame f.lp.val) :
    countFcs s f n = countErr s (lErr f.lp.val 0) := if_pos (by simp [h, h64, hmax])

theorem countFcs_of_other_length (h : f.fecBad = false) (hn : n < 64 ∨ s.maxFrame f.lp.val < n) : countFcs s f n = s :=
  if_neg (by simp [h]; omega)

theorem countFcs_of_undamaged (h : damaged f = false) : countFcs s f n = s := if_neg (by simp [h, ((damaged_eq_false_iff f).1 h).1])

@[simp] theorem secured_countFcs (lp : Nat) : (countFcs s f n).secured lp = s.secured lp := by
  unfold countFcs; split <;> simp

theorem receiveNow_of_unsecured (hs : s.secured f.lp.val = false) : receiveNow s f tin up =
    receiveChecked (countFcs s f f.bytes.length) f.lp.val f.bytes (damaged f) false tin up := by
  have hexempt : msecExempt (countFcs s f f.bytes.length) f.lp.val f.bytes (damaged f) = true := by simp [msecExempt, hs]
  unfold receiveNow
  simp only [hs, Bool.false_eq_true, if_false]
  exact if_pos hexempt

theorem msecExempt_iff (hs : s.secured f.lp.val = true) :
    msecExempt s f.lp.val f.bytes false = true ↔ passesUnvalidated s f := by
  simp [msecExempt, passesUnvalidated, hs, or_assoc]

theorem receiveNow_of_secured (hs : s.secured f.lp.val = true) (hd : damaged f = false) : receiveNow s f tin up =
    if msecExempt s f.lp.val f.bytes false then receiveChecked s f.lp.val (msecOpen s f.lp.val f.bytes).2 false false tin up
    else receiveValidated s f.lp.val (msecOpen s f.lp.val f.bytes) tin up := by
  have hfcs := countFcs_of_undamaged (s := s) (n := (msecOpen s f.lp.val f.bytes).2.length) hd
  unfold countFcs damaged at hfcs
  unfold damaged at hd
  simp only [receiveNow, hs, if_true]
  rw [hfcs, hd]
  rfl

variable (hs : s.secured f.lp.val = true) (hd : damaged f = false)
include hs hd

theorem receiveNow_of_unvalidated (h : passesUnvalidated s f) :
    receiveNow s f tin up = receiveChecked s f.lp.val (msecOpen s f.lp.val f.bytes).2 false false tin up := by
  rw [receiveNow_of_secured hs hd, if_pos ((msecExempt_iff hs).2 h)]

theorem receiveNow_of_valid (h : ¬ passesUnvalidated s f) (hc : msecCheck s f.lp.val (msecOpen s f.lp.val f.bytes).1 = none) :
    receiveNow s f tin up =
      receiveChecked (countStat (msecSeen s f.lp.val (msecOpen s f.lp.val f.bytes).1) (lStat f.lp.val 6) 1) f.lp.val
        (msecOpen s f.lp.val f.bytes).2 false false tin up := by
  rw [receiveNow_of_secured hs hd, if_neg (mt (msecExempt_iff hs).1 h), receiveValidated, hc]

/-- In strict mode a frame that fails validation is discarded, unless its ICV alone is wrong. -/
theorem receiveNow_of_invalid (h : ¬ passesUnvalidated s f) (hc : msecCheck s f.lp.val (msecOpen s f.lp.val f.bytes).1 = some k)
    (hmode : validateMode s f.lp.val = 0) : receiveNow s f tin up =
      if k = 6 then receiveChecked (countErr s (lErr f.lp.val k)) f.lp.val (msecOpen s f.lp.val f.bytes).2 false true tin up
      else countErr s (lErr f.lp.val k) := by
  rw [receiveNow_of_secured hs hd, if_neg (mt (msecExempt_iff hs).1 h), receiveValidated, hc]
  exact if_neg (by simp [hmode])

end ReceiveNow

/-! ### A frame completes at the MAC (R43, R52, R58, R65) -/

section Receive

variable {s : State} {f : WireFrame}

theorem receive_of_closed (h : ¬ (s.boot.gate = true ∧ s.lpPresent f.lp.val = true ∧ (s.lp f.lp.val).up = true)) : receive s f = s :=
  if_pos (by rwa [Bool.not_eq_true', ← Bool.not_eq_true, Bool.and_eq_true, Bool.and_eq_true, and_assoc])

/-- At a port that is up: a stopped port discards, a receive rekey holds the frame, and otherwise its checks follow. -/
theorem receive_of_open (h : s.boot.gate = true ∧ s.lpPresent f.lp.val = true ∧ (s.lp f.lp.val).up = true) :
    let y := countCodewords s (f.lp.val / 8) f
    let tin := s.ns - (s.lp f.lp.val).rxCal
    receive s f =
      if s.stopped (.logicalPort f.lp) = true then countErr (if f.fecBad then countErr y (lErr f.lp.val 0) else y) (lErr f.lp.val 3)
      else if rxHolds s (f.lp.val / 8) = true then
        y.onPp (f.lp.val / 8) (fun p => { p with rxHeld := p.rxHeld ++ [{ frame := f, tIn := tin, tInUp := s.clk.up }] })
      else receiveNow y f tin s.clk.up := by
  intro y tin
  have hy := countCodewords_logsOnly s (f.lp.val / 8) f
  have hstop : y.stopped (.logicalPort f.lp) = s.stopped (.logicalPort f.lp) := by simp only [State.stopped, State.q?, y, hy.qs]
  have hhold : rxHolds y (f.lp.val / 8) = rxHolds s (f.lp.val / 8) := by simp only [rxHolds, State.pp, y, hy.port]
  have htin : tInOf y f.lp.val = tin := by simp only [tInOf, State.ns, State.lp, y, tin, hy.clk, hy.port]
  have hup : y.clk.up = s.clk.up := by rw [hy.clk]
  obtain ⟨hgate, hpresent, hlink⟩ := h
  rw [← hstop, ← hhold, ← htin, ← hup, receive, if_neg (by simp [hgate, hpresent, hlink])]

theorem rxHolds_eq_true_of {p : Nat} {k : Rekey} (h : (s.pp p).rekey = some k) (hd : k.dir = 1) : rxHolds s p = true := by
  simp [rxHolds, h, hd]

theorem rxHolds_eq_false_of {p : Nat} (h : ∀ k, (s.pp p).rekey = some k → k.dir ≠ 1) : rxHolds s p = false := by
  unfold rxHolds
  split
  · next k hk => simpa using h k hk
  · rfl

end Receive

/-! ### Links (R51 to R53, R64) -/

section Links

variable {s : State} {lp p lane n : Nat} {offer : Option Nat}

theorem partnerFits_iff : partnerFits s lp offer = true ↔ anOn s lp = false ∨ offer = some (s.lpRate lp / 1000) := by
  simp [partnerFits, anSpeed]

theorem anOn_of_c2m (h : ifaceOf s lp = 2) : anOn s lp = false := by simp [anOn, h]

theorem lp_settleLink (s : State) (lp : Nat) :
    ((settleLink s lp).lp lp).negotiated = (if anOn s lp then some (s.lpRate lp / 1000) else none)
      ∧ ((settleLink s lp).lp lp).trained = (ifaceOf s lp != 2) := by
  simp only [settleLink, lp_onLp, if_true]
  exact ⟨rfl, trivial⟩

theorem mgmtOnly_onLp (s : State) (n : Nat) (f : LPort → LPort) : (s.onLp n f).port.mgmtOnly = s.port.mgmtOnly := rfl

theorem mgmtOnly_onPp (s : State) (n : Nat) (f : PPort → PPort) : (s.onPp n f).port.mgmtOnly = s.port.mgmtOnly := rfl

theorem mgmtOnly_settleLink (s : State) (lp : Nat) : (settleLink s lp).port.mgmtOnly = s.port.mgmtOnly := rfl

theorem laneMask_onLp (s : State) (n lp : Nat) (f : LPort → LPort) : laneMask (s.onLp n f) lp = laneMask s lp := rfl

theorem laneMask_settleLink (s : State) (n lp : Nat) : laneMask (settleLink s n) lp = laneMask s lp := rfl

/-- A port in service whose clock runs: a link already up is aligned again, and one that is down comes up with a partner that fits. -/
theorem linkUp_of_clocked (hg : s.boot.gate = true) (hp : s.lpPresent lp = true) (hc : portClocked s (lp / 8) = true)
    (hm : s.port.mgmtOnly = false) (hh : (s.lp lp).held = false) : linkUp s lp offer =
      if (s.lp lp).up = true then s.onLp lp (fun q => { q with aligned := true, lostAt := none })
      else if partnerFits s lp offer = false then s
      else ((settleLink s lp).onLp lp (fun q => { q with up := true, aligned := true, lostAt := none, remoteFault := false })).onPp
        (lp / 8) (fun q => { q with fecLock := q.fecLock ||| laneMask s lp }) := by
  rw [linkUp, if_neg (by simp [hg, hp, hc, hm, hh])]
  simp only [Bool.not_eq_true', mgmtOnly_onPp, mgmtOnly_onLp, mgmtOnly_settleLink, hm, Bool.false_and, Bool.false_eq_true, if_false,
    laneMask_onLp, laneMask_settleLink]

theorem alignmentLost_of_aligned (hu : (s.lp lp).up = true) (ha : (s.lp lp).aligned = true) :
    alignmentLost s lp = s.onLp lp (fun q => { q with aligned := false, lostAt := some s.clk.up }) := if_pos (by simp [hu, ha])

theorem linkDown_of_lost {a : Nat} (hu : (s.lp lp).up = true) (ha : (s.lp lp).lostAt = some a) :
    linkDown s lp = if a + s.cfgN (itemId 4 1 7) lp 0 0 < s.clk.up then declareDown s lp else s := by
  simp [linkDown, ha, hu]

theorem setupFallback_of_down (hm : s.port.mgmtOnly = true) (hg : s.boot.gate = true) (hu : (s.lp (p * 8)).up = false) :
    setupFallback s p = if (s.lp (p * 8)).setupAt + 3 * nsPerSec ≤ s.clk.up then
      s.onLp (p * 8) (fun x => { x with c2m := !x.c2m, setupAt := s.clk.up }) else s := by
  simp [setupFallback, hm, hg, hu]

/-- Within the running second the corrected symbols of the lane add up (R52). -/
theorem fecSymbols_in_window (h : s.clk.up < (s.pp p).symStart + nsPerSec) :
    let y := (countStat s (portBase p + 0x108 + 8 * lane) n).onPp p (fun q => { q with syms := tmod q.syms lane 0 (· + n) })
    fecSymbols s p lane n =
      if y.cfgN (itemId 4 1 8) p 0 1000000 < tget (y.pp p).syms lane 0 ∧ (y.pp p).degradeTold = false then
        raise (y.onPp p (fun q => { q with degradeTold := true })) 0x0402 p []
      else y := by
  have hc := countStat_logsOnly s (portBase p + 0x108 + 8 * lane) n
  have hwindow : ¬ ((countStat s (portBase p + 0x108 + 8 * lane) n).pp p).symStart + nsPerSec
      ≤ (countStat s (portBase p + 0x108 + 8 * lane) n).clk.up := by
    simp only [State.pp, hc.port, hc.clk]
    exact Nat.not_le.2 h
  simp only [fecSymbols, if_neg hwindow, Bool.not_eq_true]

/-- A frame of the Clerk's queue leaves when the budget of R64 allows. -/
theorem mgmtRelease_of_due {b : Bytes} {rest : List (Nat × Bytes)} (hq : (s.pp p).mgmt = (lp, b) :: rest) (hm : s.port.mgmtOnly = true)
    (hu : (s.lp lp).up = true) (hd : (s.pp p).mgmtAt ≤ s.clk.up) : mgmtRelease s p =
      countStat (countStat (s.onPp p (fun q => { q with mgmt := rest, mgmtAt := s.clk.up + max 50000 (b.length * 80) }))
        (lStat lp 4) b.length) (lStat lp 5) 1 := by
  simp only [mgmtRelease, hq]
  rw [if_neg (by simp [hm]), if_neg (by simp [hu, hd])]

end Links

/-! ### The rows at their instant -/

section PortRows

variable {t : Nat} {s x y : State} {lp : Fin 16} {p : Fin 2}

theorem ends_frameReceive {f : WireFrame} (hx : x = s.advance t) (h : receive x f = y) : Ends (.frameReceive t f) s y :=
  ends_of_act (receive · f) rfl hx h

theorem ends_linkUp {offer : Option Nat} (hx : x = s.advance t) (h : linkUp x lp.val offer = y) : Ends (.linkUp t ⟨lp, offer⟩) s y :=
  ends_of_act (linkUp · lp.val offer) rfl hx h

theorem ends_alignmentLoss (hx : x = s.advance t) (h : alignmentLost x lp.val = y) : Ends (.alignmentLoss t lp) s y :=
  ends_of_act (alignmentLost · lp.val) rfl hx h

theorem ends_linkDown (hx : x = s.advance t) (h : linkDown x lp.val = y) : Ends (.linkDown t lp) s y :=
  ends_of_act (linkDown · lp.val) rfl hx h

theorem ends_linkSetupFallback (hx : x = s.advance t) (h : setupFallback x p.val = y) : Ends (.linkSetupFallback t p) s y :=
  ends_of_act (setupFallback · p.val) rfl hx h

theorem ends_fecDegrade {lane : Fin 8} {n : Nat} (hx : x = s.advance t) (h : fecSymbols x p.val lane.val n = y) :
    Ends (.fecDegrade t p lane n) s y :=
  ends_of_act (fecSymbols · p.val lane.val n) rfl hx h

theorem ends_mgmtFrameRelease (hx : x = s.advance t) (h : mgmtRelease x p.val = y) : Ends (.mgmtFrameRelease t p) s y :=
  ends_of_act (mgmtRelease · p.val) rfl hx h

end PortRows

/-- Settles O16: each row by its function, and a received frame by the checks that it passes. -/
theorem portFramesAndLinks : Obligations.PortFramesAndLinks := by
  unfold Obligations.PortFramesAndLinks
  refine ⟨fun t s x f hx => ?arrival, fun s f tin up => ⟨fun hs => ?unsecured, fun hs hbad => ?secured⟩,
    fun s lp sci an pn icv => ⟨rfl, msecCheck_of_no_sa, fun sa hsa htop => ?check⟩,
    fun t s x lp p hx => ⟨fun hg hp hc hm hh => ?linkUp, anOn_of_c2m,
      fun hu ha => ends_alignmentLoss hx (alignmentLost_of_aligned hu ha), fun a hu ha => ?linkDown, fun hm hg hu => ?fallback,
      fun lane n hw => ?degrade, fun b rest hq hm hu hd => ends_mgmtFrameRelease hx (mgmtRelease_of_due hq hm hu hd)⟩⟩
  case arrival =>
    intro lp open_ y at_
    refine ⟨fun h => ends_frameReceive hx (receive_of_closed h),
      fun h hstop => ends_frameReceive hx ((receive_of_open h).trans (if_pos hstop)), fun h hstop => ?_⟩
    have hgo := (receive_of_open h).trans (if_neg (by simp [hstop]))
    exact ⟨fun k hk hd => ends_frameReceive hx (hgo.trans (if_pos (rxHolds_eq_true_of hk hd))),
      fun hk => ends_frameReceive hx (hgo.trans (if_neg (Bool.eq_false_iff.1 (rxHolds_eq_false_of hk))))⟩
  case unsecured =>
    intro n
    rw [receiveNow_of_unsecured hs]
    refine ⟨fun h hf => ?short, fun h hf => ?shortBad, fun h hmax hf => ?long, fun h hmax => ⟨fun hbad hp hm => ?marked, ?_, ?_⟩⟩
    case short => rw [countFcs_of_other_length hf (.inl h), receiveChecked_short h]
    case shortBad => rw [countFcs_of_fecBad hf, receiveChecked_short h]
    case long => rw [countFcs_of_other_length hf (.inr hmax), receiveChecked_long h hmax]
    case marked =>
      have hd := (damaged_iff f).2 hbad
      rw [countFcs_of_damaged hd h hmax, hd]
      exact receiveChecked_marked h (by simpa using hmax) rfl (.inl rfl) (by simpa using hp) (by simpa using hm)
    · intro hbad ht
      have hd : damaged f = false := by simpa using mt (damaged_iff f).1 hbad
      rw [countFcs_of_undamaged hd, hd, receiveChecked_control h hmax ht]
    · intro hbad ht
      have hd : damaged f = false := by simpa using mt (damaged_iff f).1 hbad
      have hgood := receiveChecked_good (s := s) (tin := tin) (up := up) h hmax ht
      rw [countFcs_of_undamaged hd, hd]
      exact ⟨fun hp => hgood.trans (if_neg (by simp [hp])), fun hp hm ha => hgood.trans (if_neg (by simp [hm, ha])),
        fun hp ha => hgood.trans (if_pos ⟨hp, ha⟩)⟩
  case secured =>
    have hd : damaged f = false := by simpa using mt (damaged_iff f).1 hbad
    refine ⟨receiveNow_of_unvalidated hs hd, fun hmode he hc => ?_⟩
    have hv : ¬ passesUnvalidated s f := by rintro (h | h | h) <;> contradiction
    refine ⟨receiveNow_of_valid hs hd hv, fun k hk hstrict h6 => ?_, fun hk hstrict hm hp h64 hmax ht => ?_⟩
    · rw [receiveNow_of_invalid hs hd hv hk hstrict, if_neg h6]
    · rw [receiveNow_of_invalid hs hd hv hk hstrict, if_pos rfl]
      exact receiveChecked_marked h64 (by simpa using hmax) rfl (.inr ht) (by simpa using hp) (by simpa using hm)
  case check =>
    intro window
    rw [msecCheck_of_sa hsa htop]
    exact ⟨fun h => if_pos h, fun h hi => (if_neg (Nat.not_le.2 h)).trans (if_pos hi),
      fun h hi => (if_neg (Nat.not_le.2 h)).trans (if_neg (by simp [hi]))⟩
  case linkUp =>
    have hup (offer : Option Nat) := linkUp_of_clocked (offer := offer) hg hp hc hm hh
    refine ⟨fun offer hu => ends_linkUp hx ((hup offer).trans (if_pos hu)),
      fun offer hu hfit => ⟨ends_linkUp hx ?_, lp_settleLink ..⟩,
      fun offer hu ha ho => ends_linkUp hx ?_⟩
    · rw [hup, if_neg (by simp [hu]), if_neg (by simp [partnerFits_iff.2 hfit])]
    · have hfit : partnerFits x lp.val offer = false := by simpa using mt partnerFits_iff.1 (by simp [ha, ho])
      rw [hup, if_neg (by simp [hu]), if_pos hfit]
  case linkDown =>
    have hdown := linkDown_of_lost hu ha
    exact ⟨fun h => ends_linkDown hx (hdown.trans (if_pos h)), fun h => ends_linkDown hx (hdown.trans (if_neg (Nat.not_lt.2 h)))⟩
  case fallback =>
    have hfall := setupFallback_of_down hm hg hu
    exact ⟨fun h => ends_linkSetupFallback hx (hfall.trans (if_pos h)),
      fun h => ends_linkSetupFallback hx (hfall.trans (if_neg (Nat.not_le.2 h)))⟩
  case degrade =>
    have hsym := fecSymbols_in_window (lane := lane.val) (n := n) hw
    exact ⟨fun h => ends_fecDegrade hx (hsym.trans (if_pos h)), fun h => ends_fecDegrade hx (hsym.trans (if_neg h))⟩

end Sys2Proof.Machine

/-! Proofs of the statement on MACsec associations and the readings of a port (R56 to R63, R341). -/

namespace Sys2Proof.Machine

/-! ### Install, activate, delete (R56, R58, R341) -/

section Associations

variable {s : State} {r : Req}

theorem msInstallCmd_denied (hb : r.body.length = 68) (hf : saFault s r = 0) (hn : slotNameable (num r 4) = true) (h5 : num r 5 < 2 ^ 32)
    (hk : ¬ ((s.keySlot (num r 4)).typ = 1 ∧ (s.keySlot (num r 4)).may useMacsec = true)) : msInstallCmd s r = denies s := by
  simp only [msInstallCmd, bodyIs, hb, hf, hn]
  rw [if_neg (by simp), if_neg (by simp), if_neg (by simp), if_neg (Nat.not_le.2 h5)]
  exact if_pos (by rwa [Bool.not_eq_true', ← Bool.not_eq_true, ne_eq, ← not_and_or])

/-- The association is the active one of its channel, or its channel would take the place of a transmit channel with an active one. -/
def installBlocked (s : State) (r : Req) : Bool :=
  match schan s (num r 0) (num r 1) (sciOf r) with
  | some c => c.active == some (num r 3)
  | none => num r 1 == 0 && (s.lp (num r 0)).tx.active.isSome

theorem msInstallCmd_of_key (hb : r.body.length = 68) (hf : saFault s r = 0) (hn : slotNameable (num r 4) = true) (h5 : num r 5 < 2 ^ 32)
    (ht : (s.keySlot (num r 4)).typ = 1) (hu : (s.keySlot (num r 4)).may useMacsec = true) : msInstallCmd s r =
      if installBlocked s r = true then { st := s, status := mbxState }
      else if num r 1 = 1 ∧ tget? (s.lp (num r 0)).rx (sciOf r) = none ∧ 64 ≤ (s.lp (num r 0)).rx.length then
        { st := s, status := mbxNospace }
      else { st := saInstall s (num r 0) (num r 1) (sciOf r) (num r 3)
                     { keySlot := num r 4, ssci := num r 5, salt := slice r.body 48 12, firstPn := leAt r.body 60 8
                       nextPn := leAt r.body 60 8, topPn := leAt r.body 60 8 - 1 } } := by
  simp only [msInstallCmd, bodyIs, hb, hf, hn, Option.isNone_iff_eq_none]
  rw [if_neg (by simp), if_neg (by simp), if_neg (by simp), if_neg (Nat.not_le.2 h5), if_neg (by simp [ht, hu])]
  rfl

theorem installBlocked_of_active {c : SChan} (hc : schan s (num r 0) (num r 1) (sciOf r) = some c) :
    installBlocked s r = (c.active == some (num r 3)) := by rw [installBlocked, hc]

theorem schan_tx_self {lp sci : Nat} (h : (s.lp lp).tx.sci = sci) : schan s lp 0 sci = some (s.lp lp).tx := if_pos h

theorem schan_tx_other {lp sci : Nat} (h : (s.lp lp).tx.sci ≠ sci) : schan s lp 0 sci = none := if_neg h

theorem installBlocked_of_other_tx (hd : num r 1 = 0) (hs : (s.lp (num r 0)).tx.sci ≠ sciOf r) :
    installBlocked s r = (s.lp (num r 0)).tx.active.isSome := by
  rw [installBlocked, hd, schan_tx_other hs]; simp

theorem installBlocked_eq_false (hc : ∀ c, schan s (num r 0) (num r 1) (sciOf r) = some c → c.active ≠ some (num r 3))
    (hd : num r 1 = 0 → (s.lp (num r 0)).tx.sci = sciOf r ∨ (s.lp (num r 0)).tx.active = none) : installBlocked s r = false := by
  cases h : schan s (num r 0) (num r 1) (sciOf r) with
  | some c => rw [installBlocked_of_active h]; simpa using hc c h
  | none =>
    rw [installBlocked, h]
    by_cases h0 : num r 1 = 0
    · have hs : (s.lp (num r 0)).tx.sci ≠ sciOf r := fun hs => by simp [h0, schan_tx_self hs] at h
      simp [(hd h0).resolve_left hs]
    · simp [h0]

/-- One rekey on a physical port at a time, and only to an association that is installed. -/
theorem msActivateCmd_of_params (hb : r.body.length = 32) (hf : saFault s r = 0) : msActivateCmd s r =
    if (s.pp (num r 0 / 8)).rekey.isSome = true then { st := s, status := mbxBusy }
    else if saNamed s r = none then { st := s, status := mbxState }
    else { st := s.onPp (num r 0 / 8) (fun p => { p with
             rekey := some { lp := num r 0, dir := num r 1, sci := sciOf r, an := num r 3, start := s.clk.up } }) } := by
  simp only [msActivateCmd, bodyIs, hb, hf]
  rw [if_neg (by simp), if_neg (by simp)]
  cases saNamed s r <;> rfl

theorem msDeleteCmd_of_active (hb : r.body.length = 32) (hf : saFault s r = 0) (ha : saActive s r = true) :
    msDeleteCmd s r = { st := s, status := mbxState } := by
  simp [msDeleteCmd, bodyIs, hb, hf, ha, fails]

theorem onLp_congr {n : Nat} {f g : LPort → LPort} (h : f (s.lp n) = g (s.lp n)) : s.onLp n f = s.onLp n g := by
  unfold State.lp at h
  simp only [State.onLp, tmod, h]

theorem msDeleteCmd_of_tx (hb : r.body.length = 32) (hf : saFault s r = 0) (ha : saActive s r = false) (hd : num r 1 = 0)
    (hs : (s.lp (num r 0)).tx.sci = sciOf r) : msDeleteCmd s r =
      { st := s.onLp (num r 0) (fun p => { p with tx := { p.tx with sas := tdel p.tx.sas (num r 3) } }) } := by
  simp only [msDeleteCmd, bodyIs, hb, hf, ha]
  rw [if_neg (by simp), if_neg (by simp), if_neg (by simp), done, onLp_congr]
  rw [if_pos hd, if_pos hs]

end Associations

/-! ### The end of a rekey (R58) -/

section Rekeys

variable {s : State} {p : Nat} {k : Rekey}

/-- The frame in transmission under the old association has not ended. -/
theorem saActivated_of_sending (hk : (s.pp p).rekey = some k) (hd : k.dir = 0) (h : ∃ i, i < 8 ∧ (s.lp (p * 8 + i)).mac.isSome = true) :
    saActivated s p = s := by
  simp only [saActivated, hk]
  exact if_pos ⟨hd, by simpa using h⟩

/-- The channel's new association stands, its rekey is over and reported. -/
def rekeyed (s : State) (p : Nat) (k : Rekey) : State :=
  raise ((s.onLp k.lp (fun q => if k.dir = 0 then { q with tx := q.tx.activate k.an true }
    else { q with rx := tmod q.rx k.sci { sci := k.sci } (·.activate k.an false) })).onPp p
      (fun q => { q with rekey := none, rekeyEnd := some s.clk.up })) 0x0403 k.lp []

theorem saActivated_of_idle (hk : (s.pp p).rekey = some k) (h : k.dir ≠ 0 ∨ ∀ i, i < 8 → (s.lp (p * 8 + i)).mac = none) :
    saActivated s p = if k.dir = 0 then pnCheck (rekeyed s p k) k.lp else releaseHeld (rekeyed s p k) p := by
  simp only [saActivated, hk]
  rw [if_neg]
  · rfl
  · rintro ⟨hd, hmac⟩
    have hnone := h.resolve_left (not_not.2 hd)
    obtain ⟨i, hi, hsome⟩ : ∃ i, i < 8 ∧ (s.lp (p * 8 + i)).mac.isSome = true := by simpa using hmac
    rw [hnone i hi] at hsome
    exact Bool.false_ne_true hsome

theorem ends_saActivated {t : Nat} {x y : State} {p : Fin 2} (hx : x = s.advance t) (h : saActivated x p.val = y) :
    Ends (.saActivated t p) s y := ends_of_act (saActivated · p.val) rfl hx h

end Rekeys

/-! ### Packet numbers (R59) -/

section PacketNumbers

variable {s : State} {lp an : Nat}

/-- Below 2^64 - 1, what remains is the event of the threshold, once. -/
theorem pnCheck_below_end (ha : (s.lp lp).tx.active = some an) (hpn : (tget (s.lp lp).tx.sas an default).nextPn < 2 ^ 64 - 1) :
    pnCheck s lp =
      if s.cfgN (itemId 4 2 4) lp 0 0xC000000000000000 < (tget (s.lp lp).tx.sas an default).nextPn ∧ (s.lp lp).tx.told = false then
        raise (s.onLp lp (fun p => { p with tx := { p.tx with told := true } })) 0x0404 lp []
      else s := by
  simp only [pnCheck, ha]
  rw [if_neg (fun h => Nat.not_le.2 hpn h.1)]
  simp only [Bool.not_eq_true]

theorem pnCheck_at_end (ha : (s.lp lp).tx.active = some an) (he : (s.lp lp).tx.exhausted = false)
    (hpn : 2 ^ 64 - 1 ≤ (tget (s.lp lp).tx.sas an default).nextPn) (ht : (s.lp lp).tx.told = true) :
    pnCheck s lp = raise (s.onLp lp (fun p => { p with tx := { p.tx with exhausted := true } })) 0x0405 lp [] := by
  simp only [pnCheck, ha, ht, not_true_eq_false, and_false, if_false, he]
  exact if_pos ⟨hpn, Bool.false_ne_true⟩

end PacketNumbers

/-! ### What the port commands read (R61, R63, R341) -/

section Readings

variable {s : State} {r : Req}

theorem msStatusCmd_of_port (hb : r.body.length = 8) (h0 : num r 0 < 16) (hp : s.lpPresent (num r 0) = true) : msStatusCmd s r =
    { st := s, out := (s.lp (num r 0)).tx.status 0 ++ (s.lp (num r 0)).rx.flatMap (fun p => p.2.status 1) } := by
  simp [msStatusCmd, bodyIs, hb, hp, gives, Nat.not_le.2 h0]

theorem tsReadCmd_of_port (hb : r.body.length = 8) (h0 : num r 0 < 16) (hp : s.lpPresent (num r 0) = true) : tsReadCmd s r =
    { st := s.onLp (num r 0) (fun p => { p with stamps := p.stamps.drop 64 })
      out := ((s.lp (num r 0)).stamps.take 64).flatMap (fun y => leBytes 10 y.1 ++ encN (num r 0) ++ encN y.2) } := by
  simp [tsReadCmd, bodyIs, hb, hp, gives, Nat.not_le.2 h0]

theorem ppsReadCmd_of_empty (hb : r.body = []) (s : State) : ppsReadCmd s r =
    { st := { s with port.ppsFifo := [] }, out := s.port.ppsFifo.flatMap (leBytes 10) } := by
  simp [ppsReadCmd, bodyIs, hb, gives]

end Readings

/-- Settles O17: each command by its parameters and the state of its association, and the end of a rekey by its direction. -/
theorem macsecRekeys : Obligations.MacsecRekeys := by
  unfold Obligations.MacsecRekeys
  refine ⟨fun t s x r slot => ⟨fun hx hb hf hn h5 => ?install, fun hx hb hf => ?activate, fun hx hb hf => ?delete,
      fun p k hx hk => ?rekey⟩,
    fun s lp an ha he => ⟨fun hpn hmark ht => ?threshold, fun hpn h => ?below, fun hpn ht => pnCheck_at_end ha he hpn ht⟩,
    fun t s x r slot => ⟨fun hx hb h0 hp => answers_of_result rfl hx (msStatusCmd_of_port hb h0 hp),
      fun hx hb h0 hp => answers_of_result rfl hx (tsReadCmd_of_port hb h0 hp),
      fun hx hb => answers_of_result rfl hx (ppsReadCmd_of_empty hb x)⟩⟩
  case install =>
    refine ⟨fun hk => answers_of_result rfl hx (msInstallCmd_denied hb hf hn h5 hk), fun ht hu => ?_⟩
    have hinst := msInstallCmd_of_key hb hf hn h5 ht hu
    refine ⟨fun c hc ha => answers_of_result rfl hx (hinst.trans (if_pos ?_)),
      fun hd hs ha => answers_of_result rfl hx (hinst.trans (if_pos ?_)), fun hc hroom => answers_of_result rfl hx (hinst.trans ?_)⟩
    · rw [installBlocked_of_active hc, ha, beq_self_eq_true]
    · rw [installBlocked_of_other_tx hd hs, ha]
    · have hfree : installBlocked x r = false :=
        installBlocked_eq_false hc fun h0 => hroom.elim (fun h => h.2) (fun h => absurd (h0.symm.trans h.1) Nat.zero_ne_one)
      rw [hfree, if_neg Bool.false_ne_true, if_neg]
      rintro ⟨h1, hnew, hfull⟩
      rcases hroom with ⟨h0, -⟩ | ⟨-, hold | hlt⟩
      · omega
      · simp [hnew] at hold
      · omega
  case activate =>
    have hact := msActivateCmd_of_params hb hf
    exact ⟨fun hbusy => answers_of_result rfl hx (hact.trans (if_pos hbusy)),
      fun hfree hsa => answers_of_result rfl hx (hact.trans ((if_neg (by simp [hfree])).trans (if_pos hsa))),
      fun sa hfree hsa => answers_of_result rfl hx (hact.trans ((if_neg (by simp [hfree])).trans (if_neg (by simp [hsa]))))⟩
  case delete =>
    exact ⟨fun ha => answers_of_result rfl hx (msDeleteCmd_of_active hb hf ha),
      fun ha hd hs => answers_of_result rfl hx (msDeleteCmd_of_tx hb hf ha hd hs)⟩
  case rekey =>
    refine ⟨fun hd hmac => ends_saActivated hx (saActivated_of_sending hk hd hmac), fun h => ?_⟩
    have hidle := saActivated_of_idle hk h
    exact ⟨fun hd => ends_saActivated hx (hidle.trans (if_pos hd)), fun hd => ends_saActivated hx (hidle.trans (if_neg hd))⟩
  case threshold => exact (pnCheck_below_end ha hpn).trans (if_pos ⟨hmark, ht⟩)
  case below =>
    refine (pnCheck_below_end ha hpn).trans (if_neg fun hc => ?_)
    rcases h with h | h
    · exact Nat.not_le.2 hc.1 h
    · exact Bool.false_ne_true (hc.2.symm.trans h)

end Sys2Proof.Machine

/-! Proofs of the statements on the Chicory machine and its cycle cap (R70, R72, R73, R75, R76, R81, R82). -/

namespace Sys2Proof.Machine

/-! ### Where a program may read (R70) -/

/-- The depth limit stands before the end of the frame, and that before the bytes received. -/
theorem access_of_pos (e : PEnv) (off : Nat) {n : Nat} (hn : 0 < n) : e.access off n =
    if e.depth < off + n then some xDepth else if e.win.length < off + n then some xTrunc
    else if e.avail < off + n then some 0 else none := if_neg (Nat.ne_of_gt hn)

/-! ### The ALU (R73) -/

/-- A register that exists holds what is written to it, modulo 2^32. -/
theorem reg_setReg_self {p : PSt} {d : Nat} (h : d < p.w.length) (v : Nat) : (p.setReg d v).reg d = v % 2 ^ 32 := by
  simp [PSt.reg, PSt.setReg, h]

/-- The ALU subtracts by adding the complement, which is subtraction modulo 2^32. -/
theorem sub_mod_word {a b : Nat} (hb : b < 2 ^ 32) : (a + 2 ^ 32 - b) % 2 ^ 32 = (((a : Int) - b) % 2 ^ 32).toNat := by
  omega

theorem and_mod_word {a b : Nat} (ha : a < 2 ^ 32) : (a &&& b) % 2 ^ 32 = a &&& b :=
  Nat.mod_eq_of_lt (Nat.and_le_left.trans_lt ha)

/-- Under an operation that sets the destination register, that register holds the value set. -/
theorem reg_chcAlu {e : PEnv} {p : PSt} {op d a imm cur v : Nat} (hd : d < p.w.length)
    (h : chcAlu e p op d a imm cur = p.setReg d v) : (chcAlu e p op d a imm cur).reg d = v % 2 ^ 32 := by rw [h, reg_setReg_self hd]

/-! ### Which word stands at an address (R76, R81, R82) -/

section Points

variable {e : PEnv} {a t : Nat} {pt : Point}

theorem trapOf_of_find (h : e.traps.find? (fun y => y.1 == a) = some (a, t)) : trapOf e a = some t := by
  rw [trapOf, h]; rfl

theorem resolve_word_of_trap (ha : a < 0x4000) (h : trapOf e a = some t) : resolve e (.word a) = .word t := by
  simp only [resolve, if_pos ha, h]

/-- A header of the ROM program is trapped at its ROM address. -/
theorem resolve_header_of_trap (hpt : ∀ b, pt ≠ .word b) (h : trapOf e (pointRom pt) = some t) : resolve e pt = .word t := by
  cases pt
  case word b => exact absurd rfl (hpt b)
  all_goals simp only [resolve, h]

/-- A header of the ROM program is executed unless an uncorrectable error stands in its word. -/
theorem pointStep_header (p : PSt) (hpt : ∀ b, pt ≠ .word b) : pointStep e pt p =
    (romClocks pt, if e.poison.contains (pointRom pt) then .exc xEcc (pointRom pt) p else romStep e pt p) := by
  rw [apply_ite (Prod.mk (romClocks pt))]
  cases pt
  case word b => exact absurd rfl (hpt b)
  all_goals rfl

theorem fetchWord_beyond (h : 0x5400 ≤ a) : fetchWord e a = .inr xAddr := if_pos h

theorem fetchWord_poisoned (h : a < 0x5400) (hp : a ∈ e.poison) : fetchWord e a = .inr xEcc := by
  simp [fetchWord, Nat.not_le.2 h, hp]

theorem fetchWord_loaded {b : Bytes} (hl : 0x4000 ≤ a) (h : a < 0x5400) (hp : a ∉ e.poison) (hb : tget? e.store a = some b) :
    fetchWord e a = .inl (ofLe b) := by
  simp [fetchWord, Nat.not_le.2 h, Nat.not_lt.2 hl, hp, hb]

theorem fetchWord_not_loaded (hl : 0x4000 ≤ a) (h : a < 0x5400) (hp : a ∉ e.poison) (hb : tget? e.store a = none) :
    fetchWord e a = .inr xAddr := by
  simp [fetchWord, Nat.not_le.2 h, Nat.not_lt.2 hl, hp, hb]

end Points

/-- Settles O22: access, ALU, branches and cursor by their modes; traps, poisoned headers and the fetch of a word by its address. -/
theorem microwordMeaning : Obligations.MicrowordMeaning := by
  unfold Obligations.MicrowordMeaning
  refine ⟨fun e off n hn => ?access, fun e p d a imm cur hd ha hb himm => ?alu, fun e p w a => ?branch, fun p w cur => ?cursor,
    fun e a t h => ⟨fun ha => resolve_word_of_trap ha (trapOf_of_find h),
      fun pt hpt hrom => resolve_header_of_trap hpt (hrom ▸ trapOf_of_find h)⟩,
    fun e p pt hpt hp => ?poisoned,
    fun e a => ⟨fetchWord_beyond, fetchWord_poisoned,
      fun hl h hp => ⟨fun b => fetchWord_loaded hl h hp, fetchWord_not_loaded hl h hp⟩⟩⟩
  case access =>
    rw [access_of_pos e off hn]
    refine ⟨fun h => if_pos h, fun h1 h => ?_, fun h1 h2 h => ?_, fun h1 h2 h => ?_⟩
    · rw [if_neg (Nat.not_lt.2 h1), if_pos h, xTrunc]
    · rw [if_neg (Nat.not_lt.2 h1), if_neg (Nat.not_lt.2 h2), if_pos h]
    · rw [if_neg (Nat.not_lt.2 h1), if_neg (Nat.not_lt.2 h2), if_neg (Nat.not_lt.2 h)]
  case alu =>
    have hout {op v : Nat} (h : chcAlu e p op d a imm cur = p.setReg d v) := reg_chcAlu hd h
    have hword {v : Nat} (h : v < 2 ^ 32) : v % 2 ^ 32 = v := Nat.mod_eq_of_lt h
    refine ⟨rfl, (hout rfl).trans (hword (himm.trans (by decide))), hout rfl, (hout rfl).trans (and_mod_word ha), hout rfl,
      (hout rfl).trans (hword ((Nat.div_le_self _ _).trans_lt ha)), hout rfl, hout rfl, (hout rfl).trans (sub_mod_word hb),
      (hout rfl).trans (hword ha), hout rfl, hout rfl, rfl, rfl, rfl⟩
  case branch =>
    refine ⟨fun h => ?_, fun h => ?_, fun h => ?_, fun h => ?_, fun h => ?_, fun h => ?_, fun h => ?_, fun h => ?_⟩ <;>
      simp only [chcBranch, h, ite_not]
  case cursor =>
    refine ⟨fun h => ?_, fun h => ?_, fun h => ?_, fun h => ?_⟩ <;> simp only [chcAdvance, h]
  case poisoned =>
    rw [pointStep_header p hpt, if_pos (by simpa using hp), xEcc]

/-! ### The cycle cap (R70, R75, R76) -/

/-- A parse has ended, or stands at a byte not received, within the cap; at the cap it has ended with CHC_X_CAP. -/
def PEnd.WithinCap (cap : Nat) : PEnd → Prop
  | .ends r _ => r.clocks ≤ cap
  | .capped r => r.code = xCap ∧ r.profile = 4080 + xCap ∧ r.clocks = cap
  | .stalled p => p.clocks ≤ cap

/-- A step comes to an end within the cap, or leaves its program within it. -/
def StepWithinCap (cap : Nat) : POut ⊕ PEnd → Prop
  | .inl (.go _ p) => p.clocks ≤ cap
  | .inl _ => True
  | .inr r => r.WithinCap cap

/-- A step's outcome leaves the clocks at `n`. -/
def POut.HasClocks (n : Nat) : POut → Prop
  | .go _ p => p.clocks = n
  | .fin _ _ p => p.clocks = n
  | .exc _ _ p => p.clocks = n
  | .stall => True

/-- What a step of a parse comes to: one that costs no clock is not held against the cap. -/
def stepEnd (e : PEnv) (p : PSt) (x : Nat × POut) : POut ⊕ PEnd :=
  if x.1 = 0 then
    match x.2 with
    | .fin c pr q => .inr (.ends (q.result c pr) 0)
    | .exc y a q => .inr (.ends (q.except y) a)
    | o => .inl o
  else account e p x.1 x.2

/-- How a parse with `fuel` steps left goes on from what its step at `q` came to. -/
def afterStep (fuel : Nat) (e : PEnv) (more : List (Nat × Nat)) (q : Point) (p : PSt) : POut ⊕ PEnd → PEnd
  | .inl (.go pt p') => runParse fuel e more pt p'
  | .inr (.stalled p') =>
    match more with
    | [] => .stalled p'
    | (n, c) :: rest =>
      if e.cap ≤ p'.clocks + c then .capped (p'.capEnd e)
      else runParse fuel { e with avail := max e.avail n } rest q { p' with clocks := p'.clocks + c }
  | .inr r => r
  | .inl _ => .stalled p

theorem runParse_succ (fuel : Nat) (e : PEnv) (more : List (Nat × Nat)) (pt : Point) (p : PSt) :
    runParse (fuel + 1) e more pt p
      = afterStep fuel e more (resolve e pt) p (stepEnd e p (pointStep e (resolve e pt) p)) := by
  rw [runParse]
  rfl

theorem withinCap_capEnd (p : PSt) (e : PEnv) : (PEnd.capped (p.capEnd e)).WithinCap e.cap := ⟨rfl, rfl, rfl⟩

theorem lostClocks_pos (e : PEnv) (a : Nat) : 0 < lostClocks e a := by
  unfold lostClocks
  split <;> omega

/-- Only the entry and the end of the ROM program cost no clock, and they leave the clocks as they are. -/
theorem hasClocks_of_uncounted {e : PEnv} {pt : Point} {p : PSt} (h : (pointStep e pt p).1 = 0) :
    (pointStep e pt p).2.HasClocks p.clocks := by
  cases pt
  case word a =>
    have hpos : 0 < (pointStep e (.word a) p).1 := by
      simp only [pointStep]
      split
      · exact lostClocks_pos e a
      · exact Nat.succ_pos _
    omega
  case start | done =>
    rw [pointStep_header p (fun _ => Point.noConfusion)]
    dsimp only [romStep]
    split_ifs <;> rfl
  all_goals
    rw [pointStep_header p (fun _ => Point.noConfusion)] at h
    exact absurd h (by simp [romClocks])

theorem account_withinCap {e : PEnv} {p : PSt} (hp : p.clocks ≤ e.cap) (c : Nat) (o : POut) :
    StepWithinCap e.cap (account e p c o) := by
  cases o with
  | stall => exact hp
  | fin _ _ q =>
    simp only [account]
    split
    · exact withinCap_capEnd q e
    · exact Nat.not_lt.1 ‹_›
  | exc _ _ q | go _ q =>
    simp only [account]
    split
    · exact withinCap_capEnd q e
    · exact (Nat.not_le.1 ‹_›).le

theorem stepEnd_withinCap {e : PEnv} {p : PSt} {x : Nat × POut} (hp : p.clocks ≤ e.cap) (hx : x.1 = 0 → x.2.HasClocks p.clocks) :
    StepWithinCap e.cap (stepEnd e p x) := by
  obtain ⟨c, o⟩ := x
  by_cases hc : c = 0
  · have ho := hx hc
    rw [stepEnd, if_pos hc]
    cases o with
    | stall => trivial
    | fin _ _ q | exc _ _ q | go _ q => exact (show q.clocks = p.clocks from ho).trans_le hp
  · rw [stepEnd, if_neg hc]
    exact account_withinCap hp c o

/-- A stall that passes the cap ends the parse there; any other leaves the program within it (R70). -/
theorem runParse_withinCap (fuel : Nat) : ∀ (e : PEnv) (more : List (Nat × Nat)) (pt : Point) (p : PSt), p.clocks ≤ e.cap →
    (runParse fuel e more pt p).WithinCap e.cap := by
  induction fuel with
  | zero => exact fun e more pt p _ => withinCap_capEnd p e
  | succ fuel ih =>
    intro e more pt p hp
    have hstep := stepEnd_withinCap hp (hasClocks_of_uncounted (e := e) (pt := resolve e pt))
    rw [runParse_succ]
    match stepEnd e p (pointStep e (resolve e pt) p), hstep with
    | .inl (.go pt' p'), hgo => exact ih e more pt' p' hgo
    | .inl (.fin ..), _ | .inl (.exc ..), _ | .inl .stall, _ => exact hp
    | .inr (.ends ..), hend => exact hend
    | .inr (.capped _), hend => exact hend
    | .inr (.stalled p'), hstall =>
      cases more with
      | nil => exact hstall
      | cons m rest =>
        simp only [afterStep]
        split
        · exact withinCap_capEnd p' e
        · exact ih { e with avail := max e.avail m.1 } rest _ _ (Nat.not_le.1 ‹_›).le

/-- Settles O23, by induction on the fuel: a step within the cap ends there or leaves its program within it. -/
theorem parseWithinCap : Obligations.ParseWithinCap := by
  unfold Obligations.ParseWithinCap
  intro e fuel more pt p hp
  have h := runParse_withinCap fuel e more pt p hp
  exact ⟨fun r a hr => by rwa [hr] at h, fun r hr => by rwa [hr] at h, fun q hq => by rwa [hq] at h⟩

end Sys2Proof.Machine

/-! Proofs of the statement on patch and extension images (R84, R85). -/

namespace Sys2Proof.Machine

/-! ### The checks of an image in their order (R84) -/

/-- The key that an image names may sign it: a live vendor root for a patch, an enrolled owner key for an extension. -/
def imgKeyOk (s : State) (typ : Nat) (b : Bytes) : Bool :=
  if typ = 1 then rootLive s (slice b 0x18 32) else ownerKnows s (slice b 0x18 32)

/-- The least security version that an image of a type must have. -/
def imgMin (s : State) (typ : Nat) : Nat := if typ = 1 then patchMin s else ownerMin s

/-- The checks of a plaintext body, steps 6 to 9. -/
def checkBody (s : State) (typ : Nat) (b body : Bytes) : Checked :=
  let traps := bodyTraps body (imgTraps b)
  let words := bodyWords body (imgTraps b) (imgWords b)
  if Crypto.shake256 body ≠ slice b 0x54 32 then .inl (mbxVerify, 0x0106, 0)
  else if !imgRangeOk typ b traps then .inl (mbxInvalid, 0x0107, 0)
  else match words.findIdx? (fun w => !wordOk (ofLe w)) with
    | some i => .inl (mbxInvalid, 0x0108, i + 1)
    | none => if typ = 2 ∧ imgInUse s b then .inl (mbxState, 0x0109, 0) else .inr (words, traps)

section Check

variable {s : State} {typ : Nat} {b body : Bytes} {sig : Bool} {w : List Bytes × List (Nat × Nat)}

theorem checkImage_eq (s : State) (typ : Nat) (b : Bytes) (sig : Bool) : checkImage s typ b sig =
    if !imgFormatOk typ b then .inl (mbxInvalid, 0x0101, 0)
    else if !imgKeyOk s typ b then .inl (mbxVerify, 0x0102, 0)
    else if !sig then .inl (mbxVerify, 0x0103, 0)
    else if leAt b 0xC 4 < imgMin s typ then .inl (mbxVerify, 0x0104, 0)
    else (imgPlain s typ b).elim (.inl (mbxVerify, 0x0105, 0)) (checkBody s typ b) := by
  unfold checkImage
  cases imgPlain s typ b <;> rfl

theorem checkImage_bad_format (hf : imgFormatOk typ b = false) : checkImage s typ b sig = .inl (mbxInvalid, 0x0101, 0) := by
  rw [checkImage_eq, hf]; rfl

theorem checkImage_bad_key (hf : imgFormatOk typ b = true) (hk : imgKeyOk s typ b = false) :
    checkImage s typ b sig = .inl (mbxVerify, 0x0102, 0) := by
  rw [checkImage_eq, hf, hk]; rfl

theorem checkImage_bad_signature (hf : imgFormatOk typ b = true) (hk : imgKeyOk s typ b = true) :
    checkImage s typ b false = .inl (mbxVerify, 0x0103, 0) := by
  rw [checkImage_eq, hf, hk]; rfl

/-- A signed image comes down to its version, and then to its body. -/
theorem checkImage_signed (hf : imgFormatOk typ b = true) (hk : imgKeyOk s typ b = true) : checkImage s typ b true =
    if leAt b 0xC 4 < imgMin s typ then .inl (mbxVerify, 0x0104, 0)
    else (imgPlain s typ b).elim (.inl (mbxVerify, 0x0105, 0)) (checkBody s typ b) := by
  rw [checkImage_eq, hf, hk]; rfl

theorem checkImage_old (hf : imgFormatOk typ b = true) (hk : imgKeyOk s typ b = true) (hv : leAt b 0xC 4 < imgMin s typ) :
    checkImage s typ b true = .inl (mbxVerify, 0x0104, 0) := (checkImage_signed hf hk).trans (if_pos hv)

theorem checkImage_no_plaintext (hf : imgFormatOk typ b = true) (hk : imgKeyOk s typ b = true) (hv : imgMin s typ ≤ leAt b 0xC 4)
    (hp : imgPlain s typ b = none) : checkImage s typ b true = .inl (mbxVerify, 0x0105, 0) := by
  rw [checkImage_signed hf hk, if_neg (Nat.not_lt.2 hv), hp]; rfl

theorem checkImage_plaintext (hf : imgFormatOk typ b = true) (hk : imgKeyOk s typ b = true) (hv : imgMin s typ ≤ leAt b 0xC 4)
    (hp : imgPlain s typ b = some body) : checkImage s typ b true = checkBody s typ b body := by
  rw [checkImage_signed hf hk, if_neg (Nat.not_lt.2 hv), hp]; rfl

theorem checkBody_bad_digest (h : Crypto.shake256 body ≠ slice b 0x54 32) :
    checkBody s typ b body = .inl (mbxVerify, 0x0106, 0) := if_pos h

theorem checkBody_bad_range (h : Crypto.shake256 body = slice b 0x54 32) (hr : imgRangeOk typ b (bodyTraps body (imgTraps b)) = false) :
    checkBody s typ b body = .inl (mbxInvalid, 0x0107, 0) := by
  simp only [checkBody]
  rw [if_neg (not_not.2 h), hr]; rfl

/-- An extension has words, no traps, and lies in its own part of the control store (R83). -/
theorem imgRangeOk_extension_eq_false {traps : List (Nat × Nat)}
    (h : imgWords b = 0 ∨ imgTraps b ≠ 0 ∨ imgLoad b < 0x4400 ∨ 0x5400 < imgLoad b + imgWords b) : imgRangeOk 2 b traps = false := by
  rw [Bool.eq_false_iff]
  intro hr
  simp only [imgRangeOk, Bool.and_eq_true, decide_eq_true_eq] at hr
  obtain ⟨⟨⟨⟨hwords, htraps⟩, hlo⟩, hhi⟩, -⟩ := hr
  norm_num at htraps hlo hhi
  omega

/-- Words are handed out only of a body that keeps every rule of R74 and, in an extension, touches no version's words. -/
theorem checkBody_eq_inr (h : checkBody s typ b body = .inr w) :
    (typ = 2 → imgInUse s b = false) ∧ w.1.all (fun y => wordOk (ofLe y)) = true := by
  simp only [checkBody] at h
  split at h
  · cases h
  split at h
  · cases h
  split at h
  · cases h
  next hfind =>
    split at h
    · cases h
    next huse =>
      cases h
      exact ⟨fun ht => by simpa [ht] using huse, by simpa [List.findIdx?_eq_none_iff] using hfind⟩

/-- An image that passes has passed the checks of its body. -/
theorem checkImage_eq_inr (h : checkImage s typ b sig = .inr w) : ∃ body, checkBody s typ b body = .inr w := by
  rw [checkImage_eq] at h
  split_ifs at h
  cases hp : imgPlain s typ b with
  | none => rw [hp] at h; cases h
  | some body => rw [hp] at h; exact ⟨body, h⟩

end Check

/-! ### The two load commands (R84, R85) -/

section Loads

variable {t : Nat} {s x : State} {r : Req} {sig : Bool} {slot : Option Nat} {status detail arg : Nat}
  {w : List Bytes × List (Nat × Nat)}

theorem patchLoadCmd_after_dispatch (hd : x.parse.dispatched = true) : patchLoadCmd sig x r = { st := x, status := mbxState } :=
  if_pos hd

theorem patchLoadCmd_failed (hd : x.parse.dispatched = false) (hc : checkImage x 1 r.body sig = .inl (status, detail, arg)) :
    patchLoadCmd sig x r = { st := x, status := status, detail := detail, arg := arg } := by
  simp [patchLoadCmd, hd, hc, failsDetail]

theorem patchLoadCmd_loaded (hd : x.parse.dispatched = false) (hc : checkImage x 1 r.body sig = .inr w) : patchLoadCmd sig x r =
    { st := { loadImage x 1 r.body w with parse.patchDone := true, boot.patchImage := r.body } } := by
  simp [patchLoadCmd, hd, hc, done]

theorem extLoadCmd_failed (hc : checkImage x 2 r.body sig = .inl (status, detail, arg)) :
    extLoadCmd sig x r = { st := x, status := status, detail := detail, arg := arg } := by
  unfold extLoadCmd
  rw [hc]
  rfl

theorem extLoadCmd_loaded (hc : checkImage x 2 r.body sig = .inr w) :
    extLoadCmd sig x r = { st := keepImage (loadImage x 2 r.body w) r.body } := by
  unfold extLoadCmd
  rw [hc]
  rfl

theorem answers_patch_after_dispatch (h : Takes t s r 0x0501 x slot) (hd : x.parse.dispatched = true) :
    Answers (.chcPatchLoad t r sig) s r slot { st := x, status := mbxState } :=
  answers_of_result rfl h (patchLoadCmd_after_dispatch hd)

theorem answers_patch_failed (h : Takes t s r 0x0501 x slot) (hd : x.parse.dispatched = false)
    (hc : checkImage x 1 r.body sig = .inl (status, detail, arg)) :
    Answers (.chcPatchLoad t r sig) s r slot { st := x, status := status, detail := detail, arg := arg } :=
  answers_of_result rfl h (patchLoadCmd_failed hd hc)

theorem answers_patch_loaded (h : Takes t s r 0x0501 x slot) (hd : x.parse.dispatched = false)
    (hc : checkImage x 1 r.body sig = .inr w) : Answers (.chcPatchLoad t r sig) s r slot
      { st := { loadImage x 1 r.body w with parse.patchDone := true, boot.patchImage := r.body } } :=
  answers_of_result rfl h (patchLoadCmd_loaded hd hc)

theorem answers_extension_failed (h : Takes t s r 0x0502 x slot) (hc : checkImage x 2 r.body sig = .inl (status, detail, arg)) :
    Answers (.chcExtLoad t r sig) s r slot { st := x, status := status, detail := detail, arg := arg } :=
  answers_of_result rfl h (extLoadCmd_failed hc)

theorem answers_extension_loaded (h : Takes t s r 0x0502 x slot) (hc : checkImage x 2 r.body sig = .inr w) :
    Answers (.chcExtLoad t r sig) s r slot { st := keepImage (loadImage x 2 r.body w) r.body } :=
  answers_of_result rfl h (extLoadCmd_loaded hc)

end Loads

/-- Settles O24: each load by the first check that its image fails, or by the words it hands out. -/
theorem imagesLoaded : Obligations.ImagesLoaded := by
  unfold Obligations.ImagesLoaded
  refine fun t s x r sig slot => ⟨fun hx => ⟨answers_patch_after_dispatch hx, fun hd => ?patch⟩, fun hx => ?extension⟩
  case patch =>
    refine ⟨fun hf => answers_patch_failed hx hd (checkImage_bad_format hf),
      fun hf hk => answers_patch_failed hx hd (checkImage_bad_key hf hk),
      fun hf hk => ⟨?signature, ?version, ?plaintext⟩, fun w hc => answers_patch_loaded hx hd hc⟩
    case signature => exact fun hs => answers_patch_failed hx hd (hs ▸ checkImage_bad_signature hf hk)
    case version => exact fun hs hv => answers_patch_failed hx hd (hs ▸ checkImage_old hf hk hv)
    case plaintext => exact fun hs hv hp => answers_patch_failed hx hd (hs ▸ checkImage_no_plaintext hf hk hv hp)
  case extension =>
    refine ⟨fun hf => answers_extension_failed hx (checkImage_bad_format hf),
      fun hf hk => answers_extension_failed hx (checkImage_bad_key hf hk),
      fun hf hk => ⟨?signature, ?version, fun hs hv => ?body⟩, fun w hc => ⟨answers_extension_loaded hx hc, ?words⟩⟩
    case signature => exact fun hs => answers_extension_failed hx (hs ▸ checkImage_bad_signature hf hk)
    case version => exact fun hs hv => answers_extension_failed hx (hs ▸ checkImage_old hf hk hv)
    case body =>
      have hbody : checkImage x 2 r.body sig = checkBody x 2 r.body (imgBody r.body) := hs ▸ checkImage_plaintext hf hk hv rfl
      exact ⟨fun hd => answers_extension_failed hx (hbody.trans (checkBody_bad_digest hd)),
        fun hd hr => answers_extension_failed hx (hbody.trans (checkBody_bad_range hd (imgRangeOk_extension_eq_false hr)))⟩
    case words =>
      obtain ⟨body, hbody⟩ := checkImage_eq_inr hc
      obtain ⟨huse, hwords⟩ := checkBody_eq_inr hbody
      exact ⟨huse rfl, hwords⟩

end Sys2Proof.Machine

/-! Proofs of the statement on the content digest of a forwarding table (R106, R119). -/

namespace Sys2Proof.Machine

/-! ### Exclusive or of byte strings -/

theorem xorBytes_length {a b : Bytes} {n : Nat} (ha : a.length = n) (hb : b.length = n) : (xorBytes a b).length = n := by
  simp [xorBytes, ha, hb]

theorem xorBytes_right_comm (d a b : Bytes) : xorBytes (xorBytes d a) b = xorBytes (xorBytes d b) a := by
  unfold xorBytes
  induction d generalizing a b with
  | nil => rfl
  | cons x d ih =>
    match a, b with
    | [], [] | [], _ :: _ | _ :: _, [] => rfl
    | a :: as, b :: bs =>
      have hbyte : x ^^^ a ^^^ b = x ^^^ b ^^^ a := by rw [BitVec.xor_assoc, BitVec.xor_comm a b, ← BitVec.xor_assoc]
      simp [hbyte, ih]

/-- What is exclusive-ored twice is out again. -/
theorem xorBytes_xorBytes_cancel {d a : Bytes} (h : d.length ≤ a.length) : xorBytes (xorBytes d a) a = d := by
  unfold xorBytes
  induction d generalizing a with
  | nil => rfl
  | cons x d ih =>
    cases a with
    | nil => simp at h
    | cons y a => simp [ih (Nat.le_of_succ_le_succ h)]

theorem xorBytes_zeros {d : Bytes} {n : Nat} (h : d.length = n) : xorBytes d (List.replicate n 0) = d := by
  subst h
  unfold xorBytes
  induction d with
  | nil => rfl
  | cons x d ih => simpa [List.replicate_succ] using ih

/-! ### The rows of a sparse table, in any order -/

section Rows

variable {α : Type} {l : Tab α} {k : Nat} {v : α}

theorem tdel_of_forall_ne (h : ∀ p ∈ l, p.1 ≠ k) : tdel l k = l := List.filter_eq_self.2 fun p hp => by simpa using h p hp

theorem tget?_eq_none_iff : tget? l k = none ↔ ∀ p ∈ l, p.1 ≠ k := by
  simp [tget?, List.find?_eq_none]

theorem tdel_of_tget?_none (h : tget? l k = none) : tdel l k = l := tdel_of_forall_ne (tget?_eq_none_iff.1 h)

/-- A row written stands beside the rows of the other keys. -/
theorem tset_perm (v : α) (hl : twf l = true) : (tset l k v).Perm ((k, v) :: tdel l k) := by
  rw [twf_iff] at hl
  induction l with
  | nil => exact .refl _
  | cons p l ih =>
    obtain ⟨hp, hl⟩ := List.pairwise_cons.1 hl
    rw [tset]
    split
    · next hlt =>
      rw [tdel, List.filter_cons_of_pos (by simpa using hlt.ne)]
      exact ((ih hl).cons p).trans (.swap ..)
    · split
      · next heq =>
        rw [tdel, List.filter_cons_of_neg (by simpa using heq), ← tdel, tdel_of_forall_ne fun q hq => heq ▸ (hp q hq).ne']
      · next hge hne =>
        rw [tdel_of_forall_ne (List.forall_mem_cons.2 ⟨hne, fun q hq => by have := hp q hq; omega⟩)]

/-- A row held stands beside the rows of the other keys. -/
theorem perm_of_tget?_some (hl : twf l = true) (h : tget? l k = some v) : l.Perm ((k, v) :: tdel l k) := by
  rw [twf_iff] at hl
  induction l with
  | nil => cases h
  | cons p l ih =>
    obtain ⟨hp, hl⟩ := List.pairwise_cons.1 hl
    rw [tget?_cons] at h
    split at h
    · next heq =>
      cases h
      rw [tdel, List.filter_cons_of_neg (by simpa using heq), ← tdel, tdel_of_forall_ne fun q hq => heq ▸ (hp q hq).ne', ← heq]
    · next hne =>
      rw [tdel, List.filter_cons_of_pos (by simpa using hne)]
      exact ((ih hl h).cons p).trans (.swap ..)

end Rows

/-! ### The digest of a list of rows (R119) -/

/-- The digest that the entries of some rows have in a state. -/
def digestOf (s : State) (t : Nat) (l : Tab TEntry) : Bytes :=
  l.foldl (fun d p => xorBytes d (entryHash s t p.2)) (List.replicate 32 0)

theorem tableDigest_eq (s : State) (t : Nat) : tableDigest s t = digestOf s t (s.tbl t).slots := rfl

theorem entryHash_length (s : State) (t : Nat) (e : TEntry) : (entryHash s t e).length = 32 := Crypto.shake256_length _

section Digest

variable {s : State} {t pos : Nat} {l l' : Tab TEntry} {e o : TEntry}

theorem digestOf_perm (h : l.Perm l') : digestOf s t l = digestOf s t l' :=
  h.foldl_eq' (fun _ _ _ _ d => xorBytes_right_comm d _ _) _

theorem digestOf_cons (p : Nat × TEntry) (l : Tab TEntry) : digestOf s t (p :: l) = xorBytes (digestOf s t l) (entryHash s t p.2) := by
  rw [digestOf_perm (List.perm_append_singleton p l).symm, digestOf, List.foldl_append]; rfl

theorem digestOf_length (l : Tab TEntry) : (digestOf s t l).length = 32 := by
  induction l with
  | nil => rfl
  | cons p l ih => rw [digestOf_cons]; exact xorBytes_length ih (entryHash_length ..)

theorem digestOf_tset (hl : twf l = true) (e : TEntry) :
    digestOf s t (tset l pos e) = xorBytes (digestOf s t (tdel l pos)) (entryHash s t e) := by
  rw [digestOf_perm (tset_perm e hl), digestOf_cons]

/-- An entry taken out of the digest leaves that of the others. -/
theorem digestOf_tdel_of_some (hl : twf l = true) (h : tget? l pos = some o) :
    digestOf s t (tdel l pos) = xorBytes (digestOf s t l) (entryHash s t o) := by
  rw [digestOf_perm (perm_of_tget?_some hl h), digestOf_cons, xorBytes_xorBytes_cancel (by rw [digestOf_length, entryHash_length])]

/-! ### An entry written and an entry deleted (R106, R119) -/

/-- The digest depends on the rows and on the key length, which a change of a table leaves. -/
theorem digestOf_onTbl (f : Table → Table) (l : Tab TEntry) : digestOf (s.onTbl t f) t l = digestOf s t l := rfl

theorem tableDigest_onTbl (f : Table → Table) : tableDigest (s.onTbl t f) t = digestOf s t (f (s.tbl t)).slots := by
  rw [tableDigest_eq, digestOf_onTbl, tbl_onTbl, if_pos rfl]

/-- What a position adds to the digest: nothing where it is free. -/
def slotHash (s : State) (t pos : Nat) : Bytes := ((tget? (s.tbl t).slots pos).map (entryHash s t)).getD (List.replicate 32 0)

theorem putEntry_eq (s : State) (t pos : Nat) (e : TEntry) : putEntry s t pos e = s.onTbl t (fun tb => { tb with
    slots := tset tb.slots pos e
    digest := xorBytes (xorBytes (s.tbl t).digest (slotHash s t pos)) (entryHash s t e) }) := by
  unfold putEntry slotHash
  cases tget? (s.tbl t).slots pos <;> rfl

theorem digestOf_tdel (hl : twf (s.tbl t).slots = true) :
    digestOf s t (tdel (s.tbl t).slots pos) = xorBytes (tableDigest s t) (slotHash s t pos) := by
  unfold slotHash
  cases h : tget? (s.tbl t).slots pos with
  | none => rw [tdel_of_tget?_none h]; exact (xorBytes_zeros (digestOf_length _)).symm
  | some o => exact digestOf_tdel_of_some hl h

theorem slots_putEntry : ((putEntry s t pos e).tbl t).slots = tset (s.tbl t).slots pos e := by simp [putEntry_eq]

theorem digest_putEntry (hl : twf (s.tbl t).slots = true) (hd : (s.tbl t).digest = tableDigest s t) :
    ((putEntry s t pos e).tbl t).digest = tableDigest (putEntry s t pos e) t := by
  rw [putEntry_eq, tableDigest_onTbl, digestOf_tset hl, digestOf_tdel hl, ← hd, tbl_onTbl, if_pos rfl]

/-- Deleting an entry takes it out of the slots and of the digest; a free position has neither. -/
theorem tbl_delEntry (hd : (s.tbl t).digest = tableDigest s t) : (delEntry s t pos).tbl t = { s.tbl t with
    slots := tdel (s.tbl t).slots pos
    digest := xorBytes (s.tbl t).digest (slotHash s t pos) } := by
  unfold delEntry slotHash
  cases h : tget? (s.tbl t).slots pos with
  | none =>
    have hz : xorBytes (s.tbl t).digest (List.replicate 32 0) = (s.tbl t).digest := xorBytes_zeros (hd ▸ digestOf_length _)
    dsimp only [Option.map_none, Option.getD_none]
    rw [tdel_of_tget?_none h, hz]
  | some o => exact (tbl_onTbl ..).trans (if_pos rfl)

theorem tblKeyLen_delEntry : tblKeyLen (delEntry s t pos) t = tblKeyLen s t := by
  unfold delEntry; split <;> rfl

theorem entryHash_delEntry : entryHash (delEntry s t pos) t e = entryHash s t e := by
  unfold entryHash; rw [tblKeyLen_delEntry]

theorem digest_delEntry (hl : twf (s.tbl t).slots = true) (hd : (s.tbl t).digest = tableDigest s t) :
    ((delEntry s t pos).tbl t).digest = tableDigest (delEntry s t pos) t := by
  have hsame : digestOf (delEntry s t pos) t = digestOf s t := by
    funext l; simp only [digestOf, entryHash_delEntry]
  rw [tableDigest_eq, tbl_delEntry hd, hsame, digestOf_tdel hl, ← hd]

end Digest

/-- Settles O25: the digest of rows is one of their order, so a row written or deleted counts beside the others. -/
theorem tableDigestFollows : Obligations.TableDigestFollows := by
  unfold Obligations.TableDigestFollows
  refine ⟨rfl, fun s t pos e hl hd => ⟨⟨digest_putEntry hl hd, ?_, ?_, fun p hp => ?_⟩, digest_delEntry hl hd, ?_, ?_, fun p hp => ?_⟩⟩
  · rw [slots_putEntry]; exact twf_tset pos e hl
  · rw [slots_putEntry, tget?_tset, if_pos rfl]
  · rw [slots_putEntry, tget?_tset, if_neg hp]
  · rw [tbl_delEntry hd]; exact twf_tdel pos hl
  · rw [tbl_delEntry hd]; exact (tget?_tdel ..).trans (if_pos rfl)
  · rw [tbl_delEntry hd]; exact (tget?_tdel ..).trans (if_neg hp)

end Sys2Proof.Machine

/-! Proofs of the statement on the insert into a forwarding table and the learning of a held key (R107 to R109, R113, R114). -/

namespace Sys2Proof.Machine

/-! ### Slots, victims and ages (R107, R109) -/

section Slots

variable {s : State} {t level b p tick : Nat} {key : Bytes} {l : List (Nat × TEntry)} {x y : Nat × TEntry}

/-- The free slot of a bucket is the lowest. -/
theorem freeSlot_eq_some (h : freeSlot s t level b = some p) : tget? (s.tbl t).slots p = none
    ∧ ∃ i < 4, p = tPos level b i ∧ ∀ j < i, (tget? (s.tbl t).slots (tPos level b j)).isSome = true := by
  unfold freeSlot at h
  split at h
  · cases h
  · rw [List.find?_map, Option.map_eq_some_iff] at h
    obtain ⟨i, hi, rfl⟩ := h
    obtain ⟨hfree, hmem, hbelow⟩ := (List.find?_range_eq_some (n := 4)).1 hi
    exact ⟨by simpa using hfree, i, by simpa using hmem, rfl, fun j hj => by simpa [Option.isSome_iff_ne_none] using hbelow j hj⟩

theorem oldest_eq_none (h : oldest tick l = none) : l = [] := by
  cases l with
  | nil => rfl
  | cons x l =>
    rw [oldest] at h
    split at h
    · cases h
    · split at h <;> cases h

/-- The oldest entry is one of the list, and none is older. -/
theorem oldest_eq_some (h : oldest tick l = some y) : y ∈ l ∧ ∀ x ∈ l, ageOf tick x.2.age ≤ ageOf tick y.2.age := by
  induction l generalizing y with
  | nil => cases h
  | cons x l ih =>
    rw [oldest] at h
    split at h
    · next hnone =>
      cases h
      simp [oldest_eq_none hnone]
    · next z hz =>
      obtain ⟨hmem, hmax⟩ := ih hz
      split at h
      · next hle =>
        cases h
        exact ⟨List.mem_cons_self, List.forall_mem_cons.2 ⟨le_rfl, fun q hq => (hmax q hq).trans hle⟩⟩
      · next hlt =>
        cases h
        exact ⟨List.mem_cons_of_mem _ hmem, List.forall_mem_cons.2 ⟨(Nat.not_le.1 hlt).le, hmax⟩⟩

/-- A static entry is never a victim. -/
theorem not_static_of_mem_victimSlots (h : x ∈ victimSlots s t level key) : x.2.has fStatic = false := by
  obtain ⟨q, -, hq⟩ := List.mem_filterMap.1 h
  split at hq
  · split at hq
    · cases hq
    · next hstatic => cases hq; exact Bool.eq_false_iff.2 hstatic
  · cases hq

end Slots

/-! ### The insert (R107 to R109) -/

section Insert

variable {s : State} {t p : Nat} {e old : TEntry} {evict : Bool}

/-- The table once a walk of no step has found no room at level 0: the toggle has turned. -/
def noRoom (s : State) (t : Nat) : State :=
  s.onTbl t (fun x => { x with toggle := tset x.toggle 0 (1 - tget (s.tbl t).toggle 0 0), ptr := tset x.ptr 0 (tget (s.tbl t).ptr 0 0) })

theorem insert_of_held (h : findKey s t e.key = some (p, old)) : insert s t e evict = (putEntry s t p e, .updated) := by
  simp only [insert, h]

theorem insertLevel_of_free {level : Nat}
    (h : (freeSlot s t level (candidates s t level e.key).1).or (freeSlot s t level (candidates s t level e.key).2) = some p) :
    insertLevel s t level e = (putEntry s t p e, true) := by
  simp only [insertLevel, h]

theorem insert_of_free (h : findKey s t e.key = none)
    (hp : (freeSlot s t 0 (candidates s t 0 e.key).1).or (freeSlot s t 0 (candidates s t 0 e.key).2) = some p) :
    insert s t e evict = (countStat (putEntry s t p e) (tStat t 3) 1, .inserted) := by
  simp only [insert, h, insertLevel_of_free hp, if_true]

theorem insertLevel_of_full (h1 : freeSlot s t 0 (candidates s t 0 e.key).1 = none)
    (h2 : freeSlot s t 0 (candidates s t 0 e.key).2 = none) (hd : tblDepth s t = 0) :
    insertLevel s t 0 e = (noRoom s t, false) := by
  simp only [insertLevel, h1, h2, hd, Option.or_none, walkLoop]
  rfl

/-- How an insert with no room ends once a victim is sought: it takes the victim's slot. -/
def insertOver (s : State) (t : Nat) (e : TEntry) : Option (Nat × TEntry) → State × InsRes
  | none => (countErr s (tErr t 0), .nospace)
  | some (pos, old) =>
    (countStat (countStat (putEntry (post s t 6 old.port 0xFF old.tf old.age old.key) t pos e) (tStat t 3) 1) (tStat t 5) 1, .evicted old)

/-- With no room at its one level, an insert ends without a change of the slots, or seeks a victim where it may evict. -/
theorem insert_of_full (h : findKey s t e.key = none) (hl : insertLevel s t 0 e = (noRoom s t, false)) (hb : tblBuckets s t 1 = 0) :
    insert s t e evict = if !evict then (countErr (noRoom s t) (tErr t 0), .nospace)
      else insertOver (victim (noRoom s t) t 0 e.key).1 t e (victim (noRoom s t) t 0 e.key).2 := by
  simp only [insert, h, hl, hb, ne_eq, not_true, false_and, if_false, Bool.false_eq_true]
  split
  · rfl
  · cases (victim (noRoom s t) t 0 e.key).2 <;> rfl

theorem victim_of_oldest (h : tblOldest s t = true) (key : Bytes) :
    victim s t 0 key = (s, oldest (s.tbl t).tick (victimSlots s t 0 key)) := if_pos h

theorem insert_of_full_evicting (h : findKey s t e.key = none) (hl : insertLevel s t 0 e = (noRoom s t, false))
    (hb : tblBuckets s t 1 = 0) (ho : tblOldest s t = true) : insert s t e true =
      insertOver (noRoom s t) t e (oldest ((noRoom s t).tbl t).tick (victimSlots (noRoom s t) t 0 e.key)) := by
  have hv := victim_of_oldest (s := noRoom s t) ho e.key
  rw [insert_of_full h hl hb, hv]
  rfl

end Insert

/-! ### Learning a key that is held (R113, R114) -/

section Learning

variable {s : State} {t pos c : Nat} {e : TEntry} {r : LearnReq} {h : Hold} {first : Int}

theorem learnHeld_own_port (hp : e.port = r.lp) : learnHeld s t pos e r = (refreshEntry s t pos e).onTbl t (fun tb =>
    { tb with hold := tb.hold.map (fun x => if x.key = r.key then { x with cand := none } else x) }) := if_pos hp

theorem learnHeld_static (hp : e.port ≠ r.lp) (hs : e.has fStatic = true) : learnHeld s t pos e r = countErr s (tErr t 2) := by
  simp only [learnHeld, hp, hs, if_false, if_true]

theorem learnHeld_no_hold_down (hp : e.port ≠ r.lp) (hs : e.has fStatic = false) (hd : tblHoldDown s t = 0) :
    learnHeld s t pos e r = learnMove s t pos e r := by
  simp [learnHeld, hp, hs, hd]

theorem learnHeld_no_record (hp : e.port ≠ r.lp) (hs : e.has fStatic = false) (hh : holdOf s t r.key = none) :
    learnHeld s t pos e r = learnMove s t pos e r := by
  simp [learnHeld, hp, hs, hh]

theorem learnHeld_no_candidate (hp : e.port ≠ r.lp) (hs : e.has fStatic = false) (hd : tblHoldDown s t ≠ 0)
    (hh : holdOf s t r.key = some h) (hc : h.cand = none) : learnHeld s t pos e r =
      if (tblHoldDown s t : Int) ≤ r.tIn - h.learnt then learnMove s t pos e r else contend s t h e r true := by
  simp [learnHeld, hp, hs, hd, hh, hc]

theorem learnHeld_candidate (hp : e.port ≠ r.lp) (hs : e.has fStatic = false) (hd : tblHoldDown s t ≠ 0)
    (hh : holdOf s t r.key = some h) (hc : h.cand = some (c, first)) : learnHeld s t pos e r =
      if c ≠ r.lp then contend s t h e r true
      else if (tblHoldDown s t : Int) ≤ r.tIn - first then learnMove s t pos e r else countErr s (tErr t 2) := by
  simp [learnHeld, hp, hs, hd, hh, hc, contend]

/-- Without a hold-down a move leaves the hold table alone (R114). -/
theorem learnMove_no_hold_down (htf : e.tf = r.tf) (hd : tblHoldDown s t = 0) : learnMove s t pos e r =
    countStat (post (putEntry s t pos { e with port := r.lp, result := e.result / 8192 * 8192 + tblLearnQset s t r.lp })
      t 3 r.lp e.port r.tf e.age r.key) (tStat t 7) 1 := by
  have hd' (e' : TEntry) : tblHoldDown (putEntry s t pos e') t = 0 := hd
  simp [learnMove, setHold, ← htf, hd']

end Learning

/-- Settles O26: an insert by where it finds room, and a held key learned by its port and its hold record. -/
theorem entriesInserted : Obligations.EntriesInserted := by
  unfold Obligations.EntriesInserted
  refine ⟨fun s t e evict => ⟨fun pos old hk => insert_of_held hk, fun hk => ⟨fun p h1 => ?first, fun p h1 h2 => ?second, ?full⟩,
      fun _ _ _ => freeSlot_eq_some, fun _ _ _ _ => oldest_eq_some, fun _ => not_static_of_mem_victimSlots⟩,
    fun s t pos e r => ⟨learnHeld_own_port, learnHeld_static, fun hp hs => ⟨?moves, ?contends, ?candidate⟩, ?moved⟩⟩
  case first => exact insert_of_free hk (by rw [h1]; rfl)
  case second => exact insert_of_free hk (by rw [h1, h2]; rfl)
  case full =>
    intro h1 h2 hd hb
    have hl := insertLevel_of_full h1 h2 hd
    refine ⟨fun he => he ▸ insert_of_full hk hl hb, fun he ho => ?_⟩
    have hins : insert s t e evict = _ := he ▸ insert_of_full_evicting hk hl hb ho
    exact ⟨fun pos old hv => hins.trans (congrArg (insertOver _ t e) hv), fun hv => hins.trans (congrArg (insertOver _ t e) hv)⟩
  case moves =>
    exact fun h => h.elim (fun hd => learnHeld_no_hold_down hp hs (Int.natCast_eq_zero.1 hd)) (learnHeld_no_record hp hs)
  case contends =>
    intro h hd hh hc
    have hheld := learnHeld_no_candidate (pos := pos) hp hs (Int.natCast_ne_zero.1 hd) hh hc
    exact ⟨fun hlate => hheld.trans (if_pos hlate), fun hearly => hheld.trans (if_neg (Int.not_le.2 hearly))⟩
  case candidate =>
    intro h c first hd hh hc
    have hheld := learnHeld_candidate (pos := pos) hp hs (Int.natCast_ne_zero.1 hd) hh hc
    refine ⟨fun hne => hheld.trans (if_pos hne), fun heq hlate => ?_, fun heq hearly => ?_⟩
    · exact hheld.trans ((if_neg (not_not.2 heq)).trans (if_pos hlate))
    · exact hheld.trans ((if_neg (not_not.2 heq)).trans (if_neg (Int.not_le.2 hearly)))
  case moved => exact fun htf hd => learnMove_no_hold_down htf (Int.natCast_eq_zero.1 hd)

end Sys2Proof.Machine

/-! Proofs of the statement on the rows and the commands of the forwarding tables (R20, R106, R115, R116, R120 to R122, R274, R461, R462). -/

namespace Sys2Proof.Machine

/-! ### The serialiser (R106) -/

section Serialiser

variable {s : State} {n pos : Nat} {q : LearnReq} {rest : List LearnReq} {k : Bytes} {ks : List Bytes} {e : TEntry}

/-- The table with its oldest learn request taken, expired hold records freed. -/
def learnTaken (s : State) (n : Nat) (q : LearnReq) (rest : List LearnReq) : State :=
  purgeHold (s.onTbl n (fun b => { b with learnQ := rest })) n q.tIn

/-- The table with its oldest refresh request taken. -/
def refreshTaken (s : State) (n : Nat) (ks : List Bytes) : State := s.onTbl n (fun b => { b with refreshQ := ks })

/-- The table with its oldest request of the ager taken. -/
def agerTaken (s : State) (n : Nat) (ks : List Bytes) : State := s.onTbl n (fun b => { b with agerQ := ks })

theorem takeLearn_of_nil (h : (s.tbl n).learnQ = []) : takeLearn s n = s := by simp only [takeLearn, h]

theorem takeLearn_local (h : (s.tbl n).learnQ = q :: rest) (hm : tblMode s n = 2) : takeLearn s n =
    (findKey (learnTaken s n q rest) n q.key).elim (learnNew (learnTaken s n q rest) n q)
      (fun p => learnHeld (learnTaken s n q rest) n p.1 p.2 q) := by
  have hmode : tblMode (learnTaken s n q rest) n = 2 := hm
  simp only [takeLearn, h]
  rw [← learnTaken, hmode, if_neg (by decide)]
  cases findKey (learnTaken s n q rest) n q.key <;> rfl

theorem refreshRow_of_learn (h : (s.tbl n).learnQ ≠ []) : refreshRow s n = s := if_neg (by simpa using h)

theorem agerRow_of_learn (h : (s.tbl n).learnQ ≠ []) : agerRow s n = s := if_neg (by simp [h])

theorem dumpRow_of_learn (h : (s.tbl n).learnQ ≠ []) : dumpRow s n = s := if_neg (by simp [h])

theorem agerRow_of_refresh (h : (s.tbl n).refreshQ = k :: ks) : agerRow s n = s := if_neg (by simp [h])

theorem refreshRow_of_idle (hl : (s.tbl n).learnQ = []) (h : (s.tbl n).refreshQ = k :: ks) : refreshRow s n =
    (findKey (refreshTaken s n ks) n k).elim (refreshTaken s n ks) (fun p => refreshEntry (refreshTaken s n ks) n p.1 p.2) := by
  rw [refreshRow, if_pos (by simp [hl])]
  simp only [takeRefresh, h]
  rw [← refreshTaken]
  cases findKey (refreshTaken s n ks) n k <;> rfl

theorem agerRow_of_idle (hl : (s.tbl n).learnQ = []) (hr : (s.tbl n).refreshQ = []) : agerRow s n = takeAger s n :=
  if_pos (by simp [hl, hr])

theorem takeAger_not_held (h : (s.tbl n).agerQ = k :: ks) (hf : findKey (agerTaken s n ks) n k = none) :
    takeAger s n = agerTaken s n ks := by
  simp only [takeAger, h]
  rw [← agerTaken, hf]

/-- An aged entry of a table in LOCAL mode is deleted, which is posted and counted (R116). -/
theorem takeAger_aged (h : (s.tbl n).agerQ = k :: ks) (hf : findKey (agerTaken s n ks) n k = some (pos, e))
    (hs : e.has fStatic = false) (h0 : tblAgeMax (agerTaken s n ks) n ≠ 0)
    (ha : tblAgeMax (agerTaken s n ks) n ≤ ageOf ((agerTaken s n ks).tbl n).tick e.age) (hm : tblMode (agerTaken s n ks) n = 2) :
    takeAger s n = countStat (post (delEntry (agerTaken s n ks) n pos) n 5 e.port 0xFF e.tf e.age e.key) (tStat n 6) 1 := by
  have hw : agerWants (agerTaken s n ks) n e = true := by simp [agerWants, hs, h0, ha, hm]
  simp only [takeAger, h]
  rw [← agerTaken, hf]
  simp [hw, h0, ha, hm]

theorem dumpRow_of_full {d : Nat × Nat} (hl : (s.tbl n).learnQ = []) (hr : (s.tbl n).refreshQ = []) (ha : (s.tbl n).agerQ = [])
    (hd : (s.tbl n).dump = some d) (hfull : 512 < (s.tbl n).notif.length) : dumpRow s n = s := by
  rw [dumpRow, if_pos (by simp [hl, hr, ha])]
  simp only [dumpStep, hd]
  exact if_pos hfull

end Serialiser

/-! ### The tick, the delivery of records, flush and repair (R115, R120 to R122) -/

section Clockwork

variable {s : State} {n : Nat} {r : Notif} {rest : List Notif} {f : Flush}

theorem ageRow_of_due (hm : tblMode s n ≠ 0) (h : (s.tbl n).tickAt + tblTickNs s n ≤ s.clk.up) : ageRow s n = ageTick s n :=
  if_pos ⟨hm, h⟩

theorem ageRow_of_not_due (h : tblMode s n = 0 ∨ s.clk.up < (s.tbl n).tickAt + tblTickNs s n) : ageRow s n = s :=
  if_neg fun hc => h.elim hc.1 (Nat.not_lt.2 hc.2)

theorem tick_ageTick (s : State) (n : Nat) : ((ageTick s n).tbl n).tick = ((s.tbl n).tick + 1) % 65536 := by simp [ageTick]

theorem slots_ageTick (s : State) (n : Nat) : ((ageTick s n).tbl n).slots = (s.tbl n).slots := by simp [ageTick]

/-- The table with its oldest record taken from its FIFO. -/
def notifTaken (s : State) (n : Nat) (rest : List Notif) : State := s.onTbl n (fun b => { b with notif := rest })

theorem notifyDeliver_of_nil (h : (s.tbl n).notif = []) : notifyDeliver s n = s := by simp only [notifyDeliver, h]

theorem notifyDeliver_clerk (h : (s.tbl n).notif = r :: rest) (ht : tblTarget s n = 0xFFFF) : notifyDeliver s n =
    if clerkTurn s = some n then raise { notifTaken s n rest with mbx.tblTurn := (n + 1) % 16 } 0x0601 n (r.bytes n) else s := by
  simp only [notifyDeliver, h, ht, if_true]
  rfl

theorem notifyDeliver_no_reader (h : (s.tbl n).notif = r :: rest) (ht : tblTarget s n ≠ 0xFFFF)
    (hr : readerOf s (tblTarget s n) = none) : notifyDeliver s n = chanDrop (notifTaken s n rest) (tblTarget s n) := by
  simp only [notifyDeliver, h, ht, hr, if_false, Option.isNone_none, if_true]
  rfl

theorem flushDone_of_flush (h : (s.tbl n).flush = some f) : flushDone s n =
    raise ((flushEntries s n f).onTbl n (fun b => { b with flush := none })) 0x0603 n [] := by simp only [flushDone, h]

theorem bucketClear_of_lost (h : (s.tbl n).lost ≠ []) : bucketClear s n = s.onTbl n (fun b => { b with
    slots := b.slots.filter (fun p => !b.lost.contains (posLevel p.1, posBucket p.1)), lost := [], recompute := true }) :=
  if_neg (by simpa using h)

theorem tableRecompute_of_owed (h : (s.tbl n).recompute = true) : tableRecompute s n =
    s.onTbl n (fun b => { b with digest := tableDigest s n, recompute := false }) := if_pos h

theorem tableRecompute_of_none (h : (s.tbl n).recompute = false) : tableRecompute s n = s := if_neg (by simp [h])

end Clockwork

/-! ### The rows at their instant -/

section TableRows

variable {t : Nat} {s x y : State} {tbl : Fin 16}

theorem ends_learn (hx : x = s.advance t) (h : takeLearn x tbl.val = y) : Ends (.learn t tbl) s y :=
  ends_of_act (takeLearn · tbl.val) rfl hx h

theorem ends_refresh (hx : x = s.advance t) (h : refreshRow x tbl.val = y) : Ends (.refresh t tbl) s y :=
  ends_of_act (refreshRow · tbl.val) rfl hx h

theorem ends_agerRequest (hx : x = s.advance t) (h : agerRow x tbl.val = y) : Ends (.agerRequest t tbl) s y :=
  ends_of_act (agerRow · tbl.val) rfl hx h

theorem ends_dumpStep (hx : x = s.advance t) (h : dumpRow x tbl.val = y) : Ends (.dumpStep t tbl) s y :=
  ends_of_act (dumpRow · tbl.val) rfl hx h

theorem ends_ageTick (hx : x = s.advance t) (h : ageRow x tbl.val = y) : Ends (.ageTick t tbl) s y :=
  ends_of_act (ageRow · tbl.val) rfl hx h

theorem ends_notifyDeliver (hx : x = s.advance t) (h : notifyDeliver x tbl.val = y) : Ends (.notifyDeliver t tbl) s y :=
  ends_of_act (notifyDeliver · tbl.val) rfl hx h

theorem ends_flushDone (hx : x = s.advance t) (h : flushDone x tbl.val = y) : Ends (.flushDone t tbl) s y :=
  ends_of_act (flushDone · tbl.val) rfl hx h

theorem ends_bucketClear (hx : x = s.advance t) (h : bucketClear x tbl.val = y) : Ends (.bucketClear t tbl) s y :=
  ends_of_act (bucketClear · tbl.val) rfl hx h

theorem ends_tableRecompute (hx : x = s.advance t) (h : tableRecompute x tbl.val = y) : Ends (.tableRecompute t tbl) s y :=
  ends_of_act (tableRecompute · tbl.val) rfl hx h

end TableRows

/-! ### Ports, keys and entries that a table command names (R20, R122, R461) -/

theorem portNamed_iff {s : State} {port : Nat} :
    portNamed s port = true ↔ port = 0xFF ∨ port ≤ 15 ∧ s.lpPresent port = true := by
  simp [portNamed, Nat.lt_succ_iff]

section Operations

variable {s : State} {t o pos : Nat} {b : Bytes} {e : TEntry}

/-- The entry that an insert describes (R461). -/
def namedEntry (s : State) (t : Nat) (b : Bytes) (o : Nat) : TEntry :=
  { key := keyAt b o (tblKeyLen s t), result := leAt b (o + 56) 8, age := (s.tbl t).tick, port := leAt b (o + 64) 8
    flags := (if (leAt b (o + 80) 8).testBit 0 then fStatic else 0) + (if (leAt b (o + 80) 8).testBit 1 then fOnchip else 0)
    tf := leAt b (o + 72) 8 }

/-- The parameters of an insert are in range. -/
def insertArgsOk (s : State) (t : Nat) (b : Bytes) (o : Nat) : Prop :=
  keyFault s t b o = 0 ∧ portNamed s (leAt b (o + 64) 8) = true ∧ leAt b (o + 72) 8 < 4096 ∧ leAt b (o + 80) 8 < 8

theorem insertOp_of_bad_port (h : portNamed s (leAt b (o + 64) 8) = false) : insertOp s t b o = (s, mbxInvalid, 0, []) :=
  if_pos (.inr (.inl (by simp [h])))

/-- How an insert's outcome is told. -/
def insertTold : State × InsRes → State × Nat × Nat × Bytes
  | (y, .inserted) => (y, mbxOk, 0, [])
  | (y, .updated) => (y, mbxOk, 1, [])
  | (y, .evicted v) => (y, mbxOk, 2, v.key)
  | (y, .nospace) => (y, mbxNospace, 0, [])

/-- An insert of a key not yet held is done within the quota alone (R112). -/
theorem insertOp_of_new (h : insertArgsOk s t b o) (hf : findKey s t (keyAt b o (tblKeyLen s t)) = none) : insertOp s t b o =
    if quotaOk s t (leAt b (o + 72) 8) = true then insertTold (insert s t (namedEntry s t b o) ((leAt b (o + 80) 8).testBit 2))
    else (s, mbxNospace, 0, []) := by
  obtain ⟨hkey, hport, htf, hfl⟩ := h
  rw [insertOp, if_neg (by simp [hkey, hport, htf, hfl])]
  dsimp only
  rw [hf]
  cases quotaOk s t (leAt b (o + 72) 8)
  · rfl
  · simp only [Bool.not_true, Bool.and_false, Bool.false_eq_true, if_false, if_true]
    rw [← namedEntry]
    rcases insert s t (namedEntry s t b o) ((leAt b (o + 80) 8).testBit 2) with ⟨y, _ | _ | v | _⟩ <;> rfl

theorem deleteOp_of_held (h : keyFault s t b o = 0) (hf : findKey s t (keyAt b o (tblKeyLen s t)) = some (pos, e)) :
    deleteOp s t b o = (delEntry s t pos, mbxOk, 1) := by
  rw [deleteOp, if_neg (not_not.2 h), hf]

theorem deleteOp_of_not_held (h : keyFault s t b o = 0) (hf : findKey s t (keyAt b o (tblKeyLen s t)) = none) :
    deleteOp s t b o = (s, mbxOk, 0) := by
  rw [deleteOp, if_neg (not_not.2 h), hf]

end Operations

/-! ### The table commands (R122, R461, R462) -/

section TableCommands

variable {x : State} {r : Req} {pos : Nat} {e : TEntry}

theorem tblInsertCmd_bad_key (hb : r.body.length = 96) (h : keyFault x (num r 0) r.body 8 ≠ 0) :
    tblInsertCmd x r = { st := x, status := mbxInvalid, arg := keyFault x (num r 0) r.body 8 } := by
  simp [tblInsertCmd, bodyIs, hb, h, failsAt]

/-- An insert with a good key answers what the operation tells. -/
theorem tblInsertCmd_of_key {y : State} {status outcome : Nat} {k : Bytes} (hb : r.body.length = 96)
    (h : keyFault x (num r 0) r.body 8 = 0) (ho : insertOp x (num r 0) r.body 8 = (y, status, outcome, k)) : tblInsertCmd x r =
      if status ≠ 0 then { st := y, status := status } else { st := y, out := encN outcome ++ evictedKey outcome k } := by
  simp only [tblInsertCmd, bodyIs, hb, h, ho, beq_self_eq_true, Bool.not_true, Bool.false_eq_true, if_false, ne_eq, not_true]
  rfl

theorem tblDeleteCmd_of_key (hb : r.body.length = 64) (h : keyFault x (num r 0) r.body 8 = 0) : tblDeleteCmd x r =
    { st := (deleteOp x (num r 0) r.body 8).1, out := encN (deleteOp x (num r 0) r.body 8).2.2 } := by
  simp [tblDeleteCmd, bodyIs, hb, h, gives]

theorem tblReadCmd_of_held (hb : r.body.length = 64) (h : keyFault x (num r 0) r.body 8 = 0)
    (hf : findKey x (num r 0) (keyAt r.body 8 (tblKeyLen x (num r 0))) = some (pos, e)) : tblReadCmd x r =
      { st := x, out := encN 1 ++ e.bytes (tblWidth x (num r 0)) ++ encN (posLevel pos) ++ encN (posBucket pos) ++ encN (posSlot pos) } := by
  simp [tblReadCmd, bodyIs, hb, h, hf, gives]

theorem tblReadCmd_of_not_held (hb : r.body.length = 64) (h : keyFault x (num r 0) r.body 8 = 0)
    (hf : findKey x (num r 0) (keyAt r.body 8 (tblKeyLen x (num r 0))) = none) : tblReadCmd x r =
      { st := x, out := encN 0 ++ List.replicate (tblWidth x (num r 0) + 16) 0 ++ encN 0 ++ encN 0 ++ encN 0 } := by
  simp [tblReadCmd, bodyIs, hb, h, hf, gives]

/-- One of the 16 tables, and enabled. -/
abbrev tableEnabled (x : State) (n : Nat) : Prop := n < 16 ∧ tblMode x n ≠ 0

theorem not_bad_table (h : tableEnabled x (num r 0)) : ¬ (16 ≤ num r 0 ∨ tblMode x (num r 0) = 0) :=
  fun hc => hc.elim (Nat.not_le.2 h.1) h.2

theorem tblBatchCmd_in_range (hb : r.body.length = 16 + 96 * num r 1) (h : tableEnabled x (num r 0)) (h1 : 1 ≤ num r 1) (h64 : num r 1 ≤ 64) :
    tblBatchCmd x r =
      { st := (batchLoop (num r 0) r.body (num r 1) 16 x []).1, out := (batchLoop (num r 0) r.body (num r 1) 16 x []).2 } := by
  simp only [tblBatchCmd]
  rw [if_neg (by omega), if_neg (not_bad_table h), if_neg (by omega)]
  rfl

/-- The filter of a flush and its value are in range (R122). -/
abbrev filterOk (x : State) (filter value : Nat) : Prop :=
  filter < 2 ∧ value = 0 ∨ filter = 2 ∧ value < 4096 ∨ filter = 3 ∧ (value = 0xFF ∨ value ≤ 15 ∧ x.lpPresent value = true)

theorem tblFlushCmd_in_range (hb : r.body.length = 32) (h : tableEnabled x (num r 0)) (hf : filterOk x (num r 1) (num r 2)) (hs : num r 3 < 2) :
    tblFlushCmd x r = if tblBusy x (num r 0) = true then { st := x, status := mbxBusy } else
      { st := x.onTbl (num r 0) (fun b => { b with flush := some { filter := num r 1, value := num r 2, static := num r 3 == 1 } }) } := by
  have hfilter : ¬ 4 ≤ num r 1 := by rcases hf with ⟨h, -⟩ | ⟨h, -⟩ | ⟨h, -⟩ <;> omega
  have hvalue : ¬ ((num r 1 < 2 ∧ num r 2 ≠ 0) ∨ (num r 1 = 2 ∧ 4096 ≤ num r 2) ∨ (num r 1 = 3 ∧ !portNamed x (num r 2))) := by
    rcases hf with ⟨h1, h2⟩ | ⟨h1, h2⟩ | ⟨h1, h2⟩
    · omega
    · omega
    · simp [h1, portNamed_iff.2 h2]
  have hbody : ¬ (!bodyIs r 32) = true := by simp [bodyIs, hb]
  rw [tblFlushCmd, if_neg hbody, if_neg (not_bad_table h), if_neg hfilter, if_neg hvalue, if_neg (Nat.not_le.2 hs)]
  rfl

theorem tblDumpCmd_in_range (hb : r.body.length = 8) (h : tableEnabled x (num r 0)) : tblDumpCmd x r =
    if tblBusy x (num r 0) = true then { st := x, status := mbxBusy }
    else { st := x.onTbl (num r 0) (fun b => { b with dump := some (0, 0) }) } := by
  have hbody : ¬ (!bodyIs r 8) = true := by simp [bodyIs, hb]
  rw [tblDumpCmd, if_neg hbody, if_neg (not_bad_table h)]
  rfl

end TableCommands

/-- Settles O27: each row by what waits in its table, and each command by the key and the parameters that it gives. -/
theorem tableRowsAndCommands : Obligations.TableRowsAndCommands := by
  unfold Obligations.TableRowsAndCommands
  refine ⟨fun t s x tbl hx => ⟨?learnNone, ?learn, ?waits, ?refresh, ?ager, ?notDue, ?due, ?clerk, ?noReader, ?noRecord, ?flush,
      ?dumpFull, ?clear, ?recompute, ?whole⟩, fun t s x r slot => ⟨fun hx hb => ⟨?badKey, ?badPort, ?insert⟩, fun hx hb hk => ?delete,
      fun hx hb hk => ?read, ?batch, fun hx hb hn hm hf hs => ?flushCmd, fun hx hb hn hm => ?dumpCmd⟩⟩
  case learnNone => exact fun h => ends_learn hx (takeLearn_of_nil h)
  case learn =>
    intro q rest pos e h hm
    have htake := takeLearn_local h hm
    exact ⟨fun hf => ends_learn hx (htake.trans (congrArg (Option.elim · _ _) hf)),
      fun hf => ends_learn hx (htake.trans (congrArg (Option.elim · _ _) hf))⟩
  case waits =>
    exact fun h => ⟨ends_refresh hx (refreshRow_of_learn h), ends_agerRequest hx (agerRow_of_learn h), ends_dumpStep hx (dumpRow_of_learn h)⟩
  case refresh =>
    intro k ks hl h
    have hrow := refreshRow_of_idle hl h
    exact ⟨ends_agerRequest hx (agerRow_of_refresh h),
      fun pos e hf => ends_refresh hx (hrow.trans (congrArg (Option.elim · _ _) hf)),
      fun hf => ends_refresh hx (hrow.trans (congrArg (Option.elim · _ _) hf))⟩
  case ager =>
    intro k ks hl hr h
    have hrow := agerRow_of_idle hl hr
    exact ⟨fun hf => ends_agerRequest hx (hrow.trans (takeAger_not_held h hf)),
      fun pos e hf hs h0 ha hm => ends_agerRequest hx (hrow.trans (takeAger_aged h hf hs h0 ha hm))⟩
  case notDue => exact fun h => ends_ageTick hx (ageRow_of_not_due h)
  case due => exact fun hm h => ⟨ends_ageTick hx (ageRow_of_due hm h), tick_ageTick x tbl.val, slots_ageTick x tbl.val⟩
  case clerk =>
    intro r rest h ht
    have hdel := notifyDeliver_clerk h ht
    exact ⟨fun hturn => ends_notifyDeliver hx (hdel.trans (if_pos hturn)), fun hturn => ends_notifyDeliver hx (hdel.trans (if_neg hturn))⟩
  case noReader => exact fun r rest h ht hr => ends_notifyDeliver hx (notifyDeliver_no_reader h ht hr)
  case noRecord => exact fun h => ends_notifyDeliver hx (notifyDeliver_of_nil h)
  case flush => exact fun f h => ends_flushDone hx (flushDone_of_flush h)
  case dumpFull => exact fun hl hr ha level b hd hfull => ends_dumpStep hx (dumpRow_of_full hl hr ha hd hfull)
  case clear => exact fun h => ends_bucketClear hx (bucketClear_of_lost h)
  case recompute => exact fun h => ends_tableRecompute hx (tableRecompute_of_owed h)
  case whole => exact fun h => ends_tableRecompute hx (tableRecompute_of_none h)
  case badKey => exact fun h => answers_of_result rfl hx (tblInsertCmd_bad_key hb h)
  case badPort =>
    intro hk hp
    have hport : portNamed x (leAt r.body 72 8) = false := Bool.eq_false_iff.2 (mt portNamed_iff.1 hp)
    exact answers_of_result rfl hx (tblInsertCmd_of_key hb hk (insertOp_of_bad_port hport))
  case insert =>
    intro hk hp htf hfl hnone
    have hop := insertOp_of_new ⟨hk, portNamed_iff.2 hp, htf, hfl⟩ hnone
    refine ⟨fun hq => ?_, fun y hq hins => ?_, fun y v hq hins => ?_⟩
    · exact answers_of_result rfl hx (tblInsertCmd_of_key hb hk (hop.trans (if_neg (by simp [hq]))))
    · exact answers_of_result rfl hx (tblInsertCmd_of_key hb hk (hop.trans ((if_pos hq).trans (congrArg insertTold hins))))
    · exact answers_of_result rfl hx (tblInsertCmd_of_key hb hk (hop.trans ((if_pos hq).trans (congrArg insertTold hins))))
  case delete =>
    have hcmd := tblDeleteCmd_of_key hb hk
    exact ⟨fun pos e hf => answers_of_result rfl hx (by rw [hcmd, deleteOp_of_held hk hf]),
      fun hf => answers_of_result rfl hx (by rw [hcmd, deleteOp_of_not_held hk hf])⟩
  case read =>
    exact ⟨fun pos e hf => answers_of_result rfl hx (tblReadCmd_of_held hb hk hf),
      fun hf => answers_of_result rfl hx (tblReadCmd_of_not_held hb hk hf)⟩
  case batch => exact fun hx hb hn hm h1 h64 => answers_of_result rfl hx (tblBatchCmd_in_range hb ⟨hn, hm⟩ h1 h64)
  case flushCmd =>
    have hcmd := tblFlushCmd_in_range hb ⟨hn, hm⟩ hf hs
    exact ⟨fun hbusy => answers_of_result rfl hx (hcmd.trans (if_pos hbusy)),
      fun hfree => answers_of_result rfl hx (hcmd.trans (if_neg (by simp [hfree])))⟩
  case dumpCmd =>
    have hcmd := tblDumpCmd_in_range hb ⟨hn, hm⟩
    exact ⟨fun hbusy => answers_of_result rfl hx (hcmd.trans (if_pos hbusy)),
      fun hfree => answers_of_result rfl hx (hcmd.trans (if_neg (by simp [hfree])))⟩

end Sys2Proof.Machine

/-! Proofs of the statement on token buckets, Bell lists and the statistics commands (R132 to R135, R139, R141, R142, R146, R463). -/

namespace Sys2Proof.Machine

/-! ### Token buckets (R132, R133, R135) -/

section Buckets

variable {b : Bucket} {up period per rate burst l : Nat}

theorem Bucket.tokens_refill_le (b : Bucket) (up period inc : Nat) : (b.refill up period inc).tokens ≤ b.burst * 64 := Nat.min_le_left ..

/-- A shaper that is off admits every frame (R133). -/
theorem Bucket.admits_of_off (h : b.rate = 0) (l : Nat) : b.admits l = true := by simp [admits, h]

/-- No frame is charged to a shaper that is off (R133). -/
theorem Bucket.charge_of_off (h : b.rate = 0) (l : Nat) : b.charge l = b := if_pos h

theorem Bucket.admits_iff (h : b.rate ≠ 0) : b.admits l = true ↔ l * 64 ≤ b.tokens := by simp [admits, h]

theorem Bucket.charge_of_admits (h : b.rate ≠ 0) (ha : b.admits l = true) :
    b.charge l = { b with tokens := b.tokens - l * 64 } := by
  rw [charge, if_neg h, if_pos ((admits_iff h).1 ha)]

theorem Bucket.charge_of_not_admits (h : b.rate ≠ 0) (ha : b.admits l = false) : b.charge l = b := by
  rw [charge, if_neg h, if_neg (mt (admits_iff h).2 (Bool.eq_false_iff.1 ha))]

/-- What a waiting change comes to at the first refill after it: the shaper off, on with a full bucket, or run on under its new
rate and burst (R135). -/
theorem Bucket.tick_of_due (hw : b.waiting = true) (h : b.refills < up / period) : b.tick up period per rate burst =
    if rate = 0 then { rate := 0, burst := 0, tokens := 0, refills := up / period }
    else if b.rate = 0 then { rate := rate, burst := burst, tokens := burst * 64, refills := up / period }
    else Bucket.refill { b with rate := rate, burst := burst, waiting := false } up period (per * rate) := by
  rw [tick, refillsBy, if_neg (by simp [hw]), if_neg (Nat.not_le.2 h)]

theorem Bucket.tick_turned_on (hw : b.waiting = true) (h : b.refills < up / period) (hr : rate ≠ 0) (hb : b.rate = 0) :
    b.tick up period per rate burst = { rate := rate, burst := burst, tokens := burst * 64, refills := up / period } := by
  rw [tick_of_due hw h, if_neg hr, if_pos hb]

theorem Bucket.tick_changed (hw : b.waiting = true) (h : b.refills < up / period) (hr : rate ≠ 0) (hb : b.rate ≠ 0) :
    b.tick up period per rate burst = Bucket.refill { b with rate := rate, burst := burst, waiting := false } up period (per * rate) := by
  rw [tick_of_due hw h, if_neg hr, if_neg hb]

/-- The committed rate and burst are in force after the refill, and the tokens within the burst. -/
theorem Bucket.tick_on (hw : b.waiting = true) (h : b.refills < up / period) (hr : rate ≠ 0) :
    (b.tick up period per rate burst).rate = rate ∧ (b.tick up period per rate burst).burst = burst
      ∧ (b.tick up period per rate burst).waiting = false ∧ (b.tick up period per rate burst).tokens ≤ burst * 64 := by
  by_cases hb : b.rate = 0
  · rw [tick_turned_on hw h hr hb]
    exact ⟨rfl, rfl, rfl, Nat.le_refl _⟩
  · rw [tick_changed hw h hr hb]
    exact ⟨rfl, rfl, rfl, tokens_refill_le _ up period _⟩

end Buckets

/-! ### The refill of one bucket (R132, R135) -/

section Refills

variable {t rate burst : Nat} {s x y : State} {lp : Fin 16} {g : Fin 8192} {bucket : BucketId}

theorem ends_tokenRefill (hx : x = s.advance t) (h : tokenRefill x bucket = y) : Ends (.tokenRefill t bucket) s y :=
  ends_of_act (tokenRefill · bucket) rfl hx h

theorem tokenRefill_port (h : shaperOf s (itemId 7 1 4) lp.val = (rate, burst)) : tokenRefill s (.port lp) =
    s.onLp lp.val (fun p => { p with portBucket := p.portBucket.tick s.clk.up 125 1 rate burst }) := by
  simp only [tokenRefill, h]

theorem tokenRefill_group (h : shaperOf s (itemId 7 1 6) g.val = (rate, burst)) :
    tokenRefill s (.group g) = s.onTg g.val (fun y => { y with bucket := y.bucket.tick s.clk.up 250 2 rate burst }) := by
  simp only [tokenRefill, h]

end Refills

/-! ### Entries (R139) -/

section Entries

variable {e f : BellEntry} {rest : List BellEntry} {pos k : Nat}

theorem entryAt_within (h : pos < e.interval) : entryAt (e :: f :: rest) pos k = (k, e.gates) := by
  simp only [entryAt, if_pos h]

theorem entryAt_past (h : e.interval ≤ pos) : entryAt (e :: f :: rest) pos k = entryAt (f :: rest) (pos - e.interval) (k + 1) := by
  simp only [entryAt, if_neg (Nat.not_lt.2 h)]

end Entries

/-! ### Cycle starts (R139, R141) -/

section Cycles

variable {b : Bell} {ns y : Nat}

theorem nextCycle_cast (hb : 0 < b.cycle) (ns : Nat) :
    (nextCycle b ns : Int) = (ns + 10000 : Nat) + ((b.base : Int) - (ns + 10000 : Nat)) % b.cycle := by
  have h0 := Int.emod_nonneg ((b.base : Int) - (ns + 10000 : Nat)) (Int.natCast_pos.2 hb).ne'
  rw [nextCycle, Int.natCast_add, Int.toNat_of_nonneg h0]

theorem le_nextCycle (b : Bell) (ns : Nat) : ns + 10000 ≤ nextCycle b ns := Nat.le_add_right ..

theorem nextCycle_lt (hb : 0 < b.cycle) (ns : Nat) : nextCycle b ns < ns + 10000 + b.cycle := by
  have hlt := Int.emod_lt_of_pos ((b.base : Int) - (ns + 10000 : Nat)) (Int.natCast_pos.2 hb)
  have hcast := nextCycle_cast hb ns
  omega

/-- The instant found is a cycle start. -/
theorem cycle_dvd_nextCycle (hb : 0 < b.cycle) (ns : Nat) : (b.cycle : Int) ∣ nextCycle b ns - b.base := by
  refine ⟨-(((b.base : Int) - (ns + 10000 : Nat)) / b.cycle), ?_⟩
  have hdiv := Int.mul_ediv_add_emod ((b.base : Int) - (ns + 10000 : Nat)) b.cycle
  rw [nextCycle_cast hb, Int.mul_neg]
  omega

/-- No cycle starts between 10 µs from now and the instant found: two starts lie a whole cycle apart. -/
theorem nextCycle_le (hb : 0 < b.cycle) (hy : ns + 10000 ≤ y) (hd : (b.cycle : Int) ∣ y - b.base) : nextCycle b ns ≤ y := by
  by_contra hlt
  have hapart : (b.cycle : Int) ∣ nextCycle b ns - y := by simpa using Int.dvd_sub (cycle_dvd_nextCycle hb ns) hd
  have hle := Int.le_of_dvd (by omega) hapart
  have hnext := nextCycle_lt hb ns
  omega

theorem firstCycle_of_base (h : ns + 10000 ≤ b.base) : firstCycle b ns = b.base := if_pos h

theorem firstCycle_of_begun (h : b.base < ns + 10000) : firstCycle b ns = nextCycle b ns := if_neg (Nat.not_le.2 h)

/-- The change time of a new list (R141): a start of the cycles from BASE_TIME on, 10 µs away or more, and the earliest. -/
theorem firstCycle_spec (hb : 0 < b.cycle) (ns : Nat) :
    ns + 10000 ≤ firstCycle b ns ∧ b.base ≤ firstCycle b ns ∧ (firstCycle b ns - b.base) % b.cycle = 0
      ∧ ∀ n, ns + 10000 ≤ b.base + n * b.cycle → firstCycle b ns ≤ b.base + n * b.cycle := by
  rcases Nat.lt_or_ge b.base (ns + 10000) with h | h
  · have hge := le_nextCycle b ns
    have hdvd : b.cycle ∣ nextCycle b ns - b.base := by
      rw [← Int.natCast_dvd_natCast, Int.natCast_sub (by omega)]
      exact cycle_dvd_nextCycle hb ns
    rw [firstCycle_of_begun h]
    refine ⟨hge, by omega, Nat.mod_eq_zero_of_dvd hdvd, fun n hn => nextCycle_le hb hn ⟨n, ?_⟩⟩
    push_cast
    ring
  · rw [firstCycle_of_base h]
    exact ⟨h, Nat.le_refl _, by simp, fun n _ => Nat.le_add_right ..⟩

end Cycles

/-! ### The schedule in force (R141, R142) -/

section Schedule

variable {t tc : Nat} {s x y : State} {lp : Fin 16} {p : LPort} {nb : Option Bell}

theorem gatesAt_of_pending (h : p.bellPend = some (nb, tc)) (ns : Nat) :
    gatesAt p ns = if tc ≤ ns then bellAt nb ns else bellAt p.bell ns := by simp only [gatesAt, h]

theorem gates_refreshGates (s : State) (n : Nat) : ((refreshGates s n).lp n).gates = (gatesAt (s.lp n) s.ns).2 := by simp [refreshGates]

theorem curEntry_refreshGates (s : State) (n : Nat) : ((refreshGates s n).lp n).curEntry = (gatesAt (s.lp n) s.ns).1 := by
  simp [refreshGates]

theorem takeBell_of_pending {n : Nat} (h : (s.lp n).bellPend = some (nb, tc)) : takeBell s n =
    if tc ≤ s.ns then refreshGates (s.onLp n (fun p => { p with bell := nb, bellPend := none })) n else s := by
  simp only [takeBell, h]

theorem ends_gateEvent (hx : x = s.advance t) : Ends (.gateEvent t lp) s (refreshGates x lp.val) :=
  ends_of_act (refreshGates · lp.val) rfl hx rfl

theorem ends_bellChange (hx : x = s.advance t) (h : takeBell x lp.val = y) : Ends (.bellChange t lp) s y :=
  ends_of_act (takeBell · lp.val) rfl hx h

end Schedule

/-! ### The statistics commands (R146, R463) -/

section Statistics

variable {t w code : Nat} {s x : State} {r : Req} {slot : Option Nat} {c : Instr} {obj : State → List Nat → Option Nat}
  {item : State → List Nat → List Nat}

/-- The objects that a statistics command names, `w` numbers each, in the order given. -/
abbrev statsObjects (w : Nat) (r : Req) : List (List Nat) := (List.range (num r 1)).map (fun k => numsFrom r (2 + w * k) w)

theorem statsCmd_bad_count (hf : num r 0 < 2) (h : num r 1 = 0 ∨ 64 < num r 1) :
    statsCmd w obj item x r = { st := x, status := mbxInvalid, arg := 2 } := by
  rw [statsCmd, if_neg (Nat.not_le.2 hf), if_pos h]
  rfl

/-- With every object there, each one's item is read from the state before any counter is cleared. -/
theorem statsCmd_of_objects (hf : num r 0 < 2) (h1 : 1 ≤ num r 1) (h64 : num r 1 ≤ 64) (hb : r.body.length = 8 * (2 + w * num r 1))
    (ho : ∀ o ∈ statsObjects w r, (obj x o).isSome = true) : statsCmd w obj item x r =
      { st := if num r 0 = 1 then ((statsObjects w r).filterMap (obj x)).foldl (fun s b => clearRange s b 0x1000) x else x
        out := (statsObjects w r).flatMap (fun o => encNs (item x o)) } := by
  have hbody : ¬ (!bodyIs r (8 * (2 + w * num r 1))) = true := by simp [bodyIs, hb]
  have hall : (statsObjects w r).findIdx? (fun o => (obj x o).isNone) = none :=
    List.findIdx?_eq_none_iff.2 fun o hm => by simpa using ho o hm
  rw [statsCmd, if_neg (Nat.not_le.2 hf), if_neg (by omega), if_neg hbody, hall]
  rfl

theorem answers_statsCmd (hc : exec c s = serve t r code (statsCmd w obj item) s) (hx : Takes t s r code x slot) (hf : num r 0 < 2) :
    (num r 1 = 0 ∨ 64 < num r 1 → Answers c s r slot { st := x, status := mbxInvalid, arg := 2 })
    ∧ (1 ≤ num r 1 → num r 1 ≤ 64 → r.body.length = 8 * (2 + w * num r 1) →
        (∀ o ∈ statsObjects w r, (obj x o).isSome = true) →
        (num r 0 = 0 → Answers c s r slot { st := x, out := (statsObjects w r).flatMap (fun o => encNs (item x o)) })
        ∧ (num r 0 = 1 → Answers c s r slot
            { st := ((statsObjects w r).filterMap (obj x)).foldl (fun s b => clearRange s b 0x1000) x
              out := (statsObjects w r).flatMap (fun o => encNs (item x o)) })) := by
  refine ⟨fun h => answers_of_result hc hx (statsCmd_bad_count hf h), fun h1 h64 hb ho => ?_⟩
  have hcmd := statsCmd_of_objects (item := item) hf h1 h64 hb ho
  exact ⟨fun h0 => answers_of_result hc hx (by rw [hcmd, if_neg (by omega)]),
    fun h1 => answers_of_result hc hx (by rw [hcmd, if_pos h1])⟩

end Statistics

/-- Settles O19: buckets by their rate and what waits, cycle starts by divisibility, and the four statistics commands as one. -/
theorem transmitCommands : Obligations.TransmitCommands := by
  unfold Obligations.TransmitCommands
  refine ⟨⟨fun b up period inc => ⟨rfl, rfl, rfl, rfl, b.tokens_refill_le up period inc⟩, fun b l hr => ?shaperOn,
      fun b l hr => ⟨Bucket.admits_of_off hr l, Bucket.charge_of_off hr l⟩, fun b up period per rate burst _ hw h => ?change,
      fun t s x hx => ⟨fun lp rate burst h => ends_tokenRefill hx (tokenRefill_port h),
        fun g rate burst h => ends_tokenRefill hx (tokenRefill_group h), fun q => ends_tokenRefill hx rfl,
        fun p => ends_tokenRefill hx rfl⟩⟩,
    ⟨fun e f rest pos k => ⟨entryAt_within, entryAt_past, rfl⟩, fun b ns hb => firstCycle_spec hb ns,
      fun b ns hb => ⟨le_nextCycle b ns, nextCycle_lt hb ns, Int.emod_eq_zero_of_dvd (cycle_dvd_nextCycle hb ns)⟩,
      fun t s x lp hx => ⟨fun nb tc h => ?pending, ends_gateEvent hx, gates_refreshGates x lp.val, curEntry_refreshGates x lp.val⟩⟩,
    fun t s x r slot => ?statistics⟩
  case shaperOn =>
    refine ⟨Bucket.admits_iff hr, fun ha => ?_, Bucket.charge_of_not_admits hr⟩
    rw [Bucket.charge_of_admits hr ha]
    exact Nat.sub_add_cancel ((Bucket.admits_iff hr).1 ha)
  case change =>
    refine ⟨fun h0 => ?_, fun hr hb => by rw [Bucket.tick_turned_on hw h hr hb], Bucket.tick_on hw h⟩
    rw [Bucket.tick_of_due hw h, if_pos h0]
    exact ⟨rfl, rfl⟩
  case pending =>
    have htake := takeBell_of_pending h
    exact ⟨gatesAt_of_pending h x.ns, fun hle => ends_bellChange hx (htake.trans (if_pos hle)),
      fun hlt => ends_bellChange hx (htake.trans (if_neg (Nat.not_le.2 hlt)))⟩
  case statistics =>
    simp only [List.forall_mem_cons, List.not_mem_nil, false_implies, implies_true, and_true]
    exact ⟨answers_statsCmd rfl, answers_statsCmd rfl, answers_statsCmd rfl, answers_statsCmd rfl⟩

end Sys2Proof.Machine

/-! Proofs of the statement on received EHT packets and the assembly of messages (R31, R162, R163, R182). -/

namespace Sys2Proof.Machine

theorem LogsOnly.eht {s z : State} (h : LogsOnly s z) : z.eht = s.eht := by rw [h.eq]

/-! ### Checks 1 to 3 (R162) -/

section Screen

variable {x y : State} {q : EhtRx} {typ k : Nat} {e : Endpoint} {f : State → Pkt → Nat → Endpoint → State}

/-- The engine receives `q`, a whole packet of type `typ`; `y` is the state with it taken. -/
structure Receives (x y : State) (q : EhtRx) (typ : Nat) : Prop where
  inband : x.boot.inband = true
  running : x.phase = .running
  takes : takeRx x q = some y
  whole : pktWhole (parsePkt q.bytes) = true
  typ : (parsePkt q.bytes).typ = typ

/-- A DATA packet that passes check 1 is counted. -/
abbrev dataCounted (y : State) (typ : Nat) : State := if typ = 1 then countStat y (ehtStat 0) 1 else y

/-- Check 2: a packet from outside whose source address does not fit its EID. -/
abbrev Spoofed (z : State) (q : EhtRx) : Prop := q.local_ = false ∧ z.port.mgmtOnly = false ∧ q.spoofOk = false

theorem screen_of_bad (h : Receives x y q typ) (h1 : check1 y q (parsePkt q.bytes) = some k) :
    screen q (· == typ) f x = countErr y (ehtErr k) := by
  obtain ⟨hin, hph, htake, hw, ht⟩ := h
  simp [screen, hin, hph, htake, hw, ht, h1]

theorem screen_of_spoofed (h : Receives x y q typ) (h1 : check1 y q (parsePkt q.bytes) = none) (hs : Spoofed (dataCounted y typ) q) :
    screen q (· == typ) f x = countErr (dataCounted y typ) (ehtErr 2) := by
  obtain ⟨hin, hph, htake, hw, ht⟩ := h
  obtain ⟨hl, hm, hs⟩ := hs
  simp [screen, hin, hph, htake, hw, ht, h1, hl, hm, hs]

/-- Check 3: a packet for an EID that is not here is counted, but DATA for one that has moved is told so (R160, R244). -/
def notHere (z : State) (q : EhtRx) (p : Pkt) (typ : Nat) : State :=
  (tget? z.eht.moved p.dst).elim (countErr z (ehtErr 3)) (fun m => if typ = 1 then answerMoved z q p m else countErr z (ehtErr 3))

/-- A packet that passes the first two checks goes on with the endpoint that it names. -/
theorem screen_of_good (h : Receives x y q typ) (h1 : check1 y q (parsePkt q.bytes) = none) (hs : ¬ Spoofed (dataCounted y typ) q)
    (hd : (parsePkt q.bytes).dst ≠ 0xFFFFFFFF) : screen q (· == typ) f x =
      ((dataCounted y typ).ep? (parsePkt q.bytes).dst).elim (notHere (dataCounted y typ) q (parsePkt q.bytes) typ)
        (f (dataCounted y typ) (parsePkt q.bytes) (epKey (dataCounted y typ) (parsePkt q.bytes).dst)) := by
  obtain ⟨hin, hph, htake, hw, ht⟩ := h
  have hspoof : ¬ (!q.local_ && !(dataCounted y typ).port.mgmtOnly && !q.spoofOk) = true := by simpa [and_assoc] using hs
  simp only [screen, notHere, hin, hph, htake, hw, ht, h1, hd, if_true, if_false]
  rw [if_neg (by simp), if_neg hspoof]
  cases (dataCounted y typ).ep? (parsePkt q.bytes).dst with
  | none => cases tget? (dataCounted y typ).eht.moved (parsePkt q.bytes).dst <;> rfl
  | some e => rfl

end Screen

/-! ### Checks 4 to 7 (R162) -/

section Checks

variable {s : State} {q : EhtRx} {p : Pkt} {eid st : Nat} {e : Endpoint} {found : State → Pkt → Bool} {take : State → Pkt → State}
  {serve : State → Pkt → Nat → Endpoint → State}

theorem answered_of_unmatched (h : found s p = false) : answered found take s p eid e = unmatched s p := by
  rw [answered, h]; rfl

theorem answered_of_stale (h : found s p = true) (hg : (genStale s eid e p).2 = true) :
    answered found take s p eid e = (genStale s eid e p).1 := by
  simp [answered, h, hg]

theorem answered_of_current (h : found s p = true) (hg : (genStale s eid e p).2 = false) :
    answered found take s p eid e = take (genStale s eid e p).1 p := by
  simp [answered, h, hg]

theorem checked_of_state (h : check5 s e p = some st) : checked q serve s p eid e =
    if p.typ = 1 then answerData s q p e st 0 (placedBytes s p.key) false else s := by
  simp only [checked, h]

theorem toldFenced_eht (s : State) (eid : Nat) : (toldFenced s eid).eht = s.eht := by
  unfold toldFenced
  split
  · rfl
  · exact (raise_logsOnly ..).eht

theorem genStale_eht (s : State) (eid : Nat) (e : Endpoint) (p : Pkt) : (genStale s eid e p).1.eht = s.eht := by
  simp only [genStale, apply_ite State.eht, countErr_eht, toldFenced_eht, ite_self]

/-- The tests of checks 6 and 7 move no message. -/
theorem placedBytes_check67 (s : State) (eid : Nat) (e : Endpoint) (p : Pkt) (k : MsgKey) :
    placedBytes (check67 s eid e p).1 k = placedBytes s k := by
  have heht : (check67 s eid e p).1.eht = s.eht := genStale_eht ..
  simp only [placedBytes, ctxOf, heht]

theorem checked_of_fenced (h5 : check5 s e p = none) (h : (check67 s eid e p).2 = true) : checked q serve s p eid e =
    if p.typ = 1 then answerData (check67 s eid e p).1 q p e nakFenced 0 (placedBytes (check67 s eid e p).1 p.key) false
    else (check67 s eid e p).1 := by
  simp only [checked, h5, h, if_true, placedBytes_check67]

theorem checked_of_good (h5 : check5 s e p = none) (h : (check67 s eid e p).2 = false) :
    checked q serve s p eid e = serve (check67 s eid e p).1 p eid e := by
  simp only [checked, h5, h, Bool.false_eq_true, if_false]

/-- The endpoint's own generation, and a sender's of no earlier one than the book knows, pass. -/
theorem genStale_of_current (hd : p.dgen = e.gen % 65536)
    (hb : ∀ b ∈ s.eht.book, ¬ (b.2.eid = p.src ∧ serialEarlier 16 p.sgen b.2.gen = true)) : genStale s eid e p = (s, false) := by
  have hold : s.eht.book.any (fun b => b.2.eid == p.src && serialEarlier 16 p.sgen b.2.gen) = false := by
    rw [List.any_eq_false]
    exact fun b hm => by simpa using hb b hm
  have hcur : (p.dgen != e.gen % 65536) = false := by simp [hd]
  simp only [genStale, hcur, hold, Bool.false_and, Bool.or_false, Bool.false_eq_true, if_false]

/-- A generation other than the endpoint's fails, but for a packet that may give none (R332). -/
theorem genStale_of_other (hf : genFree s p = false) (hd : p.dgen ≠ e.gen % 65536) : (genStale s eid e p).2 = true := by
  simp [genStale, hf, hd]

end Checks

/-! ### The rows of the six types -/

section PacketRows

variable {t typ eid : Nat} {s : State} {q : EhtRx} {p : Pkt} {e : Endpoint} {c : Nat × Instr}

/-- The row of each type. -/
abbrev packetRows (t : Nat) (q : EhtRx) : List (Nat × Instr) :=
  [(1, .data t q), (2, .ack t q), (3, .creditReq t q), (4, .creditGrant t q), (5, .tally t q), (6, .moved t q)]

/-- Check 4: a message is open that an answer of this type names. -/
def answersOpen (typ : Nat) (s : State) (p : Pkt) : Bool := if typ = 4 then (grantedMsg s p).isSome else (openMsg s p).isSome

/-- What an answer of a type does to the message that it names. -/
def takeAnswer (q : EhtRx) (typ : Nat) (s : State) (p : Pkt) : State :=
  if typ = 2 then takeAck s p else if typ = 4 then takeGrant s p else takeMoved s q p

theorem takeAnswer_ack (h : typ = 2) : takeAnswer q typ s p = takeAck s p := by rw [h]; rfl

theorem takeAnswer_grant (h : typ = 4) : takeAnswer q typ s p = takeGrant s p := by rw [h]; rfl

theorem takeAnswer_moved (h : typ = 6) : takeAnswer q typ s p = takeMoved s q p := by rw [h]; rfl

/-- What a packet of a type that is no answer asks for. -/
def servePacket (q : EhtRx) (typ : Nat) (s : State) (p : Pkt) (eid : Nat) (e : Endpoint) : State :=
  if typ = 1 then receiveMsg s q p eid e
  else if typ = 3 then serveCreditReq s q p eid e
  else if eid = wellKnownEid then hearTally s q p else s

theorem servePacket_data (h : typ = 1) : servePacket q typ s p eid e = receiveMsg s q p eid e := by rw [h]; rfl

theorem servePacket_creditReq (h : typ = 3) : servePacket q typ s p eid e = serveCreditReq s q p eid e := by rw [h]; rfl

theorem servePacket_tally (h : typ = 5) (hw : eid = wellKnownEid) : servePacket q typ s p eid e = hearTally s q p := by
  rw [h]; exact if_pos hw

/-- An ACK, a CREDIT_GRANT and a MOVED answer what was sent. -/
abbrev isAnswer (typ : Nat) : Prop := typ = 2 ∨ typ = 4 ∨ typ = 6

/-- What a packet of a type meets from check 4 on. -/
def fromCheck4 (q : EhtRx) (typ : Nat) : State → Pkt → Nat → Endpoint → State :=
  if isAnswer typ then answered (answersOpen typ) (takeAnswer q typ) else checked q (servePacket q typ)

theorem fromCheck4_of_answer (h : isAnswer typ) : fromCheck4 q typ = answered (answersOpen typ) (takeAnswer q typ) := if_pos h

theorem fromCheck4_of_other (h : ¬ isAnswer typ) : fromCheck4 q typ = checked q (servePacket q typ) := if_neg h

theorem exec_packetRow (hc : c ∈ packetRows t q) (s : State) : exec c.2 s = act t s (screen q (· == c.1) (fromCheck4 q c.1)) := by
  revert c
  simp only [packetRows, List.forall_mem_cons, List.not_mem_nil, false_implies, implies_true, and_true]
  exact ⟨rfl, rfl, rfl, rfl, rfl, rfl⟩

end PacketRows

/-! ### Checks 8 to 11 (R162, R163, R165, R182) -/

section Receive

variable {s y : State} {q : EhtRx} {p : Pkt} {eid k n : Nat} {e : Endpoint} {c : Ctx} {d : Dedup}

/-- A packet of a message that has ended is a repeat; its LAST packet is answered again. -/
theorem receiveMsg_of_ended (hc : ctxOf s p.key = none) (hd : dedupOf s p.key = some d) : receiveMsg s q p eid e =
    if p.last = true then answerData (countStat s (ehtStat 3) 1) q p e (d.status.getD ehtAck) d.result 0 true
    else countStat s (ehtStat 3) 1 := by
  simp only [receiveMsg, hc, hd]

theorem receiveMsg_of_placed (hc : ctxOf s p.key = some c) (hb : p.index ∈ c.bitmap) :
    receiveMsg s q p eid e = countStat s (ehtStat 3) 1 := by
  simp [receiveMsg, hc, hb]

theorem receiveMsg_of_no_room (hc : ctxOf s p.key = none) (hd : dedupOf s p.key = none) (h9 : check9 s e p.express = some k) :
    receiveMsg s q p eid e = answerData (countErr s k) q p e nakRetry 0 0 false := by
  simp [receiveMsg, hc, hd, h9, placedBytes]

theorem receiveMsg_of_no_credit (hc : ctxOf s p.key = some c) (hb : p.index ∉ c.bitmap) (h10 : check10 s e p = none) :
    receiveMsg s q p eid e = answerData s q p e nakNoCredit 0 c.count false := by
  simp [receiveMsg, hc, hb, h10, placedBytes]

/-- A WRITE packet under credit is placed, or gets the NAK of check 11. -/
theorem receiveMsg_of_write (hc : ctxOf s p.key = some c) (hb : p.index ∉ c.bitmap) (h10 : check10 s e p = some y) (hop : p.op = 2) :
    receiveMsg s q p eid e = (check11 (touchDesc y (p.rkey / 4096)) e (some c) p).elim
      (placePacket (touchDesc y (p.rkey / 4096)) q p eid e c)
      (fun st => if st = nakRetry then
          answerData (touchDesc y (p.rkey / 4096)) q p e st 0 (placedBytes (touchDesc y (p.rkey / 4096)) p.key) false
        else failMsg (touchDesc y (p.rkey / 4096)) q p eid e st) := by
  have hkey : keyChecked y e p = some p.rkey := by simp only [keyChecked, hop]
  simp only [receiveMsg, hc, h10, hkey]
  rw [if_neg (by simpa using hb)]
  cases check11 (touchDesc y (p.rkey / 4096)) e (some c) p <;> rfl

/-- A SEND to a channel lands in the ring's region, as the ring's key finds it (R165, R182). -/
theorem sendPlace_of_channel {ch : Nat} (h : e.channel = some ch) : sendPlace s e n p =
    (lookupKey s e.ringKey).map (fun d => .mem (d.target + n * e.slotSize + p.offset)) id := by
  simp only [sendPlace, h]
  cases lookupKey s e.ringKey <;> rfl

end Receive

/-! ### A packet placed (R163) -/

section Placed

variable {s : State} {q : EhtRx} {p : Pkt} {eid a : Nat} {e : Endpoint} {c : Ctx}

/-- The context of a message once a packet of it has gone to memory. -/
def Ctx.placed (c : Ctx) (p : Pkt) : Ctx :=
  { c with bitmap := p.index :: c.bitmap, count := c.count + p.len, maxIdx := max c.maxIdx p.index
           total := if p.last then some p.total else c.total }

/-- The packet's payload in memory, its context brought up to date, its bytes counted. -/
def packetStored (s : State) (p : Pkt) (c : Ctx) (a : Nat) : State :=
  countStat { s.poke a p.payload with eht.ctxs := (s.poke a p.payload).eht.ctxs.map (fun x => if x.key = c.key then c.placed p else x) }
    (ehtStat 1) p.len

/-- Only a byte count that reaches TOTAL_LEN completes a message. -/
theorem placePacket_mem : placePacket s q p eid e c (.mem a) =
    (c.placed p).total.elim (packetStored s p c a) (fun t =>
      if c.count + p.len = t then messageDone (packetStored s p c a) q p eid e (c.placed p) 0 t else packetStored s p c a) := by
  change (match (c.placed p).total with
    | some t => if c.count + p.len = t then messageDone (packetStored s p c a) q p eid e (c.placed p) 0 t else packetStored s p c a
    | none => packetStored s p c a) = _
  cases (c.placed p).total <;> rfl

end Placed

/-- Settles O28: a row by its type and the check that stops it, a message by its context and its entry. -/
theorem packetsReceived : Obligations.PacketsReceived := by
  unfold Obligations.PacketsReceived
  refine ⟨fun t s x y q hx hin hph htake => ?rows, fun s q p eid e => ?message⟩
  case rows =>
    intro p kinds c hc hwhole htyp z spoofed
    have hr : Receives x y q c.1 := ⟨hin, hph, htake, hwhole, htyp⟩
    have hrow := exec_packetRow hc s
    refine ⟨fun k h1 => ends_of_act _ hrow hx (screen_of_bad hr h1), fun h1 hs => ends_of_act _ hrow hx (screen_of_spoofed hr h1 hs),
      fun h1 hs hd he => ?unknown, fun e h1 hs hd he => ?endpoint⟩
    case unknown =>
      have hgood := (screen_of_good (f := fromCheck4 q c.1) hr h1 hs hd).trans (congrArg (Option.elim · _ _) he)
      refine ⟨fun hm => ends_of_act _ hrow hx (hgood.trans (congrArg (Option.elim · _ _) hm)), fun m hm h1 => ?_⟩
      exact ends_of_act _ hrow hx (hgood.trans ((congrArg (Option.elim · _ _) hm).trans (if_pos h1)))
    case endpoint =>
      have hgood := (screen_of_good (f := fromCheck4 q c.1) hr h1 hs hd).trans (congrArg (Option.elim · _ _) he)
      intro eid
      have hend : ∀ w, fromCheck4 q c.1 z p eid e = w → Ends c.2 s w := fun w hw => ends_of_act _ hrow hx (hgood.trans hw)
      have hserve : ∀ w, ¬ isAnswer c.1 → checked q (servePacket q c.1) z p eid e = w → Ends c.2 s w := fun w hc hw =>
        hend w (by rw [fromCheck4_of_other hc, hw])
      refine ⟨fun hans => ?answer, genStale_of_current, genStale_of_other, fun st h5 => ?state, fun h5 h67 => ?fenced,
        fun h5 h67 => ?good⟩
      case answer =>
        rw [fromCheck4_of_answer hans] at hend
        refine ⟨fun hf => hend _ (answered_of_unmatched hf), fun hf hg => hend _ (answered_of_stale hf hg), fun hf hg => ?_⟩
        have hcur := answered_of_current (found := answersOpen c.1) (take := takeAnswer q c.1) hf hg
        exact ⟨fun h => hend _ (hcur.trans (takeAnswer_ack h)), fun h => hend _ (hcur.trans (takeAnswer_grant h)),
          fun h => hend _ (hcur.trans (takeAnswer_moved h))⟩
      case state =>
        have hst := checked_of_state (q := q) (eid := eid) (serve := servePacket q c.1) h5
        rw [htyp] at hst
        exact ⟨fun h => hserve _ (by omega) (hst.trans (if_pos h)), fun h => hserve _ (by omega) (hst.trans (if_neg (by omega)))⟩
      case fenced =>
        have hfen := checked_of_fenced (q := q) (serve := servePacket q c.1) h5 h67
        rw [htyp] at hfen
        exact ⟨fun h => hserve _ (by omega) (hfen.trans (if_pos h)), fun h => hserve _ (by omega) (hfen.trans (if_neg (by omega)))⟩
      case good =>
        have hgo := checked_of_good (q := q) (serve := servePacket q c.1) h5 h67
        exact ⟨fun h => hserve _ (by omega) (hgo.trans (servePacket_data h)),
          fun h => hserve _ (by omega) (hgo.trans (servePacket_creditReq h)),
          fun h hw => hserve _ (by omega) (hgo.trans (servePacket_tally h hw))⟩
  case message =>
    refine ⟨fun d hc hd => ?ended, fun c => receiveMsg_of_placed, fun k => receiveMsg_of_no_room, fun c => receiveMsg_of_no_credit,
      fun c y st hc hb h10 hop => ?failed, fun c n hop hch => ?ring, fun c y a hc hb h10 hop h11 => ?placed, fun c a => ?complete⟩
    case ended =>
      have hmsg := receiveMsg_of_ended (q := q) (eid := eid) (e := e) hc hd
      exact ⟨fun hl => hmsg.trans (if_pos hl), fun hl => hmsg.trans (if_neg (by simp [hl]))⟩
    case failed =>
      intro z h11 hst
      exact (receiveMsg_of_write hc hb h10 hop).trans ((congrArg (Sum.elim _ _) h11).trans (if_neg hst))
    case ring =>
      have hplace := sendPlace_of_channel (s := s) (p := p) (n := n) hch
      exact ⟨fun y hk => hplace.trans (congrArg (Sum.map _ _) hk), fun x hk => hplace.trans (congrArg (Sum.map _ _) hk)⟩
    case placed => exact (receiveMsg_of_write hc hb h10 hop).trans (congrArg (Sum.elim _ _) h11)
    case complete =>
      intro n c' y z
      have hmem := placePacket_mem (s := s) (q := q) (p := p) (eid := eid) (a := a) (e := e) (c := c)
      have hlast : p.last = true → (c.placed p).total = some p.total := fun hl => if_pos hl
      have hmore : p.last = false → (c.placed p).total = c.total := fun hl => if_neg (by simp [hl])
      exact ⟨fun hl hn => hmem.trans ((congrArg (Option.elim · _ _) (hlast hl)).trans (if_pos hn)),
        fun hl hn => hmem.trans ((congrArg (Option.elim · _ _) (hlast hl)).trans (if_neg hn)),
        fun hl ht => hmem.trans (congrArg (Option.elim · _ _) ((hmore hl).trans ht)),
        fun tl hl ht hn => hmem.trans ((congrArg (Option.elim · _ _) ((hmore hl).trans ht)).trans (if_pos hn))⟩

end Sys2Proof.Machine

/-! Proofs of the statement on region keys, credit, and the commands of regions and of the address book (R148, R176, R178 to R187). -/

namespace Sys2Proof.Machine

/-! ### Keys and accesses (R178, R180, R182, R326) -/

section Regions

variable {s : State} {key i a n right src : Nat} {d : Region}

theorem lookupKey_of_none (h : tget? s.eht.regions (key / 4096) = none) : lookupKey s key = .inr nakKey := by simp only [lookupKey, h]

/-- What a key gets by its descriptor, where a copy of that can be read. -/
theorem lookupKey_of_region (h : tget? s.eht.regions (key / 4096) = some d) (hl : descLost s (key / 4096) = false) : lookupKey s key =
    if d.state = 1 ∧ d.gen = key % 4096 then .inl d
    else if d.state = 2 ∧ key % 4096 = (d.gen + 4095) % 4096 then .inr nakRevoked
    else .inr nakKey := by
  simp only [lookupKey, h, hl, Bool.false_eq_true, if_false]

theorem lookupKey_of_lost (hl : descLost s (key / 4096) = true) : lookupKey s key = .inr nakKey := by
  cases h : tget? s.eht.regions (key / 4096) with
  | none => exact lookupKey_of_none h
  | some d => simp only [lookupKey, h, hl, if_true]

theorem lookupKey_of_revoked (h : tget? s.eht.regions (key / 4096) = some d) (hl : descLost s (key / 4096) = false) (h2 : d.state = 2)
    (hg : key % 4096 = (d.gen + 4095) % 4096) : lookupKey s key = .inr nakRevoked := by
  rw [lookupKey_of_region h hl, if_neg (by omega), if_pos ⟨h2, hg⟩]

/-- The descriptor that a revoke leaves: the next generation, REVOKED. -/
abbrev Region.revoked (d : Region) : Region := { d with gen := (d.gen + 1) % 4096, state := 2 }

theorem revokeRegion_of_region (h : tget? s.eht.regions i = some d) : revokeRegion s i =
    { s with eht.regions := tset s.eht.regions i d.revoked, eht.revoking := tset s.eht.revoking i s.clk.up } := by
  simp only [revokeRegion, h]

theorem tget?_regions_revokeRegion (h : tget? s.eht.regions i = some d) :
    tget? (revokeRegion s i).eht.regions i = some d.revoked := by
  rw [revokeRegion_of_region h, tget?_tset, if_pos rfl]

/-- From the cycle of a revoke on, the key that was good is refused (R31, R182). -/
theorem lookupKey_revokeRegion (h : tget? s.eht.regions (key / 4096) = some d) (hl : descLost s (key / 4096) = false) (hlt : d.gen < 4096)
    (hg : d.gen = key % 4096) : lookupKey (revokeRegion s (key / 4096)) key = .inr nakRevoked := by
  have hlost : descLost (revokeRegion s (key / 4096)) (key / 4096) = false := by rw [revokeRegion_of_region h]; exact hl
  exact lookupKey_of_revoked (tget?_regions_revokeRegion h) hlost rfl (by dsimp only; omega)

theorem Region.may_iff : d.may right src = true ↔ d.rights &&& right ≠ 0 ∧ (d.filter = 0xFFFFFFFF ∨ d.filter = src) := by
  simp [Region.may]

theorem regionAccess_of_key (h : lookupKey s key = .inl d) : regionAccess s key a n right src =
    if ¬ (d.base ≤ a ∧ a + n ≤ d.base + d.len) then .inr nakBounds
    else if d.may right src = true then .inl (d.target + (a - d.base))
    else .inr nakRights := by
  simp only [regionAccess, h]

end Regions

/-! ### Credit (R176) -/

section Credit

variable {s : State} {q : EhtRx} {p : Pkt} {eid g : Nat} {e : Endpoint} {x : Grant}

/-- The units that a request is given: what it asks for, within the largest grant and a quarter of what is free. -/
abbrev unitsGiven (s : State) (p : Pkt) (e : Endpoint) : Nat :=
  let free := creditFree s e (poolExpress s e p.express)
  min (beAt p.b 0x10 2) (min (grantMax s) (max (free / 4) (min free 1)))

/-- The grant of `n` units to the sender of a request, under a token's use count. -/
abbrev grantOf (s : State) (p : Pkt) (eid : Nat) (e : Endpoint) (n uses : Nat) : Grant :=
  { src := p.src, ep := eid, express := poolExpress s e p.express, tf := e.tf, left := n, expires := s.clk.up + grantLife s, uses := uses }

theorem serveCreditReq_of_no_grant (h : freeGrant (countStat s (ehtStat 10) 1) = none) : serveCreditReq s q p eid e =
    sendGrant (countErr (countStat s (ehtStat 10) 1) (ehtErr 12)) q p e 0 0 0 (grantLife (countStat s (ehtStat 10) 1) / 1000) := by
  simp only [serveCreditReq, h]

theorem serveCreditReq_of_grant (h : freeGrant (countStat s (ehtStat 10) 1) = some g) : serveCreditReq s q p eid e =
    let y := countStat s (ehtStat 10) 1
    let uses := (tget y.eht.grantUses g 0 + 1) % 65536
    if unitsGiven y p e = 0 then sendGrant y q p e 0 0 0 (grantLife y / 1000)
    else sendGrant (countStat { y with
        eht.grantUses := tset y.eht.grantUses g uses
        eht.grants := tset y.eht.grants g (grantOf y p eid e (unitsGiven y p e) uses) } (ehtStat 11) 1)
      q p e (unitsGiven y p e) (g * 65536 + uses) (grantLife y / 1000) 0 := by
  simp only [serveCreditReq, h]

/-- READ_RESP is always uncredited, and takes nothing. -/
theorem check10_of_readResp (h : p.op = 4) : check10 s e p = some s := if_pos h

/-- A packet under a token takes a unit of its grant, if that covers it. -/
theorem check10_of_grant (h4 : p.op ≠ 4) (h0 : p.grant ≠ 0) (h : tget? s.eht.grants (p.grant / 65536) = some x) : check10 s e p =
    if x.uses % 65536 ≠ p.grant % 65536 ∨ x.expires ≤ s.clk.up ∨ x.src ≠ p.src ∨ x.ep ≠ epKey s p.dst ∨ x.left = 0 then none
    else some { s with eht.grants := tset s.eht.grants (p.grant / 65536) { x with left := x.left - 1 } } := by
  rw [check10, if_neg h4, if_neg h0, h]

end Credit

/-! ### The commands of regions (R179, R182) -/

section RegionCommands

variable {x : State} {r : Req} {i k : Nat} {d : Region}

/-- The generation of a new region at an index: that of the region there before. -/
def regionGen (x : State) (i : Nat) : Nat :=
  match tget? x.eht.regions i with
  | some d => d.gen
  | none => 0

/-- The descriptor that EHT_REG_CREATE spells. -/
def createdRegion (r : Req) (gen : Nat) : Region :=
  { base := num r 0, len := num r 1, target := num r 2, gen := gen, tf := num r 3, rights := num r 4
    state := 1, flags := num r 5, filter := num r 6, channel := num r 7 }

theorem regCreateCmd_of_bad (hb : r.body.length = 64) (h : regionBad x r = some k) :
    regCreateCmd x r = { st := x, status := mbxInvalid, arg := k } := by
  simp [regCreateCmd, bodyIs, hb, h, failsAt]

theorem regCreateCmd_of_full (hb : r.body.length = 64) (h : regionBad x r = none) (hf : freeIndex x (num r 3) = none) :
    regCreateCmd x r = { st := x, status := mbxNospace } := by
  simp [regCreateCmd, bodyIs, hb, h, hf, fails]

theorem regCreateCmd_of_index (hb : r.body.length = 64) (h : regionBad x r = none) (hf : freeIndex x (num r 3) = some i) :
    regCreateCmd x r =
      { st := { descWritten x i with eht.regions := tset x.eht.regions i (createdRegion r (regionGen x i))
                                     eht.freeOrder := x.eht.freeOrder.filter (· != i) }
        out := encN (i * 4096 + regionGen x i) } := by
  simp only [regCreateCmd, bodyIs, hb, h, hf, beq_self_eq_true, Bool.not_true, Bool.false_eq_true, if_false]
  rfl

theorem regRevokeCmd_of_region (hb : r.body.length = 8) (h : tget? x.eht.regions (num r 0 / 4096) = some d) : regRevokeCmd x r =
    if d.state = 1 ∧ d.gen = num r 0 % 4096 then { st := revokeRegion x (num r 0 / 4096) }
    else { st := x, status := mbxInvalid, arg := 1 } := by
  simp only [regRevokeCmd, bodyIs, hb, h, beq_self_eq_true, Bool.not_true, Bool.false_eq_true, if_false]
  rfl

theorem regQueryCmd_of_region (hb : r.body.length = 8) (hk : num r 0 < 2 ^ 32) (h : tget? x.eht.regions (num r 0 / 4096) = some d) :
    regQueryCmd x r = { st := x, out := d.bytes } := by
  have hbody : ¬ (!bodyIs r 8) = true := by simp [bodyIs, hb]
  rw [regQueryCmd, if_neg hbody, if_neg (Nat.not_le.2 hk), h]
  rfl

end RegionCommands

/-! ### The commands of the address book (R148, R187) -/

section BookCommands

variable {x : State} {r : Req} {b : Bytes}

theorem bookWriteCmd_of_bad_count (h : num r 0 = 0 ∨ 64 < num r 0) :
    bookWriteCmd x r = { st := x, status := mbxInvalid, arg := 1 } := by
  rw [bookWriteCmd, if_pos h]
  rfl

/-- The items are written whole where each is in range and no tenant function comes to hold more than its quota. -/
theorem bookWriteCmd_of_items (h1 : 1 ≤ num r 0) (h64 : num r 0 ≤ 64) (hb : r.body.length = 8 + 102 * num r 0)
    (hok : ∀ b ∈ bookItems r (num r 0), bookItemOk x b = true)
    (hq : ∀ b ∈ bookItems r (num r 0),
      bookUse ((bookItems r (num r 0)).foldl putBook x.eht.book) (leAt b 86 8) ≤ bookQuota x (leAt b 86 8)) :
    bookWriteCmd x r = { st := { x with eht.book := (bookItems r (num r 0)).foldl putBook x.eht.book } } := by
  have hbody : ¬ (!bodyIs r (8 + bookItem * num r 0)) = true := by simp [bodyIs, hb, bookItem]
  have hall : (bookItems r (num r 0)).findIdx? (fun b => !bookItemOk x b) = none :=
    List.findIdx?_eq_none_iff.2 fun b hm => by simp [hok b hm]
  simp only [bookWriteCmd]
  rw [if_neg (by omega), if_neg hbody, hall]
  refine if_neg fun hover => ?_
  simp only [List.any_eq_true, Bool.and_eq_true, decide_eq_true_eq] at hover
  obtain ⟨b, hm, ⟨-, hover⟩, -⟩ := hover
  exact Nat.not_le.2 hover (hq b hm)

/-- Path count and follow-moved flag left out have the defaults of R148. -/
theorem paths_bookOfItem (h : leAt b 62 8 = 2 ^ 64 - 1) : (bookOfItem b).paths = 4 := if_pos h

theorem follow_bookOfItem (h : leAt b 78 8 = 2 ^ 64 - 1) : (bookOfItem b).follow = true := by
  simp [bookOfItem, orDefault, h]

theorem bookReadCmd_in_range (hb : r.body.length = 16) (h0 : num r 0 < 65536) (h1 : 1 ≤ num r 1) (h64 : num r 1 ≤ 64)
    (hend : num r 0 + num r 1 ≤ 65536) :
    bookReadCmd x r = { st := x, out := (List.range (num r 1)).flatMap (fun k => bookRow x (num r 0 + k)) } := by
  have hbody : ¬ (!bodyIs r 16) = true := by simp [bodyIs, hb]
  rw [bookReadCmd, if_neg hbody, if_neg (Nat.not_le.2 h0), if_neg (by omega)]
  rfl

end BookCommands

/-- Settles O29: a key by its descriptor, credit by the grant, and each command by the condition it checks. -/
theorem regionsAndCredit : Obligations.RegionsAndCredit := by
  unfold Obligations.RegionsAndCredit
  refine ⟨⟨fun s key => lookupKey_of_lost, fun s key d h hl hlt => ?key, fun s key => lookupKey_of_none,
      fun s key a n right src d h => ?access, fun old a b => ⟨rfl, if_pos rfl, fun h => if_neg h, rfl⟩⟩,
    fun s q p eid e => ⟨fun h => serveCreditReq_of_no_grant h, fun g h => ?request, fun h4 h0 g h => ?covers, check10_of_readResp⟩,
    fun t s x r slot => ⟨fun hx hb => ?create, fun hx hb => ?revoke, fun hx hb hk d h => ?query, fun hx => ?write,
      fun hx hb h0 h1 h64 hend => answers_of_result rfl hx (bookReadCmd_in_range hb h0 h1 h64 hend)⟩⟩
  case key =>
    have hkey := lookupKey_of_region h hl
    refine ⟨fun h1 hg => ?_, lookupKey_of_revoked h hl, fun h1 hg => ?_, fun h0 => ?_, fun h1 hg => ?_⟩
    · rw [hkey, if_pos ⟨h1, hg⟩]
    · rw [hkey, if_neg (fun hc => hg hc.2), if_neg (by omega)]
    · rw [hkey, if_neg (by omega), if_neg (by omega)]
    · exact ⟨lookupKey_revokeRegion h hl hlt hg, tget?_regions_revokeRegion h⟩
  case access =>
    have hacc := regionAccess_of_key (a := a) (n := n) (right := right) (src := src) h
    refine ⟨fun hout => ?_, fun hlo hhi => ⟨fun hno => ?_, fun hr hf => ?_⟩⟩
    · rw [hacc, if_pos (by omega)]
    · rw [hacc, if_neg (not_not.2 ⟨hlo, hhi⟩), if_neg (by rw [Region.may_iff]; tauto)]
    · rw [hacc, if_neg (not_not.2 ⟨hlo, hhi⟩), if_pos (Region.may_iff.2 ⟨hr, hf⟩)]
  case request =>
    have hreq := serveCreditReq_of_grant (q := q) (p := p) (eid := eid) (e := e) h
    exact ⟨fun h0 => hreq.trans (if_pos h0), fun h0 => hreq.trans (if_neg h0)⟩
  case covers =>
    have hten := check10_of_grant (e := e) h4 h0 h
    refine ⟨fun hu he hs hp hl => hten.trans (if_neg ?_), fun hno => hten.trans (if_pos hno)⟩
    rintro (hc | hc | hc | hc | hc)
    · exact hc hu
    · exact Nat.not_le.2 he hc
    · exact hc hs
    · exact hc hp
    · exact hl.ne' hc
  case create =>
    exact ⟨fun k h => answers_of_result rfl hx (regCreateCmd_of_bad hb h),
      fun h hf => answers_of_result rfl hx (regCreateCmd_of_full hb h hf),
      fun i h hf => answers_of_result rfl hx (regCreateCmd_of_index hb h hf)⟩
  case revoke =>
    refine ⟨fun d h h1 hg => answers_of_result rfl hx ?_, fun d h hno => answers_of_result rfl hx ?_⟩
    · rw [regRevokeCmd_of_region hb h, if_pos ⟨h1, hg⟩]
    · rw [regRevokeCmd_of_region hb h, if_neg (by tauto)]
  case query => exact answers_of_result rfl hx (regQueryCmd_of_region hb hk h)
  case write =>
    refine ⟨fun h => answers_of_result rfl hx (bookWriteCmd_of_bad_count h), fun h1 h64 hb hok => ?_,
      fun b hp hf => ⟨paths_bookOfItem hp, follow_bookOfItem hf⟩⟩
    exact fun hq => answers_of_result rfl hx (bookWriteCmd_of_items h1 h64 hb hok hq)

end Sys2Proof.Machine

/-! Proofs of the statement on the timers and answers of EHT messages (R163, R166, R170, R171, R176, R177, R182, R184). -/

namespace Sys2Proof.Machine

/-! ### Rows that act on a condition -/

/-- A row that acts once a condition holds: what it comes to with the condition, and without it. -/
theorem ends_of_pos {c : Instr} {s y z : State} {P : Prop} [Decidable P] (h : Ends c s (if P then y else z)) (hp : P) : Ends c s y := by
  rwa [if_pos hp] at h

theorem ends_of_neg {c : Instr} {s y z : State} {P : Prop} [Decidable P] (h : Ends c s (if P then y else z)) (hp : ¬ P) : Ends c s z := by
  rwa [if_neg hp] at h

/-! ### The sender's timers (R170, R171, R184) -/

section SenderTimers

variable {t k w rto t0 : Nat} {retry : Option Nat} {s x : State} {m : OutMsg}

theorem ends_rtoExpiry (hx : x = s.advance t) (hm : tget? x.eht.out k = some m) (hst : m.state = .wait rto retry) :
    Ends (.rtoExpiry t k) s (if rto ≤ x.clk.up ∧ ¬ m.acked = true then resendAll x k m else x) := by
  change execRtoExpiry t k s = _
  simp only [execRtoExpiry, act_eq, ← hx, hm, hst]

theorem ends_retryWaitEnd_of_wait (hx : x = s.advance t) (hm : tget? x.eht.out k = some m) (hst : m.state = .wait rto (some w)) :
    Ends (.retryWaitEnd t k) s (if w ≤ x.clk.up then resendAll x k m else x) := by
  change execRetryWaitEnd t k s = _
  simp only [execRetryWaitEnd, act_eq, ← hx, hm, hst]

theorem ends_retryWaitEnd_of_credit (hx : x = s.advance t) (hm : tget? x.eht.out k = some m) (hst : m.state = .credit (some w)) :
    Ends (.retryWaitEnd t k) s (if w ≤ x.clk.up then requestCredit x k m else x) := by
  change execRetryWaitEnd t k s = _
  simp only [execRetryWaitEnd, act_eq, ← hx, hm, hst]

/-- A message whose first packet went at `t0` drains from the end of its window on. -/
theorem ends_sendWindowEnd (hx : x = s.advance t) (hm : tget? x.eht.out k = some m) (h0 : m.t0 = some t0) :
    Ends (.sendWindowEnd t k) s (if t0 + ehtW x ≤ x.clk.up then x.onOut k { m with state := .drain } else x) := by
  change execSendWindowEnd t k s = _
  simp only [execSendWindowEnd, act_eq, ← hx, hm, h0]

theorem ends_sendWindowEnd_of_unsent (hx : x = s.advance t) (hm : tget? x.eht.out k = some m) (h0 : m.t0 = none) :
    Ends (.sendWindowEnd t k) s x := by
  change execSendWindowEnd t k s = _
  simp only [execSendWindowEnd, act_eq, ← hx, hm, h0]

theorem ends_ehtTimeout (hx : x = s.advance t) (hm : tget? x.eht.out k = some m) (h0 : m.t0 = some t0) :
    Ends (.ehtTimeout t k) s (if t0 + ehtW x + ackWait x ≤ x.clk.up then finishMsg x k ehtTimeoutSt 0 [] else x) := by
  change execEhtTimeout t k s = _
  simp only [execEhtTimeout, act_eq, ← hx, hm, h0]

theorem ends_ehtTimeout_of_unsent (hx : x = s.advance t) (hm : tget? x.eht.out k = some m) (h0 : m.t0 = none) :
    Ends (.ehtTimeout t k) s x := by
  change execEhtTimeout t k s = _
  simp only [execEhtTimeout, act_eq, ← hx, hm, h0]

end SenderTimers

/-! ### The sender's answers (R170, R177) -/

section SenderAnswers

variable {x : State} {p : Pkt} {k b rto : Nat} {w : Option Nat} {m : OutMsg}

/-- STATUS of an answer (R157). -/
abbrev ackStatus (p : Pkt) : Nat := beAt p.b 0x18 1

/-- RETRY_US of an answer, in ns. -/
abbrev ackRetry (p : Pkt) : Nat := beAt p.b 0x1C 4 * 1000

/-- BYTES of an answer. -/
abbrev ackBytes (p : Pkt) : Nat := beAt p.b 0x28 4

/-- A NAK of an open message is counted. -/
abbrev nakCounted (x : State) : State := countStat x (ehtStat 8) 1

theorem takeAck_unmatched (h : openMsg x p = none) : takeAck x p = unmatched x p := by simp only [takeAck, h]

/-- ACK closes a message, but a READ waits for its response (R170, R184). -/
theorem takeAck_of_ack (h : openMsg x p = some (k, m)) (hst : ackStatus p = 0) : takeAck x p =
    if m.op = 3 then x.onOut k { m with acked := true } else finishMsg x k 0 (ackBytes p) (ackResult m p) := by
  simp [takeAck, h, hst, ehtAck, nakNoCredit, nakRetry, nakFrozen]

/-- A status that asks for no repetition is final: it closes the message. -/
theorem takeAck_of_final (h : openMsg x p = some (k, m)) (h0 : ackStatus p ≠ 0) (hn : ackStatus p ≠ nakNoCredit)
    (hr : ¬ (ackStatus p = nakRetry ∨ ackStatus p = nakFrozen)) :
    takeAck x p = finishMsg (nakCounted x) k (ackStatus p) (ackBytes p) (ackResult m p) := by
  have h3 : ¬ (ackStatus p = ehtAck ∧ m.op = 3) := fun hc => h0 hc.1
  simp only [takeAck, h]
  rw [if_neg h3, if_neg hn, if_neg hr, if_neg (show ackStatus p ≠ ehtAck from h0)]

/-- A retry status is none of the others. -/
theorem ackStatus_ne_of_retry (hr : ackStatus p = nakRetry ∨ ackStatus p = nakFrozen) :
    ackStatus p ≠ ehtAck ∧ ackStatus p ≠ nakNoCredit := by
  rcases hr with hr | hr <;> rw [hr] <;> decide

/-- A message that waits is sent again after RETRY_US, or at its RTO if that comes first. -/
theorem takeAck_of_retry_wait (h : openMsg x p = some (k, m)) (hr : ackStatus p = nakRetry ∨ ackStatus p = nakFrozen)
    (hm : m.state = .wait rto w) : takeAck x p =
      (nakCounted x).onOut k { m with state := .wait rto (some (min rto ((nakCounted x).clk.up + ackRetry p))) } := by
  obtain ⟨h0, hn⟩ := ackStatus_ne_of_retry hr
  have h3 : ¬ (ackStatus p = ehtAck ∧ m.op = 3) := fun hc => h0 hc.1
  simp only [takeAck, h, hm]
  rw [if_neg h3, if_neg hn, if_pos hr, if_neg h0]

/-- A message that drains is not sent again: the retry status closes it. -/
theorem takeAck_of_retry_drain (h : openMsg x p = some (k, m)) (hr : ackStatus p = nakRetry ∨ ackStatus p = nakFrozen)
    (hm : m.state = .drain) : takeAck x p = finishMsg (nakCounted x) k (ackStatus p) (ackBytes p) [] := by
  obtain ⟨h0, hn⟩ := ackStatus_ne_of_retry hr
  have h3 : ¬ (ackStatus p = ehtAck ∧ m.op = 3) := fun hc => h0 hc.1
  simp only [takeAck, h, hm]
  rw [if_neg h3, if_neg hn, if_pos hr, if_neg h0]

theorem clearGrant_of_book (h : m.book = some b) (s : State) : clearGrant s m = s.onBook b (fun e => { e with grant := none }) := by
  simp only [clearGrant, h]

/-- NAK_NO_CREDIT clears the grant, and a message that waits asks for credit (R170, R177). -/
theorem takeAck_of_no_credit_wait (h : openMsg x p = some (k, m)) (hn : ackStatus p = nakNoCredit) (hb : m.book = some b) (h4 : m.op ≠ 4)
    (hm : m.state = .wait rto w) : takeAck x p = requestCredit ((nakCounted x).onBook b (fun e => { e with grant := none })) k
      { m with next := 0, round := m.round + 1, needCredit := true } := by
  rw [← clearGrant_of_book hb]
  simp [takeAck, h, hm, hn, hb, h4, ehtAck, nakNoCredit]

theorem takeAck_of_no_credit_drain (h : openMsg x p = some (k, m)) (hn : ackStatus p = nakNoCredit) (hb : m.book = some b)
    (hm : m.state = .drain) : takeAck x p =
      finishMsg ((nakCounted x).onBook b (fun e => { e with grant := none })) k (ackStatus p) (ackBytes p) [] := by
  rw [← clearGrant_of_book hb]
  simp [takeAck, h, hm, hn, ehtAck, nakNoCredit]

theorem ackResult_of_atomic (h : m.op = 5) : ackResult m p = slice p.b 0x20 8 := if_pos h

theorem ackResult_of_other (h : m.op ≠ 5) : ackResult m p = [] := if_neg h

end SenderAnswers

/-! ### The receiver's timers (R163, R166, R176, R177, R182) -/

section ReceiverTimers

variable {t at_ : Nat} {s x : State} {m : MsgKey} {c : Ctx} {g b : Word16} {e : Grant} {u : Book} {w : BookGrant} {i : BitVec 20}
  {d : Region}

theorem ends_contextExpiry (hx : x = s.advance t) (hc : ctxOf x m = some c) : Ends (.contextExpiry t m) s
    (if c.made + ehtL x ≤ x.clk.up ∧ ¬ ctxHeld x c.dst = true then
      let y := dropSlot (dropCtx x m) c.dst c.slot
      countErr { y with eht.dedup := y.eht.dedup.filter (fun d => d.key ≠ m) } (ehtErr 8)
    else x) := by
  change execContextExpiry t m s = _
  simp only [execContextExpiry, act_eq, ← hx, hc]

theorem ends_epochAdvance (hx : x = s.advance t) : Ends (.epochAdvance t) s
    (if x.eht.epochAt + ehtL x / 16 ≤ x.clk.up then
      let y := { x with eht.epoch := (x.eht.epoch + 1) % 256, eht.epochAt := x.eht.epochAt + ehtL x / 16 }
      { y with eht.dedup := y.eht.dedup.filter (fun d => !entryDone y d) }
    else x) := by subst hx; rfl

theorem ends_grantExpiry (hx : x = s.advance t) (he : tget? x.eht.grants g.toNat = some e) : Ends (.grantExpiry t g) s
    (if e.expires ≤ x.clk.up then { x with eht.grants := tdel x.eht.grants g.toNat } else x) := by
  change execGrantExpiry t g s = _
  simp only [execGrantExpiry, act_eq, ← hx, he]

theorem ends_senderGrantStop (hx : x = s.advance t) (hu : tget? x.eht.book b.toNat = some u) (hw : u.grant = some w) :
    Ends (.senderGrantStop t b) s
      { x with eht.book := tset x.eht.book b.toNat (if w.stop ≤ x.clk.up then { u with grant := none } else u) } := by
  change execSenderGrantStop t b s = _
  simp only [execSenderGrantStop, act_eq, ← hx, State.onBook, hu, hw]

theorem ends_revokeDone (hx : x = s.advance t) (h : tget? x.eht.revoking i.toNat = some at_) : Ends (.revokeDone t i) s
    (raise (freeRegion x i.toNat) 0x0102 i.toNat (encN 8 ++ encN i.toNat ++ encN 0 ++ encN 0 ++ encN (x.clk.up - at_))) := by
  change execRevokeDone t i s = _
  simp only [execRevokeDone, act_eq, ← hx, h]

theorem ends_restoredRegionFree (hx : x = s.advance t) (hd : tget? x.eht.regions i.toNat = some d) (hf : d.freeAt = some at_) :
    Ends (.restoredRegionFree t i) s (if at_ ≤ x.clk.up ∧ d.state = 2 then freeRegion x i.toNat else x) := by
  change execRestoredRegionFree t i s = _
  simp only [execRestoredRegionFree, act_eq, ← hx, hd, hf]

end ReceiverTimers

/-- Settles O30: each timer by its instant, and each answer by its status and the state of its message. -/
theorem messageTimers : Obligations.MessageTimers := by
  unfold Obligations.MessageTimers
  refine ⟨fun t k s x m hx hm => ⟨fun rto retry hst ha => ?rto, fun rto w hst => ?retry, fun w hst hw => ?creditRetry,
      fun t0 h0 => ?window, fun h0 => ?notSent, rfl, fun p ho => ?answer, fun p ho => takeAck_unmatched ho⟩,
    fun t s x hx => ⟨fun m c hc => ?context, fun h => ends_of_pos (ends_epochAdvance hx) h,
      fun h => ends_of_neg (ends_epochAdvance hx) (Nat.not_le.2 h), fun g e he => ?grant, fun b e g he hg hs => ?senderGrant,
      fun i at_ h => ends_revokeDone hx h, fun i d at_ hd hf h2 hle => ?restored⟩⟩
  case rto =>
    have hrow := ends_rtoExpiry hx hm hst
    exact ⟨fun h => ends_of_pos hrow ⟨h, by simp [ha]⟩, fun h => ends_of_neg hrow (fun hc => Nat.not_le.2 h hc.1)⟩
  case retry =>
    have hrow := ends_retryWaitEnd_of_wait hx hm hst
    exact ⟨fun h => ends_of_pos hrow h, fun h => ends_of_neg hrow (Nat.not_le.2 h)⟩
  case creditRetry => exact ends_of_pos (ends_retryWaitEnd_of_credit hx hm hst) hw
  case window =>
    have hend := ends_sendWindowEnd hx hm h0
    have hout := ends_ehtTimeout hx hm h0
    exact ⟨fun h => ends_of_pos hend h, fun h => ends_of_neg hend (Nat.not_le.2 h), fun h => ends_of_pos hout h,
      fun h => ends_of_neg hout (Nat.not_le.2 h)⟩
  case notSent => exact ⟨ends_sendWindowEnd_of_unsent hx hm h0, ends_ehtTimeout_of_unsent hx hm h0⟩
  case answer =>
    refine ⟨fun h0 h5 => ?ackAtomic, fun h0 h3 h5 => ?ack, fun h0 h3 => ?ackRead, fun hst h5 => ?final, fun rto w hr hw => ?wait,
      fun hr hd => ?drain, fun b hn hb h4 => ?noCredit⟩
    case ackAtomic => rw [takeAck_of_ack ho h0, if_neg (by omega), ackResult_of_atomic h5]
    case ack => rw [takeAck_of_ack ho h0, if_neg h3, ackResult_of_other h5]
    case ackRead => rw [takeAck_of_ack ho h0, if_pos h3]
    case final =>
      have hkind : ∀ st ∈ [0x20, 0x21, 0x22, 0x23, 0x30, 0x32, 0x50],
          st ≠ 0 ∧ st ≠ nakNoCredit ∧ ¬ (st = nakRetry ∨ st = nakFrozen) := by decide
      obtain ⟨h0, hn, hr⟩ := hkind _ hst
      rw [takeAck_of_final ho h0 hn hr, ackResult_of_other h5]
    case wait => exact takeAck_of_retry_wait ho hr hw
    case drain => exact takeAck_of_retry_drain ho hr hd
    case noCredit => exact ⟨fun rto w hw => takeAck_of_no_credit_wait ho hn hb h4 hw, takeAck_of_no_credit_drain ho hn hb⟩
  case context =>
    have hrow := ends_contextExpiry hx hc
    exact ⟨fun h hh => ends_of_pos hrow ⟨h, by simp [hh]⟩, fun h => ends_of_neg hrow (fun hc => Nat.not_le.2 h hc.1)⟩
  case grant =>
    have hrow := ends_grantExpiry hx he
    exact ⟨fun h => ends_of_pos hrow h, fun h => ends_of_neg hrow (Nat.not_le.2 h)⟩
  case senderGrant =>
    have hrow := ends_senderGrantStop hx he hg
    rwa [if_pos hs] at hrow
  case restored => exact ends_of_pos (ends_restoredRegionFree hx hd hf) ⟨hle, h2⟩

end Sys2Proof.Machine

/-! Facts that the proofs on storage share: what a queue and a drive read after an update, and a command's first two checks. -/

namespace Sys2Proof.Machine

/-! ### The first two checks of a command -/

theorem not_misSized {r : Req} {n : Nat} (h : r.body.length = n) : ¬ (!bodyIs r n) = true := by simp [bodyIs, h]

theorem not_missingTf {x : State} {tf : Nat} (h : tfExists x tf = true) : ¬ (!tfExists x tf) = true := by simp [h]

/-! ### What a storage queue reads after an update -/

section QueueReads

variable {s z : State} {k : Nat} {f : StoQueue → StoQueue}

theorem sq?_onSq (s : State) (k : Nat) (f : StoQueue → StoQueue) : (s.onSq k f).sq? k = (s.sq? k).map f := by
  unfold State.onSq
  cases h : s.sq? k with
  | none => simp [h]
  | some q => simp [State.sq?, tget?_tset]

theorem sq?_onSq_of_queue {q : StoQueue} (h : s.sq? k = some q) : (s.onSq k f).sq? k = some (f q) := by rw [sq?_onSq, h]; rfl

theorem LogsOnly.sto (h : LogsOnly s z) : z.sto = s.sto := by rw [h.eq]
theorem LogsOnly.tfs (h : LogsOnly s z) : z.tfs = s.tfs := by rw [h.eq]

theorem sq?_countStat (s : State) (a n k : Nat) : (countStat s a n).sq? k = s.sq? k := by
  rw [State.sq?, (countStat_logsOnly s a n).sto]
  rfl

theorem tf_countStat (s : State) (a n tf : Nat) : (countStat s a n).tf tf = s.tf tf := by
  rw [State.tf, (countStat_logsOnly s a n).tfs]
  rfl

theorem tf_onSq (s : State) (k tf : Nat) (f : StoQueue → StoQueue) : (s.onSq k f).tf tf = s.tf tf := by
  rw [State.tf, onSq_tfs]
  rfl

end QueueReads

/-! ### A drive changed twice -/

section OneDrive

variable {s : State} {rp : Nat} {f g : Drive → Drive}

theorem tset_tset {α : Type} (l : Tab α) (k : Nat) (v w : α) : tset (tset l k v) k w = tset l k w := by
  induction l with
  | nil => simp [tset]
  | cons p l ih =>
    by_cases hlt : p.1 < k
    · simp [tset, hlt, ih]
    · by_cases heq : p.1 = k <;> simp [tset, hlt, heq]

theorem onDrive_onDrive : (s.onDrive rp f).onDrive rp g = s.onDrive rp (g ∘ f) := by
  simp only [State.onDrive, tmod, tget_tset_self, tset_tset, Function.comp]

/-- The admin commands of step 3 ask the drive nothing else (R213). -/
theorem startStep_configure (x : State) (rp : Nat) :
    startStep x rp 3 = x.onDrive rp (fun d => { d with step := 3, admin := [.configure], aer := false }) := rfl

end OneDrive

end Sys2Proof.Machine

/-! Proofs of the statement on the drive and namespace commands (R219). -/

namespace Sys2Proof.Machine

/-! ### The drive commands -/

section DriveCommands

variable {x : State} {r : Req}

/-- Link rate and width as STO_DRIVE_STATUS shows them: both 0 without a link (R212). -/
abbrev linkShown (d : Drive) (rate width : Nat) : List Nat := if d.st = .absent then [0, 0] else [rate + 1, 2 ^ width]

theorem driveStatusCmd_of_port (hb : r.body.length = 8) (hp : num r 0 < rootPorts x) : driveStatusCmd x r =
    let d := x.drive (num r 0)
    let rate := x.draw (linkRates x (num r 0))
    let width := rate.2.draw (Nat.log2 (driveLanes x) + 1)
    let smart := width.2.draw (2 ^ 64)
    { st := smart.2
      out := encNs ([d.st.code] ++ linkShown d rate.1 width.1 ++ [d.lastResult]) ++ Config.driveIdentity d.serial
        ++ Config.driveSmart d.serial smart.1 } := by
  rw [driveStatusCmd, if_neg (not_misSized hb), if_neg (Nat.not_le.2 hp)]
  by_cases h : (x.drive (num r 0)).st = .absent <;> simp [gives, linkShown, h]

theorem driveStatusCmd_no_port (hb : r.body.length = 8) (hp : rootPorts x ≤ num r 0) :
    driveStatusCmd x r = { st := x, status := mbxInvalid, arg := 1 } := by
  rw [driveStatusCmd, if_neg (not_misSized hb), if_pos hp]
  rfl

theorem selftestCmd_no_port (hb : r.body.length = 16) (hp : rootPorts x ≤ num r 0) :
    selftestCmd x r = { st := x, status := mbxInvalid, arg := 1 } := by
  rw [selftestCmd, if_neg (not_misSized hb), if_pos hp]
  rfl

/-- A self-test starts on a drive that is ONLINE and runs none. -/
theorem selftestCmd_of_port (hb : r.body.length = 16) (hp : num r 0 < rootPorts x) (h1 : num r 1 < 2) : selftestCmd x r =
    if (x.drive (num r 0)).st ≠ .online then { st := x, status := mbxState }
    else if (x.drive (num r 0)).test.isSome then { st := x, status := mbxBusy }
    else { st := startTest x (num r 0) (num r 1 == 1) } := by
  rw [selftestCmd, if_neg (not_misSized hb), if_neg (Nat.not_le.2 hp), if_neg (Nat.not_le.2 h1)]
  rfl

/-- An image goes to a drive that is ONLINE, in no use, and has none under way. -/
theorem driveFwCmd_of_port (hb : 8 < r.body.length) (hp : num r 0 < rootPorts x) : driveFwCmd x r =
    if (x.drive (num r 0)).fw = true then { st := x, status := mbxBusy }
    else if (x.drive (num r 0)).st ≠ .online ∨ driveInUse x (num r 0) = true then { st := x, status := mbxState }
    else { st := x.onDrive (num r 0) (fun d => { d with fw := true }) } := by
  rw [driveFwCmd, if_neg (Nat.not_le.2 hb), if_neg (Nat.not_le.2 hp)]
  rfl

end DriveCommands

/-! ### The namespace command -/

section NamespaceCommand

variable {x : State} {r : Req} {v : Nat}

/-- Every drive of a namespace and of its journal is ONLINE. -/
abbrev nsReady (x : State) (v : Nat) : Prop :=
  (∀ e ∈ nsExtents x v, (x.drive e.rp).st = .online)
    ∧ ∀ j e, nsJournal x v = some j → journalCfg x j = some e → (x.drive e.rp).st = .online

/-- The root ports of those drives. -/
abbrev nsDrives (x : State) (v : Nat) : List Nat :=
  (nsExtents x v).map Extent.rp ++ ((nsJournal x v).bind (journalCfg x)).toList.map Extent.rp

theorem nsReady_iff : nsReady x v ↔ ¬ (nsDrives x v).any (fun rp => (x.drive rp).st != .online) = true := by
  simp only [List.any_eq_true, List.mem_append, List.mem_map, Option.mem_toList, Option.bind_eq_some_iff, bne_iff_ne]
  constructor
  · rintro ⟨hext, hjournal⟩ ⟨-, ⟨e, he, rfl⟩ | ⟨e, ⟨j, hj, he⟩, rfl⟩, hst⟩
    · exact hst (hext e he)
    · exact hst (hjournal j e hj he)
  · intro h
    exact ⟨fun e he => by_contra fun hst => h ⟨_, .inl ⟨e, he, rfl⟩, hst⟩,
      fun j e hj he => by_contra fun hst => h ⟨_, .inr ⟨e, ⟨j, hj, he⟩, rfl⟩, hst⟩⟩

theorem nsOnlineCmd_not_ready (hb : r.body.length = 8) (he : nsExtents x (num r 0) ≠ []) (h : ¬ nsReady x (num r 0)) :
    nsOnlineCmd x r = { st := x, status := mbxState } := by
  rw [nsReady_iff, not_not] at h
  rw [nsOnlineCmd, if_neg (not_misSized hb), if_neg (by simpa using he), if_pos h]
  rfl

/-- STO_NS_ONLINE puts an unusable journal in use anew, unless it is being replayed. -/
theorem nsOnlineCmd_of_ready (hb : r.body.length = 8) (he : nsExtents x (num r 0) ≠ []) (h : nsReady x (num r 0)) :
    nsOnlineCmd x r = { st := (nsJournal x (num r 0)).elim x fun j =>
      if (x.journal j).usable = true ∨ (x.journal j).replay = true then x else freshJournal x j } := by
  rw [nsOnlineCmd, if_neg (not_misSized hb), if_neg (by simpa using he), if_neg (nsReady_iff.1 h)]
  cases nsJournal x (num r 0) with
  | none => rfl
  | some j =>
    simp only [Bool.or_eq_true, Option.elim_some]
    split <;> rfl

end NamespaceCommand

/-- Settles O37: each command by the state of the drive that it names, or of the drives behind a namespace. -/
theorem driveCommands : Obligations.DriveCommands := by
  unfold Obligations.DriveCommands
  intro t s x r slot p d
  refine ⟨fun hp => ⟨fun hx hb => ?status, fun hx hb h1 => ?selftest, fun hx hb => ?firmware⟩,
    fun hp => ?noPort, fun hx hb he => ?online⟩
  case status => exact answers_of_result rfl hx (driveStatusCmd_of_port hb hp)
  case selftest =>
    have hcmd := selftestCmd_of_port hb hp h1
    refine ⟨fun hst => answers_of_result rfl hx (hcmd.trans (if_pos hst)), fun hst ht => ?_, fun hst ht => ?_⟩ <;>
      refine answers_of_result rfl hx (hcmd.trans ((if_neg (not_not.2 hst)).trans ?_))
    · exact if_pos ht
    · exact if_neg (Option.not_isSome_iff_eq_none.2 ht)
  case firmware =>
    have hcmd := driveFwCmd_of_port hb hp
    refine ⟨fun hf => answers_of_result rfl hx (hcmd.trans (if_pos hf)), fun hf hno => ?_, fun hf hst hu => ?_⟩ <;>
      refine answers_of_result rfl hx (hcmd.trans ((if_neg (Bool.eq_false_iff.1 hf)).trans ?_))
    · exact if_pos hno
    · exact if_neg (not_or.2 ⟨not_not.2 hst, Bool.eq_false_iff.1 hu⟩)
  case noPort =>
    refine List.forall_mem_cons.2 ⟨fun hx hb => ?_, List.forall_mem_singleton.2 fun hx hb => ?_⟩
    · exact answers_of_result rfl hx (driveStatusCmd_no_port hb hp)
    · exact answers_of_result rfl hx (selftestCmd_no_port hb hp)
  case online =>
    intro ready
    refine ⟨fun hno => answers_of_result rfl hx (nsOnlineCmd_not_ready hb he hno), fun j hr hj hu hrep => ?_, fun hr hj => ?_⟩ <;>
      refine answers_of_result rfl hx ((nsOnlineCmd_of_ready hb he hr).trans (congrArg (Res.mk · 0 0 0 []) ?_))
    · refine (congrArg (Option.elim · _ _) hj).trans (if_neg ?_)
      exact not_or.2 ⟨Bool.eq_false_iff.1 hu, Bool.eq_false_iff.1 hrep⟩
    · rcases hj with hj | ⟨j, hj, hu⟩
      · exact congrArg (Option.elim · _ _) hj
      · exact (congrArg (Option.elim · _ _) hj).trans (if_pos hu)

end Sys2Proof.Machine

/-! Proofs of the statement on the endpoints and storage queues of a tenant function (R29, R192, R209, R227, R228). -/

namespace Sys2Proof.Machine

/-! ### An endpoint made (R227) -/

section Endpoints

variable {x : State} {r : Req} {e : Endpoint} {n eid size tf key len : Nat} {d : Region}

/-- `n` is the lowest endpoint slot that no endpoint has. -/
abbrev slotFree (x : State) (n : Nat) : Prop :=
  n < 16384 ∧ (∀ p ∈ x.eht.eps, p.2.slotNo ≠ n) ∧ ∀ m, m < n → ∃ p ∈ x.eht.eps, p.2.slotNo = m

theorem freeEpSlot_of_slotFree (h : slotFree x n) : freeEpSlot x = some n := by
  obtain ⟨hlt, hfree, hbelow⟩ := h
  refine List.find?_range_eq_some.2 ⟨by simpa using hfree, List.mem_range.2 hlt, fun m hm => ?_⟩
  obtain ⟨p, hp, rfl⟩ := hbelow m hm
  simpa using ⟨p.1, p.2, hp, rfl⟩

/-- The state with an endpoint in slot `n`, and the slot's generation, which rises and names it. -/
def endpointIn (x : State) (eid : Nat) (e : Endpoint) (n : Nat) : State × Nat :=
  let g := (tget x.eht.epGens n 0 + 1) % 65536
  ({ x with eht.eps := tset x.eht.eps eid { e with gen := g, slotNo := n }
            eht.epGens := tset x.eht.epGens n g
            fence.told := x.fence.told.filter (· ≠ .endpoint eid) }, g)

theorem makeEndpoint_of_slotFree (h : slotFree x n) : makeEndpoint x eid e = some (endpointIn x eid e n) := by
  unfold makeEndpoint
  rw [freeEpSlot_of_slotFree h]
  rfl

theorem slotSizeOk_iff : slotSizeOk size = true ↔ ∃ k, k < 13 ∧ size = 4096 * 2 ^ k := by
  simp only [slotSizeOk, List.any_eq_true, List.mem_range, beq_iff_eq]

theorem ringOk_of_key (h : lookupKey x key = .inl d) (ht : d.tf = tf) (hl : len ≤ d.len) : ringOk x tf key len = true := by
  simp [ringOk, h, ht, hl]

/-- The parameters of TF_EP_CREATE are in range: a free EID, a channel of the tenant function that can hold the messages, a ring
of a size of R147 in a region of its own. -/
abbrev epArgsOk (x : State) (r : Req) : Prop :=
  eidTaken x (num r 1) = false ∧ num r 2 < 12288 ∧ chanOwner x (num r 2) = num r 0 ∧ 4 * num r 5 ≤ chanCap x (num r 2)
    ∧ (∃ k, k < 13 ∧ num r 4 = 4096 * 2 ^ k) ∧ 1 ≤ num r 5 ∧ num r 5 ≤ 65536
    ∧ ∃ d, lookupKey x (num r 3) = .inl d ∧ d.tf = num r 0 ∧ num r 4 * num r 5 ≤ d.len

/-- The endpoint that TF_EP_CREATE spells. -/
abbrev epOf (r : Req) : Endpoint :=
  { gen := 0, tf := num r 0, channel := some (num r 2), sq := none, ringKey := num r 3, slotSize := num r 4, slotCount := num r 5 }

theorem epCreateCmd_of_args (hb : r.body.length = 48) (htf : tfExists x (num r 0) = true) (h : epArgsOk x r) : epCreateCmd x r =
    if epQuota x (num r 0) ≤ (tfEndpoints x (num r 0)).length then { st := x, status := mbxNospace }
    else (makeEndpoint x (num r 1) (epOf r)).elim { st := x, status := mbxNospace } fun p => { st := p.1, out := encN p.2 } := by
  obtain ⟨heid, hchan, howner, hcap, hsize, hmin, hmax, d, hkey, hd, hlen⟩ := h
  have hring : ¬ (!ringOk x (num r 0) (num r 3) (num r 4 * num r 5)) = true := by simp [ringOk_of_key hkey hd hlen]
  rw [epCreateCmd, if_neg (not_misSized hb), if_neg (not_missingTf htf), if_neg (Bool.eq_false_iff.1 heid),
    if_neg (not_not.2 ⟨hchan, howner, hcap⟩), if_neg (by simp [slotSizeOk_iff.2 hsize]), if_neg (by omega), if_neg hring]
  refine if_congr Iff.rfl rfl ?_
  cases makeEndpoint x (num r 1) (epOf r) <;> rfl

theorem epCreateCmd_of_taken (hb : r.body.length = 48) (htf : tfExists x (num r 0) = true) (h : eidTaken x (num r 1) = true) :
    epCreateCmd x r = { st := x, status := mbxInvalid, arg := 2 } := by
  rw [epCreateCmd, if_neg (not_misSized hb), if_neg (not_missingTf htf), if_pos h]
  rfl

/-- TF_EP_DESTROY begins the quiesce of an endpoint of the tenant function on a channel, unless one runs (R29). -/
theorem epDestroyCmd_of_endpoint (hb : r.body.length = 16) (htf : tfExists x (num r 0) = true) (he : tget? x.eht.eps (num r 1) = some e)
    (ht : e.tf = num r 0) (hc : e.channel.isSome = true) : epDestroyCmd x r =
      if x.quiescing (.endpoint (BitVec.ofNat 32 (num r 1))) = true then { st := x, status := mbxState }
      else { st := qStart x (.endpoint (BitVec.ofNat 32 (num r 1))) qKindEp 0 0 false true } := by
  have hown : ¬ (e.tf ≠ num r 0 ∨ e.channel = none) :=
    not_or.2 ⟨not_not.2 ht, fun h0 => by simp [h0] at hc⟩
  simp only [epDestroyCmd]
  rw [if_neg (not_misSized hb), if_neg (not_missingTf htf), he]
  exact if_neg hown

end Endpoints

/-! ### A storage queue made, resized, enabled and destroyed (R192, R209, R228) -/

section Queues

variable {x : State} {r : Req} {q : StoQueue}

/-- The quotas of a tenant function leave room for a queue of a depth. -/
abbrev sqRoom (x : State) (tf depth : Nat) : Prop :=
  (tfQueues x tf).length < sqQuota x tf ∧ depthUse x tf 64 + depth ≤ depthQuota x tf ∧ (tfEndpoints x tf).length < epQuota x tf

/-- The endpoint of the queue that TF_SQ_CREATE spells. -/
abbrev sqEpOf (r : Req) (i : SqItems) : Endpoint :=
  { gen := 0, tf := num r 0, channel := none, sq := some (num r 1), ringKey := 0, slotSize := sqSlotSize (i.inline == 1), slotCount := i.depth }

/-- The queue that TF_SQ_CREATE spells. -/
abbrev sqOf (r : Req) (i : SqItems) : StoQueue :=
  { eid := num r 2, depth := i.depth, cls := i.cls, book := i.book, inline := i.inline == 1, coCount := i.coCount, coTime := i.coTime }

theorem sqCreateCmd_of_items (hb : r.body.length = 72) (htf : tfExists x (num r 0) = true) (h1 : num r 1 < 64)
    (heid : eidTaken x (num r 2) = false) (hi : sqItemsBad x (num r 0) (sqItems r 3) 3 = none) : sqCreateCmd x r =
      if (x.sq? (sqKey (num r 0) (num r 1))).isSome = true then { st := x, status := mbxState }
      else if ¬ sqRoom x (num r 0) (sqItems r 3).depth then { st := x, status := mbxNospace }
      else (makeEndpoint x (num r 2) (sqEpOf r (sqItems r 3))).elim { st := x, status := mbxNospace } fun p =>
        { st := { p.1 with sto.queues := tset p.1.sto.queues (sqKey (num r 0) (num r 1)) (sqOf r (sqItems r 3)) }, out := encN p.2 } := by
  simp only [sqCreateCmd]
  rw [if_neg (not_misSized hb), if_neg (not_missingTf htf), if_neg (Nat.not_le.2 h1), if_neg (Bool.eq_false_iff.1 heid), hi]
  refine if_congr Iff.rfl rfl (if_congr (by omega) rfl ?_)
  cases makeEndpoint x (num r 2) (sqEpOf r (sqItems r 3)) <;> rfl

theorem sqNamed_of_queue (htf : tfExists x (num r 0) = true) (h1 : num r 1 < 64) (hq : x.sq? (sqKey (num r 0) (num r 1)) = some q) :
    sqNamed x r = .inr q := by
  rw [sqNamed, if_neg (not_missingTf htf), if_neg (Nat.not_le.2 h1), hq]

/-- A resize that R228 allows: of a DISABLED queue any, else one that takes nothing away and keeps inline data and book index. -/
abbrev mayResize (q : StoQueue) (i : SqItems) : Prop :=
  q.st ≠ .quiescing ∧ (q.st = .disabled ∨ (q.depth ≤ i.depth ∧ (i.inline == 1) = q.inline ∧ i.book = q.book))

theorem not_mayResize_iff {i : SqItems} : ¬ mayResize q i ↔
    q.st = .quiescing ∨ (q.st ≠ .disabled ∧ (i.depth < q.depth ∨ (i.inline == 1) ≠ q.inline ∨ i.book ≠ q.book)) := by
  simp only [mayResize, not_and_or, not_or, not_not, Nat.not_le]

/-- The ring of an endpoint that follows its queue's items. -/
def ringResized (y : State) (eid : Nat) (i : SqItems) : State :=
  match tget? y.eht.eps eid with
  | some e => { y with eht.eps := tset y.eht.eps eid { e with slotCount := i.depth, slotSize := sqSlotSize (i.inline == 1) } }
  | none => y

theorem sqResizeCmd_of_queue (hb : r.body.length = 64) (hq : sqNamed x r = .inr q)
    (hi : sqItemsBad x (num r 0) (sqItems r 2) 2 = none) : sqResizeCmd x r =
      if ¬ mayResize q (sqItems r 2) then { st := x, status := mbxState }
      else if depthQuota x (num r 0) < depthUse x (num r 0) (num r 1) + (sqItems r 2).depth then { st := x, status := mbxNospace }
      else
        let i := sqItems r 2
        { st := ringResized (x.onSq (sqKey (num r 0) (num r 1)) fun q =>
            { q with depth := i.depth, cls := i.cls, book := i.book, inline := i.inline == 1, coCount := i.coCount, coTime := i.coTime })
            q.eid i } := by
  simp only [sqResizeCmd]
  rw [if_neg (not_misSized hb), hq]
  dsimp only
  rw [hi]
  exact if_congr not_mayResize_iff.symm rfl (if_congr Iff.rfl rfl rfl)

/-- A command for a DISABLED queue: what it does where its own condition holds, and MBX_E_STATE otherwise. -/
theorem sqDisabledCmd_of_queue {ok : State → StoQueue → Bool} {f : State → Nat → StoQueue → State} (hb : r.body.length = 16)
    (hq : sqNamed x r = .inr q) : sqDisabledCmd ok f x r =
      if q.st = .disabled ∧ ok x q = true then { st := f x (sqKey (num r 0) (num r 1)) q } else { st := x, status := mbxState } := by
  rw [sqDisabledCmd, if_neg (not_misSized hb), hq]
  exact if_congr (by simp) rfl rfl

end Queues

/-- Settles O33: each command by the parameters and quotas that it checks, or by the state of the queue that it names. -/
theorem tenantObjects : Obligations.TenantObjects := by
  unfold Obligations.TenantObjects
  intro t s x r slot htf tf made free
  refine ⟨fun hx hb => ?epCreate, fun e hx hb he ht hc => ?epDestroy, fun hx hb h1 heid hi => ?sqCreate, fun k => rfl,
    fun q h1 hq => ?queue⟩
  case epCreate =>
    refine ⟨fun n hok hquota hfree => ?_, fun hok hfull => ?_, fun h => answers_of_result rfl hx (epCreateCmd_of_taken hb htf h)⟩
    · refine answers_of_result rfl hx ((epCreateCmd_of_args hb htf hok).trans ((if_neg (Nat.not_le.2 hquota)).trans ?_))
      rw [makeEndpoint_of_slotFree hfree]
      rfl
    · exact answers_of_result rfl hx ((epCreateCmd_of_args hb htf hok).trans (if_pos hfull))
  case epDestroy =>
    have hcmd := epDestroyCmd_of_endpoint hb htf he ht hc
    exact ⟨fun h => answers_of_result rfl hx (hcmd.trans (if_pos h)),
      fun h => answers_of_result rfl hx (hcmd.trans (if_neg (Bool.eq_false_iff.1 h)))⟩
  case sqCreate =>
    have hcmd := sqCreateCmd_of_items hb htf h1 heid hi
    have hnew : x.sq? (sqKey tf (num r 1)) = none → ¬ (x.sq? (sqKey tf (num r 1))).isSome = true := Option.not_isSome_iff_eq_none.2
    refine ⟨fun h => answers_of_result rfl hx (hcmd.trans (if_pos h)), fun h hroom => ?_, fun n h hroom hfree => ?_⟩
    · exact answers_of_result rfl hx (hcmd.trans ((if_neg (hnew h)).trans (if_pos hroom)))
    · refine answers_of_result rfl hx (hcmd.trans ((if_neg (hnew h)).trans ((if_neg (not_not.2 hroom)).trans ?_)))
      rw [makeEndpoint_of_slotFree hfree]
      rfl
  case queue =>
    intro k
    refine ⟨fun hx hb hi => ?resize, fun hx hb => ?enable, fun hx hb => ?destroy⟩
    case resize =>
      have hcmd := sqResizeCmd_of_queue hb (sqNamed_of_queue htf h1 hq) hi
      refine ⟨fun hno => answers_of_result rfl hx (hcmd.trans (if_pos hno)), fun hmay hfull => ?_, fun hmay hroom => ?_⟩ <;>
        refine answers_of_result rfl hx (hcmd.trans ((if_neg (not_not.2 hmay)).trans ?_))
      · exact if_pos hfull
      · exact if_neg (Nat.not_lt.2 hroom)
    case enable =>
      have hcmd := sqDisabledCmd_of_queue (ok := mayEnable) (f := enableSq) hb (sqNamed_of_queue htf h1 hq)
      refine ⟨fun hst hrep => answers_of_result rfl hx (hcmd.trans (if_pos ⟨hst, by simp [mayEnable, hrep]⟩)), fun hno => ?_⟩
      refine answers_of_result rfl hx (hcmd.trans (if_neg ?_))
      rintro ⟨hst, hok⟩
      rcases hno with hno | hno
      · exact hno hst
      · simp [mayEnable, hno] at hok
    case destroy =>
      have hcmd := sqDisabledCmd_of_queue (ok := mayDestroy) (f := destroySq) hb (sqNamed_of_queue htf h1 hq)
      intro ep
      refine ⟨fun hst hq => answers_of_result rfl hx (hcmd.trans (if_pos ⟨hst, congrArg (! ·) hq⟩)), fun hno => ?_⟩
      refine answers_of_result rfl hx (hcmd.trans (if_neg ?_))
      rintro ⟨hst, hok⟩
      rcases hno with hno | hno
      · exact hno hst
      · exact Bool.noConfusion (hok.symm.trans (congrArg (! ·) hno))

end Sys2Proof.Machine

/-! Proofs of the statement on what happens at a drive (R195, R207, R209, R213 to R216, R219). -/

namespace Sys2Proof.Machine

/-! ### What a drive answers to a command (R203, R214) -/

section Completions

variable {x : State} {p : Nat} {a : NvmeDone} {c : NvmeCmd}

/-- The status of a command that its drive has ended (R197). -/
def nvmeStatus (a : NvmeDone) : Nat := if a.aborted then stoAborted else if a.status = 0 then stoOk else if a.media then stoMedia else stoDrive

theorem nvmeComplete_unknown (h : tget? (x.drive p).cmds a.cid = none) : nvmeComplete x p a = x := by simp only [nvmeComplete, h]

theorem nvmeComplete_abortOnly (h : tget? (x.drive p).cmds a.cid = some c) (ha : a.abortOnly = true) : nvmeComplete x p a =
    x.onDrive p (fun z => { z with cmds := tset z.cmds a.cid { c with abortAt := none } }) := by
  simp only [nvmeComplete, h, ha, if_true]

theorem ends_nvmeCompletion {t : Nat} {s y : State} {rp : Fin 16} (hx : x = s.advance t) (h : nvmeComplete x rp.val a = y) :
    Ends (.nvmeCompletion t rp a) s y :=
  ends_of_act (nvmeComplete · rp.val a) rfl hx h

/-- The command leaves the drive, and what it is for takes its end. -/
theorem nvmeComplete_of_end (h : tget? (x.drive p).cmds a.cid = some c) (ha : a.abortOnly = false) : nvmeComplete x p a =
    let y := x.onDrive p (fun z => { z with cmds := tdel z.cmds a.cid })
    nvmeEnd y p c { status := nvmeStatus a, nvme := if nvmeStatus a = stoOk then 0 else a.status.toNat
                    info := if nvmeStatus a = stoMedia then failingLba y c p a.failLba.toNat else 0
                    data := if nvmeStatus a = stoOk ∧ c.op = 2 then padTo (c.blocks * 4096) a.data else [] } := by
  simp only [nvmeComplete, h, ha, Bool.false_eq_true, if_false]
  rfl

theorem nvmeStatus_aborted (h : a.aborted = true) : nvmeStatus a = stoAborted := if_pos h

theorem nvmeStatus_ok (h : a.aborted = false) (h0 : a.status = 0) : nvmeStatus a = stoOk := by
  rw [nvmeStatus, if_neg (Bool.eq_false_iff.1 h), if_pos h0]

theorem nvmeStatus_drive (h : a.aborted = false) (h0 : a.status ≠ 0) (hm : a.media = false) : nvmeStatus a = stoDrive := by
  rw [nvmeStatus, if_neg (Bool.eq_false_iff.1 h), if_neg h0, if_neg (Bool.eq_false_iff.1 hm)]

theorem nvmeStatus_media (h : a.aborted = false) (h0 : a.status ≠ 0) (hm : a.media = true) : nvmeStatus a = stoMedia := by
  rw [nvmeStatus, if_neg (Bool.eq_false_iff.1 h), if_neg h0, if_pos hm]

end Completions

/-! ### Timeouts, the checkpoint and the replay of a journal (R195, R207, R209, R214) -/

section Timeouts

variable {t cid : Nat} {s x : State} {rp j : Fin 16} {tf : BitVec 12} {n : Fin 64} {q : StoQueue} {e : CoEnt} {rest : List CoEnt} {c : NvmeCmd}

theorem ends_coalesceTimeout (hx : x = s.advance t) (hq : x.sq? (sqKey tf.toNat n.val) = some q) (hc : q.coal = e :: rest) :
    Ends (.coalesceTimeout t tf n) s (if e.at_ + q.coTime ≤ x.clk.up then sendCoal x (sqKey tf.toNat n.val) else x) := by
  change execCoalesceTimeout t tf n s = _
  simp only [execCoalesceTimeout, act_eq, ← hx, hq, hc]

theorem ends_coalesceTimeout_of_nil (hx : x = s.advance t) (hq : x.sq? (sqKey tf.toNat n.val) = some q) (hc : q.coal = []) :
    Ends (.coalesceTimeout t tf n) s x := by
  change execCoalesceTimeout t tf n s = _
  simp only [execCoalesceTimeout, act_eq, ← hx, hq, hc]

theorem ends_journalCheckpoint (hx : x = s.advance t) : Ends (.journalCheckpoint t j) s
    (if (x.journal j.val).usable = true ∧ (x.journal j.val).retired = true ∧ (x.journal j.val).ckAt + 1000000 ≤ x.clk.up then
      pumpWaiters j.val 65536 (checkpoint x j.val) else x) := by
  subst hx
  rfl

theorem ends_driveTimeout (hx : x = s.advance t) (hc : tget? (x.drive rp.val).cmds cid = some c) : Ends (.driveTimeout t rp cid) s
    (if c.timedOut = none ∧ c.start + driveTimeout x rp.val ≤ x.clk.up then
      countErr (x.onDrive rp.val (fun d =>
        { d with cmds := tset d.cmds cid { c with abortAt := some x.clk.up, timedOut := some x.clk.up } })) (stoErr 1)
    else x) := by
  change execDriveTimeout t rp cid s = _
  simp only [execDriveTimeout, act_eq, ← hx, hc, Option.isNone_iff_eq_none]

theorem NvmeCmd.abortLate_iff {now : Nat} :
    c.abortLate now = true ↔ c.abortAt.isSome = true ∧ ∃ a, c.timedOut = some a ∧ a + nsPerSec ≤ now := by
  rw [NvmeCmd.abortLate, Bool.and_eq_true]
  cases c.timedOut <;> simp

theorem ends_abortTimeout (hx : x = s.advance t) : Ends (.abortTimeout t rp) s
    (if (x.drive rp.val).cmds.any (fun c => c.2.abortLate x.clk.up) = true then resetDrive x rp.val else x) := by
  subst hx
  rfl

end Timeouts

section Replay

variable {t n j : Nat} {s x : State} {e : Extent}

theorem replayOver_eq_some_iff : replayOver x j = some n ↔
    (∃ z, (x.journal j).scan = some z ∧ z.found = some n) ∧ homeGoing x j = false ∧ replayTurn x j [] (x.journal j).recs = none := by
  cases h : (x.journal j).scan with
  | none => simp [replayOver, h]
  | some z => simp [replayOver, h, and_comm]

theorem journalLost_eq_none_iff (h : journalCfg x j = some e) : journalLost x j = none ↔ (x.drive e.rp).st = .online := by
  simp [journalLost, h]

/-- The replay of a journal at `e` has nothing left to do: `n` records were found, and what can be written home is. -/
abbrev replayEnded (x : State) (j : Nat) (e : Extent) (n : Nat) : Prop :=
  (x.journal j).replay = true ∧ (x.drive e.rp).st = .online ∧ (∃ z, (x.journal j).scan = some z ∧ z.found = some n)
    ∧ homeGoing x j = false ∧ replayTurn x j [] (x.journal j).recs = none

theorem replayEnded_iff (h : journalCfg x j = some e) :
    replayEnded x j e n ↔ replayOver x j = some n ∧ (x.journal j).replay = true ∧ journalLost x j = none := by
  rw [replayOver_eq_some_iff, journalLost_eq_none_iff h]
  tauto

theorem ends_replayDone {j : Fin 16} (hx : x = s.advance t) : Ends (.replayDone t j) s
    ((replayOver x j.val).elim x fun n =>
      if (x.journal j.val).replay = true ∧ journalLost x j.val = none then replayEnd x j.val n else x) := by
  change execReplayDone t j s = _
  simp only [execReplayDone, act_eq, ← hx]
  cases replayOver x j.val <;> rfl

theorem ends_replayDone_of_ended {j : Fin 16} (hx : x = s.advance t) (hj : journalCfg x j.val = some e) (h : replayEnded x j.val e n) :
    Ends (.replayDone t j) s (replayEnd x j.val n) := by
  obtain ⟨hover, hgoes⟩ := (replayEnded_iff hj).1 h
  have hrow := ends_replayDone (j := j) hx
  rw [hover] at hrow
  exact ends_of_pos hrow hgoes

theorem ends_replayDone_of_not_ended {j : Fin 16} (hx : x = s.advance t) (hj : journalCfg x j.val = some e)
    (h : ∀ n, ¬ replayEnded x j.val e n) : Ends (.replayDone t j) s x := by
  have hrow := ends_replayDone (j := j) hx
  cases hover : replayOver x j.val with
  | none => rwa [hover] at hrow
  | some n =>
    rw [hover] at hrow
    exact ends_of_neg hrow fun hgoes => h n ((replayEnded_iff hj).2 ⟨hover, hgoes⟩)

end Replay

/-! ### A drive lost, and brought up (R213, R215) -/

section BringUp

variable {t p : Nat} {s x : State} {rp : Fin 16} {how : DriveLoss} {a : AdminDone} {c : AdminCmd} {rest : List AdminCmd}

/-- The drive in the state that a loss leaves it in. -/
def driveDown (x : State) (p : Nat) (st : DrvState) : State :=
  x.onDrive p (fun z => { z with st := st, step := 0, admin := [], aer := false, test := none, linkTry := x.clk.up })

/-- The loss of a drive reported, with the namespaces on it. -/
def lossTold (y : State) (p : Nat) : State := (nsOn y p).foldl (fun s v => raise s 0x0905 v []) (raise y 0x0904 p [])

/-- A fatal error resets the controller. -/
theorem driveFails_of_fatal (h : how = .aerFatal ∨ how = .cfs) :
    driveFails x p how = lossTold (countErr (failDrive (startStep (driveDown x p .resetting) p 4) p stoDrive) (stoErr 2)) p := by
  rcases h with rfl | rfl <;> rfl

theorem driveFails_of_gone (h : ¬ (how = .aerFatal ∨ how = .cfs)) :
    driveFails x p how = lossTold (failDrive (driveDown x p .absent) p stoDrive) p := by
  cases how with
  | removed => rfl
  | linkLost => rfl
  | aerFatal => exact absurd (.inl rfl) h
  | cfs => exact absurd (.inr rfl) h

/-- A drive can be lost in every state but ABSENT; a FAILED one only by going away. -/
abbrev canBeLost (d : Drive) (how : DriveLoss) : Prop :=
  d.st = .online ∨ d.st = .init ∨ d.st = .resetting ∨ (d.st = .failed ∧ (how = .removed ∨ how = .linkLost))

theorem ends_driveFailure (hx : x = s.advance t) : Ends (.driveFailure t rp how) s
    (if canBeLost (x.drive rp.val) how then driveFails x rp.val how else x) := by
  subst hx
  rfl

theorem ends_driveLinkUp (hx : x = s.advance t) : Ends (.driveLinkUp t rp) s
    (if (x.drive rp.val).released = true ∧ (x.drive rp.val).st = .absent ∧ x.clk.pcieOk = true then
      x.onDrive rp.val (fun z => { z with st := .init, step := 3, admin := [.configure], aer := false }) else x) := by
  change execDriveLinkUp t rp s = _
  simp only [execDriveLinkUp, act_eq, ← hx, startStep_configure, onDrive_onDrive, Function.comp_def]

theorem ends_driveLinkRetry (hx : x = s.advance t) : Ends (.driveLinkRetry t rp) s
    (if (x.drive rp.val).released = true ∧ (x.drive rp.val).st = .absent ∧ (x.drive rp.val).linkTry + nsPerSec ≤ x.clk.up then
      x.onDrive rp.val (fun z => { z with linkTry := x.clk.up }) else x) := by
  subst hx
  rfl

theorem ends_driveAdminCompletion {y : State} (hx : x = s.advance t) (h : driveAdmin x rp.val a = y) : Ends (.driveAdminCompletion t rp a) s y :=
  ends_of_act (driveAdmin · rp.val a) rfl hx h

theorem driveAdmin_of_idle (h : ((x.drive p).st ≠ .init ∧ (x.drive p).st ≠ .resetting) ∨ (x.drive p).admin = []) :
    driveAdmin x p a = x := by
  simp only [driveAdmin]
  split
  · rfl
  · next hst => rw [h.resolve_left hst]

/-- The answer noted, with the admin commands that are left. -/
def adminNoted (x : State) (p : Nat) (c : AdminCmd) (a : AdminDone) (rest : List AdminCmd) : State :=
  x.onDrive p (fun z => { noteAdmin c a z with admin := rest })

theorem driveAdmin_of_command (hst : (x.drive p).st = .init ∨ (x.drive p).st = .resetting) (hc : (x.drive p).admin = c :: rest) :
    driveAdmin x p a =
      if a.ok = false then driveFailed x p
      else if rest = [] then stepDone (adminNoted x p c a rest) p
      else adminNoted x p c a rest := by
  have hup : ¬ ((x.drive p).st ≠ .init ∧ (x.drive p).st ≠ .resetting) := fun h => hst.elim h.1 h.2
  simp only [driveAdmin]
  rw [if_neg hup, hc]
  exact if_congr (by simp) rfl (if_congr List.isEmpty_iff rfl rfl)

/-- What an answer tells of a drive leaves the step that it is in. -/
theorem step_noteAdmin (d : Drive) : (noteAdmin c a d).step = d.step := by cases c <;> rfl

theorem step_adminNoted : ((adminNoted x p c a rest).drive p).step = (x.drive p).step := by
  rw [adminNoted, drive_onDrive, if_pos rfl]
  exact step_noteAdmin _

/-- The drive has the block format and the serial number that the configuration asks for. -/
abbrev driveKnown (y : State) (p : Nat) : Prop :=
  (y.drive p).badNs = false ∧ (declaredSerial y p = none ∨ declaredSerial y p = some (y.drive p).serial)

theorem driveChecks_iff {y : State} : driveChecks y p = true ↔ driveKnown y p := by simp [driveChecks, serialOk]

theorem stepDone_three {y : State} (h : (y.drive p).step = 3) : stepDone y p = startStep y p 4 := if_pos h

theorem stepDone_four {y : State} (h : (y.drive p).step = 4) :
    stepDone y p = if driveChecks y p = true then startStep y p 6 else driveFailed y p := by
  rw [stepDone, if_neg (by omega), if_pos h]

theorem stepDone_other {y : State} (h3 : (y.drive p).step ≠ 3) (h4 : (y.drive p).step ≠ 4) : stepDone y p = driveOnline y p := by
  rw [stepDone, if_neg h3, if_neg h4]

end BringUp

/-! ### Self-tests and firmware (R216, R219) -/

section SelfTests

variable {t p result : Nat} {s x : State} {rp : Fin 16} {w : SelfTest} {e ok : Bool}

/-- A drive is idle: no host command for the time of R216. -/
abbrev driveIdle (x : State) (p : Nat) : Prop := (x.drive p).lastHost + selftestItem x p 2 100000000 ≤ x.clk.up

theorem ends_selftestIdleStart (hx : x = s.advance t) : Ends (.selftestIdleStart t rp) s
    (if (x.drive rp.val).st = .online ∧ (x.drive rp.val).test = none ∧ driveIdle x rp.val then
      (dueTest x rp.val).elim x (startTest x rp.val) else x) := by
  change execSelftestIdleStart t rp s = _
  simp only [execSelftestIdleStart, act_eq, ← hx]
  cases dueTest x rp.val <;> rfl

theorem ends_selftestTimeout (hx : x = s.advance t) (hw : (x.drive rp.val).test = some w) : Ends (.selftestTimeout t rp) s
    (if w.ext = false ∧ w.start + 2 * minute ≤ x.clk.up then
      testAborted
        (raise (x.onDrive rp.val (fun z => { z with lastResult := testNotCompleted })) 0x0906 rp.val (encN testNotCompleted)) rp.val false
    else x) := by
  change execSelftestTimeout t rp s = _
  simp only [execSelftestTimeout, act_eq, ← hx, hw]

theorem ends_selftestResult {y : State} (hx : x = s.advance t) (h : testEnds x rp.val (result % 16) = y) :
    Ends (.selftestResult t rp result) s y :=
  ends_of_act (testEnds · rp.val (result % 16)) rfl hx h

theorem testEnds_of_none (h : (x.drive p).test = none) : testEnds x p result = x := by simp only [testEnds, h]

/-- A test is late: it falls due, and has not completed within its interval from then. -/
abbrev testLate (x : State) (p due k dflt : Nat) : Prop := due ≠ 0 ∧ due + selftestItem x p k dflt ≤ x.clk.up

theorem ends_selftestOverdue (hx : x = s.advance t) : Ends (.selftestOverdue t rp) s
    (if (x.drive rp.val).overdueShort = false ∧ testLate x rp.val (x.drive rp.val).shortDue 0 (24 * 60 * minute) then
      raise (x.onDrive rp.val (fun z => { z with overdueShort := true })) 0x0907 rp.val []
    else if (x.drive rp.val).overdueExt = false ∧ testLate x rp.val (x.drive rp.val).extDue 1 (30 * 24 * 60 * minute) then
      raise (x.onDrive rp.val (fun z => { z with overdueExt := true })) 0x0907 rp.val []
    else x) := by
  change execSelftestOverdue t rp s = _
  simp only [execSelftestOverdue, act_eq, ← hx, Bool.and_eq_true, Bool.not_eq_true', bne_iff_ne, decide_eq_true_eq]

/-- A flag that is set, or a test that is not late: nothing to report. -/
theorem not_overdue {flag : Bool} {P : Prop} (h : flag = true ∨ ¬ P) : ¬ (flag = false ∧ P) :=
  fun hc => h.elim (fun ht => Bool.noConfusion (ht.symm.trans hc.1)) (· hc.2)

theorem ends_driveFwDone (hx : x = s.advance t) : Ends (.driveFwDone t rp ok) s
    (if (x.drive rp.val).fw = true then
      raise (x.onDrive rp.val (fun z => { z with fw := false })) 0x0908 rp.val (encN (if ok then 0 else 7)) else x) := by
  subst hx
  rfl

end SelfTests

/-- Settles O36: each row by its condition at its instant. -/
theorem driveEvents : Obligations.DriveEvents := by
  unfold Obligations.DriveEvents
  intro t s x rp j tf n hx p d up k
  refine ⟨fun a => ⟨fun h => ?unknown, fun c h => ?completion⟩,
    fun q e rest hq hc => ?coalesce, fun q hq hc => ends_coalesceTimeout_of_nil hx hq hc, ?checkpoint,
    fun e hj => ⟨fun n hend => ends_replayDone_of_ended hx hj hend, fun hno => ends_replayDone_of_not_ended hx hj hno⟩,
    fun cid c hc => ?timeout, fun h => ?abortLate, fun h => ?abortInTime, fun how => ?failure,
    fun hrel hst => ?link, fun h => ?noLink, fun a => ?admin, fun e hst ht hidle hdue => ?idleStart, fun h => ?noStart,
    fun w hw => ?testTimeout, fun result => ?testResult, ?overdue, fun ok => ?firmware⟩
  case unknown => exact ends_nvmeCompletion hx (nvmeComplete_unknown h)
  case completion =>
    intro y still
    have hend (ha : a.abortOnly = false) := nvmeComplete_of_end h ha
    refine ⟨fun ha => ends_nvmeCompletion hx (nvmeComplete_abortOnly h ha), fun ha hab => ?_, fun ha hab h0 => ?_, fun ha hab h0 hm => ?_,
      fun ha hab h0 hm => ?_⟩ <;> refine ends_nvmeCompletion hx ((hend ha).trans ?_)
    · rw [nvmeStatus_aborted hab]; rfl
    · rw [nvmeStatus_ok hab h0]
      simp [stoOk, stoMedia, y, p]
    · rw [nvmeStatus_drive hab h0 hm]; rfl
    · rw [nvmeStatus_media hab h0 hm]; rfl
  case coalesce =>
    have hrow := ends_coalesceTimeout hx hq hc
    exact ⟨fun h => ends_of_pos hrow h, fun h => ends_of_neg hrow (Nat.not_le.2 h)⟩
  case checkpoint =>
    intro i due
    exact ⟨fun h => ends_of_pos (ends_journalCheckpoint hx) h, fun h => ends_of_neg (ends_journalCheckpoint hx) h⟩
  case timeout =>
    intro due
    exact ⟨fun h => ends_of_pos (ends_driveTimeout hx hc) h, fun h => ends_of_neg (ends_driveTimeout hx hc) h⟩
  case abortLate =>
    obtain ⟨c, hc, hlate⟩ := h
    exact ends_of_pos (ends_abortTimeout hx) (List.any_eq_true.2 ⟨c, hc, NvmeCmd.abortLate_iff.2 hlate⟩)
  case abortInTime =>
    refine ends_of_neg (ends_abortTimeout hx) fun hany => ?_
    obtain ⟨c, hc, hlate⟩ := List.any_eq_true.1 hany
    obtain ⟨hab, a, ha, hle⟩ := NvmeCmd.abortLate_iff.1 hlate
    exact Nat.not_le.2 (h c hc hab a ha) hle
  case failure =>
    intro gone takes fatal down tell
    have hrow := ends_driveFailure (how := how) (rp := rp) hx
    refine ⟨fun ht hf => ?_, fun ht hf => ?_, fun ht => ends_of_neg hrow ht⟩
    · have hlost := ends_of_pos hrow ht
      rwa [driveFails_of_fatal hf] at hlost
    · have hlost := ends_of_pos hrow ht
      rwa [driveFails_of_gone hf] at hlost
  case link =>
    exact ⟨fun hok => ends_of_pos (ends_driveLinkUp hx) ⟨hrel, hst, hok⟩,
      fun hle => ends_of_pos (ends_driveLinkRetry hx) ⟨hrel, hst, hle⟩,
      fun hlt => ends_of_neg (ends_driveLinkRetry hx) fun ⟨_, _, hle⟩ => Nat.not_le.2 hlt hle⟩
  case noLink =>
    have hno : ¬ (d.released = true ∧ d.st = .absent) := fun ⟨hrel, hst⟩ =>
      h.elim (fun hr => Bool.noConfusion (hr.symm.trans hrel)) (· hst)
    exact ⟨ends_of_neg (ends_driveLinkUp hx) fun ⟨hrel, hst, _⟩ => hno ⟨hrel, hst⟩,
      ends_of_neg (ends_driveLinkRetry hx) fun ⟨hrel, hst, _⟩ => hno ⟨hrel, hst⟩⟩
  case admin =>
    refine ⟨fun h => ends_driveAdminCompletion hx (driveAdmin_of_idle h), fun c rest hst hc => ?_⟩
    intro y known failed
    have hcmd := driveAdmin_of_command (a := a) hst hc
    have hstep : (y.drive p).step = d.step := step_adminNoted
    have hok (h : a.ok = true) : ¬ a.ok = false := fun h0 => Bool.noConfusion (h0.symm.trans h)
    have hlast (h : a.ok = true) (hr : rest = []) : driveAdmin x p a = stepDone y p :=
      hcmd.trans ((if_neg (hok h)).trans (if_pos hr))
    refine ⟨fun h => ends_driveAdminCompletion hx (hcmd.trans (if_pos h)),
      fun h hr => ends_driveAdminCompletion hx (hcmd.trans ((if_neg (hok h)).trans (if_neg hr))),
      fun h hr => ⟨fun h3 => ?_, fun h4 hk => ?_, fun h4 hk => ?_, fun h3 h4 => ?_⟩⟩ <;>
      refine ends_driveAdminCompletion hx ((hlast h hr).trans ?_)
    · exact stepDone_three (hstep.trans h3)
    · exact (stepDone_four (hstep.trans h4)).trans (if_pos (driveChecks_iff.2 hk))
    · exact (stepDone_four (hstep.trans h4)).trans (if_neg fun hc => hk (driveChecks_iff.1 hc))
    · exact stepDone_other (hstep ▸ h3) (hstep ▸ h4)
  case idleStart =>
    intro run
    have hstart := ends_of_pos (ends_selftestIdleStart hx) ⟨hst, ht, hidle⟩
    rwa [hdue] at hstart
  case noStart =>
    by_cases hcond : (x.drive p).st = .online ∧ (x.drive p).test = none ∧ driveIdle x p
    · have hdue : dueTest x p = none := by
        refine (h.resolve_left fun ht => ?_).resolve_left (Nat.not_lt.2 hcond.2.2)
        exact Option.isSome_iff_ne_none.1 ht hcond.2.1
      have hstart := ends_of_pos (ends_selftestIdleStart hx) hcond
      rwa [hdue] at hstart
    · exact ends_of_neg (ends_selftestIdleStart hx) hcond
  case testTimeout =>
    have hrow := ends_selftestTimeout hx hw
    refine ⟨fun he hle => ends_of_pos hrow ⟨he, hle⟩, fun h => ends_of_neg hrow fun hc => ?_⟩
    exact h.elim (fun he => Bool.noConfusion (he.symm.trans hc.1)) fun hlt => Nat.not_le.2 hlt hc.2
  case testResult => exact ⟨fun h => ends_selftestResult hx (testEnds_of_none h), fun h => ends_selftestResult hx rfl⟩
  case overdue =>
    intro late
    have hrow := ends_selftestOverdue (rp := rp) hx
    exact ⟨fun hf hl => ends_of_pos hrow ⟨hf, hl⟩,
      fun hno hf hl => ends_of_pos (ends_of_neg hrow (not_overdue hno)) ⟨hf, hl⟩,
      fun hno hno2 => ends_of_neg (ends_of_neg hrow (not_overdue hno)) (not_overdue hno2)⟩
  case firmware =>
    exact ⟨fun h => ends_of_pos (ends_driveFwDone hx) h, fun h => ends_of_neg (ends_driveFwDone hx) (Bool.eq_false_iff.1 h)⟩

end Sys2Proof.Machine

/-! Proofs of the statement on storage submissions, the ERROR state and its log, and dispatch (R194, R197 to R201, R203, R204, R206). -/

namespace Sys2Proof.Machine

/-! ### The rows that take a submission (R198) -/

section Rows

variable {t : Nat} {s x : State} {tf : BitVec 12} {n : Fin 64} {p : Bytes → Bool} {c : Instr} {q : StoQueue} {k slot : Nat} {m : Bytes}
  {rest : List (Nat × Bytes)}

/-- The rows with the opcode that each takes, and what its submission satisfies further. -/
abbrev submissionRows (t : Nat) (tf : BitVec 12) (n : Fin 64) : List (Instr × Nat × (Bytes → Prop)) :=
  [(.stoFlush t tf n, 0, fun _ => True), (.stoWrite t tf n, 1, fun _ => True), (.stoRead t tf n, 2, fun _ => True),
   (.stoWriteZeroes t tf n, 8, fun _ => True), (.stoDeallocate t tf n, 9, fun _ => True), (.stoLog t tf n, 0xC0, fun _ => True),
   (.stoRestartResume t tf n, 0xC1, fun m => beAt m 0x20 4 ≠ 1), (.stoRestartDiscard t tf n, 0xC1, fun m => beAt m 0x20 4 = 1)]

theorem exec_submissionRow {c : Instr × Nat × (Bytes → Prop)} (hc : c ∈ submissionRows t tf n) (s : State) :
    ∃ p : Bytes → Bool, exec c.1 s = takeRow t tf n p s ∧ ∀ m, p m = true ↔ beAt m 0 1 = c.2.1 ∧ c.2.2 m := by
  simp only [submissionRows, List.mem_cons, List.not_mem_nil, or_false] at hc
  rcases hc with rfl | rfl | rfl | rfl | rfl | rfl | rfl | rfl <;> exact ⟨_, rfl, fun m => by simp [opIs]⟩

theorem stoOn_iff : stoOn x = true ↔ x.phase = .running ∧ x.cfg.state = .committed := by simp [stoOn, State.committed]

theorem ends_takeRow (hx : x = s.advance t) (hc : exec c s = takeRow t tf n p s) : Ends c s
    (if stoOn x = true then takeSub x (sqKey tf.toNat n.val) p else x) := by
  subst hx
  exact hc

theorem takeSub_of_nil (hq : x.sq? k = some q) (h : q.inbox = []) : takeSub x k p = x := by simp only [takeSub, hq, h]

theorem takeSub_of_cons (hq : x.sq? k = some q) (h : q.inbox = (slot, m) :: rest) : takeSub x k p =
    if p m = true then sweepUnknown (acceptSub (x.onSq k (fun q => { q with inbox := rest })) k slot m) k else x := by
  simp only [takeSub, hq, h]

end Rows

/-! ### Acceptance (R198, R200) -/

section Acceptance

variable {s : State} {k slot status : Nat} {m : Bytes} {q : StoQueue} {c : StoCmd}

/-- A submission takes the queue's next number, and counts as accepted. -/
abbrev subNumbered (s : State) (k : Nat) : State := s.onSq k (fun q => { q with nextNo := q.nextNo + 1 })
abbrev subCounted (s : State) (k : Nat) : State := countStat (countStat (subNumbered s k) (stoStat 0) 1) (sqStat k 0) 1

theorem acceptSub_stopped (hq : s.sq? k = some q) (h : q.st = .quiescing ∨ q.st = .disabled) :
    acceptSub s k slot m = refuseSub (subNumbered s k) k (parseSub q.nextNo slot m) stoStopped := by
  simp only [acceptSub, hq]
  exact if_pos h

theorem isLogOp_iff {op : Nat} : isLogOp op = true ↔ op = 0xC0 ∨ op = 0xC1 := by simp [isLogOp]

theorem acceptSub_frozen (hq : s.sq? k = some q) (h : q.st = .error) (hop : ¬ isLogOp (parseSub q.nextNo slot m).op = true) :
    acceptSub s k slot m = refuseSub (subNumbered s k) k (parseSub q.nextNo slot m) stoFrozen := by
  simp only [acceptSub, hq]
  rw [if_neg (by simp [h]), if_pos ⟨h, hop⟩]

/-- A submission that is accepted goes on as its mapping says. -/
theorem acceptSub_accepted (hq : s.sq? k = some q) (h : q.st = .active ∨ (q.st = .error ∧ isLogOp (parseSub q.nextNo slot m).op = true)) :
    acceptSub s k slot m =
      let c := parseSub q.nextNo slot m
      let z := subCounted s k
      let st := mapStatus z (k / 64) c m
      if st = stoOffline then finishOffline z k c
      else if st ≠ stoOk then finishCmd z k c st 0
      else if c.op = 0xC0 then serveLog z k c
      else if c.op = 0xC1 then serveRestart z k c
      else z.onSq k (fun q => { q with cmds := q.cmds ++ [c] }) := by
  have hgo : ¬ (q.st = .quiescing ∨ q.st = .disabled) := by rcases h with h | ⟨h, -⟩ <;> simp [h]
  have hlog : ¬ (q.st = .error ∧ ¬ isLogOp (parseSub q.nextNo slot m).op = true) := by
    rintro ⟨he, hno⟩
    rcases h with h | ⟨-, hop⟩
    · rw [h] at he; cases he
    · exact hno hop
  simp only [acceptSub, hq]
  rw [if_neg hgo, if_neg hlog]

theorem acceptSub_admitted (hq : s.sq? k = some q) (h : q.st = .active ∨ (q.st = .error ∧ isLogOp (parseSub q.nextNo slot m).op = true))
    (h0 : mapStatus (subCounted s k) (k / 64) (parseSub q.nextNo slot m) m = stoOk) : acceptSub s k slot m =
      let c := parseSub q.nextNo slot m
      let z := subCounted s k
      if c.op = 0xC0 then serveLog z k c
      else if c.op = 0xC1 then serveRestart z k c
      else z.onSq k (fun q => { q with cmds := q.cmds ++ [c] }) := by
  have hoff : ¬ stoOk = stoOffline := by decide
  refine (acceptSub_accepted hq h).trans ?_
  dsimp only
  rw [h0, if_neg hoff, if_neg (not_not.2 rfl)]

/-- The entry of a completion (R195). -/
def entryOf (s : State) (k : Nat) (c : StoCmd) (status nvme rp info held : Nat) (refused : Bool) : CoEnt :=
  { cmd := { c with data := [], parts := [] }, bytes := completionBytes s (k % 64) c.cmdId status held info, at_ := s.clk.up
    nvme := nvme, rp := rp, refused := refused }

/-- An entry waits while its queue coalesces, the count is not reached, and the tenant function does not freeze. -/
theorem postEntry_coalesced {nvme rp info held : Nat} {tail : Bytes} (hq : s.sq? k = some q) (ht : 1 ≤ q.coTime)
    (hn : q.coal.length + 1 < q.coCount) (hf : (s.tf (k / 64)).st ≠ .freezing) :
    postEntry s k c status nvme rp info held tail true =
      s.onSq k (fun q => { q with coal := q.coal ++ [entryOf s k c status nvme rp info held true] }) := by
  have hwaits : ¬ sendsAtOnce (s.onSq k (fun q => { q with coal := q.coal ++ [entryOf s k c status nvme rp info held true] })) k
      { q with coal := q.coal ++ [entryOf s k c status nvme rp info held true] } = true := by
    simp only [sendsAtOnce, tf_onSq, Bool.or_eq_true, beq_iff_eq, decide_eq_true_eq, List.length_append, List.length_singleton]
    rintro ((h | h) | h)
    · omega
    · omega
    · exact hf h
  have hput : ¬ (c.op = 0xC0 ∧ (!true) = true) := by simp
  simp only [postEntry]
  rw [if_neg hput, sq?_onSq_of_queue hq]
  exact if_neg hwaits

end Acceptance

/-! ### The mapping of a submission (R194, R197, R202, R203) -/

section Mapping

variable {s : State} {tf k : Nat} {c : StoCmd} {m : Bytes} {mayWrite : Bool} {e : Extent}

theorem hasBlocks_iff {op : Nat} : hasBlocks op = true ↔ op = 1 ∨ op = 2 ∨ op = 8 ∨ op = 9 := by simp [hasBlocks, or_assoc]

theorem mapStatus_bad_format (h : subFormat c m = false) : mapStatus s tf c m = stoFormat := if_pos (by simp [h])

theorem mapStatus_no_namespace (h : subFormat c m = true) (hlog : ¬ isLogOp c.op = true)
    (hns : nsAttach s c.vns tf = none ∨ nsExtents s c.vns = []) : mapStatus s tf c m = stoNs := by
  rw [mapStatus, if_neg (by simp [h]), if_neg hlog]
  cases ha : nsAttach s c.vns tf with
  | none => rfl
  | some rw => exact if_pos (hns.resolve_left (by simp [ha]))

/-- In a namespace attached, the range, the rights and the drives decide, in this order. -/
theorem mapStatus_attached (h : subFormat c m = true) (hlog : ¬ isLogOp c.op = true) (ha : nsAttach s c.vns tf = some mayWrite)
    (hns : nsExtents s c.vns ≠ []) : mapStatus s tf c m =
      if hasBlocks c.op = true ∧ nsSize s c.vns < c.lba + c.blocks then stoRange
      else if (c.op = 1 ∨ c.op = 8 ∨ c.op = 9) ∧ ¬ mayWrite = true then stoRights
      else if nsOffline s c.vns = true then stoOffline
      else stoOk := by
  rw [mapStatus, if_neg (by simp [h]), if_neg hlog, ha]
  exact if_neg hns

theorem finishOffline_of_drive (h : (nsExtents s c.vns).find? (fun e => (s.drive e.rp).st != .online) = some e) :
    finishOffline s k c = completeCmd s k c stoOffline 0 e.rp 0 0 [] := by
  simp [finishOffline, nsLostDrive, h]

theorem finishOffline_of_online (h : ∀ e ∈ nsExtents s c.vns, (s.drive e.rp).st = .online) :
    finishOffline s k c = completeCmd s k c stoOffline 0 0xFF 0 0 [] := by
  have hnone : (nsExtents s c.vns).find? (fun e => (s.drive e.rp).st != .online) = none :=
    List.find?_eq_none.2 fun e he => by simp [h e he]
  simp [finishOffline, nsLostDrive, hnone]

end Mapping

/-! ### The error log, the ERROR state, LOG and RESTART (R197, R199, R200) -/

section ErrorLog

variable {s : State} {k : Nat} {q : StoQueue} {c : StoCmd}

/-- The log with room for one entry more: a full one loses its oldest, and marks the next. -/
def logRoom (l : List LogEnt) : List LogEnt :=
  if l.length < 16 then l else match l.drop 1 with
    | [] => []
    | x :: rest => { x with flags := x.flags ||| 1 } :: rest

/-- The entry that a queue logs for a command. -/
def logEntry (s : State) (q : StoQueue) (c : StoCmd) (status nvme rp info : Nat) (lost : Bool) : LogEnt :=
  { seq := q.logSeq, cmdId := c.cmdId, op := c.op, flags := if lost then 2 else 0, status := status, nvme := nvme, rp := rp, vns := c.vns
    blocks := c.blocks, lba := c.lba, info := info, at_ := time80 s.ns }

theorem sq?_logError {status nvme rp info : Nat} {lost : Bool} (hq : s.sq? k = some q) :
    (logError s k c status nvme rp info lost).sq? k =
      some { q with log := logRoom q.log ++ [logEntry s q c status nvme rp info lost], logSeq := (q.logSeq + 1) % 2 ^ 32 } := by
  rw [logError, sq?_onSq_of_queue hq]
  rfl

theorem logRoom_of_lt {l : List LogEnt} (h : l.length < 16) : logRoom l = l := if_pos h

theorem logRoom_of_full {l rest : List LogEnt} {a b : LogEnt} (h : 16 ≤ l.length) (hl : l = a :: b :: rest) :
    logRoom l = { b with flags := b.flags ||| 1 } :: rest := by
  rw [logRoom, if_neg (Nat.not_lt.2 h), hl]
  rfl

theorem sq?_sqError (hq : s.sq? k = some q) : (sqError s k).sq? k = some { q with st := if q.st = .active then .error else q.st } :=
  sq?_onSq_of_queue hq

theorem stoFreezes_iff {st : Nat} : stoFreezes st = true ↔ 0x0801 ≤ st ∧ st ≤ 0x080B := by simp [stoFreezes]

theorem serveRestart_of_other (hq : s.sq? k = some q) (h : q.st ≠ .error) : serveRestart s k c = finishCmd s k c stoFormat 0 := by
  simp only [serveRestart, hq]
  exact if_pos h

/-- The commands that a queue in ERROR holds. -/
abbrev heldCmds (q : StoQueue) : List StoCmd := q.cmds.filter (fun y => y.ph == .waiting)

theorem serveRestart_of_error (hq : s.sq? k = some q) (h : q.st = .error) : serveRestart s k c =
    let y := s.onSq k (fun q => { q with st := .active })
    let y := if c.arg = 1 then (heldCmds q).foldl (fun s x => finishCmd s k x stoAborted 0) y else y
    completeCmd y k c stoOk 0 0xFF 0 (heldCmds q).length [] := by
  simp only [serveRestart, hq]
  exact if_neg (not_not.2 h)

theorem serveLog_without_clear (hq : s.sq? k = some q) (h : c.flags.testBit 2 = false) :
    serveLog s k c = completeCmd s k c stoOk 0 0xFF 0 q.log.length (q.log.flatMap LogEnt.bytes) := by
  simp only [serveLog, hq]
  rw [if_neg (by simp [h])]

end ErrorLog

/-! ### Arbitration (R201) -/

section Arbitration

variable {s x y : State} {t tf fuel q u a b : Nat} {l : List Nat} {rest : List (Nat × Bool)}

theorem nextAfter_eq_some (h : nextAfter l a = some b) : b ∈ l ∧ (a < b ∨ ∀ y ∈ l, y ≤ a) := by
  rw [nextAfter, Option.or_eq_some_iff] at h
  rcases h with h | ⟨hnone, h⟩
  · exact ⟨List.mem_of_find?_eq_some h, .inl (by simpa using List.find?_some h)⟩
  · exact ⟨List.mem_of_mem_head? h, .inr fun y hy => by simpa using List.find?_eq_none.1 hnone y hy⟩

theorem stoClassPick_of_ready (hr : readyQueues s tf ((s.arb tf).cls + 1) ≠ [])
    (hw : (s.arb tf).taken.getD (s.arb tf).cls 0 ≠ stoClassWeight s tf (s.arb tf).cls)
    (hn : nextAfter (readyQueues s tf ((s.arb tf).cls + 1)) ((s.arb tf).last.getD (s.arb tf).cls 63) = some q) :
    stoClassPick tf (fuel + 1) s = some (q, s.onArb tf (fun a =>
      { a with taken := a.taken.set a.cls (a.taken.getD a.cls 0 + 1), last := a.last.set a.cls q })) := by
  simp only [stoClassPick]
  rw [if_neg (not_or.2 ⟨hr, hw⟩), hn]

/-- The current tenant function goes on while it has a deficit and a ready queue. -/
theorem dispatchLoop_of_deficit (hr : readyQueues s t 1 ++ readyQueues s t 2 ++ readyQueues s t 3 ≠ []) (hd : 1 ≤ (s.arb t).deficit)
    (hp : stoClassPick t 7 s = some (q, y)) : dispatchLoop s ((t, false) :: rest) =
      issueHead (y.onArb t (fun a => { a with deficit := a.deficit - 1 })) (sqKey t q) := by
  rw [dispatchLoop, if_neg hr]
  simp only [Bool.false_eq_true, if_false]
  rw [if_neg (by omega), hp]

theorem stoDispatch_urgent (hu : nextAfter (readyTfs x (· == 0)) x.sto.lastUrgentTf = some u)
    (hq : nextAfter (readyQueues x u 0) (x.arb u).lastUrgent = some q) : stoDispatch x =
      issueHead { (x.onArb u (fun a => { a with lastUrgent := q })) with sto.lastUrgentTf := u } (sqKey u q) := by
  simp only [stoDispatch, hu, hq]

theorem stoDispatch_current (hu : readyTfs x (· == 0) = [])
    (hr : readyQueues x x.sto.curTf 1 ++ readyQueues x x.sto.curTf 2 ++ readyQueues x x.sto.curTf 3 ≠ [])
    (hd : 1 ≤ (x.arb x.sto.curTf).deficit) (hp : stoClassPick x.sto.curTf 7 x = some (q, y)) : stoDispatch x =
      issueHead (y.onArb x.sto.curTf (fun a => { a with deficit := a.deficit - 1 })) (sqKey x.sto.curTf q) := by
  simp only [stoDispatch, hu, nextAfter, List.find?_nil, List.head?_nil, Option.or_none]
  exact dispatchLoop_of_deficit hr hd hp

theorem ends_stoDispatch (hx : x = s.advance t) : Ends (.stoDispatch t) s (if stoOn x = true then stoDispatch x else x) := by
  subst hx
  rfl

end Arbitration

/-! ### What a command does that leaves its queue (R203, R204, R206) -/

section Issue

variable {s : State} {k j : Nat} {c : StoCmd} {d : Bytes} {e : Extent}

theorem issueCmd_offline (h : nsOffline s c.vns = true) : issueCmd s k c = finishOffline s k c := if_pos h

/-- A read whose whole range is in HBM goes to the host; it counts as a hit where the cache holds it. -/
theorem issueCmd_read_hbm (h : nsOffline s c.vns = false) (hop : c.op = 2) (hd : hbmRange s c.vns c.lba c.blocks = some d) :
    issueCmd s k c = sendReadData (if cacheHolds s c.vns c.lba c.blocks = true then
      countStat (cacheTouch s c.vns c.lba c.blocks) (stoStat 3) 1 else cacheTouch s c.vns c.lba c.blocks) k c d := by
  rw [issueCmd, if_neg (Bool.eq_false_iff.1 h), if_pos hop, hd]

theorem issueCmd_read_drives (h : nsOffline s c.vns = false) (hop : c.op = 2) (hd : hbmRange s c.vns c.lba c.blocks = none) :
    issueCmd s k c = issuePieces s k c (piecesFor s c.vns c.lba c.blocks) := by
  rw [issueCmd, if_neg (Bool.eq_false_iff.1 h), if_pos hop, hd]

theorem issueCmd_write_inline (h : nsOffline s c.vns = false) (hop : c.op = 1) (hi : c.inline = true) : issueCmd s k c = writeData s k c := by
  rw [issueCmd, if_neg (Bool.eq_false_iff.1 h), if_neg (by omega), if_pos hop, if_pos hi]

theorem issueCmd_flush (h : nsOffline s c.vns = false) (hop : c.op = 0) :
    issueCmd s k c = issuePieces s k c (flushPieces (nsExtents s c.vns) 0 []) := by
  rw [issueCmd, if_neg (Bool.eq_false_iff.1 h), if_neg (by omega), if_neg (by omega), if_pos hop]

theorem issueCmd_range (h : nsOffline s c.vns = false) (hop : c.op = 8 ∨ c.op = 9) :
    issueCmd s k c = issuePieces s k c (piecesFor s c.vns c.lba c.blocks) := by
  rw [issueCmd, if_neg (Bool.eq_false_iff.1 h), if_neg (by omega), if_neg (by omega), if_neg (by omega)]

theorem writeData_to_drives (h : nsJournal s c.vns = none ∨ 64 < c.blocks) :
    writeData s k c = issuePieces s k c (piecesFor s c.vns c.lba c.blocks) := by
  have hnone : (if c.blocks ≤ 64 then nsJournal s c.vns else none) = none := by
    split
    · exact h.resolve_right (by omega)
    · rfl
  simp only [writeData, hnone]

/-- An atomic WRITE that no other waits before, and whose turn can be taken, is taken up. -/
theorem writeData_to_journal {z : State} (hb : c.blocks ≤ 64) (hj : nsJournal s c.vns = some j) (hw : (s.journal j).waiters = [])
    (ht : tryRecord s j k c = (z, true)) : writeData s k c = z := by
  simp [writeData, if_pos hb, hj, hw, ht]

theorem tryRecord_of_lost (hj : journalCfg s j = some e) (h : (s.drive e.rp).st ≠ .online) :
    tryRecord s j k c = (completeCmd s k c stoDrive 0 e.rp 0 0 [], true) := by
  simp [tryRecord, journalLost, hj, h]

theorem tryRecord_of_room (hj : journalCfg s j = some e) (h : (s.drive e.rp).st = .online)
    (hroom : (s.journal j).used + c.blocks + 1 ≤ e.count - 2) : tryRecord s j k c = (writeRecord s j k c, true) := by
  simp [tryRecord, journalLost, journalBlocks, hj, h, hroom]

end Issue

/-- Settles O34: a submission by its queue's state and its mapping, the log by its room, dispatch by who is ready, a command by its
opcode. -/
theorem storageCommandsFlow : Obligations.StorageCommandsFlow := by
  unfold Obligations.StorageCommandsFlow
  refine ⟨⟨fun t s x tf n q hx => ?rows, fun s k slot m q hq => ?accept, fun s k q c status hq ht hn hf => ?refuse, fun s k c => ?offline,
      fun s tf c m hop0 hop1 => ?mapping⟩,
    ⟨fun s k q c status nvme rp info lost hq => ?log, fun s k q hq => ?error, fun st => stoFreezes_iff, fun s k q c hq => ?serve⟩,
    fun t s x hx => ?dispatch, fun l a b h => nextAfter_eq_some h, fun s tf fuel q hr hw hn => stoClassPick_of_ready hr hw hn,
    fun s k c => ?issue⟩
  case rows =>
    intro k hq c hc
    obtain ⟨p, hrow, hp⟩ := exec_submissionRow hc s
    have hrun : Ends c.1 s (if stoOn x = true then takeSub x k p else x) := ends_takeRow hx hrow
    refine ⟨fun h => ?_, fun slot m rest hph hcfg hin => ?_⟩
    · by_cases hon : stoOn x = true
      · obtain ⟨hph, hcfg⟩ := stoOn_iff.1 hon
        have hnil : q.inbox = [] := (h.resolve_left (not_not.2 hph)).resolve_left (not_not.2 hcfg)
        have htake := ends_of_pos hrun hon
        rwa [takeSub_of_nil hq hnil] at htake
      · exact ends_of_neg hrun hon
    · have htake := ends_of_pos hrun (stoOn_iff.2 ⟨hph, hcfg⟩)
      rw [takeSub_of_cons hq hin] at htake
      exact ⟨fun hop hm => ends_of_pos htake ((hp m).2 ⟨hop, hm⟩), fun hno => ends_of_neg htake fun h => hno ((hp m).1 h)⟩
  case accept =>
    intro c log y z st
    have hlog : isLogOp c.op = true ↔ log := isLogOp_iff
    refine ⟨acceptSub_stopped hq, fun he hno => acceptSub_frozen hq he fun h => hno (hlog.1 h), fun hst => ?_⟩
    have hst := hst.imp_right fun h => And.intro h.1 (hlog.2 h.2)
    have hgo := acceptSub_accepted (slot := slot) (m := m) hq hst
    refine ⟨fun h => hgo.trans (if_pos h), fun h0 h => hgo.trans ((if_neg h).trans (if_pos h0)), fun h0 hop => ?_, fun h0 hop => ?_,
      fun h0 hop => ?_⟩ <;> refine (acceptSub_admitted hq hst h0).trans ?_
    · exact if_pos hop
    · exact (if_neg fun h => absurd (h.symm.trans hop) (by decide)).trans (if_pos hop)
    · exact (if_neg fun h => hop (.inl h)).trans (if_neg fun h => hop (.inr h))
  case refuse =>
    refine ⟨entryOf (countStat s (sqStat k 1) 1) k c status 0 0xFF 0 0 true, rfl, rfl, congrArg Clk.up (countStat_logsOnly ..).clk, ?_⟩
    exact postEntry_coalesced (by rwa [sq?_countStat]) ht hn (by rwa [tf_countStat])
  case offline => exact ⟨fun e h => finishOffline_of_drive h, finishOffline_of_online⟩
  case mapping =>
    intro blocks
    have hlog : ¬ isLogOp c.op = true := fun h => (isLogOp_iff.1 h).elim hop0 hop1
    have hblocks : hasBlocks c.op = true ↔ blocks := hasBlocks_iff
    refine ⟨mapStatus_bad_format, fun h => mapStatus_no_namespace h hlog, fun rw h ha hns => ?_⟩
    have hmap := mapStatus_attached h hlog ha hns
    refine ⟨fun hb hlt => hmap.trans (if_pos ⟨hblocks.2 hb, hlt⟩), fun hin => ?_⟩
    have hmap := hmap.trans (if_neg fun hc => Nat.not_lt.2 (hin (hblocks.1 hc.1)) hc.2)
    refine ⟨fun hb h2 hro => hmap.trans (if_pos ⟨Or.imp_right (·.resolve_left h2) hb, Bool.eq_false_iff.1 hro⟩),
      fun hmay => hmap.trans (if_neg ?_)⟩
    rintro ⟨hop, hro⟩
    rcases hmay with hrw | h2 | hno
    · exact hro hrw
    · omega
    · exact hno (hop.imp_right .inr)
  case log =>
    intro e
    refine ⟨_, sq?_logError hq, fun hlt => ?_, fun a b rest hfull hl => ?_⟩
    · rw [logRoom_of_lt hlt]; rfl
    · rw [logRoom_of_full hfull hl]; rfl
  case error =>
    refine ⟨fun h => (sq?_sqError hq).trans ?_, fun h => (sq?_sqError hq).trans ?_⟩
    · rw [if_pos h]
    · rw [if_neg h]
  case serve =>
    intro held y
    refine ⟨serveRestart_of_other hq, fun h harg => (serveRestart_of_error hq h).trans ?_, fun h harg => (serveRestart_of_error hq h).trans ?_,
      serveLog_without_clear hq⟩
    · dsimp only; rw [if_neg (by omega)]; rfl
    · dsimp only; rw [if_pos harg]; rfl
  case dispatch =>
    intro us cur
    have hrow := ends_stoDispatch hx
    refine ⟨fun hoff => ends_of_neg hrow fun hon => ?_, fun hph hcfg => ⟨fun u q hu hq => ?_, fun q y hus hr hd hp => ?_⟩⟩
    · obtain ⟨hph, hcfg⟩ := stoOn_iff.1 hon
      exact hoff.elim (· hph) (· hcfg)
    · have hslot := ends_of_pos hrow (stoOn_iff.2 ⟨hph, hcfg⟩)
      rwa [stoDispatch_urgent hu hq] at hslot
    · have hslot := ends_of_pos hrow (stoOn_iff.2 ⟨hph, hcfg⟩)
      rwa [stoDispatch_current hus hr hd hp] at hslot
  case issue =>
    intro ps used
    refine ⟨issueCmd_offline, fun hoff => ⟨fun d hop hd => ?_, issueCmd_read_drives hoff, issueCmd_range hoff, issueCmd_flush hoff,
      fun hop hi hj => (issueCmd_write_inline hoff hop hi).trans (writeData_to_drives hj), fun j e hop hi hb hj hw he => ?_⟩⟩
    · have hread := issueCmd_read_hbm (k := k) hoff hop hd
      refine ⟨fun hhit => ?_, fun hmiss => ?_⟩
      · rwa [if_pos hhit] at hread
      · rwa [if_neg (Bool.eq_false_iff.1 hmiss)] at hread
    · have hwrite := issueCmd_write_inline (k := k) hoff hop hi
      exact ⟨fun hlost => hwrite.trans (writeData_to_journal hb hj hw (tryRecord_of_lost he hlost)),
        fun hon hroom => hwrite.trans (writeData_to_journal hb hj hw (tryRecord_of_room he hon hroom))⟩

end Sys2Proof.Machine

/-! Proofs of the statement on the states of a tenant function (R233 to R236, R243, R245). -/

namespace Sys2Proof.Machine

section TenantCommands

variable {t n code policy timeout : Nat} {s x : State} {r : Req} {slot : Option Nat} {c : Instr} {f : State → Req → Res} {res : Res}

/-! ### Whether a quiesce of a tenant function can start (R29, R233) -/

theorem tfQuiesceFails_enabled (h : (x.tf n).st = .enabled) : tfQuiesceFails x n = none := by
  rw [tfQuiesceFails, h]

theorem tfQuiesceFails_pending (h : (x.tf n).st = .disabling ∨ (x.tf n).st = .freezing) : tfQuiesceFails x n = some mbxBusy := by
  rcases h with h | h <;> rw [tfQuiesceFails, h]

theorem tfQuiesceFails_other (he : (x.tf n).st ≠ .enabled) (hd : (x.tf n).st ≠ .disabling) (hf : (x.tf n).st ≠ .freezing) :
    tfQuiesceFails x n = some mbxState := by
  unfold tfQuiesceFails
  split
  · next h => exact absurd h he
  · next h => exact absurd h hd
  · next h => exact absurd h hf
  · rfl

/-- A result that only an ENABLED tenant function gives: elsewhere BUSY while its quiesce is pending, STATE otherwise. -/
abbrev quiesceResult (x : State) (n : Nat) (res : Res) : Res :=
  (tfQuiesceFails x n).elim res fun k => { st := x, status := k }

/-- What a command that begins a quiesce of a tenant function answers, by its state. -/
theorem answers_tfQuiesce (hc : exec c s = serve t r code f s) (h : Takes t s r code x slot) (hf : f x r = quiesceResult x n res) :
    ((x.tf n).st = .enabled → Answers c s r slot res)
    ∧ ((x.tf n).st = .disabling ∨ (x.tf n).st = .freezing → Answers c s r slot { st := x, status := mbxBusy })
    ∧ ((x.tf n).st ≠ .enabled → (x.tf n).st ≠ .disabling → (x.tf n).st ≠ .freezing →
        Answers c s r slot { st := x, status := mbxState }) := by
  refine ⟨fun he => ?_, fun hp => ?_, fun he hd hz => ?_⟩ <;> refine answers_of_result hc h (hf.trans ?_)
  · rw [quiesceResult, tfQuiesceFails_enabled he]; rfl
  · rw [quiesceResult, tfQuiesceFails_pending hp]; rfl
  · rw [quiesceResult, tfQuiesceFails_other he hd hz]; rfl

/-! ### The start of a disable and of a freeze (R234, R236) -/

/-- Step 1 of a disable: each child that does not stop already begins to quiesce with the command's policy and timeout, then the
tenant function itself. -/
def disableBegun (x : State) (n policy timeout : Nat) : State :=
  let lim := if timeout = 0 then 100000000 else timeout
  let y := x.onTf n (fun y => { y with st := .disabling })
  let y := (tfChildren y n).foldl (fun s o => if s.stopped o.1 then s else qStart s o.1 o.2 policy lim false false) y
  qStart y (.tf n) 1 policy lim false false

theorem tfDisableCmd_of_args (ha : qArgs r 1 false = .inr (policy, timeout, false)) (htf : tfExists x (num r 0) = true) :
    tfDisableCmd x r = quiesceResult x (num r 0) { st := disableBegun x (num r 0) policy timeout } := by
  simp only [tfDisableCmd, ha, quiesceResult]
  rw [if_neg (not_missingTf htf)]
  cases tfQuiesceFails x (num r 0) <;> rfl

/-- Step 1 of a freeze: it drains, waiting submissions end with NAK_FROZEN, and completions kept for coalescing are sent. -/
def freezeBegun (x : State) (n timeout : Nat) : State :=
  let y := qStart (x.onTf n (fun y => { y with st := .freezing })) (.tf n) 2 0 timeout false false
  let y := endSubmissions y n nakFrozen
  (tfQueues y n).foldl (fun s q => sendCoal s q.1) y

theorem tfFreezeCmd_of_args (hb : r.body.length = 16) (htf : tfExists x (num r 0) = true) (ht : timeoutInRange (num r 1)) :
    tfFreezeCmd x r = quiesceResult x (num r 0) { st := freezeBegun x (num r 0) (num r 1) } := by
  simp only [tfFreezeCmd, quiesceResult]
  rw [if_neg (not_misSized hb), if_neg (not_missingTf htf)]
  refine (if_neg (not_not.2 ht)).trans ?_
  cases tfQuiesceFails x (num r 0) <;> rfl

/-! ### Enabling, thawing and the query (R235, R243, R245) -/

theorem tfEnableCmd_of_tf (hb : r.body.length = 8) (htf : tfExists x (num r 0) = true) : tfEnableCmd x r =
    if (x.tf (num r 0)).st ≠ .disabled then { st := x, status := mbxState }
    else { st := (liftChildren x (num r 0)).onTf (num r 0) (fun y => { y with st := .enabled }) } := by
  simp only [tfEnableCmd]
  rw [if_neg (not_misSized hb), if_neg (not_missingTf htf)]
  rfl

theorem tfThawCmd_of_tf (hb : r.body.length = 8) (htf : tfExists x (num r 0) = true) : tfThawCmd x r =
    if (x.tf (num r 0)).st ≠ .frozen ∧ (x.tf (num r 0)).st ≠ .saved then { st := x, status := mbxState }
    else { st := (thawTimes x (num r 0)).onTf (num r 0) (fun y => { y with st := .enabled, restored := false }) } := by
  simp only [tfThawCmd]
  rw [if_neg (not_misSized hb), if_neg (not_missingTf htf)]
  rfl

/-- Without a quiesce of the tenant function, the query's last four numbers are 0. -/
theorem tfQueryCmd_of_idle (hb : r.body.length = 8) (htf : tfExists x (num r 0) = true) (hq : x.q? (.tf (num r 0)) = none) :
    tfQueryCmd x r = { st := x, out := encNs ([(x.tf (num r 0)).st.code] ++ tfUse x (num r 0) ++ tfQuotas x (num r 0) ++ [0, 0, 0, 0]) } := by
  simp only [tfQueryCmd, hq]
  rw [if_neg (not_misSized hb), if_neg (not_missingTf htf)]
  rfl

end TenantCommands

/-- An enable lifts the completed quiesces of endpoints and traffic-manager queues, not of storage queues (R235). -/
theorem mem_qs_liftChildren {y : State} {n : Nat} {k : QObj × QRec} : k ∈ (liftChildren y n).qs ↔
    k ∈ y.qs ∧ ¬ (k.2.done = true ∧ tfChild y n k.1 = true ∧ ∀ f q, k.1 ≠ .storageQueue f q) := by
  rw [liftChildren, List.mem_filter]
  refine and_congr_right fun _ => ?_
  obtain ⟨o, rec⟩ := k
  cases o with
  | storageQueue f q => simp
  | _ => simp [imp_iff_not_or]

/-- Settles O31: each command by the state of the tenant function that it names. -/
theorem tenantStates : Obligations.TenantStates := by
  unfold Obligations.TenantStates
  intro t s x r slot n st htf
  refine ⟨fun hx hb => ?enable, fun hx hb hp ht => ?disable, fun hx hb ht => ?freeze, fun hx hb => ?thaw,
    fun hx hb hq => answers_of_result rfl hx (tfQueryCmd_of_idle hb htf hq), fun y k => mem_qs_liftChildren⟩
  case enable =>
    have hcmd := tfEnableCmd_of_tf hb htf
    exact ⟨fun h => answers_of_result rfl hx (hcmd.trans (if_neg (not_not.2 h))), fun h => answers_of_result rfl hx (hcmd.trans (if_pos h))⟩
  case disable =>
    have hargs : qArgs r 1 false = .inr (num r 1, num r 2, false) := qArgs_in_range (by simp [hb]) hp ht Bool.noConfusion
    exact answers_tfQuiesce rfl hx (tfDisableCmd_of_args hargs htf)
  case freeze => exact answers_tfQuiesce rfl hx (tfFreezeCmd_of_args hb htf ht)
  case thaw =>
    have hcmd := tfThawCmd_of_tf hb htf
    refine ⟨fun h => answers_of_result rfl hx (hcmd.trans (if_neg fun hno => ?_)),
      fun hf hs => answers_of_result rfl hx (hcmd.trans (if_pos ⟨hf, hs⟩))⟩
    exact h.elim hno.1 hno.2

end Sys2Proof.Machine

/-! Proofs of the statement on a tenant function's migration, and on the regions that it carries (R238 to R244). -/

namespace Sys2Proof.Machine

/-! ### The save and the restore begun (R238, R241) -/

section Transfers

variable {x : State} {r : Req} {e : Book}

/-- Largest messages of a segment size that `len` bytes take, at least one. -/
abbrev messagesOf (len seg : Nat) : Nat := max 1 ((len + 4194304 * 2 ^ seg - 1) / (4194304 * 2 ^ seg))

theorem pieces_maxMessage (len seg : Nat) : pieces len (maxMessage seg) = messagesOf len seg := by
  rw [pieces, maxMessage, ← Nat.mul_assoc]

/-- A save under a migration key: the key's use is counted, and the blob goes out in largest messages, or not at all where it does not
fit its region. -/
def saveBegun (x : State) (r : Req) (e : Book) (k : KeySlot) : State :=
  let iv := x.drawBytes 12
  let y := noteUse iv.2 (num r 1)
  let blob := makeBlob y (num r 0) k iv.1
  let fits := blob.1.length ≤ num r 5
  let parts := if fits then messagesOf blob.1.length e.seg else 0
  let op : SaveOp := { slot := num r 1, left := parts, len := blob.1.length, digest := blob.2, nospace := !decide fits }
  let y := y.onTf (num r 0) (fun z => { z with st := .saving, save := some op })
  sendPieces y (num r 2) e (num r 3) (num r 4) (.save (num r 0)) parts blob.1 0

theorem tfSaveCmd_of_args (hb : r.body.length = 48) (htf : tfExists x (num r 0) = true) (hslot : slotNameable (num r 1) = true)
    (hbook : bookOf x (num r 2) 0 = some e) (hkey : num r 3 < 2 ^ 32) : tfSaveCmd x r =
      if (x.tf (num r 0)).st ≠ .frozen then { st := x, status := mbxState }
      else (migrateKey x (num r 1)).elim (denies x) fun k => { st := saveBegun x r e k } := by
  simp only [tfSaveCmd]
  rw [if_neg (not_misSized hb), if_neg (not_missingTf htf), if_neg (by simp [hslot]), hbook]
  dsimp only
  rw [if_neg (Nat.not_le.2 hkey)]
  refine if_congr Iff.rfl rfl ?_
  cases migrateKey x (num r 1) with
  | none => rfl
  | some k => simp only [pieces_maxMessage, decide_eq_true_eq]; rfl

/-- The tenant function is DISABLED and has no endpoint, storage queue or VALID region. -/
abbrev restorable (x : State) (n : Nat) : Prop :=
  (x.tf n).st = .disabled ∧ ownEndpoints x n = [] ∧ tfQueues x n = [] ∧ ∀ p ∈ tfRegions x n, p.2.state ≠ 1

theorem not_restorable_iff {n : Nat} : ¬ restorable x n ↔
    (x.tf n).st ≠ .disabled ∨ (!(ownEndpoints x n).isEmpty) = true ∨ (!(tfQueues x n).isEmpty) = true
      ∨ (tfRegions x n).any (fun p => p.2.state == 1) = true := by
  simp only [restorable, not_and_or, Bool.not_eq_true', ← Bool.not_eq_true, List.isEmpty_iff, List.any_eq_true, beq_iff_eq, not_forall,
    not_not, exists_prop]

/-- A restore: the blob's bytes are read in largest messages. -/
def restoreBegun (x : State) (r : Req) (e : Book) : State :=
  let parts := messagesOf (num r 5) e.seg
  let op : RestoreOp := { slot := num r 1, book := num r 2, mapKey := num r 6, mapAddr := num r 7, mapLen := num r 8, left := parts }
  let y := x.onTf (num r 0) (fun z => { z with st := .restoring, restore := some op })
  readPieces y (num r 0) (num r 2) e (num r 3) (num r 4) (num r 5) parts 0

theorem tfRestoreCmd_of_args (hb : r.body.length = 72) (htf : tfExists x (num r 0) = true) (hslot : slotNameable (num r 1) = true)
    (hbook : bookOf x (num r 2) 0 = some e) (hkey : num r 3 < 2 ^ 32) (hlen : 0 < num r 5) (hmap : num r 6 < 2 ^ 32) : tfRestoreCmd x r =
      if ¬ restorable x (num r 0) then { st := x, status := mbxState }
      else (migrateKey x (num r 1)).elim (denies x) fun _ => { st := restoreBegun x r e } := by
  simp only [tfRestoreCmd]
  rw [if_neg (not_misSized hb), if_neg (not_missingTf htf), if_neg (by simp [hslot]), hbook]
  dsimp only
  rw [if_neg (Nat.not_le.2 hkey), if_neg (Nat.pos_iff_ne_zero.1 hlen), if_neg (Nat.not_le.2 hmap)]
  refine if_congr not_restorable_iff.symm rfl ?_
  cases migrateKey x (num r 1) with
  | none => rfl
  | some k => simp only [pieces_maxMessage]; rfl

end Transfers

/-! ### The tenant function moved (R244) -/

section Moved

variable {x : State} {r : Req}

/-- The grace period of TF_MOVED, 5 s when its body leaves it out. -/
abbrev graceOf (r : Req) : Nat := if r.body.length = 24 then 5000000000 else leAt r.body 24 8

theorem movedGrace_in_range (hb : r.body.length = 24 ∨ r.body.length = 32) (hg : graceOf r ≤ 60000000000) :
    movedGrace r = some (graceOf r) := by
  rcases hb with hb | hb
  · simp [movedGrace, graceOf, bodyIs, hb]
  · simpa [movedGrace, graceOf, bodyIs, hb] using hg

/-- The moved record of an endpoint: where it is now, under its next generation, until the grace ends. -/
def movedRow (x : State) (r : Req) (p : Nat × Endpoint) : MovedRec :=
  let ip := beAt r.body 8 16
  { tf := num r 0, af := if ip < 2 ^ 32 then 4 else 6, ip := ip, eid := p.1, gen := (p.2.gen + 1) % 65536, endsAt := x.clk.up + graceOf r }

/-- A move: a record for each endpoint, and the tenant function's local objects removed. -/
def movedAway (x : State) (r : Req) : State :=
  let y := (ownEndpoints x (num r 0)).foldl (fun s p => { s with eht.moved := tset s.eht.moved p.1 (movedRow x r p) }) x
  (clearMoved y (num r 0)).onTf (num r 0)
    (fun z => { z with st := .moved, graceAt := some (x.clk.up + graceOf r), restored := false })

theorem tfMovedCmd_of_args (hb : r.body.length = 24 ∨ r.body.length = 32) (htf : tfExists x (num r 0) = true)
    (hg : graceOf r ≤ 60000000000) : tfMovedCmd x r =
      if (x.tf (num r 0)).st ≠ .saved then { st := x, status := mbxState }
      else if 16384 < x.eht.moved.length + (ownEndpoints x (num r 0)).length then { st := x, status := mbxNospace }
      else { st := movedAway x r } := by
  have hsize : bodyIs r 24 = true ∨ bodyIs r 32 = true := by simpa [bodyIs] using hb
  simp only [tfMovedCmd]
  rw [if_neg (not_not.2 hsize), if_neg (not_missingTf htf), movedGrace_in_range hb hg]
  rfl

end Moved

/-! ### The end of a grace period, of a save and of a restore (R238, R241, R244) -/

section TransferEnds

variable {t n g code : Nat} {tf : BitVec 12} {s x y : State}

theorem ends_graceEnd (hx : x = s.advance t) (h : graceEnd x tf.toNat = y) : Ends (.graceEnd t tf) s y :=
  ends_of_act (graceEnd · tf.toNat) rfl hx h

theorem ends_tfSaved (hx : x = s.advance t) (h : tfSavedEnd x tf.toNat = y) : Ends (.tfSaved t tf) s y :=
  ends_of_act (tfSavedEnd · tf.toNat) rfl hx h

theorem ends_tfRestored (hx : x = s.advance t) (h : tfRestoredEnd x tf.toNat = y) : Ends (.tfRestored t tf) s y :=
  ends_of_act (tfRestoredEnd · tf.toNat) rfl hx h

theorem graceEnd_of_none (h : (x.tf n).graceAt = none) : graceEnd x n = x := by simp only [graceEnd, h]

theorem graceEnd_of_some (h : (x.tf n).graceAt = some g) : graceEnd x n =
    if g ≤ x.clk.up then
      { x with eht.moved := x.eht.moved.filter (fun m => m.2.tf != n) }.onTf n (fun y => { y with st := .disabled, graceAt := none })
    else x := by simp only [graceEnd, h]

/-- The status that a save's event carries. -/
abbrev saveStatus (o : SaveOp) : Nat := if o.nospace then mbxNospace else o.bad.getD 0

theorem tfSavedEnd_of_none (h : (x.tf n).save = none) : tfSavedEnd x n = x := by simp only [tfSavedEnd, h]

theorem tfSavedEnd_of_running {o : SaveOp} (h : (x.tf n).save = some o)
    (hrun : (x.tf n).st ≠ .saving ∨ o.left ≠ 0 ∨ nsRecordsLive x n = true) : tfSavedEnd x n = x := by
  simp only [tfSavedEnd, h, if_pos hrun]

/-- A save whose messages have ended, with no journal record left of its namespaces. -/
abbrev saveOver (x : State) (n : Nat) (o : SaveOp) : Prop :=
  (x.tf n).save = some o ∧ (x.tf n).st = .saving ∧ o.left = 0 ∧ nsRecordsLive x n = false

theorem tfSavedEnd_of_over {o : SaveOp} (h : saveOver x n o) : tfSavedEnd x n =
    raise (x.onTf n (fun y => { y with st := if saveStatus o = 0 then .saved else .frozen, save := none })) 0x0A01 n
      (if saveStatus o = 0 then encN o.len ++ padTo 32 o.digest ++ encN 0 else encN 0 ++ List.replicate 32 0 ++ encN (saveStatus o)) := by
  obtain ⟨hs, hst, hl, hn⟩ := h
  simp only [tfSavedEnd, hs]
  exact if_neg (by simp [hst, hl, hn])

/-- A save that succeeds reports the blob's length and digest. -/
theorem tfSavedEnd_good {o : SaveOp} (h : saveOver x n o) (h0 : saveStatus o = 0) : tfSavedEnd x n =
    raise (x.onTf n (fun y => { y with st := .saved, save := none })) 0x0A01 n (encN o.len ++ padTo 32 o.digest ++ encN 0) := by
  rw [tfSavedEnd_of_over h, if_pos h0]
  simp only [if_pos h0]

/-- A save that fails leaves the tenant function FROZEN and reports why. -/
theorem tfSavedEnd_bad {o : SaveOp} (h : saveOver x n o) (hc : saveStatus o = code) (h0 : code ≠ 0) : tfSavedEnd x n =
    raise (x.onTf n (fun y => { y with st := .frozen, save := none })) 0x0A01 n (encN 0 ++ List.replicate 32 0 ++ encN code) := by
  subst hc
  rw [tfSavedEnd_of_over h, if_neg h0]
  simp only [if_neg h0]

theorem tfRestoredEnd_of_none (h : (x.tf n).restore = none) : tfRestoredEnd x n = x := by simp only [tfRestoredEnd, h]

theorem tfRestoredEnd_of_running {o : RestoreOp} (h : (x.tf n).restore = some o) (hrun : (x.tf n).st ≠ .restoring ∨ o.left ≠ 0) :
    tfRestoredEnd x n = x := by simp only [tfRestoredEnd, h, if_pos hrun]

/-- A restore whose READs have ended. -/
abbrev readsOver (x : State) (n : Nat) (o : RestoreOp) : Prop :=
  (x.tf n).restore = some o ∧ (x.tf n).st = .restoring ∧ o.left = 0

theorem readsOver.not_waiting {o : RestoreOp} (h : readsOver x n o) : ¬ ((x.tf n).st ≠ .restoring ∨ o.left ≠ 0) := by
  obtain ⟨-, hst, hl⟩ := h
  simp [hst, hl]

/-- The blob's bytes, as the READs gave them. -/
abbrev bytesRead (o : RestoreOp) : Bytes := o.parts.flatMap Prod.snd

theorem tfRestoredEnd_of_bad_read {o : RestoreOp} (h : readsOver x n o) (hb : o.bad = some code) :
    tfRestoredEnd x n = restoreFails x n code := by
  simp only [tfRestoredEnd, h.1, hb, if_neg h.not_waiting]

/-- Steps 1 to 3 of R241 fail: the blob does not open. -/
theorem tfRestoredEnd_of_unopened {o : RestoreOp} (h : readsOver x n o) (hb : o.bad = none)
    (hopen : openBlob (noteUse x o.slot) o.slot (bytesRead o) = .inr code) : tfRestoredEnd x n = restoreFails (noteUse x o.slot) n code := by
  simp only [tfRestoredEnd, h.1, hb, hopen, if_neg h.not_waiting]

/-- Steps 4 to 7 of R241 fail: the tenant function cannot hold what the blob carries. -/
theorem tfRestoredEnd_of_refused {o : RestoreOp} {b : Blob} (h : readsOver x n o) (hb : o.bad = none)
    (hopen : openBlob (noteUse x o.slot) o.slot (bytesRead o) = .inl b) (hfail : blobFails (noteUse x o.slot) n b = some code) :
    tfRestoredEnd x n = restoreFails (noteUse x o.slot) n code := by
  simp only [tfRestoredEnd, h.1, hb, hopen, hfail, if_neg h.not_waiting]

/-- A blob that passes every check of R241 is placed, and the map of the keys that change is sent. -/
theorem tfRestoredEnd_of_accepted {o : RestoreOp} {b : Blob} (h : readsOver x n o) (hb : o.bad = none)
    (hopen : openBlob (noteUse x o.slot) o.slot (bytesRead o) = .inl b) (hok : blobFails (noteUse x o.slot) n b = none) :
    tfRestoredEnd x n = sendKeyMap (placeBlob (noteUse x o.slot) n b) n o
      (b.regs.flatMap (fun z => (keyMapEntry z (carriedRegion (noteUse x o.slot) n z)).getD [])) := by
  simp only [tfRestoredEnd, h.1, hb, hopen, hok, if_neg h.not_waiting]

end TransferEnds

/-! ### A carried region at its destination (R242) -/

section Carried

variable {s : State} {tf index kind : Nat} {d : Region}

/-- The generation of the descriptor that stands at an index. -/
abbrev ownGen (s : State) (index : Nat) : Nat := (tget s.eht.regions index default).gen

/-- The later of the carried generation and the destination's own. -/
abbrev laterGen (s : State) (index : Nat) (d : Region) : Nat := if serialLater 12 (ownGen s index) d.gen then ownGen s index else d.gen

theorem carriedRegion_of_valid (hk : kind < 2) (hd : d.state = 1) : carriedRegion s tf (index, kind, d) =
    { d with tf := tf, gen := laterGen s index d, state := 1, target := (allocOf s tf kind).1 + d.target } := by
  have hstays : ¬ (kind = 2 ∨ d.state = 2) := by omega
  have hk2 : kind ≠ 2 := by omega
  simp only [carriedRegion, if_neg hstays, if_neg hk2]

/-- A region of other memory, or one REVOKED in the blob, cannot stay VALID. -/
theorem carriedRegion_of_gone (h : kind = 2 ∨ d.state = 2) : (carriedRegion s tf (index, kind, d)).state = 2
    ∧ (carriedRegion s tf (index, kind, d)).gen = (laterGen s index d + 1) % 4096 := by
  simp only [carriedRegion, if_pos h, true_and]

theorem keyMapEntry_of_same {c : Region} (h : c.gen = d.gen) : keyMapEntry (index, kind, d) c = none := if_pos h

theorem keyMapEntry_of_changed {c : Region} (h : c.gen ≠ d.gen) :
    keyMapEntry (index, kind, d) c = some (encNs [index * 4096 + d.gen, index * 4096 + c.gen, c.state]) := if_neg h

theorem ne_of_serialLater {n a b : Nat} (ha : a < 2 ^ n) (hb : b < 2 ^ n) (h : serialLater n a b = true) : a ≠ b := fun hab =>
  absurd ((serialDist_eq_zero_iff ha hb).2 hab) (Nat.pos_iff_ne_zero.1 ((serialLater_iff n a b).1 h).1)

end Carried

/-- Settles O32: each command by the state of the tenant function, each row by what it waits for, and a carried region by its
kind and the two generations. -/
theorem tenantMoves : Obligations.TenantMoves := by
  unfold Obligations.TenantMoves
  refine ⟨fun t s x r slot => ⟨?transfers, ?moved, ?rows⟩, fun s tf index kind d hd => ?carried⟩
  case transfers =>
    intro n e htf hslot hbook hkey
    refine ⟨fun hx hb => ?save, fun hx hb hlen hmap => ?restore⟩
    case save =>
      have hcmd := tfSaveCmd_of_args hb htf hslot hbook hkey
      refine ⟨fun h => answers_of_result rfl hx (hcmd.trans (if_pos h)), fun k h hk => ?_⟩
      refine answers_of_result rfl hx (hcmd.trans ((if_neg (not_not.2 h)).trans ?_))
      rw [hk]
      rfl
    case restore =>
      intro empty
      have hcmd := tfRestoreCmd_of_args hb htf hslot hbook hkey hlen hmap
      refine ⟨fun h => answers_of_result rfl hx (hcmd.trans (if_pos h)), fun h hk => ?_⟩
      obtain ⟨k, hk⟩ := Option.isSome_iff_exists.1 hk
      refine answers_of_result rfl hx (hcmd.trans ((if_neg (not_not.2 h)).trans ?_))
      rw [hk]
      rfl
  case moved =>
    intro n ip grace hx htf hb hg
    have hcmd := tfMovedCmd_of_args hb htf hg
    refine ⟨fun h => answers_of_result rfl hx (hcmd.trans (if_pos h)), fun h hfull => ?_, fun h hroom => ?_⟩ <;>
      refine answers_of_result rfl hx (hcmd.trans ((if_neg (not_not.2 h)).trans ?_))
    · exact if_pos hfull
    · exact if_neg (Nat.not_lt.2 hroom)
  case rows =>
    intro tf hx n f
    refine ⟨fun g hg => ?grace, fun h => ends_graceEnd hx (graceEnd_of_none h), fun h => ends_tfSaved hx (tfSavedEnd_of_none h),
      fun o ho hst hl hn => ?saved, fun o ho hrun => ends_tfSaved hx (tfSavedEnd_of_running ho hrun),
      fun h => ends_tfRestored hx (tfRestoredEnd_of_none h), fun o ho hrun => ends_tfRestored hx (tfRestoredEnd_of_running ho hrun),
      fun o ho hst hl => ?restored⟩
    case grace =>
      have hend := graceEnd_of_some hg
      exact ⟨fun h => ends_graceEnd hx (hend.trans (if_pos h)), fun h => ends_graceEnd hx (hend.trans (if_neg (Nat.not_le.2 h)))⟩
    case saved =>
      have hover : saveOver x n o := ⟨ho, hst, hl, hn⟩
      refine ⟨fun hroom hgood => ?_, fun code h0 hcode => ?_⟩
      · exact ends_tfSaved hx (tfSavedEnd_good hover (by simp [saveStatus, hroom, hgood]))
      · refine ends_tfSaved hx (tfSavedEnd_bad hover ?_ h0)
        rcases hcode with ⟨hfull, rfl⟩ | ⟨hroom, hbad⟩
        · exact if_pos hfull
        · simp [saveStatus, hroom, hbad]
    case restored =>
      have hover : readsOver x n o := ⟨ho, hst, hl⟩
      intro fail
      refine ⟨fun code hbad => ?_, fun hbad => ⟨fun code hopen => ?_, fun b hopen => ⟨fun code hfail => ?_, fun hok => ?_⟩⟩⟩
      · exact ends_tfRestored hx (tfRestoredEnd_of_bad_read hover hbad)
      · exact ends_tfRestored hx (tfRestoredEnd_of_unopened hover hbad hopen)
      · exact ends_tfRestored hx (tfRestoredEnd_of_refused hover hbad hopen hfail)
      · exact ends_tfRestored hx (tfRestoredEnd_of_accepted hover hbad hopen hok)
  case carried =>
    intro own c hown
    refine ⟨fun hk hst => ?_, carriedRegion_of_gone⟩
    have hc : c = _ := carriedRegion_of_valid hk hst
    rw [hc]
    refine ⟨rfl, rfl, rfl, rfl, rfl, rfl, fun hl => ?_, fun hl => ?_⟩
    · have hgen : laterGen s index d = d.gen := if_neg (Bool.eq_false_iff.1 hl)
      exact ⟨hgen, keyMapEntry_of_same hgen⟩
    · have hgen : laterGen s index d = own := if_pos hl
      rw [keyMapEntry_of_changed (hgen.trans_ne (ne_of_serialLater hown hd hl)), hgen]
      exact ⟨rfl, rfl⟩

end Sys2Proof.Machine

/-! Facts that the proofs on Idori threads share: what an update of a thread leaves, how a breakpoint stops one, and how an
instruction that a thread issues ends. -/

namespace Sys2Proof.Machine

section Threads

variable (s : State) (i : Tid) (f : Thread → Thread)

/-! ### What an update of a thread leaves -/

theorem thr_onThr_self : (s.onThr i f).thr i = f (s.thr i) := (thr_onThr s i i f).trans (if_pos rfl)

theorem thr_onThr_of_ne {j : Tid} (h : j ≠ i) : (s.onThr i f).thr j = s.thr j := (thr_onThr s i j f).trans (if_neg h)

/-- An update of a thread leaves every field of its role but the threads. -/
theorem role_onThr (a b : Nat) : ∃ l, (s.onThr i f).role a b = { s.role a b with threads := l } := by
  unfold State.onThr State.onThrAt
  rw [role_onRole]
  split
  · next h => obtain ⟨rfl, rfl⟩ := h; exact ⟨_, rfl⟩
  · exact ⟨_, rfl⟩

@[simp] theorem bps_onThr (a b : Nat) : ((s.onThr i f).role a b).bps = (s.role a b).bps := by
  obtain ⟨l, hl⟩ := role_onThr s i f a b; rw [hl]

end Threads

/-! ### Breakpoints (R268) -/

section Breakpoints

variable {s : State} {i : Tid}

theorem reach_of_no_breakpoint (h : (s.thr i).st ≠ .ready ∨ ∀ b ∈ (s.role i.stall.val i.role.val).bps, b.2 ≠ (s.thr i).pc) :
    reach s i = s := by
  refine if_neg fun hc => ?_
  obtain ⟨hst, hb⟩ := Bool.and_eq_true_iff.1 hc
  obtain ⟨b, hmem, hpc⟩ := List.any_eq_true.1 hb
  exact h.elim (· (beq_iff_eq.1 hst)) (· b hmem (beq_iff_eq.1 hpc))

theorem reach_of_breakpoint (hst : (s.thr i).st = .ready) (h : ∃ b ∈ (s.role i.stall.val i.role.val).bps, b.2 = (s.thr i).pc) :
    reach s i = pumpEvents (raise ((quietKeep s i.stall.val i.role.val).onThr i (fun t => { t with st := .stopped, prev := .ready }))
      0x0B05 (i.stall.val * 16 + i.role.val) (encN i.thread.val ++ encN (s.thr i).pc.toNat)) := by
  obtain ⟨b, hmem, hpc⟩ := h
  exact if_pos (Bool.and_eq_true_iff.2 ⟨beq_iff_eq.2 hst, List.any_eq_true.2 ⟨b, hmem, (beq_iff_eq (a := b.2)).2 hpc⟩⟩)

end Breakpoints

/-! ### Instructions that a thread issues (R254) -/

section Issued

variable {s x : State} {i : Tid} {c : Instr} {f g : State → State}

theorem exec_of_issues (hc : exec c s = issue i f s) (h : Issues i s x) : exec c s = .next (f x) := hc.trans (issue_of_issues h f)

/-- A thread that may issue belongs to no dead core, so what leaves its core acts as any other instruction. -/
theorem exec_of_issues_out (hc : exec c s = issueOut i f g s) (h : Issues i s x) : exec c s = .next (f x) :=
  exec_of_issues (hc.trans (issueOut_eq_issue (goesOn_of_canIssue h.1) f g)) h

end Issued

end Sys2Proof.Machine

/-! Proofs of the statement on the registers, windows, branches and fences of an Idori thread (R268, R277 to R286). -/

namespace Sys2Proof.Machine

/-! ### General registers and the pc (R277, R278) -/

section Registers

variable (s : State) (i : Tid)

theorem greg_zero : s.greg i 0 = 0 := by simp [State.greg, Thread.reg]

theorem greg_setReg_zero (v : Word64) : (s.setReg i 0 v).greg i = s.greg i := by
  funext q
  by_cases h : q = 0#5
  · rw [greg_setReg, if_pos h, h]; exact (greg_zero s i).symm
  · exact (greg_setReg s i 0 q v).trans ((if_neg h).trans (if_neg h))

theorem greg_setReg_self {r : Reg} (h : r ≠ 0) (v : Word64) : (s.setReg i r v).greg i r = v := by
  exact (greg_setReg s i r r v).trans ((if_neg h).trans (if_pos rfl))

theorem greg_setReg_of_ne {r q : Reg} (h : q ≠ r) (v : Word64) : (s.setReg i r v).greg i q = s.greg i q := by
  by_cases h0 : q = 0#5
  · rw [greg_setReg, if_pos h0, h0]; exact (greg_zero s i).symm
  · rw [greg_setReg, if_neg h0, if_neg h]

theorem pc_setReg (r : Reg) (v : Word64) : ((s.setReg i r v).thr i).pc = (s.thr i).pc := by
  rw [State.setReg, thr_onThr_self, Thread.setReg]
  split <;> rfl

end Registers

/-! ### Memory windows (R280) -/

section Windows

variable {s : State} {i : Tid} {a n tf : Nat}

/-- The range lies in an allocation, or in the tenant share where tenant function 0 asks. -/
abbrev inAllocation (tf a n : Nat) (alloc share0 : Nat × Nat) : Prop :=
  if tf = 0 then share0.1 ≤ a ∧ a + n ≤ share0.2 else alloc.1 ≤ a ∧ a + n ≤ alloc.1 + alloc.2

theorem inRange_iff {r : Nat × Nat} : inRange r a n = true ↔ r.1 ≤ a ∧ a + n ≤ r.2 := by simp [inRange]

theorem tfMarket_iff : tfMarket s tf a n = true ↔ inAllocation tf a n (s.tf tf).mkt (marketShare s) := by
  unfold tfMarket inAllocation
  split <;> exact inRange_iff

theorem tfHbm_iff : tfHbm s tf a n = true ↔ inAllocation tf a n (s.tf tf).hbm (hbmShare s) := by
  unfold tfHbm inAllocation
  split <;> exact inRange_iff

theorem inHeldBuf_iff : inHeldBuf s tf a n = true ↔
    ∃ p ∈ s.mem.bufs, p.2.tf = tf ∧ p.1 ≤ a ∧ a + n ≤ p.1 + (p.2.cap + 255) / 256 * 256 := by
  refine List.any_eq_true.trans (exists_congr fun p => and_congr_right fun _ => ?_)
  rw [Bool.and_eq_true, Bool.and_eq_true, beq_iff_eq, decide_eq_true_eq, decide_eq_true_eq, and_assoc]
  rfl

theorem inMarket_iff : inMarket a n = true ↔ marketBase ≤ a ∧ a + n ≤ marketBase + marketSize := by
  rw [inMarket, Bool.and_eq_true, decide_eq_true_eq, decide_eq_true_eq]

theorem inHbm_iff : inHbm a n = true ↔ hbmBase ≤ a ∧ a + n ≤ hbmBase + hbmSize := by
  rw [inHbm, Bool.and_eq_true, decide_eq_true_eq, decide_eq_true_eq]

theorem localWindow_scratch (h : a + n ≤ 0x20000) : localWindow i a n = some (scratchBase i.stall.val i.role.val + a) := if_pos h

theorem localWindow_stallMem (hn : 0 < n) (h : 0x10000000 ≤ a) (h2 : a + n ≤ 0x10300000) :
    localWindow i a n = some (stallMemBase i.stall.val + (a - 0x10000000)) := (if_neg (by omega)).trans (if_pos ⟨h, h2⟩)

theorem localWindow_none (h : ¬ a + n ≤ 0x20000) (h2 : ¬ (0x10000000 ≤ a ∧ a + n ≤ 0x10300000)) : localWindow i a n = none :=
  (if_neg h).trans (if_neg h2)

theorem localWindow_past (hn : 0 < n) (h : marketBase ≤ a) : localWindow i a n = none := by
  unfold marketBase at h
  exact localWindow_none (by omega) (by omega)

theorem window_of_local {m : Nat} (h : localWindow i a n = some m) : window s i a n = some m := by simp only [window, h]

theorem window_of_not_local (h : localWindow i a n = none) : window s i a n =
    if inMarket a n then (if tfMarket s (s.thr i).tf a n || inHeldBuf s (s.thr i).tf a n then some a else none)
    else if inHbm a n then (if tfHbm s (s.thr i).tf a n then some a else none)
    else none := by simp only [window, h]

theorem window_market (hn : 0 < n) (h : inMarket a n = true) :
    window s i a n = if tfMarket s (s.thr i).tf a n || inHeldBuf s (s.thr i).tf a n then some a else none := by
  rw [window_of_not_local (localWindow_past hn (inMarket_iff.1 h).1), if_pos h]

theorem window_hbm (hn : 0 < n) (h : inHbm a n = true) :
    window s i a n = if tfHbm s (s.thr i).tf a n then some a else none := by
  have hbase : hbmBase ≤ a := (inHbm_iff.1 h).1
  have hmkt : ¬ inMarket a n = true := fun hm => by
    have htop := (inMarket_iff.1 hm).2
    unfold marketBase marketSize at htop
    unfold hbmBase at hbase
    omega
  rw [window_of_not_local (localWindow_past hn (Nat.le_trans (by decide) hbase)), if_neg hmkt, if_pos h]

theorem window_outside (hl : localWindow i a n = none) (hm : ¬ inMarket a n = true) (hh : ¬ inHbm a n = true) :
    window s i a n = none := by
  rw [window_of_not_local hl, if_neg hm, if_neg hh]

end Windows

/-! ### Branches (R284, R286) -/

section Branches

variable {s x : State} {i : Tid} {c : Instr} {ra rb : Reg} {off : Word16}

/-- A target is the instruction's own address plus four times its offset. -/
theorem target_eq {w : Nat} (pc : Word64) (off : BitVec w) : target pc off = pc + 4 * off.signExtend 64 := by
  rw [target, BitVec.shiftLeft_eq_mul_twoPow, BitVec.mul_comm]; rfl

theorem not_slt_iff {a b : Word64} : (!a.slt b) = true ↔ b.toInt ≤ a.toInt := by
  rw [Bool.not_eq_true', ← Bool.not_eq_true, BitVec.slt_iff_toInt_lt, Int.not_lt]

theorem not_ult_iff {a b : Word64} : (!a.ult b) = true ↔ b.toNat ≤ a.toNat := by
  rw [Bool.not_eq_true', ← Bool.not_eq_true, BitVec.ult_iff_toNat_lt, Nat.not_lt]

theorem exec_branch {p : Word64 → Word64 → Bool} {P : Prop} (hc : exec c s = issue i (opB p i ra rb off) s) (h : Issues i s x)
    (hp : p (x.greg i ra) (x.greg i rb) = true ↔ P) :
    (P → exec c s = .next (x.setPc i ((x.thr i).pc + 4 * off.signExtend 64))) ∧ (¬ P → exec c s = .next (retire x i)) := by
  rw [exec_of_issues hc h, opB, target_eq]
  exact ⟨fun hP => by rw [if_pos (hp.2 hP)], fun hP => by rw [if_neg (mt hp.1 hP)]⟩

end Branches

/-! ### What a fetch finds (R283) -/

section Fetches

/-- The byte that a fetch of thread `i` finds at a device address: the one kept from before its own stores, or memory's. -/
def foundByte (s : State) (i : Tid) (a : Nat) : Byte := (tget? (s.thr i).unfenced a).getD ((s.peek a 1).headD 0)

theorem tget?_keepOne (l : Tab Byte) (j a : Nat) (v : Byte) :
    tget? (if (tget? l j).isSome then l else tset l j v) a = (tget? l a).or (if a = j then some v else none) := by
  by_cases ha : a = j
  · subst ha
    cases h : tget? l a <;> simp [h, tget?_tset]
  · split <;> simp [tget?_tset, ha]

/-- Bytes kept for the fetch: an address already kept stays as it is. -/
theorem tget?_keep (b : Nat → Byte) (x n : Nat) (l : Tab Byte) (a : Nat) :
    tget? ((List.range n).foldl (fun l k => if (tget? l (x + k)).isSome then l else tset l (x + k) (b (x + k))) l) a =
      (tget? l a).or (if x ≤ a ∧ a < x + n then some (b a) else none) := by
  induction n with
  | zero => rw [if_neg (by omega)]; exact (Option.or_none).symm
  | succ n ih =>
    rw [List.range_succ, List.foldl_append, List.foldl_cons, List.foldl_nil, tget?_keepOne, ih, Option.or_assoc]
    congr 1
    by_cases ha : a = x + n
    · rw [if_neg (by omega), if_pos ha, if_pos (by omega), ha]; rfl
    · rw [if_neg ha, Option.or_none]
      exact if_congr (by omega) rfl rfl

theorem foundByte_keepFetched_poke (s : State) (i : Tid) (x k : Nat) (v : Bytes) :
    foundByte ((keepFetched s i x v.length).poke x v) i k = foundByte s i k := by
  have hkept : tget? (((keepFetched s i x v.length).poke x v).thr i).unfenced k =
      (tget? (s.thr i).unfenced k).or (if x ≤ k ∧ k < x + v.length then some ((s.peek k 1).headD 0) else none) := by
    refine (congrArg (fun t : Thread => tget? t.unfenced k) (thr_onThr_self s i _)).trans ?_
    exact tget?_keep (fun a => (s.peek a 1).headD 0) x v.length _ k
  unfold foundByte
  rw [hkept]
  by_cases hk : x ≤ k ∧ k < x + v.length
  · rw [if_pos hk]
    cases tget? (s.thr i).unfenced k <;> rfl
  · rw [if_neg hk, Option.or_none]
    exact congrArg (Option.getD _) (mread_poke s x v k (by omega))

end Fetches

/-- Settles O38: registers by the rule of a write, windows by the memory that the range lies in, branches by their condition. -/
theorem idoriRegisters : Obligations.IdoriRegisters := by
  unfold Obligations.IdoriRegisters
  refine ⟨fun s i pc v r => ?registers, fun s i a n hn => ?windows, fun s x i rd ra rb off imm far hx => ?jumps,
    fun s i x k v => ?fetches⟩
  case registers =>
    refine ⟨greg_zero s i, greg_setReg_zero s i v, fun h => greg_setReg_self s i h v, fun q h => greg_setReg_of_ne s i h v,
      pc_setReg s i r v, fun j h => thr_onThr_of_ne s i _ h, rfl, fun h => ?_, fun hst hb => ?_⟩
    · refine reach_of_no_breakpoint ?_
      rw [thr_onThr_self, bps_onThr]
      exact h
    · have hself := thr_onThr_self s i fun t => { t with pc := pc }
      refine (reach_of_breakpoint (by rw [hself]; exact hst) (by rw [hself, bps_onThr]; exact hb)).trans ?_
      rw [hself]
  case windows =>
    intro tf share
    refine ⟨fun h => window_of_local (localWindow_scratch h), fun h h2 => window_of_local (localWindow_stallMem hn h h2),
      fun h h2 => ?_, fun h h2 => ?_, fun h1 h2 h3 h4 => ?_⟩
    · have hmine : (tfMarket s tf a n || inHeldBuf s tf a n) = true ↔ _ :=
        Bool.or_eq_true_iff.trans (or_congr tfMarket_iff inHeldBuf_iff)
      rw [window_market hn (inMarket_iff.2 ⟨h, h2⟩)]
      exact ⟨fun h => if_pos (hmine.2 h), fun h => if_neg (mt hmine.1 h)⟩
    · rw [window_hbm hn (inHbm_iff.2 ⟨h, h2⟩)]
      exact ⟨fun h => if_pos (tfHbm_iff.2 h), fun h => if_neg (mt tfHbm_iff.1 h)⟩
    · exact window_outside (localWindow_none h1 h2) (mt inMarket_iff.1 h3) (mt inHbm_iff.1 h4)
  case jumps =>
    refine ⟨?_, ?_, ?_, ?_, exec_of_issues (f := (retire · i)) rfl hx, exec_of_issues (f := opIfence i) rfl hx⟩
    · simp only [List.forall_mem_cons, List.not_mem_nil, false_implies, implies_true, and_true]
      exact ⟨exec_branch rfl hx beq_iff_eq, exec_branch rfl hx bne_iff_ne, exec_branch rfl hx BitVec.slt_iff_toInt_lt,
        exec_branch rfl hx not_slt_iff, exec_branch rfl hx BitVec.ult_iff_toNat_lt,
        exec_branch rfl hx not_ult_iff⟩
    · exact (exec_of_issues rfl hx).trans (by rw [opJ, target_eq])
    · exact (exec_of_issues rfl hx).trans (by rw [opJal, target_eq])
    · exact exec_of_issues (f := opJalr i rd ra imm) rfl hx
  case fetches => exact ⟨rfl, fun j h => thr_onThr_of_ne s i _ h, foundByte_keepFetched_poke s i x k v⟩

end Sys2Proof.Machine

/-! Proofs of the statement on channel writes (R257, R290, R291). -/

namespace Sys2Proof.Machine

section ChannelWrites

variable {s x y : State} {i : Tid} {rd ra : Reg} {ep : BitVec 6} {c e : Nat} {w : List Word64} {eom : Bool}

/-! ### A staged message appended (R257, R273, R291) -/

theorem chanRefuses_iff : chanRefuses y i c = true ↔ c / 1024 ≠ i.stall.val ∧ (y.stall (c / 1024)).st ≠ .running := by
  simp [chanRefuses]

theorem appendStage_refused (hy : y = x.onStage i e { words := w, closed := true }) (h : c / 1024 ≠ i.stall.val)
    (hst : (y.stall (c / 1024)).st ≠ .running) :
    appendStage x i rd e c w = faultThread (countErr y (stallBase (c / 1024) + 0x4C)) i 0x0A0A c := by
  subst hy
  exact if_pos (chanRefuses_iff.2 ⟨h, hst⟩)

/-- A message in its ring, counted: what its reader's core then hears of. -/
abbrev ringJoined (y : State) (c : Nat) (m : ChMsg) : State :=
  countStat (countStat (y.onChan c (fun q => { q with msgs := q.msgs ++ [m] })) (stallBase (c / 1024) + 0x180) 1)
    (stallBase (c / 1024) + 0x188) m.words.length

theorem quietReset_of_reader (z : State) (n : Nat) (o : Option (Nat × Nat × Nat)) :
    (match o with
      | some (r, _, _) => quietReset z n r
      | none => z) =
    match o with
    | some q => quietReset z n q.1
    | none => z := by cases o <;> rfl

theorem appendMsg_eq (y : State) (c : Nat) (m : ChMsg) : appendMsg y c m =
    match readerOf (ringJoined y c m) c with
    | some q => quietReset (ringJoined y c m) (c / 1024) q.1
    | none => ringJoined y c m := quietReset_of_reader (ringJoined y c m) (c / 1024) _

/-- Under a current stamp the message joins its ring when it has room there; the slot stays closed otherwise. -/
theorem appendStage_current (hy : y = x.onStage i e { words := w, closed := true })
    (h : c / 1024 = i.stall.val ∨ (y.stall (c / 1024)).st = .running)
    (hok : y.fenceOk (unitCore i.stall.val ((y.role i.stall.val i.role.val).phys.getD 0)) (.core i.stall.val i.role.val) = true) :
    appendStage x i rd e c w =
      if w.length ≤ chanRoom y c then endStatus ((appendMsg y c { src := srcId i, words := w }).onStage i e {}) i rd 0
      else endStatus y i rd 1 := by
  subst hy
  refine (if_neg fun hr => ?_).trans (if_neg (by simp [hok]))
  obtain ⟨hne, hst⟩ := chanRefuses_iff.1 hr
  exact h.elim hne hst

/-! ### CHW and CHWE -/

theorem opChw_unbound (h : boundEp x i ep.toNat 2 = none) : opChw eom i rd ra ep x = faultThread x i 0x0A08 ep.toNat := by
  simp only [opChw, h]; rfl

theorem opChw_closed (h : boundEp x i ep.toNat 2 = some c) (hc : (x.stage i ep.toNat).closed = true) :
    opChw eom i rd ra ep x = endStatus x i rd 1 := by
  simp only [opChw, h]; exact if_pos hc

theorem opChw_long (h : boundEp x i ep.toNat 2 = some c) (hc : (x.stage i ep.toNat).closed = false)
    (hl : 64 ≤ (x.stage i ep.toNat).words.length) :
    opChw eom i rd ra ep x = faultThread (x.onStage i ep.toNat {}) i 0x0A09 ep.toNat := by
  simp only [opChw, h]; exact (if_neg (by simp [hc])).trans (if_pos hl)

theorem opChw_short (h : boundEp x i ep.toNat 2 = some c) (hc : (x.stage i ep.toNat).closed = false)
    (hl : (x.stage i ep.toNat).words.length < 64) : opChw eom i rd ra ep x =
      if eom then appendStage x i rd ep.toNat c ((x.stage i ep.toNat).words ++ [x.greg i ra])
      else endStatus (x.onStage i ep.toNat { words := (x.stage i ep.toNat).words ++ [x.greg i ra] }) i rd 0 := by
  simp only [opChw, h]; exact (if_neg (by simp [hc])).trans (if_neg (Nat.not_le.2 hl))

/-! ### CHPUSH, CHDROP and WSPACE -/

theorem opChpush_unbound (h : boundEp x i ep.toNat 2 = none) : opChpush i rd ep x = faultThread x i 0x0A08 ep.toNat := by
  simp only [opChpush, h]; rfl

theorem opChpush_bound (h : boundEp x i ep.toNat 2 = some c) : opChpush i rd ep x =
    if (x.stage i ep.toNat).closed then appendStage x i rd ep.toNat c (x.stage i ep.toNat).words else endStatus x i rd 6 := by
  simp only [opChpush, h]; rfl

theorem opChdrop_unbound (h : boundEp x i ep.toNat 2 = none) : opChdrop i ep x = faultThread x i 0x0A08 ep.toNat := by
  simp only [opChdrop, h]; rfl

theorem opChdrop_bound (h : boundEp x i ep.toNat 2 = some c) :
    opChdrop i ep x = retire ((x.onStage i ep.toNat {}).setCs i 0) i := by
  simp only [opChdrop, h]; rfl

theorem opWspace_unbound (h : boundEp x i ep.toNat 2 = none) : opWspace i rd ep x = faultThread x i 0x0A08 ep.toNat := by
  simp only [opWspace, h]; rfl

end ChannelWrites

/-- Settles O42: each instruction by whether its endpoint is bound, its slot closed and its words too many, and an append by its ring. -/
theorem idoriChannelWrites : Obligations.IdoriChannelWrites := by
  unfold Obligations.IdoriChannelWrites
  intro s x i rd ra ep hx st r g ends
  have hchw : exec (.chw i rd ra ep) s = .next (opChw false i rd ra ep x) := exec_of_issues rfl hx
  have hchwe : exec (.chwe i rd ra ep) s = .next (opChw true i rd ra ep x) := exec_of_issues_out rfl hx
  have hpush : exec (.chpush i rd ep) s = .next (opChpush i rd ep x) := exec_of_issues rfl hx
  have hdrop : exec (.chdrop i ep) s = .next (opChdrop i ep x) := exec_of_issues rfl hx
  have hspace : exec (.wspace i rd ep) s = .next (opWspace i rd ep x) := exec_of_issues rfl hx
  refine ⟨fun hb => ?unbound, fun c hb => ?bound⟩
  case unbound =>
    simp only [List.forall_mem_cons, List.not_mem_nil, false_implies, implies_true, and_true]
    rw [hchw, hchwe, hpush, hdrop, hspace]
    exact ⟨congrArg _ (opChw_unbound hb), congrArg _ (opChw_unbound hb), congrArg _ (opChpush_unbound hb),
      congrArg _ (opChdrop_unbound hb), congrArg _ (opWspace_unbound hb)⟩
  case bound =>
    intro staged append
    have happend : ∀ c1 w, exec c1 s = .next (appendStage x i rd ep.toNat c w) → append c1 w := fun c1 w he => by
      refine ⟨fun hne hst => ?_, fun h hok => ⟨fun hroom => ?_, fun hfull => ?_⟩⟩
      · exact he.trans (congrArg _ (appendStage_refused rfl hne hst))
      · refine he.trans (congrArg _ ((appendStage_current rfl h hok).trans ((if_pos hroom).trans ?_)))
        rw [appendMsg_eq]
        rfl
      · exact he.trans (congrArg _ ((appendStage_current rfl h hok).trans (if_neg (Nat.not_le.2 hfull))))
    refine ⟨fun hc => ⟨?_, ?_, happend _ _ ?_⟩, fun hc hl => ⟨?_, happend _ _ ?_⟩, fun hc hl => ?_, fun hc => ?_, ?_⟩
    · exact hchw.trans (congrArg _ (opChw_closed hb hc))
    · exact hchwe.trans (congrArg _ (opChw_closed hb hc))
    · exact hpush.trans (congrArg _ ((opChpush_bound hb).trans (if_pos hc)))
    · exact hchw.trans (congrArg _ (opChw_short hb hc hl))
    · exact hchwe.trans (congrArg _ (opChw_short hb hc hl))
    · simp only [List.forall_mem_cons, List.not_mem_nil, false_implies, implies_true, and_true]
      exact ⟨hchw.trans (congrArg _ (opChw_long hb hc hl)), hchwe.trans (congrArg _ (opChw_long hb hc hl))⟩
    · exact hpush.trans (congrArg _ ((opChpush_bound hb).trans (if_neg (Bool.eq_false_iff.1 hc))))
    · exact hdrop.trans (congrArg _ (opChdrop_bound hb))

end Sys2Proof.Machine

/-! Proofs of the statement on channel reads and ports, and on what ends a wait (R259, R260, R292, R293). -/

namespace Sys2Proof.Machine

/-! ### The mask of the select port (R293) -/

theorem bitsOf_lt (n : Nat) (p : Nat → Bool) : bitsOf n p < 2 ^ n := by
  induction n with
  | zero => exact Nat.one_pos
  | succ n ih =>
    rw [bitsOf_succ, Nat.pow_succ]
    split <;> omega

theorem testBit_bitsOf (n k : Nat) (p : Nat → Bool) : (bitsOf n p).testBit k = (decide (k < n) && p k) := by
  induction n with
  | zero => simp [bitsOf]
  | succ n ih =>
    rw [bitsOf_succ]
    rcases Nat.lt_trichotomy k n with hk | rfl | hk
    · have hsum : (bitsOf n p + 2 ^ n).testBit k = (bitsOf n p).testBit k := by
        rw [Nat.add_comm, Nat.testBit_two_pow_add_gt hk]
      rw [apply_ite (Nat.testBit · k), hsum, ite_self, ih]
      simp [hk, Nat.lt_succ_of_lt hk]
    · have hclear : (bitsOf k p).testBit k = false := Nat.testBit_lt_two_pow (bitsOf_lt k p)
      cases hp : p k <;> simp [hclear, Nat.add_comm, Nat.testBit_two_pow_add_eq]
    · have hlt : ∀ m, m < 2 ^ (n + 1) → m.testBit k = false := fun m hm =>
        Nat.testBit_lt_two_pow (Nat.lt_of_lt_of_le hm (Nat.pow_le_pow_right (by decide) hk))
      rw [← bitsOf_succ, hlt _ (bitsOf_lt (n + 1) p)]
      simp [Nat.not_lt.2 hk]

theorem getLsbD_epMask {k : Nat} (hk : k < 64) (p : Nat → Bool) : (epMask p).getLsbD k = p k := by
  have hbits : epMask p = BitVec.ofNat 64 (bitsOf 64 p) := rfl
  rw [hbits, BitVec.getLsbD_ofNat, testBit_bitsOf]
  simp [hk]

/-! ### The timer port (R293) -/

section Timer

variable {s : State} {i : Tid}

theorem toNat_timeWord (ns : Nat) : (timeWord ns).toNat = ns / nsPerSec % 2 ^ 32 * 2 ^ 32 + ns % nsPerSec := by
  rw [timeWord, BitVec.toNat_ofNat]
  unfold nsPerSec
  omega

theorem timerReached_iff {d : Word64} : timerReached s d = true ↔
    serialLater 32 (s.ns / nsPerSec % 2 ^ 32) (d.toNat / 2 ^ 32) = true
      ∨ (s.ns / nsPerSec % 2 ^ 32 = d.toNat / 2 ^ 32 ∧ d.toNat % 2 ^ 32 ≤ s.ns % nsPerSec) := by
  have hsec : (timeWord s.ns).toNat / 2 ^ 32 = s.ns / nsPerSec % 2 ^ 32 := by
    rw [toNat_timeWord]; unfold nsPerSec; omega
  have hns : (timeWord s.ns).toNat % 2 ^ 32 = s.ns % nsPerSec := by
    rw [toNat_timeWord]; unfold nsPerSec; omega
  simp only [timerReached, hsec, hns, Bool.or_eq_true, Bool.and_eq_true, beq_iff_eq, decide_eq_true_eq]

theorem tryRead_timer : tryRead s i .timer =
    if timerReached s (s.thr i).timer then some (BitVec.ofNat 64 (s.ns % nsPerSec), s) else none := rfl

end Timer

/-! ### The select port (R293) -/

section Select

variable {s y : State} {i : Tid} {v : Word64}

/-- The selected endpoints that hold a message. -/
abbrev selected (s : State) (i : Tid) : Word64 := epMask (fun e => (s.thr i).sel.getLsbD e && holdsMsg s i e)

theorem getLsbD_selected {k : Nat} (hk : k < 64) : (selected s i).getLsbD k = ((s.thr i).sel.getLsbD k && holdsMsg s i k) :=
  getLsbD_epMask hk _

theorem tryRead_select : tryRead s i .select = if selected s i = 0 then none else some (selected s i, s) := rfl

theorem eq_of_tryRead_select (h : tryRead s i .select = some (v, y)) : y = s ∧ v = selected s i := by
  rw [tryRead_select] at h
  split at h
  · exact nomatch h
  · cases h; exact ⟨rfl, rfl⟩

theorem selected_eq_zero (h : tryRead s i .select = none) : selected s i = 0 := by
  rw [tryRead_select] at h
  split at h
  · assumption
  · exact nomatch h

end Select

/-! ### Channel endpoints (R259, R292) -/

section Channels

variable {s : State} {i : Tid} {e c : Nat} {m : ChMsg} {rest : List ChMsg}

theorem mayRead_of_bound (he : e ≠ 63) (hb : boundEp s i e 1 = some c) : mayRead s i e = true := by
  rw [mayRead, if_neg he, hb]; rfl

theorem holdsMsg_of_bound (he : e ≠ 63) (hb : boundEp s i e 1 = some c) : holdsMsg s i e = !(s.chan c).msgs.isEmpty := by
  rw [holdsMsg, if_neg he, hb]

theorem tryRead_of_bound (he : e ≠ 63) (hb : boundEp s i e 1 = some c) : tryRead s i (.chan e) = readChanWord s i e c := by
  rw [tryRead, readWord, if_neg he, hb]

theorem skipMsg_of_bound (he : e ≠ 63) (hb : boundEp s i e 1 = some c) :
    skipMsg s i e = if (s.chan c).pos = 0 then none else some (popMsg s c) := by
  rw [skipMsg, if_neg he, hb]

theorem readChanWord_nil (h : (s.chan c).msgs = []) : readChanWord s i e c = none := by simp only [readChanWord, h]

/-- A read returns the head message's next word; with its last word the message leaves the ring. -/
theorem readChanWord_cons (h : (s.chan c).msgs = m :: rest) : readChanWord s i e c = some (m.words.getD (s.chan c).pos 0,
    (if (s.chan c).pos + 1 < m.words.length then s.onChan c (fun z => { z with pos := (s.chan c).pos + 1 }) else popMsg s c).onThr i
      (fun t => if (s.chan c).pos = 0 then { t with len := m.words.length, left := m.words.length - 1, src := m.src, srcEp := e }
        else if t.srcEp = e then { t with left := m.words.length - ((s.chan c).pos + 1) } else t)) := by
  simp only [readChanWord, h]

end Channels

/-! ### Reads that a thread issues (R260) -/

section Reads

variable {x y : State} {i : Tid} {w : Wait} {rd : Reg} {v : Word64} {ep : BitVec 6} {c : Nat}

theorem blockRead_returns (h : tryRead x i w = some (v, y)) :
    blockRead i w rd x = settle (retire ((y.setReg i rd v).setCs i 0) i) := by
  simp only [blockRead, h]; rfl

theorem blockRead_blocks (h : tryRead x i w = none) (hst : (x.thr i).st ≠ .stopped) :
    blockRead i w rd x = settle (x.onThr i (fun t => { t with st := .blocked, wait := some (w, rd.toNat) })) := by
  simp only [blockRead, h]; exact if_neg hst

theorem opChr_of_readable (h : mayRead x i ep.toNat = true) : opChr i rd ep x = blockRead i (.chan ep.toNat) rd x := if_pos h

theorem opChr_unbound (h : mayRead x i ep.toNat = false) : opChr i rd ep x = faultThread x i 0x0A08 ep.toNat :=
  if_neg (Bool.eq_false_iff.1 h)

theorem opChpoll_of_readable (h : mayRead x i ep.toNat = true) : opChpoll i rd ep x =
    retire ((x.setReg i rd (if holdsMsg x i ep.toNat = true then 1 else 0)).setCs i 0) i := if_pos h

theorem opChpoll_unbound (h : mayRead x i ep.toNat = false) : opChpoll i rd ep x = faultThread x i 0x0A08 ep.toNat :=
  if_neg (Bool.eq_false_iff.1 h)

theorem opChskip_unbound (h : mayRead x i ep.toNat = false) : opChskip i ep x = faultThread x i 0x0A08 ep.toNat :=
  if_neg (Bool.eq_false_iff.1 h)

theorem opChskip_of_message (h : mayRead x i ep.toNat = true) (hs : skipMsg x i ep.toNat = some y) : opChskip i ep x =
    settle (retire ((y.onThr i (fun t => if t.srcEp = ep.toNat then { t with left := 0 } else t)).setCs i 0) i) := by
  simp only [opChskip, hs]; exact if_pos h

theorem opChskip_of_none (h : mayRead x i ep.toNat = true) (hs : skipMsg x i ep.toNat = none) :
    opChskip i ep x = retire (x.setCs i 6) i := by
  simp only [opChskip, hs]; exact if_pos h

theorem opWsel_of_mask (h : (x.thr i).sel ≠ 0) : opWsel i rd x = blockRead i .select rd x := if_neg h

theorem opWsel_no_mask (h : (x.thr i).sel = 0) : opWsel i rd x = retire ((x.setReg i rd 0).setCs i 5) i := if_pos h

theorem opWspace_of_bound (h : boundEp x i ep.toNat 2 = some c) : opWspace i rd ep x = blockRead i (.space ep.toNat) rd x := by
  simp only [opWspace, h]

end Reads

/-! ### What ends a wait (R260) -/

section Waits

variable {t rd : Nat} {s x y : State} {i : Tid} {w : Wait} {v : Word64} {p : Wait → Bool}

/-- A blocked read once its core serves it: what there is to return ends it; a port resets the quiet detector too (R266). -/
def readReturned (x : State) (i : Tid) (w : Wait) : State :=
  (tryRead x i w).elim x fun q => endRead (if w.isPort then quietReset q.2 i.stall.val i.role.val else q.2) i q.1 csOk

theorem unblock_of_wait (hw : (x.thr i).wait = some (w, rd)) (hs : serves x i = true) :
    unblock x i p = if p w then readReturned x i w else x := by
  simp only [unblock, hw, hs, Bool.true_and, readReturned]
  cases tryRead x i w <;> rfl

theorem readReturned_of_none (h : tryRead x i w = none) : readReturned x i w = x := by rw [readReturned, h]; rfl

theorem readReturned_port (h : tryRead x i w = some (v, y)) (hp : w.isPort = true) :
    readReturned x i w = endRead (quietReset y i.stall.val i.role.val) i v 0 := by
  rw [readReturned, h, hp]; rfl

theorem readReturned_message (h : tryRead x i w = some (v, y)) (hp : w.isPort = false) : readReturned x i w = endRead y i v 0 := by
  rw [readReturned, h, hp]; rfl

theorem isPort_iff : w.isPort = true ↔ w = .timer ∨ ∃ e, w = .space e := by cases w <;> simp [Wait.isPort]

theorem endRead_eq (y : State) (i : Tid) (v : Word64) (cs : Nat) : endRead y i v cs = match (y.thr i).wait with
    | none => y
    | some q => retire (y.onThr i (fun t => { (t.setReg (BitVec.ofNat 5 q.2) v) with cs := cs, st := .ready, wait := none })) i := by
  unfold endRead
  cases (y.thr i).wait <;> rfl

/-- The row of a wait and the other one: each is `unblock` for its own waits. -/
theorem ends_waitRows (hx : x = s.advance t) (hw : (x.thr i).wait = some (w, rd)) (hs : serves x i = true) :
    Ends (if w = .timer then .timerPortExpiry t i else .blockedReadReturn t i) s (readReturned x i w)
    ∧ Ends (if w = .timer then .blockedReadReturn t i else .timerPortExpiry t i) s x := by
  have hrow := unblock_of_wait (p := (· == .timer)) hw hs
  have hother := unblock_of_wait (p := (· != .timer)) hw hs
  have htimer : Ends (.timerPortExpiry t i) s (unblock x i (· == .timer)) := ends_of_act (unblock · i (· == .timer)) rfl hx rfl
  have hread : Ends (.blockedReadReturn t i) s (unblock x i (· != .timer)) := ends_of_act (unblock · i (· != .timer)) rfl hx rfl
  rw [hrow] at htimer
  rw [hother] at hread
  by_cases ht : w = .timer
  · rw [if_pos ht, if_pos ht]
    exact ⟨ends_of_pos htimer (beq_iff_eq.2 ht), ends_of_neg hread (by simp [ht])⟩
  · rw [if_neg ht, if_neg ht]
    exact ⟨ends_of_pos hread (bne_iff_ne.2 ht), ends_of_neg htimer (by simp [ht])⟩

end Waits

/-- Settles O43: a read by what it would return now, a channel's words by how much of the head message is read, a port by its rule,
and a blocked thread by the row of its wait. -/
theorem idoriChannelReads : Obligations.IdoriChannelReads := by
  unfold Obligations.IdoriChannelReads
  refine ⟨fun s x i rd ep hx => ?issued, fun s i e c he hb => ⟨mayRead_of_bound he hb, fun h => ?empty, fun m rest h => ?message⟩,
    fun s i => ?timer, fun s i k hk => ⟨fun v y h => ?selects, fun h hsel => ?unselected⟩, fun t s x i w rd hx hw hs => ?waits⟩
  case issued =>
    intro e returns
    have hreturns : ∀ c w, exec c s = .next (blockRead i w rd x) → returns c w := fun c w hc =>
      ⟨fun v y h => hc.trans (congrArg _ (blockRead_returns h)), fun h hst => hc.trans (congrArg _ (blockRead_blocks h hst))⟩
    have hchr : exec (.chr i rd ep) s = .next (opChr i rd ep x) := exec_of_issues rfl hx
    have hpoll : exec (.chpoll i rd ep) s = .next (opChpoll i rd ep x) := exec_of_issues rfl hx
    have hskip : exec (.chskip i ep) s = .next (opChskip i ep x) := exec_of_issues rfl hx
    have hsel : exec (.wsel i rd) s = .next (opWsel i rd x) := exec_of_issues rfl hx
    have hspace : exec (.wspace i rd ep) s = .next (opWspace i rd ep x) := exec_of_issues rfl hx
    refine ⟨fun h => ⟨?_, ?_, fun y hy => ?_, fun hn => ?_⟩, fun h => ?_, ?_, fun h => ?_, fun h => ?_, fun h => ?_⟩
    · exact hreturns _ _ (hchr.trans (congrArg _ (opChr_of_readable h)))
    · exact hpoll.trans (congrArg _ (opChpoll_of_readable h))
    · exact hskip.trans (congrArg _ (opChskip_of_message h hy))
    · exact hskip.trans (congrArg _ (opChskip_of_none h hn))
    · simp only [List.forall_mem_cons, List.not_mem_nil, false_implies, implies_true, and_true]
      exact ⟨hchr.trans (congrArg _ (opChr_unbound h)), hpoll.trans (congrArg _ (opChpoll_unbound h)),
        hskip.trans (congrArg _ (opChskip_unbound h))⟩
    · exact hreturns _ _ (exec_of_issues (f := opWtime i rd) rfl hx)
    · exact hreturns _ _ (hsel.trans (congrArg _ (opWsel_of_mask h)))
    · exact hsel.trans (congrArg _ (opWsel_no_mask h))
    · obtain ⟨c, hc⟩ := Option.isSome_iff_exists.1 h
      exact hreturns _ _ (hspace.trans (congrArg _ (opWspace_of_bound hc)))
  case empty =>
    rw [tryRead_of_bound he hb, holdsMsg_of_bound he hb, readChanWord_nil h, h]
    exact ⟨rfl, rfl⟩
  case message =>
    intro p
    rw [tryRead_of_bound he hb, holdsMsg_of_bound he hb, skipMsg_of_bound he hb, readChanWord_cons h, h]
    refine ⟨rfl, fun hlt h0 => ?_, fun hlt h0 => ?_, fun hlast h0 => ?_, fun h0 => if_neg h0, fun h0 => if_pos h0⟩
    · have hpos : (s.chan c).pos = 0 := h0
      rw [if_pos hlt]
      simp only [hpos, if_true]
    · have hpos : (s.chan c).pos ≠ 0 := h0
      rw [if_pos hlt]
      simp only [hpos, if_false]
      rfl
    · have hpos : (s.chan c).pos ≠ 0 := h0
      have hlen : m.words.length = (s.chan c).pos + 1 := hlast
      rw [if_neg (by omega)]
      simp only [hpos, if_false, hlen, Nat.sub_self]
      rfl
  case timer =>
    rw [tryRead_timer]
    exact ⟨fun h => if_pos (timerReached_iff.2 h), fun h => if_neg (mt timerReached_iff.1 h)⟩
  case selects =>
    obtain ⟨rfl, rfl⟩ := eq_of_tryRead_select h
    exact ⟨rfl, getLsbD_selected hk⟩
  case unselected =>
    have hbit := getLsbD_selected (s := s) (i := i) hk
    rw [selected_eq_zero h, hsel] at hbit
    simpa using hbit.symm
  case waits =>
    intro c other
    obtain ⟨hrow, hother⟩ := ends_waitRows hx hw hs
    refine ⟨hother, fun h => ?_, fun v y h => ⟨fun hp => ?_, fun ht hsp => ?_⟩⟩
    · rwa [readReturned_of_none h] at hrow
    · rw [readReturned_port h (isPort_iff.2 hp), endRead_eq] at hrow
      exact hrow
    · have hmsg : w.isPort = false := Bool.eq_false_iff.2 fun hp => (isPort_iff.1 hp).elim ht fun ⟨e, he⟩ => hsp e he
      rw [readReturned_message h hmsg, endRead_eq] at hrow
      exact hrow

end Sys2Proof.Machine

/-! Proofs of the statement on the rows and commands of a Stall (R248, R255, R261 to R275, R277). -/

namespace Sys2Proof.Machine

/-! ### The quiet detector (R266, R267) -/

section Quiet

variable {x : State} {st r : Nat}

theorem stallRuns_iff : stallRuns x st = true ↔ (x.stall st).st ≠ .stopped := bne_iff_ne

theorem contains_owed_eq_false_iff : (x.stall st).owed.contains r = false ↔ r ∉ (x.stall st).owed := by simp

/-- The threads of a role that are enabled. -/
abbrev enabledThreads (x : State) (st r : Nat) : Tab Thread := (x.role st r).threads.filter (fun t => t.2.enable)

/-- What the quiet detector of a role waits for. -/
abbrev detectorFires (x : State) (st r : Nat) : Prop :=
  (x.stall st).st ≠ .stopped ∧ (x.role st r).phys.isSome = true ∧ r ∉ (x.stall st).owed ∧ heldForTest x st r = false
    ∧ (x.role st r).quietFired = false ∧ enabledThreads x st r ≠ []
    ∧ (∀ t ∈ enabledThreads x st r, t.2.st = .blocked ∨ t.2.st = .faulted ∨ t.2.st = .killed)
    ∧ quietThreshold x st ≤ (x.role st r).quietCount x.clk.up

/-- An enabled thread counts as blocked by its state alone. -/
theorem countsBlocked_iff {t : Nat × Thread} (h : t ∈ enabledThreads x st r) :
    t.2.countsBlocked = true ↔ t.2.st = .blocked ∨ t.2.st = .faulted ∨ t.2.st = .killed := by
  have hon : t.2.enable = true := (List.mem_filter.1 h).2
  simp [Thread.countsBlocked, hon, or_assoc]

theorem quietFires_eq : quietFires x st r = if detectorFires x st r then
    tellQuiet (postFault (countErr (x.onRole st r (fun c => { c with quietFired := true })) (stallBase st + 0x44)) st r 2 0xFF 0x0A20 0
      ((enabledThreads x st r).foldl (fun n t => n + 2 ^ t.1) 0)) st else x := by
  unfold quietFires
  refine if_congr ?_ rfl rfl
  simp only [Bool.and_eq_true, Bool.not_eq_true', stallRuns_iff, contains_owed_eq_false_iff, List.isEmpty_eq_false_iff, List.all_eq_true,
    decide_eq_true_eq, and_assoc]
  have hall : (∀ t ∈ enabledThreads x st r, t.2.countsBlocked = true) ↔
      ∀ t ∈ enabledThreads x st r, t.2.st = .blocked ∨ t.2.st = .faulted ∨ t.2.st = .killed :=
    forall₂_congr fun t ht => countsBlocked_iff ht
  rw [hall]

/-- The Stall reports once each filled role is quiet (R267). -/
theorem tellQuiet_of_quiet (h : (x.stall st).quietTold = false)
    (hq : ∀ c ∈ (x.stall st).cores, c.2.phys.isSome = true → c.2.quietFired = true ∨ ∀ t ∈ c.2.threads, t.2.enable = false) :
    tellQuiet x st = raise (x.onStall st (fun z => { z with quietTold := true })) 0x0B04 (st * 16) [] := by
  refine if_pos (Bool.and_eq_true_iff.2 ⟨by rw [h]; rfl, List.all_eq_true.2 fun c hc => ?_⟩)
  obtain ⟨hmem, hphys⟩ := List.mem_filter.1 hc
  exact Bool.or_eq_true_iff.2 ((hq c hmem hphys).imp_right fun hoff => by simpa using hoff)

end Quiet

/-! ### Spares and re-homing (R248, R274) -/

section Handover

variable {x : State} {st r p : Nat} {rest : List Nat}

theorem spareStart_idle (h : r ∉ (x.stall st).owed ∨ (x.stall st).spares = []) : spareStart x st r = x := by
  unfold spareStart
  rcases h with h | h
  · simp [h]
  · rw [h]; cases (x.stall st).owed.contains r <;> rfl

/-- The state in which a spare has taken a role that was owed. -/
abbrev spareTaken (x : State) (st r p : Nat) (rest : List Nat) : State :=
  ((x.onStall st (fun z => { z with spares := rest, spareUsed := true, owed := z.owed.filter (· != r) })).onRole st r
    (fun c => { c with phys := some p })).fenceTake (unitCore st p) (.core st r)

theorem spareStart_of_spare (h : r ∈ (x.stall st).owed) (hs : (x.stall st).spares = p :: rest) : spareStart x st r =
    raise (if ((spareTaken x st r p rest).stall st).st ≠ .stopped then
        startCore ((spareTaken x st r p rest).onRole st r (fun c => { c with faults := [], faultPos := 0 })) st r
      else spareTaken x st r p rest)
      0x0B01 (st * 16 + r) (encN r ++ encN ((x.role st r).phys.getD 0x1F) ++ encN p) := by
  have howed : (x.stall st).owed.contains r = true := List.contains_iff_mem.2 h
  simp only [spareStart, howed, hs, stallRuns_iff]
  rfl

theorem rehomeStart_idle (h : r ∉ (x.stall st).owed ∨ (x.stall st).spares ≠ []) : rehomeStart x st r = x := by
  refine if_pos ?_
  rcases h with h | h <;> simp [h]

/-- The role re-homed, its threads started where they moved, and the moves told. -/
abbrev rehomed (x : State) (st r : Nat) : State :=
  let m := rehome x st r
  tellMoves (if (m.1.stall st).st ≠ .stopped then m.2.foldl (fun s m => startThread s st m.2.1 m.2.2) m.1 else m.1) st r m.2

theorem rehomeStart_of_owed (h : r ∈ (x.stall st).owed) (hs : (x.stall st).spares = []) : rehomeStart x st r =
    if ((rehomed x st r).stall st).st ≠ .stopped then tellQuiet (rehomed x st r) st else rehomed x st r := by
  refine (if_neg (by simp [h, hs])).trans ?_
  simp only [stallRuns_iff]

end Handover

/-! ### The fault endpoint (R263 to R265) -/

section FaultEndpoint

theorem length_wordsOf (n : Nat) (b : Bytes) : (wordsOf n b).length = n := by
  induction n generalizing b with
  | zero => rfl
  | succ n ih => rw [wordsOf, List.length_cons, ih]

/-- A reset of the quiet detector changes its count in the role, and nothing else there. -/
theorem role_quietReset (s : State) (st r : Nat) :
    (quietReset s st r).role st r = { s.role st r with quietAcc := 0, quietFrom := s.clk.up, quietFired := false } := by
  have hrole : ∀ f, (s.onRole st r f).role st r = f (s.role st r) := fun f => (role_onRole s st r st r f).trans (if_pos ⟨rfl, rfl⟩)
  unfold quietReset
  dsimp only
  split
  · rw [State.role, stall_onStall, if_pos rfl]
    exact hrole _
  · exact hrole _

variable {s : State} {kind thread code pc info : Nat}

/-- The message that `postFault` forms (R263). -/
abbrev faultMsg (s : State) (kind thread code pc info : Nat) : FaultMsg :=
  { kind := kind, thread := thread, words := wordsOf 5 (faultBytes s kind thread code pc info) }

/-- A message at the fault endpoint, without what the message does to a blocked t0. -/
def faultJoined (s : State) (st r kind thread code pc info : Nat) : State :=
  quietReset (s.onRole st r (fun c => { c with faults := c.faultsBut kind thread ++ [faultMsg s kind thread code pc info] })) st r

theorem faults_faultJoined (s : State) (st r kind thread code pc info : Nat) :
    ((faultJoined s st r kind thread code pc info).role st r).faults =
      (s.role st r).faultsBut kind thread ++ [faultMsg s kind thread code pc info] := by
  rw [faultJoined, role_quietReset, role_onRole, if_pos ⟨rfl, rfl⟩]

theorem thrAt_faultJoined (s : State) (st r n kind thread code pc info : Nat) :
    (faultJoined s st r kind thread code pc info).thrAt st r n = s.thrAt st r n := by
  rw [State.thrAt, faultJoined, role_quietReset, role_onRole, if_pos ⟨rfl, rfl⟩]
  rfl

variable {s : State} {kind thread code pc info : Nat}

theorem wakeSupervisor_of_not_blocked (stall : Fin 12) (role : Fin 16) (h : (s.thrAt stall.val role.val 0).st ≠ .blocked) :
    wakeSupervisor s stall.val role.val = s := by
  unfold wakeSupervisor
  dsimp only
  split
  · next hb _ => exact absurd (by simpa [State.thr, Fin.ofNat, Nat.mod_eq_of_lt] using hb) h
  · rfl

theorem postFault_of_live (stall : Fin 12) (role : Fin 16) (hb : (s.thrAt stall.val role.val 0).st ≠ .blocked)
    (hf : (s.thrAt stall.val role.val 0).st ≠ .faulted) (hk : (s.thrAt stall.val role.val 0).st ≠ .killed) (h2 : kind ≠ 2) :
    postFault s stall.val role.val kind thread code pc info = faultJoined s stall.val role.val kind thread code pc info := by
  refine (if_neg (not_or.2 ⟨hf, hk⟩)).trans ((if_neg fun h => h2 h.1).trans ?_)
  simp only [if_neg h2]
  exact wakeSupervisor_of_not_blocked stall role fun h => hb (thrAt_faultJoined s _ _ 0 kind thread code pc info ▸ h)

variable {c : CoreRole} {k : FaultMsg}

/-- A thread's FAULT or KILLED is taken out by its next, where none is partly read. -/
theorem faultsBut_other (hp : c.faultPos = 0) (hk : kind % 2 = 1) (h : k ∈ c.faultsBut kind thread) :
    ¬ (k.kind % 2 = 1 ∧ k.thread = thread) := by
  simp only [CoreRole.faultsBut, hp, if_true, List.take_zero, List.nil_append, List.drop_zero, List.mem_filter] at h
  rintro ⟨hodd, hthread⟩
  simp [hk, hodd, hthread] at h

theorem mem_faultsBut (h : k ∈ c.faults) (hk : kind % 2 = 0 ∨ k.kind % 2 = 0 ∨ k.thread ≠ thread) :
    k ∈ c.faultsBut kind thread := by
  rw [← List.take_append_drop (if c.faultPos = 0 then 0 else 1) c.faults] at h
  refine List.mem_append.2 ((List.mem_append.1 h).imp_right fun hd => List.mem_filter.2 ⟨hd, ?_⟩)
  rcases hk with hk | hk | hk <;> simp [hk]

end FaultEndpoint

/-! ### The Clerk's queue (R261) -/

theorem not_isNone {α : Type} {o : Option α} (h : o.isSome = true) : ¬ o.isNone = true :=
  Bool.eq_false_iff.1 (Option.isNone_eq_false_iff.2 h)

section ClerkQueue

variable {s : State} {c tf : Nat}

theorem clerkDeliver_no_reader (h : readerOf s c = none) :
    clerkDeliver s c tf = some (countErr s (stallBase (c / 1024) + 0x48)) := if_pos (by rw [h]; rfl)

theorem clerkDeliver_of_reader (h : (readerOf s c).isSome = true) : clerkDeliver s c tf =
    if (s.stall (c / 1024)).st ≠ .running ∨ chanRoom s c < 6 then none else some (deliverBuf s 0x8003 c 0 0 tf 0 9216 0 [] [] 0) :=
  if_neg (not_isNone h)

end ClerkQueue

/-! ### The commands of a Stall (R255, R272) -/

section StallCommands

variable {x y : State} {r : Req} {h : State → Req → Res}

/-- A role that a command names: it exists and a core fills it. -/
abbrev roleFilled (x : State) (r : Req) : Prop := num r 0 < 12 ∧ num r 1 < 16 ∧ (x.role (num r 0) (num r 1)).phys.isSome = true

theorem roleParam_of_filled (hn : roleFilled x r) : roleParam x r = none := by
  obtain ⟨h0, h1, hp⟩ := hn
  rw [roleParam, if_neg (Nat.not_le.2 h0), if_neg (Nat.not_le.2 h1), if_neg (not_isNone hp)]

theorem stallStartCmd_of_stall (hb : r.body.length = 8) (h0 : num r 0 < 12) : stallStartCmd x r =
    if (x.stall (num r 0)).st ≠ .stopped then { st := x, status := mbxState } else { st := startStall x (num r 0) } :=
  (if_neg (not_misSized hb)).trans (if_neg (Nat.not_le.2 h0))

theorem coreRestartCmd_of_role (hb : r.body.length = 16) (hn : roleFilled x r) : coreRestartCmd x r =
    if (x.stall (num r 0)).st ≠ .running then { st := x, status := mbxState }
    else { st := startCore (abandonRole x (num r 0) (num r 1)) (num r 0) (num r 1) } := by
  refine (if_neg (not_misSized hb)).trans ?_
  rw [roleParam_of_filled hn]
  rfl

/-! ### Debug (R268 to R271, R277) -/

theorem dbg_denied (hd : ¬ x.boot.policy.testBit 0 = true) : dbg h x r = { st := x, status := mbxAuth } :=
  if_pos (by simpa [coreDebug] using hd)

theorem dbg_of_role (hd : x.boot.policy.testBit 0 = true) (hn : roleFilled x r) :
    dbg h x r = h (abandonRole x (num r 0) (num r 1)) r := by
  refine (if_neg (by simp [coreDebug, hd])).trans ?_
  rw [roleParam_of_filled hn]

theorem dbgTid_stall (h0 : num r 0 < 12) : (dbgTid r).stall.val = num r 0 := Nat.mod_eq_of_lt h0

theorem dbgTid_role (h1 : num r 1 < 16) : (dbgTid r).role.val = num r 1 := Nat.mod_eq_of_lt h1

theorem stoppable {u : Thread} (he : u.enable = true) (hst : u.st = .ready ∨ u.st = .blocked) :
    (u.enable && (u.st == .ready || u.st == .blocked)) = true := by simp [he, hst]

theorem resumable {u : Thread} (he : u.enable = true) (hst : u.st = .stopped) : (u.enable && u.st == .stopped) = true := by simp [he, hst]

theorem dbgMove_of_thread {can : Thread → Bool} {f : State → Tid → State} (hb : r.body.length = 24) (h2 : num r 2 < 8)
    (hc : can (y.thr (dbgTid r)) = true) : dbgMove can f y r = { st := f y (dbgTid r) } := by
  refine (if_neg (not_misSized hb)).trans ((if_neg (by omega)).trans ?_)
  have hone : (dbgThreads r).filter (fun i => can (y.thr i)) = [dbgTid r] := by
    rw [dbgThreads, if_pos h2, List.filter_singleton, hc]; rfl
  rw [hone]
  rfl

theorem dbgStopped_of_thread {h : State → Req → Tid → Res} (h2 : num r 2 < 8) : dbgStopped h y r =
    if (y.thr (dbgTid r)).st ≠ .stopped then { st := y, status := mbxState } else h y r (dbgTid r) :=
  if_neg (Nat.not_le.2 h2)

theorem dbgStepCmd_of_thread (hb : r.body.length = 24) (i : Tid) : dbgStepCmd y r i =
    { st := stepThread y i, out := encN ((stepThread y i).thr i).cs } := if_neg (not_misSized hb)

theorem dbgKillCmd_of_thread (hb : r.body.length = 24) (h2 : num r 2 < 8) (hst : (y.thr (dbgTid r)).st ≠ .disabled) :
    dbgKillCmd y r = { st := killThread y (dbgTid r) } :=
  (if_neg (not_misSized hb)).trans (if_neg (not_or.2 ⟨Nat.not_le.2 h2, hst⟩))

/-- The breakpoints of a role changed, and its READY threads that stand at one stopped (R268). -/
def breakpointsSet (y : State) (r : Req) : State :=
  (List.range 8).foldl (fun s n => reach s { stall := Fin.ofNat 12 (num r 0), role := Fin.ofNat 16 (num r 1), thread := Fin.ofNat 8 n })
    (y.onRole (num r 0) (num r 1) (fun c => { c with
      bps := if num r 3 = 1 then tset c.bps (num r 2) (BitVec.ofNat 64 (num r 4)) else tdel c.bps (num r 2) }))

theorem dbgBreakCmd_in_range (hb : r.body.length = 40) (h2 : num r 2 < 4) (h3 : num r 3 < 2) (h4 : num r 4 % 4 = 0) :
    dbgBreakCmd y r = { st := breakpointsSet y r } :=
  (if_neg (not_misSized hb)).trans ((if_neg (Nat.not_le.2 h2)).trans ((if_neg (Nat.not_le.2 h3)).trans (if_neg (not_not.2 h4))))

theorem dbgReadCmd_registers {i : Tid} (hb : r.body.length = 48) (h3 : num r 3 = 0) (h1 : 1 ≤ num r 5) (hn : num r 4 + num r 5 ≤ 49) :
    dbgReadCmd y r i = { st := y, out := (List.range (num r 5)).flatMap (fun k => leBytes 8 (dbgReg y i (num r 4 + k)).toNat) } :=
  (if_neg (not_misSized hb)).trans ((if_neg (by omega)).trans ((if_pos h3).trans (if_neg (by omega))))

theorem dbgReadCmd_memory {i : Tid} {m : Nat} (hb : r.body.length = 48) (h3 : num r 3 = 1) (h1 : 1 ≤ num r 5) (hn : num r 5 ≤ 4096)
    (hw : window y i (num r 4) (num r 5) = some m) : dbgReadCmd y r i = { st := y, out := y.peek m (num r 5) } := by
  refine (if_neg (not_misSized hb)).trans ((if_neg (by omega)).trans ((if_neg (by omega)).trans ((if_neg (by omega)).trans ?_)))
  rw [hw]
  rfl

theorem dbgWriteCmd_memory {i : Tid} {m : Nat} (h3 : num r 3 = 1) (hlo : 40 < r.body.length) (hhi : r.body.length ≤ 4136)
    (hw : window y i (num r 4) (r.body.length - 40) = some m) : dbgWriteCmd y r i = { st := y.poke m (r.body.drop 40) } := by
  have hlen : (r.body.drop 40).length = r.body.length - 40 := List.length_drop
  refine (if_neg (by omega)).trans ((if_neg (by omega)).trans ((if_neg (by omega)).trans ((if_neg (by omega)).trans ?_)))
  rw [hlen, hw]
  rfl

theorem dbgWriteRegs_one (i : Tid) (y : State) (n : Nat) (b : Bytes) :
    dbgWriteRegs i y n 1 b = dbgWriteReg y i n (BitVec.ofNat 64 (leAt b 0 8)) := by
  simp only [dbgWriteRegs]
  cases dbgWriteReg y i n (BitVec.ofNat 64 (leAt b 0 8)) <;> rfl

/-- One register written by DBG_WRITE, INVALID where R277 refuses it. -/
theorem dbgWriteCmd_register {i : Tid} (h3 : num r 3 = 0) (hb : r.body.length = 48) : dbgWriteCmd y r i =
    (dbgWriteReg y i (num r 4) (BitVec.ofNat 64 (leAt (r.body.drop 40) 0 8))).elim { st := y, status := mbxInvalid, arg := 5 }
      fun z => { st := z } := by
  have hlen : (r.body.drop 40).length = 8 := by rw [List.length_drop, hb]
  refine (if_neg (by omega)).trans ((if_neg (by omega)).trans ((if_pos h3).trans ((if_neg (by omega)).trans ?_)))
  rw [hlen, dbgWriteRegs_one]
  cases dbgWriteReg y i (num r 4) (BitVec.ofNat 64 (leAt (r.body.drop 40) 0 8)) <;> rfl

theorem dbgWriteReg_general {i : Tid} {n : Nat} {v : Word64} (h1 : 1 ≤ n) (h32 : n < 32) :
    dbgWriteReg y i n v = some (y.setReg i (BitVec.ofNat 5 n) v) := (if_neg (by omega)).trans (if_pos h32)

theorem dbgWriteReg_pc {i : Tid} {v : Word64} (hv : v.toNat % 4 = 0) :
    dbgWriteReg y i 48 v = some (y.onThr i (fun t => { t with pc := v })) := if_pos hv

theorem dbgWriteReg_refused {i : Tid} {n : Nat} {v : Word64} (h : n = 0 ∨ 48 < n ∨ (n = 48 ∧ v.toNat % 4 ≠ 0)) :
    dbgWriteReg y i n v = none := by
  rcases h with h | h | ⟨rfl, hv⟩
  · exact if_pos (.inl h)
  · exact if_pos (.inr h)
  · exact if_neg hv

end StallCommands

section Answered

variable {t code : Nat} {s x : State} {r : Req} {slot : Option Nat} {c : Instr}

/-- A command whose handler decides on a condition: what it answers with the condition, and without it. -/
theorem answers_of_ite {f : State → Req → Res} {P : Prop} [Decidable P] {yes no : Res} (hc : exec c s = serve t r code f s)
    (ht : Takes t s r code x slot) (hf : f x r = if P then yes else no) :
    (P → Answers c s r slot yes) ∧ (¬ P → Answers c s r slot no) :=
  ⟨fun h => answers_of_result hc ht (hf.trans (if_pos h)), fun h => answers_of_result hc ht (hf.trans (if_neg h))⟩

/-- A debug command answers with what its handler gives of a filled role. -/
theorem answers_dbg {h : State → Req → Res} {res : Res} (hd : x.boot.policy.testBit 0 = true) (hn : roleFilled x r)
    (hc : exec c s = serve t r code (dbg h) s) (ht : Takes t s r code x slot) (hres : h (abandonRole x (num r 0) (num r 1)) r = res) :
    Answers c s r slot res :=
  answers_of_result hc ht ((dbg_of_role hd hn).trans hres)

theorem answers_dbg_denied {h : State → Req → Res} (hc : exec c s = serve t r code (dbg h) s) (ht : Takes t s r code x slot)
    (hd : ¬ x.boot.policy.testBit 0 = true) : Answers c s r slot { st := x, status := mbxAuth } :=
  answers_of_result hc ht (dbg_denied hd)

end Answered

/-- Settles O46: each row by its conditions, a fault message by what it takes out of its ring, and each command by the state of the
Stall or thread that it names. -/
theorem stallRowsAndCommands : Obligations.StallRowsAndCommands := by
  unfold Obligations.StallRowsAndCommands
  refine ⟨fun t s x stall role hx => ?rows, fun s stall role kind thread code pc info => ?faults,
    fun s c tf => ⟨clerkDeliver_no_reader, fun h hfull => ?waits, fun h hrun hroom => ?delivers⟩, fun t s x r slot => ?commands⟩
  case rows =>
    intro st r c w on fires
    have hquiet : Ends (.quietDetector t stall role) s (quietFires x st r) := ends_of_act (quietFires · st r) rfl hx rfl
    have hspare : Ends (.spareStart t stall role) s (spareStart x st r) := ends_of_act (spareStart · st r) rfl hx rfl
    have hrehome : Ends (.rehomeStart t stall role) s (rehomeStart x st r) := ends_of_act (rehomeStart · st r) rfl hx rfl
    refine ⟨fun h => ?_, fun h => ?_, fun y => tellQuiet_of_quiet, fun h => ?_, fun p rest h hs => ?_, fun h => ?_, fun h hs => ?_⟩
    · rw [quietFires_eq] at hquiet; exact ends_of_neg hquiet h
    · rw [quietFires_eq] at hquiet; exact ends_of_pos hquiet h
    · rwa [spareStart_idle h] at hspare
    · rwa [spareStart_of_spare h hs] at hspare
    · rwa [rehomeStart_idle h] at hrehome
    · rw [rehomeStart_of_owed h hs] at hrehome
      exact ⟨fun hst => ends_of_neg hrehome (not_not.2 hst), fun hst => ends_of_pos hrehome hst⟩
  case faults =>
    intro st r c y hb hf hk h2
    have hy : y = faultJoined s st r kind thread code pc info := postFault_of_live stall role hb hf hk h2
    rw [hy, faults_faultJoined]
    exact ⟨faultMsg s kind thread code pc info, rfl, rfl, length_wordsOf _ _, rfl, fun hp hodd k => faultsBut_other hp hodd,
      fun k hmem hother => List.mem_append_left _ (mem_faultsBut hmem hother)⟩
  case waits => exact (clerkDeliver_of_reader h).trans (if_pos hfull)
  case delivers => exact (clerkDeliver_of_reader h).trans (if_neg (not_or.2 ⟨not_not.2 hrun, Nat.not_lt.2 hroom⟩))
  case commands =>
    intro st k role y i dbg named
    refine ⟨fun ht hb h0 => ?start, fun ht hb hn => ?restart, ?denied, fun hd hn h2 hb => ?threads, fun ht hd hn hb h2 h3 h4 => ?breaks,
      fun hd hn h2 hst => ?data⟩
    case start =>
      obtain ⟨hrefused, hstarts⟩ := answers_of_ite (c := .stallStart t r) rfl ht (stallStartCmd_of_stall hb h0)
      exact ⟨fun h => hstarts (not_not.2 h), hrefused⟩
    case restart =>
      obtain ⟨hrefused, hstarts⟩ := answers_of_ite (c := .coreRestart t r) rfl ht (coreRestartCmd_of_role hb hn)
      exact ⟨fun h => hstarts (not_not.2 h), hrefused⟩
    case denied =>
      simp only [List.forall_mem_cons, List.not_mem_nil, false_implies, implies_true, and_true]
      exact ⟨answers_dbg_denied rfl, answers_dbg_denied rfl, answers_dbg_denied rfl, answers_dbg_denied rfl, answers_dbg_denied rfl,
        answers_dbg_denied rfl, answers_dbg_denied rfl⟩
    case threads =>
      intro u
      have hstall : i.stall.val = st := dbgTid_stall hn.1
      have hrole : i.role.val = k := dbgTid_role hn.2.1
      refine ⟨fun ht he hst => ?_, fun ht he hst => ?_, fun ht hst => ?_, fun ht hst => ?_, fun ht hst => ?_⟩
      · rw [← hstall, ← hrole]
        exact answers_dbg hd hn rfl ht (dbgMove_of_thread hb h2 (stoppable he hst))
      · rw [← hstall, ← hrole]
        exact answers_dbg hd hn rfl ht (dbgMove_of_thread hb h2 (resumable he hst))
      · exact answers_dbg hd hn rfl ht ((dbgStopped_of_thread h2).trans ((if_neg (not_not.2 hst)).trans (dbgStepCmd_of_thread hb i)))
      · exact answers_dbg hd hn rfl ht ((dbgStopped_of_thread h2).trans (if_pos hst))
      · exact answers_dbg hd hn rfl ht (dbgKillCmd_of_thread hb h2 hst)
    case breaks => exact answers_dbg hd hn rfl ht (dbgBreakCmd_in_range hb h2 h3 h4)
    case data =>
      intro a n
      have hstopped : ∀ h, dbgStopped h y r = h y r i := fun h => (dbgStopped_of_thread h2).trans (if_neg (not_not.2 hst))
      refine ⟨fun ht hb => ⟨fun h3 h1 hn' => ?_, fun m h3 h1 hn' hw => ?_⟩,
        fun ht => ⟨fun m h3 hlo hhi hw => ?_, fun h3 hb => ⟨fun h1 h32 => ?_, fun h48 hv => ?_, fun h => ?_⟩⟩⟩
      · exact answers_dbg hd hn rfl ht ((hstopped _).trans (dbgReadCmd_registers hb h3 h1 hn'))
      · exact answers_dbg hd hn rfl ht ((hstopped _).trans (dbgReadCmd_memory hb h3 h1 hn' hw))
      · exact answers_dbg hd hn rfl ht ((hstopped _).trans (dbgWriteCmd_memory h3 hlo hhi hw))
      · refine answers_dbg hd hn rfl ht ((hstopped _).trans ((dbgWriteCmd_register h3 hb).trans ?_))
        rw [dbgWriteReg_general h1 h32]; rfl
      · refine answers_dbg hd hn rfl ht ((hstopped _).trans ((dbgWriteCmd_register h3 hb).trans ?_))
        rw [show num r 4 = 48 from h48, dbgWriteReg_pc hv]; rfl
      · refine answers_dbg hd hn rfl ht ((hstopped _).trans ((dbgWriteCmd_register h3 hb).trans ?_))
        rw [dbgWriteReg_refused h]; rfl

end Sys2Proof.Machine

/-! Proofs of the statements on every step: its command, the waiting queue, what is burnt, the form of the memories. -/

namespace Sys2Proof.Machine

/-- Every command keeps the queue of waiting commands, what is burnt, and the canonical form of the memories. -/
theorem exec_keeps {c : Instr} {s u : State} (e : exec c s = .next u) : Keeps s u := by
  cases c with
  | powerOnReset => exact execPowerOnReset_keeps e
  | resetNLow => exact execResetNLow_keeps e
  | resetRelease => exact execResetRelease_keeps e
  | watchdog => exact execWatchdog_keeps e
  | thermalTrip => exact execThermalTrip_keeps e
  | thermalWarn => exact execThermalWarn_keeps e
  | xtalStable => exact execXtalStable_keeps e
  | xtalTimeout => exact execXtalTimeout_keeps e
  | bootVerdict => exact execBootVerdict_keeps e
  | hbmTrainingDone => exact execHbmTrainingDone_keeps e
  | coreImagesReady => exact execCoreImagesReady_keeps e
  | storedConfigDecision => exact execStoredConfigDecision_keeps e
  | replayDone => exact execReplayDone_keeps e
  | trialReverted => exact execTrialReverted_keeps e
  | clkRefLost => exact execClkRefLost_keeps e
  | clkRefRestored => exact execClkRefRestored_keeps e
  | clkFail => exact execClkFail_keeps e
  | avsAdjust => exact execAvsAdjust_keeps e
  | devResetExecute => exact execDevResetExecute_keeps e
  | lockstepMismatch => exact execLockstepMismatch_keeps e
  | clerkRestartDone => exact execClerkRestartDone_keeps e
  | autoWake => exact execAutoWake_keeps e
  | autoGateStop => exact execAutoGateStop_keeps e
  | clkoutSettingApply => exact execClkoutSettingApply_keeps e
  | slewEnd => exact execSlewEnd_keeps e
  | ppsInEdge => exact execPpsInEdge_keeps e
  | ppsOutRise => exact execPpsOutRise_keeps e
  | ppsOutFall => exact execPpsOutFall_keeps e
  | tapReset => exact execTapReset_keeps e
  | idcode => exact execIdcode_keeps e
  | samplePreload => exact execSamplePreload_keeps e
  | extest => exact execExtest_keeps e
  | clamp => exact execClamp_keeps e
  | highz => exact execHighz_keeps e
  | bypass => exact execBypass_keeps e
  | frameReceive => exact execFrameReceive_keeps e
  | linkUp => exact execLinkUp_keeps e
  | linkDown => exact execLinkDown_keeps e
  | linkSetupFallback => exact execLinkSetupFallback_keeps e
  | fecDegrade => exact execFecDegrade_keeps e
  | mgmtFrameRelease => exact execMgmtFrameRelease_keeps e
  | saActivated => exact execSaActivated_keeps e
  | dispatch => exact execDispatch_keeps e
  | parseStallResume => exact execParseStallResume_keeps e
  | parseEnd => exact execParseEnd_keeps e
  | chcXCap => exact execChcXCap_keeps e
  | robRelease => exact execRobRelease_keeps e
  | robTimeout => exact execRobTimeout_keeps e
  | versionSlotFree => exact execVersionSlotFree_keeps e
  | csRewrite => exact execCsRewrite_keeps e
  | tmDecision => exact execTmDecision_keeps e
  | transmitSelect => exact execTransmitSelect_keeps e
  | transmitEnd => exact execTransmitEnd_keeps e
  | quiesceTimeout => exact execQuiesceTimeout_keeps e
  | gateEvent => exact execGateEvent_keeps e
  | bellChange => exact execBellChange_keeps e
  | tokenRefill => exact execTokenRefill_keeps e
  | learn => exact execLearn_keeps e
  | refresh => exact execRefresh_keeps e
  | ageTick => exact execAgeTick_keeps e
  | agerRequest => exact execAgerRequest_keeps e
  | notifyDeliver => exact execNotifyDeliver_keeps e
  | dumpStep => exact execDumpStep_keeps e
  | flushDone => exact execFlushDone_keeps e
  | bucketClear => exact execBucketClear_keeps e
  | tableRecompute => exact execTableRecompute_keeps e
  | data => exact execData_keeps e
  | ack => exact execAck_keeps e
  | creditReq => exact execCreditReq_keeps e
  | creditGrant => exact execCreditGrant_keeps e
  | tally => exact execTally_keeps e
  | moved => exact execMoved_keeps e
  | contextExpiry => exact execContextExpiry_keeps e
  | epochAdvance => exact execEpochAdvance_keeps e
  | grantExpiry => exact execGrantExpiry_keeps e
  | senderGrantStop => exact execSenderGrantStop_keeps e
  | rtoExpiry => exact execRtoExpiry_keeps e
  | retryWaitEnd => exact execRetryWaitEnd_keeps e
  | sendWindowEnd => exact execSendWindowEnd_keeps e
  | ehtTimeout => exact execEhtTimeout_keeps e
  | revokeDone => exact execRevokeDone_keeps e
  | restoredRegionFree => exact execRestoredRegionFree_keeps e
  | graceEnd => exact execGraceEnd_keeps e
  | tfSaved => exact execTfSaved_keeps e
  | tfRestored => exact execTfRestored_keeps e
  | stoFlush => exact execStoFlush_keeps e
  | stoWrite => exact execStoWrite_keeps e
  | stoRead => exact execStoRead_keeps e
  | stoWriteZeroes => exact execStoWriteZeroes_keeps e
  | stoDeallocate => exact execStoDeallocate_keeps e
  | stoLog => exact execStoLog_keeps e
  | stoRestartResume => exact execStoRestartResume_keeps e
  | stoRestartDiscard => exact execStoRestartDiscard_keeps e
  | stoDispatch => exact execStoDispatch_keeps e
  | nvmeCompletion => exact execNvmeCompletion_keeps e
  | coalesceTimeout => exact execCoalesceTimeout_keeps e
  | journalCheckpoint => exact execJournalCheckpoint_keeps e
  | driveTimeout => exact execDriveTimeout_keeps e
  | abortTimeout => exact execAbortTimeout_keeps e
  | driveFailure => exact execDriveFailure_keeps e
  | driveLinkUp => exact execDriveLinkUp_keeps e
  | driveLinkRetry => exact execDriveLinkRetry_keeps e
  | driveAdminCompletion => exact execDriveAdminCompletion_keeps e
  | selftestIdleStart => exact execSelftestIdleStart_keeps e
  | selftestTimeout => exact execSelftestTimeout_keeps e
  | selftestResult => exact execSelftestResult_keeps e
  | driveFwDone => exact execDriveFwDone_keeps e
  | add => exact execAdd_keeps e
  | sub => exact execSub_keeps e
  | and => exact execAnd_keeps e
  | or => exact execOr_keeps e
  | xor => exact execXor_keeps e
  | sll => exact execSll_keeps e
  | srl => exact execSrl_keeps e
  | sra => exact execSra_keeps e
  | slt => exact execSlt_keeps e
  | sltu => exact execSltu_keeps e
  | mul => exact execMul_keeps e
  | mulhu => exact execMulhu_keeps e
  | divu => exact execDivu_keeps e
  | remu => exact execRemu_keeps e
  | addi => exact execAddi_keeps e
  | andi => exact execAndi_keeps e
  | ori => exact execOri_keeps e
  | xori => exact execXori_keeps e
  | shi => exact execShi_keeps e
  | slti => exact execSlti_keeps e
  | sltiu => exact execSltiu_keeps e
  | movk => exact execMovk_keeps e
  | movz => exact execMovz_keeps e
  | ld => exact execLd_keeps e
  | lw => exact execLw_keeps e
  | lh => exact execLh_keeps e
  | lb => exact execLb_keeps e
  | sd => exact execSd_keeps e
  | sw => exact execSw_keeps e
  | sh => exact execSh_keeps e
  | sb => exact execSb_keeps e
  | beq => exact execBeq_keeps e
  | bne => exact execBne_keeps e
  | blt => exact execBlt_keeps e
  | bge => exact execBge_keeps e
  | bltu => exact execBltu_keeps e
  | bgeu => exact execBgeu_keeps e
  | j => exact execJ_keeps e
  | jal => exact execJal_keeps e
  | jalr => exact execJalr_keeps e
  | extu => exact execExtu_keeps e
  | exts => exact execExts_keeps e
  | ins => exact execIns_keeps e
  | clz => exact execClz_keeps e
  | popc => exact execPopc_keeps e
  | bswap => exact execBswap_keeps e
  | crcc => exact execCrcc_keeps e
  | crce => exact execCrce_keeps e
  | hmix => exact execHmix_keeps e
  | aadd => exact execAadd_keeps e
  | aswp => exact execAswp_keeps e
  | acas => exact execAcas_keeps e
  | aand => exact execAand_keeps e
  | aor => exact execAor_keeps e
  | fence => exact execFence_keeps e
  | ifence => exact execIfence_keeps e
  | chw => exact execChw_keeps e
  | chwe => exact execChwe_keeps e
  | chr => exact execChr_keeps e
  | chskip => exact execChskip_keeps e
  | chpush => exact execChpush_keeps e
  | chdrop => exact execChdrop_keeps e
  | chpoll => exact execChpoll_keeps e
  | wtime => exact execWtime_keeps e
  | wsel => exact execWsel_keeps e
  | wspace => exact execWspace_keeps e
  | mfs => exact execMfs_keeps e
  | mts => exact execMts_keeps e
  | trestart => exact execTrestart_keeps e
  | tstate => exact execTstate_keeps e
  | ehtsub => exact execEhtsub_keeps e
  | slotret => exact execSlotret_keeps e
  | finj => exact execFinj_keeps e
  | frel => exact execFrel_keeps e
  | blockedReadReturn => exact execBlockedReadReturn_keeps e
  | timerPortExpiry => exact execTimerPortExpiry_keeps e
  | quietDetector => exact execQuietDetector_keeps e
  | spareStart => exact execSpareStart_keeps e
  | rehomeStart => exact execRehomeStart_keeps e
  | jobRingNotice => exact execJobRingNotice_keeps e
  | gcmEncrypt => exact execGcmEncrypt_keeps e
  | gcmDecrypt => exact execGcmDecrypt_keeps e
  | xtsEncrypt => exact execXtsEncrypt_keeps e
  | xtsDecrypt => exact execXtsDecrypt_keeps e
  | shake256 => exact execShake256_keeps e
  | patrolScrub => exact execPatrolScrub_keeps e
  | fixedAreaRewrite => exact execFixedAreaRewrite_keeps e
  | sweepStart => exact execSweepStart_keeps e
  | testStart => exact execTestStart_keeps e
  | bankCopyDone => exact execBankCopyDone_keeps e
  | testRunEnd => exact execTestRunEnd_keeps e
  | sweepPeriodEnd => exact execSweepPeriodEnd_keeps e
  | deadListBurn => exact execDeadListBurn_keeps e
  | mbxRequest => exact execMbxRequest_keeps e
  | replay => exact execReplay_keeps e
  | resultPart => exact execResultPart_keeps e
  | cmdTimeout => exact execCmdTimeout_keeps e
  | captureRelease => exact execCaptureRelease_keeps e
  | stagingExpiry => exact execStagingExpiry_keeps e
  | cfgStoreDone => exact execCfgStoreDone_keeps e
  | tallyInterval => exact execTallyInterval_keeps e
  | eventMessageDone => exact execEventMessageDone_keeps e
  | eventRetry => exact execEventRetry_keeps e
  | go => exact execGo_keeps e
  | cancel => exact execCancel_keeps e
  | rspAck => exact execRspAck_keeps e
  | evtAck => exact execEvtAck_keeps e
  | sbDataWrite => exact execSbDataWrite_keeps e
  | sbDataRead => exact execSbDataRead_keeps e
  | entdaa => exact execEntdaa_keeps e
  | setdasa => exact execSetdasa_keeps e
  | devInfo => exact execDevInfo_keeps e
  | regRead => exact execRegRead_keeps e
  | regWrite => exact execRegWrite_keeps e
  | devReset => exact execDevReset_keeps e
  | cfgOpen => exact execCfgOpen_keeps e
  | cfgWrite => exact execCfgWrite_keeps e
  | cfgRead => exact execCfgRead_keeps e
  | cfgDiscard => exact execCfgDiscard_keeps e
  | cfgCommit => exact execCfgCommit_keeps e
  | cfgStatus => exact execCfgStatus_keeps e
  | cfgRecall => exact execCfgRecall_keeps e
  | tallyPeers => exact execTallyPeers_keeps e
  | evtSubscribe => exact execEvtSubscribe_keeps e
  | evtUnsubscribe => exact execEvtUnsubscribe_keeps e
  | evtRead => exact execEvtRead_keeps e
  | msSaInstall => exact execMsSaInstall_keeps e
  | msSaActivate => exact execMsSaActivate_keeps e
  | msSaDelete => exact execMsSaDelete_keeps e
  | msStatus => exact execMsStatus_keeps e
  | lpQuiesce => exact execLpQuiesce_keeps e
  | lpEnable => exact execLpEnable_keeps e
  | tsRead => exact execTsRead_keeps e
  | ppsRead => exact execPpsRead_keeps e
  | chcPatchLoad => exact execChcPatchLoad_keeps e
  | chcExtLoad => exact execChcExtLoad_keeps e
  | tblInsert => exact execTblInsert_keeps e
  | tblDelete => exact execTblDelete_keeps e
  | tblRead => exact execTblRead_keeps e
  | tblBatch => exact execTblBatch_keeps e
  | tblFlush => exact execTblFlush_keeps e
  | tblDump => exact execTblDump_keeps e
  | tmQstats => exact execTmQstats_keeps e
  | tmPolstats => exact execTmPolstats_keeps e
  | tmQquiesce => exact execTmQquiesce_keeps e
  | tmQenable => exact execTmQenable_keeps e
  | ehtRegCreate => exact execEhtRegCreate_keeps e
  | ehtRegRevoke => exact execEhtRegRevoke_keeps e
  | ehtRegQuery => exact execEhtRegQuery_keeps e
  | ehtBookWrite => exact execEhtBookWrite_keeps e
  | ehtBookRead => exact execEhtBookRead_keeps e
  | ehtEpQuiesce => exact execEhtEpQuiesce_keeps e
  | stoQueueQuiesce => exact execStoQueueQuiesce_keeps e
  | stoQueueStats => exact execStoQueueStats_keeps e
  | stoDriveStatus => exact execStoDriveStatus_keeps e
  | stoSelftest => exact execStoSelftest_keeps e
  | stoDriveFw => exact execStoDriveFw_keeps e
  | stoNsOnline => exact execStoNsOnline_keeps e
  | tfEnable => exact execTfEnable_keeps e
  | tfDisable => exact execTfDisable_keeps e
  | tfFreeze => exact execTfFreeze_keeps e
  | tfThaw => exact execTfThaw_keeps e
  | tfSave => exact execTfSave_keeps e
  | tfRestore => exact execTfRestore_keeps e
  | tfMoved => exact execTfMoved_keeps e
  | tfQuery => exact execTfQuery_keeps e
  | tfStats => exact execTfStats_keeps e
  | tfEpCreate => exact execTfEpCreate_keeps e
  | tfEpDestroy => exact execTfEpDestroy_keeps e
  | tfSqCreate => exact execTfSqCreate_keeps e
  | tfSqResize => exact execTfSqResize_keeps e
  | tfSqEnable => exact execTfSqEnable_keeps e
  | tfSqDestroy => exact execTfSqDestroy_keeps e
  | stallStart => exact execStallStart_keeps e
  | stallQuiesce => exact execStallQuiesce_keeps e
  | coreRestart => exact execCoreRestart_keeps e
  | dbgStop => exact execDbgStop_keeps e
  | dbgResume => exact execDbgResume_keeps e
  | dbgStep => exact execDbgStep_keeps e
  | dbgKill => exact execDbgKill_keeps e
  | dbgBreak => exact execDbgBreak_keeps e
  | dbgRead => exact execDbgRead_keeps e
  | dbgWrite => exact execDbgWrite_keeps e
  | keyGenerate => exact execKeyGenerate_keeps e
  | keyImport => exact execKeyImport_keeps e
  | keyExport => exact execKeyExport_keeps e
  | keyRootImport => exact execKeyRootImport_keeps e
  | keyDestroy => exact execKeyDestroy_keeps e
  | keyQuery => exact execKeyQuery_keeps e
  | attCert => exact execAttCert_keeps e
  | attLog => exact execAttLog_keeps e
  | attExtend => exact execAttExtend_keeps e
  | attQuote => exact execAttQuote_keeps e
  | bootStatus => exact execBootStatus_keeps e
  | fwWrite => exact execFwWrite_keeps e
  | fwVerify => exact execFwVerify_keeps e
  | fwActivate => exact execFwActivate_keeps e
  | fwConfirm => exact execFwConfirm_keeps e
  | bootMinverRaise => exact execBootMinverRaise_keeps e
  | vendorRevoke => exact execVendorRevoke_keeps e
  | ownerKey => exact execOwnerKey_keeps e
  | ownerPolicy => exact execOwnerPolicy_keeps e
  | teaselStatus => exact execTeaselStatus_keeps e
  | teaselTest => exact execTeaselTest_keeps e
  | teaselDeclare => exact execTeaselDeclare_keeps e
  | teaselReinstate => exact execTeaselReinstate_keeps e
  | teaselDeadlist => exact execTeaselDeadlist_keeps e
  | tbRead => exact execTbRead_keeps e
  | tbSet => exact execTbSet_keeps e
  | tbRate => exact execTbRate_keeps e
  | tbSlew => exact execTbSlew_keeps e
  | clkGate => exact execClkGate_keeps e
  | pwrStatus => exact execPwrStatus_keeps e
  | exlatSnap => exact execExlatSnap_keeps e
  | exlatCtlClear => exact execExlatCtlClear_keeps e
  | exlatValidRearm => exact execExlatValidRearm_keeps e
  | portSnap => exact execPortSnap_keeps e
  | portClear => exact execPortClear_keeps e
  | parseSnap => exact execParseSnap_keeps e
  | parseClear => exact execParseClear_keeps e
  | tblSnap => exact execTblSnap_keeps e
  | tblClear => exact execTblClear_keeps e
  | tmSnap => exact execTmSnap_keeps e
  | tmClear => exact execTmClear_keeps e
  | tmGsnap => exact execTmGsnap_keeps e
  | tmGclear => exact execTmGclear_keeps e
  | ehtSnap => exact execEhtSnap_keeps e
  | ehtClear => exact execEhtClear_keeps e
  | stoSnap => exact execStoSnap_keeps e
  | stoClear => exact execStoClear_keeps e
  | stallSnap => exact execStallSnap_keeps e
  | stallClear => exact execStallClear_keeps e
  | secSnap => exact execSecSnap_keeps e
  | secClear => exact execSecClear_keeps e
  | memSnap => exact execMemSnap_keeps e
  | memClear => exact execMemClear_keeps e
  | memValidRearm => exact execMemValidRearm_keeps e
  | clkSnap => exact execClkSnap_keeps e
  | clkClear => exact execClkClear_keeps e
  | cprSnap => exact execCprSnap_keeps e
  | cprClear => exact execCprClear_keeps e
  | tslSnap => exact execTslSnap_keeps e
  | tslClear => exact execTslClear_keeps e
  | registerWrite => exact execRegisterWrite_keeps e
  | stage1Start => exact execStage1Start_keeps e
  | alignmentLoss => exact execAlignmentLoss_keeps e
  | thermalWarnRearm => exact execThermalWarnRearm_keeps e
  | selftestOverdue => exact execSelftestOverdue_keeps e

/-- An instruction that leaves its core completes, whether its core is dead or not. -/
theorem issueOut_completes (i : Tid) (f g : State → State) (s : State) : ∃ u, issueOut i f g s = .next u := by
  unfold issueOut
  split
  · exact ⟨_, rfl⟩
  · exact ⟨_, rfl⟩

/-- No command stops the part: each answers a next state. -/
theorem exec_completes (c : Instr) (s : State) : ∃ u, exec c s = .next u := by
  cases c with
  | sd | sw | sh | sb | aadd | aswp | acas | aand | aor | chwe | ehtsub => exact issueOut_completes ..
  | _ => exact ⟨_, rfl⟩

/-- A step keeps what its command keeps, but for the command that it takes out of the queue. -/
theorem step_keeps {s u : State} (e : step s = .next u) : ∃ l, Keeps { s with pending := l } u := by
  cases h : s.pending with
  | nil =>
    rw [step_nil s h] at e
    cases e
    exact ⟨s.pending, State.advance_keeps (Keeps.refl s)⟩
  | cons c l =>
    rw [step_cons s c l h] at e
    exact ⟨l, exec_keeps e⟩

/-- The clock of an idle step runs on by one nanosecond. -/
theorem tick_eq (s : State) : tick s = { s with clk := s.clk.run 1 } := by
  unfold tick State.advance
  rw [if_pos (Nat.lt_succ_self _), Nat.add_sub_cancel_left]

theorem tb_run_of_stopped {c : Clk} (h : c.tbRunning = false) (n : Nat) : (c.run n).tb = c.tb := by simp [Clk.run, h]

theorem tb_run_of_no_slew {c : Clk} (h : c.tbRunning = true) (h0 : c.slewRate = 0) (n : Nat) :
    (c.run n).tb = c.tb + n * tbIncrement c.rate := by simp [Clk.run, Clk.slewClocks, h, h0]

/-- Settles O1: the front of the queue by the definition of a step, the idle step by the clock's run of one nanosecond. -/
theorem stepRunsQueue : Obligations.StepRunsQueue := by
  refine ⟨fun c s => rfl, fun s h => ⟨s.clk.run 1, ?_, run_up .., fun hr => tb_run_of_stopped hr 1, fun hr h0 => ?_⟩⟩
  · rw [step_nil s h, tick_eq]
  · rw [tb_run_of_no_slew hr h0, Nat.one_mul]

/-- Settles O2: every command completes, and keeps the queue. -/
theorem commandsLeaveQueue : Obligations.CommandsLeaveQueue := fun c s =>
  (exec_completes c s).imp fun _ e => ⟨e, (exec_keeps e).queue⟩

/-- Settles O4, command by command: each keeps the form of the memories. -/
theorem stepKeepsMemoryCanonical : Obligations.StepKeepsMemoryCanonical := fun _ _ hs e =>
  (step_keeps e).elim fun _ k => k.mem hs

/-- Settles O5, command by command: each only burns fuses further. -/
theorem stepKeepsFuses : Obligations.StepKeepsFuses := fun _ _ e => by
  obtain ⟨_, k⟩ := step_keeps e
  obtain ⟨hserial, hmac, hroots, hkey0, hkey1, hkey2, hvdd, hrevoked, hcount, hdead⟩ := k.fuses
  exact ⟨hserial, hmac, hroots, hkey0, hkey1, hkey2, hvdd, hrevoked, hcount, hdead⟩

end Sys2Proof.Machine

/-! Proofs of the statements on the Idori instructions of registers alone (R280, R282, R285 to R288). -/

namespace Sys2Proof.Machine

/-! ### Instructions that write one register (R286) -/

/-- Instruction `c` of thread `i`, issued at state `x`, writes `v` to `rd` and retires. -/
def WritesReg (c : Instr) (i : Tid) (rd : Reg) (x : State) (v : Word64) : Prop :=
  ∃ f, (∀ s, exec c s = issue i f s) ∧ f x = retire (x.setReg i rd v) i

namespace WritesReg

variable {c : Instr} {i : Tid} {rd : Reg} {s x : State} {v : Word64}

theorem exec_of_issues (h : WritesReg c i rd x v) (hx : Issues i s x) : exec c s = .next (retire (x.setReg i rd v) i) := by
  obtain ⟨f, hc, hf⟩ := h
  exact (Machine.exec_of_issues (hc s) hx).trans (by rw [hf])

theorem exec_of_not (h : WritesReg c i rd x v) (hi : canIssue s i = false) : exec c s = .next s := by
  obtain ⟨f, hc, -⟩ := h
  exact (hc s).trans (issue_of_not hi f)

/-- A fetch that faults stops the instruction, whatever it is (R280, R282). -/
theorem exec_of_fetchFault (h : WritesReg c i rd x v) (hi : canIssue s i = true) {code : Nat} {z : State}
    (hf : fetchFault (noteIssue s i) i = some (code, z)) : exec c s = .next (faultThread z i code (z.thr i).pc.toNat) := by
  obtain ⟨f, hc, -⟩ := h
  simp [hc, issue, hi, runOne, hf]

theorem exec_of_illegal (h : WritesReg c i rd x v) (hi : canIssue s i = true) (hf : fetchFault (noteIssue s i) i = none)
    (hw : legalWord ((noteIssue s i).fetched i) = false) :
    exec c s = .next (faultThread (noteIssue s i) i idoIllegal ((noteIssue s i).fetched i)) := by
  obtain ⟨f, hc, -⟩ := h
  exact (hc s).trans (issue_of_illegal hi hf hw f)

end WritesReg

/-! ### What a fetch faults with (R280, R282) -/

section FetchFaults

variable {y : State} {i : Tid}

theorem fetchFault_outside (h : localWindow i (y.thr i).pc.toNat 4 = none) : fetchFault y i = some (idoFetch, y) := by
  rw [fetchFault, h]

theorem fetchFault_misaligned (h : (localWindow i (y.thr i).pc.toNat 4).isSome = true) (ha : (y.thr i).pc.toNat % 4 ≠ 0) :
    fetchFault y i = some (idoAlign, y) := by
  obtain ⟨m, hm⟩ := Option.isSome_iff_exists.1 h
  rw [fetchFault, hm]
  exact if_pos ha

theorem fetchFault_poisoned {m : Nat} (h : localWindow i (y.thr i).pc.toNat 4 = some m) (ha : (y.thr i).pc.toNat % 4 = 0)
    (hp : y.poisoned m 4 = true) : fetchFault y i = some (idoEcc, countErr y (memBase + 0x60)) := by
  rw [fetchFault, h]
  exact (if_neg (not_not.2 ha)).trans (if_pos hp)

theorem thr_countErr (a : Nat) : (countErr y a).thr i = y.thr i := by
  simp only [State.thr, State.thrAt, State.role, State.stall, countErr_ido]

end FetchFaults

/-! ### Fields of a word (R286, R287) -/

section Fields

variable {pos len j : Nat} {a d : Word64}

theorem getLsbD_fieldMask (hj : j < 64) : (fieldMask pos len).getLsbD j = (decide (pos ≤ j) && decide (j - pos < len)) := by
  rw [fieldMask, BitVec.getLsbD_ofNat, Nat.testBit_mul_two_pow, Nat.testBit_two_pow_sub_one, decide_eq_true hj, Bool.true_and]

/-- A field cleared in `d` and filled from `v`. -/
theorem getLsbD_replace (v : Word64) (hj : j < 64) (hv : ∀ k, len ≤ k → v.getLsbD k = false) :
    ((d &&& ~~~ (fieldMask pos len)) ||| (v <<< pos)).getLsbD j =
      if pos ≤ j ∧ j < pos + len then v.getLsbD (j - pos) else d.getLsbD j := by
  rw [BitVec.getLsbD_or, BitVec.getLsbD_and, BitVec.getLsbD_not, getLsbD_fieldMask hj, BitVec.getLsbD_shiftLeft, decide_eq_true hj]
  by_cases hp : pos ≤ j
  · by_cases hl : j < pos + len
    · have hk : j - pos < len := by omega
      have hp' : ¬ j < pos := by omega
      simp [hp, hl, hk, hp']
    · have hk : ¬ j - pos < len := by omega
      simp [hp, hl, hk, hv (j - pos) (by omega)]
  · have hp' : j < pos := by omega
    simp [hp, hp']

theorem getLsbD_zext (imm : Word16) : (zext imm).getLsbD j = imm.getLsbD j := by
  rw [zext, BitVec.getLsbD_setWidth]
  by_cases h : j < 16
  · rw [decide_eq_true (by omega), Bool.true_and]
  · rw [BitVec.getLsbD_of_ge imm j (by omega), Bool.and_false]

theorem getLsbD_movk (k : BitVec 2) (imm : Word16) (hj : j < 64) : (movk d k imm).getLsbD j =
    if 16 * k.toNat ≤ j ∧ j < 16 * k.toNat + 16 then imm.getLsbD (j - 16 * k.toNat) else d.getLsbD j := by
  rw [movk, getLsbD_replace _ hj fun n hn => by rw [getLsbD_zext]; exact BitVec.getLsbD_of_ge imm n hn, getLsbD_zext]

theorem getLsbD_movz (k : BitVec 2) (imm : Word16) (hj : j < 64) : (movz k imm).getLsbD j =
    if 16 * k.toNat ≤ j ∧ j < 16 * k.toNat + 16 then imm.getLsbD (j - 16 * k.toNat) else false := by
  rw [movz, BitVec.getLsbD_shiftLeft, getLsbD_zext, decide_eq_true hj, Bool.true_and]
  split
  · next h => simp [h.1]
  · next h =>
    by_cases hl : 16 * k.toNat ≤ j
    · rw [BitVec.getLsbD_of_ge imm _ (by omega), Bool.and_false]
    · simp [Nat.lt_of_not_le hl]

theorem getLsbD_extu (hj : j < 64) : (extu pos len d a).getLsbD j = (decide (j < len) && a.getLsbD (pos + j)) := by
  rw [extu, BitVec.getLsbD_and, BitVec.getLsbD_ushiftRight, getLsbD_fieldMask hj, decide_eq_true (Nat.zero_le j), Bool.true_and,
    Nat.sub_zero, Bool.and_comm]

theorem getLsbD_exts (h : pos + len ≤ 64) (h1 : 1 ≤ len) (hj : j < 64) :
    (exts pos len d a).getLsbD j = a.getLsbD (pos + min j (len - 1)) := by
  have hshift : ∀ k, k < 64 → 64 - len ≤ k → (a <<< (64 - pos - len)).getLsbD k = a.getLsbD (k - (64 - pos - len)) := by
    intro k hk hlo
    rw [BitVec.getLsbD_shiftLeft, decide_eq_true hk, decide_eq_false (by omega : ¬ k < 64 - pos - len)]
    rfl
  rw [exts, BitVec.getLsbD_sshiftRight, decide_eq_false (Nat.not_le.2 hj), Bool.not_false, Bool.true_and]
  split
  · rw [hshift _ (by omega) (by omega)]; congr 1; omega
  · rw [BitVec.msb_eq_getLsbD_last, hshift _ (by omega) (by omega)]; congr 1; omega

theorem getLsbD_ins (h : pos + len ≤ 64) (hj : j < 64) : (ins pos len d a).getLsbD j =
    if pos ≤ j ∧ j < pos + len then a.getLsbD (j - pos) else d.getLsbD j := by
  have hlow : ∀ k, k < 64 → (a &&& fieldMask 0 len).getLsbD k = (a.getLsbD k && decide (k < len)) := fun k hk => by
    rw [BitVec.getLsbD_and, getLsbD_fieldMask hk, decide_eq_true (Nat.zero_le k), Bool.true_and, Nat.sub_zero]
  rw [ins, getLsbD_replace _ hj]
  · refine ite_congr rfl (fun hin => ?_) fun _ => rfl
    rw [hlow _ (by omega), decide_eq_true (by omega : j - pos < len), Bool.and_true]
  · intro k hk
    by_cases h64 : k < 64
    · rw [hlow k h64, decide_eq_false (Nat.not_lt.2 hk), Bool.and_false]
    · exact BitVec.getLsbD_of_ge _ _ (Nat.not_lt.1 h64)

end Fields

/-! ### Counts and bytes of a word (R286 to R288) -/

theorem leadingZeros_spec (a : Word64) (n : Nat) :
    leadingZeros a n ≤ n ∧ (∀ j, j < leadingZeros a n → a.getLsbD (n - 1 - j) = false)
      ∧ (leadingZeros a n < n → a.getLsbD (n - 1 - leadingZeros a n) = true) := by
  induction n with
  | zero => exact ⟨Nat.le_refl _, fun j hj => absurd hj (Nat.not_lt_zero j), fun h => absurd h (Nat.lt_irrefl _)⟩
  | succ n ih =>
    obtain ⟨hle, hzero, hone⟩ := ih
    rw [leadingZeros]
    split
    · next h => exact ⟨Nat.zero_le _, fun j hj => absurd hj (Nat.not_lt_zero j), fun _ => h⟩
    · next h =>
      refine ⟨by omega, fun j hj => ?_, fun hk => ?_⟩
      · cases j with
        | zero => simpa using h
        | succ j => rw [show n + 1 - 1 - (j + 1) = n - 1 - j by omega]; exact hzero j (by omega)
      · rw [show n + 1 - 1 - (1 + leadingZeros a n) = n - 1 - leadingZeros a n by omega]; exact hone (by omega)

theorem onesCount_eq (a : Word64) (n : Nat) : onesCount a n = ((List.range n).filter (fun j => a.getLsbD j)).length := by
  induction n with
  | zero => rfl
  | succ n ih =>
    rw [onesCount, ih, List.range_succ, List.filter_append, List.length_append, Nat.add_comm]
    congr 1
    by_cases h : a.getLsbD n = true <;> simp [h]

/-- The bytes of a number, each by its place. -/
theorem leBytes_eq_map (n v : Nat) : leBytes n v = (List.range n).map (fun k => BitVec.ofNat 8 (v / 256 ^ k)) := by
  induction n generalizing v with
  | zero => rfl
  | succ n ih =>
    rw [leBytes, ih, List.range_succ_eq_map, List.map_cons, List.map_map, pow_zero, Nat.div_one]
    refine congrArg _ (List.map_congr_left fun k _ => ?_)
    rw [Function.comp_apply, Nat.div_div_eq_div_mul, ← Nat.pow_succ']

theorem leBytes_toNat (n : Nat) (b : Word64) : leBytes n b.toNat = (List.range n).map (fun k => b.extractLsb' (8 * k) 8) := by
  rw [leBytes_eq_map]
  refine List.map_congr_left fun k _ => ?_
  rw [BitVec.extractLsb', Nat.shiftRight_eq_div_pow, Nat.pow_mul]

/-- Byte `j` of the number that bytes spell. -/
theorem ofLe_div_pow (l : Bytes) (j : Nat) : BitVec.ofNat 8 (ofLe l / 256 ^ j) = l.getD j 0#8 := by
  induction l generalizing j with
  | nil => rw [ofLe, Nat.zero_div]; rfl
  | cons b l ih =>
    rw [ofLe]
    cases j with
    | zero =>
      rw [pow_zero, Nat.div_one]
      refine BitVec.eq_of_toNat_eq ?_
      have hb := b.isLt
      simp only [BitVec.toNat_ofNat, List.getD_cons_zero]
      omega
    | succ j =>
      rw [Nat.pow_succ', ← Nat.div_div_eq_div_mul, List.getD_cons_succ, ← ih j]
      have hb := b.isLt
      congr 2
      omega

/-- Byte `j` of a word that a number gives. -/
theorem extractLsb'_ofNat_word {j : Nat} (n : Nat) (hj : j < 8) :
    (BitVec.ofNat 64 n).extractLsb' (8 * j) 8 = BitVec.ofNat 8 (n / 256 ^ j) := by
  refine BitVec.eq_of_toNat_eq ?_
  have hsplit : 2 ^ 64 = 256 ^ j * 256 ^ (8 - j) := by
    rw [← Nat.pow_add, show j + (8 - j) = 8 by omega]; norm_num
  have hdvd : (2 ^ 8 : Nat) ∣ 256 ^ (8 - j) := dvd_pow_self 256 (by omega)
  rw [BitVec.extractLsb'_toNat, BitVec.toNat_ofNat, BitVec.toNat_ofNat, Nat.shiftRight_eq_div_pow, Nat.pow_mul, hsplit,
    Nat.mod_mul_right_div_self, Nat.mod_mod_of_dvd _ hdvd]

theorem extractLsb'_bswap {j : Nat} (a : Word64) (hj : j < 8) : (bswap a).extractLsb' (8 * j) 8 = a.extractLsb' (56 - 8 * j) 8 := by
  have hlen : (leBytes 8 a.toNat).length = 8 := by rw [leBytes_toNat, List.length_map, List.length_range]
  rw [bswap, extractLsb'_ofNat_word _ hj, ofBe, ofLe_div_pow, List.getD_eq_getElem _ _ (by rw [List.length_reverse, hlen]; exact hj),
    List.getElem_reverse]
  simp only [leBytes_toNat, List.length_map, List.length_range, List.getElem_map, List.getElem_range]
  congr 1
  omega

theorem crcStep_eq (p : Word32) (ww : BitVec 2) (a b : Word64) : crcStep p ww a b =
    (((List.range (2 ^ ww.toNat)).map (fun k => b.extractLsb' (8 * k) 8)).foldl (crcByte p) (a.setWidth 32)).setWidth 64 := by
  rw [crcStep, leBytes_toNat]

/-! ### The rows -/

/-- SHI has no kind 3. -/
theorem opShi_illegal (i : Tid) (rd ra : Reg) (n : BitVec 6) (s : State) : opShi i rd ra 3 n s =
    faultThread s i idoIllegal (5 * 2 ^ 26 + rd.toNat * 2 ^ 21 + ra.toNat * 2 ^ 16 + 3 * 64 + n.toNat) := by
  have h : opShi i rd ra 3 n s = faultThread s i idoIllegal (encI 5 rd ra (3 * 64 + n.toNat)) := rfl
  rw [h, encI, ← Nat.add_assoc]

theorem bit_slt (a b : Word64) : bit (a.slt b) = if a.toInt < b.toInt then 1 else 0 := by
  simp only [bit, BitVec.slt_eq_decide, decide_eq_true_eq]

theorem bit_ult (a b : Word64) : bit (a.ult b) = if a.toNat < b.toNat then 1 else 0 := by
  simp only [bit, BitVec.ult_eq_decide, decide_eq_true_eq]

theorem toInt_sext (imm : Word16) : (sext imm).toInt = imm.toInt := BitVec.toInt_signExtend_of_le (by decide)

section Rows

variable {s x : State} {i : Tid} {rd ra rb : Reg} {c : Instr}

/-- An instruction of the shape rd = f(ra, rb). -/
theorem writesReg_opR {f : Word64 → Word64 → Word64} {v : Word64} (hc : ∀ s, exec c s = issue i (opR f i rd ra rb) s)
    (hv : f (x.greg i ra) (x.greg i rb) = v) : WritesReg c i rd x v := ⟨_, hc, by rw [opR, hv]⟩

/-- An instruction of the shape rd = f(ra). -/
theorem writesReg_op1 {f : Word64 → Word64} {v : Word64} (hc : ∀ s, exec c s = issue i (op1 f i rd ra) s)
    (hv : f (x.greg i ra) = v) : WritesReg c i rd x v := ⟨_, hc, by rw [op1, hv]⟩

/-- A field that lies within its word is written as its row says. -/
theorem exec_opF {func : Nat} {f : Nat → Nat → Word64 → Word64 → Word64} {pos len1 : BitVec 6}
    (hc : exec c s = issue i (opF func f i rd ra pos len1) s) (hx : Issues i s x) (h : pos.toNat + (len1.toNat + 1) ≤ 64) :
    exec c s = .next (retire (x.setReg i rd (f pos.toNat (len1.toNat + 1) (x.greg i rd) (x.greg i ra))) i) :=
  (exec_of_issues hc hx).trans (by rw [opF, if_neg (by omega)])

/-- A field that passes bit 63 is illegal. -/
theorem exec_opF_illegal {func : Nat} {f : Nat → Nat → Word64 → Word64 → Word64} {pos len1 : BitVec 6}
    (hc : exec c s = issue i (opF func f i rd ra pos len1) s) (hx : Issues i s x) (h : 64 < pos.toNat + (len1.toNat + 1)) :
    exec c s = .next (faultThread x i idoIllegal (encF rd ra pos len1 func)) :=
  (exec_of_issues hc hx).trans (by rw [opF, if_pos (by omega)])

end Rows

/-- Settles O39: each row writes one value, and what stops one at its fetch stops every one. -/
theorem idoriArithmetic : Obligations.IdoriArithmetic := by
  unfold Obligations.IdoriArithmetic
  intro s x i rd ra rb imm a b cs
  have hcs : ∀ c ∈ cs, WritesReg c.1 i rd x c.2 := by
    simp only [cs, List.forall_mem_cons, List.not_mem_nil, false_implies, implies_true, and_true]
    have hR {c : Instr} {f : Word64 → Word64 → Word64} {v : Word64} := @writesReg_opR x i rd ra rb c f v
    have h1 {c : Instr} {f : Word64 → Word64} {v : Word64} := @writesReg_op1 x i rd ra c f v
    exact ⟨hR (fun _ => rfl) rfl, hR (fun _ => rfl) rfl, hR (fun _ => rfl) rfl, hR (fun _ => rfl) rfl, hR (fun _ => rfl) rfl,
      hR (fun _ => rfl) rfl, hR (fun _ => rfl) rfl, hR (fun _ => rfl) rfl, hR (fun _ => rfl) (bit_slt a b), hR (fun _ => rfl) (bit_ult a b),
      hR (fun _ => rfl) rfl, hR (fun _ => rfl) rfl, hR (fun _ => rfl) rfl, hR (fun _ => rfl) rfl, h1 (fun _ => rfl) rfl,
      h1 (fun _ => rfl) rfl, h1 (fun _ => rfl) rfl, h1 (fun _ => rfl) rfl, h1 (fun _ => rfl) ((bit_slt a _).trans (by rw [toInt_sext])),
      h1 (fun _ => rfl) (bit_ult a _)⟩
  refine ⟨fun hx c hc => (hcs c hc).exec_of_issues hx, fun hi c hc => (hcs c hc).exec_of_not hi, fun hi => ?fetch,
    fun hx n => ?shifts, fun hx k => ?moves⟩
  case fetch =>
    refine ⟨fun hw c hc => (hcs c hc).exec_of_fetchFault hi (fetchFault_outside hw),
      fun hw ha c hc => (hcs c hc).exec_of_fetchFault hi (fetchFault_misaligned hw ha), fun m hw ha hp c hc => ?_,
      fun hf hl c hc => (hcs c hc).exec_of_illegal hi hf hl⟩
    have h := (hcs c hc).exec_of_fetchFault hi (fetchFault_poisoned hw ha hp)
    rwa [thr_countErr] at h
  case shifts =>
    exact ⟨exec_of_issues (f := opShi i rd ra 0 n) rfl hx, exec_of_issues (f := opShi i rd ra 1 n) rfl hx,
      exec_of_issues (f := opShi i rd ra 2 n) rfl hx, (exec_of_issues rfl hx).trans (by rw [opShi_illegal]; rfl)⟩
  case moves =>
    refine ⟨movk (x.greg i rd) k imm, movz k imm, exec_of_issues (f := op1 (movk · k imm) i rd rd) rfl hx,
      exec_of_issues (f := op1 (fun _ => movz k imm) i rd rd) rfl hx, fun j hj => ⟨getLsbD_movk k imm hj, getLsbD_movz k imm hj⟩⟩

/-- Settles O40: fields, counts and bytes bit by bit, a checksum by the bytes that it steps over. -/
theorem idoriBitFields : Obligations.IdoriBitFields := by
  unfold Obligations.IdoriBitFields
  intro s x i rd ra rb pos len1 ww hx a b p n
  refine ⟨fun h => ⟨_, _, _, exec_opF rfl hx h, exec_opF rfl hx h, exec_opF rfl hx h, fun j hj => ?_⟩, fun h => ?_,
    ⟨leadingZeros a 64, exec_of_issues (f := op1 clz i rd ra) rfl hx, leadingZeros_spec a 64⟩, ?_,
    ⟨bswap a, exec_of_issues (f := op1 bswap i rd ra) rfl hx, fun j hj => extractLsb'_bswap a hj⟩, ⟨?_, ?_⟩,
    exec_of_issues (f := opR hmix i rd ra rb) rfl hx⟩
  · exact ⟨getLsbD_extu hj, getLsbD_exts h (Nat.le_add_left 1 _) hj, getLsbD_ins h hj⟩
  · simp only [List.forall_mem_cons, List.not_mem_nil, false_implies, implies_true, and_true]
    exact ⟨exec_opF_illegal rfl hx h, exec_opF_illegal rfl hx h, exec_opF_illegal rfl hx h⟩
  · exact (exec_of_issues rfl hx).trans (by rw [op1, popc, onesCount_eq])
  · exact (exec_of_issues rfl hx).trans (by rw [opR, crcStep_eq]; rfl)
  · exact (exec_of_issues rfl hx).trans (by rw [opR, crcStep_eq]; rfl)

end Sys2Proof.Machine

/-! Proofs of the statement on loads, stores and atomics (R34, R280, R282, R286, R289, R429). -/

namespace Sys2Proof.Machine

section Accesses

variable {x : State} {i : Tid} {rd ra : Reg} {imm : Word16} {n m p : Nat}

/-! ### Loads (R280, R282, R286) -/

theorem opLoad_misaligned (h : effAddr x i ra imm % n ≠ 0) :
    opLoad n i rd ra imm x = faultThread x i idoAlign (effAddr x i ra imm) := if_pos h

theorem opLoad_outside (h : effAddr x i ra imm % n = 0) (hw : window x i (effAddr x i ra imm) n = none) :
    opLoad n i rd ra imm x = faultThread x i idoAddr (effAddr x i ra imm) := by
  rw [opLoad, hw, if_neg (not_not.2 h)]

theorem opLoad_poisoned (h : effAddr x i ra imm % n = 0) (hw : window x i (effAddr x i ra imm) n = some m)
    (hp : x.poisoned m n = true) : opLoad n i rd ra imm x = faultThread (poisonHit x) i idoEcc (effAddr x i ra imm) := by
  simp only [opLoad, hw, if_neg (not_not.2 h), if_pos hp]

theorem opLoad_of_window (h : effAddr x i ra imm % n = 0) (hw : window x i (effAddr x i ra imm) n = some m)
    (hp : x.poisoned m n = false) :
    opLoad n i rd ra imm x = retire (x.setReg i rd (BitVec.ofNat 64 (ofLe (x.peek m n)))) i := by
  simp only [opLoad, hw, if_neg (not_not.2 h), hp, Bool.false_eq_true, if_false]

/-! ### Stores (R34, R280, R286) -/

/-- A write under the core's own generation takes place, and keeps what a fetch of the thread finds. -/
theorem coreWrite_of_current (h : (x.role i.stall.val i.role.val).phys = some p)
    (hf : x.fenceOk (unitCore i.stall.val p) (.core i.stall.val i.role.val) = true) (v : Bytes) :
    coreWrite x i m v = (keepFetched x i m v.length).poke m v := by
  simp only [coreWrite, h, if_pos hf]

/-- A write under a stale generation is discarded (R34). -/
theorem coreWrite_of_stale (h : (x.role i.stall.val i.role.val).phys = some p)
    (hf : x.fenceOk (unitCore i.stall.val p) (.core i.stall.val i.role.val) = false) (v : Bytes) :
    coreWrite x i m v = fencedDiscard x (.core i.stall.val i.role.val) (x.heldGen (unitCore i.stall.val p)) := by
  simp only [coreWrite, h, hf, Bool.false_eq_true, if_false]

theorem opStore_misaligned (h : effAddr x i ra imm % n ≠ 0) :
    opStore n i rd ra imm x = faultThread x i idoAlign (effAddr x i ra imm) := if_pos h

theorem opStore_outside (h : effAddr x i ra imm % n = 0) (hw : window x i (effAddr x i ra imm) n = none) :
    opStore n i rd ra imm x = faultThread x i idoAddr (effAddr x i ra imm) := by
  rw [opStore, hw, if_neg (not_not.2 h)]

theorem opStore_of_window (h : effAddr x i ra imm % n = 0) (hw : window x i (effAddr x i ra imm) n = some m) :
    opStore n i rd ra imm x = retire (coreWrite x i m (leBytes n (x.greg i rd).toNat)) i := by
  simp only [opStore, hw, if_neg (not_not.2 h)]

theorem length_leBytes (n v : Nat) : (leBytes n v).length = n := by rw [leBytes_eq_map, List.length_map, List.length_range]

/-! ### Atomics (R289) -/

variable {f : Word64 → Option Word64}

theorem opAtomic_misaligned (h : (x.greg i ra).toNat % 8 ≠ 0) :
    opAtomic f i rd ra x = faultThread x i idoAlign (x.greg i ra).toNat := if_pos h

theorem opAtomic_outside_market (h : (x.greg i ra).toNat % 8 = 0) (hm : inMarket (x.greg i ra).toNat 8 = false) :
    opAtomic f i rd ra x = faultThread x i idoAtomic (x.greg i ra).toNat := by
  simp only [opAtomic, if_neg (not_not.2 h), hm, Bool.not_false, if_true]

theorem opAtomic_outside (h : (x.greg i ra).toNat % 8 = 0) (hm : inMarket (x.greg i ra).toNat 8 = true)
    (hw : window x i (x.greg i ra).toNat 8 = none) :
    opAtomic f i rd ra x = faultThread x i idoAddr (x.greg i ra).toNat := by
  simp only [opAtomic, if_neg (not_not.2 h), hm, hw, Bool.not_true, Bool.false_eq_true, if_false]

/-- An atomic within the thread's Market memory writes what `f` gives of the old value, which it returns. -/
theorem opAtomic_of_value {v : Word64} (h : (x.greg i ra).toNat % 8 = 0) (hm : inMarket (x.greg i ra).toNat 8 = true)
    (hw : window x i (x.greg i ra).toNat 8 = some m) (hp : x.poisoned m 8 = false)
    (hphys : (x.role i.stall.val i.role.val).phys = some p)
    (hfence : x.fenceOk (unitCore i.stall.val p) (.core i.stall.val i.role.val) = true)
    (hf : f (BitVec.ofNat 64 (ofLe (x.peek m 8))) = some v) :
    opAtomic f i rd ra x =
      retire (((keepFetched x i m 8).poke m (leBytes 8 v.toNat)).setReg i rd (BitVec.ofNat 64 (ofLe (x.peek m 8)))) i := by
  simp only [opAtomic, if_neg (not_not.2 h), hm, hw, hp, hf, Bool.not_true, Bool.false_eq_true, if_false,
    coreWrite_of_current hphys hfence, length_leBytes]

theorem opAtomic_of_none (h : (x.greg i ra).toNat % 8 = 0) (hm : inMarket (x.greg i ra).toNat 8 = true)
    (hw : window x i (x.greg i ra).toNat 8 = some m) (hp : x.poisoned m 8 = false)
    (hf : f (BitVec.ofNat 64 (ofLe (x.peek m 8))) = none) :
    opAtomic f i rd ra x = retire (x.setReg i rd (BitVec.ofNat 64 (ofLe (x.peek m 8)))) i := by
  simp only [opAtomic, if_neg (not_not.2 h), hm, hw, hp, hf, Bool.not_true, Bool.false_eq_true, if_false]

end Accesses

/-! ### Cores declared dead (R34, R429) -/

theorem goesOn_of {s : State} {i : Tid} (h : s.phase = .running) (hst : (s.stall i.stall.val).st ≠ .stopped)
    (hp : ∃ p, (s.role i.stall.val i.role.val).phys = some p) (ho : i.role.val ∈ (s.stall i.stall.val).owed)
    (he : (s.thr i).enable = true) (hr : (s.thr i).st = .ready) : goesOn s i = true := by
  obtain ⟨p, hp⟩ := hp
  simp [goesOn, h, hst, hp, ho, he, hr]

theorem issueOut_of_goesOn {s : State} {i : Tid} (h : goesOn s i = true) (f g : State → State) : issueOut i f g s = .next (g s) :=
  if_pos h

/-! ### Device memory (R318) -/

theorem peek_poke_self (s : State) (a : Nat) (v : Bytes) : (s.poke a v).peek a v.length = v := by
  have h := mreads_mwrites 0#8 s.mem.ram a v v.length 0 (by omega)
  rw [Nat.add_zero, List.drop_zero, List.take_length] at h
  exact h

theorem peek_poke_beside (s : State) (a : Nat) (v : Bytes) {n b : Nat} (h : b + n ≤ a ∨ a + v.length ≤ b) :
    (s.poke a v).peek b n = s.peek b n := mreads_mwrites_beside 0#8 s.mem.ram a v n b h

/-- Settles O41: loads, stores and atomics by their address, and what a dead core sends by its discard. -/
theorem idoriMemory : Obligations.IdoriMemory := by
  unfold Obligations.IdoriMemory
  refine ⟨fun s x i rd ra rb imm hx => ?accesses, fun s i rd ra rb imm => ?dead, fun s a k v => ?memory⟩
  case accesses =>
    intro ea loads stores
    have hload : ∀ c ∈ loads, exec c.1 s = .next (opLoad c.2 i rd ra imm x) := by
      simp only [loads, List.forall_mem_cons, List.not_mem_nil, false_implies, implies_true, and_true]
      exact ⟨exec_of_issues rfl hx, exec_of_issues rfl hx, exec_of_issues rfl hx, exec_of_issues rfl hx⟩
    have hstore : ∀ c ∈ stores, exec c.1 s = .next (opStore c.2 i rd ra imm x) := by
      simp only [stores, List.forall_mem_cons, List.not_mem_nil, false_implies, implies_true, and_true]
      exact ⟨exec_of_issues_out rfl hx, exec_of_issues_out rfl hx, exec_of_issues_out rfl hx, exec_of_issues_out rfl hx⟩
    refine ⟨fun c hc m ha hw hp => ?_, fun c hc m ha hw hp => ?_, fun c hc m p ha hw hphys hf => ?_,
      fun c hc m p ha hw hphys hf => ?_, fun c hc => ?_, ?atomics, ?atomicFaults⟩
    · rw [hload c hc, opLoad_of_window ha hw hp]
    · rw [hload c hc, opLoad_poisoned ha hw hp]; rfl
    · rw [hstore c hc, opStore_of_window ha hw, coreWrite_of_current hphys hf, length_leBytes]
    · rw [hstore c hc, opStore_of_window ha hw, coreWrite_of_stale hphys hf]
    · rcases List.mem_append.1 hc with hc | hc
      · exact ⟨fun h => (hload c hc).trans (by rw [opLoad_misaligned h]; rfl),
          fun h hw => (hload c hc).trans (by rw [opLoad_outside h hw]; rfl)⟩
      · exact ⟨fun h => (hstore c hc).trans (by rw [opStore_misaligned h]; rfl),
          fun h hw => (hstore c hc).trans (by rw [opStore_outside h hw]; rfl)⟩
    case atomics =>
      intro a m p ha hm hw hp hphys hf old v set
      have hvalue {c : Instr} {f : State → Word64 → Option Word64} {w : Word64}
          (hc : exec c s = issueOut i (fun s => opAtomic (f s) i rd ra s) (staleOut i) s) (h : f x old = some w) :
          exec c s = .next (set w) :=
        (exec_of_issues_out hc hx).trans (by rw [opAtomic_of_value ha hm hw hp hphys hf h])
      exact ⟨hvalue (f := fun s o => some (o + s.greg i rb)) rfl rfl, hvalue (f := fun s _ => some (s.greg i rb)) rfl rfl,
        hvalue (f := fun s o => some (o &&& s.greg i rb)) rfl rfl, hvalue (f := fun s o => some (o ||| s.greg i rb)) rfl rfl,
        fun h => hvalue (f := fun s o => if o = s.greg i rd then some (s.greg i rb) else none) rfl (if_pos h),
        fun h => (exec_of_issues_out rfl hx).trans (by rw [opAtomic_of_none ha hm hw hp (if_neg h)])⟩
    case atomicFaults =>
      intro a
      have hatomic {c : Instr} {f : State → Word64 → Option Word64}
          (hc : exec c s = issueOut i (fun s => opAtomic (f s) i rd ra s) (staleOut i) s) :
          (a % 8 ≠ 0 → exec c s = .next (faultThread x i 0x0A05 a))
            ∧ (a % 8 = 0 → inMarket a 8 = false → exec c s = .next (faultThread x i 0x0A07 a))
            ∧ (a % 8 = 0 → inMarket a 8 = true → window x i a 8 = none → exec c s = .next (faultThread x i 0x0A04 a)) := by
        rw [exec_of_issues_out hc hx]
        exact ⟨fun h => by rw [opAtomic_misaligned h]; rfl, fun h hm => by rw [opAtomic_outside_market h hm]; rfl,
          fun h hm hw => by rw [opAtomic_outside h hm hw]; rfl⟩
      simp only [List.forall_mem_cons, List.not_mem_nil, false_implies, implies_true, and_true]
      exact ⟨hatomic (f := fun s o => some (o + s.greg i rb)) rfl, hatomic (f := fun s _ => some (s.greg i rb)) rfl,
        hatomic (f := fun s o => if o = s.greg i rd then some (s.greg i rb) else none) rfl,
        hatomic (f := fun s o => some (o &&& s.greg i rb)) rfl, hatomic (f := fun s o => some (o ||| s.greg i rb)) rfl⟩
  case dead =>
    intro st r dead ⟨hrun, hst, hp, ho, he, hr⟩
    have hdead := issueOut_of_goesOn (goesOn_of hrun hst hp ho he hr)
    simp only [List.forall_mem_cons, List.not_mem_nil, false_implies, implies_true, and_true]
    exact ⟨hdead .., hdead .., hdead .., hdead .., hdead .., hdead .., hdead .., hdead .., hdead ..⟩
  case memory => exact ⟨peek_poke_self s a v, fun h => peek_poke_beside s a v (h.imp_left Nat.succ_le_of_lt)⟩

end Sys2Proof.Machine

/-! Proofs of the statement on status registers and supervision (R279, R294). -/

namespace Sys2Proof.Machine

section Supervision

variable {x : State} {i : Tid} {rd ra rb : Reg}

/-! ### Status registers (R279) -/

/-- A status register other than s0, s4 and s5 takes no write. -/
theorem writeSr_of_readOnly {n : Nat} (h0 : n ≠ 0) (h4 : n ≠ 4) (h5 : n ≠ 5) (v : Word64) : writeSr x i n v = none := by
  unfold writeSr
  split
  · exact absurd rfl h0
  · exact absurd rfl h4
  · exact absurd rfl h5
  · rfl

theorem readSr_reserved {n : Nat} (h : 9 ≤ n) : readSr x i n = 0 := by
  obtain ⟨k, rfl⟩ := Nat.exists_eq_add_of_le' h
  rfl

theorem tidWord_eq (t : Thread) : tidWord i t = BitVec.ofNat 64 ((if i.thread = 0 then 2 ^ 31 else 0) + (if t.high then 2 ^ 30 else 0)
    + t.tf * 2 ^ 16 + i.stall.val * 128 + i.role.val * 8 + i.thread.val) := by
  simp only [tidWord, srcId, Nat.add_assoc]

theorem encI_zero (op imm : Nat) : encI op 0 ra imm = op * 2 ^ 26 + ra.toNat * 2 ^ 16 + imm := by simp [encI]

theorem encR_zero (op func : Nat) : encR op rd ra 0 func = op * 2 ^ 26 + rd.toNat * 2 ^ 21 + ra.toNat * 2 ^ 16 + func := by
  simp [encR]

theorem opMts_of_readOnly {n : BitVec 4} (h0 : n ≠ 0) (h4 : n ≠ 4) (h5 : n ≠ 5) :
    opMts i ra n x = faultThread x i idoIllegal (0x3B * 2 ^ 26 + ra.toNat * 2 ^ 16 + n.toNat) := by
  have hne {k : BitVec 4} (h : n ≠ k) : n.toNat ≠ k.toNat := fun e => h (BitVec.eq_of_toNat_eq e)
  rw [opMts, writeSr_of_readOnly (hne h0) (hne h4) (hne h5), ← encI_zero]

/-! ### Threads that t0 supervises (R294) -/

theorem opTrestart_of_other (h : i.thread ≠ 0) :
    opTrestart i rd ra rb x = faultThread x i idoPriv (encR 0x3C rd ra rb 0) := if_pos h

theorem opTstate_of_other (h : i.thread ≠ 0) : opTstate i rd ra x = faultThread x i idoPriv (encR 0x3C rd ra 0 1) := if_pos h

theorem opTstate_of_first (h : i.thread = 0) : opTstate i rd ra x =
    retire ((x.setReg i rd (BitVec.ofNat 64 (x.thrAt i.stall.val i.role.val ((x.greg i ra).toNat % 8)).st.code)).setCs i csOk) i :=
  if_neg (not_not.2 h)

/-- Neither t0 itself nor a thread that has not stopped by a fault or a kill is restarted. -/
theorem opTrestart_of_live (h : i.thread = 0)
    (hk : ¬ ((x.greg i ra).toNat % 8 ≠ 0 ∧ ((x.thrAt i.stall.val i.role.val ((x.greg i ra).toNat % 8)).st = .faulted
      ∨ (x.thrAt i.stall.val i.role.val ((x.greg i ra).toNat % 8)).st = .killed))) :
    opTrestart i rd ra rb x = retire (x.setCs i csState) i := (if_neg (not_not.2 h)).trans (if_neg hk)

theorem opTrestart_of_dead (h : i.thread = 0)
    (hk : (x.greg i ra).toNat % 8 ≠ 0 ∧ ((x.thrAt i.stall.val i.role.val ((x.greg i ra).toNat % 8)).st = .faulted
      ∨ (x.thrAt i.stall.val i.role.val ((x.greg i ra).toNat % 8)).st = .killed)) :
    opTrestart i rd ra rb x =
      (let n := (x.greg i ra).toNat % 8
       let y := (dropStages (unread x i.stall.val i.role.val n) i.stall.val i.role.val n).onThrAt i.stall.val i.role.val n
         (fun t => if x.greg i rb = 0 then t.start t.entry t.arg else t.start (x.greg i rb) (x.greg i rd))
       retire ((reach y { i with thread := Fin.ofNat 8 n }).setCs i csOk) i) :=
  (if_neg (not_not.2 h)).trans (if_pos hk)

end Supervision

/-- Settles O44: status registers one by one, supervision by the thread that asks and the state of the thread it names. -/
theorem idoriSupervision : Obligations.IdoriSupervision := by
  unfold Obligations.IdoriSupervision
  intro s x i rd ra rb n hx st r t a k u
  refine ⟨exec_of_issues (f := opMfs i rd n) rfl hx, rfl, congrArg (BitVec.ofNat 64) ?_, congrArg (BitVec.ofNat 64) ?_, tidWord_eq t,
    rfl, rfl, rfl, rfl, rfl, fun m h => readSr_reserved h, exec_of_issues (f := opMts i ra 0) rfl hx,
    ⟨a &&& epMask (mayRead x i), exec_of_issues (f := opMts i ra 4) rfl hx, fun e he => ?_⟩,
    exec_of_issues (f := opMts i ra 5) rfl hx, fun h0 h4 h5 => ?_, fun h => ⟨?_, ?_⟩, fun h => ⟨?_, fun hk => ?_, fun hk hst => ?_⟩⟩
  · exact congrArg (t.len + ·) (Nat.mul_comm ..)
  · exact congrArg (t.src + ·) (Nat.mul_comm ..)
  · rw [BitVec.getLsbD_and, getLsbD_epMask he]
  · exact (exec_of_issues rfl hx).trans (by rw [opMts_of_readOnly h0 h4 h5]; rfl)
  · exact (exec_of_issues rfl hx).trans (by rw [opTrestart_of_other h]; rfl)
  · exact (exec_of_issues rfl hx).trans (by rw [opTstate_of_other h, encR_zero]; rfl)
  · intro code
    have hcode : code = u.st.code := by
      simp only [code]
      cases u.st <;> rfl
    rw [hcode]
    exact (exec_of_issues rfl hx).trans (by rw [opTstate_of_first h]; rfl)
  · refine (exec_of_issues rfl hx).trans (by rw [opTrestart_of_live h fun ⟨hk0, hdead⟩ => ?_]; rfl)
    exact hk.elim hk0 fun ⟨hf, hkill⟩ => hdead.elim hf hkill
  · exact (exec_of_issues rfl hx).trans (by rw [opTrestart_of_dead h ⟨hk, hst⟩]; rfl)

end Sys2Proof.Machine

/-! Proofs of the statement on the Idori device instructions (R189, R190, R295 to R297, R429). -/

namespace Sys2Proof.Machine

section Devices

variable {x : State} {i : Tid} {rd ra rb : Reg} {m : Nat} {e : Endpoint}

/-! ### EHTSUB (R295) -/

theorem opEhtsub_misaligned (h : (x.greg i ra).toNat % 64 ≠ 0) :
    opEhtsub i rd ra x = faultThread x i idoAlign (x.greg i ra).toNat := if_pos h

theorem opEhtsub_outside (h : (x.greg i ra).toNat % 64 = 0) (hw : localWindow i (x.greg i ra).toNat 64 = none) :
    opEhtsub i rd ra x = faultThread x i idoAddr (x.greg i ra).toNat := by
  simp only [opEhtsub, if_neg (not_not.2 h), hw]

variable {d : SubDesc}

/-- A descriptor whose endpoint is not the thread's, or that breaks R295's table, is refused. -/
theorem opEhtsub_of_bad (h : (x.greg i ra).toNat % 64 = 0) (hw : localWindow i (x.greg i ra).toNat 64 = some m)
    (hp : x.poisoned m 64 = false) (hd : parseDesc (x.peek m 64) = d)
    (hbad : ownsEndpoint x (x.thr i).tf d.eid = none ∨ d.ok x i = false) : opEhtsub i rd ra x = endStatus x i rd csInvalid := by
  simp only [opEhtsub, if_neg (not_not.2 h), hw, hp, hd, Bool.false_eq_true, if_false]
  split
  · rfl
  · next e he =>
    have hok : d.ok x i = false := hbad.resolve_left (by rw [he]; exact Option.some_ne_none e)
    rw [hok]; rfl

theorem opEhtsub_of_good (h : (x.greg i ra).toNat % 64 = 0) (hw : localWindow i (x.greg i ra).toNat 64 = some m)
    (hp : x.poisoned m 64 = false) (hd : parseDesc (x.peek m 64) = d)
    (he : ownsEndpoint x (x.thr i).tf d.eid = some e) (hok : d.ok x i = true) : opEhtsub i rd ra x =
      if chanRoom x d.chan < 4 ∨ 64 ≤ (x.role i.stall.val i.role.val).subq.length then endStatus x i rd csFull
      else settle (endStatus (submitDesc x i d e) i rd csOk) := by
  simp only [opEhtsub, if_neg (not_not.2 h), hw, hp, hd, he, hok, Bool.not_true, Bool.false_eq_true, if_false]

/-- A dead core's descriptor that would be accepted is submitted, under its stale stamp (R429). -/
theorem staleSubmit_of_good (h : (x.greg i ra).toNat % 64 = 0) (hw : localWindow i (x.greg i ra).toNat 64 = some m)
    (hd : parseDesc (x.peek m 64) = d) (he : ownsEndpoint x (x.thr i).tf d.eid = some e) (hok : d.ok x i = true)
    (hroom : 4 ≤ chanRoom x d.chan) : staleSubmit i ra x = settle (submitDesc x i d e) := by
  simp only [staleSubmit, hw, hd, he]
  exact if_neg (by simp [h, hok, hroom])

theorem staleSubmit_of_bad (hw : localWindow i (x.greg i ra).toNat 64 = some m) (hd : parseDesc (x.peek m 64) = d)
    (hbad : ownsEndpoint x (x.thr i).tf d.eid = none ∨ d.ok x i = false) : staleSubmit i ra x = x := by
  simp only [staleSubmit, hw, hd]
  split
  · rfl
  · next e he =>
    have hok : d.ok x i = false := hbad.resolve_left (by rw [he]; exact Option.some_ne_none e)
    exact if_pos (.inr (.inl (by rw [hok]; rfl)))

/-! ### What becomes of a submission (R148, R186, R189, R190) -/

/-- The state in which a submission is judged: s8 holds its number, and its channel's words are reserved. -/
def submitStart (z : State) (i : Tid) (d : SubDesc) : State :=
  (reserveChan (nextMsgId z d.eid).2 d.chan 4).onThr i (fun t => { t with lastId := BitVec.ofNat 64 (nextMsgId z d.eid).1 })

/-- The message that a submission makes. -/
def submitMsg (z : State) (i : Tid) (d : SubDesc) (e : Endpoint) : OutMsg := d.msg (submitStart z i d) i (nextMsgId z d.eid).1 e.gen

/-- The physical core from which thread `i` acts. -/
def unitOf (y : State) (i : Tid) : Nat := unitCore i.stall.val ((y.role i.stall.val i.role.val).phys.getD 0)

variable {z y : State}

/-- What a message submitted at `y` comes to. -/
def judgeSubmit (y : State) (i : Tid) (d : SubDesc) (e : Endpoint) (m : OutMsg) : State :=
  if !y.fenceOk (unitOf y i) (.core i.stall.val i.role.val) then
    completeOn (fencedDiscard (countErr y (ehtErr 10)) (.core i.stall.val i.role.val) (y.heldGen (unitOf y i))) d.chan nakFenced m 0
  else match submitFails y i d e with
    | some x => completeOn (if x = nakFenced then countErr y (ehtErr 10) else y) d.chan x m 0
    | none => launch (y.onRole i.stall.val i.role.val (fun c => { c with subq := c.subq ++ [m] }))

theorem submitDesc_eq (z : State) (i : Tid) (d : SubDesc) (e : Endpoint) :
    submitDesc z i d e = judgeSubmit (submitStart z i d) i d e (submitMsg z i d e) := rfl

section Judged

variable {msg : OutMsg}

theorem judgeSubmit_of_stale (hf : y.fenceOk (unitOf y i) (.core i.stall.val i.role.val) = false) : judgeSubmit y i d e msg =
    completeOn (fencedDiscard (countErr y (ehtErr 10)) (.core i.stall.val i.role.val) (y.heldGen (unitOf y i))) d.chan nakFenced msg 0 :=
  if_pos (by rw [hf]; rfl)

theorem judgeSubmit_of_stopped (hf : y.fenceOk (unitOf y i) (.core i.stall.val i.role.val) = true)
    (ht : (y.tf e.tf).st = .enabled) (hs : y.stopped (.endpoint (BitVec.ofNat 32 d.eid)) = true) :
    judgeSubmit y i d e msg = completeOn (countErr y (ehtErr 10)) d.chan nakFenced msg 0 := by
  simp only [judgeSubmit, submitFails, hf, ht, hs, Bool.not_true, Bool.false_eq_true, if_false, if_true]

theorem judgeSubmit_of_book (hf : y.fenceOk (unitOf y i) (.core i.stall.val i.role.val) = true)
    (ht : (y.tf e.tf).st = .enabled) (hs : y.stopped (.endpoint (BitVec.ofNat 32 d.eid)) = false)
    (hb : (bookOf y d.book (y.thr i).tf).isSome = true) :
    judgeSubmit y i d e msg = launch (y.onRole i.stall.val i.role.val (fun c => { c with subq := c.subq ++ [msg] })) := by
  have hnone : (bookOf y d.book (y.thr i).tf).isNone = false := by rw [← Option.not_isSome, hb]; rfl
  simp only [judgeSubmit, submitFails, hf, ht, hs, hnone, Bool.not_true, Bool.false_eq_true, if_false]

end Judged

/-! ### SLOTRET and FREL (R297) -/

theorem opSlotret_of_held (he : ownsEndpoint x (x.thr i).tf (x.greg i ra).toNat = some e)
    (h : slotHeld x (x.greg i ra).toNat (x.greg i rb).toNat e = true) :
    opSlotret i rd ra rb x = endStatus (freeSlots x (x.greg i ra).toNat [(x.greg i rb).toNat]) i rd csOk := by
  simp only [opSlotret, he, if_pos h]

theorem opSlotret_of_not_held (h : ∀ e, ownsEndpoint x (x.thr i).tf (x.greg i ra).toNat = some e →
    slotHeld x (x.greg i ra).toNat (x.greg i rb).toNat e = false) : opSlotret i rd ra rb x = endStatus x i rd csInvalid := by
  simp only [opSlotret]
  split
  · rfl
  · next e he => exact if_neg (by rw [h e he]; exact Bool.false_ne_true)

theorem opFrel_of_held (h : holdsBuf x i (x.greg i ra).toNat = true) :
    opFrel i ra x = retire (freeBuf x (x.greg i ra).toNat) i := if_pos h

theorem opFrel_of_not_held (h : holdsBuf x i (x.greg i ra).toNat = false) :
    opFrel i ra x = faultThread x i idoBuf (x.greg i ra).toNat := if_neg (by rw [h]; exact Bool.false_ne_true)

/-! ### FINJ (R297) -/

/-- The fields of the 16-byte descriptor `b` are within R297's table, for a buffer that holds the frame. -/
abbrev injectFields (x : State) (b : Bytes) : Prop :=
  64 ≤ leAt b 8 2 ∧ leAt b 8 2 ≤ 9216 ∧ leAt b 10 1 ≤ 3 ∧ leAt b 11 1 ≤ 1 ∧ zeroAt b 12 4 = true
    ∧ leAt b 8 2 ≤ (tget x.mem.bufs (leAt b 0 8) default).cap

theorem injectFields_iff (x : State) (b : Bytes) :
    (!(decide (64 ≤ leAt b 8 2) && decide (leAt b 8 2 ≤ 9216) && decide (leAt b 10 1 ≤ 3) && decide (leAt b 11 1 ≤ 1) && zeroAt b 12 4)
      || decide ((tget x.mem.bufs (leAt b 0 8) default).cap < leAt b 8 2)) = false ↔ injectFields x b := by
  simp only [Bool.or_eq_false_iff, Bool.not_eq_false', Bool.and_eq_true, decide_eq_true_eq, decide_eq_false_iff_not, Nat.not_lt,
    and_assoc]

/-- A frame joins the injections of a pipe. -/
def injectAt (x : State) (pipe : Nat) (f : PFrame) : State :=
  { countEntry x with parse.inject := tset x.parse.inject pipe (tget x.parse.inject pipe [] ++ [f]) }

variable {b : Bytes}

theorem opFinj_not_held (h : (x.greg i ra).toNat % 16 = 0) (hw : window x i (x.greg i ra).toNat 16 = some m)
    (hp : x.poisoned m 16 = false) (hb : x.peek m 16 = b) (hh : holdsBuf x i (leAt b 0 8) = false) :
    opFinj i rd ra x = faultThread x i idoBuf (leAt b 0 8) := by
  simp only [opFinj, if_neg (not_not.2 h), hw, hp, hb, hh, Bool.false_eq_true, if_false, Bool.not_false, if_true]

theorem opFinj_of_bad (h : (x.greg i ra).toNat % 16 = 0) (hw : window x i (x.greg i ra).toNat 16 = some m)
    (hp : x.poisoned m 16 = false) (hb : x.peek m 16 = b) (hh : holdsBuf x i (leAt b 0 8) = true) (hf : ¬ injectFields x b) :
    opFinj i rd ra x = endStatus x i rd csInvalid := by
  have hbad := eq_true_of_ne_false (mt (injectFields_iff x b).1 hf)
  simp only [opFinj, if_neg (not_not.2 h), hw, hp, hb, hh, hbad, Bool.false_eq_true, if_false, Bool.not_true, if_true]

/-- An injection of good fields, from a buffer that the thread's tenant function holds. -/
theorem opFinj_of_good (h : (x.greg i ra).toNat % 16 = 0) (hw : window x i (x.greg i ra).toNat 16 = some m)
    (hp : x.poisoned m 16 = false) (hb : x.peek m 16 = b) (hh : holdsBuf x i (leAt b 0 8) = true) (hf : injectFields x b) :
    (32 ≤ (tget x.parse.inject (leAt b 10 1) []).length → opFinj i rd ra x = endStatus x i rd csFull)
    ∧ ((tget x.parse.inject (leAt b 10 1) []).length < 32 → x.fenceOk (unitOf x i) (.core i.stall.val i.role.val) = true →
        opFinj i rd ra x =
          endStatus (injectAt x (leAt b 10 1) ((injected x i (leAt b 0 8) (leAt b 8 2) (leAt b 11 1 == 1)).enter x)) i rd csOk) := by
  simp only [opFinj, if_neg (not_not.2 h), hw, hp, hb, hh, (injectFields_iff x b).2 hf, Bool.false_eq_true, if_false, Bool.not_true]
  refine ⟨fun hq => if_pos hq, fun hq hfence => (if_neg (Nat.not_le.2 hq)).trans (if_neg ?_)⟩
  rw [Bool.not_eq_true', Bool.not_eq_false]
  exact hfence

theorem injected_enter (buf len flags : Nat) : (injected x i buf len (flags == 1)).enter x =
    { frame := { bytes := x.peek buf len, cls := 0, inLp := none, tIn := x.ns, tInUp := x.clk.up, tf := (x.thr i).tf }
      src := 32, release := if flags = 1 then none else some buf, ver := x.parse.current, at_ := x.clk.up } := by
  simp only [PFrame.enter, injected, beq_iff_eq]

end Devices

/-! ### Messages whose DATA has gone (R296) -/

section Unreadable

variable {z : State} {m : OutMsg} {n : Nat}

theorem unreadable_eq (h : m.data = some n) (hs : m.state ≠ .drain) : m.unreadable z =
    ((inMarket n m.payload.length && !tfMarket z (tget z.eht.eps (epKey z m.ep) default).tf n m.payload.length
        && !inHeldBuf z (tget z.eht.eps (epKey z m.ep) default).tf n m.payload.length)
      || (inHbm n m.payload.length && !tfHbm z (tget z.eht.eps (epKey z m.ep) default).tf n m.payload.length)) := by
  simp only [OutMsg.unreadable, h, bne_iff_ne.2 hs, Bool.true_and]

/-- With no message to abort, nothing changes. -/
theorem abortWhere_of_none {p : OutMsg → Bool} (hout : ∀ k ∈ z.eht.out, p k.2 = false) (hwait : ∀ k ∈ z.eht.waiting, p k.2 = false)
    (hsub : ∀ w ∈ z.ido.stalls, ∀ c ∈ w.2.cores, ∀ m ∈ c.2.subq, p m = false) : abortWhere z p = z := by
  have hkeep {α : Type} {l : List α} {q : α → Bool} (h : ∀ a ∈ l, q a = false) : l.filter (fun a => !q a) = l :=
    List.filter_eq_self.2 fun a ha => by rw [h a ha]; rfl
  have hgone {α : Type} {l : List α} {q : α → Bool} (h : ∀ a ∈ l, q a = false) : l.filter q = [] :=
    List.filter_eq_nil_iff.2 fun a ha => by rw [h a ha]; exact Bool.false_ne_true
  have hq : z.ido.stalls.flatMap (fun x => x.2.cores.flatMap (fun c => c.2.subq.filter p)) = [] :=
    List.flatMap_eq_nil_iff.2 fun w hw => List.flatMap_eq_nil_iff.2 fun c hc => hgone (hsub w hw c hc)
  have hstalls : z.ido.stalls.map (fun x => (x.1, { x.2 with cores := x.2.cores.map (fun c =>
      (c.1, { c.2 with subq := c.2.subq.filter (fun m => !p m) })) })) = z.ido.stalls := by
    refine (List.map_congr_left fun w hw => ?_).trans (List.map_id _)
    have hcores : w.2.cores.map (fun c => (c.1, { c.2 with subq := c.2.subq.filter (fun m => !p m) })) = w.2.cores :=
      (List.map_congr_left fun c hc => by rw [hkeep (hsub w hw c hc)]; rfl).trans (List.map_id _)
    rw [hcores]
    rfl
  simp only [abortWhere, hgone hout, hgone hwait, hkeep hwait, hq, hstalls, List.map_nil, List.foldl_nil]

end Unreadable

/-- Settles O45: a submission by its descriptor and its core's stamp, the other rows by who holds the slot or buffer they name. -/
theorem idoriDevices : Obligations.IdoriDevices := by
  unfold Obligations.IdoriDevices
  intro s x i rd ra rb hx st r tf a ends
  refine ⟨fun h => ?_, fun h hw => ?_, fun m h hw hp => ?submits, fun e he hs => ?_, fun h => ?_, fun h => ?_, fun h => ?_,
    fun m h hw hp => ?injects, fun m hd h hw => ?dead, fun z d e => ?judged, fun z m n hn hm => ?unreadable,
    fun z hout hwait hsub => abortWhere_of_none hout hwait hsub⟩
  · exact (exec_of_issues_out rfl hx).trans (by rw [opEhtsub_misaligned h]; rfl)
  · exact (exec_of_issues_out rfl hx).trans (by rw [opEhtsub_outside h hw]; rfl)
  case submits =>
    intro d
    refine ⟨fun hbad => (exec_of_issues_out rfl hx).trans (by rw [opEhtsub_of_bad h hw hp rfl hbad]; rfl), fun e he hok => ?_⟩
    rw [exec_of_issues_out (c := .ehtsub i rd ra) rfl hx, opEhtsub_of_good h hw hp rfl he hok]
    exact ⟨fun hfull => by rw [if_pos hfull]; rfl,
      fun hroom hq => by rw [if_neg (by rw [not_or]; exact ⟨Nat.not_lt.2 hroom, Nat.not_le.2 hq⟩)]; rfl⟩
  · exact (exec_of_issues rfl hx).trans (by rw [opSlotret_of_held he hs]; rfl)
  · have hnot : ∀ e, ownsEndpoint x tf a = some e → slotHeld x a (x.greg i rb).toNat e = false := fun e he =>
      h.elim (fun hn => absurd (hn.symm.trans he) (Option.some_ne_none e).symm) (· e he)
    exact (exec_of_issues rfl hx).trans (by rw [opSlotret_of_not_held hnot]; rfl)
  · exact (exec_of_issues rfl hx).trans (by rw [opFrel_of_held h]; rfl)
  · exact (exec_of_issues rfl hx).trans (by rw [opFrel_of_not_held h]; rfl)
  case injects =>
    intro b buf len pipe flags q fields
    refine ⟨fun hh => (exec_of_issues rfl hx).trans (by rw [opFinj_not_held h hw hp rfl hh]; rfl),
      fun hh hf => (exec_of_issues rfl hx).trans (by rw [opFinj_of_bad h hw hp rfl hh hf]; rfl), fun hh hf hq => ?_,
      fun hh hf hq hfence => ?_⟩
    · exact (exec_of_issues rfl hx).trans (by rw [(opFinj_of_good h hw hp rfl hh hf).1 hq]; rfl)
    · exact (exec_of_issues rfl hx).trans (by rw [(opFinj_of_good h hw hp rfl hh hf).2 hq hfence, injected_enter]; rfl)
  case dead =>
    intro d
    exact ⟨fun e he hok hroom => (issueOut_of_goesOn hd ..).trans (by rw [staleSubmit_of_good h hw rfl he hok hroom]),
      fun hbad => (issueOut_of_goesOn hd ..).trans (by rw [staleSubmit_of_bad hw rfl hbad])⟩
  case judged =>
    intro id y m u
    rw [submitDesc_eq]
    exact ⟨judgeSubmit_of_stale, fun hf ht => ⟨judgeSubmit_of_stopped hf ht, judgeSubmit_of_book hf ht⟩⟩
  case unreadable =>
    intro w len
    have heq : m.unreadable z = ((inMarket n len && !tfMarket z w n len && !inHeldBuf z w n len) || (inHbm n len && !tfHbm z w n len)) :=
      unreadable_eq hn hm
    rw [heq]
    exact ⟨fun h1 h2 h3 => by simp [h1, h2, h3], fun h1 h2 => by simp [h1, h2],
      fun h1 h2 h3 => by rcases h3 with h3 | h3 <;> simp [h1, h2, h3]⟩

end Sys2Proof.Machine

/-! Refutation of the statement on the job rings of the security engines (R302, R311). -/

namespace Sys2Proof.Machine

/-- A tenant function whose ring stands twice in the table of rings: the first with nothing to do, the second with a descriptor. -/
def ringTwice : State :=
  { State.reset with
    tfs := [(1, { mkt := (marketBase, 4096) })]
    sec := { rings := [(1, { base := marketBase, count := 16, prod := 0 }), (1, { base := marketBase, count := 16, prod := 1 })] } }

/-- The first ring is at its end. -/
theorem cons_ringTwice : leAt (ringTwice.peek (marketBase + 8) 8) 0 8 = 0 := by decide

/-- The cipher takes its turn with the second ring, and performs the first. -/
theorem jobStep_ringTwice : (settle (jobStep ringTwice 1 1)).sec.lastCipher = 1 := by decide

theorem settle_ringTwice : settle ringTwice = ringTwice := settle_quiet rfl rfl

/-- Refutes O47: its states may hold two rings of one tenant function. With the first of them at its end and the second not, the
row does not leave the state as it is: the turn is given by the second, and the descriptor of the first is performed. -/
theorem not_securityJobs : ¬ Obligations.SecurityJobs := by
  unfold Obligations.SecurityJobs
  intro h
  obtain ⟨hrows, -⟩ := h
  obtain ⟨-, -, hring⟩ := hrows 0 ringTwice ringTwice 1#12 rfl
  have hjob := (hring _ rfl (.gcmEncrypt 0 1#12, 1) List.mem_cons_self).1 (.inl cons_ringTwice)
  have hsame : settle (jobStep ringTwice 1 1) = settle ringTwice := by injection hjob
  have hlast := jobStep_ringTwice
  rw [hsame, settle_ringTwice] at hlast
  exact absurd hlast (by decide)

end Sys2Proof.Machine

/-! Proofs of the statements on key slots, measurement and attestation (R303 to R309, R312 to R315). -/

namespace Sys2Proof.Machine

section KeySlots

variable {x : State} {r : Req}

/-! ### Slots (R303, R304) -/

theorem slotGeneral_iff {n : Nat} : slotGeneral n = true ↔ 64 ≤ n ∧ n ≤ 8191 := by
  simp only [slotGeneral, Bool.and_eq_true, decide_eq_true_eq]

theorem slotNameable_iff (m : Nat) : slotNameable m = true ↔ m ≤ 8191 ∧ m ≠ 1 ∧ (m < 4 ∨ 63 < m) := by
  simp only [slotNameable, Bool.or_eq_true, Bool.and_eq_true, beq_iff_eq, decide_eq_true_eq]
  omega

theorem not_unnameable {n : Nat} (h : slotNameable n = true) : ¬ (!slotNameable n) = true := by simp [h]

/-- A slot that takes a new key: general, and EMPTY. -/
theorem slotTaken_iff (n : Nat) : (!slotGeneral n || (x.keySlot n).typ != 0) = true ↔ ¬ (64 ≤ n ∧ n ≤ 8191) ∨ (x.keySlot n).typ ≠ 0 := by
  rw [Bool.or_eq_true, Bool.not_eq_true', bne_iff_ne, ← slotGeneral_iff, Bool.not_eq_true]

theorem keySlot_setSlot (y : State) (a b : Nat) (v : KeySlot) : (y.setSlot a v).keySlot b = if b = a then v else y.keySlot b := tget_tset ..

theorem keySlot_tdel (y : State) (a : Nat) : ({ y with sec.slots := tdel y.sec.slots a }).keySlot a = {} := by
  show (tget? (tdel y.sec.slots a) a).getD {} = {}
  rw [tget?_tdel, if_pos rfl]
  rfl

/-! ### KEY_GENERATE (R304) -/

/-- The parameters after the slot are in range. -/
abbrev generateArgs (r : Req) : Prop := 1 ≤ num r 1 ∧ num r 1 ≤ 3 ∧ num r 2 < 1024 ∧ num r 3 < 4096 ∧ num r 4 < 2

theorem keyLen_of_le {typ : Nat} (h : typ ≤ 3) : keyLen typ = [0, 32, 64, 4032].getD typ 0 := by
  interval_cases typ <;> rfl

theorem keyGenerateCmd_of_unnameable (hb : r.body.length = 40) (hn : slotNameable (num r 0) = false) :
    keyGenerateCmd x r = { st := x, status := mbxInvalid, arg := 1 } :=
  (if_neg (not_misSized hb)).trans (if_pos (by rw [hn]; rfl))

theorem keyGenerateCmd_of_args (hb : r.body.length = 40) (ha : generateArgs r) (hn : slotNameable (num r 0) = true) :
    keyGenerateCmd x r = if !slotGeneral (num r 0) || (x.keySlot (num r 0)).typ != 0 then { st := x, status := mbxState }
      else { st := (x.drawBytes (keyLen (num r 1))).2.setSlot (num r 0)
              (newKey (num r 1) 2 (num r 2) (num r 3) (num r 4) (x.drawBytes (keyLen (num r 1))).1) } := by
  obtain ⟨hlo, hhi, h2, h3, h4⟩ := ha
  exact (if_neg (not_misSized hb)).trans <| (if_neg (not_unnameable hn)).trans <| (if_neg (by simp [hlo, hhi])).trans <|
    (if_neg (Nat.not_le.2 h2)).trans <| (if_neg (Nat.not_le.2 h3)).trans (if_neg (Nat.not_le.2 h4))

/-! ### KEY_IMPORT (R305, R308, R309) -/

/-- The header of a wrapped key keeps R308. -/
abbrev wrapFormed (w : Bytes) : Prop :=
  leAt w 0 4 = 0x4B574C41 ∧ 1 ≤ leAt w 4 1 ∧ leAt w 4 1 ≤ 4 ∧ zeroAt w 5 1 = true ∧ leAt w 6 2 < 1024 ∧ leAt w 8 2 < 2
    ∧ zeroAt w 0xA 2 = true

/-- What KEY_IMPORT does with a wrapped key `w` of good form, for slot `n` and key-encryption slot `kn`. -/
def importWrapped (x : State) (n kn : Nat) (w : Bytes) : Res :=
  if leAt w 4 1 = 4 ∧ zeroAt w 0x18 32 then importPublic x n w
  else if w.length ≠ 0x68 + keyLen (leAt w 4 1) then failsAt x mbxInvalid 3
  else if (x.keySlot kn).typ ≠ 1 ∨ !(x.keySlot kn).may useUnwrap then denies x
  else if (x.keySlot kn).id ≠ slice w 0x18 32 then fails x mbxVerify
  else match Crypto.gcmDecrypt (x.keySlot kn).key (slice w 0xC 12) (slice w 0 0x58) (w.drop 0x68) (slice w 0x58 16) with
    | none => fails (noteUse x kn) mbxVerify
    | some key =>
      if keyId (leAt w 4 1) key ≠ slice w 0x38 32 then fails (noteUse x kn) mbxVerify
      else done ((noteUse x kn).setSlot n (newKey (leAt w 4 1) 3 (leAt w 6 2) 0 (leAt w 8 2) key))

theorem keyImportCmd_of_formed {w : Bytes} (hw : r.body.drop 16 = w) (hlen : 0x68 ≤ w.length) (hn : slotNameable (num r 0) = true)
    (hk : leAt w 4 1 = 4 ∨ slotNameable (num r 1) = true) (hf : wrapFormed w) :
    keyImportCmd x r = if !slotGeneral (num r 0) || (x.keySlot (num r 0)).typ != 0 then { st := x, status := mbxState }
      else importWrapped x (num r 0) (num r 1) w := by
  subst hw
  have hgood : ¬ (leAt (r.body.drop 16) 0 4 ≠ 0x4B574C41 ∨ leAt (r.body.drop 16) 4 1 = 0 ∨ 4 < leAt (r.body.drop 16) 4 1
      ∨ (!zeroAt (r.body.drop 16) 5 1) = true ∨ 1024 ≤ leAt (r.body.drop 16) 6 2 ∨ 2 ≤ leAt (r.body.drop 16) 8 2
      ∨ (!zeroAt (r.body.drop 16) 0xA 2) = true) := by
    obtain ⟨hmagic, hlo, hhi, hz, husage, hflags, hz2⟩ := hf
    simp only [hmagic, hz, hz2, ne_eq, not_true_eq_false, Bool.not_true, Bool.false_eq_true, false_or, or_false]
    omega
  rw [keyImportCmd, if_neg (Nat.not_lt.2 hlen), if_neg (not_unnameable hn), if_neg (fun ⟨h4, hkn⟩ => hk.elim h4 hkn), if_neg hgood,
    importWrapped]
  dsimp only
  cases Crypto.gcmDecrypt (x.keySlot (num r 1)).key (slice (r.body.drop 16) 0xC 12) (slice (r.body.drop 16) 0 0x58)
    ((r.body.drop 16).drop 0x68) (slice (r.body.drop 16) 0x58 16) with
  | none => rfl
  | some key => rfl

section Wrapped

variable {n kn : Nat} {w : Bytes}

/-- Material of its type's length, under a key-encryption key. -/
theorem importWrapped_of_length (h4 : leAt w 4 1 ≠ 4) (hlen : w.length = 0x68 + keyLen (leAt w 4 1)) : importWrapped x n kn w =
    if (x.keySlot kn).typ ≠ 1 ∨ !(x.keySlot kn).may useUnwrap then denies x
    else if (x.keySlot kn).id ≠ slice w 0x18 32 then fails x mbxVerify
    else match Crypto.gcmDecrypt (x.keySlot kn).key (slice w 0xC 12) (slice w 0 0x58) (w.drop 0x68) (slice w 0x58 16) with
      | none => fails (noteUse x kn) mbxVerify
      | some key =>
        if keyId (leAt w 4 1) key ≠ slice w 0x38 32 then fails (noteUse x kn) mbxVerify
        else done ((noteUse x kn).setSlot n (newKey (leAt w 4 1) 3 (leAt w 6 2) 0 (leAt w 8 2) key)) :=
  (if_neg fun h => h4 h.1).trans (if_neg (not_not.2 hlen))

theorem importWrapped_denied (h4 : leAt w 4 1 ≠ 4) (hlen : w.length = 0x68 + keyLen (leAt w 4 1))
    (hk : (x.keySlot kn).typ ≠ 1 ∨ (x.keySlot kn).usage.testBit 4 = false) :
    importWrapped x n kn w = { st := keyDenied x, status := mbxAuth } :=
  (importWrapped_of_length h4 hlen).trans (if_pos (hk.imp_right fun h => by rw [Bool.not_eq_true']; exact h))

/-- The key-encryption key may unwrap. -/
theorem not_denied (hk : (x.keySlot kn).typ = 1) (hu : (x.keySlot kn).usage.testBit 4 = true) :
    ¬ ((x.keySlot kn).typ ≠ 1 ∨ (!(x.keySlot kn).may useUnwrap) = true) := by
  rintro (h | h)
  · exact h hk
  · rw [Bool.not_eq_true'] at h; exact Bool.false_ne_true (h.symm.trans hu)

theorem importWrapped_of_other_kek (h4 : leAt w 4 1 ≠ 4) (hlen : w.length = 0x68 + keyLen (leAt w 4 1))
    (hk : (x.keySlot kn).typ = 1) (hu : (x.keySlot kn).usage.testBit 4 = true) (hid : (x.keySlot kn).id ≠ slice w 0x18 32) :
    importWrapped x n kn w = { st := x, status := mbxVerify } :=
  (importWrapped_of_length h4 hlen).trans <| (if_neg (not_denied hk hu)).trans (if_pos hid)

theorem importWrapped_of_key {key : Bytes} (h4 : leAt w 4 1 ≠ 4) (hlen : w.length = 0x68 + keyLen (leAt w 4 1))
    (hk : (x.keySlot kn).typ = 1) (hu : (x.keySlot kn).usage.testBit 4 = true) (hid : (x.keySlot kn).id = slice w 0x18 32)
    (hdec : Crypto.gcmDecrypt (x.keySlot kn).key (slice w 0xC 12) (slice w 0 0x58) (w.drop 0x68) (slice w 0x58 16) = some key)
    (hkey : keyId (leAt w 4 1) key = slice w 0x38 32) : importWrapped x n kn w =
      { st := (noteUse x kn).setSlot n (newKey (leAt w 4 1) 3 (leAt w 6 2) 0 (leAt w 8 2) key) } := by
  rw [importWrapped_of_length h4 hlen, if_neg (not_denied hk hu), if_neg (not_not.2 hid), hdec]
  exact if_neg (not_not.2 hkey)

/-- A public key in the clear (R309). -/
theorem importWrapped_public (h4 : leAt w 4 1 = 4) (hz : zeroAt w 0x18 32 = true) (hlen : w.length = 0x68 + 1952) (hu : leAt w 6 2 = 256) :
    importWrapped x n kn w = if keyId 4 (w.drop 0x68) ≠ slice w 0x38 32 then { st := x, status := mbxVerify }
      else { st := x.setSlot n (newKey 4 3 256 0 (leAt w 8 2) (w.drop 0x68)) } := by
  have hgood : ¬ ((w.drop 0x68).length ≠ keyLen 4 ∨ leAt w 6 2 ≠ 2 ^ useVerify) := by
    rw [List.length_drop, hlen, hu]
    decide
  rw [importWrapped, if_pos ⟨h4, hz⟩, importPublic, if_neg hgood, hu]
  rfl

end Wrapped

/-! ### KEY_EXPORT, KEY_DESTROY, KEY_QUERY (R306 to R308, R315) -/

theorem keyExportCmd_of_slots (hb : r.body.length = 16) (hn : slotNameable (num r 0) = true) (hk : slotNameable (num r 1) = true) :
    keyExportCmd x r = if (x.keySlot (num r 0)).typ = 0 then { st := x, status := mbxState }
      else if !(x.keySlot (num r 0)).flags.testBit 0 || (x.keySlot (num r 1)).typ != 1 || !(x.keySlot (num r 1)).may useWrap then
        { st := keyDenied x, status := mbxAuth }
      else { st := noteUse (x.drawBytes 12).2 (num r 1)
             out := wrapKey (x.keySlot (num r 0)) (x.keySlot (num r 1)) (x.drawBytes 12).1 } :=
  (if_neg (not_misSized hb)).trans <| (if_neg (not_unnameable hn)).trans (if_neg (not_unnameable hk))

/-- An EXPORTABLE key, under a key-encryption key that may wrap. -/
theorem exportRefused_iff (n kn : Nat) :
    (!(x.keySlot n).flags.testBit 0 || (x.keySlot kn).typ != 1 || !(x.keySlot kn).may useWrap) = true ↔
      ¬ ((x.keySlot n).flags.testBit 0 = true ∧ (x.keySlot kn).typ = 1 ∧ (x.keySlot kn).usage.testBit 3 = true) := by
  show (_ || _ || !(x.keySlot kn).usage.testBit 3) = true ↔ _
  simp only [Bool.or_eq_true, Bool.not_eq_true', bne_iff_ne, not_and_or, Bool.not_eq_true, ne_eq, or_assoc]

theorem keyDestroyCmd_of_slot (hb : r.body.length = 8) (hn : slotNameable (num r 0) = true) : keyDestroyCmd x r =
    if slotInPort x (num r 0) || slotInMove x (num r 0) then { st := x, status := mbxState }
    else { st := { x with sec.slots := tdel x.sec.slots (num r 0) } } :=
  (if_neg (not_misSized hb)).trans (if_neg (not_unnameable hn))

theorem firstBad_of_all {p : Nat → Bool} {l : List Nat} (h : ∀ m ∈ l, p m = true) (i : Nat) : firstBad i p l = none := by
  induction l generalizing i with
  | nil => rfl
  | cons a l ih =>
    obtain ⟨ha, hl⟩ := List.forall_mem_cons.1 h
    rw [firstBad, if_pos ha]
    exact ih hl (i + 1)

theorem keyQueryCmd_of_slots (hlo : 1 ≤ num r 0) (hhi : num r 0 ≤ 64) (hb : r.body.length = 8 * (num r 0 + 1))
    (h : ∀ m ∈ numsFrom r 1 (num r 0), slotNameable m = true) :
    keyQueryCmd x r = { st := x, out := (numsFrom r 1 (num r 0)).flatMap (fun m => (x.keySlot m).bytes) } := by
  rw [keyQueryCmd, if_neg (by omega), if_neg (not_misSized hb), firstBad_of_all h]
  rfl

end KeySlots

/-- Settles O48: each command by the slots that it names and what stands in them. -/
theorem keyCommands : Obligations.KeyCommands := by
  unfold Obligations.KeyCommands
  intro t s x r slot n k general
  refine ⟨fun h hb h1 h1' h2 h3 h4 => ⟨fun hg h0 => ?_, fun hn hbad => ?_, fun hn => ?_⟩, ?importing,
    fun h hb hn hk => ⟨fun h0 => ?_, fun h0 hm => ?_, fun h0 hm => ?_⟩, fun h hb hn => ⟨fun hu => ?_, fun hp hm => ?_⟩,
    fun h hlo hhi hb hall => ?_, fun y a b v => ⟨?_, fun hb => ?_, keySlot_tdel y a⟩, slotNameable_iff⟩
  · have hn : slotNameable n = true := (slotNameable_iff n).2 (by omega)
    rw [← keyLen_of_le h1']
    refine answers_of_result rfl h ((keyGenerateCmd_of_args hb ⟨h1, h1', h2, h3, h4⟩ hn).trans (if_neg ?_))
    exact mt (slotTaken_iff n).1 (not_or.2 ⟨not_not.2 hg, not_not.2 h0⟩)
  · exact answers_of_result rfl h ((keyGenerateCmd_of_args hb ⟨h1, h1', h2, h3, h4⟩ hn).trans (if_pos ((slotTaken_iff n).2 hbad)))
  · exact answers_of_result rfl h (keyGenerateCmd_of_unnameable hb hn)
  case importing =>
    intro w typ kek formed h hlen hn hf
    have hfree (hg : general) (h0 : k.typ = 0) : ¬ (!slotGeneral n || (x.keySlot n).typ != 0) = true :=
      mt (slotTaken_iff n).1 (not_or.2 ⟨not_not.2 hg, not_not.2 h0⟩)
    refine ⟨fun hbad hk => ?_, fun hg h0 h4 hk hl => ?_, fun hg h0 h4 hz hl hu => ?_⟩
    · exact answers_of_result rfl h ((keyImportCmd_of_formed rfl hlen hn hk hf).trans (if_pos ((slotTaken_iff n).2 hbad)))
    · have hcmd : keyImportCmd x r = importWrapped x n (num r 1) w :=
        (keyImportCmd_of_formed rfl hlen hn (.inr hk) hf).trans (if_neg (hfree hg h0))
      exact ⟨fun hd => answers_of_result rfl h (hcmd.trans (importWrapped_denied h4 hl hd)),
        fun h1 hu hid => answers_of_result rfl h (hcmd.trans (importWrapped_of_other_kek h4 hl h1 hu hid)),
        fun key h1 hu hid hdec hkey => answers_of_result rfl h (hcmd.trans (importWrapped_of_key h4 hl h1 hu hid hdec hkey))⟩
    · have hcmd : keyImportCmd x r = _ :=
        (keyImportCmd_of_formed rfl hlen hn (.inl h4) hf).trans ((if_neg (hfree hg h0)).trans (importWrapped_public h4 hz hl hu))
      exact ⟨fun hid => answers_of_result rfl h (hcmd.trans (if_neg (not_not.2 hid))),
        fun hid => answers_of_result rfl h (hcmd.trans (if_pos hid))⟩
  · exact answers_of_result rfl h ((keyExportCmd_of_slots hb hn hk).trans (if_pos h0))
  · exact answers_of_result rfl h ((keyExportCmd_of_slots hb hn hk).trans <| (if_neg h0).trans (if_pos ((exportRefused_iff ..).2 hm)))
  · refine answers_of_result rfl h ((keyExportCmd_of_slots hb hn hk).trans <| (if_neg h0).trans (if_neg ?_))
    exact mt (exportRefused_iff ..).1 (not_not.2 hm)
  · exact answers_of_result rfl h ((keyDestroyCmd_of_slot hb hn).trans (if_pos (Bool.or_eq_true_iff.2 hu)))
  · exact answers_of_result rfl h ((keyDestroyCmd_of_slot hb hn).trans (if_neg (by rw [hp, hm]; exact Bool.false_ne_true)))
  · exact answers_of_result rfl h (keyQueryCmd_of_slots hlo hhi hb hall)
  · rw [keySlot_setSlot, if_pos rfl]
  · rw [keySlot_setSlot, if_neg hb]

section Attestation

variable {x : State} {r : Req}

/-! ### Measurement and attestation (R312 to R314) -/

theorem mrs_extendMr (s : State) (i : Nat) (d : Bytes) :
    (extendMr s i d).sec.mrs = s.sec.mrs.set i (Crypto.shake256 (s.sec.mrs.getD i [] ++ d)) := by
  unfold extendMr
  dsimp only
  split
  · rfl
  · rfl

theorem extendMr_of_room {s : State} {i : Nat} {d : Bytes} (h : s.sec.mlog.length < 4096) : extendMr s i d =
    { s with sec.mrs := s.sec.mrs.set i (Crypto.shake256 (s.sec.mrs.getD i [] ++ d)), sec.mlog := s.sec.mlog ++ [(i, d, time80 s.ns)] } :=
  if_pos h

theorem extendMr_of_full {s : State} {i : Nat} {d : Bytes} (h : 4096 ≤ s.sec.mlog.length) : extendMr s i d =
    { s with sec.mrs := s.sec.mrs.set i (Crypto.shake256 (s.sec.mrs.getD i [] ++ d)), sec.mlogOvf := true } :=
  if_neg (Nat.not_lt.2 h)

theorem attExtendCmd_of_digest (hb : r.body.length = 40) : attExtendCmd x r =
    if num r 0 < 8 ∨ 16 ≤ num r 0 then { st := x, status := mbxInvalid, arg := 1 }
    else { st := extendMr x (num r 0) (r.body.drop 8) } := if_neg (not_misSized hb)

theorem bodyIs_zero (hb : r.body = []) : bodyIs r 0 = true := by rw [bodyIs, hb]; rfl

theorem attQuoteCmd_of_nonce (hb : r.body.length = 40) : attQuoteCmd x r =
    if 65536 ≤ leAt r.body 32 8 then { st := x, status := mbxInvalid, arg := 2 }
    else { st := noteUse x 2
           out := quoteBody x (r.body.take 32) (leAt r.body 32 8)
             ++ padTo 3309 (Config.mldsaSign (x.keySlot 2).key (quoteBody x (r.body.take 32) (leAt r.body 32 8))) } :=
  if_neg (not_misSized hb)

end Attestation

/-- Settles O49: an extension by the room of the log, each command by its register or its mask. -/
theorem attestCommands : Obligations.AttestCommands := by
  unfold Obligations.AttestCommands
  refine ⟨fun s i d _ => ⟨mrs_extendMr s i d, fun h => ?_, fun h => ?_⟩, fun t s x r slot => ⟨fun h hb => ⟨fun hlo hhi => ?_, fun hbad => ?_⟩,
    fun h hb => ?_, fun h hb => ?_, ?_⟩⟩
  · rw [extendMr_of_room h]; exact ⟨rfl, rfl⟩
  · rw [extendMr_of_full h]; exact ⟨rfl, rfl⟩
  · exact answers_of_result rfl h ((attExtendCmd_of_digest hb).trans (if_neg (by omega)))
  · exact answers_of_result rfl h ((attExtendCmd_of_digest hb).trans (if_pos hbad))
  · exact answers_of_result rfl h (if_pos (bodyIs_zero hb))
  · exact answers_of_result rfl h (if_pos (bodyIs_zero hb))
  · intro mask regs b h hb
    exact ⟨fun hm => answers_of_result rfl h ((attQuoteCmd_of_nonce hb).trans (if_neg (Nat.not_le.2 hm))),
      fun hm => answers_of_result rfl h ((attQuoteCmd_of_nonce hb).trans (if_pos hm))⟩

end Sys2Proof.Machine

/-! Proofs of the statement on memory errors (R34, R325, R326, R329). -/

namespace Sys2Proof.Machine

/-- A row that runs to `a` before it settles. -/
theorem ends_of_next {c : Instr} {s a y : State} (hc : exec c s = .next (settle a)) (h : a = y) : Ends c s y := h ▸ hc

section Scrub

variable {t : Nat} {s x y : State} {kind : MemKind} {unit role : Byte} {a : Word64} {found : EccFinding} {pass : Bool}

/-! ### One scrub read (R34, R325) -/

/-- What a read has led to, and the pass counted when it is complete. -/
def passCounted (pass : Bool) (y : State) : State := if pass = true then countStat y (memBase + 0x100) 1 else y

/-- What a dead bank answers is discarded. -/
theorem ends_patrolScrub_dead {b k : Nat} (hx : x = s.advance t) (h : staleBank x kind unit.toNat role.toNat = some (b, k)) :
    Ends (.patrolScrub t kind unit role a found pass) s (passCounted pass (fencedDiscard x (.bank k) (x.heldGen b))) :=
  ends_of_next rfl (by subst hx; simp only [h]; rfl)

theorem ends_patrolScrub_outside (hx : x = s.advance t) (h : staleBank x kind unit.toNat role.toNat = none)
    (hw : wordAddr kind unit.toNat role.toNat a.toNat = none) :
    Ends (.patrolScrub t kind unit role a found pass) s (passCounted pass x) :=
  ends_of_next rfl (by subst hx; simp only [h, hw]; rfl)

theorem ends_patrolScrub_of_word {w : Nat} (hx : x = s.advance t) (h : staleBank x kind unit.toNat role.toNat = none)
    (hw : wordAddr kind unit.toNat role.toNat a.toNat = some w) (hy : scrubRead x kind unit.toNat role.toNat a.toNat w found = y) :
    Ends (.patrolScrub t kind unit role a found pass) s (passCounted pass y) :=
  ends_of_next rfl (by subst hx; simp only [h, hw, hy]; rfl)

/-! ### What a read finds (R325, R326) -/

section Reads

variable {u r b w : Nat}

theorem scrubRead_poisoned (h : w / 8 ∈ x.mem.poison) : scrubRead x kind u r b w found = poisonHit x :=
  if_pos (List.contains_iff_mem.2 h)

theorem not_poisoned (h : w / 8 ∉ x.mem.poison) : ¬ x.mem.poison.contains (w / 8) = true := mt List.contains_iff_mem.1 h

theorem scrubRead_clean (h : w / 8 ∉ x.mem.poison) : scrubRead x kind u r b w .clean = x := if_neg (not_poisoned h)

theorem scrubRead_corrected (h : w / 8 ∉ x.mem.poison) : scrubRead x kind u r b w .corrected =
    if kind = .hbm then rowCorrected (countErr x (corrCtr kind)) (hbmRow w) else countErr x (corrCtr kind) := if_neg (not_poisoned h)

/-- The state in which an uncorrectable error is met: counted, captured, and its row recorded. -/
def uncorrected (x : State) (kind : MemKind) (u r b w : Nat) : State :=
  let y := captureEcc (countErr (bringForward x kind u r) (uncorrCtr kind)) kind u r b
  if kind = .hbm then recordRow y (hbmRow w) else y

theorem scrubRead_uncorrected {z : State × Bool} (h : w / 8 ∉ x.mem.poison) (hf : found = .uncorrectable ∨ found = .uncorrectableBoth)
    (hz : eccOutcome (uncorrected x kind u r b w) w = z) : scrubRead x kind u r b w found =
      if z.2 then { z.1 with mem.poison := w / 8 :: z.1.mem.poison }
      else if found = .uncorrectableBoth ∧ descriptorArea w then
        { z.1 with mem.poison := w / 8 :: otherCopy w / 8 :: z.1.mem.poison.filter (· != otherCopy w / 8) }
      else z.1 := by
  subst hz
  rcases hf with rfl | rfl
  · exact if_neg (not_poisoned h)
  · exact if_neg (not_poisoned h)

end Reads

/-! ### Captures and rows (R326, R329) -/

theorem captureEcc_of_held {u r b : Nat} (h : x.mem.lastxValid = true) : captureEcc x kind u r b = x := if_pos h

theorem captureEcc_of_free {u r b : Nat} (h : x.mem.lastxValid = false) : ∃ info, captureEcc x kind u r b =
    raise { x.noteFlag (memBase + 0x20) true with mem.lastxValid := true, mem.lastxAddr := b, mem.lastxInfo := info } 0x0104 0 [] :=
  ⟨_, if_neg (by rw [h]; exact Bool.false_ne_true)⟩

theorem rowErr_recordRow (row : Nat) : (recordRow x row).mem.rowErr = x.mem.rowErr := by
  unfold recordRow; split <;> rfl

theorem mem_rowsBad_recordRow (row : Nat) : row ∈ (recordRow x row).mem.rowsBad := by
  unfold recordRow
  split
  · next h => exact List.contains_iff_mem.1 h
  · exact List.mem_append_right _ List.mem_cons_self

/-! ### Banks declared dead (R32, R34) -/

theorem staleBank_market {u r b : Nat} {d : DeadUnit} (hd : tget? x.tsl.dead b = some d) (hu : u < 132) (hb : b = unitMktBank u) :
    staleBank x .market u r =
      if d.role = 0xFFFF ∨ x.fenceOk b (.bank (unitMktBank d.role)) = true then none else some (b, unitMktBank d.role) := by
  subst hb
  simp only [staleBank, if_pos hu, hd]

theorem staleBank_stall {u r b : Nat} {d : DeadUnit} (hd : tget? x.tsl.dead b = some d) (hr : r < 17) (hb : b = unitStallBank u r) :
    staleBank x .stall u r =
      if d.role = 0xFFFF ∨ x.fenceOk b (.bank (unitStallBank u d.role)) = true then none else some (b, unitStallBank u d.role) := by
  subst hb
  simp only [staleBank, if_pos hr, hd]

/-! ### Poison (R326) -/

theorem poisoned_word_iff (w : Nat) : x.poisoned (w * 8) 8 = true ↔ w ∈ x.mem.poison := by
  simp only [State.poisoned, List.any_eq_true, Bool.and_eq_true, decide_eq_true_eq]
  exact ⟨fun ⟨k, hk, h⟩ => (show k = w by omega) ▸ hk, fun h => ⟨w, h, by omega, by omega⟩⟩

/-- A full write of a word clears its poison alone. -/
theorem mem_poison_poke {v : Bytes} (w k : Nat) (hv : v.length = 8) : k ∈ (x.poke (w * 8) v).mem.poison ↔ k ∈ x.mem.poison ∧ k ≠ w := by
  simp only [State.poke, List.mem_filter, hv, Bool.not_eq_true', Bool.and_eq_false_iff, decide_eq_false_iff_not]
  exact and_congr_right fun _ => by omega

end Scrub

/-- Settles O50: a read by the bank it names and what it finds, the captures and rows by what is held of them. -/
theorem memoryErrors : Obligations.MemoryErrors := by
  unfold Obligations.MemoryErrors
  refine ⟨fun t s x kind unit role a found pass hx => ?reads, fun t s x a hx => ⟨fun h => ?_, fun h => ?_⟩,
    fun s kind unit role a => ⟨captureEcc_of_held, captureEcc_of_free⟩, fun s kind unit role b d hd => ⟨?_, ?_⟩,
    fun s row => ⟨?_, fun h => ?_, fun h => ?_⟩, fun s w v hv => ⟨?_, fun k hk => ?_⟩⟩
  case reads =>
    intro counted no dead
    have hno : no = memNo kind := by cases kind <;> rfl
    refine ⟨fun b k hd => ends_patrolScrub_dead hx hd, fun hd hw => ends_patrolScrub_outside hx hd hw, fun w hd hw => ?_⟩
    have hread {y : State} (hy : scrubRead x kind unit.toNat role.toNat a.toNat w found = y) :
        Ends (.patrolScrub t kind unit role a found pass) s (counted y) := ends_patrolScrub_of_word hx hd hw hy
    refine ⟨fun hp => hread (scrubRead_poisoned hp), fun hp => ⟨?_, ?_, ?_, fun hf => ?_⟩⟩
    · rintro rfl
      exact hread (scrubRead_clean hp)
    · rintro rfl hk
      rw [hno]
      exact hread ((scrubRead_corrected hp).trans (if_neg hk))
    · rintro rfl rfl
      exact hread ((scrubRead_corrected hp).trans (if_pos rfl))
    · rw [hno]
      intro y y' z other
      have hz := scrubRead_uncorrected (z := z) hp hf rfl
      refine ⟨fun h2 => hread (hz.trans (if_pos h2)), fun h2 hone => hread (hz.trans ?_), fun h2 hboth hdesc => hread (hz.trans ?_)⟩
      · refine (if_neg (by rw [h2]; exact Bool.false_ne_true)).trans (if_neg ?_)
        rintro ⟨rfl, hdesc⟩
        exact hone.elim (fun e => by cases e) fun e => Bool.false_ne_true (e.symm.trans hdesc)
      · exact (if_neg (by rw [h2]; exact Bool.false_ne_true)).trans (if_pos ⟨hboth, hdesc⟩)
  · subst hx
    exact ends_of_next rfl (if_pos h)
  · subst hx
    exact ends_of_next rfl (if_neg (by rw [h]; exact Bool.false_ne_true))
  · rintro ⟨rfl, hu, hb⟩
    exact staleBank_market hd hu hb
  · rintro ⟨rfl, hr, hb⟩
    exact staleBank_stall hd hr hb
  · unfold rowCorrected
    dsimp only
    split
    · exact rowErr_recordRow row
    · rfl
  · have hfew : rowCorrected s row = _ := if_neg (Nat.not_le.2 h)
    rw [hfew]
  · have hmany : rowCorrected s row = recordRow _ row := if_pos h
    rw [hmany]
    exact mem_rowsBad_recordRow row
  · exact eq_false_of_ne_true fun h => ((mem_poison_poke w w hv).1 ((poisoned_word_iff w).1 h)).2 rfl
  · rw [Bool.eq_iff_iff, poisoned_word_iff, poisoned_word_iff, mem_poison_poke w k hv]
    exact and_iff_left hk

end Sys2Proof.Machine

/-! Proofs of the statements on the halt code of a start, on the test access port, and on the resets and the lockstep of the
Clerk (R389, R400, R413 to R415, R431, R446 to R448). -/

namespace Sys2Proof.Machine

/-! ### The halt code (R389) -/

section HaltCode

variable {a b r : Nat}

/-- The reasons that count as a lack of integrity. -/
def integrityReasons : List Nat := [bootFormat, bootKey, bootSig, bootDigest]

theorem haltCode_eq (a b : Nat) : haltCode a b =
    if a = bootRevoked ∨ b = bootRevoked then 0x2C
    else if a ∈ integrityReasons ∧ b ∈ integrityReasons then 0x0A
    else if a = bootVersion ∧ b = bootVersion then 0x0B
    else 0x0C := by
  simp [haltCode, integrityReasons, or_assoc]

theorem ne_revoked_of_integrity (h : r ∈ integrityReasons) : r ≠ bootRevoked := by
  rintro rfl; exact absurd h (by decide)

end HaltCode

/-- Settles O9: a revoked slot lacks no integrity, so the first three codes exclude each other. -/
theorem haltCodeFollows : Obligations.HaltCodeFollows := by
  unfold Obligations.HaltCodeFollows
  intro a b _ _
  refine ⟨fun h => ?_, fun ha hb => ?_, fun ha hb => ?_, fun h1 h2 h3 => ?_⟩
  · exact (haltCode_eq a b).trans (if_pos h)
  · exact (haltCode_eq a b).trans ((if_neg (not_or.2 ⟨ne_revoked_of_integrity ha, ne_revoked_of_integrity hb⟩)).trans (if_pos ⟨ha, hb⟩))
  · rw [ha, hb]; rfl
  · exact (haltCode_eq a b).trans ((if_neg h1).trans ((if_neg h2).trans (if_neg h3)))

/-! ### The test access port (R446, R448) -/

section Tap

variable {s : State} {op : Byte}

theorem loadIr_of_takes (hd : scanDrives (scanOf op) = true) (hp : s.phase ≠ .inReset) :
    loadIr s op = { s with pins.jtagIr := op, pins.scan := scanOf op, pins.scanLost := true } := by
  simp [loadIr, hd, hp]

theorem loadIr_in_reset (hp : s.phase = .inReset) :
    loadIr s op = { s with pins.jtagIr := op, pins.scan := scanOf op } := by
  simp [loadIr, hp]

theorem loadIr_of_not_drives (hd : scanDrives (scanOf op) = false) :
    loadIr s op = { s with pins.jtagIr := op, pins.scan := scanOf op } := by
  simp [loadIr, hd]

end Tap

/-- Settles O11: each instruction is `loadIr` of its opcode, with and without driving the balls. -/
theorem scanInstructions : Obligations.ScanInstructions := by
  unfold Obligations.ScanInstructions
  intro s
  refine ⟨congrArg _ (loadIr_of_not_drives rfl), congrArg _ (loadIr_of_not_drives rfl), fun bits => ?sample, fun hp => ?outside,
    fun hp => ?inside, congrArg _ (loadIr_of_not_drives rfl), rfl⟩
  case sample =>
    have h := loadIr_of_not_drives (s := s) (op := 2#8) rfl
    exact congrArg (fun z : State => Host.Outcome.next { z with pins.boundary := bits }) h
  case outside =>
    exact ⟨congrArg _ (loadIr_of_takes rfl hp), congrArg _ (loadIr_of_takes rfl hp), congrArg _ (loadIr_of_takes rfl hp)⟩
  case inside =>
    exact ⟨congrArg _ (loadIr_in_reset hp), congrArg _ (loadIr_in_reset hp), congrArg _ (loadIr_in_reset hp)⟩

/-! ### What a reset leaves (R400, R413 to R415) -/

section Reset

variable {t : Nat} {s x y : State} {c : Instr} {f : State → State}

/-- A row that comes to a state without quiesces and without subscribers ends there. -/
theorem exec_of_quiet (hc : exec c s = act t s f) (hx : x = s.advance t) (h : f x = y) (hq : y.qs = []) (hs : y.mbx.subs = []) :
    exec c s = .next y :=
  (ends_of_act f hc hx h).trans (congrArg _ (settle_quiet hq hs))

theorem deviceReset_leaves (x : State) (k : Nat) (h : x.inClockFail = false) :
    DeviceResetLeaves x (deviceReset x k) (x.clk.rstCause ||| 1#32 <<< k) := by
  simp [DeviceResetLeaves, deviceReset, afterReset, h, State.reset]

/-- After a clock-fail hold CLKFAIL is set too (R400). -/
theorem deviceReset_leaves_clockFail (x : State) (k : Nat) (h : x.inClockFail = true) :
    DeviceResetLeaves x (deviceReset x k) (x.clk.rstCause ||| 1#32 <<< k ||| 0x80#32) := by
  simp [DeviceResetLeaves, deviceReset, afterReset, h, State.reset, causeClkFail]

theorem powerOn_leaves (x : State) : DeviceResetLeaves { x with pins := { straps := x.pins.straps } } (powerOn x) 1#32 := rfl

theorem inClockFail_advance (s : State) (t : Nat) : (s.advance t).inClockFail = s.inClockFail := by
  simp [State.inClockFail]

/-- A row that comes to a device reset leaves what a device reset leaves. -/
theorem exec_deviceReset {k : Nat} (hc : exec c s = act t s f) (hx : x = s.advance t) (h : f x = deviceReset x k) :
    exec c s = .next (deviceReset x k) :=
  exec_of_quiet hc hx h rfl rfl

/-! ### The rows that reset (R413) -/

theorem exec_powerOnReset (hx : x = s.advance t) : exec (.powerOnReset t) s = .next (powerOn x) :=
  exec_of_quiet (f := powerOn) rfl hx rfl rfl rfl

theorem exec_resetNLow (hx : x = s.advance t) (hp : s.phase ≠ .inReset) : exec (.resetNLow t) s = .next (deviceReset x causeResetN) :=
  exec_deviceReset (f := fun s => if s.phase = .inReset then s else deviceReset s causeResetN) rfl hx
    (if_neg (by rwa [hx, advance_phase]))

theorem exec_watchdog (hx : x = s.advance t)
    (hr : ((x.boot.gate && (x.phase == .starting || x.phase == .running)) || (x.inClockFail && x.boot.booted.isSome)) = true)
    (hw : x.clk.watchdogAt + 2000000000 ≤ x.clk.up) : exec (.watchdog t) s = .next (deviceReset x causeWatchdog) :=
  exec_deviceReset (f := fun s =>
    if ((s.boot.gate && (s.phase == .starting || s.phase == .running)) || (s.inClockFail && s.boot.booted.isSome)) && decide (s.clk.watchdogAt + 2 * nsPerSec ≤ s.clk.up) then
      deviceReset s causeWatchdog
    else s) rfl hx (if_pos (Bool.and_eq_true_iff.2 ⟨hr, decide_eq_true hw⟩))

theorem exec_devResetExecute {m : Option Nat} {due : Nat} (hx : x = s.advance t) (hp : x.clk.resetPend = some (m, due)) (hd : due ≤ x.clk.up) :
    exec (.devResetExecute t) s = .next (deviceReset x causeDevReset) :=
  exec_deviceReset (f := fun s => match s.clk.resetPend with
    | some (_, at_) => if at_ ≤ s.clk.up then deviceReset s causeDevReset else s
    | none => s) rfl hx (by simp only [hp]; exact if_pos hd)

theorem exec_thermalTrip {tj : Int} (hx : x = s.advance t) (h115 : 115 ≤ tj) (hp : s.phase ≠ .thermalHold) :
    exec (.thermalTrip t tj) s =
      .next { deviceReset x causeThermal with phase := .thermalHold, pins.thermtrip := true, clk.tj := tj } :=
  exec_of_quiet (f := fun s =>
    if 115 ≤ tj ∧ s.phase ≠ .thermalHold then
      let x := deviceReset s causeThermal
      { x with phase := .thermalHold, pins.thermtrip := true, clk.tj := tj }
    else s) rfl hx (if_pos ⟨h115, by rwa [hx, advance_phase]⟩) rfl rfl

end Reset

/-! ### The Clerk's lockstep (R431) -/

section Lockstep

variable {t pc a : Nat} {s x : State}

theorem endHold_frame (s : State) (u : UnitTest) :
    (endHold s u).tsl.restart = s.tsl.restart ∧ (endHold s u).cfg = s.cfg := by
  have h := (countStat_logsOnly { s with tsl.cur := none } (tslBase + 0x110) (s.clk.up - u.start)).eq
  unfold endHold
  dsimp only
  split
  · exact ⟨by rw [h]; rfl, by rw [h]; rfl⟩
  · split <;> exact ⟨by rw [h], by rw [h]⟩

/-- A test given up leaves the Clerk's restart and the configuration. -/
theorem abandonTest_frame (s : State) (p : Nat → Bool) :
    (abandonTest s p).tsl.restart = s.tsl.restart ∧ (abandonTest s p).cfg = s.cfg := by
  have hold (w : State) (u : UnitTest) (hw : w.tsl.restart = s.tsl.restart ∧ w.cfg = s.cfg) :
      (countErr (endHold w u) (tslBase + 0x5C)).tsl.restart = s.tsl.restart ∧ (countErr (endHold w u) (tslBase + 0x5C)).cfg = s.cfg := by
    have hc := (countErrs_logsOnly (endHold w u) (tslBase + 0x5C) 1).eq
    have he := endHold_frame w u
    exact ⟨by rw [countErr, hc]; exact he.1.trans hw.1, by rw [countErr, hc]; exact he.2.trans hw.2⟩
  unfold abandonTest
  split
  · split
    · refine hold _ _ ?_
      split <;> exact ⟨rfl, rfl⟩
    · exact ⟨rfl, rfl⟩
  · exact ⟨rfl, rfl⟩

/-- A restart of the Clerk is noted, and a test given up. -/
def notedRestart (x : State) (pc : Nat) : State :=
  let s := countErr x (tslBase + 0x4C)
  abandonTest { s with tsl.mismatchAt := some s.clk.up, tsl.restart := some (s.clk.up, pc) } (fun _ => true)

/-- The staging lost, with its event. -/
def lostStaging (s : State) : State := if s.cfg.staging.isSome then raise { s with cfg.staging := none } 0x0205 0 [] else s

/-- A store that runs begun anew. -/
def storedAnew (s : State) : State :=
  match s.cfg.store with
  | some (a, _) => beginStore s (if a < areaBase 1 then 0 else 1)
  | none => s

theorem clerkRestart_eq (x : State) (pc : Nat) : clerkRestart x pc = storedAnew (lostStaging (notedRestart x pc)) := rfl

theorem notedRestart_restart (x : State) (pc : Nat) : (notedRestart x pc).tsl.restart = some (x.clk.up, pc) := by
  refine (abandonTest_frame _ _).1.trans ?_
  rw [show (countErr x (tslBase + 0x4C)).clk = x.clk from (countErrs_logsOnly x (tslBase + 0x4C) 1).clk]

theorem lostStaging_frame (s : State) : (lostStaging s).tsl = s.tsl ∧ (lostStaging s).cfg.staging = none := by
  have hr := (raise_logsOnly { s with cfg.staging := none } 0x0205 0 []).eq
  unfold lostStaging
  split
  · exact ⟨by rw [hr], by rw [hr]⟩
  · next h => exact ⟨rfl, by simpa using h⟩

theorem storedAnew_frame (s : State) : (storedAnew s).tsl = s.tsl ∧ (storedAnew s).cfg.staging = s.cfg.staging := by
  unfold storedAnew
  split <;> exact ⟨rfl, rfl⟩

/-- A Clerk restart notes its time and counter, and the staging is lost. -/
theorem clerkRestart_restart (x : State) (pc : Nat) :
    (clerkRestart x pc).tsl.restart = some (x.clk.up, pc) ∧ (clerkRestart x pc).cfg.staging = none := by
  obtain ⟨htsl, hstaging⟩ := lostStaging_frame (notedRestart x pc)
  obtain ⟨htsl2, hstaging2⟩ := storedAnew_frame (lostStaging (notedRestart x pc))
  rw [clerkRestart_eq]
  exact ⟨by rw [htsl2, htsl, notedRestart_restart], hstaging2.trans hstaging⟩

theorem lockstepMismatch_starting (hp : x.phase = .starting) (hg : x.boot.gate = false) : lockstepMismatch x pc = halt x 0x06 := by
  simp [lockstepMismatch, hp, hg]

theorem lockstepMismatch_first (hp : x.phase = .running) (h : ∀ a, x.tsl.mismatchAt = some a → a + 3600000000000 < x.clk.up) :
    lockstepMismatch x pc = clerkRestart x pc := by
  rw [lockstepMismatch, hp]
  cases hm : x.tsl.mismatchAt with
  | none => rfl
  | some a => exact if_neg (Nat.not_le.2 (h a hm))

theorem lockstepMismatch_second (hp : x.phase = .running) (hm : x.tsl.mismatchAt = some a) (h : x.clk.up ≤ a + 3600000000000) :
    lockstepMismatch x pc = deviceReset x causeClerkFault := by
  rw [lockstepMismatch, hp, hm]
  exact if_pos h

theorem ends_clerkRestartDone (hx : x = s.advance t) (h : s.tsl.restart = some (a, pc)) : Ends (.clerkRestartDone t) s
    (raise { x with tsl.restart := none, clk.watchdogAt := x.clk.up } 0x0E07 0 (encN pc ++ encN (x.clk.up - a))) :=
  ends_of_next rfl (by subst hx; simp only [advance_tsl, h])

end Lockstep

/-- Settles O7: each row comes to a device reset, whose state is `DeviceResetLeaves` with and without CLKFAIL. -/
theorem resetsBegin : Obligations.ResetsBegin := by
  unfold Obligations.ResetsBegin
  refine ⟨fun t s x hx hcf => ?rows, fun t n s hp => ?hold, fun t pc s x hx => ?lockstep⟩
  case rows =>
    have hc : x.inClockFail = false := by rw [hx, inClockFail_advance]; exact hcf
    refine ⟨⟨_, exec_powerOnReset hx, powerOn_leaves x⟩, fun hp => ⟨_, exec_resetNLow hx hp, deviceReset_leaves x 2 hc⟩,
      fun hg hp hw => ⟨_, exec_watchdog hx ?_ hw, deviceReset_leaves x 4 hc⟩,
      fun m due hr hd => ⟨_, exec_devResetExecute hx hr hd, deviceReset_leaves x 3 hc⟩,
      fun tj h115 hp => ⟨_, _, exec_thermalTrip hx h115 hp, deviceReset_leaves x 5 hc, rfl⟩⟩
    rcases hp with hp | hp <;> simp [hx, hg, hp]
  case hold =>
    have hc : (s.advance t).inClockFail = true := by rw [inClockFail_advance, State.inClockFail, hp]
    exact ⟨⟨_, exec_resetNLow rfl (by rw [hp]; exact fun h => nomatch h), deviceReset_leaves_clockFail _ 2 hc⟩,
      fun slot hs hw => ⟨_, exec_watchdog rfl (by simp [hc, hs]) hw, deviceReset_leaves_clockFail _ 4 hc⟩⟩
  case lockstep =>
    have phase : x.phase = s.phase := by rw [hx, advance_phase]
    have tsl : x.tsl = s.tsl := by rw [hx, advance_tsl]
    refine ⟨fun hp hg => ?_, fun hp hm => ⟨?_, clerkRestart_restart x pc⟩, fun a hp hm hle => ?_, fun a p hr => ends_clerkRestartDone hx hr⟩
    · exact ends_of_act (fun s => lockstepMismatch s pc) rfl hx (lockstepMismatch_starting (phase.trans hp) (by rw [hx, advance_boot]; exact hg))
    · exact ends_of_act (fun s => lockstepMismatch s pc) rfl hx (lockstepMismatch_first (phase.trans hp) (by rwa [tsl]))
    · have hcf : x.inClockFail = false := by rw [State.inClockFail, phase, hp]
      exact ⟨_, exec_deviceReset (f := fun s => lockstepMismatch s pc) rfl hx
        (lockstepMismatch_second (phase.trans hp) (by rwa [tsl]) hle), deviceReset_leaves x 6 hcf⟩

end Sys2Proof.Machine

/-! Proofs of the statement on requests and responses of the mailbox (R332 to R338). -/

namespace Sys2Proof.Machine

/-! ### What sending leaves of the mailbox (R334) -/

/-- `z` has the stored responses and the sideband's response of `s`. -/
structure SameRsps (s z : State) : Prop where
  rsps : z.mbx.rsps = s.mbx.rsps
  sbRsp : z.mbx.sbRsp = s.mbx.sbRsp

namespace SameRsps

variable {s z w : State}

theorem refl (s : State) : SameRsps s s := ⟨rfl, rfl⟩
theorem of_mbx (h : z.mbx = s.mbx) : SameRsps s z := ⟨by rw [h], by rw [h]⟩
theorem trans (h : SameRsps s z) (h2 : SameRsps z w) : SameRsps s w := ⟨h2.rsps.trans h.rsps, h2.sbRsp.trans h.sbRsp⟩

theorem ite {P : Prop} [Decidable P] (h : SameRsps s z) (h2 : SameRsps s w) : SameRsps s (if P then z else w) := by
  split
  · exact h
  · exact h2

end SameRsps

section Counting

variable (s : State) (a n : Nat)

theorem countErrs_sameRsps : SameRsps s (countErrs s a n) := .of_mbx (countErrs_mbx s a n)

theorem countErr_sameRsps : SameRsps s (countErr s a) := countErrs_sameRsps s a 1

theorem bumpStat_sameRsps : SameRsps s (bumpStat s a n).1 := by rw [bumpStat_eq]; exact .of_mbx rfl

theorem trimLog_sameRsps : SameRsps s (trimLog s) := by
  unfold trimLog
  split
  · exact .refl s
  · split
    · exact .refl s
    · refine .trans ?_ (countErrs_sameRsps ..)
      exact ⟨rfl, rfl⟩

theorem rawEvent_sameRsps (code object : Nat) (data : Bytes) : SameRsps s (rawEvent s code object data) :=
  .trans (z := { s with mbx.log := s.mbx.log ++ _, mbx.nextSeq := seqNext s.mbx.nextSeq }) ⟨rfl, rfl⟩ (trimLog_sameRsps _)

theorem wrapRecord_sameRsps : SameRsps s (wrapRecord s a) := by
  unfold wrapRecord; split <;> exact rawEvent_sameRsps ..

theorem wrapEvent_sameRsps : SameRsps s (wrapEvent s a) := by
  have h := (wrapRecord_sameRsps s a).trans (bumpStat_sameRsps _ (clerkBase + 0x110) 1)
  unfold wrapEvent
  dsimp only
  split
  · exact h.trans ((wrapRecord_sameRsps ..).trans (bumpStat_sameRsps ..))
  · exact h

theorem countStat_sameRsps : SameRsps s (countStat s a n) := by
  unfold countStat
  dsimp only
  split
  · exact (bumpStat_sameRsps s a n).trans (wrapEvent_sameRsps ..)
  · exact bumpStat_sameRsps s a n

end Counting

section Sending

variable (s : State)

theorem refuseFrame_sameRsps (lp q : Nat) : SameRsps s (refuseFrame s lp q) :=
  (countErr_sameRsps s _).trans (countErr_sameRsps _ _)

theorem countEnq_sameRsps (q : Nat) (f : Frame) : SameRsps s (countEnq s q f) :=
  (countStat_sameRsps s _ _).trans (countStat_sameRsps _ _ _)

theorem enqueueExpress_sameRsps (lp q : Nat) (f : Frame) : SameRsps s (enqueueExpress s lp q f) :=
  .ite (.trans (z := s.onLp lp _) (.of_mbx rfl) (countEnq_sameRsps _ _ _)) (countErr_sameRsps s _)

theorem enqueue_sameRsps (f : Frame) : SameRsps s (enqueue s f) := by
  unfold enqueue
  split
  · exact countErr_sameRsps s _
  · exact .ite (refuseFrame_sameRsps ..) (.ite (enqueueExpress_sameRsps ..)
      (.ite (.trans (z := s.onTq _ _) (.of_mbx rfl) (countEnq_sameRsps _ _ _)) (refuseFrame_sameRsps ..)))

theorem emit_sameRsps (lp qset cls : Nat) (bytes : Bytes) : SameRsps s (emit s lp qset cls bytes) :=
  .ite (.of_mbx rfl) (enqueue_sameRsps s _)

theorem sendPkt_sameRsps (lp qset cls mac ip sport dst : Nat) (pkt : Bytes) :
    SameRsps s (sendPkt s lp qset cls mac ip sport dst pkt) :=
  .ite (.of_mbx rfl) (emit_sameRsps s ..)

theorem onBook_sameRsps (b : Nat) (f : Book → Book) : SameRsps s (s.onBook b f) := by
  unfold State.onBook; split <;> exact .of_mbx rfl

theorem onOut_sameRsps (k : Nat) (m : OutMsg) : SameRsps s (s.onOut k m) := .of_mbx rfl

theorem sendOne_sameRsps (k : Nat) (m : OutMsg) (token : Nat) : SameRsps s (sendOne s k m token).1 := by
  unfold sendOne
  dsimp only
  refine .trans ?_ (onOut_sameRsps _ _ _)
  have sent (lp qset cls mac ip sport dst : Nat) (pkt : Bytes) :
      SameRsps s (countStat (sendPkt s lp qset cls mac ip sport dst pkt) (ehtBase + 0x120) 1) :=
    (sendPkt_sameRsps s ..).trans (countStat_sameRsps ..)
  have counted {P : Prop} [Decidable P] {w : State} (h : SameRsps s w) :
      SameRsps s (if P then countStat w (ehtBase + 0x130) 1 else w) := .ite (h.trans (countStat_sameRsps ..)) h
  refine .ite (counted (sent ..)) ?_
  split
  · exact (counted (sent ..)).trans (onBook_sameRsps ..)
  · exact counted (sent ..)

theorem requestCredit_sameRsps (k : Nat) (m : OutMsg) : SameRsps s (requestCredit s k m) :=
  (sendPkt_sameRsps s ..).trans (onOut_sameRsps ..)

theorem sendLoop_sameRsps (k fuel : Nat) (s : State) (m : OutMsg) : SameRsps s (sendLoop k fuel s m) := by
  induction fuel generalizing s m with
  | zero => exact onOut_sameRsps ..
  | succ fuel ih =>
    unfold sendLoop
    refine .ite (onOut_sameRsps ..) (.ite ((sendOne_sameRsps ..).trans (ih ..)) ?_)
    split
    · exact (sendOne_sameRsps ..).trans (ih ..)
    · exact requestCredit_sameRsps ..

theorem submit_sameRsps (m : OutMsg) : SameRsps s (submit s m).1 := by
  have opened : SameRsps s { (nextMsgId s m.ep).2 with eht.nextOut := s.eht.nextOut + 1 } := .of_mbx rfl
  unfold submit
  dsimp only
  split
  · exact opened.trans (sendLoop_sameRsps ..)
  · exact .of_mbx rfl

end Sending

/-! ### The response that the Clerk keeps (R334) -/

section Respond

variable {x : State} {z : Rsp}

/-- The responses kept once `z` is stored: those of other keys, `z` last, and no more than 256. -/
def keptRsps (x : State) (z : Rsp) : List Rsp :=
  let old := x.mbx.rsps.filter (fun y => !sameKey y.peer z.peer y.tag z.tag)
  (old ++ [z]).drop (old.length + 1 - 256)

theorem respond_eq (x : State) (z : Rsp) : respond x z = sendRsp { x with mbx.rsps := keptRsps x z } z.peer z false := rfl

theorem mem_keptRsps (h : x.mbx.rsps.length ≤ 256) : z ∈ keptRsps x z := by
  unfold keptRsps
  dsimp only
  have hle := (List.length_filter_le (fun y : Rsp => !sameKey y.peer z.peer y.tag z.tag) x.mbx.rsps).trans h
  rw [List.drop_append_of_le_length (by omega)]
  simp

theorem length_keptRsps_le : (keptRsps x z).length ≤ 256 := by
  unfold keptRsps
  dsimp only
  rw [List.length_drop, List.length_append, List.length_singleton]
  omega

theorem sendRsp_sideband {p : Peer} {b : Bool} (h : p.via = .sideband) :
    (sendRsp x p z b).1 = { x with mbx.sbRsp := some (z.bytes b) } := by
  simp [sendRsp, h]

theorem sendRsp_inband {p : Peer} {b : Bool} (h : p.via = .inband) : SameRsps x (sendRsp x p z b).1 := by
  simp only [sendRsp, h]
  exact submit_sameRsps ..

theorem rsps_respond (x : State) (z : Rsp) : (respond x z).1.mbx.rsps = keptRsps x z := by
  rw [respond_eq]
  cases h : z.peer.via with
  | sideband => rw [sendRsp_sideband h]
  | inband => rw [(sendRsp_inband h).rsps]

end Respond

/-! ### Arrival (R333, R336) -/

section Arrival

variable {s : State} {b : Bytes} {r : Req} {p : Peer} {slot : Option Nat} {replay : Bool}

theorem headerFault_eq_false_iff : headerFault b = false ↔
    zeroAt b 0x18 8 = true ∧ beAt b 6 2 ≤ 1 ∧ beAt b 2 1 = 3 ∧ beAt b 0x0C 4 = b.length - 32 := by
  simp [headerFault, and_assoc]

theorem queueReq_of_sender (h : senderOk s r.peer = false) : queueReq s r replay slot =
    freeMbxSlot (answerStatus (countErr s (clerkBase + 0x44)) r.peer r.code r.tag mbxAuth) slot := by
  simp [queueReq, h]

theorem queueReq_of_unassigned (h : senderOk s r.peer = true) (hc : r.cursor = 0#64) (hk : knownCode r.code.toNat = false) :
    queueReq s r false slot = freeMbxSlot (answerStatus s r.peer r.code r.tag mbxInvalid) slot := by
  simp [queueReq, h, hc, hk]

theorem queueReq_joins (h : senderOk s r.peer = true) (hq : replay = true ∨ r.cursor ≠ 0#64 ∨ knownCode r.code.toNat = true) :
    queueReq s r replay slot =
      { s with mbx.queue := s.mbx.queue ++ [{ req := r, arrived := s.clk.up, replay := replay, slot := slot }] } := by
  rw [queueReq, h, Bool.not_true, if_neg Bool.false_ne_true, if_neg]
  rcases hq with hq | hq | hq <;> simp [hq]

theorem mbxArrive_malformed (h : b.length < 32 ∨ beAt b 0 2 ≠ 0x4D51) :
    mbxArrive s p b slot = freeMbxSlot (countErr s (clerkBase + 0x54)) slot := if_pos h

theorem mbxArrive_headerFault (hl : 32 ≤ b.length) (hm : beAt b 0 2 = 0x4D51) (hf : headerFault b = true) :
    mbxArrive s p b slot = freeMbxSlot (answerStatus s p (parseReq p b).code (parseReq p b).tag mbxInvalid) slot := by
  rw [mbxArrive, if_neg (by omega)]
  exact if_pos hf

theorem mbxArrive_good (hl : 32 ≤ b.length) (hm : beAt b 0 2 = 0x4D51) (hf : headerFault b = false) :
    mbxArrive s p b slot = queueReq s (parseReq p b) (beAt b 6 2 == 1) slot := by
  rw [mbxArrive, if_neg (by omega)]
  exact if_neg (by rw [hf]; exact Bool.false_ne_true)

/-- A request arrives in the ring's slot `n`. -/
theorem ends_mbxRequest {t n : Nat} {s x y : State} {e : Endpoint} (hx : x = s.advance t) (hv : p.via = .inband)
    (hs : clerkServes x p = true) (he : tget? x.eht.eps wellKnownEid = some e)
    (hn : (List.range 16).find? (fun k => !e.slotsUsed.contains k) = some n)
    (h : mbxArrive { x with eht.eps := tset x.eht.eps wellKnownEid { e with slotsUsed := n :: e.slotsUsed } } p b (some n) = y) :
    Ends (.mbxRequest t p b) s y :=
  ends_of_next rfl (by subst hx; simp only [hs, hv, and_self, if_true, he, hn, h])

end Arrival

/-! ### Serving (R334, R337, R338) -/

section Serving

variable {t : Nat} {s x y z : State} {r : Req} {slot : Option Nat} {q : QReq} {rest : List QReq} {c : Capture}

theorem headLate_of_late (hq : x.mbx.queue = q :: rest) (h : q.arrived + 1000000000 < x.clk.up) : headLate x = true := by
  rw [headLate, hq]; exact decide_eq_true h

theorem timeOutHead_eq (hq : x.mbx.queue = q :: rest) : timeOutHead x =
    freeMbxSlot (answerStatus (countErr { x with mbx.queue := rest } (clerkBase + 0x50)) q.req.peer q.req.code q.req.tag mbxTimeout)
      q.slot := by
  rw [timeOutHead, hq]

theorem ends_replay_late (hx : x = s.advance t) (hs : clerkServes x r.peer = true) (hl : headLate x = true) :
    Ends (.replay t r) s (timeOutHead x) :=
  ends_of_next rfl (by subst hx; simp only [hs, hl, Bool.not_true, Bool.false_eq_true, if_false, if_true])

theorem ends_replay_found {w : Rsp} (hx : x = s.advance t) (hs : clerkServes x r.peer = true) (hl : headLate x = false)
    (ht : takeReq x r true = some (y, slot)) (hf : y.mbx.rsps.find? (fun k => sameKey k.peer r.peer k.tag r.tag) = some w) :
    Ends (.replay t r) s (freeMbxSlot (sendRsp y r.peer w true).1 slot) :=
  ends_of_next rfl (by subst hx; simp only [hs, hl, ht, hf, Bool.not_true, Bool.false_eq_true, if_false])

theorem ends_replay_unknown (hx : x = s.advance t) (hs : clerkServes x r.peer = true) (hl : headLate x = false)
    (ht : takeReq x r true = some (y, slot)) (hf : y.mbx.rsps.find? (fun k => sameKey k.peer r.peer k.tag r.tag) = none) :
    Ends (.replay t r) s (freeMbxSlot (answerStatus y r.peer r.code r.tag mbxState) slot) :=
  ends_of_next rfl (by subst hx; simp only [hs, hl, ht, hf, Bool.not_true, Bool.false_eq_true, if_false])

theorem cursor_beq_zero (h : r.cursor ≠ 0#64) : (r.cursor == 0) = false := beq_eq_false_iff_ne.2 h

theorem ends_resultPart_late (hx : x = s.advance t) (hs : clerkServes x r.peer = true) (hc : r.cursor ≠ 0#64) (hl : headLate x = true) :
    Ends (.resultPart t r) s (timeOutHead x) :=
  ends_of_next rfl (by subst hx; simp only [hs, hl, cursor_beq_zero hc, Bool.not_true, Bool.or_self, Bool.false_eq_true, if_false, if_true])

theorem ends_resultPart (hx : x = s.advance t) (hs : clerkServes x r.peer = true) (hl : headLate x = false) (hc : r.cursor ≠ 0#64)
    (ht : takeReq x r false = some (y, slot)) (h : resultPart y r = z) : Ends (.resultPart t r) s (freeMbxSlot z slot) :=
  ends_of_next rfl (by
    subst hx; simp only [hs, hl, ht, h, cursor_beq_zero hc, Bool.not_true, Bool.or_self, Bool.false_eq_true, if_false])

theorem resultPart_of_no_capture (h : tget? y.mbx.captures (r.cursor.toNat / 2 ^ 32) = none) :
    resultPart y r = answerStatus y r.peer r.code r.tag mbxState := by
  simp only [resultPart, h]

/-- The part of a capture that the cursor names, answered from the state `z` with what follows. -/
def partRsp (r : Req) (c : Capture) (more : Bool) (cursor : Nat) : Rsp :=
  { peer := r.peer, code := r.code, tag := r.tag, status := 0, detail := 0, arg := 0, more := more, cursor := cursor
    body := (c.bytes.drop (r.cursor.toNat % 2 ^ 32)).take 4064 }

theorem resultPart_more (h : tget? y.mbx.captures (r.cursor.toNat / 2 ^ 32) = some c) (hc : c.code = r.code)
    (hm : r.cursor.toNat % 2 ^ 32 + 4064 < c.bytes.length) : resultPart y r =
      (respond { y with mbx.captures := tset y.mbx.captures (r.cursor.toNat / 2 ^ 32) { c with used := y.clk.up } }
        (partRsp r c true (r.cursor.toNat / 2 ^ 32 * 2 ^ 32 + r.cursor.toNat % 2 ^ 32 + 4064))).1 := by
  have hlt : ¬ (c.bytes.length ≤ r.cursor.toNat % 2 ^ 32 ∨ c.code ≠ r.code) := by simp only [hc, ne_eq, not_true, or_false]; omega
  simp only [resultPart, h, if_neg hlt, decide_eq_true hm, if_true]
  rfl

theorem resultPart_last (h : tget? y.mbx.captures (r.cursor.toNat / 2 ^ 32) = some c) (hc : c.code = r.code)
    (hlt : r.cursor.toNat % 2 ^ 32 < c.bytes.length) (hm : c.bytes.length ≤ r.cursor.toNat % 2 ^ 32 + 4064) : resultPart y r =
      (respond { y with mbx.captures := tdel y.mbx.captures (r.cursor.toNat / 2 ^ 32) } (partRsp r c false 0)).1 := by
  have hlt : ¬ (c.bytes.length ≤ r.cursor.toNat % 2 ^ 32 ∨ c.code ≠ r.code) := by simp only [hc, ne_eq, not_true, or_false]; omega
  simp only [resultPart, h, if_neg hlt, decide_eq_false (Nat.not_lt.2 hm), Bool.false_eq_true, if_false]
  rfl

theorem ends_cmdTimeout_empty (hx : x = s.advance t) (hq : x.mbx.queue = []) : Ends (.cmdTimeout t) s x :=
  ends_of_next rfl (by subst hx; simp only [hq])

theorem ends_cmdTimeout (hx : x = s.advance t) (hq : x.mbx.queue = q :: rest) :
    Ends (.cmdTimeout t) s (if q.arrived + 1000000000 ≤ x.clk.up then timeOutHead x else x) :=
  ends_of_next rfl (by subst hx; simp only [hq]; rfl)

/-- A command of the table at an instant at which the head of the queue has waited over 1 s. -/
theorem ends_of_late {code : Nat} {i : Instr} {f : State → Req → Res} (hi : exec i s = serve t r code f s) (hx : x = s.advance t)
    (hs : clerkServes x r.peer = true) (hc : r.cursor = 0#64) (hk : r.code.toNat = code) (hl : headLate x = true) :
    Ends i s (timeOutHead x) := by
  subst hx
  refine hi.trans ?_
  simp [serve, act, serveCmd, hs, hc, hk, hl]

theorem ends_captureRelease {id : Nat} (hx : x = s.advance t) (h : tget? x.mbx.captures id = some c) :
    Ends (.captureRelease t id) s
      (if c.used + 60000000000 ≤ x.clk.up then { x with mbx.captures := tdel x.mbx.captures id } else x) :=
  ends_of_next rfl (by subst hx; simp only [h]; rfl)

end Serving

/-- Settles O54: the checks of an arrival in order, the branches of serving, and what sending leaves of the responses. -/
theorem requestsTaken : Obligations.RequestsTaken := by
  unfold Obligations.RequestsTaken
  intro t s x p b r slot hx
  refine ⟨fun e n hv hs he hn => ?arrival, fun y hs hl ht => ?replay, fun y hs hl hc ht => ?part, fun hq => ends_cmdTimeout_empty hx hq,
    fun q rest hq => ?timeout, fun id c h => ?release, fun z hlen => ?response⟩
  case arrival =>
    dsimp only
    rw [← headerFault_eq_false_iff]
    refine ⟨fun h => ends_mbxRequest hx hv hs he hn (mbxArrive_malformed h), fun hlen hm => ⟨fun hf => ?_, fun hf ho => ?_,
      fun hf ho hr hc hk => ?_, fun hf ho hq => ?_⟩⟩
    · exact ends_mbxRequest hx hv hs he hn (mbxArrive_headerFault hlen hm (eq_true_of_ne_false hf))
    · exact ends_mbxRequest hx hv hs he hn ((mbxArrive_good hlen hm hf).trans (queueReq_of_sender ho))
    · refine ends_mbxRequest hx hv hs he hn ((mbxArrive_good hlen hm hf).trans ?_)
      rw [beq_eq_false_iff_ne.2 hr]
      exact queueReq_of_unassigned ho hc hk
    · exact ends_mbxRequest hx hv hs he hn ((mbxArrive_good hlen hm hf).trans
        (queueReq_joins ho (hq.imp_left beq_iff_eq.2)))
  case replay =>
    refine ⟨fun z hf => ends_replay_found hx hs hl ht hf, fun hf => ends_replay_unknown hx hs hl ht ?_⟩
    exact List.find?_eq_none.2 fun z hz => by rw [hf z hz]; exact Bool.false_ne_true
  case part =>
    exact ⟨fun h => ends_resultPart hx hs hl hc ht (resultPart_of_no_capture h), fun c h hcode hlt =>
      ⟨fun hm => ends_resultPart hx hs hl hc ht (resultPart_more h hcode hm),
        fun hm => ends_resultPart hx hs hl hc ht (resultPart_last h hcode hlt hm)⟩⟩
  case timeout =>
    dsimp only
    rw [← timeOutHead_eq hq]
    refine ⟨fun h => ends_of_pos (ends_cmdTimeout hx hq) h, fun h hs => ?_,
      fun h => ends_of_neg (ends_cmdTimeout hx hq) (Nat.not_le.2 h)⟩
    have hl := headLate_of_late hq h
    exact ⟨ends_replay_late hx hs hl, fun hc => ends_resultPart_late hx hs hc hl, fun hc hk => ends_of_late rfl hx hs hc hk hl⟩
  case release =>
    exact ⟨ends_of_pos (ends_captureRelease hx h), fun hlt => ends_of_neg (ends_captureRelease hx h) (Nat.not_le.2 hlt)⟩
  case response =>
    dsimp only
    rw [rsps_respond]
    refine ⟨mem_keptRsps hlen, length_keptRsps_le, fun hv => ?_, fun hv => ?_⟩
    · rw [respond_eq, sendRsp_sideband hv]
    · rw [respond_eq, (sendRsp_inband hv).sbRsp]

end Sys2Proof.Machine

/-! Proofs of the statements on the sideband window and on what the Clerk does by itself (R335, R344, R348, R357, R362). -/

namespace Sys2Proof.Machine

/-! ### One byte written into a buffer that grows for it (R335) -/

section GrowingBuffer

variable {b : Bytes} {n p k : Nat} {v : Byte}

theorem padTo_of_length_le (h : b.length ≤ n) : padTo n b = b ++ List.replicate (n - b.length) 0 := by
  simp [padTo, slice, List.take_of_length_le h]

theorem byteAt_padTo (h : b.length ≤ n) : byteAt (padTo n b) k = byteAt b k := by
  rw [padTo_of_length_le h, byteAt, byteAt, List.getD_eq_getElem?_getD, List.getD_eq_getElem?_getD]
  by_cases hk : k < b.length
  · rw [List.getElem?_append_left hk]
  · rw [List.getElem?_append_right (Nat.not_lt.1 hk), List.getElem?_replicate, List.getElem?_eq_none (Nat.not_lt.1 hk)]
    split <;> rfl

theorem length_padTo (h : b.length ≤ n) : (padTo n b).length = n := by
  rw [padTo_of_length_le h, List.length_append, List.length_replicate]; omega

theorem patch_one (h : p < b.length) : patch b p [v] = b.set p v := by
  rw [List.set_eq_take_append_cons_drop, if_pos h, patch, List.take_of_length_le (l := [v]) (Nat.sub_pos_of_lt h)]
  simp

theorem byteAt_set (h : p < b.length) : byteAt (b.set p v) k = if k = p then v else byteAt b k := by
  rw [byteAt, byteAt, List.getD_eq_getElem?_getD, List.getD_eq_getElem?_getD, List.getElem?_set]
  by_cases hk : k = p
  · rw [if_pos hk.symm, if_pos h, if_pos hk, Option.getD_some]
  · rw [if_neg (Ne.symm hk), if_neg hk]

/-- A buffer with the byte `v` at `p`, as long as it was or as the byte needs. -/
def withByte (b : Bytes) (p : Nat) (v : Byte) : Bytes := patch (padTo (max b.length (p + 1)) b) p [v]

theorem length_lt_padded (b : Bytes) (p : Nat) : p < (padTo (max b.length (p + 1)) b).length := by
  rw [length_padTo (Nat.le_max_left ..)]; omega

theorem withByte_length (b : Bytes) (p : Nat) (v : Byte) : (withByte b p v).length = max b.length (p + 1) := by
  rw [withByte, patch_one (length_lt_padded b p), List.length_set, length_padTo (Nat.le_max_left ..)]

theorem byteAt_withByte (b : Bytes) (p : Nat) (v : Byte) (k : Nat) :
    byteAt (withByte b p v) k = if k = p then v else byteAt b k := by
  rw [withByte, patch_one (length_lt_padded b p), byteAt_set (length_lt_padded b p), byteAt_padTo (Nat.le_max_left ..)]

end GrowingBuffer

/-! ### The window (R335) -/

section Sideband

variable {t p : Nat} {s x : State} {ptr : Option Word32} {v : Byte}

/-- What keeps GO from queueing the buffered request. -/
def goRefused (x : State) : Prop :=
  (∃ q ∈ x.mbx.queue, q.req.peer.via = .sideband) ∨ x.mbx.sbRsp ≠ none ∨ x.mbx.sbReq.length < 32 ∨ beAt x.mbx.sbReq 0 2 ≠ 0x4D51
    ∨ headerFault x.mbx.sbReq = true

theorem goRefused_iff : goRefused x ↔
    (sbBusy x || x.mbx.sbRsp.isSome || decide (x.mbx.sbReq.length < 32) || beAt x.mbx.sbReq 0 2 != 0x4D51
      || headerFault x.mbx.sbReq) = true := by
  simp [goRefused, sbBusy, Option.isSome_iff_ne_none, or_assoc]

theorem ends_go_down (hx : x = s.advance t) (h : clerkUp x = false) : Ends (.go t) s x :=
  ends_of_next rfl (by subst hx; simp only [h, Bool.not_false, if_true])

theorem ends_go_refused (hx : x = s.advance t) (h : clerkUp x = true) (hr : goRefused x) :
    Ends (.go t) s { x with mbx.sbErr := true } :=
  ends_of_next rfl (by subst hx; simp only [h, goRefused_iff.1 hr, Bool.not_true, Bool.false_eq_true, if_false, if_true])

theorem ends_go_taken {y : State} (hx : x = s.advance t) (h : clerkUp x = true) (hr : ¬ goRefused x)
    (hy : queueReq { x with mbx.sbErr := false, mbx.sbReq := [] } (parseReq sbPeer x.mbx.sbReq) (beAt x.mbx.sbReq 6 2 == 1) none = y) :
    Ends (.go t) s y :=
  ends_of_next rfl (by
    subst hx
    simp only [h, eq_false_of_ne_true (mt goRefused_iff.2 hr), Bool.not_true, Bool.false_eq_true, if_false]
    exact hy)

/-- The sender list admits the sideband (R333). -/
theorem senderOk_sideband (s : State) : senderOk s sbPeer = true := rfl

theorem ends_evtAck_none (hx : x = s.advance t) (h : sbEvent x = none) : Ends (.evtAck t) s x :=
  ends_of_next rfl (by subst hx; simp only [h])

theorem ends_evtAck {e : Event} (hx : x = s.advance t) (h : sbEvent x = some e) :
    Ends (.evtAck t) s { x with mbx.sbEvt := (e.seq + 1) % 2 ^ 64, mbx.sbGap := false } :=
  ends_of_next rfl (by subst hx; simp only [h]; rfl)

theorem sbPtrAt_eq (hw : ∀ w, ptr = some w → p = w.toNat) (h0 : ptr = none → p = x.mbx.sbPtr) : sbPtrAt x ptr = p := by
  cases ptr with
  | none => exact (h0 rfl).symm
  | some w => exact (hw w rfl).symm

theorem ends_sbDataWrite (hx : x = s.advance t) (hp : sbPtrAt x ptr = p) : Ends (.sbDataWrite t ⟨ptr, v⟩) s
    { x with mbx.sbReq := if p < 65536 then withByte x.mbx.sbReq p v else x.mbx.sbReq, mbx.sbPtr := (p + 1) % 2 ^ 32 } :=
  ends_of_next rfl (by subst hx hp; rfl)

theorem ends_sbDataRead (hx : x = s.advance t) (hp : sbPtrAt x ptr = p) :
    Ends (.sbDataRead ⟨t, ptr⟩) s { x with mbx.sbPtr := (p + 1) % 2 ^ 32 } :=
  ends_of_next rfl (by subst hx hp; rfl)

end Sideband

/-- Settles O55: GO is refused, queues, or is answered; a byte written is found where SB_PTR stood. -/
theorem sidebandWindow : Obligations.SidebandWindow := by
  unfold Obligations.SidebandWindow
  intro t s x hx
  refine ⟨ends_go_down hx, ends_go_refused hx, ⟨fun h hr hq => ?joins, fun h hr h1 hc hk => ?unassigned⟩,
    ends_of_act (fun s => { s with mbx.sbReq := [] }) rfl hx rfl, ends_of_act (fun s => { s with mbx.sbRsp := none }) rfl hx rfl,
    ends_evtAck_none hx, fun e => ends_evtAck hx, fun ptr v p hw h0 => ?bytes, fun a => ⟨?entdaa, ?setdasa⟩⟩
  case joins => exact ends_go_taken hx h hr (queueReq_joins (senderOk_sideband _) (hq.imp_left beq_iff_eq.2))
  case unassigned =>
    refine ends_go_taken hx h hr ?_
    rw [beq_eq_false_iff_ne.2 h1]
    exact queueReq_of_unassigned (senderOk_sideband _) hc hk
  case bytes =>
    have hp := sbPtrAt_eq hw h0
    refine ⟨fun hle => ?_, fun hlt => ⟨withByte x.mbx.sbReq p v, withByte_length .., byteAt_withByte _ p v, ?_⟩, ends_sbDataRead hx hp⟩
    · have h := ends_sbDataWrite (v := v) hx hp
      rwa [if_neg (Nat.not_lt.2 hle)] at h
    · have h := ends_sbDataWrite (v := v) hx hp
      rwa [if_pos hlt] at h
  case entdaa => exact ends_of_act (fun s => { s with mbx.dynAddr := some a }) rfl hx rfl
  case setdasa => exact ends_of_act (fun s => { s with mbx.dynAddr := some a }) rfl hx rfl

/-! ### What the Clerk does by itself (R344, R348, R357, R362) -/

section Background

variable {t n : Nat} {s x : State} {u : Subscriber}

theorem ends_stagingExpiry_none (hx : x = s.advance t) (h : x.cfg.staging = none) : Ends (.stagingExpiry t) s x :=
  ends_of_next rfl (by subst hx; simp only [h])

theorem ends_stagingExpiry {g : Staging} (hx : x = s.advance t) (h : x.cfg.staging = some g) : Ends (.stagingExpiry t) s
    (if g.at_ + 600000000000 ≤ x.clk.up then raise { x with cfg.staging := none } 0x0205 0 [] else x) :=
  ends_of_next rfl (by subst hx; simp only [h]; rfl)

theorem ends_cfgStoreDone_idle {ok : Bool} (hx : x = s.advance t) (h : x.cfg.store = none ∨ x.phase ≠ .running) :
    Ends (.cfgStoreDone t ok) s x := by
  refine ends_of_next rfl ?_
  subst hx
  rcases h with h | h
  · simp only [h, ite_self]
  · exact if_pos h

theorem ends_cfgStoreDone {ok : Bool} {a : Nat} {tr : Bytes} (hx : x = s.advance t) (h : x.cfg.store = some (a, tr))
    (hp : x.phase = .running) : Ends (.cfgStoreDone t ok) s
      (if ok = true then raise { flashWrite { x with cfg.store := none } a tr with cfg.stored := true } 0x0202 0 []
        else raise { x with cfg.store := none } 0x0203 0 []) :=
  ends_of_next rfl (by subst hx; simp only [h, hp, ne_eq, not_true, if_false])

/-- A TALLY is due (R357). -/
theorem tallyDue_iff : (x.phase = .running ∧ x.committed = true ∧ x.cfgN (itemId 2 1 3) 0 0 1000000000 ≠ 0
      ∧ x.mbx.tallyAt + x.cfgN (itemId 2 1 3) 0 0 1000000000 ≤ x.clk.up) ↔
    (x.phase = .running ∧ x.cfg.state = .committed ∧ x.cfgN (itemId 2 1 3) 0 0 1000000000 ≠ 0
      ∧ x.mbx.tallyAt + x.cfgN (itemId 2 1 3) 0 0 1000000000 ≤ x.clk.up) := by
  rw [State.committed, beq_iff_eq]

theorem ends_tallyInterval (hx : x = s.advance t) : Ends (.tallyInterval t) s
    (if x.phase = .running ∧ x.committed = true ∧ x.cfgN (itemId 2 1 3) 0 0 1000000000 ≠ 0
        ∧ x.mbx.tallyAt + x.cfgN (itemId 2 1 3) 0 0 1000000000 ≤ x.clk.up then sendTally x else x) :=
  ends_of_next rfl (by subst hx; rfl)

theorem ends_eventMessageDone {m : Fin 8} {st : Byte} {e k : Nat} (hx : x = s.advance t) (h : tget? x.mbx.subs m.val = some u)
    (ho : u.open_ = some (e, k)) : Ends (.eventMessageDone t m st) s (finishMsg x k st.toNat 0 []) :=
  ends_of_next rfl (by subst hx; simp only [h, ho])

theorem ends_eventMessageDone_none {m : Fin 8} {st : Byte} (hx : x = s.advance t) (h : tget? x.mbx.subs m.val = none) :
    Ends (.eventMessageDone t m st) s x :=
  ends_of_next rfl (by subst hx; simp only [h])

theorem ends_eventRetry {m : Fin 8} {y : State} (hx : x = s.advance t) (h : eventRetry x m.val = y) : Ends (.eventRetry t m) s y :=
  ends_of_act (fun s => eventRetry s m.val) rfl hx h

theorem eventRetry_of_none (h : tget? x.mbx.subs n = none) : eventRetry x n = x := by rw [eventRetry, h]

section Again

variable {last k d : Nat} (h : tget? x.mbx.subs n = some u) (ho : u.open_ = some (last, k)) (hd : u.retryAt = some d)
include h ho hd

theorem eventRetry_early (hlt : x.clk.up < d) : eventRetry x n = x := by
  simp only [eventRetry, h, ho, hd, if_pos hlt]

/-- Records of the open message that the log still holds. -/
def heldAgain (x : State) (u : Subscriber) (last : Nat) : List Event :=
  x.mbx.log.filter (fun e => seqFrom e.seq u.next && seqFrom last e.seq && u.mask.getLsbD (e.code / 256))

theorem eventRetry_lost (hle : d ≤ x.clk.up) (ha : heldAgain x u last = []) :
    eventRetry x n = { x with mbx.subs := tset x.mbx.subs n { u with open_ := none, retryAt := none } } := by
  simp only [eventRetry, h, ho, hd, if_neg (Nat.not_lt.2 hle)]
  exact if_pos ha

theorem eventRetry_again (hle : d ≤ x.clk.up) (ha : heldAgain x u last ≠ []) : eventRetry x n =
    let y := submit x (mailboxMsg x u.eid.toNat u.gen.toNat u.ip.toNat u.mac.toNat u.lp.val
      (recordBytes u.gap (heldAgain x u last)) (.event n))
    { y.1 with mbx.subs := tset y.1.mbx.subs n { u with open_ := some (last, y.2), retryAt := none } } := by
  simp only [eventRetry, h, ho, hd, if_neg (Nat.not_lt.2 hle)]
  exact if_neg ha

end Again

end Background

/-- Settles O56: each row's condition, and what it does where the condition holds. -/
theorem clerkBackground : Obligations.ClerkBackground := by
  unfold Obligations.ClerkBackground
  intro t s x hx
  refine ⟨ends_stagingExpiry_none hx, fun g h => ⟨ends_of_pos (ends_stagingExpiry hx h),
    fun hlt => ends_of_neg (ends_stagingExpiry hx h) (Nat.not_le.2 hlt)⟩, fun h ok => ends_cfgStoreDone_idle hx h,
    fun a tr h hp => ⟨ends_cfgStoreDone (ok := true) hx h hp, ends_cfgStoreDone (ok := false) hx h hp⟩,
    ⟨fun h => ends_of_pos (ends_tallyInterval hx) (tallyDue_iff.2 h),
      fun h => ends_of_neg (ends_tallyInterval hx) (mt tallyDue_iff.1 h)⟩, fun n st => ⟨fun u e k h ho => ends_eventMessageDone hx h ho,
      fun h => ⟨ends_eventMessageDone_none hx h, ends_eventRetry hx (eventRetry_of_none h)⟩, fun u last k d h ho hd => ?retry⟩⟩
  case retry =>
    exact ⟨fun hlt => ends_eventRetry hx (eventRetry_early h ho hd hlt), fun hle ha => ends_eventRetry hx (eventRetry_again h ho hd hle ha),
      fun hle ha => ends_eventRetry hx (eventRetry_lost h ho hd hle ha)⟩

end Sys2Proof.Machine

/-! Proofs of the statement on the configuration commands (R344 to R348, R350, R351). -/

namespace Sys2Proof.Machine

/-! ### The configuration through counting, sending and measuring (R312, R357, R359) -/

section CfgFrame

variable {s z w : State}

namespace LogsOnly

theorem cfg (h : LogsOnly s z) : z.cfg = s.cfg := by rw [h.eq]

end LogsOnly

theorem countEnq_cfg (s : State) (q : Nat) (f : Frame) : (countEnq s q f).cfg = s.cfg :=
  (countStat_logsOnly _ _ _).cfg.trans (countStat_logsOnly s _ _).cfg

theorem refuseFrame_cfg (s : State) (lp q : Nat) : (refuseFrame s lp q).cfg = s.cfg :=
  (countErr_cfg _ _).trans (countErr_cfg s _)

theorem enqueueExpress_cfg (s : State) (lp q : Nat) (f : Frame) : (enqueueExpress s lp q f).cfg = s.cfg := by
  unfold enqueueExpress
  split
  · exact countEnq_cfg _ _ _
  · exact countErr_cfg _ _

theorem enqueue_cfg (s : State) (f : Frame) : (enqueue s f).cfg = s.cfg := by
  unfold enqueue
  split
  · exact countErr_cfg _ _
  · dsimp only
    split
    · exact refuseFrame_cfg ..
    · split
      · exact enqueueExpress_cfg ..
      · split
        · exact countEnq_cfg _ _ _
        · exact refuseFrame_cfg ..

theorem emit_cfg (s : State) (lp qset cls : Nat) (bytes : Bytes) : (emit s lp qset cls bytes).cfg = s.cfg := by
  unfold emit
  split
  · rfl
  · exact enqueue_cfg _ _

theorem sendPkt_cfg (s : State) (lp qset cls mac ip sport dst : Nat) (pkt : Bytes) :
    (sendPkt s lp qset cls mac ip sport dst pkt).cfg = s.cfg := by
  unfold sendPkt
  split
  · rfl
  · exact emit_cfg ..

/-- A fold of steps that keep the configuration keeps it. -/
theorem foldl_cfg {α : Type} (f : State → α → State) (hf : ∀ s a, (f s a).cfg = s.cfg) (l : List α) (s : State) :
    (l.foldl f s).cfg = s.cfg := by
  induction l generalizing s with
  | nil => rfl
  | cons a l ih => exact (ih (f s a)).trans (hf s a)

theorem sendTally_cfg (s : State) : (sendTally s).cfg = s.cfg :=
  foldl_cfg _ (fun _ _ => sendPkt_cfg ..) _ _

theorem extendMr_cfg (s : State) (i : Nat) (d : Bytes) : (extendMr s i d).cfg = s.cfg := by
  unfold extendMr
  dsimp only
  split <;> rfl

/-- What a commit leaves of the configuration's own record (R347). -/
theorem commitAt_cfg (o : State) (recs : Tab Bytes) (zero : List Nat) (n : Nat) (d : Bytes) :
    ∃ y : State, (commitAt o recs zero n d).cfg =
      { y.cfg with state := .committed, counter := n, time := time80 y.ns, digest := d, stored := false } := by
  refine ⟨takeRecs o recs zero, ?_⟩
  unfold commitAt
  exact (sendTally_cfg _).trans ((raise_logsOnly _ _ _ _).cfg.trans ((countStat_logsOnly _ _ _).cfg.trans (extendMr_cfg _ _ _)))

end CfgFrame

/-! ### Staging (R344, R345) -/

section Staging

variable {x : State} {r : Req} {g : Staging} {l : List (Nat × Bytes)} {v : Tab Bytes} {n id : Nat}

/-- The open staging with its last command now. -/
def keptStaging (x : State) (g : Staging) : State := { x with cfg.staging := some { g with at_ := x.clk.up } }

theorem touchStaging_eq (hg : x.cfg.staging = some g) : touchStaging x = keptStaging x g := by
  rw [touchStaging, hg]; rfl

theorem counterNow_keptStaging : counterNow (keptStaging x g) = counterNow x := rfl

theorem stagingOf_same (hg : x.cfg.staging = some g) (h : id = g.id) : stagingOf x id = some g := by
  rw [stagingOf, hg]; exact if_pos h.symm

theorem stagingOf_other (hg : x.cfg.staging = some g) (h : id ≠ g.id) : stagingOf x id = none := by
  rw [stagingOf, hg]; exact if_neg (Ne.symm h)

theorem bodyIs_eq (h : r.body.length = n) : bodyIs r n = true := beq_iff_eq.2 h

theorem not_bodyIs (h : r.body.length ≠ n) : bodyIs r n = false := beq_eq_false_iff_ne.2 h

/-- What CFG_OPEN opens under the drawn STAGING_ID. -/
def openedStaging (x : State) (r : Req) : Staging :=
  { id := (x.drawNz (2 ^ 32)).1, base := counterNow x
    recs := if num r 0 = 0 ∧ x.cfg.state = .committed then x.cfg.recs else [], at_ := x.clk.up }

theorem cfgOpenCmd_misSized (hb : r.body.length ≠ 16) : cfgOpenCmd x r = { st := x, status := mbxInvalid } := by
  simp only [cfgOpenCmd, not_bodyIs hb, Bool.not_false, if_true]; rfl

theorem cfgOpenCmd_of_ranges (hb : r.body.length = 16) (h0 : num r 0 < 2) (h1 : num r 1 < 2) : cfgOpenCmd x r =
    if x.cfg.staging.isSome ∧ num r 1 = 0 then { st := x, status := mbxBusy }
    else { st := { (x.drawNz (2 ^ 32)).2 with cfg.staging := some (openedStaging x r) }
           out := encN (x.drawNz (2 ^ 32)).1 ++ encN (counterNow x) } := by
  simp only [cfgOpenCmd, bodyIs_eq hb, Bool.not_true, Bool.false_eq_true, if_false, if_neg (Nat.not_le.2 h0), if_neg (Nat.not_le.2 h1),
    State.committed, beq_iff_eq]
  rfl

theorem drawNz_fst (x : State) {b : Nat} (hb : 1 < b) : (x.drawNz b).1 ≠ 0 ∧ (x.drawNz b).1 < b := by
  have h := Nat.mod_lt (Config.freeValue x.free) (Nat.sub_pos_of_lt hb)
  simp only [State.drawNz]
  omega

section Written

variable (hg : x.cfg.staging = some g) (hb : 8 ≤ r.body.length)
include hg hb

theorem cfgWriteCmd_other (hid : leAt r.body 0 4 ≠ g.id) : cfgWriteCmd x r = { st := x, status := mbxState, arg := 1 } := by
  simp only [cfgWriteCmd, if_neg (Nat.not_lt.2 hb), stagingOf_other hg hid]; rfl

variable (hid : leAt r.body 0 4 = g.id) (hz : zeroAt r.body 4 4 = true)
include hid hz

theorem cfgWriteCmd_unread (h : readAll (r.body.drop 8) = .inr n) :
    cfgWriteCmd x r = { st := keptStaging x g, status := mbxInvalid, arg := n } := by
  simp only [cfgWriteCmd, if_neg (Nat.not_lt.2 hb), stagingOf_same hg hid, touchStaging_eq hg, hz, h, Bool.not_true, Bool.false_eq_true,
    if_false]
  rfl

theorem cfgWriteCmd_refused (h : readAll (r.body.drop 8) = .inl l) (hp : putRecs (keptStaging x g) 1 g.recs l = .inr n) :
    cfgWriteCmd x r = { st := keptStaging x g, status := mbxInvalid, arg := n } := by
  simp only [cfgWriteCmd, if_neg (Nat.not_lt.2 hb), stagingOf_same hg hid, touchStaging_eq hg, hz, h, hp, Bool.not_true,
    Bool.false_eq_true, if_false]
  rfl

theorem cfgWriteCmd_written (h : readAll (r.body.drop 8) = .inl l) (hp : putRecs (keptStaging x g) 1 g.recs l = .inl v) :
    cfgWriteCmd x r = { st := { x with cfg.staging := some { g with recs := v, at_ := x.clk.up } } } := by
  simp only [cfgWriteCmd, if_neg (Nat.not_lt.2 hb), stagingOf_same hg hid, touchStaging_eq hg, hz, h, hp, Bool.not_true,
    Bool.false_eq_true, if_false]
  rfl

end Written

theorem cfgReadCmd_staged (hg : x.cfg.staging = some g) (hb : r.body.length = 16) (h0 : num r 0 = 1) (h1 : num r 1 = g.id) :
    cfgReadCmd x r = { st := keptStaging x g, out := recsBytes g.recs } := by
  simp only [cfgReadCmd, bodyIs_eq hb, h0, stagingOf_same hg h1, touchStaging_eq hg]
  rfl

theorem cfgReadCmd_in_force (hb : r.body.length = 16) (h0 : num r 0 = 0) : cfgReadCmd x r =
    if num r 1 = 0 then { st := x, out := recsBytes x.cfg.recs } else { st := x, status := mbxState, arg := 2 } := by
  simp only [cfgReadCmd, bodyIs_eq hb, h0]
  rfl

theorem cfgDiscardCmd_same (hg : x.cfg.staging = some g) (hb : r.body.length = 8) (h : num r 0 = g.id) :
    cfgDiscardCmd x r = { st := { x with cfg.staging := none } } := by
  simp only [cfgDiscardCmd, bodyIs_eq hb, stagingOf_same hg h]
  rfl

theorem cfgDiscardCmd_other (hg : x.cfg.staging = some g) (hb : r.body.length = 8) (h : num r 0 ≠ g.id) :
    cfgDiscardCmd x r = { st := x, status := mbxState, arg := 1 } := by
  simp only [cfgDiscardCmd, bodyIs_eq hb, stagingOf_other hg h]
  rfl

theorem cfgStatusCmd_of_empty (hb : r.body = []) :
    cfgStatusCmd x r = { st := x, out := encN x.cfgStatus ++ encN (counterNow x) ++ digestNow x } := by
  simp only [cfgStatusCmd, bodyIs_zero hb, if_true]
  rfl

end Staging

/-! ### Commit and recall (R346, R347, R351) -/

section Commit

variable {x y : State} {r : Req} {g : Staging} {zero : List Nat} {f : CfgFail} {recs : Tab Bytes} {a n : Nat} {sig : Bool}

section Tokens

variable (hg : x.cfg.staging = some g) (hb : 16 ≤ r.body.length) (hp : x.phase = .running) (hid : num r 0 = g.id) (h1 : num r 1 < 2)
  (hz : tokenZeros (r.body.length + 1) (r.body.drop 16) [] = some zero)
include hg hb hp hid h1 hz

theorem cfgCommitCmd_of_other_base (h : g.base ≠ counterNow x) : cfgCommitCmd x r =
    { st := countErr (keptStaging x g) (clerkBase + 0x40), status := mbxState, out := commitBody (keptStaging x g) none } := by
  simp only [cfgCommitCmd, if_neg (Nat.not_lt.2 hb), hp, ne_eq, not_true, if_false, stagingOf_same hg hid, touchStaging_eq hg,
    if_neg (Nat.not_le.2 h1), hz, counterNow_keptStaging, h, not_false_eq_true, if_true, commitFails]

theorem cfgCommitCmd_invalid (h : g.base = counterNow x) (hv : validate (keptStaging x g) g.recs = some f) : cfgCommitCmd x r =
    { st := countErr (keptStaging x g) (clerkBase + 0x40), status := f.status, detail := f.detail
      out := commitBody (keptStaging x g) f.key } := by
  simp only [cfgCommitCmd, if_neg (Nat.not_lt.2 hb), hp, ne_eq, not_true, if_false, stagingOf_same hg hid, touchStaging_eq hg,
    if_neg (Nat.not_le.2 h1), hz, counterNow_keptStaging, h, hv, commitFails]

theorem cfgCommitCmd_valid (h : g.base = counterNow x) (hv : validate (keptStaging x g) g.recs = none) : cfgCommitCmd x r =
    (let y := commitAt (keptStaging x g) g.recs zero (counterNow x + 1) (Crypto.shake256 (tallyEncoding (keptStaging x g) g.recs))
     let z := storeCommit { y with cfg.staging := none } (num r 1 == 1)
     { st := z, out := commitBody z none }) := by
  simp only [cfgCommitCmd, if_neg (Nat.not_lt.2 hb), hp, ne_eq, not_true, if_false, stagingOf_same hg hid, touchStaging_eq hg,
    if_neg (Nat.not_le.2 h1), hz, counterNow_keptStaging, h, hv, gives]

end Tokens

section Recall

variable (hb : r.body = []) (hp : x.phase = .running)
include hb hp

theorem cfgRecallCmd_of_none (h : latestArea x (holdsRecord x) = none) : cfgRecallCmd sig x r =
    { st := countErr x (clerkBase + 0x40), status := mbxState, out := commitBody x none } := by
  simp only [cfgRecallCmd, bodyIs_zero hb, Bool.not_true, Bool.false_eq_true, if_false, hp, ne_eq, not_true, h, commitFails]

variable (ha : latestArea x (holdsRecord x) = some a) (hh : holdsRecord x (1 - a) = true)
include ha hh

theorem cfgRecallCmd_failed {o : Option CfgFail} (hc : checkRecord x (1 - a) sig = (y, .inr (n, o))) (h5 : n ≠ 5) :
    cfgRecallCmd sig x r =
      { st := countErr y (clerkBase + 0x40), status := mbxVerify, detail := (o.map CfgFail.detail).getD 0, arg := n
        out := commitBody y (o.bind CfgFail.key) } := by
  simp only [cfgRecallCmd, bodyIs_zero hb, Bool.not_true, Bool.false_eq_true, if_false, hp, ne_eq, not_true, ha, hh, hc, if_neg h5,
    commitFails]

theorem cfgRecallCmd_recalled (hc : checkRecord x (1 - a) sig = (y, .inl recs)) : cfgRecallCmd sig x r =
    (let z := beginStore (commitAt y recs [] (largerCounter x + 1) ((readArea x (1 - a)).trailer.take 32)) a
     { st := z, out := commitBody z none }) := by
  simp only [cfgRecallCmd, bodyIs_zero hb, Bool.not_true, Bool.false_eq_true, if_false, hp, ne_eq, not_true, ha, hh, hc, gives]

end Recall

theorem counterNow_of_empty (h : x.cfg.state = .empty) : counterNow x = 0 := by rw [counterNow, h]

theorem digestNow_of_not_committed (h : x.cfg.state ≠ .committed) : digestNow x = List.replicate 32 0 := by
  rw [digestNow, State.committed, beq_eq_false_iff_ne.2 h]; rfl

end Commit

/-- Settles O57: each command's equation under its conditions, and the configuration's record followed through a commit. -/
theorem configCommands : Obligations.ConfigCommands := by
  unfold Obligations.ConfigCommands
  refine ⟨fun t s x r slot => ⟨fun ht hb h0 h1 => ?opened, fun ht hb => answers_of_result rfl ht (cfgOpenCmd_misSized hb),
    fun g hg => ⟨fun ht hb hid hz => ⟨fun l v h hp => answers_of_result rfl ht (cfgWriteCmd_written hg hb hid hz h hp),
        fun n h => answers_of_result rfl ht (cfgWriteCmd_unread hg hb hid hz h),
        fun l n h hp => answers_of_result rfl ht (cfgWriteCmd_refused hg hb hid hz h hp)⟩,
      fun ht hb hid => answers_of_result rfl ht (cfgWriteCmd_other hg hb hid),
      fun ht hb h0 h1 => answers_of_result rfl ht (cfgReadCmd_staged hg hb h0 h1),
      fun ht hb => ⟨fun h => answers_of_result rfl ht (cfgDiscardCmd_same hg hb h),
        fun h => answers_of_result rfl ht (cfgDiscardCmd_other hg hb h)⟩,
      fun zero ht hb hp hid h1 hz => ⟨fun h => answers_of_result rfl ht (cfgCommitCmd_of_other_base hg hb hp hid h1 hz h),
        fun f h hv => answers_of_result rfl ht (cfgCommitCmd_invalid hg hb hp hid h1 hz h hv),
        fun h hv => ?committedNow⟩⟩,
    fun ht hb h0 => answers_of_ite rfl ht (cfgReadCmd_in_force hb h0), fun ht hb => answers_of_result rfl ht (cfgStatusCmd_of_empty hb),
    fun sig ht hb hp => ⟨fun h => answers_of_result rfl ht (cfgRecallCmd_of_none hb hp h), fun a ha hh =>
      ⟨fun y n f hc h5 => answers_of_result rfl ht (cfgRecallCmd_failed hb hp ha hh hc h5),
        fun y recs hc => answers_of_result rfl ht (cfgRecallCmd_recalled hb hp ha hh hc)⟩⟩⟩,
    fun o recs zero n d => ?committed, fun s => ⟨counterNow_of_empty, digestNow_of_not_committed⟩⟩
  case opened =>
    have h := cfgOpenCmd_of_ranges (x := x) hb h0 h1
    refine ⟨fun hs hf => answers_of_result rfl ht (h.trans (if_pos ⟨Option.isSome_iff_ne_none.2 hs, hf⟩)), fun hs => ?_⟩
    have hfree : ¬ (x.cfg.staging.isSome ∧ num r 1 = 0) := by
      rintro ⟨hsome, hf⟩
      exact hs.elim (Option.isSome_iff_ne_none.1 hsome) (fun h1 => absurd (hf.symm.trans h1) (by decide))
    obtain ⟨hne, hlt⟩ := drawNz_fst x (b := 2 ^ 32) (by decide)
    exact ⟨(x.drawNz (2 ^ 32)).1, (x.drawNz (2 ^ 32)).2, openedStaging x r, hne, hlt, rfl, rfl,
      answers_of_result rfl ht (h.trans (if_neg hfree))⟩
  case committedNow =>
    have hc := cfgCommitCmd_valid hg hb hp hid h1 hz h hv
    unfold keptStaging at hc
    exact answers_of_result rfl ht hc
  case committed =>
    obtain ⟨y, hy⟩ := commitAt_cfg o recs zero n d
    dsimp only
    rw [hy]
    exact ⟨rfl, rfl, rfl, rfl⟩

end Sys2Proof.Machine

/-! Proofs of the statements on the announcement, device and event commands and on the controlled commands (R341, R358, R361, R362,
R384, R413). -/

namespace Sys2Proof.Machine

/-! ### The bound of a number in a body (R4) -/

theorem ofLe_lt_pow (l : Bytes) : ofLe l < 256 ^ l.length := by
  induction l with
  | nil => decide
  | cons b l ih =>
    have hb := b.isLt
    rw [ofLe, List.length_cons, Nat.pow_succ]
    omega

theorem length_slice (b : Bytes) (off n : Nat) : (slice b off n).length = n := by
  simp only [slice, List.length_append, List.length_replicate, List.length_take]
  omega

theorem leAt_lt_pow (b : Bytes) (off n : Nat) : leAt b off n < 256 ^ n := by
  have h := ofLe_lt_pow (slice b off n)
  rwa [length_slice] at h

theorem num_lt (r : Req) (i : Nat) : num r i < 2 ^ 64 := leAt_lt_pow r.body (8 * i) 8

/-! ### The order of records (R359, R361) -/

section Order

variable {a b : Nat}

theorem serialDist_of_lt (hb : b < 2 ^ 64) : serialDist 64 a b = (a + 2 ^ 64 - b) % 2 ^ 64 := by
  unfold serialDist
  omega

theorem seqFrom_eq (hb : b < 2 ^ 64) : seqFrom a b = decide ((a + 2 ^ 64 - b) % 2 ^ 64 < 2 ^ 63) := by
  rw [← serialDist_of_lt hb, Bool.eq_iff_iff, seqFrom, Bool.not_eq_true', ← Bool.not_eq_true, serialEarlier_iff, ne_eq,
    serialLater_iff, decide_eq_true_eq]
  omega

theorem serialLater_64_iff (ha : a < 2 ^ 64) (hb : b < 2 ^ 64) :
    serialLater 64 a b = true ↔ a ≠ b ∧ (a + 2 ^ 64 - b) % 2 ^ 64 < 2 ^ 63 := by
  rw [serialLater_iff, ← serialDist_of_lt hb, ne_eq, ← serialDist_eq_zero_iff ha hb]
  omega

end Order

/-! ### The device and its peers (R341, R358, R413) -/

section Device

variable {t : Nat} {s x : State} {r : Req} {slot : Option Nat}

theorem devInfoCmd_of_empty (hb : r.body = []) : devInfoCmd x r =
    { st := x, out := beBytes 8 x.fuses.serial.toNat ++ encN 0x0302 ++ encN 0xB0 ++ leBytes 4 Config.firmwareVersion.toNat
        ++ encN (mailboxEid x) ++ encN x.mbx.gen.toNat ++ beBytes 6 x.fuses.mac.toNat ++ encN x.cfgStatus ++ encN (slotNumber x) } :=
  if_pos (bodyIs_zero hb)

theorem tallyPeersCmd_of_empty (hb : r.body = []) : tallyPeersCmd x r =
    { st := x, out := x.mbx.tally.flatMap (fun p => beBytes 8 p.1 ++ encN p.2.counter ++ padTo 32 p.2.digest ++ leBytes 10 p.2.time
        ++ beBytes 16 p.2.ip.toNat ++ leBytes 10 p.2.heardTime) } := if_pos (bodyIs_zero hb)

/-- A command taken up, with what follows its answer. -/
theorem serveCmd_of_takes {code : Nat} {h : State → Req → Res} {after : State → Option Nat → State} (ht : Takes t s r code x slot) :
    serveCmd r code h after (s.advance t) =
      (let y := answer r { h x r with st := countStat (h x r).st (clerkBase + 0x100) 1 }
       after (freeMbxSlot y.1 slot) y.2) := by
  obtain ⟨hs, hc, h0, hl, hq⟩ := ht
  simp [serveCmd, hs, hc, h0, hl, hq]

/-- DEV_RESET answers first; the reset waits for its response. -/
theorem ends_devReset (ht : Takes t s r 0x0104 x slot) (hb : r.body = []) :
    let a := answer r { st := countStat x (clerkBase + 0x100) 1 }
    let y := freeMbxSlot a.1 slot
    Ends (.devReset t r) s { y with clk.resetPend := some (a.2, y.clk.up + 100000000) } :=
  ends_of_next rfl ((serveCmd_of_takes ht).trans (by simp only [bodyIs_zero hb, if_true]; rfl))

end Device

/-! ### Subscribers and records (R361, R362) -/

section Events

variable {x : State} {r : Req} {n : Nat}

/-- The subscriber that the body of EVT_SUBSCRIBE names. -/
def subscriberOf (x : State) (r : Req) : Subscriber :=
  { ip := BitVec.ofNat 128 (beAt r.body 0 16), eid := BitVec.ofNat 32 (leAt r.body 16 8), gen := BitVec.ofNat 16 (leAt r.body 24 8)
    lp := Fin.ofNat 16 (leAt r.body 32 8), mac := BitVec.ofNat 48 (beAt r.body 40 6), mask := BitVec.ofNat 32 (leAt r.body 46 8)
    next := x.mbx.nextSeq }

theorem lt_of_lpPresent {lp : Nat} (h : x.lpPresent lp = true) : lp < 16 :=
  of_decide_eq_true (Bool.and_eq_true_iff.1 h).1

theorem subscriberOf_fields (he : leAt r.body 16 8 < 2 ^ 32) (hg : leAt r.body 24 8 < 65536) (hl : x.lpPresent (leAt r.body 32 8) = true)
    (hm : leAt r.body 46 8 < 2 ^ 32) :
    (subscriberOf x r).ip.toNat = beAt r.body 0 16 % 2 ^ 128 ∧ (subscriberOf x r).eid.toNat = leAt r.body 16 8
      ∧ (subscriberOf x r).gen.toNat = leAt r.body 24 8 ∧ (subscriberOf x r).lp.val = leAt r.body 32 8
      ∧ (subscriberOf x r).mask.toNat = leAt r.body 46 8 ∧ (subscriberOf x r).mac.toNat = beAt r.body 40 6 % 2 ^ 48 :=
  ⟨BitVec.toNat_ofNat .., Nat.mod_eq_of_lt he, Nat.mod_eq_of_lt hg, Nat.mod_eq_of_lt (lt_of_lpPresent hl), Nat.mod_eq_of_lt hm,
    BitVec.toNat_ofNat ..⟩

section Subscribe

variable (hb : r.body.length = 54) (he : leAt r.body 16 8 < 2 ^ 32) (hg : leAt r.body 24 8 < 65536)
  (hl : x.lpPresent (leAt r.body 32 8) = true) (hm : leAt r.body 46 8 < 2 ^ 32)
include hb he hg hl hm

theorem evtSubscribeCmd_full (h : ∀ n < 8, tget? x.mbx.subs n ≠ none) : evtSubscribeCmd x r = { st := x, status := mbxNospace } := by
  have hf : (List.range 8).find? (fun n => (tget? x.mbx.subs n).isNone) = none :=
    List.find?_eq_none.2 fun n hn => by simpa using h n (List.mem_range.1 hn)
  simp only [evtSubscribeCmd, if_neg (not_misSized hb), if_neg (Nat.not_le.2 he), if_neg (Nat.not_le.2 hg), hl, Bool.not_true,
    Bool.false_eq_true, if_false, if_neg (Nat.not_le.2 hm), hf]
  rfl

theorem evtSubscribeCmd_free (h8 : n < 8) (h : tget? x.mbx.subs n = none) (hlt : ∀ k < n, tget? x.mbx.subs k ≠ none) :
    evtSubscribeCmd x r = { st := { x with mbx.subs := tset x.mbx.subs n (subscriberOf x r) }, out := encN n ++ encN x.mbx.nextSeq } := by
  have hf : (List.range 8).find? (fun n => (tget? x.mbx.subs n).isNone) = some n :=
    List.find?_range_eq_some.2 ⟨by rw [h]; rfl, List.mem_range.2 h8, fun k hk => by simpa using Option.isSome_iff_ne_none.2 (hlt k hk)⟩
  simp only [evtSubscribeCmd, if_neg (not_misSized hb), if_neg (Nat.not_le.2 he), if_neg (Nat.not_le.2 hg), hl, Bool.not_true,
    Bool.false_eq_true, if_false, if_neg (Nat.not_le.2 hm), hf]
  rfl

end Subscribe

theorem evtUnsubscribeCmd_held (hb : r.body.length = 8) (h : tget? x.mbx.subs (num r 0) ≠ none) :
    evtUnsubscribeCmd x r = { st := { x with mbx.subs := tdel x.mbx.subs (num r 0) } } :=
  (if_neg (not_misSized hb)).trans (if_pos (Option.isSome_iff_ne_none.2 h))

theorem evtUnsubscribeCmd_free (hb : r.body.length = 8) (h : tget? x.mbx.subs (num r 0) = none) :
    evtUnsubscribeCmd x r = { st := x, status := mbxInvalid, arg := 1 } :=
  (if_neg (not_misSized hb)).trans (if_neg (by rw [h]; exact Bool.false_ne_true))

/-- Up to 42 records of the log from SEQ `a` on. -/
def recordsFrom (x : State) (a : Nat) : List Event :=
  (x.mbx.log.filter (fun e => decide ((e.seq + 2 ^ 64 - a) % 2 ^ 64 < 2 ^ 63))).take 42

/-- The log's first record is later than SEQ `a`. -/
def gapBefore (x : State) (a : Nat) : Bool :=
  match x.mbx.log with
  | e :: _ => serialLater 64 e.seq a
  | [] => false

theorem evtReadCmd_of_seq (hb : r.body.length = 8) :
    evtReadCmd x r = { st := x, out := recordBytes (gapBefore x (num r 0)) (recordsFrom x (num r 0)) } := by
  have hf : (fun e : Event => seqFrom e.seq (num r 0)) = fun e => decide ((e.seq + 2 ^ 64 - num r 0) % 2 ^ 64 < 2 ^ 63) :=
    funext fun e => seqFrom_eq (num_lt r 0)
  rw [evtReadCmd, if_neg (not_misSized hb), hf]
  rfl

theorem gapBefore_of_gap {a : Nat} {e : Event} {rest : List Event} (ha : a < 2 ^ 64) (hl : x.mbx.log = e :: rest) (he : e.seq < 2 ^ 64)
    (hg : e.seq ≠ a ∧ (e.seq + 2 ^ 64 - a) % 2 ^ 64 < 2 ^ 63) : gapBefore x a = true := by
  rw [gapBefore, hl]
  exact (serialLater_64_iff he ha).2 hg

theorem gapBefore_of_no_gap {a : Nat} (ha : a < 2 ^ 64) (h : ∀ e rest, x.mbx.log = e :: rest → e.seq < 2 ^ 64
    ∧ ¬ (e.seq ≠ a ∧ (e.seq + 2 ^ 64 - a) % 2 ^ 64 < 2 ^ 63)) : gapBefore x a = false := by
  cases hl : x.mbx.log with
  | nil => rw [gapBefore, hl]
  | cons e rest =>
    obtain ⟨he, hn⟩ := h e rest hl
    rw [gapBefore, hl]
    exact eq_false_of_ne_true (mt (serialLater_64_iff he ha).1 hn)

end Events

/-- Settles O58: each command's equation; the order of SEQs is R12's distance. -/
theorem eventCommands : Obligations.EventCommands := by
  unfold Obligations.EventCommands
  intro t s x r slot
  refine ⟨fun ht hb => answers_of_result rfl ht (devInfoCmd_of_empty hb), ends_devReset,
    fun ht hb => answers_of_result rfl ht (tallyPeersCmd_of_empty hb), fun ht hb => ?subscribe,
    fun ht hb => ⟨fun h => answers_of_result rfl ht (evtUnsubscribeCmd_held hb h),
      fun h => answers_of_result rfl ht (evtUnsubscribeCmd_free hb h)⟩, fun ht hb => ?read⟩
  case subscribe =>
    intro eid gen lp mask he hg hl hm
    refine ⟨fun h => answers_of_result rfl ht (evtSubscribeCmd_full hb he hg hl hm h), fun n h8 h hlt => ?_⟩
    obtain ⟨hip, heid, hgen, hlp, hmask, hmac⟩ := subscriberOf_fields he hg hl hm
    exact ⟨subscriberOf x r, hip, heid, hgen, hlp, hmask, hmac, rfl, rfl, rfl,
      answers_of_result rfl ht (evtSubscribeCmd_free hb he hg hl hm h8 h hlt)⟩
  case read =>
    have h := evtReadCmd_of_seq (x := x) hb
    refine ⟨fun e rest hl he hg => answers_of_result rfl ht ?_, fun hno => answers_of_result rfl ht ?_⟩
    · rw [h, gapBefore_of_gap (num_lt r 0) hl he hg]; rfl
    · rw [h, gapBefore_of_no_gap (num_lt r 0) hno]; rfl

/-! ### Controlled commands (R384) -/

section Controlled

variable {sig : Bool} {h : State → Peer → Bytes → Res} {s : State} {r : Req}

theorem controlled_unowned (ho : anyOwner s = false) :
    controlled sig h s r = if r.peer.via = .sideband then h s r.peer r.body else { st := s, status := mbxAuth } := by
  rw [controlled, ho]; rfl

theorem controlled_short (ho : anyOwner s = true) (hl : r.body.length < 3325) : controlled sig h s r = { st := s, status := mbxAuth } := by
  rw [controlled, ho]; exact if_pos hl

/-- The checks of a trailer in order. -/
theorem controlled_of_trailer {n : Nat} {tr : Bytes} (hn : n = r.body.length - trailerLen) (htr : tr = r.body.drop n)
    (ho : anyOwner s = true) (hl : trailerLen ≤ r.body.length) (hz : zeroAt tr 1 7 = true) :
    controlled sig h s r =
      if !(decide (leAt tr 0 1 < 4) && ownerEnrolled s (leAt tr 0 1)) then { st := s, status := mbxVerify, detail := 0x0D02 }
      else if !sig then { st := s, status := mbxVerify, detail := 0x0D03 }
      else if leAt tr 8 8 ≠ controlCount s then { st := s, status := mbxState, detail := 0x0D09 }
      else h s r.peer (r.body.take n) := by
  subst htr
  rw [controlled, ho, Bool.not_true, if_neg Bool.false_ne_true, if_neg (Nat.not_lt.2 hl), ← hn]
  dsimp only
  rw [hz, Bool.not_true, if_neg Bool.false_ne_true]
  rfl

end Controlled

/-- Settles O59: without owner keys by the transport; otherwise by the checks of the trailer in order. -/
theorem controlledCommands : Obligations.ControlledCommands := by
  unfold Obligations.ControlledCommands
  intro sig h s r n tr
  have hn : n = r.body.length - trailerLen := rfl
  have htr : tr = r.body.drop n := rfl
  clear_value tr n
  refine ⟨fun ho hv => (controlled_unowned ho).trans (if_pos hv), fun ho hv => (controlled_unowned ho).trans (if_neg (by rw [hv]; decide)),
    controlled_short, fun ho hl hz => ⟨fun hbad => ?_, fun h4 he => ?enrolled⟩⟩
  · refine (controlled_of_trailer hn htr ho hl hz).trans (if_pos ?_)
    rw [Bool.not_eq_true', Bool.and_eq_false_iff, decide_eq_false_iff_not, ← Bool.not_eq_true]
    exact not_and_or.1 hbad
  case enrolled =>
    have hgood : ¬ (!(decide (leAt tr 0 1 < 4) && ownerEnrolled s (leAt tr 0 1))) = true := by
      rw [decide_eq_true h4, he]; exact Bool.false_ne_true
    refine ⟨(controlled_of_trailer hn htr ho hl hz).trans (if_neg hgood), fun hs hc => ?_, fun hs hc => ?_⟩
    · subst hs
      exact (controlled_of_trailer hn htr ho hl hz).trans ((if_neg hgood).trans (if_pos hc))
    · subst hs
      exact (controlled_of_trailer hn htr ho hl hz).trans ((if_neg hgood).trans (if_neg (not_not.2 hc)))

end Sys2Proof.Machine

/-! Proofs of the statement on the commands of the secure start (R310, R374, R376, R379 to R383, R385, R391, R392). -/

namespace Sys2Proof.Machine

section Flash

variable {x : State} {ok : Bool}

theorem not_flashFails (ho : ok = true) (hc : x.inClockFail = false) : ¬ (!(ok && flashTakes x)) = true := by
  simp [flashTakes, ho, hc]

theorem flashFails_of (h : ok = false ∨ x.inClockFail = true) : (!(ok && flashTakes x)) = true := by
  rcases h with h | h <;> simp [flashTakes, h]

end Flash

/-! ### Slots (R374, R376, R391, R392) -/

section Slots

variable {x : State} {r : Req} {ok : Bool} {sigs : SlotSigs}

/-- The flag record that BOOT_STATUS shows. -/
def shownFlag (x : State) : Bytes :=
  match latestFlag x with
  | some f => flashRead x (32 * f.at_) 32
  | none => List.replicate 32 0

/-- The versions of a slot and its reason, as BOOT_STATUS shows them. -/
def shownSlot (x : State) (sl : Slot) (why : Nat) : Bytes :=
  encN (leAt (slotHeader x sl) 0xC 4) ++ encN (leAt (slotHeader x sl) 0x10 4) ++ encN why

/-- The vendor roots and which are revoked. -/
def shownRoots (x : State) : Bytes :=
  [0, 1, 2, 3].flatMap (fun k => padTo 32 (x.fuses.roots.getD k []) ++ encN (if x.fuses.revoked.getLsbD k then 1 else 0))

theorem bootStatusCmd_of_empty (hb : r.body = []) : bootStatusCmd x r =
    { st := x
      out := (encN (slotNo (x.boot.booted.getD .a)) ++ encN (slotNo (activeSlot x)) ++ encN (slotNo (targetSlot x)))
        ++ shownSlot x .a x.boot.reasonA ++ shownSlot x .b x.boot.reasonB ++ shownFlag x
        ++ (encN (bootMin x) ++ encN (patchMin x) ++ encN (ownerMin x) ++ encN x.fuses.count)
        ++ shownRoots x ++ (encN (leAt x.boot.owner 6 2) ++ encN (leAt x.boot.owner 8 4) ++ encN (controlCount x)) } := by
  have h : bootStatusCmd x r = gives x (encN (slotNo (x.boot.booted.getD .a)) ++ encN (slotNo (activeSlot x)) ++ encN (slotNo (targetSlot x))
      ++ shownSlot x .a x.boot.reasonA ++ shownSlot x .b x.boot.reasonB ++ shownFlag x ++ encN (bootMin x) ++ encN (patchMin x)
      ++ encN (ownerMin x) ++ encN x.fuses.count ++ shownRoots x ++ encN (leAt x.boot.owner 6 2) ++ encN (ownerPolicy x.boot.owner)
      ++ encN (controlCount x)) := by
    unfold shownFlag
    rw [bootStatusCmd, bodyIs_zero hb, Bool.not_true, if_neg Bool.false_ne_true]
    cases latestFlag x <;> rfl
  rw [h, gives]
  simp only [List.append_assoc, ownerPolicy]

theorem flagTrial_iff : flagTrial x = true ↔ ∃ f, latestFlag x = some f ∧ f.st ≠ 0 := by
  unfold flagTrial
  cases latestFlag x <;> simp

section Write

variable (h8 : 8 ≤ r.body.length) (hmax : r.body.length ≤ 1040392)
include h8

theorem fwWriteCmd_outside (h : 40 * 2 ^ 20 < num r 0 + (r.body.drop 8).length) :
    fwWriteCmd ok x r = { st := x, status := mbxInvalid, arg := 1 } :=
  (if_neg (Nat.not_lt.2 h8)).trans (if_pos h)

include hmax
variable (hin : num r 0 + (r.body.drop 8).length ≤ 40 * 2 ^ 20)
include hin

theorem fwWriteCmd_of_range : fwWriteCmd ok x r =
    if flagTrial x then { st := x, status := mbxState }
    else if !flashTakes x then { st := x, status := mbxState, detail := 0x0D0C }
    else
      let a := slotBase (targetSlot x)
      let s := { x with boot.verified := false }
      let s := if num r 0 = 0 then flashErase s a slotSize else s
      if ok then { st := flashWrite s (a + num r 0) (r.body.drop 8) }
      else { st := flashErase s (a + num r 0) (r.body.drop 8).length, status := mbxState, detail := 0x0D0C } := by
  have hlen : ¬ 1040384 < (r.body.drop 8).length := by rw [List.length_drop]; omega
  exact (if_neg (Nat.not_lt.2 h8)).trans ((if_neg (Nat.not_lt.2 hin)).trans (if_neg hlen))

theorem fwWriteCmd_in_trial (ht : flagTrial x = true) : fwWriteCmd ok x r = { st := x, status := mbxState } :=
  (fwWriteCmd_of_range h8 hmax hin).trans (if_pos ht)

variable (ht : flagTrial x = false)
include ht

theorem fwWriteCmd_in_clockFail (hc : x.inClockFail = true) :
    fwWriteCmd ok x r = { st := x, status := mbxState, detail := 0x0D0C } := by
  rw [fwWriteCmd_of_range h8 hmax hin, ht, flashTakes, hc]; rfl

variable (hc : x.inClockFail = false)
include hc

theorem fwWriteCmd_written (h0 : num r 0 ≠ 0) : fwWriteCmd true x r =
    { st := flashWrite { x with boot.verified := false } (slotBase (targetSlot x) + num r 0) (r.body.drop 8) } := by
  rw [fwWriteCmd_of_range h8 hmax hin, ht, flashTakes, hc]
  dsimp only
  rw [if_neg h0]
  rfl

theorem fwWriteCmd_first (h0 : num r 0 = 0) : fwWriteCmd true x r =
    { st := flashWrite (flashErase { x with boot.verified := false } (slotBase (targetSlot x)) (40 * 2 ^ 20))
        (slotBase (targetSlot x)) (r.body.drop 8) } := by
  rw [fwWriteCmd_of_range h8 hmax hin, ht, flashTakes, hc]
  dsimp only
  rw [if_pos h0, h0]
  rfl

theorem fwWriteCmd_failed (h0 : num r 0 ≠ 0) : fwWriteCmd false x r =
    { st := flashErase { x with boot.verified := false } (slotBase (targetSlot x) + num r 0) (r.body.drop 8).length
      status := mbxState, detail := 0x0D0C } := by
  rw [fwWriteCmd_of_range h8 hmax hin, ht, flashTakes, hc]
  dsimp only
  rw [if_neg h0]
  rfl

end Write

theorem fwVerifyCmd_of_empty (hb : r.body = []) : fwVerifyCmd sigs x r =
    { st := { setReason x (targetSlot x) (slotReason x (targetSlot x) sigs) with boot.verified := slotReason x (targetSlot x) sigs == 0 }
      out := encN (slotReason x (targetSlot x) sigs) } := if_pos (bodyIs_zero hb)

theorem fwConfirmCmd_no_trial (hb : r.body = []) (h : x.boot.trialEnd = none) : fwConfirmCmd ok x r = { st := x, status := mbxState } := by
  rw [fwConfirmCmd, bodyIs_zero hb, h]; rfl

theorem fwConfirmCmd_of_trial {e : Nat} {sl : Slot} {f : Flag} (hb : r.body = []) (he : x.boot.trialEnd = some e) (hs : x.boot.booted = some sl)
    (hf : latestFlag x = some f) : fwConfirmCmd ok x r =
      if !(ok && flashTakes x) then { st := x, status := mbxState, detail := 0x0D0C }
      else { st := { writeFlag x sl 0 f.confirm with boot.trialEnd := none } } := by
  rw [fwConfirmCmd, bodyIs_zero hb, he, hs, hf]; rfl

/-- Body and state of FW_ACTIVATE: the state asked for, and the minutes that a trial lasts. -/
theorem fwActivateBody_of_params {b : Bytes} {p : Peer} {m : Nat} (hb : b.length = 8 ∧ m = 10 ∨ b.length = 16 ∧ m = leAt b 8 8)
    (h0 : leAt b 0 8 < 2) (h1 : 1 ≤ m) (h60 : m ≤ 60) : fwActivateBody ok x p b =
      if !x.boot.verified then { st := x, status := mbxState, detail := 0x0D0A }
      else if x.boot.trialEnd.isSome then { st := x, status := mbxState }
      else if !(ok && flashTakes x) then { st := x, status := mbxState, detail := 0x0D0C }
      else { st := changeAr (writeFlag x (targetSlot x) (leAt b 0 8) m) id false } := by
  have hm : (if b.length = 8 then 10 else bnum b 1) = m := by
    rcases hb with ⟨hb, rfl⟩ | ⟨hb, rfl⟩
    · exact if_pos hb
    · exact if_neg (by omega)
  have hlen : ¬ (b.length ≠ 8 ∧ b.length ≠ 16) := by omega
  rw [fwActivateBody, hm]
  exact (if_neg hlen).trans ((if_neg (Nat.not_le.2 h0)).trans (if_neg (by omega)))

end Slots

/-! ### Minimum versions (R379) -/

section Minimum

variable {x : State} {b : Bytes} {p : Peer} {ok : Bool} (hb : b.length = 16) (h3 : leAt b 0 8 < 3)
include hb h3

theorem minverBody_outside (h : leAt b 8 8 ≤ (minLimits x (leAt b 0 8)).1 ∨ (minLimits x (leAt b 0 8)).2 < leAt b 8 8) :
    minverBody ok x p b = { st := x, status := mbxInvalid, arg := 2 } :=
  (if_neg (not_not.2 hb)).trans ((if_neg (Nat.not_le.2 h3)).trans (if_pos h))

theorem minverBody_inside (hlo : (minLimits x (leAt b 0 8)).1 < leAt b 8 8) (hhi : leAt b 8 8 ≤ (minLimits x (leAt b 0 8)).2) :
    minverBody ok x p b =
      if 256 ≤ x.fuses.count then { st := x, status := mbxNospace, detail := 0x0D08 }
      else if !(ok && flashTakes x) then { st := x, status := mbxState, detail := 0x0D0C }
      else { st := raise (changeAr x (fun a => patch a (8 + 4 * leAt b 0 8) (leBytes 4 (leAt b 8 8))) true) 0x0D03 0 [] } :=
  (if_neg (not_not.2 hb)).trans ((if_neg (Nat.not_le.2 h3)).trans
    (if_neg (not_or.2 ⟨Nat.not_le.2 hlo, Nat.not_lt.2 hhi⟩)))

end Minimum

/-! ### Revocation (R381) -/

section Revocation

variable {x : State} {b : Bytes} {p : Peer} {signed ok : Bool} {slotA slotB : SlotSigs} {k : Nat}

/-- The state with a root position revoked. -/
def revokedAt (x : State) (pos : Nat) : State := { x with fuses.revoked := x.fuses.revoked ||| (1#4 <<< pos) }

variable (hb : b.length = 5309) (hm : leAt b 0 4 = 0x4B564552) (hz : zeroAt b 5 3 = true) (hp : leAt b 4 1 < 4)
  (hk : rootAt x (Crypto.shake256 (slice b 0x30 1952)) = some k)
include hb hm hz hp hk

/-- A well-formed statement: the signer's position first. -/
theorem revokeBody_of_signer : revokeBody signed ok slotA slotB x p b =
    if !(k != leAt b 4 1 && !x.fuses.revoked.getLsbD k) then { st := x, status := mbxVerify, detail := 0x0D02 }
    else if slice b 0x10 32 ≠ x.fuses.roots.getD (leAt b 4 1) [] ∨ ¬ (zeroAt b 8 8 = true ∨ beAt b 8 8 = x.fuses.serial.toNat) then
      { st := x, status := mbxVerify }
    else if !signed then { st := x, status := mbxVerify, detail := 0x0D03 }
    else if x.fuses.revoked.getLsbD (leAt b 4 1) then { st := x, status := mbxState }
    else if slotReason (revokedAt x (leAt b 4 1)) .a slotA ≠ 0 ∧ slotReason (revokedAt x (leAt b 4 1)) .b slotB ≠ 0 then
      { st := x, status := mbxState, detail := 0x0D0B }
    else if !(ok && flashTakes x) then { st := x, status := mbxState, detail := 0x0D0C }
    else { st := raise (changeAr (revokedAt x (leAt b 4 1)) id false) 0x0D04 (leAt b 4 1) [] } := by
  have hformat : ¬ (b.length ≠ 0x7D0 + 3309 ∨ leAt b 0 4 ≠ 0x4B564552 ∨ (!zeroAt b 5 3) = true ∨ 4 ≤ leAt b 4 1) := by
    rw [hb, hm, hz]
    simpa using hp
  unfold revokeBody
  dsimp only
  rw [if_neg hformat, hk]
  rfl

theorem revokeBody_of_bad_signer (h : k = leAt b 4 1 ∨ x.fuses.revoked.getLsbD k = true) :
    revokeBody signed ok slotA slotB x p b = { st := x, status := mbxVerify, detail := 0x0D02 } :=
  (revokeBody_of_signer hb hm hz hp hk).trans (if_pos (by rcases h with h | h <;> simp [h]))

/-- A statement signed for a root of the part. -/
theorem revokeBody_of_signed (hne : k ≠ leAt b 4 1) (hr : x.fuses.revoked.getLsbD k = false)
    (hroot : slice b 0x10 32 = x.fuses.roots.getD (leAt b 4 1) []) (hs : zeroAt b 8 8 = true ∨ beAt b 8 8 = x.fuses.serial.toNat) :
    revokeBody true ok slotA slotB x p b =
      if x.fuses.revoked.getLsbD (leAt b 4 1) then { st := x, status := mbxState }
      else if slotReason (revokedAt x (leAt b 4 1)) .a slotA ≠ 0 ∧ slotReason (revokedAt x (leAt b 4 1)) .b slotB ≠ 0 then
        { st := x, status := mbxState, detail := 0x0D0B }
      else if !(ok && flashTakes x) then { st := x, status := mbxState, detail := 0x0D0C }
      else { st := raise (changeAr (revokedAt x (leAt b 4 1)) id false) 0x0D04 (leAt b 4 1) [] } :=
  (revokeBody_of_signer hb hm hz hp hk).trans ((if_neg (by rw [bne_iff_ne.2 hne, hr]; exact Bool.false_ne_true)).trans
    (if_neg (not_or.2 ⟨not_not.2 hroot, not_not.2 hs⟩)))

end Revocation

/-! ### Owners (R310, R382, R383, R385) -/

section Owners

variable {x : State} {b : Bytes} {p : Peer} {ok : Bool}

section OwnerKey

theorem not_fusesSpent (h : leAt b 8 8 = 0 ∨ x.fuses.count < 256) : ¬ (leAt b 8 8 = 1 ∧ 256 ≤ x.fuses.count) := by omega

variable (hpos : leAt b 0 8 < 4) (hburn : leAt b 8 8 < 2)
include hpos hburn

/-- OWNER_KEY of well-formed parameters; `key` is the public key to enrol, none for a removal. -/
theorem ownerKeyBody_of_params {key : Option Bytes}
    (hb : b.length = 16 ∧ key = none ∨ b.length = 16 + 1952 ∧ key = some (b.drop 16)) : ownerKeyBody ok x p b =
      if key.isSome == ownerEnrolled x (leAt b 0 8) then { st := x, status := mbxState }
      else if leAt b 8 8 = 1 ∧ 256 ≤ x.fuses.count then { st := x, status := mbxNospace, detail := 0x0D08 }
      else if !(ok && flashTakes x) then { st := x, status := mbxState, detail := 0x0D0C }
      else
        let o := ownerRecord x.boot.owner (leAt b 0 8) key
        let y := changeOwner x o id (leAt b 8 8 == 1)
        { st := raise (if leAt o 6 2 = 0 then { y with sec.slots := tdel y.sec.slots 3 } else y) 0x0D05 (leAt b 0 8) [] } := by
  have hkey : (if b.length = 16 then none else some (b.drop 16)) = key := by
    rcases hb with ⟨hb, rfl⟩ | ⟨hb, rfl⟩
    · exact if_pos hb
    · exact if_neg (by omega)
  have hlen : ¬ (b.length ≠ 16 ∧ b.length ≠ 16 + 1952) := by omega
  rw [ownerKeyBody, hkey]
  exact (if_neg hlen).trans ((if_neg (Nat.not_le.2 hpos)).trans (if_neg (Nat.not_le.2 hburn)))

end OwnerKey

theorem ownerPolicyBody_of_number (hb : b.length = 8) : ownerPolicyBody ok x p b =
    if 8 ≤ leAt b 0 8 then { st := x, status := mbxInvalid, arg := 1 }
    else if !(ok && flashTakes x) then { st := x, status := mbxState, detail := 0x0D0C }
    else { st := raise (changeOwner x (patch x.boot.owner 8 (leBytes 4 (leAt b 0 8))) id false) 0x0D05 0 [] } :=
  if_neg (not_not.2 hb)

section RootKey

variable {r : Req} {sig : Bool}

theorem keyRootImportCmd_inband (hv : r.peer.via = .inband) : keyRootImportCmd sig x r = { st := x, status := mbxAuth } :=
  if_pos (by rw [hv]; decide)

variable (hb : r.body.length = 3349) (hv : r.peer.via = .sideband) (hpos : leAt r.body 32 8 < 4)
include hb hv hpos

/-- The state with the imported root key sealed in the owner record. -/
def rootImported (x : State) (key : Bytes) : Res :=
  let k := newKey 1 4 (2 ^ useWrap + 2 ^ useUnwrap) 0 0 key
  let iv := x.drawBytes 12
  let e := Crypto.gcmEncrypt x.fuses.key1 iv.1 k.id key
  let o := patch x.boot.owner 0x1E90 (padTo 32 k.id ++ iv.1 ++ e.1 ++ e.2)
  let y := changeOwner iv.2 o (fun a => patch a 0x18 (leBytes 8 (leAt a 0x18 8 + 1))) false
  { st := extendMr (y.setSlot 3 k) 7 k.id }

theorem keyRootImportCmd_sideband : keyRootImportCmd sig x r =
    if (!ownerEnrolled x (leAt r.body 32 8)) = true ∨ (!sig) = true then { st := x, status := mbxVerify }
    else if !flashTakes x then { st := x, status := mbxState, detail := 0x0D0C }
    else rootImported x (r.body.take 32) :=
  (if_neg (not_not.2 hv)).trans ((if_neg (not_misSized hb)).trans (if_neg (Nat.not_le.2 hpos)))

theorem keyRootImportCmd_unverified (h : ownerEnrolled x (leAt r.body 32 8) = false ∨ sig = false) :
    keyRootImportCmd sig x r = { st := x, status := mbxVerify } :=
  (keyRootImportCmd_sideband hb hv hpos).trans (if_pos (by simpa using h))

variable (he : ownerEnrolled x (leAt r.body 32 8) = true) (hs : sig = true)
include he hs

theorem keyRootImportCmd_verified : keyRootImportCmd sig x r =
    if !flashTakes x then { st := x, status := mbxState, detail := 0x0D0C } else rootImported x (r.body.take 32) :=
  (keyRootImportCmd_sideband hb hv hpos).trans (if_neg (by rw [he, hs]; decide))

end RootKey

end Owners

/-- Settles O60: each command's equation under its parameters, then the checks in their order. -/
theorem bootCommands : Obligations.BootCommands := by
  unfold Obligations.BootCommands
  intro t s x r slot
  refine ⟨fun ht hb => ?status, fun ht h8 hmax => ⟨fun h ok => answers_of_result rfl ht (fwWriteCmd_outside h8 h),
      fun hin htr ok => answers_of_result rfl ht (fwWriteCmd_in_trial h8 hmax hin (flagTrial_iff.2 htr)),
      fun hin htr hc ok => answers_of_result rfl ht (fwWriteCmd_in_clockFail h8 hmax hin (eq_false_of_ne_true (mt flagTrial_iff.1 htr)) hc),
      fun hin htr hc => ?write⟩,
    fun sigs ht hb => answers_of_result rfl ht (fwVerifyCmd_of_empty hb),
    fun ok ht hb => ⟨fun h => answers_of_result rfl ht (fwConfirmCmd_no_trial hb h), fun e sl f he hs hf => ?confirm⟩,
    fun sig b hctl => ⟨fun ht hb h0 h1 h60 => ?activate, fun ht hb h0 hv he hc => ?activateDefault, fun ht hb h3 => ?minimum,
      fun signed ok slotA slotB k ht hb hm hz hp hk => ?revoke, fun ht hb hpos hburn => ?enrol, fun ht hb hpos hburn => ?remove,
      fun ht hb => ?policy⟩,
    fun sig ht hb => ⟨fun hv => answers_of_result rfl ht (keyRootImportCmd_inband hv),
      fun hv hpos h => answers_of_result rfl ht (keyRootImportCmd_unverified hb hv hpos h),
      fun hv hpos he hs hc => ?rootClockFail, fun hv hpos he hs hc => ?rootImport⟩⟩
  case status =>
    refine answers_of_result rfl ht ((bootStatusCmd_of_empty hb).trans ?_)
    unfold shownFlag
    cases latestFlag x <;> rfl
  case write =>
    have htrial := eq_false_of_ne_true (mt flagTrial_iff.1 htr)
    exact ⟨fun h0 => answers_of_result rfl ht (fwWriteCmd_written h8 hmax hin htrial hc h0),
      fun h0 => answers_of_result rfl ht (fwWriteCmd_first h8 hmax hin htrial hc h0),
      fun h0 => answers_of_result rfl ht (fwWriteCmd_failed h8 hmax hin htrial hc h0)⟩
  case confirm =>
    have h := fwConfirmCmd_of_trial (ok := ok) hb he hs hf
    exact ⟨fun ho hc => answers_of_result rfl ht (h.trans (if_neg (not_flashFails ho hc))),
      fun hbad => answers_of_result rfl ht (h.trans (if_pos (flashFails_of hbad)))⟩
  case activate =>
    have h (ok : Bool) := (hctl (fwActivateBody ok)).trans (fwActivateBody_of_params (.inr ⟨hb, rfl⟩) h0 h1 h60)
    refine ⟨fun hv ok => ?_, fun hv he ok => ?_, fun hv he ok hbad => ?_, fun hv he hc => ?_⟩
    · exact answers_of_result rfl ht ((h ok).trans (if_pos (by rw [hv]; rfl)))
    · exact answers_of_result rfl ht ((h ok).trans ((if_neg (by rw [hv]; decide)).trans (if_pos (Option.isSome_iff_ne_none.2 he))))
    · exact answers_of_result rfl ht ((h ok).trans ((if_neg (by rw [hv]; decide)).trans
        ((if_neg (by rw [he]; decide)).trans (if_pos (flashFails_of hbad)))))
    · exact answers_of_result rfl ht ((h true).trans ((if_neg (by rw [hv]; decide)).trans
        ((if_neg (by rw [he]; decide)).trans (if_neg (not_flashFails rfl hc)))))
  case activateDefault =>
    have h := (hctl (fwActivateBody true)).trans (fwActivateBody_of_params (.inl ⟨hb, rfl⟩) h0 (by decide) (by decide))
    exact answers_of_result rfl ht (h.trans ((if_neg (by rw [hv]; decide)).trans
      ((if_neg (by rw [he]; decide)).trans (if_neg (not_flashFails rfl hc)))))
  case minimum =>
    refine ⟨fun h ok => answers_of_result rfl ht ((hctl _).trans (minverBody_outside hb h3 h)), fun hlo hhi => ?_⟩
    have h (ok : Bool) := (hctl (minverBody ok)).trans (minverBody_inside hb h3 hlo hhi)
    exact ⟨fun hf ok => answers_of_result rfl ht ((h ok).trans (if_pos hf)),
      fun hf ok hbad => answers_of_result rfl ht ((h ok).trans ((if_neg (Nat.not_le.2 hf)).trans (if_pos (flashFails_of hbad)))),
      fun hf hc => answers_of_result rfl ht ((h true).trans ((if_neg (Nat.not_le.2 hf)).trans (if_neg (not_flashFails rfl hc))))⟩
  case revoke =>
    refine ⟨fun h => answers_of_result rfl ht ((hctl _).trans (revokeBody_of_bad_signer hb hm hz hp hk h)), fun hne hr hroot hs hsig => ?_⟩
    subst hsig
    have h := (hctl (revokeBody true ok slotA slotB)).trans (revokeBody_of_signed hb hm hz hp hk hne hr hroot hs)
    refine ⟨fun hgone => answers_of_result rfl ht (h.trans (if_pos hgone)), fun hthere => ?_⟩
    replace h := h.trans (if_neg (by rw [hthere]; exact Bool.false_ne_true))
    exact ⟨fun hlast => answers_of_result rfl ht (h.trans (if_pos hlast)),
      fun hlast hbad => answers_of_result rfl ht (h.trans ((if_neg hlast).trans (if_pos (flashFails_of hbad)))),
      fun hlast ho hc => answers_of_result rfl ht (h.trans ((if_neg hlast).trans (if_neg (not_flashFails ho hc))))⟩
  case enrol =>
    have h (ok : Bool) := (hctl (ownerKeyBody ok)).trans (ownerKeyBody_of_params hpos hburn (.inr ⟨hb, rfl⟩))
    refine ⟨fun he ok => answers_of_result rfl ht ((h ok).trans (if_pos (by rw [he]; rfl))), fun he hf ok hbad => ?_, fun he hf hc hkeys => ?_⟩
    · exact answers_of_result rfl ht ((h ok).trans ((if_neg (by rw [he]; exact Bool.false_ne_true)).trans
        ((if_neg (not_fusesSpent hf)).trans (if_pos (flashFails_of hbad)))))
    · refine answers_of_result rfl ht ((h true).trans ((if_neg (by rw [he]; exact Bool.false_ne_true)).trans
        ((if_neg (not_fusesSpent hf)).trans ((if_neg (not_flashFails rfl hc)).trans ?_))))
      dsimp only
      rw [if_neg hkeys]
  case remove =>
    have h (ok : Bool) := (hctl (ownerKeyBody ok)).trans (ownerKeyBody_of_params hpos hburn (.inl ⟨hb, rfl⟩))
    refine ⟨fun he ok => answers_of_result rfl ht ((h ok).trans (if_pos (by rw [he]; rfl))), fun he hf hc => ?_⟩
    have hdone := (h true).trans ((if_neg (by rw [he]; decide)).trans
      ((if_neg (not_fusesSpent hf)).trans (if_neg (not_flashFails rfl hc))))
    refine ⟨fun hkeys => answers_of_result rfl ht (hdone.trans ?_), fun hkeys => answers_of_result rfl ht (hdone.trans ?_)⟩
    · dsimp only
      rw [if_neg hkeys]
    · dsimp only
      rw [if_pos hkeys]
  case policy =>
    have h (ok : Bool) := (hctl (ownerPolicyBody ok)).trans (ownerPolicyBody_of_number hb)
    exact ⟨fun h8 ok => answers_of_result rfl ht ((h ok).trans (if_pos h8)),
      fun h8 hc => answers_of_result rfl ht ((h true).trans ((if_neg (Nat.not_le.2 h8)).trans (if_neg (not_flashFails rfl hc))))⟩
  case rootClockFail =>
    exact answers_of_result rfl ht ((keyRootImportCmd_verified hb hv hpos he hs).trans (if_pos (by rw [flashTakes, hc]; rfl)))
  case rootImport =>
    exact answers_of_result rfl ht ((keyRootImportCmd_verified hb hv hpos he hs).trans (if_neg (by rw [flashTakes, hc]; decide)))

end Sys2Proof.Machine

/-! Proofs of the statement on the start up to the verdict (R366 to R369, R371, R374, R375, R378, R387 to R389, R396, R401, R443,
R444). -/

namespace Sys2Proof.Machine

/-! ### What the operations of a start leave of phase, gate and booted slot (R367, R375) -/

/-- `z` has the phase, the gate and the booted slot of `s`. -/
structure SameStart (s z : State) : Prop where
  phase : z.phase = s.phase
  gate : z.boot.gate = s.boot.gate
  booted : z.boot.booted = s.boot.booted

namespace SameStart

variable {s z w : State}

theorem refl (s : State) : SameStart s s := ⟨rfl, rfl, rfl⟩
theorem trans (h : SameStart s z) (h2 : SameStart z w) : SameStart s w :=
  ⟨h2.phase.trans h.phase, h2.gate.trans h.gate, h2.booted.trans h.booted⟩

theorem of_logsOnly (h : LogsOnly s z) : SameStart s z := ⟨by rw [h.eq], by rw [h.eq], by rw [h.eq]⟩

theorem foldl {α : Type} (f : State → α → State) (hf : ∀ s a, SameStart s (f s a)) (l : List α) (s : State) : SameStart s (l.foldl f s) := by
  induction l generalizing s with
  | nil => exact .refl s
  | cons a l ih => exact (hf s a).trans (ih (f s a))

end SameStart

theorem extendMr_eq (s : State) (i : Nat) (d : Bytes) : extendMr s i d = { s with sec := (extendMr s i d).sec } := by
  unfold extendMr
  dsimp only
  split <;> rfl

section StartFrame

variable (s : State)

theorem raise_sameStart (code object : Nat) (data : Bytes) : SameStart s (raise s code object data) := .of_logsOnly (raise_logsOnly ..)

theorem extendMr_sameStart (i : Nat) (d : Bytes) : SameStart s (extendMr s i d) := by
  rw [extendMr_eq]; exact ⟨rfl, rfl, rfl⟩

theorem writeFlag_sameStart (x : Slot) (st confirm : Nat) : SameStart s (writeFlag s x st confirm) := by
  unfold writeFlag
  dsimp only
  split <;> exact ⟨rfl, rfl, rfl⟩

theorem loadImage_sameStart (typ : Nat) (b : Bytes) (w : List Bytes × List (Nat × Nat)) : SameStart s (loadImage s typ b w) := by
  refine .trans ?_ (extendMr_sameStart ..)
  exact ⟨rfl, rfl, rfl⟩

theorem loadPatch_sameStart (x : Slot) (sigs : SlotSigs) : SameStart s (loadPatch s x sigs) := by
  unfold loadPatch
  split
  · exact ⟨rfl, rfl, rfl⟩
  · dsimp only
    split
    · obtain ⟨hp, hg, hb⟩ := loadImage_sameStart s 1 (sectionBytes s (slotBase x) _) _
      exact ⟨hp, hg, hb⟩
    · exact .refl s

/-- What stage 1 owes of the anti-rollback record paid (R378). -/
def owedPaid (s : State) : State :=
  if !s.boot.arOwed then s
  else if s.fuses.count + 1 = arFuse s.boot.ar then { s with boot.arOwed := false, fuses.count := s.fuses.count + 1 }
  else
    let s := flashWrite (flashErase s (ownBase 0) 0x10000) (ownBase 0) s.boot.owner
    storeAr { s with boot.arOwed := false } s.boot.ar

/-- The flag record that a start appends (R375). -/
def flagPaid (s : State) (x : Slot) : State :=
  match latestFlag s with
  | none => s
  | some f =>
    if f.st = 1 then { writeFlag s f.active 2 f.confirm with boot.trialEnd := some (s.clk.up + f.confirm * 60 * nsPerSec) }
    else if f.st = 2 then writeFlag s x 0 f.confirm
    else s

theorem paySteps_eq (x : Slot) : paySteps s x = flagPaid (owedPaid s) x := rfl

theorem storeAr_sameStart (b : Bytes) : SameStart s (storeAr s b) := by
  unfold storeAr
  exact ⟨rfl, rfl, rfl⟩

theorem owedPaid_sameStart : SameStart s (owedPaid s) := by
  unfold owedPaid
  split
  · exact .refl s
  · split
    · exact ⟨rfl, rfl, rfl⟩
    · refine .trans ?_ (storeAr_sameStart _ _)
      exact ⟨rfl, rfl, rfl⟩

theorem flagPaid_sameStart (x : Slot) : SameStart s (flagPaid s x) := by
  unfold flagPaid
  split
  · exact .refl s
  · next f _ =>
    split
    · obtain ⟨hp, hg, hb⟩ := writeFlag_sameStart s f.active 2 f.confirm
      exact ⟨hp, hg, hb⟩
    · split
      · exact writeFlag_sameStart s ..
      · exact .refl s

theorem paySteps_sameStart (x : Slot) : SameStart s (paySteps s x) := by
  rw [paySteps_eq]
  exact (owedPaid_sameStart s).trans (flagPaid_sameStart _ x)

theorem applyDead_sameStart (u : Nat) : SameStart s (applyDead s u) := by
  unfold applyDead
  split
  · dsimp only
    split
    · exact ⟨rfl, rfl, rfl⟩
    · split <;> exact ⟨rfl, rfl, rfl⟩
  · exact ⟨rfl, rfl, rfl⟩
  · dsimp only
    split <;> exact ⟨rfl, rfl, rfl⟩

theorem applyDeadList_sameStart : SameStart s (applyDeadList s) := by
  have h := SameStart.foldl applyDead applyDead_sameStart (s.fuses.dead.filter (· < 65536)) s
  unfold applyDeadList
  dsimp only
  split
  · exact h.trans (raise_sameStart ..)
  · exact h

/-- The gate opened for a slot (R368). -/
def gateOpened (s : State) (x : Slot) : State :=
  { s with boot.gate := true, boot.booted := some x, boot.trying := none, boot.policy := ownerPolicy s.boot.owner
           clk.watchdogAt := s.clk.up, pins.errc := 0x35#6 }

/-- MR1 extended with the digest of the Clerk's firmware (R386). -/
def firmwareMeasured (s : State) (x : Slot) : State :=
  match slotSections s x 2 with
  | e :: _ => extendMr s 1 e.digest
  | [] => s

/-- The ports 0 and 8 set up from now on. -/
def portsSetUp (s : State) : State := [0, 8].foldl (fun s lp => s.onLp lp (fun p => { p with setupAt := s.clk.up })) s

theorem verdictPass_eq (x : Slot) (sigs : SlotSigs) : verdictPass s x sigs =
    (let y := firmwareMeasured (gateOpened s x) x
     applyDeadList (paySteps (loadPatch (portsSetUp (extendMr y 5 (Crypto.shake256 (policyRecord y x)))) x sigs) x)) := by
  rcases hl : slotSections (gateOpened s x) x 2 with _ | ⟨e, l⟩ <;> unfold gateOpened at hl
  · simp only [verdictPass, firmwareMeasured, gateOpened, portsSetUp, hl]
  · simp only [verdictPass, firmwareMeasured, gateOpened, portsSetUp, hl]

theorem firmwareMeasured_sameStart (x : Slot) : SameStart s (firmwareMeasured s x) := by
  unfold firmwareMeasured
  split
  · exact extendMr_sameStart s ..
  · exact .refl s

theorem portsSetUp_sameStart : SameStart s (portsSetUp s) := ⟨rfl, rfl, rfl⟩

/-- A verdict that passes opens the gate, and the slot is the booted one. -/
theorem verdictPass_gate (x : Slot) (sigs : SlotSigs) :
    (verdictPass s x sigs).boot.gate = true ∧ (verdictPass s x sigs).boot.booted = some x := by
  rw [verdictPass_eq]
  have h := (firmwareMeasured_sameStart (gateOpened s x) x).trans
    ((extendMr_sameStart _ 5 (Crypto.shake256 (policyRecord (firmwareMeasured (gateOpened s x) x) x))).trans
    ((portsSetUp_sameStart _).trans ((loadPatch_sameStart _ x sigs).trans ((paySteps_sameStart _ x).trans (applyDeadList_sameStart _)))))
  dsimp only
  exact ⟨h.gate, h.booted⟩

end StartFrame

/-! ### The rows (R366 to R369, R371, R387, R388, R396, R401, R443, R444) -/

section StartRows

variable {t : Nat} {s x : State} {slot : Slot} {f : StartFacts} {sigs : SlotSigs}

/-- The straps sampled (R443). -/
def sampled (x : State) (st : Straps) : State := { x with pins.straps := st, pins.scanLost := scanDrives x.pins.scan }

theorem resetRelease_eq {st : Straps} (hp : x.phase = .inReset) : resetRelease x st =
    if st.testEn then { sampled x st with phase := .testHold }
    else { ((sampled x st).onPp 0 (fun p => { p with mode := st.p0Mode.toNat })).onPp 1 (fun p => { p with mode := st.p1Mode.toNat }) with
      phase := .starting, clk.releasedAt := x.clk.up, pins.errc := 0x31#6, pins.flashOn := true } :=
  if_neg (not_not.2 hp)

theorem ends_xtalStable {refs : Refs} (hx : x = s.advance t) (hp : x.phase = .starting) (hc : x.clk.xtalOk = false) :
    Ends (.xtalStable t refs) s
      { x with clk.xtalOk := true, clk.tbRunning := true, clk.tb := 0, clk.eth0Ok := refs.eth0, clk.eth1Ok := refs.eth1
               clk.pcieOk := refs.pcie, pins.errc := 0x32#6 } :=
  ends_of_next rfl (by subst hx; exact if_pos ⟨hp, by rw [hc]; rfl⟩)

theorem ends_xtalTimeout (hx : x = s.advance t) (hp : x.phase = .starting) (hc : x.clk.xtalOk = false)
    (h : x.clk.releasedAt + 20000000 ≤ x.clk.up) : Ends (.xtalTimeout t) s (halt x 0x01) :=
  ends_of_next rfl (by subst hx; exact if_pos ⟨hp, by rw [hc]; rfl, h⟩)

section Stage1

variable (hp : x.phase = .starting) (hc : x.clk.xtalOk = true) (h1 : x.boot.stage1 = false)
  (hs : (slotOrder (latestFlag x)).find? (fun y => !x.boot.tried.contains y) = some slot)
include hp hc h1 hs

/-! The choice of the owner record is made a variable, and the rest a lemma of its own, where the kernel would compute its digests. -/

theorem stage1Start_of_bad_fact (h : startHalt f ≠ 0) : stage1Start x f = halt x (startHalt f) := by
  rw [stage1Start, if_neg (by simp [hp, hc, h1]), hs]
  exact if_pos h

variable (hf : startHalt f = 0)
include hf

theorem stage1Start_of_no_ar (h : chooseAr x = none) : stage1Start x f = halt x 0x0D := by
  simp only [stage1Start, hp, hc, h1, hs, hf, h, ne_eq, not_true, Bool.not_true, Bool.false_eq_true, or_self, if_false]

variable {ar own : Bytes} {owed : Bool} (ha : chooseAr x = some (ar, owed))
include ha

theorem stage1Start_of_no_owner (h : chooseOwner x ar = none) : stage1Start x f = halt x 0x0E := by
  unfold stage1Start
  generalize chooseOwner = choice at h ⊢
  as_aux_lemma =>
    simp only [hp, hc, h1, hs, hf, ha, h, ne_eq, not_true, Bool.not_true, Bool.false_eq_true, or_self, if_false]

theorem stage1Start_started (h : chooseOwner x ar = some own) : stage1Start x f =
    { extendMr x 0 (Crypto.shake256 (loaderRun x slot)) with
      boot.stage1 := true, boot.trying := some slot, boot.tried := x.boot.tried ++ [slot], boot.ar := ar
      boot.arOwed := owed, boot.owner := own, clk.pllsLocked := true, clk.vddWant := x.fuses.vddMv
      clk.vddReached := x.fuses.vddMv, clk.vddMeas := x.fuses.vddMv, pins.errc := 0x33#6 } := by
  have hfuses : (extendMr x 0 (Crypto.shake256 (loaderRun x slot))).fuses = x.fuses := by rw [extendMr_eq]
  have hboot : (extendMr x 0 (Crypto.shake256 (loaderRun x slot))).boot = x.boot := by rw [extendMr_eq]
  unfold stage1Start
  generalize chooseOwner = choice at h ⊢
  as_aux_lemma =>
    simp only [hp, hc, h1, hs, hf, ha, h, hfuses, hboot, ne_eq, not_true, Bool.not_true, Bool.false_eq_true, or_self, if_false]

end Stage1

section Verdict

variable (hp : x.phase = .starting) (hg : x.boot.gate = false) (ht : x.boot.trying = some slot)
include hp hg ht

theorem bootVerdict_passed (h : slotReason (restoreKeys x) slot sigs = 0) :
    bootVerdict x sigs = verdictPass (setReason (restoreKeys x) slot 0) slot sigs := by
  rw [bootVerdict, if_neg (by simp [hp, hg]), ht]
  exact if_pos h

theorem bootVerdict_failed (h : slotReason (restoreKeys x) slot sigs ≠ 0) : bootVerdict x sigs =
    (let y := stageReset (setReason x slot (slotReason (restoreKeys x) slot sigs))
     if y.boot.tried.length < 2 then { y with pins.errc := 0x34#6 } else halt y (haltCode y.boot.reasonA y.boot.reasonB)) := by
  rw [bootVerdict, if_neg (by simp [hp, hg]), ht]
  exact if_neg h

end Verdict

theorem setReason_frame (x : State) (slot : Slot) (why : Nat) : (setReason x slot why).clk = x.clk ∧ (setReason x slot why).fuses = x.fuses
    ∧ (setReason x slot why).boot.tried = x.boot.tried := by cases slot <;> exact ⟨rfl, rfl, rfl⟩

end StartRows

/-- Settles O8: each row's equation; what a passed verdict opens is kept by the steps after it. -/
theorem startBegins : Obligations.StartBegins := by
  unfold Obligations.StartBegins
  refine ⟨fun t s x st hx hp => ?release, fun t s x refs hx hp hc => ?crystal, fun t s x f slot hx hp hc h1 hs => ?stage1,
    fun t s x sigs slot hx hp hg ht => ?verdict⟩
  case release =>
    have h := resetRelease_eq (st := st) (show x.phase = .inReset by rw [hx, advance_phase]; exact hp)
    exact ⟨fun ht => ends_of_act (fun s => resetRelease s st) rfl hx (h.trans (if_pos ht)),
      fun ht => ends_of_act (fun s => resetRelease s st) rfl hx (h.trans (if_neg (by rw [ht]; exact Bool.false_ne_true)))⟩
  case crystal =>
    have phase : x.phase = .starting := by rw [hx, advance_phase]; exact hp
    have xtal : x.clk.xtalOk = false := by rw [hx, advance_xtalOk]; exact hc
    exact ⟨ends_xtalStable hx phase xtal, ends_xtalTimeout hx phase xtal⟩
  case stage1 =>
    have phase : x.phase = .starting := by rw [hx, advance_phase]; exact hp
    have xtal : x.clk.xtalOk = true := by rw [hx, advance_xtalOk]; exact hc
    have fresh : x.boot.stage1 = false := by rw [hx, advance_boot]; exact h1
    exact ⟨fun ar owed own hf ha ho => ends_of_act (fun s => stage1Start s f) rfl hx (stage1Start_started phase xtal fresh hs hf ha ho),
      fun hf => ends_of_act (fun s => stage1Start s f) rfl hx (stage1Start_of_bad_fact phase xtal fresh hs hf),
      fun hf ha => ends_of_act (fun s => stage1Start s f) rfl hx (stage1Start_of_no_ar phase xtal fresh hs hf ha),
      fun ar owed hf ha ho => ends_of_act (fun s => stage1Start s f) rfl hx (stage1Start_of_no_owner phase xtal fresh hs hf ha ho)⟩
  case verdict =>
    have phase : x.phase = .starting := by rw [hx, advance_phase]; exact hp
    have gate : x.boot.gate = false := by rw [hx, advance_boot]; exact hg
    have trying : x.boot.trying = some slot := by rw [hx, advance_boot]; exact ht
    have tried : x.boot.tried = s.boot.tried := by rw [hx, advance_boot]
    refine ⟨fun h => ⟨ends_of_act (fun s => bootVerdict s sigs) rfl hx (bootVerdict_passed phase gate trying h), verdictPass_gate ..⟩,
      fun why hwhy hne => ?_⟩
    subst hwhy
    obtain ⟨hclk, hfuses, htried⟩ := setReason_frame x slot (slotReason (restoreKeys x) slot sigs)
    have h := bootVerdict_failed phase gate trying hne
    have htwo : (stageReset (setReason x slot (slotReason (restoreKeys x) slot sigs))).boot.tried = s.boot.tried := htried.trans tried
    dsimp only at h
    rw [htwo] at h
    exact ⟨fun h2 => ends_of_act (fun s => bootVerdict s sigs) rfl hx (h.trans (if_pos h2)),
      fun h2 => ends_of_act (fun s => bootVerdict s sigs) rfl hx (h.trans (if_neg (Nat.not_lt.2 h2))), rfl, rfl, hclk, hfuses⟩

end Sys2Proof.Machine

/-! Proofs of the statement on steps 6 to 8 of the start, the end of a trial and the flag record (R324, R332, R349, R367, R374 to
R376). -/

namespace Sys2Proof.Machine

/-! ### A flag record read back (R374) -/

section FlagRecord

variable {s : State} {x : Slot} {seq st confirm k : Nat}

/-- The bytes of a flag record before its CRC. -/
def flagHead (seq : Nat) (x : Slot) (st confirm : Nat) : Bytes :=
  leBytes 4 flagMagic ++ leBytes 4 seq ++ leBytes 1 (slotNo x) ++ leBytes 1 st ++ leBytes 2 confirm ++ List.replicate 16 0

/-- A flag record. -/
def flagRecord (seq : Nat) (x : Slot) (st confirm : Nat) : Bytes :=
  flagHead seq x st confirm ++ leBytes 4 (crc32c (flagHead seq x st confirm)).toNat

theorem ofLe_leBytes (n v : Nat) : ofLe (leBytes n v) = v % 256 ^ n := by
  induction n generalizing v with
  | zero => exact (Nat.mod_one v).symm
  | succ n ih =>
    have hpow : 256 ^ (n + 1) = 256 * 256 ^ n := Nat.pow_succ'
    rw [leBytes, ofLe, ih, BitVec.toNat_ofNat, hpow]
    exact Nat.mod_mul.symm

/-- A number of `n` bytes read where it stands. -/
theorem leAt_field {b pre post : Bytes} {off n v : Nat} (hb : b = pre ++ (leBytes n v ++ post)) (ho : pre.length = off) (hv : v < 256 ^ n) :
    leAt b off n = v := by
  have hslice : slice b off n = leBytes n v := by
    rw [hb, slice, List.drop_left' ho, List.take_left' (length_leBytes n v), length_leBytes, Nat.sub_self, List.replicate_zero,
      List.append_nil]
  rw [leAt, hslice, ofLe_leBytes, Nat.mod_eq_of_lt hv]

theorem flagRecord_eq (seq : Nat) (x : Slot) (st confirm : Nat) : flagRecord seq x st confirm =
    leBytes 4 flagMagic ++ (leBytes 4 seq ++ (leBytes 1 (slotNo x) ++ (leBytes 1 st ++ (leBytes 2 confirm ++ (List.replicate 16 0
      ++ leBytes 4 (crc32c (flagHead seq x st confirm)).toNat))))) := by
  rw [flagRecord]
  generalize (crc32c _).toNat = crc
  simp only [flagHead, List.append_assoc]

theorem length_flagHead : (flagHead seq x st confirm).length = 28 := by
  simp only [flagHead, List.length_append, length_leBytes, List.length_replicate]

theorem length_flagRecord : (flagRecord seq x st confirm).length = 32 := by
  rw [flagRecord, List.length_append, length_flagHead, length_leBytes]

theorem slotNo_lt (x : Slot) : slotNo x < 2 := by cases x <;> decide

theorem slot_of_slotNo (x : Slot) : (if slotNo x = 1 then Slot.b else Slot.a) = x := by cases x <;> rfl

/-- A place where a record stands is read as that record. -/
theorem readFlag_flagRecord (hr : flashRead s (32 * k) 32 = flagRecord seq x st confirm) (hseq : seq < 2 ^ 32) (hst : st < 3)
    (hc : confirm < 65536) : readFlag s k = some { seq := seq, active := x, st := st, confirm := confirm, at_ := k } := by
  have hx := slotNo_lt x
  have hcrc := (crc32c (flagHead seq x st confirm)).isLt
  have magic : leAt (flagRecord seq x st confirm) 0 4 = flagMagic :=
    leAt_field (pre := []) ((flagRecord_eq ..).trans (List.nil_append _).symm) rfl (by decide)
  have number : leAt (flagRecord seq x st confirm) 4 4 = seq :=
    leAt_field (pre := leBytes 4 flagMagic) (flagRecord_eq ..) (length_leBytes ..) (by omega)
  have active : leAt (flagRecord seq x st confirm) 8 1 = slotNo x :=
    leAt_field (pre := leBytes 4 flagMagic ++ leBytes 4 seq) (by rw [flagRecord_eq]; simp only [List.append_assoc]; rfl)
      (by simp only [List.length_append, length_leBytes]) (by omega)
  have state : leAt (flagRecord seq x st confirm) 9 1 = st :=
    leAt_field (pre := leBytes 4 flagMagic ++ leBytes 4 seq ++ leBytes 1 (slotNo x))
      (by rw [flagRecord_eq]; simp only [List.append_assoc]; rfl) (by simp only [List.length_append, length_leBytes]) (by omega)
  have minutes : leAt (flagRecord seq x st confirm) 10 2 = confirm :=
    leAt_field (pre := leBytes 4 flagMagic ++ leBytes 4 seq ++ leBytes 1 (slotNo x) ++ leBytes 1 st)
      (by rw [flagRecord_eq]; simp only [List.append_assoc]; rfl) (by simp only [List.length_append, length_leBytes]) (by omega)
  have check : leAt (flagRecord seq x st confirm) 0x1C 4 = (crc32c (flagHead seq x st confirm)).toNat :=
    leAt_field (pre := flagHead seq x st confirm) (post := []) (by rw [List.append_nil]; rfl) length_flagHead (by omega)
  have head : (flagRecord seq x st confirm).take 0x1C = flagHead seq x st confirm := List.take_left' length_flagHead
  rw [readFlag, hr]
  rw [magic, check, head, if_pos ⟨rfl, rfl⟩, number, active, state, minutes, slot_of_slotNo]

/-! ### The place of the first record (R374) -/

theorem mem_mwrite {d : Byte} {m : Memory} {a : Nat} {v : Byte} {p : Nat × Byte} (h : p ∈ mwrite d m a v) : p ∈ m ∨ p.1 = a := by
  unfold mwrite at h
  split at h
  · exact .inl (List.mem_filter.1 h).1
  · exact (mem_tset h).symm.imp_right (fun h => by rw [h])

theorem mem_mwrites {d : Byte} {m : Memory} {a : Nat} {v : Bytes} {p : Nat × Byte} (h : p ∈ mwrites d m a v) :
    p ∈ m ∨ a ≤ p.1 ∧ p.1 < a + v.length := by
  induction v generalizing m a with
  | nil => exact .inl h
  | cons b bs ih =>
    rw [List.length_cons]
    rcases ih h with h | h
    · exact (mem_mwrite h).imp_right (fun h => by omega)
    · exact .inr (by omega)

theorem eraseDups_of_forall_eq {l : List Nat} {a : Nat} (hne : l ≠ []) (h : ∀ b ∈ l, b = a) : l.eraseDups = [a] := by
  cases l with
  | nil => exact absurd rfl hne
  | cons b l =>
    obtain rfl := h b (List.mem_cons_self ..)
    have hrest : l.filter (fun c => !c == b) = [] :=
      List.filter_eq_nil_iff.2 fun c hc => by rw [h c (List.mem_cons_of_mem _ hc)]; simp
    rw [List.eraseDups_cons, hrest]
    rfl

variable (hs : s.mem.flash = [])
include hs

/-- On an erased flash the first record goes to the first place, with SEQ 0. -/
theorem writeFlag_erased : writeFlag s x st confirm = flashWrite s 0 (flagRecord 0 x st confirm) := by
  have places : flagPlaces s = [] := by rw [flagPlaces, hs]; rfl
  have latest : latestFlag s = none := by rw [latestFlag, places]; rfl
  have place : freePlace s 0 = some 0 := by rw [freePlace, places]; rfl
  rw [writeFlag, latest]
  dsimp only
  rw [place]
  rfl

theorem flagPlaces_first : flagPlaces (flashWrite s 0 (flagRecord 0 x st confirm)) = [0] := by
  have hlt : ∀ p ∈ mwrites 0xFF#8 [] 0 (flagRecord 0 x st confirm), p.1 < 32 := fun p hp => by
    have h := (mem_mwrites hp).resolve_left (List.not_mem_nil)
    rw [length_flagRecord] at h
    omega
  have hne : mwrites 0xFF#8 [] 0 (flagRecord 0 x st confirm) ≠ [] := fun h => by
    have hread := mread_mwrites 0xFF#8 [] 0 (flagRecord 0 x st confirm) 0
    have hfirst : (flagRecord 0 x st confirm).getD (0 - 0) 0xFF#8 = 0x46#8 := rfl
    rw [h, length_flagRecord, if_pos (by decide), hfirst] at hread
    exact absurd hread (by decide)
  unfold flagPlaces flashWrite
  rw [hs]
  refine eraseDups_of_forall_eq ?_ fun b hb => ?_
  · obtain ⟨p, hp⟩ := List.exists_mem_of_ne_nil _ hne
    have hin := hlt p hp
    exact List.ne_nil_of_mem (List.mem_map_of_mem (List.mem_filter.2 ⟨hp, decide_eq_true (by omega)⟩))
  · obtain ⟨p, hp, rfl⟩ := List.mem_map.1 hb
    have hin := hlt p (List.mem_filter.1 hp).1
    omega

theorem latestFlag_first (hst : st < 3) (hc : confirm < 65536) : latestFlag (writeFlag s x st confirm) =
    some { seq := 0, active := x, st := st, confirm := confirm, at_ := 0 } := by
  have hr : flashRead (flashWrite s 0 (flagRecord 0 x st confirm)) (32 * 0) 32 = flagRecord 0 x st confirm := by
    have h := mreads_mwrites 0xFF#8 s.mem.flash 0 (flagRecord 0 x st confirm) 32 0 (by rw [length_flagRecord])
    rw [List.drop_zero, List.take_of_length_le (by rw [length_flagRecord])] at h
    exact h
  rw [writeFlag_erased hs, latestFlag, flagPlaces_first hs, List.filterMap_cons_some (readFlag_flagRecord hr (by decide) hst hc)]
  rfl

end FlagRecord

/-! ### Steps 6 to 8 (R324, R332, R349, R367) -/

section Steps

variable {t : Nat} {s x y z : State} {ok0 ok1 sig : Bool} {slot : Slot} {a : Nat}

theorem keepImage_sameStart (s : State) (b : Bytes) : SameStart s (keepImage s b) := ⟨rfl, rfl, rfl⟩

theorem reloadImages_sameStart (sig : Bool) (l : List Bytes) (s : State) : SameStart s (reloadImages sig l s).1 := by
  induction l generalizing s with
  | nil => exact .refl s
  | cons b bs ih =>
    unfold reloadImages
    split
    · exact ih s
    · split
      · exact .refl s
      · exact (loadImage_sameStart s ..).trans ((keepImage_sameStart _ _).trans (ih _))

theorem checkRecord_sameStart (s : State) (a : Nat) (sig : Bool) : SameStart s (checkRecord s a sig).1 := by
  unfold checkRecord
  dsimp only
  split
  · exact .refl s
  · split
    · exact .refl s
    · split
      · exact .refl s
      · split
        · exact .refl s
        · split
          · exact reloadImages_sameStart ..
          · split
            · exact reloadImages_sameStart ..
            · exact reloadImages_sameStart ..

theorem refuseConfig_frame (s : State) (why : Nat) (f : Option CfgFail) :
    (refuseConfig s why f).cfg.state = .refused why ∧ (refuseConfig s why f).phase = s.phase := by
  unfold refuseConfig
  exact ⟨by rw [(raise_logsOnly _ _ _ _).cfg], (raise_sameStart _ _ _ _).phase⟩

theorem hbmTrainingDone_passed (hp : x.phase = .starting) (hg : x.boot.gate = true) (h0 : x.mem.trained0 = false)
    (h1 : x.mem.trained1 = false) : hbmTrainingDone x true true =
      { repairRows x with mem.trained0 := true, mem.trained1 := true, boot.hbmTrained := true, pins.errc := 0x36#6 } :=
  if_neg (by simp [hp, hg, h0, h1])

theorem hbmTrainingDone_second_failed (hp : x.phase = .starting) (hg : x.boot.gate = true) (h0 : x.mem.trained0 = false)
    (h1 : x.mem.trained1 = false) : hbmTrainingDone x true false =
      raise { repairRows x with mem.trained0 := true, mem.trained1 := false, boot.hbmTrained := false } 0x0105 1 (encN 1) :=
  if_neg (by simp [hp, hg, h0, h1])

theorem coreImagesReady_eq (hp : x.phase = .starting) (ht : x.boot.hbmTrained = true) (hi : x.boot.inband = false)
    (hb : x.boot.booted = some slot) : coreImagesReady x =
      advertise (advertise (openMailbox { (coreSections x slot).foldl (fun s y => extendMr s 2 y.1) x with
        boot.coreImages := (coreSections x slot).map Prod.snd }) 0) 8 := by
  rw [coreImagesReady, if_neg (by simp [hp, ht, hi]), hb]

/-- The state in which step 8 looks for a stored record. -/
def reported (x : State) : State := { bootReport x with phase := .running, boot.decided := true, pins.errc := 0x3D#6 }

section Decision

variable (hp : x.phase = .starting) (hi : x.boot.inband = true) (hd : x.boot.decided = false)
include hp hi hd

theorem storedDecision_none (h : latestArea (reported x) (holdsRecord (reported x)) = none) : storedDecision x sig = reported x := by
  rw [storedDecision, if_neg (by simp [hp, hi, hd])]
  unfold reported at h ⊢
  dsimp only at h ⊢
  rw [h]

/-! The check of a record is made a variable, and the rest a lemma of its own: the kernel would run the check. -/

theorem storedDecision_refused {why : Nat} {f : Option CfgFail} (h : latestArea (reported x) (holdsRecord (reported x)) = some a)
    (hc : checkRecord (reported x) a sig = (z, .inr (why, f))) : storedDecision x sig = refuseConfig z why f := by
  unfold storedDecision
  unfold reported at h hc
  dsimp only at h hc
  generalize checkRecord = check at hc ⊢
  as_aux_lemma =>
    simp only [hp, hi, hd, h, hc, ne_eq, not_true, Bool.not_true, Bool.false_eq_true, or_self, if_false]

theorem storedDecision_taken {recs : Tab Bytes} (h : latestArea (reported x) (holdsRecord (reported x)) = some a)
    (hc : checkRecord (reported x) a sig = (z, .inl recs)) : storedDecision x sig =
      { commitAt z recs [] (readArea (reported x) a).counter ((readArea (reported x) a).trailer.take 32) with
        cfg.stored := true, pins.errc := 0x3E#6 } := by
  unfold storedDecision
  unfold reported at h hc ⊢
  dsimp only at h hc
  generalize checkRecord = check at hc ⊢
  as_aux_lemma =>
    simp only [hp, hi, hd, h, hc, ne_eq, not_true, Bool.not_true, Bool.false_eq_true, or_self, if_false]

end Decision

theorem ends_trialReverted {e : Nat} (hx : x = s.advance t) (he : x.boot.trialEnd = some e) (hb : x.boot.booted = some slot)
    (hle : e ≤ x.clk.up) (hc : x.inClockFail = false) : Ends (.trialReverted t) s
      (raise { writeFlag x (otherSlot slot) 0 (((latestFlag x).map Flag.confirm).getD 10) with boot.trialEnd := none } 0x0D02 0 []) := by
  have hf : flashTakes x = true := by rw [flashTakes, hc]; rfl
  exact ends_of_next rfl (by subst hx; simp only [he, hb, hle, hf, and_self, if_true])

end Steps

/-- Settles O10: each row's equation; on an erased flash the record written is the one read back. -/
theorem startCompletes : Obligations.StartCompletes := by
  unfold Obligations.StartCompletes
  refine ⟨fun t s x hx => ?rows, fun s slot st confirm hs hst hc => latestFlag_first hs hst hc⟩
  have boot : x.boot = s.boot := by rw [hx, advance_boot]
  have mem : x.mem = s.mem := by rw [hx, advance_mem]
  have phase : x.phase = s.phase := by rw [hx, advance_phase]
  refine ⟨fun hp hg h0 h1 => ?passed, fun hp hg h0 h1 => ?failed, fun slot hp ht hi hb => ?core, fun hp hi hd => ?decision,
    fun e slot he hb hle hc => ends_trialReverted hx (by rw [boot, he]) (by rw [boot, hb]) hle
      (by rw [hx, inClockFail_advance]; exact hc)⟩
  case passed =>
    exact ends_of_act (fun s => hbmTrainingDone s true true) rfl hx
      (hbmTrainingDone_passed (by rw [phase, hp]) (by rw [boot, hg]) (by rw [mem, h0]) (by rw [mem, h1]))
  case failed =>
    exact ends_of_act (fun s => hbmTrainingDone s true false) rfl hx
      (hbmTrainingDone_second_failed (by rw [phase, hp]) (by rw [boot, hg]) (by rw [mem, h0]) (by rw [mem, h1]))
  case core =>
    exact ⟨ends_of_act coreImagesReady rfl hx (coreImagesReady_eq (by rw [phase, hp]) (by rw [boot, ht]) (by rw [boot, hi]) (by rw [boot, hb])),
      rfl, rfl⟩
  case decision =>
    have starting : x.phase = .starting := by rw [phase, hp]
    have inband : x.boot.inband = true := by rw [boot, hi]
    have undecided : x.boot.decided = false := by rw [boot, hd]
    refine ⟨fun sig h => ends_of_act (fun s => storedDecision s sig) rfl hx (storedDecision_none starting inband undecided h),
      fun sig a z why f h hc => ⟨ends_of_act (fun s => storedDecision s sig) rfl hx (storedDecision_refused starting inband undecided h hc),
        (refuseConfig_frame z why f).1, (refuseConfig_frame z why f).2.trans ?_⟩,
      fun sig a z recs h hc => ?_⟩
    · have hz := (checkRecord_sameStart (reported x) a sig).phase
      unfold reported at hz
      rw [hc] at hz
      exact hz
    · have htaken := storedDecision_taken (x := x) (sig := sig) starting inband undecided h hc
      unfold reported at htaken
      exact ends_of_act (fun s => storedDecision s sig) rfl hx htaken

end Sys2Proof.Machine

/-! Proofs of the statement on the clock monitors, gating, CLKOUT, the core supply and the temperature (R399, R400, R404 to R408,
R411, R416, R417). -/

namespace Sys2Proof.Machine

/-! ### The clock monitors (R399, R400) -/

section Monitors

variable {t n : Nat} {s x : State}

theorem clocked_running (hp : x.phase = .running) (hc : x.clk.xtalOk = true) : clocked x = true := by
  simp [clocked, hp, hc]

/-- The loss of reference `n` counted and reported. -/
def refCounted (x : State) (n : Nat) : State := raise (countErr (setRef x n false) (cprBase + 0x40)) 0x0F01 0 (encN (n + 1))

theorem refLost_eq (hc : clocked x = true) (hr : refOk x n = true) : refLost x n =
    if n < 2 then ((List.range 8).map (n * 8 + ·)).foldl (fun s lp => if (s.lp lp).up then declareDown s lp else s) (refCounted x n)
    else ((refCounted x n).sto.drives.map Prod.fst).foldl
      (fun s rp => if (s.drive rp).st = .absent then s else driveFails s rp .linkLost) (refCounted x n) :=
  if_neg (by rw [hc, hr]; exact Bool.false_ne_true)

theorem ends_clkRefRestored {m : Fin 3} (hx : x = s.advance t) (hc : clocked x = true) (hr : refOk x m.val = false) :
    Ends (.clkRefRestored t m) s (raise (setRef x m.val true) 0x0F02 0 (encN (m.val + 1))) :=
  ends_of_next rfl (by subst hx; exact if_pos (by rw [hc, hr]; rfl))

/-- The state in which the clock-fail hold of input `n` begins. -/
def clockFailed (x : State) (n : Nat) : State :=
  let y := holdOutputs x
  let y := if n = 0 then { y with clk.xtalOk := false, clk.eth0Ok := false, clk.eth1Ok := false, clk.pcieOk := false } else y
  { y with phase := .clockFail n, clk.pllsLocked := false, mbx.subs := [], clk.tbRunning := y.clk.tbRunning && n != 0 && n != 6 }

theorem clkFail_eq (hc : clocked x = true) (hn : n ≤ 6) : clkFail x n = raise (clockFailed x n) 0x0F07 0 (encN n) :=
  if_neg (by rw [hc, Bool.not_true, not_or]; exact ⟨Bool.false_ne_true, Nat.not_lt.2 hn⟩)

theorem tget?_map_snd {α : Type} (l : Tab α) (f : α → α) (k : Nat) :
    tget? (l.map (fun p => (p.1, f p.2))) k = (tget? l k).map f := by
  simp only [tget?, List.find?_map, Option.map_map]
  rfl

/-- A logical port whose link is down. -/
def downPort (p : LPort) : LPort := { p with up := false, aligned := false, mac := none }

theorem lp_up_holdOutputs (x : State) (lp : Nat) : ((holdOutputs x).lp lp).up = false := by
  change ((tget? (x.port.lps.map (fun p => (p.1, downPort p.2))) lp).getD {}).up = false
  rw [tget?_map_snd]
  cases tget? x.port.lps lp <;> rfl

theorem clockFailed_frame (x : State) (n : Nat) :
    (clockFailed x n).phase = .clockFail n ∧ (clockFailed x n).boot.gate = false ∧ (clockFailed x n).mbx.subs = []
      ∧ (clockFailed x n).pins.perst = 0#16 ∧ ∀ lp, ((clockFailed x n).lp lp).up = false := by
  unfold clockFailed
  dsimp only
  split <;> exact ⟨rfl, rfl, rfl, rfl, lp_up_holdOutputs x⟩

end Monitors

/-! ### Gating (R404 to R408, R416) -/

section Gating

variable {x : State} {r : Req}

theorem clkGateCmd_unknown (hb : r.body.length = 16) (h : 33 ≤ num r 0) :
    clkGateCmd x r = { st := x, status := mbxInvalid, arg := 1 } :=
  (if_neg (not_misSized hb)).trans (if_pos h)

section Known

variable (hb : r.body.length = 16) (h33 : num r 0 < 33) (hg : num r 1 < 3) (h30 : num r 0 < 30 ∨ num r 1 = 0)
include hb h33 hg h30

/-- CLK_GATE of a block and a state that it may have. -/
theorem clkGateCmd_of_params : clkGateCmd x r =
    if num r 0 < 12 ∧ stallsHeld x then { st := x, status := mbxState }
    else if num r 1 ≠ 0 ∧ (gateMode x (num r 0) = 1 ∨ (!maySleep x (num r 0)) = true) then { st := x, status := mbxState }
    else
      let y := if num r 0 < 12 then abandonTest x (unitOfStall (num r 0)) else x
      { st := if num r 1 = 0 then wakeBlock y (num r 0) else putToSleep y (num r 0) (if num r 1 = 1 then .sleep else .deepSleep) } :=
  (if_neg (not_misSized hb)).trans ((if_neg (Nat.not_le.2 h33)).trans (if_neg (by omega)))

theorem clkGateCmd_held (h12 : num r 0 < 12) (hs : stallsHeld x = true) : clkGateCmd x r = { st := x, status := mbxState } :=
  (clkGateCmd_of_params hb h33 hg h30).trans (if_pos ⟨h12, hs⟩)

theorem clkGateCmd_refused (hg0 : num r 1 ≠ 0) (h : gateMode x (num r 0) = 1 ∨ maySleep x (num r 0) = false) :
    clkGateCmd x r = { st := x, status := mbxState } := by
  refine (clkGateCmd_of_params hb h33 hg h30).trans ?_
  rw [if_pos (show num r 1 ≠ 0 ∧ (gateMode x (num r 0) = 1 ∨ (!maySleep x (num r 0)) = true) from
    ⟨hg0, h.imp_right (fun h => by rw [h]; rfl)⟩), ite_self]

variable (h12 : 12 ≤ num r 0)
include h12

theorem clkGateCmd_wakes (hg0 : num r 1 = 0) : clkGateCmd x r = { st := wakeBlock x (num r 0) } := by
  refine (clkGateCmd_of_params hb h33 hg h30).trans ((if_neg (by omega)).trans ((if_neg (by simp [hg0])).trans ?_))
  dsimp only
  rw [if_neg (Nat.not_lt.2 h12), if_pos hg0]

theorem clkGateCmd_sleeps (hg0 : num r 1 ≠ 0) (ha : gateMode x (num r 0) ≠ 1) (hm : maySleep x (num r 0) = true) :
    clkGateCmd x r = { st := putToSleep x (num r 0) (if num r 1 = 1 then .sleep else .deepSleep) } := by
  refine (clkGateCmd_of_params hb h33 hg h30).trans ((if_neg (by omega)).trans ((if_neg (by simp [ha, hm])).trans ?_))
  dsimp only
  rw [if_neg (Nat.not_lt.2 h12), if_neg hg0]

end Known

theorem pwrStatusCmd_of_empty (hb : r.body = []) : pwrStatusCmd x r =
    { st := x
      out := encN x.clk.vddWant ++ encN x.clk.vddMeas ++ encNum x.clk.tj
        ++ (List.range 33).flatMap (fun b => encN (gateMode x b) ++ encN (gateNo (gateState x b))) ++ encN (cprStatus x) } :=
  if_pos (bodyIs_zero hb)

theorem ends_autoWake {t : Nat} {s : State} {b : Fin 33} (hx : x = s.advance t) (h : b.val ∈ x.clk.stopped) : Ends (.autoWake t b) s
    (countStat { x with clk.stopped := x.clk.stopped.filter (· != b.val) } (cprBase + 0x108) 1) :=
  ends_of_next rfl (by subst hx; exact if_pos (List.contains_iff_mem.2 h))

theorem ends_autoGateStop {t : Nat} {s : State} {b : Fin 33} (hx : x = s.advance t) (hc : clocked x = true) (hm : gateMode x b.val = 1)
    (hg : gateState x b.val = .run) (h : b.val ∉ x.clk.stopped) (hw : blockWork x b.val = false) :
    Ends (.autoGateStop t b) s { x with clk.stopped := x.clk.stopped ++ [b.val] } := by
  have hn : x.clk.stopped.contains b.val = false := eq_false_of_ne_true (mt List.contains_iff_mem.1 h)
  exact ends_of_next rfl (by subst hx; exact if_pos (by rw [hc, hm, hg, hn, hw]; rfl))

theorem ends_clkoutSettingApply {t : Nat} {s : State} (hx : x = s.advance t) (h : x.committed = true) : Ends (.clkoutSettingApply t) s
    { x with clk.clkSrc := x.cfgN (itemId 0xF 1 2) 0 0 0, clk.clkDiv := x.cfgN (itemId 0xF 1 3) 0 0 1 } :=
  ends_of_next rfl (by subst hx; exact if_pos h)

end Gating

/-! ### VDD_CORE and temperature (R411, R417) -/

section Supply

variable {t want measured reg : Nat} {s x : State} {tj : Int}

/-- A step of 5 mV at most, which does not pass what is wanted. -/
theorem stepTo_bounds (now want : Nat) : stepTo now want ≤ now + 5 ∧ now ≤ stepTo now want + 5
    ∧ (now ≤ want → now ≤ stepTo now want ∧ stepTo now want ≤ want)
    ∧ (want ≤ now → want ≤ stepTo now want ∧ stepTo now want ≤ now) := by
  unfold stepTo
  split <;> omega

/-- The next voltage on the way to what the monitors need, between 700 and 850 mV. -/
def askedVdd (x : State) (want : Nat) : Nat := stepTo x.clk.vddReached (min 850 (max 700 want))

section Adjusted

variable (hg : x.boot.gate = true) (hc : clocked x = true) (hm : x.clk.avsMoved + 1000000 ≤ x.clk.up)
include hg hc hm

theorem not_avsWaits : ¬ ((!(x.boot.gate && clocked x)) = true ∨ x.clk.up < x.clk.avsMoved + 1000000) := by
  rw [hg, hc, not_or]
  exact ⟨Bool.false_ne_true, Nat.not_lt.2 hm⟩

theorem avsAdjust_within (hw : want ≤ 850) : avsAdjust x want measured true reg =
    { x with clk.avsMoved := x.clk.up, clk.vddMeas := measured, clk.avsFaulted := false, clk.vddWant := askedVdd x want
             clk.vddReached := askedVdd x want, clk.avsAtLimit := false } := by
  have hlimit (P : Prop) [Decidable P] : decide (850 < want ∧ P) = false := decide_eq_false (fun h => absurd h.1 (Nat.not_lt.2 hw))
  rw [avsAdjust, if_neg (not_avsWaits hg hc hm)]
  simp only [Bool.not_true, Bool.false_eq_true, if_false, hlimit, Bool.false_and]
  rfl

theorem avsAdjust_limit (hw : 850 < want) (hr : x.clk.vddReached = 850) (hl : x.clk.avsLimitAt = none) :
    avsAdjust x want measured true reg =
      raise { x with clk.avsMoved := x.clk.up, clk.vddMeas := measured, clk.avsFaulted := false, clk.vddWant := 850
                     clk.vddReached := 850, clk.avsAtLimit := true, clk.avsLimitAt := some x.clk.up } 0x0F05 0 (encN 850) := by
  have hask : stepTo x.clk.vddReached (min 850 (max 700 want)) = 850 := by
    rw [hr, stepTo, if_neg (by omega)]; omega
  rw [avsAdjust, if_neg (not_avsWaits hg hc hm)]
  simp only [Bool.not_true, Bool.false_eq_true, if_false, hask, hl, hw, and_self, decide_true, Bool.and_self, if_true]

theorem avsAdjust_unanswered (hf : x.clk.avsFaulted = false) : avsAdjust x want measured false reg =
    raise (countErr { x with clk.avsMoved := x.clk.up, clk.vddMeas := measured, clk.vddWant := x.clk.vddReached
                             clk.avsFaulted := true } (cprBase + 0x44)) 0x0F04 0
      (encN x.clk.vddReached ++ encN (askedVdd x want) ++ encN reg) := by
  rw [avsAdjust, if_neg (not_avsWaits hg hc hm)]
  simp only [Bool.not_false, if_true, hf, Bool.false_eq_true, if_false]
  rfl

end Adjusted

theorem ends_thermalWarn (hx : x = s.advance t) (hc : clocked x = true) (ha : x.clk.warnArmed = true) (hw : warnLevel x ≤ tj) :
    Ends (.thermalWarn t tj) s (raise { x with clk.tj := tj, clk.warnArmed := false } 0x0F06 0 (encNum tj)) :=
  ends_of_next rfl (by subst hx; exact if_pos ⟨ha, hw, hc⟩)

theorem ends_thermalWarnRearm (hx : x = s.advance t) (hw : tj ≤ warnLevel x - 5) :
    Ends (.thermalWarnRearm t tj) s { x with clk.tj := tj, clk.warnArmed := true } :=
  ends_of_next rfl (by subst hx; exact if_pos hw)

end Supply

/-- Settles O12: each row and command by its conditions in order. -/
theorem clocksAndSupply : Obligations.ClocksAndSupply := by
  unfold Obligations.ClocksAndSupply
  refine ⟨fun t s x hx hxtal hp => ?monitors, fun t s x r slot => ?gating, fun t want measured reg s x hx hxtal hp hg => ?supply,
    stepTo_bounds⟩
  case monitors =>
    have hc : clocked x = true := clocked_running (by rw [hx, advance_phase]; exact hp) (by rw [hx, advance_xtalOk]; exact hxtal)
    refine ⟨fun n hr => ⟨fun h2 => ?_, fun h2 => ?_⟩, fun n hr => ends_clkRefRestored hx hc hr, fun n h6 => ?_⟩
    · exact ends_of_act (fun s => refLost s n.val) rfl hx ((refLost_eq hc hr).trans (if_pos h2))
    · exact ends_of_act (fun s => refLost s n.val) rfl hx ((refLost_eq hc hr).trans (if_neg (by omega)))
    · obtain ⟨hphase, hgate, hsubs, hperst, hlp⟩ := clockFailed_frame x n.val
      refine ⟨clockFailed x n.val, ends_of_act (fun s => clkFail s n.val) rfl hx (clkFail_eq hc h6), hphase, hgate, hsubs, hperst, hlp,
        fun h0 => ?_⟩
      unfold clockFailed
      rw [h0]
      exact ⟨rfl, rfl, rfl, rfl⟩
  case gating =>
    refine ⟨fun ht hb h14 h30 ha hm => ⟨fun h1 => ?_, fun h2 => ?_⟩, fun ht hb h12 h33 h0 => ?_, fun ht hb h12 hs h3 => ?_,
      fun ht hb h33 => answers_of_result rfl ht (clkGateCmd_unknown hb h33), fun ht hb h30 h12 h => ?_,
      fun ht hb => answers_of_result rfl ht (pwrStatusCmd_of_empty hb), fun b h => ends_autoWake rfl h,
      fun b hc hm hg h hw => ends_autoGateStop rfl hc hm hg h hw, fun h => ends_clkoutSettingApply rfl h⟩
    · refine answers_of_result rfl ht ((clkGateCmd_sleeps hb (by omega) (by omega) (.inl h30) (by omega) (by omega) ha hm).trans ?_)
      rw [if_pos h1]
    · refine answers_of_result rfl ht ((clkGateCmd_sleeps hb (by omega) (by omega) (.inl h30) (by omega) (by omega) ha hm).trans ?_)
      rw [if_neg (by omega)]
    · exact answers_of_result rfl ht (clkGateCmd_wakes hb h33 (by omega) (.inr h0) h12 h0)
    · exact answers_of_result rfl ht (clkGateCmd_held hb (by omega) h3 (.inl (by omega)) h12 hs)
    · exact answers_of_result rfl ht (clkGateCmd_refused hb (by omega) (by omega) (.inl h30) (by omega) h)
  case supply =>
    have hc : clocked x = true := clocked_running (by rw [hx, advance_phase]; exact hp) (by rw [hx, advance_xtalOk]; exact hxtal)
    have gate : x.boot.gate = true := by rw [hx, advance_boot]; exact hg
    refine ⟨fun hm => ⟨fun hw => ?_, fun hw hr hl => ?_, fun hf => ?_⟩, fun tj ha hw => ends_thermalWarn hx hc ha hw,
      fun tj hw => ends_thermalWarnRearm hx hw⟩
    · exact ends_of_act (fun s => avsAdjust s want measured true reg) rfl hx (avsAdjust_within gate hc hm hw)
    · exact ends_of_act (fun s => avsAdjust s want measured true reg) rfl hx (avsAdjust_limit gate hc hm hw hr hl)
    · exact ends_of_act (fun s => avsAdjust s want measured false reg) rfl hx (avsAdjust_unanswered gate hc hm hf)

end Sys2Proof.Machine

/-! Proofs of the statements on Teasel: its tests and sweeps, and its commands (R421 to R426, R428, R430, R433). -/

namespace Sys2Proof.Machine

/-! ### When sweeps run, and whose turn a test is (R422, R425) -/

section Turns

variable {x : State} {u v : Nat}

theorem teaselRuns_iff : teaselRuns x = true ↔
    x.phase = .running ∧ teaselOn x = true ∧ x.cfg.state = .committed ∧ x.tsl.restart = none := by
  simp [teaselRuns, State.committed, and_assoc]

theorem sweepDue_iff : sweepDue x = true ↔ ∃ f, x.tsl.firstCommit = some f
    ∧ (if x.tsl.sweep = 0 then f + 60000000000 ≤ x.clk.up else x.tsl.startAt + sweepPeriod x ≤ x.clk.up) := by
  unfold sweepDue
  cases x.tsl.firstCommit with
  | none => simp
  | some f =>
    simp only [nsPerSec, Option.some.injEq, exists_eq_left', Nat.reduceMul]
    exact decide_eq_true_iff

theorem mem_testOrder : v ∈ testOrder x ↔
    kindOn x (v / 4096) = true ∧ (v ∈ x.tsl.asked ∨ (x.tsl.running = true ∧ v ∈ x.tsl.todo)) := by
  rw [testOrder, List.mem_filter, List.mem_append, and_comm]
  refine and_congr_right fun _ => ?_
  cases x.tsl.running with
  | false => simp
  | true => by_cases h : v ∈ x.tsl.asked <;> simp [h]

theorem passable_iff : passable x v = true ↔ eligible x v = false ∨ (3 ≤ v / 4096 ∧ isDead x v = false ∧ (bankRole x v).isSome = true) := by
  rw [passable, Bool.or_eq_true, Bool.and_eq_true, Bool.and_eq_true, Bool.not_eq_true', Bool.not_eq_true', and_assoc]
  exact or_congr_right (and_congr_left fun _ => decide_eq_true_iff)

/-- Where an element stands first in a list. -/
theorem mem_takeWhile_split {l : List Nat} : (u ∈ l ∧ ∀ v ∈ l.takeWhile (· != u), passable x v = true) ↔
    ∃ before rest, l = before ++ u :: rest ∧ u ∉ before ∧ ∀ v ∈ before, passable x v = true := by
  constructor
  · rintro ⟨hu, hall⟩
    refine ⟨l.takeWhile (· != u), (l.dropWhile (· != u)).tail, ?_, fun h => ?_, hall⟩
    · cases hd : l.dropWhile (· != u) with
      | nil => exact absurd (List.dropWhile_eq_nil_iff.1 hd u hu) (by simp)
      | cons a rest =>
        obtain rfl : a = u := by simpa [hd] using List.head?_dropWhile_not (· != u) l
        exact (List.takeWhile_append_dropWhile ..).symm.trans (congrArg _ hd)
    · exact absurd (List.mem_takeWhile_imp h) (by simp)
  · rintro ⟨before, rest, rfl, hu, hall⟩
    have hw : (before ++ u :: rest).takeWhile (· != u) = before := by
      rw [List.takeWhile_append_of_pos (fun v hv => bne_iff_ne.2 (ne_of_mem_of_not_mem hv hu)), List.takeWhile_cons_of_neg (by simp),
        List.append_nil]
    exact ⟨by simp, by rwa [hw]⟩

theorem unitTurn_iff : unitTurn x u = true ↔ eligible x u = true ∧ ∃ before rest, testOrder x = before ++ u :: rest ∧ u ∉ before
    ∧ ∀ v ∈ before, eligible x v = false ∨ (3 ≤ v / 4096 ∧ isDead x v = false ∧ (bankRole x v).isSome = true) := by
  simp only [← passable_iff]
  rw [← mem_takeWhile_split, unitTurn, Bool.and_eq_true, Bool.and_eq_true, List.contains_iff_mem, List.all_eq_true, and_assoc]

end Turns

/-! ### The start of a test (R421 to R423) -/

section TestStart

variable {x : State} {u : Nat}

/-- The units passed over when `u` starts come after the others. -/
def passedOver (x : State) (u : Nat) : State :=
  if u ∈ x.tsl.todo ∧ u ∉ x.tsl.asked then
    { x with tsl.todo := x.tsl.todo.drop (x.tsl.todo.takeWhile (· != u)).length ++ x.tsl.todo.takeWhile (· != u) }
  else x

/-- The test of unit `u` as it begins, with a spare for its contents or none. -/
def testOf (x : State) (u : Nat) (sp : Option Nat) : UnitTest :=
  { unit := u, start := x.clk.up, at_ := x.clk.up, copy := if sp.isSome then 1 else 0, spare := sp, retest := isDead x u }

/-- The unit out of service: a core's role is kept quiet, a sequencer leaves the rotation. -/
def testHeld (y : State) (u : Nat) : State :=
  match unitKind u with
  | 1 => match coreRoleOf y (unitIdx u / 17) (unitIdx u % 17) with
    | some r => quietKeep y (unitIdx u / 17) r
    | none => y
  | 2 => if isDead y u then y else { y with parse.out := y.parse.out ++ [unitIdx u] }
  | _ => y

/-- The spare that a test of unit `u` takes. -/
def testSpare (x : State) (u : Nat) : Option Nat :=
  if (if unitKind u = 3 ∨ unitKind u = 4 then bankRole x u else none).isSome then (freeSpares x u).head? else none

/-- A test of unit `u` begins. -/
def testBegin (y : State) (u : Nat) : State := testHeld { y with tsl.cur := some (testOf y u (testSpare y u)) } u

theorem testStart_not_turn (h : ¬ (teaselRuns x = true ∧ x.tsl.cur = none ∧ unitTurn x u = true)) : testStart x u = x :=
  if_pos (by
    rw [Bool.not_eq_true', ← Bool.not_eq_true]
    simpa [and_assoc] using h)

theorem testStart_turn (hr : teaselRuns x = true) (hc : x.tsl.cur = none) (ht : unitTurn x u = true) :
    testStart x u = testBegin (passedOver x u) u := by
  have hguard : ¬ (!(teaselRuns x && x.tsl.cur.isNone && unitTurn x u)) = true := by simp [hr, hc, ht]
  have hpass : (if x.tsl.todo.contains u && !x.tsl.asked.contains u then
      { x with tsl.todo := x.tsl.todo.drop (x.tsl.todo.takeWhile (· != u)).length ++ x.tsl.todo.takeWhile (· != u) } else x) =
        passedOver x u := by simp [passedOver]
  refine (if_neg hguard).trans ?_
  dsimp only
  rw [hpass]
  rfl

/-- Passing other units over changes nothing that a test of `u` reads. -/
theorem testOf_passedOver {sp : Option Nat} : testOf (passedOver x u) u sp = testOf x u sp := by
  unfold passedOver; split <;> rfl

theorem testSpare_passedOver : testSpare (passedOver x u) u = testSpare x u := by
  unfold passedOver; split <;> rfl

theorem testBegin_passedOver : testBegin (passedOver x u) u =
    testHeld { passedOver x u with tsl.cur := some (testOf x u (testSpare x u)) } u := by
  rw [testBegin, testOf_passedOver, testSpare_passedOver]

theorem testSpare_of_kind (h : ¬ (u / 4096 = 3 ∨ u / 4096 = 4)) : testSpare x u = none := by
  rw [testSpare, if_neg (show ¬ (unitKind u = 3 ∨ unitKind u = 4) from h)]; rfl

theorem testSpare_of_role {role sp : Nat} {rest : List Nat} (h : u / 4096 = 3 ∨ u / 4096 = 4) (hr : bankRole x u = some role)
    (hs : freeSpares x u = sp :: rest) : testSpare x u = some sp := by
  rw [testSpare, if_pos (show unitKind u = 3 ∨ unitKind u = 4 from h), hr, hs]; rfl

theorem isDead_passedOver (c : Option UnitTest) : isDead { passedOver x u with tsl.cur := c } u = isDead x u := by
  unfold passedOver; split <;> rfl

theorem parse_passedOver : (passedOver x u).parse = x.parse := by unfold passedOver; split <;> rfl

theorem testHeld_seq {y : State} {out : List Nat} (h : u / 4096 = 2) (hd : isDead y u = false) (ho : y.parse.out = out) :
    testHeld y u = { y with parse.out := out ++ [u % 4096] } := by
  subst ho
  simp only [testHeld, unitKind, unitIdx, h, hd, Bool.false_eq_true, if_false]

theorem testHeld_bank {y : State} (h : u / 4096 = 3 ∨ u / 4096 = 4) : testHeld y u = y := by
  rcases h with h | h <;> simp only [testHeld, unitKind, h]

theorem testHeld_core {y : State} {r : Nat} (h : u / 4096 = 1) (hr : coreRoleOf y (u % 4096 / 17) (u % 4096 % 17) = some r) :
    testHeld y u = quietKeep y (u % 4096 / 17) r := by
  simp only [testHeld, unitKind, unitIdx, h, hr]

theorem testHeld_spare_core {y : State} (h : u / 4096 = 1) (hr : coreRoleOf y (u % 4096 / 17) (u % 4096 % 17) = none) :
    testHeld y u = y := by
  simp only [testHeld, unitKind, unitIdx, h, hr]

end TestStart

/-! ### The end of a run and of a copy (R81, R328, R421, R428, R430) -/

section Runs

variable {x y : State} {c : UnitTest} {found : Bool} {sig : Nat}

theorem romBad_iff {u : Nat} : romBad x u = true ↔
    u / 4096 = 2 ∧ ∃ w ∈ x.parse.poison, w / 32768 = u % 4096 ∧ w % 32768 < 0x4000 := by
  simp [romBad, unitKind, unitIdx]

theorem testRunEnd_idle (h : x.tsl.cur = none) : testRunEnd x found sig = x := by rw [testRunEnd, h]

theorem bankCopyDone_idle (h : x.tsl.cur = none) : bankCopyDone x = x := by rw [bankCopyDone, h]

section Current

variable (h : x.tsl.cur = some c)
include h

/-- A run that ends, with the verdict that the patterns and the ROM words give. -/
theorem testRunEnd_eq : testRunEnd x found sig =
    if c.copy ≠ 0 then x
    else
      let pass := found && !romBad x c.unit
      let s := if pass then x else countErr x (tslBase + 0x40)
      if c.run = 1 then
        if pass = true ∧ (!c.retest) = true then testPassed s c
        else { s with tsl.cur := some { c with run := 2, failed1 := if pass then none else some sig } }
      else if pass = true ∨ (c.retest = true ∧ c.failed1.isNone = true) then testPassed s c
      else testFailed s c := by
  rw [testRunEnd, h]

theorem testRunEnd_copying (hc : c.copy ≠ 0) : testRunEnd x found sig = x := (testRunEnd_eq h).trans (if_pos hc)

theorem testRunEnd_of_rom (hr : romBad x c.unit = true) : testRunEnd x true sig = testRunEnd x false sig := by
  rw [testRunEnd_eq h, testRunEnd_eq h, hr]; rfl

variable (hc : c.copy = 0)
include hc

theorem testRunEnd_first_failed (hrun : c.run = 1) : testRunEnd x false sig =
    { countErr x (tslBase + 0x40) with tsl.cur := some { c with run := 2, failed1 := some sig } } := by
  rw [testRunEnd_eq h, if_neg (not_not.2 hc)]
  simp only [Bool.false_and, Bool.false_eq_true, if_false, hrun, false_and, if_true]

theorem testRunEnd_passed (hr : romBad x c.unit = false) (ht : c.retest = false) : testRunEnd x true sig = testPassed x c := by
  rw [testRunEnd_eq h, if_neg (not_not.2 hc), hr]
  simp only [ht, Bool.not_false, Bool.and_self, if_true, true_and, true_or, ite_self]

theorem testRunEnd_failed (hrun : c.run ≠ 1) (ht : c.retest = false ∨ c.failed1.isSome = true) :
    testRunEnd x false sig = testFailed (countErr x (tslBase + 0x40)) c := by
  have hno : ¬ ((false && !romBad x c.unit) = true ∨ (c.retest = true ∧ c.failed1.isNone = true)) := by
    rcases ht with ht | ht
    · simp [ht]
    · simp [Option.isSome_iff_ne_none.1 ht]
  rw [testRunEnd_eq h, if_neg (not_not.2 hc)]
  dsimp only
  rw [if_neg hrun, if_neg hno]
  rfl

end Current

theorem testPassed_of_none (h : c.spare = none) : testPassed x c = endTest x c true := by rw [testPassed, h]; rfl

theorem testPassed_of_spare (h : c.spare.isSome = true) : testPassed x c = { x with tsl.cur := some { c with copy := 2, at_ := x.clk.up } } :=
  if_pos h

theorem testFailed_new (h : c.retest = false) : testFailed x c = declareDead (endTest x c false) c.unit 1 (c.spare.bind (bankRole x)) := by
  have hrole : (match c.spare with | some sp => bankRole x sp | none => none) = c.spare.bind (bankRole x) := by cases c.spare <;> rfl
  exact (if_neg (ne_true_of_eq_false h)).trans (congrArg (declareDead (endTest x c false) c.unit 1) hrole)

theorem testFailed_again (h : c.retest = true) : testFailed x c = endTest x c false := by rw [testFailed, h]; rfl

section Copies

variable {sp : Nat} (h : x.tsl.cur = some c) (hs : c.spare = some sp)
include h hs

/-- The time of a copy has passed (R328). -/
def copyLate (x : State) (c : UnitTest) : Prop := c.at_ + (if c.unit / 4096 = 4 then 10240 else 1710) ≤ x.clk.up

theorem bankCopyDone_waits (hw : c.copy = 0 ∨ ¬ copyLate x c) (h2 : c.copy ≤ 2) : bankCopyDone x = x := by
  have early (h0 : c.copy ≠ 0) : x.clk.up < c.at_ + copyTime c.unit := Nat.not_le.1 (hw.resolve_left h0)
  rw [bankCopyDone, h]
  dsimp only
  rw [hs]
  obtain h0 | h1 | h2 : c.copy = 0 ∨ c.copy = 1 ∨ c.copy = 2 := by omega
  · rw [h0]
    rfl
  · have he := early (by omega)
    rw [h1]
    exact if_pos he
  · have he := early (by omega)
    rw [h2]
    exact if_pos he

theorem bankCopyDone_to_spare {role : Nat} (h1 : c.copy = 1) (hl : copyLate x c) (hr : bankRole x c.unit = some role) :
    bankCopyDone x = { redirect x role sp with tsl.cur := some { c with copy := 0 } } := by
  rw [bankCopyDone, h]
  dsimp only
  rw [hs, h1]
  refine (if_neg (Nat.not_lt.2 hl)).trans ?_
  rw [hr]

theorem bankCopyDone_back (h2 : c.copy = 2) (hl : copyLate x c) : bankCopyDone x = endTest (bankBack x c.unit sp) c true := by
  rw [bankCopyDone, h]
  dsimp only
  rw [hs, h2]
  exact if_neg (Nat.not_lt.2 hl)

end Copies

end Runs

/-! ### Sweeps and the list (R425, R426, R428) -/

section Sweeps

variable {x : State} {u : Nat} {rest : List Nat}

theorem sweepStart_due (hr : teaselRuns x = true) (hn : x.tsl.running = false) (hd : sweepDue x = true) : sweepStart x =
    { x with tsl.sweep := x.tsl.sweep + 1, tsl.running := true, tsl.startAt := x.clk.up, tsl.todo := sweepUnits x, tsl.tested := 0
             tsl.periodAt := x.clk.up + sweepPeriod x } := if_pos (by rw [hr, hn, hd]; rfl)

theorem sweepStart_not_due (h : ¬ teaselRuns x = true ∨ x.tsl.running = true ∨ ¬ sweepDue x = true) : sweepStart x = x :=
  if_neg (by rcases h with h | h | h <;> simp [h])

theorem sweepPeriodEnd_idle (h : todoNow x = [] ∨ ¬ teaselRuns x = true ∨ x.tsl.running = false ∨ x.clk.up < x.tsl.periodAt) :
    sweepPeriodEnd x = x := by
  unfold sweepPeriodEnd
  split
  · rfl
  · next u rest hl =>
    refine if_neg ?_
    rcases h with h | h | h | h
    · exact absurd (hl.symm.trans h) (List.cons_ne_nil u rest)
    · simp [h]
    · simp [h]
    · simp [Nat.not_le.2 h]

theorem sweepPeriodEnd_untested (hl : todoNow x = u :: rest) (hr : teaselRuns x = true) (hn : x.tsl.running = true)
    (hp : x.tsl.periodAt ≤ x.clk.up) : sweepPeriodEnd x =
      raise (countErrs { x with tsl.overdue := true, tsl.periodAt := x.tsl.periodAt + sweepPeriod x } (tslBase + 0x48) (rest.length + 1))
        0x0E04 u (encN (rest.length + 1) ++ encN u) := by
  rw [sweepPeriodEnd, hl]
  exact if_pos (by rw [hr, hn, decide_eq_true hp]; rfl)

theorem ends_deadListBurn {t : Nat} {s : State} {unit : Word16} (hx : x = s.advance t) : Ends (.deadListBurn t unit) s
    (if x.phase = .running ∧ x.tsl.burn.contains unit.toNat = true ∧ x.fuses.dead.length < 96 then
      { x with tsl.burn := x.tsl.burn.erase unit.toNat, fuses.dead := x.fuses.dead ++ [unit.toNat] } else x) :=
  ends_of_next rfl (by subst hx; rfl)

end Sweeps

/-- Settles O51: whose turn it is read as a split of the order; each row by its conditions. -/
theorem teaselRows : Obligations.TeaselRows := by
  unfold Obligations.TeaselRows
  intro t s x hx
  simp only [← teaselRuns_iff, ← sweepDue_iff, ← romBad_iff]
  refine ⟨⟨fun hr hn hd => ends_of_act sweepStart rfl hx (sweepStart_due hr hn hd),
      fun h => ends_of_act sweepStart rfl hx (sweepStart_not_due h)⟩, fun unit => ?start,
    fun h => ⟨fun pass sig => ends_of_act (fun s => testRunEnd s pass sig) rfl hx (testRunEnd_idle h),
      ends_of_act bankCopyDone rfl hx (bankCopyDone_idle h)⟩, fun c h => ?runs,
    fun h => ends_of_act sweepPeriodEnd rfl hx (sweepPeriodEnd_idle h),
    fun u rest hl hr hn hp => ends_of_act sweepPeriodEnd rfl hx (sweepPeriodEnd_untested hl hr hn hp), fun unit => ?burn⟩
  case start =>
    have started {y : State} (h : testStart x unit.toNat = y) : Ends (.testStart t unit) s y :=
      ends_of_act (fun s => testStart s unit.toNat) rfl hx h
    refine ⟨unitTurn_iff, fun v => mem_testOrder, fun h => started (testStart_not_turn h), fun ⟨hr, hc, ht⟩ h2 hd => started ?_,
      fun role sp rest ⟨hr, hc, ht⟩ hk hrole hs => started ?_, fun ⟨hr, hc, ht⟩ h1 => ⟨fun r hrole => started ?_, fun hrole => started ?_⟩⟩
    · rw [testStart_turn hr hc ht, testBegin_passedOver, testSpare_of_kind (by omega), testOf, hd]
      exact testHeld_seq h2 ((isDead_passedOver _).trans hd) (congrArg Parse.out parse_passedOver)
    · rw [testStart_turn hr hc ht, testBegin_passedOver, testSpare_of_role hk hrole hs, testHeld_bank hk]
      rfl
    · rw [testStart_turn hr hc ht, testBegin_passedOver, testSpare_of_kind (by omega)]
      exact testHeld_core h1 hrole
    · rw [testStart_turn hr hc ht, testBegin_passedOver, testSpare_of_kind (by omega)]
      exact testHeld_spare_core h1 hrole
  case runs =>
    have run {y : State} {pass : Bool} {sig : Nat} (h' : testRunEnd x pass sig = y) : Ends (.testRunEnd t pass sig) s y :=
      ends_of_act (fun s => testRunEnd s pass sig) rfl hx h'
    have copied {y : State} (h' : bankCopyDone x = y) : Ends (.bankCopyDone t) s y := ends_of_act bankCopyDone rfl hx h'
    refine ⟨fun h0 pass sig => run (testRunEnd_copying h h0), fun hr sig => ?_, fun h0 ht sig => ⟨fun h1 => run (testRunEnd_first_failed h h0 h1),
        fun hr hs => run ((testRunEnd_passed h h0 (eq_false_of_ne_true hr) ht).trans (testPassed_of_none hs)),
        fun hr hs => run ((testRunEnd_passed h h0 (eq_false_of_ne_true hr) ht).trans (testPassed_of_spare hs)),
        fun h1 => run ((testRunEnd_failed h h0 h1 (.inl ht)).trans (testFailed_new ht))⟩,
      fun h0 ht h1 hf sig => run ((testRunEnd_failed h h0 h1 (.inr hf)).trans (testFailed_again ht)),
      fun sp hs => ⟨fun hw h2 => copied (bankCopyDone_waits h hs hw h2), fun role h1 hl hr => copied (bankCopyDone_to_spare h hs h1 hl hr),
        fun h2 hl => copied (bankCopyDone_back h hs h2 hl)⟩⟩
    subst hx
    exact congrArg (fun y => (Host.Outcome.next (settle y) : Host.Outcome State Fault Refusal)) (testRunEnd_of_rom h hr)
  case burn =>
    refine ⟨fun hp hb hl => ends_of_pos (ends_deadListBurn hx) ⟨hp, List.contains_iff_mem.2 hb, hl⟩,
      fun h => ends_of_neg (ends_deadListBurn hx) ?_⟩
    rintro ⟨hp, hb, hl⟩
    rcases h with h | h | h
    · exact h hp
    · exact h (List.contains_iff_mem.1 hb)
    · omega

end Sys2Proof.Machine

/-! Proofs of the statement on the commands of Teasel (R430, R433). -/

namespace Sys2Proof.Machine

section Commands

variable {x : State} {r : Req} {u : Nat}

/-- A bank declared dead: one in service is first copied into a free spare (R427). -/
def declaredBank (x : State) (u : Nat) : Res :=
  let y := abandonTest x (· == u)
  match bankRole y u, freeSpares y u with
  | none, _ => { st := declareDead y u 2 none }
  | some _, [] => { st := x, status := mbxNospace }
  | some role, sp :: _ => { st := declareDead (redirect y role sp) u 2 (some role) }

theorem declaredBank_of_idle (h : bankRole (abandonTest x (· == u)) u = none) :
    declaredBank x u = { st := declareDead (abandonTest x (· == u)) u 2 none } := by
  simp only [declaredBank, h]

theorem declaredBank_of_no_spare (h : (bankRole (abandonTest x (· == u)) u).isSome = true)
    (hs : freeSpares (abandonTest x (· == u)) u = []) : declaredBank x u = { st := x, status := mbxNospace } := by
  obtain ⟨role, h⟩ := Option.isSome_iff_exists.1 h
  simp only [declaredBank, h, hs]

theorem declaredBank_of_spare {role sp : Nat} {rest : List Nat} (h : bankRole (abandonTest x (· == u)) u = some role)
    (hs : freeSpares (abandonTest x (· == u)) u = sp :: rest) :
    declaredBank x u = { st := declareDead (redirect (abandonTest x (· == u)) role sp) u 2 (some role) } := by
  simp only [declaredBank, h, hs]

/-- The state with unit `u` off the list: its fuse entry marked REINSTATED. -/
def struckOff (x : State) (u : Nat) : State :=
  let y := abandonTest x (· == u)
  { y with fuses.dead := y.fuses.dead.map (fun e => if e = u then u + 65536 else e), tsl.dead := tdel y.tsl.dead u }

/-- The unit takes its place again (R430). -/
def reinstated (y : State) (u : Nat) : State :=
  match unitKind u with
  | 1 => giveSpare y u
  | 2 => { y.fenceTake u (.seq (unitIdx u)) with parse.dead := y.parse.dead.filter (· != unitIdx u) }
  | _ => y

theorem reinstated_core {y : State} (h : u / 4096 = 1) : reinstated y u = giveSpare y u := by
  simp only [reinstated, unitKind, h]

theorem reinstated_seq {y : State} (h : u / 4096 = 2) : reinstated y u =
    { y.fenceTake u (.seq (u % 4096)) with parse.dead := y.parse.dead.filter (· != u % 4096) } := by
  simp only [reinstated, unitKind, unitIdx, h]

theorem reinstated_bank {y : State} (h : 3 ≤ u / 4096) : reinstated y u = y := by
  unfold reinstated unitKind
  split
  · omega
  · omega
  · rfl

theorem teaselStatusCmd_of_empty (hb : r.body = []) : teaselStatusCmd x r =
    { st := x, out := encN x.tsl.sweep ++ encN x.tsl.tested ++ encN ((x.tsl.cur.map UnitTest.unit).getD 0) ++ encN (x.tsl.lastMs * 1000000)
        ++ x.tsl.dead.flatMap (fun d => encN d.1 ++ encN d.2.role ++ encN d.2.passes) } :=
  if_pos (bodyIs_zero hb)

section Unit

variable (hb : r.body.length = 8)
include hb

theorem teaselTestCmd_unknown (hk : ¬ unitKnown (num r 0) = true) : teaselTestCmd x r = { st := x, status := mbxInvalid, arg := 1 } :=
  (if_neg (not_misSized hb)).trans (if_pos (by rw [Bool.not_eq_true', ← Bool.not_eq_true]; exact hk))

theorem teaselDeclareCmd_unknown (hk : ¬ unitKnown (num r 0) = true) :
    teaselDeclareCmd x r = { st := x, status := mbxInvalid, arg := 1 } :=
  (if_neg (not_misSized hb)).trans (if_pos (by rw [Bool.not_eq_true', ← Bool.not_eq_true]; exact hk))

variable (hk : unitKnown (num r 0) = true)
include hk

/-- TEASEL_TEST puts the unit at the head of what is asked for, and of the sweep that holds it. -/
theorem teaselTestCmd_known : teaselTestCmd x r =
    if teaselOn x = false then { st := x, status := mbxState }
    else { st := { x with
      tsl.asked := num r 0 :: x.tsl.asked.filter (· != num r 0)
      tsl.todo := if num r 0 ∈ x.tsl.todo then num r 0 :: x.tsl.todo.filter (· != num r 0) else x.tsl.todo } } := by
  refine (if_neg (not_misSized hb)).trans ((if_neg (by rw [hk]; exact Bool.false_ne_true)).trans ?_)
  simp only [fails, done, Bool.not_eq_true', List.contains_iff_mem]

theorem teaselDeclareCmd_known : teaselDeclareCmd x r =
    if isDead x (num r 0) = true ∨ (num r 0 / 4096 = 2 ∧ lastSeq x (num r 0 % 4096) = true) then { st := x, status := mbxState }
    else if num r 0 / 4096 ≤ 2 then { st := declareDead (abandonTest x (· == num r 0)) (num r 0) 2 none }
    else declaredBank x (num r 0) :=
  (if_neg (not_misSized hb)).trans (if_neg (by rw [hk]; exact Bool.false_ne_true))

/-- A unit reinstated: its one list entry is ready, and a bank finds room among the spares. -/
theorem teaselReinstateCmd_known : teaselReinstateCmd x r =
    if x.fuses.dead.filter (fun e => e % 65536 == num r 0) ≠ [num r 0] ∨ (tget x.tsl.dead (num r 0) { role := 0 }).passes < 16 then
      { st := x, status := mbxState }
    else if 3 ≤ num r 0 / 4096 ∧ (if num r 0 / 4096 = 4 then 4 else 1) ≤ (freeSpares x (num r 0)).length then
      { st := x, status := mbxNospace }
    else { st := raise (reinstated (struckOff x (num r 0)) (num r 0)) 0x0E05 (num r 0)
             (encN (num r 0) ++ encN (if num r 0 / 4096 = 2 then num r 0 % 4096 else 0xFFFF)) } :=
  (if_neg (not_misSized hb)).trans (if_neg (by rw [hk]; exact Bool.false_ne_true))

end Unit

end Commands

/-- Settles O53: each command by its conditions in order. -/
theorem teaselCommands : Obligations.TeaselCommands := by
  unfold Obligations.TeaselCommands
  intro t s x r slot
  refine ⟨fun ht hb => answers_of_result rfl ht (teaselStatusCmd_of_empty hb), fun hb hk => ?unknown, fun ht hb hk => ?test,
    fun ht hb hk => ?declare, fun ht hb hk => ?reinstate, fun ht hb => answers_of_result rfl ht (if_pos (bodyIs_zero hb))⟩
  case unknown =>
    simp only [List.forall_mem_cons, List.not_mem_nil, false_implies, implies_true, and_true]
    exact ⟨fun ht => answers_of_result rfl ht (teaselTestCmd_unknown hb hk), fun ht => answers_of_result rfl ht (teaselDeclareCmd_unknown hb hk)⟩
  case test =>
    have h := teaselTestCmd_known (x := x) hb hk
    exact ⟨fun hoff => answers_of_result rfl ht (h.trans (if_pos hoff)),
      fun hon => answers_of_result rfl ht (h.trans (if_neg (by rw [hon]; decide)))⟩
  case declare =>
    have h := teaselDeclareCmd_known (x := x) hb hk
    have hbank (hr : ¬ (isDead x (num r 0) = true ∨ (num r 0 / 4096 = 2 ∧ lastSeq x (num r 0 % 4096) = true)))
        (h3 : 3 ≤ num r 0 / 4096) : teaselDeclareCmd x r = declaredBank x (num r 0) :=
      h.trans ((if_neg hr).trans (if_neg (Nat.not_le.2 h3)))
    exact ⟨fun hr => answers_of_result rfl ht (h.trans (if_pos hr)),
      fun hr h2 => answers_of_result rfl ht (h.trans ((if_neg hr).trans (if_pos h2))),
      fun hr h3 hrole => answers_of_result rfl ht ((hbank hr h3).trans (declaredBank_of_idle hrole)),
      fun hr h3 hrole hs => answers_of_result rfl ht ((hbank hr h3).trans (declaredBank_of_no_spare hrole hs)),
      fun role sp rest hr h3 hrole hs => answers_of_result rfl ht ((hbank hr h3).trans (declaredBank_of_spare hrole hs))⟩
  case reinstate =>
    have h := teaselReinstateCmd_known (x := x) hb hk
    have hready (hr : x.fuses.dead.filter (fun e => e % 65536 == num r 0) = [num r 0]
        ∧ 16 ≤ (tget x.tsl.dead (num r 0) { role := 0 }).passes) := h.trans (if_neg (by
      rintro (hne | hlt)
      · exact hne hr.1
      · omega))
    refine ⟨fun hr => answers_of_result rfl ht (h.trans (if_pos ?_)), fun hr h1 => answers_of_result rfl ht ?_,
      fun hr h2 => answers_of_result rfl ht ?_, fun hr h3 hs => answers_of_result rfl ht ((hready hr).trans (if_pos ⟨h3, hs⟩)),
      fun hr h3 hs => answers_of_result rfl ht ?_⟩
    · rwa [not_and_or, Nat.not_le] at hr
    · rw [hready hr, if_neg (by omega), reinstated_core h1, if_neg (by omega)]
      rfl
    · rw [hready hr, if_neg (by omega), reinstated_seq h2, if_pos h2]
      rfl
    · rw [hready hr, if_neg (fun h => absurd h.2 (Nat.not_le.2 hs)), reinstated_bank h3, if_neg (by omega)]
      rfl

end Sys2Proof.Machine
